-- ==== Sys2Proof/Word.lean ====
section
/-!
DEFINITION. The register word, its bit fields, and the sparse store (a list of key and value pairs in one canonical form)
that holds every repeated piece of state.
-/
namespace Sys2Proof

/-- A register word (R42: every register is 32 bits wide). -/
abbrev W32 := BitVec 32

/-- A byte. -/
abbrev Byte := BitVec 8

/-- The word with ones in bits lo to lo + w - 1. -/
def maskOf (lo w : Nat) : W32 := (BitVec.allOnes 32 >>> (32 - w)) <<< lo

/-- The value of bits lo to lo + w - 1. -/
def getBits (x : W32) (lo w : Nat) : Nat := (x >>> lo).toNat % 2 ^ w

/-- The word with bits lo to lo + w - 1 replaced by the low w bits of v. -/
def setBits (x : W32) (lo w v : Nat) : W32 :=
  (x &&& ~~~(maskOf lo w)) ||| ((BitVec.ofNat 32 v <<< lo) &&& maskOf lo w)

/-- A value read as a signed number of w bits. -/
def toSigned (w v : Nat) : Int := if v % 2 ^ w < 2 ^ (w - 1) then (v % 2 ^ w : Nat) else (v % 2 ^ w : Nat) - (2 ^ w : Nat)

/-- The w-bit two's complement pattern of a number. -/
def ofSigned (w : Nat) (x : Int) : Nat := (x % (2 ^ w : Nat)).toNat

/-- A signed number held within w bits, saturating. -/
def satSigned (w : Nat) (x : Int) : Int := max (-(2 ^ (w - 1) : Nat)) (min x ((2 ^ (w - 1) : Nat) - 1))

/-- The quotient n / d rounded to nearest, ties to even (R31, R33). -/
def roundDiv (n : Int) (d : Nat) : Int :=
  let q := n.fdiv d
  let r := n.fmod d
  if 2 * r < d then q else if 2 * r > d then q + 1 else if q % 2 = 0 then q else q + 1

/-- A sparse store: pairs of key and value. Its canonical form has rising keys and no entry equal to the default. -/
abbrev Store (α : Type) := List (Nat × α)

/-- The first entry at a key. -/
def Store.find {α : Type} (k : Nat) : Store α → Option α
  | [] => none
  | (j, v) :: t => if k = j then some v else Store.find k t

/-- The value at a key: the entry, or the default of that key. -/
def Store.get {α : Type} (d : Nat → α) (l : Store α) (k : Nat) : α := (Store.find k l).getD (d k)

/-- An entry placed in key order, in place of the entry at its key. -/
def Store.insert {α : Type} (k : Nat) (v : α) : Store α → Store α
  | [] => [(k, v)]
  | (j, w) :: t =>
    if k < j then (k, v) :: (j, w) :: t
    else if k = j then (k, v) :: t
    else (j, w) :: Store.insert k v t

/-- The store without the entries at a key. -/
def Store.erase {α : Type} (k : Nat) : Store α → Store α
  | [] => []
  | (j, w) :: t => if k = j then Store.erase k t else (j, w) :: Store.erase k t

/-- A write: the default value removes the entry, so that equal contents are equal lists. -/
def Store.put {α : Type} [DecidableEq α] (d : Nat → α) (k : Nat) (v : α) (l : Store α) : Store α :=
  if v = d k then Store.erase k l else Store.insert k v l

/-- The canonical form: keys strictly rising, no entry equal to the default of its key. -/
abbrev Store.Wf {α : Type} (d : Nat → α) (l : Store α) : Prop :=
  l.Pairwise (fun a b => a.1 < b.1) ∧ ∀ e ∈ l, e.2 ≠ d e.1

end Sys2Proof
end

