-- ==== Sys2Proof/Syntax.lean ====
section
/-!
DEFINITION. The commands of the block: one constructor of Instr for each row of the opcode table, with the operands that the
row's rule names. A write command carries the access that makes it and the word written; an event carries what the outside
world delivers with it.
-/
namespace Sys2Proof

/-- Who makes an access (R50, R51, R414): the Catwalk master ID, and the privilege a Crew core signals with the request. For
the Twin Link agent sup is the privilege of the originating access on the Lead. -/
structure Acc where
  m : Nat
  sup : Bool
  deriving DecidableEq, Repr

/-- What meets a read of a clear-on-read counter in the same cycle of the page's clock (R52): nothing, an increment of so much,
or a snapshot of the page. -/
inductive RcClash | none | increment (n : Nat) | snapshot
  deriving DecidableEq, Repr

/-- A hardware error that meets a software access in the same cycle (R52): its code, access type, master and address. -/
structure HwErr where
  code : Nat
  access : Fin 16
  master : Fin 256
  addr : Nat
  deriving DecidableEq, Repr

/-- An upset of one stored bit, seen by the next check pass (R60, R63): the register's offset, the bit, and whether the live
copy of a staged field is hit rather than the stored register. -/
structure Upset where
  off : Nat
  bit : Nat
  live : Bool
  deriving DecidableEq, Repr

/-- A picture format (R87, R88, R129, R513): the frame rate code of FMT.rate, the lines per frame of the whole picture, active
pixels per line of the whole picture, interlace, and the bits per pixel class (0 4:2:2 10-bit, 1 4:4:4 or RGB 10-bit,
2 4:4:4 or RGB 12-bit); for a picture that R513's table does not list, the interface rate its payload ID names, in units of
1.485 Gb/s, and zero for every other. -/
structure Fmt where
  rate : Nat
  lines : Nat
  px : Nat
  intl : Bool
  samp : Nat
  iface : Nat := 0
  deriving DecidableEq, Repr

/-- The structure that the deframer measures of a link over a frame (R87): the words from each EAV to the next, the word of the SAV
after the EAV, the lines, and the picture it amounts to. -/
structure Measured where
  words : Nat
  sav : Nat
  lines : Nat
  fmt : Fmt
  deriving DecidableEq, Repr

/-- A decision the Lead journals (R355). -/
inductive Decision where
  | write (addr : Nat) (data : W32) (sup : Bool)
  | commit (page : Option Nat)
  | take (tap rail : Nat) (bkwy : Bool) (point : Nat) (cls : Nat) (unit : Option Nat)
  | dispatch (salvo : Nat) (tag : Nat)
  | platform (rail : Nat) (aligned : Bool)
  | sync (unit frame : Nat)
  | flip (pro group : Nat)
  | pitSlip (input : Nat) (rep : Bool)
  | pitTake (output input : Nat)
  | tdm (port kind slots pos : Nat)
  | gpi (input : Nat)
  | pathCheck (dest frame : Nat)
  | swap
  deriving DecidableEq, Repr

/-- A take waiting at the Pit (R276): its place in the order of arming, its output, the input it selects, its target, the uptime from which it may land, whether
it is late, and whether it is a direct take. -/
structure PitTake where
  seq : Nat
  out : Nat
  src : Option Nat
  target : Nat
  ready : Nat
  late : Bool
  direct : Bool
  deriving DecidableEq, Repr

/-- A take armed at a tap (R168 to R180): its place in the order of arming, its rail, breakaway, target, the uptime from which
it may land, whether it is late, how the rail was classified (0 absent or no source, 1 on platform, 3 cut off platform, 4
auto-sync), the claimed unit of an auto-sync take, the dispatched salvo it belongs to, and the lines per frame and the switching
line it was armed for (line 0: it switches at the frame start). -/
structure Take where
  seq : Nat
  rail : Nat
  bkwy : Bool
  target : Nat
  ready : Nat
  late : Bool
  cls : Nat
  unit : Option Nat
  salvo : Option Nat
  lines : Nat
  line : Nat
  deriving DecidableEq, Repr

/-- An entry pending in the cue sheet (R189): kind, target (uptime, or time of day in cues), salvo, strict, tag. -/
structure CueEnt where
  kind : Nat
  target : Nat
  salvo : Nat
  strict : Bool
  tag : Nat
  deriving DecidableEq, Repr

/-- A dispatched salvo whose pairs have not all landed or been refused (R192): its number, tag, dispatch uptime, pairs still
armed, the pairs the Lead has not yet decided (in the Understudy), pairs refused, the first refused tap, whether a
pair was late, whether strict refused it, and whether its entry was strict. -/
structure Salvo where
  id : Nat
  tag : Nat
  upt : Nat
  left : Nat
  todo : List W32
  nref : Nat
  tap : Nat
  late : Bool
  strict : Bool
  hard : Bool := false
  deriving DecidableEq, Repr

/-- One item of a state transfer (R359); the coding of its words is not given (log entry 96). Uptimes in it are times of day in
whole cues. A mirrored register with its staging and live copy; a word of a table (0 receive, 1 transmit flows, 2 Pit,
3 coefficients) with both copies; a word of salvo memory; a tap's selection and an armed take; a Pit output's selection and a
pending take; an entry of the cue sheet and a dispatched salvo; a Platform's source state with its last format; a
synchroniser's state, claim (group, units) and next frame number; a flip group's bank, whether it is armed, and the fence of
its last flip; the cut instant C, with which the transfer ends. -/
inductive XferItem where
  | word (addr : Nat) (stage live : W32)
  | table (t idx : Nat) (stage live : W32)
  | salvoWord (idx : Nat) (w : W32)
  | select (tap rail : Nat)
  | take (tap : Nat) (k : Take)
  | pitSelect (out : Nat) (src : Option Nat)
  | pitTake (k : PitTake)
  | cueEnt (e : CueEnt)
  | salvo (v : Salvo)
  | plat (rail st : Nat) (last : Option Fmt)
  | syn (unit st : Nat) (claim : Option Nat) (width next : Nat)
  | flip (pro group bank : Nat) (pend : Bool) (fence : Nat)
  | cut (at_ : Nat)
  deriving DecidableEq, Repr

/-- A heartbeat (R354, R360): claim, whether time of day is valid, role, highest sequence received in order; the launch time, and
the twin's launch time of its last heartbeat with the sender's receive time of it; times of day in 2^-30 cue. -/
structure Heartbeat where
  claim : W32
  todValid : Bool
  role : Nat
  inOrder : Nat
  launch : Nat
  echo : Option (Nat × Nat)
  deriving DecidableEq, Repr

/-- The body of a Twin Link message (R354). The apply time of a journal entry is a time of day in whole cues. -/
inductive TwinBody where
  | heartbeat (h : Heartbeat)
  | journal (claim : W32) (apply : Nat) (d : Decision)
  | signatures (frame : Nat) (sigs : List (Nat × W32))
  | pathResult (dest frame : Nat) (pass inputDiff : Bool)
  | snapData (offset : Nat) (data : List (BitVec 64))
  | state (items : List XferItem)
  | retransmit (first : Nat)
  | versions (words : List (BitVec 64))
  deriving DecidableEq, Repr

/-- A Twin Link message with its sequence number. -/
structure TwinMsg where
  seq : Nat
  body : TwinBody
  deriving DecidableEq, Repr

/-- A row of a live source that has ended on a layer's tap (R229, R249): the rail of the source's gang that brought it, its row number
there, the uptime at which it ended, and its pixels as c0, c1, c2. -/
structure LiveRow where
  rail : Nat
  row : Nat
  upt : Nat
  px : List (Nat × Nat × Nat)
  deriving DecidableEq, Repr

/-- What reaches a layer by a line (R240, R249): the rows that have ended on its tap since the line before, newest first (live), and the
addresses of the surface granules that had not arrived, and of those that the DRAM read with an uncorrectable error. -/
structure LayIn where
  rows : List LiveRow
  late : List Nat
  bad : List Nat
  deriving DecidableEq, Repr

/-- A ST 291-1 ancillary packet: its line, data stream and space, its DID and SDID as 10-bit words, and all its words (R95). -/
structure AncPkt where
  line : Nat
  stream : Nat
  vanc : Bool
  did : Nat
  sdid : Nat
  data : List Nat
  deriving DecidableEq, Repr

/-- The ECC verdict of an audio data packet (R99). -/
inductive Ecc | good | fixed | bad
  deriving DecidableEq, Repr

/-- What a packet says, as its own standard codes it: a payload ID; a timecode word with its type (R102); samples of a group as
channel of the link and sample word (bits 27 to 0 of R270), with the uptime of the sample at the deframer; an audio control
packet's group, and whether its rate is 48 or 96 kHz and synchronous. -/
inductive AncBody where
  | payloadId (pid : W32)
  | timecode (word : BitVec 64) (type : Nat)
  | audio (samples : List (Nat × Nat)) (stamp : Nat) (ecc : Ecc)
  | control (group : Nat) (sync : Bool)
  | other
  deriving DecidableEq, Repr

/-- An EDH packet as checked (R93, R94): mismatches of the active-picture and full-field CRCs, the flags received (as
RXF_STAT.edh_flags holds them), and the flag groups that held edh or eda. -/
structure Edh where
  apBad : Bool
  ffBad : Bool
  flags : Nat
  held : Nat
  deriving DecidableEq, Repr

/-- What a line carries to be checked (R92, R93): the line number embedded in it, whether a line CRC of a stream fails, and the EDH
packet in it. -/
structure LineBody where
  num : Nat := 0
  crcBad : Bool := false
  edh : Option Edh := none
  deriving DecidableEq, Repr

/-- A line as the deframer of a lane receives it (R87, R92, R93): whether its timing references begin a frame, and then the picture
that the structure of the frame before amounts to (log entry 191); the words from the place of the EAV before (where the
established timing has it, or where it was received) to its EAV, and from there to its SAV; and what it carries. -/
structure SdiLine extends LineBody where
  ended : Option Fmt := none
  eav : Nat
  sav : Nat
  deriving DecidableEq, Repr

/-- The bits that the checker of a lane received last, oldest first (R78). -/
structure CheckedBits where
  lane : Fin 512
  bits : List Bool
  deriving DecidableEq, Repr

/-- When a frame of the Crew is sent: the cue of the present TICK; and the master whose read of ETH_TSQ_POP meets its stamp in one
cycle (R122). -/
structure CrewSlot where
  cue : Fin 16
  pop : Option Acc := none
  deriving DecidableEq, Repr

/-- A reference input, and for a REFIN pin whether the edge rises (R302). -/
structure RefEdge where
  input : Fin 10
  rising : Bool
  deriving DecidableEq, Repr

/-- What a PLL's detector has measured (R322): the last phase error, as PLL_ERR holds it, and how many measurements in a row lie
on its side of the window. -/
structure PllMeasure where
  err : W32
  cycles : Nat
  deriving DecidableEq, Repr

/-- A frame heard in slot 0: its bytes from the header on; and the master whose read of CB_BSQ_POP meets its queue entry in one cycle
(R339). -/
structure BeaconIn where
  bytes : List Byte
  pop : Option Acc := none
  deriving DecidableEq, Repr

/-- The words free for ancillary packets in a line of an output frame (R96), by space, data stream and line. -/
structure AncRoom where
  vanc : Bool
  stream : Nat
  line : Nat
  words : Nat
  deriving DecidableEq, Repr

/-- What a DRAM request does within its granule (R376, R393, R415): read so many bytes (fetch: an instruction fetch), write bytes
with byte enables (none: not enabled), or perform an atomic of the master's choice. -/
inductive DramOp where
  | read (n : Nat) (fetch : Bool)
  | write (data : List (Option Byte))
  | atomic (op : Nat) (data : List Byte)
  deriving DecidableEq, Repr

/-- How a command reaches the Stage Manager (R475, R481): a master writes it to the doorbell, a privileged master writes it to
UPD_CMD, or it was written there before. -/
inductive CmdSrc where
  | doorbell (a : Acc)
  | update (a : Acc)
  | posted
  deriving DecidableEq, Repr

/-- What the training of a DRAM device found (R383): its density (24 Gb), and the edges of its read and write eyes in steps of
1/64 UI, from 0 to 127. -/
structure BootDev where
  dens : Bool := false
  rdL : Fin 128 := 0
  rdR : Fin 128 := 0
  wrL : Fin 128 := 0
  wrR : Fin 128 := 0
  deriving DecidableEq, Repr

/-- What the start-up sequence meets (R463 to R467): whether the fuse pattern is that of a lifecycle state; whether the board
table, the DRAM layout and the repair area are usable; the timing words of the layout; the repair records whose CRC is bad and
the row records whose hard repair a device refuses, by position in the repair area; the devices, at 10 × channel + device; the
words of the board table by BAR0 address; and how many TICKs each part takes: the PLLs other than the cue PLL, step 3, step 4,
training, hard repairs, the fill, and classes S, M and C. -/
structure BootIn where
  fusesOk : Bool := true
  boardOk : Bool := true
  layoutOk : Bool := true
  repairsOk : Bool := true
  tims : List W32 := []
  badRecs : List Nat := []
  refused : List Nat := []
  devs : List BootDev := []
  board : List (Nat × W32) := []
  tPll : Nat := 0
  tRep : Nat := 0
  tLinks : Nat := 0
  tTrain : Nat := 0
  tHard : Nat := 0
  tFill : Nat := 0
  tS : Nat := 0
  tM : Nat := 0
  tC : Nat := 0
  deriving DecidableEq, Repr

/-- The commands. -/
inductive Instr where
  -- Register pages (R42 to R64)
  | registerWrite (a : Acc) (addr : Nat) (bytes : List Byte) (hw : Option W32)
  | unmappedAccess (a : Acc) (addr : Nat) (isWrite : Bool)
  | rcCounterRead (a : Acc) (addr : Nat) (clash : RcClash)
  | irqForceWrite (a : Acc) (page : Nat) (word : W32) (hw : Option HwErr)
  | ferrRelease (a : Acc) (page : Nat) (clash : Option HwErr)
  | softReset (a : Acc) (page : Nat)
  | softResetDone (page : Nat)
  | pageSnapshot (a : Acc) (page : Nat) (merged : Bool)
  | snapallArm (a : Acc)
  | snapallNow (a : Acc)
  | snapallTarget
  | snapallDone
  | pageCommit (a : Acc) (page : Nat)
  | deviceCommit (a : Acc)
  | commitApply (page : Nat) (slot : Nat)
  | cfgCrcPass (page : Nat) (upsets : List Upset)
  | parityModeSet (a : Acc) (page : Nat) (on : Bool)
  | parityCheckPass (page : Nat) (upsets : List Upset)
  -- Cue clock (R26 to R39)
  | uptimeLatchRead (a : Acc)
  | todLatchRead (a : Acc)
  | todTick
  | todStepRequest (a : Acc) (word : W32)
  | todSteerWrite (a : Acc) (word : W32) (hw : Bool)
  -- Video serial lanes (R65 to R86, R327)
  | rxSleepWrite (a : Acc) (lane : Fin 512) (word : W32) (hw : Bool)
  | rxWakeDone (lane : Fin 512)
  | signalDetectRise (lane : Fin 512)
  | signalDetectFall (lane : Fin 512)
  | rxRateChange (lane : Fin 512)
  | huntDwellExpire (lane : Fin 512)
  | rxLock (lane : Fin 512)
  | rxLockLoss (lane : Fin 512)
  | txSleepWrite (a : Acc) (lane : Fin 512) (word : W32)
  | txWakeDone (lane : Fin 512)
  | txRateChange (lane : Fin 512)
  | rxPatternWrite (a : Acc) (lane : Fin 512) (word : W32)
  | txPatternWrite (a : Acc) (lane : Fin 512) (word : W32)
  | checkerSync (got : CheckedBits)
  | checkerSyncLoss (lane : Fin 512) (errs : Nat)
  | injectSingle (a : Acc) (isTx : Bool) (lane : Fin 512)
  | injectRateSet (a : Acc) (isTx : Bool) (lane : Fin 512) (word : W32)
  | rxHandover (lane : Fin 512) (matched : Bool)
  | txHandover (lane : Fin 512) (inPhase : Bool)
  | laneSwapRequest (a : Acc) (isTx : Bool) (lane : Fin 512)
  | txPhaseWrite (a : Acc) (lane : Fin 512) (word : W32)
  | txPhaseStep (lane : Fin 512)
  -- SDI framing (R87 to R104)
  | formatEstablished (lane : Fin 512) (pic : Fmt) (links frames : Nat) (cue : Fin 16)
  | formatLost (lane : Fin 512) (links : Nat)
  | sdiLineReceived (lane : Fin 512) (ended : Option Fmt) (eav sav : Nat) (body : LineBody) (cue : Fin 16)
  | ancPacketReceived (lane : Fin 512) (pkt : AncPkt) (body : AncBody) (sumOk : Bool) (lineUpt : Nat)
  | timecodeLatchRead (a : Acc) (lane : Fin 512)
  | formatterFrameStart (tap : Fin 512) (cue : Fin 16) (room : List AncRoom)
  -- Media Ethernet (R107 to R122)
  | ethFrameReceived (lp : Fin 64) (stamp : Nat) (data : List Byte) (fcsOk : Bool) (fecCorr fecUncorr : Nat)
  | linkUp (lp : Fin 64)
  | linkDown (lp : Fin 64) (hiSer : Bool)
  | txRingHeadWrite (a : Acc) (port : Fin 16) (word : W32)
  | ringIndexWrite (a : Acc) (port : Fin 16) (ctl : Bool) (word : W32)
  | crewFrameTransmit (port : Fin 16) (slot : CrewSlot)
  | tsqPop (a : Acc) (port : Fin 16)
  | twiCommand (a : Acc) (port : Fin 16) (word : W32)
  | twiDone (port : Fin 16) (ack : Bool) (data : List Byte)
  | moduleInterrupt (port : Fin 16) (low present : Bool)
  -- IP media flows (R126 to R146)
  | flowPacketRelease (e : Fin 8192) (bad : Option Nat)
  | flowLossTimeout (e : Fin 8192)
  | flowLoad (a : Acc) (isTx : Bool) (word : W32)
  | flowStore (a : Acc) (isTx : Bool) (word : W32)
  | windowOpDone (page : Fin 3)
  | flowTableCrcPass (isTx : Bool) (upsets : List (Nat × Nat))
  | flowPacketTransmit (e : Fin 8192) (pathB : Bool) (n : Nat) (payload : List Byte) (cue : Fin 16)
  -- Platforms (R149 to R166)
  | sourceFrameReady (rail : Fin 2048) (cue : Fin 16)
  | railFrameStart (rail : Fin 2048)
  | holdFrameStart (rail : Fin 2048)
  | railLineRelease (rail : Fin 2048) (field : Fin 2) (pix : List (Option Nat)) (late : Bool) (sram : Option Nat)
  | groupRegrid (g : Fin 16)
  -- The Turntable (R167 to R205)
  | tapTakeWrite (a : Acc) (tap : Fin 2560) (word : W32) (clash : Bool)
  | takeLand (tap : Fin 2560) (cue : Fin 16)
  | salvoMemoryWrite (a : Acc) (word : W32)
  | salvoMemoryRead (a : Acc)
  | cueSubmit (a : Acc) (word : W32)
  | cueDispatch (bad : Bool)
  | cueResultPop (a : Acc)
  | cueCancel (a : Acc) (word : W32)
  | gpiActive (n : Fin 16)
  | gpiInactive (n : Fin 16)
  | gpiRearm (n : Fin 16)
  | gpiChatterEnd (n : Fin 16)
  -- Frame synchronisers (R206 to R223)
  | syncInputFrame (unit : Fin 256) (cue : Fin 16)
  | syncDecision (unit : Fin 256)
  | syncOutputFrameStart (unit : Fin 256) (missing : List Nat) (bad : List Nat)
  -- Prosceniums (R224 to R263)
  | proFrameStart (p : Fin 32)
  | proLineCompose (p : Fin 32) (layers : List LayIn)
  | flipArm (a : Acc) (p : Fin 32) (g : Fin 4)
  | flipDecision (p : Fin 32)
  | captureDone (p : Fin 32)
  | captureAbandon (p : Fin 32)
  | coefLoad (a : Acc) (p : Fin 32)
  | coefStore (a : Acc) (p : Fin 32)
  -- The Pit (R264 to R285)
  | pitSampleInstant (smem : List Nat) (dly : List (Nat × Nat))
  | pitRegrid
  | pitTakeSubmit (a : Acc) (word : W32)
  | pitTakeLand (out : Fin 65536)
  | crossfadeEnd (out : Fin 65536)
  | transparentCut (out : Fin 65536)
  | pitWindowLoad (a : Acc)
  | pitWindowStore (a : Acc)
  | pitTableCrcPass
  -- TDM audio ports (R286 to R300)
  | tdmFrameReceived (port : Fin 16) (sync : Nat) (bits : Nat) (slots : List W32)
  | tdmFrameTransmit (port : Fin 16) (cue : Fin 16)
  | tdmRateMeasure (port : Fin 16)
  | tdmRangeReenter (port : Fin 16)
  | tdmTriggerGo (a : Acc)
  | tdmTriggerStart
  | tdmChannelEnableWrite (a : Acc) (port : Fin 16) (isTx : Bool) (word : W32)
  | tdmZxTimeout (port : Fin 16) (isTx : Bool) (slot : Fin 32)
  | tdmRampComplete (port : Fin 16) (isTx : Bool) (slot : Fin 32)
  -- References (R301 to R316)
  | referenceEvent (edge : RefEdge) (upt m q : Nat)
  | refPtpSubmit (a : Acc) (inst : Fin 2)
  | monitorInstant
  | refActivityLoss (input : Fin 10)
  | refOverRangeExit (input : Fin 10)
  | loopUpdate
  | holdoverSecond
  -- Clock synthesis and phase control (R317 to R329)
  | pllLock (n : Fin 26) (got : PllMeasure)
  | pllLockLoss (n : Fin 26) (got : PllMeasure)
  | pllBypassDone (n : Fin 26)
  | holdBypassWrite (a : Acc) (word : W32)
  | pllBypassReturnWrite (a : Acc) (n : Fin 26)
  | pllBypassReturn (n : Fin 26)
  | clkManWrite (a : Acc) (word : W32)
  | pllPhaseTargetWrite (a : Acc) (n : Fin 26) (word : W32)
  | pllPhaseStep (n : Fin 26)
  -- The Call Bus (R330 to R346)
  | callCycleStart (edge : Fin 53)
  | callSlotStart (slot : Fin 40)
  | callBeaconReceived (start : Nat) (codeError : Bool) (frame : BeaconIn)
  | callFrameReceived (start : Nat) (codeError : Bool) (bytes : List Byte)
  | callSilentCycle
  | callCollision (slot : Fin 40)
  | beaconQueuePop (a : Acc)
  -- Lead and Understudy (R347 to R371)
  | claimBurst (cue : Fin 16)
  | claimBurstReceived (bits : BitVec 48)
  | claimBurstMissing
  | prefLeadTimeout
  | leadNow (a : Acc)
  | pairRejoin (a : Acc)
  | pairSwapWrite (a : Acc)
  | swapInstant
  | heartbeatSend
  | heartbeatReceived (seq : Nat) (crcOk : Bool) (ago : Fin 16) (h : Heartbeat)
  | heartbeatTimeout
  | journalReceived (seq : Nat) (crcOk : Bool) (claim : W32) (apply : Nat) (d : Decision)
  | journalApply (bad : Bool)
  | signaturesReceived (seq : Nat) (crcOk : Bool) (frame : Nat) (sigs : List (Nat × W32))
  | frameSignature (dest : Fin 2048) (samples audio : List Nat)
  | signatureDeadline (dest : Fin 2048)
  | pathCheckDone (dest : Fin 2048) (differs inputDiff : Bool)
  | pathCheckResultReceived (seq : Nat) (crcOk : Bool) (dest frame : Nat) (pass inputDiff : Bool)
  | pathCheckResultTimeout (dest : Fin 2048)
  | stateTransferReceived (seq : Nat) (crcOk : Bool) (items : List XferItem) (versions : Option (List (BitVec 64)))
  | stateTransferCut
  | snapshotDataReceived (seq : Nat) (crcOk : Bool) (offset : Nat) (data : List (BitVec 64))
  | retransmitRequestReceived (seq : Nat) (crcOk : Bool) (first : Nat)
  | twinLaneFail (lane : Fin 8)
  | snapshotCopy
  | snapshotCopyDone
  | twinLinkUp (lanes : BitVec 8)
  -- DRAM channels and data protection (R372 to R409)
  | dramRequest (req addr : Nat) (op : DramOp) (noise : List (Nat × Nat)) (issue : Nat)
  | dramReadComplete (ch : Fin 8) (noise : List (Nat × Nat)) (issue : Nat)
  | rhWindowBoundary (ch : Fin 8)
  | dramRefreshDue (ch : Fin 8)
  | dramTempPoll (ch : Fin 8) (hot : Bool)
  | pageIdleClose (ch : Fin 8) (bank : Fin 32)
  | pageStarveClose (ch : Fin 8) (bank : Fin 32)
  | writeDrainAge (ch : Fin 8)
  | dramDriftTrack (ch : Fin 8) (want : List Int)
  | retireWrite (a : Acc) (ch : Fin 8) (word : W32) (auto : Option (Fin 10))
  | devceWindowStart (ch : Fin 8)
  | pprGo (a : Acc) (ch : Fin 8) (word : W32)
  | pprDone (ch : Fin 8) (spare : Bool) (noise : List (Nat × Nat × Nat))
  | scrubDue (ch : Fin 8) (guaranteed : Bool)
  | sramReadError (mac index req access err : Nat) (wrote : Bool)
  | sramPatrol (mac index err : Nat) (wrote written : Bool)
  | sramRepairApply (a : Acc) (word : W32) (outOfService : Bool)
  | sramFlipArm (a : Acc) (word : W32)
  | dramFlipArm (a : Acc) (ch : Fin 8) (word : W32)
  -- Processors, Catwalk and host (R410 to R423)
  | lockstepMismatch
  | crewCoreReset (a : Acc) (word : W32)
  | crewRunWrite (a : Acc) (word : W32)
  | missingPathAccess (m addr : Nat) (isWrite : Bool)
  | burstRefused (m addr beats : Nat) (kind : Fin 4) (whole : Bool)
  | masterResetDrain (m : Fin 32)
  | drainEnd (m : Fin 32)
  | dmaGo (a : Acc) (n : Fin 4) (word : W32)
  | dmaDescriptorDone (n : Fin 4) (fail : Option Nat) (host : List Byte)
  | dmaAbort (a : Acc) (n : Fin 4) (word : W32) (moved : Nat) (host : List Byte)
  | pcieRequest (bar2 : Bool) (off : Nat) (op : DramOp) (noise : List (Nat × Nat)) (issue : Nat)
  | pcieLinkDown (flr : Bool)
  | pcieLinkUp (gen : Fin 8) (width : Fin 8)
  | interruptLineRise (line : Nat) (masked : Bool)
  | intEoiWrite (a : Acc) (word : W32)
  | msixUnmask (vec : Fin 64)
  -- Faults (R424 to R439)
  | fatalAssert
  | fatalClear
  | pinReadbackFail (svc : Bool)
  | fwfltSet (a : Acc) (word : W32)
  | fwfltClear (a : Acc) (word : W32) (setNow : W32)
  | fwfatalWrite (a : Acc) (word : W32)
  -- Swings, ageing and wear (R440 to R461)
  | rotationStepInstant (c : Fin 7) (g : Fin 16)
  | rotationHandover (c : Fin 7) (g : Fin 16) (fail : Bool)
  | rotationTestEnd (c : Fin 7) (g : Fin 16) (pass : Bool) (repair : Option W32)
  | rotationHandback (c : Fin 7) (g : Fin 16) (fail idlePass : Bool)
  | d2dWireCheck (tile : Fin 4) (errs : List (Bool × Nat))
  | fuseProgram (a : Acc) (word : W32)
  | fuseProgramDone (verified : Bool)
  | avsEvaluate (ps : Int) (mon : Fin 96) (busOk : Bool) (mv da : Nat)
  | ageSample (mon : Fin 96) (ps : Int)
  | temperatureRead (temps : List Int)
  | wearCheckpoint
  -- Reset, start-up and lifecycle (R462 to R478, R500)
  | resetAssert
  | osc54Loss
  | resetRise (b : BootIn)
  | deviceResetWrite (a : Acc) (word : W32)
  | lifecycleRequest (src : CmdSrc) (page : Nat) (steps : Fin 5)
  | unknownCommand (src : CmdSrc) (code : Fin 256) (page : Nat)
  -- Field update (R479 to R495)
  | updateStage (src : CmdSrc) (page : Nat) (written : Bool)
  | updateActivate (src : CmdSrc) (page : Nat)
  | updateSchedule (src : CmdSrc) (page : Nat)
  | updateConfirm (src : CmdSrc) (page : Nat)
  | updateCancel (src : CmdSrc) (page : Nat)
  | writeSettings (src : CmdSrc) (page : Nat)
  | shadowLoaded
  | classMActivation
  | classMRevert
  | managementPauseEnd
  | classSConfirm (a : Acc) (word : W32)
  | trialTimeout
  deriving DecidableEq, Repr

end Sys2Proof
end

