-- ==== Sys2Proof/Decode.lean ====
section
/-!
DEFINITION. Commands by the table's bits. No row of the opcode table gives bits: the block has no instruction words, and its
commands come from outside. So no word spells a command.
-/
namespace Sys2Proof

/-- The command that a word of the opcode table spells: none, since no row has bits. -/
def decodeTableWord (_nbits _w : Nat) : Option Instr := none

end Sys2Proof
end

