-- ==== Sys2Proof/Config.lean ====
section
/-!
DEFINITION. What one implementation fixes, and the free values: what the spec leaves open is an opaque constant here, with no
body, so that no proof can see its value. Each names the log entry that declares it.
-/
namespace Sys2Proof.Config

/-- The low byte of PAGE_ID.type of the device page and of the mailbox pages, which no rule gives (log entry 2); its high byte is
their group code 0x00 (R40). -/
opaque unstatedType : Nat → BitVec 8

/-- The offset code that the calibration of a receive slice finds (R75): of the lane's own slice, or of the swing slice of group g
as number 512 + g; and the uptime (log entry 164). -/
opaque calOffset : Nat → Nat → BitVec 8

/-- A fresh value the spec leaves open: the counter State.free numbers the occasion (log entry 3). -/
opaque freeWord : Nat → BitVec 64

/-- What a live counter of 32 bits holds once it counts past all ones: saturating and wrapping are both open (log entry 4). -/
opaque counterPast : Nat → BitVec 32

/-- The picture that an ST 352 payload ID names, none where it names no format: ST 352 is not part of the spec (log entry 16). -/
opaque pidFormat : BitVec 32 → Option Fmt

/-- The payload ID of a picture sent in a link mode, in level B-DL or not (TXF_CFG.level_b), with a colorimetry code where it has
one (log entry 16). -/
opaque formatPid : Fmt → Nat → Bool → Option Nat → BitVec 32

/-- The interface rate, in units of 1.485 Gb/s, that a payload ID names, zero where it names none (R513, log entry 16). -/
opaque pidInterface : BitVec 32 → Nat

/-- A payload ID names the dual-stream mapping B-DS of 3G level B (R89, log entry 16). -/
opaque pidDualStream : BitVec 32 → Bool

/-- The code word of a black pixel on a rail (log entry 20). -/
opaque black : Nat

/-- The place (row, pixel) in the picture of pixel x of line y on rail i of a gang of w rails that a type 0 entry feeds: how it is
divided no rule says (log entry 173). -/
opaque gangPixel : Nat → Nat → Nat → Nat → Nat × Nat

/-- The field, 0 or 1, that the top row of an interlaced raster of so many total lines belongs to (R246), which no rule gives (log
entry 177). -/
opaque topField : Nat → Nat

/-- The unit of a four-unit gang, and the line in its slot, that hold line y of rail i of a source of width w below four (R206): how a
frame is quartered no rule says (log entry 35). -/
opaque synQuarter : Nat → Nat → Nat → Nat × Nat

/-- The bytes of a black pgroup in a media payload of a sampling code, by place (R143; log entry 20). -/
opaque blackByte : Nat → Nat → BitVec 8

/-- The output and the next integrator state of the reference loop (R310), whose discrete form the rule does not give: from y,
the integrator, the bandwidth in 0.01 Hz and the phase errors since the last update (log entry 29). -/
opaque loopFilter : Int → Int → Nat → List Int → Int × Int

/-- The output of the first-order frequency loop of a 10 MHz input (R310): from y, the measured offset and the bandwidth (log
entry 29). -/
opaque freqLoop : Int → Int → Nat → Int

/-- The audio that a rate converter forms for an instant from the input samples and their stamps (R290), whose filter the rule
does not give (log entry 40). -/
opaque convert : List (Nat × Int) → Nat → Int

/-- The number of lines before the first active line of a raster of so many total lines (R210, R249), which no rule gives (log
entry 41). -/
opaque firstActive : Nat → Nat

/-- The sampling class, the link number and the links of the division that a payload ID gives (R88, R91; log entry 16). -/
opaque pidSamp : BitVec 32 → Nat
opaque pidLink : BitVec 32 → Nat
opaque pidWidth : BitVec 32 → Nat

/-- The colorimetry code that an ST 352 payload ID gives (R226), none where it gives none (log entry 57). -/
opaque pidColour : BitVec 32 → Option Nat

/-- The bytes that an atomic of the master's choice leaves, from the bytes read and its operand (R415; log entry 72). -/
opaque atomicResult : Nat → List (BitVec 8) → List (BitVec 8) → List (BitVec 8)

/-- A repair entry names a macro, an index and a spare that exist (R403): the macros are not listed (log entry 80). -/
opaque spareExists : BitVec 32 → Bool

/-- The packets of a frame of a compressed video entry, which no configuration field gives (R142, R145; log entry 104). -/
opaque compressedPackets : Nat → Nat

/-- SHA-384 (R473), which is not part of the spec (log entry 92). -/
opaque sha384 : List (BitVec 8) → List (BitVec 8)

/-- A public key (x then y), a signature and a digest verify under ECDSA P-384 (R473, log entry 92). -/
opaque ecdsaOk : List (BitVec 8) → List (BitVec 8) → List (BitVec 8) → Bool

/-- A lifecycle request's signature verifies under the key of a fused hash (R472, log entry 92). -/
opaque requestSigned : List (BitVec 8) → List (BitVec 8) → List (BitVec 8) → Bool

/-- The unit ID in the fuses, by word (R473, log entry 105). -/
opaque unitId : Nat → BitVec 32

/-- The fused hash of the vendor root public key (R473). -/
opaque vendorHash : List (BitVec 8)

end Sys2Proof.Config
end

