-- ==== Sys2Proof/Machine/Fields.lean ====
section
/-!
DEFINITION. Every register field of the device, from the register tables of the spec (one definition for each field,
its docstring naming the rule that gives the table), the kinds of register page, and which fields each kind holds.
A field repeated n times in a page (a slot, a tap, a layer, a word of an array) has its index times st added to its offset.
The class of a field follows R59: imm (immediate configuration), staged (committed configuration), ctl (not configuration).
-/
namespace Sys2Proof.Machine

/-- Access code of a field (R48, R49): what software and hardware may do to it. -/
inductive Code | rw | rwh | ro | rc | w1c | w1s | wo
  deriving DecidableEq, Repr

/-- Guard of a field (R50, R51): which masters may read and write it. -/
inductive Guard | any | sec | prv
  deriving DecidableEq, Repr

/-- Configuration class of a field (R56, R59, R61). -/
inductive Cls | imm | staged | ctl
  deriving DecidableEq, Repr

/-- One register field: offset in the page, lowest bit, width, repetition count and stride in bytes, access code, guard,
configuration class and reset value. -/
structure Fld where
  off : Nat
  lo : Nat
  w : Nat
  n : Nat
  st : Nat
  code : Code
  guard : Guard
  cls : Cls
  rst : Nat
  deriving DecidableEq, Repr

/-- Byte offset of repetition i of a field. -/
def Fld.at (f : Fld) (i : Nat) : Nat := f.off + i * f.st

/-- Whether the field has a repetition at byte offset o of the page. -/
def Fld.covers (f : Fld) (o : Nat) : Bool :=
  f.off ≤ o && (o - f.off) % f.st == 0 && (o - f.off) / f.st < f.n

/-- The bits the field occupies in its register. -/
def Fld.mask (f : Fld) : W32 := maskOf f.lo f.w

/-- The field's reset value in its place in the register. -/
def Fld.resetBits (f : Fld) : W32 := (BitVec.ofNat 32 f.rst <<< f.lo) &&& f.mask


/-- PAGE_ID.type (R45). block type; upper byte is the group code (R40) -/
def PAGE_ID_type : Fld := ⟨0x0, 16, 16, 1, 4, .ro, .any, .ctl, 0x0⟩
/-- PAGE_ID.inst (R45). instance mod 256 (R41) -/
def PAGE_ID_inst : Fld := ⟨0x0, 8, 8, 1, 4, .ro, .any, .ctl, 0x0⟩
/-- PAGE_ID.ver (R45). layout version; B0 pages read 0x01 -/
def PAGE_ID_ver : Fld := ⟨0x0, 0, 8, 1, 4, .ro, .any, .ctl, 0x0⟩
/-- PAGE_CAP.snap (R45). page has counters and snapshot holding copies -/
def PAGE_CAP_snap : Fld := ⟨0x4, 0, 1, 1, 4, .ro, .any, .ctl, 0x0⟩
/-- PAGE_CAP.parity (R45). page supports parity-compatibility mode -/
def PAGE_CAP_parity : Fld := ⟨0x4, 1, 1, 1, 4, .ro, .any, .ctl, 0x0⟩
/-- PAGE_CAP.staged (R45). page has committed (staged) configuration fields -/
def PAGE_CAP_staged : Fld := ⟨0x4, 2, 1, 1, 4, .ro, .any, .ctl, 0x0⟩
/-- PAGE_CAP.stoppable (R45). some fields apply in a domain that can stop (R14) -/
def PAGE_CAP_stoppable : Fld := ⟨0x4, 3, 1, 1, 4, .ro, .any, .ctl, 0x0⟩
/-- PAGE_CAP.ncnt (R45). number of live counters -/
def PAGE_CAP_ncnt : Fld := ⟨0x4, 8, 8, 1, 4, .ro, .any, .ctl, 0x0⟩
/-- PAGE_CAP.nirq (R45). number of block interrupt sources; [31:24] reserved -/
def PAGE_CAP_nirq : Fld := ⟨0x4, 16, 8, 1, 4, .ro, .any, .ctl, 0x0⟩
/-- PAGE_CTL.enable (R45). block enabled -/
def PAGE_CTL_enable : Fld := ⟨0x8, 0, 1, 1, 4, .rw, .prv, .ctl, 0x0⟩
/-- PAGE_CTL.reset (R45). block soft reset; self-clearing -/
def PAGE_CTL_reset : Fld := ⟨0x8, 1, 1, 1, 4, .w1s, .prv, .ctl, 0x0⟩
/-- PAGE_CTL.parity (R45). parity-compatibility mode; ignored if PAGE_CAP.parity is 0 -/
def PAGE_CTL_parity : Fld := ⟨0x8, 2, 1, 1, 4, .rw, .prv, .ctl, 0x0⟩
/-- PAGE_CTL.snap (R45). page snapshot request; self-clearing -/
def PAGE_CTL_snap : Fld := ⟨0x8, 3, 1, 1, 4, .w1s, .any, .ctl, 0x0⟩
/-- PAGE_CTL.join (R45). page joins the next device-wide commit; [31:5] reserved -/
def PAGE_CTL_join : Fld := ⟨0x8, 4, 1, 1, 4, .rw, .prv, .ctl, 0x0⟩
/-- PAGE_STAT.enabled (R45). block is running -/
def PAGE_STAT_enabled : Fld := ⟨0xC, 0, 1, 1, 4, .ro, .any, .ctl, 0x0⟩
/-- PAGE_STAT.reset_busy (R45). soft reset in progress -/
def PAGE_STAT_reset_busy : Fld := ⟨0xC, 1, 1, 1, 4, .ro, .any, .ctl, 0x0⟩
/-- PAGE_STAT.armed (R45). configuration CRC comparison active -/
def PAGE_STAT_armed : Fld := ⟨0xC, 2, 1, 1, 4, .ro, .any, .ctl, 0x0⟩
/-- PAGE_STAT.cfg_fault (R45). CRC or parity mismatch seen -/
def PAGE_STAT_cfg_fault : Fld := ⟨0xC, 3, 1, 1, 4, .w1c, .any, .ctl, 0x0⟩
/-- PAGE_STAT.collide (R45). an RWH collision discarded a hardware update -/
def PAGE_STAT_collide : Fld := ⟨0xC, 4, 1, 1, 4, .w1c, .any, .ctl, 0x0⟩
/-- PAGE_STAT.snap_busy (R45). snapshot in progress -/
def PAGE_STAT_snap_busy : Fld := ⟨0xC, 5, 1, 1, 4, .ro, .any, .ctl, 0x0⟩
/-- PAGE_STAT.stopped (R45). a media clock of the block is stopped -/
def PAGE_STAT_stopped : Fld := ⟨0xC, 6, 1, 1, 4, .ro, .any, .ctl, 0x0⟩
/-- PAGE_STAT.fatal (R45). block drives its fatal line; [31:8] block-defined -/
def PAGE_STAT_fatal : Fld := ⟨0xC, 7, 1, 1, 4, .ro, .any, .ctl, 0x0⟩
/-- IRQ_STAT (R45). interrupt status -/
def IRQ_STAT : Fld := ⟨0x10, 0, 32, 1, 4, .w1c, .any, .ctl, 0x0⟩
/-- IRQ_EN (R45). a set bit lets the IRQ_STAT bit reach the block's interrupt line -/
def IRQ_EN : Fld := ⟨0x14, 0, 32, 1, 4, .rw, .any, .ctl, 0x0⟩
/-- IRQ_FORCE (R45). forces the matching source; self-clearing -/
def IRQ_FORCE : Fld := ⟨0x18, 0, 32, 1, 4, .w1s, .any, .ctl, 0x0⟩
/-- FERR_INFO.valid (R45). a first error is held; writing 1 releases the capture -/
def FERR_INFO_valid : Fld := ⟨0x1C, 31, 1, 1, 4, .w1c, .any, .ctl, 0x0⟩
/-- FERR_INFO.multiple (R45). further errors arrived while held -/
def FERR_INFO_multiple : Fld := ⟨0x1C, 30, 1, 1, 4, .ro, .any, .ctl, 0x0⟩
/-- FERR_INFO.master (R45). master ID of the first error -/
def FERR_INFO_master : Fld := ⟨0x1C, 16, 8, 1, 4, .ro, .any, .ctl, 0x0⟩
/-- FERR_INFO.access (R45). access type of the first error -/
def FERR_INFO_access : Fld := ⟨0x1C, 12, 4, 1, 4, .ro, .any, .ctl, 0x0⟩
/-- FERR_INFO.code (R45). error code; [29:24] reserved -/
def FERR_INFO_code : Fld := ⟨0x1C, 0, 12, 1, 4, .ro, .any, .ctl, 0x0⟩
/-- FERR_ADDR.lo/hi (R45). address of the first error -/
def FERR_ADDR_lo : Fld := ⟨0x20, 0, 32, 1, 4, .ro, .any, .ctl, 0x0⟩
/-- FERR_ADDR.lo/hi (R45). address of the first error -/
def FERR_ADDR_hi : Fld := ⟨0x24, 0, 32, 1, 4, .ro, .any, .ctl, 0x0⟩
/-- FERR_TIME.lo/hi (R45). uptime cues of the first error -/
def FERR_TIME_lo : Fld := ⟨0x28, 0, 32, 1, 4, .ro, .any, .ctl, 0x0⟩
/-- FERR_TIME.lo/hi (R45). uptime cues of the first error -/
def FERR_TIME_hi : Fld := ⟨0x2C, 0, 32, 1, 4, .ro, .any, .ctl, 0x0⟩
/-- FERR_COUNT.n (R45). errors since last read, saturating at 0xFFFF_FFFF -/
def FERR_COUNT_n : Fld := ⟨0x30, 0, 32, 1, 4, .rc, .any, .ctl, 0x0⟩
/-- CFG_CRC_REF.crc (R45). reference CRC-32C for the next commit -/
def CFG_CRC_REF_crc : Fld := ⟨0x34, 0, 32, 1, 4, .rw, .prv, .ctl, 0x0⟩
/-- CFG_CRC_NOW.crc (R45). CRC-32C of the last complete pass over live configuration -/
def CFG_CRC_NOW_crc : Fld := ⟨0x38, 0, 32, 1, 4, .ro, .any, .ctl, 0x0⟩
/-- CFG_COMMIT.go (R45). commit this page; self-clearing -/
def CFG_COMMIT_go : Fld := ⟨0x3C, 0, 1, 1, 4, .w1s, .prv, .ctl, 0x0⟩
/-- CFG_COMMIT.result (R45). result of the last commit (R58) -/
def CFG_COMMIT_result : Fld := ⟨0x3C, 4, 4, 1, 4, .ro, .any, .ctl, 0x0⟩
/-- CFG_COMMIT.seq (R45). count of accepted commits, modulo 2^16; [3:1], [31:24] reserved -/
def CFG_COMMIT_seq : Fld := ⟨0x3C, 8, 16, 1, 4, .ro, .any, .ctl, 0x0⟩
/-- SNAP_CTL.seq (R45). count of snapshots taken, modulo 2^16 -/
def SNAP_CTL_seq : Fld := ⟨0x40, 0, 16, 1, 4, .ro, .any, .ctl, 0x0⟩
/-- SNAP_CTL.all (R45). the last snapshot was device-wide; [31:17] reserved -/
def SNAP_CTL_all : Fld := ⟨0x40, 16, 1, 1, 4, .ro, .any, .ctl, 0x0⟩
/-- SNAP_TIME.lo/hi (R45). uptime cues of the last snapshot -/
def SNAP_TIME_lo : Fld := ⟨0x44, 0, 32, 1, 4, .ro, .any, .ctl, 0x0⟩
/-- SNAP_TIME.lo/hi (R45). uptime cues of the last snapshot -/
def SNAP_TIME_hi : Fld := ⟨0x48, 0, 32, 1, 4, .ro, .any, .ctl, 0x0⟩

/-- DEV_SNAPALL_CTL.arm (R54). arm a snapshot at DEV_SNAPALL_TGT; self-clearing -/
def DEV_SNAPALL_CTL_arm : Fld := ⟨0x200, 0, 1, 1, 4, .w1s, .prv, .ctl, 0x0⟩
/-- DEV_SNAPALL_CTL.now (R54). snapshot at the next TICK; self-clearing -/
def DEV_SNAPALL_CTL_now : Fld := ⟨0x200, 1, 1, 1, 4, .w1s, .prv, .ctl, 0x0⟩
/-- DEV_SNAPALL_CTL.pending (R54). armed and not yet reached -/
def DEV_SNAPALL_CTL_pending : Fld := ⟨0x200, 2, 1, 1, 4, .ro, .any, .ctl, 0x0⟩
/-- DEV_SNAPALL_CTL.done (R54). every page has copied -/
def DEV_SNAPALL_CTL_done : Fld := ⟨0x200, 3, 1, 1, 4, .w1c, .any, .ctl, 0x0⟩
/-- DEV_SNAPALL_CTL.late (R54). target was already passed when armed; [31:5] reserved -/
def DEV_SNAPALL_CTL_late : Fld := ⟨0x200, 4, 1, 1, 4, .w1c, .any, .ctl, 0x0⟩
/-- DEV_SNAPALL_TGT.lo/hi (R54). target uptime cues -/
def DEV_SNAPALL_TGT_lo : Fld := ⟨0x204, 0, 32, 1, 4, .rw, .prv, .ctl, 0x0⟩
/-- DEV_SNAPALL_TGT.lo/hi (R54). target uptime cues -/
def DEV_SNAPALL_TGT_hi : Fld := ⟨0x208, 0, 32, 1, 4, .rw, .prv, .ctl, 0x0⟩
/-- DEV_COMMITALL_CTL.go (R57).  -/
def DEV_COMMITALL_CTL_go : Fld := ⟨0x210, 0, 1, 1, 4, .w1s, .prv, .ctl, 0x0⟩
/-- DEV_COMMITALL_CTL.result (R57).  -/
def DEV_COMMITALL_CTL_result : Fld := ⟨0x210, 4, 4, 1, 4, .ro, .any, .ctl, 0x0⟩
/-- DEV_FLT_STAT.fault (R438). FLT pair signals a fault (R429, R432) -/
def DEV_FLT_STAT_fault : Fld := ⟨0x300, 0, 1, 1, 4, .ro, .any, .ctl, 0x1⟩
/-- DEV_FLT_STAT.pin_bad (R438). FLT readback failed (R433) -/
def DEV_FLT_STAT_pin_bad : Fld := ⟨0x300, 1, 1, 1, 4, .w1c, .any, .ctl, 0x0⟩
/-- DEV_FLT_STAT.svc (R438). SVC_N held low -/
def DEV_FLT_STAT_svc : Fld := ⟨0x300, 2, 1, 1, 4, .ro, .any, .ctl, 0x1⟩
/-- DEV_FLT_STAT.svc_bad (R438). SVC_N readback failed -/
def DEV_FLT_STAT_svc_bad : Fld := ⟨0x300, 3, 1, 1, 4, .w1c, .any, .ctl, 0x0⟩
/-- DEV_FLT_STAT.why (R438). [8] fatal, [9] capture, [10] configuration, [11] firmware -/
def DEV_FLT_STAT_why : Fld := ⟨0x300, 8, 4, 1, 4, .ro, .any, .ctl, 0x0⟩
/-- DEV_FLT_CTL.ip_keep (R438). keep IP media on a fault (R430) -/
def DEV_FLT_CTL_ip_keep : Fld := ⟨0x304, 0, 1, 1, 4, .rw, .prv, .ctl, 0x0⟩
/-- DEV_FLT_CTL.sdi_sleep (R438). sleep SDI lanes on a fault -/
def DEV_FLT_CTL_sdi_sleep : Fld := ⟨0x304, 1, 1, 1, 4, .rw, .prv, .ctl, 0x0⟩
/-- DEV_FLT_CTL.pin_test (R438). drive both FLT pins high -/
def DEV_FLT_CTL_pin_test : Fld := ⟨0x304, 2, 1, 1, 4, .rw, .prv, .ctl, 0x0⟩
/-- DEV_FLT_CTL.svc_test (R438). hold SVC_N low -/
def DEV_FLT_CTL_svc_test : Fld := ⟨0x304, 3, 1, 1, 4, .rw, .prv, .ctl, 0x0⟩
/-- DEV_FWFLT (R438). firmware fault flags (R435) -/
def DEV_FWFLT : Fld := ⟨0x308, 0, 32, 1, 4, .w1c, .prv, .ctl, 0x0⟩
/-- DEV_FWFLT_SET (R438). set flags; self-clearing -/
def DEV_FWFLT_SET : Fld := ⟨0x30C, 0, 32, 1, 4, .w1s, .prv, .ctl, 0x0⟩
/-- DEV_FWFATAL.set (R438). Stage Manager fatal (R436) -/
def DEV_FWFATAL_set : Fld := ⟨0x310, 0, 1, 1, 4, .rw, .sec, .ctl, 0x0⟩
/-- DEV_SVC_MASK (R438). bit c: captures in group c do not hold SVC_N -/
def DEV_SVC_MASK : Fld := ⟨0x314, 0, 32, 1, 4, .rw, .prv, .ctl, 0x0⟩
/-- DEV_FATAL_EV.n (R438). entries into the fault state -/
def DEV_FATAL_EV_n : Fld := ⟨0x800, 0, 32, 1, 4, .rc, .any, .ctl, 0x0⟩
/-- DEV_PIN_BAD.n (R438). readback failures -/
def DEV_PIN_BAD_n : Fld := ⟨0x804, 0, 32, 1, 4, .rc, .any, .ctl, 0x0⟩
/-- IRQ_STAT bit of fault (R438). as the states and counters -/
def IRQ_dev_fault : Nat := 0
/-- IRQ_STAT bit of pin_bad (R438). as the states and counters -/
def IRQ_dev_pin_bad : Nat := 1
/-- IRQ_STAT bit of svc_bad (R438). as the states and counters -/
def IRQ_dev_svc_bad : Nat := 2
/-- IRQ_STAT bit of fw_fatal (R438). as the states and counters -/
def IRQ_dev_fw_fatal : Nat := 3

/-- PLP_TOTAL.n (R165). berths in the pool, 49,152 -/
def PLP_TOTAL_n : Fld := ⟨0x100, 0, 16, 1, 4, .ro, .any, .ctl, 0xC000⟩
/-- PLP_USED.n (R165). berths held by live Platforms -/
def PLP_USED_n : Fld := ⟨0x104, 0, 16, 1, 4, .ro, .any, .ctl, 0x0⟩
/-- PLP_NEED.n (R165). sum asked for by the last refused commit -/
def PLP_NEED_n : Fld := ⟨0x108, 0, 32, 1, 4, .ro, .any, .ctl, 0x0⟩
/-- PLG[g].rate (R165). group rate code (R149) -/
def PLG_rate : Fld := ⟨0x140, 0, 4, 16, 8, .rw, .prv, .staged, 0x9⟩
/-- PLG[g].en (R165). group in use -/
def PLG_en : Fld := ⟨0x140, 4, 1, 16, 8, .rw, .prv, .staged, 0x0⟩
/-- PLG[g].ofs (R165). offset O_g in cues -/
def PLG_ofs : Fld := ⟨0x144, 0, 32, 16, 8, .rw, .prv, .staged, 0x0⟩
/-- PLG_STAT.tod (R165). grids follow time of day (R149) -/
def PLG_STAT_tod : Fld := ⟨0x200, 0, 1, 1, 4, .ro, .any, .ctl, 0x0⟩
/-- IRQ_STAT bit of regroup (R165). a group moved (R150) -/
def IRQ_pool_regroup : Nat := 0


/-- CUE_UPT_LO.val (R39). uptime [31:0]; read latches all 64 bits -/
def CUE_UPT_LO_val : Fld := ⟨0x100, 0, 32, 1, 4, .ro, .any, .ctl, 0x0⟩
/-- CUE_UPT_HI.val (R39). latched uptime [63:32] -/
def CUE_UPT_HI_val : Fld := ⟨0x104, 0, 32, 1, 4, .ro, .any, .ctl, 0x0⟩
/-- CUE_TOD_SECL.sec (R39). seconds [31:0]; read latches time of day and uptime -/
def CUE_TOD_SECL_sec : Fld := ⟨0x110, 0, 32, 1, 4, .ro, .any, .ctl, 0x0⟩
/-- CUE_TOD_SECH.sec (R39). latched seconds [47:32]; [31:16] reserved -/
def CUE_TOD_SECH_sec : Fld := ⟨0x114, 0, 16, 1, 4, .ro, .any, .ctl, 0x0⟩
/-- CUE_TOD_COSL.cos (R39). latched cue-of-second [31:0] -/
def CUE_TOD_COSL_cos : Fld := ⟨0x118, 0, 32, 1, 4, .ro, .any, .ctl, 0x0⟩
/-- CUE_TOD_COSH.cos (R39). latched cue-of-second [33:32] -/
def CUE_TOD_COSH_cos : Fld := ⟨0x11C, 0, 2, 1, 4, .ro, .any, .ctl, 0x0⟩
/-- CUE_TOD_COSH.frac (R39). latched fraction, 30 bits -/
def CUE_TOD_COSH_frac : Fld := ⟨0x11C, 2, 30, 1, 4, .ro, .any, .ctl, 0x0⟩
/-- CUE_TOD_UPTL/H.val (R39). uptime at the latched TICK, low and high -/
def CUE_TOD_UPT_lo : Fld := ⟨0x120, 0, 32, 1, 4, .ro, .any, .ctl, 0x0⟩
/-- CUE_TOD_UPTL/H.val (R39). uptime at the latched TICK, low and high -/
def CUE_TOD_UPT_hi : Fld := ⟨0x124, 0, 32, 1, 4, .ro, .any, .ctl, 0x0⟩
/-- CUE_TOD_CTL.valid (R39). 1 when Held -/
def CUE_TOD_CTL_valid : Fld := ⟨0x130, 0, 1, 1, 4, .ro, .any, .ctl, 0x0⟩
/-- CUE_TOD_CTL.step (R39). request a step (R28); self-clearing -/
def CUE_TOD_CTL_step : Fld := ⟨0x130, 1, 1, 1, 4, .w1s, .any, .ctl, 0x0⟩
/-- CUE_TOD_CTL.steer_src (R39). 0 loop, 1 Catwalk masters (R32) -/
def CUE_TOD_CTL_steer_src : Fld := ⟨0x130, 2, 1, 1, 4, .rw, .any, .imm, 0x0⟩
/-- CUE_TOD_CTL.src (R39). 0 none, 1 PTP instance 0, 2 PTP instance 1, 3 beacon, 4 Twin Link; [31:8], [3] reserved -/
def CUE_TOD_CTL_src : Fld := ⟨0x130, 4, 4, 1, 4, .ro, .any, .ctl, 0x0⟩
/-- CUE_TOD_STEER.ppt (R39). signed steering in ppt (R31) -/
def CUE_TOD_STEER_ppt : Fld := ⟨0x134, 0, 32, 1, 4, .rwh, .any, .imm, 0x0⟩
/-- CUE_TOD_INCL.frac (R39). increment fraction [31:0] -/
def CUE_TOD_INCL_frac : Fld := ⟨0x138, 0, 32, 1, 4, .ro, .any, .ctl, 0x0⟩
/-- CUE_TOD_INCH.frac (R39). increment fraction [39:32] -/
def CUE_TOD_INCH_frac : Fld := ⟨0x13C, 0, 8, 1, 4, .ro, .any, .ctl, 0x0⟩
/-- CUE_TOD_INCH.int (R39). increment integer part; [31:16] reserved -/
def CUE_TOD_INCH_int : Fld := ⟨0x13C, 8, 8, 1, 4, .ro, .any, .ctl, 0x10⟩
/-- CUE_STEP_LO/HI.cues (R39). signed 64-bit step in cues -/
def CUE_STEP_lo : Fld := ⟨0x140, 0, 32, 1, 4, .rw, .any, .ctl, 0x0⟩
/-- CUE_STEP_LO/HI.cues (R39). signed 64-bit step in cues -/
def CUE_STEP_hi : Fld := ⟨0x144, 0, 32, 1, 4, .rw, .any, .ctl, 0x0⟩
/-- CUE_STEP_FRAC.frac (R39). step fraction in 2^-30 cue; [31:30] reserved -/
def CUE_STEP_FRAC_frac : Fld := ⟨0x148, 0, 30, 1, 4, .rw, .any, .ctl, 0x0⟩
/-- CUE_LASTSTEP_L/H.upt (R39). uptime of the last applied step, low and high -/
def CUE_LASTSTEP_lo : Fld := ⟨0x150, 0, 32, 1, 4, .ro, .any, .ctl, 0x0⟩
/-- CUE_LASTSTEP_L/H.upt (R39). uptime of the last applied step, low and high -/
def CUE_LASTSTEP_hi : Fld := ⟨0x154, 0, 32, 1, 4, .ro, .any, .ctl, 0x0⟩
/-- CUE_DISC_COUNT.n (R39). steps applied while Held -/
def CUE_DISC_COUNT_n : Fld := ⟨0x800, 0, 32, 1, 4, .rc, .any, .ctl, 0x0⟩
/-- CUE_STEP_REFUSED.n (R39). steps refused -/
def CUE_STEP_REFUSED_n : Fld := ⟨0x804, 0, 32, 1, 4, .rc, .any, .ctl, 0x0⟩
/-- IRQ_STAT bit of acquired (R39). time of day became Held -/
def IRQ_cue_acquired : Nat := 0
/-- IRQ_STAT bit of discontinuity (R39). a step was applied while Held -/
def IRQ_cue_discontinuity : Nat := 1
/-- IRQ_STAT bit of step_refused (R39). a step was refused -/
def IRQ_cue_step_refused : Nat := 2
/-- IRQ_STAT bit of bypass (R39). timing unit running from OSC54 bypass -/
def IRQ_cue_bypass : Nat := 3

/-- REF_CTL.en (R314). selector runs; at 0 it stays in Free-run -/
def REF_CTL_en : Fld := ⟨0x100, 0, 1, 1, 4, .rw, .prv, .staged, 0x0⟩
/-- REF_CTL.revert (R314). revertive (R309) -/
def REF_CTL_revert : Fld := ⟨0x100, 1, 1, 1, 4, .rw, .any, .staged, 0x0⟩
/-- REF_CTL.force_en (R314). force input (R308) -/
def REF_CTL_force_en : Fld := ⟨0x100, 2, 1, 1, 4, .rw, .any, .staged, 0x0⟩
/-- REF_CTL.force_in (R314). forced input, 0–9 -/
def REF_CTL_force_in : Fld := ⟨0x100, 4, 4, 1, 4, .rw, .any, .staged, 0x0⟩
/-- REF_CTL.hold (R314). force Holdover -/
def REF_CTL_hold : Fld := ⟨0x100, 8, 1, 1, 4, .rw, .any, .staged, 0x0⟩
/-- REF_ACC.ppb (R314). accept limit A, ppb -/
def REF_ACC_ppb : Fld := ⟨0x104, 0, 16, 1, 4, .rw, .any, .staged, 0x7D0⟩
/-- REF_ACC.time (R314). accept time, monitor instants -/
def REF_ACC_time : Fld := ⟨0x104, 16, 16, 1, 4, .rw, .any, .staged, 0x64⟩
/-- REF_REJ.ppb (R314). reject limit J, ppb -/
def REF_REJ_ppb : Fld := ⟨0x108, 0, 16, 1, 4, .rw, .any, .staged, 0xBB8⟩
/-- REF_REJ.time (R314). reject time, monitor instants -/
def REF_REJ_time : Fld := ⟨0x108, 16, 16, 1, 4, .rw, .any, .staged, 0xA⟩
/-- REF_WARN.ppb (R314). warning limit W, ppb -/
def REF_WARN_ppb : Fld := ⟨0x10C, 0, 16, 1, 4, .rw, .any, .staged, 0x9C4⟩
/-- REF_HO.secs (R314). holdover averaging, 1–300 s -/
def REF_HO_secs : Fld := ⟨0x110, 0, 9, 1, 4, .rw, .any, .staged, 0x12C⟩
/-- REF_YLIM.ppt (R314). loop output clamp -/
def REF_YLIM_ppt : Fld := ⟨0x114, 0, 32, 1, 4, .rw, .any, .staged, 0x989680⟩
/-- REF_OSC.ppt (R314). signed oscillator calibration (R304) -/
def REF_OSC_ppt : Fld := ⟨0x118, 0, 32, 1, 4, .rw, .any, .staged, 0x0⟩
/-- REF_PH.far (R314). phase alarm, µs -/
def REF_PH_far : Fld := ⟨0x11C, 0, 24, 1, 4, .rw, .any, .staged, 0x3E8⟩
/-- REF_STAT.state (R314). 0 Free-run, 1 Switching, 2 Tracking, 3 Holdover -/
def REF_STAT_state : Fld := ⟨0x140, 0, 2, 1, 4, .ro, .any, .ctl, 0x0⟩
/-- REF_STAT.sel (R314). selected input; 0xF none -/
def REF_STAT_sel : Fld := ⟨0x140, 4, 4, 1, 4, .ro, .any, .ctl, 0xF⟩
/-- REF_STAT.tgt (R314). target input; 0xF none -/
def REF_STAT_tgt : Fld := ⟨0x140, 8, 4, 1, 4, .ro, .any, .ctl, 0xF⟩
/-- REF_STAT.phase_far (R314). R312 -/
def REF_STAT_phase_far : Fld := ⟨0x140, 12, 1, 1, 4, .ro, .any, .ctl, 0x0⟩
/-- REF_STAT.forced (R314). forced input selected -/
def REF_STAT_forced : Fld := ⟨0x140, 13, 1, 1, 4, .ro, .any, .ctl, 0x0⟩
/-- REF_Y.ppt (R314). signed y -/
def REF_Y_ppt : Fld := ⟨0x144, 0, 32, 1, 4, .ro, .any, .ctl, 0x0⟩
/-- REF_HOAVG.ppt (R314). signed holdover value -/
def REF_HOAVG_ppt : Fld := ⟨0x148, 0, 32, 1, 4, .ro, .any, .ctl, 0x0⟩
/-- REF_HOSEC.n (R314). ring entries present -/
def REF_HOSEC_n : Fld := ⟨0x14C, 0, 9, 1, 4, .ro, .any, .ctl, 0x0⟩
/-- REF_PHERR.cues (R314). signed e of the selected input's last event, saturating -/
def REF_PHERR_cues : Fld := ⟨0x150, 0, 32, 1, 4, .ro, .any, .ctl, 0x0⟩
/-- REF_SWITCH.n (R314). switches completed -/
def REF_SWITCH_n : Fld := ⟨0x800, 0, 32, 1, 4, .rc, .any, .ctl, 0x0⟩
/-- REF_RETARGET.n (R314). re-targets -/
def REF_RETARGET_n : Fld := ⟨0x804, 0, 32, 1, 4, .rc, .any, .ctl, 0x0⟩
/-- REF_HOLDOVER.n (R314). entries into Holdover -/
def REF_HOLDOVER_n : Fld := ⟨0x808, 0, 32, 1, 4, .rc, .any, .ctl, 0x0⟩
/-- REF_PHFAR.n (R314). phase alarms -/
def REF_PHFAR_n : Fld := ⟨0x80C, 0, 32, 1, 4, .rc, .any, .ctl, 0x0⟩
/-- IRQ_STAT bit of tracking (R314). as the states and counters -/
def IRQ_refSel_tracking : Nat := 0
/-- IRQ_STAT bit of retarget (R314). as the states and counters -/
def IRQ_refSel_retarget : Nat := 1
/-- IRQ_STAT bit of holdover (R314). as the states and counters -/
def IRQ_refSel_holdover : Nat := 2
/-- IRQ_STAT bit of phase_far (R314). as the states and counters -/
def IRQ_refSel_phase_far : Nat := 3
/-- IRQ_STAT bit of switching (R314). as the states and counters -/
def IRQ_refSel_switching : Nat := 4

/-- REF_IN.en (R315). input enabled -/
def REF_IN_en : Fld := ⟨0x100, 0, 1, 1, 4, .rw, .prv, .staged, 0x0⟩
/-- REF_IN.kind (R315). REFIN only: 0 frame pulse, 1 line pulse, 2 10 MHz, 3 1 PPS -/
def REF_IN_kind : Fld := ⟨0x100, 1, 2, 1, 4, .rw, .any, .staged, 0x0⟩
/-- REF_IN.pol (R315). REFIN: 0 rising, 1 falling edge -/
def REF_IN_pol : Fld := ⟨0x100, 3, 1, 1, 4, .rw, .any, .staged, 0x0⟩
/-- REF_IN.prio (R315). priority, 0 best -/
def REF_IN_prio : Fld := ⟨0x100, 4, 4, 1, 4, .rw, .any, .staged, 0x8⟩
/-- REF_IN.rate (R315). pulse rate code, as FMT.rate (R129) -/
def REF_IN_rate : Fld := ⟨0x100, 8, 4, 1, 4, .rw, .any, .staged, 0x9⟩
/-- REF_IN.lines (R315). 0 525, 1 625, 2 750, 3 1,125, 4 2,250 -/
def REF_IN_lines : Fld := ⟨0x100, 12, 3, 1, 4, .rw, .any, .staged, 0x3⟩
/-- REF_IN.lane (R315). SDI receive lane -/
def REF_IN_lane : Fld := ⟨0x100, 16, 9, 1, 4, .rw, .any, .staged, 0x0⟩
/-- REF_IN_PH.cues (R315). signed event phase (R303) -/
def REF_IN_PH_cues : Fld := ⟨0x104, 0, 32, 1, 4, .rw, .any, .staged, 0x0⟩
/-- REF_QUAL.q (R315). quality; 255 never selected -/
def REF_QUAL_q : Fld := ⟨0x108, 0, 8, 1, 4, .rwh, .any, .ctl, 0xF8⟩
/-- REF_BW.chz (R315). loop bandwidth, 0.01 Hz; 0 kind default -/
def REF_BW_chz : Fld := ⟨0x10C, 0, 16, 1, 4, .rw, .any, .staged, 0x0⟩
/-- REF_ACT.us (R315). activity timeout, µs; 0 automatic (R305) -/
def REF_ACT_us : Fld := ⟨0x110, 0, 24, 1, 4, .rw, .any, .staged, 0x0⟩
/-- REF_IN_STAT.state (R315). 0 Off, 1 Inactive, 2 Qualifying, 3 Qualified, 4 Over-range -/
def REF_IN_STAT_state : Fld := ⟨0x140, 0, 3, 1, 4, .ro, .any, .ctl, 0x0⟩
/-- REF_IN_STAT.warn (R315). R306 -/
def REF_IN_STAT_warn : Fld := ⟨0x140, 3, 1, 1, 4, .ro, .any, .ctl, 0x0⟩
/-- REF_IN_STAT.eligible (R315). R308 -/
def REF_IN_STAT_eligible : Fld := ⟨0x140, 4, 1, 1, 4, .ro, .any, .ctl, 0x0⟩
/-- REF_IN_STAT.selected (R315). input selected -/
def REF_IN_STAT_selected : Fld := ⟨0x140, 5, 1, 1, 4, .ro, .any, .ctl, 0x0⟩
/-- REF_IN_STAT.target (R315). input is the target -/
def REF_IN_STAT_target : Fld := ⟨0x140, 6, 1, 1, 4, .ro, .any, .ctl, 0x0⟩
/-- REF_IN_FREQ.ppt (R315). signed f, saturating -/
def REF_IN_FREQ_ppt : Fld := ⟨0x144, 0, 32, 1, 4, .ro, .any, .ctl, 0x0⟩
/-- REF_IN_CNT.acc (R315). accept count -/
def REF_IN_CNT_acc : Fld := ⟨0x148, 0, 16, 1, 4, .ro, .any, .ctl, 0x0⟩
/-- REF_IN_CNT.rej (R315). reject count -/
def REF_IN_CNT_rej : Fld := ⟨0x148, 16, 16, 1, 4, .ro, .any, .ctl, 0x0⟩
/-- REF_IN_LAST.lo/hi (R315). uptime of the last event -/
def REF_IN_LAST_lo : Fld := ⟨0x14C, 0, 32, 1, 4, .ro, .any, .ctl, 0x0⟩
/-- REF_IN_LAST.lo/hi (R315). uptime of the last event -/
def REF_IN_LAST_hi : Fld := ⟨0x150, 0, 32, 1, 4, .ro, .any, .ctl, 0x0⟩
/-- REF_IN_ERR.cues (R315). signed e of the last event, saturating -/
def REF_IN_ERR_cues : Fld := ⟨0x154, 0, 32, 1, 4, .ro, .any, .ctl, 0x0⟩
/-- REF_PTP_U.lo/hi (R315). measurement uptime U -/
def REF_PTP_U_lo : Fld := ⟨0x180, 0, 32, 1, 4, .rw, .prv, .ctl, 0x0⟩
/-- REF_PTP_U.lo/hi (R315). measurement uptime U -/
def REF_PTP_U_hi : Fld := ⟨0x184, 0, 32, 1, 4, .rw, .prv, .ctl, 0x0⟩
/-- REF_PTP_SEC.lo/hi (R315). M seconds; hi [15:0] -/
def REF_PTP_SEC_lo : Fld := ⟨0x188, 0, 32, 1, 4, .rw, .prv, .ctl, 0x0⟩
/-- REF_PTP_SEC.lo/hi (R315). M seconds; hi [15:0] -/
def REF_PTP_SEC_hi : Fld := ⟨0x18C, 0, 16, 1, 4, .rw, .prv, .ctl, 0x0⟩
/-- REF_PTP_COS.lo (R315). M cue-of-second [31:0] -/
def REF_PTP_COS_lo : Fld := ⟨0x190, 0, 32, 1, 4, .rw, .prv, .ctl, 0x0⟩
/-- REF_PTP_COSH.cos (R315). M cue-of-second [33:32] -/
def REF_PTP_COSH_cos : Fld := ⟨0x194, 0, 2, 1, 4, .rw, .prv, .ctl, 0x0⟩
/-- REF_PTP_COSH.frac (R315). M fraction, 2^-30 cue -/
def REF_PTP_COSH_frac : Fld := ⟨0x194, 2, 30, 1, 4, .rw, .prv, .ctl, 0x0⟩
/-- REF_PTP_GO.go (R315). submit measurement; self-clearing -/
def REF_PTP_GO_go : Fld := ⟨0x198, 0, 1, 1, 4, .w1s, .prv, .ctl, 0x0⟩
/-- REF_IN_REJ.n (R315). rejections -/
def REF_IN_REJ_n : Fld := ⟨0x800, 0, 32, 1, 4, .rc, .any, .ctl, 0x0⟩
/-- REF_IN_ACTLOSS.n (R315). losses of activity -/
def REF_IN_ACTLOSS_n : Fld := ⟨0x804, 0, 32, 1, 4, .rc, .any, .ctl, 0x0⟩
/-- REF_IN_OVR.n (R315). over-range declarations -/
def REF_IN_OVR_n : Fld := ⟨0x808, 0, 32, 1, 4, .rc, .any, .ctl, 0x0⟩
/-- REF_IN_BADMEAS.n (R315). events discarded (R303) -/
def REF_IN_BADMEAS_n : Fld := ⟨0x80C, 0, 32, 1, 4, .rc, .any, .ctl, 0x0⟩
/-- REF_IN_WARN.n (R315). warnings set -/
def REF_IN_WARN_n : Fld := ⟨0x810, 0, 32, 1, 4, .rc, .any, .ctl, 0x0⟩
/-- IRQ_STAT bit of qualified (R315). as the states and counters -/
def IRQ_refIn_qualified : Nat := 0
/-- IRQ_STAT bit of rejected (R315). as the states and counters -/
def IRQ_refIn_rejected : Nat := 1
/-- IRQ_STAT bit of warn (R315). as the states and counters -/
def IRQ_refIn_warn : Nat := 2
/-- IRQ_STAT bit of act_loss (R315). as the states and counters -/
def IRQ_refIn_act_loss : Nat := 3
/-- IRQ_STAT bit of over_range (R315). as the states and counters -/
def IRQ_refIn_over_range : Nat := 4
/-- IRQ_STAT bit of badmeas (R315). as the states and counters -/
def IRQ_refIn_badmeas : Nat := 5

/-- CLK_REF.mode (R328). reference path (R318) -/
def CLK_REF_mode : Fld := ⟨0x100, 0, 2, 1, 4, .rw, .prv, .staged, 0x0⟩
/-- CLK_CTL.hold_byp (R328). hold bypass-capable PLLs on bypass -/
def CLK_CTL_hold_byp : Fld := ⟨0x104, 0, 1, 1, 4, .rw, .prv, .imm, 0x0⟩
/-- CLK_STEER.src (R328). 0 loop, 1 CLK_MAN (R319) -/
def CLK_STEER_src : Fld := ⟨0x104, 4, 1, 1, 4, .rw, .prv, .imm, 0x0⟩
/-- CLK_MAN.ppt (R328). signed manual steering -/
def CLK_MAN_ppt : Fld := ⟨0x108, 0, 32, 1, 4, .rw, .prv, .imm, 0x0⟩
/-- CLK_RAMP.prof (R328). 0 linear, 1 S-curve -/
def CLK_RAMP_prof : Fld := ⟨0x10C, 0, 1, 1, 4, .rw, .any, .staged, 0x0⟩
/-- CLK_RAMP.slope (R328). ppt/s, 1 or more -/
def CLK_RAMP_slope : Fld := ⟨0x110, 0, 32, 1, 4, .rw, .any, .staged, 0x186A0⟩
/-- CLK_RAMP.acc (R328). ppt/s², 1 or more -/
def CLK_RAMP_acc : Fld := ⟨0x114, 0, 32, 1, 4, .rw, .any, .staged, 0x4E20⟩
/-- CLK_RAMP.v (R328). signed ramp velocity -/
def CLK_RAMP_v : Fld := ⟨0x118, 0, 32, 1, 4, .ro, .any, .ctl, 0x0⟩
/-- CLK_STAT.lock (R328). bit n: PLL n in lock -/
def CLK_STAT_lock : Fld := ⟨0x140, 0, 26, 1, 4, .ro, .any, .ctl, 0x0⟩
/-- CLK_STAT.byp (R328). bit n: PLL n on bypass or frozen -/
def CLK_STAT_byp : Fld := ⟨0x144, 0, 26, 1, 4, .ro, .any, .ctl, 0x0⟩
/-- CLK_LOCKLOSS.n (R328). losses of lock, all PLLs -/
def CLK_LOCKLOSS_n : Fld := ⟨0x800, 0, 32, 1, 4, .rc, .any, .ctl, 0x0⟩
/-- IRQ_STAT bit of lock_loss (R328). any PLL -/
def IRQ_clkCtl_lock_loss : Nat := 0
/-- IRQ_STAT bit of bypass (R328). any PLL -/
def IRQ_clkCtl_bypass : Nat := 1

/-- PLL_LOCK.win (R328). window, cues -/
def PLL_LOCK_win : Fld := ⟨0x100, 0, 8, 1, 4, .rw, .any, .staged, 0x10⟩
/-- PLL_LOCK.n (R328). cycles to declare lock -/
def PLL_LOCK_n : Fld := ⟨0x100, 8, 16, 1, 4, .rw, .any, .staged, 0x40⟩
/-- PLL_LOCK.nloss (R328). cycles to lose lock -/
def PLL_LOCK_nloss : Fld := ⟨0x100, 24, 4, 1, 4, .rw, .any, .staged, 0x4⟩
/-- PLL_PH.target (R328). signed, 1/256 period; pages 11–19 -/
def PLL_PH_target : Fld := ⟨0x104, 0, 16, 1, 4, .rw, .any, .ctl, 0x0⟩
/-- PLL_PH.now (R328). present phase -/
def PLL_PH_now : Fld := ⟨0x108, 0, 16, 1, 4, .ro, .any, .ctl, 0x0⟩
/-- PLL_WORD.lo/hi (R328). fractional-N word, 2^-40 -/
def PLL_WORD_lo : Fld := ⟨0x10C, 0, 32, 1, 4, .ro, .any, .ctl, 0x0⟩
/-- PLL_WORD.lo/hi (R328). fractional-N word, 2^-40 -/
def PLL_WORD_hi : Fld := ⟨0x110, 0, 32, 1, 4, .ro, .any, .ctl, 0x0⟩
/-- PLL_ERR.val (R328). signed last error, 2^-8 cue -/
def PLL_ERR_val : Fld := ⟨0x114, 0, 32, 1, 4, .ro, .any, .ctl, 0x0⟩
/-- PLL_BYP_RET.go (R328). return from bypass (R324) -/
def PLL_BYP_RET_go : Fld := ⟨0x118, 0, 1, 1, 4, .w1s, .prv, .ctl, 0x0⟩
/-- PLL_STAT.lock (R328). in lock -/
def PLL_STAT_lock : Fld := ⟨0x140, 0, 1, 1, 4, .ro, .any, .ctl, 0x0⟩
/-- PLL_STAT.bypass (R328). on bypass -/
def PLL_STAT_bypass : Fld := ⟨0x140, 1, 1, 1, 4, .ro, .any, .ctl, 0x0⟩
/-- PLL_STAT.frozen (R328). word frozen (R325) -/
def PLL_STAT_frozen : Fld := ⟨0x140, 2, 1, 1, 4, .ro, .any, .ctl, 0x0⟩
/-- PLL_STAT.ph_busy (R328). phase move in progress -/
def PLL_STAT_ph_busy : Fld := ⟨0x140, 3, 1, 1, 4, .ro, .any, .ctl, 0x0⟩
/-- PLL_LOSS.n (R328). losses of lock -/
def PLL_LOSS_n : Fld := ⟨0x800, 0, 32, 1, 4, .rc, .any, .ctl, 0x0⟩
/-- PLL_PHSTEPS.n (R328). phase steps made -/
def PLL_PHSTEPS_n : Fld := ⟨0x804, 0, 32, 1, 4, .rc, .any, .ctl, 0x0⟩
/-- IRQ_STAT bit of lock (R328). as the states -/
def IRQ_pll_lock : Nat := 0
/-- IRQ_STAT bit of lock_loss (R328). as the states -/
def IRQ_pll_lock_loss : Nat := 1
/-- IRQ_STAT bit of bypass (R328). as the states -/
def IRQ_pll_bypass : Nat := 2
/-- IRQ_STAT bit of ph_done (R328). as the states -/
def IRQ_pll_ph_done : Nat := 3

/-- CB_CTL.en (R345). station enabled -/
def CB_CTL_en : Fld := ⟨0x100, 0, 1, 1, 4, .rw, .prv, .staged, 0x0⟩
/-- CB_CTL.role (R345). 0 listener, 1 master, 2 standby, 3 reserved -/
def CB_CTL_role : Fld := ⟨0x100, 1, 2, 1, 4, .rw, .prv, .staged, 0x0⟩
/-- CB_CTL.order (R345). standby order 0–3 -/
def CB_CTL_order : Fld := ⟨0x100, 4, 2, 1, 4, .rw, .prv, .staged, 0x0⟩
/-- CB_CTL.station (R345). station number -/
def CB_CTL_station : Fld := ⟨0x100, 8, 6, 1, 4, .rw, .prv, .staged, 0x0⟩
/-- CB_CTL.auto_claim (R345). claim frames in idle owned slots -/
def CB_CTL_auto_claim : Fld := ⟨0x100, 16, 1, 1, 4, .rw, .any, .staged, 0x0⟩
/-- CB_BQUAL.q (R345). beacon quality as master -/
def CB_BQUAL_q : Fld := ⟨0x104, 0, 8, 1, 4, .rw, .any, .staged, 0xF8⟩
/-- CB_ADJ.rx (R345). signed receive delay, cues -/
def CB_ADJ_rx : Fld := ⟨0x108, 0, 16, 1, 4, .rw, .prv, .staged, 0x0⟩
/-- CB_ADJ.tx (R345). signed transmit delay, cues -/
def CB_ADJ_tx : Fld := ⟨0x108, 16, 16, 1, 4, .rw, .prv, .staged, 0x0⟩
/-- CB_PAIRS.g (R345). claim groups (R344) -/
def CB_PAIRS_g : Fld := ⟨0x10C, 0, 20, 1, 4, .rw, .any, .staged, 0x0⟩
/-- CB_TXMASK (R345). staging slot mask (R340) -/
def CB_TXMASK : Fld := ⟨0x110, 0, 32, 1, 4, .rwh, .any, .ctl, 0x0⟩
/-- CB_TXMASK_HI (R345). slots 32–39 in [7:0] -/
def CB_TXMASK_HI : Fld := ⟨0x114, 0, 8, 1, 4, .rwh, .any, .ctl, 0x0⟩
/-- CB_LIVEMASK.lo/hi (R345). live slot mask -/
def CB_LIVEMASK_lo : Fld := ⟨0x118, 0, 32, 1, 4, .ro, .any, .ctl, 0x0⟩
/-- CB_LIVEMASK.lo/hi (R345). live slot mask -/
def CB_LIVEMASK_hi : Fld := ⟨0x11C, 0, 32, 1, 4, .ro, .any, .ctl, 0x0⟩
/-- CB_STAT.state (R345). 0 Off, 1 Listening, 2 Synced, 3 Master -/
def CB_STAT_state : Fld := ⟨0x140, 0, 2, 1, 4, .ro, .any, .ctl, 0x0⟩
/-- CB_STAT.collide (R345). a collision occurred -/
def CB_STAT_collide : Fld := ⟨0x140, 2, 1, 1, 4, .w1c, .any, .ctl, 0x0⟩
/-- CB_STAT.silent (R345). silent cycles counted -/
def CB_STAT_silent : Fld := ⟨0x140, 4, 4, 1, 4, .ro, .any, .ctl, 0x0⟩
/-- CB_CYC.n (R345). current cycle count -/
def CB_CYC_n : Fld := ⟨0x144, 0, 32, 1, 4, .ro, .any, .ctl, 0x0⟩
/-- CB_RX_FRAMES.n (R345). valid frames received -/
def CB_RX_FRAMES_n : Fld := ⟨0x800, 0, 32, 1, 4, .rc, .any, .ctl, 0x0⟩
/-- CB_RX_CRC.n (R345). CRC errors -/
def CB_RX_CRC_n : Fld := ⟨0x804, 0, 32, 1, 4, .rc, .any, .ctl, 0x0⟩
/-- CB_RX_CODE.n (R345). code errors -/
def CB_RX_CODE_n : Fld := ⟨0x808, 0, 32, 1, 4, .rc, .any, .ctl, 0x0⟩
/-- CB_RX_SHORT.n (R345). len 7 or less -/
def CB_RX_SHORT_n : Fld := ⟨0x80C, 0, 32, 1, 4, .rc, .any, .ctl, 0x0⟩
/-- CB_RX_LONG.n (R345). len 97 or more -/
def CB_RX_LONG_n : Fld := ⟨0x810, 0, 32, 1, 4, .rc, .any, .ctl, 0x0⟩
/-- CB_RX_MISPLACED.n (R345). frames outside their window or slot -/
def CB_RX_MISPLACED_n : Fld := ⟨0x814, 0, 32, 1, 4, .rc, .any, .ctl, 0x0⟩
/-- CB_LOWCLAIM.n (R345). commands from a lower claim -/
def CB_LOWCLAIM_n : Fld := ⟨0x818, 0, 32, 1, 4, .rc, .any, .ctl, 0x0⟩
/-- CB_TX_FRAMES.n (R345). frames sent -/
def CB_TX_FRAMES_n : Fld := ⟨0x81C, 0, 32, 1, 4, .rc, .any, .ctl, 0x0⟩
/-- CB_COLLIDE.n (R345). collisions -/
def CB_COLLIDE_n : Fld := ⟨0x820, 0, 32, 1, 4, .rc, .any, .ctl, 0x0⟩
/-- CB_BEACON_MISS.n (R345). losses of beacon -/
def CB_BEACON_MISS_n : Fld := ⟨0x824, 0, 32, 1, 4, .rc, .any, .ctl, 0x0⟩
/-- IRQ_STAT bit of collide (R345). as the states and counters -/
def IRQ_cbCtl_collide : Nat := 0
/-- IRQ_STAT bit of beacon_loss (R345). as the states and counters -/
def IRQ_cbCtl_beacon_loss : Nat := 1
/-- IRQ_STAT bit of master (R345). as the states and counters -/
def IRQ_cbCtl_master : Nat := 2
/-- IRQ_STAT bit of rx (R345). as the states and counters -/
def IRQ_cbCtl_rx : Nat := 3

/-- CB_TXR_BASE.lo/hi (R345). transmit ring base -/
def CB_TXR_BASE_lo : Fld := ⟨0x100, 0, 32, 1, 4, .rw, .prv, .staged, 0x0⟩
/-- CB_TXR_BASE.lo/hi (R345). transmit ring base -/
def CB_TXR_BASE_hi : Fld := ⟨0x104, 0, 32, 1, 4, .rw, .prv, .staged, 0x0⟩
/-- CB_TXR_HEAD.n (R345). software producer index -/
def CB_TXR_HEAD_n : Fld := ⟨0x108, 0, 16, 1, 4, .rw, .any, .imm, 0x0⟩
/-- CB_TXR_TAIL.n (R345). hardware consumer index -/
def CB_TXR_TAIL_n : Fld := ⟨0x10C, 0, 16, 1, 4, .ro, .any, .ctl, 0x0⟩
/-- CB_RXR_BASE.lo/hi (R345). receive ring base -/
def CB_RXR_BASE_lo : Fld := ⟨0x110, 0, 32, 1, 4, .rw, .prv, .staged, 0x0⟩
/-- CB_RXR_BASE.lo/hi (R345). receive ring base -/
def CB_RXR_BASE_hi : Fld := ⟨0x114, 0, 32, 1, 4, .rw, .prv, .staged, 0x0⟩
/-- CB_RXR_HEAD.n (R345). hardware producer index -/
def CB_RXR_HEAD_n : Fld := ⟨0x118, 0, 16, 1, 4, .ro, .any, .ctl, 0x0⟩
/-- CB_RXR_TAIL.n (R345). software consumer index -/
def CB_RXR_TAIL_n : Fld := ⟨0x11C, 0, 16, 1, 4, .rw, .any, .imm, 0x0⟩
/-- CB_BSQ_POP.cyc (R345). cycle count; read pops (R339) -/
def CB_BSQ_POP_cyc : Fld := ⟨0x120, 0, 32, 1, 4, .ro, .any, .ctl, 0x0⟩
/-- CB_BSQ_INFO.qual (R345). latched quality -/
def CB_BSQ_INFO_qual : Fld := ⟨0x124, 0, 8, 1, 4, .ro, .any, .ctl, 0x0⟩
/-- CB_BSQ_INFO.flags (R345). latched flags -/
def CB_BSQ_INFO_flags : Fld := ⟨0x124, 8, 3, 1, 4, .ro, .any, .ctl, 0x0⟩
/-- CB_BSQ_INFO.valid (R345). an entry was popped -/
def CB_BSQ_INFO_valid : Fld := ⟨0x124, 31, 1, 1, 4, .ro, .any, .ctl, 0x0⟩
/-- CB_BSQ_UPT.lo/hi (R345). latched stamp -/
def CB_BSQ_UPT_lo : Fld := ⟨0x128, 0, 32, 1, 4, .ro, .any, .ctl, 0x0⟩
/-- CB_BSQ_UPT.lo/hi (R345). latched stamp -/
def CB_BSQ_UPT_hi : Fld := ⟨0x12C, 0, 32, 1, 4, .ro, .any, .ctl, 0x0⟩
/-- CB_BSQ_SEC.lo/hi (R345). latched seconds; hi [15:0] -/
def CB_BSQ_SEC_lo : Fld := ⟨0x130, 0, 32, 1, 4, .ro, .any, .ctl, 0x0⟩
/-- CB_BSQ_SEC.lo/hi (R345). latched seconds; hi [15:0] -/
def CB_BSQ_SEC_hi : Fld := ⟨0x134, 0, 16, 1, 4, .ro, .any, .ctl, 0x0⟩
/-- CB_BSQ_COS.lo/hi (R345). latched cue-of-second and fraction -/
def CB_BSQ_COS_lo : Fld := ⟨0x138, 0, 32, 1, 4, .ro, .any, .ctl, 0x0⟩
/-- CB_BSQ_COS.lo/hi (R345). latched cue-of-second and fraction -/
def CB_BSQ_COS_hi : Fld := ⟨0x13C, 0, 32, 1, 4, .ro, .any, .ctl, 0x0⟩
/-- CB_BSQ_LEVEL.n (R345). entries held, 0–16 -/
def CB_BSQ_LEVEL_n : Fld := ⟨0x140, 0, 5, 1, 4, .ro, .any, .ctl, 0x0⟩
/-- CB_RX_DROP.n (R345). receive ring full -/
def CB_RX_DROP_n : Fld := ⟨0x800, 0, 32, 1, 4, .rc, .any, .ctl, 0x0⟩
/-- CB_TX_BADLEN.n (R345). entries refused (R342) -/
def CB_TX_BADLEN_n : Fld := ⟨0x804, 0, 32, 1, 4, .rc, .any, .ctl, 0x0⟩
/-- CB_BSQ_OVF.n (R345). queue entries discarded -/
def CB_BSQ_OVF_n : Fld := ⟨0x808, 0, 32, 1, 4, .rc, .any, .ctl, 0x0⟩
/-- IRQ_STAT bit of txr (R345). as the counters; queue became non-empty -/
def IRQ_cbRing_txr : Nat := 0
/-- IRQ_STAT bit of rx_drop (R345). as the counters; queue became non-empty -/
def IRQ_cbRing_rx_drop : Nat := 1
/-- IRQ_STAT bit of bsq_ovf (R345). as the counters; queue became non-empty -/
def IRQ_cbRing_bsq_ovf : Nat := 2
/-- IRQ_STAT bit of bsq_ready (R345). as the counters; queue became non-empty -/
def IRQ_cbRing_bsq_ready : Nat := 3

/-- PAIR_CFG.en (R370). pair operation (R350) -/
def PAIR_CFG_en : Fld := ⟨0x100, 0, 1, 1, 4, .rw, .prv, .staged, 0x0⟩
/-- PAIR_CFG.pref (R370). preferred Lead at formation -/
def PAIR_CFG_pref : Fld := ⟨0x100, 1, 1, 1, 4, .rw, .prv, .staged, 0x0⟩
/-- PAIR_CFG.cgroup (R370). claim burst group (R348) -/
def PAIR_CFG_cgroup : Fld := ⟨0x100, 4, 4, 1, 4, .rw, .any, .staged, 0x0⟩
/-- PAIR_CFG.mis_n (R370). mismatch persistence, frames -/
def PAIR_CFG_mis_n : Fld := ⟨0x100, 8, 8, 1, 4, .rw, .any, .staged, 0x3⟩
/-- PAIR_CFG.settle (R370). matching frames to leave Joining -/
def PAIR_CFG_settle : Fld := ⟨0x100, 16, 8, 1, 4, .rw, .any, .staged, 0x20⟩
/-- PAIR_CFG.paths (R370). IP transmit paths sent: [24] A, [25] B (R356) -/
def PAIR_CFG_paths : Fld := ⟨0x100, 24, 2, 1, 4, .rw, .any, .staged, 0x3⟩
/-- PAIR_DEFER.cues (R370). decision deferral (R357) -/
def PAIR_DEFER_cues : Fld := ⟨0x104, 0, 24, 1, 4, .rw, .prv, .staged, 0x19D70⟩
/-- PAIR_ADJ.asym (R370). signed link asymmetry, cues (R360) -/
def PAIR_ADJ_asym : Fld := ⟨0x108, 0, 16, 1, 4, .rw, .prv, .staged, 0x0⟩
/-- PAIR_CTL.lead_now (R370). become Lead from Forming; self-clearing -/
def PAIR_CTL_lead_now : Fld := ⟨0x110, 0, 1, 1, 4, .w1s, .prv, .ctl, 0x0⟩
/-- PAIR_CTL.swap (R370). planned swap (R365); self-clearing -/
def PAIR_CTL_swap : Fld := ⟨0x110, 1, 1, 1, 4, .w1s, .prv, .ctl, 0x0⟩
/-- PAIR_CTL.rejoin (R370). leave Yielded; self-clearing -/
def PAIR_CTL_rejoin : Fld := ⟨0x110, 2, 1, 1, 4, .w1s, .prv, .ctl, 0x0⟩
/-- PAIR_SWAP.sec lo/hi (R370). swap target seconds; hi [15:0] -/
def PAIR_SWAP_sec_lo : Fld := ⟨0x114, 0, 32, 1, 4, .rw, .prv, .ctl, 0x0⟩
/-- PAIR_SWAP.sec lo/hi (R370). swap target seconds; hi [15:0] -/
def PAIR_SWAP_sec_hi : Fld := ⟨0x118, 0, 16, 1, 4, .rw, .prv, .ctl, 0x0⟩
/-- PAIR_SWAP.cos lo/hi (R370). swap target cue-of-second; hi [1:0] -/
def PAIR_SWAP_cos_lo : Fld := ⟨0x11C, 0, 32, 1, 4, .rw, .prv, .ctl, 0x0⟩
/-- PAIR_SWAP.cos lo/hi (R370). swap target cue-of-second; hi [1:0] -/
def PAIR_SWAP_cos_hi : Fld := ⟨0x120, 0, 2, 1, 4, .rw, .prv, .ctl, 0x0⟩
/-- PAIR_STAT.role (R370). 0 Solo, 1 Forming, 2 Joining, 3 Understudy, 4 Lead, 5 Yielded -/
def PAIR_STAT_role : Fld := ⟨0x140, 0, 3, 1, 4, .ro, .any, .ctl, 0x0⟩
/-- PAIR_STAT.twin_up (R370). heartbeats arriving -/
def PAIR_STAT_twin_up : Fld := ⟨0x140, 3, 1, 1, 4, .ro, .any, .ctl, 0x0⟩
/-- PAIR_STAT.div (R370). divergence reported (R369) -/
def PAIR_STAT_div : Fld := ⟨0x140, 4, 1, 1, 4, .ro, .any, .ctl, 0x0⟩
/-- PAIR_STAT.epoch_low (R370). R352 -/
def PAIR_STAT_epoch_low : Fld := ⟨0x140, 5, 1, 1, 4, .ro, .any, .ctl, 0x0⟩
/-- PAIR_STAT.swap_ok (R370). last swap completed -/
def PAIR_STAT_swap_ok : Fld := ⟨0x140, 6, 1, 1, 4, .ro, .any, .ctl, 0x0⟩
/-- PAIR_CLAIM.own (R370). own claim -/
def PAIR_CLAIM_own : Fld := ⟨0x144, 0, 32, 1, 4, .ro, .any, .ctl, 0x0⟩
/-- PAIR_CLAIM.twin (R370). twin claim (R349) -/
def PAIR_CLAIM_twin : Fld := ⟨0x148, 0, 32, 1, 4, .ro, .any, .ctl, 0x0⟩
/-- PAIR_TODERR.cues (R370). signed e of input 9 -/
def PAIR_TODERR_cues : Fld := ⟨0x14C, 0, 32, 1, 4, .ro, .any, .ctl, 0x0⟩
/-- PAIR_DIV.dest (R370). destination of the last divergence -/
def PAIR_DIV_dest : Fld := ⟨0x150, 0, 11, 1, 4, .ro, .any, .ctl, 0x0⟩
/-- PAIR_DIV.cause (R370). 1 output only, 2 input differs, 3 both checks failed -/
def PAIR_DIV_cause : Fld := ⟨0x150, 12, 2, 1, 4, .ro, .any, .ctl, 0x0⟩
/-- PAIR_SIG_MASK[0–63] (R370). bit d: destination 32w + j not compared -/
def PAIR_SIG_MASK : Fld := ⟨0x400, 0, 32, 64, 4, .rw, .any, .ctl, 0x0⟩
/-- PAIR_SIG_MAP[0–63] (R370). destinations mismatched in the last frame -/
def PAIR_SIG_MAP : Fld := ⟨0x500, 0, 32, 64, 4, .ro, .any, .ctl, 0x0⟩
/-- PAIR_TAKEOVER.n (R370). takeovers -/
def PAIR_TAKEOVER_n : Fld := ⟨0x800, 0, 32, 1, 4, .rc, .any, .ctl, 0x0⟩
/-- PAIR_YIELD.n (R370). yields -/
def PAIR_YIELD_n : Fld := ⟨0x804, 0, 32, 1, 4, .rc, .any, .ctl, 0x0⟩
/-- PAIR_SIG_MIS.n (R370). mismatched destination frames -/
def PAIR_SIG_MIS_n : Fld := ⟨0x808, 0, 32, 1, 4, .rc, .any, .ctl, 0x0⟩
/-- PAIR_CHECK.n (R370). path checks run -/
def PAIR_CHECK_n : Fld := ⟨0x80C, 0, 32, 1, 4, .rc, .any, .ctl, 0x0⟩
/-- PAIR_JRN_LATE.n (R370). journal entries late (R358) -/
def PAIR_JRN_LATE_n : Fld := ⟨0x810, 0, 32, 1, 4, .rc, .any, .ctl, 0x0⟩
/-- PAIR_DEC_DIFF.n (R370). own decision differed -/
def PAIR_DEC_DIFF_n : Fld := ⟨0x814, 0, 32, 1, 4, .rc, .any, .ctl, 0x0⟩
/-- PAIR_REFUSED_WR.n (R370). mirrored writes refused (R356) -/
def PAIR_REFUSED_WR_n : Fld := ⟨0x818, 0, 32, 1, 4, .rc, .any, .ctl, 0x0⟩
/-- PAIR_HB_MISS.n (R370). losses of twin heartbeats -/
def PAIR_HB_MISS_n : Fld := ⟨0x81C, 0, 32, 1, 4, .rc, .any, .ctl, 0x0⟩
/-- SWAP_REFUSED.n (R370). swaps refused -/
def SWAP_REFUSED_n : Fld := ⟨0x820, 0, 32, 1, 4, .rc, .any, .ctl, 0x0⟩
/-- IRQ_STAT bit of role_chg (R370). as the states and counters -/
def IRQ_pair_role_chg : Nat := 0
/-- IRQ_STAT bit of takeover (R370). as the states and counters -/
def IRQ_pair_takeover : Nat := 1
/-- IRQ_STAT bit of yield (R370). as the states and counters -/
def IRQ_pair_yield : Nat := 2
/-- IRQ_STAT bit of mismatch (R370). as the states and counters -/
def IRQ_pair_mismatch : Nat := 3
/-- IRQ_STAT bit of divergence (R370). as the states and counters -/
def IRQ_pair_divergence : Nat := 4
/-- IRQ_STAT bit of twin_lost (R370). as the states and counters -/
def IRQ_pair_twin_lost : Nat := 5
/-- IRQ_STAT bit of jrn_late (R370). as the states and counters -/
def IRQ_pair_jrn_late : Nat := 6
/-- IRQ_STAT bit of swap_done (R370). as the states and counters -/
def IRQ_pair_swap_done : Nat := 7
/-- IRQ_STAT bit of epoch_low (R370). as the states and counters -/
def IRQ_pair_epoch_low : Nat := 8

/-- TWN_SNAP_SRC.lo/hi (R370). snapshot source region on this device -/
def TWN_SNAP_SRC_lo : Fld := ⟨0x100, 0, 32, 1, 4, .rw, .prv, .staged, 0x0⟩
/-- TWN_SNAP_SRC.lo/hi (R370). snapshot source region on this device -/
def TWN_SNAP_SRC_hi : Fld := ⟨0x104, 0, 32, 1, 4, .rw, .prv, .staged, 0x0⟩
/-- TWN_SNAP_LEN.bytes (R370). snapshot length, multiple of 128 -/
def TWN_SNAP_LEN_bytes : Fld := ⟨0x108, 0, 30, 1, 4, .rw, .prv, .staged, 0x0⟩
/-- TWN_SNAP_PER.s (R370). snapshot period, seconds -/
def TWN_SNAP_PER_s : Fld := ⟨0x10C, 0, 8, 1, 4, .rw, .prv, .staged, 0xA⟩
/-- TWN_SNAP_AREA.lo/hi (R370). area receiving the twin's snapshots -/
def TWN_SNAP_AREA_lo : Fld := ⟨0x110, 0, 32, 1, 4, .rw, .prv, .staged, 0x0⟩
/-- TWN_SNAP_AREA.lo/hi (R370). area receiving the twin's snapshots -/
def TWN_SNAP_AREA_hi : Fld := ⟨0x114, 0, 32, 1, 4, .rw, .prv, .staged, 0x0⟩
/-- TWN_STAT.lane_ok (R370). lane n locked and aligned -/
def TWN_STAT_lane_ok : Fld := ⟨0x140, 0, 8, 1, 4, .ro, .any, .ctl, 0x0⟩
/-- TWN_STAT.width (R370). 0 down, 1 lanes 0–3, 2 lanes 4–7, 3 all 8 -/
def TWN_STAT_width : Fld := ⟨0x140, 8, 2, 1, 4, .ro, .any, .ctl, 0x0⟩
/-- TWN_STAT.replay (R370). replay in progress -/
def TWN_STAT_replay : Fld := ⟨0x140, 10, 1, 1, 4, .ro, .any, .ctl, 0x0⟩
/-- TWN_SNAP_SEQ.n (R370). sequence of the last complete snapshot -/
def TWN_SNAP_SEQ_n : Fld := ⟨0x144, 0, 32, 1, 4, .ro, .any, .ctl, 0x0⟩
/-- TWN_SNAP_TIME.lo/hi (R370). uptime of its completion -/
def TWN_SNAP_TIME_lo : Fld := ⟨0x148, 0, 32, 1, 4, .ro, .any, .ctl, 0x0⟩
/-- TWN_SNAP_TIME.lo/hi (R370). uptime of its completion -/
def TWN_SNAP_TIME_hi : Fld := ⟨0x14C, 0, 32, 1, 4, .ro, .any, .ctl, 0x0⟩
/-- TWN_CRC_ERR.n (R370). messages with CRC errors -/
def TWN_CRC_ERR_n : Fld := ⟨0x800, 0, 32, 1, 4, .rc, .any, .ctl, 0x0⟩
/-- TWN_RETX.n (R370). retransmit requests sent -/
def TWN_RETX_n : Fld := ⟨0x804, 0, 32, 1, 4, .rc, .any, .ctl, 0x0⟩
/-- TWN_RESET.n (R370). link resets (R354) -/
def TWN_RESET_n : Fld := ⟨0x808, 0, 32, 1, 4, .rc, .any, .ctl, 0x0⟩
/-- TWN_LANE_FAIL.n (R370). lane failures (R353) -/
def TWN_LANE_FAIL_n : Fld := ⟨0x80C, 0, 32, 1, 4, .rc, .any, .ctl, 0x0⟩
/-- IRQ_STAT bit of link_up (R370). as the states and counters -/
def IRQ_twin_link_up : Nat := 0
/-- IRQ_STAT bit of link_down (R370). as the states and counters -/
def IRQ_twin_link_down : Nat := 1
/-- IRQ_STAT bit of width (R370). as the states and counters -/
def IRQ_twin_width : Nat := 2
/-- IRQ_STAT bit of snap_done (R370). as the states and counters -/
def IRQ_twin_snap_done : Nat := 3

/-- CAT_STAT.drain (R422). bit m: master ID m draining (R418) -/
def CAT_STAT_drain : Fld := ⟨0x140, 0, 32, 1, 4, .ro, .any, .ctl, 0x0⟩
/-- CAT_NOPATH.n (R422). accesses on missing paths -/
def CAT_NOPATH_n : Fld := ⟨0x800, 0, 32, 1, 4, .rc, .any, .ctl, 0x0⟩
/-- CAT_SPLIT.n (R422). bursts split -/
def CAT_SPLIT_n : Fld := ⟨0x804, 0, 32, 1, 4, .rc, .any, .ctl, 0x0⟩
/-- CAT_DRAIN.n (R422). drains -/
def CAT_DRAIN_n : Fld := ⟨0x808, 0, 32, 1, 4, .rc, .any, .ctl, 0x0⟩
/-- IRQ_STAT bit of nopath (R422). as the counters -/
def IRQ_cat_nopath : Nat := 0
/-- IRQ_STAT bit of drain (R422). as the counters -/
def IRQ_cat_drain : Nat := 1

/-- CRW_CTL.run (R422). bit c: Crew core c released -/
def CRW_CTL_run : Fld := ⟨0x100, 0, 4, 1, 4, .rw, .sec, .imm, 0x0⟩
/-- CRW_CTL.reset (R422). reset Crew core c; self-clearing -/
def CRW_CTL_reset : Fld := ⟨0x100, 8, 4, 1, 4, .w1s, .sec, .ctl, 0x0⟩
/-- CRW_BOOT.lo/hi (R422). Crew reset vector -/
def CRW_BOOT_lo : Fld := ⟨0x104, 0, 32, 1, 4, .rw, .sec, .imm, 0x0⟩
/-- CRW_BOOT.lo/hi (R422). Crew reset vector -/
def CRW_BOOT_hi : Fld := ⟨0x108, 0, 32, 1, 4, .rw, .sec, .imm, 0x0⟩
/-- CRW_STAT.halted (R422). bit c: core c halted -/
def CRW_STAT_halted : Fld := ⟨0x110, 0, 4, 1, 4, .ro, .any, .ctl, 0xF⟩
/-- CRW_SMDB.word (R422). doorbell word (R412) -/
def CRW_SMDB_word : Fld := ⟨0x120, 0, 32, 1, 4, .rw, .prv, .imm, 0x0⟩
/-- CRW_SMDB.full (R422). word not yet read -/
def CRW_SMDB_full : Fld := ⟨0x124, 0, 1, 1, 4, .ro, .any, .ctl, 0x0⟩
/-- SM_STAT.lockstep_ok (R422). cores agree (R410) -/
def SM_STAT_lockstep_ok : Fld := ⟨0x140, 0, 1, 1, 4, .ro, .any, .ctl, 0x1⟩
/-- IRQ_STAT bit of lockstep (R422). as the rules -/
def IRQ_prc_lockstep : Nat := 0
/-- IRQ_STAT bit of doorbell (R422). as the rules -/
def IRQ_prc_doorbell : Nat := 1

/-- DMA_CTL.go (R422). start the chain; self-clearing -/
def DMA_CTL_go : Fld := ⟨0x100, 0, 1, 1, 4, .w1s, .any, .ctl, 0x0⟩
/-- DMA_CTL.abort (R422). abort; self-clearing -/
def DMA_CTL_abort : Fld := ⟨0x100, 1, 1, 1, 4, .w1s, .any, .ctl, 0x0⟩
/-- DMA_DESC.lo/hi (R422). first descriptor -/
def DMA_DESC_lo : Fld := ⟨0x104, 0, 32, 1, 4, .rw, .any, .imm, 0x0⟩
/-- DMA_DESC.lo/hi (R422). first descriptor -/
def DMA_DESC_hi : Fld := ⟨0x108, 0, 32, 1, 4, .rw, .any, .imm, 0x0⟩
/-- DMA_STAT.busy (R422). chain running -/
def DMA_STAT_busy : Fld := ⟨0x110, 0, 1, 1, 4, .ro, .any, .ctl, 0x0⟩
/-- DMA_STAT.priv (R422). channel privileged -/
def DMA_STAT_priv : Fld := ⟨0x110, 1, 1, 1, 4, .ro, .any, .ctl, 0x0⟩
/-- DMA_CUR.lo/hi (R422). descriptor in progress -/
def DMA_CUR_lo : Fld := ⟨0x114, 0, 32, 1, 4, .ro, .any, .ctl, 0x0⟩
/-- DMA_CUR.lo/hi (R422). descriptor in progress -/
def DMA_CUR_hi : Fld := ⟨0x118, 0, 32, 1, 4, .ro, .any, .ctl, 0x0⟩
/-- DMA_DONE.n (R422). descriptors completed -/
def DMA_DONE_n : Fld := ⟨0x800, 0, 32, 1, 4, .rc, .any, .ctl, 0x0⟩
/-- DMA_ERR.n (R422). chains stopped by error -/
def DMA_ERR_n : Fld := ⟨0x804, 0, 32, 1, 4, .rc, .any, .ctl, 0x0⟩
/-- IRQ_STAT bit of done (R422). as the rules -/
def IRQ_dma_done : Nat := 0
/-- IRQ_STAT bit of error (R422). as the rules -/
def IRQ_dma_error : Nat := 1
/-- IRQ_STAT bit of aborted (R422). as the rules -/
def IRQ_dma_aborted : Nat := 2

/-- PCIE_BAR2.base lo/hi (R422). BAR2 DRAM base; [29:0] zero -/
def PCIE_BAR2_base_lo : Fld := ⟨0x100, 30, 2, 1, 4, .rw, .prv, .imm, 0x0⟩
/-- PCIE_BAR2.base lo/hi (R422). BAR2 DRAM base; [29:0] zero -/
def PCIE_BAR2_base_hi : Fld := ⟨0x104, 0, 32, 1, 4, .rw, .prv, .imm, 0x0⟩
/-- PCIE_OUT.base lo/hi (R422). outbound host base; [31:0] zero -/
def PCIE_OUT_base_lo : Fld := ⟨0x108, 0, 32, 1, 4, .ro, .any, .ctl, 0x0⟩
/-- PCIE_OUT.base lo/hi (R422). outbound host base; [31:0] zero -/
def PCIE_OUT_base_hi : Fld := ⟨0x10C, 0, 32, 1, 4, .rw, .prv, .imm, 0x0⟩
/-- PCIE_STAT.up (R422). link up -/
def PCIE_STAT_up : Fld := ⟨0x140, 0, 1, 1, 4, .ro, .any, .ctl, 0x0⟩
/-- PCIE_STAT.speed (R422). generation 1–4 -/
def PCIE_STAT_speed : Fld := ⟨0x140, 1, 3, 1, 4, .ro, .any, .ctl, 0x0⟩
/-- PCIE_STAT.width (R422). lanes: 1, 2 or 4 -/
def PCIE_STAT_width : Fld := ⟨0x140, 4, 3, 1, 4, .ro, .any, .ctl, 0x0⟩
/-- PCIE_CA.n (R422). Completer Aborts sent -/
def PCIE_CA_n : Fld := ⟨0x800, 0, 32, 1, 4, .rc, .any, .ctl, 0x0⟩
/-- PCIE_UR.n (R422). Unsupported Requests -/
def PCIE_UR_n : Fld := ⟨0x804, 0, 32, 1, 4, .rc, .any, .ctl, 0x0⟩
/-- PCIE_DOWN.n (R422). link-down events -/
def PCIE_DOWN_n : Fld := ⟨0x808, 0, 32, 1, 4, .rc, .any, .ctl, 0x0⟩
/-- IRQ_STAT bit of up (R422). as the states -/
def IRQ_pcie_up : Nat := 0
/-- IRQ_STAT bit of down (R422). as the states -/
def IRQ_pcie_down : Nat := 1
/-- IRQ_STAT bit of flr (R422). as the states -/
def IRQ_pcie_flr : Nat := 2

/-- INT_SEL.line (R422). line addressed -/
def INT_SEL_line : Fld := ⟨0x100, 0, 14, 1, 4, .rw, .any, .ctl, 0x0⟩
/-- INT_ROUTE.vec (R422). vector or source of the line -/
def INT_ROUTE_vec : Fld := ⟨0x104, 0, 6, 1, 4, .rw, .any, .ctl, 0x0⟩
/-- INT_ROUTE.dest (R422). 0 none, 1 MSI-X, 2 Crew, 3 Stage Manager -/
def INT_ROUTE_dest : Fld := ⟨0x104, 8, 2, 1, 4, .rw, .any, .ctl, 0x0⟩
/-- INT_ROUTE.level (R422). present level of the line -/
def INT_ROUTE_level : Fld := ⟨0x104, 16, 1, 1, 4, .ro, .any, .ctl, 0x0⟩
/-- INT_EOI.vec (R422). re-evaluate a vector (R421) -/
def INT_EOI_vec : Fld := ⟨0x108, 0, 6, 1, 4, .wo, .any, .ctl, 0x0⟩
/-- INT_VPEND.lo/hi (R422). bit v: a line of vector v is high -/
def INT_VPEND_lo : Fld := ⟨0x140, 0, 32, 1, 4, .ro, .any, .ctl, 0x0⟩
/-- INT_VPEND.lo/hi (R422). bit v: a line of vector v is high -/
def INT_VPEND_hi : Fld := ⟨0x144, 0, 32, 1, 4, .ro, .any, .ctl, 0x0⟩

/-- RXL_CTL.sleep (R85). 1 asleep (R71, R72) -/
def RXL_CTL_sleep : Fld := ⟨0x100, 0, 1, 1, 4, .rwh, .any, .ctl, 0x1⟩
/-- RXL_CTL.wake_det (R85). wake on rising signal detect -/
def RXL_CTL_wake_det : Fld := ⟨0x100, 1, 1, 1, 4, .rw, .any, .imm, 0x0⟩
/-- RXL_CTL.fixed (R85). 0 hunt, 1 fixed rate (R68) -/
def RXL_CTL_fixed : Fld := ⟨0x100, 2, 1, 1, 4, .rw, .any, .imm, 0x0⟩
/-- RXL_CTL.rate (R85). rate code for fixed mode (R65) -/
def RXL_CTL_rate : Fld := ⟨0x100, 4, 4, 1, 4, .rw, .any, .imm, 0x7⟩
/-- RXL_CTL.swap (R85). ask rotation to take this lane next; self-clearing -/
def RXL_CTL_swap : Fld := ⟨0x100, 8, 1, 1, 4, .w1s, .prv, .ctl, 0x0⟩
/-- RXL_POL.inv (R85). invert pad polarity -/
def RXL_POL_inv : Fld := ⟨0x104, 0, 1, 1, 4, .rw, .any, .staged, 0x0⟩
/-- RXL_EQ.ctle (R85). CTLE peaking code 0–31 -/
def RXL_EQ_ctle : Fld := ⟨0x108, 0, 5, 1, 4, .rw, .any, .staged, 0x0⟩
/-- RXL_EQ.dfe1 (R85). DFE tap 1, signed -/
def RXL_EQ_dfe1 : Fld := ⟨0x108, 8, 6, 1, 4, .rw, .any, .staged, 0x0⟩
/-- RXL_EQ.dfe2 (R85). DFE tap 2, signed -/
def RXL_EQ_dfe2 : Fld := ⟨0x108, 16, 6, 1, 4, .rw, .any, .staged, 0x0⟩
/-- RXL_EQ.dfe_en (R85). fixed DFE taps in use -/
def RXL_EQ_dfe_en : Fld := ⟨0x108, 24, 1, 1, 4, .rw, .any, .staged, 0x0⟩
/-- RXL_PAT.mode (R85). 0 media; 1–5 PRBS7, 9, 15, 23, 31; 6 check field; 7 reserved -/
def RXL_PAT_mode : Fld := ⟨0x10C, 0, 3, 1, 4, .rw, .any, .imm, 0x0⟩
/-- RXL_PAT.inv (R85). expect inverted pattern -/
def RXL_PAT_inv : Fld := ⟨0x10C, 3, 1, 1, 4, .rw, .any, .imm, 0x0⟩
/-- RXL_INJ.single (R85). inject one bit error; self-clearing -/
def RXL_INJ_single : Fld := ⟨0x110, 0, 1, 1, 4, .w1s, .prv, .ctl, 0x0⟩
/-- RXL_INJ.exp (R85). rate injection exponent (R79) -/
def RXL_INJ_exp : Fld := ⟨0x110, 8, 6, 1, 4, .rw, .prv, .imm, 0x0⟩
/-- RXL_STAT.sd (R85). signal detect -/
def RXL_STAT_sd : Fld := ⟨0x120, 0, 1, 1, 4, .ro, .any, .ctl, 0x0⟩
/-- RXL_STAT.lock (R85). CDR lock (R67) -/
def RXL_STAT_lock : Fld := ⟨0x120, 1, 1, 1, 4, .ro, .any, .ctl, 0x0⟩
/-- RXL_STAT.awake (R85). lane awake -/
def RXL_STAT_awake : Fld := ⟨0x120, 2, 1, 1, 4, .ro, .any, .ctl, 0x0⟩
/-- RXL_STAT.rate (R85). locked rate code -/
def RXL_STAT_rate : Fld := ⟨0x120, 4, 4, 1, 4, .ro, .any, .ctl, 0x0⟩
/-- RXL_STAT.on_swing (R85). group swing slice in service -/
def RXL_STAT_on_swing : Fld := ⟨0x120, 8, 1, 1, 4, .ro, .any, .ctl, 0x0⟩
/-- RXL_STAT.ho_busy (R85). handover in progress -/
def RXL_STAT_ho_busy : Fld := ⟨0x120, 9, 1, 1, 4, .ro, .any, .ctl, 0x0⟩
/-- RXL_STAT.chk_sync (R85). checker in sync -/
def RXL_STAT_chk_sync : Fld := ⟨0x120, 10, 1, 1, 4, .ro, .any, .ctl, 0x0⟩
/-- RXL_CAL.offset (R85). offset code of the slice in service -/
def RXL_CAL_offset : Fld := ⟨0x124, 0, 8, 1, 4, .ro, .any, .ctl, 0x0⟩
/-- RXL_CAL_TIME.lo/hi (R85). uptime of last calibration of this lane's slice -/
def RXL_CAL_TIME_lo : Fld := ⟨0x128, 0, 32, 1, 4, .ro, .any, .ctl, 0x0⟩
/-- RXL_CAL_TIME.lo/hi (R85). uptime of last calibration of this lane's slice -/
def RXL_CAL_TIME_hi : Fld := ⟨0x12C, 0, 32, 1, 4, .ro, .any, .ctl, 0x0⟩
/-- RXL_ERR.n (R85). bit errors while in sync -/
def RXL_ERR_n : Fld := ⟨0x800, 0, 32, 1, 4, .rc, .any, .ctl, 0x0⟩
/-- RXL_KBITS.n (R85). bits checked in sync, units of 1,024 -/
def RXL_KBITS_n : Fld := ⟨0x804, 0, 32, 1, 4, .rc, .any, .ctl, 0x0⟩
/-- RXL_LOCK_LOSS.n (R85). losses of lock -/
def RXL_LOCK_LOSS_n : Fld := ⟨0x808, 0, 32, 1, 4, .rc, .any, .ctl, 0x0⟩
/-- RXL_SYNC_LOSS.n (R85). checker sync losses -/
def RXL_SYNC_LOSS_n : Fld := ⟨0x80C, 0, 32, 1, 4, .rc, .any, .ctl, 0x0⟩
/-- RXL_HUNT_FAIL.n (R85). complete hunts without lock -/
def RXL_HUNT_FAIL_n : Fld := ⟨0x810, 0, 32, 1, 4, .rc, .any, .ctl, 0x0⟩
/-- RXL_HO_ABORT.n (R85). handovers aborted or skipped -/
def RXL_HO_ABORT_n : Fld := ⟨0x814, 0, 32, 1, 4, .rc, .any, .ctl, 0x0⟩
/-- IRQ_STAT bit of lock (R85). lock gained -/
def IRQ_rxl_lock : Nat := 0
/-- IRQ_STAT bit of lock_loss (R85). lock lost -/
def IRQ_rxl_lock_loss : Nat := 1
/-- IRQ_STAT bit of sd_loss (R85). signal detect fell -/
def IRQ_rxl_sd_loss : Nat := 2
/-- IRQ_STAT bit of sync_loss (R85). checker lost sync -/
def IRQ_rxl_sync_loss : Nat := 3
/-- IRQ_STAT bit of ho_done (R85). handover completed -/
def IRQ_rxl_ho_done : Nat := 4
/-- IRQ_STAT bit of handover_fail (R85). handover failed (R83) -/
def IRQ_rxl_handover_fail : Nat := 5

/-- TXL_CTL.sleep (R85). 1 asleep -/
def TXL_CTL_sleep : Fld := ⟨0x100, 0, 1, 1, 4, .rw, .any, .imm, 0x1⟩
/-- TXL_CTL.follow (R85). 1 rate follows formatter (R70) -/
def TXL_CTL_follow : Fld := ⟨0x100, 1, 1, 1, 4, .rw, .any, .imm, 0x1⟩
/-- TXL_CTL.slew (R85). 1 SD edge rate (R66) -/
def TXL_CTL_slew : Fld := ⟨0x100, 2, 1, 1, 4, .rw, .any, .imm, 0x0⟩
/-- TXL_CTL.rate (R85). rate code when follow is 0 -/
def TXL_CTL_rate : Fld := ⟨0x100, 4, 4, 1, 4, .rw, .any, .imm, 0x7⟩
/-- TXL_CTL.swap (R85). ask rotation to take this lane next; self-clearing -/
def TXL_CTL_swap : Fld := ⟨0x100, 8, 1, 1, 4, .w1s, .prv, .ctl, 0x0⟩
/-- TXL_POL.inv (R85). invert pad polarity -/
def TXL_POL_inv : Fld := ⟨0x104, 0, 1, 1, 4, .rw, .any, .staged, 0x0⟩
/-- TXL_EQ.pre (R85). pre-cursor tap 0–31 -/
def TXL_EQ_pre : Fld := ⟨0x108, 0, 5, 1, 4, .rw, .any, .staged, 0x0⟩
/-- TXL_EQ.main (R85). main tap 0–63 -/
def TXL_EQ_main : Fld := ⟨0x108, 8, 6, 1, 4, .rw, .any, .staged, 0x30⟩
/-- TXL_EQ.post (R85). post-cursor tap 0–31 (R74) -/
def TXL_EQ_post : Fld := ⟨0x108, 16, 5, 1, 4, .rw, .any, .staged, 0x0⟩
/-- TXL_PAT.mode (R85). as RXL_PAT.mode -/
def TXL_PAT_mode : Fld := ⟨0x10C, 0, 3, 1, 4, .rw, .any, .imm, 0x0⟩
/-- TXL_PAT.inv (R85). send inverted pattern -/
def TXL_PAT_inv : Fld := ⟨0x10C, 3, 1, 1, 4, .rw, .any, .imm, 0x0⟩
/-- TXL_INJ.single (R85). inject one bit error; self-clearing -/
def TXL_INJ_single : Fld := ⟨0x110, 0, 1, 1, 4, .w1s, .prv, .ctl, 0x0⟩
/-- TXL_INJ.exp (R85). rate injection exponent (R79) -/
def TXL_INJ_exp : Fld := ⟨0x110, 8, 6, 1, 4, .rw, .prv, .imm, 0x0⟩
/-- TXL_PHASE.pos (R85). signed output phase in 1/64 UI; stepping rules in "Clock Synthesis and Phase Control" -/
def TXL_PHASE_pos : Fld := ⟨0x114, 0, 8, 1, 4, .rw, .any, .ctl, 0x0⟩
/-- TXL_STAT.awake (R85). lane awake -/
def TXL_STAT_awake : Fld := ⟨0x120, 0, 1, 1, 4, .ro, .any, .ctl, 0x0⟩
/-- TXL_STAT.family (R85). 0 A, 1 B (R65) -/
def TXL_STAT_family : Fld := ⟨0x120, 1, 1, 1, 4, .ro, .any, .ctl, 0x0⟩
/-- TXL_STAT.rate (R85). rate code being sent -/
def TXL_STAT_rate : Fld := ⟨0x120, 4, 4, 1, 4, .ro, .any, .ctl, 0x0⟩
/-- TXL_STAT.on_swing (R85). group swing slice in service -/
def TXL_STAT_on_swing : Fld := ⟨0x120, 8, 1, 1, 4, .ro, .any, .ctl, 0x0⟩
/-- TXL_STAT.ho_busy (R85). handover in progress -/
def TXL_STAT_ho_busy : Fld := ⟨0x120, 9, 1, 1, 4, .ro, .any, .ctl, 0x0⟩
/-- TXL_CAL_TIME.lo/hi (R85). uptime of last calibration of this lane's slice -/
def TXL_CAL_TIME_lo : Fld := ⟨0x124, 0, 32, 1, 4, .ro, .any, .ctl, 0x0⟩
/-- TXL_CAL_TIME.lo/hi (R85). uptime of last calibration of this lane's slice -/
def TXL_CAL_TIME_hi : Fld := ⟨0x128, 0, 32, 1, 4, .ro, .any, .ctl, 0x0⟩
/-- TXL_KBITS.n (R85). bits sent, units of 1,024 -/
def TXL_KBITS_n : Fld := ⟨0x800, 0, 32, 1, 4, .rc, .any, .ctl, 0x0⟩
/-- TXL_INJECTED.n (R85). bit errors injected -/
def TXL_INJECTED_n : Fld := ⟨0x804, 0, 32, 1, 4, .rc, .any, .ctl, 0x0⟩
/-- TXL_RATE_CHG.n (R85). rate changes (R70) -/
def TXL_RATE_CHG_n : Fld := ⟨0x808, 0, 32, 1, 4, .rc, .any, .ctl, 0x0⟩
/-- TXL_HO_ABORT.n (R85). handovers aborted or skipped -/
def TXL_HO_ABORT_n : Fld := ⟨0x80C, 0, 32, 1, 4, .rc, .any, .ctl, 0x0⟩
/-- IRQ_STAT bit of wake (R85). lane awake -/
def IRQ_txl_wake : Nat := 0
/-- IRQ_STAT bit of rate_chg (R85). rate changed -/
def IRQ_txl_rate_chg : Nat := 1
/-- IRQ_STAT bit of ho_done (R85). handover completed -/
def IRQ_txl_ho_done : Nat := 4
/-- IRQ_STAT bit of handover_fail (R85). handover failed (R83) -/
def IRQ_txl_handover_fail : Nat := 5

/-- ETH_PORT.mode (R123). port mode (R107) -/
def ETH_PORT_mode : Fld := ⟨0x100, 0, 2, 1, 4, .rw, .prv, .staged, 0x0⟩
/-- ETH_PORT.lp_en (R123). enable of logical ports s = 0 to 3 -/
def ETH_PORT_lp_en : Fld := ⟨0x100, 4, 4, 1, 4, .rw, .prv, .staged, 0x0⟩
/-- ETH_POL.rx_inv (R123). invert receive lane 0–3 -/
def ETH_POL_rx_inv : Fld := ⟨0x104, 0, 4, 1, 4, .rw, .any, .staged, 0x0⟩
/-- ETH_POL.tx_inv (R123). invert transmit lane 0–3 -/
def ETH_POL_tx_inv : Fld := ⟨0x104, 4, 4, 1, 4, .rw, .any, .staged, 0x0⟩
/-- ETH_TXEQ[0–3] (R123). transmit FIR of lane n from board table: [5:0] pre, [13:8] main, [21:16] post -/
def ETH_TXEQ_pre : Fld := ⟨0x108, 0, 6, 4, 4, .rw, .any, .staged, 0x0⟩
/-- ETH_TXEQ[0–3] (R123). transmit FIR of lane n from board table: [5:0] pre, [13:8] main, [21:16] post -/
def ETH_TXEQ_main : Fld := ⟨0x108, 8, 6, 4, 4, .rw, .any, .staged, 0x0⟩
/-- ETH_TXEQ[0–3] (R123). transmit FIR of lane n from board table: [5:0] pre, [13:8] main, [21:16] post -/
def ETH_TXEQ_post : Fld := ⟨0x108, 16, 6, 4, 4, .rw, .any, .staged, 0x0⟩
/-- ETH_MAC[0–3].lo/hi (R123). MAC address of logical port s; hi [15:0] -/
def ETH_MAC_lo : Fld := ⟨0x120, 0, 32, 4, 8, .rw, .any, .imm, 0x0⟩
/-- ETH_MAC[0–3].lo/hi (R123). MAC address of logical port s; hi [15:0] -/
def ETH_MAC_hi : Fld := ⟨0x124, 0, 16, 4, 8, .rw, .any, .imm, 0x0⟩
/-- ETH_CLS.ctl_en (R123). control ring in use (R112) -/
def ETH_CLS_ctl_en : Fld := ⟨0x140, 0, 1, 1, 4, .rw, .any, .imm, 0x0⟩
/-- ETH_CLS.ucast_ctl (R123). other own-address frames to control ring -/
def ETH_CLS_ucast_ctl : Fld := ⟨0x140, 1, 1, 1, 4, .rw, .any, .imm, 0x0⟩
/-- ETH_MOD.reset_n (R123). module reset output, low active -/
def ETH_MOD_reset_n : Fld := ⟨0x150, 0, 1, 1, 4, .rw, .any, .imm, 0x0⟩
/-- ETH_MOD.lpmode (R123). module low-power output -/
def ETH_MOD_lpmode : Fld := ⟨0x150, 1, 1, 1, 4, .rw, .any, .imm, 0x1⟩
/-- ETH_MOD.int_n (R123). module interrupt input -/
def ETH_MOD_int_n : Fld := ⟨0x150, 2, 1, 1, 4, .ro, .any, .ctl, 0x1⟩
/-- ETH_MOD.present (R123). module present -/
def ETH_MOD_present : Fld := ⟨0x150, 3, 1, 1, 4, .ro, .any, .ctl, 0x0⟩
/-- ETH_TWI_CMD.addr (R123). 7-bit two-wire address -/
def ETH_TWI_CMD_addr : Fld := ⟨0x154, 0, 7, 1, 4, .rw, .any, .imm, 0x0⟩
/-- ETH_TWI_CMD.read (R123). 1 read, 0 write -/
def ETH_TWI_CMD_read : Fld := ⟨0x154, 7, 1, 1, 4, .rw, .any, .imm, 0x0⟩
/-- ETH_TWI_CMD.offset (R123). register offset in module -/
def ETH_TWI_CMD_offset : Fld := ⟨0x154, 8, 8, 1, 4, .rw, .any, .imm, 0x0⟩
/-- ETH_TWI_CMD.len (R123). bytes 1–16; 0 or above 16 ignored, code 0x042 -/
def ETH_TWI_CMD_len : Fld := ⟨0x154, 16, 5, 1, 4, .rw, .any, .imm, 0x0⟩
/-- ETH_TWI_CMD.go (R123). start at 400 kHz; self-clearing -/
def ETH_TWI_CMD_go : Fld := ⟨0x154, 31, 1, 1, 4, .w1s, .any, .ctl, 0x0⟩
/-- ETH_TWI_STAT.st (R123). 0 idle, 1 busy, 2 done, 3 no acknowledge -/
def ETH_TWI_STAT_st : Fld := ⟨0x158, 0, 2, 1, 4, .ro, .any, .ctl, 0x0⟩
/-- ETH_TWI_DATA[0–3] (R123). 16 data bytes, byte 0 in [7:0] of the first word -/
def ETH_TWI_DATA : Fld := ⟨0x160, 0, 32, 4, 4, .rwh, .any, .imm, 0x0⟩
/-- ETH_LINK.up (R123). logical port s up (R109) -/
def ETH_LINK_up : Fld := ⟨0x180, 0, 4, 1, 4, .ro, .any, .ctl, 0x0⟩
/-- ETH_LINK.hi_ser (R123). hi_ser on logical port s -/
def ETH_LINK_hi_ser : Fld := ⟨0x180, 4, 4, 1, 4, .ro, .any, .ctl, 0x0⟩
/-- IRQ_STAT bit of link_up (R123). a logical port came up -/
def IRQ_ethCtl_link_up : Nat := 0
/-- IRQ_STAT bit of link_down (R123). a logical port went down -/
def IRQ_ethCtl_link_down : Nat := 1
/-- IRQ_STAT bit of mod_int (R123). int_n fell -/
def IRQ_ethCtl_mod_int : Nat := 2
/-- IRQ_STAT bit of twi_done (R123). two-wire command ended -/
def IRQ_ethCtl_twi_done : Nat := 3

/-- ETH_PTP_CTL.en (R123). PTP on this port -/
def ETH_PTP_CTL_en : Fld := ⟨0x100, 0, 1, 1, 4, .rw, .prv, .imm, 0x0⟩
/-- ETH_PTP_CTL.one_step (R123). one-step Sync (R120) -/
def ETH_PTP_CTL_one_step : Fld := ⟨0x100, 1, 1, 1, 4, .rw, .prv, .imm, 0x0⟩
/-- ETH_PTP_CTL.l2 (R123). recognise EtherType 0x88F7 -/
def ETH_PTP_CTL_l2 : Fld := ⟨0x100, 2, 1, 1, 4, .rw, .prv, .imm, 0x0⟩
/-- ETH_PTP_CTL.inst (R123). 0 none, 1 instance 0, 2 instance 1, 3 reserved -/
def ETH_PTP_CTL_inst : Fld := ⟨0x100, 4, 2, 1, 4, .rw, .prv, .imm, 0x0⟩
/-- ETH_PTP_CTL.lport (R123). logical port s carrying the instance -/
def ETH_PTP_CTL_lport : Fld := ⟨0x100, 8, 2, 1, 4, .rw, .prv, .imm, 0x0⟩
/-- ETH_PTP_ADJ.rx (R123). signed receive adjustment, cues -/
def ETH_PTP_ADJ_rx : Fld := ⟨0x104, 0, 16, 1, 4, .rw, .prv, .imm, 0x0⟩
/-- ETH_PTP_ADJ.tx (R123). signed transmit adjustment, cues -/
def ETH_PTP_ADJ_tx : Fld := ⟨0x104, 16, 16, 1, 4, .rw, .prv, .imm, 0x0⟩
/-- ETH_TSQ_POP.tag (R123). tag; read pops (R122) -/
def ETH_TSQ_POP_tag : Fld := ⟨0x110, 0, 16, 1, 4, .ro, .any, .ctl, 0x0⟩
/-- ETH_TSQ_POP.lp (R123). logical port s -/
def ETH_TSQ_POP_lp : Fld := ⟨0x110, 16, 2, 1, 4, .ro, .any, .ctl, 0x0⟩
/-- ETH_TSQ_POP.valid (R123). an entry was popped -/
def ETH_TSQ_POP_valid : Fld := ⟨0x110, 31, 1, 1, 4, .ro, .any, .ctl, 0x0⟩
/-- ETH_TSQ_UPT.lo/hi (R123). latched uptime stamp -/
def ETH_TSQ_UPT_lo : Fld := ⟨0x114, 0, 32, 1, 4, .ro, .any, .ctl, 0x0⟩
/-- ETH_TSQ_UPT.lo/hi (R123). latched uptime stamp -/
def ETH_TSQ_UPT_hi : Fld := ⟨0x118, 0, 32, 1, 4, .ro, .any, .ctl, 0x0⟩
/-- ETH_TSQ_SEC.lo/hi (R123). latched seconds; hi [15:0] -/
def ETH_TSQ_SEC_lo : Fld := ⟨0x11C, 0, 32, 1, 4, .ro, .any, .ctl, 0x0⟩
/-- ETH_TSQ_SEC.lo/hi (R123). latched seconds; hi [15:0] -/
def ETH_TSQ_SEC_hi : Fld := ⟨0x120, 0, 16, 1, 4, .ro, .any, .ctl, 0x0⟩
/-- ETH_TSQ_NS.ns (R123). latched nanoseconds -/
def ETH_TSQ_NS_ns : Fld := ⟨0x124, 0, 32, 1, 4, .ro, .any, .ctl, 0x0⟩
/-- ETH_TSQ_REM.rem (R123). latched signed remainder, 2^-16 ns -/
def ETH_TSQ_REM_rem : Fld := ⟨0x128, 0, 17, 1, 4, .ro, .any, .ctl, 0x0⟩
/-- ETH_TSQ_REM.tod (R123). time of day was valid -/
def ETH_TSQ_REM_tod : Fld := ⟨0x128, 31, 1, 1, 4, .ro, .any, .ctl, 0x0⟩
/-- ETH_TSQ_LEVEL.n (R123). entries held, 0–64 -/
def ETH_TSQ_LEVEL_n : Fld := ⟨0x12C, 0, 7, 1, 4, .ro, .any, .ctl, 0x0⟩
/-- ETH_TS_OVF.n (R123). stamps discarded (R121) -/
def ETH_TS_OVF_n : Fld := ⟨0x800, 0, 32, 1, 4, .rc, .any, .ctl, 0x0⟩
/-- ETH_PTP_RX.n (R123). PTP frames delivered to the ring -/
def ETH_PTP_RX_n : Fld := ⟨0x804, 0, 32, 1, 4, .rc, .any, .ctl, 0x0⟩
/-- IRQ_STAT bit of ts_ready (R123). queue became non-empty -/
def IRQ_ethPtp_ts_ready : Nat := 0
/-- IRQ_STAT bit of ts_ovf (R123). a stamp was discarded -/
def IRQ_ethPtp_ts_ovf : Nat := 1

/-- ETH_PRR_BASE.lo/hi (R123). PTP receive ring base, 128 KiB aligned -/
def ETH_PRR_BASE_lo : Fld := ⟨0x100, 0, 32, 1, 4, .rw, .prv, .staged, 0x0⟩
/-- ETH_PRR_BASE.lo/hi (R123). PTP receive ring base, 128 KiB aligned -/
def ETH_PRR_BASE_hi : Fld := ⟨0x104, 0, 32, 1, 4, .rw, .prv, .staged, 0x0⟩
/-- ETH_PRR_HEAD.n (R123). hardware producer index -/
def ETH_PRR_HEAD_n : Fld := ⟨0x108, 0, 16, 1, 4, .ro, .any, .ctl, 0x0⟩
/-- ETH_PRR_TAIL.n (R123). software consumer index -/
def ETH_PRR_TAIL_n : Fld := ⟨0x10C, 0, 16, 1, 4, .rw, .any, .imm, 0x0⟩
/-- ETH_CRR_BASE.lo/hi (R123). control ring base, 2 MiB aligned -/
def ETH_CRR_BASE_lo : Fld := ⟨0x110, 0, 32, 1, 4, .rw, .prv, .staged, 0x0⟩
/-- ETH_CRR_BASE.lo/hi (R123). control ring base, 2 MiB aligned -/
def ETH_CRR_BASE_hi : Fld := ⟨0x114, 0, 32, 1, 4, .rw, .prv, .staged, 0x0⟩
/-- ETH_CRR_HEAD.n (R123). hardware producer index -/
def ETH_CRR_HEAD_n : Fld := ⟨0x118, 0, 16, 1, 4, .ro, .any, .ctl, 0x0⟩
/-- ETH_CRR_TAIL.n (R123). software consumer index -/
def ETH_CRR_TAIL_n : Fld := ⟨0x11C, 0, 16, 1, 4, .rw, .any, .imm, 0x0⟩
/-- ETH_TXR_BASE.lo/hi (R123). Crew transmit ring base, 8 KiB aligned -/
def ETH_TXR_BASE_lo : Fld := ⟨0x120, 0, 32, 1, 4, .rw, .prv, .staged, 0x0⟩
/-- ETH_TXR_BASE.lo/hi (R123). Crew transmit ring base, 8 KiB aligned -/
def ETH_TXR_BASE_hi : Fld := ⟨0x124, 0, 32, 1, 4, .rw, .prv, .staged, 0x0⟩
/-- ETH_TXR_HEAD.n (R123). software producer index -/
def ETH_TXR_HEAD_n : Fld := ⟨0x128, 0, 16, 1, 4, .rw, .any, .imm, 0x0⟩
/-- ETH_TXR_TAIL.n (R123). hardware consumer index -/
def ETH_TXR_TAIL_n : Fld := ⟨0x12C, 0, 16, 1, 4, .ro, .any, .ctl, 0x0⟩
/-- PTP_RX_DROP.n (R123). PTP ring full -/
def PTP_RX_DROP_n : Fld := ⟨0x800, 0, 32, 1, 4, .rc, .any, .ctl, 0x0⟩
/-- PTP_LONG.n (R123). PTP frames over 480 bytes -/
def PTP_LONG_n : Fld := ⟨0x804, 0, 32, 1, 4, .rc, .any, .ctl, 0x0⟩
/-- CTL_DROP.n (R123). control ring full -/
def CTL_DROP_n : Fld := ⟨0x808, 0, 32, 1, 4, .rc, .any, .ctl, 0x0⟩
/-- CTL_LONG.n (R123). control frames over 2,016 bytes -/
def CTL_LONG_n : Fld := ⟨0x80C, 0, 32, 1, 4, .rc, .any, .ctl, 0x0⟩
/-- TX_BAD_LEN.n (R123). Crew frames refused (R111) -/
def TX_BAD_LEN_n : Fld := ⟨0x810, 0, 32, 1, 4, .rc, .any, .ctl, 0x0⟩
/-- IRQ_STAT bit of prr (R123). PTP ring advanced -/
def IRQ_ethRing_prr : Nat := 0
/-- IRQ_STAT bit of crr (R123). control ring advanced -/
def IRQ_ethRing_crr : Nat := 1
/-- IRQ_STAT bit of txr (R123). transmit descriptors written back -/
def IRQ_ethRing_txr : Nat := 2
/-- IRQ_STAT bit of ring_drop (R123). a receive ring dropped a frame -/
def IRQ_ethRing_ring_drop : Nat := 3

/-- RX_FRAMES (R124). 64-bit statistics counter -/
def ST_RX_FRAMES_lo : Fld := ⟨0x800, 0, 32, 1, 4, .rc, .any, .ctl, 0x0⟩
/-- RX_FRAMES (R124). 64-bit statistics counter -/
def ST_RX_FRAMES_hi : Fld := ⟨0x804, 0, 32, 1, 4, .rc, .any, .ctl, 0x0⟩
/-- RX_BYTES (R124). 64-bit statistics counter -/
def ST_RX_BYTES_lo : Fld := ⟨0x808, 0, 32, 1, 4, .rc, .any, .ctl, 0x0⟩
/-- RX_BYTES (R124). 64-bit statistics counter -/
def ST_RX_BYTES_hi : Fld := ⟨0x80C, 0, 32, 1, 4, .rc, .any, .ctl, 0x0⟩
/-- RX_RUNT (R124). 64-bit statistics counter -/
def ST_RX_RUNT_lo : Fld := ⟨0x810, 0, 32, 1, 4, .rc, .any, .ctl, 0x0⟩
/-- RX_RUNT (R124). 64-bit statistics counter -/
def ST_RX_RUNT_hi : Fld := ⟨0x814, 0, 32, 1, 4, .rc, .any, .ctl, 0x0⟩
/-- RX_GIANT (R124). 64-bit statistics counter -/
def ST_RX_GIANT_lo : Fld := ⟨0x818, 0, 32, 1, 4, .rc, .any, .ctl, 0x0⟩
/-- RX_GIANT (R124). 64-bit statistics counter -/
def ST_RX_GIANT_hi : Fld := ⟨0x81C, 0, 32, 1, 4, .rc, .any, .ctl, 0x0⟩
/-- RX_FCS (R124). 64-bit statistics counter -/
def ST_RX_FCS_lo : Fld := ⟨0x820, 0, 32, 1, 4, .rc, .any, .ctl, 0x0⟩
/-- RX_FCS (R124). 64-bit statistics counter -/
def ST_RX_FCS_hi : Fld := ⟨0x824, 0, 32, 1, 4, .rc, .any, .ctl, 0x0⟩
/-- RX_IP_HDR (R124). 64-bit statistics counter -/
def ST_RX_IP_HDR_lo : Fld := ⟨0x828, 0, 32, 1, 4, .rc, .any, .ctl, 0x0⟩
/-- RX_IP_HDR (R124). 64-bit statistics counter -/
def ST_RX_IP_HDR_hi : Fld := ⟨0x82C, 0, 32, 1, 4, .rc, .any, .ctl, 0x0⟩
/-- RX_UDP_CSUM (R124). 64-bit statistics counter -/
def ST_RX_UDP_CSUM_lo : Fld := ⟨0x830, 0, 32, 1, 4, .rc, .any, .ctl, 0x0⟩
/-- RX_UDP_CSUM (R124). 64-bit statistics counter -/
def ST_RX_UDP_CSUM_hi : Fld := ⟨0x834, 0, 32, 1, 4, .rc, .any, .ctl, 0x0⟩
/-- RX_UDP_ZERO6 (R124). 64-bit statistics counter -/
def ST_RX_UDP_ZERO6_lo : Fld := ⟨0x838, 0, 32, 1, 4, .rc, .any, .ctl, 0x0⟩
/-- RX_UDP_ZERO6 (R124). 64-bit statistics counter -/
def ST_RX_UDP_ZERO6_hi : Fld := ⟨0x83C, 0, 32, 1, 4, .rc, .any, .ctl, 0x0⟩
/-- RX_NOMATCH (R124). 64-bit statistics counter -/
def ST_RX_NOMATCH_lo : Fld := ⟨0x840, 0, 32, 1, 4, .rc, .any, .ctl, 0x0⟩
/-- RX_NOMATCH (R124). 64-bit statistics counter -/
def ST_RX_NOMATCH_hi : Fld := ⟨0x844, 0, 32, 1, 4, .rc, .any, .ctl, 0x0⟩
/-- TX_FRAMES (R124). 64-bit statistics counter -/
def ST_TX_FRAMES_lo : Fld := ⟨0x848, 0, 32, 1, 4, .rc, .any, .ctl, 0x0⟩
/-- TX_FRAMES (R124). 64-bit statistics counter -/
def ST_TX_FRAMES_hi : Fld := ⟨0x84C, 0, 32, 1, 4, .rc, .any, .ctl, 0x0⟩
/-- TX_BYTES (R124). 64-bit statistics counter -/
def ST_TX_BYTES_lo : Fld := ⟨0x850, 0, 32, 1, 4, .rc, .any, .ctl, 0x0⟩
/-- TX_BYTES (R124). 64-bit statistics counter -/
def ST_TX_BYTES_hi : Fld := ⟨0x854, 0, 32, 1, 4, .rc, .any, .ctl, 0x0⟩
/-- TX_PAD (R124). 64-bit statistics counter -/
def ST_TX_PAD_lo : Fld := ⟨0x858, 0, 32, 1, 4, .rc, .any, .ctl, 0x0⟩
/-- TX_PAD (R124). 64-bit statistics counter -/
def ST_TX_PAD_hi : Fld := ⟨0x85C, 0, 32, 1, 4, .rc, .any, .ctl, 0x0⟩
/-- FEC_CORR (R124). 64-bit statistics counter -/
def ST_FEC_CORR_lo : Fld := ⟨0x860, 0, 32, 1, 4, .rc, .any, .ctl, 0x0⟩
/-- FEC_CORR (R124). 64-bit statistics counter -/
def ST_FEC_CORR_hi : Fld := ⟨0x864, 0, 32, 1, 4, .rc, .any, .ctl, 0x0⟩
/-- FEC_UNCORR (R124). 64-bit statistics counter -/
def ST_FEC_UNCORR_lo : Fld := ⟨0x868, 0, 32, 1, 4, .rc, .any, .ctl, 0x0⟩
/-- FEC_UNCORR (R124). 64-bit statistics counter -/
def ST_FEC_UNCORR_hi : Fld := ⟨0x86C, 0, 32, 1, 4, .rc, .any, .ctl, 0x0⟩
/-- LINK_DOWN (R124). 64-bit statistics counter -/
def ST_LINK_DOWN_lo : Fld := ⟨0x870, 0, 32, 1, 4, .rc, .any, .ctl, 0x0⟩
/-- LINK_DOWN (R124). 64-bit statistics counter -/
def ST_LINK_DOWN_hi : Fld := ⟨0x874, 0, 32, 1, 4, .rc, .any, .ctl, 0x0⟩
/-- RX_FRAG (R124). 64-bit statistics counter -/
def ST_RX_FRAG_lo : Fld := ⟨0x878, 0, 32, 1, 4, .rc, .any, .ctl, 0x0⟩
/-- RX_FRAG (R124). 64-bit statistics counter -/
def ST_RX_FRAG_hi : Fld := ⟨0x87C, 0, 32, 1, 4, .rc, .any, .ctl, 0x0⟩

/-- TMT_ROW[0–127] (R144, R147). entry -/
def TMT_ROW_entry : Fld := ⟨0x100, 0, 13, 128, 8, .rw, .any, .staged, 0x0⟩
/-- TMT_ROW[0–127] (R144, R147). path: 0 A, 1 B -/
def TMT_ROW_path : Fld := ⟨0x100, 14, 1, 128, 8, .rw, .any, .staged, 0x0⟩
/-- TMT_ROW[0–127] (R144, R147). enable -/
def TMT_ROW_en : Fld := ⟨0x100, 15, 1, 128, 8, .rw, .any, .staged, 0x0⟩
/-- TMT_ROW[0–127] (R144, R147). TRO in cues -/
def TMT_ROW_tro : Fld := ⟨0x104, 0, 32, 128, 8, .rw, .any, .staged, 0x0⟩
/-- TMT_LATE.n (R147). late packets of the rows of this page -/
def TMT_LATE_n : Fld := ⟨0x800, 0, 32, 1, 4, .rc, .any, .ctl, 0x0⟩

/-- FLR_SEL.entry (R147). selected entry -/
def FLR_SEL_entry : Fld := ⟨0x100, 0, 13, 1, 4, .rwh, .any, .ctl, 0x0⟩
/-- FLR_SEL.live (R147). load from the live copy -/
def FLR_SEL_live : Fld := ⟨0x100, 16, 1, 1, 4, .rwh, .any, .ctl, 0x0⟩
/-- FLR_SEL.load (R147). load (R131); self-clearing -/
def FLR_SEL_load : Fld := ⟨0x100, 24, 1, 1, 4, .w1s, .any, .ctl, 0x0⟩
/-- FLR_SEL.store (R147). store window to staging; self-clearing -/
def FLR_SEL_store : Fld := ⟨0x100, 25, 1, 1, 4, .w1s, .prv, .ctl, 0x0⟩
/-- FLR_SEL.busy (R147). load or store in progress, at most 64 FLOW cycles -/
def FLR_SEL_busy : Fld := ⟨0x100, 26, 1, 1, 4, .ro, .any, .ctl, 0x0⟩
/-- FLR_TCRC_REF.crc (R147). table CRC reference (R132) -/
def FLR_TCRC_REF_crc : Fld := ⟨0x104, 0, 32, 1, 4, .rw, .prv, .imm, 0x0⟩
/-- FLR_TCRC_NOW.crc (R147). table CRC of the last pass -/
def FLR_TCRC_NOW_crc : Fld := ⟨0x108, 0, 32, 1, 4, .ro, .any, .ctl, 0x0⟩
/-- FLR_PEND.n (R147). entries stored since the last commit -/
def FLR_PEND_n : Fld := ⟨0x10C, 0, 14, 1, 4, .ro, .any, .ctl, 0x0⟩
/-- FLR_WIN[0–15] (R147). entry words 0x00–0x3C -/
def FLR_WIN : Fld := ⟨0x140, 0, 32, 16, 4, .rwh, .any, .ctl, 0x0⟩
/-- FLR_SND[s].addr (R147). sender s (0–3) source address, four words -/
def FLR_SND_addr0 : Fld := ⟨0x180, 0, 32, 4, 32, .ro, .any, .ctl, 0x0⟩
/-- FLR_SND[s].addr (R147). sender s (0–3) source address, four words -/
def FLR_SND_addr1 : Fld := ⟨0x184, 0, 32, 4, 32, .ro, .any, .ctl, 0x0⟩
/-- FLR_SND[s].addr (R147). sender s (0–3) source address, four words -/
def FLR_SND_addr2 : Fld := ⟨0x188, 0, 32, 4, 32, .ro, .any, .ctl, 0x0⟩
/-- FLR_SND[s].addr (R147). sender s (0–3) source address, four words -/
def FLR_SND_addr3 : Fld := ⟨0x18C, 0, 32, 4, 32, .ro, .any, .ctl, 0x0⟩
/-- FLR_SND[s].ssrc (R147). sender s SSRC -/
def FLR_SND_ssrc : Fld := ⟨0x190, 0, 32, 4, 32, .ro, .any, .ctl, 0x0⟩
/-- FLR_SND[s].st (R147). [0] tracked, [1] active, [2] path B, [3] heard within loss time -/
def FLR_SND_st : Fld := ⟨0x194, 0, 4, 4, 32, .ro, .any, .ctl, 0x0⟩
/-- FLR_ESTAT.state (R147). 0 Off, 1 Waiting, 2 Locking, 3 Live, 4 Lost -/
def FLR_ESTAT_state : Fld := ⟨0x200, 0, 3, 1, 4, .ro, .any, .ctl, 0x0⟩
/-- FLR_ESTAT.unref (R147). placed by arrival (R143) -/
def FLR_ESTAT_unref : Fld := ⟨0x200, 3, 1, 1, 4, .ro, .any, .ctl, 0x0⟩
/-- FLR_ESTAT.a_in (R147). path A in the merge -/
def FLR_ESTAT_a_in : Fld := ⟨0x200, 4, 1, 1, 4, .ro, .any, .ctl, 0x0⟩
/-- FLR_ESTAT.b_in (R147). path B in the merge -/
def FLR_ESTAT_b_in : Fld := ⟨0x200, 5, 1, 1, 4, .ro, .any, .ctl, 0x0⟩
/-- FLR_SKEW.us (R147). largest path difference since load (R139) -/
def FLR_SKEW_us : Fld := ⟨0x204, 0, 14, 1, 4, .ro, .any, .ctl, 0x0⟩
/-- FLR_ECNT[0–7] (R147). loaded counters: pkts_a, pkts_b, dup, lost, late, snd_chg, snd_ignored, pt_bad -/
def FLR_ECNT : Fld := ⟨0x210, 0, 32, 8, 4, .ro, .any, .ctl, 0x0⟩
/-- FLR_DUP.n (R147). duplicates, all entries -/
def FLR_DUP_n : Fld := ⟨0x800, 0, 32, 1, 4, .rc, .any, .ctl, 0x0⟩
/-- FLR_LOST.n (R147). lost numbers, all entries -/
def FLR_LOST_n : Fld := ⟨0x804, 0, 32, 1, 4, .rc, .any, .ctl, 0x0⟩
/-- FLR_LATE.n (R147). late copies, all entries -/
def FLR_LATE_n : Fld := ⟨0x808, 0, 32, 1, 4, .rc, .any, .ctl, 0x0⟩
/-- FLR_SNDCHG.n (R147). sender changes, all entries -/
def FLR_SNDCHG_n : Fld := ⟨0x80C, 0, 32, 1, 4, .rc, .any, .ctl, 0x0⟩
/-- IRQ_STAT bit of flow_up (R147). an entry became Live -/
def IRQ_flr_flow_up : Nat := 0
/-- IRQ_STAT bit of flow_lost (R147). an entry became Lost -/
def IRQ_flr_flow_lost : Nat := 1
/-- IRQ_STAT bit of snd_chg (R147). a sender change was reported -/
def IRQ_flr_snd_chg : Nat := 2
/-- IRQ_STAT bit of snd_ovf (R147). a sender could not be tracked (R137) -/
def IRQ_flr_snd_ovf : Nat := 3
/-- IRQ_STAT bit of skew (R147). path difference above SKEW.us -/
def IRQ_flr_skew : Nat := 4

/-- FLT_SEL (R147). entry, live, load, store and busy at the same bits -/
def FLT_SEL_entry : Fld := ⟨0x100, 0, 13, 1, 4, .rwh, .any, .ctl, 0x0⟩
/-- FLT_SEL (R147). entry, live, load, store and busy at the same bits -/
def FLT_SEL_live : Fld := ⟨0x100, 16, 1, 1, 4, .rwh, .any, .ctl, 0x0⟩
/-- FLT_SEL (R147). entry, live, load, store and busy at the same bits -/
def FLT_SEL_load : Fld := ⟨0x100, 24, 1, 1, 4, .w1s, .any, .ctl, 0x0⟩
/-- FLT_SEL (R147). entry, live, load, store and busy at the same bits -/
def FLT_SEL_store : Fld := ⟨0x100, 25, 1, 1, 4, .w1s, .prv, .ctl, 0x0⟩
/-- FLT_SEL (R147). entry, live, load, store and busy at the same bits -/
def FLT_SEL_busy : Fld := ⟨0x100, 26, 1, 1, 4, .ro, .any, .ctl, 0x0⟩
/-- FLT_TCRC_REF.crc (R147). table CRC reference -/
def FLT_TCRC_REF_crc : Fld := ⟨0x104, 0, 32, 1, 4, .rw, .prv, .imm, 0x0⟩
/-- FLT_TCRC_NOW.crc (R147). table CRC of the last pass -/
def FLT_TCRC_NOW_crc : Fld := ⟨0x108, 0, 32, 1, 4, .ro, .any, .ctl, 0x0⟩
/-- FLT_PEND.n (R147). entries stored since the last commit -/
def FLT_PEND_n : Fld := ⟨0x10C, 0, 14, 1, 4, .ro, .any, .ctl, 0x0⟩
/-- FLT_WIN[0–15] (R147). entry words 0x00–0x3C -/
def FLT_WIN : Fld := ⟨0x140, 0, 32, 16, 4, .rwh, .any, .ctl, 0x0⟩
/-- FLT_ESTAT.sending (R147). packets leaving -/
def FLT_ESTAT_sending : Fld := ⟨0x200, 0, 1, 1, 4, .ro, .any, .ctl, 0x0⟩
/-- FLT_ESTAT.muted (R147). black and silence sent (R143) -/
def FLT_ESTAT_muted : Fld := ⟨0x200, 1, 1, 1, 4, .ro, .any, .ctl, 0x0⟩
/-- FLT_ESTAT.wait_tod (R147). waiting for time of day -/
def FLT_ESTAT_wait_tod : Fld := ⟨0x200, 2, 1, 1, 4, .ro, .any, .ctl, 0x0⟩
/-- FLT_ECNT[0–3] (R147). loaded counters: packets, frames, muted, late -/
def FLT_ECNT : Fld := ⟨0x210, 0, 32, 4, 4, .ro, .any, .ctl, 0x0⟩
/-- FLT_LATE.n (R147). late packets, all entries -/
def FLT_LATE_n : Fld := ⟨0x800, 0, 32, 1, 4, .rc, .any, .ctl, 0x0⟩
/-- FLT_MUTED.n (R147). muted frames, all entries -/
def FLT_MUTED_n : Fld := ⟨0x804, 0, 32, 1, 4, .rc, .any, .ctl, 0x0⟩
/-- IRQ_STAT bit of muted (R147). an entry started muting -/
def IRQ_flt_muted : Nat := 0
/-- IRQ_STAT bit of late (R147). a packet left late -/
def IRQ_flt_late : Nat := 1

/-- FLC_SRC[n] (R147). address of logical port n (0–63), four words; IPv4 in the first word, the other words zero -/
def FLC_SRC : Fld := ⟨0x100, 0, 32, 256, 4, .rw, .prv, .staged, 0x0⟩
/-- FLC_FAM.v6 (R147). bit n set: logical port n uses IPv6; two words -/
def FLC_FAM_v6 : Fld := ⟨0x500, 0, 32, 2, 4, .rw, .prv, .staged, 0x0⟩
/-- FLC_STAGE.lo/hi (R147). DRAM staging area base, 1 GiB aligned (R140) -/
def FLC_STAGE_lo : Fld := ⟨0x510, 0, 32, 1, 4, .rw, .prv, .staged, 0x0⟩
/-- FLC_STAGE.lo/hi (R147). DRAM staging area base, 1 GiB aligned (R140) -/
def FLC_STAGE_hi : Fld := ⟨0x514, 0, 32, 1, 4, .rw, .prv, .staged, 0x0⟩

/-- TT_TAPCFG.group (R204). alignment group -/
def TT_TAPCFG_group : Fld := ⟨0x100, 0, 4, 16, 32, .rw, .any, .staged, 0x0⟩
/-- TT_TAPCFG.policy (R204). off-platform policy (R176) -/
def TT_TAPCFG_policy : Fld := ⟨0x100, 4, 2, 16, 32, .rw, .any, .staged, 0x1⟩
/-- TT_TAPCFG.gang (R204). 0 one, 1 two, 2 four taps; base only -/
def TT_TAPCFG_gang : Fld := ⟨0x100, 6, 2, 16, 32, .rw, .any, .staged, 0x0⟩
/-- TT_TAPCFG.afv (R204). audio follows video -/
def TT_TAPCFG_afv : Fld := ⟨0x100, 8, 1, 16, 32, .rw, .any, .staged, 0x1⟩
/-- TT_TAPCFG.tclass (R204). tally classes 0–3 -/
def TT_TAPCFG_tclass : Fld := ⟨0x100, 12, 4, 16, 32, .rw, .any, .staged, 0x0⟩
/-- TT_TAPCTL.src (R204). rail to take; write is a take (R168) -/
def TT_TAPCTL_src : Fld := ⟨0x104, 0, 12, 16, 32, .rwh, .any, .ctl, 0xFFF⟩
/-- TT_TAPCTL.bkwy (R204). the take written with it breaks away -/
def TT_TAPCTL_bkwy : Fld := ⟨0x104, 12, 1, 16, 32, .rw, .any, .ctl, 0x0⟩
/-- TT_TAPAUD.base (R204). first follow Pit output -/
def TT_TAPAUD_base : Fld := ⟨0x108, 0, 16, 16, 32, .rw, .any, .staged, 0x0⟩
/-- TT_TAPAUD.n (R204). follow outputs, 0–64 -/
def TT_TAPAUD_n : Fld := ⟨0x108, 16, 7, 16, 32, .rw, .any, .staged, 0x0⟩
/-- TT_TAPSTAT.cur (R204). rail selected -/
def TT_TAPSTAT_cur : Fld := ⟨0x10C, 0, 12, 16, 32, .ro, .any, .ctl, 0xFFF⟩
/-- TT_TAPSTAT.res (R204). last result: 0 none, 1 landed, 2 late, 3 cut off platform, 4 through auto-sync, 5 refused off platform, 6 no synchroniser, 7 invalid, 8 superseded, 9 strict salvo refused, 10 source cannot be synchronised (R181) -/
def TT_TAPSTAT_res : Fld := ⟨0x10C, 12, 4, 16, 32, .ro, .any, .ctl, 0x0⟩
/-- TT_TAPSTAT.pend (R204). a take is armed -/
def TT_TAPSTAT_pend : Fld := ⟨0x10C, 16, 1, 16, 32, .ro, .any, .ctl, 0x0⟩
/-- TT_TAPSTAT.off (R204). source off platform -/
def TT_TAPSTAT_off : Fld := ⟨0x10C, 17, 1, 16, 32, .ro, .any, .ctl, 0x0⟩
/-- TT_TAPSTAT.async (R204). synchroniser inserted -/
def TT_TAPSTAT_async : Fld := ⟨0x10C, 18, 1, 16, 32, .ro, .any, .ctl, 0x0⟩
/-- TT_TAPSTAT.absent (R204). rail absent (R174) -/
def TT_TAPSTAT_absent : Fld := ⟨0x10C, 19, 1, 16, 32, .ro, .any, .ctl, 0x0⟩
/-- TT_TAPSYNC.unit (R204). claimed unit or gang base -/
def TT_TAPSYNC_unit : Fld := ⟨0x110, 0, 8, 16, 32, .ro, .any, .ctl, 0x0⟩
/-- TT_TAPSYNC.valid (R204). a unit is claimed -/
def TT_TAPSYNC_valid : Fld := ⟨0x110, 15, 1, 16, 32, .ro, .any, .ctl, 0x0⟩
/-- TT_TAPSW.lo/hi (R204). uptime S of the last landing -/
def TT_TAPSW_lo : Fld := ⟨0x114, 0, 32, 16, 32, .ro, .any, .ctl, 0x0⟩
/-- TT_TAPSW.lo/hi (R204). uptime S of the last landing -/
def TT_TAPSW_hi : Fld := ⟨0x118, 0, 32, 16, 32, .ro, .any, .ctl, 0x0⟩
/-- TT_TAPEVT (R204). [0] landed, [1] late, [2] refused, [3] off, [4] superseded -/
def TT_TAPEVT : Fld := ⟨0x11C, 0, 5, 16, 32, .w1c, .any, .ctl, 0x0⟩
/-- TT_TAKES.n (R204). takes landed -/
def TT_TAKES_n : Fld := ⟨0x800, 0, 32, 16, 16, .rc, .any, .ctl, 0x0⟩
/-- TT_LATE.n (R204). takes late -/
def TT_LATE_n : Fld := ⟨0x804, 0, 32, 16, 16, .rc, .any, .ctl, 0x0⟩
/-- TT_REFUSED.n (R204). takes refused -/
def TT_REFUSED_n : Fld := ⟨0x808, 0, 32, 16, 16, .rc, .any, .ctl, 0x0⟩
/-- TT_OFFCUT.n (R204). cuts off platform -/
def TT_OFFCUT_n : Fld := ⟨0x80C, 0, 32, 16, 16, .rc, .any, .ctl, 0x0⟩

/-- TXF_LINK.mode (R105). link mode, values 0–3 -/
def TXF_LINK_mode : Fld := ⟨0x100, 0, 3, 1, 4, .rw, .any, .staged, 0x0⟩
/-- TXF_CFG.level_b (R105). 3G 1080p50/60 as level B-DL -/
def TXF_CFG_level_b : Fld := ⟨0x104, 0, 1, 1, 4, .rw, .any, .staged, 0x0⟩
/-- TXF_MUTE.pid (R105). format of the mute output; 0 no format, nothing emitted (R103) -/
def TXF_MUTE_pid : Fld := ⟨0x108, 0, 32, 1, 4, .rw, .any, .staged, 0x0⟩
/-- TXF_AUD.groups (R105). audio groups embedded, 0–8 (R100) -/
def TXF_AUD_groups : Fld := ⟨0x10C, 0, 4, 1, 4, .rw, .any, .staged, 0x0⟩
/-- TXF_DEL[0–15] (R105). [31] enable, [23:16] DID, [15:8] SDID, [7:4] DID mask, [3:0] SDID mask; masks apply to bits [3:0] -/
def TXF_DEL_en : Fld := ⟨0x180, 31, 1, 16, 4, .rw, .any, .staged, 0x0⟩
/-- TXF_DEL[0–15] (R105). [31] enable, [23:16] DID, [15:8] SDID, [7:4] DID mask, [3:0] SDID mask; masks apply to bits [3:0] -/
def TXF_DEL_did : Fld := ⟨0x180, 16, 8, 16, 4, .rw, .any, .staged, 0x0⟩
/-- TXF_DEL[0–15] (R105). [31] enable, [23:16] DID, [15:8] SDID, [7:4] DID mask, [3:0] SDID mask; masks apply to bits [3:0] -/
def TXF_DEL_sdid : Fld := ⟨0x180, 8, 8, 16, 4, .rw, .any, .staged, 0x0⟩
/-- TXF_DEL[0–15] (R105). [31] enable, [23:16] DID, [15:8] SDID, [7:4] DID mask, [3:0] SDID mask; masks apply to bits [3:0] -/
def TXF_DEL_dmask : Fld := ⟨0x180, 4, 4, 16, 4, .rw, .any, .staged, 0x0⟩
/-- TXF_DEL[0–15] (R105). [31] enable, [23:16] DID, [15:8] SDID, [7:4] DID mask, [3:0] SDID mask; masks apply to bits [3:0] -/
def TXF_DEL_smask : Fld := ⟨0x180, 0, 4, 16, 4, .rw, .any, .staged, 0x0⟩
/-- TXF_STAT.muted (R105). sending mute output -/
def TXF_STAT_muted : Fld := ⟨0x120, 0, 1, 1, 4, .ro, .any, .ctl, 0x1⟩
/-- TXF_PID.val (R105). payload ID being sent -/
def TXF_PID_val : Fld := ⟨0x124, 0, 32, 1, 4, .ro, .any, .ctl, 0x0⟩
/-- TXF_ANC_DROP.n (R105). packets dropped for lack of room -/
def TXF_ANC_DROP_n : Fld := ⟨0x800, 0, 32, 1, 4, .rc, .any, .ctl, 0x0⟩
/-- TXF_ANC_DEL.n (R105). packets deleted by filter -/
def TXF_ANC_DEL_n : Fld := ⟨0x804, 0, 32, 1, 4, .rc, .any, .ctl, 0x0⟩
/-- TXF_MUTE_FR.n (R105). frames sent muted -/
def TXF_MUTE_FR_n : Fld := ⟨0x808, 0, 32, 1, 4, .rc, .any, .ctl, 0x0⟩
/-- IRQ_STAT bit of muted (R105). mute output started -/
def IRQ_fmt_muted : Nat := 0
/-- IRQ_STAT bit of anc_drop (R105). a packet was dropped -/
def IRQ_fmt_anc_drop : Nat := 1

/-- TT_ASYNC_POOL[0–7] (R204). bit k: unit k may be auto-claimed -/
def TT_ASYNC_POOL : Fld := ⟨0x100, 0, 32, 8, 4, .rw, .prv, .staged, 0x0⟩
/-- TT_ASYNC_USED.n (R204). units claimed -/
def TT_ASYNC_USED_n : Fld := ⟨0x120, 0, 9, 1, 4, .ro, .any, .ctl, 0x0⟩
/-- TT_SWING.plane (R204). plane whose swing is in service -/
def TT_SWING_plane : Fld := ⟨0x124, 0, 6, 1, 4, .ro, .any, .ctl, 0x0⟩
/-- TT_SWING.valid (R204). a swing plane is in service -/
def TT_SWING_valid : Fld := ⟨0x124, 6, 1, 1, 4, .ro, .any, .ctl, 0x0⟩
/-- TT_ALL_TAKES.n (R204). takes landed, all taps -/
def TT_ALL_TAKES_n : Fld := ⟨0x800, 0, 32, 1, 4, .rc, .any, .ctl, 0x0⟩
/-- TT_ALL_LATE.n (R204). late takes -/
def TT_ALL_LATE_n : Fld := ⟨0x804, 0, 32, 1, 4, .rc, .any, .ctl, 0x0⟩
/-- TT_ALL_REFUSED.n (R204). refused takes -/
def TT_ALL_REFUSED_n : Fld := ⟨0x808, 0, 32, 1, 4, .rc, .any, .ctl, 0x0⟩
/-- TT_SUPERSEDED.n (R204). superseded takes -/
def TT_SUPERSEDED_n : Fld := ⟨0x80C, 0, 32, 1, 4, .rc, .any, .ctl, 0x0⟩
/-- TT_ASYNC_FAIL.n (R204). auto-sync refused: no free unit, or source cannot be synchronised -/
def TT_ASYNC_FAIL_n : Fld := ⟨0x810, 0, 32, 1, 4, .rc, .any, .ctl, 0x0⟩
/-- IRQ_STAT bit of late (R204). as the counters -/
def IRQ_ttCtl_late : Nat := 0
/-- IRQ_STAT bit of refused (R204). as the counters -/
def IRQ_ttCtl_refused : Nat := 1
/-- IRQ_STAT bit of async_fail (R204). as the counters -/
def IRQ_ttCtl_async_fail : Nat := 2
/-- IRQ_STAT bit of superseded (R204). as the counters -/
def IRQ_ttCtl_superseded : Nat := 3

/-- TT_CQ_TGTL/H (R204). target uptime, or cue-of-second in [33:0]; per master -/
def TT_CQ_TGT_lo : Fld := ⟨0x100, 0, 32, 1, 4, .rw, .any, .ctl, 0x0⟩
/-- TT_CQ_TGTL/H (R204). target uptime, or cue-of-second in [33:0]; per master -/
def TT_CQ_TGT_hi : Fld := ⟨0x104, 0, 32, 1, 4, .rw, .any, .ctl, 0x0⟩
/-- TT_CQ_TSEC.lo/hi (R204). target seconds, hi [15:0]; per master -/
def TT_CQ_TSEC_lo : Fld := ⟨0x108, 0, 32, 1, 4, .rw, .any, .ctl, 0x0⟩
/-- TT_CQ_TSEC.lo/hi (R204). target seconds, hi [15:0]; per master -/
def TT_CQ_TSEC_hi : Fld := ⟨0x10C, 0, 16, 1, 4, .rw, .any, .ctl, 0x0⟩
/-- TT_CQ_SUB.salvo (R204). first pair index; per master -/
def TT_CQ_SUB_salvo : Fld := ⟨0x110, 0, 18, 1, 4, .rw, .any, .ctl, 0x0⟩
/-- TT_CQ_SUB.kind (R204). 0 uptime, 1 time of day, 2 next boundary, 3 reserved -/
def TT_CQ_SUB_kind : Fld := ⟨0x110, 18, 2, 1, 4, .rw, .any, .ctl, 0x0⟩
/-- TT_CQ_SUB.strict (R204). all or nothing (R186) -/
def TT_CQ_SUB_strict : Fld := ⟨0x110, 20, 1, 1, 4, .rw, .any, .ctl, 0x0⟩
/-- TT_CQ_SUB.go (R204). submit; self-clearing -/
def TT_CQ_SUB_go : Fld := ⟨0x110, 31, 1, 1, 4, .w1s, .prv, .ctl, 0x0⟩
/-- TT_CQ_TAG.tag (R204). entry tag; per master -/
def TT_CQ_TAG_tag : Fld := ⟨0x114, 0, 16, 1, 4, .rw, .any, .ctl, 0x0⟩
/-- TT_CQ_RESP.st (R204). last submission of this master (R189) -/
def TT_CQ_RESP_st : Fld := ⟨0x118, 0, 3, 1, 4, .ro, .any, .ctl, 0x0⟩
/-- TT_CQ_CTL.lead (R204). lead time in µs (R190) -/
def TT_CQ_CTL_lead : Fld := ⟨0x120, 0, 16, 1, 4, .rw, .prv, .imm, 0x3E8⟩
/-- TT_CQ_LEVEL.n (R204). entries pending -/
def TT_CQ_LEVEL_n : Fld := ⟨0x124, 0, 15, 1, 4, .ro, .any, .ctl, 0x0⟩
/-- TT_CQ_CANCEL.tag (R204). tag to cancel -/
def TT_CQ_CANCEL_tag : Fld := ⟨0x128, 0, 16, 1, 4, .rw, .prv, .ctl, 0x0⟩
/-- TT_CQ_CANCEL.go (R204). cancel; self-clearing -/
def TT_CQ_CANCEL_go : Fld := ⟨0x128, 31, 1, 1, 4, .w1s, .prv, .ctl, 0x0⟩
/-- TT_CQ_CANCELLED.n (R204). entries cancelled by the last cancel -/
def TT_CQ_CANCELLED_n : Fld := ⟨0x12C, 0, 15, 1, 4, .ro, .any, .ctl, 0x0⟩
/-- TT_CQ_RES_POP.tag (R204). tag; read pops (R192) -/
def TT_CQ_RES_POP_tag : Fld := ⟨0x130, 0, 16, 1, 4, .ro, .any, .ctl, 0x0⟩
/-- TT_CQ_RES_POP.outcome (R204). outcome -/
def TT_CQ_RES_POP_outcome : Fld := ⟨0x130, 16, 3, 1, 4, .ro, .any, .ctl, 0x0⟩
/-- TT_CQ_RES_POP.valid (R204). a result was popped -/
def TT_CQ_RES_POP_valid : Fld := ⟨0x130, 31, 1, 1, 4, .ro, .any, .ctl, 0x0⟩
/-- TT_CQ_RES_INFO.nref (R204). pairs refused, latched -/
def TT_CQ_RES_INFO_nref : Fld := ⟨0x134, 0, 12, 1, 4, .ro, .any, .ctl, 0x0⟩
/-- TT_CQ_RES_INFO.tap (R204). first refused tap, latched -/
def TT_CQ_RES_INFO_tap : Fld := ⟨0x134, 16, 12, 1, 4, .ro, .any, .ctl, 0x0⟩
/-- TT_CQ_RES_UPT.lo/hi (R204). dispatch uptime, latched -/
def TT_CQ_RES_UPT_lo : Fld := ⟨0x138, 0, 32, 1, 4, .ro, .any, .ctl, 0x0⟩
/-- TT_CQ_RES_UPT.lo/hi (R204). dispatch uptime, latched -/
def TT_CQ_RES_UPT_hi : Fld := ⟨0x13C, 0, 32, 1, 4, .ro, .any, .ctl, 0x0⟩
/-- TT_CQ_RES_LEVEL.n (R204). results held, 0–64 -/
def TT_CQ_RES_LEVEL_n : Fld := ⟨0x140, 0, 7, 1, 4, .ro, .any, .ctl, 0x0⟩
/-- CQ_SUBMIT.n (R204). submissions refused for time of day -/
def CQ_SUBMIT_n : Fld := ⟨0x800, 0, 32, 1, 4, .rc, .any, .ctl, 0x0⟩
/-- CQ_FULL.n (R204). submissions refused, sheet full -/
def CQ_FULL_n : Fld := ⟨0x804, 0, 32, 1, 4, .rc, .any, .ctl, 0x0⟩
/-- CQ_RES_OVF.n (R204). results discarded -/
def CQ_RES_OVF_n : Fld := ⟨0x808, 0, 32, 1, 4, .rc, .any, .ctl, 0x0⟩
/-- CQ_CANCEL.n (R204). entries cancelled -/
def CQ_CANCEL_n : Fld := ⟨0x80C, 0, 32, 1, 4, .rc, .any, .ctl, 0x0⟩
/-- CQ_BADKIND.n (R204). submissions refused, reserved kind -/
def CQ_BADKIND_n : Fld := ⟨0x810, 0, 32, 1, 4, .rc, .any, .ctl, 0x0⟩
/-- IRQ_STAT bit of res (R204). result ready; sheet full; result lost -/
def IRQ_ttCue_res : Nat := 0
/-- IRQ_STAT bit of full (R204). result ready; sheet full; result lost -/
def IRQ_ttCue_full : Nat := 1
/-- IRQ_STAT bit of res_ovf (R204). result ready; sheet full; result lost -/
def IRQ_ttCue_res_ovf : Nat := 2

/-- TT_SM_ADDR.idx (R204). pair index (R187) -/
def TT_SM_ADDR_idx : Fld := ⟨0x100, 0, 18, 1, 4, .rw, .prv, .ctl, 0x0⟩
/-- TT_SM_DATA.pair (R204). pair word; access moves the index on -/
def TT_SM_DATA_pair : Fld := ⟨0x104, 0, 32, 1, 4, .rw, .prv, .ctl, 0x0⟩

/-- TT_TCNT (R204). rail 896n + 2w in [15:0], rail 896n + 2w + 1 in [31:16] -/
def TT_TCNT : Fld := ⟨0x100, 0, 32, 448, 4, .ro, .any, .ctl, 0x0⟩

/-- TT_TCLS[c] (R204). class c, bit j: rail 32w + j; w = 0–72 -/
def TT_TCLS0 : Fld := ⟨0x100, 0, 32, 73, 4, .ro, .any, .ctl, 0x0⟩
/-- TT_TCLS[c] (R204). class c, bit j: rail 32w + j; w = 0–72 -/
def TT_TCLS1 : Fld := ⟨0x240, 0, 32, 73, 4, .ro, .any, .ctl, 0x0⟩
/-- TT_TCLS[c] (R204). class c, bit j: rail 32w + j; w = 0–72 -/
def TT_TCLS2 : Fld := ⟨0x380, 0, 32, 73, 4, .ro, .any, .ctl, 0x0⟩
/-- TT_TCLS[c] (R204). class c, bit j: rail 32w + j; w = 0–72 -/
def TT_TCLS3 : Fld := ⟨0x4C0, 0, 32, 73, 4, .ro, .any, .ctl, 0x0⟩

/-- TT_GPI[n].salvo (R204). salvo fired by input n -/
def TT_GPI_salvo : Fld := ⟨0x100, 0, 18, 16, 8, .rw, .any, .imm, 0x0⟩
/-- TT_GPI[n].pol (R204). 0 active high, 1 active low -/
def TT_GPI_pol : Fld := ⟨0x100, 18, 1, 16, 8, .rw, .any, .imm, 0x0⟩
/-- TT_GPI[n].en (R204). input enabled -/
def TT_GPI_en : Fld := ⟨0x100, 19, 1, 16, 8, .rw, .any, .imm, 0x0⟩
/-- TT_GPI[n].strict (R204). strict bit of the entry -/
def TT_GPI_strict : Fld := ⟨0x100, 20, 1, 16, 8, .rw, .any, .imm, 0x0⟩
/-- TT_GPI[n].deb (R204). debounce in ms (R199) -/
def TT_GPI_deb : Fld := ⟨0x100, 24, 8, 16, 8, .rw, .any, .imm, 0x5⟩
/-- TT_GPI_TAG[n].tag (R204). entry tag -/
def TT_GPI_TAG_tag : Fld := ⟨0x104, 0, 16, 16, 8, .rw, .any, .imm, 0x0⟩
/-- TT_GPO[n].rail (R204). tally rail -/
def TT_GPO_rail : Fld := ⟨0x180, 0, 12, 16, 4, .rw, .any, .imm, 0x0⟩
/-- TT_GPO[n].cls (R204). tally classes -/
def TT_GPO_cls : Fld := ⟨0x180, 12, 4, 16, 4, .rw, .any, .imm, 0x0⟩
/-- TT_GPO[n].mode (R204). 0 software, 1 tally -/
def TT_GPO_mode : Fld := ⟨0x180, 16, 1, 16, 4, .rw, .any, .imm, 0x0⟩
/-- TT_GPO[n].level (R204). software level -/
def TT_GPO_level : Fld := ⟨0x180, 17, 1, 16, 4, .rw, .any, .imm, 0x0⟩
/-- TT_GPO[n].inv (R204). invert -/
def TT_GPO_inv : Fld := ⟨0x180, 18, 1, 16, 4, .rw, .any, .imm, 0x0⟩
/-- TT_GPI_STAT.level (R204). sampled input levels -/
def TT_GPI_STAT_level : Fld := ⟨0x1C0, 0, 16, 1, 4, .ro, .any, .ctl, 0x0⟩
/-- TT_GPI_STAT.chat (R204). input chattering -/
def TT_GPI_STAT_chat : Fld := ⟨0x1C0, 16, 16, 1, 4, .ro, .any, .ctl, 0x0⟩
/-- TT_GPI_ARM.armed (R204). input armed -/
def TT_GPI_ARM_armed : Fld := ⟨0x1C4, 0, 16, 1, 4, .ro, .any, .ctl, 0x0⟩
/-- GPI_FIRE[n].n (R204). firings -/
def GPI_FIRE_n : Fld := ⟨0x800, 0, 32, 16, 4, .rc, .any, .ctl, 0x0⟩
/-- GPI_CHAT[n].n (R204). chatter events -/
def GPI_CHAT_n : Fld := ⟨0x840, 0, 32, 16, 4, .rc, .any, .ctl, 0x0⟩
/-- GPI_LOST.n (R204). firings lost, sheet full -/
def GPI_LOST_n : Fld := ⟨0x880, 0, 32, 1, 4, .rc, .any, .ctl, 0x0⟩
/-- IRQ_STAT bits from of fire (R204). input n fired -/
def IRQ_ttGpio_fire : Nat := 0
/-- IRQ_STAT bit of chatter (R204). an input began chattering -/
def IRQ_ttGpio_chatter : Nat := 16
/-- IRQ_STAT bit of lost (R204). a firing was lost -/
def IRQ_ttGpio_lost : Nat := 17

/-- PLT_CFG.en (R164). Platform enabled -/
def PLT_CFG_en : Fld := ⟨0x100, 0, 1, 4, 128, .rw, .prv, .staged, 0x0⟩
/-- PLT_CFG.win (R164). window W in lines, 0–8 -/
def PLT_CFG_win : Fld := ⟨0x100, 4, 4, 4, 128, .rw, .any, .staged, 0x0⟩
/-- PLT_CFG.group (R164). alignment group -/
def PLT_CFG_group : Fld := ⟨0x100, 8, 4, 4, 128, .rw, .any, .staged, 0x0⟩
/-- PLT_CFG.gang (R164). 0 one rail, 1 two, 2 four; base slot only -/
def PLT_CFG_gang : Fld := ⟨0x100, 12, 2, 4, 128, .rw, .any, .staged, 0x0⟩
/-- PLT_CFG.hold (R164). black hold frames; 255 until return -/
def PLT_CFG_hold : Fld := ⟨0x100, 16, 8, 4, 128, .rw, .any, .staged, 0xFF⟩
/-- PLT_SIZE.px (R164). SDI active pixels per line on this rail -/
def PLT_SIZE_px : Fld := ⟨0x104, 0, 13, 4, 128, .rw, .any, .staged, 0x780⟩
/-- PLT_SIZE.bpp (R164). 0 20, 1 30, 2 36 bits; 3 reserved -/
def PLT_SIZE_bpp : Fld := ⟨0x104, 16, 2, 4, 128, .rw, .any, .staged, 0x0⟩
/-- PLT_STAT.state (R164). 0 Off, 1 Source-lost, 2 Detecting, 3 Aligned, 4 Unaligned, 5 Oversize -/
def PLT_STAT_state : Fld := ⟨0x110, 0, 3, 4, 128, .ro, .any, .ctl, 0x0⟩
/-- PLT_STAT.late (R164). last test found the source on the late side -/
def PLT_STAT_late : Fld := ⟨0x110, 3, 1, 4, 128, .ro, .any, .ctl, 0x0⟩
/-- PLT_STAT.rate_diff (R164). source rate differs from group -/
def PLT_STAT_rate_diff : Fld := ⟨0x110, 4, 1, 4, 128, .ro, .any, .ctl, 0x0⟩
/-- PLT_STAT.holding (R164). black hold in progress -/
def PLT_STAT_holding : Fld := ⟨0x110, 5, 1, 4, 128, .ro, .any, .ctl, 0x0⟩
/-- PLT_RES.cues (R164). current residency -/
def PLT_RES_cues : Fld := ⟨0x114, 0, 24, 4, 128, .ro, .any, .ctl, 0x0⟩
/-- PLT_LEAD.cues (R164). last measured λ -/
def PLT_LEAD_cues : Fld := ⟨0x118, 0, 32, 4, 128, .ro, .any, .ctl, 0x0⟩
/-- PLT_BERTHS.n (R164). berths held -/
def PLT_BERTHS_n : Fld := ⟨0x11C, 0, 16, 4, 128, .ro, .any, .ctl, 0x0⟩
/-- PLT_FRUPT.lo/hi (R164). uptime of the last rail frame start -/
def PLT_FRUPT_lo : Fld := ⟨0x120, 0, 32, 4, 128, .ro, .any, .ctl, 0x0⟩
/-- PLT_FRUPT.lo/hi (R164). uptime of the last rail frame start -/
def PLT_FRUPT_hi : Fld := ⟨0x124, 0, 32, 4, 128, .ro, .any, .ctl, 0x0⟩
/-- PLT_FALLOFF.n (R164). falls off the platform -/
def PLT_FALLOFF_n : Fld := ⟨0x800, 0, 32, 4, 64, .rc, .any, .ctl, 0x0⟩
/-- PLT_REALIGN.n (R164). re-alignments -/
def PLT_REALIGN_n : Fld := ⟨0x804, 0, 32, 4, 64, .rc, .any, .ctl, 0x0⟩
/-- PLT_SHORT.n (R164). rail frames cut short -/
def PLT_SHORT_n : Fld := ⟨0x808, 0, 32, 4, 64, .rc, .any, .ctl, 0x0⟩
/-- PLT_LONG.n (R164). rail frames lengthened -/
def PLT_LONG_n : Fld := ⟨0x80C, 0, 32, 4, 64, .rc, .any, .ctl, 0x0⟩
/-- PLT_CONCEAL.n (R164). lines concealed -/
def PLT_CONCEAL_n : Fld := ⟨0x810, 0, 32, 4, 64, .rc, .any, .ctl, 0x0⟩
/-- PLT_LATE_LN.n (R164). lines concealed for lateness -/
def PLT_LATE_LN_n : Fld := ⟨0x814, 0, 32, 4, 64, .rc, .any, .ctl, 0x0⟩
/-- IRQ_STAT bit of aligned (R164). became Aligned -/
def IRQ_quad_aligned : Nat := 0
/-- IRQ_STAT bit of falloff (R164). fell off the platform -/
def IRQ_quad_falloff : Nat := 1
/-- IRQ_STAT bit of lost (R164). became Source-lost -/
def IRQ_quad_lost : Nat := 2
/-- IRQ_STAT bit of fmt_chg (R164). format lost -/
def IRQ_quad_fmt_chg : Nat := 3
/-- IRQ_STAT bit of oversize (R164). entered Oversize -/
def IRQ_quad_oversize : Nat := 4
/-- IRQ_STAT bit of conceal (R164). a line was concealed -/
def IRQ_quad_conceal : Nat := 5

/-- RXF_LINK.mode (R105). link mode, table above -/
def RXF_LINK_mode : Fld := ⟨0x100, 0, 3, 1, 4, .rw, .any, .staged, 0x0⟩
/-- RXF_CFG.anc_keep_bad (R105). carry packets with bad checksum (R95) -/
def RXF_CFG_anc_keep_bad : Fld := ⟨0x104, 0, 1, 1, 4, .rw, .any, .staged, 0x0⟩
/-- RXF_DFLT.pid (R105). attributes used when no payload ID (R88) -/
def RXF_DFLT_pid : Fld := ⟨0x108, 0, 32, 1, 4, .rw, .any, .staged, 0x0⟩
/-- RXF_STAT.fmt (R105). format established -/
def RXF_STAT_fmt : Fld := ⟨0x120, 0, 1, 1, 4, .ro, .any, .ctl, 0x0⟩
/-- RXF_STAT.pid_mismatch (R105). R88 -/
def RXF_STAT_pid_mismatch : Fld := ⟨0x120, 1, 1, 1, 4, .ro, .any, .ctl, 0x0⟩
/-- RXF_STAT.link_fault (R105). R91 -/
def RXF_STAT_link_fault : Fld := ⟨0x120, 2, 1, 1, 4, .ro, .any, .ctl, 0x0⟩
/-- RXF_STAT.aud_async (R105). R99 -/
def RXF_STAT_aud_async : Fld := ⟨0x120, 3, 1, 1, 4, .ro, .any, .ctl, 0x0⟩
/-- RXF_STAT.edh_flags (R105). last received EDH flags -/
def RXF_STAT_edh_flags : Fld := ⟨0x120, 8, 8, 1, 4, .ro, .any, .ctl, 0x0⟩
/-- RXF_PID.val (R105). last payload ID received -/
def RXF_PID_val : Fld := ⟨0x124, 0, 32, 1, 4, .ro, .any, .ctl, 0x0⟩
/-- RXF_STRUCT.words (R105). total words per line of the link, all data streams together, up to 16,383; a 12G 2,250-line format at 60 Hz reads 8,800 -/
def RXF_STRUCT_words : Fld := ⟨0x128, 0, 14, 1, 4, .ro, .any, .ctl, 0x0⟩
/-- RXF_STRUCT.lines (R105). lines per frame -/
def RXF_STRUCT_lines : Fld := ⟨0x128, 14, 12, 1, 4, .ro, .any, .ctl, 0x0⟩
/-- RXF_STRUCT.intl (R105). interlaced -/
def RXF_STRUCT_intl : Fld := ⟨0x128, 26, 1, 1, 4, .ro, .any, .ctl, 0x0⟩
/-- RXF_TC_LO/HI.val (R105). timecode word; read of LO latches (R102) -/
def RXF_TC_lo : Fld := ⟨0x130, 0, 32, 1, 4, .ro, .any, .ctl, 0x0⟩
/-- RXF_TC_LO/HI.val (R105). timecode word; read of LO latches (R102) -/
def RXF_TC_hi : Fld := ⟨0x134, 0, 32, 1, 4, .ro, .any, .ctl, 0x0⟩
/-- RXF_TC_TYPE.type (R105). 0 LTC, 1 VITC 1, 2 VITC 2 -/
def RXF_TC_TYPE_type : Fld := ⟨0x138, 0, 2, 1, 4, .ro, .any, .ctl, 0x0⟩
/-- RXF_TC_UPT.lo/hi (R105). uptime of the timecode line -/
def RXF_TC_UPT_lo : Fld := ⟨0x13C, 0, 32, 1, 4, .ro, .any, .ctl, 0x0⟩
/-- RXF_TC_UPT.lo/hi (R105). uptime of the timecode line -/
def RXF_TC_UPT_hi : Fld := ⟨0x140, 0, 32, 1, 4, .ro, .any, .ctl, 0x0⟩
/-- RXF_CRC_ERR.n (R105). lines with CRC errors -/
def RXF_CRC_ERR_n : Fld := ⟨0x800, 0, 32, 1, 4, .rc, .any, .ctl, 0x0⟩
/-- RXF_LN_ERR.n (R105). line-number errors -/
def RXF_LN_ERR_n : Fld := ⟨0x804, 0, 32, 1, 4, .rc, .any, .ctl, 0x0⟩
/-- RXF_EDH_ERR.n (R105). EDH CRC mismatches -/
def RXF_EDH_ERR_n : Fld := ⟨0x808, 0, 32, 1, 4, .rc, .any, .ctl, 0x0⟩
/-- RXF_ANC_BAD.n (R105). ANC checksum errors -/
def RXF_ANC_BAD_n : Fld := ⟨0x80C, 0, 32, 1, 4, .rc, .any, .ctl, 0x0⟩
/-- RXF_AUD_FIX.n (R105). audio packets corrected -/
def RXF_AUD_FIX_n : Fld := ⟨0x810, 0, 32, 1, 4, .rc, .any, .ctl, 0x0⟩
/-- RXF_AUD_BAD.n (R105). audio packets uncorrectable -/
def RXF_AUD_BAD_n : Fld := ⟨0x814, 0, 32, 1, 4, .rc, .any, .ctl, 0x0⟩
/-- RXF_DROP_STREAM.n (R105). B-DS stream 2 frames discarded -/
def RXF_DROP_STREAM_n : Fld := ⟨0x818, 0, 32, 1, 4, .rc, .any, .ctl, 0x0⟩
/-- IRQ_STAT bit of fmt (R105). format established -/
def IRQ_defr_fmt : Nat := 0
/-- IRQ_STAT bit of fmt_loss (R105). format lost -/
def IRQ_defr_fmt_loss : Nat := 1
/-- IRQ_STAT bit of link_fault (R105). R91 -/
def IRQ_defr_link_fault : Nat := 2
/-- IRQ_STAT bit of tc (R105). new timecode -/
def IRQ_defr_tc : Nat := 3
/-- IRQ_STAT bit of tc_over (R105). timecode overwritten unread -/
def IRQ_defr_tc_over : Nat := 4

/-- SYN_AREA.lo/hi (R221). ring area base, 1 GiB aligned (R208) -/
def SYN_AREA_lo : Fld := ⟨0x100, 0, 32, 1, 4, .rw, .prv, .staged, 0x0⟩
/-- SYN_AREA.lo/hi (R221). ring area base, 1 GiB aligned (R208) -/
def SYN_AREA_hi : Fld := ⟨0x104, 0, 32, 1, 4, .rw, .prv, .staged, 0x0⟩
/-- SYN_USED.n (R221). units enabled or claimed -/
def SYN_USED_n : Fld := ⟨0x108, 0, 9, 1, 4, .ro, .any, .ctl, 0x0⟩
/-- SYN_SWING.unit (R221). unit whose swing is in service -/
def SYN_SWING_unit : Fld := ⟨0x10C, 0, 8, 1, 4, .ro, .any, .ctl, 0x0⟩
/-- SYN_SWING.valid (R221). a swing unit is in service -/
def SYN_SWING_valid : Fld := ⟨0x10C, 8, 1, 1, 4, .ro, .any, .ctl, 0x0⟩

/-- SYN_CFG.en (R221). unit enabled by configuration -/
def SYN_CFG_en : Fld := ⟨0x100, 0, 1, 4, 128, .rw, .prv, .staged, 0x0⟩
/-- SYN_CFG.group (R221). output alignment group -/
def SYN_CFG_group : Fld := ⟨0x100, 4, 4, 4, 128, .rw, .any, .staged, 0x0⟩
/-- SYN_CFG.depth (R221). ring slots, 3–16 -/
def SYN_CFG_depth : Fld := ⟨0x100, 8, 5, 4, 128, .rw, .any, .staged, 0x3⟩
/-- SYN_CFG.gang (R221). 1: four-unit gang; base only -/
def SYN_CFG_gang : Fld := ⟨0x100, 13, 1, 4, 128, .rw, .any, .staged, 0x0⟩
/-- SYN_CFG.lossmode (R221). 0 repeat last frame, 1 black (R214) -/
def SYN_CFG_lossmode : Fld := ⟨0x100, 16, 1, 4, 128, .rw, .any, .staged, 0x0⟩
/-- SYN_CFG.xrate (R221). allow other rates (R211) -/
def SYN_CFG_xrate : Fld := ⟨0x100, 17, 1, 4, 128, .rw, .any, .staged, 0x0⟩
/-- SYN_AUD.en (R221). audio delay tracks video (R217) -/
def SYN_AUD_en : Fld := ⟨0x104, 0, 1, 4, 128, .rw, .any, .staged, 0x1⟩
/-- SYN_AUD.xfade (R221). crossfade, 0–255 samples -/
def SYN_AUD_xfade : Fld := ⟨0x104, 4, 8, 4, 128, .rw, .any, .staged, 0x40⟩
/-- SYN_AUD.trim (R221). signed trim, −4,095 to +4,095 samples -/
def SYN_AUD_trim : Fld := ⟨0x104, 16, 13, 4, 128, .rw, .any, .staged, 0x0⟩
/-- SYN_STAT.state (R221). 0 Off, 1 Starting, 2 Running -/
def SYN_STAT_state : Fld := ⟨0x110, 0, 2, 4, 128, .ro, .any, .ctl, 0x0⟩
/-- SYN_STAT.claimed (R221). claimed by auto-sync -/
def SYN_STAT_claimed : Fld := ⟨0x110, 2, 1, 4, 128, .ro, .any, .ctl, 0x0⟩
/-- SYN_STAT.input_lost (R221). R214 -/
def SYN_STAT_input_lost : Fld := ⟨0x110, 3, 1, 4, 128, .ro, .any, .ctl, 0x0⟩
/-- SYN_STAT.oversize (R221). R215 -/
def SYN_STAT_oversize : Fld := ⟨0x110, 4, 1, 4, 128, .ro, .any, .ctl, 0x0⟩
/-- SYN_STAT.rate_diff (R221). R211 -/
def SYN_STAT_rate_diff : Fld := ⟨0x110, 5, 1, 4, 128, .ro, .any, .ctl, 0x0⟩
/-- SYN_STAT.on_swing (R221). swing unit in service -/
def SYN_STAT_on_swing : Fld := ⟨0x110, 6, 1, 4, 128, .ro, .any, .ctl, 0x0⟩
/-- SYN_DELAY.cues (R221). R212 -/
def SYN_DELAY_cues : Fld := ⟨0x114, 0, 32, 4, 128, .ro, .any, .ctl, 0x0⟩
/-- SYN_FILL.n (R221). frames written and not yet read -/
def SYN_FILL_n : Fld := ⟨0x118, 0, 5, 4, 128, .ro, .any, .ctl, 0x0⟩
/-- SYN_FRUPT.lo/hi (R221). uptime of the last output frame start -/
def SYN_FRUPT_lo : Fld := ⟨0x11C, 0, 32, 4, 128, .ro, .any, .ctl, 0x0⟩
/-- SYN_FRUPT.lo/hi (R221). uptime of the last output frame start -/
def SYN_FRUPT_hi : Fld := ⟨0x120, 0, 32, 4, 128, .ro, .any, .ctl, 0x0⟩
/-- SYN_REPEAT.n (R221). frames repeated -/
def SYN_REPEAT_n : Fld := ⟨0x800, 0, 32, 4, 64, .rc, .any, .ctl, 0x0⟩
/-- SYN_DROP.n (R221). frames dropped -/
def SYN_DROP_n : Fld := ⟨0x804, 0, 32, 4, 64, .rc, .any, .ctl, 0x0⟩
/-- SYN_LINE_SUB.n (R221). lines substituted (R219) -/
def SYN_LINE_SUB_n : Fld := ⟨0x808, 0, 32, 4, 64, .rc, .any, .ctl, 0x0⟩
/-- SYN_PAIR_DIFF.n (R221). own decision differed from the Lead's -/
def SYN_PAIR_DIFF_n : Fld := ⟨0x80C, 0, 32, 4, 64, .rc, .any, .ctl, 0x0⟩
/-- SYN_PAIR_SHORT.n (R221). lines taken from frame m − 1 (R218) -/
def SYN_PAIR_SHORT_n : Fld := ⟨0x810, 0, 32, 4, 64, .rc, .any, .ctl, 0x0⟩
/-- SYN_JRN_LATE.n (R221). decisions made without a journal entry -/
def SYN_JRN_LATE_n : Fld := ⟨0x814, 0, 32, 4, 64, .rc, .any, .ctl, 0x0⟩
/-- IRQ_STAT bit of running (R221). as the states and counters -/
def IRQ_synQuad_running : Nat := 0
/-- IRQ_STAT bit of repeat (R221). as the states and counters -/
def IRQ_synQuad_repeat : Nat := 1
/-- IRQ_STAT bit of drop (R221). as the states and counters -/
def IRQ_synQuad_drop : Nat := 2
/-- IRQ_STAT bit of line_sub (R221). as the states and counters -/
def IRQ_synQuad_line_sub : Nat := 3
/-- IRQ_STAT bit of input_lost (R221). as the states and counters -/
def IRQ_synQuad_input_lost : Nat := 4
/-- IRQ_STAT bit of pair_diff (R221). as the states and counters -/
def IRQ_synQuad_pair_diff : Nat := 5

/-- PRO_RASTER.fmt (R243). raster (R225) -/
def PRO_RASTER_fmt : Fld := ⟨0x100, 0, 3, 1, 4, .rw, .any, .staged, 0x4⟩
/-- PRO_RASTER.smp (R243). 0 output 4:2:2, 1 output 4:4:4 (R227) -/
def PRO_RASTER_smp : Fld := ⟨0x100, 4, 1, 1, 4, .rw, .any, .staged, 0x0⟩
/-- PRO_RASTER.gang (R243). gang base (R241) -/
def PRO_RASTER_gang : Fld := ⟨0x100, 8, 1, 1, 4, .rw, .prv, .staged, 0x0⟩
/-- PRO_RASTER.cs (R243). colorimetry code as ST 352 (R226) -/
def PRO_RASTER_cs : Fld := ⟨0x100, 12, 4, 1, 4, .rw, .any, .staged, 0x0⟩
/-- PRO_BG (R243). c0 [9:0], c1 [19:10], c2 [29:20]; reset is narrow-range YCbCr black -/
def PRO_BG : Fld := ⟨0x104, 0, 30, 1, 4, .rw, .any, .staged, 0x20080040⟩
/-- PRO_POOL.free (R243). free slots -/
def PRO_POOL_free : Fld := ⟨0x108, 0, 6, 1, 4, .ro, .any, .ctl, 0x30⟩
/-- PRO_POOL.need (R243). sum asked for by the last refused commit -/
def PRO_POOL_need : Fld := ⟨0x108, 16, 8, 1, 4, .ro, .any, .ctl, 0x0⟩
/-- PRO_CF_ADDR.set (R243). coefficient set 1–3; 0 reads set 0 -/
def PRO_CF_ADDR_set : Fld := ⟨0x110, 0, 2, 1, 4, .rw, .any, .ctl, 0x0⟩
/-- PRO_CF_ADDR.vert (R243). 0 horizontal, 1 vertical -/
def PRO_CF_ADDR_vert : Fld := ⟨0x110, 2, 1, 1, 4, .rw, .any, .ctl, 0x0⟩
/-- PRO_CF_ADDR.phase (R243). phase 0–63 -/
def PRO_CF_ADDR_phase : Fld := ⟨0x110, 3, 6, 1, 4, .rw, .any, .ctl, 0x0⟩
/-- PRO_CF_CTL.load (R243). copy staging coefficients to the window; self-clearing -/
def PRO_CF_CTL_load : Fld := ⟨0x114, 0, 1, 1, 4, .w1s, .any, .ctl, 0x0⟩
/-- PRO_CF_CTL.store (R243). copy window to staging; set 0 ignored; self-clearing -/
def PRO_CF_CTL_store : Fld := ⟨0x114, 1, 1, 1, 4, .w1s, .prv, .ctl, 0x0⟩
/-- PRO_CF_DATA[0–3] (R243). coefficient 2n in [9:0], 2n + 1 in [25:16], signed; vertical uses 0–5 -/
def PRO_CF_DATA_even : Fld := ⟨0x120, 0, 10, 4, 4, .rw, .any, .ctl, 0x0⟩
/-- PRO_CF_DATA[0–3] (R243). coefficient 2n in [9:0], 2n + 1 in [25:16], signed; vertical uses 0–5 -/
def PRO_CF_DATA_odd : Fld := ⟨0x120, 16, 10, 4, 4, .rw, .any, .ctl, 0x0⟩
/-- PRO_STAT.on_swing (R243). a swing stands in -/
def PRO_STAT_on_swing : Fld := ⟨0x130, 0, 1, 1, 4, .ro, .any, .ctl, 0x0⟩
/-- PRO_STAT.ganged (R243). member of a live gang -/
def PRO_STAT_ganged : Fld := ⟨0x130, 1, 1, 1, 4, .ro, .any, .ctl, 0x0⟩
/-- PRO_STAT.member (R243). quadrant i -/
def PRO_STAT_member : Fld := ⟨0x130, 2, 2, 1, 4, .ro, .any, .ctl, 0x0⟩

/-- LAY_CFG.src (R244). 0 off, 1 live, 2 surface, 3 reserved (R228) -/
def LAY_CFG_src : Fld := ⟨0x100, 0, 2, 8, 64, .rw, .any, .staged, 0x0⟩
/-- LAY_CFG.gang (R244). live width: 0 one, 1 two, 2 four rails (R229) -/
def LAY_CFG_gang : Fld := ⟨0x100, 2, 2, 8, 64, .rw, .any, .staged, 0x0⟩
/-- LAY_CFG.crop_full (R244). crop is the whole live source -/
def LAY_CFG_crop_full : Fld := ⟨0x100, 4, 1, 8, 64, .rw, .any, .staged, 0x0⟩
/-- LAY_CFG.vtaps (R244). 0 six, 1 four, 2 two, 3 one -/
def LAY_CFG_vtaps : Fld := ⟨0x100, 5, 2, 8, 64, .rw, .any, .staged, 0x0⟩
/-- LAY_CFG.hset (R244). horizontal coefficient set -/
def LAY_CFG_hset : Fld := ⟨0x100, 8, 2, 8, 64, .rw, .any, .staged, 0x0⟩
/-- LAY_CFG.vset (R244). vertical coefficient set -/
def LAY_CFG_vset : Fld := ⟨0x100, 10, 2, 8, 64, .rw, .any, .staged, 0x0⟩
/-- LAY_CROP.cx (R244). crop left -/
def LAY_CROP_cx : Fld := ⟨0x104, 0, 13, 8, 64, .rw, .any, .staged, 0x0⟩
/-- LAY_CROP.cy (R244). crop top -/
def LAY_CROP_cy : Fld := ⟨0x104, 16, 13, 8, 64, .rw, .any, .staged, 0x0⟩
/-- LAY_CROPS.cw (R244). crop width -/
def LAY_CROPS_cw : Fld := ⟨0x108, 0, 14, 8, 64, .rw, .any, .staged, 0x780⟩
/-- LAY_CROPS.ch (R244). crop height -/
def LAY_CROPS_ch : Fld := ⟨0x108, 16, 14, 8, 64, .rw, .any, .staged, 0x438⟩
/-- LAY_DST.dx (R244). signed left -/
def LAY_DST_dx : Fld := ⟨0x10C, 0, 16, 8, 64, .rw, .any, .staged, 0x0⟩
/-- LAY_DST.dy (R244). signed top -/
def LAY_DST_dy : Fld := ⟨0x10C, 16, 16, 8, 64, .rw, .any, .staged, 0x0⟩
/-- LAY_DSTS.dw (R244). destination width -/
def LAY_DSTS_dw : Fld := ⟨0x110, 0, 15, 8, 64, .rw, .any, .staged, 0x780⟩
/-- LAY_DSTS.dh (R244). destination height -/
def LAY_DSTS_dh : Fld := ⟨0x110, 16, 15, 8, 64, .rw, .any, .staged, 0x438⟩
/-- LAY_SURF.fmt (R244). surface format (R230) -/
def LAY_SURF_fmt : Fld := ⟨0x114, 0, 2, 8, 64, .rw, .any, .staged, 0x0⟩
/-- LAY_BASE.lo/hi (R244). surface base; [6:0] zero -/
def LAY_BASE_lo : Fld := ⟨0x118, 7, 25, 8, 64, .rw, .any, .staged, 0x0⟩
/-- LAY_BASE.lo/hi (R244). surface base; [6:0] zero -/
def LAY_BASE_hi : Fld := ⟨0x11C, 0, 32, 8, 64, .rw, .any, .staged, 0x0⟩
/-- LAY_STRIDE.bytes (R244). stride; formats 0–2 -/
def LAY_STRIDE_bytes : Fld := ⟨0x120, 0, 24, 8, 64, .rw, .any, .staged, 0x0⟩
/-- LAY_ZHDR.lo/hi (R244). ZTF header base; [6:0] zero -/
def LAY_ZHDR_lo : Fld := ⟨0x124, 7, 25, 8, 64, .rw, .any, .staged, 0x0⟩
/-- LAY_ZHDR.lo/hi (R244). ZTF header base; [6:0] zero -/
def LAY_ZHDR_hi : Fld := ⟨0x128, 0, 32, 8, 64, .rw, .any, .staged, 0x0⟩
/-- LAY_SWH.w (R244). surface width, or expected live width -/
def LAY_SWH_w : Fld := ⟨0x12C, 0, 14, 8, 64, .rw, .any, .staged, 0x780⟩
/-- LAY_SWH.h (R244). surface height, or expected live height -/
def LAY_SWH_h : Fld := ⟨0x12C, 16, 14, 8, 64, .rw, .any, .staged, 0x438⟩
/-- LAY_STAT.state (R244). 0 Off, 1 Full, 2 Reduced, 3 Transparent -/
def LAY_STAT_state : Fld := ⟨0x130, 0, 2, 8, 64, .ro, .any, .ctl, 0x0⟩
/-- LAY_STAT.vtaps (R244). taps in use, encoded as vtaps -/
def LAY_STAT_vtaps : Fld := ⟨0x130, 2, 2, 8, 64, .ro, .any, .ctl, 0x0⟩
/-- LAY_STAT.grp (R244). tap names another group (R228) -/
def LAY_STAT_grp : Fld := ⟨0x130, 4, 1, 8, 64, .ro, .any, .ctl, 0x0⟩
/-- LAY_STAT.limit (R244). run-time scaling limit failed -/
def LAY_STAT_limit : Fld := ⟨0x130, 5, 1, 8, 64, .ro, .any, .ctl, 0x0⟩
/-- LAY_STAT.cspace (R244). colorimetry differs (R226) -/
def LAY_STAT_cspace : Fld := ⟨0x130, 6, 1, 8, 64, .ro, .any, .ctl, 0x0⟩
/-- LAY_STAT.held (R244). slots held -/
def LAY_STAT_held : Fld := ⟨0x130, 8, 8, 8, 64, .ro, .any, .ctl, 0x0⟩
/-- LAY_STAT.need (R244). slots needed at configured taps -/
def LAY_STAT_need : Fld := ⟨0x130, 16, 8, 8, 64, .ro, .any, .ctl, 0x0⟩
/-- LAY_DEGRADE.n (R244). tap reductions -/
def LAY_DEGRADE_n : Fld := ⟨0x800, 0, 32, 8, 16, .rc, .any, .ctl, 0x0⟩
/-- LAY_TRANSP_FR.n (R244). frames forced transparent -/
def LAY_TRANSP_FR_n : Fld := ⟨0x804, 0, 32, 8, 16, .rc, .any, .ctl, 0x0⟩
/-- LAY_MEM_ERR.n (R244). uncorrectable granules and invalid tiles -/
def LAY_MEM_ERR_n : Fld := ⟨0x808, 0, 32, 8, 16, .rc, .any, .ctl, 0x0⟩
/-- LAY_LATE.n (R244). lines with late surface data -/
def LAY_LATE_n : Fld := ⟨0x80C, 0, 32, 8, 16, .rc, .any, .ctl, 0x0⟩

/-- PRO_OUT.en (R262). output enabled (R247) -/
def PRO_OUT_en : Fld := ⟨0x100, 0, 1, 1, 4, .rw, .prv, .staged, 0x0⟩
/-- PRO_OUT.group (R262). output group -/
def PRO_OUT_group : Fld := ⟨0x100, 4, 4, 1, 4, .rw, .any, .staged, 0x0⟩
/-- PRO_OUT.safe (R262). safe stack (R252) -/
def PRO_OUT_safe : Fld := ⟨0x100, 8, 1, 1, 4, .rw, .any, .imm, 0x1⟩
/-- PRO_OUT.ycc (R262). c1, c2 zero level 512 (R253) -/
def PRO_OUT_ycc : Fld := ⟨0x100, 9, 1, 1, 4, .rw, .any, .staged, 0x1⟩
/-- PRO_ORDER (R262). positions 0–7 (R250) -/
def PRO_ORDER : Fld := ⟨0x104, 0, 32, 1, 4, .rw, .any, .staged, 0xFFFFFF10⟩
/-- PRO_ORDER_CHK (R262). complement of PRO_ORDER -/
def PRO_ORDER_CHK : Fld := ⟨0x108, 0, 32, 1, 4, .rw, .any, .staged, 0xEF⟩
/-- PRO_FLIP_CTL.maxhold (R262). frames held before overdue -/
def PRO_FLIP_CTL_maxhold : Fld := ⟨0x10C, 0, 8, 1, 4, .rw, .any, .staged, 0x2⟩
/-- PRO_FLIP[g].arm (R262). arm group g; self-clearing -/
def PRO_FLIP_arm : Fld := ⟨0x110, 0, 1, 4, 8, .w1s, .any, .ctl, 0x0⟩
/-- PRO_FLIP[g].pend (R262). Pending -/
def PRO_FLIP_pend : Fld := ⟨0x110, 1, 1, 4, 8, .ro, .any, .ctl, 0x0⟩
/-- PRO_FLIP[g].bank (R262). bank shown -/
def PRO_FLIP_bank : Fld := ⟨0x110, 2, 2, 4, 8, .ro, .any, .ctl, 0x0⟩
/-- PRO_FLIP[g].overdue (R262). R256 -/
def PRO_FLIP_overdue : Fld := ⟨0x110, 4, 1, 4, 8, .ro, .any, .ctl, 0x0⟩
/-- PRO_FLIP[g].auto (R262). auto mode (R257) -/
def PRO_FLIP_auto : Fld := ⟨0x110, 5, 1, 4, 8, .rw, .any, .staged, 0x0⟩
/-- PRO_FLIP[g].nb (R262). 0 two banks, 1 three banks -/
def PRO_FLIP_nb : Fld := ⟨0x110, 6, 1, 4, 8, .rw, .any, .staged, 0x0⟩
/-- PRO_FLIP[g].held (R262). frames held, saturating -/
def PRO_FLIP_held : Fld := ⟨0x110, 8, 8, 4, 8, .ro, .any, .ctl, 0x0⟩
/-- PRO_FLIP_TGT[g] (R262). fence target -/
def PRO_FLIP_TGT : Fld := ⟨0x114, 0, 32, 4, 8, .rw, .any, .ctl, 0x0⟩
/-- PRO_FENCE[g] (R262). fence value -/
def PRO_FENCE : Fld := ⟨0x130, 0, 32, 4, 4, .rwh, .any, .ctl, 0x0⟩
/-- PRB_STAT.state (R262). 0 Off, 1 Starting, 2 Running -/
def PRB_STAT_state : Fld := ⟨0x140, 0, 2, 1, 4, .ro, .any, .ctl, 0x0⟩
/-- PRB_STAT.safe (R262). safe stack in use -/
def PRB_STAT_safe : Fld := ⟨0x140, 2, 1, 1, 4, .ro, .any, .ctl, 0x1⟩
/-- PRB_STAT.order_bad (R262). R251 -/
def PRB_STAT_order_bad : Fld := ⟨0x140, 3, 1, 1, 4, .ro, .any, .ctl, 0x0⟩
/-- LAY_BLEND.alpha (R262). layer alpha A -/
def LAY_BLEND_alpha : Fld := ⟨0x180, 0, 10, 8, 64, .rw, .any, .staged, 0x3FF⟩
/-- LAY_BLEND.asrc (R262). 0 own, 1 key, 2 constant, 3 reserved -/
def LAY_BLEND_asrc : Fld := ⟨0x180, 10, 2, 8, 64, .rw, .any, .staged, 0x0⟩
/-- LAY_BLEND.pm (R262). pre-multiplied -/
def LAY_BLEND_pm : Fld := ⟨0x180, 12, 1, 8, 64, .rw, .any, .staged, 0x0⟩
/-- LAY_BLEND.fgrp (R262). flip group -/
def LAY_BLEND_fgrp : Fld := ⟨0x180, 13, 2, 8, 64, .rw, .any, .staged, 0x0⟩
/-- LAY_BLEND.fl_en (R262). layer flips (R255) -/
def LAY_BLEND_fl_en : Fld := ⟨0x180, 15, 1, 8, 64, .rw, .any, .staged, 0x0⟩
/-- LAY_BLEND.kconst (R262). constant alpha -/
def LAY_BLEND_kconst : Fld := ⟨0x180, 16, 10, 8, 64, .rw, .any, .staged, 0x3FF⟩
/-- LAY_KEY.lo (R262). key black level -/
def LAY_KEY_lo : Fld := ⟨0x184, 0, 10, 8, 64, .rw, .any, .staged, 0x40⟩
/-- LAY_KEY.hi (R262). key white level -/
def LAY_KEY_hi : Fld := ⟨0x184, 16, 10, 8, 64, .rw, .any, .staged, 0x3AC⟩
/-- LAY_BASE1.lo/hi (R262). bank 1 base; [6:0] zero -/
def LAY_BASE1_lo : Fld := ⟨0x188, 7, 25, 8, 64, .rw, .any, .staged, 0x0⟩
/-- LAY_BASE1.lo/hi (R262). bank 1 base; [6:0] zero -/
def LAY_BASE1_hi : Fld := ⟨0x18C, 0, 32, 8, 64, .rw, .any, .staged, 0x0⟩
/-- LAY_BASE2.lo/hi (R262). bank 2 base -/
def LAY_BASE2_lo : Fld := ⟨0x190, 7, 25, 8, 64, .rw, .any, .staged, 0x0⟩
/-- LAY_BASE2.lo/hi (R262). bank 2 base -/
def LAY_BASE2_hi : Fld := ⟨0x194, 0, 32, 8, 64, .rw, .any, .staged, 0x0⟩
/-- LAY_ZHDR1.lo/hi (R262). bank 1 ZTF header -/
def LAY_ZHDR1_lo : Fld := ⟨0x198, 7, 25, 8, 64, .rw, .any, .staged, 0x0⟩
/-- LAY_ZHDR1.lo/hi (R262). bank 1 ZTF header -/
def LAY_ZHDR1_hi : Fld := ⟨0x19C, 0, 32, 8, 64, .rw, .any, .staged, 0x0⟩
/-- LAY_ZHDR2.lo/hi (R262). bank 2 ZTF header -/
def LAY_ZHDR2_lo : Fld := ⟨0x1A0, 7, 25, 8, 64, .rw, .any, .staged, 0x0⟩
/-- LAY_ZHDR2.lo/hi (R262). bank 2 ZTF header -/
def LAY_ZHDR2_hi : Fld := ⟨0x1A4, 0, 32, 8, 64, .rw, .any, .staged, 0x0⟩
/-- LAY_BSTAT.key_lost (R262). R254 -/
def LAY_BSTAT_key_lost : Fld := ⟨0x1A8, 0, 1, 8, 64, .ro, .any, .ctl, 0x0⟩
/-- CAP_CFG.en (R262). capture on -/
def CAP_CFG_en : Fld := ⟨0x400, 0, 1, 1, 4, .rw, .any, .staged, 0x0⟩
/-- CAP_CFG.fmt (R262). 0 P40, 2 Y422 -/
def CAP_CFG_fmt : Fld := ⟨0x400, 1, 2, 1, 4, .rw, .any, .staged, 0x0⟩
/-- CAP_CFG.scale (R262). 0 full, 1 half, 2 quarter -/
def CAP_CFG_scale : Fld := ⟨0x400, 4, 2, 1, 4, .rw, .any, .staged, 0x0⟩
/-- CAP_CFG.div (R262). write every (div + 1)-th frame -/
def CAP_CFG_div : Fld := ⟨0x400, 8, 4, 1, 4, .rw, .any, .staged, 0x0⟩
/-- CAP_CFG.fence_en (R262). write a fence (R260) -/
def CAP_CFG_fence_en : Fld := ⟨0x400, 12, 1, 1, 4, .rw, .any, .staged, 0x0⟩
/-- CAP_CFG.fpro (R262). Proscenium of that fence -/
def CAP_CFG_fpro : Fld := ⟨0x400, 16, 6, 1, 4, .rw, .any, .staged, 0x0⟩
/-- CAP_CFG.fgrp (R262). group of that fence -/
def CAP_CFG_fgrp : Fld := ⟨0x400, 22, 2, 1, 4, .rw, .any, .staged, 0x0⟩
/-- CAP_BASE[n].lo/hi (R262). bank n base, n = 0–2 -/
def CAP_BASE_lo : Fld := ⟨0x408, 0, 32, 3, 8, .rw, .any, .staged, 0x0⟩
/-- CAP_BASE[n].lo/hi (R262). bank n base, n = 0–2 -/
def CAP_BASE_hi : Fld := ⟨0x40C, 0, 32, 3, 8, .rw, .any, .staged, 0x0⟩
/-- CAP_STRIDE.bytes (R262). stride -/
def CAP_STRIDE_bytes : Fld := ⟨0x420, 0, 24, 1, 4, .rw, .any, .staged, 0x0⟩
/-- CAP_SEQ.n (R262). frames written -/
def CAP_SEQ_n : Fld := ⟨0x424, 0, 32, 1, 4, .ro, .any, .ctl, 0x0⟩
/-- PRO_CAPBW.used (R262). this capture, MB/s -/
def PRO_CAPBW_used : Fld := ⟨0x428, 0, 17, 1, 4, .ro, .any, .ctl, 0x0⟩
/-- PRO_CAPBW.need (R262). total asked by the last refused commit -/
def PRO_CAPBW_need : Fld := ⟨0x42C, 0, 18, 1, 4, .ro, .any, .ctl, 0x0⟩
/-- PRB_FLIPS.n (R262). flips -/
def PRB_FLIPS_n : Fld := ⟨0x800, 0, 32, 1, 4, .rc, .any, .ctl, 0x0⟩
/-- PRB_HOLD.n (R262). group frames held -/
def PRB_HOLD_n : Fld := ⟨0x804, 0, 32, 1, 4, .rc, .any, .ctl, 0x0⟩
/-- PRB_OVERDUE.n (R262). flips overdue -/
def PRB_OVERDUE_n : Fld := ⟨0x808, 0, 32, 1, 4, .rc, .any, .ctl, 0x0⟩
/-- PRB_SAFE_FR.n (R262). frames in safe stack by R251 -/
def PRB_SAFE_FR_n : Fld := ⟨0x80C, 0, 32, 1, 4, .rc, .any, .ctl, 0x0⟩
/-- PRB_KEY_LOST.n (R262). frames with a key partner lost -/
def PRB_KEY_LOST_n : Fld := ⟨0x810, 0, 32, 1, 4, .rc, .any, .ctl, 0x0⟩
/-- PRB_PAIR_EARLY.n (R262). flips made ahead of own fence -/
def PRB_PAIR_EARLY_n : Fld := ⟨0x814, 0, 32, 1, 4, .rc, .any, .ctl, 0x0⟩
/-- CAP_FRAMES.n (R262). frames captured -/
def CAP_FRAMES_n : Fld := ⟨0x818, 0, 32, 1, 4, .rc, .any, .ctl, 0x0⟩
/-- CAP_DROP.n (R262). frames abandoned -/
def CAP_DROP_n : Fld := ⟨0x81C, 0, 32, 1, 4, .rc, .any, .ctl, 0x0⟩
/-- IRQ_STAT bit of running (R262). as the states and counters -/
def IRQ_proBlend_running : Nat := 0
/-- IRQ_STAT bit of flip (R262). as the states and counters -/
def IRQ_proBlend_flip : Nat := 1
/-- IRQ_STAT bit of overdue (R262). as the states and counters -/
def IRQ_proBlend_overdue : Nat := 2
/-- IRQ_STAT bit of safe (R262). as the states and counters -/
def IRQ_proBlend_safe : Nat := 3
/-- IRQ_STAT bit of cap_done (R262). as the states and counters -/
def IRQ_proBlend_cap_done : Nat := 4
/-- IRQ_STAT bit of cap_drop (R262). as the states and counters -/
def IRQ_proBlend_cap_drop : Nat := 5
/-- IRQ_STAT bit of key_lost (R262). as the states and counters -/
def IRQ_proBlend_key_lost : Nat := 6

/-- PRG_BW.used (R244). live surface read total, MB/s (R240) -/
def PRG_BW_used : Fld := ⟨0x100, 0, 17, 1, 4, .ro, .any, .ctl, 0x0⟩
/-- PRG_BW.need (R244). total asked for by the last refused commit -/
def PRG_BW_need : Fld := ⟨0x104, 0, 18, 1, 4, .ro, .any, .ctl, 0x0⟩
/-- PRG_SWING.pro (R244). Proscenium whose swing is in service -/
def PRG_SWING_pro : Fld := ⟨0x108, 0, 6, 1, 4, .ro, .any, .ctl, 0x0⟩
/-- PRG_SWING.valid (R244). a swing is in service -/
def PRG_SWING_valid : Fld := ⟨0x108, 6, 1, 1, 4, .ro, .any, .ctl, 0x0⟩

/-- PIT_CTL.lat (R284). input latency, 1–8 samples (R268) -/
def PIT_CTL_lat : Fld := ⟨0x100, 0, 4, 1, 4, .rw, .any, .staged, 0x2⟩
/-- PIT_CTL.gramp (R284). gain ramp, 0–255 samples -/
def PIT_CTL_gramp : Fld := ⟨0x100, 8, 8, 1, 4, .rw, .any, .staged, 0x20⟩
/-- PIT_DLY_AREA.lo/hi (R284). delay area base (R280) -/
def PIT_DLY_AREA_lo : Fld := ⟨0x104, 0, 32, 1, 4, .rw, .prv, .staged, 0x0⟩
/-- PIT_DLY_AREA.lo/hi (R284). delay area base (R280) -/
def PIT_DLY_AREA_hi : Fld := ⟨0x108, 0, 32, 1, 4, .rw, .prv, .staged, 0x0⟩
/-- PIT_DLY_USED.n (R284). pool lines assigned -/
def PIT_DLY_USED_n : Fld := ⟨0x110, 0, 14, 1, 4, .ro, .any, .ctl, 0x0⟩
/-- PIT_DLY_NEED.n (R284). lines asked for by the last refused commit -/
def PIT_DLY_NEED_n : Fld := ⟨0x114, 0, 14, 1, 4, .ro, .any, .ctl, 0x0⟩
/-- PIT_SWING.bank (R284). bank whose swing is in service -/
def PIT_SWING_bank : Fld := ⟨0x118, 0, 4, 1, 4, .ro, .any, .ctl, 0x0⟩
/-- PIT_SWING.valid (R284). a swing bank is in service -/
def PIT_SWING_valid : Fld := ⟨0x118, 4, 1, 1, 4, .ro, .any, .ctl, 0x0⟩
/-- PIT_STAT.tod (R284). grid follows time of day (R264) -/
def PIT_STAT_tod : Fld := ⟨0x11C, 0, 1, 1, 4, .ro, .any, .ctl, 0x0⟩
/-- PIT_IN_SLIP.n (R284). input slips -/
def PIT_IN_SLIP_n : Fld := ⟨0x800, 0, 32, 1, 4, .rc, .any, .ctl, 0x0⟩
/-- PIT_XF_TRUNC.n (R284). blends reduced (R278) -/
def PIT_XF_TRUNC_n : Fld := ⟨0x804, 0, 32, 1, 4, .rc, .any, .ctl, 0x0⟩
/-- PIT_TR_FORCED.n (R284). transparent takes cut at sample 192 -/
def PIT_TR_FORCED_n : Fld := ⟨0x808, 0, 32, 1, 4, .rc, .any, .ctl, 0x0⟩
/-- PIT_DLY_ERR.n (R284). delay granules replaced -/
def PIT_DLY_ERR_n : Fld := ⟨0x80C, 0, 32, 1, 4, .rc, .any, .ctl, 0x0⟩
/-- PIT_SMEM_ERR.n (R284). sample words silenced -/
def PIT_SMEM_ERR_n : Fld := ⟨0x810, 0, 32, 1, 4, .rc, .any, .ctl, 0x0⟩
/-- PIT_SUPERSEDED.n (R284). takes superseded -/
def PIT_SUPERSEDED_n : Fld := ⟨0x814, 0, 32, 1, 4, .rc, .any, .ctl, 0x0⟩
/-- PIT_REGRID.n (R284). grid moves (R265) -/
def PIT_REGRID_n : Fld := ⟨0x818, 0, 32, 1, 4, .rc, .any, .ctl, 0x0⟩
/-- PIT_PAIR_DIFF.n (R284). own slip differed from the Lead's -/
def PIT_PAIR_DIFF_n : Fld := ⟨0x81C, 0, 32, 1, 4, .rc, .any, .ctl, 0x0⟩
/-- IRQ_STAT bit of regrid (R284). as the counters -/
def IRQ_pitCtl_regrid : Nat := 0
/-- IRQ_STAT bit of slip (R284). as the counters -/
def IRQ_pitCtl_slip : Nat := 1
/-- IRQ_STAT bit of dly_err (R284). as the counters -/
def IRQ_pitCtl_dly_err : Nat := 2
/-- IRQ_STAT bit of smem_err (R284). as the counters -/
def IRQ_pitCtl_smem_err : Nat := 3

/-- PIT_SEL.idx (R284). output or rail map entry -/
def PIT_SEL_idx : Fld := ⟨0x100, 0, 16, 1, 4, .rwh, .any, .ctl, 0x0⟩
/-- PIT_SEL.live (R284). load from the live copy -/
def PIT_SEL_live : Fld := ⟨0x100, 16, 1, 1, 4, .rwh, .any, .ctl, 0x0⟩
/-- PIT_SEL.tbl (R284). 0 output table, 1 rail audio map -/
def PIT_SEL_tbl : Fld := ⟨0x100, 17, 1, 1, 4, .rwh, .any, .ctl, 0x0⟩
/-- PIT_SEL.load (R284). load; self-clearing -/
def PIT_SEL_load : Fld := ⟨0x100, 24, 1, 1, 4, .w1s, .any, .ctl, 0x0⟩
/-- PIT_SEL.store (R284). store to staging; self-clearing -/
def PIT_SEL_store : Fld := ⟨0x100, 25, 1, 1, 4, .w1s, .prv, .ctl, 0x0⟩
/-- PIT_SEL.busy (R284). load or store in progress -/
def PIT_SEL_busy : Fld := ⟨0x100, 26, 1, 1, 4, .ro, .any, .ctl, 0x0⟩
/-- PIT_TCRC_REF.crc (R284). table CRC reference -/
def PIT_TCRC_REF_crc : Fld := ⟨0x104, 0, 32, 1, 4, .rw, .prv, .imm, 0x0⟩
/-- PIT_TCRC_NOW.crc (R284). table CRC of the last pass -/
def PIT_TCRC_NOW_crc : Fld := ⟨0x108, 0, 32, 1, 4, .ro, .any, .ctl, 0x0⟩
/-- PIT_WIN[0–1] (R284). entry words -/
def PIT_WIN : Fld := ⟨0x140, 0, 32, 2, 4, .rwh, .any, .ctl, 0x0⟩
/-- PIT_OSTAT.src (R284). input selected, loaded -/
def PIT_OSTAT_src : Fld := ⟨0x180, 0, 16, 1, 4, .ro, .any, .ctl, 0x0⟩
/-- PIT_OSTAT.sel (R284). an input is selected -/
def PIT_OSTAT_sel : Fld := ⟨0x180, 16, 1, 1, 4, .ro, .any, .ctl, 0x0⟩
/-- PIT_OSTAT.state (R284). 0 Steady, 1 Fading, 2 Waiting -/
def PIT_OSTAT_state : Fld := ⟨0x180, 17, 2, 1, 4, .ro, .any, .ctl, 0x0⟩
/-- PIT_OSTAT.res (R284). last take: 0 none, 1 landed, 2 late, 3 superseded, 4 invalid, 5 transparent cut forced -/
def PIT_OSTAT_res : Fld := ⟨0x180, 19, 4, 1, 4, .ro, .any, .ctl, 0x0⟩
/-- PIT_OLINE.n (R284). pool line assigned -/
def PIT_OLINE_n : Fld := ⟨0x184, 0, 14, 1, 4, .ro, .any, .ctl, 0x0⟩
/-- PIT_OLINE.valid (R284). a line is assigned -/
def PIT_OLINE_valid : Fld := ⟨0x184, 16, 1, 1, 4, .ro, .any, .ctl, 0x0⟩

/-- PIT_TK.out (R284). output; per master -/
def PIT_TK_out : Fld := ⟨0x100, 0, 16, 1, 4, .rw, .any, .ctl, 0x0⟩
/-- PIT_TK.in (R284). input; per master -/
def PIT_TK_in : Fld := ⟨0x100, 16, 16, 1, 4, .rw, .any, .ctl, 0x0⟩
/-- PIT_TK_CTL.none (R284). select no input; a take control, and so no configuration (R59; DEDUCED, log entry 187) -/
def PIT_TK_CTL_none : Fld := ⟨0x104, 0, 1, 1, 4, .rw, .any, .ctl, 0x0⟩
/-- PIT_TK_CTL.kind (R284). 0 uptime, 1 next sample, 2–3 reserved; a take control, and so no configuration (R59; DEDUCED, log entry
187) -/
def PIT_TK_CTL_kind : Fld := ⟨0x104, 1, 2, 1, 4, .rw, .any, .ctl, 0x0⟩
/-- PIT_TK_CTL.go (R284). submit; self-clearing -/
def PIT_TK_CTL_go : Fld := ⟨0x104, 31, 1, 1, 4, .w1s, .prv, .ctl, 0x0⟩
/-- PIT_TK_TGT.lo/hi (R284). target uptime cues; per master -/
def PIT_TK_TGT_lo : Fld := ⟨0x108, 0, 32, 1, 4, .rw, .any, .ctl, 0x0⟩
/-- PIT_TK_TGT.lo/hi (R284). target uptime cues; per master -/
def PIT_TK_TGT_hi : Fld := ⟨0x10C, 0, 32, 1, 4, .rw, .any, .ctl, 0x0⟩
/-- PIT_TK_RESP.st (R284). last submission of this master (R276) -/
def PIT_TK_RESP_st : Fld := ⟨0x110, 0, 2, 1, 4, .ro, .any, .ctl, 0x0⟩
/-- PIT_TK_LEVEL.n (R284). direct takes pending, 0–4,096 -/
def PIT_TK_LEVEL_n : Fld := ⟨0x114, 0, 13, 1, 4, .ro, .any, .ctl, 0x0⟩
/-- PIT_TK_FULL.n (R284). refused, queue full -/
def PIT_TK_FULL_n : Fld := ⟨0x800, 0, 32, 1, 4, .rc, .any, .ctl, 0x0⟩
/-- PIT_TK_LATE.n (R284). landed late -/
def PIT_TK_LATE_n : Fld := ⟨0x804, 0, 32, 1, 4, .rc, .any, .ctl, 0x0⟩
/-- PIT_TK_INVALID.n (R284). refused as invalid -/
def PIT_TK_INVALID_n : Fld := ⟨0x808, 0, 32, 1, 4, .rc, .any, .ctl, 0x0⟩
/-- IRQ_STAT bit of full (R284). as the counters -/
def IRQ_pitTake_full : Nat := 0
/-- IRQ_STAT bit of late (R284). as the counters -/
def IRQ_pitTake_late : Nat := 1

/-- TDM_CFG.en (R298). port enabled -/
def TDM_CFG_en : Fld := ⟨0x100, 0, 1, 1, 4, .rw, .prv, .staged, 0x0⟩
/-- TDM_CFG.clk (R298). 0 master, 1 slave locked, 2 slave converted (R288) -/
def TDM_CFG_clk : Fld := ⟨0x100, 1, 2, 1, 4, .rw, .any, .staged, 0x0⟩
/-- TDM_CFG.slots (R298). slot count (R286) -/
def TDM_CFG_slots : Fld := ⟨0x100, 3, 2, 1, 4, .rw, .any, .staged, 0x2⟩
/-- TDM_CFG.dly (R298). data one bit after sync -/
def TDM_CFG_dly : Fld := ⟨0x100, 5, 1, 1, 4, .rw, .any, .staged, 0x0⟩
/-- TDM_CFG.fs_w (R298). 0 one-bit sync, 1 half-frame sync -/
def TDM_CFG_fs_w : Fld := ⟨0x100, 6, 1, 1, 4, .rw, .any, .staged, 0x0⟩
/-- TDM_CFG.fs_pol (R298). 1 sync active low -/
def TDM_CFG_fs_pol : Fld := ⟨0x100, 7, 1, 1, 4, .rw, .any, .staged, 0x0⟩
/-- TDM_CFG.edge (R298). 0 sample on rising edge, 1 falling -/
def TDM_CFG_edge : Fld := ⟨0x100, 8, 1, 1, 4, .rw, .any, .staged, 0x0⟩
/-- TDM_CFG.align (R298). 0 trigger (R291), 1 stamps (R292) -/
def TDM_CFG_align : Fld := ⟨0x100, 9, 1, 1, 4, .rw, .any, .staged, 0x0⟩
/-- TDM_BLK.frames (R298). stamp block, 1–64 frames -/
def TDM_BLK_frames : Fld := ⟨0x104, 0, 7, 1, 4, .rw, .any, .staged, 0x20⟩
/-- TDM_RXEN (R298). receive slot enables -/
def TDM_RXEN : Fld := ⟨0x108, 0, 32, 1, 4, .rw, .any, .ctl, 0x0⟩
/-- TDM_TXEN (R298). transmit slot enables -/
def TDM_TXEN : Fld := ⟨0x10C, 0, 32, 1, 4, .rw, .any, .ctl, 0x0⟩
/-- TDM_RXTR (R298). transparent receive slots (R287) -/
def TDM_RXTR : Fld := ⟨0x110, 0, 32, 1, 4, .rw, .any, .staged, 0x0⟩
/-- TDM_FADE.out (R298). fade-out, 1–1,023 samples -/
def TDM_FADE_out : Fld := ⟨0x114, 0, 10, 1, 4, .rw, .any, .staged, 0x40⟩
/-- TDM_FADE.in (R298). ramp-in, 1–1,023 samples -/
def TDM_FADE_in : Fld := ⟨0x114, 16, 10, 1, 4, .rw, .any, .staged, 0x40⟩
/-- TDM_ZX.timeout (R298). zero-crossing wait, 0–48,000 samples -/
def TDM_ZX_timeout : Fld := ⟨0x118, 0, 16, 1, 4, .rw, .any, .staged, 0x1E0⟩
/-- TDM_TXOFS.cues (R298). sync after Pit instant, 0–220,499 -/
def TDM_TXOFS_cues : Fld := ⟨0x11C, 0, 18, 1, 4, .rw, .any, .staged, 0x0⟩
/-- TDM_STAT.run (R298). frames positioned -/
def TDM_STAT_run : Fld := ⟨0x140, 0, 1, 1, 4, .ro, .any, .ctl, 0x0⟩
/-- TDM_STAT.drift (R298). R289 -/
def TDM_STAT_drift : Fld := ⟨0x140, 1, 1, 1, 4, .ro, .any, .ctl, 0x0⟩
/-- TDM_STAT.over_range (R298). R290 -/
def TDM_STAT_over_range : Fld := ⟨0x140, 2, 1, 1, 4, .ro, .any, .ctl, 0x0⟩
/-- TDM_FRATE.mhz (R298). measured frame rate, mHz -/
def TDM_FRATE_mhz : Fld := ⟨0x144, 0, 26, 1, 4, .ro, .any, .ctl, 0x0⟩
/-- TDM_STAMP.lo/hi (R298). last block stamp, uptime -/
def TDM_STAMP_lo : Fld := ⟨0x148, 0, 32, 1, 4, .ro, .any, .ctl, 0x0⟩
/-- TDM_STAMP.lo/hi (R298). last block stamp, uptime -/
def TDM_STAMP_hi : Fld := ⟨0x14C, 0, 32, 1, 4, .ro, .any, .ctl, 0x0⟩
/-- TDM_BLKSEQ.n (R298). block of that stamp -/
def TDM_BLKSEQ_n : Fld := ⟨0x150, 0, 32, 1, 4, .ro, .any, .ctl, 0x0⟩
/-- TDM_GAP.rx (R298). receive slots in a gap -/
def TDM_GAP_rx : Fld := ⟨0x154, 0, 32, 1, 4, .ro, .any, .ctl, 0x0⟩
/-- TDM_UNDER.n (R298). gaps started -/
def TDM_UNDER_n : Fld := ⟨0x800, 0, 32, 1, 4, .rc, .any, .ctl, 0x0⟩
/-- TDM_OVER.n (R298). frames discarded for overrun -/
def TDM_OVER_n : Fld := ⟨0x804, 0, 32, 1, 4, .rc, .any, .ctl, 0x0⟩
/-- TDM_LATE.n (R298). late frames discarded -/
def TDM_LATE_n : Fld := ⟨0x808, 0, 32, 1, 4, .rc, .any, .ctl, 0x0⟩
/-- TDM_ZX_TMO.n (R298). zero-crossing timeouts -/
def TDM_ZX_TMO_n : Fld := ⟨0x80C, 0, 32, 1, 4, .rc, .any, .ctl, 0x0⟩
/-- TDM_FS_ERR.n (R298). frames with a sync error -/
def TDM_FS_ERR_n : Fld := ⟨0x810, 0, 32, 1, 4, .rc, .any, .ctl, 0x0⟩
/-- TDM_TX_SLIP.n (R298). transmit samples repeated or skipped -/
def TDM_TX_SLIP_n : Fld := ⟨0x814, 0, 32, 1, 4, .rc, .any, .ctl, 0x0⟩
/-- TDM_PAIR_DIFF.n (R298). own gap positions differing from the Lead's -/
def TDM_PAIR_DIFF_n : Fld := ⟨0x818, 0, 32, 1, 4, .rc, .any, .ctl, 0x0⟩
/-- IRQ_STAT bit of gap (R298). as the states and counters -/
def IRQ_tdm_gap : Nat := 0
/-- IRQ_STAT bit of reenter (R298). as the states and counters -/
def IRQ_tdm_reenter : Nat := 1
/-- IRQ_STAT bit of zx_tmo (R298). as the states and counters -/
def IRQ_tdm_zx_tmo : Nat := 2
/-- IRQ_STAT bit of drift (R298). as the states and counters -/
def IRQ_tdm_drift : Nat := 3
/-- IRQ_STAT bit of over_range (R298). as the states and counters -/
def IRQ_tdm_over_range : Nat := 4
/-- IRQ_STAT bit of fs_err (R298). as the states and counters -/
def IRQ_tdm_fs_err : Nat := 5
/-- IRQ_STAT bit of stamp (R298). as the states and counters -/
def IRQ_tdm_stamp : Nat := 6

/-- TDM_TRIG.mask (R299). ports in the start set -/
def TDM_TRIG_mask : Fld := ⟨0x100, 0, 16, 1, 4, .rw, .prv, .imm, 0x0⟩
/-- TDM_TRIG_TGT.lo/hi (R299). target uptime -/
def TDM_TRIG_TGT_lo : Fld := ⟨0x104, 0, 32, 1, 4, .rw, .prv, .imm, 0x0⟩
/-- TDM_TRIG_TGT.lo/hi (R299). target uptime -/
def TDM_TRIG_TGT_hi : Fld := ⟨0x108, 0, 32, 1, 4, .rw, .prv, .imm, 0x0⟩
/-- TDM_TRIG_CTL.go (R299). fix S (R291); self-clearing -/
def TDM_TRIG_CTL_go : Fld := ⟨0x10C, 0, 1, 1, 4, .w1s, .prv, .ctl, 0x0⟩
/-- TDM_TRIG_CTL.pending (R299). S not yet reached -/
def TDM_TRIG_CTL_pending : Fld := ⟨0x10C, 1, 1, 1, 4, .ro, .any, .ctl, 0x0⟩
/-- TDM_TRIG_CTL.late (R299). target had passed -/
def TDM_TRIG_CTL_late : Fld := ⟨0x10C, 2, 1, 1, 4, .w1c, .any, .ctl, 0x0⟩
/-- TDM_TRIG_CTL.skip (R299). a masked port was not started -/
def TDM_TRIG_CTL_skip : Fld := ⟨0x10C, 3, 1, 1, 4, .w1c, .any, .ctl, 0x0⟩
/-- TDM_TRIG_S.lo/hi (R299). S of the last trigger -/
def TDM_TRIG_S_lo : Fld := ⟨0x110, 0, 32, 1, 4, .ro, .any, .ctl, 0x0⟩
/-- TDM_TRIG_S.lo/hi (R299). S of the last trigger -/
def TDM_TRIG_S_hi : Fld := ⟨0x114, 0, 32, 1, 4, .ro, .any, .ctl, 0x0⟩
/-- IRQ_STAT bit of started (R299). S reached -/
def IRQ_tdmTrig_started : Nat := 0

/-- DRC_PAGE.idle (R386). idle cycles before precharge; 0 closed page (R379) -/
def DRC_PAGE_idle : Fld := ⟨0x100, 0, 8, 1, 4, .rw, .any, .staged, 0x40⟩
/-- DRC_PAGE.starve (R386). cycles a miss waits before the row closes -/
def DRC_PAGE_starve : Fld := ⟨0x100, 8, 16, 1, 4, .rw, .any, .staged, 0x100⟩
/-- DRC_QLIM.n (R386). requests per requester, 1–1,024 (R376) -/
def DRC_QLIM_n : Fld := ⟨0x104, 0, 11, 1, 4, .rw, .any, .staged, 0x100⟩
/-- DRC_WQ.hi (R386). writes waiting that start a drain -/
def DRC_WQ_hi : Fld := ⟨0x108, 0, 10, 1, 4, .rw, .any, .staged, 0x40⟩
/-- DRC_WQ.lo (R386). writes waiting that end a drain -/
def DRC_WQ_lo : Fld := ⟨0x108, 16, 10, 1, 4, .rw, .any, .staged, 0x20⟩
/-- DRC_WQ.age (R386). write age that starts a drain, cycles -/
def DRC_WQ_age : Fld := ⟨0x10C, 0, 16, 1, 4, .rw, .any, .staged, 0x1F40⟩
/-- DRC_RH.thr (R386). activates per window before neighbour refresh -/
def DRC_RH_thr : Fld := ⟨0x110, 0, 16, 1, 4, .rw, .any, .staged, 0x800⟩
/-- DRC_RH.en (R386). row-disturb defence on -/
def DRC_RH_en : Fld := ⟨0x110, 16, 1, 1, 4, .rw, .any, .staged, 0x1⟩
/-- DRC_TIM0.trcd (R386). DRAM clocks -/
def DRC_TIM0_trcd : Fld := ⟨0x120, 0, 8, 1, 4, .rw, .prv, .staged, 0x34⟩
/-- DRC_TIM0.trp (R386). DRAM clocks -/
def DRC_TIM0_trp : Fld := ⟨0x120, 8, 8, 1, 4, .rw, .prv, .staged, 0x34⟩
/-- DRC_TIM0.tras (R386). DRAM clocks -/
def DRC_TIM0_tras : Fld := ⟨0x120, 16, 8, 1, 4, .rw, .prv, .staged, 0x67⟩
/-- DRC_TIM0.tfaw (R386). DRAM clocks -/
def DRC_TIM0_tfaw : Fld := ⟨0x120, 24, 8, 1, 4, .rw, .prv, .staged, 0x28⟩
/-- DRC_TIM1.trrd_s (R386). DRAM clocks -/
def DRC_TIM1_trrd_s : Fld := ⟨0x124, 0, 8, 1, 4, .rw, .prv, .staged, 0x8⟩
/-- DRC_TIM1.trrd_l (R386). DRAM clocks -/
def DRC_TIM1_trrd_l : Fld := ⟨0x124, 8, 8, 1, 4, .rw, .prv, .staged, 0x10⟩
/-- DRC_TIM1.tccd_l (R386). DRAM clocks -/
def DRC_TIM1_tccd_l : Fld := ⟨0x124, 16, 8, 1, 4, .rw, .prv, .staged, 0x14⟩
/-- DRC_TIM1.twr (R386). DRAM clocks -/
def DRC_TIM1_twr : Fld := ⟨0x124, 24, 8, 1, 4, .rw, .prv, .staged, 0x60⟩
/-- DRC_TIM2.trfc (R386). DRAM clocks -/
def DRC_TIM2_trfc : Fld := ⟨0x128, 0, 12, 1, 4, .rw, .prv, .staged, 0x3B0⟩
/-- DRC_TIM2.trefi (R386). DDRn cycles (R381) -/
def DRC_TIM2_trefi : Fld := ⟨0x128, 16, 12, 1, 4, .rw, .prv, .staged, 0xC30⟩
/-- DRC_STAT.sr (R386). devices in self-refresh -/
def DRC_STAT_sr : Fld := ⟨0x140, 0, 1, 1, 4, .ro, .any, .ctl, 0x0⟩
/-- DRC_STAT.drain (R386). write drain in progress -/
def DRC_STAT_drain : Fld := ⟨0x140, 1, 1, 1, 4, .ro, .any, .ctl, 0x0⟩
/-- DRC_STAT.hot (R386). refresh rate doubled -/
def DRC_STAT_hot : Fld := ⟨0x140, 2, 1, 1, 4, .ro, .any, .ctl, 0x0⟩
/-- DRC_STAT.owed (R386). refreshes owed, 0–4 -/
def DRC_STAT_owed : Fld := ⟨0x140, 4, 3, 1, 4, .ro, .any, .ctl, 0x0⟩
/-- DRC_INFL.n (R386). requests in flight -/
def DRC_INFL_n : Fld := ⟨0x144, 0, 11, 1, 4, .ro, .any, .ctl, 0x0⟩
/-- DRC_ACT.n (R386). activates -/
def DRC_ACT_n : Fld := ⟨0x800, 0, 32, 1, 4, .rc, .any, .ctl, 0x0⟩
/-- DRC_HIT.n (R386). column commands to an open row without activate -/
def DRC_HIT_n : Fld := ⟨0x804, 0, 32, 1, 4, .rc, .any, .ctl, 0x0⟩
/-- DRC_RH_REFRESH.n (R386). neighbour rows refreshed -/
def DRC_RH_REFRESH_n : Fld := ⟨0x808, 0, 32, 1, 4, .rc, .any, .ctl, 0x0⟩
/-- DRC_REF.n (R386). refreshes -/
def DRC_REF_n : Fld := ⟨0x80C, 0, 32, 1, 4, .rc, .any, .ctl, 0x0⟩
/-- DRC_POSTPONED.n (R386). refreshes postponed -/
def DRC_POSTPONED_n : Fld := ⟨0x810, 0, 32, 1, 4, .rc, .any, .ctl, 0x0⟩
/-- DRC_FULL.n (R386). cycles a request waited (R376) -/
def DRC_FULL_n : Fld := ⟨0x814, 0, 32, 1, 4, .rc, .any, .ctl, 0x0⟩
/-- DRC_UNAVAIL.n (R386). requests refused (R385) -/
def DRC_UNAVAIL_n : Fld := ⟨0x818, 0, 32, 1, 4, .rc, .any, .ctl, 0x0⟩
/-- IRQ_STAT bit of rh (R386). as the states and counters -/
def IRQ_drcCtl_rh : Nat := 0
/-- IRQ_STAT bit of hot (R386). as the states and counters -/
def IRQ_drcCtl_hot : Nat := 1
/-- IRQ_STAT bit of unavail (R386). as the states and counters -/
def IRQ_drcCtl_unavail : Nat := 2
/-- IRQ_STAT bit of avail (R386). as the states and counters -/
def IRQ_drcCtl_avail : Nat := 3

/-- DRC_TRN.min (R386). least eye width, 1/64 UI -/
def DRC_TRN_min : Fld := ⟨0x100, 0, 6, 1, 4, .rw, .prv, .staged, 0x10⟩
/-- DRC_TRK.per (R386). tracking period, ms -/
def DRC_TRK_per : Fld := ⟨0x104, 0, 10, 1, 4, .rw, .any, .staged, 0x64⟩
/-- DRC_TRK.lim (R386). drift alarm, steps -/
def DRC_TRK_lim : Fld := ⟨0x108, 0, 8, 1, 4, .rw, .any, .staged, 0x8⟩
/-- DRC_DLY[d].wr0 (R386). trained write delay of device d -/
def DRC_DLY_wr0 : Fld := ⟨0x140, 0, 8, 10, 4, .ro, .any, .ctl, 0x0⟩
/-- DRC_DLY[d].wr (R386). present write delay -/
def DRC_DLY_wr : Fld := ⟨0x140, 8, 8, 10, 4, .ro, .any, .ctl, 0x0⟩
/-- DRC_DLY[d].rd (R386). trained read delay -/
def DRC_DLY_rd : Fld := ⟨0x140, 16, 8, 10, 4, .ro, .any, .ctl, 0x0⟩
/-- DRC_EYE[d].rd (R386). read eye width, steps -/
def DRC_EYE_rd : Fld := ⟨0x180, 0, 8, 10, 4, .ro, .any, .ctl, 0x0⟩
/-- DRC_EYE[d].wr (R386). write eye width, steps -/
def DRC_EYE_wr : Fld := ⟨0x180, 8, 8, 10, 4, .ro, .any, .ctl, 0x0⟩
/-- DRC_TRN_STAT.fail (R386). bit d: device d failed training -/
def DRC_TRN_STAT_fail : Fld := ⟨0x1C0, 0, 10, 1, 4, .ro, .any, .ctl, 0x0⟩
/-- DRC_TRN_STAT.done (R386). training complete -/
def DRC_TRN_STAT_done : Fld := ⟨0x1C0, 16, 1, 1, 4, .ro, .any, .ctl, 0x0⟩
/-- DRC_TRK_RUNS.n (R386). tracking passes -/
def DRC_TRK_RUNS_n : Fld := ⟨0x800, 0, 32, 1, 4, .rc, .any, .ctl, 0x0⟩
/-- DRC_TRK_ADJ.n (R386). delay steps applied -/
def DRC_TRK_ADJ_n : Fld := ⟨0x804, 0, 32, 1, 4, .rc, .any, .ctl, 0x0⟩
/-- IRQ_STAT bit of trained (R386). as the states and counters -/
def IRQ_drcTrn_trained : Nat := 0
/-- IRQ_STAT bit of train_fail (R386). as the states and counters -/
def IRQ_drcTrn_train_fail : Nat := 1
/-- IRQ_STAT bit of drift (R386). as the states and counters -/
def IRQ_drcTrn_drift : Nat := 2

/-- DPR_RETIRE.dev (R408). retired device; 0xF none (R394, R396) -/
def DPR_RETIRE_dev : Fld := ⟨0x100, 0, 4, 1, 4, .rwh, .prv, .imm, 0xF⟩
/-- DPR_RETIRE.auto (R408). automatic retirement (R395) -/
def DPR_RETIRE_auto : Fld := ⟨0x100, 4, 1, 1, 4, .rw, .any, .staged, 0x1⟩
/-- DPR_RET.thr (R408). corrected granules per window -/
def DPR_RET_thr : Fld := ⟨0x104, 0, 16, 1, 4, .rw, .any, .staged, 0x100⟩
/-- DPR_RET.win (R408). window, seconds, 1 or more -/
def DPR_RET_win : Fld := ⟨0x104, 16, 16, 1, 4, .rw, .any, .staged, 0x3C⟩
/-- DPR_SCRUB.gap (R408). guaranteed share, DDRn cycles (R399) -/
def DPR_SCRUB_gap : Fld := ⟨0x108, 0, 20, 1, 4, .rw, .any, .staged, 0x20000⟩
/-- DPR_SCRUB.idle (R408). idle-time spacing, DDRn cycles -/
def DPR_SCRUB_idle : Fld := ⟨0x10C, 0, 16, 1, 4, .rw, .any, .staged, 0x40⟩
/-- DPR_SCRUB.en (R408). scrub on -/
def DPR_SCRUB_en : Fld := ⟨0x10C, 16, 1, 1, 4, .rw, .any, .staged, 0x1⟩
/-- DPR_SCRUB_POS.lo/hi (R408). next address -/
def DPR_SCRUB_POS_lo : Fld := ⟨0x110, 0, 32, 1, 4, .ro, .any, .ctl, 0x0⟩
/-- DPR_SCRUB_POS.lo/hi (R408). next address -/
def DPR_SCRUB_POS_hi : Fld := ⟨0x114, 0, 32, 1, 4, .ro, .any, .ctl, 0x0⟩
/-- DPR_SCRUB_DONE.lo/hi (R408). uptime of the last completed pass -/
def DPR_SCRUB_DONE_lo : Fld := ⟨0x118, 0, 32, 1, 4, .ro, .any, .ctl, 0x0⟩
/-- DPR_SCRUB_DONE.lo/hi (R408). uptime of the last completed pass -/
def DPR_SCRUB_DONE_hi : Fld := ⟨0x11C, 0, 32, 1, 4, .ro, .any, .ctl, 0x0⟩
/-- DPR_SCRUB_PASS.n (R408). passes completed -/
def DPR_SCRUB_PASS_n : Fld := ⟨0x120, 0, 32, 1, 4, .ro, .any, .ctl, 0x0⟩
/-- DPR_CE_ADDR.lo/hi (R408). last corrected granule -/
def DPR_CE_ADDR_lo : Fld := ⟨0x124, 0, 32, 1, 4, .ro, .any, .ctl, 0x0⟩
/-- DPR_CE_ADDR.lo/hi (R408). last corrected granule -/
def DPR_CE_ADDR_hi : Fld := ⟨0x128, 0, 32, 1, 4, .ro, .any, .ctl, 0x0⟩
/-- DPR_CE_INFO.dev (R408). attributed device; 0xF several -/
def DPR_CE_INFO_dev : Fld := ⟨0x12C, 0, 4, 1, 4, .ro, .any, .ctl, 0xF⟩
/-- DPR_CE_INFO.sym (R408). symbols corrected, worst codeword -/
def DPR_CE_INFO_sym : Fld := ⟨0x12C, 4, 4, 1, 4, .ro, .any, .ctl, 0x0⟩
/-- DPR_CE_INFO.req (R408). requester ID -/
def DPR_CE_INFO_req : Fld := ⟨0x12C, 8, 8, 1, 4, .ro, .any, .ctl, 0x0⟩
/-- DPR_DEVCE[d].n (R408). count of device d in this window -/
def DPR_DEVCE_n : Fld := ⟨0x140, 0, 16, 10, 4, .ro, .any, .ctl, 0x0⟩
/-- DPR_CE.n (R408). corrected granules -/
def DPR_CE_n : Fld := ⟨0x800, 0, 32, 1, 4, .rc, .any, .ctl, 0x0⟩
/-- DPR_UE.n (R408). uncorrectable foreground reads -/
def DPR_UE_n : Fld := ⟨0x804, 0, 32, 1, 4, .rc, .any, .ctl, 0x0⟩
/-- DPR_SCRUB_CE.n (R408). granules corrected by scrub -/
def DPR_SCRUB_CE_n : Fld := ⟨0x808, 0, 32, 1, 4, .rc, .any, .ctl, 0x0⟩
/-- DPR_SCRUB_UE.n (R408). uncorrectable granules found by scrub -/
def DPR_SCRUB_UE_n : Fld := ⟨0x80C, 0, 32, 1, 4, .rc, .any, .ctl, 0x0⟩
/-- DPR_PWR_REFUSED.n (R408). partial writes refused (R393) -/
def DPR_PWR_REFUSED_n : Fld := ⟨0x810, 0, 32, 1, 4, .rc, .any, .ctl, 0x0⟩
/-- IRQ_STAT bit of ce (R408). as the counters and rules -/
def IRQ_dpr_ce : Nat := 0
/-- IRQ_STAT bit of ue (R408). as the counters and rules -/
def IRQ_dpr_ue : Nat := 1
/-- IRQ_STAT bit of retired (R408). as the counters and rules -/
def IRQ_dpr_retired : Nat := 2
/-- IRQ_STAT bit of second (R408). as the counters and rules -/
def IRQ_dpr_second : Nat := 3
/-- IRQ_STAT bit of scrub_pass (R408). as the counters and rules -/
def IRQ_dpr_scrub_pass : Nat := 4
/-- IRQ_STAT bit of scrub_ue (R408). as the counters and rules -/
def IRQ_dpr_scrub_ue : Nat := 5

/-- DPR_PPR.dev (R408). device -/
def DPR_PPR_dev : Fld := ⟨0x100, 0, 4, 1, 4, .rw, .prv, .ctl, 0x0⟩
/-- DPR_PPR.bg (R408). bank group -/
def DPR_PPR_bg : Fld := ⟨0x100, 4, 3, 1, 4, .rw, .prv, .ctl, 0x0⟩
/-- DPR_PPR.bank (R408). bank -/
def DPR_PPR_bank : Fld := ⟨0x100, 7, 2, 1, 4, .rw, .prv, .ctl, 0x0⟩
/-- DPR_PPR.row (R408). row -/
def DPR_PPR_row : Fld := ⟨0x100, 12, 17, 1, 4, .rw, .prv, .ctl, 0x0⟩
/-- DPR_PPR.go (R408). start repair (R397); self-clearing -/
def DPR_PPR_go : Fld := ⟨0x104, 0, 1, 1, 4, .w1s, .prv, .ctl, 0x0⟩
/-- DPR_PPR.busy (R408). repair in progress -/
def DPR_PPR_busy : Fld := ⟨0x104, 1, 1, 1, 4, .ro, .any, .ctl, 0x0⟩
/-- DPR_PPR.result (R408). 0 none, 1 done, 2 no spare, 3 refused -/
def DPR_PPR_result : Fld := ⟨0x104, 2, 2, 1, 4, .ro, .any, .ctl, 0x0⟩
/-- DPR_PPR_DONE.n (R408). repairs made -/
def DPR_PPR_DONE_n : Fld := ⟨0x800, 0, 32, 1, 4, .rc, .any, .ctl, 0x0⟩
/-- DPR_PPR_FAIL.n (R408). repairs failed or refused -/
def DPR_PPR_FAIL_n : Fld := ⟨0x804, 0, 32, 1, 4, .rc, .any, .ctl, 0x0⟩
/-- IRQ_STAT bit of ppr_done (R408). as the counters -/
def IRQ_ppr_ppr_done : Nat := 0
/-- IRQ_STAT bit of ppr_fail (R408). as the counters -/
def IRQ_ppr_ppr_fail : Nat := 1

/-- DPR_FLIP_MASK[0–4] (R408). mask bits 32w + 31 to 32w (R406) -/
def DPR_FLIP_MASK : Fld := ⟨0x100, 0, 32, 5, 4, .rw, .prv, .ctl, 0x0⟩
/-- DPR_FLIP.req (R408). requester; 0xFF any -/
def DPR_FLIP_req : Fld := ⟨0x114, 0, 8, 1, 4, .rw, .prv, .ctl, 0xFF⟩
/-- DPR_FLIP.cw (R408). codeword 0–7 -/
def DPR_FLIP_cw : Fld := ⟨0x114, 8, 3, 1, 4, .rw, .prv, .ctl, 0x0⟩
/-- DPR_FLIP.mode (R408). 0 mask, 1 poison -/
def DPR_FLIP_mode : Fld := ⟨0x114, 11, 1, 1, 4, .rw, .prv, .ctl, 0x0⟩
/-- DPR_FLIP.arm (R408). arm; self-clearing -/
def DPR_FLIP_arm : Fld := ⟨0x114, 12, 1, 1, 4, .w1s, .prv, .ctl, 0x0⟩
/-- DPR_FLIP.armed (R408). armed -/
def DPR_FLIP_armed : Fld := ⟨0x114, 13, 1, 1, 4, .ro, .any, .ctl, 0x0⟩
/-- DPR_FLIP_ADDR.lo/hi (R408). granule corrupted -/
def DPR_FLIP_ADDR_lo : Fld := ⟨0x118, 0, 32, 1, 4, .ro, .any, .ctl, 0x0⟩
/-- DPR_FLIP_ADDR.lo/hi (R408). granule corrupted -/
def DPR_FLIP_ADDR_hi : Fld := ⟨0x11C, 0, 32, 1, 4, .ro, .any, .ctl, 0x0⟩
/-- IRQ_STAT bit of flip_done (R408). a write was corrupted -/
def IRQ_dflip_flip_done : Nat := 0

/-- DRC_GLB.dens (R386). 0 16 Gb, 1 24 Gb, from training -/
def DRC_GLB_dens : Fld := ⟨0x100, 0, 1, 1, 4, .ro, .any, .ctl, 0x0⟩
/-- DRC_GLB.up (R386). bit n: channel n serving requests -/
def DRC_GLB_up : Fld := ⟨0x100, 8, 8, 1, 4, .ro, .any, .ctl, 0x0⟩
/-- DRC_SIZE.lo/hi (R386). installed data bytes (R373) -/
def DRC_SIZE_lo : Fld := ⟨0x104, 0, 32, 1, 4, .ro, .any, .ctl, 0x0⟩
/-- DRC_SIZE.lo/hi (R386). installed data bytes (R373) -/
def DRC_SIZE_hi : Fld := ⟨0x108, 0, 32, 1, 4, .ro, .any, .ctl, 0x0⟩

/-- SRM_FLIP.macro (R408). macro (R407) -/
def SRM_FLIP_macro : Fld := ⟨0x100, 0, 16, 1, 4, .rw, .prv, .ctl, 0x0⟩
/-- SRM_FLIP.arm (R408). arm; self-clearing -/
def SRM_FLIP_arm : Fld := ⟨0x100, 16, 1, 1, 4, .w1s, .prv, .ctl, 0x0⟩
/-- SRM_FLIP.armed (R408). armed -/
def SRM_FLIP_armed : Fld := ⟨0x100, 17, 1, 1, 4, .ro, .any, .ctl, 0x0⟩
/-- SRM_FLIP_MASK[0–2] (R408). mask bits [71:0]; word 2 [7:0] -/
def SRM_FLIP_MASK : Fld := ⟨0x104, 0, 32, 2, 4, .rw, .prv, .ctl, 0x0⟩
/-- SRM_FLIP_MASK[0–2] (R408). mask bits [71:0]; word 2 [7:0] -/
def SRM_FLIP_MASK_top : Fld := ⟨0x10C, 0, 8, 1, 4, .rw, .prv, .ctl, 0x0⟩
/-- SRM_REP.entry (R408). volatile repair, fuse entry layout (R403) -/
def SRM_REP_entry : Fld := ⟨0x110, 0, 32, 1, 4, .rw, .sec, .ctl, 0x0⟩
/-- SRM_REP.go (R408). apply to an out-of-service macro; self-clearing -/
def SRM_REP_go : Fld := ⟨0x114, 0, 1, 1, 4, .w1s, .sec, .ctl, 0x0⟩
/-- SRM_FUSE.used (R408). field entries in use, 0–128 -/
def SRM_FUSE_used : Fld := ⟨0x118, 0, 8, 1, 4, .ro, .any, .ctl, 0x0⟩
/-- SRM_CE.n (R408). single-bit errors corrected on read -/
def SRM_CE_n : Fld := ⟨0x800, 0, 32, 1, 4, .rc, .any, .ctl, 0x0⟩
/-- SRM_UE.n (R408). uncorrectable words -/
def SRM_UE_n : Fld := ⟨0x804, 0, 32, 1, 4, .rc, .any, .ctl, 0x0⟩
/-- SRM_SCRUB_CE.n (R408). words corrected by patrol -/
def SRM_SCRUB_CE_n : Fld := ⟨0x808, 0, 32, 1, 4, .rc, .any, .ctl, 0x0⟩
/-- IRQ_STAT bit of ce (R408). as the counters -/
def IRQ_srm_ce : Nat := 0
/-- IRQ_STAT bit of ue (R408). as the counters -/
def IRQ_srm_ue : Nat := 1

/-- ROT_CTL.en (R460). rotation runs -/
def ROT_CTL_en : Fld := ⟨0x100, 0, 1, 1, 4, .rw, .prv, .staged, 0x0⟩
/-- ROT_CTL.pause (R460). no new steps (R448) -/
def ROT_CTL_pause : Fld := ⟨0x100, 1, 1, 1, 4, .rw, .prv, .ctl, 0x0⟩
/-- ROT_CLS[c].en (R460). class c rotates -/
def ROT_CLS_en : Fld := ⟨0x110, 0, 1, 7, 16, .rw, .any, .staged, 0x1⟩
/-- ROT_CLS[c].per (R460). step period, s -/
def ROT_CLS_per : Fld := ⟨0x110, 16, 16, 7, 16, .rw, .any, .staged, 0x0⟩
/-- ROT_CLS[c].test (R460). test time, s -/
def ROT_CLS_test : Fld := ⟨0x114, 0, 16, 7, 16, .rw, .any, .staged, 0x0⟩
/-- ROT_CLS_STAT[c].state (R460). 0 Idle, 1 Preparing, 2 Out, 3 Returning -/
def ROT_CLS_STAT_state : Fld := ⟨0x118, 0, 2, 7, 16, .ro, .any, .ctl, 0x0⟩
/-- ROT_CLS_STAT[c].starved (R460). R449 -/
def ROT_CLS_STAT_starved : Fld := ⟨0x118, 2, 1, 7, 16, .ro, .any, .ctl, 0x0⟩
/-- ROT_CLS_STAT[c].exhausted (R460). R447 -/
def ROT_CLS_STAT_exhausted : Fld := ⟨0x118, 3, 1, 7, 16, .ro, .any, .ctl, 0x0⟩
/-- ROT_CLS_STAT[c].cursor (R460). unit at the cursor -/
def ROT_CLS_STAT_cursor : Fld := ⟨0x118, 4, 12, 7, 16, .ro, .any, .ctl, 0x0⟩
/-- ROT_CLS_STAT[c].free (R460). free swings -/
def ROT_CLS_STAT_free : Fld := ⟨0x118, 16, 4, 7, 16, .ro, .any, .ctl, 0x0⟩
/-- ROT_GUSED (R460). [15:0] receive groups, [31:16] transmit groups with swing used -/
def ROT_GUSED : Fld := ⟨0x180, 0, 32, 1, 4, .ro, .any, .ctl, 0x0⟩
/-- ROT_PUSED.lo/hi (R460). bit m: block m's plane swing used; hi [7:0] -/
def ROT_PUSED_lo : Fld := ⟨0x184, 0, 32, 1, 4, .ro, .any, .ctl, 0x0⟩
/-- ROT_PUSED.lo/hi (R460). bit m: block m's plane swing used; hi [7:0] -/
def ROT_PUSED_hi : Fld := ⟨0x188, 0, 8, 1, 4, .ro, .any, .ctl, 0x0⟩
/-- D2D_REP[n].spares (R460). spares in use on tile n, 0–120 -/
def D2D_REP_spares : Fld := ⟨0x190, 0, 7, 4, 4, .ro, .any, .ctl, 0x0⟩
/-- D2D_REP[n].out (R460). groups out -/
def D2D_REP_out : Fld := ⟨0x190, 8, 3, 4, 4, .ro, .any, .ctl, 0x0⟩
/-- ROT_STEPS[c].n (R460). steps completed -/
def ROT_STEPS_n : Fld := ⟨0x800, 0, 32, 7, 16, .rc, .any, .ctl, 0x0⟩
/-- ROT_FAIL[c].n (R460). units retired -/
def ROT_FAIL_n : Fld := ⟨0x804, 0, 32, 7, 16, .rc, .any, .ctl, 0x0⟩
/-- ROT_SKIP[c].n (R460). steps aborted or skipped -/
def ROT_SKIP_n : Fld := ⟨0x808, 0, 32, 7, 16, .rc, .any, .ctl, 0x0⟩
/-- D2D_WIRE_FAIL.n (R460). wires replaced -/
def D2D_WIRE_FAIL_n : Fld := ⟨0x880, 0, 32, 1, 4, .rc, .any, .ctl, 0x0⟩
/-- IRQ_STAT bit of step_fail (R460). as the rules -/
def IRQ_rot_step_fail : Nat := 0
/-- IRQ_STAT bit of retired (R460). as the rules -/
def IRQ_rot_retired : Nat := 1
/-- IRQ_STAT bit of exhausted (R460). as the rules -/
def IRQ_rot_exhausted : Nat := 2
/-- IRQ_STAT bit of starve (R460). as the rules -/
def IRQ_rot_starve : Nat := 3
/-- IRQ_STAT bit of wire (R460). as the rules -/
def IRQ_rot_wire : Nat := 4

/-- AVS_CTL.en (R460). voltage loop on (R455) -/
def AVS_CTL_en : Fld := ⟨0x100, 0, 1, 1, 4, .rw, .prv, .staged, 0x0⟩
/-- AVS_CTL.man (R460). target is AVS_MAN -/
def AVS_CTL_man : Fld := ⟨0x100, 1, 1, 1, 4, .rw, .prv, .staged, 0x0⟩
/-- AVS_LIM.lo (R460). lowest target, mV -/
def AVS_LIM_lo : Fld := ⟨0x104, 0, 12, 1, 4, .rw, .prv, .staged, 0x28A⟩
/-- AVS_LIM.hi (R460). highest target, mV -/
def AVS_LIM_hi : Fld := ⟨0x104, 16, 12, 1, 4, .rw, .prv, .staged, 0x352⟩
/-- AVS_MARG.lo (R460). raise below, ps -/
def AVS_MARG_lo : Fld := ⟨0x108, 0, 8, 1, 4, .rw, .any, .staged, 0x14⟩
/-- AVS_MARG.hi (R460). lower above, ps -/
def AVS_MARG_hi : Fld := ⟨0x108, 8, 8, 1, 4, .rw, .any, .staged, 0x2D⟩
/-- AVS_MAN.mv (R460). manual target -/
def AVS_MAN_mv : Fld := ⟨0x10C, 0, 12, 1, 4, .rw, .prv, .ctl, 0x2EE⟩
/-- AVS_TGT.mv (R460). present target -/
def AVS_TGT_mv : Fld := ⟨0x110, 0, 12, 1, 4, .ro, .any, .ctl, 0x2EE⟩
/-- AVS_MEAS.mv (R460). rail voltage read back -/
def AVS_MEAS_mv : Fld := ⟨0x114, 0, 12, 1, 4, .ro, .any, .ctl, 0x0⟩
/-- AVS_MEAS.da (R460). rail current, 0.1 A -/
def AVS_MEAS_da : Fld := ⟨0x114, 16, 12, 1, 4, .ro, .any, .ctl, 0x0⟩
/-- AGE_MARGIN.ps (R460). signed smallest slack -/
def AGE_MARGIN_ps : Fld := ⟨0x118, 0, 16, 1, 4, .ro, .any, .ctl, 0x0⟩
/-- AGE_MARGIN.mon (R460). monitor 0–95 -/
def AGE_MARGIN_mon : Fld := ⟨0x118, 16, 7, 1, 4, .ro, .any, .ctl, 0x0⟩
/-- TMP[s].c (R460). signed, 0.125 °C -/
def TMP_c : Fld := ⟨0x140, 0, 12, 24, 4, .ro, .any, .ctl, 0x0⟩
/-- TMP[s].bad (R460). sensor excluded -/
def TMP_bad : Fld := ⟨0x140, 15, 1, 24, 4, .ro, .any, .ctl, 0x0⟩
/-- TMP_LIM.warn (R460). 100 °C -/
def TMP_LIM_warn : Fld := ⟨0x1A0, 0, 12, 1, 4, .rw, .any, .staged, 0x320⟩
/-- TMP_LIM.crit (R460). 115 °C -/
def TMP_LIM_crit : Fld := ⟨0x1A0, 16, 12, 1, 4, .rw, .any, .staged, 0x398⟩
/-- TMP_MAX.c (R460). highest good reading -/
def TMP_MAX_c : Fld := ⟨0x1A4, 0, 12, 1, 4, .ro, .any, .ctl, 0x0⟩
/-- TMP_MAX.s (R460). its sensor -/
def TMP_MAX_s : Fld := ⟨0x1A4, 16, 5, 1, 4, .ro, .any, .ctl, 0x0⟩
/-- AVS_UP.n (R460). target rises -/
def AVS_UP_n : Fld := ⟨0x800, 0, 32, 1, 4, .rc, .any, .ctl, 0x0⟩
/-- AVS_DOWN.n (R460). target falls -/
def AVS_DOWN_n : Fld := ⟨0x804, 0, 32, 1, 4, .rc, .any, .ctl, 0x0⟩
/-- AVS_ERR.n (R460). bus failures -/
def AVS_ERR_n : Fld := ⟨0x808, 0, 32, 1, 4, .rc, .any, .ctl, 0x0⟩
/-- TMP_WARN_EV.n (R460). warnings -/
def TMP_WARN_EV_n : Fld := ⟨0x80C, 0, 32, 1, 4, .rc, .any, .ctl, 0x0⟩
/-- IRQ_STAT bit of warn (R460). as the rules -/
def IRQ_avs_warn : Nat := 0
/-- IRQ_STAT bit of crit (R460). as the rules -/
def IRQ_avs_crit : Nat := 1
/-- IRQ_STAT bit of at_max (R460). as the rules -/
def IRQ_avs_at_max : Nat := 2
/-- IRQ_STAT bit of avs_err (R460). as the rules -/
def IRQ_avs_avs_err : Nat := 3
/-- IRQ_STAT bit of sensor_bad (R460). as the rules -/
def IRQ_avs_sensor_bad : Nat := 4
/-- IRQ_STAT bit of emergency (R460). as the rules -/
def IRQ_avs_emergency : Nat := 5

/-- WEAR_BASE.h (R460). powered hours at power-on, from the log -/
def WEAR_BASE_h : Fld := ⟨0x100, 0, 32, 1, 4, .rw, .sec, .ctl, 0x0⟩
/-- WEAR_HRS.h (R460). powered hours now (R459) -/
def WEAR_HRS_h : Fld := ⟨0x104, 0, 32, 1, 4, .ro, .any, .ctl, 0x0⟩
/-- FUSE_PROG.entry (R460). entry, fuse map layout (R403) -/
def FUSE_PROG_entry : Fld := ⟨0x108, 0, 32, 1, 4, .rw, .sec, .ctl, 0x0⟩
/-- FUSE_PROG.go (R460). program; self-clearing -/
def FUSE_PROG_go : Fld := ⟨0x10C, 0, 1, 1, 4, .w1s, .sec, .ctl, 0x0⟩
/-- FUSE_PROG.busy (R460). programming -/
def FUSE_PROG_busy : Fld := ⟨0x10C, 1, 1, 1, 4, .ro, .any, .ctl, 0x0⟩
/-- FUSE_PROG.result (R460). 0 none, 1 done, 2 full, 3 verify failed -/
def FUSE_PROG_result : Fld := ⟨0x10C, 2, 2, 1, 4, .ro, .any, .ctl, 0x0⟩
/-- IRQ_STAT bit of fuse_done (R460). programming ended -/
def IRQ_wear_fuse_done : Nat := 0

/-- LCY_STATE.state (R477). 0 Blank, 1 Provisioned, 2 Deployed, 3 Returned, 4 Scrapped -/
def LCY_STATE_state : Fld := ⟨0x100, 0, 3, 1, 4, .ro, .any, .ctl, 0x0⟩
/-- LCY_STATE.wiping (R477). transition in progress -/
def LCY_STATE_wiping : Fld := ⟨0x100, 3, 1, 1, 4, .ro, .any, .ctl, 0x0⟩
/-- LCY_STATE.debug (R477). debug open (R476) -/
def LCY_STATE_debug : Fld := ⟨0x100, 4, 1, 1, 4, .ro, .any, .ctl, 0x0⟩
/-- LCY_STATE.oem (R477). OEM key hash fused -/
def LCY_STATE_oem : Fld := ⟨0x100, 5, 1, 1, 4, .ro, .any, .ctl, 0x0⟩
/-- LCY_HWTYPE (R477). hardware type -/
def LCY_HWTYPE : Fld := ⟨0x104, 0, 32, 1, 4, .ro, .any, .ctl, 0x2048⟩
/-- LCY_UID[0–3] (R477). unit ID, [31:0] in word 0 -/
def LCY_UID : Fld := ⟨0x110, 0, 32, 4, 4, .ro, .any, .ctl, 0x0⟩
/-- LCY_NONCE.lo/hi (R477). request nonce (R472) -/
def LCY_NONCE_lo : Fld := ⟨0x120, 0, 32, 1, 4, .ro, .any, .ctl, 0x0⟩
/-- LCY_NONCE.lo/hi (R477). request nonce (R472) -/
def LCY_NONCE_hi : Fld := ⟨0x124, 0, 32, 1, 4, .ro, .any, .ctl, 0x0⟩
/-- LCY_REQ.target (R477). target state -/
def LCY_REQ_target : Fld := ⟨0x130, 0, 3, 1, 4, .rw, .sec, .ctl, 0x0⟩
/-- LCY_REQ.go (R477). make the transition; self-clearing -/
def LCY_REQ_go : Fld := ⟨0x130, 31, 1, 1, 4, .w1s, .sec, .ctl, 0x0⟩
/-- LCY_RESP.res (R477). 0 none, 1 done, 2 bad signature, 3 bad unit ID or nonce, 4 transition not allowed, 5 busy, 6 unknown command -/
def LCY_RESP_res : Fld := ⟨0x134, 0, 3, 1, 4, .ro, .any, .ctl, 0x0⟩

/-- BOOT_CTL.dev_reset (R477). device reset (R470); self-clearing -/
def BOOT_CTL_dev_reset : Fld := ⟨0x100, 0, 1, 1, 4, .w1s, .sec, .ctl, 0x0⟩
/-- BOOT_STAT.s (R477). class S: 0 none, 1 slot 0, 2 slot 1, 3 ROM only -/
def BOOT_STAT_s : Fld := ⟨0x104, 0, 2, 1, 4, .ro, .any, .ctl, 0x0⟩
/-- BOOT_STAT.m (R477). class M: 0 none, 1 slot 0, 2 slot 1, 3 no valid slot -/
def BOOT_STAT_m : Fld := ⟨0x104, 4, 2, 1, 4, .ro, .any, .ctl, 0x0⟩
/-- BOOT_STAT.c (R477). class C: as m -/
def BOOT_STAT_c : Fld := ⟨0x104, 8, 2, 1, 4, .ro, .any, .ctl, 0x0⟩
/-- BOOT_STAT.board_ok (R477). board table applied -/
def BOOT_STAT_board_ok : Fld := ⟨0x104, 12, 1, 1, 4, .ro, .any, .ctl, 0x0⟩
/-- BOOT_STAT.layout_ok (R477). DRAM layout used -/
def BOOT_STAT_layout_ok : Fld := ⟨0x104, 13, 1, 1, 4, .ro, .any, .ctl, 0x0⟩
/-- BOOT_REP.applied (R477). repair records applied -/
def BOOT_REP_applied : Fld := ⟨0x108, 0, 16, 1, 4, .ro, .any, .ctl, 0x0⟩
/-- BOOT_REP.hard (R477). hard repairs made -/
def BOOT_REP_hard : Fld := ⟨0x108, 16, 8, 1, 4, .ro, .any, .ctl, 0x0⟩
/-- BOOT_REP.hard_fail (R477). hard repairs refused -/
def BOOT_REP_hard_fail : Fld := ⟨0x108, 24, 8, 1, 4, .ro, .any, .ctl, 0x0⟩
/-- BOOT_MEDIA_UPT.lo/hi (R477). uptime at which media engines started -/
def BOOT_MEDIA_UPT_lo : Fld := ⟨0x110, 0, 32, 1, 4, .ro, .any, .ctl, 0x0⟩
/-- BOOT_MEDIA_UPT.lo/hi (R477). uptime at which media engines started -/
def BOOT_MEDIA_UPT_hi : Fld := ⟨0x114, 0, 32, 1, 4, .ro, .any, .ctl, 0x0⟩
/-- BOOT_CREW_UPT.lo/hi (R477). uptime at which the Crew was released -/
def BOOT_CREW_UPT_lo : Fld := ⟨0x118, 0, 32, 1, 4, .ro, .any, .ctl, 0x0⟩
/-- BOOT_CREW_UPT.lo/hi (R477). uptime at which the Crew was released -/
def BOOT_CREW_UPT_hi : Fld := ⟨0x11C, 0, 32, 1, 4, .ro, .any, .ctl, 0x0⟩

/-- UPD_CMD.word (R494). command word, CRW_SMDB layout (R475) -/
def UPD_CMD_word : Fld := ⟨0x100, 0, 32, 1, 4, .rw, .prv, .ctl, 0x0⟩
/-- UPD_RESP.res (R494). result (R483) -/
def UPD_RESP_res : Fld := ⟨0x104, 0, 4, 1, 4, .ro, .any, .ctl, 0x0⟩
/-- UPD_RESP.cmd (R494). command of that result -/
def UPD_RESP_cmd : Fld := ⟨0x104, 8, 8, 1, 4, .ro, .any, .ctl, 0x0⟩
/-- UPD_CFG.group (R494). group of class M instants -/
def UPD_CFG_group : Fld := ⟨0x108, 0, 4, 1, 4, .rw, .prv, .ctl, 0x0⟩
/-- UPD_STAT.trial (R494). class in trial: 0 none, 1 S, 2 M, 3 C -/
def UPD_STAT_trial : Fld := ⟨0x140, 0, 2, 1, 4, .ro, .any, .ctl, 0x0⟩
/-- UPD_STAT.pause (R494). management pause (R487) -/
def UPD_STAT_pause : Fld := ⟨0x140, 2, 1, 1, 4, .ro, .any, .ctl, 0x0⟩
/-- UPD_STAT.sched (R494). class M schedule pending -/
def UPD_STAT_sched : Fld := ⟨0x140, 3, 1, 1, 4, .ro, .any, .ctl, 0x0⟩
/-- UPD_STAT.shadow (R494). shadow halves loaded -/
def UPD_STAT_shadow : Fld := ⟨0x140, 4, 1, 1, 4, .ro, .any, .ctl, 0x0⟩
/-- UPD_SLOT[k].run (R494). class k (1 S, 2 M, 3 C): running slot -/
def UPD_SLOT_run : Fld := ⟨0x154, 0, 1, 3, 4, .ro, .any, .ctl, 0x0⟩
/-- UPD_SLOT[k].st0 (R494). slot 0 state: 0 Empty, 1 Fresh, 2 Trial, 3 Good, 4 Bad -/
def UPD_SLOT_st0 : Fld := ⟨0x154, 4, 4, 3, 4, .ro, .any, .ctl, 0x0⟩
/-- UPD_SLOT[k].st1 (R494). slot 1 state -/
def UPD_SLOT_st1 : Fld := ⟨0x154, 8, 4, 3, 4, .ro, .any, .ctl, 0x0⟩
/-- UPD_VER[k].ver (R494). running version of class k -/
def UPD_VER_ver : Fld := ⟨0x164, 0, 32, 3, 4, .ro, .any, .ctl, 0x0⟩
/-- UPD_ACT.lo/hi (R494). uptime of the last activation instant -/
def UPD_ACT_lo : Fld := ⟨0x170, 0, 32, 1, 4, .ro, .any, .ctl, 0x0⟩
/-- UPD_ACT.lo/hi (R494). uptime of the last activation instant -/
def UPD_ACT_hi : Fld := ⟨0x174, 0, 32, 1, 4, .ro, .any, .ctl, 0x0⟩
/-- UPD_DEADLINE.lo/hi (R494). uptime of the trial deadline -/
def UPD_DEADLINE_lo : Fld := ⟨0x178, 0, 32, 1, 4, .ro, .any, .ctl, 0x0⟩
/-- UPD_DEADLINE.lo/hi (R494). uptime of the trial deadline -/
def UPD_DEADLINE_hi : Fld := ⟨0x17C, 0, 32, 1, 4, .ro, .any, .ctl, 0x0⟩
/-- UPD_TWIN.major (R494). twin Twin Link major version -/
def UPD_TWIN_major : Fld := ⟨0x180, 0, 16, 1, 4, .ro, .any, .ctl, 0x0⟩
/-- UPD_TWIN.minor (R494). twin Twin Link minor version -/
def UPD_TWIN_minor : Fld := ⟨0x180, 16, 16, 1, 4, .ro, .any, .ctl, 0x0⟩
/-- UPD_TWIN.valid (R494). twin versions received -/
def UPD_TWIN_valid : Fld := ⟨0x184, 0, 1, 1, 4, .ro, .any, .ctl, 0x0⟩
/-- UPD_SCONF.go (R494). class S confirms; self-clearing -/
def UPD_SCONF_go : Fld := ⟨0x188, 0, 1, 1, 4, .w1s, .sec, .ctl, 0x0⟩
/-- UPD_ACTIVATIONS.n (R494). activations -/
def UPD_ACTIVATIONS_n : Fld := ⟨0x800, 0, 32, 1, 4, .rc, .any, .ctl, 0x0⟩
/-- UPD_REVERTS.n (R494). trials reverted -/
def UPD_REVERTS_n : Fld := ⟨0x804, 0, 32, 1, 4, .rc, .any, .ctl, 0x0⟩
/-- UPD_REFUSED.n (R494). commands refused -/
def UPD_REFUSED_n : Fld := ⟨0x808, 0, 32, 1, 4, .rc, .any, .ctl, 0x0⟩
/-- IRQ_STAT bit of staged (R494). as the rules -/
def IRQ_upd_staged : Nat := 0
/-- IRQ_STAT bit of activated (R494). as the rules -/
def IRQ_upd_activated : Nat := 1
/-- IRQ_STAT bit of confirmed (R494). as the rules -/
def IRQ_upd_confirmed : Nat := 2
/-- IRQ_STAT bit of reverted (R494). as the rules -/
def IRQ_upd_reverted : Nat := 3
/-- IRQ_STAT bit of refused (R494). as the rules -/
def IRQ_upd_refused : Nat := 4

/-- The kinds of register page. -/
inductive PageKind
  | dev  -- device page (R40, R54, R57, R438)
  | pool  -- Platform pool and alignment groups (R165)
  | mail  -- Stage Manager mailbox (R40)
  | cue  -- cue clock page (R39)
  | refSel  -- reference selector page (R314)
  | refIn  -- reference input page (R315)
  | clkCtl  -- clock control page (R328)
  | pll  -- PLL page (R328)
  | cbCtl  -- Call Bus control page (R345)
  | cbRing  -- Call Bus ring and queue page (R345)
  | pair  -- pair control page (R370)
  | twin  -- Twin Link page (R370)
  | cat  -- Catwalk page (R422)
  | prc  -- processor page (R422)
  | dma  -- DMA engine page (R422)
  | pcie  -- PCIe page (R422)
  | intc  -- interrupt router page (R422)
  | rxl  -- receive lane page (R85)
  | txl  -- transmit lane page (R85)
  | ethCtl  -- Ethernet port control page (R123)
  | ethPtp  -- Ethernet PTP page (R123)
  | ethRing  -- Ethernet ring page (R123)
  | ethStat  -- Ethernet statistics page (R123, R124)
  | ethTmt  -- Ethernet timetable page (R123, R147)
  | flr  -- receive flow window page (R147)
  | flt  -- transmit flow window page (R147)
  | flc  -- flow control page (R147)
  | tap  -- tap page (R204)
  | fmt  -- SDI formatter page (R105)
  | ttCtl  -- Turntable control page (R203)
  | ttCue  -- cue sheet page (R203)
  | ttSm  -- salvo memory page (R203)
  | ttTcnt  -- tally count page (R203)
  | ttTcls  -- tally class page (R203)
  | ttGpio  -- GPI and GPO page (R203)
  | quad  -- Platform quad page (R164)
  | defr  -- SDI deframer page (R105)
  | synCtl  -- synchroniser control page (R221)
  | synQuad  -- synchroniser slot page (R221)
  | proRas  -- Proscenium raster page (R243)
  | proLay  -- Proscenium layer page (R243)
  | proBlend  -- Proscenium blending page (R243, R262)
  | proGroup  -- Proscenium group page (R243)
  | pitCtl  -- Pit control page (R284)
  | pitWin  -- Pit window page (R284)
  | pitTake  -- Pit take page (R284)
  | tdm  -- TDM port page (R298)
  | tdmTrig  -- TDM trigger page (R299)
  | drcCtl  -- DRAM controller page (R386)
  | drcTrn  -- DRAM training page (R386)
  | dpr  -- DRAM protection page (R408)
  | ppr  -- DRAM repair page (R408)
  | dflip  -- DRAM flip page (R408)
  | drcGlob  -- DRAM global page (R386)
  | srm  -- SRAM protection page (R408)
  | rot  -- rotation page (R460)
  | avs  -- ageing and temperature page (R460)
  | wear  -- wear and fuse page (R460)
  | lcy  -- lifecycle page (R477)
  | boot  -- boot page (R477)
  | upd  -- update page (R494)
  deriving DecidableEq, Repr

/-- The fields of the common header (R45). -/
def hdrFields : List Fld := [
  PAGE_ID_type, PAGE_ID_inst, PAGE_ID_ver, PAGE_CAP_snap,
  PAGE_CAP_parity, PAGE_CAP_staged, PAGE_CAP_stoppable, PAGE_CAP_ncnt,
  PAGE_CAP_nirq, PAGE_CTL_enable, PAGE_CTL_reset, PAGE_CTL_parity,
  PAGE_CTL_snap, PAGE_CTL_join, PAGE_STAT_enabled, PAGE_STAT_reset_busy,
  PAGE_STAT_armed, PAGE_STAT_cfg_fault, PAGE_STAT_collide, PAGE_STAT_snap_busy,
  PAGE_STAT_stopped, PAGE_STAT_fatal, IRQ_STAT, IRQ_EN,
  IRQ_FORCE, FERR_INFO_valid, FERR_INFO_multiple, FERR_INFO_master,
  FERR_INFO_access, FERR_INFO_code, FERR_ADDR_lo, FERR_ADDR_hi,
  FERR_TIME_lo, FERR_TIME_hi, FERR_COUNT_n, CFG_CRC_REF_crc,
  CFG_CRC_NOW_crc, CFG_COMMIT_go, CFG_COMMIT_result, CFG_COMMIT_seq,
  SNAP_CTL_seq, SNAP_CTL_all, SNAP_TIME_lo, SNAP_TIME_hi]

/-- The fields of the device page (R40, R54, R57, R438). -/
def devFields : List Fld := [
  DEV_SNAPALL_CTL_arm, DEV_SNAPALL_CTL_now, DEV_SNAPALL_CTL_pending, DEV_SNAPALL_CTL_done, DEV_SNAPALL_CTL_late,
  DEV_SNAPALL_TGT_lo, DEV_SNAPALL_TGT_hi, DEV_COMMITALL_CTL_go, DEV_COMMITALL_CTL_result, DEV_FLT_STAT_fault,
  DEV_FLT_STAT_pin_bad, DEV_FLT_STAT_svc, DEV_FLT_STAT_svc_bad, DEV_FLT_STAT_why, DEV_FLT_CTL_ip_keep,
  DEV_FLT_CTL_sdi_sleep, DEV_FLT_CTL_pin_test, DEV_FLT_CTL_svc_test, DEV_FWFLT, DEV_FWFLT_SET,
  DEV_FWFATAL_set, DEV_SVC_MASK, DEV_FATAL_EV_n, DEV_PIN_BAD_n
  ]

/-- The fields of the Platform pool and alignment groups (R165). -/
def poolFields : List Fld := [
  PLP_TOTAL_n, PLP_USED_n, PLP_NEED_n, PLG_rate, PLG_en,
  PLG_ofs, PLG_STAT_tod
  ]

/-- The fields of the Stage Manager mailbox (R40). -/
def mailFields : List Fld := [
  ]

/-- The fields of the cue clock page (R39). -/
def cueFields : List Fld := [
  CUE_UPT_LO_val, CUE_UPT_HI_val, CUE_TOD_SECL_sec, CUE_TOD_SECH_sec, CUE_TOD_COSL_cos,
  CUE_TOD_COSH_cos, CUE_TOD_COSH_frac, CUE_TOD_UPT_lo, CUE_TOD_UPT_hi, CUE_TOD_CTL_valid,
  CUE_TOD_CTL_step, CUE_TOD_CTL_steer_src, CUE_TOD_CTL_src, CUE_TOD_STEER_ppt, CUE_TOD_INCL_frac,
  CUE_TOD_INCH_frac, CUE_TOD_INCH_int, CUE_STEP_lo, CUE_STEP_hi, CUE_STEP_FRAC_frac,
  CUE_LASTSTEP_lo, CUE_LASTSTEP_hi, CUE_DISC_COUNT_n, CUE_STEP_REFUSED_n
  ]

/-- The fields of the reference selector page (R314). -/
def refSelFields : List Fld := [
  REF_CTL_en, REF_CTL_revert, REF_CTL_force_en, REF_CTL_force_in, REF_CTL_hold,
  REF_ACC_ppb, REF_ACC_time, REF_REJ_ppb, REF_REJ_time, REF_WARN_ppb,
  REF_HO_secs, REF_YLIM_ppt, REF_OSC_ppt, REF_PH_far, REF_STAT_state,
  REF_STAT_sel, REF_STAT_tgt, REF_STAT_phase_far, REF_STAT_forced, REF_Y_ppt,
  REF_HOAVG_ppt, REF_HOSEC_n, REF_PHERR_cues, REF_SWITCH_n, REF_RETARGET_n,
  REF_HOLDOVER_n, REF_PHFAR_n
  ]

/-- The fields of the reference input page (R315). -/
def refInFields : List Fld := [
  REF_IN_en, REF_IN_kind, REF_IN_pol, REF_IN_prio, REF_IN_rate,
  REF_IN_lines, REF_IN_lane, REF_IN_PH_cues, REF_QUAL_q, REF_BW_chz,
  REF_ACT_us, REF_IN_STAT_state, REF_IN_STAT_warn, REF_IN_STAT_eligible, REF_IN_STAT_selected,
  REF_IN_STAT_target, REF_IN_FREQ_ppt, REF_IN_CNT_acc, REF_IN_CNT_rej, REF_IN_LAST_lo,
  REF_IN_LAST_hi, REF_IN_ERR_cues, REF_PTP_U_lo, REF_PTP_U_hi, REF_PTP_SEC_lo,
  REF_PTP_SEC_hi, REF_PTP_COS_lo, REF_PTP_COSH_cos, REF_PTP_COSH_frac, REF_PTP_GO_go,
  REF_IN_REJ_n, REF_IN_ACTLOSS_n, REF_IN_OVR_n, REF_IN_BADMEAS_n, REF_IN_WARN_n
  ]

/-- The fields of the clock control page (R328). -/
def clkCtlFields : List Fld := [
  CLK_REF_mode, CLK_CTL_hold_byp, CLK_STEER_src, CLK_MAN_ppt, CLK_RAMP_prof,
  CLK_RAMP_slope, CLK_RAMP_acc, CLK_RAMP_v, CLK_STAT_lock, CLK_STAT_byp,
  CLK_LOCKLOSS_n
  ]

/-- The fields of the PLL page (R328). -/
def pllFields : List Fld := [
  PLL_LOCK_win, PLL_LOCK_n, PLL_LOCK_nloss, PLL_PH_target, PLL_PH_now,
  PLL_WORD_lo, PLL_WORD_hi, PLL_ERR_val, PLL_BYP_RET_go, PLL_STAT_lock,
  PLL_STAT_bypass, PLL_STAT_frozen, PLL_STAT_ph_busy, PLL_LOSS_n, PLL_PHSTEPS_n
  ]

/-- The fields of the Call Bus control page (R345). -/
def cbCtlFields : List Fld := [
  CB_CTL_en, CB_CTL_role, CB_CTL_order, CB_CTL_station, CB_CTL_auto_claim,
  CB_BQUAL_q, CB_ADJ_rx, CB_ADJ_tx, CB_PAIRS_g, CB_TXMASK,
  CB_TXMASK_HI, CB_LIVEMASK_lo, CB_LIVEMASK_hi, CB_STAT_state, CB_STAT_collide,
  CB_STAT_silent, CB_CYC_n, CB_RX_FRAMES_n, CB_RX_CRC_n, CB_RX_CODE_n,
  CB_RX_SHORT_n, CB_RX_LONG_n, CB_RX_MISPLACED_n, CB_LOWCLAIM_n, CB_TX_FRAMES_n,
  CB_COLLIDE_n, CB_BEACON_MISS_n
  ]

/-- The fields of the Call Bus ring and queue page (R345). -/
def cbRingFields : List Fld := [
  CB_TXR_BASE_lo, CB_TXR_BASE_hi, CB_TXR_HEAD_n, CB_TXR_TAIL_n, CB_RXR_BASE_lo,
  CB_RXR_BASE_hi, CB_RXR_HEAD_n, CB_RXR_TAIL_n, CB_BSQ_POP_cyc, CB_BSQ_INFO_qual,
  CB_BSQ_INFO_flags, CB_BSQ_INFO_valid, CB_BSQ_UPT_lo, CB_BSQ_UPT_hi, CB_BSQ_SEC_lo,
  CB_BSQ_SEC_hi, CB_BSQ_COS_lo, CB_BSQ_COS_hi, CB_BSQ_LEVEL_n, CB_RX_DROP_n,
  CB_TX_BADLEN_n, CB_BSQ_OVF_n
  ]

/-- The fields of the pair control page (R370). -/
def pairFields : List Fld := [
  PAIR_CFG_en, PAIR_CFG_pref, PAIR_CFG_cgroup, PAIR_CFG_mis_n, PAIR_CFG_settle,
  PAIR_CFG_paths, PAIR_DEFER_cues, PAIR_ADJ_asym, PAIR_CTL_lead_now, PAIR_CTL_swap,
  PAIR_CTL_rejoin, PAIR_SWAP_sec_lo, PAIR_SWAP_sec_hi, PAIR_SWAP_cos_lo, PAIR_SWAP_cos_hi,
  PAIR_STAT_role, PAIR_STAT_twin_up, PAIR_STAT_div, PAIR_STAT_epoch_low, PAIR_STAT_swap_ok,
  PAIR_CLAIM_own, PAIR_CLAIM_twin, PAIR_TODERR_cues, PAIR_DIV_dest, PAIR_DIV_cause,
  PAIR_SIG_MASK, PAIR_SIG_MAP, PAIR_TAKEOVER_n, PAIR_YIELD_n, PAIR_SIG_MIS_n,
  PAIR_CHECK_n, PAIR_JRN_LATE_n, PAIR_DEC_DIFF_n, PAIR_REFUSED_WR_n, PAIR_HB_MISS_n,
  SWAP_REFUSED_n
  ]

/-- The fields of the Twin Link page (R370). -/
def twinFields : List Fld := [
  TWN_SNAP_SRC_lo, TWN_SNAP_SRC_hi, TWN_SNAP_LEN_bytes, TWN_SNAP_PER_s, TWN_SNAP_AREA_lo,
  TWN_SNAP_AREA_hi, TWN_STAT_lane_ok, TWN_STAT_width, TWN_STAT_replay, TWN_SNAP_SEQ_n,
  TWN_SNAP_TIME_lo, TWN_SNAP_TIME_hi, TWN_CRC_ERR_n, TWN_RETX_n, TWN_RESET_n,
  TWN_LANE_FAIL_n
  ]

/-- The fields of the Catwalk page (R422). -/
def catFields : List Fld := [
  CAT_STAT_drain, CAT_NOPATH_n, CAT_SPLIT_n, CAT_DRAIN_n
  ]

/-- The fields of the processor page (R422). -/
def prcFields : List Fld := [
  CRW_CTL_run, CRW_CTL_reset, CRW_BOOT_lo, CRW_BOOT_hi, CRW_STAT_halted,
  CRW_SMDB_word, CRW_SMDB_full, SM_STAT_lockstep_ok
  ]

/-- The fields of the DMA engine page (R422). -/
def dmaFields : List Fld := [
  DMA_CTL_go, DMA_CTL_abort, DMA_DESC_lo, DMA_DESC_hi, DMA_STAT_busy,
  DMA_STAT_priv, DMA_CUR_lo, DMA_CUR_hi, DMA_DONE_n, DMA_ERR_n
  ]

/-- The fields of the PCIe page (R422). -/
def pcieFields : List Fld := [
  PCIE_BAR2_base_lo, PCIE_BAR2_base_hi, PCIE_OUT_base_lo, PCIE_OUT_base_hi, PCIE_STAT_up,
  PCIE_STAT_speed, PCIE_STAT_width, PCIE_CA_n, PCIE_UR_n, PCIE_DOWN_n
  ]

/-- The fields of the interrupt router page (R422). -/
def intcFields : List Fld := [
  INT_SEL_line, INT_ROUTE_vec, INT_ROUTE_dest, INT_ROUTE_level, INT_EOI_vec,
  INT_VPEND_lo, INT_VPEND_hi
  ]

/-- The fields of the receive lane page (R85). -/
def rxlFields : List Fld := [
  RXL_CTL_sleep, RXL_CTL_wake_det, RXL_CTL_fixed, RXL_CTL_rate, RXL_CTL_swap,
  RXL_POL_inv, RXL_EQ_ctle, RXL_EQ_dfe1, RXL_EQ_dfe2, RXL_EQ_dfe_en,
  RXL_PAT_mode, RXL_PAT_inv, RXL_INJ_single, RXL_INJ_exp, RXL_STAT_sd,
  RXL_STAT_lock, RXL_STAT_awake, RXL_STAT_rate, RXL_STAT_on_swing, RXL_STAT_ho_busy,
  RXL_STAT_chk_sync, RXL_CAL_offset, RXL_CAL_TIME_lo, RXL_CAL_TIME_hi, RXL_ERR_n,
  RXL_KBITS_n, RXL_LOCK_LOSS_n, RXL_SYNC_LOSS_n, RXL_HUNT_FAIL_n, RXL_HO_ABORT_n
  ]

/-- The fields of the transmit lane page (R85). -/
def txlFields : List Fld := [
  TXL_CTL_sleep, TXL_CTL_follow, TXL_CTL_slew, TXL_CTL_rate, TXL_CTL_swap,
  TXL_POL_inv, TXL_EQ_pre, TXL_EQ_main, TXL_EQ_post, TXL_PAT_mode,
  TXL_PAT_inv, TXL_INJ_single, TXL_INJ_exp, TXL_PHASE_pos, TXL_STAT_awake,
  TXL_STAT_family, TXL_STAT_rate, TXL_STAT_on_swing, TXL_STAT_ho_busy, TXL_CAL_TIME_lo,
  TXL_CAL_TIME_hi, TXL_KBITS_n, TXL_INJECTED_n, TXL_RATE_CHG_n, TXL_HO_ABORT_n
  ]

/-- The fields of the Ethernet port control page (R123). -/
def ethCtlFields : List Fld := [
  ETH_PORT_mode, ETH_PORT_lp_en, ETH_POL_rx_inv, ETH_POL_tx_inv, ETH_TXEQ_pre,
  ETH_TXEQ_main, ETH_TXEQ_post, ETH_MAC_lo, ETH_MAC_hi, ETH_CLS_ctl_en,
  ETH_CLS_ucast_ctl, ETH_MOD_reset_n, ETH_MOD_lpmode, ETH_MOD_int_n, ETH_MOD_present,
  ETH_TWI_CMD_addr, ETH_TWI_CMD_read, ETH_TWI_CMD_offset, ETH_TWI_CMD_len, ETH_TWI_CMD_go,
  ETH_TWI_STAT_st, ETH_TWI_DATA, ETH_LINK_up, ETH_LINK_hi_ser
  ]

/-- The fields of the Ethernet PTP page (R123). -/
def ethPtpFields : List Fld := [
  ETH_PTP_CTL_en, ETH_PTP_CTL_one_step, ETH_PTP_CTL_l2, ETH_PTP_CTL_inst, ETH_PTP_CTL_lport,
  ETH_PTP_ADJ_rx, ETH_PTP_ADJ_tx, ETH_TSQ_POP_tag, ETH_TSQ_POP_lp, ETH_TSQ_POP_valid,
  ETH_TSQ_UPT_lo, ETH_TSQ_UPT_hi, ETH_TSQ_SEC_lo, ETH_TSQ_SEC_hi, ETH_TSQ_NS_ns,
  ETH_TSQ_REM_rem, ETH_TSQ_REM_tod, ETH_TSQ_LEVEL_n, ETH_TS_OVF_n, ETH_PTP_RX_n
  ]

/-- The fields of the Ethernet ring page (R123). -/
def ethRingFields : List Fld := [
  ETH_PRR_BASE_lo, ETH_PRR_BASE_hi, ETH_PRR_HEAD_n, ETH_PRR_TAIL_n, ETH_CRR_BASE_lo,
  ETH_CRR_BASE_hi, ETH_CRR_HEAD_n, ETH_CRR_TAIL_n, ETH_TXR_BASE_lo, ETH_TXR_BASE_hi,
  ETH_TXR_HEAD_n, ETH_TXR_TAIL_n, PTP_RX_DROP_n, PTP_LONG_n, CTL_DROP_n,
  CTL_LONG_n, TX_BAD_LEN_n
  ]

/-- The fields of the Ethernet statistics page (R123, R124). -/
def ethStatFields : List Fld := [
  ST_RX_FRAMES_lo, ST_RX_FRAMES_hi, ST_RX_BYTES_lo, ST_RX_BYTES_hi, ST_RX_RUNT_lo,
  ST_RX_RUNT_hi, ST_RX_GIANT_lo, ST_RX_GIANT_hi, ST_RX_FCS_lo, ST_RX_FCS_hi,
  ST_RX_IP_HDR_lo, ST_RX_IP_HDR_hi, ST_RX_UDP_CSUM_lo, ST_RX_UDP_CSUM_hi, ST_RX_UDP_ZERO6_lo,
  ST_RX_UDP_ZERO6_hi, ST_RX_NOMATCH_lo, ST_RX_NOMATCH_hi, ST_TX_FRAMES_lo, ST_TX_FRAMES_hi,
  ST_TX_BYTES_lo, ST_TX_BYTES_hi, ST_TX_PAD_lo, ST_TX_PAD_hi, ST_FEC_CORR_lo,
  ST_FEC_CORR_hi, ST_FEC_UNCORR_lo, ST_FEC_UNCORR_hi, ST_LINK_DOWN_lo, ST_LINK_DOWN_hi,
  ST_RX_FRAG_lo, ST_RX_FRAG_hi
  ]

/-- The fields of the Ethernet timetable page (R123, R147). -/
def ethTmtFields : List Fld := [
  TMT_ROW_entry, TMT_ROW_path, TMT_ROW_en, TMT_ROW_tro, TMT_LATE_n
  ]

/-- The fields of the receive flow window page (R147). -/
def flrFields : List Fld := [
  FLR_SEL_entry, FLR_SEL_live, FLR_SEL_load, FLR_SEL_store, FLR_SEL_busy,
  FLR_TCRC_REF_crc, FLR_TCRC_NOW_crc, FLR_PEND_n, FLR_WIN, FLR_SND_addr0,
  FLR_SND_addr1, FLR_SND_addr2, FLR_SND_addr3, FLR_SND_ssrc, FLR_SND_st,
  FLR_ESTAT_state, FLR_ESTAT_unref, FLR_ESTAT_a_in, FLR_ESTAT_b_in, FLR_SKEW_us,
  FLR_ECNT, FLR_DUP_n, FLR_LOST_n, FLR_LATE_n, FLR_SNDCHG_n
  ]

/-- The fields of the transmit flow window page (R147). -/
def fltFields : List Fld := [
  FLT_SEL_entry, FLT_SEL_live, FLT_SEL_load, FLT_SEL_store, FLT_SEL_busy,
  FLT_TCRC_REF_crc, FLT_TCRC_NOW_crc, FLT_PEND_n, FLT_WIN, FLT_ESTAT_sending,
  FLT_ESTAT_muted, FLT_ESTAT_wait_tod, FLT_ECNT, FLT_LATE_n, FLT_MUTED_n
  ]

/-- The fields of the flow control page (R147). -/
def flcFields : List Fld := [
  FLC_SRC, FLC_FAM_v6, FLC_STAGE_lo, FLC_STAGE_hi
  ]

/-- The fields of the tap page (R204). -/
def tapFields : List Fld := [
  TT_TAPCFG_group, TT_TAPCFG_policy, TT_TAPCFG_gang, TT_TAPCFG_afv, TT_TAPCFG_tclass,
  TT_TAPCTL_src, TT_TAPCTL_bkwy, TT_TAPAUD_base, TT_TAPAUD_n, TT_TAPSTAT_cur,
  TT_TAPSTAT_res, TT_TAPSTAT_pend, TT_TAPSTAT_off, TT_TAPSTAT_async, TT_TAPSTAT_absent,
  TT_TAPSYNC_unit, TT_TAPSYNC_valid, TT_TAPSW_lo, TT_TAPSW_hi, TT_TAPEVT,
  TT_TAKES_n, TT_LATE_n, TT_REFUSED_n, TT_OFFCUT_n
  ]

/-- The fields of the SDI formatter page (R105). -/
def fmtFields : List Fld := [
  TXF_LINK_mode, TXF_CFG_level_b, TXF_MUTE_pid, TXF_AUD_groups, TXF_DEL_en,
  TXF_DEL_did, TXF_DEL_sdid, TXF_DEL_dmask, TXF_DEL_smask, TXF_STAT_muted,
  TXF_PID_val, TXF_ANC_DROP_n, TXF_ANC_DEL_n, TXF_MUTE_FR_n
  ]

/-- The fields of the Turntable control page (R203). -/
def ttCtlFields : List Fld := [
  TT_ASYNC_POOL, TT_ASYNC_USED_n, TT_SWING_plane, TT_SWING_valid, TT_ALL_TAKES_n,
  TT_ALL_LATE_n, TT_ALL_REFUSED_n, TT_SUPERSEDED_n, TT_ASYNC_FAIL_n
  ]

/-- The fields of the cue sheet page (R203). -/
def ttCueFields : List Fld := [
  TT_CQ_TGT_lo, TT_CQ_TGT_hi, TT_CQ_TSEC_lo, TT_CQ_TSEC_hi, TT_CQ_SUB_salvo,
  TT_CQ_SUB_kind, TT_CQ_SUB_strict, TT_CQ_SUB_go, TT_CQ_TAG_tag, TT_CQ_RESP_st,
  TT_CQ_CTL_lead, TT_CQ_LEVEL_n, TT_CQ_CANCEL_tag, TT_CQ_CANCEL_go, TT_CQ_CANCELLED_n,
  TT_CQ_RES_POP_tag, TT_CQ_RES_POP_outcome, TT_CQ_RES_POP_valid, TT_CQ_RES_INFO_nref, TT_CQ_RES_INFO_tap,
  TT_CQ_RES_UPT_lo, TT_CQ_RES_UPT_hi, TT_CQ_RES_LEVEL_n, CQ_SUBMIT_n, CQ_FULL_n,
  CQ_RES_OVF_n, CQ_CANCEL_n, CQ_BADKIND_n
  ]

/-- The fields of the salvo memory page (R203). -/
def ttSmFields : List Fld := [
  TT_SM_ADDR_idx, TT_SM_DATA_pair
  ]

/-- The fields of the tally count page (R203). -/
def ttTcntFields : List Fld := [
  TT_TCNT
  ]

/-- The fields of the tally class page (R203). -/
def ttTclsFields : List Fld := [
  TT_TCLS0, TT_TCLS1, TT_TCLS2, TT_TCLS3
  ]

/-- The fields of the GPI and GPO page (R203). -/
def ttGpioFields : List Fld := [
  TT_GPI_salvo, TT_GPI_pol, TT_GPI_en, TT_GPI_strict, TT_GPI_deb,
  TT_GPI_TAG_tag, TT_GPO_rail, TT_GPO_cls, TT_GPO_mode, TT_GPO_level,
  TT_GPO_inv, TT_GPI_STAT_level, TT_GPI_STAT_chat, TT_GPI_ARM_armed, GPI_FIRE_n,
  GPI_CHAT_n, GPI_LOST_n
  ]

/-- The fields of the Platform quad page (R164). -/
def quadFields : List Fld := [
  PLT_CFG_en, PLT_CFG_win, PLT_CFG_group, PLT_CFG_gang, PLT_CFG_hold,
  PLT_SIZE_px, PLT_SIZE_bpp, PLT_STAT_state, PLT_STAT_late, PLT_STAT_rate_diff,
  PLT_STAT_holding, PLT_RES_cues, PLT_LEAD_cues, PLT_BERTHS_n, PLT_FRUPT_lo,
  PLT_FRUPT_hi, PLT_FALLOFF_n, PLT_REALIGN_n, PLT_SHORT_n, PLT_LONG_n,
  PLT_CONCEAL_n, PLT_LATE_LN_n
  ]

/-- The fields of the SDI deframer page (R105). -/
def defrFields : List Fld := [
  RXF_LINK_mode, RXF_CFG_anc_keep_bad, RXF_DFLT_pid, RXF_STAT_fmt, RXF_STAT_pid_mismatch,
  RXF_STAT_link_fault, RXF_STAT_aud_async, RXF_STAT_edh_flags, RXF_PID_val, RXF_STRUCT_words,
  RXF_STRUCT_lines, RXF_STRUCT_intl, RXF_TC_lo, RXF_TC_hi, RXF_TC_TYPE_type,
  RXF_TC_UPT_lo, RXF_TC_UPT_hi, RXF_CRC_ERR_n, RXF_LN_ERR_n, RXF_EDH_ERR_n,
  RXF_ANC_BAD_n, RXF_AUD_FIX_n, RXF_AUD_BAD_n, RXF_DROP_STREAM_n
  ]

/-- The fields of the synchroniser control page (R221). -/
def synCtlFields : List Fld := [
  SYN_AREA_lo, SYN_AREA_hi, SYN_USED_n, SYN_SWING_unit, SYN_SWING_valid
  ]

/-- The fields of the synchroniser slot page (R221). -/
def synQuadFields : List Fld := [
  SYN_CFG_en, SYN_CFG_group, SYN_CFG_depth, SYN_CFG_gang, SYN_CFG_lossmode,
  SYN_CFG_xrate, SYN_AUD_en, SYN_AUD_xfade, SYN_AUD_trim, SYN_STAT_state,
  SYN_STAT_claimed, SYN_STAT_input_lost, SYN_STAT_oversize, SYN_STAT_rate_diff, SYN_STAT_on_swing,
  SYN_DELAY_cues, SYN_FILL_n, SYN_FRUPT_lo, SYN_FRUPT_hi, SYN_REPEAT_n,
  SYN_DROP_n, SYN_LINE_SUB_n, SYN_PAIR_DIFF_n, SYN_PAIR_SHORT_n, SYN_JRN_LATE_n
  ]

/-- The fields of the Proscenium raster page (R243). -/
def proRasFields : List Fld := [
  PRO_RASTER_fmt, PRO_RASTER_smp, PRO_RASTER_gang, PRO_RASTER_cs, PRO_BG,
  PRO_POOL_free, PRO_POOL_need, PRO_CF_ADDR_set, PRO_CF_ADDR_vert, PRO_CF_ADDR_phase,
  PRO_CF_CTL_load, PRO_CF_CTL_store, PRO_CF_DATA_even, PRO_CF_DATA_odd, PRO_STAT_on_swing,
  PRO_STAT_ganged, PRO_STAT_member
  ]

/-- The fields of the Proscenium layer page (R243). -/
def proLayFields : List Fld := [
  LAY_CFG_src, LAY_CFG_gang, LAY_CFG_crop_full, LAY_CFG_vtaps, LAY_CFG_hset,
  LAY_CFG_vset, LAY_CROP_cx, LAY_CROP_cy, LAY_CROPS_cw, LAY_CROPS_ch,
  LAY_DST_dx, LAY_DST_dy, LAY_DSTS_dw, LAY_DSTS_dh, LAY_SURF_fmt,
  LAY_BASE_lo, LAY_BASE_hi, LAY_STRIDE_bytes, LAY_ZHDR_lo, LAY_ZHDR_hi,
  LAY_SWH_w, LAY_SWH_h, LAY_STAT_state, LAY_STAT_vtaps, LAY_STAT_grp,
  LAY_STAT_limit, LAY_STAT_cspace, LAY_STAT_held, LAY_STAT_need, LAY_DEGRADE_n,
  LAY_TRANSP_FR_n, LAY_MEM_ERR_n, LAY_LATE_n
  ]

/-- The fields of the Proscenium blending page (R243, R262). -/
def proBlendFields : List Fld := [
  PRO_OUT_en, PRO_OUT_group, PRO_OUT_safe, PRO_OUT_ycc, PRO_ORDER,
  PRO_ORDER_CHK, PRO_FLIP_CTL_maxhold, PRO_FLIP_arm, PRO_FLIP_pend, PRO_FLIP_bank,
  PRO_FLIP_overdue, PRO_FLIP_auto, PRO_FLIP_nb, PRO_FLIP_held, PRO_FLIP_TGT,
  PRO_FENCE, PRB_STAT_state, PRB_STAT_safe, PRB_STAT_order_bad, LAY_BLEND_alpha,
  LAY_BLEND_asrc, LAY_BLEND_pm, LAY_BLEND_fgrp, LAY_BLEND_fl_en, LAY_BLEND_kconst,
  LAY_KEY_lo, LAY_KEY_hi, LAY_BASE1_lo, LAY_BASE1_hi, LAY_BASE2_lo,
  LAY_BASE2_hi, LAY_ZHDR1_lo, LAY_ZHDR1_hi, LAY_ZHDR2_lo, LAY_ZHDR2_hi,
  LAY_BSTAT_key_lost, CAP_CFG_en, CAP_CFG_fmt, CAP_CFG_scale, CAP_CFG_div,
  CAP_CFG_fence_en, CAP_CFG_fpro, CAP_CFG_fgrp, CAP_BASE_lo, CAP_BASE_hi,
  CAP_STRIDE_bytes, CAP_SEQ_n, PRO_CAPBW_used, PRO_CAPBW_need, PRB_FLIPS_n,
  PRB_HOLD_n, PRB_OVERDUE_n, PRB_SAFE_FR_n, PRB_KEY_LOST_n, PRB_PAIR_EARLY_n,
  CAP_FRAMES_n, CAP_DROP_n
  ]

/-- The fields of the Proscenium group page (R243). -/
def proGroupFields : List Fld := [
  PRG_BW_used, PRG_BW_need, PRG_SWING_pro, PRG_SWING_valid
  ]

/-- The fields of the Pit control page (R284). -/
def pitCtlFields : List Fld := [
  PIT_CTL_lat, PIT_CTL_gramp, PIT_DLY_AREA_lo, PIT_DLY_AREA_hi, PIT_DLY_USED_n,
  PIT_DLY_NEED_n, PIT_SWING_bank, PIT_SWING_valid, PIT_STAT_tod, PIT_IN_SLIP_n,
  PIT_XF_TRUNC_n, PIT_TR_FORCED_n, PIT_DLY_ERR_n, PIT_SMEM_ERR_n, PIT_SUPERSEDED_n,
  PIT_REGRID_n, PIT_PAIR_DIFF_n
  ]

/-- The fields of the Pit window page (R284). -/
def pitWinFields : List Fld := [
  PIT_SEL_idx, PIT_SEL_live, PIT_SEL_tbl, PIT_SEL_load, PIT_SEL_store,
  PIT_SEL_busy, PIT_TCRC_REF_crc, PIT_TCRC_NOW_crc, PIT_WIN, PIT_OSTAT_src,
  PIT_OSTAT_sel, PIT_OSTAT_state, PIT_OSTAT_res, PIT_OLINE_n, PIT_OLINE_valid
  ]

/-- The fields of the Pit take page (R284). -/
def pitTakeFields : List Fld := [
  PIT_TK_out, PIT_TK_in, PIT_TK_CTL_none, PIT_TK_CTL_kind, PIT_TK_CTL_go,
  PIT_TK_TGT_lo, PIT_TK_TGT_hi, PIT_TK_RESP_st, PIT_TK_LEVEL_n, PIT_TK_FULL_n,
  PIT_TK_LATE_n, PIT_TK_INVALID_n
  ]

/-- The fields of the TDM port page (R298). -/
def tdmFields : List Fld := [
  TDM_CFG_en, TDM_CFG_clk, TDM_CFG_slots, TDM_CFG_dly, TDM_CFG_fs_w,
  TDM_CFG_fs_pol, TDM_CFG_edge, TDM_CFG_align, TDM_BLK_frames, TDM_RXEN,
  TDM_TXEN, TDM_RXTR, TDM_FADE_out, TDM_FADE_in, TDM_ZX_timeout,
  TDM_TXOFS_cues, TDM_STAT_run, TDM_STAT_drift, TDM_STAT_over_range, TDM_FRATE_mhz,
  TDM_STAMP_lo, TDM_STAMP_hi, TDM_BLKSEQ_n, TDM_GAP_rx, TDM_UNDER_n,
  TDM_OVER_n, TDM_LATE_n, TDM_ZX_TMO_n, TDM_FS_ERR_n, TDM_TX_SLIP_n,
  TDM_PAIR_DIFF_n
  ]

/-- The fields of the TDM trigger page (R299). -/
def tdmTrigFields : List Fld := [
  TDM_TRIG_mask, TDM_TRIG_TGT_lo, TDM_TRIG_TGT_hi, TDM_TRIG_CTL_go, TDM_TRIG_CTL_pending,
  TDM_TRIG_CTL_late, TDM_TRIG_CTL_skip, TDM_TRIG_S_lo, TDM_TRIG_S_hi
  ]

/-- The fields of the DRAM controller page (R386). -/
def drcCtlFields : List Fld := [
  DRC_PAGE_idle, DRC_PAGE_starve, DRC_QLIM_n, DRC_WQ_hi, DRC_WQ_lo,
  DRC_WQ_age, DRC_RH_thr, DRC_RH_en, DRC_TIM0_trcd, DRC_TIM0_trp,
  DRC_TIM0_tras, DRC_TIM0_tfaw, DRC_TIM1_trrd_s, DRC_TIM1_trrd_l, DRC_TIM1_tccd_l,
  DRC_TIM1_twr, DRC_TIM2_trfc, DRC_TIM2_trefi, DRC_STAT_sr, DRC_STAT_drain,
  DRC_STAT_hot, DRC_STAT_owed, DRC_INFL_n, DRC_ACT_n, DRC_HIT_n,
  DRC_RH_REFRESH_n, DRC_REF_n, DRC_POSTPONED_n, DRC_FULL_n, DRC_UNAVAIL_n
  ]

/-- The fields of the DRAM training page (R386). -/
def drcTrnFields : List Fld := [
  DRC_TRN_min, DRC_TRK_per, DRC_TRK_lim, DRC_DLY_wr0, DRC_DLY_wr,
  DRC_DLY_rd, DRC_EYE_rd, DRC_EYE_wr, DRC_TRN_STAT_fail, DRC_TRN_STAT_done,
  DRC_TRK_RUNS_n, DRC_TRK_ADJ_n
  ]

/-- The fields of the DRAM protection page (R408). -/
def dprFields : List Fld := [
  DPR_RETIRE_dev, DPR_RETIRE_auto, DPR_RET_thr, DPR_RET_win, DPR_SCRUB_gap,
  DPR_SCRUB_idle, DPR_SCRUB_en, DPR_SCRUB_POS_lo, DPR_SCRUB_POS_hi, DPR_SCRUB_DONE_lo,
  DPR_SCRUB_DONE_hi, DPR_SCRUB_PASS_n, DPR_CE_ADDR_lo, DPR_CE_ADDR_hi, DPR_CE_INFO_dev,
  DPR_CE_INFO_sym, DPR_CE_INFO_req, DPR_DEVCE_n, DPR_CE_n, DPR_UE_n,
  DPR_SCRUB_CE_n, DPR_SCRUB_UE_n, DPR_PWR_REFUSED_n
  ]

/-- The fields of the DRAM repair page (R408). -/
def pprFields : List Fld := [
  DPR_PPR_dev, DPR_PPR_bg, DPR_PPR_bank, DPR_PPR_row, DPR_PPR_go,
  DPR_PPR_busy, DPR_PPR_result, DPR_PPR_DONE_n, DPR_PPR_FAIL_n
  ]

/-- The fields of the DRAM flip page (R408). -/
def dflipFields : List Fld := [
  DPR_FLIP_MASK, DPR_FLIP_req, DPR_FLIP_cw, DPR_FLIP_mode, DPR_FLIP_arm,
  DPR_FLIP_armed, DPR_FLIP_ADDR_lo, DPR_FLIP_ADDR_hi
  ]

/-- The fields of the DRAM global page (R386). -/
def drcGlobFields : List Fld := [
  DRC_GLB_dens, DRC_GLB_up, DRC_SIZE_lo, DRC_SIZE_hi
  ]

/-- The fields of the SRAM protection page (R408). -/
def srmFields : List Fld := [
  SRM_FLIP_macro, SRM_FLIP_arm, SRM_FLIP_armed, SRM_FLIP_MASK, SRM_FLIP_MASK_top,
  SRM_REP_entry, SRM_REP_go, SRM_FUSE_used, SRM_CE_n, SRM_UE_n,
  SRM_SCRUB_CE_n
  ]

/-- The fields of the rotation page (R460). -/
def rotFields : List Fld := [
  ROT_CTL_en, ROT_CTL_pause, ROT_CLS_en, ROT_CLS_per, ROT_CLS_test,
  ROT_CLS_STAT_state, ROT_CLS_STAT_starved, ROT_CLS_STAT_exhausted, ROT_CLS_STAT_cursor, ROT_CLS_STAT_free,
  ROT_GUSED, ROT_PUSED_lo, ROT_PUSED_hi, D2D_REP_spares, D2D_REP_out,
  ROT_STEPS_n, ROT_FAIL_n, ROT_SKIP_n, D2D_WIRE_FAIL_n
  ]

/-- The fields of the ageing and temperature page (R460). -/
def avsFields : List Fld := [
  AVS_CTL_en, AVS_CTL_man, AVS_LIM_lo, AVS_LIM_hi, AVS_MARG_lo,
  AVS_MARG_hi, AVS_MAN_mv, AVS_TGT_mv, AVS_MEAS_mv, AVS_MEAS_da,
  AGE_MARGIN_ps, AGE_MARGIN_mon, TMP_c, TMP_bad, TMP_LIM_warn,
  TMP_LIM_crit, TMP_MAX_c, TMP_MAX_s, AVS_UP_n, AVS_DOWN_n,
  AVS_ERR_n, TMP_WARN_EV_n
  ]

/-- The fields of the wear and fuse page (R460). -/
def wearFields : List Fld := [
  WEAR_BASE_h, WEAR_HRS_h, FUSE_PROG_entry, FUSE_PROG_go, FUSE_PROG_busy,
  FUSE_PROG_result
  ]

/-- The fields of the lifecycle page (R477). -/
def lcyFields : List Fld := [
  LCY_STATE_state, LCY_STATE_wiping, LCY_STATE_debug, LCY_STATE_oem, LCY_HWTYPE,
  LCY_UID, LCY_NONCE_lo, LCY_NONCE_hi, LCY_REQ_target, LCY_REQ_go,
  LCY_RESP_res
  ]

/-- The fields of the boot page (R477). -/
def bootFields : List Fld := [
  BOOT_CTL_dev_reset, BOOT_STAT_s, BOOT_STAT_m, BOOT_STAT_c, BOOT_STAT_board_ok,
  BOOT_STAT_layout_ok, BOOT_REP_applied, BOOT_REP_hard, BOOT_REP_hard_fail, BOOT_MEDIA_UPT_lo,
  BOOT_MEDIA_UPT_hi, BOOT_CREW_UPT_lo, BOOT_CREW_UPT_hi
  ]

/-- The fields of the update page (R494). -/
def updFields : List Fld := [
  UPD_CMD_word, UPD_RESP_res, UPD_RESP_cmd, UPD_CFG_group, UPD_STAT_trial,
  UPD_STAT_pause, UPD_STAT_sched, UPD_STAT_shadow, UPD_SLOT_run, UPD_SLOT_st0,
  UPD_SLOT_st1, UPD_VER_ver, UPD_ACT_lo, UPD_ACT_hi, UPD_DEADLINE_lo,
  UPD_DEADLINE_hi, UPD_TWIN_major, UPD_TWIN_minor, UPD_TWIN_valid, UPD_SCONF_go,
  UPD_ACTIVATIONS_n, UPD_REVERTS_n, UPD_REFUSED_n
  ]

/-- The fields of a page of each kind beside the common header. -/
def PageKind.fields : PageKind → List Fld
  | .dev => devFields
  | .pool => poolFields
  | .mail => mailFields
  | .cue => cueFields
  | .refSel => refSelFields
  | .refIn => refInFields
  | .clkCtl => clkCtlFields
  | .pll => pllFields
  | .cbCtl => cbCtlFields
  | .cbRing => cbRingFields
  | .pair => pairFields
  | .twin => twinFields
  | .cat => catFields
  | .prc => prcFields
  | .dma => dmaFields
  | .pcie => pcieFields
  | .intc => intcFields
  | .rxl => rxlFields
  | .txl => txlFields
  | .ethCtl => ethCtlFields
  | .ethPtp => ethPtpFields
  | .ethRing => ethRingFields
  | .ethStat => ethStatFields
  | .ethTmt => ethTmtFields
  | .flr => flrFields
  | .flt => fltFields
  | .flc => flcFields
  | .tap => tapFields
  | .fmt => fmtFields
  | .ttCtl => ttCtlFields
  | .ttCue => ttCueFields
  | .ttSm => ttSmFields
  | .ttTcnt => ttTcntFields
  | .ttTcls => ttTclsFields
  | .ttGpio => ttGpioFields
  | .quad => quadFields
  | .defr => defrFields
  | .synCtl => synCtlFields
  | .synQuad => synQuadFields
  | .proRas => proRasFields
  | .proLay => proLayFields
  | .proBlend => proBlendFields
  | .proGroup => proGroupFields
  | .pitCtl => pitCtlFields
  | .pitWin => pitWinFields
  | .pitTake => pitTakeFields
  | .tdm => tdmFields
  | .tdmTrig => tdmTrigFields
  | .drcCtl => drcCtlFields
  | .drcTrn => drcTrnFields
  | .dpr => dprFields
  | .ppr => pprFields
  | .dflip => dflipFields
  | .drcGlob => drcGlobFields
  | .srm => srmFields
  | .rot => rotFields
  | .avs => avsFields
  | .wear => wearFields
  | .lcy => lcyFields
  | .boot => bootFields
  | .upd => updFields

/-- PAGE_ID.type of each kind of page (R40). The type of the device page and of the mailbox pages is not given: see Config. -/
def PageKind.typeCode : PageKind → Option Nat
  | .dev => none
  | .pool => some 0x0003
  | .mail => none
  | .cue => some 0x0102
  | .refSel => some 0x0103
  | .refIn => some 0x0104
  | .clkCtl => some 0x0105
  | .pll => some 0x0106
  | .cbCtl => some 0x0201
  | .cbRing => some 0x0202
  | .pair => some 0x0301
  | .twin => some 0x0302
  | .cat => some 0x0401
  | .prc => some 0x0402
  | .dma => some 0x0403
  | .pcie => some 0x0404
  | .intc => some 0x0405
  | .rxl => some 0x0801
  | .txl => some 0x0A01
  | .ethCtl => some 0x0C01
  | .ethPtp => some 0x0C02
  | .ethRing => some 0x0C03
  | .ethStat => some 0x0C04
  | .ethTmt => some 0x0C08
  | .flr => some 0x0D01
  | .flt => some 0x0D02
  | .flc => some 0x0D03
  | .tap => some 0x1001
  | .fmt => some 0x1002
  | .ttCtl => some 0x1003
  | .ttCue => some 0x1004
  | .ttSm => some 0x1005
  | .ttTcnt => some 0x1006
  | .ttTcls => some 0x1007
  | .ttGpio => some 0x1008
  | .quad => some 0x1401
  | .defr => some 0x1402
  | .synCtl => some 0x1801
  | .synQuad => some 0x1802
  | .proRas => some 0x1901
  | .proLay => some 0x1902
  | .proBlend => some 0x1903
  | .proGroup => some 0x1904
  | .pitCtl => some 0x1A01
  | .pitWin => some 0x1A02
  | .pitTake => some 0x1A03
  | .tdm => some 0x1A04
  | .tdmTrig => some 0x1A05
  | .drcCtl => some 0x1C01
  | .drcTrn => some 0x1C02
  | .dpr => some 0x1C03
  | .ppr => some 0x1C04
  | .dflip => some 0x1C05
  | .drcGlob => some 0x1C08
  | .srm => some 0x1E01
  | .rot => some 0x1E02
  | .avs => some 0x1E03
  | .wear => some 0x1E04
  | .lcy => some 0x1F01
  | .boot => some 0x1F02
  | .upd => some 0x1F03

/-- PAGE_CAP.snap: page has counters and snapshot holding copies (R45). -/
def PageKind.snap : PageKind → Bool
  | .dev | .cue | .refSel | .refIn | .clkCtl | .pll | .cbCtl | .cbRing | .pair | .twin | .cat | .dma | .pcie | .rxl | .txl | .ethPtp | .ethRing | .ethStat | .ethTmt | .flr | .flt | .tap | .fmt | .ttCtl | .ttCue | .ttGpio | .quad | .defr | .synCtl | .synQuad | .proRas | .proLay | .proBlend | .proGroup | .pitCtl | .pitTake | .tdm | .drcCtl | .drcTrn | .dpr | .ppr | .dflip | .drcGlob | .srm | .rot | .avs | .wear | .upd => true
  | _ => false

/-- PAGE_CAP.parity: page supports parity-compatibility mode (R45). -/
def PageKind.parity : PageKind → Bool
  | .rxl | .txl => true
  | _ => false

/-- PAGE_CAP.staged: page has staged configuration (R45). -/
def PageKind.staged : PageKind → Bool
  | .pool | .refSel | .refIn | .clkCtl | .pll | .cbCtl | .cbRing | .pair | .twin | .rxl | .txl | .ethCtl | .ethRing | .ethTmt | .flr | .flt | .flc | .tap | .fmt | .ttCtl | .quad | .defr | .synCtl | .synQuad | .proRas | .proLay | .proBlend | .proGroup | .pitCtl | .pitWin | .tdm | .drcCtl | .drcTrn | .dpr | .ppr | .dflip | .drcGlob | .srm | .rot | .avs | .wear => true
  | _ => false

/-- PAGE_CAP.stoppable: some fields apply in a domain that can stop (R45). -/
def PageKind.stoppable : PageKind → Bool
  | .rxl | .txl | .fmt | .defr => true
  | _ => false

/-- PAGE_CAP.nirq: number of block interrupt sources. -/
def PageKind.nirq : PageKind → Nat
  | .dev => 4
  | .pool => 1
  | .cue => 4
  | .refSel => 5
  | .refIn => 6
  | .clkCtl => 2
  | .pll => 4
  | .cbCtl => 4
  | .cbRing => 4
  | .pair => 9
  | .twin => 4
  | .cat => 2
  | .prc => 2
  | .dma => 3
  | .pcie => 3
  | .rxl => 6
  | .txl => 4
  | .ethCtl => 4
  | .ethPtp => 2
  | .ethRing => 4
  | .flr => 5
  | .flt => 2
  | .tap => 16
  | .fmt => 2
  | .ttCtl => 4
  | .ttCue => 3
  | .ttGpio => 18
  | .quad => 24
  | .defr => 5
  | .synQuad => 24
  | .proLay => 24
  | .proBlend => 7
  | .pitCtl => 4
  | .pitTake => 2
  | .tdm => 7
  | .tdmTrig => 1
  | .drcCtl => 4
  | .drcTrn => 3
  | .dpr => 6
  | .ppr => 2
  | .dflip => 1
  | .srm => 2
  | .rot => 5
  | .avs => 6
  | .wear => 1
  | .upd => 5
  | _ => 0

/-! Entry words of the flow tables (R126) and of the Pit tables (R283); offsets are within the entry. -/

/-- CTL.en (R129). entry enabled -/
def RXE_CTL_en : Fld := ⟨0x0, 0, 1, 1, 4, .rw, .any, .ctl, 0⟩
/-- CTL.type (R129). flow type (R126) -/
def RXE_CTL_type : Fld := ⟨0x0, 1, 3, 1, 4, .rw, .any, .ctl, 0⟩
/-- CTL.dual (R129). merge paths A and B per ST 2022-7 -/
def RXE_CTL_dual : Fld := ⟨0x0, 4, 1, 1, 4, .rw, .any, .ctl, 0⟩
/-- CTL.ipv6 (R129). addresses are IPv6 -/
def RXE_CTL_ipv6 : Fld := ⟨0x0, 5, 1, 1, 4, .rw, .any, .ctl, 0⟩
/-- CTL.stage (R129). type 0 only: absorb path skew in DRAM staging -/
def RXE_CTL_stage : Fld := ⟨0x0, 6, 1, 1, 4, .rw, .any, .ctl, 0⟩
/-- CTL.policy (R129). 0 hold current sender, 1 take newest sender -/
def RXE_CTL_policy : Fld := ⟨0x0, 7, 1, 1, 4, .rw, .any, .ctl, 0⟩
/-- CTL.gang (R129). 0 one rail, 1 two, 2 four, 3 reserved (R128) -/
def RXE_CTL_gang : Fld := ⟨0x0, 8, 2, 1, 4, .rw, .any, .ctl, 0⟩
/-- CTL.pt_check (R129). discard packets of another payload type -/
def RXE_CTL_pt_check : Fld := ⟨0x0, 10, 1, 1, 4, .rw, .any, .ctl, 0⟩
/-- CTL.sidx (R129). type 0 with CTL.stage: staging region 0–63 (R140); [31:17] reserved -/
def RXE_CTL_sidx : Fld := ⟨0x0, 11, 6, 1, 4, .rw, .any, .ctl, 0⟩
/-- PORT.lp_a (R129). logical port 4P + s of path A -/
def RXE_PORT_lp_a : Fld := ⟨0x4, 0, 6, 1, 4, .rw, .any, .ctl, 0⟩
/-- PORT.lp_b (R129). logical port of path B -/
def RXE_PORT_lp_b : Fld := ⟨0x4, 8, 6, 1, 4, .rw, .any, .ctl, 0⟩
/-- PORT.pt (R129). RTP payload type -/
def RXE_PORT_pt : Fld := ⟨0x4, 16, 7, 1, 4, .rw, .any, .ctl, 0⟩
/-- PORT.loss (R129). loss time, (n + 1) × 10,584,000 cues -/
def RXE_PORT_loss : Fld := ⟨0x4, 24, 8, 1, 4, .rw, .any, .ctl, 0⟩
/-- UDP.port_a (R129). destination UDP port of path A -/
def RXE_UDP_port_a : Fld := ⟨0x8, 0, 16, 1, 4, .rw, .any, .ctl, 0⟩
/-- UDP.port_b (R129). destination UDP port of path B -/
def RXE_UDP_port_b : Fld := ⟨0x8, 16, 16, 1, 4, .rw, .any, .ctl, 0⟩
/-- SKEW.us (R129). release delay in µs (R138, R139); [31:14] reserved -/
def RXE_SKEW_us : Fld := ⟨0xC, 0, 14, 1, 4, .rw, .any, .ctl, 0⟩
/-- ADDR_A (R129). destination address of path A -/
def RXE_ADDR_A : Fld := ⟨0x10, 0, 32, 4, 4, .rw, .any, .ctl, 0⟩
/-- ADDR_B (R129). destination address of path B -/
def RXE_ADDR_B : Fld := ⟨0x20, 0, 32, 4, 4, .rw, .any, .ctl, 0⟩
/-- BIND.slot (R129). video slot 0–1,535 (types 0, 1, 4) -/
def RXE_BIND_slot : Fld := ⟨0x30, 0, 11, 1, 4, .rw, .any, .ctl, 0⟩
/-- BIND.pit (R129). first Pit channel (types 2, 3) -/
def RXE_BIND_pit : Fld := ⟨0x30, 16, 16, 1, 4, .rw, .any, .ctl, 0⟩
/-- GEOM.width (R129). active pixels per line -/
def RXE_GEOM_width : Fld := ⟨0x34, 0, 13, 1, 4, .rw, .any, .ctl, 0⟩
/-- GEOM.height (R129). active lines per frame -/
def RXE_GEOM_height : Fld := ⟨0x34, 13, 13, 1, 4, .rw, .any, .ctl, 0⟩
/-- GEOM.intl (R129). interlaced -/
def RXE_GEOM_intl : Fld := ⟨0x34, 26, 1, 1, 4, .rw, .any, .ctl, 0⟩
/-- FMT.rate (R129). frame rate: 0 23.98, 1 24, 2 25, 3 29.97, 4 30, 5 47.95, 6 48, 7 50, 8 59.94, 9 60, 10 100, 11 119.88, 12 120 Hz -/
def RXE_FMT_rate : Fld := ⟨0x38, 0, 4, 1, 4, .rw, .any, .ctl, 0⟩
/-- FMT.smp (R129). 0 YCbCr 4:2:2 10-bit, 1 4:4:4 10-bit, 2 4:4:4 12-bit, 3 RGB 10-bit, 4 RGB 12-bit -/
def RXE_FMT_smp : Fld := ⟨0x38, 4, 3, 1, 4, .rw, .any, .ctl, 0⟩
/-- FMT.bpm (R129). 0 general packing, 1 block packing -/
def RXE_FMT_bpm : Fld := ⟨0x38, 7, 1, 1, 4, .rw, .any, .ctl, 0⟩
/-- FMT.ch (R129). audio channels 1–64 -/
def RXE_FMT_ch : Fld := ⟨0x38, 16, 7, 1, 4, .rw, .any, .ctl, 0⟩
/-- FMT.pt125 (R129). 1 packet time 125 µs, 0 packet time 1 ms -/
def RXE_FMT_pt125 : Fld := ⟨0x38, 24, 1, 1, 4, .rw, .any, .ctl, 0⟩
/-- FMT.k96 (R129). 96 kHz samples, two Pit channels each -/
def RXE_FMT_k96 : Fld := ⟨0x38, 25, 1, 1, 4, .rw, .any, .ctl, 0⟩
/-- FMT.l24 (R129). 1 L24, 0 L16 -/
def RXE_FMT_l24 : Fld := ⟨0x38, 26, 1, 1, 4, .rw, .any, .ctl, 0⟩
/-- CTL.pace (R130). ST 2110-21 sender type: 0 N, 1 NL, 2 W, 3 reserved -/
def TXE_CTL_pace : Fld := ⟨0x0, 10, 2, 1, 4, .rw, .any, .ctl, 0⟩
/-- CTL.tag (R130). send with an 802.1Q tag -/
def TXE_CTL_tag : Fld := ⟨0x0, 12, 1, 1, 4, .rw, .any, .ctl, 0⟩
/-- CTL.pcp (R130). tag priority -/
def TXE_CTL_pcp : Fld := ⟨0x0, 13, 3, 1, 4, .rw, .any, .ctl, 0⟩
/-- CTL.vid (R130). VLAN ID -/
def TXE_CTL_vid : Fld := ⟨0x0, 16, 12, 1, 4, .rw, .any, .ctl, 0⟩
/-- PORT.ttl (R130). IPv4 TTL or IPv6 hop limit -/
def TXE_PORT_ttl : Fld := ⟨0x4, 24, 8, 1, 4, .rw, .any, .ctl, 0⟩
/-- SRC.sport (R130). source UDP port -/
def TXE_SRC_sport : Fld := ⟨0xC, 0, 16, 1, 4, .rw, .any, .ctl, 0⟩
/-- SRC.dscp (R130). DSCP -/
def TXE_SRC_dscp : Fld := ⟨0xC, 16, 6, 1, 4, .rw, .any, .ctl, 0⟩
/-- SRC.plen (R130). largest RTP payload, units of 16 bytes -/
def TXE_SRC_plen : Fld := ⟨0xC, 22, 10, 1, 4, .rw, .any, .ctl, 0⟩
/-- SSRC.val (R130). RTP SSRC -/
def TXE_SSRC_val : Fld := ⟨0x3C, 0, 32, 1, 4, .rw, .any, .ctl, 0⟩
/-- PIT_OUT.gain (R283). signed, 0.01 dB (R273) -/
def PITO_gain : Fld := ⟨0x0, 0, 16, 1, 4, .rw, .any, .ctl, 0⟩
/-- PIT_OUT.pol (R283). 1 inverted -/
def PITO_pol : Fld := ⟨0x0, 16, 1, 1, 4, .rw, .any, .ctl, 0⟩
/-- PIT_OUT.k96 (R283). 96 kHz pair, even output only (R275) -/
def PITO_k96 : Fld := ⟨0x0, 17, 1, 1, 4, .rw, .any, .ctl, 0⟩
/-- PIT_OUT.xfade (R283). crossfade, 0–1,024 samples -/
def PITO_xfade : Fld := ⟨0x0, 18, 11, 1, 4, .rw, .any, .ctl, 0⟩
/-- PIT_OUT.delay (R283). delay, 0–48,000 samples -/
def PITO_delay : Fld := ⟨0x4, 0, 16, 1, 4, .rw, .any, .ctl, 0⟩
/-- PIT_RAUD.base (R283). first input of the rail's block (R267) -/
def PITR_base : Fld := ⟨0x0, 0, 16, 1, 4, .rw, .any, .ctl, 0⟩
/-- PIT_RAUD.n (R283). inputs in the block, 0–64 -/
def PITR_n : Fld := ⟨0x0, 16, 7, 1, 4, .rw, .any, .ctl, 0⟩

end Sys2Proof.Machine
end

