-- ==== Sys2Proof/Machine/Pages.lean ====
section
/-!
DEFINITION. The BAR0 address map (R40, R41): which page of which block lies at an address, where the page of an instance
lies, and what each register holds at reset.
-/
namespace Sys2Proof.Machine

/-- Page addresses (R40, R41 and each chapter's placement rule). -/
def pgDev : Nat := 0x0000000
def pgPool : Nat := 0x0002000
def pgCue : Nat := 0x0100000
def pgSel : Nat := 0x0101000
def pgRef (i : Nat) : Nat := 0x0102000 + i * 0x1000
def pgClk : Nat := 0x010C000
def pgPll (n : Nat) : Nat := 0x010D000 + n * 0x1000
def pgCb : Nat := 0x0200000
def pgCbr : Nat := 0x0201000
def pgPair : Nat := 0x0300000
def pgTwin : Nat := 0x0301000
def pgCat : Nat := 0x0400000
def pgPrc : Nat := 0x0401000
def pgDma (n : Nat) : Nat := 0x0402000 + n * 0x1000
def pgPcie : Nat := 0x0406000
def pgInt : Nat := 0x0407000
def pgRxl (L : Nat) : Nat := 0x0800000 + L * 0x1000
def pgTxl (L : Nat) : Nat := 0x0A00000 + L * 0x1000
def pgEth (P j : Nat) : Nat := 0x0C00000 + (16 * P + j) * 0x1000
def pgFlr : Nat := 0x0D00000
def pgFlt : Nat := 0x0D01000
def pgFlc : Nat := 0x0D02000
def pgTt : Nat := 0x1000000
def pgCq : Nat := 0x1001000
def pgSm : Nat := 0x1002000
def pgTcnt (n : Nat) : Nat := 0x1004000 + n * 0x1000
def pgTcls : Nat := 0x1007000
def pgGpio : Nat := 0x1008000
/-- The page of a tap; the tap's slot in it is tap mod 16 (R204). -/
def pgTap (tap : Nat) : Nat := 0x1010000 + tap / 16 * 0x1000
def pgFmt (L : Nat) : Nat := 0x1200000 + L * 0x1000
/-- The page of the Platform of a rail; its slot is rail mod 4 (R164). -/
def pgQuad (rail : Nat) : Nat := 0x1400000 + rail / 4 * 0x1000
def pgDef (L : Nat) : Nat := 0x1600000 + L * 0x1000
def pgSync : Nat := 0x1800000
/-- The page of a synchroniser unit; its slot is unit mod 4 (R221). -/
def pgSyn (k : Nat) : Nat := 0x1801000 + k / 4 * 0x1000
def pgPro (p j : Nat) : Nat := 0x1900000 + (4 * p + j) * 0x1000
def pgProG : Nat := 0x1988000
def pgPit : Nat := 0x1A00000
def pgPitW : Nat := 0x1A01000
def pgPitT : Nat := 0x1A02000
def pgTdm (q : Nat) : Nat := 0x1A10000 + q * 0x1000
def pgTrig : Nat := 0x1A20000
def pgDrc (n j : Nat) : Nat := 0x1C00000 + (16 * n + j) * 0x1000
def pgDrcG : Nat := 0x1C80000
def pgSrm : Nat := 0x1E00000
def pgRot : Nat := 0x1E01000
def pgAvs : Nat := 0x1E02000
def pgWear : Nat := 0x1E03000
def pgLcy : Nat := 0x1F00000
def pgBoot : Nat := 0x1F01000
def pgUpd : Nat := 0x1F02000

/-- The kind and instance of page number n (BAR0 address divided by 0x1000); none for a reserved or unmapped page (R43). -/
def pageNo (n : Nat) : Option (PageKind × Nat) :=
  if n < 0x800 then
    if n = 0 then some (.dev, 0)
    else if n = 2 then some (.pool, 0)
    else if 0x10 ≤ n ∧ n < 0x100 then some (.mail, n - 0x10)
    else if n = 0x100 then some (.cue, 0)
    else if n = 0x101 then some (.refSel, 0)
    else if 0x102 ≤ n ∧ n < 0x10C then some (.refIn, n - 0x102)
    else if n = 0x10C then some (.clkCtl, 0)
    else if 0x10D ≤ n ∧ n < 0x127 then some (.pll, n - 0x10D)
    else if n = 0x200 then some (.cbCtl, 0)
    else if n = 0x201 then some (.cbRing, 0)
    else if n = 0x300 then some (.pair, 0)
    else if n = 0x301 then some (.twin, 0)
    else if n = 0x400 then some (.cat, 0)
    else if n = 0x401 then some (.prc, 0)
    else if 0x402 ≤ n ∧ n < 0x406 then some (.dma, n - 0x402)
    else if n = 0x406 then some (.pcie, 0)
    else if n = 0x407 then some (.intc, 0)
    else none
  else if n < 0x1000 then
    if n < 0xA00 then some (.rxl, n - 0x800)
    else if n < 0xC00 then some (.txl, n - 0xA00)
    else if n < 0xD00 then
      let p := (n - 0xC00) / 16
      let j := (n - 0xC00) % 16
      if j = 0 then some (.ethCtl, p)
      else if j = 1 then some (.ethPtp, p)
      else if j = 2 then some (.ethRing, p)
      else if j < 7 then some (.ethStat, 4 * p + (j - 3))
      else if j = 7 then none
      else some (.ethTmt, 8 * p + (j - 8))
    else if n = 0xD00 then some (.flr, 0)
    else if n = 0xD01 then some (.flt, 0)
    else if n = 0xD02 then some (.flc, 0)
    else none
  else if n < 0x1800 then
    if n = 0x1000 then some (.ttCtl, 0)
    else if n = 0x1001 then some (.ttCue, 0)
    else if n = 0x1002 then some (.ttSm, 0)
    else if 0x1004 ≤ n ∧ n < 0x1007 then some (.ttTcnt, n - 0x1004)
    else if n = 0x1007 then some (.ttTcls, 0)
    else if n = 0x1008 then some (.ttGpio, 0)
    else if 0x1010 ≤ n ∧ n < 0x10B0 then some (.tap, n - 0x1010)
    else if 0x1200 ≤ n ∧ n < 0x1400 then some (.fmt, n - 0x1200)
    else if 0x1400 ≤ n ∧ n < 0x1600 then some (.quad, n - 0x1400)
    else if 0x1600 ≤ n then some (.defr, n - 0x1600)
    else none
  else if n < 0x2000 then
    if n = 0x1800 then some (.synCtl, 0)
    else if 0x1801 ≤ n ∧ n < 0x1843 then some (.synQuad, n - 0x1801)
    else if 0x1900 ≤ n ∧ n < 0x1988 then
      let p := (n - 0x1900) / 4
      let j := (n - 0x1900) % 4
      if j = 0 then some (.proRas, p) else if j = 1 then some (.proLay, p) else if j = 2 then some (.proBlend, p) else none
    else if n = 0x1988 then some (.proGroup, 0)
    else if n = 0x1A00 then some (.pitCtl, 0)
    else if n = 0x1A01 then some (.pitWin, 0)
    else if n = 0x1A02 then some (.pitTake, 0)
    else if 0x1A10 ≤ n ∧ n < 0x1A20 then some (.tdm, n - 0x1A10)
    else if n = 0x1A20 then some (.tdmTrig, 0)
    else if 0x1C00 ≤ n ∧ n < 0x1C80 then
      let c := (n - 0x1C00) / 16
      let j := (n - 0x1C00) % 16
      if j = 0 then some (.drcCtl, c) else if j = 1 then some (.drcTrn, c) else if j = 2 then some (.dpr, c)
      else if j = 3 then some (.ppr, c) else if j = 4 then some (.dflip, c) else none
    else if n = 0x1C80 then some (.drcGlob, 0)
    else if n = 0x1E00 then some (.srm, 0)
    else if n = 0x1E01 then some (.rot, 0)
    else if n = 0x1E02 then some (.avs, 0)
    else if n = 0x1E03 then some (.wear, 0)
    else if n = 0x1F00 then some (.lcy, 0)
    else if n = 0x1F01 then some (.boot, 0)
    else if n = 0x1F02 then some (.upd, 0)
    else none
  else none

/-- The kind and instance of the page that holds a BAR0 address. -/
def pageOf (a : Nat) : Option (PageKind × Nat) := pageNo (a / 0x1000)

/-- The address of the page that holds a BAR0 address. -/
def pageBase (a : Nat) : Nat := a / 0x1000 * 0x1000

/-- PAGE_ID.inst (R41): the block's instance modulo 256. The pages of one Ethernet port share the port's instance. -/
def instOf (k : PageKind) (i : Nat) : Nat :=
  match k with
  | .ethStat => i / 4 % 256
  | .ethTmt => i / 8 % 256
  | _ => i % 256

/-- PAGE_CAP.ncnt: the live counters of a page, those at 0x800 to 0xBFF. -/
def PageKind.ncnt (k : PageKind) : Nat :=
  let n := (k.fields.filter (fun f => f.code == .rc && 0x800 ≤ f.off)).foldl (fun a f => a + f.n) 0
  if k = .ethStat then n / 2 else n

/-- The fields, header included, that lie at offset o of a page of kind k. -/
def fieldsAt (k : PageKind) (o : Nat) : List Fld :=
  if o < 0x100 then hdrFields.filter (fun f => f.covers o) else k.fields.filter (fun f => f.covers o)

/-- Whether offset o (a multiple of 4) is a defined register of a page of kind k: a listed field lies there, or it is the
holding copy of a listed counter, 0x400 above it (R43, R53). An offset with no listed field is undefined as a whole; reserved bits
of a listed register read zero (R4, R49; DESIGN CHOICE, log entry 158). -/
def definedAt (k : PageKind) (o : Nat) : Bool :=
  !(fieldsAt k o).isEmpty || (0xC00 ≤ o && (fieldsAt k (o - 0x400)).any (fun f => f.code == .rc))

/-- Class defaults of ROT_CLS (R443). -/
def rotDefault (f : Fld) (c : Nat) : Nat :=
  if f = ROT_CLS_per then [0x3F, 0x3F, 0x0F, 0x0A, 0x1E, 0x3C, 0x0A].getD c 0
  else if f = ROT_CLS_test then [0x3C, 0x3C, 0x0C, 0x08, 0x19, 0x32, 0x08].getD c 0
  else f.rst

/-- The reset bits of the field at offset o of its page. -/
def resetBitsAt (k : PageKind) (f : Fld) (o : Nat) : W32 :=
  if k = .rot then setBits 0 f.lo f.w (rotDefault f ((o - f.off) / f.st)) else f.resetBits

/-- What the register at offset o of instance i of a page of kind k holds at reset. PAGE_ID.ver 0x01, the layout that R45 gives to
the pages of B0, is taken as the device page's report of silicon revision B0 (R2; DESIGN CHOICE, log entry 157). -/
def resetWord (k : PageKind) (i o : Nat) : W32 :=
  if o = 0 then
    setBits (setBits (setBits 0 0 8 1) 8 8 (instOf k i)) 16 16 (k.typeCode.getD (Config.unstatedType i).toNat)
  else if o = 4 then
    setBits (setBits (setBits (setBits (setBits (setBits 0 0 1 k.snap.toNat) 1 1 k.parity.toNat) 2 1 k.staged.toNat)
      3 1 k.stoppable.toNat) 8 8 k.ncnt) 16 8 k.nirq
  else (fieldsAt k o).foldl (fun x f => x ||| resetBitsAt k f o) 0

/-- What the register at BAR0 address a holds at reset. -/
def resetAt (a : Nat) : W32 :=
  match pageOf a with
  | none => 0
  | some (k, i) => resetWord k i (a % 0x1000)

end Sys2Proof.Machine
end

