-- ==== Sys2Proof/Machine/State.lean ====
section
/-!
DEFINITION. The state of the block as plain data: every register (one word for each BAR0 address, in one sparse store), the
live copy of every staged field, and the state the rules name beside registers, unit by unit.
-/
namespace Sys2Proof.Machine

/-- Why a command stops. -/
inductive Fault where
  /-- The command names no unit or no legal operand of the device (its WellFormed check fails). Raised by the meanings of
  commands with such a check. Safe: the hardware has no such event. -/
  | illFormed
  deriving DecidableEq, Repr

/-- Why a command has no meaning. -/
inductive Refusal where
  /-- The command's meaning is not written: raised by Dispatch for the named mnemonic. Safe. -/
  | notModelled (mnemonic : String)
  deriving DecidableEq, Repr

/-- The answer the last access gave to the master that made it (R43, R414, R420). -/
inductive RespKind | ok | busError | unsupported | completerAbort
  deriving DecidableEq, Repr

structure Resp where
  master : Nat
  kind : RespKind
  data : List Byte
  deriving DecidableEq, Repr

/-- A span of time of day with one increment (R26, R303): the total in 2^-40 cue at an uptime, and the increment that
holds from it. -/
structure TodSpan where
  upt : Nat
  tot : Nat
  inc : Nat
  deriving DecidableEq, Repr

/-- Time of day (R25 to R32): seconds, cue-of-second, the 40-bit fraction, the pending step requests, and the steered count
of R320 (the sum of all increments, in 2^-40 cue). quarter is the quarter of 2^-40 cue that a bypass cycle leaves (R30).
log holds the spans of the last second, newest first (R303). -/
structure Tod where
  sec : BitVec 48 := 0
  cos : BitVec 34 := 0
  frac : BitVec 40 := 0
  stepReq : Bool := false
  servoStep : Option Int := none
  steered : Nat := 0
  quarter : Nat := 0
  log : List TodSpan := []
  deriving DecidableEq, Repr

/-- A receive lane beside its registers: the candidate of the hunt (an index into R68's order), the settings of
RXL_CTL.fixed and rate in effect and whether a change waits for the next TICK (R68), the wake in progress, the uptime up to
which checked bits are counted with what is left over (R78, R79), the equalisation and polarity of the slice in service
(R73), the request to rotation (R84), the offset code of the lane's own slice (R75), and the bits inverted by injection in what
the checker and the Platform receive (R79). -/
structure RxLane where
  hunt : Nat := 0
  fixed : Bool := false
  rate : Nat := 7
  change : Bool := false
  waking : Bool := false
  dwellFrom : Nat := 0
  countFrom : Nat := 0
  bits : Nat := 0
  injBits : Nat := 0
  injNext : Bool := false
  eq : W32 := 0
  inv : Bool := false
  swapReq : Bool := false
  cal : Nat := 0
  flips : Nat := 0
  deriving DecidableEq, Repr

/-- A transmit lane beside its registers: the wake in progress, bit counting (R79, R85), whether the next bit is inverted
(R79), the equalisation and polarity of the slice in service (R73), the phase steps made (R327), the frames a handover has
waited for a phase match (R82), the request to rotation (R84), and the bits inverted by injection in what the lane sends (R79). -/
structure TxLane where
  waking : Bool := false
  countFrom : Nat := 0
  bits : Nat := 0
  injBits : Nat := 0
  injNext : Bool := false
  eq : W32 := 0x3000
  inv : Bool := false
  phase : Int := 0
  hoFrames : Nat := 0
  swapReq : Bool := false
  flips : Nat := 0
  deriving DecidableEq, Repr

/-- The rotation of one swing (R442 to R449): state (0 Idle, 1 Preparing, 2 Out, 3 Returning), the unit it stands for, whether
the swing carries that unit now, the uptime at which it began to run in parallel, the taps of a plane that the swing plane
carries (R202), the offset code of a lane swing (R75), the cursor, the uptime at which Out began and at which its test ended,
whether the test has failed once, whether the swing's last idle test failed, the volatile repair under test (R452), the step
instants since a step was completed, whether the swing is used up or out of use, and the swings of classes 3 to 6 taken into use
so far. -/
structure Rot where
  st : Nat := 0
  unit : Nat := 0
  on : Bool := false
  since : Nat := 0
  taps : List Nat := []
  cal : Nat := 0
  cursor : Nat := 0
  outFrom : Nat := 0
  testEnd : Nat := 0
  failed : Bool := false
  idleBad : Bool := false
  fix : Option W32 := none
  missed : Nat := 0
  used : Bool := false
  taken : Nat := 0
  deriving DecidableEq, Repr

/-- A PLL beside its registers: whether it has locked since reset (R324), whether a loss of lock is open (R428), whether a
return waits for an oscillator edge, whether the move of its domains to the oscillator is under way, and whether lock was
declared while frozen (R325). -/
structure Pll where
  locked1 : Bool := false
  lossOpen : Bool := false
  wantReturn : Bool := false
  moving : Bool := false
  unfreeze : Bool := false
  deriving DecidableEq, Repr

/-- An event of a reference input (R302): its uptime stamp and the time of day it stands for, in cues and 2^-30 cue. -/
structure RefEvent where
  upt : Nat
  m : Int
  deriving DecidableEq, Repr

/-- A reference input beside its registers: the events of the trailing second, oldest first; the count of consecutive short
intervals and the uptime of the last one (R307); the phase errors received since the last loop update, in 2^-40 cue (R310). -/
structure RefIn where
  events : List RefEvent := []
  short : Nat := 0
  lastShort : Nat := 0
  errs : List Int := []
  deriving DecidableEq, Repr

/-- The reference selector (R309 to R313, R321): y in 10^-6 ppt, the ramp velocity in 10^-3 ppt/s, the sum and count of y over
the present second, whether the whole second was in Tracking, the holdover ring in 10^-6 ppt (newest first), whether the
target has had its acquisition event (R312), and the state of the loop's integrator. -/
structure RefSel where
  y : Int := 0
  v : Int := 0
  ySum : Int := 0
  yCount : Nat := 0
  whole : Bool := false
  ring : List Int := []
  acqDone : Bool := false
  integ : Int := 0
  deriving DecidableEq, Repr

/-- A commit accepted and waiting for its apply instants: the staging words it copied, by address (R56). -/
abbrev Pending := List (Nat × W32)
/-- A frame or sample grid (R149, R265): its period and offset in cues, on uptime, or on time of day less shift (in 2^-40 cue:
time of day as it would stand had it not been stepped since the grid was laid down, R150). -/
structure Grid where
  per : Nat := 1
  ofs : Nat := 0
  tod : Bool := false
  shift : Int := 0
  deriving DecidableEq, Repr

/-- An alignment group's grid in force, and a move in progress (R150): the last old instant, after which the new grid of the
group's live settings runs. start is the uptime before which the grid in force has no instant but the last old one. -/
structure Group where
  grid : Grid := { per := 176400000 }
  rate : Nat := 9
  start : Nat := 0
  last : Nat := 0
  move : Option Nat := none
  deriving DecidableEq, Repr

/-- A source frame ready in the berths and not yet released (R153, R154): when it was ready, the instant of its release, its
residency, whether it is released on the group's instant, whether its start re-times the rail, and its ancillary packets (by rail of
the gang) and EDH findings (by field) as far as they are known (R94, R95), and the RTP timestamp of an IP flow's frame (R138). -/
structure ReadyFrame where
  ready : Nat
  release : Nat
  res : Nat
  onGrid : Bool
  moved : Bool := false
  anc : List (Nat × AncPkt) := []
  edh : List (Nat × Nat) := []
  ts : Nat := 0
  deriving DecidableEq, Repr

/-- A Platform beside its registers (R151 to R158): the format its rail carries as established, the last established format,
the consecutive frames that passed with hysteresis, the frames ready, whether the last release was on the group's instant,
the source's own last frame period and the instant its last frame was ready, the next start its rail expects, the held frames
left (none: until return), a change between Aligned and Unaligned decided for the first frame start at or after an uptime
(R152, R357), whether the next frame re-times the rail (R154), whether the source is compressed (R127), the ancillary packets and
EDH findings of the frame on the rail (R94, R95), the pixels of this rail's last line of each field (R158), the RTP timestamp of an
IP flow's frame, and the lines of each field released so far (R138, R158). -/
structure Plat where
  fmt : Option Fmt := none
  last : Option Fmt := none
  passes : Nat := 0
  frames : List ReadyFrame := []
  onGrid : Bool := false
  ownLen : Nat := 0
  lastReady : Nat := 0
  next : Option Nat := none
  start : Nat := 0
  holdLeft : Option Nat := none
  turn : Option (Bool × Nat) := none
  retime : Bool := false
  comp : Bool := false
  anc : List (Nat × AncPkt) := []
  edh : List (Nat × Nat) := []
  line : List (List Nat) := []
  ts : Nat := 0
  rows : Nat × Nat := (0, 0)
  deriving DecidableEq, Repr

/-- A tracked sender of a receive entry (R135 to R137): source address and SSRC, the path it was heard on, whether it is the
active sender of that path, the uptime it was last heard, and its last RTP timestamp. -/
structure Sender where
  addr : Nat
  ssrc : Nat
  pathB : Bool
  active : Bool
  heard : Nat
  ts : Nat
  deriving DecidableEq, Repr

/-- A packet kept by the merge and not yet released (R138): extended sequence number, uptime of arrival, RTP timestamp, path, RTP
payload, the run of numbers it belongs to (a change of sender starts a new one), and for a staged packet, whose payload is in DRAM,
its address and length (R140). -/
structure Kept where
  seq : Nat
  arrive : Nat
  ts : Nat
  pathB : Bool
  data : List Byte
  gen : Nat
  staged : Option (Nat × Nat) := none
  deriving DecidableEq, Repr

/-- Pixels of a picture that a released packet brought (R138, R158): the RTP timestamp of their frame, field, row, first pixel and
number. -/
structure Cover where
  ts : Nat
  field : Nat
  row : Nat
  off : Nat
  n : Nat
  deriving DecidableEq, Repr

/-- A receive entry's state (R136 to R139): state 0 Off, 1 Waiting, 2 Locking, 3 Live, 4 Lost; its senders; which paths feed
the merge; the highest extended number received; the highest number released or counted lost; the packets kept; the arrivals
of numbers for the skew measure; the largest skew in cues; the run of numbers; its eight counters; the RTP timestamp of the frame
whose packets are being released, and whether that frame has not yet been reported ready; the pixels released of the last frames; and
the place of the next packet in its staging region (R140). -/
structure RxEntry where
  st : Nat := 0
  senders : List Sender := []
  aIn : Bool := false
  bIn : Bool := false
  unref : Bool := false
  high : Option Nat := none
  done : Option Nat := none
  kept : List Kept := []
  seen : List (Nat × Nat × Bool) := []
  skew : Nat := 0
  gen : Nat := 0
  cnt : List Nat := [0, 0, 0, 0, 0, 0, 0, 0]
  frame : Option Nat := none
  fresh : Bool := false
  cover : List Cover := []
  stageAt : Nat := 0
  deriving DecidableEq, Repr

/-- One path of a transmit entry (R145): the start of the frame (for audio, the first sample) in progress or next, the next
packet of it, the RTP sequence number of its first packet, the packets it has and its timetable row (number, TRO) once one has left,
and the entry's words that serve it to its end where a commit has changed them (R134). -/
structure TxPath where
  frame : Nat := 0
  k : Nat := 0
  seq : Nat := 0
  n : Nat := 1
  row : Option (Nat × Nat) := none
  old : Option (List W32) := none
  deriving DecidableEq, Repr

/-- A transmit entry's state (R143): sending, muted, waiting for time of day; its paths; the start of the frame counted last;
its four counters; for a type 4 entry the ancillary packets of that frame which came after it began, and the payloads of the last
frames by their starts (R142). -/
structure TxEntry where
  sending : Bool := false
  muted : Bool := false
  waitTod : Bool := false
  a : TxPath := {}
  b : TxPath := {}
  frame : Option Nat := none
  cnt : List Nat := [0, 0, 0, 0]
  anc : List AncPkt := []
  bodies : List (Nat × List (List Byte)) := []
  deriving DecidableEq, Repr

/-- An entry of a port's two-step stamp queue (R121, R122). -/
structure Stamp where
  tag : Nat
  lp : Nat
  upt : Nat
  sec : Nat
  ns : Nat
  rem : Int
  tod : Bool
  deriving DecidableEq, Repr

/-- An Ethernet frame that left a port (R111, R145): the port, its bytes without FCS, and the uptime it left. -/
structure SentFrame where
  lp : Nat
  upt : Nat
  data : List Byte
  deriving DecidableEq, Repr

/-- A journal entry received and waiting for its apply time (R355): the uptime it applies at, and the decision. -/
structure Due where
  upt : Nat
  d : Decision
  deriving DecidableEq, Repr

/-- A record of the wear log (R458): type, powered hours, and what its payload names. -/
structure WearRec where
  type : Nat
  hours : Nat
  what : List Nat
  deriving DecidableEq, Repr

/-- An SDI deframer beside its registers (R87 to R102): the format established (on the base of a link group), and the structure
last established on the lane; the own count of the line in the frame being received (zero before one begins), the words per line
and SAV place of that frame, and whether every line of it had them; the structure of the last whole frame, and the frames in a row
that had it; consecutive timing references at unexpected positions, and whether a whole frame of another structure arrived; the
payload ID present, and whether it came in this frame; the uptime of the first EAV of the frame; for a group the frames in a row
without a fault, its links, and its lanes in the order of their links; the payload ID or RXF_DFLT whose attributes are in force
(sampling, colorimetry, bit depth, link assignment and transfer characteristic, R88); whether 0x030 was captured for the format;
whether the timecode set was read since it was stored; the audio groups marked asynchronous or of another rate (R99); and those that
packets of this frame, and of the last whole one, carried (R266). -/
structure Deframer where
  fmt : Option Fmt := none
  last : Option Measured := none
  line : Nat := 0
  words : Nat := 0
  sav : Nat := 0
  even : Bool := true
  seen : Option Measured := none
  run : Nat := 0
  stray : Nat := 0
  other : Bool := false
  pid : Option W32 := none
  pidNow : Bool := false
  eav : Nat := 0
  sound : Nat := 0
  width : Nat := 1
  order : List Nat := []
  attr : W32 := 0
  misSeen : Bool := false
  tcRead : Bool := true
  async : Nat := 0
  grpNow : Nat := 0
  grpLast : Nat := 0
  deriving DecidableEq, Repr

/-- An SDI formatter beside its registers (R96 to R103): the format it emits, none for none; the start of its output frame and the
length of the one before; the picture, as the lines from which each rail is shown (black where none is: the mute output, or 0xFFF);
the audio groups embedded, each with its control packet, and the samples of the frame with their instants and lines (a line past
the last is of the next frame); the ancillary packets inserted, on their lines, those that wait for the next frame with the lines
left to try, and the room left. -/
structure Formatter where
  fmt : Option Fmt := none
  start : Nat := 0
  len : Nat := 0
  video : List (Nat × Nat) := []
  groups : Nat := 0
  audio : List (Nat × Nat × List Nat) := []
  anc : List AncPkt := []
  next : List (Nat × AncPkt) := []
  room : List AncRoom := []
  deriving DecidableEq, Repr


/-- A delay line (R217, R272): the words written, newest first, and how many were; the read position; while a change is under way the old
position, the samples since the change, the crossfade length, and whether it waits for a word with z set; the samples of a
failed granule still to be held, and the last good sample (R281). -/
structure DLine where
  hist : List Nat := []
  pos : Nat := 0
  rd : Nat := 0
  old : Option Nat := none
  j : Nat := 0
  n : Nat := 0
  wait : Bool := false
  bad : Nat := 0
  good : Nat := 0
  deriving DecidableEq, Repr

/-- A Pit input (R268): samples with their stamps, not yet presented, oldest first; the word presented last; whether its
source delivers; the repeats and drops that a change of latency accounts for; and the slip of the Lead to be applied (R269). -/
structure PitIn where
  queue : List (Nat × Nat) := []
  cur : Nat := 0
  live : Bool := false
  rep : Nat := 0
  drp : Nat := 0
  lead : Option Bool := none
  deriving DecidableEq, Repr

/-- A Pit output (R271 to R279): the input selected; 0 Steady, 1 Fading, 2 Waiting; the last result; the old stream of a
crossfade as inputs with weights; samples since the take landed and the crossfade length; the input waited for, and how the
wait ended (forced or not); its pool line and delay line; the coefficient ramp; the words formed, newest first. -/
structure PitOut where
  src : Option Nat := none
  st : Nat := 0
  res : Nat := 0
  mix : List (Option Nat × Nat) := []
  j : Nat := 0
  n : Nat := 0
  want : Option Nat := none
  cut : Option Bool := none
  line : Option Nat := none
  dl : DLine := {}
  kFrom : Int := 1048576
  kTo : Int := 1048576
  kj : Nat := 0
  kn : Nat := 0
  words : List Nat := []
  deriving DecidableEq, Repr

/-- A TDM channel (R295, R297): 0 Silent, 1 Starting, 2 Ramping, 3 Running, 4 Stopping, 5 ramping out to Silent; its gain as a
fraction, and a ramp of n samples (none when n is 0) up or down, j of them done; whether it is in a gap; the last sample held,
the one before, and the samples waited for a zero crossing; the word it carries. -/
structure TdmCh where
  st : Nat := 0
  gn : Nat := 0
  gd : Nat := 1
  up : Bool := false
  j : Nat := 0
  n : Nat := 0
  gap : Bool := false
  x : Int := 0
  prev : Option Int := none
  wait : Nat := 0
  out : Nat := 0
  deriving DecidableEq, Repr

/-- A TDM port (R288 to R294): the start instant S and the anchor A0; received frames not yet presented, by position (in mode
2 by stamp); the frame of the present block, the block's stamp and whether a block was stamped; the first and last sync of the
measurement, and the frames between; whether a sync error stands captured; the uptime since which a converted port is back in
range; gated transmit words by Pit instant, newest first; the instant and words of the last transmit frame; decisions of the
Lead not yet met (kind, slots, position); and the instants at which a longer latency has the last samples presented again (R268). -/
structure TdmPort where
  s0 : Nat := 0
  a0 : Option Nat := none
  frames : List (Nat × List Nat) := []
  blk : Nat := 0
  blkStamp : Nat := 0
  blkOn : Bool := false
  mFirst : Option Nat := none
  mLast : Nat := 0
  mCount : Nat := 0
  fsBad : Bool := false
  inRange : Option Nat := none
  txHist : List (Nat × List Nat) := []
  txLast : Option Nat := none
  txWords : List Nat := []
  lead : List (Nat × Nat × Nat) := []
  rep : Nat := 0
  deriving DecidableEq, Repr

/-- A frame in a synchroniser's ring (R209, R210): its number, the instant its first line was written, the instant it was
written complete, its picture, the width of the gang it came from, whether the source was established then
(R214), its ancillary packets by rail of the gang, its EDH findings, its colorimetry, and the DRAM address of its slot in the region
of the (base) unit (R208). -/
structure SynFrame where
  num : Nat
  w : Nat
  done : Option Nat
  fmt : Fmt
  width : Nat
  good : Bool
  anc : List (Nat × AncPkt)
  edh : List (Nat × Nat) := []
  colour : Option Nat := none
  slot : Nat := 0
  deriving DecidableEq, Repr

/-- A synchroniser unit beside its registers (R209 to R218): whether it is not Off; the output group and width of a claim (none: not claimed, or a
member); the ring, newest first; the next input number; the last frame read; the picture and gang width it outputs; the first
frame number that counts after a restart, and whether the next decision goes uncounted; whether it writes; the decision made
for an output frame (its start, and the frame: none for the lossmode output); the Lead's decisions (start, frame); the
uptime of its first output frame; the frame it shows (none: black), with the lines of it that another frame or black (none) replaces,
by unit of the gang and line in its slot (R218, R219); the last frame written that began while the source was established (R214;
DEDUCED, log entry 192); and the delay of the frame read, in cues (R212). -/
structure Syn where
  on : Bool := false
  claim : Option (Nat × Nat) := none
  ring : List SynFrame := []
  next : Nat := 0
  last : Option Nat := none
  out : Option Fmt := none
  width : Nat := 1
  restart : Nat := 0
  quiet : Bool := false
  writing : Bool := false
  decided : Option (Nat × Option Nat) := none
  lead : List (Nat × Nat) := []
  first : Nat := 0
  shown : Option Nat := none
  subs : List (Nat × Nat × Option Nat) := []
  good : Option SynFrame := none
  delay : Nat := 0
  deriving DecidableEq, Repr

/-- A result in the cue sheet's FIFO (R192). -/
structure CueRes where
  tag : Nat
  outcome : Nat
  nref : Nat
  tap : Nat
  upt : Nat
  deriving DecidableEq, Repr

/-- A GPI input (R199, R200): 0 Armed, 1 Fired, 2 Re-arming, 3 Chattering; the uptime it became inactive; its last rising
edge, the short periods since, and its last edge; and whether a device that follows the Lead found a firing of its own that the Lead
has not journaled yet (R179). -/
structure Gpi where
  st : Nat := 0
  since : Nat := 0
  rise : Option Nat := none
  short : Nat := 0
  edge : Nat := 0
  own : Bool := false
  deriving DecidableEq, Repr

/-- A layer of a Proscenium as it runs (R239, R249): the size of the live source last received, and the rows that have ended on its
tap, newest first: those its slots hold and those that end after the line drawn last. -/
structure Lay where
  sw : Nat := 0
  sh : Nat := 0
  rows : List LiveRow := []
  deriving DecidableEq, Repr

/-- What a Proscenium's rail carries (R246, R247): from which uptime, the picture, the group and the colorimetry code. -/
structure ProOut where
  upt : Nat
  fmt : Fmt
  group : Nat
  cs : Nat
  deriving DecidableEq, Repr

/-- A Proscenium beside its registers (R239, R251 to R260): the start of the frame in composition; for each flip group the
fence at its last flip; the flips decided (the uptime from which, group, bank), the Lead's flips (start, group), and the groups armed
again since their flip was decided; frames started since capture was enabled; the captures not yet done or abandoned (number, frame
start, lines taken), oldest first; the invalid tiles (layer, tile) and the bad granules (layer, address) of the frame; the next line, the line
composed last, the lines of a capture block, newest first; and what the rail carries: the pictures, and the lines of the frame as
composed so far, by field and line of the field (in 4:2:2, three words for an even pixel and one for an odd one). -/
structure Pro where
  frame : Nat := 0
  fence : List Nat := [0, 0, 0, 0]
  flips : List (Nat × Nat × Nat) := []
  lead : List (Nat × Nat) := []
  rearm : List Nat := []
  capFrames : Nat := 0
  caps : List (Nat × Nat × Nat) := []
  tiles : List (Nat × Nat) := []
  gone : List (Nat × Nat) := []
  lineNo : Nat := 0
  line : List (Nat × Nat × Nat × Nat) := []
  rows : List (List (Nat × Nat × Nat × Nat)) := []
  shown : List ProOut := []
  rail : List (Nat × Nat × List (List Nat)) := []
  deriving DecidableEq, Repr


/-- A request in a DRAM channel, or waiting for it (R376, R377): its place in the order of issue, requester, byte address,
operation, the uptime it came, transient errors met by a merge, and, once its read command is issued, the retirement state then,
the granule's bytes and the error patterns of its codewords; whether a scrub's write-back is dropped, and whether its data is
discarded (R418). -/
structure DReq where
  seq : Nat
  req : Nat
  addr : Nat
  op : DramOp
  upt : Nat
  noise : List (Nat × Nat) := []
  issued : Option (Nat × List Byte × List Nat) := none
  drop : Bool := false
  discard : Bool := false
  deriving DecidableEq, Repr

/-- The completion of a DRAM request that waits for earlier requests of its requester (R377): the request's number, the requester, and
the answer. -/
structure DAck where
  seq : Nat
  req : Nat
  kind : RespKind
  data : List Byte
  deriving DecidableEq, Repr

/-- A DRAM bank: its open row, whether no column command has followed its activate, the uptime of its last column command,
the row that a starved request needs (R379), and its row-disturb table of rows and counts (R380). -/
structure DBank where
  row : Option Nat := none
  fresh : Bool := false
  used : Nat := 0
  want : Option Nat := none
  tab : List (Nat × Nat) := []
  deriving DecidableEq, Repr

/-- An armed flip (R406): requester, codeword, and the pattern (none: poison). -/
structure DFlip where
  req : Nat
  cw : Nat
  mask : Option Nat
  deriving DecidableEq, Repr

/-- A DRAM channel beside its registers (R376 to R400): requests in flight in order of arrival, and requests waiting at their
requester; the bank pointer and the bank served last; refreshes issued ahead; when the present refresh interval began (in 0.01
cue), the intervals since the last window boundary; the uptimes of the last temperature poll, tracking pass and scrub read; the
repair in progress (device, bank group, bank, row); the armed flip; the device that a stored record had retired before training (15:
none). -/
structure DChan where
  reqs : List DReq := []
  waits : List DReq := []
  ptr : Nat := 0
  served : Nat := 31
  early : Nat := 0
  refFrom : Nat := 0
  ivals : Nat := 0
  poll : Nat := 0
  track : Nat := 0
  scrubAt : Nat := 0
  ppr : Option (Nat × Nat × Nat × Nat) := none
  flip : Option DFlip := none
  stored : Nat := 15
  deriving DecidableEq, Repr

/-- A request of a Catwalk master held at the matrix (R418). -/
structure CatReq where
  req : Nat
  addr : Nat
  op : DramOp
  noise : List (Nat × Nat)
  issue : Nat
  deriving DecidableEq, Repr

/-- An image slot's trailer (R479): state (0 Empty, 1 Fresh, 2 Trial, 3 Good, 4 Bad) and sequence number. -/
structure Slot where
  st : Nat := 0
  seq : Nat := 0
  deriving DecidableEq, Repr

/-- Field update beside its registers (R481 to R493): a word waits in UPD_CMD; the slot of each class that runs, none for none;
the class and slot scheduled or in trial, and the slot that ran before; the target in cues of time of day; whether the pause is
the restart on the old image; a class C trial that waits for the Crew's release; the settings bank in force with its sequence,
and the bank kept until the trial is over. -/
structure Upd where
  waiting : Bool := false
  run : Store (Option Nat) := []
  cls : Nat := 0
  slot : Nat := 0
  old : Option Nat := none
  target : Nat := 0
  back : Bool := false
  held : Bool := false
  setBank : Option Nat := none
  setSeq : Nat := 0
  setKeep : Option Nat := none
  deriving DecidableEq, Repr

/-- A signature wait of a destination's frame (R366, R367): destination, frame number, the uptime at which the twin's counts as
none (zero while the own frame has not ended), the own signature (none: not yet; none within: none), and the twin's. -/
structure SigWait where
  dest : Nat
  frame : Nat
  due : Nat
  own : Option (Option W32)
  twin : Option W32
  deriving DecidableEq, Repr

/-- What a destination's comparisons came to (R367 to R369): the frame compared last, consecutive mismatches and matches, the
uptime at which the mismatch began, and that of the last path check. -/
structure SigRun where
  last : Option Nat := none
  bad : Nat := 0
  good : Nat := 0
  since : Nat := 0
  check : Option Nat := none
  deriving DecidableEq, Repr

/-- A path check under way (R368, R369): destination, first frame, the own result and the twin's (pass, input differs), and the
uptime at which the twin's is taken as a pass (zero while the own is open). -/
structure PathCheck where
  dest : Nat
  frame : Nat
  own : Option (Bool × Bool)
  twin : Option (Bool × Bool)
  due : Nat
  deriving DecidableEq, Repr

/-- The pair beside its registers (R347 to R369). Claims: the highest epoch seen; the uptime since which no rank-2 claim has been
seen in Forming; bursts bad and missing in a row, the start of the burst heard last, and the rail instant found missing last;
the burst sent (its start and bits), the end of it, and whether a change of claim asks for one; frames of agreement, the
instant counted last, and whether a mismatch was found since (R350). Heartbeats: the uptime of the last valid one, the launch
time of the own last one and of the twin's last one with its receive time, in 2^-30 cue, the twin's role and whether its time
is valid (R360). Messages: the next sequence expected, whether a retransmit is asked for, and the sequences replayed last
(R354). State transfer: whether it was sent to the twin, what has been received, the cut, whether it is complete, and the
Lead's writes held until the cut (R359). Signatures, divergences and path checks. A swap: its
target uptime and when it was asked for, and W (R365). Snapshots: the uptime the last copy began, its sequence, the time of day of the copy under way, and the bank passed to
the Crew (R364). -/
structure Pair where
  epoch : Nat := 0
  quietFrom : Nat := 0
  bad : Nat := 0
  missed : Nat := 0
  heard : Option Nat := none
  missAt : Nat := 0
  burst : Option (Nat × BitVec 48) := none
  burstEnd : Nat := 0
  burstWant : Bool := false
  settle : Nat := 0
  settleAt : Nat := 0
  settleBad : Bool := false
  lastHb : Nat := 0
  hbSent : Nat := 0
  hbTwin : Option (Nat × Nat) := none
  twinRole : Nat := 0
  twinTod : Bool := false
  rxSeq : Nat := 0
  asked : Bool := false
  replayed : List Nat := []
  xferSent : Bool := false
  items : List XferItem := []
  cutAt : Option Nat := none
  done : Bool := false
  writes : List Decision := []
  sigs : List SigWait := []
  runs : Store SigRun := []
  divs : List Nat := []
  checks : List PathCheck := []
  swapTo : Option Nat := none
  swapFrom : Nat := 0
  swapAt : Option Nat := none
  snapFrom : Nat := 0
  snapSeq : Nat := 0
  snapBusy : Option Nat := none
  snapCrc : W32 := 0
  crewBank : Option Nat := none
  deriving DecidableEq, Repr

/-- An entry of the beacon stamp queue (R339). -/
structure Beacon where
  upt : Nat
  sec : Nat
  cos : Nat
  qual : Nat
  flags : Nat
  cyc : Nat
  deriving DecidableEq, Repr

/-- A frame on the Call Bus (R342): slot, start, its bytes from header to CRC, and the ring index it came from, if any. -/
structure CallFrame where
  slot : Nat
  start : Nat
  bytes : List Byte
  idx : Option Nat
  deriving DecidableEq, Repr

/-- The Call Bus MAC beside its registers (R335 to R344): the stamp of the last valid beacon, if any; the end of the last silent
period counted; the cycle start taken last; the own grid of a master; the count of frames sent; the frame being sent, and the last one that left; the
claims heard in each group with their uptimes; the beacon stamp queue. -/
structure CallBus where
  base : Option Nat := none
  silentAt : Nat := 0
  cycleAt : Option Nat := none
  grid : Group := { grid := { per := 2646000 } }
  seq : Nat := 0
  sending : Option CallFrame := none
  sent : Option CallFrame := none
  claims : Store (List (Nat × W32)) := []
  bsq : List Beacon := []
  deriving DecidableEq, Repr

/-- The state. regs holds every register as software sees it (the staging copy of a staged field, R56), live the live copy
of staged fields; an address not listed holds its reset value. mregs holds the registers and read latches that are kept for
each master on its own (R39, R122, R189), at master × 0x400_0000 + BAR0 address. -/
structure State where
  pending : List Instr := []
  /-- Held in reset: RESET_N is low, or OSC54 stands still (R500). -/
  low : Bool := false
  /-- The start-up sequence has run since reset rose (R463). -/
  booted : Bool := false
  /-- Uptime in cues (R23). -/
  upt : BitVec 64 := 0
  /-- The cue PLL has locked since reset, so uptime counts (R23). -/
  cueRun : Bool := false
  /-- The timing unit runs from the OSC54 bypass clock (R30). -/
  cueByp : Bool := false
  regs : Store W32 := []
  live : Store W32 := []
  mregs : Store W32 := []
  /-- Commits accepted and not fully applied, by page (R56). -/
  commits : Store (Option Pending) := []
  /-- The commit of a page accepted last arms it when it is applied: nothing has disarmed the page since (R56, R61). -/
  arms : Store Bool := []
  /-- Stored registers found without odd parity by a pass, by BAR0 address, live copies at 0x400_0000 beyond (R63). -/
  lostParity : List Nat := []
  /-- IRQ_STAT bits set by IRQ_FORCE and still standing, by page (R428). -/
  forced : Store W32 := []
  /-- The answer of the last access. -/
  resp : Option Resp := none
  /-- The number of the next free value (a field of the model, not of the spec: log entry 3). -/
  free : Nat := 0
  /-- Fault pins and service pin as driven (R429, R434). -/
  fltT : Bool := true
  fltC : Bool := false
  /-- A device-wide snapshot asked for by now or a late arm, with the uptime of the request, and the armed one (R54, R55). -/
  snapNow : Option Nat := none
  snapArmed : Bool := false
  snapPages : Bool := false
  snapT : Nat := 0
  tod : Tod := {}
  rxl : Store RxLane := []
  txl : Store TxLane := []
  rot : Store Rot := []
  pll : Store Pll := []
  refIn : Store RefIn := []
  refSel : RefSel := {}
  groups : Store Group := []
  plat : Store Plat := []
  /-- The flow tables: live and staging copies, one word each, at entry × 16 + word (R126, R131). -/
  rxTab : Store W32 := []
  rxStage : Store W32 := []
  rxPend : Option (Store W32) := none
  txTab : Store W32 := []
  txStage : Store W32 := []
  txPend : Option (Store W32) := none
  rxEnt : Store RxEntry := []
  txEnt : Store TxEntry := []
  /-- Entries stored since the last commit of their table. -/
  rxStored : List Nat := []
  txStored : List Nat := []
  /-- The stamp queue of each port, oldest first (R121). -/
  tsq : Store (List Stamp) := []
  /-- Transmit ring indices of each port sent ahead of its consumer index (R117). -/
  txAhead : Store (List Nat) := []
  /-- The last frame each logical port sent. -/
  sent : Store (Option SentFrame) := []
  /-- DRAM as written: bytes by device address; a byte not listed reads zero, as the power-on fill leaves it (R404). -/
  dram : List Host.Cell := []
  /-- The Twin Link: messages sent and kept for replay, newest first (R354), the next sequence to send, and the journal
  entries received and not yet applied (R355). -/
  twinOut : List TwinMsg := []
  twinSeq : Nat := 0
  journalIn : List Due := []
  /-- The repair area of the wear log, oldest first (R458), and the units retired since power-on, class × 65,536 + unit (R447). -/
  repairs : List WearRec := []
  retired : List Nat := []
  /-- A class M activation is in progress (R448), and the destinations under a path check (R368). -/
  classM : Bool := false
  checking : List Nat := []
  defr : Store Deframer := []
  fmtr : Store Formatter := []
  /-- The Pit: inputs, outputs, takes waiting in the order armed, the sample grid (R264), the tables (R283: output o at 2o, rail
  map entry e at 131,072 + e), and the delay lines of the synchronisers, 32 for each unit (R280). -/
  pitIn : Store PitIn := []
  pitOut : Store PitOut := []
  pitTakes : List PitTake := []
  pitGrid : Group := { grid := { per := 220500 } }
  /-- The Pit instant formed last. -/
  pitLast : Nat := 0
  pitTab : Store W32 := []
  pitStage : Store W32 := []
  pitPend : Option (Store W32) := none
  synLine : Store DLine := []
  /-- TDM ports and their channels, at port × 64 + slot for receive and 32 more for transmit; the mask of a pending trigger. -/
  tdm : Store TdmPort := []
  tdmCh : Store TdmCh := []
  tdmMask : Nat := 0
  syn : Store Syn := []
  /-- The Turntable: the rail each tap selects, the takes armed at each tap in the order armed, salvo memory, the cue sheet in
  submission order, dispatched salvos, the next salvo number, results oldest first, and the GPI inputs. -/
  tapSel : Store Nat := []
  armed : Store (List Take) := []
  salvoMem : Store W32 := []
  sheet : List CueEnt := []
  salvos : List Salvo := []
  salvoSeq : Nat := 0
  /-- The number of takes armed so far, at taps and at the Pit. -/
  armSeq : Nat := 0
  results : List CueRes := []
  gpi : Store Gpi := []
  /-- Prosceniums, their layers (8p + l), and their coefficient sets 1 to 3: live and staging words. -/
  pro : Store Pro := []
  lay : Store Lay := []
  coef : Store W32 := []
  coefStage : Store W32 := []
  coefPend : Option (Store W32) := none
  /-- DRAM channels and their banks (32 × channel + bank); the number of requests made and the completions that wait for
  earlier ones of their requester (R377); the error pattern of each stored
  codeword, at granule × 8 + codeword: its 160 bits differ from the encoding of the data in dram, with 2^160 added where it is
  poisoned (R405). -/
  dch : Store DChan := []
  dbank : Store DBank := []
  dseq : Nat := 0
  acks : List DAck := []
  derr : Store Nat := []
  /-- SRAM: the armed flip (macro, mask), the error pattern of words at macro × 2^32 + index, and the volatile repairs in effect,
  oldest first (R403, R407). -/
  sflip : Option (Nat × Nat) := none
  serr : Store Nat := []
  spares : List W32 := []
  /-- Requests of masters in a drain, held at the matrix, oldest first (R418). -/
  catHeld : List CatReq := []
  /-- The Crew SRAM (R413); a byte not listed reads zero, as the power-on fill leaves it. -/
  crewSram : List Host.Cell := []
  /-- The last write sent to host memory through the PCIe outbound range: host address and bytes (R413). -/
  pcieOut : Option (Nat × List Byte) := none
  /-- INT_ROUTE of every line (R421), the lines seen high, the masked and the pending MSI-X vectors, and the messages each
  vector has sent. -/
  routes : Store W32 := []
  lines : Store Bool := []
  msixMask : BitVec 64 := BitVec.allOnes 64
  msixPend : BitVec 64 := 0
  msi : Store Nat := []
  /-- Transmit lanes that a fault has put to sleep (R430). -/
  sdiSlept : List Nat := []
  /-- Destinations whose path check this device failed (R351). -/
  pathFailed : List Nat := []
  /-- Die-to-die links, by tile × 2 + direction: consecutive checks each wire has erred in (× 1,000 + wire), and the wires lost by
  each group (× 20 + group; 4: taken out). -/
  wireErr : Store Nat := []
  wireLost : Store Nat := []
  /-- The field region of the fuse map, oldest entry first (R403, R453), and the entry being programmed. -/
  fuses : List W32 := []
  fuseNow : Option W32 := none
  /-- Consecutive evaluations with the margin above AVS_MARG.hi (R455). -/
  avsHigh : Nat := 0
  /-- Consecutive temperature readings of each sensor against its present state, and whether each limit has been crossed and is
  not yet re-armed (R457). -/
  tmpCnt : Store Nat := []
  tmpWarm : Bool := false
  tmpHot : Bool := false
  /-- The hours ring of the wear log (R458, R459): the highest powered hours recorded, the sector written (from 16), and the
  records in it. -/
  hourTop : Nat := 0
  hourSector : Nat := 16
  hourRecs : Nat := 0
  /-- The flash (R462), as far as images and settings go: bytes by offset; a byte not listed is erased and reads 0xFF. The
  trailers of the slots, at class × 2 + slot. -/
  flash : List Host.Cell := []
  slots : Store Slot := []
  upd : Upd := {}
  /-- Lifecycle fuses (R471): whether the present state's wiped bit is blown, and the OEM key hash once fused. -/
  lcyWiped : Bool := true
  oemHash : Option (List Byte) := none
  /-- The pair, and for each page the uptime from which its accepted commit may apply (R357). -/
  pair : Pair := {}
  commitFrom : Store Nat := []
  call : CallBus := {}
  /-- Writes of the hardware to PRO_FENCE that a software write met and discarded, to be made again at the next TICK (R262). -/
  again : List (Nat × W32) := []
  /-- The pages of the device-wide commit accepted last (R57). -/
  joined : List Nat := []
  /-- MODEL: the uptime plus one at which each periodic evaluation last ran, by number, so that one instant is evaluated once. -/
  acted : List (Nat × Nat) := []
  deriving DecidableEq, Repr

/-- The block right after reset (R463, R468): every register at its reset value, no memory listed, no command waiting, the
start-up sequence not yet run. -/
def State.reset : State := {}

end Sys2Proof.Machine
end

