-- ==== Sys2Proof/Machine/Ops.lean ====
section
/-!
DEFINITION. The named operations over the state: register words and fields, counters, interrupt bits, the first-error capture,
uptime and time of day, and the answer to an access. Every meaning goes through them.
-/
namespace Sys2Proof.Machine

/-- What a meaning answers. -/
abbrev Out := Host.Outcome State Fault Refusal

/-- Cues in a second (R20), a TICK (R23), and in 1 ms, 1 µs. -/
def cueSec : Nat := 10584000000
def cueMs : Nat := 10584000
def cueUs : Nat := 10584

/-! ### Register words and fields -/

/-- The stored word of a register: for a staged field, its staging copy. -/
def State.word (s : State) (a : Nat) : W32 := Store.get resetAt s.regs a

def State.setWord (s : State) (a : Nat) (v : W32) : State := { s with regs := Store.put resetAt a v s.regs }

/-- The word of a register with the live copy of its staged fields. -/
def State.lword (s : State) (a : Nat) : W32 := Store.get resetAt s.live a

def State.setLword (s : State) (a : Nat) (v : W32) : State := { s with live := Store.put resetAt a v s.live }

/-- The value of repetition i of a field of the page at p. -/
def State.fld (s : State) (p : Nat) (f : Fld) (i : Nat := 0) : Nat := getBits (s.word (p + f.at i)) f.lo f.w

def State.setFld (s : State) (p : Nat) (f : Fld) (v : Nat) (i : Nat := 0) : State :=
  s.setWord (p + f.at i) (setBits (s.word (p + f.at i)) f.lo f.w v)

/-- A one-bit field as a truth value. -/
def State.bit (s : State) (p : Nat) (f : Fld) (i : Nat := 0) : Bool := s.fld p f i != 0

def State.setBit (s : State) (p : Nat) (f : Fld) (v : Bool) (i : Nat := 0) : State := s.setFld p f v.toNat i

/-- The live value of a field: the value the block runs on (R56). A field that is not staged has one copy only. -/
def State.lv (s : State) (p : Nat) (f : Fld) (i : Nat := 0) : Nat :=
  if f.cls = .staged then getBits (s.lword (p + f.at i)) f.lo f.w else s.fld p f i

def State.lbit (s : State) (p : Nat) (f : Fld) (i : Nat := 0) : Bool := s.lv p f i != 0

/-- Signed readings of a field. -/
def State.fldS (s : State) (p : Nat) (f : Fld) (i : Nat := 0) : Int := toSigned f.w (s.fld p f i)
def State.lvS (s : State) (p : Nat) (f : Fld) (i : Nat := 0) : Int := toSigned f.w (s.lv p f i)

/-- A low and high pair of fields as one number. -/
def State.fld64 (s : State) (p : Nat) (lo hi : Fld) (i : Nat := 0) : Nat := s.fld p hi i * 2 ^ 32 + s.fld p lo i * 2 ^ lo.lo
def State.lv64 (s : State) (p : Nat) (lo hi : Fld) (i : Nat := 0) : Nat := s.lv p hi i * 2 ^ 32 + s.lv p lo i * 2 ^ lo.lo

def State.setFld64 (s : State) (p : Nat) (lo hi : Fld) (v : Nat) (i : Nat := 0) : State :=
  (s.setFld p lo (v % 2 ^ 32) i).setFld p hi (v / 2 ^ 32) i

/-- Counts n more events in a counter. Past all ones the spec gives no value (log entry 4). -/
def State.bump (s : State) (p : Nat) (f : Fld) (n : Nat := 1) (i : Nat := 0) : State :=
  let v := s.fld p f i + n
  s.setFld p f (if v < 2 ^ 32 then v else (Config.counterPast v).toNat) i

/-- Counts n more events in a 64-bit statistics counter, which saturates (R124). -/
def State.bump64 (s : State) (p : Nat) (lo hi : Fld) (n : Nat := 1) : State :=
  s.setFld64 p lo hi (min (s.fld64 p lo hi + n) (2 ^ 64 - 1))

/-- Raises an interrupt source of a page: its bit of IRQ_STAT (R46). -/
def State.irq (s : State) (p b : Nat) : State := s.setWord (p + 0x10) (s.word (p + 0x10) ||| (1 <<< b))

/-- Runs a change only if a condition holds. -/
def State.when (s : State) (c : Bool) (f : State → State) : State := if c then f s else s

/-- A fresh free value: the counter numbers it (log entry 3). -/
def State.free64 (s : State) : BitVec 64 := Config.freeWord s.free

def State.fresh (s : State) : State := { s with free := s.free + 1 }

/-! ### First-error capture (R424 to R426) -/

/-- An error reported to a page: it counts in FERR_COUNT, which saturates; it fills an empty capture and raises IRQ ferr, or
sets multiple on a held one. -/
def State.capture (s : State) (p code access master addr : Nat) : State :=
  let s := s.setFld p FERR_COUNT_n (min (s.fld p FERR_COUNT_n + 1) (2 ^ 32 - 1))
  if s.bit p FERR_INFO_valid then s.setBit p FERR_INFO_multiple true
  else
    let s := s.setWord (p + 0x1C)
      (setBits (setBits (setBits (setBits 0 31 1 1) 16 8 master) 12 4 access) 0 12 code)
    let s := s.setFld64 p FERR_ADDR_lo FERR_ADDR_hi addr
    let s := s.setFld64 p FERR_TIME_lo FERR_TIME_hi s.upt.toNat
    s.irq p 30

/-- Access types of FERR_INFO.access (R45). -/
def accRead : Nat := 0
def accWrite : Nat := 1
def accMediaRead : Nat := 4
def accMediaWrite : Nat := 5
def accScrub : Nat := 6
def accFill : Nat := 7

/-- An error of the block itself, for which the rule gives no master, and an access type and address only where stated: what
is not stated is free (log entry 5). -/
def State.err (s : State) (p code : Nat) (access addr : Option Nat := none) : State :=
  let v := s.free64.toNat
  (s.capture p code (access.getD (v % 16)) (v / 16 % 256) (addr.getD (v / 2 ^ 12))).fresh

/-- An error of an access that a master makes to a register. -/
def State.accErr (s : State) (p code : Nat) (a : Acc) (access addr : Nat) : State := s.capture p code access a.m addr

/-! ### Units beside their registers -/

def State.rx (s : State) (L : Nat) : RxLane := Store.get (fun _ => {}) s.rxl L
def State.setRx (s : State) (L : Nat) (v : RxLane) : State := { s with rxl := Store.put (fun _ => {}) L v s.rxl }
def State.tx (s : State) (L : Nat) : TxLane := Store.get (fun _ => {}) s.txl L
def State.setTx (s : State) (L : Nat) (v : TxLane) : State := { s with txl := Store.put (fun _ => {}) L v s.txl }
def State.pl (s : State) (n : Nat) : Pll := Store.get (fun _ => {}) s.pll n
def State.setPl (s : State) (n : Nat) (v : Pll) : State := { s with pll := Store.put (fun _ => {}) n v s.pll }
def State.ri (s : State) (i : Nat) : RefIn := Store.get (fun _ => {}) s.refIn i
def State.setRi (s : State) (i : Nat) (v : RefIn) : State := { s with refIn := Store.put (fun _ => {}) i v s.refIn }
/-- Rotation of class c, group g (groups are used by classes 0 and 1 only, R442). -/
def State.ro (s : State) (c g : Nat) : Rot := Store.get (fun _ => {}) s.rot (c * 64 + g)
def State.setRo (s : State) (c g : Nat) (v : Rot) : State := { s with rot := Store.put (fun _ => {}) (c * 64 + g) v s.rot }

/-! ### Uptime and time of day -/

/-- Uptime as a number. -/
def State.now (s : State) : Nat := s.upt.toNat

/-- Cues by which uptime advances at a TICK: 16, or 196 on the bypass clock (R23, R30). -/
def State.tickLen (s : State) : Nat := if s.cueByp then 196 else 16

/-- An instant of period P lies in the present TICK. -/
def State.onMultiple (s : State) (P : Nat) : Bool :=
  P != 0 && s.now % P < s.tickLen

/-- Periodic evaluation k acts: an instant of its period lies in the present TICK and it has not acted at this TICK yet. -/
def State.due (s : State) (k P : Nat) : Bool :=
  s.onMultiple P && Store.get (fun _ => 0) s.acted k != s.now + 1

/-- Periodic evaluation k, at its instants only. -/
def State.periodic (s : State) (k P : Nat) (f : State → State) : State :=
  if s.due k P then f { s with acted := Store.put (fun _ => 0) k (s.now + 1) s.acted } else s

/-- Time of day as one number, in units of 2^-40 cue since the epoch (R25). -/
def Tod.total (t : Tod) : Nat := (t.sec.toNat * cueSec + t.cos.toNat) * 2 ^ 40 + t.frac.toNat

/-- Time of day of a total. -/
def Tod.put (t : Tod) (tot : Nat) : Tod :=
  { t with sec := BitVec.ofNat 48 (tot / 2 ^ 40 / cueSec), cos := BitVec.ofNat 34 (tot / 2 ^ 40 % cueSec),
           frac := BitVec.ofNat 40 (tot % 2 ^ 40) }

/-- Time of day is Held (R27). -/
def State.held (s : State) : Bool := s.bit pgCue CUE_TOD_CTL_valid

/-- The increment for each TICK in 2^-40 cue (R26): the increment registers. -/
def State.inc (s : State) : Nat :=
  s.fld pgCue CUE_TOD_INCH_int * 2 ^ 40 + s.fld pgCue CUE_TOD_INCH_frac * 2 ^ 32 + s.fld pgCue CUE_TOD_INCL_frac

/-- Time of day at uptime u, in 2^-40 cue, by the span that holds it (R303): none when u lies before every span kept. -/
def Tod.at (t : Tod) (u : Nat) : Option Int :=
  match t.log.find? (fun e => e.upt ≤ u) with
  | none => none
  | some e => some (e.tot + ((u - e.upt) * e.inc / 16 : Nat))

/-- Opens a new span at the present uptime and drops the spans that ended more than a second ago (R303). -/
def State.logTod (s : State) : State :=
  let e : TodSpan := { upt := s.now, tot := s.tod.total, inc := s.inc }
  let keep := s.tod.log.takeWhile (fun x => s.now < x.upt + cueSec)
  let tail := (s.tod.log.dropWhile (fun x => s.now < x.upt + cueSec)).take 1
  { s with tod := { s.tod with log := e :: (keep ++ tail) } }

/-- Time of day in whole cues. -/
def State.todCues (s : State) : Nat := s.tod.total / 2 ^ 40

/-! ### Answers and the gate of reset -/

/-- The answer of an access to the master that made it. -/
def State.answer (s : State) (m : Nat) (k : RespKind) (data : List Byte) : State := { s with resp := some ⟨m, k, data⟩ }

/-- The bytes of a word, least significant first. -/
def bytesOf (w : W32) : List Byte := [w.extractLsb' 0 8, w.extractLsb' 8 8, w.extractLsb' 16 8, w.extractLsb' 24 8]

/-- The bytes of a number, least significant first. -/
def bytesLE : Nat → Nat → List Byte
  | 0, _ => []
  | n + 1, v => BitVec.ofNat 8 v :: bytesLE n (v / 256)

/-- The number spelled by bytes, least significant first. -/
def ofBytesLE : List Byte → Nat
  | [] => 0
  | b :: t => b.toNat + 256 * ofBytesLE t

def State.answerWord (s : State) (m : Nat) (w : W32) : State := s.answer m .ok (bytesOf w)

/-- The meaning of a command as a change of state. A device held in reset takes no command (R500). -/
def run (s : State) (f : State → State) : Out := .next (if s.low then s else f s)

/-! ### Masters, guards and paths (R50, R51, R414) -/

def smMaster : Nat := 0x00
def hostMaster : Nat := 0x08
def twinMaster : Nat := 0x18
def callMaster : Nat := 0x19
def debugMaster : Nat := 0x1F

/-- Debug is open (R476). -/
def State.debugOpen (s : State) : Bool := s.bit pgLcy LCY_STATE_debug

/-- The access is privileged (R51). -/
def State.privileged (s : State) (a : Acc) : Bool :=
  if a.m = 0x00 then true
  else if a.m ≤ 0x05 then a.sup
  else if a.m = 0x08 then true
  else if 0x10 ≤ a.m ∧ a.m ≤ 0x13 then s.bit (pgDma (a.m - 0x10)) DMA_STAT_priv
  else if a.m = 0x18 then a.sup
  else if a.m = 0x1F then s.debugOpen
  else false

/-- The access is admitted to a field of a guard (R50, R51). -/
def State.admits (s : State) (a : Acc) : Guard → Bool
  | .any => true
  | .sec => a.m == 0x00
  | .prv => s.privileged a

/-- The master has a path to the register window (R414). -/
def regPath (a : Acc) : Bool :=
  a.m ≤ 0x05 || a.m == 0x08 || (0x10 ≤ a.m && a.m ≤ 0x13) || a.m == 0x18 || a.m == 0x1F

/-- The master issues: the debug port does so only while debug is open (R476). -/
def State.issues (s : State) (m : Nat) : Bool := m != debugMaster || s.debugOpen

/-- An access on a missing path (R414): it completes at once; a read gets a bus error, a write is discarded. -/
def State.noPath (s : State) (a : Acc) (isWrite : Bool) (addr : Nat) : State :=
  let s := ((s.bump pgCat CAT_NOPATH_n).irq pgCat IRQ_cat_nopath).capture pgCat 0x140 (if isWrite then accWrite else accRead) a.m addr
  s.answer a.m (if isWrite then .ok else .busError) []

/-! ### Pair role (R350, R356) -/

def roleSolo : Nat := 0
def roleForming : Nat := 1
def roleJoining : Nat := 2
def roleUnderstudy : Nat := 3
def roleLead : Nat := 4
def roleYielded : Nat := 5

def State.role (s : State) : Nat := s.fld pgPair PAIR_STAT_role

/-- The page belongs to the mirrored state of a pair (R356). -/
def PageKind.mirrored : PageKind → Bool
  | .flr | .flt | .tap | .fmt | .ttCtl | .ttCue | .ttSm | .ttTcnt | .ttTcls | .ttGpio | .quad | .defr | .synCtl | .synQuad
  | .proRas | .proLay | .proBlend | .proGroup | .pitCtl | .pitWin | .pitTake | .tdm | .tdmTrig | .pool => true
  | _ => false

/-- A write to a mirrored page is refused: the device is in Joining, Understudy or Yielded and the master is not the Twin Link
agent (R356). -/
def State.mirrorRefuses (s : State) (a : Acc) (k : PageKind) : Bool :=
  k.mirrored && (s.role == roleJoining || s.role == roleUnderstudy || s.role == roleYielded) && a.m != twinMaster

/-! ### The journal, as it leaves (R354, R355) -/

/-- Time of day at uptime u, in 2^-40 cue, running on from now at the present increment (R26). -/
def State.todAt (s : State) (u : Nat) : Int := s.tod.total + ((u : Int) - s.now) * s.inc / 16

/-- Sends a message over the Twin Link: it takes the next sequence number and is kept for replay with the last 4,096. -/
def State.twinSend (s : State) (b : TwinBody) : State :=
  { s with twinOut := (⟨s.twinSeq % 2 ^ 32, b⟩ :: s.twinOut).take 4096, twinSeq := s.twinSeq + 1 }

/-- Own claim (R347). -/
def State.claim (s : State) : W32 := s.word (pgPair + PAIR_CLAIM_own.off)

/-- Time of day at an uptime, in whole cues. -/
def State.todCuesAt (s : State) (u : Nat) : Nat := (s.todAt u / 2 ^ 40).toNat

/-- The pins signal a fault (R429), as pin_test does (R433). -/
def State.faulted (s : State) : Bool := s.fltT || s.bit pgDev DEV_FLT_CTL_pin_test

/-- The Lead journals a decision with its apply instant (R355); other roles journal nothing, nor does a device whose pins signal
a fault (R430). -/
def State.journal (s : State) (at_ : Nat) (d : Decision) : State :=
  if s.role = roleLead ∧ !s.fltT then s.twinSend (.journal s.claim (s.todCuesAt at_) d) else s

/-! ### Register access, one word (R42 to R52, R61, R63, R356) -/

/-- The register takes part in parity mode: it holds configuration (R63). -/
def cfgReg (k : PageKind) (o : Nat) : Bool := 0x100 ≤ o && (fieldsAt k o).any (fun f => f.cls != .ctl)

/-- Parity mode is on: PAGE_CTL.parity on a page that supports it (R63, R64). -/
def State.parityOn (s : State) (p : Nat) (k : PageKind) : Bool := k.parity && s.bit p PAGE_CTL_parity

/-- The word holds an odd number of ones. -/
def oddOnes (w : W32) : Bool := ((List.range 32).countP (fun i => w.getLsbD i)) % 2 == 1

/-- The word with bit 31 set so that the count of ones is odd (R63). -/
def oddWord (w : W32) : W32 :=
  let v := setBits w 31 1 0
  if oddOnes v then v else setBits v 31 1 1

/-- The fields of a page whose every field is read-only: the swings' slots (R221, R243). -/
def readOnlyPage (k : PageKind) (i : Nat) : Bool :=
  (k == .synQuad && 64 ≤ i) || ((k == .proRas || k == .proLay || k == .proBlend) && 32 ≤ i)

/-- A register the instance does not have (reserved: R49, R315): the PTP fields of an input other than 4 and 5. -/
def reservedReg (k : PageKind) (i o : Nat) : Bool := k == .refIn && 0x180 ≤ o && o < 0x19C && i != 4 && i != 5

/-- The guard of a field on its page: every field of the mailbox is SEC (R40). -/
def guardOf (k : PageKind) (f : Fld) : Guard := if k = .mail then .sec else f.guard

/-- The bits of a register that this access may write: writable fields whose guard admits it. -/
def State.writeMask (s : State) (a : Acc) (k : PageKind) (i o : Nat) : W32 :=
  if readOnlyPage k i || reservedReg k i o then 0
  else (fieldsAt k o).foldl (fun m f =>
    if f.code != .ro && f.code != .rc && s.admits a (guardOf k f) then m ||| f.mask else m) 0

/-- The word a write leaves: plain fields take the bits written, write-one-to-clear bits clear, request bits store nothing. hw
is what the hardware sets in the same cycle (R52): a status bit it sets stays set. -/
def State.written (s : State) (a : Acc) (k : PageKind) (i o : Nat) (old w hw : W32) : W32 :=
  if readOnlyPage k i || reservedReg k i o then old
  else (fieldsAt k o).foldl (fun x f =>
    if s.admits a (guardOf k f) then
      match f.code with
      | .rw | .rwh => (x &&& ~~~f.mask) ||| (w &&& f.mask)
      | .w1c => (x &&& ~~~(w &&& f.mask)) ||| (hw &&& f.mask)
      | _ => x
    else x) old

/-- The guard code an access earns (R50, R51): none where every field admits it, or where the register mixes guarded and
unguarded fields and the write carries no 1 in a bit it may not write. -/
def State.guardError (s : State) (a : Acc) (k : PageKind) (o : Nat) (w : W32) : Option Nat :=
  let bad := (fieldsAt k o).filter (fun f => !s.admits a (guardOf k f))
  let hit := if (fieldsAt k o).any (fun f => guardOf k f == .any) then bad.filter (fun f => w &&& f.mask != 0) else bad
  if hit.isEmpty then none else if hit.any (fun f => guardOf k f == .sec) then some 0xF01 else some 0xF02

/-- What a word write came to: the state after it, whether the register was reached, what it held before, and the bits
written that the access was admitted to. -/
structure Written where
  s : State
  ok : Bool
  old : W32
  eff : W32

/-- The page disarms until the next accepted commit: one accepted before, and not yet applied, no longer arms it (R61). -/
def State.disarm (s : State) (p : Nat) : State :=
  { s.setBit p PAGE_STAT_armed false with arms := Store.put (fun _ => false) p false s.arms }

/-- A write that is ignored disarms nothing: the page is armed as it was in pre, before it (R59, R61). -/
def State.sameArmed (s pre : State) (p : Nat) : State :=
  { s.setBit p PAGE_STAT_armed (pre.bit p PAGE_STAT_armed) with arms := pre.arms }

/-- One whole-word write to the register at offset o of the page at p (R42): refused for a mirrored page (R356), for even
parity (R63), and for a guarded register (R50, R51); otherwise stored by the access codes (R49, R52). It disarms the page
when it reaches an immediate configuration field, a RWH one that no rule calls no configuration among them (DEDUCED, log entry
186), or CFG_CRC_REF (R61). The Lead journals it on a mirrored page (R355), but for
CFG_COMMIT, which is a decision of its own. -/
def State.storeWord (s : State) (a : Acc) (p : Nat) (k : PageKind) (i o : Nat) (w : W32) (hw : Option W32 := none) : Written :=
  let old := s.word (p + o)
  if s.mirrorRefuses a k then
    ⟨(s.bump pgPair PAIR_REFUSED_WR_n).accErr pgPair 0x0E0 a accWrite (p + o), false, old, 0⟩
  else if s.parityOn p k && cfgReg k o && !oddOnes w then
    ⟨s.accErr p 0xF07 a accWrite (p + o), false, old, 0⟩
  else
    let s := match s.guardError a k o w with
      | none => s
      | some c => s.accErr p c a accWrite (p + o)
    let m := s.writeMask a k i o
    let hwv := hw.getD 0
    let new := s.written a k i o old w hwv
    let new := if k.parity && cfgReg k o then (if s.parityOn p k then oddWord new else setBits new 31 1 0) else new
    let fs := fieldsAt k o
    let disarm := (fs.any (fun f => f.cls == .imm && (m &&& f.mask) != 0)) || (o == 0x34 && m != 0)
    let collide := hw.isSome && fs.any (fun f => f.code == .rwh && (m &&& f.mask) != 0)
    let s := s.setWord (p + o) new
    let s := s.when disarm (fun s => s.disarm p)
    let s := s.when collide (fun s => s.setBit p PAGE_STAT_collide true)
    let s := s.when (k.mirrored && o != 0x3C) (fun s => s.journal s.now (.write (p + o) w (s.privileged a)))
    ⟨s, m != 0, old, w &&& m⟩

/-- The word a read returns to this access from what the register holds: zero in guarded bits it is not admitted to, and in
write-only and request bits (R49, R50, R51). -/
def State.readMask (s : State) (a : Acc) (k : PageKind) (i o : Nat) (w : W32) : W32 :=
  if reservedReg k i o then 0
  else (fieldsAt k o).foldl (fun x f =>
    if f.code == .wo || f.code == .w1s || !s.admits a (guardOf k f) then x &&& ~~~f.mask else x) w

/-- Reading a clear-on-read counter returns it and clears it (R49, R52). -/
def isCounter (k : PageKind) (o : Nat) : Bool := (fieldsAt k o).any (fun f => f.code == .rc)

/-- A register or read latch kept for each master on its own. -/
def State.mreg (s : State) (m a : Nat) : W32 := Store.get (fun k => resetAt (k % 0x4000000)) s.mregs (m * 0x4000000 + a)
def State.putMreg (s : State) (k : Nat) (v : W32) : State :=
  { s with mregs := Store.put (fun k => resetAt (k % 0x4000000)) k v s.mregs }
def State.setMreg (s : State) (m a : Nat) (v : W32) : State := s.putMreg (m * 0x4000000 + a) v

/-- A word to be written to a register, with the parity that parity mode asks of it (R63). -/
def State.compose (s : State) (p : Nat) (k : PageKind) (o : Nat) (w : W32) : W32 :=
  if s.parityOn p k && cfgReg k o then oddWord w else w

/-- A register write by a master that has a path to the register window (R414). -/
def State.viaPath (s : State) (a : Acc) (addr : Nat) (f : State → State) : State :=
  if s.issues a.m then (if regPath a then (f s).answer a.m .ok [] else s.noPath a true addr) else s

/-- A register read of a word by a master that has a path: the state it leaves and the word it returns. -/
def State.viaRead (s : State) (a : Acc) (addr : Nat) (f : State → State × W32) : State :=
  if s.issues a.m then (if regPath a then (f s).1.answerWord a.m (f s).2 else s.noPath a false addr) else s

/-- Registers kept for each master on its own: the submission registers of the cue sheet and of the Pit's take page (R189,
R276). -/
def perMaster (k : PageKind) (o : Nat) : Bool :=
  match k with
  | .ttCue => 0x100 ≤ o && o < 0x11C
  | .pitTake => 0x100 ≤ o && o < 0x114
  | _ => false

/-- A field of a register kept for each master. -/
def State.mfld (s : State) (m p : Nat) (f : Fld) : Nat := getBits (s.mreg m (p + f.off)) f.lo f.w
def State.setMfld (s : State) (m p : Nat) (f : Fld) (v : Nat) : State :=
  s.setMreg m (p + f.off) (setBits (s.mreg m (p + f.off)) f.lo f.w v)

/-- A word write where the register may be the writing master's own copy. -/
def State.storeFor (s : State) (a : Acc) (p : Nat) (k : PageKind) (i o : Nat) (w : W32) (hw : Option W32 := none) : Written :=
  if perMaster k o then
    let r := (s.setWord (p + o) (s.mreg a.m (p + o))).storeWord a p k i o w hw
    { r with s := (r.s.setMreg a.m (p + o) (r.s.word (p + o))).setWord (p + o) (s.word (p + o)) }
  else s.storeWord a p k i o w hw

end Sys2Proof.Machine
end

