-- ==== Sys2Proof/Machine/Header.lean ====
section
/-!
DEFINITION. The common page header (R45 to R64): snapshots, forced interrupts, release of the first-error capture, the
configuration CRC, parity mode and its passes, and the device-wide snapshot.
-/
namespace Sys2Proof.Machine

/-! ### Snapshots (R53 to R55) -/

/-- The byte offsets of the live counters of a page. -/
def counterOffs (k : PageKind) : List Nat :=
  (k.fields.filter (fun f => f.code == .rc && 0x800 ≤ f.off && f.off < 0xC00)).flatMap
    (fun f => (List.range f.n).map (fun i => f.at i))

/-- Copies every live counter of the page to its holding copy and clears it; the header records the uptime, the count of
snapshots and whether the snapshot was device-wide; IRQ snap (R53). -/
def State.snapshot (s : State) (p : Nat) (k : PageKind) (t : Nat) (all : Bool) : State :=
  let s := (counterOffs k).foldl (fun s o => (s.setWord (p + o + 0x400) (s.word (p + o))).setWord (p + o) 0) s
  let s := s.setFld64 p SNAP_TIME_lo SNAP_TIME_hi t
  let s := s.setFld p SNAP_CTL_seq (s.fld p SNAP_CTL_seq + 1)
  (s.setBit p SNAP_CTL_all all).irq p 28

/-- The device-wide snapshot is due now: a request by now or a late arm was made before the present TICK, or uptime has
reached the armed target (R54, R55). Answers its target uptime. -/
def State.snapDue (s : State) : Option Nat :=
  if s.snapArmed && s.snapT ≤ s.now then some s.snapT
  else match s.snapNow with
    | some u => if u != s.now then some s.now else none
    | none => none

/-- DEV_SNAPALL_CTL.arm (R55): a target already reached is taken at the next TICK, with late set; otherwise pending is set. An
arm while pending replaces the target. -/
def State.armSnap (s : State) : State :=
  let t := s.fld64 pgDev DEV_SNAPALL_TGT_lo DEV_SNAPALL_TGT_hi
  if t ≤ s.now then
    ({ s with snapNow := some s.now, snapArmed := false }).setBit pgDev DEV_SNAPALL_CTL_late true
  else
    ({ s with snapArmed := true, snapT := t }).setBit pgDev DEV_SNAPALL_CTL_pending true

/-- Every page number of BAR0 that holds a page whose PAGE_CAP.snap is set. -/
def snapPagesAll : List (Nat × PageKind × Nat) :=
  (List.range 0x2000).filterMap (fun n => (pageNo n).bind (fun ki => if ki.1.snap then some (n * 0x1000, ki.1, ki.2) else none))

/-- Every page has copied: done is set, pending clears unless a new target is armed, and the device page raises IRQ snap
(R54). -/
def State.snapDone (s : State) : State :=
  if s.snapPages then
    ((({ s with snapPages := false }).setBit pgDev DEV_SNAPALL_CTL_done true).setBit pgDev DEV_SNAPALL_CTL_pending
      s.snapArmed).irq pgDev 28
  else s

/-! ### Forced interrupts (R47) and release of the capture (R426) -/

/-- One forced bit: IRQ_STAT bit b is set and recorded as forced; a forced cfg sets PAGE_STAT.cfg_fault; the capture takes
code 0xF0F with the forcing master and the address of IRQ_FORCE, or the hardware's own details where the same source fires in
that cycle (R47, R52). -/
def State.forceBit (s : State) (a : Acc) (p : Nat) (hw : Option HwErr) (b : Nat) : State :=
  let s := s.irq p b
  let s := { s with forced := Store.put (fun _ => 0) p (Store.get (fun _ => 0) s.forced p ||| (1 <<< b)) s.forced }
  let s := s.when (b == 31) (fun s => s.setBit p PAGE_STAT_cfg_fault true)
  match hw with
  | some e => s.capture p e.code e.access e.master e.addr
  | none => s.capture p 0xF0F accWrite a.m (p + 0x18)

/-- A write of IRQ_FORCE: every bit written 1 is one event; the hardware's details belong to the lowest of them. -/
def State.force (s : State) (a : Acc) (p : Nat) (w : W32) (hw : Option HwErr) : State :=
  let bs := (List.range 32).filter (fun b => w.getLsbD b)
  match bs with
  | [] => s
  | b :: t => t.foldl (fun s b => s.forceBit a p none b) (s.forceBit a p hw b)

/-- The bits of IRQ_STAT that stand and were forced (R428). -/
def State.forcedIrq (s : State) (p : Nat) : W32 := Store.get (fun _ => 0) s.forced p &&& s.word (p + 0x10)

/-- Cleared IRQ_STAT bits are no longer forced. -/
def State.unforce (s : State) (p : Nat) : State :=
  { s with forced := Store.put (fun _ => 0) p (s.forcedIrq p) s.forced }

/-- Writing 1 to FERR_INFO.valid releases the capture and clears multiple; an error of the same cycle becomes a new first error
(R52, R426). -/
def State.release (s : State) (p : Nat) (clash : Option HwErr) : State :=
  let s := (s.setBit p FERR_INFO_valid false).setBit p FERR_INFO_multiple false
  match clash with
  | some e => s.capture p e.code e.access e.master e.addr
  | none => s

/-! ### The configuration CRC (R59, R60) -/

/-- One bit of the reflected Castagnoli CRC. -/
def crcBit (c : W32) : W32 := if c.getLsbD 0 then (c >>> 1) ^^^ 0x82F63B78 else c >>> 1

/-- One byte into the CRC. -/
def crcByte (c : W32) (b : Byte) : W32 :=
  crcBit (crcBit (crcBit (crcBit (crcBit (crcBit (crcBit (crcBit (c ^^^ b.zeroExtend 32))))))))

/-- CRC-32C of a list of bytes: initial value and final XOR all ones. -/
def crc32c (l : List Byte) : W32 := (l.foldl crcByte 0xFFFFFFFF) ^^^ 0xFFFFFFFF

/-- The offsets of the configuration words, 0x100 to 0x7FC. -/
def cfgOffs : List Nat := (List.range 448).map (fun i => 0x100 + 4 * i)

/-- The configuration word at offset o of a page as the CRC takes it: the configuration fields of kind RW (or guarded without
another code), every other bit zero (R59). A staged field gives its staging value (stage) or its live value. -/
def State.cfgWord (s : State) (p : Nat) (k : PageKind) (stage : Bool) (o : Nat) : W32 :=
  (fieldsAt k o).foldl (fun x f =>
    if f.cls != .ctl && f.code == .rw then
      x ||| ((if f.cls == .staged && !stage then s.lword (p + o) else s.word (p + o)) &&& f.mask)
    else x) 0

/-- The CRC of the page's configuration: live (R60), or what would be live if the commit were accepted (R56). -/
def State.cfgCrc (s : State) (p : Nat) (k : PageKind) (stage : Bool) : W32 :=
  crc32c (cfgOffs.flatMap (fun o => bytesOf (s.cfgWord p k stage o)))

/-- A word with one bit inverted. -/
def flipBit (w : W32) (b : Nat) : W32 := w ^^^ (1 <<< b)

/-- An upset inverts one stored bit of the page. -/
def State.upset (s : State) (p : Nat) (u : Upset) : State :=
  if u.live then s.setLword (p + u.off) (flipBit (s.lword (p + u.off)) u.bit)
  else s.setWord (p + u.off) (flipBit (s.word (p + u.off)) u.bit)

/-- The page's configuration is at fault: PAGE_STAT.cfg_fault and IRQ cfg (R60, R63). -/
def State.cfgFault (s : State) (p code addr : Nat) : State :=
  ((s.setBit p PAGE_STAT_cfg_fault true).irq p 31).err p code none (some addr)

/-- A full CRC pass of an armed page (R60). A page in parity mode runs none (R64). -/
def State.crcPass (s : State) (p : Nat) (k : PageKind) : State :=
  if s.bit p PAGE_STAT_armed && !s.parityOn p k then
    let c := s.cfgCrc p k false
    let s := s.setWord (p + 0x38) c
    if c = s.word (p + 0x34) then s else s.cfgFault p 0xF05 p
  else s

/-! ### Parity mode (R63, R64) -/

/-- The bits of the staged fields of a register. -/
def stagedMask (k : PageKind) (o : Nat) : W32 :=
  (fieldsAt k o).foldl (fun m f => if f.cls == .staged then m ||| f.mask else m) 0

/-- The offsets of the configuration registers of a page. -/
def parityOffs (k : PageKind) : List Nat := cfgOffs.filter (cfgReg k)

/-- Bit 31 of every configuration register, in its stored and its live copy, by a rule. -/
def State.mapParity (s : State) (p : Nat) (k : PageKind) (g : W32 → W32) : State :=
  (parityOffs k).foldl (fun s o => (s.setWord (p + o) (g (s.word (p + o)))).setLword (p + o) (g (s.lword (p + o)))) s

/-- What a change of PAGE_CTL.parity does on a page that supports it, the field holding its new value: bit 31 of every
configuration register takes odd parity, or reads zero again; the page disarms; CFG_CRC_NOW reads zero (R63, R64). -/
def State.parityChange (s : State) (p : Nat) (k : PageKind) (was : Bool) : State :=
  let on := s.bit p PAGE_CTL_parity
  if k.parity && on != was then
    let s := if on then (s.mapParity p k oddWord).setWord (p + 0x38) 0 else s.mapParity p k (fun w => setBits w 31 1 0)
    s.disarm p
  else s

/-- A word the hardware changes keeps its parity in parity mode (DESIGN CHOICE, log entry 12). -/
def State.keepParity (s : State) (p : Nat) (k : PageKind) (o : Nat) : State :=
  if s.parityOn p k && cfgReg k o then s.setWord (p + o) (oddWord (s.word (p + o))) else s

/-- The stored registers of a page without odd parity, a live copy counting where the register has staged fields. -/
def State.evenRegs (s : State) (p : Nat) (k : PageKind) : List Nat :=
  (parityOffs k).flatMap (fun o =>
    (if oddOnes (s.word (p + o)) then [] else [p + o]) ++
      (if stagedMask k o == 0 || oddOnes (s.lword (p + o)) then [] else [p + o + 0x4000000]))

/-- A full parity pass (R63): a stored register that has lost odd parity since it was last found good sets cfg_fault and is
captured with its address, once (DEDUCED, log entry 189). -/
def State.parityPass (s : State) (p : Nat) (k : PageKind) : State :=
  if s.parityOn p k then
    let bad := s.evenRegs p k
    let new := bad.filter (fun x => !s.lostParity.contains x)
    let s := { s with lostParity := s.lostParity.filter (fun x => x % 0x4000000 / 0x1000 != p / 0x1000) ++ bad }
    new.foldl (fun s x => s.cfgFault p 0xF06 (x % 0x4000000)) s
  else s

/-! ### Staged fields becoming live (R56) -/

/-- The apply instant a register waits for: the slot of a page whose slots apply on their own (R161, R167, R165, R221). -/
def slotOf (k : PageKind) (o : Nat) : Nat :=
  match k with
  | .tap => (o - 0x100) / 0x20
  | .quad | .synQuad => (o - 0x100) / 0x80
  | .pool => (o - 0x140) / 8
  | .proLay => (o - 0x100) / 0x40
  | _ => 0

/-- The page's commit also takes the staging copy of a table that lies behind it (R131, R283). -/
def PageKind.tabled : PageKind → Bool
  | .flr | .flt | .pitWin | .proRas => true
  | _ => false

/-- The staging words a commit takes: those whose staged fields differ from the live copy; for a page with a table behind it,
one mark beyond the registers stands for the table. -/
def State.stagedWords (s : State) (p : Nat) (k : PageKind) : Pending :=
  cfgOffs.filterMap (fun o =>
    let m := stagedMask k o
    if (s.word (p + o) &&& m) != (s.lword (p + o) &&& m) then some (p + o, s.word (p + o)) else none)
  ++ if k.tabled then [(p + 0xFFC, 0)] else []

/-- The commit waiting in a page. -/
def State.waiting (s : State) (p : Nat) : Pending := (Store.get (fun _ => none) s.commits p).getD []

def State.setWaiting (s : State) (p : Nat) (w : Pending) : State :=
  { s with commits := Store.put (fun _ => none) p (if w.isEmpty then none else some w) s.commits }

/-- The commit waiting in a page may apply in the present TICK: the uptime from which it may has come (R283, R357). -/
def State.commitDue (s : State) (p : Nat) : Bool :=
  !(s.waiting p).isEmpty && Store.get (fun _ => 0) s.commitFrom p < s.now + 16

/-- A commit is applied: result 2, comparison armed unless the page was disarmed since its acceptance or is in parity mode, IRQ
commit (R46, R56, R61, R64). -/
def State.applied (s : State) (p : Nat) (k : PageKind) : State :=
  let arm := Store.get (fun _ => false) s.arms p && !s.parityOn p k
  ((s.setFld p CFG_COMMIT_result 2).when arm (fun s => s.setBit p PAGE_STAT_armed true)).irq p 29

/-- The apply instant of a slot: its waiting words become live together; with the last of them the commit is applied. -/
def State.applySlot (s : State) (p : Nat) (k : PageKind) (slot : Nat) : State :=
  let w := s.waiting p
  if !s.commitDue p then s
  else
    let mine := w.filter (fun e => slotOf k (e.1 - p) == slot)
    let rest := w.filter (fun e => slotOf k (e.1 - p) != slot)
    let s := (mine.filter (fun e => e.1 < p + 0x800)).foldl (fun s e => s.setLword e.1 (s.compose p k (e.1 - p) e.2))
      (s.setWaiting p rest)
    s.when rest.isEmpty (fun s => s.applied p k)

/-- A commit accepted: the count advances, result 1, and its words wait for their apply instants; with nothing to apply it is
applied at once (R56, R61). A commit accepted while one waits takes its place (log entry 17). -/
def State.accept (s : State) (p : Nat) (k : PageKind) : State :=
  let w := s.stagedWords p k
  let s := (s.setFld p CFG_COMMIT_seq (s.fld p CFG_COMMIT_seq + 1)).setFld p CFG_COMMIT_result 1
  let s := { s with arms := Store.put (fun _ => false) p true s.arms }
  let s := s.setWaiting p w
  s.when w.isEmpty (fun s => s.applied p k)

/-- A commit refused: only its result and IRQ commit (R56, R58). -/
def State.refuseCommit (s : State) (p r : Nat) : State := (s.setFld p CFG_COMMIT_result r).irq p 29

end Sys2Proof.Machine
end

