-- ==== Sys2Proof/Machine/Grid.lean ====
section
/-!
DEFINITION. Frame rates and their periods, SDI formats and interface rates, and the grids of frames and samples on uptime or
on time of day.
-/
namespace Sys2Proof.Machine

/-- The frame period in cues of a frame rate code of FMT.rate (R21, R129); none for codes 13 to 15. -/
def framePer (rate : Nat) : Option Nat :=
  [441441000, 441000000, 423360000, 353152800, 352800000, 220720500, 220500000, 211680000, 176576400, 176400000,
   105840000, 88288200, 88200000][rate]?

/-- The frame period, zero for a reserved code. -/
def perOf (rate : Nat) : Nat := (framePer rate).getD 0

/-- The frame rate is one of the 1/1.001 rates. -/
def dropRate (rate : Nat) : Bool := rate == 0 || rate == 3 || rate == 5 || rate == 8 || rate == 11

/-- The start of line k of a frame (k = 0 for the first line), in cues from the frame start (R22). -/
def lineStart (per lines k : Nat) : Nat := k * per / lines

/-- The interface rate that R513's table lists for a picture, in units of 1.485 Gb/s, 0 for SD. -/
def listedRate (f : Fmt) : Option Nat :=
  let wide := f.samp != 0
  if (f.lines = 525 ∧ f.intl ∧ f.rate = 3 ∨ f.lines = 625 ∧ f.intl ∧ f.rate = 2) ∧ f.samp = 0 then some 0
  else if f.lines = 750 ∧ !f.intl ∧ f.rate ≤ 9 then some (if wide then 2 else 1)
  else if f.lines = 1125 ∧ f.rate ≤ 4 then some (if wide then 2 else 1)
  else if f.lines = 1125 ∧ !f.intl ∧ f.rate ≤ 9 then some (if wide then 4 else 2)
  else if f.lines = 1125 ∧ !f.intl ∧ f.rate ≤ 12 then some (if wide then 8 else 4)
  else if f.lines = 2250 ∧ !f.intl ∧ f.rate ≤ 4 then some (if wide then 8 else 4)
  else if f.lines = 2250 ∧ !f.intl ∧ f.rate ≤ 9 then some (if wide then 16 else 8)
  else if f.lines = 2250 ∧ !f.intl ∧ f.rate ≤ 12 ∧ !wide then some 16
  else if f.lines = 4500 ∧ !f.intl ∧ f.rate ≤ 4 ∧ !wide then some 16
  else if f.lines = 4500 ∧ !f.intl ∧ f.rate ≤ 9 ∧ !wide then some 32
  else none

/-- The interface rate of a picture (R513): a picture that the table does not list takes the one its payload ID names. -/
def ifaceRate (f : Fmt) : Nat := (listedRate f).getD f.iface

/-- A picture with the interface rate that a payload ID names, where the table lists none. -/
def withIface (f : Fmt) (pid : W32) : Fmt :=
  { f with iface := if (listedRate f).isSome then 0 else Config.pidInterface pid }

/-- Links of a link mode: single, dual, quad (R91). -/
def linkWidth (mode : Nat) : Nat := if mode = 0 then 1 else if mode = 1 then 2 else 4

/-- The lane rate code that carries a picture over w links; none where the quotient is no lane rate (R65, R513). -/
def laneRate (f : Fmt) (w : Nat) : Option Nat :=
  let u := ifaceRate f
  if listedRate f = some 0 then if w = 1 then some 0 else none
  else if u % w ≠ 0 then none
  else
    let base := match u / w with | 1 => some 1 | 2 => some 3 | 4 => some 5 | 8 => some 7 | _ => none
    base.map (fun b => if dropRate f.rate then b + 1 else b)

/-- The lines per frame of each link of a picture over w links (R169, R170): quad links carry half the lines of a picture of
2,250 or 4,500. -/
def linkLines (f : Fmt) (w : Nat) : Nat := if w = 4 ∧ (f.lines = 2250 ∨ f.lines = 4500) then f.lines / 2 else f.lines

/-- The RP 168 switching line of a link structure (R170). A structure the table does not list takes line 7 (log entry 18). -/
def switchLine (lines : Nat) : Nat :=
  if lines = 525 then 10 else if lines = 625 then 6 else if lines = 2250 then 13 else 7

/-- Bits per pixel of a sampling class (R159). -/
def bppOf (samp : Nat) : Nat := if samp = 0 then 20 else if samp = 1 then 30 else 36

/-- Active lines of a picture of so many total lines (R145). -/
def activeLines (lines : Nat) : Nat :=
  match lines with
  | 525 => 486 | 625 => 576 | 750 => 720 | 1125 => 1080 | 2250 => 2160 | 4500 => 4320 | _ => 0

/-- Division rounding up. -/
def ceilDiv (a b : Nat) : Nat := if b = 0 then 0 else (a + b - 1) / b

/-! ### Grids -/

/-- The uptime at which time of day reaches x (in 2^-40 cue), in whole cues, rounded up (log entry 19). -/
def State.uptOfTod (s : State) (x : Int) : Int :=
  let d := (x - s.tod.total) * 16
  s.now + -((-d).fdiv s.inc)

/-- The first instant of a grid at or after uptime u. -/
def State.gridNext (s : State) (g : Grid) (u : Nat) : Nat :=
  if g.per = 0 then u
  else if g.tod then
    let one : Int := 2 ^ 40
    let x := s.todAt u - g.shift
    let per : Int := g.per * one
    let k := -((-(x - g.ofs * one)).fdiv per)
    (s.uptOfTod (g.ofs * one + k * per + g.shift)).toNat
  else if u ≤ g.ofs then g.ofs - (g.ofs / g.per) * g.per + ceilDiv (u - (g.ofs - (g.ofs / g.per) * g.per)) g.per * g.per
  else g.ofs + ceilDiv (u - g.ofs) g.per * g.per

/-- The last instant of a grid at or before uptime u, zero before the first. -/
def State.gridPrev (s : State) (g : Grid) (u : Nat) : Nat :=
  if g.per = 0 then u
  else if g.tod then
    let one : Int := 2 ^ 40
    let x := s.todAt u - g.shift
    let per : Int := g.per * one
    (s.uptOfTod (g.ofs * one + (x - g.ofs * one).fdiv per * per + g.shift)).toNat
  else (s.gridNext g (u + 1)) - g.per

/-! ### Alignment groups (R149, R150) -/

def State.grp (s : State) (g : Nat) : Group := Store.get (fun _ => {}) s.groups g
def State.setGrp (s : State) (g : Nat) (v : Group) : State := { s with groups := Store.put (fun _ => {}) g v s.groups }

/-- The group is in use, and its rate code and offset, as live. -/
def State.grpEn (s : State) (g : Nat) : Bool := s.lbit pgPool PLG_en g
def State.grpSetRate (s : State) (g : Nat) : Nat := s.lv pgPool PLG_rate g
def State.grpSetOfs (s : State) (g : Nat) : Nat := s.lv pgPool PLG_ofs g

/-- The rate code and offset of the grid a group runs on: up to and including its last old instant, those of its old grid
(R150). -/
def State.grpRate (s : State) (g : Nat) : Nat := (s.grp g).rate
def State.grpOfs (s : State) (g : Nat) : Nat := (s.grp g).grid.ofs

/-- The grid that a group's live settings ask for: frames of time of day while it is Held, of uptime while it is Unset. -/
def State.grpWanted (s : State) (g : Nat) : Grid :=
  { per := perOf (s.grpSetRate g), ofs := s.grpSetOfs g, tod := s.held, shift := 0 }

/-- The first rail instant of a group at or after uptime u: on the old grid up to its last old instant, then on the new grid
from floor(T / 2) after it (R150). -/
def State.grpNext (s : State) (g : Nat) (u : Nat) : Nat :=
  let v := s.grp g
  match v.move with
  | some lo =>
    if u ≤ lo then s.gridNext v.grid u
    else
      let w := s.grpWanted g
      s.gridNext w (max u (lo + w.per / 2))
  | none => if u ≤ v.last ∧ v.last ≠ 0 then v.last else s.gridNext v.grid (max u v.start)

/-- The last instant at or before uptime u of a grid, which began after its last old instant. -/
def State.prevOf (s : State) (v : Group) (u : Nat) : Nat :=
  let p := s.gridPrev v.grid u
  if p < v.start then min u v.last else p

/-- The rail instant of a group at or before uptime u. -/
def State.grpPrev (s : State) (g : Nat) (u : Nat) : Nat := s.prevOf (s.grp g) u

/-- The grid of a group is laid down at once from its live settings (R150: a group not enabled both before and after). -/
def State.grpLay (s : State) (g : Nat) : State :=
  s.setGrp g { grid := s.grpWanted g, rate := s.grpSetRate g, start := 0, move := none }

/-- A group starts to move: it keeps its old grid up to its next instant after the event. A move already in progress keeps its
last old instant. delta is the amount by which time of day was stepped in the event. -/
def State.grpMove (s : State) (g : Nat) (delta : Int) : State :=
  let v := s.grp g
  let grid := if v.grid.tod then { v.grid with shift := v.grid.shift + delta } else v.grid
  let v := { v with grid := grid }
  match v.move with
  | some _ => s.setGrp g v
  | none => s.setGrp g { v with move := some (s.gridNext grid (max (s.now + 1) v.start)) }

/-- Every group starts to move: time of day became Held, or was stepped by delta (R150). PLG_STAT.tod follows. -/
def State.grpMoveAll (s : State) (delta : Int) : State :=
  let s := s.setBit pgPool PLG_STAT_tod s.held
  (List.range 16).foldl (fun s g => s.grpMove g delta) s

/-! ### The Pit's sample grid (R264, R265) -/

/-- The sample period, and the least distance from the last old instant to the first new one. -/
def pitPer : Nat := 220500
def pitGap : Nat := 110250

/-- The grid the Pit is to run on: multiples of the sample period of time of day while it is Held, of uptime while Unset. -/
def State.pitWanted (s : State) : Grid := { per := pitPer, ofs := 0, tod := s.held, shift := 0 }

/-- The first Pit instant at or after uptime u. -/
def State.pitNext (s : State) (u : Nat) : Nat :=
  let v := s.pitGrid
  match v.move with
  | some lo => if u ≤ lo then s.gridNext v.grid u else s.gridNext s.pitWanted (max u (lo + pitGap))
  | none => if u ≤ v.last ∧ v.last ≠ 0 then v.last else s.gridNext v.grid (max u v.start)

/-- The last Pit instant at or before uptime u. -/
def State.pitPrev (s : State) (u : Nat) : Nat := s.prevOf s.pitGrid u

/-- The Pit instant within the present TICK. -/
def State.pitNow (s : State) : Option Nat :=
  let p := s.pitNext s.now
  if p < s.now + 16 then some p else none

/-- An instant of alignment group g falls in the present TICK. -/
def State.grpNow (s : State) (g : Nat) : Bool := s.grpNext g s.now < s.now + 16

/-- The Pit starts to move: it keeps its old grid up to its next instant after the event (R265). delta is the amount by which
time of day was stepped. A move already in progress keeps its last old instant. -/
def State.pitMove (s : State) (delta : Int) : State :=
  let v := s.pitGrid
  let grid := if v.grid.tod then { v.grid with shift := v.grid.shift + delta } else v.grid
  let v := { v with grid := grid }
  match v.move with
  | some _ => { s with pitGrid := v }
  | none => { s with pitGrid := { v with move := some (s.gridNext grid (max (s.now + 1) v.start)) } }

/-! ### The own grid of a Call Bus master (R336) -/

def callPer : Nat := 2646000

/-- Cycle starts: multiples of the period of time of day while it is Held, of uptime while it is Unset. -/
def State.callWanted (s : State) : Grid := { per := callPer, ofs := 0, tod := s.held, shift := 0 }

/-- The first own cycle start at or after uptime u: on the old grid up to its last old start, then on the new grid from a cycle
after it. -/
def State.callNext (s : State) (u : Nat) : Nat :=
  let v := s.call.grid
  match v.move with
  | some lo => if u ≤ lo then s.gridNext v.grid u else s.gridNext s.callWanted (max u (lo + callPer))
  | none => if u ≤ v.last ∧ v.last ≠ 0 then v.last else s.gridNext v.grid (max u v.start)

/-- Time of day became Held, or was stepped by delta: the grid keeps its old starts up to the next one. -/
def State.callMove (s : State) (delta : Int) : State :=
  let v := s.call.grid
  let grid := if v.grid.tod then { v.grid with shift := v.grid.shift + delta } else v.grid
  let v := { v with grid := grid }
  let v := match v.move with
    | some _ => v
    | none => { v with move := some (s.gridNext grid (max (s.now + 1) v.start)) }
  { s with call := { s.call with grid := v } }

end Sys2Proof.Machine
end

