-- ==== Sys2Proof/Machine/Platform.lean ====
section
/-!
DEFINITION. Platforms and source alignment (R149 to R166), with the tables behind the flow windows as far as a Platform of an
IP slot reads them (R126, R159), and when decisions of a pair apply.
-/
namespace Sys2Proof.Machine

/-! ### Decisions of a pair (R351, R355, R357) -/

/-- The device applies the Lead's decisions in place of its own (R351, R355). -/
def State.follows (s : State) : Bool := s.role == roleUnderstudy || s.role == roleJoining || s.role == roleYielded

/-- The earliest instant at which a decision made now may apply: on the Lead, PAIR_DEFER.cues ahead (R357). -/
def State.earliest (s : State) : Nat :=
  if s.role = roleLead then s.now + s.lv pgPair PAIR_DEFER_cues else s.now

/-! ### The flow tables (R126, R129) -/

/-- A field of an entry of a flow table. -/
def entFld (tab : Store W32) (e : Nat) (f : Fld) (i : Nat := 0) : Nat :=
  getBits (Store.get (fun _ => 0) tab (e * 16 + f.at i / 4)) f.lo f.w

/-- The enabled entries of a table, in ascending order. -/
def entsOn (tab : Store W32) : List Nat :=
  (tab.filter (fun e => e.1 % 16 == 0 && e.2.getLsbD 0)).map (fun e => e.1 / 16)

/-- Rails of a gang code (R9, R129): one, two, four. -/
def gangWidth (c : Nat) : Nat := if c = 1 then 2 else if c = 2 then 4 else 1

/-- Total lines of a picture height (R145); none for a height R133 does not admit. -/
def linesOfHeight (h : Nat) : Option Nat :=
  match h with
  | 486 => some 525 | 576 => some 625 | 720 => some 750 | 1080 => some 1125 | 2160 => some 2250 | 4320 => some 4500 | _ => none

/-- The sampling class of FMT.smp: 4:2:2, 10-bit 4:4:4 or RGB, 12-bit. -/
def sampOf (smp : Nat) : Nat := if smp = 0 then 0 else if smp = 1 ∨ smp = 3 then 1 else 2

/-- The picture of a type 0 or 1 entry. -/
def entFmt (tab : Store W32) (e : Nat) : Fmt :=
  { rate := entFld tab e RXE_FMT_rate, lines := (linesOfHeight (entFld tab e RXE_GEOM_height)).getD 0,
    px := entFld tab e RXE_GEOM_width, intl := entFld tab e RXE_GEOM_intl != 0,
    samp := sampOf (entFld tab e RXE_FMT_smp) }

/-- The enabled type 0 or 1 entry that binds a video slot (R127), the slot lying in its gang. -/
def slotEntry (tab : Store W32) (slot : Nat) : Option Nat :=
  (entsOn tab).find? (fun e =>
    entFld tab e RXE_CTL_type ≤ 1 &&
      (let b := entFld tab e RXE_BIND_slot
       b ≤ slot && slot < b + gangWidth (entFld tab e RXE_CTL_gang)))

/-! ### A Platform's registers and its gang (R9, R163, R164) -/

def State.pt (s : State) (r : Nat) : Plat := Store.get (fun _ => {}) s.plat r
def State.setPt (s : State) (r : Nat) (v : Plat) : State := { s with plat := Store.put (fun _ => {}) r v s.plat }

/-- A live field and a status field of the Platform of a rail. -/
def State.plv (s : State) (r : Nat) (f : Fld) : Nat := s.lv (pgQuad r) f (r % 4)
def State.pst (s : State) (r : Nat) (f : Fld) : Nat := s.fld (pgQuad r) f (r % 4)
def State.setPst (s : State) (r : Nat) (f : Fld) (v : Nat) : State := s.setFld (pgQuad r) f v (r % 4)
def State.pcount (s : State) (r : Nat) (f : Fld) : State := s.bump (pgQuad r) f 1 (r % 4)
def State.pirq (s : State) (r b : Nat) : State := s.irq (pgQuad r) (6 * (r % 4) + b)

/-- Source states (R151). -/
def ptOff : Nat := 0
def ptLost : Nat := 1
def ptDetecting : Nat := 2
def ptAligned : Nat := 3
def ptUnaligned : Nat := 4
def ptOversize : Nat := 5

/-- The base rail of the gang a rail belongs to. -/
def State.ptBase (s : State) (r : Nat) : Nat :=
  let q := r - r % 4
  let d := r - r % 2
  if s.plv q PLT_CFG_gang = 2 ∧ s.plv q PLT_CFG_en = 1 then q
  else if s.plv d PLT_CFG_gang = 1 ∧ s.plv d PLT_CFG_en = 1 then d
  else r

/-- The rails of the gang whose base is b. -/
def State.ptRails (s : State) (b : Nat) : List Nat := (List.range (gangWidth (s.plv b PLT_CFG_gang))).map (b + ·)

/-- The lane delivers words to its Platform: locked, and not checking a PRBS (R77). -/
def State.rxDelivers (s : State) (L : Nat) : Bool :=
  let m := s.fld (pgRxl L) RXL_PAT_mode
  s.bit (pgRxl L) RXL_STAT_lock && !(1 ≤ m && m ≤ 5)

/-- The source of the Platform of base b delivers: every lane of its rails has words, or its slot's entry is Live. -/
def State.sourceUp (s : State) (b : Nat) : Bool :=
  if b < 512 then (s.ptRails b).all s.rxDelivers
  else match slotEntry s.rxTab (b - 512) with
    | some e => (Store.get (fun _ => ({} : RxEntry)) s.rxEnt e).st == 3
    | none => false

/-- A status field of every rail of a gang (R163: members report the base). -/
def State.setGang (s : State) (b : Nat) (f : Fld) (v : Nat) : State := (s.ptRails b).foldl (fun s r => s.setPst r f v) s

def State.ptState (s : State) (r : Nat) : Nat := s.pst r PLT_STAT_state

/-! ### Berths (R159) -/

/-- Berths of a picture: lines of px pixels at a sampling class, with window W and S lines of skew. -/
def berthsFor (w s px samp : Nat) : Nat := (w + 2 + s) * ceilDiv (px * bppOf samp) 8192 + 4

/-- Skew lines of an entry: type 0 without staging (R159). -/
def skewLines (tab : Store W32) (e : Nat) : Nat :=
  if entFld tab e RXE_CTL_type = 0 ∧ entFld tab e RXE_CTL_stage = 0 then
    let f := entFmt tab e
    ceilDiv (entFld tab e RXE_SKEW_us * 10584 * f.lines) (perOf f.rate)
  else 0

/-- The berths a Platform of rail r asks for, from its window and size fields and the receive table given. -/
def berthNeed (win px samp : Nat) (tab : Store W32) (r w : Nat) : Nat :=
  if r < 512 then berthsFor win 0 px samp
  else match slotEntry tab (r - 512) with
    | some e => let f := entFmt tab e; berthsFor win (skewLines tab e) (f.px / w) f.samp
    | none => berthsFor win 0 0 0

/-- The berths of the Platform of rail r by its live settings. In a gang the base's settings serve every member. -/
def State.berthsLive (s : State) (r : Nat) : Nat :=
  let b := s.ptBase r
  berthNeed (s.plv b PLT_CFG_win) (s.plv b PLT_SIZE_px) (s.plv b PLT_SIZE_bpp) s.rxTab r (gangWidth (s.plv b PLT_CFG_gang))

/-- An established picture fits the berths its Platform holds (R162). -/
def State.fits (s : State) (r : Nat) (f : Fmt) : Bool :=
  let b := s.ptBase r
  512 ≤ r || berthsFor (s.plv b PLT_CFG_win) 0 (f.px / gangWidth (s.plv b PLT_CFG_gang)) f.samp ≤ s.pst b PLT_BERTHS_n

/-! ### Holding output (R156) -/

/-- The length of a frame at the source's own timing: the nominal period until two frames have been ready. -/
def Plat.own (v : Plat) : Nat :=
  if v.ownLen = 0 then (match v.last with | some f => perOf f.rate | none => 0) else v.ownLen

/-- The start that follows a rail frame of Platform b which started at v.start: on the group's grid after a release on its instant,
at the source's own period otherwise. -/
def State.ptNext (s : State) (b : Nat) (v : Plat) : Nat :=
  if v.onGrid then s.grpNext (s.plv b PLT_CFG_group) (v.start + 1) else v.start + v.own

/-- The rail holds output: no waiting frame is released; black frames follow in the last format at the last timing, the first at
the next start that timing gives. -/
def State.hold (s : State) (b : Nat) : State :=
  let v := s.pt b
  let h := s.plv b PLT_CFG_hold
  let v := { v with frames := [], passes := 0, turn := none, retime := false }
  if v.next.isNone || s.pst b PLT_STAT_holding = 1 then s.setPt b v
  else
    let nxt :=
      if v.onGrid then s.grpNext (s.plv b PLT_CFG_group) (max (v.start + 1) s.now)
      else if s.now ≤ v.start + v.own then v.start + v.own
      else v.start + ceilDiv (s.now - v.start) v.own * v.own
    (s.setPt b { v with next := some nxt, holdLeft := if h = 255 then none else some h }).setGang b PLT_STAT_holding 1

/-! ### The source state table (R151) -/

/-- The lane is locked and words arrive, or the slot's entry is Live: a Platform in Source-lost starts Detecting. -/
def State.srcBack (s : State) (r : Nat) : State :=
  let b := s.ptBase r
  if s.ptState b = ptLost ∧ s.sourceUp b then s.setGang b PLT_STAT_state ptDetecting else s

/-- The Platform of rail x after live settings of its quad changed; was: it had a Platform of its own before. A member of a gang
reports its base (R163). One disabled frees its berths, and its rail carries no source. One enabled anew, or no longer a member,
starts at Source-lost, or at Detecting where its source delivers. A change of berths may end Oversize. -/
def State.ptSettle (s : State) (x : Nat) (was : Bool) : State :=
  let b := s.ptBase x
  let on := s.plv x PLT_CFG_en = 1
  let s := s.setPst x PLT_BERTHS_n (if on then s.berthsLive x else 0)
  if b ≠ x then
    ((((s.setPt x { line := (s.pt x).line }).setPst x PLT_STAT_state (s.ptState b)).setPst x PLT_STAT_holding
      (s.pst b PLT_STAT_holding)).setPst x PLT_RES_cues (s.pst b PLT_RES_cues))
  else if on && was && s.ptState x != ptOff then
    if s.ptState x = ptOversize then
      match (s.pt x).last with
      | some f => if s.fits x f then s.setGang x PLT_STAT_state ptDetecting else s
      | none => s
    else s
  else
    let s := ((s.setPst x PLT_STAT_holding 0).setPst x PLT_RES_cues 0).setPt x { last := (s.pt x).last }
    if on then (s.setPst x PLT_STAT_state ptLost).srcBack x else s.setPst x PLT_STAT_state ptOff

/-- PLP_USED: the berths of the live Platforms (R165). -/
def State.countBerths (s : State) : State :=
  s.setFld pgPool PLP_USED_n ((List.range 2048).foldl (fun a r => a + s.pst r PLT_BERTHS_n) 0)

/-- The waiting commit of a Platform's slot becomes live (R161); the other rails of its quad may join or leave a gang. -/
def State.ptApply (s : State) (r : Nat) : State :=
  if s.commitDue (pgQuad r) && (s.waiting (pgQuad r)).any (fun e => slotOf .quad (e.1 - pgQuad r) == r % 4)
  then
    let rails := (List.range 4).map (fun i => (r - r % 4 + i, s.ptBase (r - r % 4 + i)))
    let s := s.applySlot (pgQuad r) .quad (r % 4)
    (rails.foldl (fun s e => s.ptSettle e.1 (e.1 == e.2)) s).countBerths
  else s

/-- Staged fields apply at once where the Platform is Off, Source-lost, Detecting or Oversize (R161). -/
def State.ptApplyIdle (s : State) (r : Nat) : State :=
  let st := s.ptState r
  if st != ptAligned && st != ptUnaligned then s.ptApply r else s

/-- The staged fields of every rail of a gang that is idle apply. -/
def State.gangIdle (s : State) (b : Nat) : State := (s.ptRails b).foldl (fun s r => s.ptApplyIdle r) s

/-- The source is lost: lane lock lost, or the slot's entry leaves Live. -/
def State.srcLost (s : State) (r : Nat) : State :=
  let b := s.ptBase r
  let st := s.ptState b
  if st = ptOff ∨ st = ptLost then s
  else (((s.hold b).setGang b PLT_STAT_state ptLost).pirq b 2).gangIdle b

/-- The source's format is lost (R87). -/
def State.srcFmtLost (s : State) (r : Nat) : State :=
  let b := s.ptBase r
  let st := s.ptState b
  if st = ptAligned ∨ st = ptUnaligned then (((s.hold b).setGang b PLT_STAT_state ptDetecting).pirq b 3).gangIdle b else s

/-! ### The alignment test (R153) and re-timing (R154) -/

/-- The late allowance J. -/
def lateJ : Nat := 10584

/-- What the test finds of a lead: it passes, it passes with hysteresis, it lies on the early side. -/
structure Verdict where
  pass : Bool
  hyst : Bool
  early : Bool
  late : Bool
  deriving DecidableEq, Repr

def verdict (sameRate : Bool) (win per lines lam : Nat) : Verdict :=
  let e := lineStart per lines win + lateJ
  let early := lam ≤ e
  let late := !early && per - lateJ ≤ lam
  { pass := sameRate && (early || late)
    hyst := sameRate && (lam + per / (2 * lines) ≤ e || 2 * per - lateJ ≤ 2 * lam)
    early := early
    late := late }

def State.ptVerdict (s : State) (b lam : Nat) (f : Fmt) : Verdict :=
  let g := s.plv b PLT_CFG_group
  verdict (f.rate == s.grpRate g) (s.plv b PLT_CFG_win) (perOf (s.grpRate g)) f.lines lam

/-- The Platform becomes Unaligned from Aligned: PLT_FALLOFF and IRQ falloff. -/
def State.ptFall (s : State) (b : Nat) : State :=
  ((s.setGang b PLT_STAT_state ptUnaligned).pcount b PLT_FALLOFF_n).pirq b 1

/-- The Platform becomes Aligned from Unaligned: PLT_REALIGN and IRQ aligned. -/
def State.ptRise (s : State) (b : Nat) : State :=
  ((s.setGang b PLT_STAT_state ptAligned).pcount b PLT_REALIGN_n).pirq b 0

/-- A decided change takes effect at the first frame start at or after its uptime. -/
def State.ptTurn (s : State) (b start : Nat) : State :=
  let v := s.pt b
  match v.turn with
  | some (up, t) =>
    if t ≤ start then
      let s := s.setPt b { v with turn := none, passes := 0, retime := true }
      if up && s.ptState b = ptUnaligned then s.ptRise b
      else if !up && s.ptState b = ptAligned then s.ptFall b
      else s
    else s
  | none => s

/-- A change between Aligned and Unaligned that the own test asks for: it takes effect at once, or on the Lead at the first
frame start that R357 allows, journaled; where the Lead decides it only counts as a difference (R152, R355). -/
def State.ptDecide (s : State) (b : Nat) (up : Bool) (start : Nat) : State :=
  if s.follows then s.bump pgPair PAIR_DEC_DIFF_n
  else
    let v := s.pt b
    if v.turn.isSome then s
    else
      let t := if s.role = roleLead then max start s.earliest else start
      let s := (s.setPt b { v with turn := some (up, t) }).journal t (.platform b up)
      s.ptTurn b start

/-- A source frame of format f is ready in the berths at instant a (R153): its lead is measured, the test applied, and the
frame's release fixed: at the group's instant for an early frame of an Aligned source, on arrival otherwise (R154). A frame that
fails the own test while the Platform stays Aligned, since the Lead's transition has not come (R152), is released as an early one.
fresh: the first frame of an established format, which leaves Detecting. The second gives the source's own period, and with it the
end of a frame that runs on the source's own timing. ts: the RTP timestamp of an IP flow's frame. -/
def State.srcFrame (s : State) (r a : Nat) (f : Fmt) (fresh comp : Bool) (ts : Nat := 0) : State :=
  let b := s.ptBase r
  let g := s.plv b PLT_CFG_group
  let inst := s.grpNext g a
  let lam := inst - a
  let vd := s.ptVerdict b lam f
  let s := s.setGang b PLT_LEAD_cues lam
  let s := s.setGang b PLT_STAT_late vd.late.toNat
  let s := s.setGang b PLT_STAT_rate_diff (f.rate != s.grpRate g).toNat
  let v := s.pt b
  let own := if fresh then 0 else if a ≤ v.lastReady then v.ownLen else a - v.lastReady
  let next := if !fresh && v.ownLen = 0 && !v.onGrid then v.next.map (fun _ => v.start + own) else v.next
  let s := s.setPt b { v with ownLen := own, lastReady := a, last := some f, comp := comp, next := next,
                              retime := v.retime || fresh, passes := if fresh then 0 else if vd.hyst then v.passes + 1 else 0 }
  let s :=
    if fresh then
      if vd.pass then (s.setGang b PLT_STAT_state ptAligned).pirq b 0 else s.setGang b PLT_STAT_state ptUnaligned
    else
      let s := s.ptTurn b a
      if s.ptState b = ptAligned ∧ !vd.pass then s.ptDecide b false a
      else if s.ptState b = ptUnaligned ∧ 4 ≤ (s.pt b).passes then s.ptDecide b true a
      else s
  let v := s.pt b
  let fr : ReadyFrame :=
    if s.ptState b = ptAligned ∧ !vd.late then { ready := a, release := inst, res := lam, onGrid := true, moved := v.retime, ts := ts }
    else { ready := a, release := a, res := 0, onGrid := false, moved := v.retime, ts := ts }
  s.setPt b { v with frames := v.frames ++ [fr], retime := false }

/-- The source's format is established with its first frame ready at a (R151): it leaves Detecting for Oversize, or by the
alignment test. A format that fits ends Oversize. -/
def State.srcFmt (s : State) (r a : Nat) (f : Fmt) (comp : Bool) (ts : Nat := 0) : State :=
  let b := s.ptBase r
  let s := s.srcBack b
  let st := s.ptState b
  if st = ptDetecting ∨ st = ptOversize then
    if s.fits b f then s.srcFrame b a f true comp ts
    else if st = ptDetecting then
      ((s.setGang b PLT_STAT_state ptOversize).pirq b 4).setPt b { (s.pt b) with last := some f }
    else s.setPt b { (s.pt b) with last := some f }
  else s

/-- The attributes of an established picture change with its payload ID (R88, DESIGN CHOICE, log entry 166): the frames from the
next on have the new ones, and a picture that no longer fits its berths is Oversize. -/
def State.srcAttr (s : State) (r : Nat) (f : Fmt) : State :=
  let b := s.ptBase r
  let st := s.ptState b
  if st = ptOff ∨ st = ptLost ∨ st = ptDetecting then s
  else if s.fits b f then
    let s := s.setPt b { s.pt b with last := some f }
    if st = ptOversize then s.setGang b PLT_STAT_state ptDetecting else s
  else
    let s := if st = ptOversize then s else ((s.hold b).setGang b PLT_STAT_state ptOversize).pirq b 4
    s.setPt b { s.pt b with last := some f }

/-! ### Rail frames -/

/-- The uptime of the present rail frame start, on every rail of a gang. -/
def State.showStart (s : State) (b t : Nat) : State :=
  (s.ptRails b).foldl (fun s r => s.setFld64 (pgQuad r) PLT_FRUPT_lo PLT_FRUPT_hi t (r % 4)) s

/-- The rails of a gang start a frame: no line of it has been released. -/
def State.newLines (s : State) (b : Nat) : State := (s.ptRails b).foldl (fun s r => s.setPt r { s.pt r with line := [], rows := (0, 0) }) s

/-- A ready frame goes out on the rail: a start that re-times the rail off its own continuation counts as a short or long frame
(R154, R157); a held black ends. -/
def State.railGo (s : State) (b : Nat) (fr : ReadyFrame) : State :=
  let v := s.pt b
  let t := fr.release
  let s := match v.next with
    | some n =>
      if !(fr.moved || s.pst b PLT_STAT_holding = 1) then s
      else if t < n then s.pcount b PLT_SHORT_n
      else if n < t then s.pcount b PLT_LONG_n
      else s
    | none => s
  let v := { v with fmt := v.last, onGrid := fr.onGrid, start := t, holdLeft := none, anc := fr.anc, edh := fr.edh,
                    ts := fr.ts }
  let s := (s.setPt b { v with next := some (s.ptNext b v) }).newLines b
  ((s.setGang b PLT_STAT_holding 0).setGang b PLT_RES_cues fr.res).showStart b t

/-- The next ready frame starts on the rail (R154): the staged fields of the gang apply, and where they changed the test the frame
is tested anew (R161); a decided change takes effect (R152). -/
def State.railStart (s : State) (r : Nat) : State :=
  let b := s.ptBase r
  match (s.pt b).frames with
  | [] => s
  | fr :: rest =>
    if fr.release < s.now + 16 then
      let test := fun (s : State) => (s.plv b PLT_CFG_group, s.plv b PLT_CFG_win)
      let was := test s
      let s := s.setPt b { s.pt b with frames := rest }
      let s := (s.ptRails b).foldl (fun s x => s.ptApply x) s
      if s.ptState b != ptAligned && s.ptState b != ptUnaligned then s
      else
        let s := s.ptTurn b fr.release
        let lam := s.grpNext (s.plv b PLT_CFG_group) fr.ready - fr.ready
        let fails := s.ptState b = ptAligned ∧ test s ≠ was ∧
          !(s.ptVerdict b lam ((s.pt b).last.getD ⟨0, 0, 0, false, 0, 0⟩)).pass
        (if fails then s.ptDecide b false fr.release else s).railGo b fr
    else s

/-- A held black frame starts one frame length after the last, or the hold has run out and the rail carries no established
format (R156). -/
def State.holdStart (s : State) (r : Nat) : State :=
  let b := s.ptBase r
  let v := s.pt b
  match v.next with
  | none => s
  | some n =>
    if s.pst b PLT_STAT_holding = 1 ∧ n < s.now + 16 then
      if v.holdLeft = some 0 then
        (s.setPt b { v with fmt := none, next := none, holdLeft := none }).setGang b PLT_STAT_holding 0
      else
        let v := { v with start := n, holdLeft := v.holdLeft.map (· - 1), anc := [], edh := [] }
        ((s.setPt b { v with next := some (s.ptNext b v) }).newLines b).showStart b n
    else s

/-- Missing pixels take the pixel of the line before in the same field, black on a field's first line (R158). The code
of black is the interface's (log entry 20). -/
def conceal (pix : List (Option Nat)) (prev : List Nat) : List Nat :=
  (pix.zip (List.range pix.length)).map (fun e => e.1.getD (prev.getD e.2 Config.black))

/-- Rail r releases the next line of field k. -/
def State.putLine (s : State) (r k : Nat) (l : List Nat) : State :=
  let v := s.pt r
  s.setPt r { v with line := [if k = 0 then l else v.line.getD 0 [], if k = 1 then l else v.line.getD 1 []],
                     rows := if k = 0 then (v.rows.1 + 1, v.rows.2) else (v.rows.1, v.rows.2 + 1) }

/-- The pixels of the next line of field k of rail r that its berths can hold: in the slot of a type 0 entry those whose packets have
been released for this frame (R138). How a picture is divided over a gang's rails no rule says (log entry 173). -/
def State.railHas (s : State) (r k : Nat) (pix : List (Option Nat)) : List (Option Nat) :=
  let b := s.ptBase r
  match (if r < 512 then none else slotEntry s.rxTab (b - 512)) with
  | none => pix
  | some e =>
    if entFld s.rxTab e RXE_CTL_type ≠ 0 then pix
    else
      let w := gangWidth (s.plv b PLT_CFG_gang)
      let v := s.pt r
      let y := if k = 0 then v.rows.1 else v.rows.2
      let l := (Store.get (fun _ => ({} : RxEntry)) s.rxEnt e).cover.filter (fun c => c.ts == (s.pt b).ts && c.field == k)
      pix.mapIdx (fun x p =>
        let q := if w = 1 then (y, x) else Config.gangPixel w (r - b) y x
        if l.any (fun c => c.row == q.1 && c.off ≤ q.2 && q.2 < c.off + c.n) then p else none)

/-- A rail line of field k is released with the pixels its berths hold (R158): any missing pixel makes it a concealed line,
counted also as late where lateness is the cause; an SRAM error captures 0x060 with the berth address. While the rail holds
output the line is black (R156). -/
def State.railLine (s : State) (r k : Nat) (pix : List (Option Nat)) (late : Bool) (sram : Option Nat) : State :=
  let b := s.ptBase r
  if s.pst b PLT_STAT_holding = 1 then s.putLine r k (pix.map (fun _ => Config.black))
  else
    let pix := s.railHas r k pix
    let s := s.putLine r k (conceal pix ((s.pt r).line.getD k []))
    let s := s.when (pix.any Option.isNone) (fun s =>
      let s := (s.pcount b PLT_CONCEAL_n).pirq b 5
      s.when late (fun s => s.pcount b PLT_LATE_LN_n))
    match sram with
    | some x => s.err (pgQuad b) 0x060 (some accMediaRead) (some x)
    | none => s

/-! ### Groups -/

/-- A Platform aligned to a group tests its source again: the lead of its last frame on the group's grid as it now runs (R150,
R153). -/
def State.retest (s : State) (g b : Nat) : State :=
  let v := s.pt b
  match v.last with
  | some f =>
    let T := perOf (s.grpRate g)
    if s.ptBase b = b ∧ s.ptState b = ptAligned ∧ s.plv b PLT_CFG_group = g ∧ T ≠ 0 then
      let lam := (s.grpNext g v.lastReady - v.lastReady) % T
      let vd := s.ptVerdict b lam f
      let s := (s.setGang b PLT_LEAD_cues lam).setGang b PLT_STAT_late vd.late.toNat
      let s := s.setGang b PLT_STAT_rate_diff (f.rate != s.grpRate g).toNat
      if vd.pass then s else s.ptDecide b false s.now
    else s
  | none => s

/-- An alignment group passes its last old instant and runs on its new grid (R150): IRQ regroup, and every Platform aligned to it
tests its source again. -/
def State.regroup (s : State) (g : Nat) : State :=
  let v := s.grp g
  match v.move with
  | some lo =>
    if lo < s.now + 16 then
      let w := s.grpWanted g
      let s := (s.setGrp g { grid := w, rate := s.grpSetRate g, start := lo + w.per / 2, last := lo, move := none }).irq pgPool 0
      s.plat.foldl (fun s e => s.retest g e.1) s
    else s
  | none => s

/-- A group's live settings changed from old (its enable, rate and offset): enabled both before and after and changed, it
moves; otherwise its grid is laid at once (R150). -/
def State.grpLive (s : State) (g : Nat) (oldEn : Bool) (oldRate oldOfs : Nat) : State :=
  if oldRate = s.grpSetRate g ∧ oldOfs = s.grpSetOfs g ∧ oldEn = s.grpEn g then s
  else if oldEn && s.grpEn g then s.grpMove g 0
  else s.grpLay g

/-- The waiting commit of a group's slot of the pool page becomes live. -/
def State.poolApply (s : State) (g : Nat) : State :=
  let e := s.grpEn g
  let r := s.grpSetRate g
  let o := s.grpSetOfs g
  (s.applySlot pgPool .pool g).grpLive g e r o

end Sys2Proof.Machine
end

