-- ==== Sys2Proof/Machine/Rails.lean ====
section
/-!
DEFINITION. What the 2,336 rails carry and when their frames start (R8, R155, R174, R188): Platforms, synchroniser units and
Prosceniums as sources of a tap; and which rail each tap selects.
-/
namespace Sys2Proof.Machine

/-- Two alignment groups share a rate code and an offset (R155). -/
def State.sameGrid (s : State) (g h : Nat) : Bool := s.grpRate g == s.grpRate h && s.grpOfs g == s.grpOfs h

/-! ### Synchroniser units (R206, R207, R213) -/

def State.sy (s : State) (k : Nat) : Syn := Store.get (fun _ => {}) s.syn k
def State.setSy (s : State) (k : Nat) (v : Syn) : State := { s with syn := Store.put (fun _ => {}) k v s.syn }
def State.syLv (s : State) (k : Nat) (f : Fld) : Nat := s.lv (pgSyn k) f (k % 4)
def State.syFld (s : State) (k : Nat) (f : Fld) : Nat := s.fld (pgSyn k) f (k % 4)
def State.setSyFld (s : State) (k : Nat) (f : Fld) (v : Nat) : State := s.setFld (pgSyn k) f v (k % 4)
def State.syCount (s : State) (k : Nat) (f : Fld) (n : Nat := 1) : State := s.bump (pgSyn k) f n (k % 4)
def State.syIrq (s : State) (k b : Nat) : State := s.irq (pgSyn k) (6 * (k % 4) + b)

/-- Frame m as a unit holds it: in the ring, or kept as the last good one (R214). -/
def Syn.frame (v : Syn) (m : Nat) : Option SynFrame :=
  (v.ring.find? (fun f => f.num == m)).orElse (fun _ => v.good.filter (fun f => f.num == m))

def synOff : Nat := 0
def synStarting : Nat := 1
def synRunning : Nat := 2

def State.synState (s : State) (k : Nat) : Nat := s.syFld k SYN_STAT_state

/-- Unit b is the base of a four-unit gang: claimed as one, or enabled as one. -/
def State.synGang (s : State) (b : Nat) : Bool :=
  b % 4 == 0 && (match (s.sy b).claim with
    | some (_, w) => w == 4
    | none => s.syLv b SYN_CFG_en == 1 && s.syLv b SYN_CFG_gang == 1)

/-- The base of the gang a unit belongs to, or the unit itself. -/
def State.synBase (s : State) (k : Nat) : Nat := if s.synGang (k - k % 4) then k - k % 4 else k

/-- The output group of a unit: the claim's, or the configured one (R180). -/
def State.synGroup (s : State) (k : Nat) : Nat :=
  match (s.sy k).claim with | some (g, _) => g | none => s.syLv k SYN_CFG_group

/-! ### Prosceniums (R225, R241, R246, R247) -/

def State.pr (s : State) (p : Nat) : Pro := Store.get (fun _ => {}) s.pro p
def State.setPr (s : State) (p : Nat) (v : Pro) : State := { s with pro := Store.put (fun _ => {}) p v s.pro }

/-- The pages of a Proscenium: raster, layers, blending. -/
def pgRas (p : Nat) : Nat := pgPro p 0
def pgLay (p : Nat) : Nat := pgPro p 1
def pgBlend (p : Nat) : Nat := pgPro p 2

/-- Proscenium b's live settings make it the base of a gang (R241). -/
def State.proGang (s : State) (b : Nat) : Bool := s.lbit (pgRas b) PRO_RASTER_gang && s.lv (pgRas b) PRO_RASTER_fmt == 6

/-- The base of the live gang a Proscenium belongs to, or itself. -/
def State.proBase (s : State) (p : Nat) : Nat := if s.proGang (p - p % 4) then p - p % 4 else p

/-- Width, height, total lines and interlace of a raster code (R225, R246). -/
def rasterOf (fmt : Nat) : Nat × Nat × Nat × Bool :=
  match fmt with
  | 0 => (720, 486, 525, true) | 1 => (720, 576, 625, true) | 2 => (1280, 720, 750, false) | 3 => (1920, 1080, 1125, true)
  | 5 => (3840, 2160, 2250, false) | 6 => (7680, 4320, 4500, false) | _ => (1920, 1080, 1125, false)

def State.proGroup (s : State) (p : Nat) : Nat := s.lv (pgBlend (s.proBase p)) PRO_OUT_group

/-- The picture that a Proscenium's live settings give. -/
def State.proFmt (s : State) (p : Nat) : Fmt :=
  let b := s.proBase p
  let r := rasterOf (s.lv (pgRas b) PRO_RASTER_fmt)
  { rate := s.grpRate (s.proGroup p), lines := r.2.2.1, px := r.1, intl := r.2.2.2, samp := s.lv (pgRas b) PRO_RASTER_smp }

/-- What a Proscenium's rail carries now: a new raster or group is on it from F + D (R247); of a Proscenium just started, its first. -/
def State.proOut (s : State) (p : Nat) : Option ProOut :=
  let l := (s.pr p).shown
  ((l.filter (fun e => e.upt ≤ s.now)).getLast?).orElse (fun _ => l.head?)

/-- The output delay D of a Proscenium (R246). -/
def State.proDelay (s : State) (p : Nat) : Nat :=
  let b := s.proBase p
  6 * perOf (s.grpRate (s.proGroup p)) / (rasterOf (s.lv (pgRas b) PRO_RASTER_fmt)).2.2.1

def State.proRunning (s : State) (p : Nat) : Bool := s.fld (pgBlend p) PRB_STAT_state == 2

/-! ### Rails -/

/-- The frames a rail carries are compressed (R127). -/
def State.railComp (s : State) (r : Nat) : Bool := r < 2048 && (s.pt (s.ptBase r)).comp

/-- The picture a rail carries, established or held (R156, R174); none without one. A rail of compressed frames presents one only to
a tap that takes them (opaque_), an IP transmit tap bound to a type 1 entry (R127). -/
def State.railFmt (s : State) (r : Nat) (opaque_ : Bool := false) : Option Fmt :=
  if r < 2048 then
    if s.railComp r && !opaque_ then none else (s.pt (s.ptBase r)).fmt
  else if r < 2304 then
    let b := s.synBase (r - 2048)
    if s.synState b = synRunning ∧ r - 2048 - b < (s.sy b).width then (s.sy b).out else none
  else if r < 2336 then if s.proRunning (r - 2304) then (s.proOut (r - 2304)).map (·.fmt) else none
  else none

/-- The rail carries an established picture of its source, not held black (R214). -/
def State.railGood (s : State) (r : Nat) (opaque_ : Bool := false) : Bool :=
  if r < 2048 then
    (s.ptState (s.ptBase r) == ptAligned || s.ptState (s.ptBase r) == ptUnaligned) && (s.railFmt r opaque_).isSome
  else (s.railFmt r).isSome

/-- The rail is absent (R174). -/
def State.railAbsent (s : State) (r : Nat) (opaque_ : Bool := false) : Bool := !s.railGood r opaque_

/-- The alignment group of a rail. -/
def State.railGroup (s : State) (r : Nat) : Nat :=
  if r < 2048 then s.plv (s.ptBase r) PLT_CFG_group
  else if r < 2304 then s.synGroup (s.synBase (r - 2048))
  else ((s.proOut (r - 2304)).map (·.group)).getD (s.proGroup (r - 2304))

/-- The rail is on platform for a destination of group g (R155, R174). -/
def State.railOn (s : State) (r g : Nat) (opaque_ : Bool := false) : Bool :=
  s.railGood r opaque_ && (2048 ≤ r || s.ptState (s.ptBase r) == ptAligned) && s.sameGrid (s.railGroup r) g

/-- The base of the rail gang a rail belongs to, and its width (R188). -/
def State.railBase (s : State) (r : Nat) : Nat :=
  if r < 2048 then s.ptBase r
  else if r < 2304 then 2048 + s.synBase (r - 2048)
  else 2304 + s.proBase (r - 2304)

def State.railWidth (s : State) (r : Nat) : Nat :=
  if r < 2048 then gangWidth (s.plv (s.ptBase r) PLT_CFG_gang)
  else if r < 2304 then (s.sy (s.synBase (r - 2048))).width
  else if s.proGang (s.proBase (r - 2304)) then 4 else 1

/-- The start and length of the frame a rail carries at its own timing; none where no frame has started. -/
def State.railFrame (s : State) (r : Nat) : Option (Nat × Nat) :=
  if r < 2048 then
    let v := s.pt (s.ptBase r)
    match v.next with | some n => some (v.start, n - v.start) | none => none
  else if r < 2304 then
    let b := s.synBase (r - 2048)
    if s.synState b = synRunning then
      some (s.fld64 (pgSyn b) SYN_FRUPT_lo SYN_FRUPT_hi (b % 4), perOf (s.grpRate (s.synGroup b)))
    else none
  else
    let p := s.proBase (r - 2304)
    let T := perOf (s.grpRate (s.proGroup p))
    let e := (s.pr p).frame + s.proDelay p
    if s.proRunning p then some (if s.now + 16 ≤ e then e - T else e, T) else none

/-- The ancillary packets of the frame that a rail gang of base r carries, by rail of the gang (R95, R208). -/
def State.railAncs (s : State) (r : Nat) : List (Nat × AncPkt) :=
  if r < 2048 then (s.pt r).anc
  else if r < 2304 then
    let v := s.sy (r - 2048)
    match v.shown with
    | some m => ((v.frame m).map (·.anc)).getD []
    | none => []
  else []

/-- The ancillary packets of one rail. -/
def State.railAnc (s : State) (r : Nat) : List AncPkt :=
  let b := s.railBase r
  ((s.railAncs b).filter (fun k => k.1 == r - b)).map (·.2)

/-- The EDH findings of the frame a rail carries, by field (R94). -/
def State.railEdh (s : State) (r : Nat) : List (Nat × Nat) :=
  if r < 2048 then (s.pt (s.ptBase r)).edh
  else if r < 2304 then
    let v := s.sy (s.synBase (r - 2048))
    match v.shown with
    | some m => ((v.frame m).map (·.edh)).getD []
    | none => []
  else []

/-- The colorimetry code of what a rail carries (R226): an SDI source's payload ID or RXF_DFLT gives it, a Proscenium its raster, a
synchroniser the source it shows; an IP flow has none. -/
def State.railColour (s : State) (r : Nat) : Option Nat :=
  if r < 512 then Config.pidColour (Store.get (fun _ => ({} : Deframer)) s.defr (s.ptBase r)).attr
  else if r < 2048 then none
  else if r < 2304 then
    let v := s.sy (s.synBase (r - 2048))
    match v.shown with
    | some m => (v.frame m).bind (·.colour)
    | none => none
  else if r < 2336 then (s.proOut (r - 2304)).map (·.cs)
  else none

/-! ### Taps (R167, R168) -/

/-- No source. -/
def noRail : Nat := 0xFFF

def State.tapRail (s : State) (t : Nat) : Nat := Store.get (fun _ => noRail) s.tapSel t
def State.tapLv (s : State) (t : Nat) (f : Fld) : Nat := s.lv (pgTap t) f (t % 16)
def State.tapFld (s : State) (t : Nat) (f : Fld) : Nat := s.fld (pgTap t) f (t % 16)
def State.setTapFld (s : State) (t : Nat) (f : Fld) (v : Nat) : State := s.setFld (pgTap t) f v (t % 16)
def State.tapCount (s : State) (t : Nat) (f : Fld) : State := s.bump (pgTap t) f 1 (t % 16)

/-- The base of the tap gang a tap belongs to (R188). -/
def State.tapBase (s : State) (t : Nat) : Nat :=
  let q := t - t % 4
  let d := t - t % 2
  if s.tapLv q TT_TAPCFG_gang = 2 then q else if s.tapLv d TT_TAPCFG_gang = 1 then d else t

def State.tapWidth (s : State) (t : Nat) : Nat := gangWidth (s.tapLv (s.tapBase t) TT_TAPCFG_gang)

/-- The alignment group of a tap; a gang's members serve its base. -/
def State.tapGroup (s : State) (t : Nat) : Nat := s.tapLv (s.tapBase t) TT_TAPCFG_group

/-- Tap t is an IP transmit tap bound to an enabled type 1 entry: it takes compressed frames (R127). -/
def State.tapOpaque (s : State) (t : Nat) : Bool :=
  512 ≤ t && t < 2048 && (match slotEntry s.txTab (t - 512) with | some e => entFld s.txTab e RXE_CTL_type == 1 | none => false)

/-- The picture of a tap's selected rail. -/
def State.tapFmt (s : State) (t : Nat) : Option Fmt := s.railFmt (s.tapRail t) (s.tapOpaque t)

/-- The selected rail of a tap is off platform: neither on platform nor absent (R174), at a synchroniser input too. -/
def State.tapOff (s : State) (t : Nat) : Bool :=
  let r := s.tapRail t
  let o := s.tapOpaque t
  r != noRail && s.railGood r o && !s.railOn r (s.tapGroup t) o

/-! ### What changes with the rails: input loss of the synchronisers (R214), and sources falling off platform (R178) -/

/-- The rail that a unit reads: the selection of its input tap. -/
def State.synRail (s : State) (b : Nat) : Nat := s.tapRail (2048 + b)

/-- A unit's input rail carries no established format: input_lost is set at once, with IRQ input_lost; the unit stops writing. -/
def State.synLost (s : State) (b : Nat) : State :=
  let v := s.sy b
  if v.on && (s.railFmt (s.synRail b)).isNone && s.syFld b SYN_STAT_input_lost == 0 then
    ((s.setSy b { v with writing := false }).setSyFld b SYN_STAT_input_lost 1).syIrq b IRQ_synQuad_input_lost
  else s

/-- Every unit whose input rail lost its format. -/
def State.synLoss (s : State) : State := s.syn.foldl (fun s e => s.synLost e.1) s

/-- A selected rail is judged again: TT_TAPSTAT.off and absent follow it, and a source that falls off raises the tap's event
(R174, R178, R204). -/
def State.tapJudge (s : State) (t : Nat) : State :=
  let off := s.tapOff t
  let was := s.tapFld t TT_TAPSTAT_off = 1
  let s := (s.setTapFld t TT_TAPSTAT_off off.toNat).setTapFld t TT_TAPSTAT_absent
    (s.tapRail t != noRail && s.railAbsent (s.tapRail t) (s.tapOpaque t)).toNat
  if off && !was then
    (s.setTapFld t TT_TAPEVT (s.tapFld t TT_TAPEVT ||| 8)).irq (pgTap t) (t % 16)
  else s

/-- Everything that watches the rails takes note of them as they now are. -/
def State.watch (s : State) : State := (s.tapSel.foldl (fun s e => s.tapJudge e.1) s).synLoss

/-- The meaning of a command that may change what rails carry. -/
def runRails (s : State) (f : State → State) : Out := run s (fun s => (f s).watch)

/-! ### The mute output of an SDI formatter (R103) -/

/-- The payload ID of the mute output names a picture. -/
def State.muteFmt (s : State) (L : Nat) : Option Fmt :=
  let w := s.lword (pgFmt L + 0x108)
  if w = 0 then none else Config.pidFormat w

/-- A formatter can carry a picture (R103, R513): the link rate is a lane rate, and the lane's own when it does not follow. -/
def State.fmtCarries (s : State) (L : Nat) (f : Fmt) : Bool :=
  match laneRate f (linkWidth (s.lv (pgFmt L) TXF_LINK_mode)) with
  | some c => s.bit (pgTxl L) TXL_CTL_follow || s.fld (pgTxl L) TXL_CTL_rate == c
  | none => false

/-- What the formatter of SDI tap L sends: the source's picture, or none where it sends its mute output. -/
def State.fmtSource (s : State) (L : Nat) : Option Fmt :=
  match s.tapFmt L with | some f => if s.fmtCarries L f then some f else none | none => none

/-! ### The commands of the Platforms -/

/-- RAIL_FRAME_START (R154). -/
def execRailFrameStart (rail : Fin 2048) (s : State) : Out := runRails s fun s => s.railStart rail

/-- HOLD_FRAME_START (R156). -/
def execHoldFrameStart (rail : Fin 2048) (s : State) : Out := runRails s fun s => s.holdStart rail

/-- GROUP_REGRID (R150). -/
def execGroupRegrid (g : Fin 16) (s : State) : Out := runRails s fun s => s.regroup g


end Sys2Proof.Machine
end

