-- ==== Sys2Proof/Machine/Memory.lean ====
section
/-!
DEFINITION. DRAM as the block's units read and write it: bytes by device address, little-endian, a byte not listed reading
zero as the power-on fill leaves it (R404).
-/
namespace Sys2Proof.Machine

/-- What an unlisted byte reads as. -/
def dramZero : Nat → Byte := fun _ => 0

/-- The canonical form of a memory: addresses strictly rising, no listed byte zero. -/
abbrev Memory.wf (m : List Host.Cell) : Prop := Store.Wf dramZero m

def Memory.read (m : List Host.Cell) (a : Nat) : Byte := Store.get dramZero m a

def Memory.write (m : List Host.Cell) (a : Nat) (v : Byte) : List Host.Cell := Store.put dramZero a v m

/-- Bytes stored at consecutive addresses. -/
def Memory.writeAll : List Host.Cell → Nat → List Byte → List Host.Cell
  | m, _, [] => m
  | m, a, b :: t => Memory.writeAll (Memory.write m a b) (a + 1) t

/-- n bytes at consecutive addresses. -/
def Memory.readAll (m : List Host.Cell) (a n : Nat) : List Byte := (List.range n).map (fun i => Memory.read m (a + i))

/-- n bytes as a little-endian number. -/
def Memory.readLE (m : List Host.Cell) (a n : Nat) : Nat := ofBytesLE (Memory.readAll m a n)

def State.load (s : State) (a n : Nat) : List Byte := Memory.readAll s.dram a n
def State.loadLE (s : State) (a n : Nat) : Nat := Memory.readLE s.dram a n

/-- Installed data bytes (R373, R383). -/
def State.dramSize (s : State) : Nat := s.fld64 pgDrcG DRC_SIZE_lo DRC_SIZE_hi

/-- An area lies inside installed DRAM. -/
def State.inDram (s : State) (base len : Nat) : Bool := base + len ≤ s.dramSize

end Sys2Proof.Machine
end

