-- ==== Sys2Proof/Machine/Code.lean ====
section
/-!
DEFINITION. The code of DRAM granules: RS(20,16) over GF(2^8), as errors are seen through it (R388 to R390, R394). The code is
linear, so the pattern by which a stored codeword differs from the encoding of its data decides what the decoder does.
-/
namespace Sys2Proof.Machine

/-- Multiplication by x in GF(2^8) with x^8 + x^4 + x^3 + x^2 + 1 (R388). -/
def gfX (a : Nat) : Nat := if a < 128 then 2 * a else (2 * a) ^^^ 0x11D

/-- The product in GF(2^8). -/
def gfMul (a b : Nat) : Nat :=
  (List.range 8).foldr (fun i r => gfX r ^^^ (if b.testBit i then a else 0)) 0

def gfPow (a : Nat) : Nat → Nat
  | 0 => 1
  | n + 1 => gfMul a (gfPow a n)

/-- The inverse: the 254th power. -/
def gfInv (a : Nat) : Nat := gfPow a 254

def gfDiv (a b : Nat) : Nat := gfMul a (gfInv b)

/-- Symbol i of a 160-bit pattern (R406). -/
def symAt (e i : Nat) : Nat := e / 256 ^ i % 256

/-- The locator of symbol i, the coefficient of x^(19 − i) (R389). -/
def loc (i : Nat) : Nat := gfPow 2 (19 - i)

/-- The four syndromes of an error pattern: its value at the roots α^0 to α^3. -/
def syndromes (e : Nat) : List Nat :=
  (List.range 4).map fun j => (List.range 20).foldl (fun r i => r ^^^ gfMul (symAt e i) (gfPow (loc i) j)) 0

/-- The errors at two positions that explain four syndromes, if any. -/
def solve2 (s0 s1 s2 s3 i k : Nat) : Option (List (Nat × Nat)) :=
  let x := loc i
  let z := loc k
  let y := gfDiv (s1 ^^^ gfMul z s0) (x ^^^ z)
  let w := s0 ^^^ y
  let at2 := gfMul y (gfMul x x) ^^^ gfMul w (gfMul z z)
  let at3 := gfMul y (gfPow x 3) ^^^ gfMul w (gfPow z 3)
  if at2 = s2 ∧ at3 = s3 then some [(i, y), (k, w)] else none

/-- The errors at a device's two symbols a and b and one further position k that explain four syndromes, if any. -/
def solve3 (s0 s1 s2 s3 a b k : Nat) : Option (List (Nat × Nat)) :=
  let xa := loc a
  let xb := loc b
  let xk := loc k
  let t0 := s1 ^^^ gfMul xa s0
  let t1 := s2 ^^^ gfMul xa s1
  let t2 := s3 ^^^ gfMul xa s2
  let zb := gfDiv (t1 ^^^ gfMul xk t0) (xb ^^^ xk)
  let zk := t0 ^^^ zb
  if gfMul zb (gfMul xb xb) ^^^ gfMul zk (gfMul xk xk) = t2 then
    let yb := gfDiv zb (xb ^^^ xa)
    let yk := gfDiv zk (xk ^^^ xa)
    some [(a, s0 ^^^ yb ^^^ yk), (b, yb), (k, yk)]
  else none

/-- The device of a symbol (R388). -/
def symDev (i : Nat) : Nat := if i < 16 then i % 8 else if i < 18 then 8 else 9

/-- The two symbols of a device. -/
def devSyms (d : Nat) : Nat × Nat := if d < 8 then (d, d + 8) else if d = 8 then (16, 17) else (18, 19)

/-- The unordered pairs of positions. -/
def symPairs : List (Nat × Nat) :=
  (List.range 20).flatMap fun i => ((List.range 20).filter (fun k => i < k)).map (fun k => (i, k))

/-- The errors a decoder finds in a codeword, with a retired device's symbols as erasures (R390, R394): none where the
syndromes cannot be explained. -/
def findErrors (dev e : Nat) : Option (List (Nat × Nat)) :=
  match syndromes e with
  | [s0, s1, s2, s3] =>
    if s0 = 0 ∧ s1 = 0 ∧ s2 = 0 ∧ s3 = 0 then some []
    else if dev < 10 then
      let (a, b) := devSyms dev
      ((List.range 20).filter (fun k => k != a && k != b)).findSome? (fun k => solve3 s0 s1 s2 s3 a b k)
    else symPairs.findSome? (fun p => solve2 s0 s1 s2 s3 p.1 p.2)
  | _ => none

/-- What a codeword came to: uncorrectable, or the pattern that remains on the delivered symbols and the symbols corrected
(those of a retired device are erasures and count as none, log entry 75). -/
structure CwResult where
  bad : Bool
  rest : Nat
  fixed : List Nat
  deriving DecidableEq, Repr

/-- Decodes a codeword whose stored form differs from its encoding by e; a poisoned one is always uncorrectable (R405). -/
def decodeCw (dev e : Nat) : CwResult :=
  if 2 ^ 160 ≤ e then ⟨true, 0, []⟩
  else match findErrors dev e with
    | none => ⟨true, 0, []⟩
    | some l =>
      let l := l.filter (fun p => p.2 != 0)
      ⟨false, e ^^^ l.foldl (fun r p => r ^^^ (p.2 * 256 ^ p.1)) 0, (l.map (·.1)).filter (fun i => symDev i != dev)⟩

/-- What a granule came to: uncorrectable, the bytes delivered, the devices its corrected codewords are attributed to, the
symbols corrected in the worst codeword, and whether some corrected codeword is attributed to none (R390, R391). -/
structure GrResult where
  bad : Bool
  data : List Byte
  devs : List Nat
  syms : Nat
  mixed : Bool
  deriving DecidableEq, Repr

/-- Decodes a granule from its bytes and the patterns of its eight codewords. -/
def decodeGranule (dev : Nat) (data : List Byte) (errs : List Nat) : GrResult :=
  let rs := errs.map (decodeCw dev)
  let one := rs.filterMap (fun r => match r.fixed with
    | [] => none
    | i :: t => some (if t.all (fun k => symDev k == symDev i) then symDev i else 15))
  { bad := rs.any (·.bad),
    data := data.mapIdx (fun n b => b ^^^ BitVec.ofNat 8 (symAt ((rs.map (·.rest)).getD (n / 16) 0) (n % 16))),
    devs := (one.filter (· < 10)).eraseDups,
    syms := (rs.map (fun r => r.fixed.length)).foldl max 0,
    mixed := one.any (· == 15) }

end Sys2Proof.Machine
end

