-- ==== Sys2Proof/Machine/Cue.lean ====
section
/-!
DEFINITION. The cue clock (R20 to R39): uptime, time of day, its steps and its steering.
-/
namespace Sys2Proof.Machine

/-- The increment of a steering value s in ppt, in 2^-40 cue (R31). -/
def incOf (s : Int) : Nat := (16 * 2 ^ 40 + roundDiv (s * 2 ^ 44) (10 ^ 12)).toNat

/-- The increment registers take the value of the steering register, used from the next TICK (R26, R31). -/
def State.setInc (s : State) (ppt : Int) : State :=
  let v := incOf ppt
  let s := s.setFld pgCue CUE_TOD_INCL_frac (v % 2 ^ 32)
  (s.setFld pgCue CUE_TOD_INCH_frac (v / 2 ^ 32 % 256)).setFld pgCue CUE_TOD_INCH_int (v / 2 ^ 40)

/-- The loop writes CUE_TOD_STEER, unless Catwalk masters alone steer (R32). -/
def State.loopSteer (s : State) (ppt : Int) : State :=
  if s.bit pgCue CUE_TOD_CTL_steer_src then s
  else (((s.setFld pgCue CUE_TOD_STEER_ppt (ofSigned 32 ppt)).keepParity pgCue .cue 0x134).setInc ppt).logTod

/-- The step that the offset registers spell, in 2^-40 cue (R28). -/
def State.stepOfs (s : State) : Int :=
  toSigned 64 (s.fld64 pgCue CUE_STEP_lo CUE_STEP_hi) * 2 ^ 40 + s.fld pgCue CUE_STEP_FRAC_frac * 2 ^ 10

/-- A step of delta is applied in this TICK (R27): refused if seconds would leave their range; while Unset it is the
acquisition, while Held a discontinuity. Answers the state and, if applied, by how much time of day that was Held moved. -/
def State.applyStep (s : State) (delta : Int) : State × Option Int :=
  let t := s.tod.total + delta
  if t < 0 ∨ (2 ^ 48 * cueSec * 2 ^ 40 : Int) ≤ t then
    ((s.bump pgCue CUE_STEP_REFUSED_n).irq pgCue IRQ_cue_step_refused, none)
  else
    let was := s.held
    let s := { s with tod := s.tod.put t.toNat }
    let s := s.setFld64 pgCue CUE_LASTSTEP_lo CUE_LASTSTEP_hi s.now
    if was then ((s.bump pgCue CUE_DISC_COUNT_n).irq pgCue IRQ_cue_discontinuity, some delta)
    else ((s.setBit pgCue CUE_TOD_CTL_valid true).irq pgCue IRQ_cue_acquired, some 0)

/-- The pending step of a TICK (R28): the master's offset if a master asked; a servo's request that met it is a collision
(R52), evaluated again at the next TICK, and one made while Held is discarded. -/
def State.pendingStep (s : State) : State × Option Int :=
  if s.tod.stepReq then
    let s := { s with tod := { s.tod with stepReq := false } }
    let s := s.when s.tod.servoStep.isSome (fun s => s.setBit pgCue PAGE_STAT_collide true)
    s.applyStep s.stepOfs
  else match s.tod.servoStep with
    | some d =>
      let s := { s with tod := { s.tod with servoStep := none } }
      if s.held then (s, none) else s.applyStep d
    | none => (s, none)

/-- Time of day advances by the increment, or by 12.25 times it on the bypass clock, the quarters carried (R26, R30). -/
def State.advance (s : State) : State :=
  let q := if s.cueByp then 49 * s.inc + s.tod.quarter else 4 * s.inc
  let d := q / 4
  let t := s.tod.put (s.tod.total + d)
  { s with tod := { t with steered := s.tod.steered + d, quarter := if s.cueByp then q % 4 else s.tod.quarter } }

/-- A new span of time of day opens where the present one does not lead to where it stands (R303). -/
def State.spanned (s : State) : State := if s.tod.at s.now = some (s.tod.total : Int) then s else s.logTod

/-- Uptime at the next TICK (R23). -/
def State.uptick (s : State) : State := { s with upt := s.upt + BitVec.ofNat 64 s.tickLen }

/-- A jump of time of day that was Held moves the grids, the Pit and the Call Bus's cycle. -/
def State.jumped (s : State) : Option Int → State
  | some d => ((s.grpMoveAll d).pitMove d).callMove d
  | none => s

/-- TOD_TICK (R23, R26): uptime advances; a pending step is applied; the increment is added. Before the cue PLL has locked
there is no TICK. -/
def State.tick (s : State) : State :=
  if s.cueRun then s.uptick.pendingStep.1.advance.spanned.jumped s.uptick.pendingStep.2 else s

/-- The hardware writes that software writes discarded are made again (R262). -/
def State.writeAgain (s : State) : State :=
  s.again.foldl (fun s e => s.setWord e.1 e.2) { s with again := [] }

/-- A whole write of a cue clock register: step requests, steering (R28, R31), with a hardware write in the same cycle. -/
def State.cueHook (s : State) (o : Nat) (eff : W32) : State :=
  if o = 0x130 then
    if eff.getLsbD 1 then { s with tod := { s.tod with stepReq := true } } else s
  else if o = 0x134 then (s.setInc (s.fldS pgCue CUE_TOD_STEER_ppt)).logTod
  else s

def State.cueWrite (s : State) (a : Acc) (o : Nat) (w : W32) (hw : Option W32) : State :=
  let r := s.storeWord a pgCue .cue 0 o w hw
  if r.ok then r.s.cueHook o r.eff else r.s

/-- The latch of uptime for a master (R39), and the word its read returns. -/
def State.latchUpt (s : State) (m : Nat) : State × W32 :=
  (s.setMreg m (pgCue + 0x104) (s.upt.extractLsb' 32 32), s.upt.extractLsb' 0 32)

/-- The latch of time of day and of the uptime of the same TICK for a master (R39). -/
def State.latchTod (s : State) (m : Nat) : State × W32 :=
  let t := s.tod
  let s := s.setMreg m (pgCue + 0x114) ((t.sec.extractLsb' 32 16).zeroExtend 32)
  let s := s.setMreg m (pgCue + 0x118) (t.cos.extractLsb' 0 32)
  let s := s.setMreg m (pgCue + 0x11C) ((t.frac.extractLsb' 10 30) ++ (t.cos.extractLsb' 32 2))
  let s := s.setMreg m (pgCue + 0x120) (s.upt.extractLsb' 0 32)
  (s.setMreg m (pgCue + 0x124) (s.upt.extractLsb' 32 32), t.sec.extractLsb' 0 32)

/-- UPTIME_LATCH_READ (R39). -/
def execUptimeLatchRead (a : Acc) (s : State) : Out := run s fun s =>
  s.viaRead a (pgCue + 0x100) (fun s => s.latchUpt a.m)

/-- TOD_LATCH_READ (R39). -/
def execTodLatchRead (a : Acc) (s : State) : Out := run s fun s => s.viaRead a (pgCue + 0x110) (fun s => s.latchTod a.m)

/-- TOD_STEP_REQUEST (R28): a write of CUE_TOD_CTL. -/
def execTodStepRequest (a : Acc) (word : W32) (s : State) : Out := run s fun s =>
  s.viaPath a (pgCue + 0x130) (fun s => s.cueWrite a 0x130 word none)

/-- TOD_STEER_WRITE (R31): hw, a loop write meets it in the same cycle and is discarded (R32, R52). -/
def execTodSteerWrite (a : Acc) (word : W32) (hw : Bool) (s : State) : Out := run s fun s =>
  s.viaPath a (pgCue + 0x134) (fun s => s.cueWrite a 0x134 word (if hw then some 0 else none))

end Sys2Proof.Machine
end

