-- ==== Sys2Proof/Machine/Rotate.lean ====
section
/-!
DEFINITION. The rotation of swings, as far as every class shares it (R440 to R449), and the repair area of the wear log (R458).
-/
namespace Sys2Proof.Machine

/-- Units one cursor runs over, by class (R443). -/
def clsUnits (c : Nat) : Nat := [32, 32, 40, 256, 32, 4, 16].getD c 0

/-- The swings of classes 3 to 6 (R440). -/
def clsSpares (c : Nat) : Nat := if c = 3 then 8 else if c = 4 then 2 else 1

/-- Powered hours now (R459). -/
def State.hours (s : State) : Nat := s.fld pgWear WEAR_BASE_h + s.now / (3600 * cueSec)

/-- A record for the repair area: with 2,048 records it is full, and 0x138 is captured instead (R459). -/
def State.logRepair (s : State) (type : Nat) (what : List Nat) : State :=
  if s.repairs.length < 2048 then { s with repairs := s.repairs ++ [⟨type, s.hours, what⟩] } else s.err pgWear 0x138

/-! ### What a swing stands for (R85, R204, R221, R243, R244, R284) -/

/-- The status bit of a unit whose swing carries it. -/
def State.showSwing (s : State) (c u : Nat) (on : Bool) : State :=
  match c with
  | 0 => s.setBit (pgRxl u) RXL_STAT_on_swing on
  | 1 => s.setBit (pgTxl u) TXL_STAT_on_swing on
  | 3 => s.setBit (pgSyn u) SYN_STAT_on_swing on (u % 4)
  | 4 => s.setBit (pgPro u 0) PRO_STAT_on_swing on
  | _ => s

/-- The unit of a class whose swing is in service: the one in rotation, else the one retired last. -/
def State.swingUnit (s : State) (c : Nat) : Option Nat :=
  if (s.ro c 0).on then some (s.ro c 0).unit
  else ((s.retired.filter (fun x => x / 65536 == c && x % 65536 < clsUnits c)).getLast?).map (· % 65536)

/-- The fields that name the unit whose swing is in service, of a class that has them. -/
def State.showClass (s : State) (c : Nat) : State :=
  let u := s.swingUnit c
  match c with
  | 2 => (s.setFld pgTt TT_SWING_plane (u.getD 0)).setBit pgTt TT_SWING_valid u.isSome
  | 3 => (s.setFld pgSync SYN_SWING_unit (u.getD 0)).setBit pgSync SYN_SWING_valid u.isSome
  | 4 => (s.setFld pgProG PRG_SWING_pro (u.getD 0)).setBit pgProG PRG_SWING_valid u.isSome
  | 6 => (s.setFld pgPit PIT_SWING_bank (u.getD 0)).setBit pgPit PIT_SWING_valid u.isSome
  | _ => s

/-! ### Steps (R444) -/

/-- Stores the rotation of a class (and group) and shows it in ROT_CLS_STAT. -/
def State.putRot (s : State) (c g : Nat) (v : Rot) : State :=
  let s := s.setRo c g v
  let s := s.setFld pgRot ROT_CLS_STAT_state v.st c
  s.setFld pgRot ROT_CLS_STAT_cursor (if c < 2 then 32 * g + v.cursor else v.cursor) c

/-- A step ends without completing: ROT_SKIP counts, the cursor stays (R444). -/
def State.rotAbort (s : State) (c g : Nat) : State :=
  (s.putRot c g { s.ro c g with st := 0 }).bump pgRot ROT_SKIP_n 1 c

/-- A handover that failed (R83): as an abort, with IRQ step_fail. -/
def State.rotFail (s : State) (c g : Nat) : State := (s.rotAbort c g).irq pgRot IRQ_rot_step_fail

/-- The swing has taken over the unit: testing starts (R444). -/
def State.rotOut (s : State) (c g : Nat) : State :=
  let v := s.ro c g
  ((s.putRot c g { v with st := 2, on := true, outFrom := s.now, failed := false }).showSwing c v.unit true).showClass c

/-- The unit is back in service: ROT_STEPS counts, the cursor moves on, the class is starved no more in any of its groups, and the
swing takes an idle test (R444, R449). -/
def State.rotDone (s : State) (c g : Nat) (idlePass : Bool) : State :=
  let v := s.ro c g
  let s := s.putRot c g { v with st := 0, on := false, cursor := (v.cursor + 1) % clsUnits c, missed := 0, idleBad := !idlePass }
  let s := (List.range (if c < 2 then 16 else 1)).foldl (fun s h => s.setRo c h { s.ro c h with missed := 0 }) s
  let s := (s.showSwing c v.unit false).showClass c
  (s.setFld pgRot ROT_CLS_STAT_starved 0 c).bump pgRot ROT_STEPS_n 1 c

/-- The swing of a class or group is used up or out of use (R447): classes 0 to 2 mark it, classes 3 to 6 take the next free
swing, and without one the class is exhausted. -/
def State.swingGone (s : State) (c g : Nat) : State :=
  let v := s.ro c g
  if c = 0 then (s.putRot c g { v with st := 0, used := true }).setWord (pgRot + 0x180) (s.word (pgRot + 0x180) ||| (1 <<< g))
  else if c = 1 then
    (s.putRot c g { v with st := 0, used := true }).setWord (pgRot + 0x180) (s.word (pgRot + 0x180) ||| (1 <<< (16 + g)))
  else if c = 2 then
    let m := v.cursor
    let a := if m < 32 then pgRot + 0x184 else pgRot + 0x188
    (s.putRot c g { v with st := 0, cursor := (m + 1) % 40 }).setWord a (s.word a ||| (1 <<< (m % 32)))
  else
    let s := s.putRot c g { v with st := 0, taken := v.taken + 1, idleBad := false }
    let s := s.setFld pgRot ROT_CLS_STAT_free (clsSpares c - 1 - (v.taken + 1)) c
    if v.taken + 1 < clsSpares c then s
    else ((s.setFld pgRot ROT_CLS_STAT_exhausted 1 c).irq pgRot IRQ_rot_exhausted).err pgRot 0x131

/-- A unit is retired (R447): recorded, counted, reported; its swing stays in its place. -/
def State.retire (s : State) (c g unit : Nat) : State :=
  let s := { s with retired := s.retired ++ [c * 65536 + unit] }
  let s := s.logRepair 0x13 [c, unit]
  let s := ((s.bump pgRot ROT_FAIL_n 1 c).irq pgRot IRQ_rot_retired).err pgRot 0x130
  let s := s.putRot c g { s.ro c g with on := false }
  (s.swingGone c g).showClass c

/-- The class, with its group, still has a swing to rotate. -/
def State.swingFree (s : State) (c g : Nat) : Bool :=
  let v := s.ro c g
  if c < 2 then !v.used
  else if c = 2 then true
  else v.taken < clsSpares c

/-- Nothing defers a new step of rotation (R448). -/
def State.rotMayStart (s : State) (c : Nat) : Bool :=
  s.lbit pgRot ROT_CTL_en && s.lbit pgRot ROT_CLS_en c && !s.bit pgRot ROT_CTL_pause && s.fltT != true && !s.classM

end Sys2Proof.Machine
end

