-- ==== Sys2Proof/Machine/Dram.lean ====
section
/-!
DEFINITION. DRAM channels: requests and their scheduling, row-disturb defence, refresh, drift tracking (R372 to R386), and the
decoding of reads with what it reports (R390 to R396, R400).
-/
namespace Sys2Proof.Machine

def State.ch (s : State) (n : Nat) : DChan := Store.get (fun _ => {}) s.dch n
def State.setCh (s : State) (n : Nat) (v : DChan) : State := { s with dch := Store.put (fun _ => {}) n v s.dch }
def State.bank (s : State) (n b : Nat) : DBank := Store.get (fun _ => {}) s.dbank (32 * n + b)
def State.setBank (s : State) (n b : Nat) (v : DBank) : State := { s with dbank := Store.put (fun _ => {}) (32 * n + b) v s.dbank }

/-! ### Addresses (R373) -/

/-- Where an address lies: channel, bank (4 × bank group + bank), row, column granule. -/
structure DPlace where
  ch : Nat
  bank : Nat
  row : Nat
  col : Nat
  deriving DecidableEq, Repr

def placeOf (addr : Nat) : DPlace :=
  let g := addr / 128
  let h := g / 8
  let r := h / 2048
  { ch := (g % 8) ^^^ (r % 8), bank := 4 * ((h % 8) ^^^ (r % 8)) + ((h / 8 % 4) ^^^ (r / 8 % 4)), row := r, col := h / 32 % 64 }

/-- The address of a place: the mapping is one to one. -/
def addrOf (p : DPlace) : Nat :=
  let h := p.row * 2048 + p.col * 32 + ((p.bank % 4) ^^^ (p.row / 8 % 4)) * 8 + ((p.bank / 4) ^^^ (p.row % 8))
  (h * 8 + (p.ch ^^^ (p.row % 8))) * 128

/-- The granule of an address, as an address. -/
def granuleOf (addr : Nat) : Nat := addr / 128 * 128

/-- Rows of a bank by density (R372, R386). -/
def State.dramRows (s : State) : Nat := if s.bit pgDrcG DRC_GLB_dens then 98304 else 65536

/-- DDRn cycles that have begun by an uptime, and 0.01 cue in a cycle (R10: 13.23 cues). -/
def ddrCycles (u : Nat) : Nat := u * 100 / 1323

/-- The channel serves requests (R385, R386). -/
def State.chUp (s : State) (n : Nat) : Bool := (s.fld pgDrcG DRC_GLB_up).testBit n

def State.setChUp (s : State) (n : Nat) (b : Bool) : State :=
  s.setWord (pgDrcG + 0x100) (setBits (s.word (pgDrcG + 0x100)) (8 + n) 1 b.toNat)

/-! ### Requesters (R375, R392) -/

/-- A media engine (R375), or a Catwalk master (R45). -/
def isMedia (req : Nat) : Bool := 0x40 ≤ req

/-- The requester IDs that exist (R375). -/
def requesterOk (r : Nat) : Bool :=
  r < 0x20 || (0x40 ≤ r && r ≤ 0x43) || (0x48 ≤ r && r ≤ 0x57) || (0x60 ≤ r && r ≤ 0xA1) || (0xA8 ≤ r && r ≤ 0xC9) || r == 0xD0

/-- Foreground work is neither scrub nor fill. -/
def foreground (req : Nat) : Bool := req != 0xE0 && req != 0xE1

def opWrite : DramOp → Bool
  | .write _ => true
  | _ => false

/-- The access type of a request (R45). -/
def accOf (req : Nat) (op : DramOp) : Nat :=
  match op with
  | .read _ f => if isMedia req then accMediaRead else if f then 2 else accRead
  | .write _ => if isMedia req then accMediaWrite else accWrite
  | .atomic _ _ => 3

/-- A requester answered with a bus error: the PCIe host gets a Completer Abort where R420 gives one. -/
def State.busErr (s : State) (req : Nat) (abort : Bool) : State :=
  if req = hostMaster ∧ abort then (s.bump pgPcie PCIE_CA_n).answer req .completerAbort []
  else s.answer req .busError []

/-- The completion of a request is known; one whose master has been reset meanwhile goes nowhere (R418). -/
def State.reply (s : State) (q : DReq) (k : RespKind) (data : List Byte) : State :=
  if q.discard then s else { s with acks := s.acks ++ [⟨q.seq, q.req, k, data⟩] }

/-- A request completes with a bus error, for the PCIe host a Completer Abort where R420 gives one. -/
def State.failReq (s : State) (q : DReq) (abort : Bool) : State := s.reply q (if q.req = hostMaster ∧ abort then .completerAbort else .busError) []

/-- A completion may be delivered: no earlier request of its requester is without one, in any channel, and none waits (R377). -/
def State.ackReady (s : State) (a : DAck) : Bool :=
  !(s.dch.any (fun e => (e.2.reqs ++ e.2.waits).any (fun q => q.req == a.req && q.seq < a.seq))) &&
    !(s.acks.any (fun b => b.req == a.req && b.seq < a.seq))

/-- A completion reaches its requester. -/
def State.ackSent (s : State) (a : DAck) : State :=
  let s := { s with acks := s.acks.filter (fun b => b.seq != a.seq) }
  (s.when (a.kind == .completerAbort) (fun s => s.bump pgPcie PCIE_CA_n)).answer a.req a.kind a.data

/-- Completions are delivered in issue order (R377), up to k. -/
def State.deliver (s : State) : Nat → State
  | 0 => s
  | k + 1 => match s.acks.find? s.ackReady with
    | some a => (s.ackSent a).deliver k
    | none => s

/-! ### The stored granule -/

def State.errsOf (s : State) (addr : Nat) (noise : List (Nat × Nat)) : List Nat :=
  (List.range 8).map fun c =>
    (noise.filter (fun p => p.1 == c)).foldl (fun e p => e ^^^ (p.2 % 2 ^ 160)) (Store.get (fun _ => 0) s.derr (addr / 128 * 8 + c))

/-- The stored form of codeword c of a granule takes an error pattern. -/
def State.setErr (s : State) (addr c e : Nat) : State :=
  { s with derr := Store.put (fun _ => 0) (addr / 128 * 8 + c) e s.derr }

/-- A granule written whole and encoded (R393). -/
def State.putGranule (s : State) (addr : Nat) (data : List Byte) : State :=
  (List.range 8).foldl (fun s c => s.setErr addr c 0) { s with dram := Memory.writeAll s.dram (granuleOf addr) data }

/-- A foreground write of a granule meets an armed flip (R406): the codeword is corrupted, the flip is spent. -/
def State.flipWrite (s : State) (n req addr : Nat) : State :=
  match (s.ch n).flip with
  | some f =>
    if foreground req ∧ (f.req = 0xFF ∨ f.req = req) then
      let s := s.setErr addr f.cw (match f.mask with | some m => m | none => 2 ^ 160)
      let s := (s.setCh n { s.ch n with flip := none }).setBit (pgDrc n 4) DPR_FLIP_armed false
      (s.setFld64 (pgDrc n 4) DPR_FLIP_ADDR_lo DPR_FLIP_ADDR_hi (granuleOf addr)).irq (pgDrc n 4) IRQ_dflip_flip_done
    else s
  | none => s

/-! ### Corrected granules and retirement (R391, R395, R396) -/

/-- A device reaches the threshold (R395, R396): retired where none is and automatic retirement is on; a second one is only
reported. -/
def State.autoRetire (s : State) (n d : Nat) : State :=
  let p := pgDrc n 2
  let c := s.fld p DPR_DEVCE_n d
  let thr := s.lv p DPR_RET_thr
  let dev := s.fld p DPR_RETIRE_dev
  if s.lbit p DPR_RETIRE_auto ∧ thr ≤ c then
    if dev = 15 then
      (((s.setFld p DPR_RETIRE_dev d).err p 0x113 none (some d)).irq p IRQ_dpr_retired).logRepair 0x11 [n, d]
    else if dev ≠ d ∧ c = thr then (s.err p 0x115).irq p IRQ_dpr_second
    else s
  else s

/-- A corrected granule is counted and attributed (R391). -/
def State.corrected (s : State) (n req addr : Nat) (g : GrResult) : State :=
  let p := pgDrc n 2
  let s := (s.bump p DPR_CE_n).setFld64 p DPR_CE_ADDR_lo DPR_CE_ADDR_hi (granuleOf addr)
  let dev := match g.devs with
    | [d] => if g.mixed then 15 else d
    | _ => 15
  let s := ((s.setFld p DPR_CE_INFO_dev dev).setFld p DPR_CE_INFO_sym g.syms).setFld p DPR_CE_INFO_req req
  let s := s.irq p IRQ_dpr_ce
  g.devs.foldl (fun s d =>
    let v := s.fld p DPR_DEVCE_n d + 1
    (s.setFld p DPR_DEVCE_n (if v < 2 ^ 16 then v else (Config.counterPast v).toNat) d).autoRetire n d) s

def State.noteCorrected (s : State) (n req addr : Nat) (g : GrResult) : State :=
  if g.bad || g.syms == 0 then s else s.corrected n req addr g

/-- An uncorrectable foreground read is counted and captured (R392). -/
def State.ueSeen (s : State) (n req acc addr : Nat) : State :=
  let p := pgDrc n 2
  ((s.bump p DPR_UE_n).irq p IRQ_dpr_ue).capture p 0x110 acc req (granuleOf addr)

/-- A read request completes with an uncorrectable granule (R392). -/
def State.uncorrectable (s : State) (n : Nat) (q : DReq) : State := (s.ueSeen n q.req (accOf q.req q.op) q.addr).failReq q true

/-- A request that a channel cannot take is counted and captured (R385). -/
def State.chRefused (s : State) (n req acc addr : Nat) : State :=
  let p := pgDrc n 0
  ((s.bump p DRC_UNAVAIL_n).irq p IRQ_drcCtl_unavail).capture p 0x101 acc req (granuleOf addr)

/-- Completions are delivered as far as they may be. -/
def State.deliverAll (s : State) : State := s.deliver s.acks.length

/-! ### Performing a request -/

/-- The bytes of a write merged over those of its granule. -/
def mergeBytes (old : List Byte) (off : Nat) (data : List (Option Byte)) : List Byte :=
  old.mapIdx fun i b => if off ≤ i then match data.getD (i - off) none with | some v => v | none => b else b

/-- Every byte of the granule is enabled. -/
def wholeGranule (data : List (Option Byte)) : Bool := data.length == 128 && data.all (·.isSome)

/-- The granule as read at this moment by the present retirement state. -/
def State.readGranule (s : State) (n addr : Nat) (noise : List (Nat × Nat)) : GrResult :=
  decodeGranule (s.fld (pgDrc n 2) DPR_RETIRE_dev) (s.load (granuleOf addr) 128) (s.errsOf addr noise)

/-- A write of a granule is performed: a whole granule is replaced; a partial one is read, merged and written, or refused where it
reads uncorrectable (R393). Answers whether it was made. -/
def State.writeGranule (s : State) (n req acc addr : Nat) (data : List (Option Byte)) (noise : List (Nat × Nat)) : State × Bool :=
  if wholeGranule data then
    ((s.putGranule addr (mergeBytes (List.replicate 128 0) 0 data)).flipWrite n req addr, true)
  else
    let g := s.readGranule n addr noise
    if g.bad then
      ((s.bump (pgDrc n 2) DPR_PWR_REFUSED_n).capture (pgDrc n 2) 0x112 acc req (granuleOf addr), false)
    else
      let s := s.noteCorrected n req addr g
      ((s.putGranule addr (mergeBytes g.data (addr % 128) data)).flipWrite n req addr, true)

/-! ### What the block's own engines read and write

A media engine's requests are part of the command that makes it read or write (log entry 184): its granules are served at once, with
what R374, R385, R391 to R393 and R406 give any request. -/

/-- The granules of an area whose stored form has an error pattern. -/
def State.errIn (s : State) (a n : Nat) : List Nat :=
  (s.derr.map (fun e => e.1 / 8 * 128)).dedup.filter (fun g => a / 128 * 128 ≤ g && g < a + n)

/-- A granule of an area that no channel serves: beyond installed DRAM, or in a channel that is unavailable. Sixteen granules in a row
lie in every channel (R373). -/
def State.lostIn (s : State) (a n : Nat) : Option Nat :=
  let g := (List.range (min 16 ((a % 128 + n + 127) / 128))).map (fun i => granuleOf a + 128 * i)
  (g.find? (fun g => s.dramSize ≤ g || !s.chUp (placeOf g).ch)).orElse
    (fun _ => if s.dramSize < a + n ∧ 0 < n then some (max (granuleOf a) s.dramSize) else none)

/-- Granules of an area that give no data: one that no channel serves, if any, and those that read with an uncorrectable error. -/
def State.badIn (s : State) (a n : Nat) : List Nat :=
  (s.lostIn a n).toList ++ (s.errIn a n).filter (fun g => (s.readGranule (placeOf g).ch g []).bad)

/-- The access type of an engine's or master's read, and of its write (R45). -/
def readAcc (req : Nat) : Nat := if isMedia req then accMediaRead else accRead
def writeAcc (req : Nat) : Nat := if isMedia req then accMediaWrite else accWrite

/-- A granule gives an engine no data (R374, R385, R392). bad: an error of this read alone. -/
def State.granuleBad (s : State) (g : Nat) (bad : Bool) : Bool :=
  decide (s.dramSize ≤ g) || !s.chUp (placeOf g).ch || bad || (s.readGranule (placeOf g).ch g []).bad

/-- What a granule read by an engine brings in its controller: counts and captures. -/
def State.granuleSeen (s : State) (req g : Nat) (bad : Bool) : State :=
  if s.dramSize ≤ g then s.capture pgDrcG 0x103 (readAcc req) req g
  else if !s.chUp (placeOf g).ch then s.chRefused (placeOf g).ch req (readAcc req) g
  else if s.granuleBad g bad then s.ueSeen (placeOf g).ch req (readAcc req) g
  else s.noteCorrected (placeOf g).ch req g (s.readGranule (placeOf g).ch g [])

/-- The granules of an area that do not simply give their data: a lost one, those with an error pattern, and (bad) those in error by
this read alone. -/
def State.oddIn (s : State) (a n : Nat) (bad : List Nat) : List Nat :=
  ((s.lostIn a n).toList ++ s.errIn a n ++ (bad.map granuleOf).filter (fun g => granuleOf a ≤ g && g < a + n)).dedup

/-- An area read by an engine: what its granules bring. -/
def State.areaSeen (s : State) (req a n : Nat) (bad : List Nat) : State :=
  (s.oddIn a n bad).foldl (fun s g => s.granuleSeen req g (bad.any (granuleOf · == g))) s

/-- The lowest granule of an area that gives no data. -/
def State.areaBad (s : State) (a n : Nat) (bad : List Nat) : Option Nat :=
  ((s.oddIn a n bad).filter (fun g => s.granuleBad g (bad.any (granuleOf · == g)))).foldl
    (fun r g => match r with | some x => some (min x g) | none => some g) none

/-- n free bytes (log entry 83). -/
def State.freeBytes (s : State) (n : Nat) : State × List Byte :=
  ({ s with free := s.free + n }, (List.range n).map (fun i => (Config.freeWord (s.free + i)).extractLsb' 0 8))

/-- Bytes read by an engine whose chapter states nothing for an area that gives no data: they are open then (log entry 184). -/
def State.engineRead (s : State) (req a n : Nat) : State × List Byte :=
  if (s.areaBad a n []).isSome then (s.areaSeen req a n []).freeBytes n else (s.areaSeen req a n [], s.load a n)

/-- Bytes of one granule written by an engine; whether they were. -/
def State.engineGranule (s : State) (req addr : Nat) (l : List Byte) : State × Bool :=
  if l.isEmpty then (s, true)
  else if s.dramSize ≤ addr then (s.capture pgDrcG 0x103 (writeAcc req) req addr, false)
  else if !s.chUp (placeOf addr).ch then (s.chRefused (placeOf addr).ch req (writeAcc req) addr, false)
  else s.writeGranule (placeOf addr).ch req (writeAcc req) addr (l.map some) []

/-- Bytes by granule, from an address. -/
def byGranule : Nat → Nat → List Byte → List (Nat × List Byte)
  | 0, _, _ => []
  | fuel + 1, a, l =>
    let k := 128 - a % 128
    if l.length ≤ k then [(a, l)] else (a, l.take k) :: byGranule fuel (a + k) (l.drop k)

/-- Bytes written by an engine. -/
def State.engineWrite (s : State) (req a : Nat) (l : List Byte) : State :=
  (byGranule (l.length / 128 + 2) a l).foldl (fun s p => (s.engineGranule req p.1 p.2).1) s

/-- Bytes written by a master that stops at a bus error, with the address that answered so. -/
def State.masterWrite (s : State) (req a : Nat) (l : List Byte) : State × Option Nat :=
  (byGranule (l.length / 128 + 2) a l).foldl (fun r p =>
    if r.2.isSome then r
    else
      let t := r.1.engineGranule req p.1 p.2
      (t.1, if t.2 then none else some p.1)) (s, none)

/-- Bytes read by a master that stops at a bus error: those before the granule that answered so, and its address. -/
def State.masterRead (s : State) (req a n : Nat) : State × List Byte × Option Nat :=
  match s.areaBad a n [] with
  | some g => (s.areaSeen req a (g + 1 - a) [], s.load a (g - a), some (max a g))
  | none => (s.areaSeen req a n [], s.load a n, none)

/-- A write request is performed, and completes. -/
def State.performWrite (s : State) (n : Nat) (q : DReq) (data : List (Option Byte)) : State :=
  let r := s.writeGranule n q.req (accOf q.req q.op) q.addr data q.noise
  if r.2 then r.1.reply q .ok [] else r.1.failReq q false

/-- An atomic is performed whole; one whose read is uncorrectable is not performed (R392, R415). -/
def State.performAtomic (s : State) (n : Nat) (q : DReq) (op : Nat) (data : List Byte) : State :=
  let off := q.addr % 128
  let g := s.readGranule n q.addr q.noise
  if g.bad then s.uncorrectable n q
  else
    let s := s.noteCorrected n q.req q.addr g
    let old := (g.data.drop off).take data.length
    let new := (Config.atomicResult op old data).take data.length
    ((s.putGranule q.addr (mergeBytes g.data off (new.map some))).flipWrite n q.req q.addr).reply q .ok old

/-! ### Row-disturb defence (R380) -/

/-- The table after an activate of row x, and its count. -/
def rhInsert (tab : List (Nat × Nat)) (x : Nat) : List (Nat × Nat) :=
  if tab.any (fun e => e.1 == x) then tab.map (fun e => if e.1 == x then (x, e.2 + 1) else e)
  else if tab.length < 16 then tab ++ [(x, 1)]
  else
    let low := tab.foldl (fun m e => min m e.2) (2 ^ 32)
    let i := tab.findIdx (fun e => e.2 == low)
    tab.set i (x, low + 1)

/-- A row of a bank is activated; a count beyond the threshold refreshes its neighbours. -/
def State.activate (s : State) (n b x : Nat) : State :=
  let p := pgDrc n 0
  let s := s.bump p DRC_ACT_n
  let k := s.bank n b
  let s := s.setBank n b { k with row := some x, fresh := true, want := none }
  if s.lbit p DRC_RH_en then
    let tab := rhInsert k.tab x
    let c := ((tab.find? (fun e => e.1 == x)).map (·.2)).getD 0
    let hot := s.lv p DRC_RH_thr < c
    let tab := if hot then tab.map (fun e => if e.1 == x then (x, 0) else e) else tab
    let s := s.setBank n b { s.bank n b with tab := tab }
    if hot then (s.bump p DRC_RH_REFRESH_n ((if 0 < x then 1 else 0) + (if x + 1 < s.dramRows then 1 else 0))).irq p IRQ_drcCtl_rh
    else s
  else s

/-! ### Scheduling (R376 to R379) -/

def DReq.place (q : DReq) : DPlace := placeOf q.addr

/-- The requests of a channel that may be issued: not issued, not to a bank held by a repair (R397), and behind no earlier request
to their granule (R377). -/
def DChan.ready (c : DChan) : List DReq :=
  let w := c.reqs.filter (fun q => q.issued.isNone)
  w.filter fun q =>
    !(c.ppr.any (fun t => t.2.1 * 4 + t.2.2.1 == q.place.bank)) &&
    !(w.any (fun e => e.seq < q.seq && granuleOf e.addr == granuleOf q.addr))

/-- A queued request of the channel hits a row. -/
def DChan.hits (c : DChan) (b x : Nat) : Bool :=
  c.reqs.any (fun q => q.issued.isNone && q.place.bank == b && q.place.row == x)

/-- The banks in order from one. -/
def banksFrom (b : Nat) : List Nat := (List.range 32).map (fun i => (b + i) % 32)

/-- The oldest request of a class that hits an open row, searched from the bank after the last one served. -/
def State.pickHit (s : State) (n : Nat) (cls : List DReq) : Option DReq :=
  (banksFrom ((s.ch n).served + 1)).findSome? fun b =>
    let k := s.bank n b
    k.row.bind fun x => if k.want.any (· != x) then none else cls.find? (fun q => q.place.bank == b && q.place.row == x)

/-- The row a bank is to open: the first bank at or after the pointer with a waiting request for a row it does not hold open,
whose open row no queued request hits. -/
def State.pickRow (s : State) (n : Nat) (cls : List DReq) : Option (Nat × Nat) :=
  let c := s.ch n
  (banksFrom c.ptr).findSome? fun b =>
    let k := s.bank n b
    let mine := cls.filter (fun q => q.place.bank == b)
    if k.row.any (fun x => c.hits b x && k.want.isNone) then none
    else match k.want with
      | some x => if mine.any (fun q => q.place.row == x) then some (b, x) else none
      | none => (mine.find? (fun q => k.row != some q.place.row)).map (fun q => (b, q.place.row))

/-- A column command for a request (R378): a read is issued with the granule as it stands, a write or atomic is performed. With
no idle cycles allowed, the last command of a row precharges it (R379). -/
def State.column (s : State) (n : Nat) (q : DReq) : State :=
  let p := pgDrc n 0
  let b := q.place.bank
  let k := s.bank n b
  let s := s.when (!k.fresh) (fun s => s.bump p DRC_HIT_n)
  let s := s.setBank n b { k with fresh := false, used := s.now }
  let c := s.ch n
  let c := { c with served := b }
  let s := match q.op with
    | .read _ _ =>
      let got := (s.fld (pgDrc n 2) DPR_RETIRE_dev, s.load (granuleOf q.addr) 128, s.errsOf q.addr [])
      s.setCh n { c with reqs := c.reqs.map (fun (e : DReq) => if e.seq == q.seq then { e with issued := some got } else e) }
    | .write d => (s.setCh n { c with reqs := c.reqs.filter (fun e => e.seq != q.seq) }).performWrite n q d
    | .atomic o d => (s.setCh n { c with reqs := c.reqs.filter (fun e => e.seq != q.seq) }).performAtomic n q o d
  let s := s.when (s.lv p DRC_PAGE_idle == 0 && !(s.ch n).hits b q.place.row) (fun s =>
    s.setBank n b { s.bank n b with row := none })
  let left := ((s.ch n).reqs.filter (fun e => e.issued.isNone && opWrite e.op)).length
  s.when (opWrite q.op && left ≤ s.lv p DRC_WQ_lo) (fun s => s.setBit p DRC_STAT_drain false)

/-- Opens a row that a class of requests needs, and serves one that hits it. -/
def State.openRow (s : State) (n : Nat) (cls : List DReq) : Option State :=
  (s.pickRow n cls).bind fun (b, x) =>
    let s := (s.activate n b x).setCh n { s.ch n with ptr := (b + 1) % 32 }
    (cls.find? (fun q => q.place.bank == b && q.place.row == x)).map (fun q => s.column n q)

/-- One column command of the channel, with the row command it needs: reads before writes, in a drain writes before reads. -/
def State.issue1 (s : State) (n : Nat) : Option State :=
  let r := (s.ch n).ready
  let ws := r.filter (fun q => opWrite q.op)
  let rs := r.filter (fun q => !opWrite q.op)
  (if s.bit (pgDrc n 0) DRC_STAT_drain then [ws, rs] else [rs, ws]).findSome? fun cls =>
    match s.pickHit n cls with
    | some q => some (s.column n q)
    | none => s.openRow n cls

/-- Up to k column commands. -/
def State.issue (s : State) (n : Nat) : Nat → State
  | 0 => s
  | k + 1 => match s.issue1 n with
    | some t => t.issue n k
    | none => s

/-! ### Refresh (R381, R382) -/

/-- Requests wait in the channel. -/
def DChan.busy (c : DChan) : Bool := c.reqs.any (fun q => q.issued.isNone)

/-- k all-bank refreshes: open rows are precharged. -/
def State.refresh (s : State) (n k : Nat) : State :=
  if k = 0 then s
  else ((List.range 32).foldl (fun s b => s.setBank n b { s.bank n b with row := none }) s).bump (pgDrc n 0) DRC_REF_n k

/-- Refreshes owed are issued when no request waits; in an idle channel refreshes go up to 4 ahead. -/
def State.settle (s : State) (n : Nat) : State :=
  let p := pgDrc n 0
  if s.chUp n && !(s.ch n).busy then
    let s := (s.refresh n (s.fld p DRC_STAT_owed)).setFld p DRC_STAT_owed 0
    if (s.ch n).reqs.isEmpty then (s.refresh n (4 - (s.ch n).early)).setCh n { s.ch n with early := 4 } else s
  else s

/-! ### Admission (R376) -/

/-- The channel and the requester's own limit have room. -/
def State.room (s : State) (n req : Nat) : Bool :=
  let l := (s.ch n).reqs.filter (fun q => foreground q.req)
  l.length < 1024 && l.countP (fun q => q.req == req) < s.lv (pgDrc n 0) DRC_QLIM_n

/-- A request enters its channel. A write drops the write-back of a scrub read of its granule (R400); enough writes start a
drain (R378). -/
def State.enter (s : State) (n : Nat) (q : DReq) : State :=
  let c := s.ch n
  let reqs := if opWrite q.op then
      c.reqs.map (fun (e : DReq) => if e.req == 0xE0 && granuleOf e.addr == granuleOf q.addr then { e with drop := true } else e)
    else c.reqs
  let s := s.setCh n { c with reqs := reqs ++ [q] }
  let k := ((s.ch n).reqs.filter (fun e => e.issued.isNone && opWrite e.op)).length
  s.when (s.lv (pgDrc n 0) DRC_WQ_hi ≤ k) (fun s => s.setBit (pgDrc n 0) DRC_STAT_drain true)

/-- Requests waiting at their requesters enter where there is room, each requester's in order. -/
def State.letIn (s : State) (n : Nat) : State :=
  (s.ch n).waits.foldl (fun s q =>
    if s.room n q.req && !((s.ch n).waits.any (fun e => e.req == q.req && e.seq < q.seq)) then
      (s.setCh n { s.ch n with waits := (s.ch n).waits.filter (fun e => e.seq != q.seq) }).enter n q
    else s) s

/-- DRC_INFL shows the requests in flight. -/
def State.showInfl (s : State) (n : Nat) : State :=
  s.setFld (pgDrc n 0) DRC_INFL_n ((s.ch n).reqs.countP (fun q => foreground q.req))

/-- The channel works on: up to k column commands, then waiting requests enter. -/
def State.work (s : State) (n k : Nat) : State :=
  ((((s.issue n k).letIn n).settle n).showInfl n).deliverAll

/-- A request that a channel cannot take (R385). -/
def State.unavailable (s : State) (n : Nat) (q : DReq) : State := (s.chRefused n q.req (accOf q.req q.op) q.addr).failReq q false

/-- The bytes a request spans. -/
def opLen : DramOp → Nat
  | .read n _ => n
  | .write d => d.length
  | .atomic _ d => d.length

/-- It is a null beat: no byte enable set (R393, R417). -/
def opNull : DramOp → Bool
  | .write d => d.all (·.isNone)
  | _ => false

/-- A request for one granule is made (R374, R376, R385, R393). -/
def State.granuleRequest (s : State) (req addr : Nat) (op : DramOp) (noise : List (Nat × Nat)) (k : Nat) : State :=
  let n := (placeOf addr).ch
  let q : DReq := { seq := s.dseq, req := req, addr := addr, op := op, upt := s.now, noise := noise }
  let s := { s with dseq := s.dseq + 1 }
  if opNull op then (s.reply q .ok []).deliverAll
  else if s.dramSize ≤ addr then ((s.capture pgDrcG 0x103 (accOf req op) req addr).failReq q true).deliverAll
  else
    if !s.chUp n then (s.unavailable n q).deliverAll
    else if s.room n req && !((s.ch n).waits.any (fun e => e.req == req)) then (s.enter n q).work n k
    else (s.setCh n { s.ch n with waits := (s.ch n).waits ++ [q] }).work n k

/-- The parts of a request by granule, from its first byte: bytes left, at most nine parts. -/
def granuleParts : Nat → Nat → DramOp → List (Nat × DramOp)
  | 0, _, _ => []
  | fuel + 1, addr, op =>
    let room := 128 - addr % 128
    match op with
    | .read n f => if n ≤ room then [(addr, .read n f)] else (addr, .read room f) :: granuleParts fuel (addr + room) (.read (n - room) f)
    | .write d =>
      if d.length ≤ room then [(addr, .write d)]
      else (addr, .write (d.take room)) :: granuleParts fuel (addr + room) (.write (d.drop room))
    | .atomic o d => [(addr, .atomic o d)]

/-- The beats of 16 bytes that a request spans (R415). -/
def beatsOf (addr len : Nat) : Nat := if len = 0 then 0 else (addr + len - 1) / 16 - addr / 16 + 1

/-- A request of a requester: a Catwalk burst of more than 16 beats is split (R416); each granule is a request of its channel. -/
def State.dramRequest (s : State) (req addr : Nat) (op : DramOp) (noise : List (Nat × Nat)) (k : Nat) : State :=
  let s := s.when (!isMedia req && 16 < beatsOf addr (opLen op)) (fun s => s.bump pgCat CAT_SPLIT_n)
  (granuleParts 9 addr op).zipIdx.foldl (fun s (p, i) =>
    s.granuleRequest req p.1 p.2 (noise.filterMap (fun e => if e.1 / 8 == i then some (e.1 % 8, e.2) else none)) k) s

/-! ### Completion (R377, R390 to R392, R400) -/

/-- An issued read that no earlier read of its requester precedes, in any channel (R377). -/
def State.nextRead (s : State) (n : Nat) : Option DReq :=
  (s.ch n).reqs.find? fun q => q.issued.isSome &&
    !((List.range 8).any (fun m => ((s.ch m).reqs ++ (s.ch m).waits).any (fun e => e.req == q.req && e.seq < q.seq)))

/-- The number of granules of a channel (R399), and the address of its h-th (R373, R398). -/
def State.granules (s : State) : Nat := s.dramSize / 1024
def scrubAddr (n h : Nat) : Nat := (8 * h + (n ^^^ (h / 2048 % 8))) * 128

/-- The end of a scrub read (R400), and of a pass with the last granule (R398). -/
def State.scrubbed (s : State) (n : Nat) (q : DReq) (g : GrResult) : State :=
  let p := pgDrc n 2
  let s :=
    if g.bad then
      ((s.bump p DPR_SCRUB_UE_n).irq p IRQ_dpr_scrub_ue).capture p 0x111 accScrub 0xE0 (granuleOf q.addr)
    else if g.syms = 0 then s
    else
      let s := (s.bump p DPR_SCRUB_CE_n).corrected n 0xE0 q.addr g
      if q.drop then s else s.putGranule q.addr g.data
  if q.addr / 1024 + 1 = s.granules then
    let s := s.setFld p DPR_SCRUB_PASS_n (s.fld p DPR_SCRUB_PASS_n + 1)
    (s.setFld64 p DPR_SCRUB_DONE_lo DPR_SCRUB_DONE_hi s.now).irq p IRQ_dpr_scrub_pass
  else s

/-- Read data returns: every codeword is decoded, in the retirement state its command was issued in. -/
def State.readDone (s : State) (n : Nat) (noise : List (Nat × Nat)) (k : Nat) : State :=
  match s.nextRead n with
  | some q =>
    match q.issued with
    | some (dev, data, errs) =>
      let errs := errs.mapIdx (fun c e => (noise.filter (fun p => p.1 == c)).foldl (fun e p => e ^^^ (p.2 % 2 ^ 160)) e)
      let g := decodeGranule dev data errs
      let c := s.ch n
      let s := s.setCh n { c with reqs := c.reqs.filter (fun e => e.seq != q.seq) }
      let s :=
        if q.req = 0xE0 then s.scrubbed n q g
        else if g.bad then s.uncorrectable n q
        else
          let s := s.noteCorrected n q.req q.addr g
          s.reply q .ok ((g.data.drop (q.addr % 128)).take (opLen q.op))
      s.work n k
    | none => s
  | none => s

/-! ### The channel clock (R385), and drift (R384) -/

/-- The channel's PLL went to bypass: requests in flight and waiting get bus errors, and the devices go to self-refresh. A scrub
read under way is taken again. -/
def State.chLost (s : State) (n : Nat) : State :=
  let s := s.setChUp n false
  let c := s.ch n
  let l := (c.reqs ++ c.waits).filter (fun q => foreground q.req)
  let s := match c.reqs.find? (fun q => q.req == 0xE0) with
    | some q => s.setFld64 (pgDrc n 2) DPR_SCRUB_POS_lo DPR_SCRUB_POS_hi (granuleOf q.addr)
    | none => s
  let s := s.setCh n { c with reqs := [], waits := [] }
  let s := l.foldl (fun s q => s.unavailable n q) s
  let s := (List.range 32).foldl (fun s b => s.setBank n b { s.bank n b with row := none, fresh := false, want := none }) s
  (((s.setBit (pgDrc n 0) DRC_STAT_drain false).setBit (pgDrc n 0) DRC_STAT_sr true).showInfl n).deliverAll

/-- One tracking pass: each device's write delay moves at most one step toward the delay wanted; a delay that comes to lie
beyond the limit alarms (R384). -/
def State.trackPass (s : State) (n : Nat) (want : List Int) : State :=
  let p := pgDrc n 1
  let s := s.bump p DRC_TRK_RUNS_n
  (List.range 10).foldl (fun s d =>
    let cur : Int := s.fld p DRC_DLY_wr d
    let w0 : Int := s.fld p DRC_DLY_wr0 d
    let goal := max 0 (min 255 (want.getD d cur))
    let new := if cur < goal then cur + 1 else if goal < cur then cur - 1 else cur
    let s := (s.setFld p DRC_DLY_wr new.toNat d).when (new != cur) (fun s => s.bump p DRC_TRK_ADJ_n)
    let lim : Int := s.lv p DRC_TRK_lim
    s.when (decide (lim < (new - w0).natAbs) && !decide (lim < (cur - w0).natAbs)) (fun s =>
      (s.irq p IRQ_drcTrn_drift).err p 0x102 none (some d))) s

/-- The channel's PLL has returned: self-refresh ends, a tracking pass runs toward delays the event does not bring (log entry
78), and the channel serves again. -/
def State.chBack (s : State) (n : Nat) : State :=
  if s.bit (pgDrc n 0) DRC_STAT_sr then
    let v := s.free64.toNat
    let p := pgDrc n 1
    let want : List Int := (List.range 10).map fun d => (s.fld p DRC_DLY_wr d : Int) + (v / 4 ^ d % 4 : Nat) - 1
    let s := ((s.fresh.setBit (pgDrc n 0) DRC_STAT_sr false).trackPass n want).setChUp n true
    s.irq (pgDrc n 0) IRQ_drcCtl_avail
  else s

/-- Cycles in which a request waited for room are counted as uptime advances (R376). -/
def State.fullTick (s : State) (was : Nat) : State :=
  s.dch.foldl (fun s e => s.when (!e.2.waits.isEmpty) (fun s => s.bump (pgDrc e.1 0) DRC_FULL_n (ddrCycles s.now - ddrCycles was))) s

/-! ### The commands -/

/-- TOD_TICK (R26): with it DRC_FULL counts (R376). -/
def execTodTick (s : State) : Out := run s fun s => (s.tick.writeAgain).fullTick s.now

/-- A request is well formed (R375, R415): a requester that exists, at most 64 beats in one 4 KiB block, an atomic of 4 or 8 bytes in one beat
(R415). k column commands follow in each channel before its next event (log entry 73). -/
def dramRequestOk (req addr : Nat) (op : DramOp) : Bool :=
  requesterOk req && addr < 2 ^ 48 && addr % 4096 + opLen op ≤ 4096 && beatsOf addr (opLen op) ≤ 64 &&
    match op with
    | .atomic _ d => !isMedia req && (d.length == 4 || d.length == 8) && beatsOf addr d.length == 1
    | .read n f => 0 < n && (!f || !isMedia req)
    | .write _ => true

/-- DRAM_READ_COMPLETE (R390). -/
def execDramReadComplete (ch : Fin 8) (noise : List (Nat × Nat)) (k : Nat) (s : State) : Out := run s fun s =>
  s.readDone ch noise k

/-- RH_WINDOW_BOUNDARY (R380): 8,192 refresh intervals have passed. -/
def execRhWindowBoundary (ch : Fin 8) (s : State) : Out := run s fun s =>
  let c := s.ch ch
  if 8192 ≤ c.ivals then
    (List.range 32).foldl (fun s b => s.setBank ch b { s.bank ch b with tab := [] }) (s.setCh ch { c with ivals := c.ivals - 8192 })
  else s

/-- The refresh interval in 0.01 cue (R381). -/
def State.dramInterval (s : State) (n : Nat) : Nat :=
  s.lv (pgDrc n 0) DRC_TIM2_trefi * 1323 / (if s.bit (pgDrc n 0) DRC_STAT_hot then 2 else 1)

/-- DRAM_REFRESH_DUE (R381, R382). -/
def execDramRefreshDue (ch : Fin 8) (s : State) : Out := run s fun s =>
  let p := pgDrc ch 0
  let c := s.ch ch
  if s.chUp ch ∧ c.refFrom + s.dramInterval ch < (s.now + 16) * 100 then
    let s := s.setCh ch { c with refFrom := c.refFrom + s.dramInterval ch, ivals := c.ivals + 1, early := c.early - 1 }
    let owed := s.fld p DRC_STAT_owed
    let s :=
      if 0 < c.early then s
      else if c.busy then
        if owed < 4 then (s.setFld p DRC_STAT_owed (owed + 1)).bump p DRC_POSTPONED_n else s.refresh ch 1
      else s.refresh ch 1
    s.settle ch
  else s

/-- DRAM_TEMP_POLL (R381): whether any device needs twice the refresh rate. -/
def execDramTempPoll (ch : Fin 8) (hot : Bool) (s : State) : Out := run s fun s =>
  let p := pgDrc ch 0
  let c := s.ch ch
  if s.chUp ch ∧ c.poll + cueMs < s.now + 16 then
    let s := s.setCh ch { c with poll := c.poll + cueMs }
    let was := s.bit p DRC_STAT_hot
    (s.setBit p DRC_STAT_hot hot).when (hot && !was) (fun s => s.irq p IRQ_drcCtl_hot)
  else s

/-- PAGE_IDLE_CLOSE (R379). -/
def execPageIdleClose (ch : Fin 8) (bank : Fin 32) (s : State) : Out := run s fun s =>
  let k := s.bank ch bank
  let idle := s.lv (pgDrc ch 0) DRC_PAGE_idle
  if 0 < idle ∧ k.row.isSome ∧ ddrCycles k.used + idle ≤ ddrCycles s.now ∧
      !((s.ch ch).reqs.any (fun q => q.issued.isNone && q.place.bank == bank.val)) then
    s.setBank ch bank { k with row := none }
  else s

/-- PAGE_STARVE_CLOSE (R379): the oldest request that misses the bank's open row has waited too long. -/
def execPageStarveClose (ch : Fin 8) (bank : Fin 32) (s : State) : Out := run s fun s =>
  let k := s.bank ch bank
  let lim := s.lv (pgDrc ch 0) DRC_PAGE_starve
  match k.row, (s.ch ch).reqs.find? (fun q => q.issued.isNone && q.place.bank == bank.val && k.row != some q.place.row) with
  | some _, some q =>
    if ddrCycles q.upt + lim ≤ ddrCycles s.now then s.setBank ch bank { k with row := none, want := some q.place.row } else s
  | _, _ => s

/-- WRITE_DRAIN_AGE (R378). -/
def execWriteDrainAge (ch : Fin 8) (s : State) : Out := run s fun s =>
  match (s.ch ch).reqs.find? (fun q => q.issued.isNone && opWrite q.op) with
  | some q =>
    if ddrCycles q.upt + s.lv (pgDrc ch 0) DRC_WQ_age ≤ ddrCycles s.now then s.setBit (pgDrc ch 0) DRC_STAT_drain true else s
  | none => s

/-- DRAM_DRIFT_TRACK (R384): the write delays that the oscillators ask for. -/
def execDramDriftTrack (ch : Fin 8) (want : List Int) (s : State) : Out := run s fun s =>
  let c := s.ch ch
  let per := s.lv (pgDrc ch 1) DRC_TRK_per * cueMs
  if s.chUp ch ∧ c.track + per < s.now + 16 then (s.setCh ch { c with track := c.track + per }).trackPass ch want
  else s

end Sys2Proof.Machine
end

