-- ==== Sys2Proof/Machine/Formatters.lean ====
section
/-!
DEFINITION. The SDI formatters (R94, R96, R97, R100, R101, R172): ancillary packets on their lines, embedded audio, and a cut in
the middle of a frame.
-/
namespace Sys2Proof.Machine

def State.fm (s : State) (L : Nat) : Formatter := Store.get (fun _ => {}) s.fmtr L
def State.setFm (s : State) (L : Nat) (v : Formatter) : State := { s with fmtr := Store.put (fun _ => {}) L v s.fmtr }

/-- The lines per frame of each link of a formatter's output. -/
def State.fmLines (s : State) (L : Nat) : Nat :=
  match (s.fm L).fmt with
  | some f => linkLines f (linkWidth (s.lv (pgFmt L) TXF_LINK_mode))
  | none => 0

/-! ### Ancillary packets (R96, R97) -/

/-- An entry of the delete filter matches a packet. A mask bit set excludes its bit from the comparison (log entry 59). -/
def State.ancDeleted (s : State) (L : Nat) (k : AncPkt) : Bool :=
  let p := pgFmt L
  (List.range 16).any (fun i =>
    let hit := fun (m v x : Nat) => (x % 256 / 16 == v / 16) && ((x % 16 ||| m) == (v % 16 ||| m))
    s.lbit p TXF_DEL_en i && hit (s.lv p TXF_DEL_dmask i) (s.lv p TXF_DEL_did i) k.did
      && hit (s.lv p TXF_DEL_smask i) (s.lv p TXF_DEL_sdid i) k.sdid)

/-- The lines a packet of line n may go on, in order: its own and the 4 after it, or the 4 after a line that the output does not
have; numbers past the last line are lines of the next frame (DESIGN CHOICE, log entry 167). -/
def ancTries (lines n : Nat) : List Nat :=
  if n = 0 then [1, 2, 3, 4]
  else if lines < n then [lines + 1, lines + 2, lines + 3, lines + 4]
  else (List.range 5).map (n + ·)

/-- There is room for a packet on line n; never on the line after the switching line. -/
def ancFits (lines : Nat) (room : List AncRoom) (k : AncPkt) (n : Nat) : Bool :=
  n != switchLine lines + 1 &&
    room.any (fun r => r.vanc == k.vanc && r.stream == k.stream && r.line == n && k.data.length ≤ r.words)

/-- Room left after words are taken on line n, or given back. -/
def ancTake (room : List AncRoom) (k : AncPkt) (n : Nat) : List AncRoom :=
  room.map (fun r => if r.vanc == k.vanc && r.stream == k.stream && r.line == n then { r with words := r.words - k.data.length } else r)
def ancGive (room : List AncRoom) (k : AncPkt) : List AncRoom :=
  room.map (fun r => if r.vanc == k.vanc && r.stream == k.stream && r.line == k.line then { r with words := r.words + k.data.length } else r)

/-- A packet goes on the first of the lines tried that has room; where lines of the next frame are left to try it waits for that;
without room it is dropped. -/
def State.ancPut (s : State) (L : Nat) (tries : List Nat) (k : AncPkt) : State :=
  let lines := s.fmLines L
  let v := s.fm L
  match (tries.filter (· ≤ lines)).find? (fun n => ancFits lines v.room k n) with
  | some n => s.setFm L { v with anc := v.anc ++ [{ k with line := n }], room := ancTake v.room k n }
  | none =>
    match tries.filter (lines < ·) with
    | [] => (s.bump (pgFmt L) TXF_ANC_DROP_n).irq (pgFmt L) IRQ_fmt_anc_drop
    | n :: t => s.setFm L { v with next := v.next ++ [(t.length + 1, { k with line := n - lines })] }

/-- A carried packet goes out through the filter of formatter L. -/
def State.ancOut (s : State) (L : Nat) (k : AncPkt) : State :=
  if s.ancDeleted L k then s.bump (pgFmt L) TXF_ANC_DEL_n else s.ancPut L (ancTries (s.fmLines L) k.line) k

/-- A packet that waited for this frame is tried on the lines left to it. -/
def State.ancLeft (s : State) (L : Nat) (e : Nat × AncPkt) : State :=
  s.ancPut L (((List.range e.1).map (e.2.line + ·)).filter (· ≤ s.fmLines L)) e.2

/-- The formatter of tap L sends its tap's source (R103). -/
def State.fmShows (s : State) (L : Nat) : Bool := (s.fm L).fmt.isSome && !s.bit (pgFmt L) TXF_STAT_muted

/-- A packet on rail r comes after a type 4 entry has begun the frame of its tap (DESIGN CHOICE, log entry 171): it leaves with the
packets of the next. -/
def State.ancFlow (s : State) (r : Nat) (k : AncPkt) : State :=
  (entsOn s.txTab).foldl (fun s e =>
    let v := Store.get (fun _ => ({} : TxEntry)) s.txEnt e
    let begun : Bool := match v.frame, s.railFrame r with | some F, some (S, _) => decide (S ≤ F) | _, _ => false
    if entFld s.txTab e RXE_CTL_type = 4 ∧ s.tapRail (512 + entFld s.txTab e RXE_BIND_slot) = r ∧ begun then
      { s with txEnt := Store.put (fun _ => {}) e { v with anc := v.anc ++ [k] } s.txEnt }
    else s) s

/-- A packet arrives in the frame that rail r carries: formatters that show the rail insert it, type 4 entries that have begun the
frame keep it, and units that write the frame keep it; a unit that shows the frame it is writing passes it on, up to so many units in
a row. -/
def State.ancOn (s : State) (r : Nat) (k : AncPkt) : Nat → State
  | 0 => s
  | n + 1 =>
    let b := s.railBase r
    let s := s.ancFlow r k
    let s := s.tapSel.foldl (fun s e => if e.1 < 512 ∧ e.2 = r ∧ s.fmShows e.1 then s.ancOut e.1 k else s) s
    s.syn.foldl (fun s e =>
      let v := s.sy e.1
      match v.ring with
      | fr :: rest =>
        if v.writing ∧ s.synRail e.1 = b then
          let s := s.setSy e.1 { v with ring := { fr with anc := fr.anc ++ [(r - b, k)] } :: rest }
          if v.shown = some fr.num then s.ancOn (2048 + e.1 + (r - b)) k n else s
        else s
      | [] => s) s

/-! ### Embedded audio (R100, R101) -/

/-- The line (counted from 1) whose HANC takes the sample of an instant so many cues into a frame of a period and lines: the line
after the one it falls in, or the next where that follows the switching line. A line past the frame's last is of the next frame. -/
def sampleLine (per lines d : Nat) : Nat :=
  let k := min (((d + 1) * lines - 1) / per) (lines - 1)
  let n := k + 2
  if n = switchLine lines + 1 then n + 1 else n

/-- The channels a formatter embeds: 4 for each group, silent in its mute output. out: the word of each Pit output. -/
def State.fmWords (s : State) (L : Nat) (out : Nat → Nat) : List Nat :=
  (List.range (4 * (s.fm L).groups)).map (fun c => if s.bit (pgFmt L) TXF_STAT_muted then 0 else out (32 * L + c))

/-- The sample of Pit instant P, in the frame that formatter L is sending. -/
def State.embed (s : State) (L P : Nat) (out : Nat → Nat) : State :=
  let v := s.fm L
  match v.fmt with
  | some f =>
    if v.groups = 0 ∨ P < v.start then s
    else s.setFm L { v with audio := v.audio ++ [(P, sampleLine (perOf f.rate) (s.fmLines L) (P - v.start), s.fmWords L out)] }
  | none => s

/-! ### A cut within a frame (R172) -/

/-- Tap L takes rail r at the switching line of the frame its formatter sends: the lines from there on, their ancillary packets
with them, come from the new rail. -/
def State.fmtCut (s : State) (L r : Nat) : State :=
  if s.fmShows L then
    let v := s.fm L
    let line := switchLine (s.fmLines L)
    let gone := v.anc.filter (fun k => line ≤ k.line)
    let s := s.setFm L { v with video := v.video.filter (fun e => e.1 < line) ++ [(line, r)],
                                anc := v.anc.filter (fun k => k.line < line), room := gone.foldl ancGive v.room }
    ((s.railAnc r).filter (fun k => line ≤ k.line)).foldl (fun s k => s.ancOut L k) s
  else s

/-! ### The start of an output frame (R154, R172, R178) -/

/-- An output frame of tap L starts at t: with the frame of the rail whose stream it passes; on the group's grid where it sends its
mute output. -/
def State.fmtDue (s : State) (L t : Nat) : Bool :=
  match (if (s.fmtSource L).isSome then s.railFrame (s.tapRail L) else none) with
  | some (F, _) => F == t
  | none => s.grpNext (s.tapGroup L) t == t

/-- The EDH flag groups of a field that an SD output sends (R94), as the deframer found them: bit g a CRC mismatch of group g, bit
3 + g received flags that held edh or eda. -/
def State.fmtEdh (s : State) (L field : Nat) : Option Nat :=
  match (s.fm L).fmt with
  | some f =>
    if listedRate f = some 0 then
      some (if s.fmShows L then (((s.railEdh (s.tapRail L)).find? (fun e => e.1 == field)).map (·.2)).getD 0 else 0)
    else none
  | none => none

end Sys2Proof.Machine
end

