-- ==== Sys2Proof/Machine/Pit.lean ====
section
/-!
DEFINITION. The Pit audio crosspoint (R264 to R285): its tables, takes, crossfades, delay lines and gain; the sample instant
itself stands in PitStep.lean, after the TDM ports.
-/
namespace Sys2Proof.Machine

def State.pin (s : State) (i : Nat) : PitIn := Store.get (fun _ => {}) s.pitIn i
def State.setPin (s : State) (i : Nat) (v : PitIn) : State := { s with pitIn := Store.put (fun _ => {}) i v s.pitIn }
def State.pot (s : State) (o : Nat) : PitOut := Store.get (fun _ => {}) s.pitOut o
def State.setPot (s : State) (o : Nat) (v : PitOut) : State := { s with pitOut := Store.put (fun _ => {}) o v s.pitOut }

/-! ### The sample word (R270) -/

def audioOf (w : Nat) : Int := toSigned 24 w
def flagsOf (w : Nat) : Nat := w / 2 ^ 24 % 16
def zOf (w : Nat) : Bool := w / 2 ^ 27 % 2 == 1
def trOf (w : Nat) : Bool := w / 2 ^ 28 % 2 == 1
def mkSample (x : Int) (flags : Nat) : Nat := ofSigned 24 x + flags * 2 ^ 24

/-- A signed number held within 24 bits. -/
def sat24 (x : Int) : Int := satSigned 24 x

/-! ### The tables (R283) -/

def railMapLen : Nat := 1568

/-- The first word of entry e of the output table (tbl 0) or of the rail audio map (tbl 1). -/
def pitIdx (tbl e : Nat) : Nat := if tbl = 0 then 2 * e else 131072 + e

def pitOutFld (tab : Store W32) (o : Nat) (f : Fld) : Nat := getBits (Store.get (fun _ => 0) tab (2 * o + f.off / 4)) f.lo f.w
def pitMapFld (tab : Store W32) (e : Nat) (f : Fld) : Nat := getBits (Store.get (fun _ => 0) tab (131072 + e)) f.lo f.w

/-- The entry whose settings serve output o: the even output of a k96 pair serves both (R275). -/
def pitEntry (tab : Store W32) (o : Nat) : Nat :=
  if o % 2 = 1 ∧ pitOutFld tab (o - 1) PITO_k96 = 1 then o - 1 else o

def pitK96 (tab : Store W32) (o : Nat) : Bool := pitOutFld tab (pitEntry tab o) PITO_k96 == 1 && pitEntry tab o % 2 == 0

/-- Reserved outputs (R266). -/
def pitOutReserved (o : Nat) : Bool := (16384 ≤ o && o < 24576) || (25088 ≤ o && o < 32768)

/-- The live entries of the rail audio map as a rail's block: rails 512 to 2,047 and 2,304 to 2,335 (R267). -/
def mapEntry (r : Nat) : Option Nat :=
  if 512 ≤ r ∧ r < 2048 then some (r - 512) else if 2304 ≤ r ∧ r < 2336 then some (1536 + (r - 2304)) else none

/-- Input i of the audio block of a rail (R267); none beyond the block. Members of a gang follow in order. -/
def State.railAudio (s : State) (r i : Nat) : Option Nat :=
  if r < 512 then if i < 32 * s.railWidth r then some (32 * r + i) else none
  else if 2048 ≤ r ∧ r < 2304 then if i < 32 * s.railWidth r then some (16384 + 32 * (r - 2048) + i) else none
  else match mapEntry r with
    | some e => if i < pitMapFld s.pitTab e PITR_n then some (pitMapFld s.pitTab e PITR_base + i) else none
    | none => none

/-! ### Gain (R273) -/

/-- m - 1/2 is not above 2^20 × 10^(g / 2,000). -/
def gainFits (g : Int) (m : Nat) : Bool :=
  if m = 0 then true
  else if 0 ≤ g then decide ((2 * m - 1) ^ 2000 ≤ 2 ^ 42000 * 10 ^ g.toNat)
  else decide ((2 * m - 1) ^ 2000 * 10 ^ (-g).toNat ≤ 2 ^ 42000)

/-- k = round(2^20 × 10^(g / 2,000)): the largest m that fits. Mute gives 0. -/
def gainK (g : Int) : Nat :=
  if g = -32768 then 0
  else if g = 0 then 1048576
  else (List.range 25).foldl (fun m i => if gainFits g (m + 2 ^ (24 - i)) then m + 2 ^ (24 - i) else m) 0

/-- The coefficient of an entry, negative when polarity is inverted. -/
def pitCoef (tab : Store W32) (e : Nat) : Int :=
  let k : Int := gainK (toSigned 16 (pitOutFld tab e PITO_gain))
  if pitOutFld tab e PITO_pol = 1 then -k else k

/-- The audio after gain: (x × k + 2^19) >> 20, saturated. -/
def applyGain (x k : Int) : Int := sat24 ((x * k + 2 ^ 19).fdiv (2 ^ 20))

/-- The effective coefficient now: the ramp's value after kj samples. -/
def PitOut.coef (v : PitOut) : Int :=
  if v.kj < v.kn then v.kFrom + roundDiv ((v.kTo - v.kFrom) * v.kj) v.kn else v.kTo

/-! ### Blends (R271, R278) -/

/-- The weighted mean of words, rounded to nearest with ties to even; bits [27:24] come from the word of the largest weight, the
later one of equals. -/
def blend (l : List (Nat × Nat)) : Nat :=
  let d := (l.map (fun e => e.2)).sum
  let x : Int := (l.map (fun e => audioOf e.1 * e.2)).sum
  let top := l.foldl (fun (b : Nat × Nat) e => if b.2 ≤ e.2 then e else b) (0, 0)
  mkSample (roundDiv x d) (flagsOf top.1)

/-- Adds a weight for an input, joining it to the weight the input already has. -/
def addWeight (l : List (Option Nat × Nat)) (i : Option Nat) (w : Nat) : List (Option Nat × Nat) :=
  if l.any (fun e => e.1 == i) then l.map (fun e => if e.1 == i then (e.1, e.2 + w) else e) else l ++ [(i, w)]

/-- The inputs and weights of a running blend: the old stream at n - j, the new input at j. -/
def PitOut.weights (v : PitOut) : List (Option Nat × Nat) :=
  if v.st = 1 ∧ v.j < v.n then
    let d := (v.mix.map (fun e => e.2)).sum
    (addWeight (v.mix.map (fun e => (e.1, e.2 * (v.n - v.j)))) v.src (d * v.j)).filter (fun e => e.2 != 0)
  else [(v.src, 1)]

/-- A frozen blend is cut to two inputs: the smallest weight goes to the largest (R278). Of equals the earlier one yields (log
entry 33). Answers whether it was cut. -/
def cutBlend (l : List (Option Nat × Nat)) : List (Option Nat × Nat) × Bool :=
  if l.length ≤ 2 then (l, false)
  else
    let small := l.foldl (fun (b : Option Nat × Nat) e => if e.2 < b.2 then e else b) (l.headD (none, 0))
    let rest := l.erase small
    let big := rest.foldl (fun (b : Option Nat × Nat) e => if b.2 ≤ e.2 then e else b) (none, 0)
    (rest.map (fun e => if e == big then (e.1, e.2 + small.2) else e), true)

/-! ### Delay lines (R272, R217, R281) -/

/-- Where word q of delay line n lies in the delay area (R280): its 256 KiB hold 65,536 words in turn, in granules of 32 (R281; log entry
181). -/
def State.lineAddr (s : State) (n q : Nat) : Nat :=
  s.lv64 pgPit PIT_DLY_AREA_lo PIT_DLY_AREA_hi + n * 0x40000 + q % 65536 * 4

/-- The word d samples before the last written: silence before the line has filled; from DRAM once its granule has been written there. -/
def State.lineWord (s : State) (n : Option Nat) (l : DLine) (d : Nat) : Nat :=
  let q := l.pos - 1 - d
  match n with
  | some n => if d < l.hist.length ∧ q / 32 < l.pos / 32 then s.loadLE (s.lineAddr n q) 4 else l.hist.getD d 0
  | none => l.hist.getD d 0

/-- The read position is to be d, by a crossfade of n samples. A change under way ends at its new position (log entry 34). -/
def DLine.retarget (l : DLine) (d n : Nat) : DLine :=
  if d = l.rd then l else { l with rd := d, old := some l.rd, j := 0, n := n, wait := false }

/-- The word read at an instant, from the words by read position (R272). A word with tr at either position turns the change into a wait
for z; a change of one sample, or one without a crossfade, is made at once. -/
def DLine.read (l : DLine) (tap : Nat → Nat) : Nat × DLine :=
  match l.old with
  | none => (tap l.rd, l)
  | some o =>
    let a := tap o
    let b := tap l.rd
    let l := if !l.wait && (trOf a || trOf b) then { l with wait := true, j := 0 } else l
    if l.wait then
      if zOf b || 192 ≤ l.j then (b, { l with old := none, wait := false }) else (a, { l with j := l.j + 1 })
    else if l.j < l.n ∧ o ≠ l.rd + 1 ∧ l.rd ≠ o + 1 then
      (blend [(a, l.n - l.j), (b, l.j)], { l with j := l.j + 1 })
    else (b, { l with old := none })

/-- A word enters a line, whose longest read position is 48,000. -/
def DLine.push (l : DLine) (x : Nat) : DLine := { l with hist := (x :: l.hist).take 48001, pos := l.pos + 1 }

/-- What is read, or the last good word while a failed granule's words are held (R281). -/
def DLine.held (l : DLine) (w fails : Nat) : Nat × DLine :=
  let n := if l.bad = 0 then fails else l.bad
  if n = 0 then (w, { l with good := w }) else (l.good, { l with bad := n - 1 })

/-- An uncorrectable granule of a delay line is read: counted and captured with its address (R281). -/
def State.lineError (s : State) (addr : Nat) : State :=
  ((s.bump pgPit PIT_DLY_ERR_n).irq pgPit IRQ_pitCtl_dly_err).err pgPit 0x0A0 (some accMediaRead) (some addr)

/-- One sample through delay line n, or through an output's read position that has none. With the last word of a granule the granule goes
to DRAM. bad: the granule read now is uncorrectable, as it is where it stands so in DRAM; its words repeat the last good one (R281). -/
def State.lineStep (s : State) (n : Option Nat) (l : DLine) (x : Nat) (bad : Bool) : State × Nat × DLine :=
  let l := l.push x
  let q := l.pos - 1 - l.rd
  let inDram : Bool := l.rd < l.hist.length && q / 32 < l.pos / 32
  let s := match n with
    | some n =>
      s.when (l.pos % 32 == 0) (fun s => s.engineWrite 0xD0 (s.lineAddr n (l.pos - 32)) ((l.hist.take 32).reverse.flatMap (bytesLE 4)))
    | none => s
  let gone := match n with
    | some n => if inDram then (s.badIn (s.lineAddr n q) 4).head? else none
    | none => none
  let r := l.read (s.lineWord n l)
  let h := r.2.held r.1 (if bad || gone.isSome then 32 - q % 32 else 0)
  let s := match n with
    | some n => s.when (inDram && !bad && (if gone.isSome then l.bad == 0 else q % 32 == 0)) (fun s => s.areaSeen 0xD0 (s.lineAddr n q) 4 [])
    | none => s
  match gone with
  | some g => (s.when (!bad && l.bad == 0) (fun s => s.lineError g), h)
  | none => (s, h)

/-! ### Pool lines (R280) -/

/-- The pool lines in use. -/
def State.poolLines (s : State) : List Nat := s.pitOut.filterMap (fun e => e.2.line)

/-- The lowest free pool line (log entry 35). -/
def State.freeLine (s : State) : Nat := ((List.range 8192).find? (fun i => !(s.poolLines.contains (8192 + i)))).getD 0 + 8192

/-- The pool lines that a table asks for: one for each output with a delay, two for a k96 pair. -/
def pitLinesNeed (tab : Store W32) : Nat :=
  ((List.range 65536).filter (fun o => pitOutFld tab (pitEntry tab o) PITO_delay != 0)).length

/-! ### Commits becoming live (R268, R272, R273, R283) -/

/-- An output takes its live entry: its coefficient ramps, its delay changes, it gains or gives up a pool line. -/
def State.pitOutLive (s : State) (o : Nat) : State :=
  let e := pitEntry s.pitTab o
  let v := s.pot o
  let k := pitCoef s.pitTab e
  let d := pitOutFld s.pitTab e PITO_delay
  let v := if k = v.kTo then v else { v with kFrom := v.coef, kTo := k, kj := 0, kn := s.lv pgPit PIT_CTL_gramp }
  let v := { v with dl := v.dl.retarget d (pitOutFld s.pitTab e PITO_xfade) }
  let v := if d = 0 then { v with line := none }
    else if v.line.isNone then { v with line := some s.freeLine, dl := { v.dl with hist := [], pos := 0 } }
    else v
  s.setPot o v

/-- The outputs a change of table touches: those with an entry in either, with their pair partners. -/
def pitTouched (old new : Store W32) : List Nat :=
  let l := ((old ++ new).filter (fun e => e.1 < 131072)).map (fun e => e.1 / 2)
  (l ++ l.map (· + 1)).dedup

/-- The waiting table becomes live. -/
def State.pitTabLive (s : State) : State :=
  match s.pitPend with
  | none => s
  | some t =>
    let touched := pitTouched s.pitTab t
    let s := { s with pitTab := t, pitPend := none }
    let s := (touched.filter (fun o => o < 65536)).foldl (fun s o => s.pitOutLive o) s
    s.setFld pgPit PIT_DLY_USED_n s.poolLines.length

/-- The commit of the window page applies: its table with it. -/
def State.pitWinApply (s : State) : State :=
  if s.commitDue pgPitW then (s.applySlot pgPitW .pitWin 0).pitTabLive else s

/-- PIT_CTL.lat changes live from old: every delivering input, and every TDM port that runs, presents its last sample that many times
more, or drops as many, and no slip counts (R268). A TDM port's frames that come too late then are dropped (Tdm.lean). -/
def State.pitLatLive (s : State) (old : Nat) : State :=
  let new := s.lv pgPit PIT_CTL_lat
  if new = old then s
  else
    { s with
      pitIn := s.pitIn.map (fun e =>
        if e.2.live then
          (e.1, if old < new then { e.2 with rep := e.2.rep + (new - old) } else { e.2 with drp := e.2.drp + (old - new) })
        else e)
      tdm := s.tdm.map (fun e =>
        (e.1, if old < new ∧ s.bit (pgTdm e.1) TDM_STAT_run ∧ s.lv (pgTdm e.1) TDM_CFG_clk ≠ 2 then
            { e.2 with rep := e.2.rep + (new - old) }
          else { e.2 with rep := e.2.rep - (old - new) })) }

def State.pitCtlApply (s : State) : State :=
  let old := s.lv pgPit PIT_CTL_lat
  (s.applySlot pgPit .pitCtl 0).pitLatLive old

/-! ### Takes (R274 to R279) -/

/-- The word an input presents now; shift 1 for the second output of a k96 pair. No input gives silence. -/
def State.pitWord (s : State) (i : Option Nat) (shift : Nat) : Nat :=
  match i with | some i => (s.pin (i + shift)).cur | none => 0

/-- A direct take is stored: accepted at this uptime, it may land from two samples on (R276). -/
def State.pitDirect (s : State) (out : Nat) (src : Option Nat) (kind tgt : Nat) : State :=
  let soon := s.now + 441000
  let soon := max soon s.earliest
  let first := s.pitNext tgt
  let t : PitTake :=
    if kind = 1 then { seq := s.armSeq, out := out, src := src, target := s.pitNext soon, ready := soon, late := false, direct := true }
    else { seq := s.armSeq, out := out, src := src, target := tgt, ready := max tgt soon, late := first < soon, direct := true }
  let s := { s with pitTakes := s.pitTakes ++ [t], armSeq := s.armSeq + 1 }
  let s := s.setFld pgPitT PIT_TK_LEVEL_n (s.pitTakes.filter (·.direct)).length
  match src with
  | some i => s.journal (s.pitNext t.ready) (.pitTake out i)
  | none => s.journal (s.pitNext t.ready) (.pitTake out 65536)

/-- PIT_TK_CTL.go by master m (R276). -/
def State.pitSubmit (s : State) (m : Nat) : State :=
  let out := s.mfld m pgPitT PIT_TK_out
  let inp := s.mfld m pgPitT PIT_TK_in
  let kind := s.mfld m pgPitT PIT_TK_CTL_kind
  let src := if s.mfld m pgPitT PIT_TK_CTL_none = 1 then none else some inp
  let k96 := pitK96 s.pitTab out
  if kind ≥ 2 ∨ pitOutReserved out ∨ (k96 ∧ out % 2 = 1) ∨ (k96 ∧ src.any (fun i => i % 2 == 1)) then
    let s := s.when (!pitOutReserved out) (fun s => s.setPot out { s.pot out with res := 4 })
    (s.bump pgPitT PIT_TK_INVALID_n).setMfld m pgPitT PIT_TK_RESP_st 3
  else if 4096 ≤ (s.pitTakes.filter (·.direct)).length then
    ((s.bump pgPitT PIT_TK_FULL_n).irq pgPitT IRQ_pitTake_full).setMfld m pgPitT PIT_TK_RESP_st 2
  else
    let tgt := s.mfld m pgPitT PIT_TK_TGT_hi * 2 ^ 32 + s.mfld m pgPitT PIT_TK_TGT_lo
    let s := s.setMfld m pgPitT PIT_TK_RESP_st 1
    if s.follows then s else s.pitDirect out src kind tgt

/-- A follow take, armed by the Turntable with the take of number seq: it lands at the first Pit instant at or after the switching
point (R195). -/
def State.pitFollow (s : State) (seq out : Nat) (src : Option Nat) (point : Nat) : State :=
  let k96 := pitK96 s.pitTab out
  if k96 && out % 2 == 1 then s
  else
    let src := if k96 && src.any (fun i => i % 2 == 1) then none else src
    { s with pitTakes := s.pitTakes ++
        [{ seq := seq, out := out, src := src, target := point, ready := point, late := false, direct := false }] }

/-- The last take to land on an output at one instant moves its output (R277). -/
def State.pitLandOne (s : State) (o : Nat) (t : PitTake) : State :=
  let e := pitEntry s.pitTab o
  let v := s.pot e
  let n := pitOutFld s.pitTab e PITO_xfade
  let res := if t.late then 2 else 1
  let tr := v.weights.any (fun w => trOf (s.pitWord w.1 0)) || trOf (s.pitWord t.src 0)
  if t.src = v.src ∧ v.st ≠ 1 then s.setPot e { v with res := 1 }
  else if v.st = 2 then s.setPot e { v with want := t.src, j := 0, cut := none, res := res }
  else if tr then s.setPot e { v with st := 2, want := t.src, mix := v.weights, j := 0, cut := none, res := res }
  else
    let (mix, trunc) := cutBlend v.weights
    let s := s.when (trunc && n != 0) (fun s => s.bump pgPit PIT_XF_TRUNC_n)
    if n = 0 then s.setPot e { v with st := 0, src := t.src, mix := [], j := 0, n := 0, res := res }
    else s.setPot e { v with st := 1, src := t.src, mix := mix, j := 0, n := n, res := res }

/-- The takes due on an output at this Pit instant land in the order they were armed: the last stands, every earlier one is
superseded; lateness counts for each (R276, R279). -/
def State.pitLand (s : State) (o : Nat) : State :=
  match s.pitNow with
  | none => s
  | some p =>
    let due := s.pitTakes.filter (fun t => t.out == o && t.ready ≤ p)
    let s := { s with pitTakes := s.pitTakes.filter (fun t => !(t.out == o && t.ready ≤ p)) }
    let s := s.setFld pgPitT PIT_TK_LEVEL_n (s.pitTakes.filter (·.direct)).length
    let s := due.foldl (fun s t => s.when t.late (fun s => (s.bump pgPitT PIT_TK_LATE_n).irq pgPitT IRQ_pitTake_late)) s
    let s := if 1 < due.length then s.bump pgPit PIT_SUPERSEDED_n (due.length - 1) else s
    match due with
    | t :: rest => s.pitLandOne o (rest.foldl (fun b x => if b.seq ≤ x.seq then x else b) t)
    | [] => s

/-- A crossfade has run its length: the new input stands alone (R271). -/
def State.pitFadeEnd (s : State) (o : Nat) : State :=
  let v := s.pot o
  if v.st = 1 ∧ v.n ≤ v.j then s.setPot o { v with st := 0, mix := [], j := 0, n := 0 } else s

/-- A waiting output has changed whole word, at a word with z or forced at sample 192 (R274). -/
def State.pitCut (s : State) (o : Nat) : State :=
  let v := s.pot o
  match v.cut with
  | some forced =>
    if v.st = 2 then
      let s := s.setPot o { v with st := 0, src := v.want, want := none, mix := [], j := 0, n := 0, cut := none,
                                   res := if forced then 5 else v.res }
      s.when forced (fun s => s.bump pgPit PIT_TR_FORCED_n)
    else s
  | none => s

/-! ### The window (R283) -/

/-- The defined bits of word i of a table entry: an output entry (table 0) or a rail map entry (R283). -/
def pitMask (tbl i : Nat) : W32 := if tbl = 0 then (if i = 0 then 0x1FFFFFFF else 0x0000FFFF) else if i = 0 then 0x007FFFFF else 0

/-- PIT_SEL.load and store: ignored while busy, or for an entry that the rail map does not have. -/
def State.pitWindow (s : State) (a : Acc) (isStore : Bool) : State :=
  let p := pgPitW
  let tbl := s.fld p PIT_SEL_tbl
  let e := s.fld p PIT_SEL_idx
  if s.bit p PIT_SEL_busy then s.accErr p 0x0A2 a accWrite (p + 0x100)
  else if tbl = 1 ∧ railMapLen ≤ e then s.accErr p 0x0A7 a accWrite (p + 0x100)
  else
    let s := s.setBit p PIT_SEL_busy true
    let x := pitIdx tbl e
    if isStore then
      let st := Store.put (fun _ => 0) x (s.word (p + 0x140) &&& pitMask tbl 0) s.pitStage
      { s with pitStage := if tbl = 0 then Store.put (fun _ => 0) (x + 1) (s.word (p + 0x144) &&& pitMask tbl 1) st else st }
    else
      let t := if s.bit p PIT_SEL_live then s.pitTab else s.pitStage
      let s := (s.setWord (p + 0x140) (Store.get (fun _ => 0) t x)).setWord (p + 0x144)
        (if tbl = 0 then Store.get (fun _ => 0) t (x + 1) else 0)
      if tbl = 0 then
        let b := pitEntry s.pitTab e
        let v := s.pot b
        let s := s.setFld p PIT_OSTAT_src (match v.src with | some i => i + (e - b) | none => 0)
        let s := s.setBit p PIT_OSTAT_sel v.src.isSome
        let s := (s.setFld p PIT_OSTAT_state v.st).setFld p PIT_OSTAT_res v.res
        let l := (s.pot e).line
        (s.setFld p PIT_OLINE_n (l.getD 0)).setBit p PIT_OLINE_valid l.isSome
      else s

/-- The words of the Pit tables in CRC order: every output entry, then every rail map entry (R283). -/
def pitCrc (tab : Store W32) : W32 :=
  crc32c ((List.range (131072 + railMapLen)).flatMap (fun i => bytesOf (Store.get (fun _ => 0) tab i)))

/-- What a write of a Pit page does beyond storing the word. -/
def State.pitWinHook (s : State) (a : Acc) (o : Nat) (eff : W32) : State :=
  if o = 0x100 then
    let s := if eff.getLsbD 24 then s.pitWindow a false else s
    if eff.getLsbD 25 then s.pitWindow a true else s
  else s

def State.pitWinWrite (s : State) (a : Acc) (o : Nat) (w : W32) (hw : Option W32) : State :=
  let w := if 0x140 ≤ o then w &&& pitMask (s.fld pgPitW PIT_SEL_tbl) ((o - 0x140) / 4) else w
  let r := s.storeWord a pgPitW .pitWin 0 o w hw
  if r.ok then r.s.pitWinHook a o r.eff else r.s

def State.pitTakeWrite (s : State) (a : Acc) (o : Nat) (w : W32) : State :=
  let r := s.storeFor a pgPitT .pitTake 0 o w
  if r.ok ∧ o = 0x104 ∧ r.eff.getLsbD 31 then r.s.pitSubmit a.m else r.s

/-! ### The commands -/

/-- PIT_REGRID (R265): past its last old instant the Pit runs on the new grid. -/
def execPitRegrid (s : State) : Out := run s fun s =>
  match s.pitGrid.move with
  | some lo =>
    if lo < s.now + 16 then
      let s := { s with pitGrid := { grid := s.pitWanted, start := lo + pitGap, last := lo } }
      ((s.setBit pgPit PIT_STAT_tod s.held).bump pgPit PIT_REGRID_n).irq pgPit IRQ_pitCtl_regrid
    else s
  | none => s

/-- PIT_TAKE_SUBMIT (R276): a write of PIT_TK_CTL. -/
def execPitTakeSubmit (a : Acc) (word : W32) (s : State) : Out := run s fun s =>
  s.viaPath a (pgPitT + 0x104) (fun s => s.pitTakeWrite a 0x104 word)

/-- PIT_TAKE_LAND (R276, R277). -/
def execPitTakeLand (out : Fin 65536) (s : State) : Out := run s fun s => s.pitLand out

/-- CROSSFADE_END (R271). -/
def execCrossfadeEnd (out : Fin 65536) (s : State) : Out := run s fun s => s.pitFadeEnd out

/-- TRANSPARENT_CUT (R274). -/
def execTransparentCut (out : Fin 65536) (s : State) : Out := run s fun s => s.pitCut out

/-- PIT_WINDOW_LOAD (R283): PIT_SEL.load is written, the other bits of the register as they stand. -/
def execPitWindowLoad (a : Acc) (s : State) : Out := run s fun s =>
  s.viaPath a (pgPitW + 0x100) (fun s => s.pitWinWrite a 0x100 (s.word (pgPitW + 0x100) ||| 0x1000000) none)

/-- PIT_WINDOW_STORE (R283). -/
def execPitWindowStore (a : Acc) (s : State) : Out := run s fun s =>
  s.viaPath a (pgPitW + 0x100) (fun s => s.pitWinWrite a 0x100 (s.word (pgPitW + 0x100) ||| 0x2000000) none)

/-- PIT_TABLE_CRC_PASS (R283): while the window page is armed. -/
def execPitTableCrcPass (s : State) : Out := run s fun s =>
  if s.bit pgPitW PAGE_STAT_armed && !s.parityOn pgPitW .pitWin then
    let c := pitCrc s.pitTab
    let s := s.setFld pgPitW PIT_TCRC_NOW_crc c.toNat
    if c.toNat = s.fld pgPitW PIT_TCRC_REF_crc then s else s.cfgFault pgPitW 0x0A3 pgPitW
  else s

end Sys2Proof.Machine
end

