-- ==== Sys2Proof/Machine/Sync.lean ====
section
/-!
DEFINITION. Frame synchronisers (R206 to R223).
-/
namespace Sys2Proof.Machine

/-! ### Units and what they can write (R206, R211, R215) -/

/-- The active rate limit of one unit. -/
def synLimit : Nat := 2654208000

/-- The units a picture needs: one, four, or none that would do. -/
def synUnits (f : Fmt) : Option Nat :=
  let bits := f.px * activeLines f.lines * bppOf f.samp * cueSec
  if bits ≤ synLimit * perOf f.rate then some 1 else if bits ≤ 4 * synLimit * perOf f.rate then some 4 else none

/-- The picture is beyond the unit or gang. -/
def State.synOver (s : State) (b : Nat) (f : Fmt) : Bool :=
  match synUnits f with | some n => (if s.synGang b then 4 else 1) < n | none => true

/-- Other rates are allowed: configured, or claimed by auto-sync. -/
def State.synCross (s : State) (b : Nat) : Bool := (s.sy b).claim.isSome || s.syLv b SYN_CFG_xrate == 1

/-- The picture is of the wrong rate. -/
def State.synDiff (s : State) (b : Nat) (f : Fmt) : Bool :=
  f.rate != s.grpRate (s.synGroup b) && (f.intl || !s.synCross b)

/-! ### States (R213, R214) -/

/-- SYN_USED: units enabled or claimed; a gang counts four. -/
def State.synCount (s : State) : State :=
  let units := s.syn.filter (fun e => e.2.on)
  s.setFld pgSync SYN_USED_n ((units.map (fun e => if s.synGang e.1 then 4 else 1)).sum)

/-- A unit starts (R213): the ring is emptied. -/
def State.synStart (s : State) (b : Nat) : State :=
  let s := s.setSy b { on := true, claim := (s.sy b).claim }
  (((s.setSyFld b SYN_STAT_state synStarting).setSyFld b SYN_FILL_n 0).synLost b).synCount

/-- The Pit inputs and the delay lines of a unit are silent and empty. -/
def State.synMute (s : State) (b : Nat) : State :=
  let n := if s.synGang b then 128 else 32
  { s with pitIn := s.pitIn.filter (fun e => e.1 < 16384 + 32 * b || 16384 + 32 * b + n ≤ e.1),
           synLine := s.synLine.filter (fun e => e.1 < 32 * b || 32 * b + n ≤ e.1) }

/-- A unit goes Off: its rail carries no source. -/
def State.synStop (s : State) (b : Nat) : State :=
  let s := (s.synMute b).setSy b {}
  let s := ((s.setSyFld b SYN_STAT_state synOff).setSyFld b SYN_STAT_input_lost 0).setSyFld b SYN_STAT_oversize 0
  (((s.setSyFld b SYN_STAT_rate_diff 0).setSyFld b SYN_FILL_n 0).synCount).synLoss

/-- A claim of w units from b for output group g (R180). -/
def State.synClaim (s : State) (b w g : Nat) : State :=
  let s := s.setSy b { s.sy b with claim := some (g, w) }
  let s := (List.range w).foldl (fun s i => s.setSyFld (b + i) SYN_STAT_claimed 1) s
  s.synStart b

/-- A claim is given up (R182). -/
def State.synFree (s : State) (b : Nat) : State :=
  let w := match (s.sy b).claim with | some (_, w) => w | none => 1
  let s := (List.range w).foldl (fun s i => s.setSyFld (b + i) SYN_STAT_claimed 0) s
  s.synStop b

/-- Live settings of a unit after a commit: enabling starts it, disabling stops it (R213). -/
def State.synLive (s : State) (k : Nat) (was : Bool) : State :=
  let en := s.syLv k SYN_CFG_en == 1
  if en && !was then s.synStart k else if was && !en then s.synStop k else s

/-- The waiting commit of a unit's slot becomes live (R221). -/
def State.synApply (s : State) (k : Nat) : State :=
  let was := s.syLv k SYN_CFG_en == 1
  (s.applySlot (pgSyn k) .synQuad (k % 4)).synLive k was

/-! ### Writing (R208, R209, R215) -/

/-- The slot of input frame j in the region of unit b (R208). -/
def State.synSlot (s : State) (b j : Nat) : Nat :=
  s.lv64 pgSync SYN_AREA_lo SYN_AREA_hi + b * 2 ^ 28 + j % (max 1 (s.syLv b SYN_CFG_depth)) * 2 ^ 24

/-- Bytes of a line of a frame's rail in a slot: its pixels packed, most significant first (DESIGN CHOICE, log entry 35). -/
def SynFrame.lineBytes (f : SynFrame) : Nat := ceilDiv (f.fmt.px / f.width * bppOf f.fmt.samp) 8

/-- The unit of a gang, and the line in its slot, that hold line y of rail i: each unit a rail of a gang of four, or the whole frame in
one unit; how a narrower source is quartered no rule says (log entry 35). -/
def State.synHome (s : State) (b : Nat) (f : SynFrame) (i y : Nat) : Nat × Nat :=
  if !s.synGang b then (0, y) else if f.width = 4 then (i, y) else Config.synQuarter f.width i y

/-- The requester that serves a unit (R375). -/
def synReq (k : Nat) : Nat := 0x60 + k % 32

/-- A line of rail r, of field k, goes into the frames being written of the units that read the rail. -/
def State.ringLine (s : State) (r k : Nat) : State :=
  let b := s.railBase r
  let v := s.pt r
  let px := v.line.getD k []
  s.syn.foldl (fun s e =>
    match e.2.ring with
    | f :: _ =>
      if e.2.writing ∧ s.synRail e.1 = b then
        let y := if f.fmt.intl then 2 * ((if k = 0 then v.rows.1 else v.rows.2) - 1) + k else v.rows.1 - 1
        let h := s.synHome e.1 f (r - b) y
        let bpp := bppOf f.fmt.samp
        let n := f.lineBytes
        let x := px.foldl (fun x p => x * 2 ^ bpp + p % 2 ^ bpp) 0
        s.engineWrite (synReq (e.1 + h.1)) (f.slot + h.1 * 2 ^ 28 + h.2 * n) (bytesLE n (x * 2 ^ (8 * n - px.length * bpp))).reverse
      else s
    | [] => s) s

/-- An input frame of picture f starts at w on the unit's rail: it is written unless it is too large or of the wrong rate. -/
def State.synWrite (s : State) (b w : Nat) (f : Fmt) : State :=
  let tooBig := s.synOver b f
  let diff := s.synDiff b f
  let s := (s.setSyFld b SYN_STAT_oversize tooBig.toNat).setSyFld b SYN_STAT_rate_diff diff.toNat
  let v := s.sy b
  if tooBig || diff then s.setSy b { v with writing := false }
  else
    let v := if v.writing then v else { v with restart := v.next, quiet := v.last.isSome, writing := true }
    let r := s.synRail b
    let fin := w + (Config.firstActive f.lines + activeLines f.lines) * perOf f.rate / f.lines
    let fr : SynFrame := { num := v.next, w := w, done := some fin, fmt := f, width := s.railWidth r, good := s.railGood r,
                             anc := s.railAncs (s.railBase r), edh := s.railEdh r, colour := s.railColour r,
                             slot := s.synSlot b v.next }
    let s := s.setSy b { v with ring := (fr :: v.ring).take (s.syLv b SYN_CFG_depth), next := v.next + 1,
                                good := if fr.good then some fr else v.good }
    s.setSyFld b SYN_FILL_n (min 31 (v.next + 1 - (match v.last with | some l => l + 1 | none => v.restart)))

/-- A take landed at the unit's input tap: the frame being written is discarded (R209). -/
def State.synTaken (s : State) (b : Nat) : State :=
  let v := s.sy b
  if !v.on then s
  else
    let s := match v.ring with
      | fr :: rest => if s.now < fr.w + perOf fr.fmt.rate then s.setSy b { v with ring := rest, next := fr.num } else s
      | [] => s
    s.synLost b

/-! ### Choosing the frame (R210, R214, R216) -/

/-- The frame m that R210 finds at D, of those written since the last restart. -/
def State.synPick (s : State) (b D : Nat) : Option Nat :=
  let v := s.sy b
  let g := s.grpRate (s.synGroup b)
  let ok := fun (f : SynFrame) =>
    v.restart ≤ f.num && (if f.fmt.rate = g then f.w ≤ D else match f.done with | some t => t ≤ D | none => false)
  match v.ring.find? ok with
  | some e =>
    let d := s.syLv b SYN_CFG_depth - 3
    if e.num < v.restart + d then
      match v.last with | some l => if v.restart ≤ l then some l else none | none => none
    else
      let m := e.num - d
      match v.last with | some l => if m < l then some l else some m | none => some m
  | none => none

/-- The lines per frame that place the decision: of the format being output, in Starting of the newest input frame. -/
def State.synLines (s : State) (b : Nat) : Option Nat :=
  let v := s.sy b
  match v.out with
  | some f => some f.lines
  | none => v.ring.head?.map (fun f => f.fmt.lines)

/-- A repeat or drops are counted, but for the first frame chosen after a restart (R214). -/
def State.synTally (s : State) (b m : Nat) : State :=
  let v := s.sy b
  if v.quiet then s
  else
    match v.last with
    | some l =>
      if m = l then (s.syCount b SYN_REPEAT_n).syIrq b IRQ_synQuad_repeat
      else if l + 1 < m then (s.syCount b SYN_DROP_n (m - l - 1)).syIrq b IRQ_synQuad_drop
      else s
    | none => s

/-- A unit's output begins at F (R213). -/
def State.synRun (s : State) (b F : Nat) : State :=
  if s.synState b = synStarting then
    ((s.setSyFld b SYN_STAT_state synRunning).syIrq b IRQ_synQuad_running).setSy b { s.sy b with first := F }
  else s

/-- The decision for the output frame that starts at F. On a device that follows the Lead it acts only at F, where none of the Lead's
has come (R218). -/
def State.synDecide (s : State) (b F D : Nat) : State :=
  let v := s.sy b
  let shut := s.syFld b SYN_STAT_input_lost = 1 ∨ s.syFld b SYN_STAT_oversize = 1 ∨ s.syFld b SYN_STAT_rate_diff = 1
  let pick := if shut then none else s.synPick b D
  let st := s.synState b
  let s :=
    if st = synStarting ∧ pick.isSome ∧ !s.follows then (s.synRun b F).setSy b { (s.synRun b F).sy b with decided := some (F, pick) }
    else if st = synRunning ∨ pick.isSome then s.setSy b { v with decided := some (F, pick) }
    else s
  match pick with
  | some m => if s.follows then s else (s.synTally b m).journal F (.sync b m)
  | none => s

/-! ### Output frames (R212, R217, R218) -/

/-- The audio delay in samples (R217). -/
def State.synAudio (s : State) (b : Nat) : Nat :=
  let trim := toSigned 13 (s.syLv b SYN_AUD_trim)
  let d := if s.syLv b SYN_AUD_en = 1 then roundDiv (s.sy b).delay pitPer + trim else trim
  (max 0 (min 48000 d)).toNat

/-- The delay lines of a unit, and of the members of its gang, take the audio delay. -/
def State.synDelay (s : State) (b : Nat) : State :=
  let d := s.synAudio b
  let n := s.syLv b SYN_AUD_xfade
  (List.range (if s.synGang b then 128 else 32)).foldl (fun s c =>
    let k := 32 * b + c
    let l := (Store.get (fun _ => ({} : DLine)) s.synLine k).retarget d n
    { s with synLine := Store.put (fun _ => {}) k l s.synLine }) s

/-- What an Understudy applies at F: the Lead's decision, or its own where none has come (R218). -/
def State.synFollow (s : State) (b F : Nat) (own : Option Nat) : State × Option Nat :=
  if !s.follows then (s, own)
  else
    let v := s.sy b
    match v.lead.find? (fun e => e.1 == F) with
    | some (_, m) =>
      let s := s.setSy b { v with lead := v.lead.filter (fun e => F < e.1) }
      let s := s.when (own != some m) (fun s => (s.syCount b SYN_PAIR_DIFF_n).syIrq b IRQ_synQuad_pair_diff)
      (s.synTally b m, some m)
    | none =>
      match own with
      | some m => (((s.syCount b SYN_JRN_LATE_n).err (pgSyn b) 0x081).synTally b m, own)
      | none => (s, own)

/-- Every line of a frame of the unit: unit of the gang and line in its slot. -/
def State.synAll (s : State) (b : Nat) (fr : SynFrame) : List (Nat × Nat) :=
  (List.range fr.width).flatMap (fun i => (List.range (activeLines fr.fmt.lines)).map (s.synHome b fr i))

/-- The granules of a frame's slots that do not simply give their data, each with its unit of the gang: one of every line whose channels
do not serve it (R385), those whose stored form has an error pattern, and (bad) those in error by this read alone. -/
def State.synOdd (s : State) (b : Nat) (fr : SynFrame) (bad : List Nat) : List (Nat × Nat) :=
  let n := max 1 fr.lineBytes
  (List.range (if s.synGang b then 4 else 1)).flatMap (fun i =>
    let a := fr.slot + i * 2 ^ 28
    let lost := if (s.lostIn a (2 ^ 24)).isNone then []
      else ((s.synAll b fr).filter (fun y => y.1 == i)).filterMap (fun y => s.lostIn (a + y.2 * n) n)
    ((lost ++ s.errIn a (2 ^ 24) ++ (bad.filter (fun x => a ≤ x && x < a + 2 ^ 24)).map granuleOf).dedup).map (fun g => (i, g)))

/-- The lines of frame fr that read with an uncorrectable error (R219): unit of the gang, line in its slot, and the DRAM address of the
first such granule. -/
def State.synBad (s : State) (b : Nat) (fr : SynFrame) (bad : List Nat) : List (Nat × Nat × Nat) :=
  let n := max 1 fr.lineBytes
  let l := (s.synOdd b fr bad).filter (fun x => s.granuleBad x.2 (bad.any (granuleOf · == x.2)))
  l.foldl (fun r x =>
    let y := (x.2 - (fr.slot + x.1 * 2 ^ 28)) / n
    if r.any (fun e => e.1 == x.1 && e.2.1 == y) then r else r ++ [(x.1, y, x.2)]) []

/-- The frame is read: what its granules bring in the controllers (R391, R392). -/
def State.synSeen (s : State) (b : Nat) (fr : SynFrame) (bad : List Nat) : State :=
  (s.synOdd b fr bad).foldl (fun s x => s.granuleSeen (synReq (b + x.1)) x.2 (bad.any (granuleOf · == x.2))) s

/-- The output frame shows frame m of the unit (R212, R217, R218, R219). Lines of it that are not written yet (missing) or that read
with an error are replaced by those of frame m - 1, if it is held and the line reads, else by black. A frame that is not in the ring
brings no delay of its own: SYN_DELAY stays (DESIGN CHOICE, log entry 193). -/
def State.synShow (s : State) (b F m : Nat) (missing bad : List Nat) : State :=
  let v := s.sy b
  let prev := if m = 0 then none else v.frame (m - 1)
  let prevBad := match prev with | some f => s.synBad b f bad | none => []
  let src := fun (x : Nat × Nat) => if prevBad.any (fun y => (y.1, y.2.1) == x) then none else prev.map SynFrame.num
  match v.frame m with
  | some fr =>
    let errs := s.synBad b fr bad
    let short := if s.follows then missing else []
    let gone := short.flatMap (fun y => (List.range fr.width).map (fun i => s.synHome b fr i y))
    let subs := (gone ++ errs.map (fun e => (e.1, e.2.1))).dedup.map (fun x => (x.1, x.2, src x))
    let out : Fmt := { fr.fmt with rate := s.grpRate (s.synGroup b) }
    let s := s.setSy b { v with last := some m, out := some out, width := fr.width, quiet := false, shown := some m,
                                subs := subs, delay := F - fr.w }
    let s := ((s.synSeen b fr bad).setSyFld b SYN_DELAY_cues (F - fr.w)).setSyFld b SYN_FILL_n (min 31 (v.next - (m + 1)))
    let s := s.syCount b SYN_PAIR_SHORT_n short.length
    errs.foldl (fun s x =>
      ((s.syCount b SYN_LINE_SUB_n).syIrq b IRQ_synQuad_line_sub).err (pgSyn b) 0x080 (some accMediaRead) (some x.2.2)) s
  | none =>
    let all := match prev with | some fr => s.synAll b fr | none => []
    let s := s.setSy b { v with last := some m, quiet := false, shown := some m, subs := all.map (fun x => (x.1, x.2, src x)),
                                out := (prev.map (fun (f : SynFrame) => { f.fmt with rate := s.grpRate (s.synGroup b) })).orElse (fun _ => v.out) }
    s.syCount b SYN_PAIR_SHORT_n all.length

/-- An output frame starts at F with the frame decided for it, or with the lossmode output (R214). -/
def State.synFrame (s : State) (b F : Nat) (own : Option Nat) (missing bad : List Nat) : State :=
  let s := s.synApply b
  if !(s.sy b).on then s
  else
    let (s, pick) := s.synFollow b F own
    if s.synState b = synStarting ∧ pick.isNone then s.setSy b { s.sy b with decided := none }
    else
      let s := s.synRun b F
      let s := s.setSy b { s.sy b with decided := none }
      let s := s.setFld64 (pgSyn b) SYN_FRUPT_lo SYN_FRUPT_hi F (b % 4)
      let s := match pick with
        | some m => s.synShow b F m missing bad
        | none =>
          let v := s.sy b
          s.setSy b { v with shown := if s.syLv b SYN_CFG_lossmode = 0 then v.good.map SynFrame.num else none, subs := [] }
      s.synDelay b

/-! ### The commands -/

/-- SYNC_INPUT_FRAME (R209): the first word of an input frame, at cue of the present TICK. -/
def execSyncInputFrame (unit : Fin 256) (cue : Fin 16) (s : State) : Out := run s fun s =>
  if (s.sy unit).on then
    match s.railFmt (s.synRail unit) with
    | some f => (s.setSyFld unit SYN_STAT_input_lost 0).synWrite unit (s.now + cue) f
    | none => s.synLost unit
  else s

/-- SYNC_DECISION (R210): at D, two output lines before F. -/
def execSyncDecision (unit : Fin 256) (s : State) : Out := run s fun s =>
  if (s.sy unit).on then
    match s.synLines unit with
    | some n =>
      let g := s.synGroup unit
      let two := 2 * perOf (s.grpRate g) / n
      let F := s.grpNext g (s.now + two)
      if F - two < s.now + 16 then s.synDecide unit F (F - two) else s
    | none => s
  else s

/-- SYNC_OUTPUT_FRAME_START (R212): the rail instant F of the output group, for which the unit or the Lead has decided. missing: lines
of the frame not yet written when they are read (R218); bad: DRAM addresses whose reads, though what is stored is sound, have an
uncorrectable error (R219). -/
def execSyncOutputFrameStart (unit : Fin 256) (missing bad : List Nat) (s : State) : Out := run s fun s =>
  let v := s.sy unit
  match v.decided with
  | some (F, m) => if F < s.now + 16 then s.synFrame unit F m missing bad else s
  | none =>
    match v.lead.head? with
    | some (F, _) => if v.on && s.follows && F < s.now + 16 then s.synFrame unit F none missing bad else s
    | none => s

/-- RAIL_LINE_RELEASE (R158); the line goes into the rings of the units that read the rail (R208). -/
def execRailLineRelease (rail : Fin 2048) (field : Fin 2) (pix : List (Option Nat)) (late : Bool) (sram : Option Nat)
    (s : State) : Out := runRails s fun s => (s.railLine rail field pix late sram).ringLine rail field

end Sys2Proof.Machine
end

