-- ==== Sys2Proof/Machine/Tdm.lean ====
section
/-!
DEFINITION. TDM audio ports (R286 to R300): frames and positions, gaps and re-entry, starting and stopping channels, triggers.
-/
namespace Sys2Proof.Machine

def State.tp (s : State) (q : Nat) : TdmPort := Store.get (fun _ => {}) s.tdm q
def State.setTp (s : State) (q : Nat) (v : TdmPort) : State := { s with tdm := Store.put (fun _ => {}) q v s.tdm }

/-- The key of a channel: receive slots, then transmit slots, of a port. -/
def chKey (q : Nat) (isTx : Bool) (slot : Nat) : Nat := q * 64 + (if isTx then 32 else 0) + slot
def State.tc (s : State) (k : Nat) : TdmCh := Store.get (fun _ => {}) s.tdmCh k
def State.setTc (s : State) (k : Nat) (v : TdmCh) : State := { s with tdmCh := Store.put (fun _ => {}) k v s.tdmCh }

/-- Slots in a frame (R286), the clocking mode (R288). -/
def State.tdmSlots (s : State) (q : Nat) : Nat := match s.lv (pgTdm q) TDM_CFG_slots with | 0 => 8 | 1 => 16 | _ => 32
def State.tdmClk (s : State) (q : Nat) : Nat := s.lv (pgTdm q) TDM_CFG_clk
def State.tdmEn (s : State) (q : Nat) : Bool := s.lbit (pgTdm q) TDM_CFG_en
def State.tdmRun (s : State) (q : Nat) : Bool := s.bit (pgTdm q) TDM_STAT_run
def State.tdmLat (s : State) : Nat := s.lv pgPit PIT_CTL_lat * pitPer

/-- A transparent receive slot (R287). -/
def State.tdmTr (s : State) (q slot : Nat) : Bool := (s.lword (pgTdm q + 0x110)).getLsbD slot

/-- The Pit word of a received slot, and the slot of a Pit word (R287): audio in [31:8]; z, c, u, v in [3:0]. -/
def slotToWord (b : W32) (tr : Bool) : Nat :=
  let f := b.toNat % 16
  let bit := fun i => f / 2 ^ i % 2
  b.toNat / 256 + (bit 0 + 2 * bit 1 + 4 * bit 2 + 8 * bit 3) * 2 ^ 24 + (if tr then 2 ^ 28 else 0)

/-! ### Gain (R295, R297) -/

/-- The gain now, as a fraction: the ramp's value after j of its n positions. -/
def TdmCh.gain (c : TdmCh) : Nat × Nat :=
  if c.n = 0 then (c.gn, c.gd)
  else if c.up then (c.gn * c.n + (c.gd - c.gn) * c.j, c.gd * c.n)
  else (c.gn * (c.n - c.j), c.gd * c.n)

/-- A fraction in lowest terms. -/
def lowest (g : Nat × Nat) : Nat × Nat :=
  let d := Nat.gcd g.1 g.2
  if d = 0 then (0, 1) else (g.1 / d, g.2 / d)

/-- The gain starts to ramp from where it is. -/
def TdmCh.ramp (c : TdmCh) (up : Bool) (n : Nat) : TdmCh :=
  let g := lowest c.gain
  { c with gn := g.1, gd := g.2, up := up, j := 0, n := n }

/-- The gain stands at 0 or 1. -/
def TdmCh.set (c : TdmCh) (one : Bool) : TdmCh := { c with gn := one.toNat, gd := 1, n := 0, j := 0 }

/-- One more position of a ramp. A ramp out that has ended leaves a channel that was ramping to Silent silent. -/
def TdmCh.advance (c : TdmCh) : TdmCh :=
  if c.n = 0 then c
  else
    let c := { c with j := c.j + 1 }
    if c.j < c.n then c
    else
      let c := c.set c.up
      if c.st = 5 then { c with st := 0 } else c

/-- The output of a channel for audio x: round(x × g), ties to even. -/
def TdmCh.scaled (c : TdmCh) (x : Int) : Int := roundDiv (x * c.gain.1) c.gain.2

/-! ### Starting and stopping (R297) -/

/-- A start or a stop of a channel. A transparent slot starts and stops at the next sample. -/
def TdmCh.switch (c : TdmCh) (on tr : Bool) (fadeOut : Nat) : TdmCh :=
  if tr then { c.set on with st := if on then 3 else 0 }
  else if on then
    if c.st = 4 then { c with st := 3 }
    else if c.st = 0 ∨ c.st = 5 then { c.set false with st := 1, wait := 0, prev := none }
    else c
  else
    if c.st = 1 ∨ c.st = 2 then { c.ramp false fadeOut with st := 5 }
    else if c.st = 3 then { c with st := 4, wait := 0 }
    else c

/-- A sample meets a channel that waits for a zero crossing: zero, or a change of sign from the sample before. -/
def TdmCh.cross (c : TdmCh) (x : Int) : TdmCh :=
  let zero := x == 0 || (match c.prev with | some p => (p < 0 && 0 < x) || (0 < p && x < 0) | none => false)
  let c := { c with prev := some x }
  if c.st = 1 then if zero then { c.set true with st := 3 } else { c with wait := c.wait + 1 }
  else if c.st = 4 then if zero then { c.set false with st := 0 } else { c with wait := c.wait + 1 }
  else c

/-- The channels of a port whose enables or whose port changed start or stop: on by slot. -/
def State.tdmSwitch (s : State) (q : Nat) (isTx : Bool) (was is : Nat → Bool) : State :=
  (List.range 32).foldl (fun s i =>
    if was i = is i then s
    else
      let k := chKey q isTx i
      s.setTc k ((s.tc k).switch (is i) (!isTx && s.tdmTr q i) (s.lv (pgTdm q) TDM_FADE_out))) s

/-- A channel is wanted: its enable bit and its port are on. -/
def State.tdmWanted (s : State) (q : Nat) (isTx : Bool) (i : Nat) : Bool :=
  s.tdmEn q && (s.word (pgTdm q + (if isTx then 0x10C else 0x108))).getLsbD i && i < s.tdmSlots q

/-- The positioned port stops (its clocks stop once every channel is silent). -/
def State.tdmHalt (s : State) (q : Nat) : State :=
  let idle := (List.range 64).all (fun i => (s.tc (q * 64 + i)).st == 0)
  if idle && !s.tdmEn q then (s.setBit (pgTdm q) TDM_STAT_run false).setTp q { txHist := (s.tp q).txHist } else s

/-- The waiting commit of a port page becomes live: an enabled port with stamps runs at once, a disabled one stops every
channel (R292, R297). -/
def State.tdmApply (s : State) (q : Nat) : State :=
  let rx := fun i => s.tdmWanted q false i
  let tx := fun i => s.tdmWanted q true i
  let s := s.applySlot (pgTdm q) .tdm 0
  let s := s.tdmSwitch q false rx (fun i => s.tdmWanted q false i)
  let s := s.tdmSwitch q true tx (fun i => s.tdmWanted q true i)
  let s := s.when (s.tdmEn q && s.lbit (pgTdm q) TDM_CFG_align) (fun s => s.setBit (pgTdm q) TDM_STAT_run true)
  s.tdmHalt q

/-- TDM_RXEN or TDM_TXEN was written: a bit at or above the slot count is ignored with 0x0A5 (R298). -/
def State.tdmEnWritten (s : State) (a : Acc) (q : Nat) (isTx : Bool) (old : W32) : State :=
  let adr := pgTdm q + (if isTx then 0x10C else 0x108)
  let n := s.tdmSlots q
  let w := s.word adr
  let good := BitVec.ofNat 32 (2 ^ n - 1)
  let s := s.setWord adr (w &&& good)
  let s := s.when (w &&& ~~~good != 0) (fun s => s.accErr (pgTdm q) 0x0A5 a accWrite adr)
  s.tdmSwitch q isTx (fun i => s.tdmEn q && old.getLsbD i && i < n) (fun i => s.tdmWanted q isTx i)

def State.tdmHook (s : State) (a : Acc) (q o : Nat) (old : W32) : State :=
  if o = 0x108 then s.tdmEnWritten a q false old else if o = 0x10C then s.tdmEnWritten a q true old else s

def State.tdmWrite (s : State) (a : Acc) (q o : Nat) (w : W32) : State :=
  let r := s.storeWord a (pgTdm q) .tdm q o w
  if r.ok then r.s.tdmHook a q o r.old else r.s

/-! ### Decisions of the pair (R296) -/

/-- The Lead journals a gap start (1) or re-entry (2) of slots at a position. -/
def State.tdmDecide (s : State) (q kind slots pos : Nat) : State := s.journal (pos + s.tdmLat) (.tdm q kind slots pos)

/-- What a slot holds at a position once the Understudy has taken the Lead's gap starts and re-entries in place of its own: each
of its own that differs counts, and a frame it lacks alone repeats the last sample. -/
def State.tdmAgree (s : State) (q slot pos : Nat) (c : TdmCh) (own : Option Nat) : State × Option Nat :=
  if s.follows then
    let has := fun kind => (s.tp q).lead.any (fun e => e.1 == kind && e.2.1.testBit slot && e.2.2 == pos)
    let gap := if has 1 then true else if has 2 then false else c.gap
    (s.when ((own.isNone != c.gap) != (gap != c.gap)) (fun s => s.bump (pgTdm q) TDM_PAIR_DIFF_n),
      if gap then none else some (own.getD (mkSample c.x 0)))
  else (s, own)

/-! ### Receiving (R289 to R294) -/

/-- The position of a frame whose sync fell at uptime a: on the grid of the trigger, or by its stamp (R291, R292). -/
def State.tdmPos (s : State) (q a : Nat) : State × Nat :=
  let v := s.tp q
  if s.lbit (pgTdm q) TDM_CFG_align then
    let n := s.lv (pgTdm q) TDM_BLK_frames
    let v := if v.blkOn && v.blk + 1 < n then { v with blk := v.blk + 1 } else { v with blk := 0, blkStamp := a, blkOn := true }
    let s := s.setTp q v
    let s := s.when (v.blk == 0) (fun s =>
      ((s.setFld64 (pgTdm q) TDM_STAMP_lo TDM_STAMP_hi a).setFld (pgTdm q) TDM_BLKSEQ_n
        (s.fld (pgTdm q) TDM_BLKSEQ_n + 1)).irq (pgTdm q) IRQ_tdm_stamp)
    (s, s.pitNext (v.blkStamp + v.blk * pitPer))
  else if s.tdmClk q = 0 then (s, a - s.lv (pgTdm q) TDM_TXOFS_cues)
  else
    let a0 := v.a0.getD a
    let s := s.setTp q { v with a0 := some a0 }
    (s, v.s0 + (roundDiv ((a : Int) - a0) pitPer).toNat * pitPer)

/-- The port's measurement takes a sync (R289). -/
def State.tdmSync (s : State) (q a : Nat) : State :=
  let v := s.tp q
  match v.mFirst with
  | none => s.setTp q { v with mFirst := some a, mLast := a, mCount := 0 }
  | some _ => s.setTp q { v with mLast := a, mCount := v.mCount + 1 }

/-- A port's frame is complete: its sync fell at uptime a, and bits is the count its next sync found (R289, R294). A master's
own clocks have no sync errors and no rate to measure. -/
def State.tdmReceive (s : State) (q a bits : Nat) (slots : List W32) : State :=
  let p := pgTdm q
  let own := s.tdmClk q = 0
  if !s.tdmEn q then s
  else
    let s := if own then s else s.tdmSync q a
    if !s.tdmRun q || a < (s.tp q).s0 && !s.lbit p TDM_CFG_align then s
    else if !own ∧ bits ≠ 32 * s.tdmSlots q then
      let s := (s.bump p TDM_FS_ERR_n).irq p IRQ_tdm_fs_err
      let s := s.when (!(s.tp q).fsBad) (fun s => s.err p 0x0A4)
      s.setTp q { s.tp q with fsBad := true }
    else
      let s := s.setTp q { s.tp q with fsBad := false }
      let (s, pos) := s.tdmPos q a
      let words := (List.range (s.tdmSlots q)).map (fun i => slotToWord (slots.getD i 0) (s.tdmTr q i))
      if s.tdmClk q = 2 then s.setTp q { s.tp q with frames := ((s.tp q).frames ++ [(a, words)]).reverse.take 64 |>.reverse }
      else if s.bit p TDM_STAT_over_range then s
      else if pos + s.tdmLat < s.now then s.bump p TDM_LATE_n
      else
        let cur := s.pitPrev s.now - s.tdmLat
        if cur + 64 * pitPer < pos then s.bump p TDM_OVER_n
        else s.setTp q { s.tp q with frames := (s.tp q).frames ++ [(pos, words)] }

/-- The measured frame rate in mHz, and what it means (R289, R290): over each second of uptime. -/
def State.tdmMeasure (s : State) (q : Nat) : State :=
  let p := pgTdm q
  let v := s.tp q
  match v.mFirst with
  | none => s
  | some f =>
    let span := v.mLast - f
    let s := s.setTp q { v with mFirst := some v.mLast, mCount := 0 }
    if v.mCount = 0 ∨ span = 0 then s
    else
      let s := s.setFld p TDM_FRATE_mhz (roundDiv (v.mCount * cueSec * 1000 : Nat) span).toNat
      if s.tdmClk q = 1 then
        let far := decide (10 * pitPer * v.mCount < 1000000 * ((span : Int) - (pitPer * v.mCount : Nat)).natAbs)
        let s := s.when (far && !s.bit p TDM_STAT_drift) (fun s => s.irq p IRQ_tdm_drift)
        s.setBit p TDM_STAT_drift far
      else if s.tdmClk q = 2 then
        let out := v.mCount * cueSec < 43200 * span ∨ 52800 * span < v.mCount * cueSec
        if out then
          let s := s.setTp q { s.tp q with inRange := none }
          if s.bit p TDM_STAT_over_range then s
          else ((s.setBit p TDM_STAT_over_range true).irq p IRQ_tdm_over_range).err p 0x0A6
        else if s.bit p TDM_STAT_over_range ∧ (s.tp q).inRange.isNone then
          s.setTp q { s.tp q with inRange := some s.now }
        else s
      else s

/-! ### What a slot presents (R294, R295) -/

/-- The word a slot's port holds for the presentation at Pit instant P, if any. A converted port holds one where input lies on
both sides of P - 0.5 ms (R290). -/
def State.tdmHeld (s : State) (q slot P : Nat) : Option Nat :=
  let v := s.tp q
  if s.tdmClk q = 2 then
    if s.bit (pgTdm q) TDM_STAT_over_range then none
    else
      let t := P - 5292000
      if v.frames.any (fun f => f.1 ≤ t) && v.frames.any (fun f => t ≤ f.1) then
        some (mkSample (Config.convert (v.frames.map (fun f => (f.1, audioOf (f.2.getD slot 0)))) t) 0)
      else none
  else (v.frames.find? (fun f => f.1 + s.tdmLat == P)).map (fun f => f.2.getD slot 0)

/-- One receive slot at Pit instant P: gap, re-entry, zero crossing, gain; its word goes to its Pit input. -/
def State.tdmRxSlot (s : State) (q P slot : Nat) : State :=
  let p := pgTdm q
  let k := chKey q false slot
  let c := s.tc k
  let tr := s.tdmTr q slot
  let pos := P - s.tdmLat
  let present := fun (s : State) (w : Nat) =>
    s.setPin (24576 + 32 * q + slot) { s.pin (24576 + 32 * q + slot) with cur := w, live := true }
  if c.st = 0 then
    (present (s.setTc k { c with gap := false }) 0).setWord (p + 0x154) (setBits (s.word (p + 0x154)) slot 1 0)
  else
    let (s, held) := s.tdmAgree q slot pos c (s.tdmHeld q slot P)
    match held with
    | none =>
      if s.tdmClk q = 0 then
        let c := c.advance
        present (s.setTc k c) 0
      else
        let s := s.when (!c.gap) (fun s =>
          (((s.bump p TDM_UNDER_n).irq p IRQ_tdm_gap).setWord (p + 0x154) (setBits (s.word (p + 0x154)) slot 1 1)).tdmDecide q 1
            (2 ^ slot) pos)
        let c := if c.gap then c else { c.ramp false (s.lv p TDM_FADE_out) with gap := true }
        let c := c.advance
        present (s.setTc k c) (if tr then 0 else mkSample (c.scaled c.x) 0)
    | some w =>
      let s := s.when c.gap (fun s =>
        ((s.irq p IRQ_tdm_reenter).setWord (p + 0x154) (setBits (s.word (p + 0x154)) slot 1 0)).tdmDecide q 2 (2 ^ slot) pos)
      let c := if c.gap then (if tr then { c.set true with gap := false } else { c.ramp true (s.lv p TDM_FADE_in) with gap := false })
        else c
      let c := c.advance
      let c := if tr then c else c.cross (audioOf w)
      let c := { c with x := audioOf w }
      present (s.setTc k c) (if tr then w else mkSample (c.scaled c.x) (flagsOf w))

/-- A port's receive slots at Pit instant P; frames presented are gone. While a longer latency so asks, the inputs keep their samples
(R268). -/
def State.tdmRx (s : State) (q P : Nat) : State :=
  if (s.tp q).rep ≠ 0 then s.setTp q { s.tp q with rep := (s.tp q).rep - 1 }
  else
  let s := (List.range (s.tdmSlots q)).foldl (fun s i => s.tdmRxSlot q P i) s
  let s := s.setTp q { s.tp q with lead := (s.tp q).lead.filter (fun e => P < e.2.2 + s.tdmLat) }
  if s.tdmClk q = 2 then s
  else s.setTp q { s.tp q with frames := (s.tp q).frames.filter (fun f => P < f.1 + s.tdmLat) }

/-- A port's transmit slots at Pit instant P: the words formed, gated (R293, R297). -/
def State.tdmTx (s : State) (q P : Nat) (words : Nat → Nat) : State :=
  let r := (List.range (s.tdmSlots q)).foldl (fun (r : State × List Nat) i =>
    let k := chKey q true i
    let c := (r.1.tc k).advance
    let w := words (24576 + 32 * q + i)
    let c := c.cross (audioOf w)
    let out := if c.st = 0 then 0 else mkSample (c.scaled (audioOf w)) (flagsOf w) + (if trOf w then 2 ^ 28 else 0)
    (r.1.setTc k { c with out := out }, r.2 ++ [out])) (s, [])
  let v := r.1.tp q
  r.1.setTp q { v with txHist := ((P, r.2) :: v.txHist).take 8 }

/-! ### Triggers (R291) -/

/-- TDM_TRIG_CTL.go: S is fixed, and a set pending is replaced. -/
def State.tdmGo (s : State) : State :=
  let t := s.fld64 pgTrig TDM_TRIG_TGT_lo TDM_TRIG_TGT_hi
  let S := s.pitNext (max t (max (s.now + 441000) s.earliest))
  let mask := s.fld pgTrig TDM_TRIG_mask
  let s := { s with tdmMask := mask }
  let s := (s.setBit pgTrig TDM_TRIG_CTL_pending true).setFld64 pgTrig TDM_TRIG_S_lo TDM_TRIG_S_hi S
  let s := s.when (t < s.now) (fun s => s.setBit pgTrig TDM_TRIG_CTL_late true)
  s.journal S (.tdm 0 0 mask S)

/-- S is reached: every waiting port of the mask starts with frame 0 at S; a port that is running, disabled or aligned by stamps
is not touched (R291). -/
def State.tdmStart (s : State) : State :=
  let S := s.fld64 pgTrig TDM_TRIG_S_lo TDM_TRIG_S_hi
  if s.bit pgTrig TDM_TRIG_CTL_pending && S < s.now + 16 then
    let s := (s.setBit pgTrig TDM_TRIG_CTL_pending false).irq pgTrig IRQ_tdmTrig_started
    (List.range 16).foldl (fun s q =>
      if s.tdmMask / 2 ^ q % 2 = 0 then s
      else if !s.tdmEn q || s.tdmRun q || s.lbit (pgTdm q) TDM_CFG_align then s.setBit pgTrig TDM_TRIG_CTL_skip true
      else
        let s := (s.setTp q { s.tp q with s0 := S, a0 := none, frames := [] }).setBit (pgTdm q) TDM_STAT_run true
        let off := fun (_ : Nat) => false
        (s.tdmSwitch q false off (fun i => s.tdmWanted q false i)).tdmSwitch q true off (fun i => s.tdmWanted q true i)) s
  else s

def State.trigWrite (s : State) (a : Acc) (o : Nat) (w : W32) (hw : Option W32 := none) : State :=
  let r := s.storeWord a pgTrig .tdmTrig 0 o w hw
  if r.ok ∧ o = 0x10C ∧ r.eff.getLsbD 0 ∧ !r.s.follows then r.s.tdmGo else r.s

/-! ### Sending (R293) -/

/-- A transmit frame whose sync falls at instant a carries the gated words of the latest Pit instant at or before
a - 220,500. -/
def State.tdmSend (s : State) (q a : Nat) : State :=
  let p := pgTdm q
  if !s.tdmRun q then s
  else
    let v := s.tp q
    match v.txHist.find? (fun h => h.1 + pitPer ≤ a) with
    | some h =>
      let slips := match v.txLast with
        | some l => if h.1 = l then 1 else v.txHist.countP (fun e => l < e.1 && e.1 < h.1)
        | none => 0
      let s := s.bump p TDM_TX_SLIP_n slips
      s.setTp q { s.tp q with txLast := some h.1, txWords := h.2 }
    | none => s.setTp q { s.tp q with txWords := [] }

/-! ### The commands -/

/-- TDM_FRAME_RECEIVED (R289, R294): a frame is complete; sync is the uptime of its frame sync, bits the bit count from it to
the next one. -/
def execTdmFrameReceived (port : Fin 16) (sync bits : Nat) (slots : List W32) (s : State) : Out := run s fun s =>
  s.tdmReceive port sync bits slots

/-- TDM_FRAME_TRANSMIT (R293). -/
def execTdmFrameTransmit (port : Fin 16) (cue : Fin 16) (s : State) : Out := run s fun s => s.tdmSend port (s.now + cue)

/-- TDM_RATE_MEASURE (R289): each second a slave port measures its frame rate. -/
def execTdmRateMeasure (port : Fin 16) (s : State) : Out := run s fun s =>
  if s.tdmEn port && s.tdmClk port != 0 then s.periodic (16 + port) cueSec fun s => s.tdmMeasure port else s

/-- TDM_RANGE_REENTER (R290): 100 ms back in range. -/
def execTdmRangeReenter (port : Fin 16) (s : State) : Out := run s fun s =>
  match (s.tp port).inRange with
  | some t =>
    if t + 1058400000 < s.now + 16 ∧ s.bit (pgTdm port) TDM_STAT_over_range then
      (s.setBit (pgTdm port) TDM_STAT_over_range false).setTp port { s.tp port with inRange := none }
    else s
  | none => s

/-- TDM_TRIGGER_GO (R291). -/
def execTdmTriggerGo (a : Acc) (s : State) : Out := run s fun s =>
  s.viaPath a (pgTrig + 0x10C) (fun s => s.trigWrite a 0x10C 1)

/-- TDM_TRIGGER_START (R291). -/
def execTdmTriggerStart (s : State) : Out := run s fun s => s.tdmStart

/-- TDM_CHANNEL_ENABLE_WRITE (R297, R298). -/
def execTdmChannelEnableWrite (a : Acc) (port : Fin 16) (isTx : Bool) (word : W32) (s : State) : Out := run s fun s =>
  let o := if isTx then 0x10C else 0x108
  s.viaPath a (pgTdm port + o) (fun s => s.tdmWrite a port o word)

/-- TDM_ZX_TIMEOUT (R297): the wait is over without a crossing. -/
def execTdmZxTimeout (port : Fin 16) (isTx : Bool) (slot : Fin 32) (s : State) : Out := run s fun s =>
  let p := pgTdm port
  let k := chKey port isTx slot
  let c := s.tc k
  if (c.st = 1 ∨ c.st = 4) ∧ s.lv p TDM_ZX_timeout ≤ c.wait then
    let s := (s.bump p TDM_ZX_TMO_n).irq p IRQ_tdm_zx_tmo
    s.setTc k (if c.st = 1 then { c.ramp true (s.lv p TDM_FADE_in) with st := 2 }
      else { c.ramp false (s.lv p TDM_FADE_out) with st := 5 })
  else s

/-- TDM_RAMP_COMPLETE (R297): a ramp in has ended. -/
def execTdmRampComplete (port : Fin 16) (isTx : Bool) (slot : Fin 32) (s : State) : Out := run s fun s =>
  let k := chKey port isTx slot
  let c := s.tc k
  if c.st = 2 ∧ c.n = 0 then s.setTc k { c with st := 3 } else s

end Sys2Proof.Machine
end

