-- ==== Sys2Proof/Machine/PitStep.lean ====
section
/-!
DEFINITION. The Pit sample instant (R268 to R274, R281): every input presents one sample, every output is formed.
-/
namespace Sys2Proof.Machine

/-! ### Inputs (R268, R269) -/

/-- The source of an input delivers: its lane's Platform has a format and its link carries the channel's group, in this frame or in
the last whole one (R266; log entry 180); or its IP entry is Live. -/
def State.pitSrcOk (s : State) (i : Nat) : Bool :=
  if i < 16384 then
    let st := s.ptState (s.ptBase (i / 32))
    let v := Store.get (fun _ => ({} : Deframer)) s.defr (i / 32)
    (st == ptAligned || st == ptUnaligned) && (v.grpNow ||| v.grpLast).testBit (i % 32 / 4)
  else
    (entsOn s.rxTab).any (fun e =>
      let t := entFld s.rxTab e RXE_CTL_type
      let b := entFld s.rxTab e RXE_BIND_pit
      let n := entFld s.rxTab e RXE_FMT_ch * (if entFld s.rxTab e RXE_FMT_k96 = 1 then 2 else 1)
      (t == 2 || t == 3) && b ≤ i && i < b + n && (Store.get (fun _ => ({} : RxEntry)) s.rxEnt e).st == 3)

/-- A slip of an input: counted, IRQ slip, and journaled by the Lead. -/
def State.pitSlip (s : State) (i P : Nat) (rep : Bool) : State :=
  ((s.bump pgPit PIT_IN_SLIP_n).irq pgPit IRQ_pitCtl_slip).journal P (.pitSlip i rep)

/-- An input presents its sample of instant P by its own stamps. -/
def State.pitPresent (s : State) (i P : Nat) (v : PitIn) (due : List (Nat × Nat)) : State :=
  match due.getLast? with
  | none =>
    if !v.live then s
    else if !s.pitSrcOk i then s.setPin i { v with cur := 0, live := false }
    else if v.rep ≠ 0 then s.setPin i { v with rep := v.rep - 1 }
    else s.pitSlip i P true
  | some e =>
    let extra := due.length - 1
    let free := if v.live then min extra v.drp else extra
    let s := s.setPin i { v with cur := e.2, live := true, queue := v.queue.drop due.length,
                                 drp := if v.live then v.drp - free else v.drp }
    (List.range (extra - free)).foldl (fun s _ => s.pitSlip i P false) s

/-- An input of a device that follows the Lead: one sample, but for the Lead's slips, which count as slips here too, and for what a
change of latency repeats or drops; its own slips that differ are counted (R268, R269). -/
def State.pitFollowed (s : State) (i : Nat) (v : PitIn) (due : List (Nat × Nat)) : State :=
  if !v.live && due.isEmpty then s
  else if due.isEmpty && !s.pitSrcOk i then s.setPin i { v with cur := 0, live := false, lead := none }
  else
    let extra := if v.live then v.drp else 0
    let own := if due.isEmpty then (if v.rep = 0 then some true else none) else if 1 + extra < due.length then some false else none
    let base := if v.rep ≠ 0 then 0 else 1 + extra
    let n := match v.lead with | some true => base - 1 | some false => base + 1 | none => base
    let take := v.queue.take n
    let s := s.when (v.live && own != v.lead) (fun s => s.bump pgPit PIT_PAIR_DIFF_n)
    let s := s.when v.lead.isSome (fun s => (s.bump pgPit PIT_IN_SLIP_n).irq pgPit IRQ_pitCtl_slip)
    s.setPin i { v with cur := (take.getLast?.map (·.2)).getD v.cur, live := true, queue := v.queue.drop n, lead := none,
                        rep := v.rep - 1, drp := if v.rep ≠ 0 then v.drp else 0 }

/-- An SDI or IP input at Pit instant P. -/
def State.pitInput (s : State) (i P : Nat) : State :=
  let v := s.pin i
  let due := v.queue.takeWhile (fun e => e.1 + s.tdmLat ≤ P)
  if s.follows then s.pitFollowed i v due else s.pitPresent i P v due

/-- How many synchronisers audio passes before it reaches unit k, none counted beyond fuel (R267): the units before it form their
words of an instant first. -/
def State.synDepth (s : State) (fuel k : Nat) : Nat :=
  match fuel with
  | 0 => 0
  | n + 1 =>
    let r := s.synRail (s.synBase k)
    if 2048 ≤ r ∧ r < 2304 then s.synDepth n (r - 2048) + 1 else 0

/-- The units in the order in which they form their words. -/
def State.synOrder (s : State) : List Nat :=
  let l := (s.syn.map (·.1)).map (fun k => (s.synDepth 256 k, k))
  (List.range 257).flatMap (fun d => (l.filter (fun e => e.1 == d)).map (·.2))

/-- The inputs of a synchroniser unit: its source's audio through the unit's delay lines (R217, R267), silent until the unit
runs (R213). bad: the lines whose granule is uncorrectable. -/
def State.synAudioIn (s : State) (k : Nat) (bad : List Nat) : State :=
  let b := s.synBase k
  (List.range 32).foldl (fun s c =>
    let i := s.railAudio (s.synRail b) (32 * (k - b) + c)
    let n := 32 * k + c
    let l := Store.get (fun _ => ({} : DLine)) s.synLine n
    if i.isNone && l.hist.isEmpty then s
    else
      let (s, w, l) := s.lineStep (some n) l (s.pitWord i 0) (bad.contains n)
      let s := { s with synLine := Store.put (fun _ => {}) n l s.synLine }
      s.setPin (16384 + n) { s.pin (16384 + n) with cur := if s.synState b = synRunning then w else 0, live := true }) s

/-! ### Outputs (R271 to R275) -/

/-- How a wait ends at this sample: at a word of the new input with z set, or forced at sample 192. -/
def PitOut.cutNow (v : PitOut) (new : Nat) : Option Bool :=
  match v.cut with
  | some f => some f
  | none => if zOf new then some false else if 192 ≤ v.j then some true else none

/-- The word that selection yields, from the words of the inputs. -/
def PitOut.selected (v : PitOut) (w : Option Nat → Nat) (cut : Option Bool) : Nat :=
  if v.st = 2 then
    if cut.isSome then w v.want
    else match v.mix with
      | [e] => w e.1
      | l => blend (l.map (fun e => (w e.1, e.2)))
  else match v.weights with
    | [e] => w e.1
    | l => blend (l.map (fun e => (w e.1, e.2)))

/-- One output at a sample instant. word: what each input presents; bad: delay lines whose granule is uncorrectable. -/
def State.pitForm (s : State) (o : Nat) (word : Nat → Nat) (bad : List Nat) : State :=
  let e := pitEntry s.pitTab o
  let b := s.pot e
  let at_ := fun (shift : Nat) (i : Option Nat) => match i with | some i => word (i + shift) | none => 0
  let cut := if b.st = 2 then b.cutNow (at_ 0 b.want) else none
  let x := b.selected (at_ (o - e)) cut
  let last := o ≠ e ∨ !pitK96 s.pitTab o
  let s := if last ∧ b.st ≠ 0 then s.setPot e { b with j := b.j + 1, cut := cut } else s
  let v := s.pot o
  let (s, x, v) :=
    if v.line.isSome || v.dl.old.isSome then
      let (s, x, l) := s.lineStep v.line v.dl x (v.line.any bad.contains)
      (s, x, { v with dl := if v.line.isNone && l.old.isNone then {} else l })
    else (s, x, v)
  let v := { v with kj := if v.kj < v.kn then v.kj + 1 else v.kj }
  let y := if trOf x then x else mkSample (applyGain (audioOf x) v.coef) (flagsOf x)
  s.setPot o { v with words := (y :: v.words).take 64 }

/-- The outputs that can carry anything: those with state of their own, and the second of each k96 pair. -/
def State.pitActive (s : State) : List Nat :=
  (s.pitOut.flatMap (fun e => if pitK96 s.pitTab e.1 && e.1 % 2 == 0 then [e.1, e.1 + 1] else [e.1])).dedup

/-- The Pit at instant P. smem: inputs whose word has an uncorrectable SRAM error; dly: delay lines whose granule, read now, is
uncorrectable, with its DRAM address. -/
def State.pitInstant (s : State) (P : Nat) (smem : List Nat) (dly : List (Nat × Nat)) : State :=
  let bad := dly.map (·.1)
  let s := ((s.pitIn.map (·.1)).filter (fun i => i < 16384 || 32768 ≤ i)).foldl (fun s i => s.pitInput i P) s
  let s := (List.range 16).foldl (fun s q => if s.tdmRun q then s.tdmRx q P else s) s
  let s := s.synOrder.foldl (fun s k =>
    (List.range (if s.synGang k then 4 else 1)).foldl (fun s i => s.synAudioIn (k + i) bad) s) s
  let s := dly.foldl (fun s d => (s.granuleSeen 0xD0 d.2 true).lineError d.2) s
  let s := smem.foldl (fun s _ => ((s.bump pgPit PIT_SMEM_ERR_n).irq pgPit IRQ_pitCtl_smem_err).err pgPit 0x0A1) s
  let word := fun i => if smem.contains i then 0 else (s.pin i).cur
  let s := s.pitActive.foldl (fun s o => s.pitForm o word bad) s
  let out := fun o => (s.pot o).words.headD 0
  let s := (List.range 16).foldl (fun s q => if s.tdmRun q then s.tdmTx q P out else s) s
  let s := s.fmtr.foldl (fun s e => s.embed e.1 P out) s
  { (List.range 16).foldl (fun s q => if s.tdmRun q then s.tdmHalt q else s) s with pitLast := P }

/-- PIT_SAMPLE_INSTANT (R271). -/
def execPitSampleInstant (smem : List Nat) (dly : List (Nat × Nat)) (s : State) : Out := run s fun s =>
  match s.pitNow with | some P => s.pitInstant P smem dly | none => s

end Sys2Proof.Machine
end

