-- ==== Sys2Proof/Machine/Lanes.lean ====
section
/-!
DEFINITION. Video serial lanes (R65 to R86) and the transmit phase (R327).
-/
namespace Sys2Proof.Machine

/-! ### Rates (R65) -/

/-- Bits per second × 1,001 of a rate code: zero for a reserved code. -/
def rateNum (code : Nat) : Nat :=
  [270000000 * 1001, 1485000000 * 1001, 1485000000 * 1000, 2970000000 * 1001, 2970000000 * 1000, 5940000000 * 1001,
   5940000000 * 1000, 11880000000 * 1001, 11880000000 * 1000].getD code 0

/-- The order in which a hunting lane tries the rate codes (R68). -/
def huntOrder : List Nat := [7, 8, 5, 6, 3, 4, 1, 2, 0]

/-- The dwell on each code: 5 µs. -/
def huntDwell : Nat := 52920

/-- The numerator over which bits are counted exactly: cues in a second × 1,001. -/
def bitDen : Nat := cueSec * 1001

/-! ### Counting bits (R78, R79, R85) -/

/-- The injection exponent in force; zero is off. -/
def injOn (e : Nat) : Bool := 10 ≤ e && e ≤ 40

/-- Bits for each cue, over bitDen, that a receive checker checks: the line rate in PRBS modes, the active picture in mode 6. -/
def State.checkedRate (s : State) (L : Nat) : Nat :=
  let p := pgRxl L
  if s.fld p RXL_PAT_mode = 6 then
    match (Store.get (fun _ => ({} : Deframer)) s.defr L).fmt with
    | some f => f.px * activeLines f.lines * bppOf f.samp * (bitDen / perOf f.rate)
    | none => 0
  else rateNum (s.fld p RXL_STAT_rate)

/-- Brings the bit counts of a receive lane up to the present uptime: checked bits while its checker is in sync, and injected
errors, which reach the checker and the Platform. -/
def State.rxSettle (s : State) (L : Nat) : State :=
  let p := pgRxl L
  let r := s.rx L
  let d := s.now - r.countFrom
  if d = 0 then s
  else
    let sync := s.bit p RXL_STAT_chk_sync
    let lock := s.bit p RXL_STAT_lock
    let e := s.fld p RXL_INJ_exp
    let acc := r.bits + if sync then d * s.checkedRate L else 0
    let inj := r.injBits + if lock && injOn e then d * rateNum (s.fld p RXL_STAT_rate) else 0
    let one := if lock && r.injNext then 1 else 0
    let errs := if injOn e then inj / (2 ^ e * bitDen) else 0
    let s := s.setRx L { r with countFrom := s.now, bits := acc % (1024 * bitDen), injNext := r.injNext && !lock,
                                flips := r.flips + errs + one, injBits := if injOn e then inj % (2 ^ e * bitDen) else 0 }
    let s := s.bump p RXL_KBITS_n (acc / (1024 * bitDen))
    s.bump p RXL_ERR_n (if sync then errs + one else 0)

/-! ### Patterns (R77, R78) -/

/-- The polynomial x^n + x^k + 1 of a pattern mode. -/
def prbsPoly (m : Nat) : Nat × Nat := [(7, 6), (9, 5), (15, 14), (23, 18), (31, 28)].getD (m - 1) (31, 28)

/-- The next bit of a pattern, from the bits before it, oldest first. -/
def prbsNext (m : Nat) (prev : List Bool) : Bool :=
  let q := prbsPoly m
  xor (prev.getD (prev.length - q.1) false) (prev.getD (prev.length - q.2) false)

/-- The next n bits that a generator sends after the bits prev, the pattern inverted where inv asks for it (DEDUCED, log entry
188). -/
def prbsRun (m : Nat) (inv : Bool) : Nat → List Bool → List Bool
  | 0, _ => []
  | n + 1, prev => let b := prbsNext m prev; (xor b inv) :: prbsRun m inv n (prev ++ [b])

/-- The last 64 of the bits received are the pattern's, seeded from the bits before them. -/
def prbsGood (m : Nat) (inv : Bool) (bits : List Bool) : Bool :=
  let seed := bits.take (bits.length - 64)
  (prbsPoly m).1 ≤ seed.length && bits.drop (bits.length - 64) == prbsRun m inv 64 (seed.map (fun b => xor b inv))

/-- What a transmit lane has at its pads: nothing; a pattern; or its formatter's output, in mode 6 with the check field in place
of the active picture. -/
inductive LaneOut | off | prbs (mode : Nat) (inv : Bool) | media (check : Option Bool)
  deriving DecidableEq, Repr

/-- What transmit lane L sends (R71, R77), and the bits inverted in it so far (R79). -/
def State.laneOut (s : State) (L : Nat) : LaneOut × Nat :=
  let p := pgTxl L
  let m := s.fld p TXL_PAT_mode
  let inv := s.bit p TXL_PAT_inv
  (if !s.bit p TXL_STAT_awake then .off
    else if 1 ≤ m ∧ m ≤ 5 then .prbs m inv
    else if (Store.get (fun _ => ({} : Formatter)) s.fmtr L).fmt.isNone then .off
    else .media (if m = 6 then some inv else none), (s.tx L).flips)

/-- The transmit lane sends bits: awake, and a pattern or its formatter's output. -/
def State.txSends (s : State) (L : Nat) : Bool :=
  let m := s.fld (pgTxl L) TXL_PAT_mode
  s.bit (pgTxl L) TXL_STAT_awake && ((1 ≤ m && m ≤ 5) || (Store.get (fun _ => ({} : Formatter)) s.fmtr L).fmt.isSome)

/-- Brings the bit counts of a transmit lane up to the present uptime. -/
def State.txSettle (s : State) (L : Nat) : State :=
  let p := pgTxl L
  let r := s.tx L
  let d := s.now - r.countFrom
  if d = 0 then s
  else
    let on := s.txSends L
    let e := s.fld p TXL_INJ_exp
    let new := if on then d * rateNum (s.fld p TXL_STAT_rate) else 0
    let acc := r.bits + new
    let inj := r.injBits + if injOn e then new else 0
    let errs := (if injOn e then inj / (2 ^ e * bitDen) else 0) + (if on && r.injNext then 1 else 0)
    let s := s.setTx L { r with countFrom := s.now, bits := acc % (1024 * bitDen), injNext := r.injNext && !on,
                                flips := r.flips + errs, injBits := if injOn e then inj % (2 ^ e * bitDen) else 0 }
    (s.bump p TXL_KBITS_n (acc / (1024 * bitDen))).bump p TXL_INJECTED_n errs

/-! ### Lock (R67, R68) -/

/-! ### Deframers and their link groups, as lanes come and go (R87, R90, R91) -/

def State.df (s : State) (L : Nat) : Deframer := Store.get (fun _ => {}) s.defr L
def State.setDf (s : State) (L : Nat) (v : Deframer) : State := { s with defr := Store.put (fun _ => {}) L v s.defr }

/-- The links of the group that the deframer of lane b configures; in mode 4 those of the established division, or of the one
that the payload ID names, or RXF_DFLT without one (R88, R91). -/
def State.defWidth (s : State) (b : Nat) : Nat :=
  match s.lv (pgDef b) RXF_LINK_mode with
  | 0 => 1 | 1 => 2 | 2 => 4 | 3 => 4
  | 4 =>
    let v := s.df b
    if v.fmt.isSome then v.width
    else
      let n := Config.pidWidth (v.pid.getD (s.lword (pgDef b + RXF_DFLT_pid.off)))
      if n = 4 then 4 else 2
  | _ => 1

/-- The lane whose deframer serves lane L: the base of its link group, or itself. -/
def State.defBase (s : State) (L : Nat) : Nat :=
  if s.defWidth (L - L % 4) = 4 then L - L % 4 else if s.defWidth (L - L % 2) = 2 then L - L % 2 else L

/-- The group of base b is found failing: link_fault, captured and raised once. -/
def State.linkFail (s : State) (b : Nat) : State :=
  if s.bit (pgDef b) RXF_STAT_link_fault then s
  else ((s.setBit (pgDef b) RXF_STAT_link_fault true).err (pgDef b) 0x031).irq (pgDef b) IRQ_defr_link_fault

/-- The format of base b is no longer established. -/
def State.fmtEnds (s : State) (b : Nat) : State :=
  (s.setDf b { s.df b with fmt := none, sound := 0, misSeen := false }).setBit (pgDef b) RXF_STAT_fmt false

/-- The deframer of a lane has no words: nothing is measured, and no format is established; a link group it belongs to has a link
without a format (R91). -/
def State.defrDrop (s : State) (L : Nat) : State :=
  let v := s.df L
  let b := s.defBase L
  let s := s.setDf L { v with line := 0, seen := none, run := 0, stray := 0, other := false, pid := none, pidNow := false, async := 0 }
  let s := s.fmtEnds b
  if s.defWidth b = 1 then s else s.linkFail b

/-- A lane that is enabled anew has no format last established (R87). -/
def State.defrForget (s : State) (L : Nat) : State := s.setDf L { s.df L with last := none }

/-- The live settings of a deframer take its waiting commit (R104). Where its link mode changes, the lanes of the group before and
after have no format until it is measured again (DESIGN CHOICE, log entry 168). -/
def State.defrApply (s : State) (L : Nat) : State :=
  let was := (s.lv (pgDef L) RXF_LINK_mode, s.defWidth L)
  let t := s.applySlot (pgDef L) .defr 0
  if t.lv (pgDef L) RXF_LINK_mode = was.1 then t
  else
    (List.range (max was.2 (t.defWidth L))).foldl (fun s i =>
      let on := (s.df (L + i)).fmt.isSome
      let s := (s.fmtEnds (L + i)).setBit (pgDef (L + i)) RXF_STAT_link_fault false
      if on then (s.irq (pgDef (L + i)) IRQ_defr_fmt_loss).srcFmtLost (L + i) else s) t

/-- The lane stops delivering words: the rail loses its source. -/
def State.rxWordsStop (s : State) (L : Nat) : State := (s.defrDrop L).srcLost L

/-- The lane stops being locked; checker sync goes with it, uncounted. -/
def State.rxDrop (s : State) (L : Nat) : State :=
  let s := s.rxSettle L
  let p := pgRxl L
  if s.bit p RXL_STAT_lock then
    ((s.setBit p RXL_STAT_lock false).setBit p RXL_STAT_chk_sync false).rxWordsStop L
  else s

/-- Starting again: hunting from code 7, or trying the fixed rate. -/
def State.rxStart (s : State) (L : Nat) : State := s.setRx L { s.rx L with hunt := 0, dwellFrom := s.now }

/-- A loss of lock: counted, IRQ lock_loss; the lane starts again. -/
def State.rxLose (s : State) (L : Nat) : State :=
  if s.bit (pgRxl L) RXL_STAT_lock then
    (((s.rxDrop L).bump (pgRxl L) RXL_LOCK_LOSS_n).irq (pgRxl L) IRQ_rxl_lock_loss).rxStart L
  else s

/-- The rate code the lane tries now. -/
def State.rxCandidate (s : State) (L : Nat) : Nat :=
  let r := s.rx L
  if r.fixed then r.rate else huntOrder.getD r.hunt 7

/-! ### Handover (R81 to R83) -/

/-- A handover of the lane in progress is aborted (R83): the lane stays on the slice it was using, HO_ABORT counts. -/
def State.rxAbort (s : State) (L : Nat) : State :=
  let p := pgRxl L
  if s.bit p RXL_STAT_ho_busy then
    ((s.setBit p RXL_STAT_ho_busy false).bump p RXL_HO_ABORT_n).rotAbort 0 (L / 32)
  else s

def State.txAbort (s : State) (L : Nat) : State :=
  let p := pgTxl L
  if s.bit p TXL_STAT_ho_busy then
    (((s.setBit p TXL_STAT_ho_busy false).bump p TXL_HO_ABORT_n).setTx L { s.tx L with hoFrames := 0 }).rotAbort 1 (L / 32)
  else s

/-- The slice that takes over brings the live equalisation and polarity into service (R73). -/
def State.rxLoadEq (s : State) (L : Nat) : State :=
  s.setRx L { s.rx L with eq := s.lword (pgRxl L + 0x108), inv := s.lbit (pgRxl L) RXL_POL_inv }
def State.txLoadEq (s : State) (L : Nat) : State :=
  s.setTx L { s.tx L with eq := s.lword (pgTxl L + 0x108), inv := s.lbit (pgTxl L) TXL_POL_inv }

/-- A commit of the page became live: at once on a lane that is asleep or unlocked (receive), or asleep (transmit); otherwise
the values wait in the swing slice for the next handover (R73). -/
def State.rxEqLive (s : State) (L : Nat) : State := if s.bit (pgRxl L) RXL_STAT_lock then s else s.rxLoadEq L
def State.txEqLive (s : State) (L : Nat) : State := if s.bit (pgTxl L) TXL_STAT_awake then s else s.txLoadEq L

/-! ### Calibration (R75, R445) -/

/-- The own slice of a receive lane is calibrated: its offset code, shown while that slice is in service, and the uptime. -/
def State.rxCal (s : State) (L : Nat) : State :=
  let p := pgRxl L
  let v := (Config.calOffset L s.now).toNat
  let s := (s.setRx L { s.rx L with cal := v }).setFld64 p RXL_CAL_TIME_lo RXL_CAL_TIME_hi s.now
  if s.bit p RXL_STAT_on_swing then s else s.setFld p RXL_CAL_offset v

/-- The own slice of a transmit lane is calibrated. -/
def State.txCal (s : State) (L : Nat) : State := s.setFld64 (pgTxl L) TXL_CAL_TIME_lo TXL_CAL_TIME_hi s.now

/-- The swing slice of a receive group is calibrated. -/
def State.swingCal (s : State) (g : Nat) : State :=
  s.setRo 0 g { s.ro 0 g with cal := (Config.calOffset (512 + g) s.now).toNat }

/-- Every slice is calibrated at power-on, before any lane is woken. -/
def State.calAll (s : State) : State :=
  let s := (List.range 512).foldl (fun s L => (s.rxCal L).txCal L) s
  (List.range 16).foldl (fun s g => s.swingCal g) s

/-! ### Landing (R81, R82, R444) -/

/-- A handover or handback lands: the slice in service changes sides, and rotation goes on (R444). A lane slice that goes out of
service is calibrated. -/
def State.rxLand (s : State) (L : Nat) : State :=
  let p := pgRxl L
  let g := L / 32
  let s := ((s.setBit p RXL_STAT_ho_busy false).irq p IRQ_rxl_ho_done).rxLoadEq L
  if (s.ro 0 g).st = 3 then (s.setBit p RXL_STAT_on_swing false).setFld p RXL_CAL_offset (s.rx L).cal
  else ((s.rotOut 0 g).setFld p RXL_CAL_offset (s.ro 0 g).cal).rxCal L

def State.txLand (s : State) (L : Nat) : State :=
  let p := pgTxl L
  let g := L / 32
  let s := ((s.setBit p TXL_STAT_ho_busy false).irq p IRQ_txl_ho_done).txLoadEq L
  let s := s.setTx L { s.tx L with hoFrames := 0 }
  if (s.ro 1 g).st = 3 then s.setBit p TXL_STAT_on_swing false else (s.rotOut 1 g).txCal L

/-! ### Transmit rate (R70) -/

/-- The rate code a transmit lane is to run at; none where its formatter emits no format it can carry, or the code is
reserved: it then keeps its rate. -/
def State.txTarget (s : State) (L : Nat) : Option Nat :=
  let p := pgTxl L
  if s.bit p TXL_CTL_follow then
    (Store.get (fun _ => ({} : Formatter)) s.fmtr L).fmt.bind (fun f => laneRate f (linkWidth (s.lv (pgFmt L) TXF_LINK_mode)))
  else if s.fld p TXL_CTL_rate ≤ 8 then some (s.fld p TXL_CTL_rate) else none

/-- The lane takes its rate: family by the code; counted with IRQ rate_chg on an awake lane. -/
def State.txRate (s : State) (L : Nat) : State :=
  let p := pgTxl L
  match s.txTarget L with
  | none => s
  | some c =>
    if c = s.fld p TXL_STAT_rate then s
    else
      let s := s.txSettle L
      let s := (s.setFld p TXL_STAT_rate c).setBit p TXL_STAT_family (c != 0 && c % 2 == 0)
      s.when (s.bit p TXL_STAT_awake) (fun s => (s.bump p TXL_RATE_CHG_n).irq p IRQ_txl_rate_chg)

/-! ### What a register write does beyond storing the word -/

/-- RXL_CTL was written: sleep, wake, fixed and rate, swap (R68, R71, R84). It aborts a handover (R83). -/
def State.rxCtlWritten (s : State) (L : Nat) (old eff : W32) : State :=
  let p := pgRxl L
  let s := s.rxAbort L
  let was := getBits old 0 1
  let is := s.fld p RXL_CTL_sleep
  let r := s.rx L
  let s := s.setRx L { r with change := r.change || r.fixed != s.bit p RXL_CTL_fixed || r.rate != s.fld p RXL_CTL_rate,
                              swapReq := r.swapReq || eff.getLsbD 8 }
  if was = 0 ∧ is = 1 then
    let s := s.rxDrop L
    ((s.setBit p RXL_STAT_awake false).setRx L { s.rx L with waking := false }).defrForget L
  else if was = 1 ∧ is = 0 then s.setRx L { s.rx L with waking := true }
  else s

/-- RXL_PAT was written: a new mode seeds the checker anew; a PRBS mode stops the words to the Platform (R77, R78). -/
def State.rxPatWritten (s : State) (L : Nat) (old : W32) : State :=
  let p := pgRxl L
  let s := s.rxAbort L
  if getBits old 0 4 = getBits (s.word (p + 0x10C)) 0 4 then s
  else
    let s := s.setBit p RXL_STAT_chk_sync false
    let wasPrbs := 1 ≤ getBits old 0 3 ∧ getBits old 0 3 ≤ 5
    if s.bit p RXL_STAT_lock then
      if s.rxDelivers L then (if wasPrbs then s.srcBack L else s) else s.rxWordsStop L
    else s

/-- RXL_INJ or TXL_INJ was written: single inverts the next bit; an exponent that is neither 0 nor 10 to 40 is ignored and
captured as 0x010 (R79). -/
def State.injWritten (s pre : State) (a : Acc) (isTx : Bool) (L : Nat) (old eff : W32) : State :=
  let p := if isTx then pgTxl L else pgRxl L
  let s := if isTx then s.txAbort L else s.rxAbort L
  let s :=
    if eff.getLsbD 0 then
      if isTx then s.setTx L { s.tx L with injNext := true } else s.setRx L { s.rx L with injNext := true }
    else s
  let e := s.fld p RXL_INJ_exp
  if e != 0 && !injOn e then ((s.setWord (p + 0x110) old).sameArmed pre p).accErr p 0x010 a accWrite (p + 0x110)
  else s

/-- TXL_CTL was written (R70, R71, R84). -/
def State.txCtlWritten (s : State) (L : Nat) (old eff : W32) : State :=
  let p := pgTxl L
  let s := s.txAbort L
  let was := getBits old 0 1
  let is := s.fld p TXL_CTL_sleep
  let s := s.setTx L { s.tx L with swapReq := (s.tx L).swapReq || eff.getLsbD 8 }
  let s :=
    if was = 0 ∧ is = 1 then (s.setBit p TXL_STAT_awake false).setTx L { s.tx L with waking := false }
    else if was = 1 ∧ is = 0 then s.setTx L { s.tx L with waking := true }
    else s
  if !s.bit p TXL_STAT_awake || (Store.get (fun _ => ({} : Formatter)) s.fmtr L).fmt.isNone then s.txRate L else s

/-- TXL_PAT was written: mode 6 without an established format is ignored and captured as 0x011 (R77). -/
def State.txPatWritten (s pre : State) (a : Acc) (L : Nat) (old : W32) : State :=
  let p := pgTxl L
  let s := s.txAbort L
  if s.fld p TXL_PAT_mode = 6 ∧ (Store.get (fun _ => ({} : Formatter)) s.fmtr L).fmt.isNone then
    ((s.setWord (p + 0x10C) old).sameArmed pre p).accErr p 0x011 a accWrite (p + 0x10C)
  else s

/-- What a write to offset o of a receive lane page does after the word is stored. -/
def State.rxHook (s pre : State) (a : Acc) (L o : Nat) (old eff : W32) : State :=
  if o = 0x100 then s.rxCtlWritten L old eff
  else if o = 0x10C then s.rxPatWritten L old
  else if o = 0x110 then s.injWritten pre a false L old eff
  else s

def State.txHook (s pre : State) (a : Acc) (L o : Nat) (old eff : W32) : State :=
  if o = 0x100 then s.txCtlWritten L old eff
  else if o = 0x10C then s.txPatWritten pre a L old
  else if o = 0x110 then s.injWritten pre a true L old eff
  else s

/-- A whole write to a register of a receive or transmit lane page. -/
def State.rxWrite (s : State) (a : Acc) (L o : Nat) (w : W32) (hw : Option W32 := none) : State :=
  let r := (s.rxSettle L).storeWord a (pgRxl L) .rxl L o w hw
  if r.ok then r.s.rxHook s a L o r.old r.eff else r.s

def State.txWrite (s : State) (a : Acc) (L o : Nat) (w : W32) : State :=
  let r := (s.txSettle L).storeWord a (pgTxl L) .txl L o w
  if r.ok then r.s.txHook s a L o r.old r.eff else r.s

/-! ### The commands -/

/-- RX_SLEEP_WRITE (R71): RXL_CTL written as a word. hw: the hardware clears sleep in the same cycle (R52, R72). -/
def execRxSleepWrite (a : Acc) (lane : Fin 512) (word : W32) (hw : Bool) (s : State) : Out := runRails s fun s =>
  s.viaPath a (pgRxl lane + 0x100) (fun s => s.rxWrite a lane 0x100 word (if hw then some 0 else none))

/-- RX_WAKE_DONE (R71): hunting or fixed-rate lock starts. -/
def execRxWakeDone (lane : Fin 512) (s : State) : Out := runRails s fun s =>
  let r := s.rx lane
  if r.waking then ((s.setRx lane { r with waking := false }).setBit (pgRxl lane) RXL_STAT_awake true).rxStart lane else s

/-- SIGNAL_DETECT_RISE (R72): with wake_det set, a sleeping lane's RXL_CTL.sleep clears and its wake starts. -/
def execSignalDetectRise (lane : Fin 512) (s : State) : Out := runRails s fun s =>
  let p := pgRxl lane
  if s.bit p RXL_STAT_sd then s
  else
    let s := s.setBit p RXL_STAT_sd true
    if s.bit p RXL_CTL_sleep && s.bit p RXL_CTL_wake_det then
      ((s.setBit p RXL_CTL_sleep false).keepParity p .rxl 0x100).setRx lane { s.rx lane with waking := true }
    else if s.bit p RXL_STAT_awake && !s.bit p RXL_STAT_lock then s.rxStart lane
    else s

/-- SIGNAL_DETECT_FALL (R67). -/
def execSignalDetectFall (lane : Fin 512) (s : State) : Out := runRails s fun s =>
  let p := pgRxl lane
  if s.bit p RXL_STAT_sd then ((s.setBit p RXL_STAT_sd false).irq p IRQ_rxl_sd_loss).rxLose lane else s

/-- RX_RATE_CHANGE (R68): a changed RXL_CTL.fixed or rate takes effect. -/
def execRxRateChange (lane : Fin 512) (s : State) : Out := runRails s fun s =>
  let p := pgRxl lane
  let r := s.rx lane
  if !r.change then s
  else
    let fx := s.bit p RXL_CTL_fixed
    let rt := s.fld p RXL_CTL_rate
    let s := s.setRx lane { r with change := false, fixed := fx, rate := rt }
    if (fx = r.fixed ∧ rt = r.rate) ∨ (!fx ∧ !r.fixed) then s
    else if s.bit p RXL_STAT_lock then
      if fx ∧ rt ≠ s.fld p RXL_STAT_rate then (s.rxDrop lane).rxStart lane else s
    else s.rxStart lane

/-- HUNT_DWELL_EXPIRE (R68, R69): the next code, or after nine codes a failed hunt and code 7 again. -/
def execHuntDwellExpire (lane : Fin 512) (s : State) : Out := runRails s fun s =>
  let p := pgRxl lane
  let r := s.rx lane
  if s.bit p RXL_STAT_awake && !r.fixed && !s.bit p RXL_STAT_lock && s.bit p RXL_STAT_sd &&
      r.dwellFrom + huntDwell < s.now + 16 then
    let s := s.setRx lane { r with hunt := if r.hunt = 8 then 0 else r.hunt + 1, dwellFrom := r.dwellFrom + huntDwell }
    s.when (r.hunt == 8) (fun s => s.bump p RXL_HUNT_FAIL_n)
  else s

/-- RX_LOCK (R67): the CDR has held phase lock at the candidate rate. -/
def execRxLock (lane : Fin 512) (s : State) : Out := runRails s fun s =>
  let p := pgRxl lane
  let c := s.rxCandidate lane
  if s.bit p RXL_STAT_awake && !s.bit p RXL_STAT_lock && s.bit p RXL_STAT_sd && c ≤ 8 then
    let s := s.rxSettle lane
    let s := ((s.setBit p RXL_STAT_lock true).setFld p RXL_STAT_rate c).irq p IRQ_rxl_lock
    if s.rxDelivers lane then s.srcBack lane else s
  else s

/-- RX_LOCK_LOSS (R67). -/
def execRxLockLoss (lane : Fin 512) (s : State) : Out := runRails s fun s => s.rxLose lane

/-- TX_SLEEP_WRITE (R71): TXL_CTL written as a word. -/
def execTxSleepWrite (a : Acc) (lane : Fin 512) (word : W32) (s : State) : Out := runRails s fun s =>
  s.viaPath a (pgTxl lane + 0x100) (fun s => s.txWrite a lane 0x100 word)

/-- TX_WAKE_DONE (R71). -/
def execTxWakeDone (lane : Fin 512) (s : State) : Out := runRails s fun s =>
  let r := s.tx lane
  if r.waking then
    let s := s.txSettle lane
    ((s.setTx lane { s.tx lane with waking := false }).setBit (pgTxl lane) TXL_STAT_awake true).irq (pgTxl lane) IRQ_txl_wake
  else s

/-- TX_RATE_CHANGE (R70): the first word of a frame in the new format, or after a TXL_CTL change. -/
def execTxRateChange (lane : Fin 512) (s : State) : Out := runRails s fun s => s.txRate lane

/-- RX_PATTERN_WRITE (R77). -/
def execRxPatternWrite (a : Acc) (lane : Fin 512) (word : W32) (s : State) : Out := runRails s fun s =>
  s.viaPath a (pgRxl lane + 0x10C) (fun s => s.rxWrite a lane 0x10C word)

/-- TX_PATTERN_WRITE (R77). -/
def execTxPatternWrite (a : Acc) (lane : Fin 512) (word : W32) (s : State) : Out := runRails s fun s =>
  s.viaPath a (pgTxl lane + 0x10C) (fun s => s.txWrite a lane 0x10C word)

/-- CHECKER_SYNC (R78): bits received on a locked lane in a checking mode, the checker not in sync; the last 64 of them are
correct. In mode 6 each bit says whether the active picture agreed with the check field (DESIGN CHOICE, log entry 188). -/
def execCheckerSync (got : CheckedBits) (s : State) : Out := runRails s fun s =>
  let p := pgRxl got.lane
  let bits := got.bits
  let m := s.fld p RXL_PAT_mode
  let ok := if m = 6 then 64 ≤ bits.length && (bits.drop (bits.length - 64)).all id else prbsGood m (s.bit p RXL_PAT_inv) bits
  if s.bit p RXL_STAT_lock && 1 ≤ m && m ≤ 6 && ok then (s.rxSettle got.lane).setBit p RXL_STAT_chk_sync true else s

/-- CHECKER_SYNC_LOSS (R78): errs bit errors were found in 65,536 bits while in sync; more than 256 end it. -/
def execCheckerSyncLoss (lane : Fin 512) (errs : Nat) (s : State) : Out := runRails s fun s =>
  let p := pgRxl lane
  if s.bit p RXL_STAT_chk_sync then
    let s := (s.rxSettle lane).bump p RXL_ERR_n errs
    if 256 < errs then ((s.bump p RXL_SYNC_LOSS_n).irq p IRQ_rxl_sync_loss).setBit p RXL_STAT_chk_sync false else s
  else s

/-- INJECT_SINGLE (R79): a write of RXL_INJ or TXL_INJ with single set and the exponent as it stands. -/
def execInjectSingle (a : Acc) (isTx : Bool) (lane : Fin 512) (s : State) : Out := runRails s fun s =>
  if isTx then
    s.viaPath a (pgTxl lane + 0x110) (fun s => s.txWrite a lane 0x110
      (s.compose (pgTxl lane) .txl 0x110 (setBits (s.word (pgTxl lane + 0x110)) 0 1 1)))
  else
    s.viaPath a (pgRxl lane + 0x110) (fun s => s.rxWrite a lane 0x110
      (s.compose (pgRxl lane) .rxl 0x110 (setBits (s.word (pgRxl lane + 0x110)) 0 1 1)))

/-- INJECT_RATE_SET (R79): a write of the injection exponent. -/
def execInjectRateSet (a : Acc) (isTx : Bool) (lane : Fin 512) (word : W32) (s : State) : Out := runRails s fun s =>
  if isTx then s.viaPath a (pgTxl lane + 0x110) (fun s => s.txWrite a lane 0x110 word)
  else s.viaPath a (pgRxl lane + 0x110) (fun s => s.rxWrite a lane 0x110 word)

/-- LANE_SWAP_REQUEST (R84): a write of RXL_CTL or TXL_CTL with swap set and the other fields as they stand. -/
def execLaneSwapRequest (a : Acc) (isTx : Bool) (lane : Fin 512) (s : State) : Out := runRails s fun s =>
  if isTx then
    s.viaPath a (pgTxl lane + 0x100) (fun s => s.txWrite a lane 0x100
      (s.compose (pgTxl lane) .txl 0x100 (setBits (s.word (pgTxl lane + 0x100)) 8 1 1)))
  else
    s.viaPath a (pgRxl lane + 0x100) (fun s => s.rxWrite a lane 0x100
      (s.compose (pgRxl lane) .rxl 0x100 (setBits (s.word (pgRxl lane + 0x100)) 8 1 1)))

/-- TXL_PHASE write (R327): the lane then steps toward the position written. -/
def execTxPhaseWrite (a : Acc) (lane : Fin 512) (word : W32) (s : State) : Out := runRails s fun s =>
  s.viaPath a (pgTxl lane + 0x114) (fun s => s.txWrite a lane 0x114 word)

/-- TX_PHASE_STEP (R327): one 1/64-UI step toward TXL_PHASE.pos; a sleeping lane has no clock, and its position is held (R13,
R14). -/
def execTxPhaseStep (lane : Fin 512) (s : State) : Out := runRails s fun s =>
  let r := s.tx lane
  let t := toSigned 8 (s.fld (pgTxl lane) TXL_PHASE_pos)
  if !s.bit (pgTxl lane) TXL_STAT_awake then s
  else if r.phase < t then s.setTx lane { r with phase := r.phase + 1 }
  else if t < r.phase then s.setTx lane { r with phase := r.phase - 1 }
  else s

end Sys2Proof.Machine
end

