-- ==== Sys2Proof/Machine/ProPix.lean ====
section
/-!
DEFINITION. Pixels of the Prosceniums: the scaler and its coefficients (R235, R236), the tile format (R232 to R234), chroma
between 4:2:2 and 4:4:4 (R227), blending and keys (R253, R254).
-/
namespace Sys2Proof.Machine

/-- A pixel in the working format: c0, c1, c2, c3 (R226). -/
abbrev Px := Nat × Nat × Nat × Nat

/-- Component n of a pixel. -/
def Px.comp (p : Px) (n : Nat) : Nat := match n with | 0 => p.1 | 1 => p.2.1 | 2 => p.2.2.1 | _ => p.2.2.2

/-- A number held to 0 to 1,023. -/
def clamp10 (x : Int) : Nat := (max 0 (min x 1023)).toNat

/-! ### Scaling -/

/-- The step of a direction: crop c to destination d. -/
def scaleStep (c d : Nat) : Nat := c * 65536 / d

/-- The source position of output pixel i in 16.16 fixed point. -/
def scalePos (c0 c d i : Nat) : Int :=
  c0 * 65536 + ((2 * i + 1) * scaleStep c d - 65536 : Int).fdiv 2

def scaleBase (p : Int) : Int := p.fdiv 65536
def scalePhase (p : Int) : Nat := ((p.fdiv 1024) % 64).toNat

/-- n / d to nearest, ties away from zero. -/
def roundAway (n : Int) (d : Nat) : Int := if n < 0 then -((2 * -n + d).fdiv (2 * d)) else (2 * n + d).fdiv (2 * d)

/-- The built-in set: Catmull-Rom on taps k - 1 to k + 2 (R236). -/
def catmull (phase : Nat) : List Int :=
  let p : Int := phase
  let a := roundAway (-(p ^ 3) + 128 * p ^ 2 - 4096 * p) 2048
  let c := roundAway (-3 * p ^ 3 + 256 * p ^ 2 + 4096 * p) 2048
  let d := roundAway (p ^ 3 - 64 * p ^ 2) 2048
  [a, 256 - a - c - d, c, d]

/-- Coefficient n of a phase of set 0 of a scaler of 8 (horizontal) or 6 taps (vertical). -/
def setZero (vert : Bool) (phase n : Nat) : Int :=
  let o := if vert then 1 else 2
  if o ≤ n ∧ n < o + 4 then (catmull phase).getD (n - o) 0 else 0

/-- Taps as offsets from the base with their coefficients. -/
abbrev Taps := List (Int × Int)

/-- The taps of a scaler of n taps from offset o, without those whose coefficient is zero. -/
def filterTaps (n : Nat) (o : Int) (f : Nat → Int) : Taps :=
  ((List.range n).map (fun (i : Nat) => (o + (i : Int), f i))).filter (fun e => e.2 != 0)

/-- An index held to the crop c0 to c0 + c - 1. -/
def cropEdge (c0 c : Nat) (k : Int) : Nat := (max (c0 : Int) (min k (c0 + c - 1))).toNat

/-- A weighted sum of pixels, component by component; none where a pixel is missing. -/
def filterPx (l : List (Int × Option Px)) : Option Px :=
  if l.any (fun e => e.2.isNone) then none
  else
    let f := fun n => clamp10 (((l.map (fun e => e.1 * ((e.2.getD (0, 0, 0, 0)).comp n : Int))).sum + 128).fdiv 256)
    some (f 0, f 1, f 2, f 3)

/-! ### Chroma (R227) -/

/-- A row of 4:2:2 brought to 4:4:4: pixel x of a row of w pixels. -/
def upChroma (w x : Nat) (get : Nat → Px) : Px :=
  let p := get x
  if x % 2 = 0 then p
  else
    let l := get (x - 1)
    let r := if x + 1 < w then get (x + 1) else l
    let f := fun n => if x + 1 < w then (l.comp n + r.comp n + 1) / 2 else l.comp n
    (p.1, f 1, f 2, p.2.2.2)

/-- The chroma of even pixel x brought back to 4:2:2, from its neighbours; the first pixel of the raster has no left one. -/
def downChroma (left : Option Px) (p : Px) (right : Px) (n : Nat) : Nat :=
  ((left.getD p).comp n + 2 * p.comp n + right.comp n + 2) / 4

/-! ### Surface pixels (R230, R232, R233) -/

/-- A P40 pixel from its 40 bits. -/
def pxP40 (v : Nat) : Px := (v % 1024, v / 1024 % 1024, v / 1048576 % 1024, v / 1073741824 % 1024)

def p40Of (p : Px) : Nat := p.1 + p.2.1 * 1024 + p.2.2.1 * 1048576 + p.2.2.2 * 1073741824

/-- A P32 pixel from its 32 bits. -/
def pxP32 (v : Nat) : Px :=
  let f := fun x => x * 4 + x / 64
  (f (v % 256), f (v / 256 % 256), f (v / 65536 % 256), f (v / 16777216 % 256))

/-- Pixel x of a Y422 pair's 40 bits, its chroma that of the pair. -/
def pxY422 (v x : Nat) : Px :=
  (if x % 2 = 0 then v / 1024 % 1024 else v / 1073741824 % 1024, v % 1024, v / 1048576 % 1024, 1023)

/-- A residual from its code (R233). -/
def ztfResidual (z : Nat) : Int := if z % 2 = 0 then z / 2 else -((z : Int) + 1) / 2

/-- One value decoded: prediction from the left, at column 0 from above, at the first pixel zero. acc holds the component's
values, newest first. -/
def ztfNext (acc : List Nat) (z : Nat) : List Nat :=
  let i := acc.length
  let p := if i % 32 ≠ 0 then acc.headD 0 else if i = 0 then 0 else acc.getD 31 0
  (((p : Int) + ztfResidual z) % 1024).toNat :: acc

/-- n values of w bits each from the stream v. -/
def ztfValues (v w : Nat) : Nat → Nat → List Nat → List Nat
  | 0, _, acc => acc
  | n + 1, pos, acc => ztfValues v w n (pos + w) (ztfNext acc ((v >>> pos) % 2 ^ w))

/-- n groups of a component from bit pos; none where a width is invalid or the stream (len bits) is overrun. -/
def ztfGroups (v len : Nat) : Nat → Nat → List Nat → Option (Nat × List Nat)
  | 0, pos, acc => some (pos, acc)
  | n + 1, pos, acc =>
    let w := (v >>> pos) % 16
    if 10 < w ∨ len < pos + 4 + 8 * w then none
    else ztfGroups v len n (pos + 4 + 8 * w) (ztfValues v w 8 (pos + 4) acc)

/-- n components of a coded stream, each as its 256 values in row-major order. -/
def ztfComps (v len : Nat) : Nat → Nat → Option (List (List Nat))
  | 0, _ => some []
  | n + 1, pos =>
    match ztfGroups v len 32 pos [] with
    | none => none
    | some (q, acc) => (ztfComps v len n q).map (fun t => acc.reverse :: t)

/-- The 256 pixels of a tile of size code c, from its slot's bytes as a number; none for an invalid tile (R232 to R234). -/
def ztfTile (c v : Nat) : Option (List Px) :=
  if c = 0 then some (List.replicate 256 (0, 0, 0, 0))
  else if c < 40 then
    (ztfComps (v % 2 ^ (c * 256)) (c * 256) 4 0).map (fun l =>
      (List.range 256).map (fun i =>
        ((l.getD 0 []).getD i 0, (l.getD 1 []).getD i 0, (l.getD 2 []).getD i 0, (l.getD 3 []).getD i 0)))
  else if c = 40 then some ((List.range 256).map (fun i => pxP40 (v >>> (40 * i))))
  else none

/-! ### Blending (R253, R254) -/

/-- The effective alpha. -/
def effAlpha (ap A : Nat) : Nat := (roundDiv (ap * A : Nat) 1023).toNat

/-- One layer over the accumulated pixel d. -/
def blendPx (ycc pm : Bool) (A ap : Nat) (c d : Px) : Px :=
  let al : Int := effAlpha ap A
  let wc : Int := if pm then A else al
  let f := fun n =>
    let z : Int := if ycc && n != 0 then 512 else 0
    clamp10 (z + roundDiv (((c.comp n : Int) - z) * wc + ((d.comp n : Int) - z) * (1023 - al)) 1023)
  (f 0, f 1, f 2, 1023)

/-- The key from the partner's c0. -/
def keyAlpha (lo hi y : Nat) : Nat := clamp10 (roundDiv (((y : Int) - lo) * 1023) (hi - lo))

end Sys2Proof.Machine
end

