-- ==== Sys2Proof/Machine/Turntable.lean ====
section
/-!
DEFINITION. The Turntable (R167 to R205): switching points, takes and their classification, auto-sync, salvos and the cue sheet,
audio follow, tally, GPI and GPO.
-/
namespace Sys2Proof.Machine

def State.takes (s : State) (t : Nat) : List Take := Store.get (fun _ => []) s.armed t
def State.setTakes (s : State) (t : Nat) (l : List Take) : State :=
  ({ s with armed := Store.put (fun _ => []) t l s.armed } : State).setTapFld t TT_TAPSTAT_pend (!l.isEmpty).toNat

/-! ### Tally (R197, R198) -/

/-- The taps that select a rail. -/
def State.tapsOf (s : State) (r : Nat) : List Nat := (s.tapSel.filter (fun e => e.2 == r)).map (·.1)

/-- The class bitmaps. -/
def clsFld (c : Nat) : Fld := [TT_TCLS0, TT_TCLS1, TT_TCLS2].getD c TT_TCLS3

/-- TT_TCNT and TT_TCLS of one rail follow the selections. -/
def State.tally (s : State) (r : Nat) : State :=
  if noRail ≤ r then s
  else
    let taps := s.tapsOf r
    let a := pgTcnt (r / 896) + TT_TCNT.at (r % 896 / 2)
    let s := s.setWord a (setBits (s.word a) (16 * (r % 2)) 16 taps.length)
    (List.range 4).foldl (fun s c =>
      let a := pgTcls + (clsFld c).at (r / 32)
      let on := taps.any (fun t => (s.tapLv t TT_TAPCFG_tclass).testBit c)
      s.setWord a (setBits (s.word a) (r % 32) 1 on.toNat)) s

/-- The level a GPO pin drives (R198). -/
def State.gpo (s : State) (n : Nat) : Bool :=
  if s.bit pgGpio TT_GPO_mode n then
    let r := s.fld pgGpio TT_GPO_rail n
    let cls := s.fld pgGpio TT_GPO_cls n
    let lit := (List.range 4).any (fun c =>
      cls.testBit c && r < 2336 && (s.word (pgTcls + (clsFld c).at (r / 32))).getLsbD (r % 32))
    lit != s.bit pgGpio TT_GPO_inv n
  else s.bit pgGpio TT_GPO_level n

/-- A tap selects another rail: the selection, its register, and both rails' tally. -/
def State.select (s : State) (t r : Nat) : State :=
  let old := s.tapRail t
  let s := s.when (t < 512) (fun s => s.fmtCut t r)
  let s := ({ s with tapSel := Store.put (fun _ => noRail) t r s.tapSel } : State).setTapFld t TT_TAPSTAT_cur r
  let s := s.when (r == noRail) (fun s => (s.setTapFld t TT_TAPSTAT_off 0).setTapFld t TT_TAPSTAT_absent 0)
  ((s.tally old).tally r).tapJudge t

/-! ### Switching points (R169 to R171) -/

/-- The lines per frame and switching line of what a tap is sending; line 0 where it switches at the frame start. -/
def State.tapLines (s : State) (t : Nat) : Nat × Nat :=
  if t < 512 then
    match s.fmtSource t with
    | some f =>
      let n := linkLines f (linkWidth (s.lv (pgFmt t) TXF_LINK_mode))
      (n, switchLine n)
    | none => (1, 0)
  else (1, 0)

/-- An SDI tap follows an off-platform rail at the rail's own timing (R178). -/
def State.tapOwnTiming (s : State) (t : Nat) : Bool := t < 512 && s.tapOff t && (s.fmtSource t).isSome

/-- The distance of the switching point from the frame start. -/
def pointOfs (lines line per : Nat) : Nat := if line = 0 then 0 else (line - 1) * per / lines

/-- The first switching point of a tap at or after uptime u. -/
def State.tapPoint (s : State) (t lines line u : Nat) : Nat :=
  match (if s.tapOwnTiming t then s.railFrame (s.tapRail t) else none) with
  | some (F, len) =>
    let p := F + pointOfs lines line len
    if u ≤ p then p else p + ceilDiv (u - p) len * len
  | none =>
    let g := s.tapGroup t
    let o := pointOfs lines line (perOf (s.grpRate g))
    s.grpNext g (u - o) + o

/-- A tap's switching point falls in the present TICK, or it selects no rail (R167). -/
def State.tapInstant (s : State) (t : Nat) : Bool :=
  let l := s.tapLines t
  s.tapRail t == noRail || s.tapPoint t l.1 l.2 s.now < s.now + 16

/-- The least time from reaching the tap to landing (R171): 5 µs. -/
def tapLead : Nat := 52920

/-! ### Refusals and results -/

/-- Hardware sets a bit of TT_TAPEVT (R204). -/
def State.tapEvent (s : State) (t b : Nat) : State :=
  (s.setTapFld t TT_TAPEVT (s.tapFld t TT_TAPEVT ||| 2 ^ b)).irq (pgTap t) (t % 16)

/-- A take is refused with a result: 5 off platform, 6 no synchroniser, 7 invalid, 9 strict, 10 cannot be synchronised. -/
def State.ttRefuse (s : State) (t code : Nat) : State :=
  let s := ((s.setTapFld t TT_TAPSTAT_res code).tapCount t TT_REFUSED_n).tapEvent t 2
  let s := (s.bump pgTt TT_ALL_REFUSED_n).irq pgTt IRQ_ttCtl_refused
  s.when (code == 6 || code == 10) (fun s => (s.bump pgTt TT_ASYNC_FAIL_n).irq pgTt IRQ_ttCtl_async_fail)

/-- An invalid pair or take names a tap: 0x071 in the tap's page, in the control page beyond the taps (R186, R188, R205). -/
def State.ttInvalid (s : State) (t : Nat) : State :=
  if t < 2560 then (s.ttRefuse t 7).err (pgTap t) 0x071 else s.err pgTt 0x071

/-! ### Results of salvos (R192) -/

/-- A result for the FIFO; one that meets a full FIFO is lost. -/
def State.pushResult (s : State) (r : CueRes) : State :=
  if 64 ≤ s.results.length then ((s.bump pgCq CQ_RES_OVF_n).irq pgCq IRQ_ttCue_res_ovf).err pgCq 0x074
  else
    let s := { s with results := s.results ++ [r] }
    (s.setFld pgCq TT_CQ_RES_LEVEL_n s.results.length).irq pgCq IRQ_ttCue_res

/-- The outcome of a salvo whose pairs have all landed or been refused. -/
def salvoOutcome (v : Salvo) : Nat := if v.strict then 4 else if v.nref ≠ 0 then 3 else if v.late then 2 else 1

/-- Salvos with nothing left give their results. -/
def State.salvoEnd (s : State) : State :=
  let fin := s.salvos.filter (fun v => v.left == 0 && v.todo.isEmpty)
  let s := { s with salvos := s.salvos.filter (fun v => !(v.left == 0 && v.todo.isEmpty)) }
  fin.foldl (fun s v => s.pushResult ⟨v.tag, salvoOutcome v, v.nref, v.tap, v.upt⟩) s

/-- One pair of a salvo has landed or been overridden. -/
def State.salvoPair (s : State) (id : Option Nat) (late : Bool) : State :=
  match id with
  | some i =>
    ({ s with salvos := s.salvos.map (fun v => if v.id == i then { v with left := v.left - 1, late := v.late || late } else v) } :
      State).salvoEnd
  | none => s

/-! ### Auto-sync (R180 to R182) -/

/-- A unit is free: in the pool, not enabled by configuration, not claimed. -/
def State.unitFree (s : State) (k : Nat) : Bool :=
  (s.lword (pgTt + TT_ASYNC_POOL.at (k / 32))).getLsbD (k % 32) && s.syLv k SYN_CFG_en == 0 &&
    s.syFld k SYN_STAT_claimed == 0 && !(s.synBase k != k && (s.sy (s.synBase k)).on)

/-- The units a take of this rail would claim for a destination of group g: the refusal code, or the base and width. -/
def State.asyncFind (s : State) (r g : Nat) : Except Nat (Nat × Nat) :=
  match s.railFmt r with
  | none => .error 10
  | some f =>
    if f.rate ≠ s.grpRate g ∧ f.intl then .error 10
    else match synUnits f with
      | none => .error 10
      | some 1 => match (List.range 256).find? (fun k => s.unitFree k) with | some k => .ok (k, 1) | none => .error 6
      | some _ =>
        match (List.range 64).find? (fun q => (List.range 4).all (fun i => s.unitFree (4 * q + i))) with
        | some q => .ok (4 * q, 4)
        | none => .error 6

/-- TT_ASYNC_USED: units claimed. -/
def State.countClaims (s : State) : State :=
  s.setFld pgTt TT_ASYNC_USED_n ((s.syn.map (fun e => match e.2.claim with | some (_, w) => w | none => 0)).sum)

/-- A claim for tap t: the unit's input tap selects the source at once (R180). -/
def State.asyncClaim (s : State) (t r b w g : Nat) : State :=
  let s := s.select (2048 + b) r
  let s := (s.synClaim b w g).countClaims
  (s.setTapFld t TT_TAPSYNC_unit b).setTapFld t TT_TAPSYNC_valid 1

/-- Claimed units that no tap selects, and no armed take waits for, are released: each goes Off and its input tap selects no
source (R182). -/
def State.asyncTidy (s : State) : State :=
  let idle := s.syn.filter (fun e => e.2.claim.isSome &&
    !(s.armed.any (fun l => l.2.any (fun t => t.unit == some e.1))) && (s.tapsOf (2048 + e.1)).isEmpty &&
    !(s.journalIn.any (fun d => match d.d with | .take _ _ _ _ _ u => u == some e.1 | _ => false)))
  (idle.foldl (fun s e => (s.synFree e.1).select (2048 + e.1) noRail) s).countClaims

/-! ### Arming (R168, R174 to R180) -/

/-- How the Turntable decides a take of rail r at tap t (R174 to R176): the refusal code, or the class. A take to the rail the tap
already selects changes nothing and is not refused (R173, log entry 48). -/
def State.classify (s : State) (t r : Nat) : Except Nat Nat :=
  let g := s.tapGroup t
  if s.tapRail t = r ∧ (s.takes t).isEmpty then .ok 1
  else if r = noRail ∨ s.railAbsent r (s.tapOpaque t) then .ok 0
  else if 2048 ≤ t ∧ t < 2304 then .ok 1
  else if s.railOn r g (s.tapOpaque t) then .ok 1
  else match s.tapLv t TT_TAPCFG_policy with
    | 0 => .ok 3
    | 2 => match s.asyncFind r g with | .ok _ => .ok 4 | .error c => .error c
    | _ => .error 5

/-- A take is armed at a tap as decided: class, and the unit to claim for class 4. -/
def State.armAs (s : State) (t r : Nat) (bkwy : Bool) (target : Nat) (salvo : Option Nat) (cls : Nat) (unit : Option (Nat × Nat)) :
    State :=
  let (n, ln) := s.tapLines t
  let soon := max (s.now + tapLead) s.earliest
  let first := s.tapPoint t n ln target
  let k : Take :=
    { seq := s.armSeq, rail := r, bkwy := bkwy, target := target, ready := max target (if unit.isSome then s.earliest else soon),
      late := unit.isNone && first < soon, cls := cls, unit := unit.map (·.1), salvo := salvo, lines := n, line := ln }
  let s := { s with armSeq := s.armSeq + 1 }
  let s := match unit with | some (b, w) => s.asyncClaim t r b w (s.tapGroup t) | none => s
  let S := if unit.isSome then k.ready else s.tapPoint t n ln k.ready
  (s.setTakes t (s.takes t ++ [k])).journal S (.take t r bkwy (s.todCuesAt S) (cls + 16 * k.late.toNat) (unit.map (·.1)))

/-- The Lead journals a refused take with its code (R179). -/
def State.journalRefused (s : State) (t r : Nat) (bkwy : Bool) (c : Nat) : State :=
  s.journal s.earliest (.take t r bkwy (s.todCuesAt s.earliest) c none)

/-- A take reaches a tap: it is armed, or refused with a code. -/
def State.armTake (s : State) (t r : Nat) (bkwy : Bool) (target : Nat) (salvo : Option Nat) : State × Nat :=
  match s.classify t r with
  | .error c => ((s.ttRefuse t c).journalRefused t r bkwy c, c)
  | .ok 4 =>
    match s.asyncFind r (s.tapGroup t) with
    | .ok u => (s.armAs t r bkwy target salvo 4 (some u), 0)
    | .error c => (s.ttRefuse t c, c)
  | .ok c => (s.armAs t r bkwy target salvo c none, 0)

/-- The tap and the rail name gang bases of one width; no source fits every base tap (R188). -/
def State.gangsFit (s : State) (t r : Nat) : Bool :=
  s.tapBase t == t && (r == noRail || (s.railBase r == r && s.railWidth r == s.tapWidth t))

/-- TT_TAPCTL was written: a single take with target next boundary (R168, R188). -/
def State.tapCtlWritten (s : State) (a : Acc) (t : Nat) (old : W32) : State :=
  let adr := pgTap t + TT_TAPCTL_src.at (t % 16)
  let r := s.tapFld t TT_TAPCTL_src
  let back := fun (s : State) => s.setTapFld t TT_TAPCTL_src (getBits old 0 12)
  if 2336 ≤ r ∧ r < noRail then (back s).accErr (pgTap t) 0x075 a accWrite adr
  else if s.tapBase t ≠ t then (back s).accErr (pgTap t) 0x077 a accWrite adr
  else if !s.gangsFit t r then (s.ttRefuse t 7).accErr (pgTap t) 0x071 a accWrite adr
  else if s.follows then s
  else (s.armTake t r (s.tapFld t TT_TAPCTL_bkwy == 1) s.now none).1

/-- What a write of a tap page does beyond storing the word. -/
def State.tapHook (s : State) (a : Acc) (q o : Nat) (old : W32) : State :=
  if 0x100 ≤ o ∧ o < 0x300 ∧ o % 0x20 = 4 then s.tapCtlWritten a (16 * q + (o - 0x100) / 0x20) old else s

def State.tapWrite (s : State) (a : Acc) (q o : Nat) (w : W32) (hw : Option W32) : State :=
  let r := s.storeWord a (pgTap (16 * q)) .tap q o w hw
  if r.ok then r.s.tapHook a q o r.old else r.s

/-! ### Landing (R171 to R173, R194 to R196) -/

/-- An armed take is overridden: result 8 (R194). -/
def State.ttOverride (s : State) (t : Nat) (k : Take) : State :=
  let s := ((s.setTapFld t TT_TAPSTAT_res 8).tapEvent t 4).bump pgTt TT_SUPERSEDED_n
  (s.irq pgTt IRQ_ttCtl_superseded).salvoPair k.salvo false

/-- The follow outputs of a tap take the new rail's audio, or silence (R195, R196). -/
def State.audioFollow (s : State) (t : Nat) (k : Take) (rail S : Nat) : State :=
  if s.tapLv t TT_TAPCFG_afv = 1 && !k.bkwy then
    let base := s.tapLv t TT_TAPAUD_base
    (List.range (s.tapLv t TT_TAPAUD_n)).foldl (fun s i =>
      s.pitFollow k.seq (base + i) (if k.cls = 0 then none else s.railAudio rail i) S) s
  else s

/-- A take that lands reports its result, and its salvo takes note. -/
def State.ttReport (s : State) (t res : Nat) (k : Take) (late : Bool) : State :=
  let s := ((s.setTapFld t TT_TAPSTAT_res res).tapCount t TT_TAKES_n).tapEvent t 0
  let s := s.bump pgTt TT_ALL_TAKES_n
  let s := s.when late (fun s =>
    (((s.tapCount t TT_LATE_n).tapEvent t 1).bump pgTt TT_ALL_LATE_n).irq pgTt IRQ_ttCtl_late)
  s.salvoPair k.salvo late

/-- A take lands at its tap, or tap gang, at S. One to the rail the tap already selects changes nothing beyond its report (R173). -/
def State.ttLand (s : State) (t S : Nat) (k : Take) : State :=
  let rail := match k.unit with | some b => 2048 + b | none => k.rail
  let stamp := fun (s : State) i => s.setFld64 (pgTap (t + i)) TT_TAPSW_lo TT_TAPSW_hi S ((t + i) % 16)
  if s.tapRail t == rail then ((List.range (s.tapWidth t)).foldl stamp s).ttReport t 1 k false
  else
    let late := k.late && k.unit.isNone
    let res := if k.unit.isSome then 4 else if k.cls = 3 then 3 else if late then 2 else 1
    let s := s.audioFollow t k rail S
    let s := (List.range (s.tapWidth t)).foldl (fun s i =>
      let s := stamp (s.select (t + i) (if rail = noRail then noRail else rail + i)) i
      s.when (2048 ≤ t + i && t + i < 2304) (fun s => s.synTaken (t + i - 2048))) s
    let s := s.when (k.cls == 3) (fun s => s.tapCount t TT_OFFCUT_n)
    let s := (s.setTapFld t TT_TAPSTAT_async k.unit.isSome.toNat).setTapFld t TT_TAPSYNC_valid k.unit.isSome.toNat
    s.ttReport t res k late

/-- The take may land at the switching point S: it is due, and a claimed unit has started its output. -/
def State.mayLand (s : State) (t S : Nat) (k : Take) : Bool :=
  k.ready ≤ S && s.tapPoint t k.lines k.line S == S &&
    (match k.unit with
      | some b => s.synState b == synRunning && (s.sy b).first ≤ S
      | none => true)

/-- The switching point S of a tap: of the takes that may land the one armed last stands, and it overrides every take armed
before it (R194). -/
def State.tapSwitch (s : State) (t S : Nat) : State :=
  let l := s.takes t
  match (l.filter (fun k => s.mayLand t S k)).getLast? with
  | none => s
  | some k =>
    let s := s.setTakes t (l.filter (fun x => k.seq < x.seq))
    let s := (l.filter (fun x => x.seq < k.seq)).foldl (fun s x => s.ttOverride t x) s
    (s.ttLand t S k).asyncTidy

/-- A live change of a tap's settings: its class may have changed (R197). -/
def State.tapApply (s : State) (t : Nat) : State :=
  let s := s.applySlot (pgTap t) .tap (t % 16)
  (s.tally (s.tapRail t)).tapJudge t

/-! ### Salvo memory (R183 to R187) -/

def salvoSize : Nat := 262144

def State.pairAt (s : State) (i : Nat) : W32 := Store.get (fun _ => 0) s.salvoMem i
def pairTap (w : W32) : Nat := getBits w 0 12
def pairRail (w : W32) : Nat := getBits w 12 12

/-- The pairs of a salvo; none when it is malformed: no last bit within 2,560 pairs, or before index 262,143. -/
def State.readSalvo (s : State) : Nat → Nat → Option (List W32)
  | 0, _ => none
  | n + 1, i =>
    if salvoSize - 1 ≤ i then none
    else
      let w := s.pairAt i
      if w.getLsbD 31 then some [w] else (s.readSalvo n (i + 1)).map (w :: ·)

/-- A pair is well formed (R186): its tap and rail exist, both are gang bases of one width, and its tap is new. -/
def State.pairValid (s : State) (seen : List Nat) (w : W32) : Bool :=
  let t := pairTap w
  let r := pairRail w
  t < 2560 && (r < 2336 || r == noRail) && s.gangsFit t r && !seen.contains t

/-- Every pair is tested and armed in turn: the state, and each pair's tap with its code (0 armed). -/
def State.armPairs (s : State) (target id : Nat) (l : List W32) : State × List (Nat × Nat) :=
  (l.foldl (fun (x : (State × List (Nat × Nat)) × List Nat) w =>
    let t := pairTap w
    if x.1.1.pairValid x.2 w then
      let s := x.1.1.setTapFld t TT_TAPCTL_src (pairRail w)
      let r := s.armTake t (pairRail w) (w.getLsbD 24) target (some id)
      ((r.1, x.1.2 ++ [(t, r.2)]), x.2 ++ [t])
    else (((x.1.1.ttInvalid t).journalRefused t (pairRail w) (w.getLsbD 24) 7, x.1.2 ++ [(t, 7)]), x.2 ++ [t]))
    ((s, []), [])).1

/-- The refusals of a strict salvo of pairs l: each pair its own code, the others 9. -/
def State.refuseAll (s : State) (l : List W32) (codes : List (Nat × Nat)) : State :=
  codes.foldl (fun s c =>
    let k := if c.2 = 0 then 9 else c.2
    let w := (l.find? (fun w => pairTap w == c.1)).getD 0
    (if k = 7 then s.ttInvalid c.1 else s.ttRefuse c.1 k).journalRefused c.1 (pairRail w) (w.getLsbD 24) k) s

/-- A salvo is dispatched with its target uptime (R185, R186). bad: a pair has an uncorrectable SRAM error. -/
def State.dispatch (s : State) (e : CueEnt) (target : Nat) (bad : Bool) : State :=
  let id := s.salvoSeq
  let s := { s with salvoSeq := id + 1 }
  let refuse := fun (s : State) => s.pushResult ⟨e.tag, 5, 0, 0, s.now⟩
  if bad then refuse (s.err pgSm 0x072)
  else match s.readSalvo 2560 e.salvo with
    | none => refuse (s.err pgCq 0x070)
    | some l =>
      let (t, codes) := s.armPairs target id l
      let no := codes.filter (fun c => c.2 != 0)
      let rec_ : Salvo := { id := id, tag := e.tag, upt := s.now, left := codes.length - no.length, todo := [],
                            nref := no.length, tap := (no.head?.map (·.1)).getD 0, late := false, strict := false, hard := e.strict }
      if e.strict && !no.isEmpty then
        let s := s.refuseAll l codes
        ({ s with salvos := s.salvos ++ [{ rec_ with left := 0, nref := codes.length, strict := true }] } : State).salvoEnd
      else ({ t with salvos := t.salvos ++ [rec_] } : State).salvoEnd

/-! ### The cue sheet (R189 to R193) -/

def sheetSize : Nat := 16384

/-- The key of an entry (R191): its uptime, or its time of day converted now, rounded down to a whole cue. -/
def State.keyOf (s : State) (e : CueEnt) : Int :=
  if e.kind = 1 then s.now + ((e.target * 2 ^ 40 : Nat) - (s.tod.total : Int)).fdiv (2 ^ 40) else e.target

/-- The first entry in key order, submission order among equals. -/
def State.firstEntry (s : State) : Option CueEnt :=
  match s.sheet with
  | [] => none
  | e :: t => some (t.foldl (fun b x => if s.keyOf x < s.keyOf b then x else b) e)

/-- Values below 10 of the lead time act as 10. -/
def State.leadTime (s : State) : Nat := max 10 (s.fld pgCq TT_CQ_CTL_lead) * cueUs

def State.setSheet (s : State) (l : List CueEnt) : State :=
  ({ s with sheet := l } : State).setFld pgCq TT_CQ_LEVEL_n l.length

/-- An entry is stored. -/
def State.addEntry (s : State) (e : CueEnt) : State := s.setSheet (s.sheet ++ [e])

/-- TT_CQ_SUB.go by master m (R189). -/
def State.submit (s : State) (m : Nat) : State :=
  let kind := s.mfld m pgCq TT_CQ_SUB_kind
  let lo := s.mfld m pgCq TT_CQ_TGT_lo
  let hi := s.mfld m pgCq TT_CQ_TGT_hi
  let sec := s.mfld m pgCq TT_CQ_TSEC_hi * 2 ^ 32 + s.mfld m pgCq TT_CQ_TSEC_lo
  let resp := fun (s : State) (v : Nat) => s.setMfld m pgCq TT_CQ_RESP_st v
  if kind = 3 then resp ((s.bump pgCq CQ_BADKIND_n).err pgCq 0x076) 4
  else if kind = 1 ∧ !s.held then resp (s.bump pgCq CQ_SUBMIT_n) 3
  else if sheetSize ≤ s.sheet.length then
    resp (((s.bump pgCq CQ_FULL_n).irq pgCq IRQ_ttCue_full).err pgCq 0x073) 2
  else
    let target := if kind = 0 then hi * 2 ^ 32 + lo else if kind = 1 then sec * cueSec + (hi % 4 * 2 ^ 32 + lo) else s.now
    resp (s.addEntry { kind := kind, target := target, salvo := s.mfld m pgCq TT_CQ_SUB_salvo,
                       strict := s.mfld m pgCq TT_CQ_SUB_strict == 1, tag := s.mfld m pgCq TT_CQ_TAG_tag }) 1

/-- TT_CQ_CANCEL.go: every pending entry with the tag is cancelled (R193). -/
def State.cancel (s : State) : State :=
  let tag := s.fld pgCq TT_CQ_CANCEL_tag
  let gone := s.sheet.filter (fun e => e.tag == tag)
  let s := s.setSheet (s.sheet.filter (fun e => e.tag != tag))
  let s := s.setFld pgCq TT_CQ_CANCELLED_n gone.length
  let s := if gone.isEmpty then s else s.bump pgCq CQ_CANCEL_n gone.length
  gone.foldl (fun s e => s.pushResult ⟨e.tag, 6, 0, 0, s.now⟩) s

def State.cqHook (s : State) (a : Acc) (o : Nat) (eff : W32) : State :=
  if o = 0x110 ∧ eff.getLsbD 31 then s.submit a.m else if o = 0x128 ∧ eff.getLsbD 31 then s.cancel else s

def State.cqWrite (s : State) (a : Acc) (o : Nat) (w : W32) : State :=
  let r := s.storeFor a pgCq .ttCue 0 o w
  if r.ok then r.s.cqHook a o r.eff else r.s

/-- A read of TT_CQ_RES_POP by master m (R192): the head result is removed and its details are latched for m. -/
def State.popResult (s : State) (m : Nat) : State × W32 :=
  match s.results with
  | [] => (s, 0)
  | r :: rest =>
    let s := ({ s with results := rest } : State).setFld pgCq TT_CQ_RES_LEVEL_n rest.length
    let s := s.setMreg m (pgCq + 0x134) (setBits (setBits 0 0 12 r.nref) 16 12 r.tap)
    let s := (s.setMreg m (pgCq + 0x138) (BitVec.ofNat 32 r.upt)).setMreg m (pgCq + 0x13C) (BitVec.ofNat 32 (r.upt / 2 ^ 32))
    (s, setBits (setBits (setBits 0 0 16 r.tag) 16 3 r.outcome) 31 1 1)

/-! ### Salvo memory access (R187) -/

def State.smNext (s : State) : State := s.setFld pgSm TT_SM_ADDR_idx ((s.fld pgSm TT_SM_ADDR_idx + 1) % salvoSize)

/-- The defined bits of a salvo pair word (R183). -/
def pairMask : W32 := 0x81FFFFFF

def State.smWrite (s : State) (a : Acc) (o : Nat) (w : W32) : State :=
  let r := s.storeWord a pgSm .ttSm 0 o w
  let w := w &&& pairMask
  if o = 0x104 ∧ r.ok then
    let s := r.s.setWord (pgSm + 0x104) 0
    ({ s with salvoMem := Store.put (fun _ => 0) (s.fld pgSm TT_SM_ADDR_idx) w s.salvoMem } : State).smNext
  else r.s

/-- A read of TT_SM_DATA: a master that is not admitted reads zero and moves nothing (log entry 46). -/
def State.smRead (s : State) (a : Acc) : State × W32 :=
  if s.privileged a then (s.smNext, s.pairAt (s.fld pgSm TT_SM_ADDR_idx)) else (s, 0)

/-! ### GPI (R199 to R201) -/

def State.gp (s : State) (n : Nat) : Gpi := Store.get (fun _ => {}) s.gpi n
def State.setGp (s : State) (n : Nat) (v : Gpi) : State :=
  (({ s with gpi := Store.put (fun _ => {}) n v s.gpi } : State).setWord (pgGpio + 0x1C4)
    (setBits (s.word (pgGpio + 0x1C4)) n 1 (v.st == 0 && s.bit pgGpio TT_GPI_en n).toNat)).setWord (pgGpio + 0x1C0)
    (setBits (s.word (pgGpio + 0x1C0)) (16 + n) 1 (v.st == 3).toNat)

/-- The sampled level of an input is active. -/
def State.gpiOn (s : State) (n : Nat) : Bool :=
  (s.word (pgGpio + 0x1C0)).getLsbD n != s.bit pgGpio TT_GPI_pol n

def State.setGpiOn (s : State) (n : Nat) (on : Bool) : State :=
  s.setWord (pgGpio + 0x1C0) (setBits (s.word (pgGpio + 0x1C0)) n 1 (on != s.bit pgGpio TT_GPI_pol n).toNat)

/-- The entry an input's firing submits at uptime t. -/
def State.gpiEntry (s : State) (n t : Nat) : CueEnt :=
  { kind := 2, target := t, salvo := s.fld pgGpio TT_GPI_salvo n, strict := s.bit pgGpio TT_GPI_strict n,
    tag := s.fld pgGpio TT_GPI_TAG_tag n }

/-- A firing at uptime t (R201): its entry goes to the sheet, or is lost when the sheet is full. -/
def State.gpiFire (s : State) (n t : Nat) : State :=
  let s := (s.bump pgGpio GPI_FIRE_n 1 n).irq pgGpio n
  if sheetSize ≤ s.sheet.length then (s.bump pgGpio GPI_LOST_n).irq pgGpio IRQ_ttGpio_lost
  else (s.addEntry (s.gpiEntry n t)).journal t (.gpi n)

/-- The short periods before an input chatters, and their limit. -/
def gpiShort (v : Gpi) (now : Nat) : Nat :=
  match v.rise with | some t => if now - t < cueMs then v.short + 1 else 0 | none => 0

/-- An input becomes active. -/
def State.gpiRise (s : State) (n : Nat) : State :=
  if s.gpiOn n then s
  else
    let v := s.gp n
    let s := s.setGpiOn n true
    let sh := gpiShort v s.now
    let v := { v with rise := some s.now, short := sh, edge := s.now }
    if v.st = 3 then s.setGp n v
    else if 8 ≤ sh then ((s.setGp n { v with st := 3, short := 0 }).bump pgGpio GPI_CHAT_n 1 n).irq pgGpio IRQ_ttGpio_chatter
    else if v.st = 0 ∧ s.bit pgGpio TT_GPI_en n then
      if s.follows then (s.setGp n { v with st := 1, own := true }).when v.own (fun s => s.bump pgPair PAIR_DEC_DIFF_n)
      else (s.setGp n { v with st := 1, own := false }).gpiFire n s.earliest
    else s.setGp n { v with st := if v.st = 2 then 1 else v.st }

/-- An input becomes inactive. -/
def State.gpiFall (s : State) (n : Nat) : State :=
  if s.gpiOn n then
    let v := s.gp n
    (s.setGpiOn n false).setGp n { v with st := if v.st = 1 then 2 else v.st, since := s.now, edge := s.now }
  else s

/-! ### The commands -/

/-- TAP_TAKE_WRITE (R168): TT_TAPCTL of a tap written as a word. clash: a salvo arms the same tap in the same cycle (R194). -/
def execTapTakeWrite (a : Acc) (tap : Fin 2560) (word : W32) (clash : Bool) (s : State) : Out := runRails s fun s =>
  let o := TT_TAPCTL_src.at (tap % 16)
  s.viaPath a (pgTap tap + o) (fun s => s.tapWrite a (tap / 16) o word (if clash then some 0 else none))

/-- TAKE_LAND (R171): the switching point of a tap, at cue of the present TICK. -/
def execTakeLand (tap : Fin 2560) (cue : Fin 16) (s : State) : Out := runRails s fun s => s.tapSwitch tap (s.now + cue)

/-- SALVO_MEMORY_WRITE (R187). -/
def execSalvoMemoryWrite (a : Acc) (word : W32) (s : State) : Out := run s fun s =>
  s.viaPath a (pgSm + 0x104) (fun s => s.smWrite a 0x104 word)

/-- SALVO_MEMORY_READ (R187). -/
def execSalvoMemoryRead (a : Acc) (s : State) : Out := run s fun s => s.viaRead a (pgSm + 0x104) (fun s => s.smRead a)

/-- CUE_SUBMIT (R189): TT_CQ_SUB written as a word. -/
def execCueSubmit (a : Acc) (word : W32) (s : State) : Out := run s fun s =>
  s.viaPath a (pgCq + 0x110) (fun s => s.cqWrite a 0x110 word)

/-- CUE_DISPATCH (R190, R191): the first entry in key order is due. The Understudy dispatches by the Lead's journal (R355). -/
def execCueDispatch (bad : Bool) (s : State) : Out := runRails s fun s =>
  match s.firstEntry with
  | some e =>
    if s.keyOf e ≤ s.now + s.leadTime ∧ !s.follows then
      let target := (s.keyOf e).toNat
      let s := s.setSheet (s.sheet.erase e)
      (s.journal s.earliest (.dispatch e.salvo e.tag)).dispatch e target bad
    else s
  | none => s

/-- CUE_RESULT_POP (R192). -/
def execCueResultPop (a : Acc) (s : State) : Out := run s fun s => s.viaRead a (pgCq + 0x130) (fun s => s.popResult a.m)

/-- CUE_CANCEL (R193): TT_CQ_CANCEL written as a word. -/
def execCueCancel (a : Acc) (word : W32) (s : State) : Out := run s fun s =>
  s.viaPath a (pgCq + 0x128) (fun s => s.cqWrite a 0x128 word)

/-- GPI_ACTIVE (R199). -/
def execGpiActive (n : Fin 16) (s : State) : Out := run s fun s => s.gpiRise n

/-- GPI_INACTIVE (R199). -/
def execGpiInactive (n : Fin 16) (s : State) : Out := run s fun s => s.gpiFall n

/-- GPI_REARM (R199): the input has been inactive for its debounce time. -/
def execGpiRearm (n : Fin 16) (s : State) : Out := run s fun s =>
  let v := s.gp n
  let deb := max 1 (s.fld pgGpio TT_GPI_deb n)
  if v.st = 2 ∧ v.since + deb * cueMs < s.now + 16 then s.setGp n { v with st := 0 } else s

/-- GPI_CHATTER_END (R200): 100 ms without an edge. -/
def execGpiChatterEnd (n : Fin 16) (s : State) : Out := run s fun s =>
  let v := s.gp n
  if v.st = 3 ∧ v.edge + 1058400000 < s.now + 16 then s.setGp n { v with st := if s.gpiOn n then 1 else 0 } else s

end Sys2Proof.Machine
end

