-- ==== Sys2Proof/Machine/Pro.lean ====
section
/-!
DEFINITION. Prosceniums (R224 to R263): frames and their pool, layers and surfaces, composition of lines, flips and fences,
capture.
-/
namespace Sys2Proof.Machine

/-! ### Rasters, gangs and layers (R225, R229, R239, R241) -/

def State.ly (s : State) (p l : Nat) : Lay := Store.get (fun _ => {}) s.lay (8 * p + l)
def State.setLy (s : State) (p l : Nat) (v : Lay) : State := { s with lay := Store.put (fun _ => {}) (8 * p + l) v s.lay }

def State.laLv (s : State) (p l : Nat) (f : Fld) : Nat := s.lv (pgLay p) f l
def State.laFld (s : State) (p l : Nat) (f : Fld) : Nat := s.fld (pgLay p) f l
def State.setLaFld (s : State) (p l : Nat) (f : Fld) (v : Nat) : State := s.setFld (pgLay p) f v l
def State.laIrq (s : State) (p l b : Nat) : State := s.irq (pgLay p) (3 * l + b)

/-- The Proscenium composes as a member of a live gang. -/
def State.proGanged (s : State) (p : Nat) : Bool := s.proGang (s.proBase p)

/-- The Prosceniums that compose with p: the members of its gang, or p alone. -/
def State.proMembers (s : State) (p : Nat) : List Nat :=
  if s.proGanged p then (List.range 4).map (s.proBase p + ·) else [p]

/-- The origin of a Proscenium's quadrant in the raster (R241). -/
def State.proOrigin (s : State) (p : Nat) : Nat × Nat :=
  if s.proGanged p then (p % 2 * 3840, p % 4 / 2 * 2160) else (0, 0)

/-- Width, height and total lines of the raster in force. -/
def State.proRaster (s : State) (p : Nat) : Nat × Nat × Nat × Bool := rasterOf (s.lv (pgRas (s.proBase p)) PRO_RASTER_fmt)

/-- Width and height of what this Proscenium itself composes. -/
def State.proSize (s : State) (p : Nat) : Nat × Nat :=
  let r := s.proRaster p
  if s.proGanged p then (r.1 / 2, r.2.1 / 2) else (r.1, r.2.1)

/-- The tap that a layer of base b reads. -/
def layTap (b l : Nat) : Nat := 2304 + 8 * b + l

/-- The size of a layer's source: of a live source as it last arrived (until one has, LAY_SWH), of a surface LAY_SWH. -/
def State.laySource (s : State) (p l : Nat) : Nat × Nat :=
  let b := s.proBase p
  let v := s.ly p l
  if s.laLv b l LAY_CFG_src = 1 ∧ v.sw ≠ 0 then (v.sw, v.sh) else (s.laLv b l LAY_SWH_w, s.laLv b l LAY_SWH_h)

/-- The crop in use: left, top, width, height. -/
def State.layCrop (s : State) (p l : Nat) : Nat × Nat × Nat × Nat :=
  let b := s.proBase p
  if s.laLv b l LAY_CFG_src = 1 ∧ s.laLv b l LAY_CFG_crop_full = 1 then
    let z := s.laySource p l
    (0, 0, z.1, z.2)
  else (s.laLv b l LAY_CROP_cx, s.laLv b l LAY_CROP_cy, s.laLv b l LAY_CROPS_cw, s.laLv b l LAY_CROPS_ch)

/-- Vertical taps of a code of LAY_CFG.vtaps, and the code of a number of taps. -/
def vtapsOf (c : Nat) : Nat := [6, 4, 2, 1].getD c 1
def vtapsCode (v : Nat) : Nat := if v = 6 then 0 else if v = 4 then 1 else if v = 2 then 2 else 3

/-- Line slots of a layer (R238). -/
def slotsOf (v cw ch dh : Nat) : Nat := (v + ceilDiv ch dh + 1) * (if 4096 < cw then 2 else 1)

/-- The scaling limits of R237 but the load rate: crop and destination sizes and ratios. -/
def scaleFits (cw ch dw dh : Nat) : Bool :=
  8 ≤ cw && cw ≤ 8192 && 2 ≤ ch && ch ≤ 8192 && 1 ≤ dw && dw ≤ 16384 && 1 ≤ dh && dh ≤ 16384
    && dw ≤ 8 * cw && dh ≤ 8 * ch && cw ≤ 8 * dw && ch ≤ 8 * dh

/-- The load rate limit, with the raster's total lines N and the frame period T. -/
def loadFits (cw ch dh N T : Nat) : Bool := ceilDiv ch dh * cw * 147 * N ≤ 100 * T

/-! ### The pool (R238, R239) -/

/-- Slots free in the pool. -/
def State.poolFree (s : State) (p : Nat) : Nat := 48 - ((List.range 8).map (fun l => s.laFld p l LAY_STAT_held)).sum

/-- PRO_POOL.free follows. -/
def State.poolShow (s : State) (p : Nat) : State := s.setFld (pgRas p) PRO_POOL_free (s.poolFree p)

def layOff : Nat := 0
def layFull : Nat := 1
def layReduced : Nat := 2
def layTransp : Nat := 3

/-- A layer takes n slots at v taps in a pool state. -/
def State.layHold (s : State) (p l st v n : Nat) : State :=
  ((s.setLaFld p l LAY_STAT_state st).setLaFld p l LAY_STAT_vtaps (vtapsCode v)).setLaFld p l LAY_STAT_held n

/-- The slots a layer needs at its configured taps. -/
def State.layNeed (s : State) (p l v : Nat) : Nat :=
  let c := s.layCrop p l
  slotsOf v c.2.2.1 c.2.2.2 (s.laLv (s.proBase p) l LAY_DSTS_dh)

/-- A layer is turned on or off as its live settings say: off frees its lines, on takes the configured number (R239). -/
def State.layLive (s : State) (p l : Nat) : State :=
  let b := s.proBase p
  let src := s.laLv b l LAY_CFG_src
  let st := s.laFld p l LAY_STAT_state
  let vc := vtapsOf (s.laLv b l LAY_CFG_vtaps)
  let s := s.setLaFld p l LAY_STAT_need (if src = 0 then 0 else s.layNeed p l vc)
  if src = 0 then
    ((((s.layHold p l layOff 6 0).setLaFld p l LAY_STAT_limit 0).setLaFld p l LAY_STAT_grp 0).setLaFld p l LAY_STAT_cspace 0).poolShow p
  else if st = layOff then (s.layHold p l layFull vc (s.layNeed p l vc)).poolShow p
  else s

/-- A layer is re-evaluated at an output frame start (R239). -/
def State.layPool (s : State) (p l : Nat) : State :=
  let b := s.proBase p
  let st := s.laFld p l LAY_STAT_state
  if st = layOff then s
  else
    let c := s.layCrop p l
    let dw := s.laLv b l LAY_DSTS_dw
    let dh := s.laLv b l LAY_DSTS_dh
    let vc := vtapsOf (s.laLv b l LAY_CFG_vtaps)
    let T := perOf (s.grpRate (s.proGroup p))
    let ok := scaleFits c.2.2.1 c.2.2.2 dw dh && loadFits c.2.2.1 c.2.2.2 dh (s.proRaster p).2.2.1 T
    let avail := s.laFld p l LAY_STAT_held + s.poolFree p
    let tries := vc :: ([4, 2].filter (fun v => v < vc))
    let s := (s.setLaFld p l LAY_STAT_limit (!ok).toNat).setLaFld p l LAY_STAT_need (s.layNeed p l vc)
    match (if ok then tries.find? (fun v => s.layNeed p l v ≤ avail) else none) with
    | some v =>
      let s := (s.layHold p l (if v = vc then layFull else layReduced) v (s.layNeed p l v)).poolShow p
      if v ≠ vc ∧ st = layFull then (s.bump (pgLay p) LAY_DEGRADE_n 1 l).laIrq p l 0 else s
    | none =>
      let s := ((s.setLaFld p l LAY_STAT_state layTransp).setLaFld p l LAY_STAT_held 0).poolShow p
      let s := s.bump (pgLay p) LAY_TRANSP_FR_n 1 l
      if st = layTransp then s else (s.err (pgLay p) 0x093).laIrq p l 1

/-- A live layer takes note of the frame its tap brings: its size (from the first frame of a new format), the tap's group
(R228), and the source's colorimetry (R226). -/
def State.layNote (s : State) (p l : Nat) : State :=
  let b := s.proBase p
  if s.laLv b l LAY_CFG_src ≠ 1 then s
  else
    let t := layTap b l
    let r := s.tapRail t
    let s := match s.railFmt r with
      | some f => s.setLy p l { s.ly p l with sw := f.px, sh := activeLines f.lines }
      | none => s
    let cs := if (s.railFmt r).isSome then s.railColour r else none
    let s := s.setLaFld p l LAY_STAT_grp (s.tapGroup t != s.proGroup p).toNat
    s.setLaFld p l LAY_STAT_cspace (match cs with | some c => (c != s.lv (pgRas b) PRO_RASTER_cs).toNat | none => 0)

/-! ### Bandwidth in use (R240, R261) -/

/-- Bytes of a rows × width area at so many bits per pixel, in granules of 128 bytes. -/
def areaBytes (rows w bpp : Nat) : Nat := rows * ceilDiv (w * bpp) 1024 * 128

/-- Bytes per frame that a surface layer reads, by its crop. -/
def surfBytes (fmt cx cy cw ch : Nat) : Nat :=
  if fmt = 3 then ((cx + cw - 1) / 32 + 1 - cx / 32) * ((cy + ch - 1) / 8 + 1 - cy / 8) * 1281
  else areaBytes ch cw (if fmt = 0 then 40 else if fmt = 1 then 32 else 20)

/-- Bytes per second of the live surface layers of a Proscenium; those of a gang count once, at its base (R240). -/
def State.surfRate (s : State) (p : Nat) : Nat :=
  let T := perOf (s.grpRate (s.proGroup p))
  if T = 0 ∨ s.fld (pgBlend p) PRB_STAT_state = 0 ∨ s.proBase p ≠ p then 0
  else
    let b := s.proBase p
    ((List.range 8).map (fun l =>
      if s.laLv b l LAY_CFG_src = 2 then
        surfBytes (s.laLv b l LAY_SURF_fmt) (s.laLv b l LAY_CROP_cx) (s.laLv b l LAY_CROP_cy)
          (s.laLv b l LAY_CROPS_cw) (s.laLv b l LAY_CROPS_ch)
      else 0)).sum * cueSec / T

/-- The scale of a capture: 1, 2 or 4. -/
def capScale (c : Nat) : Nat := if c = 1 then 2 else if c = 2 then 4 else 1

/-- Width and height of the captured frame. -/
def State.capSize (s : State) (p : Nat) : Nat × Nat :=
  let r := s.proRaster p
  let k := capScale (s.lv (pgBlend (s.proBase p)) CAP_CFG_scale)
  (r.1 / k, r.2.1 / k)

/-- Bytes per second of a capture, of frames of period T. -/
def State.capAt (s : State) (p T : Nat) : Nat :=
  let b := s.proBase p
  if T = 0 ∨ b ≠ p ∨ !s.lbit (pgBlend b) CAP_CFG_en then 0
  else
    let z := s.capSize p
    areaBytes z.2 z.1 (if s.lv (pgBlend b) CAP_CFG_fmt = 0 then 40 else 20) * cueSec
      / (T * (s.lv (pgBlend b) CAP_CFG_div + 1))

/-- Bytes per second of a live capture. -/
def State.capRate (s : State) (p : Nat) : Nat := s.capAt p (perOf (s.grpRate (s.proGroup p)))

/-- PRG_BW.used and PRO_CAPBW.used follow the live configuration, in MB/s. -/
def State.proShow (s : State) : State :=
  let s := s.setFld pgProG PRG_BW_used (((List.range 32).map (fun p => s.surfRate p)).sum / 1000000)
  s.pro.foldl (fun s e => s.setFld (pgBlend e.1) PRO_CAPBW_used (s.capRate e.1 / 1000000)) s

/-! ### Commits becoming live (R243, R247, R255) -/

/-- The words of coefficients of Proscenium p in a store, put in place of those in another. -/
def coefTake (p : Nat) (src dst : Store W32) : Store W32 :=
  let k := fun (e : Nat × W32) => e.1 / 2048 == p
  (src.filter k).foldl (fun d e => Store.put (fun _ => 0) e.1 e.2 d) (dst.filter (fun e => !k e))

/-- The output is enabled or disabled as the live settings say: Off to Starting, or to Off, where the rail carries no source. -/
def State.proLive (s : State) (p : Nat) : State :=
  let b := s.proBase p
  let en := s.lbit (pgBlend b) PRO_OUT_en
  let st := s.fld (pgBlend p) PRB_STAT_state
  let s := s.setBit (pgRas p) PRO_STAT_ganged (s.proGanged p)
  let s := s.setFld (pgRas p) PRO_STAT_member (if s.proGanged p then p % 4 else 0)
  let s := if en ∧ st = 0 then s.setPr p { s.pr p with frame := 0 } |>.setFld (pgBlend p) PRB_STAT_state 1
    else if !en ∧ st ≠ 0 then (s.setPr p { s.pr p with shown := [] }).setFld (pgBlend p) PRB_STAT_state 0 else s
  (List.range 8).foldl (fun s l => s.layLive p l) s

/-- A Proscenium and those that it is, or was, the gang base of. -/
def proReach (p : Nat) : List Nat := if p % 4 = 0 then [p, p + 1, p + 2, p + 3] else [p]

/-- The waiting commits of a Proscenium's pages become live: rasters and layers, blending, and its coefficient sets. A commit
that changes a group's number of banks resets its bank; enabling capture starts the count of frames of every member. -/
def State.proApply (s : State) (p : Nat) : State :=
  let nb := (List.range 4).map (fun g => s.lv (pgBlend p) PRO_FLIP_nb g)
  let cap := s.lbit (pgBlend p) CAP_CFG_en
  let table := s.commitDue (pgRas p)
  let s := match s.coefPend with
    | some c => if table then { s with coef := coefTake p c s.coef } else s
    | none => s
  let s := s.applySlot (pgRas p) .proRas 0
  let s := (List.range 8).foldl (fun s l => s.applySlot (pgLay p) .proLay l) s
  let s := s.applySlot (pgBlend p) .proBlend 0
  let s := (List.range 4).foldl (fun s g =>
    if s.lv (pgBlend p) PRO_FLIP_nb g != nb.getD g 0 then s.setFld (pgBlend p) PRO_FLIP_bank 0 g else s) s
  let s := s.when (s.lbit (pgBlend p) CAP_CFG_en && !cap) (fun s =>
    (s.proMembers p).foldl (fun s m => s.setPr m { s.pr m with capFrames := 0 }) s)
  ((proReach p).foldl (fun s m => s.proLive m) s).proShow

/-- A commit waiting in a layer's slot becomes live at once while the layer or the Proscenium is off; in the other pages while
the Proscenium is off (R243, log entry 56). -/
def State.proApplyOff (s : State) (p l : Nat) : State :=
  if s.fld (pgBlend p) PRB_STAT_state = 0 then s.proApply p
  else if s.laLv p l LAY_CFG_src = 0 then (((s.applySlot (pgLay p) .proLay l).layLive p l)).proShow
  else s

/-! ### The order table (R250 to R252) -/

/-- The positions of an order word, from the bottom. -/
def orderOf (w : Nat) : List Nat := (List.range 8).map (fun i => w / 16 ^ i % 16)

/-- PRO_ORDER meets R250: no position holds 8 to 14, no layer appears twice, and the check word is the complement. -/
def orderOk (w chk : Nat) : Bool :=
  let l := (orderOf w).filter (· != 15)
  l.all (fun x => x < 8) && l.eraseDups.length == l.length && w + chk == 2 ^ 32 - 1

/-- Layer l is the key partner of the layer below it (R254). -/
def State.keyPartner (s : State) (b l : Nat) : Bool := l % 2 == 1 && s.lv (pgBlend b) LAY_BLEND_asrc (l - 1) == 1

/-- The layers drawn, from the bottom. -/
def State.stack (s : State) (p : Nat) : List Nat :=
  let b := s.proBase p
  let l := if s.bit (pgBlend p) PRB_STAT_safe then [0, 1] else (orderOf (s.lv (pgBlend b) PRO_ORDER)).filter (· < 8)
  l.filter (fun l => !s.keyPartner b l)

/-! ### Frame start (R239, R246, R251, R254, R255, R260) -/

/-- The bank after the one shown. -/
def State.nextBank (s : State) (p g : Nat) : Nat :=
  (s.fld (pgBlend p) PRO_FLIP_bank g + 1) % (if s.lv (pgBlend (s.proBase p)) PRO_FLIP_nb g = 1 then 3 else 2)

/-- A group becomes Pending: held and overdue clear (R256). -/
def State.flipPend (s : State) (p g : Nat) : State :=
  ((s.setFld (pgBlend p) PRO_FLIP_pend 1 g).setFld (pgBlend p) PRO_FLIP_held 0 g).setFld (pgBlend p) PRO_FLIP_overdue 0 g

/-- A group of a base and, in a gang, of its members shows a bank: it counts, raises IRQ flip and is Idle, or Pending for the
next frame where it was armed again since the decision (R256). -/
def State.flipTo (s : State) (p g bank : Nat) : State :=
  let s := ((s.setFld (pgBlend p) PRO_FLIP_bank bank g).setFld (pgBlend p) PRO_FLIP_pend 0 g).bump (pgBlend p) PRB_FLIPS_n
  let v := s.pr p
  let s := (s.setPr p { v with rearm := v.rearm.filter (· != g) }).irq (pgBlend p) IRQ_proBlend_flip
  s.when (v.rearm.contains g) (fun s => s.flipPend p g)

/-- The fence that an auto group's last flip stood for (R257). -/
def State.setFlipFence (s : State) (p g f : Nat) : State :=
  s.setPr p { s.pr p with fence := (s.pr p).fence.set g f }

/-- The fence of a group is met (R256). -/
def State.fenceMet (s : State) (p g : Nat) : Bool :=
  (s.fld (pgBlend p) PRO_FENCE g + 2 ^ 32 - s.fld (pgBlend p) PRO_FLIP_TGT g) % 2 ^ 32 < 2 ^ 31

/-- A flip of the Lead is made whatever the own fence reads; one that comes before it counts (R258). An auto group shows its own
fence's bank; before that fence is written the next one (log entry 178). -/
def State.flipLead (s : State) (p g : Nat) : State :=
  let f := s.fld (pgBlend p) PRO_FENCE g
  let last := (s.pr p).fence.getD g 0
  let auto : Bool := s.lv (pgBlend p) PRO_FLIP_auto g == 1
  let early : Bool := if auto then f == last else !s.fenceMet p g
  let s := s.when early (fun s => s.bump (pgBlend p) PRB_PAIR_EARLY_n)
  if auto && !early then (s.setFlipFence p g f).flipTo p g ((f + 2) % 3)
  else (s.when auto (fun s => s.setFlipFence p g ((last + 1) % 2 ^ 32))).flipTo p g (s.nextBank p g)

/-- The flips due at a frame start F are made: the device's own, and those of the Lead. -/
def State.flipsAt (s : State) (p F : Nat) : State :=
  let v := s.pr p
  let s := s.setPr p { v with flips := v.flips.filter (fun e => F < e.1), lead := v.lead.filter (fun e => F < e.1) }
  let s := (v.flips.filter (fun e => e.1 ≤ F)).foldl (fun s e =>
    s.flipTo p e.2.1 (if e.2.2 = 3 then s.nextBank p e.2.1 else e.2.2)) s
  (v.lead.filter (fun e => e.1 ≤ F)).foldl (fun s e => s.flipLead p e.2) s

/-- The order check of a frame (R251), and the safe stack (R252). -/
def State.orderCheck (s : State) (p : Nat) : State :=
  let b := s.proBase p
  let ok := orderOk (s.lv (pgBlend b) PRO_ORDER) (s.lv (pgBlend b) PRO_ORDER_CHK)
  let was := s.bit (pgBlend p) PRB_STAT_order_bad
  let s := (s.setBit (pgBlend p) PRB_STAT_order_bad (!ok)).setBit (pgBlend p) PRB_STAT_safe (!ok || s.lbit (pgBlend b) PRO_OUT_safe)
  if ok then s
  else
    let s := (s.bump (pgBlend p) PRB_SAFE_FR_n).irq (pgBlend p) IRQ_proBlend_safe
    s.when (!was) (fun s => s.err (pgBlend p) 0x094)

/-- Key partners absent or lost at a frame start (R254). -/
def State.keyCheck (s : State) (p : Nat) : State :=
  let b := s.proBase p
  let lost := fun l => s.laLv b l LAY_CFG_src != 0 && s.keyPartner b (l + 1) && s.railAbsent (s.tapRail (layTap b (l + 1)))
  let bad := [0, 2, 4, 6].filter lost
  let s := [0, 2, 4, 6].foldl (fun s l => s.setFld (pgBlend p) LAY_BSTAT_key_lost (bad.contains l).toNat l) s
  s.when (!bad.isEmpty) (fun s => (s.bump (pgBlend p) PRB_KEY_LOST_n).irq (pgBlend p) IRQ_proBlend_key_lost)

/-- The frame at F is captured where capture is on and its turn has come (R259, R260). -/
def State.capStart (s : State) (p F : Nat) : State :=
  let b := s.proBase p
  let v := s.pr p
  if s.lbit (pgBlend b) CAP_CFG_en then
    let turn := v.capFrames % (s.lv (pgBlend b) CAP_CFG_div + 1) = 0
    let h := (s.proSize p).2
    let n := s.fld (pgBlend b) CAP_SEQ_n + (v.caps.filter (fun e => e.2.2 == h)).length
    s.setPr p { v with capFrames := v.capFrames + 1, caps := if turn then v.caps ++ [(n, F, 0)] else v.caps }
  else s

/-- What the rail carries from F + D: the live settings' picture, where it differs from the one before (R247). -/
def State.proCarry (s : State) (p F : Nat) : State :=
  let v := s.pr p
  let e : ProOut := { upt := F + s.proDelay p, fmt := s.proFmt p, group := s.proGroup p, cs := s.lv (pgRas (s.proBase p)) PRO_RASTER_cs }
  let l := (s.proOut p).toList
  s.setPr p { v with shown := if l.any (fun x => { x with upt := e.upt } == e) then l else l ++ [e] }

/-- Composition of an output frame begins at F. A gang's settings are its base's, whose commits apply first. -/
def State.proStart (s : State) (p F : Nat) : State :=
  let s := s.when (s.proBase p != p) (fun s => s.proApply (s.proBase p))
  let s := s.proApply p
  let st := s.fld (pgBlend p) PRB_STAT_state
  if st = 0 then s
  else
    let s := s.when (st == 1) (fun s => (s.setFld (pgBlend p) PRB_STAT_state 2).irq (pgBlend p) IRQ_proBlend_running)
    let s := (List.range 8).foldl (fun s l => (s.layNote p l).layPool p l) s
    let s := ((s.flipsAt p F).orderCheck p).keyCheck p
    let s := s.setPr p { s.pr p with frame := F, lineNo := 0, rows := [], tiles := [], gone := [], rail := [] }
    ((s.proCarry p F).capStart p F).proShow

/-! ### Composition of a line (R226 to R236, R249, R253, R254) -/

/-- A layer is drawn at all: on, not forced transparent, and its live source present, on platform and of the right group. -/
def State.layShown (s : State) (p l : Nat) : Bool :=
  let b := s.proBase p
  let r := s.tapRail (layTap b l)
  let src := s.laLv b l LAY_CFG_src
  let st := s.laFld p l LAY_STAT_state
  (st == layFull || st == layReduced) &&
    (src == 2 || (src == 1 && s.railOn r (s.proGroup p) && s.tapGroup (layTap b l) == s.proGroup p))

/-- The bank a layer reads, and its base and header there (R255). -/
def State.layBank (s : State) (p l : Nat) : Nat :=
  let b := s.proBase p
  if s.lv (pgBlend b) LAY_BLEND_fl_en l = 1 ∧ !s.keyPartner b l then
    s.fld (pgBlend b) PRO_FLIP_bank (s.lv (pgBlend b) LAY_BLEND_fgrp l)
  else 0

def State.layBase (s : State) (p l : Nat) : Nat × Nat :=
  let b := s.proBase p
  match s.layBank p l with
  | 0 => (s.lv64 (pgLay b) LAY_BASE_lo LAY_BASE_hi l, s.lv64 (pgLay b) LAY_ZHDR_lo LAY_ZHDR_hi l)
  | 1 => (s.lv64 (pgBlend b) LAY_BASE1_lo LAY_BASE1_hi l, s.lv64 (pgBlend b) LAY_ZHDR1_lo LAY_ZHDR1_hi l)
  | _ => (s.lv64 (pgBlend b) LAY_BASE2_lo LAY_BASE2_hi l, s.lv64 (pgBlend b) LAY_ZHDR2_lo LAY_ZHDR2_hi l)

/-- None of the granules of an area is among those given. -/
def clear (gone : List Nat) (a n : Nat) : Bool := gone.all (fun g => g + 128 ≤ a / 128 * 128 || a + n ≤ g / 128 * 128)

/-- Where pixel (x, y) of a surface of formats 0 to 2 lies, and for the chroma of an odd pixel of Y422 its right neighbour; for a tile,
its header byte and its slot (R230, R232): addresses with lengths. -/
def State.surfSpans (s : State) (p l x y : Nat) : List (Nat × Nat) :=
  let b := s.proBase p
  let w := s.laLv b l LAY_SWH_w
  let base := (s.layBase p l).1
  let row := base + y * s.laLv b l LAY_STRIDE_bytes
  match s.laLv b l LAY_SURF_fmt with
  | 0 => [(row + 5 * x, 5)]
  | 1 => [(row + 4 * x, 4)]
  | 2 => [(row + 5 * (x / 2), 5), (row + 5 * ((if x % 2 = 1 ∧ x + 1 < w then x + 1 else x) / 2), 5)]
  | _ =>
    let t := y / 8 * (w / 32) + x / 32
    let c := s.loadLE ((s.layBase p l).2 + t) 1
    ((s.layBase p l).2 + t, 1) :: (if c = 0 ∨ 40 < c then [] else [(base + t * 1280, if c < 40 then c * 32 else 1280)])

/-- An area gives its data: its channels serve it, and none of its granules is among those gone (R240, R385). -/
def State.given (s : State) (gone : List Nat) (a n : Nat) : Bool := clear gone a n && (s.lostIn a n).isNone

/-- Pixel (x, y) of a surface; none where a granule it lies in is missing, or it lies outside the surface (log entry 52). -/
def State.surfPx (s : State) (p l : Nat) (gone : List Nat) (x y : Nat) : Option Px :=
  let b := s.proBase p
  let w := s.laLv b l LAY_SWH_w
  let h := s.laLv b l LAY_SWH_h
  let base := (s.layBase p l).1
  let row := base + y * s.laLv b l LAY_STRIDE_bytes
  if w ≤ x ∨ h ≤ y ∨ !(s.surfSpans p l x y).all (fun e => s.given gone e.1 e.2) then none
  else
    match s.laLv b l LAY_SURF_fmt with
    | 0 => some (pxP40 (s.loadLE (row + 5 * x) 5))
    | 1 => some (pxP32 (s.loadLE (row + 4 * x) 4))
    | 2 => some (upChroma w x (fun x => pxY422 (s.loadLE (row + 5 * (x / 2)) 5) x))
    | _ =>
      let t := y / 8 * (w / 32) + x / 32
      some (((ztfTile (s.loadLE ((s.layBase p l).2 + t) 1) (s.loadLE (base + t * 1280) 1280)).getD
        (List.replicate 256 (0, 0, 0, 0))).getD (y % 8 * 32 + x % 32) (0, 0, 0, 0))

/-- The place (row, pixel) in the whole picture of pixel x of row y on rail i of a gang of w rails (R229): a gang of Prosceniums is a
square division (R241) of half the size z each way; how other sources divide theirs no rule says (log entry 173). -/
def gangPlace (square : Bool) (z : Nat × Nat) (w i y x : Nat) : Nat × Nat :=
  if w = 1 then (y, x)
  else if square then (i / 2 * (z.2 / 2) + y, i % 2 * (z.1 / 2) + x)
  else Config.gangPixel w i y x

/-- The components of pixel (x, y) of a picture rebuilt from rows; none where the row that brings it is not among them. -/
def rowPx (place : Nat → Nat → Nat → Nat × Nat) (rows : List LiveRow) (x y : Nat) : Option Px :=
  rows.findSome? (fun r =>
    ((List.range r.px.length).find? (fun i => place r.rail r.row i == (y, x))).map (fun i =>
      let q := r.px.getD i (0, 0, 0)
      ((q.1 % 1024, q.2.1 % 1024, q.2.2 % 1024, 1023) : Px)))

/-- Pixel (x, y) of a live source w pixels wide, from the rows its slots hold; none where the row is not held. A source of 4:2:2 is
brought to 4:4:4 (R227); alpha is 1,023 (R228). -/
def livePx (samp w : Nat) (get : Nat → Option Px) (x : Nat) : Option Px :=
  if samp = 0 then
    if x % 2 = 1 ∧ ((get (x - 1)).isNone ∨ (x + 1 < w ∧ (get (x + 1)).isNone)) then none
    else (get x).map (fun q => upChroma w x (fun i => (get i).getD q))
  else get x

/-- Coefficient n of the loaded sets, or of set 0 (R236). -/
def State.coefOf (s : State) (b set : Nat) (vert : Bool) (phase n : Nat) : Int :=
  if set = 0 then setZero vert phase n
  else toSigned 10 (getBits (Store.get (fun _ => 0) s.coef ((((b * 4 + set) * 2 + vert.toNat) * 64 + phase) * 4 + n / 2)) (n % 2 * 16) 10)

/-- The horizontal taps at a source position. -/
def State.hTaps (s : State) (b set : Nat) (P : Int) : Taps :=
  filterTaps 8 (scaleBase P - 3) (s.coefOf b set false (scalePhase P))

/-- The vertical taps at a source position, for v taps in use. -/
def State.vTaps (s : State) (b set v : Nat) (P : Int) : Taps :=
  let k := scaleBase P
  let ph := scalePhase P
  if v = 6 then filterTaps 6 (k - 2) (s.coefOf b set true ph)
  else if v = 4 then filterTaps 4 (k - 1) (fun n => (catmull ph).getD n 0)
  else if v = 2 then filterTaps 2 k (fun n => if n = 0 then 256 - 4 * ph else 4 * ph)
  else [((P + 32768).fdiv 65536, 256)]

/-- Where a layer lies at raster row y: its own row there, with the source rows that enter it. -/
def State.layRows (s : State) (p l y : Nat) : Option Taps :=
  let b := s.proBase p
  let c := s.layCrop p l
  let dh := s.laLv b l LAY_DSTS_dh
  let j : Int := y - toSigned 16 (s.laLv b l LAY_DST_dy)
  if 0 ≤ j ∧ j < dh then
    some ((s.vTaps b (s.laLv b l LAY_CFG_vset) (vtapsOf (s.laFld p l LAY_STAT_vtaps)) (scalePos c.2.1 c.2.2.2 dh j.toNat)).map
      (fun e => ((cropEdge c.2.1 c.2.2.2 e.1 : Int), e.2)))
  else none

/-- The source columns that enter raster column x of a layer. -/
def State.layCols (s : State) (p l x : Nat) : Option Taps :=
  let b := s.proBase p
  let c := s.layCrop p l
  let dw := s.laLv b l LAY_DSTS_dw
  let i : Int := x - toSigned 16 (s.laLv b l LAY_DST_dx)
  if 0 ≤ i ∧ i < dw then
    some ((s.hTaps b (s.laLv b l LAY_CFG_hset) (scalePos c.1 c.2.2.1 dw i.toNat)).map
      (fun e => ((cropEdge c.1 c.2.2.1 e.1 : Int), e.2)))
  else none

/-- The uptime from which raster row y is drawn: during the rail line before its own (R249). -/
def State.rowInstant (s : State) (p y : Nat) : Nat :=
  let N := (s.proRaster p).2.2.1
  (s.pr p).frame + s.proDelay p + (Config.firstActive N + y - 1) * perOf (s.grpRate (s.proGroup p)) / N

/-- The place in a layer's whole source of a pixel of the rows its rails bring. -/
def State.layPlace (s : State) (p l i y x : Nat) : Nat × Nat :=
  let b := s.proBase p
  gangPlace (decide (2304 ≤ s.tapRail (layTap b l))) (s.laySource p l) (gangWidth (s.laLv b l LAY_CFG_gang)) i y x

/-- The rows a layer's slots hold at an instant: the most recent L / s that have ended (R249), newest first. A row of a gang is held in the parts
its rails brought. -/
def State.layHeld (s : State) (p l at_ : Nat) : List LiveRow :=
  let n := s.laFld p l LAY_STAT_held / (if 4096 < (s.layCrop p l).2.2.1 then 2 else 1)
  let rows := (s.ly p l).rows.filter (fun r => r.upt ≤ at_)
  if gangWidth (s.laLv (s.proBase p) l LAY_CFG_gang) = 1 then rows.take n
  else
    let whole := fun (r : LiveRow) => (s.layPlace p l r.rail r.row 0).1
    let kept := ((rows.map whole).eraseDups).take n
    rows.filter (fun r => kept.contains (whole r))

/-- The rows that have ended on a layer's tap are taken into its slots, by the instant of the line to be drawn (R249). -/
def State.layTake (s : State) (p l at_ : Nat) (new : List LiveRow) : State :=
  let v := s.ly p l
  let s := s.setLy p l { v with rows := new ++ v.rows }
  s.setLy p l { v with rows := (new ++ v.rows).filter (fun r => at_ < r.upt) ++ s.layHeld p l at_ }

/-- The granules of surfaces that give a line no data: late, bad as the DRAM read them, or bad as they stand (R240). -/
def State.layGone (s : State) (inp : LayIn) : List Nat :=
  inp.late ++ inp.bad ++ (s.errIn 0 (2 ^ 48)).filter (fun g => (s.readGranule (placeOf g).ch g []).bad)

/-- Pixel (x, y) of a layer's source, at the instant of a line; gone, the granules without data. -/
def State.layPx (s : State) (p l at_ : Nat) (gone : List Nat) (x y : Nat) : Option Px :=
  let b := s.proBase p
  if s.laLv b l LAY_CFG_src = 2 then s.surfPx p l gone x y
  else livePx (((s.tapFmt (layTap b l)).map (·.samp)).getD 0) (s.laySource p l).1
    (fun x => rowPx (s.layPlace p l) (s.layHeld p l at_) x y) x

/-- Raster pixel (x, y) of a layer: scaled vertically, then horizontally; none where it is transparent. -/
def State.layAt (s : State) (p l at_ : Nat) (gone : List Nat) (x y : Nat) : Option Px :=
  if !s.layShown p l then none
  else
    match s.layRows p l y, s.layCols p l x with
    | some vr, some hc =>
      filterPx (hc.map (fun h => (h.2, filterPx (vr.map (fun v => (v.2, s.layPx p l at_ gone h.1.toNat v.1.toNat))))))
    | _, _ => none

/-- The composed raster pixel (x, y): the background, then each layer of the stack over it. -/
def State.composePx (s : State) (p at_ : Nat) (gone : Nat → List Nat) (x y : Nat) : Px :=
  let b := s.proBase p
  let g := s.lv (pgRas b) PRO_BG
  let ycc := s.lbit (pgBlend b) PRO_OUT_ycc
  (s.stack p).foldl (fun d l =>
    match s.layAt p l at_ (gone l) x y with
    | none => d
    | some c =>
      let ap := match s.lv (pgBlend b) LAY_BLEND_asrc l with
        | 1 => match s.layAt p (l + 1) at_ (gone (l + 1)) x y with
          | none => 0
          | some k => keyAlpha (s.lv (pgBlend b) LAY_KEY_lo l) (s.lv (pgBlend b) LAY_KEY_hi l) k.1
        | 2 => s.lv (pgBlend b) LAY_BLEND_kconst l
        | _ => c.2.2.2
      blendPx ycc (s.lbit (pgBlend b) LAY_BLEND_pm l) (s.lv (pgBlend b) LAY_BLEND_alpha l) ap c d)
    (g % 1024, g / 1024 % 1024, g / 1048576 % 1024, 1023)

/-! ### What the line reports (R234, R240, R249) -/

/-- A live layer misses a row at this line. -/
def State.rowMissing (s : State) (p l at_ y : Nat) : Bool :=
  s.laLv (s.proBase p) l LAY_CFG_src == 1 && s.layShown p l &&
    (match s.layRows p l y with
      | some v =>
        let have_ := (s.layHeld p l at_).map (fun r => (s.layPlace p l r.rail r.row 0).1)
        v.any (fun e => !have_.contains e.1.toNat)
      | none => false)

/-- The source columns that a line of a layer reads, as composed here. -/
def State.lineCols (s : State) (p l : Nat) : List Nat :=
  let x0 := (s.proOrigin p).1
  (((List.range (s.proSize p).1).flatMap (fun x => (s.layCols p l (x0 + x)).getD [])).map (fun e => e.1.toNat)).eraseDups

/-- The granules that a line of a surface layer reads and that do not simply give their data: lost ones, and those whose stored form
has an error pattern (R240, R385, R391). -/
def State.oddGranules (s : State) (p l y : Nat) : List Nat :=
  let rows := ((s.layRows p l y).getD []).map (fun e => e.1.toNat)
  let spans := rows.flatMap (fun r => (s.lineCols p l).flatMap (fun c => s.surfSpans p l c r))
  spans.filterMap (fun e => s.lostIn e.1 e.2) ++
    (s.errIn 0 (2 ^ 48)).filter (fun g => spans.any (fun e => !clear [g] e.1 e.2))

/-- The tiles of a ZTF layer that a line reads and finds invalid. -/
def State.badTiles (s : State) (p l y : Nat) (gone : List Nat) : List Nat :=
  let b := s.proBase p
  if s.laLv b l LAY_CFG_src = 2 ∧ s.laLv b l LAY_SURF_fmt = 3 ∧ s.layShown p l then
    let w := s.laLv b l LAY_SWH_w
    let cols := (s.lineCols p l).map (· / 32)
    let rows := ((s.layRows p l y).getD []).map (fun e => e.1.toNat / 8)
    let ts := rows.eraseDups.flatMap (fun r => cols.eraseDups.map (fun c => r * (w / 32) + c))
    ts.filter (fun t =>
      let hdr := (s.layBase p l).2 + t
      let slot := (s.layBase p l).1 + t * 1280
      s.given gone hdr 1 && s.given gone slot 1280 &&
        (ztfTile (s.loadLE hdr 1) (s.loadLE slot 1280)).isNone)
  else []

/-- A layer's reports for the line at raster row y: a late line; uncorrectable granules, each once a frame (log entry 179); and invalid
tiles. -/
def State.layReport (s : State) (p l at_ y : Nat) (inp : LayIn) : State :=
  let surf := s.laLv (s.proBase p) l LAY_CFG_src == 2
  let used := surf && s.layShown p l && (s.layRows p l y).isSome
  let late := used && !inp.late.isEmpty
  let odd := if used then (inp.bad.map granuleOf ++ s.oddGranules p l y).eraseDups else []
  let tiles := s.badTiles p l y (s.layGone inp)
  let s := s.when (late || s.rowMissing p l at_ y) (fun s => s.bump (pgLay p) LAY_LATE_n 1 l)
  let s := s.when late (fun s => s.laIrq p l 2)
  let s := odd.foldl (fun s a =>
    if (s.pr p).gone.contains (l, a) then s
    else
      let bad := inp.bad.any (granuleOf · == a)
      let s := (s.setPr p { s.pr p with gone := (l, a) :: (s.pr p).gone }).granuleSeen (0x80 + p) a bad
      if s.granuleBad a bad then ((s.bump (pgLay p) LAY_MEM_ERR_n 1 l).err (pgLay p) 0x090 (some accMediaRead) (some a)).laIrq p l 2 else s) s
  tiles.foldl (fun s t =>
    if (s.pr p).tiles.contains (l, t) then s
    else
      let s := s.setPr p { s.pr p with tiles := (l, t) :: (s.pr p).tiles }
      ((s.bump (pgLay p) LAY_MEM_ERR_n 1 l).err (pgLay p) 0x092 none (some ((s.layBase p l).2 + t))).laIrq p l 2) s

/-! ### The rail and the capture (R227, R259) -/

/-- A composed line as the rail carries it; left is the pixel left of it in the raster, if any. -/
def railWords (smp : Nat) (left : Option Px) (l : List Px) : List (List Nat) :=
  (List.range l.length).map (fun x =>
    let p := l.getD x (0, 0, 0, 0)
    if smp = 1 then [p.1, p.2.1, p.2.2.1]
    else if x % 2 = 1 then [p.1]
    else
      let lf := if x = 0 then left else some (l.getD (x - 1) p)
      let r := l.getD (x + 1) p
      [p.1, downChroma lf p r 1, downChroma lf p r 2])

/-- The mean of a k × k block of the lines given, to nearest with ties up, component by component. -/
def blockMean (k : Nat) (rows : List (List Px)) (x : Nat) : Px :=
  let ps := rows.flatMap (fun r => (r.drop (x * k)).take k)
  let f := fun n => ((ps.map (fun p => p.comp n)).sum * 2 + k * k) / (2 * (k * k))
  (f 0, f 1, f 2, 1023)

/-- The bytes of a captured row; left is the pixel left of it in the captured frame, if any. -/
def capBytes (fmt : Nat) (left : Option Px) (l : List Px) : List Byte :=
  if fmt = 0 then l.flatMap (fun p => bytesLE 5 (p40Of p))
  else (List.range (l.length / 2)).flatMap (fun i =>
    let a := l.getD (2 * i) (0, 0, 0, 0)
    let b := l.getD (2 * i + 1) a
    let lf := if i = 0 then left else l[2 * i - 1]?
    bytesLE 5 (downChroma lf a b 1 + a.1 * 1024 + downChroma lf a b 2 * 1048576 + b.1 * 1073741824))

/-- The line is taken by the capture in progress: with each k-th line a row is written to the frame's bank. A line of a member to the right
in its gang comes with the k pixels left of it. -/
def State.capLine (s : State) (p : Nat) (before line : List Px) : State :=
  let b := s.proBase p
  let v := s.pr p
  match v.caps.find? (fun e => e.2.1 == v.frame) with
  | none => s
  | some (n, F, done) =>
    let k := capScale (s.lv (pgBlend b) CAP_CFG_scale)
    let fmt := s.lv (pgBlend b) CAP_CFG_fmt
    let rows := (before ++ line) :: v.rows
    let full := rows.length = k
    let o := s.proOrigin p
    let n0 := before.length / k
    let all := (List.range ((before ++ line).length / k)).map (fun x => blockMean k rows x)
    let out := all.drop n0
    let addr := s.lv64 (pgBlend b) CAP_BASE_lo CAP_BASE_hi (n % 3)
      + (o.2 / k + done / k) * s.lv (pgBlend b) CAP_STRIDE_bytes + o.1 / k * (if fmt = 0 then 40 else 20) / 8
    let s := s.when full (fun s => s.engineWrite (0xA8 + p) addr (capBytes fmt ((all.take n0).getLast?) out))
    s.setPr p { v with rows := if full then [] else rows,
                       caps := v.caps.map (fun e => if e.2.1 == F then (n, F, done + 1) else e) }

/-- Where row y of the raster goes on the rail: its field, and its line there; an interlaced raster is divided into fields only on
output (R226, R246). -/
def State.railPlace (s : State) (p y : Nat) : Nat × Nat :=
  let r := s.proRaster p
  if r.2.2.2 then ((y + Config.topField r.2.2.1) % 2, y / 2) else (0, y)

/-- The next line of the frame is composed, once its instant has come (R249). -/
def State.proLine (s : State) (p : Nat) (ins : List LayIn) : State :=
  let v := s.pr p
  let z := s.proSize p
  let o := s.proOrigin p
  let y := o.2 + v.lineNo
  let t := s.rowInstant p y
  if s.fld (pgBlend p) PRB_STAT_state ≠ 2 ∨ z.2 ≤ v.lineNo ∨ s.now + 16 ≤ t then s
  else
    let inp := fun l => ins.getD l ⟨[], [], []⟩
    let s := (List.range 8).foldl (fun s l => s.layTake p l t (inp l).rows) s
    let px := fun x => s.composePx p t (fun l => s.layGone (inp l)) x y
    let line := (List.range z.1).map (fun x => px (o.1 + x))
    let before := (List.range (min o.1 4)).map (fun x => px (o.1 - min o.1 4 + x))
    let words := railWords (s.lv (pgRas (s.proBase p)) PRO_RASTER_smp) before.getLast? line
    let at_ := s.railPlace p y
    let s := (List.range 8).foldl (fun s l => s.layReport p l t y (inp l)) s
    let s := s.setPr p { s.pr p with line := line, lineNo := v.lineNo + 1, rail := (s.pr p).rail ++ [(at_.1, at_.2, words)] }
    s.capLine p before line

/-! ### Flips (R256 to R258) -/

/-- An arm of a group (R256): ignored in auto mode; from Idle the group becomes Pending; while Pending the target is what
PRO_FLIP_TGT holds, and one after a flip's decision counts for the next frame. -/
def State.flipArm (s : State) (p g : Nat) : State :=
  let v := s.pr p
  if s.lv (pgBlend p) PRO_FLIP_auto g = 1 then s
  else if s.fld (pgBlend p) PRO_FLIP_pend g = 0 then s.flipPend p g
  else if v.flips.any (fun e => e.2.1 == g) || v.lead.any (fun e => e.2 == g) then
    s.setPr p { v with rearm := (g :: v.rearm).eraseDups }
  else s

/-- A flip is decided for the frame start F, or on the Lead for the first frame start that R357 admits, and journaled. -/
def State.flipDecide (s : State) (p g F bank : Nat) : State :=
  let F' := if F < s.earliest then s.grpNext (s.proGroup p) s.earliest else F
  let v := s.pr p
  (s.setPr p { v with flips := v.flips ++ [(F', g, bank)],
                      fence := v.fence.set g (s.fld (pgBlend p) PRO_FENCE g) }).journal F' (.flip p g)

/-- The decision of one group before the frame start F. -/
def State.flipGroup (s : State) (p F g : Nat) : State :=
  let v := s.pr p
  if v.flips.any (fun e => e.2.1 == g) then s
  else if s.lv (pgBlend p) PRO_FLIP_auto g = 1 then
    let f := s.fld (pgBlend p) PRO_FENCE g
    if f = v.fence.getD g 0 then s else s.flipDecide p g F ((f + 2) % 3)
  else if s.fld (pgBlend p) PRO_FLIP_pend g = 0 then s
  else if s.fenceMet p g then s.flipDecide p g F 3
  else
    let h := s.fld (pgBlend p) PRO_FLIP_held g + 1
    let s := (s.setFld (pgBlend p) PRO_FLIP_held (min h 255) g).bump (pgBlend p) PRB_HOLD_n
    if s.lv (pgBlend p) PRO_FLIP_CTL_maxhold < h ∧ s.fld (pgBlend p) PRO_FLIP_overdue g = 0 then
      ((s.setFld (pgBlend p) PRO_FLIP_overdue 1 g).bump (pgBlend p) PRB_OVERDUE_n).irq (pgBlend p) IRQ_proBlend_overdue
    else s

/-! ### Capture (R260) -/

/-- Every member of the capturing gang has written all of a frame. -/
def State.capWhole (s : State) (p F : Nat) : Bool :=
  (s.proMembers p).all (fun m => (s.pr m).caps.any (fun e => e.2.1 == F && e.2.2 == (s.proSize m).2))

/-- The capture of a frame ends at every member. -/
def State.capEnd (s : State) (p F : Nat) : State :=
  (s.proMembers p).foldl (fun s m => s.setPr m { s.pr m with caps := (s.pr m).caps.filter (fun e => e.2.1 != F) }) s

/-! ### The commands -/

/-- PRO_FRAME_START (R239, R246): the rail instant of the output group lies in this TICK. -/
def execProFrameStart (p : Fin 32) (s : State) : Out := runRails s fun s =>
  let g := s.proGroup p
  let F := s.grpNext g s.now
  if s.fld (pgBlend p) PRB_STAT_state ≠ 0 ∧ F < s.now + 16 then s.proStart p F else s

/-- PRO_LINE_COMPOSE (R249). -/
def execProLineCompose (p : Fin 32) (layers : List LayIn) (s : State) : Out := run s fun s => s.proLine p layers

/-- FLIP_ARM (R256): a write of PRO_FLIP[g] with arm set, its other bits as they stand. -/
def execFlipArm (a : Acc) (p : Fin 32) (g : Fin 4) (s : State) : Out :=
  let addr := pgBlend p + PRO_FLIP_arm.at g
  run s fun s => s.viaPath a addr fun s =>
    let o := addr - pgBlend p
    let r := s.storeWord a (pgBlend p) .proBlend p o (s.compose (pgBlend p) .proBlend o (setBits (s.word addr) 0 1 1))
    if r.ok && r.eff.getLsbD 0 then r.s.flipArm p g else r.s

/-- FLIP_DECISION (R256): 52,920 cues before the next rail instant. The groups of a gang are its base's; a device that follows
the Lead makes no decision of its own (R355). -/
def execFlipDecision (p : Fin 32) (s : State) : Out := run s fun s =>
  let F := s.grpNext (s.proGroup p) (s.now + 52920)
  if s.fld (pgBlend p) PRB_STAT_state ≠ 0 ∧ s.proBase p = p ∧ F < s.now + 52920 + 16 ∧ !s.follows then
    (List.range 4).foldl (fun s g => s.flipGroup p F g) s
  else s

/-- CAPTURE_DONE (R260): the last row of the oldest capture is written. -/
def execCaptureDone (p : Fin 32) (s : State) : Out := run s fun s =>
  match (s.pr p).caps with
  | (n, F, _) :: _ =>
    if s.proBase p = p ∧ s.capWhole p F then
      let s := (s.capEnd p F).setFld (pgBlend p) CAP_SEQ_n (n + 1)
      let s := (s.bump (pgBlend p) CAP_FRAMES_n).irq (pgBlend p) IRQ_proBlend_cap_done
      s.when (s.lbit (pgBlend p) CAP_CFG_fence_en) (fun s =>
        s.setFld (pgBlend (s.lv (pgBlend p) CAP_CFG_fpro)) PRO_FENCE (n + 1) (s.lv (pgBlend p) CAP_CFG_fgrp))
    else s
  | [] => s

/-- CAPTURE_ABANDON (R260): the rail frame after the oldest capture has started, and it is not fully written. -/
def execCaptureAbandon (p : Fin 32) (s : State) : Out := run s fun s =>
  match (s.pr p).caps with
  | (_, F, _) :: _ =>
    if s.proBase p = p ∧ !s.capWhole p F ∧ F + perOf (s.grpRate (s.proGroup p)) + s.proDelay p < s.now + 16 then
      (((s.capEnd p F).bump (pgBlend p) CAP_DROP_n).err (pgBlend p) 0x095).irq (pgBlend p) IRQ_proBlend_cap_drop
    else s
  | [] => s

/-- The place of data word n of the coefficient window's set, direction and phase. -/
def State.coefKey (s : State) (p n : Nat) : Nat :=
  (((p * 4 + s.fld (pgRas p) PRO_CF_ADDR_set) * 2 + s.fld (pgRas p) PRO_CF_ADDR_vert) * 64
    + s.fld (pgRas p) PRO_CF_ADDR_phase) * 4 + n

/-- Copies the staging coefficients of the window's place to the window; set 0 reads the built-in set (R236, R243). -/
def State.coefLoad (s : State) (p : Nat) : State :=
  (List.range 4).foldl (fun s n =>
    let w : W32 :=
      if s.fld (pgRas p) PRO_CF_ADDR_set = 0 then
        let f := fun k => ofSigned 10 (setZero (s.bit (pgRas p) PRO_CF_ADDR_vert) (s.fld (pgRas p) PRO_CF_ADDR_phase) k)
        setBits (setBits 0 0 10 (f (2 * n))) 16 10 (f (2 * n + 1))
      else Store.get (fun _ => 0) s.coefStage (s.coefKey p n)
    s.setWord (pgRas p + PRO_CF_DATA_even.at n) w) s

/-- Where the stores mark that a set of Proscenium p has been loaded, among the places of set 0, which is built in (R236). -/
def coefMark (p set : Nat) : Nat := p * 2048 + set

/-- Copies the window to the staging coefficients; set 0 is ignored. -/
def State.coefStore (s : State) (p : Nat) : State :=
  let set := s.fld (pgRas p) PRO_CF_ADDR_set
  if set = 0 then s
  else (List.range 4).foldl (fun s n =>
    { s with coefStage := Store.put (fun _ => 0) (s.coefKey p n) (s.word (pgRas p + PRO_CF_DATA_even.at n)) s.coefStage })
    { s with coefStage := Store.put (fun _ => 0) (coefMark p set) 1 s.coefStage }

/-- A write of PRO_CF_CTL: store first, then load (log entry 13). -/
def State.coefHook (s : State) (p : Nat) (eff : W32) : State :=
  (s.when (eff.getLsbD 1) (fun s => s.coefStore p)).when (eff.getLsbD 0) (fun s => s.coefLoad p)

/-- A write of PRO_CF_CTL. -/
def State.coefWrite (s : State) (a : Acc) (p : Nat) (w : W32) : State :=
  let r := s.storeWord a (pgRas p) .proRas p 0x114 w
  if r.ok then r.s.coefHook p r.eff else r.s

/-- COEF_LOAD (R243). -/
def execCoefLoad (a : Acc) (p : Fin 32) (s : State) : Out :=
  run s fun s => s.viaPath a (pgRas p + 0x114) fun s => s.coefWrite a p 1

/-- COEF_STORE (R243): a privileged write. -/
def execCoefStore (a : Acc) (p : Fin 32) (s : State) : Out :=
  run s fun s => s.viaPath a (pgRas p + 0x114) fun s => s.coefWrite a p 2

/-- What follows a write to a Proscenium page: arms, the coefficient window, and a capture's fence that the write met (R262): it is
discarded, and made again at the next TICK. -/
def State.proHook (s : State) (k : PageKind) (p o : Nat) (eff : W32) (hw : Option W32 := none) : State :=
  match k with
  | .proRas => if o = 0x114 then s.coefHook p eff else s
  | .proBlend =>
    if 0x130 ≤ o ∧ o < 0x140 then
      match hw with
      | some h => { s with again := s.again ++ [(pgBlend p + o, h)] }
      | none => s
    else
    if 0x110 ≤ o ∧ o < 0x130 ∧ o % 8 = 0 ∧ eff.getLsbD 0 then s.flipArm p ((o - 0x110) / 8) else s
  | _ => s

end Sys2Proof.Machine
end

