-- ==== Sys2Proof/Machine/Sdi.lean ====
section
/-!
DEFINITION. SDI framing (R87 to R106): deframers, link groups, ancillary packets, embedded audio and timecode, and the
formatters.
-/
namespace Sys2Proof.Machine

/-! ### Link groups (R90, R91) -/

/-- The lanes of the group of base b. -/
def State.groupLanes (s : State) (b : Nat) : List Nat := (List.range (s.defWidth b)).map (b + ·)

/-- The link number of a lane of the group of base b: its payload ID's, or its place without one. -/
def State.linkNo (s : State) (b L : Nat) : Nat := match (s.df L).pid with | some v => Config.pidLink v | none => L - b

/-- Two of the numbers given are equal. -/
def twice (l : List Nat) : Bool := l.eraseDups.length != l.length

/-- A link group fails: a link without a format, two links claiming one number, or EAVs more than 1 µs apart. -/
def State.groupFails (s : State) (b : Nat) : Bool :=
  let l := s.groupLanes b
  l.any (fun L => !s.rxDelivers L || (s.df L).seen.isNone)
    || twice ((l.filter (fun L => (s.df L).pid.isSome)).map (s.linkNo b))
    || l.any (fun x => l.any (fun y => (s.df x).eav + cueUs < (s.df y).eav))

/-- The lanes of a group in the order of their links. -/
def State.linkOrder (s : State) (b : Nat) : List Nat :=
  let l := s.groupLanes b
  (List.range l.length).filterMap (fun n =>
    l.find? (fun L => (l.filter (fun x => s.linkNo b x < s.linkNo b L || (s.linkNo b x == s.linkNo b L && x < L))).length == n))

/-! ### Formats (R87, R88, R89) -/

/-- Two pictures disagree on structure or rate. -/
def structDiffers (f g : Fmt) : Bool := f.rate != g.rate || f.lines != g.lines || f.px != g.px || f.intl != g.intl

/-- The payload ID or RXF_DFLT whose attributes are in force on base b. -/
def State.attrNow (s : State) (b : Nat) : W32 := (s.df b).pid.getD (s.lword (pgDef b + RXF_DFLT_pid.off))

/-- The picture of measured structure m with the attributes that a payload ID gives. -/
def pictureOf (m : Measured) (pid : W32) : Fmt := withIface { m.fmt with samp := Config.pidSamp pid % 3 } pid

/-- pid_mismatch follows the payload ID; 0x030 is captured once for each established format. -/
def State.pidCheck (s : State) (b : Nat) (m : Measured) : State :=
  let p := pgDef b
  let mis := match (s.df b).pid.bind Config.pidFormat with | some g => structDiffers g m.fmt | none => false
  let s := s.setBit p RXF_STAT_pid_mismatch mis
  if mis && !(s.df b).misSeen then (s.setDf b { s.df b with misSeen := true }).err p 0x030 else s

/-- The payload ID of base b came, changed or went while its format is established: the attributes follow it, and with them the
picture. -/
def State.pidChanged (s : State) (b : Nat) : State :=
  match (s.df b).fmt, (s.df b).last with
  | some f, some m =>
    let g := pictureOf m (s.attrNow b)
    let s := (s.setDf b { s.df b with fmt := some g, attr := s.attrNow b }).pidCheck b m
    if g = f then s else s.srcAttr b g
  | _, _ => s

/-- A payload ID is received on lane L. -/
def State.pidIn (s : State) (L : Nat) (pid : W32) : State :=
  let b := s.defBase L
  let s := s.setDf L { s.df L with pid := some pid, pidNow := true }
  if L = b then (s.setWord (pgDef b + RXF_PID_val.off) pid).pidChanged b else s

/-- A format of structure m is established on base b, the first frame being ready at uptime t. The measured structure governs; the
payload ID, or RXF_DFLT, gives the attributes. -/
def State.fmtFound (s : State) (b : Nat) (m : Measured) (t : Nat) : State :=
  let p := pgDef b
  let f := pictureOf m (s.attrNow b)
  let s := s.setDf b { s.df b with width := s.defWidth b, order := s.linkOrder b, attr := s.attrNow b, misSeen := false }
  let s := (s.groupLanes b).foldl (fun s L => s.setDf L { s.df L with last := (s.df L).seen, stray := 0, other := false }) s
  let s := s.setDf b { s.df b with fmt := some f }
  let s := (s.setBit p RXF_STAT_fmt true).setBit p RXF_STAT_link_fault false
  let s := ((s.setFld p RXF_STRUCT_words m.words).setFld p RXF_STRUCT_lines m.lines).setBit p RXF_STRUCT_intl m.fmt.intl
  ((s.irq p IRQ_defr_fmt).pidCheck b m).srcFmt b t f false

/-- The frames of one structure in a row that base b needs (R87): two, or one where every lane of the group repeats its format last
established; after a link fault two without a fault (R91). -/
def State.fmtReady (s : State) (b : Nat) : Bool :=
  let l := s.groupLanes b
  let need := if l.all (fun L => (s.df L).last == (s.df L).seen) then 1 else 2
  l.all (fun L => need ≤ (s.df L).run) && (!s.bit (pgDef b) RXF_STAT_link_fault || 2 ≤ (s.df b).sound)

/-- The deframer of lane L looks for a format. -/
def State.fmtSeen (s : State) (L t : Nat) : State :=
  if s.defBase L ≠ L ∨ (s.df L).fmt.isSome ∨ !s.rxDelivers L then s
  else if 1 < s.defWidth L ∧ s.groupFails L then s.linkFail L
  else
    match (s.df L).seen with
    | some m => if s.fmtReady L then s.fmtFound L m t else s
    | none => s

/-- A lane of the group of base b has lost its format (R87): two timing references in a row at unexpected positions, or a whole frame
of another structure. -/
def State.linkLost (s : State) (b : Nat) : Bool := (s.groupLanes b).any (fun L => 2 ≤ (s.df L).stray || (s.df L).other)

/-- The format that serves lane L is lost, where the lanes of its group show that it is. -/
def State.fmtGone (s : State) (L : Nat) : State :=
  let b := s.defBase L
  let group := 1 < s.defWidth b && s.groupFails b
  if (s.df b).fmt.isSome && (s.linkLost b || group) then
    let s := ((s.fmtEnds b).irq (pgDef b) IRQ_defr_fmt_loss).srcFmtLost b
    s.when (1 < s.defWidth b) (fun s => s.linkFail b)
  else s

/-- The interface of a link of lane L's group is SD; HD, which carries 16 channels. -/
def State.defSd (s : State) (b : Nat) : Bool := match (s.df b).fmt with | some f => listedRate f == some 0 | none => false
def State.defHd (s : State) (b : Nat) : Bool := match (s.df b).fmt with | some f => ifaceRate f == (s.df b).width | none => false

/-- The links of base b carry two streams in the dual-stream mapping of 3G level B (R89). -/
def State.dualStream (s : State) (b : Nat) : Bool :=
  (match (s.df b).fmt with | some f => ifaceRate f == 2 * (s.df b).width | none => false) && Config.pidDualStream (s.df b).attr

/-! ### Lines (R87, R89, R92, R93, R94) -/

/-- The frame that a lane has received ends, amounting to a picture: its structure is compared with the one before and with the
established one; a payload ID that it did not carry is no longer present. -/
def Deframer.frameEnd (v : Deframer) (pic : Fmt) : Deframer :=
  let m : Option Measured := if v.line = 0 ∨ !v.even then none else some { words := v.words, sav := v.sav, lines := v.line, fmt := pic }
  { v with seen := m, run := if m.isNone then 0 else if m = v.seen then v.run + 1 else 1, other := v.line != 0 && m != v.last,
           pid := if v.pidNow then v.pid else none, pidNow := false, line := 0, grpLast := v.grpNow, grpNow := 0 }

/-- Consecutive timing references at unexpected positions after this line's EAV and SAV; two in a row stay two. -/
def Deframer.astray (v : Deframer) (x : SdiLine) : Nat :=
  match v.last with
  | some m =>
    let a := if x.eav = m.words then 0 else v.stray + 1
    if 2 ≤ v.stray ∨ 2 ≤ a then 2 else if x.eav + x.sav = m.words + m.sav then 0 else a + 1
  | none => 0

/-- A line enters the measurement of its frame: the own count moves on. -/
def Deframer.lineIn (v : Deframer) (x : SdiLine) (upt : Nat) : Deframer :=
  let first := x.ended.isSome
  if v.line = 0 ∧ !first then { v with stray := v.astray x }
  else
    { v with line := v.line + 1, words := if first then x.eav else v.words, sav := if first then x.sav else v.sav,
             even := first || (v.even && x.eav == v.words && x.sav == v.sav), stray := v.astray x,
             eav := if first then upt else v.eav }

/-- The EDH findings of a field of the frame being received on rail r ride with the frame. -/
def State.edhCarry (s : State) (r field flags : Nat) : State :=
  let b := s.ptBase r
  let v := s.pt b
  let put := fun (l : List (Nat × Nat)) => l.filter (fun e => e.1 != field) ++ [(field, flags)]
  match v.frames.reverse with
  | fr :: t => s.setPt b { v with frames := (({ fr with edh := put fr.edh } : ReadyFrame) :: t).reverse }
  | [] =>
    let s := s.setPt b { v with edh := put v.edh }
    s.syn.foldl (fun s e =>
      let u := s.sy e.1
      match u.ring with
      | fr :: t => if u.writing ∧ s.synRail e.1 = b then s.setSy e.1 { u with ring := { fr with edh := put fr.edh } :: t } else s
      | [] => s) s

/-- The checks of a line with an established format (R92, R93): line CRCs and the embedded number against the own count above SD,
EDH in SD. -/
def State.lineCheck (s : State) (L b : Nat) (x : SdiLine) : State :=
  let p := pgDef b
  let own := (s.df L).line
  if s.defSd b then
    match x.edh with
    | some e =>
      let s := (s.bump p RXF_EDH_ERR_n (e.apBad.toNat + e.ffBad.toNat)).setFld p RXF_STAT_edh_flags e.flags
      let field := match (s.df b).last with | some m => (decide (m.lines < 2 * own)).toNat | none => 0
      s.edhCarry b field (e.apBad.toNat * 2 + e.ffBad.toNat * 4 + e.held % 8 * 8)
    | none => s
  else
    let s := s.when x.crcBad (fun s => s.bump p RXF_CRC_ERR_n)
    s.when (own != 0 && x.num != own) (fun s => s.bump p RXF_LN_ERR_n)

/-- A line received on lane L, its EAV at uptime upt, enters the measurement. A frame that ends with it counts for the group (R91), and
one of stream 2 of a dual-stream link is discarded (R89). -/
def State.lineMeasured (s : State) (L : Nat) (x : SdiLine) (upt : Nat) : State :=
  let b := s.defBase L
  let s := match x.ended with
    | some pic =>
      let gone := (s.df L).pid.isSome && !(s.df L).pidNow
      let s := s.setDf L ((s.df L).frameEnd pic)
      let s := s.when (gone && L == b) (fun s => s.pidChanged b)
      let s := s.when (L == b && 1 < s.defWidth b) (fun s =>
        s.setDf b { s.df b with sound := if s.groupFails b then 0 else (s.df b).sound + 1 })
      s.when (s.dualStream b) (fun s => s.bump (pgDef b) RXF_DROP_STREAM_n)
    | none => s
  s.setDf L ((s.df L).lineIn x upt)

/-- A line is received on lane L: measured, and with an established format checked. -/
def State.sdiLine (s : State) (L : Nat) (x : SdiLine) (upt : Nat) : State :=
  let b := s.defBase L
  if !s.rxDelivers L then s
  else
    let s := s.lineMeasured L x upt
    if (s.df b).fmt.isNone then s else s.lineCheck L b x

/-! ### Ancillary packets (R95, R98, R99, R102) -/

/-- A packet of rail r is carried with the frame its source is receiving, which waits in the berths or is on the rail. -/
def State.ancCarry (s : State) (r : Nat) (k : AncPkt) : State :=
  let b := s.ptBase r
  let v := s.pt b
  match v.frames.reverse with
  | fr :: t => s.setPt b { v with frames := (({ fr with anc := fr.anc ++ [(r - b, k)] } : ReadyFrame) :: t).reverse }
  | [] => (s.setPt b { v with anc := v.anc ++ [(r - b, k)] }).ancOn r k 256

/-- The residency of the frame that rail r is receiving (R154, R155). -/
def State.resNow (s : State) (r : Nat) : Nat :=
  let b := s.ptBase r
  match (s.pt b).frames.getLast? with
  | some fr => fr.res
  | none => s.pst b PLT_RES_cues

/-- A sample arrives at a Pit input. -/
def State.pitPush (s : State) (i stamp w : Nat) : State :=
  let v := s.pin i
  s.setPin i { v with queue := v.queue ++ [(stamp, w % 2 ^ 28)] }

/-- Samples de-embedded from lane L, stamped with the instant at which they appear on the rail (R155); silent where their group is
asynchronous or the packet uncorrectable. -/
def State.audioIn (s : State) (L b : Nat) (l : List (Nat × Nat)) (stamp : Nat) (e : Ecc) : State :=
  let p := pgDef b
  let s := match e with
    | .good => s
    | .fixed => s.bump p RXF_AUD_FIX_n
    | .bad => s.bump p RXF_AUD_BAD_n
  let lim := if s.defHd b then 16 else 32
  let l := l.filter (fun c => c.1 < lim)
  let s := s.setDf L { s.df L with grpNow := l.foldl (fun m c => m ||| 2 ^ (c.1 / 4)) (s.df L).grpNow }
  l.foldl (fun s c =>
    s.pitPush (32 * L + c.1) (stamp + s.resNow b) (if e == .bad || (s.df L).async.testBit (c.1 / 4) then 0 else c.2)) s

/-- An audio control packet marks its group; aud_async shows whether any link of the base has a group so marked. -/
def State.audioControl (s : State) (L b g : Nat) (sync : Bool) : State :=
  let v := s.df L
  let m := if sync then v.async &&& (255 - 2 ^ (g % 8)) else v.async ||| 2 ^ (g % 8)
  let s := s.setDf L { v with async := m }
  s.setBit (pgDef b) RXF_STAT_aud_async ((s.groupLanes b).any (fun x => (s.df x).async != 0))

/-- A timecode set is stored whole; tc_over where the last one was never read. -/
def State.timecode (s : State) (b : Nat) (word : BitVec 64) (type lineUpt : Nat) : State :=
  let p := pgDef b
  let v := s.df b
  let s := s.setFld64 p RXF_TC_lo RXF_TC_hi word.toNat
  let s := (s.setFld p RXF_TC_TYPE_type type).setFld64 p RXF_TC_UPT_lo RXF_TC_UPT_hi lineUpt
  let s := (s.setDf b { v with tcRead := false }).irq p IRQ_defr_tc
  s.when (!v.tcRead) (fun s => s.irq p IRQ_defr_tc_over)

/-- A received packet by its DID and checksum. A payload ID is read whether or not a format is established; stream 2 of a
dual-stream link is discarded (R89). -/
def State.ancIn (s : State) (L : Nat) (k : AncPkt) (body : AncBody) (sumOk : Bool) (lineUpt : Nat) : State :=
  let b := s.defBase L
  let p := pgDef b
  let isPid := k.did = 0x241 ∧ k.sdid = 0x101
  if s.dualStream b ∧ k.stream = 2 then s
  else if isPid ∧ sumOk then match body with | .payloadId v => s.pidIn L v | _ => s
  else if (s.df b).fmt.isNone then s
  else if !sumOk then
    let s := s.bump p RXF_ANC_BAD_n
    s.when (s.lbit p RXF_CFG_anc_keep_bad) (fun s => s.ancCarry L k)
  else if k.did = 0x180 ∨ k.did = 0x1F4 then s
  else match body with
    | .timecode w t =>
      if k.did = 0x260 ∧ k.sdid = 0x260 then (s.timecode b w t lineUpt).ancCarry L k else s.ancCarry L k
    | .audio l st e => if s.defSd b then s.ancCarry L k else s.audioIn L b l st e
    | .control g sy => if s.defSd b then s.ancCarry L k else s.audioControl L b g sy
    | _ => s.ancCarry L k

/-! ### The timecode latch (R102) -/

/-- A read of RXF_TC_LO latches the rest of the set for the reading master. -/
def State.latchTc (s : State) (m L : Nat) : State × W32 :=
  let p := pgDef L
  let s := [0x134, 0x138, 0x13C, 0x140].foldl (fun s o => s.setMreg m (p + o) (s.word (p + o))) s
  (s.setDf L { s.df L with tcRead := true }, s.word (p + 0x130))

/-! ### Formatters (R94, R96, R97, R100, R101, R103) -/

/-- The audio groups embedded in each link: those configured, four at most on an HD or SD link (R100). -/
def State.fmtGroups (s : State) (L : Nat) (f : Fmt) : Nat :=
  let w := linkWidth (s.lv (pgFmt L) TXF_LINK_mode)
  min (s.lv (pgFmt L) TXF_AUD_groups) (match laneRate f w with | some c => if c ≤ 2 then 4 else 8 | none => 8)

/-- The payload ID of the output: TXF_MUTE.pid in the mute output, otherwise the output format's, in level B-DL where TXF_CFG.level_b
asks for it and the link carries 1,125 lines at 47.95 to 60 Hz in 3G (R95, R513). -/
def State.fmtPid (s : State) (L : Nat) (f : Fmt) (muted : Bool) : W32 :=
  let p := pgFmt L
  let m := s.lv p TXF_LINK_mode
  let b := s.lbit p TXF_CFG_level_b && f.lines == 1125 && !f.intl && 5 ≤ f.rate && f.rate ≤ 9 && f.samp == 0 && m == 0
  if muted then s.lword (p + TXF_MUTE_pid.off) else Config.formatPid f m b (s.railColour (s.tapRail L))

/-- The formatter of tap L starts an output frame at t: what of the frame before was past its end goes into it. -/
def State.fmtStart (s : State) (L t : Nat) (room : List AncRoom) : State :=
  let p := pgFmt L
  let s := s.applySlot p .fmt 0
  let src := s.fmtSource L
  let was := s.fm L
  let wasMuted := s.bit p TXF_STAT_muted
  let out := src.orElse (fun _ => s.muteFmt L)
  let muted := src.isNone
  let s := s.setBit p TXF_STAT_muted muted
  let s := s.when (muted && (!wasMuted || was.fmt.isNone && out.isSome)) (fun s => s.irq p IRQ_fmt_muted)
  let s := s.when (muted && out.isSome) (fun s => s.bump p TXF_MUTE_FR_n)
  let s := s.txSettle L
  let r := s.tapRail L
  match out with
  | none => ((s.setFm L {}).setWord (p + TXF_PID_val.off) 0).txRate L
  | some f =>
    let old := linkLines (was.fmt.getD f) (linkWidth (s.lv p TXF_LINK_mode))
    let audio := (was.audio.filter (fun a => old < a.2.1)).map (fun a => (a.1, a.2.1 - old, a.2.2))
    let s := s.setFm L { fmt := some f, start := t, len := if was.fmt.isSome then t - was.start else 0,
                         video := if muted then [] else [(1, r)], groups := s.fmtGroups L f,
                         audio := if was.fmt.isSome then audio else [], room := room }
    let s := s.setWord (p + TXF_PID_val.off) (s.fmtPid L f muted)
    let s := s.when (!muted) (fun s =>
      (s.railAnc r).foldl (fun s k => s.ancOut L k) (was.next.foldl (fun s e => s.ancLeft L e) s))
    s.txRate L

/-! ### The commands -/

/-- SOURCE_FRAME_READY (R153): a frame of an established source; a frame of a Live entry, whose first packet the merge has released
(R138); or the first frame
of an SDI source whose deframer kept its format while its Platform page was soft reset (R62); a deframer's staged fields apply
(R104). cue is the instant within the present TICK. -/
def execSourceFrameReady (rail : Fin 2048) (cue : Fin 16) (s : State) : Out := runRails s fun s =>
  let s := s.when (rail.val < 512) (fun s => s.defrApply rail)
  let b := s.ptBase rail
  let a := s.now + cue
  let st := s.ptState b
  if 512 ≤ b then
    match slotEntry s.rxTab (b - 512) with
    | some e =>
      let v := Store.get (fun _ => ({} : RxEntry)) s.rxEnt e
      if v.st ≠ 3 ∨ !v.fresh then s
      else
        let s := { s with rxEnt := Store.put (fun _ => {}) e { v with fresh := false } s.rxEnt }
        let ts := v.frame.getD 0
        let f := entFmt s.rxTab e
        let comp := entFld s.rxTab e RXE_CTL_type = 1
        if st = ptLost ∨ st = ptDetecting ∨ st = ptOversize then s.srcFmt b a f comp ts
        else if st = ptAligned ∨ st = ptUnaligned then s.srcFrame b a f false comp ts
        else s
    | none => s
  else if st = ptAligned ∨ st = ptUnaligned then
    match (s.pt b).last with
    | some f => s.srcFrame b a f false false
    | none => s
  else if st = ptLost ∨ st = ptDetecting then
    match (s.df b).fmt with
    | some f => s.srcFmt b a f false
    | none => s
  else s

/-- What FORMAT_ESTABLISHED reports of a lane is what its deframer has measured: the picture of its last whole frame, the links of
its group, and the frames of that structure in a row (log entry 195). -/
def State.fmtBorne (s : State) (L : Nat) (pic : Fmt) (links frames : Nat) : Bool :=
  s.defWidth L == links && (s.df L).run == frames && (match (s.df L).seen with | some m => m.fmt == pic | none => true)

/-- FORMAT_ESTABLISHED (R87). -/
def execFormatEstablished (lane : Fin 512) (pic : Fmt) (links frames : Nat) (cue : Fin 16) (s : State) : Out := runRails s fun s =>
  if s.fmtBorne lane pic links frames then s.fmtSeen lane (s.now + cue) else s

/-- FORMAT_LOST (R87), of a group of so many links (log entry 195). -/
def execFormatLost (lane : Fin 512) (links : Nat) (s : State) : Out := runRails s fun s =>
  if s.defWidth (s.defBase lane) = links then s.fmtGone lane else s

/-- SDI_LINE_RECEIVED (R92): the line's EAV stands at cue of the present TICK. -/
def execSdiLineReceived (lane : Fin 512) (ended : Option Fmt) (eav sav : Nat) (body : LineBody) (cue : Fin 16) (s : State) : Out :=
  runRails s fun s => s.sdiLine lane { body with ended := ended, eav := eav, sav := sav } (s.now + cue)

/-- ANC_PACKET_RECEIVED (R95). -/
def execAncPacketReceived (lane : Fin 512) (pkt : AncPkt) (body : AncBody) (sumOk : Bool) (lineUpt : Nat) (s : State) : Out :=
  runRails s fun s => s.ancIn lane pkt body sumOk lineUpt

/-- TIMECODE_LATCH_READ (R102). -/
def execTimecodeLatchRead (a : Acc) (lane : Fin 512) (s : State) : Out := run s fun s =>
  s.viaRead a (pgDef lane + 0x130) (fun s => s.latchTc a.m lane)

/-- FORMATTER_FRAME_START (R103): an output frame of the tap starts at cue of the present TICK. -/
def execFormatterFrameStart (tap : Fin 512) (cue : Fin 16) (room : List AncRoom) (s : State) : Out :=
  run s fun s => if s.fmtDue tap (s.now + cue) then s.fmtStart tap (s.now + cue) room else s

end Sys2Proof.Machine
end

