-- ==== Sys2Proof/Machine/Flows.lean ====
section
/-!
DEFINITION. IP media flows, the receive side (R126 to R141): matching, senders, seamless merge, delivery to the Pit and to
ancillary streams; the window pages and table CRCs of both directions.
-/
namespace Sys2Proof.Machine

/-! ### Bytes in network order, and PTP time (R33, R34) -/

/-- The number spelled by bytes, most significant first. -/
def ofBytesBE (l : List Byte) : Nat := l.foldl (fun n b => n * 256 + b.toNat) 0

def bytesBE (n v : Nat) : List Byte := (bytesLE n v).reverse

def byteAt (l : List Byte) (i : Nat) : Nat := (l.getD i 0).toNat
def be16 (l : List Byte) (i : Nat) : Nat := ofBytesBE ((l.drop i).take 2)
def be32 (l : List Byte) (i : Nat) : Nat := ofBytesBE ((l.drop i).take 4)

/-- Seconds, nanoseconds and remainder in 2^-16 ns of a time of day in 2^-40 cue. -/
def ptpOf (x : Nat) : Nat × Nat × Int :=
  let u := 2 ^ 40
  let sec := x / (cueSec * u)
  let c := x % (cueSec * u)
  let ns := (roundDiv (c * 125 : Nat) (1323 * u)).toNat
  let rem := roundDiv ((c * 125 : Int) * 65536 - (ns * 1323 * u : Nat) * 65536) (1323 * u)
  if ns = 1000000000 then (sec + 1, 0, rem) else (sec, ns, rem)

/-- Time of day at a stamp, in 2^-40 cue. -/
def State.todStamp (s : State) (t : Nat) : Nat := ((s.tod.at t).getD (s.todAt t)).toNat

/-! ### Entries -/

def State.rxe (s : State) (e : Nat) : RxEntry := Store.get (fun _ => {}) s.rxEnt e
def State.setRxe (s : State) (e : Nat) (v : RxEntry) : State := { s with rxEnt := Store.put (fun _ => {}) e v s.rxEnt }
def State.txe (s : State) (e : Nat) : TxEntry := Store.get (fun _ => {}) s.txEnt e
def State.setTxe (s : State) (e : Nat) (v : TxEntry) : State := { s with txEnt := Store.put (fun _ => {}) e v s.txEnt }

/-- The sixteen bytes of an address field. -/
def entAddr (tab : Store W32) (e : Nat) (f : Fld) : List Byte :=
  (List.range 4).flatMap (fun i => bytesOf (Store.get (fun _ => 0) tab (e * 16 + f.at i / 4)))

/-- An address as it arrives, padded to sixteen bytes. -/
def padAddr (l : List Byte) : List Byte := l ++ List.replicate (16 - l.length) 0

/-- The type of a receive entry; types 2 and 3 are audio. -/
def State.rxType (s : State) (e : Nat) : Nat := entFld s.rxTab e RXE_CTL_type
def isAudio (type : Nat) : Bool := type == 2 || type == 3

/-- Loss time (R129). -/
def State.lossTime (s : State) (e : Nat) : Nat := (entFld s.rxTab e RXE_PORT_loss + 1) * cueMs

/-- SKEW.us in cues. -/
def State.skewCues (s : State) (e : Nat) : Nat := entFld s.rxTab e RXE_SKEW_us * cueUs

/-- Counters of an entry, in the order of FLR_ECNT. -/
def ecPktsA : Nat := 0
def ecPktsB : Nat := 1
def ecDup : Nat := 2
def ecLost : Nat := 3
def ecLate : Nat := 4
def ecSndChg : Nat := 5
def ecSndIgn : Nat := 6
def ecPtBad : Nat := 7

def addAt (l : List Nat) (i k : Nat) : List Nat := l.set i (l.getD i 0 + k)

def State.rxCount (s : State) (e i : Nat) (k : Nat := 1) : State := s.setRxe e { s.rxe e with cnt := addAt (s.rxe e).cnt i k }

/-! ### Matching (R135) -/

/-- The enabled entry, and its path, that a datagram matches. -/
def flowMatch (tab : Store W32) (lp : Nat) (v6 : Bool) (dst : List Byte) (dport : Nat) : Option (Nat × Bool) :=
  (entsOn tab).findSome? (fun e =>
    if entFld tab e RXE_CTL_ipv6 ≠ v6.toNat then none
    else if entFld tab e RXE_PORT_lp_a = lp ∧ entAddr tab e RXE_ADDR_A = padAddr dst ∧ entFld tab e RXE_UDP_port_a = dport then
      some (e, false)
    else if entFld tab e RXE_CTL_dual = 1 ∧ entFld tab e RXE_PORT_lp_b = lp ∧ entAddr tab e RXE_ADDR_B = padAddr dst
        ∧ entFld tab e RXE_UDP_port_b = dport then some (e, true)
    else none)

/-- What of an RTP packet the merge reads. -/
structure Rtp where
  pt : Nat
  seq : Nat
  ts : Nat
  ssrc : Nat
  data : List Byte
  deriving DecidableEq, Repr

/-- An RTP packet; none where the datagram is too short for its header. -/
def rtpOf (l : List Byte) : Option Rtp :=
  let cc := byteAt l 0 % 16
  let ext := byteAt l 0 / 16 % 2 = 1
  let h := 12 + 4 * cc
  let h := if ext then h + 4 + 4 * be16 l (h + 2) else h
  if l.length < h then none
  else some { pt := byteAt l 1 % 128, seq := be16 l 2, ts := be32 l 4, ssrc := be32 l 8, data := l.drop h }

/-! ### States of an entry (R136) -/

/-- The entry becomes Live: the rail of its slot has a source again. -/
def State.rxLive (s : State) (e : Nat) (pathB : Bool) : State :=
  let v := s.rxe e
  let s := (s.setRxe e { v with st := 3, aIn := !pathB, bIn := pathB }).irq pgFlr IRQ_flr_flow_up
  if s.rxType e ≤ 1 then s.srcBack (512 + entFld s.rxTab e RXE_BIND_slot) else s

/-- The Pit inputs of an audio entry. -/
def entInputs (tab : Store W32) (e : Nat) : List Nat :=
  (List.range (entFld tab e RXE_FMT_ch * (if entFld tab e RXE_FMT_k96 = 1 then 2 else 1))).map (entFld tab e RXE_BIND_pit + ·)

/-- The entry leaves Live for state st: nothing of it is delivered any more, and its rail loses its source. -/
def State.rxLeave (s : State) (e st : Nat) : State :=
  let v := s.rxe e
  let was := v.st
  let s := s.setRxe e { v with st := st, aIn := false, bIn := false, high := none, done := none, kept := [], seen := [],
                               gen := v.gen + 1, frame := none, fresh := false, cover := [] }
  let s := if isAudio (s.rxType e) then (entInputs s.rxTab e).foldl (fun s i => s.setPin i { s.pin i with queue := [] }) s else s
  if was = 3 ∧ s.rxType e ≤ 1 then s.srcLost (512 + entFld s.rxTab e RXE_BIND_slot) else s

/-- Makes the sender at place i the active one of its path; alone, of every path. -/
def makeActive (l : List Sender) (i : Nat) (alone : Bool) : List Sender :=
  let p := (l[i]?.map (·.pathB)).getD false
  (l.zip (List.range l.length)).map (fun x =>
    if x.2 = i then { x.1 with active := true }
    else if alone || x.1.pathB == p then { x.1 with active := false } else x.1)

/-- A sender's place. -/
def findSender (l : List Sender) (addr ssrc : Nat) (pathB : Bool) : Option Nat :=
  l.findIdx? (fun x => x.addr == addr && x.ssrc == ssrc && x.pathB == pathB)

/-- The place a fifth sender may take: the sender silent longest of those not active, silent for the loss time (R137). -/
def State.sparePlace (s : State) (e t : Nat) : Option Nat :=
  let l := (s.rxe e).senders
  let c := ((l.zip (List.range l.length)).filter (fun x => !x.1.active && x.1.heard + s.lossTime e ≤ t)).map
    (fun x => (x.1.heard, x.2))
  match c with
  | [] => none
  | h :: r => some (r.foldl (fun b x => if x.1 < b.1 then x else b) h).2

/-- The packet's sender is tracked: its place, whether the packet is a frame boundary of it, and the state; none where it cannot
be tracked. -/
def State.track (s : State) (e addr t : Nat) (pathB : Bool) (r : Rtp) : Option (Nat × Bool × State) :=
  let v := s.rxe e
  let new : Sender := { addr := addr, ssrc := r.ssrc, pathB := pathB, active := false, heard := t, ts := r.ts }
  let first := isAudio (s.rxType e)
  match findSender v.senders addr r.ssrc pathB with
  | some i =>
    let old := v.senders.getD i new
    some (i, first || old.ts != r.ts, s.setRxe e { v with senders := v.senders.set i { old with heard := t, ts := r.ts } })
  | none =>
    if v.senders.length < 4 then some (v.senders.length, first, s.setRxe e { v with senders := v.senders ++ [new] })
    else (s.sparePlace e t).map (fun i => (i, first, s.setRxe e { v with senders := v.senders.set i new }))

/-! ### Audio (R139, R143, R155) -/

/-- The number nearest to near that is x modulo 2^32. -/
def nearestTs (near x : Nat) : Int := near + toSigned 32 ((x + 2 ^ 32 - near % 2 ^ 32) % 2 ^ 32)

/-- The residency that delays a Pit input of an IP entry (R155): that of the rail of the slot in whose audio block it lies, while the
slot's Live entry feeds it (DEDUCED, log entry 172). -/
def State.blockRes (s : State) (i : Nat) : Nat :=
  match (List.range 1536).find? (fun F =>
      let b := pitMapFld s.pitTab F PITR_base
      decide (b ≤ i ∧ i < b + pitMapFld s.pitTab F PITR_n) && s.sourceUp (s.ptBase (512 + F)) && s.railGood (512 + F)) with
  | some F => s.resNow (512 + F)
  | none => 0

/-- The stamp of sample i of a packet: its RTP instant, or while time of day is Unset its arrival, plus the skew offset. -/
def State.sampleStamp (s : State) (e : Nat) (k : Kept) (i : Nat) : Nat :=
  let k96 := entFld s.rxTab e RXE_FMT_k96 = 1
  let unit := if k96 then 110250 else pitPer
  let j := if k96 then i / 2 * 2 else i
  if s.held then
    let x := (nearestTs (s.todCues / unit) k.ts + j) * unit
    (s.uptOfTod (x * 2 ^ 40)).toNat + s.skewCues e
  else k.arrive + j * unit + s.skewCues e

/-- A sample word of a type 2 or 3 entry from its bytes. The AES3 bits of a type 3 word lie in its first byte (log entry 65). -/
def flowSample (type : Nat) (l24 : Bool) (b : List Byte) : Nat :=
  if type = 3 then
    let h := byteAt b 0
    ofBytesBE (b.drop 1) + h % 2 * 2 ^ 24 + h / 2 % 2 * 2 ^ 25 + h / 4 % 2 * 2 ^ 26 + h / 32 % 2 * 2 ^ 27 + 2 ^ 28
  else if l24 then ofBytesBE b else ofBytesBE b * 256

/-- Bytes of a sample in a packet. -/
def sampleBytes (type : Nat) (l24 : Bool) : Nat := if type = 3 then 4 else if l24 then 3 else 2

/-- A sample with its transparent mark arrives at a Pit input, and takes its place among those not yet presented. -/
def State.pitFeed (s : State) (i stamp w : Nat) : State :=
  let v := s.pin i
  let x := stamp + s.blockRes i
  s.setPin i { v with queue := v.queue.takeWhile (fun q => q.1 ≤ x) ++ (x, w % 2 ^ 29) :: v.queue.dropWhile (fun q => q.1 ≤ x) }

/-- An audio packet's samples go to their Pit inputs, to be presented at their stamps. -/
def State.audioRelease (s : State) (e : Nat) (k : Kept) : State :=
  let type := s.rxType e
  let l24 := entFld s.rxTab e RXE_FMT_l24 = 1
  let n := sampleBytes type l24
  let ch := max 1 (entFld s.rxTab e RXE_FMT_ch)
  let k96 := entFld s.rxTab e RXE_FMT_k96 = 1
  let base := entFld s.rxTab e RXE_BIND_pit
  (List.range (k.data.length / n)).foldl (fun s j =>
    let i := j / ch
    let c := j % ch
    let w := flowSample type l24 ((k.data.drop (j * n)).take n)
    s.pitFeed (if k96 then base + 2 * c + i % 2 else base + c) (s.sampleStamp e k i) w) s

/-! ### Staging (R140) -/

def stageRegion : Nat := 2 ^ 27

/-- A type 0 entry with CTL.stage set stages its packets in DRAM. -/
def State.staged (s : State) (e : Nat) : Bool := s.rxType e == 0 && entFld s.rxTab e RXE_CTL_stage == 1

/-- The staging engine that serves an entry: which of the four is not stated (DESIGN CHOICE, log entry 68). -/
def stageReq (e : Nat) : Nat := 0x40 + e % 4

/-- The staging engine writes a kept packet into the entry's region: one after another, from its beginning again where the end would
be passed (DESIGN CHOICE, log entry 68). -/
def State.stageIn (s : State) (e : Nat) (k : Kept) : State × Kept :=
  if s.staged e then
    let v := s.rxe e
    let at_ := if stageRegion < v.stageAt + k.data.length then 0 else v.stageAt
    let a := s.lv64 pgFlc FLC_STAGE_lo FLC_STAGE_hi + entFld s.rxTab e RXE_CTL_sidx * stageRegion + at_
    ((s.setRxe e { v with stageAt := (at_ + k.data.length) % stageRegion }).engineWrite (stageReq e) a k.data,
      { k with data := [], staged := some (a, k.data.length) })
  else (s, k)

/-- The staging engine reads a packet out again; none where its data has an uncorrectable error, with the DRAM address. bad: an error
of this read alone, at that address. -/
def State.stageOut (s : State) (e : Nat) (k : Kept) (bad : Option Nat) : State × Except Nat Kept :=
  match k.staged with
  | none => (s, .ok k)
  | some (a, n) =>
    (s.areaSeen (stageReq e) a n bad.toList,
      match s.areaBad a n bad.toList with
      | some x => .error x
      | none => .ok { k with data := s.load a n })

/-! ### The merge (R138, R139) -/

/-- A number modulo M extended against the highest one; none before the beginning. -/
def extendSeq (M : Nat) (high : Option Nat) (x : Nat) : Option Nat :=
  match high with
  | none => some x
  | some h =>
    let d := (x + M - h % M) % M
    if 2 * d < M then some (h + d) else if M ≤ h + d then some (h + d - M) else none

/-- The extended sequence number of a packet. -/
def State.seqOf (s : State) (e : Nat) (r : Rtp) : Option Nat :=
  let h := (s.rxe e).high
  if s.rxType e = 0 ∨ s.rxType e = 4 then extendSeq (2 ^ 32) h (be16 r.data 0 * 65536 + r.seq) else extendSeq 65536 h r.seq

/-- A packet of a path in the merge: kept until its release, an audio packet's samples at the Pit from its arrival on (R139). -/
def State.mergeIn (s : State) (e t : Nat) (pathB : Bool) (r : Rtp) : State :=
  let v := s.rxe e
  match s.seqOf e r with
  | none => (s.rxCount e ecLate).bump pgFlr FLR_LATE_n
  | some n =>
    match v.seen.find? (fun x => x.1 == n) with
    | some x =>
      let d := t - x.2.1
      let s := (s.setRxe e { v with skew := if x.2.2 != pathB then max v.skew d else v.skew }).rxCount e ecDup
      let s := s.bump pgFlr FLR_DUP_n
      s.when (x.2.2 != pathB && s.skewCues e < d) (fun s => s.irq pgFlr IRQ_flr_skew)
    | none =>
      if (match v.done with | some d => decide (n ≤ d) | none => false) then (s.rxCount e ecLate).bump pgFlr FLR_LATE_n
      else
        let k : Kept := { seq := n, arrive := t, ts := r.ts, pathB := pathB, data := r.data, gen := v.gen }
        let (s, k) := s.stageIn e k
        let v := s.rxe e
        let s := if isAudio (s.rxType e) then s.audioRelease e k else s
        s.setRxe e { v with kept := v.kept ++ [if isAudio (s.rxType e) then { k with data := [] } else k],
                            seen := (n, t, pathB) :: v.seen.filter (fun x => n < x.1 + 32768), high := some (max n (v.high.getD n)) }

/-- The merge starts a new run of numbers. -/
def RxEntry.restart (v : RxEntry) : RxEntry := { v with high := none, done := none, seen := [], gen := v.gen + 1 }

/-- The path is in the merge. -/
def RxEntry.inMerge (v : RxEntry) (pathB : Bool) : Bool := if pathB then v.bIn else v.aIn

/-- At a frame boundary of either path at which both paths' active senders carry the same timestamp, the path left out joins the merge
(R141). -/
def State.tryJoin (s : State) (e : Nat) (pathB : Bool) (r : Rtp) : State :=
  let v := s.rxe e
  if v.aIn != v.bIn && v.senders.any (fun x => x.active && x.pathB != pathB && x.ts == r.ts) then
    s.setRxe e { v with aIn := true, bIn := true }
  else s

/-- A packet of a path's active sender: merged if its path is in the merge. -/
def State.activeIn (s : State) (e t : Nat) (pathB bnd : Bool) (r : Rtp) : State :=
  let s := if bnd then s.tryJoin e pathB r else s
  if (s.rxe e).inMerge pathB then s.mergeIn e t pathB r else s

/-- A Live entry's packet from the sender at place i. Where its path's active sender changes while the other path, whose sender changed
before, is still left out, the entry locks again (R141). -/
def State.liveIn (s : State) (e t i : Nat) (pathB bnd : Bool) (r : Rtp) : State :=
  let v := s.rxe e
  if (v.senders[i]?.map (·.active)).getD false then s.activeIn e t pathB bnd r
  else if !v.senders.any (fun x => x.active && x.pathB == pathB) then
    s.setRxe e { v with senders := makeActive v.senders i false }
  else if entFld s.rxTab e RXE_CTL_policy = 1 then
    if bnd then
      let s := s.setRxe e { v with senders := makeActive v.senders i false }
      let s := ((s.rxCount e ecSndChg).bump pgFlr FLR_SNDCHG_n).irq pgFlr IRQ_flr_snd_chg
      let v := s.rxe e
      if v.inMerge (!pathB) then
        (s.setRxe e (if pathB then { v with bIn := false } else { v with aIn := false })).activeIn e t pathB true r
      else if v.senders.any (fun x => x.active && x.pathB != pathB) then s.rxLeave e 2
      else (s.setRxe e v.restart).mergeIn e t pathB r
    else s
  else s.rxCount e ecSndIgn

/-- A packet that matches entry e arrives at uptime t (R135 to R138). -/
def State.flowArrive (s : State) (e addr t : Nat) (pathB : Bool) (r : Rtp) : State :=
  let s := s.rxCount e (if pathB then ecPktsB else ecPktsA)
  if entFld s.rxTab e RXE_CTL_pt_check = 1 ∧ r.pt ≠ entFld s.rxTab e RXE_PORT_pt then s.rxCount e ecPtBad
  else
    match s.track e addr t pathB r with
    | none => (s.rxCount e ecSndIgn).irq pgFlr IRQ_flr_snd_ovf
    | some (i, bnd, s) =>
      let v := s.rxe e
      match v.st with
      | 1 | 4 => s.setRxe e { v with st := 2, senders := makeActive v.senders i true }
      | 2 =>
        if (v.senders[i]?.map (·.active)).getD false then
          if bnd then (s.rxLive e pathB).mergeIn e t pathB r else s
        else if !v.senders.any (fun x => x.active && x.pathB == pathB) then
          s.setRxe e { v with senders := makeActive v.senders i false }
        else if entFld s.rxTab e RXE_CTL_policy = 0 then s.rxCount e ecSndIgn else s
      | 3 => s.liveIn e t i pathB bnd r
      | _ => s

/-! ### Delivery (R126, R138, R140) -/

/-- The ancillary packets of a payload: n more from bit pos of the bits v, tot of them (log entry 65). -/
def ancBits (v tot : Nat) : Nat → Nat → List AncPkt
  | 0, _ => []
  | n + 1, pos =>
    let get := fun o w => (v >>> (tot - o - w)) % 2 ^ w
    let dc := get (pos + 52) 10
    let len := dc % 256
    let fin := pos + 62 + 10 * len + 10
    if tot < fin then []
    else
      { line := get (pos + 1) 11, stream := get (pos + 25) 7, vanc := get (pos + 12) 12 != 0xFFE,
        did := get (pos + 32) 10, sdid := get (pos + 42) 10,
        data := [0, 0x3FF, 0x3FF] ++ (List.range (len + 4)).map (fun i => get (pos + 32 + 10 * i) 10) }
        :: ancBits v tot n ((fin + 31) / 32 * 32)

/-- An ancillary payload joins the frame of its slot's rail. -/
def State.ancRelease (s : State) (e : Nat) (k : Kept) : State :=
  let body := k.data.drop 8
  (ancBits (ofBytesBE body) (8 * body.length) (byteAt k.data 4) 0).foldl
    (fun s p => s.ancCarry (512 + entFld s.rxTab e RXE_BIND_slot) p) s

/-- The pixels that a type 0 payload brings: its sample row data headers (length, field and row, offset), each naming whole pgroups
(log entry 65). g: bytes and pixels of a pgroup. -/
def coverOf (g : Nat × Nat) (ts : Nat) (l : List Byte) : Nat → Nat → List Cover
  | 0, _ => []
  | n + 1, at_ =>
    let c : Cover := { ts := ts, field := be16 l (at_ + 2) / 32768, row := be16 l (at_ + 2) % 32768, off := be16 l (at_ + 4) % 32768,
                       n := be16 l at_ / g.1 * g.2 }
    c :: (if be16 l (at_ + 4) / 32768 = 1 then coverOf g ts l n (at_ + 6) else [])

/-- Bytes and pixels of a pgroup of a sampling code (R142). -/
def pgroupOf (smp : Nat) : Nat × Nat := if smp = 0 then (5, 2) else if sampOf smp = 1 then (15, 4) else (9, 2)

/-- A video packet goes to its Platform: the first of a new RTP timestamp makes a frame ready there (R153), and a type 0 packet brings
its pixels. -/
def State.videoRelease (s : State) (e : Nat) (k : Kept) : State :=
  let v := s.rxe e
  let v := if v.frame = some k.ts then v
    else { v with frame := some k.ts, fresh := true, cover := v.cover.filter (fun c => some c.ts == v.frame) }
  let l := if s.rxType e = 0 then coverOf (pgroupOf (entFld s.rxTab e RXE_FMT_smp)) k.ts k.data 3 2 else []
  s.setRxe e { v with cover := v.cover ++ l }

/-- A kept packet leaves the merge: missing numbers below it are lost, and it is delivered. A packet staged in DRAM that reads back
with an uncorrectable error is lost itself (R140); bad: such an error of this read alone, at that address. -/
def State.releaseOne (s : State) (e : Nat) (k : Kept) (bad : Option Nat) : State :=
  let v := s.rxe e
  let rest := v.kept.erase k
  let lost := if k.gen ≠ v.gen then 0 else
    match v.done with
    | some d => (k.seq - d - 1) - (rest.filter (fun x => x.gen == v.gen && d < x.seq && x.seq < k.seq)).length
    | none => 0
  let (s, out) := s.stageOut e k bad
  let done := if k.gen = v.gen then some (max k.seq (v.done.getD k.seq)) else v.done
  let s := s.setRxe e { v with kept := rest, done := done, unref := !s.held }
  let count := fun (s : State) n => (s.rxCount e ecLost n).bump pgFlr FLR_LOST_n n
  match out with
  | .error x => (count s (lost + 1)).err pgFlc 0x052 (some accMediaRead) (some x)
  | .ok k =>
    let s := count s lost
    if isAudio (s.rxType e) then s
    else if s.rxType e = 4 then s.ancRelease e k
    else s.videoRelease e k

/-- The kept packet whose release instant comes first. -/
def firstKept : List Kept → Option Kept
  | [] => none
  | k :: t => some (t.foldl (fun b x => if x.arrive < b.arrive then x else b) k)

/-- FLOW_PACKET_RELEASE (R138): the packet due first, released SKEW.us after its arrival. -/
def State.flowRelease (s : State) (e : Nat) (bad : Option Nat) : State :=
  match firstKept (s.rxe e).kept with
  | some k => if k.arrive + s.skewCues e < s.now + 16 then s.releaseOne e k bad else s
  | none => s

/-- FLOW_LOSS_TIMEOUT (R136): the active sender has been silent for the loss time on every path of a Live entry. -/
def State.flowTimeout (s : State) (e : Nat) : State :=
  let v := s.rxe e
  let T := s.lossTime e
  if v.st ≠ 3 ∨ v.senders.any (fun x => x.active && s.now + 16 ≤ x.heard + T) then s
  else
    let c := ((v.senders.zip (List.range v.senders.length)).filter (fun x => !x.1.active && s.now < x.1.heard + T)).map
      (fun x => (x.1.heard, x.2))
    match c with
    | [] => (s.rxLeave e 4).irq pgFlr IRQ_flr_flow_lost
    | h :: t =>
      let i := (t.foldl (fun b x => if b.1 < x.1 then x else b) h).2
      let s := s.rxLeave e 2
      let s := s.setRxe e { s.rxe e with senders := makeActive v.senders i true }
      (s.rxCount e ecSndChg).bump pgFlr FLR_SNDCHG_n

/-! ### The windows and the tables (R129 to R134) -/

/-- The defined bits of an entry's words. -/
def entMask (isTx : Bool) (i : Nat) : W32 :=
  match i with
  | 0 => if isTx then 0x0FFFFF3F else 0x0001FFFF
  | 1 => 0xFF7F3F3F
  | 3 => if isTx then 0xFFFFFFFF else 0x00003FFF
  | 12 => 0xFFFF07FF
  | 13 => 0x07FFFFFF
  | 14 => 0x077F00FF
  | 15 => if isTx then 0xFFFFFFFF else 0
  | _ => 0xFFFFFFFF

/-- The table CRC (R132). -/
def flowCrc (isTx : Bool) (tab : Store W32) : W32 :=
  crc32c ((List.range 131072).flatMap (fun i => bytesOf (Store.get (fun _ => 0) tab i &&& entMask isTx (i % 16))))

/-- A counter of an entry as loaded: past all ones the spec gives no value (log entry 4). -/
def ecntWord (n : Nat) : W32 := if n < 2 ^ 32 then BitVec.ofNat 32 n else Config.counterPast n

/-- A receive entry's senders, state and counters go to the page, and the counters clear. -/
def State.loadRx (s : State) (e : Nat) : State :=
  let p := pgFlr
  let v := s.rxe e
  let s := (List.range 4).foldl (fun s i =>
    match v.senders[i]? with
    | some x =>
      let ws := [x.addr % 2 ^ 32, x.addr / 2 ^ 32 % 2 ^ 32, x.addr / 2 ^ 64 % 2 ^ 32, x.addr / 2 ^ 96]
      let s := (List.range 4).foldl (fun s j => s.setWord (p + 0x180 + 0x20 * i + 4 * j) (BitVec.ofNat 32 (ws.getD j 0))) s
      (s.setFld p FLR_SND_ssrc x.ssrc i).setFld p FLR_SND_st
        (1 + 2 * x.active.toNat + 4 * x.pathB.toNat + 8 * (decide (s.now < x.heard + s.lossTime e)).toNat) i
    | none =>
      let s := (List.range 5).foldl (fun s j => s.setWord (p + 0x180 + 0x20 * i + 4 * j) 0) s
      s.setFld p FLR_SND_st 0 i) s
  let s := (s.setFld p FLR_ESTAT_state v.st).setBit p FLR_ESTAT_unref v.unref
  let s := (s.setBit p FLR_ESTAT_a_in v.aIn).setBit p FLR_ESTAT_b_in v.bIn
  let s := s.setFld p FLR_SKEW_us (v.skew / cueUs)
  let s := (List.range 8).foldl (fun s i => s.setWord (p + FLR_ECNT.at i) (ecntWord (v.cnt.getD i 0))) s
  s.setRxe e { v with cnt := [0, 0, 0, 0, 0, 0, 0, 0], skew := 0 }

def State.loadTx (s : State) (e : Nat) : State :=
  let p := pgFlt
  let v := s.txe e
  let s := (s.setBit p FLT_ESTAT_sending v.sending).setBit p FLT_ESTAT_muted v.muted
  let s := s.setBit p FLT_ESTAT_wait_tod v.waitTod
  let s := (List.range 4).foldl (fun s i => s.setWord (p + FLT_ECNT.at i) (ecntWord (v.cnt.getD i 0))) s
  s.setTxe e { v with cnt := [0, 0, 0, 0] }

/-- FLR_SEL or FLT_SEL load or store: ignored while busy (R131). -/
def State.flowWindow (s : State) (a : Acc) (isTx isStore : Bool) : State :=
  let p := if isTx then pgFlt else pgFlr
  let e := s.fld p FLR_SEL_entry
  if s.bit p FLR_SEL_busy then s.accErr p 0x051 a accWrite (p + 0x100)
  else
    let s := s.setBit p FLR_SEL_busy true
    if isStore then
      let put := fun (t : Store W32) => (List.range 16).foldl
        (fun t i => Store.put (fun _ => 0) (e * 16 + i) (s.word (p + FLR_WIN.at i) &&& entMask isTx i) t) t
      let s := if isTx then { s with txStage := put s.txStage, txStored := (e :: s.txStored).dedup }
        else { s with rxStage := put s.rxStage, rxStored := (e :: s.rxStored).dedup }
      s.setFld p FLR_PEND_n (if isTx then s.txStored else s.rxStored).length
    else
      let live := s.bit p FLR_SEL_live
      let t := if isTx then (if live then s.txTab else s.txStage) else (if live then s.rxTab else s.rxStage)
      let s := (List.range 16).foldl (fun s i => s.setWord (p + FLR_WIN.at i) (Store.get (fun _ => 0) t (e * 16 + i) &&& entMask isTx i)) s
      if isTx then s.loadTx e else s.loadRx e

/-- What a write of a flow window page does beyond storing the word. -/
def State.flowHook (s : State) (a : Acc) (isTx : Bool) (o : Nat) (eff : W32) : State :=
  if o = 0x100 then
    let s := if eff.getLsbD 24 then s.flowWindow a isTx false else s
    if eff.getLsbD 25 then s.flowWindow a isTx true else s
  else s

/-- A write of a flow window page: the reserved bits of an entry's words hold nothing (R4). -/
def State.flowWrite (s : State) (a : Acc) (isTx : Bool) (o : Nat) (w : W32) (hw : Option W32 := none) : State :=
  let w := if 0x140 ≤ o ∧ o < 0x180 then w &&& entMask isTx ((o - 0x140) / 4) else w
  let r := s.storeWord a (if isTx then pgFlt else pgFlr) (if isTx then .flt else .flr) 0 o w hw
  if r.ok then r.s.flowHook a isTx o r.eff else r.s

/-- The words of an entry that make it restart when they change (R134): type, addresses, ports, UDP ports. -/
def entKey (tab : Store W32) (e : Nat) : List Nat :=
  [entFld tab e RXE_CTL_type, entFld tab e RXE_CTL_ipv6, entFld tab e RXE_PORT_lp_a, entFld tab e RXE_PORT_lp_b,
   entFld tab e RXE_UDP_port_a, entFld tab e RXE_UDP_port_b]
  ++ (List.range 4).map (fun i => entFld tab e RXE_ADDR_A i) ++ (List.range 4).map (fun i => entFld tab e RXE_ADDR_B i)

/-- The entries whose words differ between two tables. -/
def entsChanged (old new : Store W32) : List Nat :=
  let all := ((old ++ new).map (fun x => x.1 / 16)).dedup
  all.filter (fun e => (List.range 16).any (fun i =>
    Store.get (fun _ => 0) old (e * 16 + i) != Store.get (fun _ => 0) new (e * 16 + i)))

/-- A committed receive table becomes live. -/
def State.flrLive (s : State) (new : Store W32) : State :=
  let old := s.rxTab
  let ch := entsChanged old new
  let on := fun (t : Store W32) e => entFld t e RXE_CTL_en = 1
  let anew := fun e => on old e ∧ on new e ∧ entKey old e ≠ entKey new e
  let s := ch.foldl (fun s e =>
    if on old e ∧ (¬ on new e ∨ anew e) then (s.rxLeave e 0).setRxe e { cnt := (s.rxe e).cnt } else s) s
  let s := { s with rxTab := new }
  let s := ch.foldl (fun s e =>
    if on new e ∧ (¬ on old e ∨ anew e) then s.setRxe e { cnt := (s.rxe e).cnt, st := 1 } else s) s
  let slots := fun (t : Store W32) e =>
    if on t e ∧ entFld t e RXE_CTL_type ≤ 1 then
      (List.range (gangWidth (entFld t e RXE_CTL_gang))).map (fun i => 512 + entFld t e RXE_BIND_slot + i)
    else []
  let rs := (ch.flatMap (fun e => slots old e ++ slots new e)).dedup
  let rs := rs.filter (fun r => s.plv r PLT_CFG_en = 1)
  let s := rs.foldl (fun s r => if slotEntry old (r - 512) = slotEntry new (r - 512) then s else (s.srcLost r).srcBack r) s
  (rs.foldl (fun s r => s.ptSettle r (s.ptBase r == r)) s).countBerths

/-- The waiting commit of the receive window page becomes live. -/
def State.flrApply (s : State) : State :=
  let t := s.rxPend
  let go := s.commitDue pgFlr
  let s := s.applySlot pgFlr .flr 0
  match t with
  | some new => if go then { s with rxPend := none }.flrLive new else s
  | none => s

/-! ### The commands -/

/-- FLOW_PACKET_RELEASE (R138). -/
def execFlowPacketRelease (e : Fin 8192) (bad : Option Nat) (s : State) : Out := run s fun s => s.flowRelease e bad

/-- FLOW_LOSS_TIMEOUT (R136). -/
def execFlowLossTimeout (e : Fin 8192) (s : State) : Out := runRails s fun s => s.flowTimeout e

/-- FLOW_LOAD (R131): FLR_SEL or FLT_SEL written with load set. -/
def execFlowLoad (a : Acc) (isTx : Bool) (word : W32) (s : State) : Out := run s fun s =>
  s.viaPath a ((if isTx then pgFlt else pgFlr) + 0x100) fun s => s.flowWrite a isTx 0x100 (setBits word 24 2 1)

/-- FLOW_STORE (R131): FLR_SEL or FLT_SEL written with store set. -/
def execFlowStore (a : Acc) (isTx : Bool) (word : W32) (s : State) : Out := run s fun s =>
  s.viaPath a ((if isTx then pgFlt else pgFlr) + 0x100) fun s => s.flowWrite a isTx 0x100 (setBits word 24 2 2)

/-- WINDOW_OP_DONE (R131): the load or store in progress ends, in the receive (0), transmit (1) or Pit window (2). -/
def execWindowOpDone (page : Fin 3) (s : State) : Out := run s fun s =>
  match page with
  | 0 => s.setBit pgFlr FLR_SEL_busy false
  | 1 => s.setBit pgFlt FLT_SEL_busy false
  | 2 => s.setBit pgPitW PIT_SEL_busy false

/-- FLOW_TABLE_CRC_PASS (R132): upsets (word, bit) of the live table come before the pass. -/
def execFlowTableCrcPass (isTx : Bool) (upsets : List (Nat × Nat)) (s : State) : Out := run s fun s =>
  let p := if isTx then pgFlt else pgFlr
  let k : PageKind := if isTx then .flt else .flr
  let up := fun (t : Store W32) => upsets.foldl
    (fun t u => Store.put (fun _ => 0) u.1 (flipBit (Store.get (fun _ => 0) t u.1) u.2) t) t
  let s := if isTx then { s with txTab := up s.txTab } else { s with rxTab := up s.rxTab }
  if s.bit p PAGE_STAT_armed && !s.parityOn p k then
    let c := flowCrc isTx (if isTx then s.txTab else s.rxTab)
    let s := s.setFld p FLR_TCRC_NOW_crc c.toNat
    if c.toNat = s.fld p FLR_TCRC_REF_crc then s else s.cfgFault p 0x050 p
  else s

end Sys2Proof.Machine
end

