-- ==== Sys2Proof/Machine/Ethernet.lean ====
section
/-!
DEFINITION. Media Ethernet ports (R107 to R125): frames received and classified, the Crew's rings, PTP stamps, links and the
two-wire master. Header layouts are those of the protocols named (log entry 65).
-/
namespace Sys2Proof.Machine

/-! ### Ports and statistics (R107, R109, R124) -/

/-- The control, PTP, ring and statistics pages of the port of logical port lp. -/
def pgEthC (P : Nat) : Nat := pgEth P 0
def pgEthP (P : Nat) : Nat := pgEth P 1
def pgEthR (P : Nat) : Nat := pgEth P 2
def pgEthS (lp : Nat) : Nat := pgEth (lp / 4) (3 + lp % 4)

/-- The logical port exists in the live mode of its port and is enabled. -/
def State.lpExists (s : State) (lp : Nat) : Bool :=
  let p := pgEthC (lp / 4)
  let n := match s.lv p ETH_PORT_mode with | 0 => 1 | 1 => 2 | 2 => 4 | _ => 0
  lp % 4 < n && (s.lv p ETH_PORT_lp_en).testBit (lp % 4)

def State.lpUp (s : State) (lp : Nat) : Bool := (s.fld (pgEthC (lp / 4)) ETH_LINK_up).testBit (lp % 4)

/-- Counts in a statistics counter, given by its low word. -/
def State.stat (s : State) (lp : Nat) (lo : Fld) (n : Nat := 1) : State :=
  s.bump64 (pgEthS lp) lo { lo with off := lo.off + 4 } n

/-- Bit i of a number set or cleared. -/
def putBit (x i : Nat) (v : Bool) : Nat := if v then x ||| 2 ^ i else if x.testBit i then x - 2 ^ i else x

/-- A logical port comes up. -/
def State.linkUp (s : State) (lp : Nat) : State :=
  let p := pgEthC (lp / 4)
  if s.lpExists lp && !s.lpUp lp then
    let s := s.setFld p ETH_LINK_up (putBit (s.fld p ETH_LINK_up) (lp % 4) true)
    let s := s.setFld p ETH_LINK_hi_ser (putBit (s.fld p ETH_LINK_hi_ser) (lp % 4) false)
    s.irq p IRQ_ethCtl_link_up
  else s

/-- A logical port goes down. -/
def State.linkDown (s : State) (lp : Nat) (hiSer : Bool) : State :=
  let p := pgEthC (lp / 4)
  if s.lpUp lp then
    let s := s.setFld p ETH_LINK_up (putBit (s.fld p ETH_LINK_up) (lp % 4) false)
    let s := s.setFld p ETH_LINK_hi_ser (putBit (s.fld p ETH_LINK_hi_ser) (lp % 4) hiSer)
    (s.stat lp ST_LINK_DOWN_lo).irq p IRQ_ethCtl_link_down
  else s

/-- The waiting commit of a port's control page becomes live: a changed mode or polarity takes the port's logical ports down, and
so goes down one that no longer exists or is no longer enabled (R108). -/
def State.ethApply (s : State) (P : Nat) : State :=
  let p := pgEthC P
  let key := fun (s : State) => (s.lv p ETH_PORT_mode, s.lv p ETH_POL_rx_inv, s.lv p ETH_POL_tx_inv)
  let was := key s
  let s := s.applySlot p .ethCtl 0
  (List.range 4).foldl (fun s i => if key s = was ∧ s.lpExists (4 * P + i) then s else s.linkDown (4 * P + i) false) s

/-! ### Checksums (R113, R114) -/

/-- The sum of the 16-bit words of a list of bytes, an odd last byte padded with zero. -/
def sum16 : List Byte → Nat
  | [] => 0
  | [a] => a.toNat * 256
  | a :: b :: t => a.toNat * 256 + b.toNat + sum16 t

/-- The ones' complement sum of a number of 16-bit carries. -/
def onesSum (n : Nat) : Nat := if n = 0 then 0 else (n - 1) % 65535 + 1

/-- The Internet checksum over a sum. -/
def checksum (n : Nat) : Nat := 65535 - onesSum n

/-! ### Headers -/

/-- What the MAC reads of a frame: tags, EtherType, and of an IP packet its family, protocol, fragment, addresses and the IP
header and payload. -/
structure Head where
  tags : Nat
  type : Nat
  at_ : Nat
  v4 : Bool
  v6 : Bool
  frag : Bool
  proto : Nat
  src : List Byte
  dst : List Byte
  ip : List Byte
  body : List Byte
  deriving DecidableEq, Repr

/-- Skips 802.1Q tags: the EtherType after them, its place and their number. -/
def skipTags (l : List Byte) : Nat → Nat → Nat → Nat × Nat × Nat
  | 0, at_, n => (be16 l at_, at_, n)
  | k + 1, at_, n => if be16 l at_ = 0x8100 then skipTags l k (at_ + 4) (n + 1) else (be16 l at_, at_, n)

/-- The extension headers of an IPv6 packet are skipped (hop-by-hop, routing, destination options, authentication, mobility,
HIP, shim6, fragment): the protocol that follows them, where it begins, and whether the packet is a fragment. -/
def skipExt (ip : List Byte) : Nat → Nat → Nat → Bool → Nat × Nat × Bool
  | 0, nh, at_, frag => (nh, at_, frag)
  | k + 1, nh, at_, frag =>
    if nh = 44 then skipExt ip k (byteAt ip at_) (at_ + 8) (frag || be16 ip (at_ + 2) / 8 != 0 || byteAt ip (at_ + 3) % 2 == 1)
    else if nh = 51 then skipExt ip k (byteAt ip at_) (at_ + 8 + 4 * byteAt ip (at_ + 1)) frag
    else if [0, 43, 60, 135, 139, 140].contains nh then skipExt ip k (byteAt ip at_) (at_ + 8 + 8 * byteAt ip (at_ + 1)) frag
    else (nh, at_, frag)

def headOf (l : List Byte) : Head :=
  let (type, at_, tags) := skipTags l 8 12 0
  let ip := l.drop (at_ + 2)
  if type = 0x0800 then
    let h := byteAt ip 0 % 16 * 4
    let f := be16 ip 6
    { tags := tags, type := type, at_ := at_ + 2, v4 := true, v6 := false, frag := f % 16384 != 0,
      proto := byteAt ip 9, src := (ip.drop 12).take 4, dst := (ip.drop 16).take 4, ip := ip.take h,
      body := (ip.take (be16 ip 2)).drop h }
  else if type = 0x86DD then
    let (proto, n, frag) := skipExt ip 32 (byteAt ip 6) 40 false
    { tags := tags, type := type, at_ := at_ + 2, v4 := false, v6 := true, frag := frag,
      proto := proto, src := (ip.drop 8).take 16, dst := (ip.drop 24).take 16,
      ip := ip.take n, body := (ip.take (40 + be16 ip 4)).drop n }
  else
    { tags := tags, type := type, at_ := at_ + 2, v4 := false, v6 := false, frag := false, proto := 256, src := [], dst := [],
      ip := [], body := ip }

/-- The frame carries a whole UDP datagram. -/
def Head.udp (h : Head) : Bool := (h.v4 || h.v6) && h.proto == 17 && !h.frag

/-- The sum over pseudo-header and datagram. -/
def udpSum (src dst body : List Byte) : Nat := sum16 src + sum16 dst + 17 + body.length + sum16 body

/-- The verdict of the checksum checks: none where the frame passes, else the counter. -/
def Head.verdict (h : Head) : Option Fld :=
  if h.v4 && (h.ip.length < 20 || onesSum (sum16 h.ip) != 65535) then some ST_RX_IP_HDR_lo
  else if h.udp then
    if be16 h.body 6 = 0 then (if h.v6 then some ST_RX_UDP_ZERO6_lo else none)
    else if onesSum (udpSum h.src h.dst (h.body.take (be16 h.body 4))) ≠ 65535 then some ST_RX_UDP_CSUM_lo
    else none
  else none

/-! ### The receive rings (R115, R116) -/

/-- A stamp as it stands in a receive descriptor. -/
def State.stampBytes (s : State) (t : Nat) : List Byte :=
  let x := ptpOf (s.todStamp t)
  bytesLE 8 t ++ if s.held then bytesLE 6 x.1 ++ bytesLE 4 x.2.1 ++ bytesLE 4 (ofSigned 32 x.2.2) ++ bytesLE 2 0
    else List.replicate 16 0

/-- The descriptor of a received frame. -/
def State.rxDescriptor (s : State) (lp t : Nat) (h : Head) (n : Nat) : List Byte :=
  bytesLE 2 n ++ [BitVec.ofNat 8 lp, BitVec.ofNat 8
    (1 + 2 * s.held.toNat + 4 * (h.tags != 0).toNat + 8 * h.v6.toNat + 16 * (h.v4 && h.frag).toNat)]
  ++ bytesLE 4 0 ++ s.stampBytes t

/-- A frame goes to the PTP ring or to the control ring. -/
def State.toRing (s : State) (ptp : Bool) (lp t : Nat) (h : Head) (data : List Byte) : State :=
  let p := pgEthR (lp / 4)
  let size := if ptp then 256 else 1024
  let entry := if ptp then 512 else 2048
  let head := if ptp then ETH_PRR_HEAD_n else ETH_CRR_HEAD_n
  let tail := if ptp then ETH_PRR_TAIL_n else ETH_CRR_TAIL_n
  let base := if ptp then s.lv64 p ETH_PRR_BASE_lo ETH_PRR_BASE_hi else s.lv64 p ETH_CRR_BASE_lo ETH_CRR_BASE_hi
  let n := s.fld p head
  if entry - 32 < data.length then
    (s.bump p (if ptp then PTP_LONG_n else CTL_LONG_n)).irq p IRQ_ethRing_ring_drop
  else if (n + 65536 - s.fld p tail) % 65536 = size then
    (s.bump p (if ptp then PTP_RX_DROP_n else CTL_DROP_n)).irq p IRQ_ethRing_ring_drop
  else
    let s := s.engineWrite (0x48 + lp / 4) (base + n % size * entry) (s.rxDescriptor lp t h data.length ++ data)
    let s := (s.setFld p head (n + 1)).irq p (if ptp then IRQ_ethRing_prr else IRQ_ethRing_crr)
    s.when ptp (fun s => s.bump (pgEthP (lp / 4)) ETH_PTP_RX_n)

/-! ### Classification (R110, R112, R113) -/

/-- The frame is a PTP frame for the instance bound to the logical port. The reserved value 3 of ETH_PTP_CTL.inst binds none
(DESIGN CHOICE, log entry 159). -/
def State.isPtp (s : State) (lp : Nat) (h : Head) : Bool :=
  let p := pgEthP (lp / 4)
  let i := s.fld p ETH_PTP_CTL_inst
  s.bit p ETH_PTP_CTL_en && (i == 1 || i == 2) && s.fld p ETH_PTP_CTL_lport == lp % 4 &&
    (h.udp && (be16 h.body 2 == 319 || be16 h.body 2 == 320) || s.bit p ETH_PTP_CTL_l2 && h.type == 0x88F7)

/-- The frame belongs to the control ring. ETH_MAC.hi holds the first two bytes of an address on the wire and .lo the other four,
most significant first (PRESUMED, log entry 160). -/
def State.isCtl (s : State) (lp : Nat) (h : Head) (data : List Byte) : Bool :=
  let p := pgEthC (lp / 4)
  s.bit p ETH_CLS_ctl_en &&
    (h.type == 0x0806 || h.v4 && (h.proto == 1 || h.proto == 2 || h.frag) || h.v6 && h.proto == 58
      || s.bit p ETH_CLS_ucast_ctl &&
          ofBytesBE (data.take 6) == s.fld p ETH_MAC_hi (lp % 4) * 2 ^ 32 + s.fld p ETH_MAC_lo (lp % 4))

/-- A frame with a good FCS that passed the checks: the first match decides. -/
def State.frameClass (s : State) (lp t : Nat) (h : Head) (data : List Byte) : State :=
  let m := if h.udp && h.tags ≤ 1 then flowMatch s.rxTab lp h.v6 h.dst (be16 h.body 2) else none
  if s.isPtp lp h then s.toRing true lp t h data
  else match m with
    | some (e, pathB) =>
      match rtpOf ((h.body.take (be16 h.body 4)).drop 8) with
      | some r => s.flowArrive e (ofBytesLE (padAddr h.src)) t pathB r
      | none => s
    | none => if s.isCtl lp h data then s.toRing false lp t h data else s.stat lp ST_RX_NOMATCH_lo

/-- A frame arrives on a logical port, its first bit after the SFD at uptime t at the pads; data is without FCS. -/
def State.frameIn (s : State) (lp t : Nat) (data : List Byte) (fcsOk : Bool) (corr uncorr : Nat) : State :=
  if !(s.lpExists lp && s.lpUp lp) then s
  else
    let s := (s.stat lp ST_FEC_CORR_lo corr).stat lp ST_FEC_UNCORR_lo uncorr
    let n := data.length + 4
    if n ≤ 63 then s.stat lp ST_RX_RUNT_lo
    else if 9217 ≤ n then s.stat lp ST_RX_GIANT_lo
    else if !fcsOk then s.stat lp ST_RX_FCS_lo
    else
      let s := (s.stat lp ST_RX_FRAMES_lo).stat lp ST_RX_BYTES_lo n
      let h := headOf data
      let stamp := ((t : Int) + s.fldS (pgEthP (lp / 4)) ETH_PTP_ADJ_rx).toNat
      match h.verdict with
      | some f => s.stat lp f
      | none => (s.when (h.v4 && h.frag) (fun s => s.stat lp ST_RX_FRAG_lo)).frameClass lp stamp h data

/-! ### Crew transmission (R111, R114, R117 to R121) -/

/-- Bytes l with those from i replaced by m. -/
def splice (l : List Byte) (i : Nat) (m : List Byte) : List Byte := l.take i ++ m ++ l.drop (i + m.length)

/-- The IPv4 header checksum of a frame is inserted. -/
def insIp (l : List Byte) : List Byte :=
  let h := headOf l
  if h.v4 then splice l (h.at_ + 10) (bytesBE 2 (checksum (sum16 h.ip - be16 h.ip 10))) else l

/-- The UDP checksum of a frame is inserted; a sum of zero is sent as all ones. -/
def insUdp (l : List Byte) : List Byte :=
  let h := headOf l
  if h.udp then
    let b := splice (h.body.take (be16 h.body 4)) 6 [0, 0]
    let c := checksum (udpSum h.src h.dst b)
    splice l (h.at_ + h.ip.length + 6) (bytesBE 2 (if c = 0 then 65535 else c))
  else l

/-- Where a PTP message begins in a frame. -/
def ptpAt (l : List Byte) : Option Nat :=
  let h := headOf l
  if h.udp ∧ (be16 h.body 2 = 319 ∨ be16 h.body 2 = 320) then some (h.at_ + h.ip.length + 8)
  else if h.type = 0x88F7 then some h.at_
  else none

/-- The frame is a Sync message. -/
def isSync (l : List Byte) : Bool := match ptpAt l with | some i => byteAt l i % 16 == 0 | none => false

/-- A one-step Sync leaves at stamp t: its originTimestamp and correctionField are written, and its UDP checksum again unless
it is zero over IPv4 (R114, R120). -/
def State.oneStep (s : State) (l : List Byte) (t : Nat) : List Byte :=
  match ptpAt l with
  | none => l
  | some i =>
    let x := ptpOf (s.todStamp t)
    let h := headOf l
    let l :=
      if s.held then
        let c := ofBytesBE ((l.drop (i + 8)).take 8)
        splice (splice l (i + 34) (bytesBE 6 x.1 ++ bytesBE 4 x.2.1)) (i + 8)
          (bytesBE 8 (ofSigned 64 (toSigned 64 c + x.2.2)))
      else splice l (i + 34) (List.replicate 10 0)
    if h.udp && !(h.v4 && be16 h.body 6 == 0) then insUdp l else l

/-- Descriptor n of a port's transmit ring. -/
def State.txDesc (s : State) (P n : Nat) : Nat :=
  s.lv64 (pgEthR P) ETH_TXR_BASE_lo ETH_TXR_BASE_hi + n % 256 * 32

/-- The indices that the hardware has sent ahead of its consumer index. -/
def State.ahead (s : State) (P : Nat) : List Nat := Store.get (fun _ => []) s.txAhead P

/-- The descriptors waiting in a port's transmit ring, in ring order. -/
def State.txWaiting (s : State) (P : Nat) : List Nat :=
  let t := s.fld (pgEthR P) ETH_TXR_TAIL_n
  let n := (s.fld (pgEthR P) ETH_TXR_HEAD_n + 65536 - t) % 65536
  ((List.range (min n 256)).map (fun i => (t + i) % 65536)).filter (fun i => !(s.ahead P).contains i)

/-- The one-step flag of descriptor n is not ignored (R120): one_step is set and its frame is a Sync message. -/
def State.txOneStep (s : State) (P n : Nat) : Bool :=
  let d := s.txDesc P n
  s.bit (pgEthP P) ETH_PTP_CTL_one_step && (s.loadLE (d + 11) 1).testBit 1 && isSync (s.load (s.loadLE d 8) (s.loadLE (d + 8) 2))

/-- The next descriptor to be sent: one that asks for a stamp goes ahead (R117, log entry 69). -/
def State.txNext (s : State) (P : Nat) : Option Nat :=
  let l := s.txWaiting P
  (l.find? (fun i => (s.loadLE (s.txDesc P i + 11) 1).testBit 0 || s.txOneStep P i)).orElse (fun _ => l.head?)

/-- The tail moves past the descriptors that are sent. -/
def State.txAdvance (s : State) (P : Nat) : Nat → State
  | 0 => s
  | k + 1 =>
    let p := pgEthR P
    let t := s.fld p ETH_TXR_TAIL_n
    if (s.ahead P).contains t then
      ({ s with txAhead := Store.put (fun _ => []) P ((s.ahead P).erase t) s.txAhead }.setFld p ETH_TXR_TAIL_n (t + 1)).txAdvance P k
    else s

/-- A descriptor is written back: its request flags, with done and the flags given. -/
def State.writeBack (s : State) (P n flags : Nat) : State :=
  let a := s.txDesc P n + 11
  let fl := s.loadLE a 1
  let s := s.engineWrite (0x48 + P) a [BitVec.ofNat 8 (fl % 16 + fl / 128 * 128 + 16 + flags)]
  let s := { s with txAhead := Store.put (fun _ => []) P (s.ahead P ++ [n]) s.txAhead }
  (s.txAdvance P 256).irq (pgEthR P) IRQ_ethRing_txr

/-- A logical port of the port sends: it exists and is up. -/
def State.lpSends (s : State) (lp : Nat) : Bool := s.lpExists lp && s.lpUp lp

/-- A frame leaves a logical port that is up. TX_BYTES counts the frame as R110 measures it, padding and FCS included (DESIGN
CHOICE, log entry 161). -/
def State.depart (s : State) (lp t : Nat) (l : List Byte) : State :=
  if s.lpSends lp then
    let s := (s.stat lp ST_TX_FRAMES_lo).stat lp ST_TX_BYTES_lo (l.length + 4)
    { s with sent := Store.put (fun _ => none) lp (some ⟨lp, t, l⟩) s.sent }
  else s

/-- The stamp queue of a port. -/
def State.stamps (s : State) (P : Nat) : List Stamp := Store.get (fun _ => []) s.tsq P
def State.setStamps (s : State) (P : Nat) (l : List Stamp) : State :=
  ({ s with tsq := Store.put (fun _ => []) P l s.tsq }).setFld (pgEthP P) ETH_TSQ_LEVEL_n l.length

/-- A two-step stamp enters the queue; a full queue discards it. Answers whether it was kept. -/
def State.pushStamp (s : State) (P : Nat) (x : Stamp) : State × Bool :=
  let q := s.stamps P
  let p := pgEthP P
  if 64 ≤ q.length then ((s.bump p ETH_TS_OVF_n).irq p IRQ_ethPtp_ts_ovf, false)
  else ((s.setStamps P (q ++ [x])).when q.isEmpty (fun s => s.irq p IRQ_ethPtp_ts_ready), true)

/-! ### Index writes, the stamp queue, the two-wire master (R118, R122, R123) -/

/-- A write of a software-owned index: one that would pass the hardware's index is ignored (R118). -/
def State.ringHook (s pre : State) (a : Acc) (P o : Nat) (old : W32) : State :=
  let p := pgEthR P
  let before := getBits old 0 16
  let now := getBits (s.word (p + o)) 0 16
  let dist := fun (x y : Nat) => (x + 65536 - y) % 65536
  let bad :=
    if o = 0x10C then dist (s.fld p ETH_PRR_HEAD_n) before < dist now before
    else if o = 0x11C then dist (s.fld p ETH_CRR_HEAD_n) before < dist now before
    else if o = 0x128 then 256 < dist now (s.fld p ETH_TXR_TAIL_n)
    else False
  if bad then ((s.setWord (p + o) old).sameArmed pre p).accErr p 0x040 a accWrite (p + o) else s

def State.ringWrite (s : State) (a : Acc) (P o : Nat) (w : W32) : State :=
  let r := s.storeWord a (pgEthR P) .ethRing P o w
  if r.ok then r.s.ringHook s a P o r.old else r.s

/-- A read of ETH_TSQ_POP removes the head entry and latches its other words for the reading master. With the queue empty it reads
zero and leaves the latches (DESIGN CHOICE, log entry 163). -/
def State.popStamp (s : State) (m P : Nat) : State × W32 :=
  let p := pgEthP P
  match s.stamps P with
  | [] => (s, 0)
  | x :: t =>
    let s := s.setStamps P t
    let put := fun (s : State) (o v : Nat) => s.setMreg m (p + o) (BitVec.ofNat 32 v)
    let s := put (put s 0x114 (x.upt % 2 ^ 32)) 0x118 (x.upt / 2 ^ 32)
    let s := put (put s 0x11C (x.sec % 2 ^ 32)) 0x120 (x.sec / 2 ^ 32 % 65536)
    let s := put (put s 0x124 x.ns) 0x128 (ofSigned 17 x.rem + x.tod.toNat * 2 ^ 31)
    (s, BitVec.ofNat 32 (x.tag % 65536 + x.lp * 65536 + 2 ^ 31))

/-- ETH_TWI_CMD was written: go starts a transfer of 1 to 16 bytes while none runs. -/
def State.twiHook (s : State) (a : Acc) (P o : Nat) (eff : W32) : State :=
  let p := pgEthC P
  if o = 0x154 ∧ eff.getLsbD 31 then
    let n := s.fld p ETH_TWI_CMD_len
    if n = 0 ∨ 16 < n then s.accErr p 0x042 a accWrite (p + 0x154)
    else if s.fld p ETH_TWI_STAT_st = 1 then s
    else s.setFld p ETH_TWI_STAT_st 1
  else s

def State.ethWrite (s : State) (a : Acc) (P o : Nat) (w : W32) (hw : Option W32 := none) : State :=
  let r := s.storeWord a (pgEthC P) .ethCtl P o w hw
  if r.ok then r.s.twiHook a P o r.eff else r.s

/-! ### The commands -/

/-- ETH_FRAME_RECEIVED (R110, R112). -/
def execEthFrameReceived (lp : Fin 64) (stamp : Nat) (data : List Byte) (fcsOk : Bool) (fecCorr fecUncorr : Nat) (s : State) :
    Out := runRails s fun s => s.frameIn lp stamp data fcsOk fecCorr fecUncorr

/-- LINK_UP (R109). -/
def execLinkUp (lp : Fin 64) (s : State) : Out := run s fun s => s.linkUp lp

/-- LINK_DOWN (R109). -/
def execLinkDown (lp : Fin 64) (hiSer : Bool) (s : State) : Out := run s fun s => s.linkDown lp hiSer

/-- TX_RING_HEAD_WRITE (R117). -/
def execTxRingHeadWrite (a : Acc) (port : Fin 16) (word : W32) (s : State) : Out := run s fun s =>
  s.viaPath a (pgEthR port + 0x128) fun s => s.ringWrite a port 0x128 word

/-- RING_INDEX_WRITE (R118): the tail of the PTP ring, or of the control ring. -/
def execRingIndexWrite (a : Acc) (port : Fin 16) (ctl : Bool) (word : W32) (s : State) : Out := run s fun s =>
  let o := if ctl then 0x11C else 0x10C
  s.viaPath a (pgEthR port + o) fun s => s.ringWrite a port o word

/-- TSQ_POP (R122). -/
def execTsqPop (a : Acc) (port : Fin 16) (s : State) : Out := run s fun s =>
  s.viaRead a (pgEthP port + 0x110) fun s => s.popStamp a.m port

/-- TWI_COMMAND (R123): ETH_TWI_CMD is written. -/
def execTwiCommand (a : Acc) (port : Fin 16) (word : W32) (s : State) : Out := run s fun s =>
  s.viaPath a (pgEthC port + 0x154) fun s => s.ethWrite a port 0x154 word

/-- TWI_DONE (R123): the transfer ends, acknowledged or not; a read leaves its bytes in the data registers. -/
def execTwiDone (port : Fin 16) (ack : Bool) (data : List Byte) (s : State) : Out := run s fun s =>
  let p := pgEthC port
  if s.fld p ETH_TWI_STAT_st = 1 then
    let s := (s.setFld p ETH_TWI_STAT_st (if ack then 2 else 3)).irq p IRQ_ethCtl_twi_done
    if ack ∧ s.bit p ETH_TWI_CMD_read then
      let l := data.take (s.fld p ETH_TWI_CMD_len)
      (List.range 4).foldl (fun s i =>
        let w := (l.drop (4 * i)).take 4
        s.setWord (p + ETH_TWI_DATA.at i)
          (BitVec.ofNat 32 (ofBytesLE (w ++ (bytesOf (s.word (p + ETH_TWI_DATA.at i))).drop w.length)))) s
    else s
  else s

/-- MODULE_INTERRUPT (R123): the module pins as they then stand; IRQ mod_int where int_n fell. -/
def execModuleInterrupt (port : Fin 16) (low present : Bool) (s : State) : Out := run s fun s =>
  let p := pgEthC port
  let fell := low && s.bit p ETH_MOD_int_n
  ((s.setBit p ETH_MOD_int_n (!low)).setBit p ETH_MOD_present present).when fell (fun s => s.irq p IRQ_ethCtl_mod_int)

end Sys2Proof.Machine
end

