-- ==== Sys2Proof/Machine/Protect.lean ====
section
/-!
DEFINITION. Retirement by software, post-package repair, patrol scrub, flip masks, and on-chip SRAM (R394 to R407).
-/
namespace Sys2Proof.Machine

/-! ### Retirement by software (R394, R396) -/

/-- What a write of DPR_RETIRE does beyond its store, the field having held old: the device is retired, or the write of the
field is ignored with 0x116; an automatic retirement of the same cycle gives way to a write that stands (R52, R396). -/
def State.retireHook (s pre : State) (a : Acc) (n old : Nat) (auto : Option Nat) : State :=
  let p := pgDrc n 2
  let v := s.fld p DPR_RETIRE_dev
  if s.privileged a then
    if old ≠ 15 ∨ (10 ≤ v ∧ v ≤ 14) then
      let s := ((s.setFld p DPR_RETIRE_dev old).sameArmed pre p).accErr p 0x116 a accWrite (p + 0x100)
      match auto with
      | some d => s.autoRetire n d
      | none => s
    else
      let s := s.when (v != 15) (fun s => s.logRepair 0x11 [n, v])
      s.when auto.isSome (fun s => s.setBit p PAGE_STAT_collide true)
  else match auto with
    | some d => s.autoRetire n d
    | none => s

/-- The registers of a protection page. -/
def State.dprWrite (s : State) (a : Acc) (n o : Nat) (w : W32) (auto : Option Nat) : State :=
  let old := s.fld (pgDrc n 2) DPR_RETIRE_dev
  let r := s.storeWord a (pgDrc n 2) .dpr n o w
  if r.ok && o == 0x100 then r.s.retireHook s a n old auto else r.s

/-! ### Post-package repair (R397) -/

/-- A go: ignored with 0x114 while busy; else the repair named by DPR_PPR starts and its bank is held. -/
def State.pprGo (s : State) (a : Acc) (n : Nat) : State :=
  let p := pgDrc n 3
  if s.bit p DPR_PPR_busy then s.accErr p 0x114 a accWrite (p + 0x104)
  else
    let t := (s.fld p DPR_PPR_dev, s.fld p DPR_PPR_bg, s.fld p DPR_PPR_bank, s.fld p DPR_PPR_row)
    (s.setBit p DPR_PPR_busy true).setCh n { s.ch n with ppr := some t }

def State.pprWrite (s : State) (a : Acc) (n o : Nat) (w : W32) : State :=
  let r := s.storeWord a (pgDrc n 3) .ppr n o w
  if r.ok && o == 0x104 && r.eff.getLsbD 0 then r.s.pprGo a n else r.s

/-- A granule of the row is read, decoded and written back re-encoded; one that read uncorrectable is written back poisoned. -/
def State.pprGranule (s : State) (n addr : Nat) (noise : List (Nat × Nat)) : State :=
  let g := s.readGranule n addr noise
  if g.bad then
    let bads := (List.range 8).filter (fun c => (decodeCw (s.fld (pgDrc n 2) DPR_RETIRE_dev) ((s.errsOf addr noise).getD c 0)).bad)
    bads.foldl (fun s c => s.setErr addr c (2 ^ 160)) (s.putGranule addr (s.load (granuleOf addr) 128))
  else
    let s := (s.noteCorrected n (s.free64.toNat % 256) addr g).fresh
    s.putGranule addr g.data

/-- The repair ends (R397): refused beyond the density or on an unavailable channel; no spare row left; or made. -/
def State.pprDone (s : State) (n : Nat) (spare : Bool) (noise : List (Nat × Nat × Nat)) : State :=
  let p := pgDrc n 3
  let c := s.ch n
  match c.ppr with
  | none => s
  | some (dev, bg, bank, row) =>
    let s := (s.setCh n { c with ppr := none }).setBit p DPR_PPR_busy false
    let fail (s : State) (r : Nat) : State :=
      (((s.setFld p DPR_PPR_result r).bump p DPR_PPR_FAIL_n).irq p IRQ_ppr_ppr_fail).err p 0x114
    if s.dramRows ≤ row ∨ 10 ≤ dev ∨ !s.chUp n then fail s 3
    else if !spare then fail s 2
    else
      let s := (List.range 64).foldl (fun s col =>
        s.pprGranule n (addrOf ⟨n, 4 * bg + bank, row, col⟩) (noise.filterMap (fun e => if e.1 = col then some e.2 else none))) s
      let s := ((s.setFld p DPR_PPR_result 1).bump p DPR_PPR_DONE_n).irq p IRQ_ppr_ppr_done
      s.logRepair 0x12 [n, dev, bg, bank, row, 0]

/-! ### Patrol scrub (R398) -/

/-- A scrub read of the next granule is issued; one whose granule has a request waiting before it, or whose bank is held, is
not yet. -/
def State.scrubIssue (s : State) (n : Nat) : State :=
  let p := pgDrc n 2
  let h := s.fld64 p DPR_SCRUB_POS_lo DPR_SCRUB_POS_hi / 1024
  let addr := scrubAddr n h
  let c := s.ch n
  let q : DReq := { seq := s.dseq, req := 0xE0, addr := addr, op := .read 128 false, upt := s.now }
  let pl := q.place
  if c.reqs.any (fun e => e.issued.isNone && granuleOf e.addr == addr) ∨ c.ppr.any (fun t => t.2.1 * 4 + t.2.2.1 == pl.bank) then s
  else
    let s := { s with dseq := s.dseq + 1 }
    let s := s.setCh n { c with reqs := c.reqs ++ [q], scrubAt := s.now }
    let s := s.when ((s.bank n pl.bank).row != some pl.row) (fun s => s.activate n pl.bank pl.row)
    let s := s.column n q
    s.setFld64 p DPR_SCRUB_POS_lo DPR_SCRUB_POS_hi (if h + 1 < s.granules then scrubAddr n (h + 1) else scrubAddr n 0)

/-! ### Flip masks (R406, R407) -/

/-- DPR_FLIP.arm: the settings are taken; an arm while armed replaces them. -/
def State.dramFlip (s : State) (n : Nat) : State :=
  let p := pgDrc n 4
  let mask := (List.range 5).foldl (fun m i => m + s.fld p DPR_FLIP_MASK i * 2 ^ (32 * i)) 0
  let f : DFlip := { req := s.fld p DPR_FLIP_req, cw := s.fld p DPR_FLIP_cw,
                     mask := if s.bit p DPR_FLIP_mode then none else some mask }
  (s.setBit p DPR_FLIP_armed true).setCh n { s.ch n with flip := some f }

def State.dflipWrite (s : State) (a : Acc) (n o : Nat) (w : W32) : State :=
  let r := s.storeWord a (pgDrc n 4) .dflip n o w
  if r.ok && o == 0x114 && r.eff.getLsbD 12 then r.s.dramFlip n else r.s

/-- SRM_FLIP.arm. -/
def State.sramArm (s : State) : State :=
  let mask := s.fld pgSrm SRM_FLIP_MASK 0 + s.fld pgSrm SRM_FLIP_MASK 1 * 2 ^ 32 + s.fld pgSrm SRM_FLIP_MASK_top * 2 ^ 64
  { s.setBit pgSrm SRM_FLIP_armed true with sflip := some (s.fld pgSrm SRM_FLIP_macro, mask) }

/-- SRM_REP.go: the spare is switched in while its part is out of service; an entry that names nothing that exists is ignored
with 0x121 (R403). -/
def State.sramRepair (s : State) (oos : Bool) : State :=
  let e := s.word (pgSrm + 0x110)
  if oos then
    if e.getLsbD 31 && Config.spareExists e then { s with spares := s.spares ++ [e] } else s.err pgSrm 0x121
  else s

def State.srmWrite (s : State) (a : Acc) (o : Nat) (w : W32) (oos : Bool) : State :=
  let r := s.storeWord a pgSrm .srm 0 o w
  if r.ok && o == 0x100 && r.eff.getLsbD 16 then r.s.sramArm
  else if r.ok && o == 0x114 && r.eff.getLsbD 0 then r.s.sramRepair oos
  else r.s

/-! ### SRAM words (R401, R402) -/

/-- The error pattern of a stored SRAM word. -/
def State.sramErr (s : State) (mac index : Nat) : Nat := Store.get (fun _ => 0) s.serr (mac * 2 ^ 32 + index)

def State.setSramErr (s : State) (mac index e : Nat) : State := { s with serr := Store.put (fun _ => 0) (mac * 2 ^ 32 + index) e s.serr }

/-- The word was written: an armed flip of its part corrupts it and is spent (R407). -/
def State.sramWrote (s : State) (mac index : Nat) : State :=
  match s.sflip with
  | some (m, mask) =>
    if m = mac then { (s.setSramErr mac index mask).setBit pgSrm SRM_FLIP_armed false with sflip := none }
    else s.setSramErr mac index 0
  | none => s.setSramErr mac index 0

/-- The bits of a word in error: its stored pattern with errors of this read. -/
def countOnes (n : Nat) : Nat := (List.range 72).countP (fun i => n.testBit i)

/-- How a read finds a word: 0 clean, 1 one bit, corrected, 2 uncorrectable. Beyond two bits the code promises nothing: a free
value decides (log entry 80). -/
def State.sramVerdict (s : State) (e : Nat) : Nat :=
  let k := countOnes e
  if k ≤ 2 then k else s.free64.toNat % 3

/-- An uncorrectable SRAM word (R401). -/
def State.sramBad (s : State) (access : Option Nat) (req : Option Nat) (mac index : Nat) : State :=
  let s := (s.bump pgSrm SRM_UE_n).irq pgSrm IRQ_srm_ue
  match req, access with
  | some r, some t => (s.capture pgSrm 0x120 t r (mac * 2 ^ 32 + index)).busErr r true
  | _, _ => s.err pgSrm 0x120 access (some (mac * 2 ^ 32 + index))

/-! ### The commands -/

/-- RETIRE_WRITE (R394, R396). -/
def execRetireWrite (a : Acc) (ch : Fin 8) (word : W32) (auto : Option (Fin 10)) (s : State) : Out := run s fun s =>
  s.viaPath a (pgDrc ch 2 + 0x100) fun s => s.dprWrite a ch 0x100 word (auto.map (·.val))

/-- DEVCE_WINDOW_START (R395). -/
def execDevceWindowStart (ch : Fin 8) (s : State) : Out := run s fun s =>
  let p := pgDrc ch 2
  if s.onMultiple (s.lv p DPR_RET_win * cueSec) then (List.range 10).foldl (fun s d => s.setFld p DPR_DEVCE_n 0 d) s else s

/-- PPR_GO (R397). -/
def execPprGo (a : Acc) (ch : Fin 8) (word : W32) (s : State) : Out := run s fun s =>
  s.viaPath a (pgDrc ch 3 + 0x104) fun s => s.pprWrite a ch 0x104 word

/-- PPR_DONE (R397): whether a spare row is left, and errors met in reading the row. -/
def execPprDone (ch : Fin 8) (spare : Bool) (noise : List (Nat × Nat × Nat)) (s : State) : Out := run s fun s => s.pprDone ch spare noise

/-- SCRUB_DUE (R398): the guaranteed read, or one in a channel without waiting foreground requests. -/
def execScrubDue (ch : Fin 8) (guaranteed : Bool) (s : State) : Out := run s fun s =>
  let p := pgDrc ch 2
  let c := s.ch ch
  let since := ddrCycles s.now - ddrCycles c.scrubAt
  if s.chUp ch ∧ s.lbit p DPR_SCRUB_en ∧
      (if guaranteed then s.lv p DPR_SCRUB_gap ≤ since else !c.busy && s.lv p DPR_SCRUB_idle ≤ since) then s.scrubIssue ch
  else s

/-- SRAM_READ_ERROR (R401): a requester reads a word that is in error, by its stored pattern and err. -/
def execSramReadError (mac index req access err : Nat) (wrote : Bool) (s : State) : Out := run s fun s =>
  let s := s.when wrote (fun s => s.sramWrote mac index)
  let v := s.sramVerdict (s.sramErr mac index ^^^ err)
  let s := s.fresh
  if v = 1 then (s.bump pgSrm SRM_CE_n).irq pgSrm IRQ_srm_ce
  else if v = 2 then s.sramBad (some access) (some req) mac index
  else s

/-- SRAM_PATROL (R402): a single-bit error is written back corrected, unless the word was written in between. -/
def execSramPatrol (mac index err : Nat) (wrote written : Bool) (s : State) : Out := run s fun s =>
  let s := s.when wrote (fun s => s.sramWrote mac index)
  let v := s.sramVerdict (s.sramErr mac index ^^^ err)
  let s := s.fresh
  if v = 1 then
    let s := s.bump pgSrm SRM_SCRUB_CE_n
    if written then s.sramWrote mac index else s.setSramErr mac index 0
  else if v = 2 then s.sramBad (some accScrub) none mac index
  else s

/-- SRAM_REPAIR_APPLY (R403): a write of SRM_REP's go register. -/
def execSramRepairApply (a : Acc) (word : W32) (outOfService : Bool) (s : State) : Out := run s fun s =>
  s.viaPath a (pgSrm + 0x114) fun s => s.srmWrite a 0x114 word outOfService

/-- SRAM_FLIP_ARM (R407). -/
def execSramFlipArm (a : Acc) (word : W32) (s : State) : Out := run s fun s =>
  s.viaPath a (pgSrm + 0x100) fun s => s.srmWrite a 0x100 word false

/-- DRAM_FLIP_ARM (R406). -/
def execDramFlipArm (a : Acc) (ch : Fin 8) (word : W32) (s : State) : Out := run s fun s =>
  s.viaPath a (pgDrc ch 4 + 0x114) fun s => s.dflipWrite a ch 0x114 word

end Sys2Proof.Machine
end

