-- ==== Sys2Proof/Machine/Catwalk.lean ====
section
/-!
DEFINITION. The Catwalk: its map and paths, refused bursts and drains, the PCIe link, and interrupt routing (R410 to R421).
-/
namespace Sys2Proof.Machine

/-! ### The map and the paths (R413, R414) -/

/-- The targets of the Catwalk. -/
inductive Target | dram | regs | crewSram | plic | secure | outbound | nowhere
  deriving DecidableEq, Repr

def regWindow : Nat := 0x010000000000
def crewBase : Nat := 0x020000000000
def outBase : Nat := 0x040000000000

def targetOf (addr : Nat) : Target :=
  if addr < 0x003000000000 then .dram
  else if regWindow ≤ addr ∧ addr < regWindow + 0x4000000 then .regs
  else if crewBase ≤ addr ∧ addr < crewBase + 0x400000 then .crewSram
  else if crewBase + 0x400000 ≤ addr ∧ addr < crewBase + 0x800000 then .plic
  else if 0x030000000000 ≤ addr ∧ addr < 0x030000040000 then .secure
  else if 0x030001000000 ≤ addr ∧ addr < 0x030001100000 then .secure
  else if 0x030002000000 ≤ addr ∧ addr < 0x030002010000 then .secure
  else if outBase ≤ addr ∧ addr < outBase + 0x100000000 then .outbound
  else .nowhere

/-- The path of a master to a target exists (R414). The PCIe host reaches DRAM and registers through its own BARs. -/
def hasPath (m : Nat) (t : Target) : Bool :=
  if t = .nowhere then false
  else if m = 0x00 then true
  else if 1 ≤ m ∧ m ≤ 5 then t != .secure
  else if m = 0x08 then t == .dram || t == .regs
  else if 0x10 ≤ m ∧ m ≤ 0x13 then t != .secure
  else if m = 0x18 then t == .dram || t == .regs
  else if m = 0x19 then t == .dram
  else if m = 0x1F then t == .dram || t == .regs || t == .crewSram || t == .plic
  else false

/-- A burst keeps the rules of R415. kind: 0 read, 1 write, 2 atomic of 4 bytes, 3 atomic of 8; whole: every register it reaches
is covered whole. -/
def burstOk (addr beats kind : Nat) (whole : Bool) : Bool :=
  let t := targetOf addr
  1 ≤ beats && beats ≤ 64 && addr / 16 * 16 % 4096 + beats * 16 ≤ 4096 && (t != .regs || whole) &&
    (kind < 2 || (beats == 1 && (t == .dram || t == .crewSram)))

/-! ### Masters reset in the middle of a burst (R418) -/

/-- Read data of a master's outstanding requests is discarded when it arrives; what it had not got through yet is dropped. -/
def State.masterReset (s : State) (m : Nat) : State :=
  let s := { s with acks := s.acks.filter (fun a => a.req != m) }
  (List.range 8).foldl (fun s n =>
    let c := s.ch n
    s.setCh n { c with reqs := c.reqs.map (fun (q : DReq) => if q.req == m then { q with discard := true } else q),
                       waits := c.waits.filter (fun q => q.req != m) }) s

/-- A request of a Catwalk master, held while the master is in a drain. -/
def State.catRequest (s : State) (req addr : Nat) (op : DramOp) (noise : List (Nat × Nat)) (k : Nat) : State :=
  if req < 32 ∧ (s.fld pgCat CAT_STAT_drain).testBit req then { s with catHeld := s.catHeld ++ [⟨req, addr, op, noise, k⟩] }
  else if req = hostMaster ∧ !s.bit pgPcie PCIE_STAT_up then s
  else s.dramRequest req addr op noise k

/-- A drain ends: counted, and the requests held meanwhile go on. -/
def State.drainEnd (s : State) (m : Nat) : State :=
  if (s.fld pgCat CAT_STAT_drain).testBit m then
    let s := s.setWord (pgCat + 0x140) (setBits (s.word (pgCat + 0x140)) m 1 0)
    let s := (s.bump pgCat CAT_DRAIN_n).irq pgCat IRQ_cat_drain
    let held := s.catHeld.filter (fun e => e.req == m)
    held.foldl (fun s e => s.dramRequest e.req e.addr e.op e.noise e.issue) { s with catHeld := s.catHeld.filter (fun e => e.req != m) }
  else s

/-! ### Interrupt routing (R421) -/

/-- The level of a page's interrupt line. -/
def State.lineLevel (s : State) (line : Nat) : Bool := (s.word (line * 0x1000 + 0x10) &&& s.word (line * 0x1000 + 0x14)) != 0

def State.route (s : State) (line : Nat) : W32 := Store.get (fun _ => 0) s.routes line

/-- A vector sends a message, or sets its pending bit while it is masked. -/
def State.sendVector (s : State) (v : Nat) : State :=
  if s.msixMask.getLsbD v then { s with msixPend := s.msixPend ||| (1 <<< v) }
  else { s with msi := Store.put (fun _ => 0) v (Store.get (fun _ => 0) s.msi v + 1) s.msi }

/-- A line has risen: a line routed to a vector sends its message. -/
def State.lineRise (s : State) (line : Nat) : State :=
  let s := { s with lines := Store.put (fun _ => false) line true s.lines }
  let r := s.route line
  if getBits r 8 2 = 1 then s.sendVector (getBits r 0 6) else s

/-- A line found low has fallen. -/
def State.lineFall (s : State) (line : Nat) : State :=
  if s.lineLevel line then s else { s with lines := Store.put (fun _ => false) line false s.lines }

/-- A line of the vector is high. -/
def State.vectorHigh (s : State) (v : Nat) : Bool :=
  s.routes.any (fun e => getBits e.2 8 2 == 1 && getBits e.2 0 6 == v && s.lineLevel e.1)

/-- INT_VPEND as it reads. -/
def State.vpend (s : State) (hi : Bool) : W32 :=
  BitVec.ofNat 32 ((List.range 32).foldl (fun x i => x + if s.vectorHigh (i + if hi then 32 else 0) then 2 ^ i else 0) 0)

/-- INT_ROUTE as it reads: the route and level of the line INT_SEL names. -/
def State.routeWord (s : State) : W32 :=
  let l := s.fld pgInt INT_SEL_line
  setBits (s.route l) 16 1 (s.lineLevel l).toNat

/-- What a write of the interrupt page does beyond its store: INT_ROUTE is kept for each line; INT_EOI evaluates its vector
again. -/
def State.intHook (s : State) (o : Nat) (eff : W32) : State :=
  if o = 0x104 then
    let l := s.fld pgInt INT_SEL_line
    { (s.setWord (pgInt + 0x104) 0) with routes := Store.put (fun _ => 0) l (s.word (pgInt + 0x104) &&& 0x33F) s.routes }
  else if o = 0x108 then
    let v := getBits eff 0 6
    if s.vectorHigh v then s.sendVector v else s
  else s

/-- INT_ROUTE is written for the line INT_SEL names; the stored word is loaded with that line's route first. -/
def State.intWrite (s : State) (a : Acc) (o : Nat) (w : W32) : State :=
  let s := if o = 0x104 then s.setWord (pgInt + 0x104) (s.route (s.fld pgInt INT_SEL_line)) else s
  let r := s.storeWord a pgInt .intc 0 o w
  if r.ok || o == 0x104 then r.s.intHook o r.eff else r.s

/-! ### The commands -/

/-- LOCKSTEP_MISMATCH (R410). -/
def execLockstepMismatch (s : State) : Out := run s fun s =>
  if s.bit pgPrc SM_STAT_lockstep_ok then
    ((s.setBit pgPrc SM_STAT_lockstep_ok false).irq pgPrc IRQ_prc_lockstep).err pgPrc 0x141
  else s

/-- DRAM_REQUEST (R376, R418). -/
def execDramRequest (req addr : Nat) (op : DramOp) (noise : List (Nat × Nat)) (k : Nat) (s : State) : Out :=
  if dramRequestOk req addr op then run s fun s => if s.issues req then s.catRequest req addr op noise k else s
  else .fault .illFormed

/-- MISSING_PATH_ACCESS (R414): a path that exists is not missing. -/
def execMissingPathAccess (m addr : Nat) (isWrite : Bool) (s : State) : Out :=
  if m < 32 ∧ addr < 2 ^ 48 then
    run s fun s => if hasPath m (targetOf addr) || !s.issues m then s else s.noPath ⟨m, false⟩ isWrite addr
  else .fault .illFormed

/-- BURST_REFUSED (R415): a burst that keeps the rules is not refused. The PCIe host's requests are completed as Unsupported
Request instead (R420). -/
def execBurstRefused (m addr beats : Nat) (kind : Fin 4) (whole : Bool) (s : State) : Out :=
  if m < 32 ∧ addr < 2 ^ 48 then run s fun s =>
    if burstOk addr beats kind whole || !s.issues m || !hasPath m (targetOf addr) then s
    else if m = hostMaster then (s.bump pgPcie PCIE_UR_n).answer m .unsupported []
    else (s.capture pgCat 0x144 (if kind.val < 2 then kind.val else 3) m addr).answer m .busError []
  else .fault .illFormed

/-- MASTER_RESET_DRAIN (R418): a reset master's burst was partly sent. Null beats have no effect. -/
def execMasterResetDrain (m : Fin 32) (s : State) : Out := run s fun s =>
  (s.masterReset m).setWord (pgCat + 0x140) (setBits (s.word (pgCat + 0x140)) m 1 1)

/-- DRAIN_END (R418). -/
def execDrainEnd (m : Fin 32) (s : State) : Out := run s fun s => s.drainEnd m

/-- The PCI Express link goes down: the host's master is reset and its status clears (R420). -/
def State.pcieDown (s : State) : State :=
  if !s.bit pgPcie PCIE_STAT_up then s
  else
    let s := s.masterReset hostMaster
    let s := (((s.setBit pgPcie PCIE_STAT_up false).setFld pgPcie PCIE_STAT_speed 0).setFld pgPcie PCIE_STAT_width 0)
    (s.bump pgPcie PCIE_DOWN_n).irq pgPcie IRQ_pcie_down

/-- PCIE_LINK_DOWN (R418, R420): the link goes down, or a function-level reset; either resets the host master. -/
def execPcieLinkDown (flr : Bool) (s : State) : Out := run s fun s =>
  if flr then
    if s.bit pgPcie PCIE_STAT_up then (s.masterReset hostMaster).irq pgPcie IRQ_pcie_flr else s
  else s.pcieDown

/-- PCIE_LINK_UP (R420): generation 1 to 4; 1, 2 or 4 lanes. -/
def execPcieLinkUp (gen : Fin 8) (width : Fin 8) (s : State) : Out :=
  if 1 ≤ gen.val ∧ gen.val ≤ 4 ∧ (width.val = 1 ∨ width.val = 2 ∨ width.val = 4) then run s fun s =>
    if s.bit pgPcie PCIE_STAT_up then s
    else (((s.setBit pgPcie PCIE_STAT_up true).setFld pgPcie PCIE_STAT_speed gen).setFld pgPcie PCIE_STAT_width width).irq
      pgPcie IRQ_pcie_up
  else .fault .illFormed

/-- INTERRUPT_LINE_RISE (R421): a line found high that was low; masked: whether the host has its vector masked. -/
def execInterruptLineRise (line : Nat) (masked : Bool) (s : State) : Out :=
  if line < 16384 then run s fun s =>
    let v := getBits (s.route line) 0 6
    let s := if getBits (s.route line) 8 2 = 1 then
        { s with msixMask := if masked then s.msixMask ||| (1 <<< v) else s.msixMask &&& ~~~((1 : BitVec 64) <<< v) }
      else s
    if s.lineLevel line && !Store.get (fun _ => false) s.lines line then s.lineRise line else s
  else .fault .illFormed

/-- INT_EOI_WRITE (R421). -/
def execIntEoiWrite (a : Acc) (word : W32) (s : State) : Out := run s fun s =>
  s.viaPath a (pgInt + 0x108) fun s => s.intWrite a 0x108 word

/-- MSIX_UNMASK (R421): the pending message is sent. -/
def execMsixUnmask (vec : Fin 64) (s : State) : Out := run s fun s =>
  let s := { s with msixMask := s.msixMask &&& ~~~((1 : BitVec 64) <<< vec.val) }
  if s.msixPend.getLsbD vec then ({ s with msixPend := s.msixPend &&& ~~~((1 : BitVec 64) <<< vec.val) } : State).sendVector vec else s

end Sys2Proof.Machine
end

