-- ==== Sys2Proof/Machine/Clocks.lean ====
section
/-!
DEFINITION. Clock synthesis and phase control (R317 to R329), but for the loss of lock of a link's PLL, which the links' own
file brings.
-/
namespace Sys2Proof.Machine

/-- A bypass-capable PLL, a media synthesiser (R317). -/
def bypassCapable (n : Nat) : Bool := n ≤ 10
def mediaSynth (n : Nat) : Bool := 11 ≤ n && n ≤ 19

/-- The output frequency of a PLL with a fractional-N word, as a fraction in Hz (R317). -/
def pllOut (n : Nat) : Nat × Nat :=
  if n = 1 then (4000000000, 1) else if n = 2 then (4500000000, 1) else if 3 ≤ n ∧ n ≤ 10 then (3200000000, 1)
  else if n = 11 then (983040000, 1) else if 12 ≤ n ∧ n ≤ 15 then (11880000000, 1)
  else if 16 ≤ n ∧ n ≤ 19 then (11880000000000, 1001) else (0, 1)

/-- The frequency of the reference path (R318). -/
def State.pathHz (s : State) : Nat :=
  match s.lv pgClk CLK_REF_mode with | 1 => 108000000 | 2 => 27000000 | _ => 54000000

/-- The fractional-N word of a PLL steered by s ppt (R319). -/
def State.pllWordOf (s : State) (n : Nat) (ppt : Int) : Nat :=
  (roundDiv ((pllOut n).1 * 2 ^ 40 * (10 ^ 12 + ppt)) ((pllOut n).2 * s.pathHz * 10 ^ 12)).toNat

def State.setPllWord (s : State) (n : Nat) (ppt : Int) : State :=
  s.setFld64 (pgPll n) PLL_WORD_lo PLL_WORD_hi (s.pllWordOf n ppt)

/-- The fixed words of PLLs 1 to 10 by the live reference path. -/
def State.fixedWords (s : State) : State := (List.range 10).foldl (fun s i => s.setPllWord (i + 1) 0) s

/-- Every media synthesiser that is not frozen takes the steering value (R319). -/
def State.synthSteer (s : State) (ppt : Int) : State :=
  (List.range 9).foldl (fun s i => if s.bit (pgPll (11 + i)) PLL_STAT_frozen then s else s.setPllWord (11 + i) ppt) s

/-- The steering value of the synthesisers: CLK_MAN while CLK_STEER.src is 1, else what CUE_TOD_STEER holds (R319). -/
def State.steerNow (s : State) : Int :=
  if s.bit pgClk CLK_STEER_src then s.fldS pgClk CLK_MAN_ppt else s.fldS pgCue CUE_TOD_STEER_ppt

/-- Bit n of CLK_STAT.lock or byp. -/
def State.clkBit (s : State) (o n : Nat) (b : Bool) : State :=
  s.setWord (pgClk + o) (setBits (s.word (pgClk + o)) n 1 b.toNat)

/-- Lock is declared (R322): the cue PLL starts uptime at its first lock (R23); a bypass-capable PLL returns by itself at its
first lock, unless bypass is held (R324); a frozen synthesiser unfreezes at the next loop update (R325). -/
def State.pllLocked (s : State) (n : Nat) : State :=
  let p := pgPll n
  if s.bit p PLL_STAT_lock then s
  else
    let v := s.pl n
    let s := ((s.setBit p PLL_STAT_lock true).clkBit 0x140 n true).irq p IRQ_pll_lock
    let first := bypassCapable n && !v.locked1
    let s := s.setPl n { v with locked1 := true, unfreeze := s.bit p PLL_STAT_frozen,
                                wantReturn := v.wantReturn || (first && !s.bit pgClk CLK_CTL_hold_byp) }
    if n = 0 then { s with cueRun := true } else s

/-- The loss of lock of any PLL (R322, R323, R325): counted, reported with 0x0C0. A bypass-capable PLL starts to move its
domains and drives its fatal line until it returns; a synthesiser freezes its word; the cue PLL's timing unit runs from OSC54
(R30). -/
def State.pllLost (s : State) (n : Nat) : State :=
  let p := pgPll n
  let s := (s.setBit p PLL_STAT_lock false).clkBit 0x140 n false
  let s := ((s.bump p PLL_LOSS_n).bump pgClk CLK_LOCKLOSS_n).irq p IRQ_pll_lock_loss
  let s := (s.irq pgClk IRQ_clkCtl_lock_loss).err p 0x0C0
  let v := s.pl n
  if bypassCapable n then
    let s := s.setPl n { v with lossOpen := true, wantReturn := false, moving := v.moving || !s.bit p PLL_STAT_bypass }
    if n = 0 ∧ !s.cueByp then ({ s with cueByp := true } : State).irq pgCue IRQ_cue_bypass else s
  else if mediaSynth n then
    ((s.setPl n { v with lossOpen := true, unfreeze := false }).setBit p PLL_STAT_frozen true).clkBit 0x144 n true
  else s

/-- The move of a PLL's domains to the oscillator is complete (R323). -/
def State.pllBypassed (s : State) (n : Nat) : State :=
  let v := s.pl n
  if v.moving then
    let s := (s.setPl n { v with moving := false }).setBit (pgPll n) PLL_STAT_bypass true
    let s := ((s.clkBit 0x144 n true).irq (pgPll n) IRQ_pll_bypass).irq pgClk IRQ_clkCtl_bypass
    if n = 0 ∧ !s.cueByp then ({ s with cueByp := true } : State).irq pgCue IRQ_cue_bypass else s
  else s

/-- A PLL returns its domains from bypass (R324). -/
def State.pllReturned (s : State) (n : Nat) : State :=
  let v := s.pl n
  if v.wantReturn && s.bit (pgPll n) PLL_STAT_lock && !s.bit pgClk CLK_CTL_hold_byp then
    let s := s.setPl n { v with wantReturn := false, lossOpen := false, moving := false }
    let s := (s.setBit (pgPll n) PLL_STAT_bypass false).clkBit 0x144 n false
    if n = 0 then { s with cueByp := false } else s
  else s

/-- CLK_CTL was written: setting hold_byp moves every bypass-capable PLL to bypass and stops returns (R323, R324). -/
def State.clkCtlWritten (s : State) (old : W32) : State :=
  if s.bit pgClk CLK_CTL_hold_byp && !old.getLsbD 0 then
    (List.range 11).foldl (fun s n =>
      let v := s.pl n
      s.setPl n { v with wantReturn := false, moving := v.moving || !s.bit (pgPll n) PLL_STAT_bypass }) s
  else s

/-- While CLK_STEER.src is 1, CLK_MAN steers the synthesisers from the TICK after a write of either (R319). -/
def State.manSteer (s : State) : State :=
  if s.bit pgClk CLK_STEER_src then s.synthSteer (s.fldS pgClk CLK_MAN_ppt) else s

/-- A write of the clock control page. -/
def State.clkHook (s : State) (o : Nat) (old : W32) : State :=
  if o = 0x104 then (s.clkCtlWritten old).manSteer else if o = 0x108 then s.manSteer else s

def State.clkWrite (s : State) (a : Acc) (o : Nat) (w : W32) : State :=
  let r := s.storeWord a pgClk .clkCtl 0 o w
  if r.ok then r.s.clkHook o r.old else r.s

/-- A write of a PLL page: a phase target (R326), ignored with 0x0C2 on a PLL without phase control; a return from bypass,
ignored with 0x0C1 without lock or while bypass is held (R324). -/
def State.pllHook (s : State) (a : Acc) (n o : Nat) (old eff : W32) : State :=
  let p := pgPll n
  if o = 0x104 then
    if mediaSynth n then s.setBit p PLL_STAT_ph_busy (s.fldS p PLL_PH_target != s.fldS p PLL_PH_now)
    else (s.setWord (p + 0x104) old).accErr p 0x0C2 a accWrite (p + 0x104)
  else if o = 0x118 ∧ eff.getLsbD 0 then
    if s.bit p PLL_STAT_lock && !s.bit pgClk CLK_CTL_hold_byp then
      if s.bit p PLL_STAT_bypass then s.setPl n { s.pl n with wantReturn := true } else s
    else s.accErr p 0x0C1 a accWrite (p + 0x118)
  else s

def State.pllWrite (s : State) (a : Acc) (n o : Nat) (w : W32) : State :=
  let r := s.storeWord a (pgPll n) .pll n o w
  if r.ok then r.s.pllHook a n o r.old r.eff else r.s

/-- A phase error, in 2^-8 cue, lies within the window of its PLL (R322). -/
def State.pllWithin (s : State) (n : Nat) (err : W32) : Bool := err.toInt.natAbs ≤ s.lv (pgPll n) PLL_LOCK_win * 256

/-- A media synthesiser measures at its comparison instants, the uptime multiples of 220,500 cues (R320, R322). -/
def State.pllMeasures (s : State) (n : Nat) : Bool := !mediaSynth n || s.onMultiple pitPer

/-- PLL_LOCK (R322): the last phase error measured, and the measurements in a row within the window that it completes. -/
def execPllLock (n : Fin 26) (got : PllMeasure) (s : State) : Out := run s fun s =>
  if s.bit (pgPll n) PLL_STAT_lock ∨ !s.pllMeasures n ∨ !s.pllWithin n got.err ∨ got.cycles < s.lv (pgPll n) PLL_LOCK_n then s
  else (s.setWord (pgPll n + 0x114) got.err).pllLocked n

/-- HOLD_BYPASS_WRITE (R323): CLK_CTL written as a word. -/
def execHoldBypassWrite (a : Acc) (word : W32) (s : State) : Out := run s fun s =>
  s.viaPath a (pgClk + 0x104) (fun s => s.clkWrite a 0x104 word)

/-- PLL_BYPASS_RETURN_WRITE (R324). -/
def execPllBypassReturnWrite (a : Acc) (n : Fin 26) (s : State) : Out := run s fun s =>
  s.viaPath a (pgPll n + 0x118) (fun s => s.pllWrite a n 0x118 1)

/-- CLK_MAN_WRITE (R319). -/
def execClkManWrite (a : Acc) (word : W32) (s : State) : Out := run s fun s =>
  s.viaPath a (pgClk + 0x108) (fun s => s.clkWrite a 0x108 word)

/-- PLL_PHASE_TARGET_WRITE (R326). -/
def execPllPhaseTargetWrite (a : Acc) (n : Fin 26) (word : W32) (s : State) : Out := run s fun s =>
  s.viaPath a (pgPll n + 0x104) (fun s => s.pllWrite a n 0x104 word)

/-- PLL_PHASE_STEP (R326): one 1/256 step toward the target; at the target IRQ ph_done. -/
def execPllPhaseStep (n : Fin 26) (s : State) : Out := run s fun s =>
  let p := pgPll n
  if s.bit p PLL_STAT_ph_busy then
    let t := s.fldS p PLL_PH_target
    let c := s.fldS p PLL_PH_now
    let c' := if c < t then c + 1 else if t < c then c - 1 else c
    let s := s.setFld p PLL_PH_now (ofSigned 16 c')
    let s := if c' = c then s else s.bump p PLL_PHSTEPS_n
    if c' = t then (s.setBit p PLL_STAT_ph_busy false).irq p IRQ_pll_ph_done else s
  else s

end Sys2Proof.Machine
end

