-- ==== Sys2Proof/Machine/Faults.lean ====
section
/-!
DEFINITION. Fatal lines, the fault pins and the service pin, and firmware faults (R424 to R439).
-/
namespace Sys2Proof.Machine

/-! ### Fatal lines (R428) -/

/-- The fatal line of a page. A device that a stored record had retired before training does not count as failed (R464). -/
def State.fatalLine (s : State) (p : Nat) (k : PageKind) (i : Nat) : Bool :=
  let forced (b : Nat) : Bool := (s.forcedIrq p).getLsbD b
  match k with
  | .pll =>
    if bypassCapable i then (s.pl i).lossOpen || (s.bit p PLL_STAT_bypass && s.bit pgClk CLK_CTL_hold_byp) || forced 2
    else if mediaSynth i then s.bit p PLL_STAT_frozen || forced 1
    else false
  | .prc => !s.bit p SM_STAT_lockstep_ok || forced 0
  | .drcTrn => 2 ≤ (List.range 10).countP (fun d => (s.fld p DRC_TRN_STAT_fail).testBit d &&
      d != (s.ch i).stored) || forced 1
  | .dev => s.bit p DEV_FWFATAL_set || forced 3
  | _ => false

/-- The pages with a fatal line. -/
def fatalPages : List (Nat × PageKind × Nat) :=
  (List.range 20).map (fun n => (pgPll n, .pll, n)) ++ [(pgPrc, .prc, 0), (pgDev, .dev, 0)] ++
    (List.range 8).map (fun n => (pgDrc n 1, .drcTrn, n))

/-- Some fatal line is driven. -/
def State.anyFatal (s : State) : Bool := fatalPages.any (fun e => s.fatalLine e.1 e.2.1 e.2.2)

/-! ### SVC_N (R434) -/

/-- The group code of a page (R40): the start of its range in the table. -/
def groupCode (a : Nat) : Nat :=
  ([0, 1, 2, 3, 4, 8, 0x0A, 0x0C, 0x0D, 0x10, 0x14, 0x18, 0x19, 0x1A, 0x1C, 0x1E, 0x1F].filter (fun c => c ≤ a / 0x100000)).foldl
    max 0

/-- What holds SVC_N: fatal lines, captures of groups not masked, configuration faults, firmware flags (DEV_FLT_STAT.why). -/
def State.svcWhy (s : State) : Nat :=
  let cap := s.regs.any (fun e => e.1 % 0x1000 == 0x1C && e.2.getLsbD 31 &&
    !(s.fld pgDev DEV_SVC_MASK).testBit (groupCode e.1))
  let cfg := s.regs.any (fun e => e.1 % 0x1000 == 0x0C && e.2.getLsbD 3)
  s.anyFatal.toNat + 2 * cap.toNat + 4 * cfg.toNat + 8 * (s.fld pgDev DEV_FWFLT != 0).toNat

/-- SVC_N is held low: while it has a reason, under test, and until the power-on fill is complete (R432). -/
def State.svcLow (s : State) : Bool := !s.booted || s.svcWhy != 0 || s.bit pgDev DEV_FLT_CTL_svc_test

/-- DEV_FLT_STAT as it reads. -/
def State.fltStat (s : State) : W32 :=
  let w := setBits (s.word (pgDev + 0x300)) 2 1 s.svcLow.toNat
  setBits w 8 4 s.svcWhy

/-! ### The pins (R429 to R431) -/

/-- Every SDI transmit lane that is awake goes to sleep, to be woken when the fault is over (R430). -/
def State.sdiSleep (s : State) : State :=
  (List.range 512).foldl (fun s L =>
    if s.bit (pgTxl L) TXL_STAT_awake || (s.tx L).waking then
      let s := (s.txAbort L).setBit (pgTxl L) TXL_STAT_awake false
      { s.setTx L { s.tx L with waking := false } with sdiSlept := s.sdiSlept ++ [L] }
    else s) s

/-- The lanes put to sleep are woken, but for those that software has put to sleep since. -/
def State.sdiWake (s : State) : State :=
  let s' := s.sdiSlept.foldl (fun s L =>
    if s.bit (pgTxl L) TXL_CTL_sleep then s else s.setTx L { s.tx L with waking := true }) s
  { s' with sdiSlept := [] }

/-- The pins invert. -/
def State.fatalAssert (s : State) : State :=
  let s := { s with fltT := true, fltC := false }
  let s := ((s.setBit pgDev DEV_FLT_STAT_fault true).bump pgDev DEV_FATAL_EV_n).irq pgDev IRQ_dev_fault
  s.when (s.bit pgDev DEV_FLT_CTL_sdi_sleep) (fun s => s.sdiSleep)

/-- The pins return to normal. -/
def State.fatalClear (s : State) : State :=
  ({ s with fltT := false, fltC := true } : State).setBit pgDev DEV_FLT_STAT_fault false |>.sdiWake

/-- The levels of FLT_T and FLT_C as driven: DEV_FLT_CTL.pin_test drives both high (R433). -/
def State.fltPins (s : State) : Bool × Bool := if s.bit pgDev DEV_FLT_CTL_pin_test then (true, true) else (s.fltT, s.fltC)

/-! ### The fault fields of the device page (R435, R436, R438) -/

def State.faultHook (s : State) (o : Nat) (old eff : W32) : State :=
  if o = 0x304 then s.when (s.fltT && s.booted && s.bit pgDev DEV_FLT_CTL_sdi_sleep && !old.getLsbD 1) (fun s => s.sdiSleep)
  else if o = 0x30C then s.setWord (pgDev + 0x308) (s.word (pgDev + 0x308) ||| eff)
  else if o = 0x310 then
    if s.bit pgDev DEV_FWFATAL_set && !old.getLsbD 0 then (s.irq pgDev IRQ_dev_fw_fatal).err pgDev 0x003 else s
  else s

def State.faultWrite (s : State) (a : Acc) (o : Nat) (w : W32) (hw : Option W32 := none) : State :=
  let r := s.storeWord a pgDev .dev 0 o w hw
  if r.ok then r.s.faultHook o r.old r.eff else r.s

/-! ### The commands -/

/-- FATAL_ASSERT (R429, R430). -/
def execFatalAssert (s : State) : Out := run s fun s => if s.anyFatal && !s.fltT then s.fatalAssert else s

/-- FATAL_CLEAR (R431, R432). -/
def execFatalClear (s : State) : Out := run s fun s => if !s.anyFatal && s.fltT && s.booted then s.fatalClear else s

/-- PIN_READBACK_FAIL (R433): of the fault pins, or of SVC_N reading high while it is held low. -/
def execPinReadbackFail (svc : Bool) (s : State) : Out := run s fun s =>
  if svc then
    if s.svcLow then
      (((s.setBit pgDev DEV_FLT_STAT_svc_bad true).bump pgDev DEV_PIN_BAD_n).irq pgDev IRQ_dev_svc_bad).err pgDev 0x002
    else s
  else (((s.setBit pgDev DEV_FLT_STAT_pin_bad true).bump pgDev DEV_PIN_BAD_n).irq pgDev IRQ_dev_pin_bad).err pgDev 0x001

/-- FWFLT_SET (R435). -/
def execFwfltSet (a : Acc) (word : W32) (s : State) : Out := run s fun s =>
  s.viaPath a (pgDev + 0x30C) fun s => s.faultWrite a 0x30C word

/-- FWFLT_CLEAR (R435): flags set in the same cycle stay set. -/
def execFwfltClear (a : Acc) (word : W32) (setNow : W32) (s : State) : Out := run s fun s =>
  s.viaPath a (pgDev + 0x308) fun s =>
    (s.setWord (pgDev + 0x308) (s.word (pgDev + 0x308) ||| setNow)).faultWrite a 0x308 word (some setNow)

/-- FWFATAL_WRITE (R436). -/
def execFwfatalWrite (a : Acc) (word : W32) (s : State) : Out := run s fun s =>
  s.viaPath a (pgDev + 0x310) fun s => s.faultWrite a 0x310 word

end Sys2Proof.Machine
end

