-- ==== Sys2Proof/Machine/Refs.lean ====
section
/-!
DEFINITION. Reference selection and holdover (R301 to R316), with the ramp generator (R321).
-/
namespace Sys2Proof.Machine

/-! ### Inputs (R301) -/

/-- The kind of an input: 0 frame pulse, 1 line pulse, 2 10 MHz, 3 1 PPS, 4 PTP, 5 beacon, 6 SDI, 7 Twin. -/
def State.refKind (s : State) (i : Nat) : Nat :=
  if i < 4 then s.lv (pgRef i) REF_IN_kind else if i < 6 then 4 else if i = 6 then 5 else if i < 9 then 6 else 7

/-- The time-carrying inputs. -/
def timeCarrying (i : Nat) : Bool := i == 4 || i == 5 || i == 6 || i == 9

/-- Input states (R306). -/
def riOff : Nat := 0
def riInactive : Nat := 1
def riQualifying : Nat := 2
def riQualified : Nat := 3
def riOver : Nat := 4

def State.refState (s : State) (i : Nat) : Nat := s.fld (pgRef i) REF_IN_STAT_state
def State.setRefState (s : State) (i st : Nat) : State := s.setFld (pgRef i) REF_IN_STAT_state st

/-- Total lines of REF_IN.lines. -/
def refLines (c : Nat) : Nat := [525, 625, 750, 1125, 2250].getD c 1125

/-- The format of the lane of an SDI input. -/
def State.refLaneFmt (s : State) (i : Nat) : Option Fmt :=
  (Store.get (fun _ => ({} : Deframer)) s.defr (s.lv (pgRef i) REF_IN_lane)).fmt

/-- The frame period of an input that delivers frames. -/
def State.refPer (s : State) (i : Nat) : Nat :=
  if s.refKind i = 6 then ((s.refLaneFmt i).map (fun f => perOf f.rate)).getD 0 else perOf (s.lv (pgRef i) REF_IN_rate)

/-- The nominal period of an input as a fraction of cues (R304); zero for time-carrying inputs. -/
def State.refNominal (s : State) (i : Nat) : Nat × Nat :=
  match s.refKind i with
  | 0 | 6 => (s.refPer i, 1)
  | 1 => (s.refPer i, refLines (s.lv (pgRef i) REF_IN_lines))
  | 2 => (10584, 10)
  | 3 => (cueSec, 1)
  | _ => (0, 1)

/-- The activity timeout in cues (R305). -/
def State.refTimeout (s : State) (i : Nat) : Nat :=
  let us := s.lv (pgRef i) REF_ACT_us
  if us ≠ 0 then us * cueUs
  else match s.refKind i with
    | 4 => cueSec
    | 5 => 7938000
    | 7 => 31752000
    | _ => 3 * (s.refNominal i).1 / (s.refNominal i).2

/-- The bound of a short interval (R307); zero for kinds that are never over-range. -/
def State.refBound (s : State) (i : Nat) : Nat :=
  match s.refKind i with
  | 0 => 44100000 | 1 => 39200 | 2 => 529 | 3 => 5292000000 | _ => 0

/-- The input is enabled: by its live setting, and input 9 in Joining and Understudy whatever it says (R360). -/
def State.refEnabled (s : State) (i : Nat) : Bool :=
  s.lbit (pgRef i) REF_IN_en || (i == 9 && (s.role == roleUnderstudy || s.role == roleJoining))

/-! ### Phase errors (R303) -/

/-- x reduced modulo per into [-per/2, per/2). -/
def centred (x per : Int) : Int := if per = 0 then 0 else (x + per / 2) % per - per / 2

/-- The distance of a frame phase (in 2^-40 cue) from the nearest line start of its grid (R22, R303). -/
def linePhase (x : Int) (per lines : Nat) : Int :=
  let one : Int := 2 ^ 40
  let pos := x % (per * one)
  let k := (pos / one).toNat * lines / per
  let d := fun (j : Nat) => pos - (lineStart per lines j : Nat) * one
  let near := fun (a b : Int) => if b.natAbs < a.natAbs then b else a
  near (near (d (k - 1)) (d k)) (d (k + 1))

/-- The phase error of an event in 2^-40 cue; none where its uptime lies outside the log, or the kind gives none. m is the
time of day it stands for, in 2^-30 cue. -/
def State.refError (s : State) (i upt : Nat) (m : Int) : Option Int :=
  match s.tod.at upt with
  | none => none
  | some d =>
    let ph : Int := s.lvS (pgRef i) REF_IN_PH_cues * 2 ^ 40
    match s.refKind i with
    | 0 | 6 => some (centred (d - ph) (s.refPer i * 2 ^ 40 : Nat))
    | 1 => some (linePhase (d - ph) (s.refPer i) (refLines (s.lv (pgRef i) REF_IN_lines)))
    | 2 => none
    | 3 => some (centred (d - ph) (cueSec * 2 ^ 40 : Nat))
    | _ => some (d - m * 2 ^ 10)

/-! ### Selection (R308, R309) -/

def State.refSelIn (s : State) : Nat := s.fld pgSel REF_STAT_sel
def State.refTgt (s : State) : Nat := s.fld pgSel REF_STAT_tgt

/-- The Understudy's choice of the Lead's time comes before all others; Joining holds the Understudy's claim (log entry 28). -/
def State.slaved (s : State) : Bool := s.role == roleUnderstudy || s.role == roleJoining

def State.refEligible (s : State) (i : Nat) : Bool :=
  s.refEnabled i && s.refState i == riQualified && s.fld (pgRef i) REF_QUAL_q < 255 && (timeCarrying i || s.held) &&
    (i != 9 || s.slaved)

/-- The key of an input as one number: a chosen input before all, then quality, priority and number. -/
def State.refKey (s : State) (i : Nat) : Nat :=
  let cls :=
    if i = 9 ∧ s.slaved then 0
    else if s.lbit pgSel REF_CTL_force_en ∧ s.lv pgSel REF_CTL_force_in = i then 1 else 2
  ((cls * 256 + s.fld (pgRef i) REF_QUAL_q) * 16 + s.lv (pgRef i) REF_IN_prio) * 16 + i

/-- The best eligible input, none in a forced Holdover. -/
def State.refBest (s : State) : Option Nat :=
  if s.lbit pgSel REF_CTL_hold then none
  else (List.range 10).foldl (fun b i =>
    if s.refEligible i then
      match b with
      | some j => if s.refKey i < s.refKey j then some i else b
      | none => some i
    else b) none

/-- CUE_TOD_CTL.src of an input. -/
def srcCode (i : Nat) : Nat := if i = 4 then 1 else if i = 5 then 2 else if i = 6 then 3 else if i = 9 then 4 else 0

/-- CUE_TOD_CTL.src shows the selected time-carrying input, or the target of an acquisition, or 0 (R312). -/
def State.showSrc (s : State) : State :=
  let sel := s.refSelIn
  let v := if sel < 10 then srcCode sel else if s.refSel.acqDone ∧ s.refTgt < 10 then srcCode s.refTgt else 0
  s.setFld pgCue CUE_TOD_CTL_src v

/-- Selector states. -/
def selFree : Nat := 0
def selSwitching : Nat := 1
def selTracking : Nat := 2
def selHoldover : Nat := 3

def State.selSet (s : State) (st sel tgt : Nat) : State :=
  ((s.setFld pgSel REF_STAT_state st).setFld pgSel REF_STAT_sel sel).setFld pgSel REF_STAT_tgt tgt

/-- A new target: the selector is Switching, the ramp goes on from where y stands. -/
def State.selTarget (s : State) (b : Nat) : State :=
  { s.selSet selSwitching 0xF b with refSel := { s.refSel with acqDone := false } }

/-- The selector evaluates its inputs (R309). -/
def State.refSelect (s : State) : State :=
  let st := s.fld pgSel REF_STAT_state
  let s :=
    if !s.lbit pgSel REF_CTL_en then
      if st = selFree then s else { s.selSet selFree 0xF 0xF with refSel := { s.refSel with y := 0, v := 0 } }
    else match s.refBest with
      | none =>
        if st = selSwitching ∨ st = selTracking then
          ((s.selSet selHoldover 0xF 0xF).bump pgSel REF_HOLDOVER_n).irq pgSel IRQ_refSel_holdover
        else s
      | some b =>
        if st = selFree ∨ st = selHoldover then (s.selTarget b).irq pgSel IRQ_refSel_switching
        else if st = selSwitching then
          if !s.refEligible s.refTgt then s.selTarget b
          else if s.refKey b < s.refKey s.refTgt then
            ((s.selTarget b).bump pgSel REF_RETARGET_n).irq pgSel IRQ_refSel_retarget
          else s
        else if !s.refEligible s.refSelIn then (s.selTarget b).irq pgSel IRQ_refSel_switching
        else if s.refKey b < s.refKey s.refSelIn ∧
            (s.lbit pgSel REF_CTL_revert ∨ s.refKey b / 65536 < 2) then
          (s.selTarget b).irq pgSel IRQ_refSel_switching
        else s
  let forced := s.refSelIn < 10 && s.lbit pgSel REF_CTL_force_en && s.lv pgSel REF_CTL_force_in == s.refSelIn
  (s.setBit pgSel REF_STAT_forced forced).showSrc

/-- Selection runs again where the selected input or the target stopped being eligible. -/
def State.refRecheck (s : State) : State :=
  let bad := fun i => i < 10 && !s.refEligible i
  if bad s.refSelIn || bad s.refTgt then s.refSelect else s

/-! ### Events (R302, R305 to R307, R312) -/

/-- An event whose uptime lies in the future or more than a second past is discarded (R303). -/
def State.refBad (s : State) (i : Nat) : State :=
  ((s.bump (pgRef i) REF_IN_BADMEAS_n).irq (pgRef i) IRQ_refIn_badmeas).err (pgRef i) 0x0B0

/-- Over-range of a REFIN input (R306, R307). -/
def State.refOver (s : State) (i : Nat) : State :=
  let st := s.refState i
  if st = riInactive ∨ st = riQualifying ∨ st = riQualified then
    let s := ((s.setRefState i riOver).bump (pgRef i) REF_IN_OVR_n).irq (pgRef i) IRQ_refIn_over_range
    (s.err (pgRef i) 0x0B1).refRecheck
  else s

/-- The interval that an event of a REFIN input ends: eight short ones in a row are over-range. -/
def State.refInterval (s : State) (i upt : Nat) : State :=
  if i < 4 then
    let v := s.ri i
    match v.events.getLast? with
    | some e =>
      if upt - e.upt < s.refBound i then
        let s := s.setRi i { v with short := v.short + 1, lastShort := upt }
        if 8 ≤ v.short + 1 then s.refOver i else s
      else s.setRi i { v with short := 0 }
    | none => s
  else s

/-- A phase error of the selected input beyond REF_PH.far (R312): counted and raised when the state begins (DEDUCED, log entry 182). -/
def State.refFar (s : State) (e : Int) : State :=
  let far := s.lv pgSel REF_PH_far * cueUs * 2 ^ 40 < e.natAbs
  let was := s.bit pgSel REF_STAT_phase_far
  let s := s.setBit pgSel REF_STAT_phase_far far
  s.when (far && !was) (fun s => (s.bump pgSel REF_PHFAR_n).irq pgSel IRQ_refSel_phase_far)

/-- Cues of an error in 2^-40 cue, in a signed 32-bit register, saturating. -/
def errCues (e : Int) : Nat := ofSigned 32 (satSigned 32 (roundDiv e (2 ^ 40)))

/-- An event of input i acquires time of day: the first of the target since it became target, while time of day is Unset. The
ramp may have selected the target by then (R312). -/
def State.acquires (s : State) (i : Nat) : Bool :=
  !s.held && timeCarrying i && !s.refSel.acqDone && (s.refTgt == i || s.refSelIn == i)

/-- The phase error of an event reaches its registers. It requests the acquisition step, which takes it out; otherwise it
reaches the loop if the input is selected. -/
def State.refPhase (s : State) (i : Nat) (e : Int) : State :=
  let s := s.setFld (pgRef i) REF_IN_ERR_cues (errCues e)
  let s := if i = 9 then s.setFld pgPair PAIR_TODERR_cues (errCues e) else s
  if s.acquires i then
    ({ s with tod := { s.tod with servoStep := some (-e) }, refSel := { s.refSel with acqDone := true } }).showSrc
  else if s.refSelIn = i then
    let s := (s.setFld pgSel REF_PHERR_cues (errCues e)).setRi i { s.ri i with errs := (s.ri i).errs ++ [e] }
    if s.held then s.refFar e else s
  else s

/-- An event of an input. m is its time of day in 2^-30 cue; q its quality where the hardware writes it (R308). -/
def State.refEvent (s : State) (i upt : Nat) (m : Int) (q : Option Nat) : State :=
  if !s.refEnabled i || s.refState i == riOff then s
  else if s.now < upt || upt + cueSec < s.now then s.refBad i
  else
    let s := s.refInterval i upt
    let v := s.ri i
    let keep := v.events.filter (fun e => s.now ≤ e.upt + cueSec)
    let s := s.setRi i { v with events := keep ++ [⟨upt, m⟩] }
    let s := s.setFld64 (pgRef i) REF_IN_LAST_lo REF_IN_LAST_hi upt
    let s := match q with | some x => s.setFld (pgRef i) REF_QUAL_q x | none => s
    let s := if s.refState i = riInactive then (s.setRefState i riQualifying).setFld (pgRef i) REF_IN_CNT_acc 0 else s
    match s.refError i upt m with
    | some e => s.refPhase i e
    | none => s

/-- Activity is lost (R305, R306). -/
def State.refQuiet (s : State) (i : Nat) : State :=
  let st := s.refState i
  if st = riQualifying ∨ st = riQualified then
    let s := ((s.setRefState i riInactive).bump (pgRef i) REF_IN_ACTLOSS_n).irq (pgRef i) IRQ_refIn_act_loss
    (s.setRi i { s.ri i with events := [] }).refRecheck
  else s

/-- The timeout of an input has passed, or its lane has no lock or no format (R305). -/
def State.refSilent (s : State) (i : Nat) : Bool :=
  let last := s.fld64 (pgRef i) REF_IN_LAST_lo REF_IN_LAST_hi
  last + s.refTimeout i < s.now || (s.refKind i == 6 &&
    (!s.bit (pgRxl (s.lv (pgRef i) REF_IN_lane)) RXL_STAT_lock || (s.refLaneFmt i).isNone))

/-! ### Monitor instants (R304, R306) -/

/-- The frequency offset of an input in ppt, from the first and last events of the trailing second; none with fewer than two. -/
def State.refFreq (s : State) (i : Nat) : Option Int :=
  let ev := (s.ri i).events.filter (fun e => s.now ≤ e.upt + cueSec)
  match ev.head?, ev.getLast? with
  | some x, some y =>
    let du := y.upt - x.upt
    if du = 0 then none
    else
      let osc := s.lvS pgSel REF_OSC_ppt
      if timeCarrying i then
        some (roundDiv ((y.m - x.m - du * 2 ^ 30) * 10 ^ 12) (du * 2 ^ 30) - osc)
      else
        let (pn, pd) := s.refNominal i
        if pn = 0 then none
        else
          let n := roundDiv (du * pd) pn
          some (roundDiv ((n * pn - du * pd) * 10 ^ 12) (du * pd) - osc)
  | _, _ => none

/-- One input at a monitor instant: its frequency, its counts, its warning. -/
def State.refMonitor (s : State) (i : Nat) : State :=
  let p := pgRef i
  match s.refFreq i with
  | none => s
  | some f =>
    let s := s.setFld p REF_IN_FREQ_ppt (ofSigned 32 (satSigned 32 f))
    let af := f.natAbs
    let warn := s.lv pgSel REF_WARN_ppb * 1000 ≤ af
    let was := s.bit p REF_IN_STAT_warn
    let s := s.setBit p REF_IN_STAT_warn warn
    let s := s.when (warn && !was) (fun s => (s.bump p REF_IN_WARN_n).irq p IRQ_refIn_warn)
    let st := s.refState i
    if st = riQualifying then
      if af ≤ s.lv pgSel REF_ACC_ppb * 1000 then
        let n := s.fld p REF_IN_CNT_acc + 1
        let s := s.setFld p REF_IN_CNT_acc n
        if s.lv pgSel REF_ACC_time ≤ n then
          ((s.setRefState i riQualified).setFld p REF_IN_CNT_rej 0).irq p IRQ_refIn_qualified
        else s
      else s.setFld p REF_IN_CNT_acc 0
    else if st = riQualified then
      if s.lv pgSel REF_REJ_ppb * 1000 < af then
        let n := s.fld p REF_IN_CNT_rej + 1
        let s := s.setFld p REF_IN_CNT_rej n
        if s.lv pgSel REF_REJ_time ≤ n then
          (((s.setRefState i riQualifying).setFld p REF_IN_CNT_acc 0).bump p REF_IN_REJ_n).irq p IRQ_refIn_rejected
        else s
      else s.setFld p REF_IN_CNT_rej 0
    else s

/-- The settings of an input as they stand live. -/
def State.refCfg (s : State) (i : Nat) : Nat × Nat × Nat × Nat × Nat :=
  let p := pgRef i
  (s.lv p REF_IN_kind, s.lv p REF_IN_rate, s.lv p REF_IN_lines, s.lv p REF_IN_lane, s.lv p REF_IN_PH_cues)

/-- An input follows its enable, and a change of kind, rate, lines, lane or phase makes it Inactive (R306). -/
def State.refFollow (s : State) (i : Nat) (changed : Bool) : State :=
  let st := s.refState i
  if !s.refEnabled i then if st = riOff then s else (s.setRefState i riOff).setRi i {}
  else if st = riOff then s.setRefState i riInactive
  else if changed then (s.setRefState i riInactive).setRi i {}
  else s

/-- The commits that wait for a monitor instant (R314, R315). -/
def State.refApply (s : State) : State :=
  let s := s.applySlot pgSel .refSel 0
  (List.range 10).foldl (fun s i =>
    let old := s.refCfg i
    let s := s.applySlot (pgRef i) .refIn 0
    s.refFollow i (old != s.refCfg i)) s

/-! ### The ramp (R321), the loop (R310) and holdover (R313) -/

/-- The ramp moves y one update toward a goal, both in 10^-6 ppt. -/
def State.ramp (s : State) (goal : Int) : State :=
  let r := s.refSel
  let d := goal - r.y
  let slope : Int := s.lv pgClk CLK_RAMP_slope
  let acc := s.lv pgClk CLK_RAMP_acc
  let mag : Int :=
    if s.lv pgClk CLK_RAMP_prof = 0 then slope else min slope (Nat.sqrt (2 * acc * d.natAbs / 10 ^ 6))
  let want := (if d < 0 then -mag else mag) * 1000
  let v := if s.lv pgClk CLK_RAMP_prof = 0 then want else max (r.v - acc) (min (r.v + acc) want)
  let y := r.y + v
  let past := d = 0 ∨ (0 < d ∧ goal ≤ y) ∨ (d < 0 ∧ y ≤ goal)
  let s := { s with refSel := { r with y := if past then goal else y, v := if past then 0 else v } }
  s.setFld pgClk CLK_RAMP_v (ofSigned 32 (s.refSel.v.tdiv 1000))

/-- The default bandwidth of a kind in 0.01 Hz (R301). -/
def bwDefault (k : Nat) : Nat := [50, 50, 200, 5, 5, 10, 100, 1000].getD k 50

/-- y from the selected input, clamped (R310). -/
def State.loop (s : State) (i : Nat) : State :=
  let b := s.lv (pgRef i) REF_BW_chz
  let bw := if b = 0 then bwDefault (s.refKind i) else b
  let r := s.refSel
  let lim : Int := s.lv pgSel REF_YLIM_ppt * 10 ^ 6
  let (y, g) :=
    if s.refKind i = 2 then (Config.freqLoop r.y (s.fldS (pgRef i) REF_IN_FREQ_ppt) bw, r.integ)
    else Config.loopFilter r.y r.integ bw (s.ri i).errs
  let s := s.setRi i { s.ri i with errs := [] }
  { s with refSel := { s.refSel with y := max (-lim) (min lim y), integ := g } }

/-- The holdover value in 10^-6 ppt: the mean of the ring, 0 when it is empty. -/
def RefSel.avg (r : RefSel) : Int := if r.ring.isEmpty then 0 else roundDiv r.ring.sum r.ring.length

/-- The ramp has reached the target's offset: it is selected, and the loop starts from y (R309). -/
def State.refReached (s : State) : State :=
  let t := s.refTgt
  let s := { s.selSet selTracking t 0xF with refSel := { s.refSel with integ := s.refSel.y } }
  let s := s.setRi t { s.ri t with errs := [] }
  ((s.bump pgSel REF_SWITCH_n).irq pgSel IRQ_refSel_tracking).refSelect

/-- The loop update (R310, R311): y by the selector's state, to time of day and to the media synthesisers; a synthesiser that
has locked again unfreezes (R325). -/
def State.loopUpdate (s : State) : State :=
  let st := s.fld pgSel REF_STAT_state
  let s :=
    if st = selTracking then s.loop s.refSelIn
    else if st = selSwitching then
      let goal := s.fldS (pgRef s.refTgt) REF_IN_FREQ_ppt * 10 ^ 6
      let s := s.ramp goal
      if s.refSel.y = goal then s.refReached else s
    else if st = selHoldover then s.ramp s.refSel.avg
    else { s with refSel := { s.refSel with y := 0, v := 0 } }
  let r := s.refSel
  let s := { s with refSel := { r with ySum := r.ySum + r.y, yCount := r.yCount + 1, whole := r.whole && st == selTracking } }
  let ppt := satSigned 32 (roundDiv r.y (10 ^ 6))
  let s := (s.setFld pgSel REF_Y_ppt (ofSigned 32 ppt)).loopSteer ppt
  let s := (List.range 9).foldl (fun s j =>
    let n := 11 + j
    if (s.pl n).unfreeze then
      ((s.setPl n { s.pl n with unfreeze := false, lossOpen := false }).setBit (pgPll n) PLL_STAT_frozen false).clkBit 0x144 n false
    else s) s
  s.synthSteer s.steerNow

/-- A whole second of uptime has passed: spent entirely in Tracking, the mean of y enters the ring (R313). -/
def State.holdoverSecond (s : State) : State :=
  let r := s.refSel
  let ring :=
    if r.whole && r.yCount != 0 then (roundDiv r.ySum r.yCount :: r.ring).take (s.lv pgSel REF_HO_secs) else r.ring
  let s := { s with refSel := { r with ring := ring, ySum := 0, yCount := 0, whole := s.fld pgSel REF_STAT_state == selTracking } }
  let s := s.setFld pgSel REF_HOAVG_ppt (ofSigned 32 (satSigned 32 (roundDiv s.refSel.avg (10 ^ 6))))
  s.setFld pgSel REF_HOSEC_n ring.length

/-- What a write to an input page does beyond storing the word: REF_PTP_GO submits the measurement (R302). -/
def State.refHook (s : State) (i o : Nat) (eff : W32) : State :=
  if o = 0x198 ∧ eff.getLsbD 0 then
    let p := pgRef i
    let sec := s.fld64 p REF_PTP_SEC_lo REF_PTP_SEC_hi
    let cos := s.fld p REF_PTP_COSH_cos * 2 ^ 32 + s.fld p REF_PTP_COS_lo
    let m : Nat := (sec * cueSec + cos) * 2 ^ 30 + s.fld p REF_PTP_COSH_frac
    s.refEvent i (s.fld64 p REF_PTP_U_lo REF_PTP_U_hi) m none
  else s

def State.refWrite (s : State) (a : Acc) (i o : Nat) (w : W32) (hw : Option W32) : State :=
  let r := s.storeWord a (pgRef i) .refIn i o w hw
  if r.ok then r.s.refHook i o r.eff else r.s

/-! ### The commands -/

/-- REFERENCE_EVENT (R302). The edge of a REFIN pin is active as REF_IN.pol says. upt: its uptime stamp; m: its time of day in
2^-30 cue, for a time-carrying input; q: the quality that a beacon or the twin brings. -/
def execReferenceEvent (edge : RefEdge) (upt m q : Nat) (s : State) : Out := run s fun s =>
  if edge.input.val < 4 ∧ s.lbit (pgRef edge.input) REF_IN_pol = edge.rising then s
  else s.refEvent edge.input upt m (if edge.input.val = 6 ∨ edge.input.val = 9 then some q else none)

/-- REF_PTP_SUBMIT (R302), on input 4 or 5. -/
def execRefPtpSubmit (a : Acc) (inst : Fin 2) (s : State) : Out := run s fun s =>
  s.viaPath a (pgRef (4 + inst) + 0x198) (fun s => s.refWrite a (4 + inst) 0x198 1 none)

/-- MONITOR_INSTANT (R304, R306, R309): at each uptime multiple of 100 ms. -/
def execMonitorInstant (s : State) : Out := run s fun s =>
  s.periodic 0 (100 * cueMs) fun s => ((List.range 10).foldl (fun s i => s.refMonitor i) s.refApply).refSelect

/-- REF_ACTIVITY_LOSS (R305). -/
def execRefActivityLoss (input : Fin 10) (s : State) : Out := run s fun s =>
  if s.refSilent input then s.refQuiet input else s

/-- REF_OVER_RANGE_EXIT (R306): a second without a short interval. -/
def execRefOverRangeExit (input : Fin 10) (s : State) : Out := run s fun s =>
  if s.refState input = riOver ∧ (s.ri input).lastShort + cueSec < s.now + 16 then
    ((s.setRefState input riQualifying).setFld (pgRef input) REF_IN_CNT_acc 0).setRi input { s.ri input with short := 0 }
  else s

/-- LOOP_UPDATE (R310): at each uptime multiple of 1 ms. -/
def execLoopUpdate (s : State) : Out := run s fun s => s.periodic 1 cueMs State.loopUpdate

/-- HOLDOVER_SECOND (R313): at each uptime multiple of 1 s. -/
def execHoldoverSecond (s : State) : Out := run s fun s => s.periodic 2 cueSec State.holdoverSecond

end Sys2Proof.Machine
end

