-- ==== Sys2Proof/Machine/Swings.lean ====
section
/-!
DEFINITION. Swings and their rotation, die-to-die wires, fuses, ageing and core voltage, temperature, and the wear log (R440 to
R461).
-/
namespace Sys2Proof.Machine

/-! ### Fuses (R403, R453) -/

/-- A field entry is programmed, or left invalid where the read-back differs; the next free entry is in use then. -/
def State.fuseAdd (s : State) (e : W32) (ok : Bool) : State :=
  let s := { s with fuses := s.fuses ++ [if ok then setBits e 31 1 1 else setBits e 31 1 0] }
  s.setFld pgSrm SRM_FUSE_used s.fuses.length

/-- Programming of an entry ends with a result (R453); an entry programmed is recorded in the wear log (R452). -/
def State.fuseDone (s : State) (e : W32) (verified : Bool) : State :=
  let s := ({ s with fuseNow := none }.setBit pgWear FUSE_PROG_busy false).irq pgWear IRQ_wear_fuse_done
  if 128 ≤ s.fuses.length then (s.setFld pgWear FUSE_PROG_result 2).err pgWear 0x133
  else if verified then ((s.fuseAdd e true).setFld pgWear FUSE_PROG_result 1).logRepair 0x10 [e.toNat]
  else ((s.fuseAdd e false).setFld pgWear FUSE_PROG_result 3).err pgWear 0x133

def State.wearHook (s : State) (o : Nat) (eff : W32) : State :=
  if o = 0x10C ∧ eff.getLsbD 0 ∧ !s.bit pgWear FUSE_PROG_busy then
    { s.setBit pgWear FUSE_PROG_busy true with fuseNow := some (s.word (pgWear + 0x108)) }
  else s

def State.wearWrite (s : State) (a : Acc) (o : Nat) (w : W32) : State :=
  let r := s.storeWord a pgWear .wear 0 o w
  if r.ok then r.s.wearHook o r.eff else r.s

/-! ### Rotation (R442 to R449) -/

/-- A class that has units on the path of a destination under a path check (R368, R448): transmit lanes, the receive lanes,
synchronisers or Prosceniums that feed the destination's tap, and always the selector planes. -/
def State.checkHolds (s : State) (c : Nat) : Bool :=
  s.checking.any fun d =>
    let rail := Store.get (fun _ => 0) s.tapSel d
    match c with
    | 0 => rail < 512
    | 1 => d < 512
    | 2 => true
    | 3 => 2048 ≤ rail && rail < 2304
    | 4 => 2304 ≤ rail && rail < 2336
    | _ => false

/-- Rotation passes over a lane whose pattern mode is not 0 or whose injection is active (R84). -/
def State.lanePassed (s : State) (c L : Nat) : Bool :=
  if c = 0 then s.fld (pgRxl L) RXL_PAT_mode != 0 || s.fld (pgRxl L) RXL_INJ_exp != 0
  else s.fld (pgTxl L) TXL_PAT_mode != 0 || s.fld (pgTxl L) TXL_INJ_exp != 0

/-- The unit at position k of a cursor is not to be rotated: it is retired, or its block's swing plane is used (R447). -/
def State.unitGone (s : State) (c g k : Nat) : Bool :=
  let unit := if c < 2 then 32 * g + k else k
  s.retired.contains (c * 65536 + unit) ||
    (c == 2 && (s.word (pgRot + if k < 32 then 0x184 else 0x188)).getLsbD (k % 32))

/-- The next position at or after the cursor that can be taken, after the lanes passed over (R84). -/
def State.seekUnit (s : State) (c g : Nat) : Nat → Nat → List Nat × Option Nat
  | 0, _ => ([], none)
  | fuel + 1, k =>
    let next := (k + 1) % clsUnits c
    if s.unitGone c g k then s.seekUnit c g fuel next
    else if c < 2 ∧ s.lanePassed c (32 * g + k) then
      let r := s.seekUnit c g fuel next
      (k :: r.1, r.2)
    else ([], some k)

/-- Software asked rotation to take the lane at position k of its group next (R84). -/
def State.swapAsked (s : State) (c g k : Nat) : Bool :=
  (if c = 0 then (s.rx (32 * g + k)).swapReq else (s.tx (32 * g + k)).swapReq) && !s.unitGone c g k

/-- The lowest lane of the group that was asked for and can be taken, after those asked for that are passed over. The request of a
lane passed over stands until the lane is taken (DESIGN CHOICE, log entry 165). -/
def State.seekAsked (s : State) (c g : Nat) : List Nat × Option Nat :=
  let l := (List.range 32).filter (fun k => s.swapAsked c g k)
  (l.takeWhile (fun k => s.lanePassed c (32 * g + k)), l.find? (fun k => !s.lanePassed c (32 * g + k)))

/-- The position taken next, whether on request, and the lanes passed over to find it. -/
def State.nextUnit (s : State) (c g : Nat) : List Nat × Option (Nat × Bool) :=
  let a := if c < 2 then s.seekAsked c g else ([], none)
  match a.2 with
  | some k => (a.1, some (k, true))
  | none =>
    let b := s.seekUnit c g (clsUnits c) (s.ro c g).cursor
    ((a.1 ++ b.1).dedup, b.2.map (fun k => (k, false)))

/-- A lane that rotation passes over counts the skip (R84). -/
def State.countPassed (s : State) (c g : Nat) (l : List Nat) : State :=
  l.foldl (fun s k =>
    if c = 0 then s.bump (pgRxl (32 * g + k)) RXL_HO_ABORT_n else s.bump (pgTxl (32 * g + k)) TXL_HO_ABORT_n) s

/-- The swing failed its idle test: it is out of use, and recorded (R447); the page of the lane it last served captures 0x021
(R84). -/
def State.swingFails (s : State) (c g : Nat) : State :=
  let v := s.ro c g
  let s := if c = 0 then s.err (pgRxl v.unit) 0x021 else if c = 1 then s.err (pgTxl v.unit) 0x021 else s
  let swing := if c < 2 then 512 + g else if c = 2 then 40 + v.cursor else clsUnits c + v.taken
  let s := s.logRepair 0x13 [c, swing]
  let s := ((s.bump pgRot ROT_FAIL_n 1 c).irq pgRot IRQ_rot_retired).err pgRot 0x130
  s.swingGone c g

/-- A step starts with a unit: the swing runs in parallel. -/
def State.rotStart (s : State) (c g k : Nat) (asked : Bool) : State :=
  let unit := if c < 2 then 32 * g + k else k
  let v := s.ro c g
  let s := s.putRot c g { v with st := 1, unit := unit, since := s.now, taps := [], cursor := if asked then v.cursor else k }
  if c = 0 then (s.setRx unit { s.rx unit with swapReq := false }).setBit (pgRxl unit) RXL_STAT_ho_busy true
  else if c = 1 then (s.setTx unit { s.tx unit with swapReq := false, hoFrames := 0 }).setBit (pgTxl unit) TXL_STAT_ho_busy true
  else s

/-- A step instant of a class (and group) that rotates: counted toward starvation; skipped while a step runs, deferred, or a
unit is chosen (R443, R444, R448, R449). -/
def State.stepInstant (s : State) (c g : Nat) : State :=
  let v := s.ro c g
  let s := s.setRo c g { v with missed := v.missed + 1 }
  let s := s.when (16 ≤ v.missed + 1 && s.fld pgRot ROT_CLS_STAT_starved c == 0) (fun s =>
    (s.setFld pgRot ROT_CLS_STAT_starved 1 c).irq pgRot IRQ_rot_starve)
  if v.st ≠ 0 ∨ !s.rotMayStart c ∨ s.checkHolds c ∨ !s.swingFree c g then s
  else if v.idleBad then s.swingFails c g
  else
    let r := s.nextUnit c g
    let s := s.countPassed c g r.1
    match r.2 with
    | some (k, asked) => s.rotStart c g k asked
    | none => s

/-! ### The instants of a handover (R81, R82, R202, R220, R224, R282, R446) -/

/-- A handover of a receive lane in progress: the slice that runs in parallel has locked, and the words compared were identical
(matched), or the lane has no signal; a comparison that fails ends it (R81, R83). -/
def State.rxHandover (s : State) (L : Nat) (matched : Bool) : State :=
  let p := pgRxl L
  if !s.bit p RXL_STAT_ho_busy then s
  else if matched || !s.bit p RXL_STAT_sd then s.rxLand L
  else (((s.setBit p RXL_STAT_ho_busy false).irq p IRQ_rxl_handover_fail).err p 0x020).rotFail 0 (L / 32)

/-- The output of a transmit lane may change slices in the present TICK: at its switching line, or at any time while it sends
nothing (R82, R448; DEDUCED, log entry 190). -/
def State.txInstant (s : State) (L : Nat) : Bool :=
  !s.bit (pgTxl L) TXL_STAT_awake || (Store.get (fun _ => ({} : Formatter)) s.fmtr L).fmt.isNone || s.tapInstant L

/-- A handover of a transmit lane in progress, at the first word of the switching line: in phase it lands; a phase move in
progress makes it wait (R327); after 8 frames without a match it fails (R82, R83). -/
def State.txHandover (s : State) (L : Nat) (inPhase : Bool) : State :=
  let p := pgTxl L
  let r := s.tx L
  if !s.bit p TXL_STAT_ho_busy || !s.txInstant L then s
  else if s.bit p TXL_STAT_awake ∧ r.phase ≠ toSigned 8 (s.fld p TXL_PHASE_pos) then s
  else if inPhase then s.txLand L
  else if r.hoFrames + 1 < 8 then s.setTx L { r with hoFrames := r.hoFrames + 1 }
  else
    let s := s.setTx L { r with hoFrames := 0 }
    (((s.setBit p TXL_STAT_ho_busy false).irq p IRQ_txl_handover_fail).err p 0x020).rotFail 1 (L / 32)

/-- The page of the lane shows a handover in progress. -/
def State.laneBusy (s : State) (c u : Nat) : Bool := if c = 0 then s.bit (pgRxl u) RXL_STAT_ho_busy else s.bit (pgTxl u) TXL_STAT_ho_busy

/-- The taps of plane m whose switching point falls in the present TICK: they change planes (R202). A plane that returns takes a
tap at the earliest one frame after the test ended (R444). -/
def State.planeTaps (s : State) (m after : Nat) : List Nat :=
  ((List.range 64).map (64 * m + ·)).filter (fun t =>
    s.tapInstant t && (after == 0 || after + perOf (s.grpRate (s.tapGroup t)) < s.now + 16))

/-- The unit of a class other than lanes and planes may change sides in the present TICK: a synchroniser unit or a Proscenium at
its output frame start, or at once while it is Off (R220, R224); a Pit bank at a Pit instant after a whole sample period in
parallel (R282); a Crew core at once (R446). A unit returns at the earliest one output frame after its test (R444). -/
def State.unitInstant (s : State) (c u since : Nat) (back : Bool) : Bool :=
  match c with
  | 3 =>
    let g := s.synGroup (s.synBase u)
    s.synState u == synOff || (s.grpNow g && (!back || since + perOf (s.grpRate g) < s.now + 16))
  | 4 =>
    let g := s.proGroup u
    s.fld (pgBlend u) PRB_STAT_state == 0 || (s.grpNow g && (!back || since + perOf (s.grpRate g) < s.now + 16))
  | 6 => s.pitNow.isSome && since + 220500 < s.now + 16
  | _ => true

/-- The handover of a step, at one of its instants. -/
def State.handedOver (s : State) (c g : Nat) (ok : Bool) : State :=
  let v := s.ro c g
  if c = 0 then s.rxHandover v.unit ok
  else if c = 1 then s.txHandover v.unit ok
  else if c = 2 then
    let taps := (v.taps ++ s.planeTaps v.unit 0).dedup
    let s := s.setRo c g { v with taps := taps }
    if taps.length = 64 then s.rotOut c g else s
  else if s.unitInstant c v.unit v.since false then s.rotOut c g
  else s

/-- The page of a lane in the middle of a handover no longer waits for it. -/
def State.hoOver (s : State) (c u : Nat) : State :=
  if c = 0 then s.setBit (pgRxl u) RXL_STAT_ho_busy false
  else if c = 1 then s.setBit (pgTxl u) TXL_STAT_ho_busy false
  else s

/-- A commit or soft reset of a unit's page aborts a step of it that is Preparing or Returning (R448). -/
def State.rotPageAbort (s : State) (c unit : Nat) : State :=
  let g := if c < 2 then unit / 32 else 0
  let v := s.ro c g
  if (v.st = 1 ∨ v.st = 3) ∧ v.unit = unit then (s.hoOver c unit).rotAbort c g else s

/-- The test of the unit out of service ends (R444, R445, R452). -/
def State.testEnd (s : State) (c g : Nat) (pass : Bool) (repair : Option W32) : State :=
  let v := s.ro c g
  if pass then
    let s := match v.fix with
      | some e => if s.fuses.length < 128 then (s.fuseAdd e true).logRepair 0x10 [e.toNat] else s.err pgWear 0x133
      | none => s
    let s := s.putRot c g { v with st := 3, testEnd := s.now, since := s.now, fix := none }
    if c = 0 then s.setBit (pgRxl v.unit) RXL_STAT_ho_busy true
    else if c = 1 then s.setBit (pgTxl v.unit) TXL_STAT_ho_busy true
    else s
  else if v.failed then (s.setRo c g { v with fix := none }).retire c g v.unit
  else
    let s := match repair with
      | some e => { s with spares := s.spares ++ [e] }
      | none => s
    s.putRot c g { v with failed := true, outFrom := s.now, fix := repair }

/-- The output frame of a lane that must pass between its test and its handback (R444). -/
def State.laneFrame (s : State) (c u : Nat) : Nat :=
  match (if c = 0 then (Store.get (fun _ => ({} : Deframer)) s.defr u).fmt else (Store.get (fun _ => ({} : Formatter)) s.fmtr u).fmt) with
  | some f => perOf f.rate
  | none => 0

/-- The unit is back in service and the swing has had its idle test: the cursor moves on, unless the unit was taken out of turn on
request; a lane swing is calibrated (R444, R445). -/
def State.stepDone (s : State) (c g : Nat) (idlePass : Bool) : State :=
  let v := s.ro c g
  let asked : Bool := c < 2 && v.unit != 32 * g + v.cursor
  let s := s.rotDone c g idlePass
  let s := s.when (c == 0) (fun s => s.swingCal g)
  if asked then s.putRot c g { s.ro c g with cursor := v.cursor } else s

/-- The handback of a step, at one of its instants (R444). -/
def State.handedBack (s : State) (c g : Nat) (ok idlePass : Bool) : State :=
  let v := s.ro c g
  if c < 2 then
    if s.now + 16 ≤ v.testEnd + s.laneFrame c v.unit then s
    else
      let s := s.handedOver c g ok
      if (s.ro c g).st = 3 && !s.laneBusy c v.unit then s.stepDone c g idlePass else s
  else if c = 2 then
    let taps := v.taps.filter (fun t => !(s.planeTaps v.unit v.testEnd).contains t)
    let s := s.setRo c g { v with taps := taps }
    if taps.isEmpty then s.stepDone c g idlePass else s
  else if s.unitInstant c v.unit v.since true then s.stepDone c g idlePass
  else s

/-! ### Die-to-die wires (R451) -/

/-- Groups taken out on a link (tile × 2 + direction). -/
def State.groupsOut (s : State) (k : Nat) : Nat := (List.range 20).countP (fun g => Store.get (fun _ => 0) s.wireLost (k * 20 + g) == 4)

/-- A wire has failed: replaced by the next spare of its group, or its group is taken out with the fourth. -/
def State.wireFails (s : State) (tile : Nat) (dir : Bool) (wire : Nat) : State :=
  let k := tile * 2 + dir.toNat
  let g := wire / 50
  let n := Store.get (fun _ => 0) s.wireLost (k * 20 + g)
  if n = 4 then s
  else
    let s := { s with wireLost := Store.put (fun _ => 0) (k * 20 + g) (n + 1) s.wireLost }
    if n < 3 then
      let s := s.setFld pgRot D2D_REP_spares (s.fld pgRot D2D_REP_spares tile + 1) tile
      ((s.bump pgRot D2D_WIRE_FAIL_n).irq pgRot IRQ_rot_wire).logRepair 0x14 [tile, dir.toNat, g, wire]
    else
      let s := s.setFld pgRot D2D_REP_out (s.groupsOut (tile * 2) + s.groupsOut (tile * 2 + 1)) tile
      if s.groupsOut k = 5 then s.err pgRot 0x132 else s

/-- A check of all wires of a tile's link: a wire that errs in 4 consecutive checks has failed. -/
def State.wireCheck (s : State) (tile : Nat) (errs : List (Bool × Nat)) : State :=
  [false, true].foldl (fun s dir => (List.range 1000).foldl (fun s w =>
    let key := (tile * 2 + dir.toNat) * 1000 + w
    let n := if errs.contains (dir, w) then Store.get (fun _ => 0) s.wireErr key + 1 else 0
    let s := { s with wireErr := Store.put (fun _ => 0) key (if n = 4 then 0 else n) s.wireErr }
    s.when (n == 4) (fun s => s.wireFails tile dir w)) s) s

/-! ### Core voltage (R454 to R456) -/

/-- A new target: one reached at a limit is recorded in the wear log. -/
def State.setTarget (s : State) (t : Nat) : State :=
  let s' := s.setFld pgAvs AVS_TGT_mv t
  if t ≠ s.fld pgAvs AVS_TGT_mv ∧ (t = s.lv pgAvs AVS_LIM_lo ∨ t = s.lv pgAvs AVS_LIM_hi) then s'.logRepair 0x15 [t] else s'

/-- The target rises by d mV, held to the upper limit; one that meets it while the margin is below lo reports 0x134. -/
def State.avsRise (s : State) (d : Nat) : State :=
  let t := s.fld pgAvs AVS_TGT_mv
  let hi := s.lv pgAvs AVS_LIM_hi
  let n := min (t + d) hi
  let s := s.when (t < n) (fun s => (s.setTarget n).bump pgAvs AVS_UP_n)
  if hi ≤ t + d then (s.irq pgAvs IRQ_avs_at_max).err pgAvs 0x134 else s

def State.avsFall (s : State) : State :=
  let t := s.fld pgAvs AVS_TGT_mv
  let n := max (t - 5) (s.lv pgAvs AVS_LIM_lo)
  s.when (n < t) (fun s => (s.setTarget n).bump pgAvs AVS_DOWN_n)

/-- One evaluation with the smallest slack. -/
def State.avsLoop (s : State) (ps : Int) : State :=
  if s.lbit pgAvs AVS_CTL_man then s.setTarget (s.fld pgAvs AVS_MAN_mv)
  else if s.lbit pgAvs AVS_CTL_en then
    if ps < s.lv pgAvs AVS_MARG_lo then { s with avsHigh := 0 }.avsRise 5
    else if (s.lv pgAvs AVS_MARG_hi : Int) < ps then
      if s.avsHigh + 1 = 60 then { s with avsHigh := 0 }.avsFall else { s with avsHigh := s.avsHigh + 1 }
    else { s with avsHigh := 0 }
  else s

/-- The second's measurement and evaluation; a bus that fails after its retries leaves the target as it was. -/
def State.avsEvaluate (s : State) (ps : Int) (mon : Nat) (busOk : Bool) (mv da : Nat) : State :=
  let s := (s.setFld pgAvs AGE_MARGIN_ps (ofSigned 16 ps)).setFld pgAvs AGE_MARGIN_mon mon
  if s.lbit pgAvs AVS_CTL_en || s.lbit pgAvs AVS_CTL_man then
    if busOk then ((s.avsLoop ps).setFld pgAvs AVS_MEAS_mv mv).setFld pgAvs AVS_MEAS_da da
    else ((s.bump pgAvs AVS_ERR_n).irq pgAvs IRQ_avs_avs_err).err pgAvs 0x135
  else s

/-! ### Temperature (R457) -/

/-- Insertion into a rising list. -/
def sortIn (x : Int) : List Int → List Int
  | [] => [x]
  | y :: t => if x ≤ y then x :: y :: t else y :: sortIn x t

/-- Twice the median; for an even count the sum of the two middle readings (log entry 88). -/
def median2 (l : List Int) : Int :=
  let r := l.foldr sortIn []
  r.getD ((r.length - 1) / 2) 0 + r.getD (r.length / 2) 0

/-- A sensor's reading against the median of the good sensors. -/
def State.sensor (s : State) (k : Nat) (c med2 : Int) : State :=
  let s := s.setFld pgAvs TMP_c (ofSigned 12 c) k
  let bad := s.fld pgAvs TMP_bad k = 1
  let away : Bool := decide (240 < (2 * c - med2).natAbs)
  let n := if away != bad then Store.get (fun _ => 0) s.tmpCnt k + 1 else 0
  let s := { s with tmpCnt := Store.put (fun _ => 0) k (if n = 10 then 0 else n) s.tmpCnt }
  if n = 10 then
    if bad then s.setFld pgAvs TMP_bad 0 k
    else ((s.setFld pgAvs TMP_bad 1 k).irq pgAvs IRQ_avs_sensor_bad).err pgAvs 0x137
  else s

/-- The highest good reading and its sensor, the lowest numbered of equals. -/
def State.hottest (s : State) (temps : List Int) : Option (Int × Nat) :=
  (temps.zipIdx.filter (fun p => s.fld pgAvs TMP_bad p.2 == 0)).foldl (fun m p =>
    match m with
    | some (c, _) => if c < p.1 then some p else m
    | none => some p) none

/-- The limits, each crossed upward and re-armed 2 °C below itself. -/
def State.tmpLimits (s : State) (c : Int) : State :=
  let warn := s.lvS pgAvs TMP_LIM_warn
  let crit := s.lvS pgAvs TMP_LIM_crit
  let s := s.when (decide (warn < c) && !s.tmpWarm) (fun s => (s.irq pgAvs IRQ_avs_warn).bump pgAvs TMP_WARN_EV_n)
  let s := s.when (decide (crit < c) && !s.tmpHot) (fun s => (s.irq pgAvs IRQ_avs_crit).err pgAvs 0x136)
  { s with tmpWarm := decide (warn < c) || (s.tmpWarm && decide (warn - 16 < c)),
           tmpHot := decide (crit < c) || (s.tmpHot && decide (crit - 16 < c)) }

def State.temperatures (s : State) (temps : List Int) : State :=
  let good := (temps.zipIdx.filter (fun p => s.fld pgAvs TMP_bad p.2 == 0)).map (·.1)
  let m := median2 good
  let s := temps.zipIdx.foldl (fun s p => s.sensor p.2 p.1 m) s
  match s.hottest temps with
  | some (c, k) => ((s.setFld pgAvs TMP_MAX_c (ofSigned 12 c)).setFld pgAvs TMP_MAX_s k).tmpLimits c
  | none => s

/-! ### Checkpoints (R458, R459) -/

/-- A checkpoint: the first record of a sector is its summary. -/
def State.checkpoint (s : State) : State :=
  let s := if s.hourRecs = 0 then { s with hourRecs := 1 } else s
  let s := { s with hourTop := s.hours, hourRecs := s.hourRecs + 1 }
  if s.hourRecs = 128 then { s with hourSector := if s.hourSector = 255 then 16 else s.hourSector + 1, hourRecs := 0 } else s

/-! ### The commands -/

/-- The group operand of a class: the lane classes have 16 groups, the others one. -/
def grpOk (c g : Nat) : Bool := c < 2 || g == 0

/-- RX_HANDOVER (R81, R83): matched, the words of both slices were identical. -/
def execRxHandover (lane : Fin 512) (matched : Bool) (s : State) : Out := runRails s fun s => s.rxHandover lane matched

/-- TX_HANDOVER (R82, R83): inPhase, the slices ran within 1/64 UI for the whole line before. -/
def execTxHandover (lane : Fin 512) (inPhase : Bool) (s : State) : Out := runRails s fun s => s.txHandover lane inPhase

/-- ROTATION_STEP_INSTANT (R443, R444). -/
def execRotationStepInstant (c : Fin 7) (g : Fin 16) (s : State) : Out :=
  if grpOk c g then run s fun s =>
    if s.lbit pgRot ROT_CTL_en ∧ s.lbit pgRot ROT_CLS_en c then
      s.periodic (64 + c * 16 + g) (s.lv pgRot ROT_CLS_per c * cueSec) fun s => s.stepInstant c g
    else s
  else .fault .illFormed

/-- ROTATION_HANDOVER (R444, R446): the class's handover instant; fail: the handover fails or is aborted. -/
def execRotationHandover (c : Fin 7) (g : Fin 16) (fail : Bool) (s : State) : Out :=
  if grpOk c g then run s fun s =>
    if (s.ro c g).st = 1 then
      if fail && 2 ≤ c.val then s.rotFail c g else s.handedOver c g (!fail)
    else s
  else .fault .illFormed

/-- ROTATION_TEST_END (R444, R445): a pass needs ROT_CLS.test seconds; repair: the volatile repair tried after a first failure
(R452). -/
def execRotationTestEnd (c : Fin 7) (g : Fin 16) (pass : Bool) (repair : Option W32) (s : State) : Out :=
  if grpOk c g then run s fun s =>
    let v := s.ro c g
    if v.st = 2 ∧ (!pass ∨ v.outFrom + s.lv pgRot ROT_CLS_test c * cueSec < s.now + 16) then s.testEnd c g pass repair else s
  else .fault .illFormed

/-- ROTATION_HANDBACK (R444): the handback's instant, and the swing's idle test after it. -/
def execRotationHandback (c : Fin 7) (g : Fin 16) (fail idlePass : Bool) (s : State) : Out :=
  if grpOk c g then run s fun s =>
    if (s.ro c g).st = 3 then
      if fail && 2 ≤ c.val then s.rotFail c g else s.handedBack c g (!fail) idlePass
    else s
  else .fault .illFormed

/-- D2D_WIRE_CHECK (R451): the wires of the tile's link that erred, by direction. -/
def execD2dWireCheck (tile : Fin 4) (errs : List (Bool × Nat)) (s : State) : Out := run s fun s => s.wireCheck tile errs

/-- FUSE_PROGRAM (R453): FUSE_PROG's go register is written. -/
def execFuseProgram (a : Acc) (word : W32) (s : State) : Out := run s fun s =>
  s.viaPath a (pgWear + 0x10C) fun s => s.wearWrite a 0x10C word

/-- FUSE_PROGRAM_DONE (R453). -/
def execFuseProgramDone (verified : Bool) (s : State) : Out := run s fun s =>
  match s.fuseNow with
  | some e => s.fuseDone e verified
  | none => s

/-- AVS_EVALUATE (R455): the smallest slack of the second with its monitor, whether the buses work, and the rail as read
back. -/
def execAvsEvaluate (ps : Int) (mon : Fin 96) (busOk : Bool) (mv da : Nat) (s : State) : Out := run s fun s =>
  s.periodic 3 cueSec fun s => s.avsEvaluate ps mon busOk mv da

/-- AGE_SAMPLE (R454, R455). -/
def execAgeSample (_mon : Fin 96) (ps : Int) (s : State) : Out := run s fun s =>
  if ps < 0 ∧ (s.lbit pgAvs AVS_CTL_en ∨ s.lbit pgAvs AVS_CTL_man) then
    let s := s.irq pgAvs IRQ_avs_emergency
    if s.lbit pgAvs AVS_CTL_man then s else s.avsRise 25
  else s

/-- TEMPERATURE_READ (R457): the 24 readings, in 0.125 °C. -/
def execTemperatureRead (temps : List Int) (s : State) : Out :=
  if temps.length = 24 then run s fun s => s.temperatures temps else .fault .illFormed

/-- WEAR_CHECKPOINT (R459). -/
def execWearCheckpoint (s : State) : Out := run s fun s => if s.hourTop < s.hours then s.checkpoint else s

end Sys2Proof.Machine
end

