-- ==== Sys2Proof/Machine/Update.lean ====
section
/-!
DEFINITION. Images and their slots, the Stage Manager's commands, and field update (R473 to R475, R479 to R495); the start and
stop of the Crew (R412).
-/
namespace Sys2Proof.Machine

/-! ### Flash and images (R462, R473, R474) -/

def flashErased : Nat → Byte := fun _ => 0xFF

def State.flashByte (s : State) (a : Nat) : Byte := Store.get flashErased s.flash a

/-- The flash with bytes stored from an offset. -/
def flashStore : List Host.Cell → Nat → List Byte → List Host.Cell
  | m, _, [] => m
  | m, a, b :: t => flashStore (Store.put flashErased a b m) (a + 1) t

/-- The flash with n bytes from an offset erased. -/
def flashErase (m : List Host.Cell) (a n : Nat) : List Host.Cell := m.filter (fun e => !(a ≤ e.1 && e.1 < a + n))

/-- The size of a slot of class k (1 S, 2 M, 3 C) and the offset of slot i. -/
def slotSize (k : Nat) : Nat := if k = 1 then 0x80000 else if k = 2 then 0x400000 else 0x1000000
def slotBase (k i : Nat) : Nat := (if k = 1 then 0x200000 else if k = 2 then 0x400000 else 0x1000000) + i * slotSize k

def State.slot (s : State) (k i : Nat) : Slot := Store.get (fun _ => {}) s.slots (k * 2 + i)

/-- Stores a slot's trailer and shows its state. -/
def State.setSlot (s : State) (k i : Nat) (v : Slot) : State :=
  let s := { s with slots := Store.put (fun _ => {}) (k * 2 + i) v s.slots }
  s.setFld pgUpd (if i = 0 then UPD_SLOT_st0 else UPD_SLOT_st1) v.st (k - 1)

/-- n bytes of an image from offset o, and as a number. -/
abbrev Image := Nat → Byte
def Image.bytes (m : Image) (o n : Nat) : List Byte := (List.range n).map (fun i => m (o + i))
def Image.num (m : Image) (o n : Nat) : Nat := ofBytesLE (m.bytes o n)

/-- The image in a slot. -/
def State.image (s : State) (k i : Nat) : Image := fun o => s.flashByte (slotBase k i + o)

/-- The lifecycle state (R471). -/
def State.lcy (s : State) : Nat := s.fld pgLcy LCY_STATE_state

/-- The signer allowed for a class in the present state (R471): 0 vendor, 1 OEM. -/
def State.signerOf (s : State) (k : Nat) : Option Nat :=
  if s.lcy = 4 then none
  else if k = 3 ∧ (s.lcy = 1 ∨ s.lcy = 2) then some 1
  else some 0

/-- The fused hash of a signer's key. -/
def State.keyHash (s : State) (signer : Nat) : Option (List Byte) := if signer = 0 then some Config.vendorHash else s.oemHash

/-- The unit ID as bytes. -/
def State.uid (s : State) : List Byte := (List.range 4).flatMap (fun i => bytesOf (s.word (pgLcy + LCY_UID.at i)))

/-- An image of class k passes (R474), with room for size bytes of header and body. -/
def State.imagePasses (s : State) (m : Image) (k size : Nat) : Bool :=
  let len := m.num 32 4
  let signer := (m 36).toNat
  m.bytes 0 4 == [0x57, 0x52, 0x42, 0x4F] && (m 4).toNat == k && (m 5).toNat == 1 &&
    m.num 8 4 == s.fld pgLcy LCY_HWTYPE && (m.num 12 16 == 0 || m.bytes 12 16 == s.uid) &&
    512 + len ≤ size && s.signerOf k == some signer &&
    s.keyHash signer == some (Config.sha384 (m.bytes 272 96)) &&
    Config.ecdsaOk (m.bytes 272 96) (m.bytes 176 96) (Config.sha384 (m.bytes 0 176)) &&
    Config.sha384 (m.bytes 512 len) == m.bytes 128 48

/-- Room in a slot of class k: all but its trailer's sector. -/
def slotRoom (k : Nat) : Nat := slotSize k - 0x1000

/-! ### Compatibility (R490, R491) -/

/-- The version that runs of class k, and its slot. -/
def State.runSlot (s : State) (k : Nat) : Option Nat := Store.get (fun _ => none) s.upd.run k
def State.runVer (s : State) (k : Nat) : Nat := s.fld pgUpd UPD_VER_ver (k - 1)

/-- Where an image's range for class k begins. -/
def rangeOf (k : Nat) : Nat := if k = 2 then 68 else if k = 1 then 76 else 84

/-- The image's range for class k admits a version. -/
def rangeAdmits (m : Image) (k ver : Nat) : Bool :=
  let lo := m.num (rangeOf k) 4
  let hi := m.num (rangeOf k + 4) 4
  (lo == 0 && hi == 0) || (lo ≤ ver && ver ≤ hi)

/-- An image of class k is compatible with what runs, and in a pair with the twin. -/
def State.compatible (s : State) (m : Image) (k : Nat) : Bool :=
  let others := [1, 2, 3].filter (· != k)
  others.all (fun c => rangeAdmits m c (s.runVer c)) &&
    others.all (fun c => match s.runSlot c with
      | some i => rangeAdmits (s.image c i) k (m.num 28 4)
      | none => true) &&
    (s.role == roleSolo || !s.bit pgUpd UPD_TWIN_valid ||
      (m.num 64 2 == s.fld pgUpd UPD_TWIN_major &&
        ((m.num 66 2 : Int) - s.fld pgUpd UPD_TWIN_minor).natAbs ≤ 1))

/-- The running versions as the Twin Link agent sends them (R491, log entry 93). -/
def State.sendVersions (s : State) : State :=
  let tl := match s.runSlot 2 with
    | some i => (s.image 2 i).num 64 4
    | none => 0
  s.twinSend (.versions ((tl :: [1, 2, 3].map s.runVer).map (BitVec.ofNat 64)))

/-- Slot i of class k runs. -/
def State.setRun (s : State) (k : Nat) (i : Option Nat) : State :=
  let s := { s with upd := { s.upd with run := Store.put (fun _ => none) k i s.upd.run } }
  match i with
  | some i => (s.setFld pgUpd UPD_SLOT_run i (k - 1)).setFld pgUpd UPD_VER_ver ((s.image k i).num 28 4) (k - 1)
  | none => s.setFld pgUpd UPD_VER_ver 0 (k - 1)

/-! ### The Crew (R412) -/

/-- The Crew cores that run; the others are halted. -/
def State.crewSet (s : State) (run : Nat) : State := (s.setFld pgPrc CRW_CTL_run run).setFld pgPrc CRW_STAT_halted (15 - run % 16)

/-- A management pause starts for class k (R487): at most 1.5 s. Class C: the Crew halts. -/
def State.pauseStart (s : State) (k : Nat) (back : Bool) : State :=
  let s := { s.setBit pgUpd UPD_STAT_pause true with upd := { s.upd with cls := k, back := back } }
  if k = 3 then s.crewSet 0 else s

/-- An activation of class C or S takes place (R487). -/
def State.activated (s : State) (k : Nat) : State :=
  let s := (s.bump pgUpd UPD_ACTIVATIONS_n).irq pgUpd IRQ_upd_activated
  (s.setFld64 pgUpd UPD_ACT_lo UPD_ACT_hi s.now).pauseStart k false

/-- The Crew is released; a class C trial that waited for it starts (R489). -/
def State.crewRelease (s : State) : State :=
  if s.upd.held then { s with upd := { s.upd with held := false } }.activated 3 else s.crewSet 15

/-- CRW_CTL was written: cores run and halt; a core reset resets its master (R412, R418). -/
def State.crewHook (s : State) (old eff : W32) : State :=
  let run := s.fld pgPrc CRW_CTL_run
  let s := (List.range 4).foldl (fun s c => s.when (eff.getLsbD (8 + c)) (fun s => s.masterReset (1 + c))) s
  if getBits old 0 4 = 0 ∧ run ≠ 0 ∧ s.upd.held then s.crewRelease
  else s.setFld pgPrc CRW_STAT_halted (15 - run)

/-! ### Commands to the Stage Manager (R412, R475, R481, R483) -/

def State.respond (s : State) (code res : Nat) : State := (s.setFld pgUpd UPD_RESP_res res).setFld pgUpd UPD_RESP_cmd code

/-- A command is refused: counted, with IRQ refused. -/
def State.updRefuse (s : State) (code res : Nat) : State :=
  ((s.respond code res).bump pgUpd UPD_REFUSED_n).irq pgUpd IRQ_upd_refused

/-- The doorbell is written (R412): ignored in a management pause (R487), and while the previous word is unread. -/
def State.smdbWrite (s : State) (a : Acc) (w : W32) : State :=
  if s.privileged a && s.bit pgUpd UPD_STAT_pause then s.respond (getBits w 24 8) 7
  else if s.privileged a && s.bit pgPrc CRW_SMDB_full then s.accErr pgPrc 0x145 a accWrite (pgPrc + 0x120)
  else
    let r := s.storeWord a pgPrc .prc 0 0x120 w
    if r.ok then (r.s.setBit pgPrc CRW_SMDB_full true).irq pgPrc IRQ_prc_doorbell else r.s

/-- A register of the processor page is written. -/
def State.prcWrite (s : State) (a : Acc) (o : Nat) (w : W32) : State :=
  if o = 0x120 then s.smdbWrite a w
  else
    let r := s.storeWord a pgPrc .prc 0 o w
    if r.ok && o == 0x100 then r.s.crewHook r.old r.eff else r.s

/-- UPD_CMD is written. -/
def State.updCmdWrite (s : State) (a : Acc) (w : W32) : State :=
  if s.privileged a && s.bit pgUpd UPD_STAT_pause then s.respond (getBits w 24 8) 7
  else
    let r := s.storeWord a pgUpd .upd 0 0x100 w
    if r.ok then { r.s with upd := { r.s.upd with waiting := true } } else r.s

/-- The Stage Manager takes the command that waits: its word. The doorbell goes first. -/
def State.takeWord (s : State) : State × Option W32 :=
  if s.bit pgPrc CRW_SMDB_full then (s.setBit pgPrc CRW_SMDB_full false, some (s.word (pgPrc + 0x120)))
  else if s.upd.waiting then ({ s with upd := { s.upd with waiting := false } }, some (s.word (pgUpd + 0x100)))
  else (s, none)

/-- A command comes to be carried out: it is written, or was; f carries it out with the address of its request block. A write
that is not taken has its own effect only. Not while a command of another code waits. -/
def State.command (s : State) (src : CmdSrc) (codes : Nat → Bool) (code page : Nat) (f : State → Nat → State) : State :=
  let w : W32 := BitVec.ofNat 32 (code * 2 ^ 24 + page % 2 ^ 24)
  let s := match src with
    | .doorbell a => s.viaPath a (pgPrc + 0x120) fun s => s.smdbWrite a w
    | .update a => s.viaPath a (pgUpd + 0x100) fun s => s.updCmdWrite a w
    | .posted => s
  match s.takeWord with
  | (t, some x) => if codes (getBits x 24 8) then f t (getBits x 0 24 * 4096) else s
  | (_, none) => s

/-- The device may take an update (R483): not Scrapped, and no trial, schedule or transition is running; else the result. -/
def State.updBusy (s : State) : Option Nat :=
  if s.lcy = 4 then some 10
  else if s.fld pgUpd UPD_STAT_trial ≠ 0 ∨ s.bit pgUpd UPD_STAT_sched ∨ s.bit pgLcy LCY_STATE_wiping then some 6
  else none

/-- The slot of a class that does not run (slot 0 where none runs). -/
def State.otherSlot (s : State) (k : Nat) : Nat := match s.runSlot k with | some 0 => 1 | _ => 0

/-- Command 0x10, stage (R482): written tells whether the read-back compares; one that does not gives result 2 alone (DESIGN CHOICE, log
entry 185). -/
def State.stage (s : State) (block : Nat) (written : Bool) : State :=
  match s.updBusy with
  | some r => s.updRefuse 0x10 r
  | none =>
    let addr := s.loadLE block 8
    let len := s.loadLE (block + 8) 4
    let m : Image := fun o => Memory.read s.dram (addr + o)
    let k := (m 4).toNat
    if !(1 ≤ k ∧ k ≤ 3) ∨ !s.imagePasses m k (min len (slotRoom k)) then (s.updRefuse 0x10 2).err pgUpd 0x150
    else if !s.compatible m k then (s.updRefuse 0x10 3).err pgUpd 0x161
    else
      let i := s.otherSlot k
      let n := 512 + m.num 32 4
      let s := { s with flash := flashStore (flashErase s.flash (slotBase k i) (slotSize k)) (slotBase k i) (m.bytes 0 n) }
      if written then
        let seq := match s.runSlot k with | some r => (s.slot k r).seq + 1 | none => 1
        ((s.setSlot k i { st := 1, seq := seq }).respond 0x10 1).irq pgUpd IRQ_upd_staged
      else (s.setSlot k i {}).updRefuse 0x10 2

/-- The Fresh slot of a class. -/
def State.freshSlot (s : State) (k : Nat) : Option Nat := [0, 1].find? (fun i => (s.slot k i).st == 1)

/-- Slot i of class k is in trial, in place of the slot that runs. -/
def State.trialStart (s : State) (k i : Nat) : State :=
  let s := { s.setSlot k i { s.slot k i with st := 2 } with upd := { s.upd with cls := k, slot := i, old := s.runSlot k } }
  s.setFld pgUpd UPD_STAT_trial k

/-- Command 0x11, activate class C or S (R487, R489). -/
def State.activate11 (s : State) (block : Nat) : State :=
  match s.updBusy with
  | some r => s.updRefuse 0x11 r
  | none =>
    let k := s.loadLE block 1
    match if k = 1 ∨ k = 3 then s.freshSlot k else none with
    | none => s.updRefuse 0x11 8
    | some i =>
      if !s.compatible (s.image k i) k then (s.updRefuse 0x11 3).err pgUpd 0x161
      else
        let s := (s.trialStart k i).respond 0x11 1
        if k = 3 ∧ (s.role = roleJoining ∨ s.role = roleUnderstudy ∨ s.role = roleYielded) then
          { s with upd := { s.upd with held := true } }
        else s.activated k

/-- Command 0x12, schedule class M (R484). Its target in whole cues of time of day, rounded up. -/
def State.schedule (s : State) (block : Nat) : State :=
  match s.updBusy with
  | some r => s.updRefuse 0x12 r
  | none =>
    if !s.held then s.updRefuse 0x12 4
    else match s.freshSlot 2 with
      | none => s.updRefuse 0x12 8
      | some i =>
        let x := s.loadLE (block + 8) 8
        let target := s.loadLE block 6 * cueSec + x % 2 ^ 34 + (if x / 2 ^ 34 = 0 then 0 else 1)
        if target < s.todCues + cueSec then s.updRefuse 0x12 5
        else
          { (s.setBit pgUpd UPD_STAT_sched true).respond 0x12 1 with
              classM := true, upd := { s.upd with cls := 2, slot := i, target := target } }

/-- A trial is confirmed: its slot is Good (R485, R488). -/
def State.confirmed (s : State) (k : Nat) : State :=
  let s := s.setSlot k s.upd.slot { s.slot k s.upd.slot with st := 3 }
  let s := ((s.setFld pgUpd UPD_STAT_trial 0).setBit pgUpd UPD_STAT_shadow false).irq pgUpd IRQ_upd_confirmed
  { s with classM := s.classM && k != 2, upd := { s.upd with setKeep := if k = 3 then none else s.upd.setKeep } }

/-- A trial may still be confirmed: it runs, and its deadline does not fall in the present TICK or before (R494). -/
def State.mayConfirm (s : State) (k : Nat) : Bool :=
  s.fld pgUpd UPD_STAT_trial == k && !s.upd.held && !s.bit pgUpd UPD_STAT_pause &&
    s.now + 16 ≤ s.fld64 pgUpd UPD_DEADLINE_lo UPD_DEADLINE_hi

/-- Command 0x13, confirm (R485, R488). -/
def State.confirm (s : State) (block : Nat) : State :=
  let k := s.loadLE block 1
  if s.lcy = 4 then s.updRefuse 0x13 10
  else if (k = 2 ∨ k = 3) ∧ s.mayConfirm k then (s.confirmed k).respond 0x13 1
  else s.updRefuse 0x13 9

/-- Command 0x14, cancel (R486). -/
def State.cancel14 (s : State) : State :=
  if s.lcy = 4 then s.updRefuse 0x14 10
  else if s.bit pgUpd UPD_STAT_sched then
    { ((s.setBit pgUpd UPD_STAT_sched false).setBit pgUpd UPD_STAT_shadow false).respond 0x14 1 with classM := false }
  else s.updRefuse 0x14 9

/-- The settings banks (R493). -/
def setBankBase (b : Nat) : Nat := if b = 0 then 0x010000 else 0x088000
def setBankSize : Nat := 0x78000

/-- Command 0x15, write settings (R493): into the other bank, with the next sequence. One that does not fit leaves the old
record in force with 0x162; the result it gives is not stated (log entry 94). -/
def State.writeSettings (s : State) (block : Nat) : State :=
  if s.lcy = 4 then s.updRefuse 0x15 10
  else if s.bit pgLcy LCY_STATE_wiping then s.updRefuse 0x15 6
  else
    let addr := s.loadLE block 8
    let len := s.loadLE (block + 8) 4
    if setBankSize < len ∨ !s.inDram addr len then ((s.respond 0x15 (s.free64.toNat % 16)).fresh).err pgUpd 0x162
    else
      let b := match s.upd.setKeep with
        | some k => 1 - k
        | none => match s.upd.setBank with | some 0 => 1 | _ => 0
      let keep := if s.fld pgUpd UPD_STAT_trial = 3 then (if s.upd.setKeep.isSome then s.upd.setKeep else s.upd.setBank) else none
      let s := { s with flash := flashStore (flashErase s.flash (setBankBase b) setBankSize) (setBankBase b) (s.load addr len),
                        upd := { s.upd with setBank := some b, setSeq := s.upd.setSeq + 1, setKeep := keep } }
      s.respond 0x15 1

/-! ### Class M (R484 to R486) -/

/-- The first rail instant of UPD_CFG.group at or after u that the present TICK holds, if any. -/
def State.updInstant (s : State) : Option Nat :=
  let f := s.grpNext (s.fld pgUpd UPD_CFG_group) s.now
  if f < s.now + 16 then some f else none

/-- The instant A: the slot becomes Trial and runs. -/
def State.activateM (s : State) (at_ : Nat) : State :=
  let s := s.trialStart 2 s.upd.slot
  let s := (s.setBit pgUpd UPD_STAT_sched false).setRun 2 (some s.upd.slot)
  let s := (s.setFld64 pgUpd UPD_ACT_lo UPD_ACT_hi at_).setFld64 pgUpd UPD_DEADLINE_lo UPD_DEADLINE_hi (at_ + 30 * cueSec)
  ((s.bump pgUpd UPD_ACTIVATIONS_n).irq pgUpd IRQ_upd_activated).sendVersions

/-- A trial ends unconfirmed: the slot is Bad, counted and reported. -/
def State.reverted (s : State) (k : Nat) : State :=
  let s := s.setSlot k s.upd.slot { s.slot k s.upd.slot with st := 4 }
  let s := (s.setFld pgUpd UPD_STAT_trial 0).setBit pgUpd UPD_STAT_shadow false
  ((s.bump pgUpd UPD_REVERTS_n).irq pgUpd IRQ_upd_reverted).err pgUpd 0x160

/-! ### The commands -/

/-- CREW_CORE_RESET (R412): CRW_CTL written as a word. -/
def execCrewCoreReset (a : Acc) (word : W32) (s : State) : Out := run s fun s =>
  s.viaPath a (pgPrc + 0x100) fun s => s.prcWrite a 0x100 word

/-- CREW_RUN_WRITE (R412): CRW_CTL written as a word. -/
def execCrewRunWrite (a : Acc) (word : W32) (s : State) : Out := run s fun s =>
  s.viaPath a (pgPrc + 0x100) fun s => s.prcWrite a 0x100 word

/-- UPDATE_STAGE (R481, R482). -/
def execUpdateStage (src : CmdSrc) (page : Nat) (written : Bool) (s : State) : Out := run s fun s =>
  s.command src (· == 0x10) 0x10 page fun s b => s.stage b written

/-- UPDATE_ACTIVATE (R481, R487). -/
def execUpdateActivate (src : CmdSrc) (page : Nat) (s : State) : Out := run s fun s =>
  s.command src (· == 0x11) 0x11 page State.activate11

/-- UPDATE_SCHEDULE (R481, R484). -/
def execUpdateSchedule (src : CmdSrc) (page : Nat) (s : State) : Out := run s fun s =>
  s.command src (· == 0x12) 0x12 page State.schedule

/-- UPDATE_CONFIRM (R481, R485, R488). -/
def execUpdateConfirm (src : CmdSrc) (page : Nat) (s : State) : Out := run s fun s =>
  s.command src (· == 0x13) 0x13 page State.confirm

/-- UPDATE_CANCEL (R481, R486). -/
def execUpdateCancel (src : CmdSrc) (page : Nat) (s : State) : Out := run s fun s =>
  s.command src (· == 0x14) 0x14 page fun s _ => s.cancel14

/-- WRITE_SETTINGS (R481, R493). -/
def execWriteSettings (src : CmdSrc) (page : Nat) (s : State) : Out := run s fun s =>
  s.command src (· == 0x15) 0x15 page State.writeSettings

/-- SHADOW_LOADED (R484). -/
def execShadowLoaded (s : State) : Out := run s fun s =>
  if s.bit pgUpd UPD_STAT_sched then s.setBit pgUpd UPD_STAT_shadow true else s

/-- CLASS_M_ACTIVATION (R484): the first rail instant of UPD_CFG.group at or after the target. -/
def execClassMActivation (s : State) : Out := run s fun s =>
  match s.updInstant with
  | some f => if s.bit pgUpd UPD_STAT_sched ∧ s.bit pgUpd UPD_STAT_shadow ∧ s.upd.target ≤ s.todCuesAt f then s.activateM f else s
  | none => s

/-- CLASS_M_REVERT (R485): the first rail instant after the deadline. -/
def execClassMRevert (s : State) : Out := run s fun s =>
  match s.updInstant with
  | some f =>
    if s.fld pgUpd UPD_STAT_trial = 2 ∧ s.fld64 pgUpd UPD_DEADLINE_lo UPD_DEADLINE_hi < f then
      let s := s.reverted 2
      ({ s with classM := false }.setRun 2 s.upd.old).sendVersions
    else s
  | none => s

/-- MANAGEMENT_PAUSE_END (R487, R488): the class runs its trial slot, with 90 s to confirm, or its old slot again. -/
def execManagementPauseEnd (s : State) : Out := run s fun s =>
  if s.bit pgUpd UPD_STAT_pause then
    let k := s.upd.cls
    let s := s.setBit pgUpd UPD_STAT_pause false
    let s := if s.upd.back then s.setRun k s.upd.old
      else (s.setRun k (some s.upd.slot)).setFld64 pgUpd UPD_DEADLINE_lo UPD_DEADLINE_hi (s.now + 90 * cueSec)
    let s := s.when (k == 3 && (s.runSlot 3).isSome) (fun s => s.crewSet 15)
    s.sendVersions
  else s

/-- CLASS_S_CONFIRM (R488): UPD_SCONF is written. -/
def State.sconfHook (s : State) (eff : W32) : State :=
  if eff.getLsbD 0 ∧ s.mayConfirm 1 then s.confirmed 1 else s

def State.updWrite (s : State) (a : Acc) (o : Nat) (w : W32) : State :=
  if o = 0x100 then s.updCmdWrite a w
  else
    let r := s.storeWord a pgUpd .upd 0 o w
    if r.ok && o == 0x188 then r.s.sconfHook r.eff else r.s

def execClassSConfirm (a : Acc) (word : W32) (s : State) : Out := run s fun s =>
  s.viaPath a (pgUpd + 0x188) fun s => s.updWrite a 0x188 word

/-- TRIAL_TIMEOUT (R488): a class C or S trial unconfirmed at its deadline restarts on the old slot, with a second pause. -/
def execTrialTimeout (s : State) : Out := run s fun s =>
  let k := s.fld pgUpd UPD_STAT_trial
  if (k = 1 ∨ k = 3) ∧ !s.upd.held ∧ !s.bit pgUpd UPD_STAT_pause ∧ s.fld64 pgUpd UPD_DEADLINE_lo UPD_DEADLINE_hi < s.now + 16 then
    let s := (s.reverted k).pauseStart k true
    { s with upd := { s.upd with setKeep := none, setBank := if s.upd.setKeep.isSome then s.upd.setKeep else s.upd.setBank } }
  else s

end Sys2Proof.Machine
end

