-- ==== Sys2Proof/Machine/Pair.lean ====
section
/-!
DEFINITION. Lead and Understudy (R347 to R371), but for the application of the journal and of a transferred state: claims and
their bursts, roles, the Twin Link, heartbeats, signatures, path checks, snapshots and swaps.
-/
namespace Sys2Proof.Machine

def State.setPair (s : State) (v : Pair) : State := { s with pair := v }

/-! ### Claims (R347, R352) -/

def claimOf (rank epoch : Nat) : W32 := BitVec.ofNat 32 (rank * 2 ^ 24 + epoch)
def rankOf (c : W32) : Nat := c.toNat / 2 ^ 24
def epochOf (c : W32) : Nat := c.toNat % 2 ^ 24

/-- The epoch saturates. -/
def epochNext (e : Nat) : Nat := min (e + 1) 0xFFFFFF

/-- The own claim changes: a burst is asked for, unless one is in progress (R348); an epoch of 0xFF_F000 is reported once
(R352). -/
def State.setClaim (s : State) (c : W32) : State :=
  if c = s.claim then s
  else
    let s := s.setFld pgPair PAIR_CLAIM_own c.toNat
    let s := s.setPair { s.pair with burstWant := s.pair.burstEnd ≤ s.now }
    if 0xFFF000 ≤ epochOf c ∧ !s.bit pgPair PAIR_STAT_epoch_low then
      ((s.setBit pgPair PAIR_STAT_epoch_low true).irq pgPair IRQ_pair_epoch_low).err pgPair 0x0E3
    else s

/-- The twin's claim as heard. -/
def State.twinClaim (s : State) : W32 := s.word (pgPair + PAIR_CLAIM_twin.off)

/-! ### Roles (R350, R360, R362) -/

/-- The role changes; reference input 9 is enabled in Joining and Understudy only. -/
def State.setRole (s : State) (r : Nat) : State := ((s.setFld pgPair PAIR_STAT_role r).refFollow 9 false).refRecheck

/-- The address of a snapshot bank's header in an area, and whether the bank holds a valid snapshot (R364, log entry 99). -/
def State.snapLen (s : State) : Nat := s.lv pgTwin TWN_SNAP_LEN_bytes
def State.snapArea (s : State) : Nat := s.lv64 pgTwin TWN_SNAP_AREA_lo TWN_SNAP_AREA_hi
def State.snapBank (s : State) (b : Nat) : Nat := s.snapArea + b * (s.snapLen + 128)

def State.snapValid (s : State) (b : Nat) : Bool :=
  let a := s.snapBank b
  s.loadLE a 8 != 0 && s.loadLE (a + 24) 8 == s.snapLen && s.loadLE (a + 32) 4 == (crc32c (s.load (a + 128) s.snapLen)).toNat

/-- The bank with the highest valid sequence. -/
def State.snapBest (s : State) : Option Nat :=
  match [0, 1].filter s.snapValid with
  | [] => none
  | [b] => some (s.snapBank b)
  | _ => some (if s.loadLE (s.snapBank 0) 8 < s.loadLE (s.snapBank 1) 8 then s.snapBank 1 else s.snapBank 0)

/-- The Crew is released, with the bank it is to read (R364). -/
def State.crewStart (s : State) : State := (s.setPair { s.pair with crewBank := s.snapBest }).crewRelease

/-- The device becomes Lead: no journal entry is applied any more. -/
def State.becomeLead (s : State) (epoch : Nat) : State :=
  let s := { (s.setClaim (claimOf 2 epoch)).setRole roleLead with journalIn := [] }
  s.setPair { s.pair with xferSent := false, done := true, items := [], cutAt := none, writes := [], swapTo := none,
                          swapAt := none }

/-- The device goes back to Forming. -/
def State.becomeForming (s : State) : State :=
  let s := { (s.setClaim 0).setRole roleForming with journalIn := [] }
  s.setPair { s.pair with quietFrom := s.now, done := false, items := [], cutAt := none, writes := [] }

/-- A takeover trigger (R350, R361, R362). -/
def State.takeover (s : State) : State :=
  if s.role = roleUnderstudy ∨ (s.role = roleJoining ∧ s.pair.done) then
    let s := s.becomeLead (epochNext (epochOf s.claim))
    ((s.bump pgPair PAIR_TAKEOVER_n).irq pgPair IRQ_pair_takeover).crewStart
  else if s.role = roleJoining then s.becomeForming
  else s

/-- The device yields (R350): a Lead halts its Crew. -/
def State.yieldNow (s : State) : State :=
  let s := if s.role = roleLead then s.crewSet 0 else s
  let s := ((s.setClaim 0).setRole roleYielded).setPair { s.pair with done := true, swapTo := none, swapAt := none }
  (s.bump pgPair PAIR_YIELD_n).irq pgPair IRQ_pair_yield

/-- Forming meets a Lead whose time of day is valid: it joins (R350). Its Crew halts (R364, log entry 97). -/
def State.joinLead (s : State) : State :=
  if s.role = roleForming ∧ rankOf s.twinClaim = 2 ∧ s.pair.twinTod then
    let s := ((s.setClaim (claimOf 1 (epochOf s.twinClaim))).setRole roleJoining).crewSet 0
    { s with journalIn := [] }.setPair
      { s.pair with done := false, items := [], cutAt := none, writes := [], settle := 0, settleBad := false }
  else s

/-- Joining ends (R350): transfer complete, input 9 Tracking, time within 4 cues, and enough frames of agreement. -/
def State.tryPromote (s : State) : State :=
  if s.role = roleJoining ∧ s.pair.done ∧ s.fld pgSel REF_STAT_state = selTracking ∧ s.refSelIn = 9
      ∧ (s.fldS pgPair PAIR_TODERR_cues).natAbs ≤ 4 ∧ s.lv pgPair PAIR_CFG_settle ≤ s.pair.settle then
    (s.setRole roleUnderstudy).irq pgPair IRQ_pair_role_chg
  else s

/-- A claim heard from the twin, on CLAIM_I or in a Call Bus header of the claim group: it counts for the highest epoch and the
rank-2 watch, and a Lead yields to a higher Lead (R350). -/
def State.hearClaim (s : State) (c : W32) : State :=
  let s := s.setPair { s.pair with epoch := max s.pair.epoch (epochOf c),
                                   quietFrom := if rankOf c = 2 then s.now else s.pair.quietFrom }
  if s.role = roleLead ∧ rankOf c = 2 ∧ epochOf s.claim < epochOf c then s.yieldNow else s

/-- PAIR_CLAIM.twin takes a value from CLAIM_I (R349): a claim below the own one is a takeover trigger (R361). -/
def State.setTwinClaim (s : State) (c : W32) : State :=
  let s := s.setFld pgPair PAIR_CLAIM_twin c.toNat
  if (s.role = roleUnderstudy ∨ s.role = roleJoining) ∧ c < s.claim then s.takeover else s.joinLead

/-! ### Bursts (R348, R349) -/

/-- One bit into the CRC-8 of x^8 + x^2 + x + 1. -/
def crc8Bit (c : BitVec 8) (b : Bool) : BitVec 8 := if c.getLsbD 7 != b then (c <<< 1) ^^^ 0x07 else c <<< 1

/-- The CRC-8 of a claim, most significant bit first. -/
def crc8 (c : W32) : BitVec 8 := (List.range 32).foldl (fun x i => crc8Bit x (c.getLsbD (31 - i))) 0

/-- The bits of a burst. -/
def burstBits (c : W32) : BitVec 48 := (0xD5 : BitVec 8) ++ c ++ crc8 c

/-- The claim of a good burst. -/
def burstClaim (b : BitVec 48) : Option W32 :=
  let c := b.extractLsb' 8 32
  if b.extractLsb' 40 8 = 0xD5 ∧ b.extractLsb' 0 8 = crc8 c then some c else none

def burstLen : Nat := 47040

def State.cgroup (s : State) : Nat := s.lv pgPair PAIR_CFG_cgroup

/-- The rail instant of cgroup in this TICK. -/
def State.cgNow (s : State) : Option Nat :=
  let i := s.grpNext s.cgroup s.now
  if i < s.now + 16 then some i else none

/-- Frames of agreement in Joining, counted at each rail instant of cgroup (R350). -/
def State.settleFrame (s : State) (i : Nat) : State :=
  let v := s.pair
  if s.role = roleJoining ∧ v.settleAt ≠ i then
    s.setPair { v with settleAt := i, settle := if v.done ∧ !v.settleBad then v.settle + 1 else 0, settleBad := false }
  else s

/-- CLAIM_BURST (R348): at a rail instant of cgroup, or after a change of claim, at cue of the present TICK. -/
def State.sendBurst (s : State) (cue : Nat) : State :=
  let inst := s.cgNow
  let s := match inst with | some i => (s.settleFrame i).tryPromote | none => s
  let v := s.pair
  let t := inst.getD (s.now + cue)
  if s.role ≠ roleSolo ∧ !s.faulted ∧ (inst.isSome ∨ v.burstWant) ∧ v.burstEnd ≤ t then
    s.setPair { v with burst := some (t, burstBits s.claim), burstEnd := t + burstLen, burstWant := false }
  else s

/-- A burst on CLAIM_I has been sampled: good, or bad. -/
def State.hearBurst (s : State) (b : BitVec 48) : State :=
  let v := { s.pair with heard := some (s.now - burstLen), missed := 0 }
  match burstClaim b with
  | some c => ((s.setPair { v with bad := 0 }).setTwinClaim c).hearClaim c
  | none =>
    let s := s.setPair { v with bad := if v.bad = 0 then 1 else 0 }
    if v.bad = 0 then s else s.setTwinClaim 0

/-- A burst expected within 1 µs of a rail instant of cgroup has not come, as is known when it would have ended; a burst heard
since means that the instant has been judged. -/
def State.missBurst (s : State) : State :=
  let v := s.pair
  let i := s.grpPrev s.cgroup (s.now + 15 - (burstLen + cueUs))
  let came : Bool := match v.heard with | some h => i ≤ h + cueUs + 16 | none => false
  if i == v.missAt || came then s
  else
    let s := s.setPair { v with missAt := i, missed := if v.missed = 0 then 1 else 0 }
    if v.missed = 0 then s else s.setTwinClaim 0

/-! ### Messages (R353, R354) -/

def State.twinUp (s : State) : Bool := s.fld pgTwin TWN_STAT_width != 0

/-- A retransmit request for the next sequence expected. -/
def State.askAgain (s : State) : State :=
  let s := (s.bump pgTwin TWN_RETX_n).setBit pgTwin TWN_STAT_replay true
  (s.setPair { s.pair with asked := true }).twinSend (.retransmit s.pair.rxSeq)

/-- A message arrives: whether it is the next one, and what a CRC error or a gap brings (R354). -/
def State.twinTake (s : State) (seq : Nat) (crcOk : Bool) : State × Bool :=
  if !s.twinUp then (s, false)
  else if !crcOk then ((s.bump pgTwin TWN_CRC_ERR_n).askAgain, false)
  else if seq % 2 ^ 32 = s.pair.rxSeq then
    ((s.setBit pgTwin TWN_STAT_replay false).setPair { s.pair with rxSeq := (s.pair.rxSeq + 1) % 2 ^ 32, asked := false }, true)
  else if s.pair.asked then (s, false)
  else (s.askAgain, false)

/-- What a message taken in order does. -/
def State.onMessage (s : State) (seq : Nat) (crcOk : Bool) (f : State → State) : State :=
  let r := s.twinTake seq crcOk
  if r.2 then f r.1 else r.1

/-- A transfer under way is interrupted (R359). -/
def State.xferCut (s : State) : State :=
  if s.role = roleJoining ∧ !s.pair.done then
    (s.err pgPair 0x0E4).setPair { s.pair with items := [], cutAt := none, writes := [] }
  else s

/-- The link goes down. -/
def State.twinDown (s : State) : State :=
  ((s.setFld pgTwin TWN_STAT_width 0).irq pgTwin IRQ_twin_link_down).xferCut

/-- The width that good lanes allow: all, lanes 0 to 3, lanes 4 to 7, none. -/
def widthOf (ok : Nat) : Nat := if ok = 255 then 3 else if ok % 16 = 15 then 1 else if ok / 16 = 15 then 2 else 0

/-- A lane fails (R353). -/
def State.laneFail (s : State) (n : Nat) : State :=
  let ok := s.fld pgTwin TWN_STAT_lane_ok
  if ok.testBit n then
    let w := s.fld pgTwin TWN_STAT_width
    let ok := ok - 2 ^ n
    let w' := if w = 3 then widthOf ok else if (w = 1 ∧ n < 4) ∨ (w = 2 ∧ 4 ≤ n) then 0 else w
    let s := (s.setFld pgTwin TWN_STAT_lane_ok ok).bump pgTwin TWN_LANE_FAIL_n
    if w' = w then s
    else if w' = 0 then s.twinDown
    else (s.setFld pgTwin TWN_STAT_width w').irq pgTwin IRQ_twin_width
  else s

/-- The link comes up: both directions number their messages anew (log entry 98), and the versions that run are sent (R491). -/
def State.linkRise (s : State) (lanes : Nat) : State :=
  if s.twinUp ∨ widthOf lanes = 0 then s
  else
    let s := (s.setFld pgTwin TWN_STAT_width (widthOf lanes)).setFld pgTwin TWN_STAT_lane_ok lanes
    let s := ({ s with twinOut := [], twinSeq := 0 }.setBit pgTwin TWN_STAT_replay false).irq pgTwin IRQ_twin_link_up
    (s.setPair { s.pair with rxSeq := 0, asked := false, replayed := [], xferSent := false }).sendVersions

/-- A retransmit request: replay from the sequence named, or reset the link. -/
def State.replay (s : State) (first : Nat) : State :=
  let f := first % 2 ^ 32
  if s.twinOut.any (fun m => m.seq == f) ∨ f = s.twinSeq % 2 ^ 32 then
    let n := (s.twinSeq + 2 ^ 32 - f) % 2 ^ 32
    s.setPair { s.pair with replayed := ((s.twinOut.take n).map (·.seq)).reverse }
  else ((s.bump pgTwin TWN_RESET_n).err pgTwin 0x0E2).twinDown

/-! ### State transfer as sent (R359) -/

/-- The bits of a register that a transfer carries: fields of mirrored pages that software or the block writes as settings. -/
def mirrorMask (a : Nat) : W32 :=
  match pageOf a with
  | some (k, _) =>
    let o := a % 0x1000
    if k.mirrored ∧ 0x100 ≤ o ∧ o < 0x800 then
      (fieldsAt k o).foldl (fun m f => if f.code == .rw || f.code == .rwh then m ||| f.mask else m) 0
    else 0
  | none => 0

/-- The addresses of mirrored registers that hold other than their reset value. -/
def State.mirrorAddrs (s : State) : List Nat := ((s.regs.map (·.1) ++ s.live.map (·.1)).dedup).filter (fun a => mirrorMask a != 0)

/-- The indices at which one of two copies of a table holds a word. -/
def tableKeys (a b : Store W32) : List Nat := (a.map (·.1) ++ b.map (·.1)).dedup

def tableItems (t : Nat) (stage live : Store W32) : List XferItem :=
  (tableKeys stage live).map (fun i => .table t i (Store.get (fun _ => 0) stage i) (Store.get (fun _ => 0) live i))

/-- A time of day in whole cues converted to uptime as R190 converts targets. -/
def State.uptOfCues (s : State) (x : Nat) : Nat := (s.now + ((x * 2 ^ 40 : Nat) - (s.tod.total : Int)).fdiv (2 ^ 40)).toNat

/-- The instant of a grid that an uptime converted from the Lead's means: the devices' clocks differ by a few cues (log entry
152). -/
def nearInstant (f : Nat → Nat) (x : Nat) : Nat :=
  let y := f (x - 8)
  if y ≤ x + 8 then y else x

/-- Everything a transfer carries, uptimes as times of day. -/
def State.xferItems (s : State) : List XferItem :=
  let c := s.todCuesAt
  s.mirrorAddrs.map (fun a => .word a (s.word a &&& mirrorMask a) (s.lword a &&& mirrorMask a))
  ++ tableItems 0 s.rxStage s.rxTab ++ tableItems 1 s.txStage s.txTab ++ tableItems 2 s.pitStage s.pitTab
  ++ tableItems 3 s.coefStage s.coef
  ++ s.salvoMem.map (fun e => .salvoWord e.1 e.2)
  ++ s.tapSel.map (fun e => .select e.1 e.2)
  ++ s.armed.flatMap (fun e => e.2.map (fun k => .take e.1 { k with target := c k.target, ready := c k.ready }))
  ++ s.pitOut.map (fun e => .pitSelect e.1 (if e.2.st = 2 then e.2.want else e.2.src))
  ++ s.pitTakes.map (fun k => .pitTake { k with target := c k.target, ready := c k.ready })
  ++ s.sheet.map (fun e => .cueEnt { e with target := if e.kind = 1 then e.target else c e.target })
  ++ s.salvos.map (fun v => .salvo { v with upt := c v.upt })
  ++ s.plat.map (fun e => .plat e.1 (s.ptState e.1) e.2.last)
  ++ s.syn.map (fun e => .syn e.1 (s.synState e.1) (e.2.claim.map (·.1)) ((e.2.claim.map (·.2)).getD 1) e.2.next)
  ++ s.pro.flatMap (fun e => (List.range 4).map (fun g =>
      .flip e.1 g (s.fld (pgBlend e.1) PRO_FLIP_bank g) (s.fld (pgBlend e.1) PRO_FLIP_pend g == 1) (e.2.fence.getD g 0)))

/-- A list in pieces of n. -/
def pieces {α : Type} (n : Nat) : Nat → List α → List (List α)
  | 0, _ => []
  | k + 1, l => if l.isEmpty then [] else l.take n :: pieces n k (l.drop n)

/-- The Lead sends its mirrored state, and then the cut: the first rail instant of cgroup at least PAIR_DEFER.cues on. -/
def State.sendState (s : State) : State :=
  let l := s.xferItems
  let C := s.grpNext s.cgroup s.earliest
  let s := (pieces 10 l.length l).foldl (fun s p => s.twinSend (.state p)) s
  (s.twinSend (.state [.cut (s.todCuesAt C)])).setPair { s.pair with xferSent := true }

/-! ### Heartbeats (R354, R360, R361) -/

/-- The multiple of 1 ms of time of day that the present TICK reaches, in 2^-30 cue. -/
def State.msInstant (s : State) : Option Nat :=
  let ms := cueMs * 2 ^ 40
  let r := s.tod.total % ms
  let d := if r = 0 then 0 else ms - r
  if d * 16 < s.inc * s.tickLen then some ((s.tod.total + d) / 2 ^ 10) else none

/-- The heartbeat of the millisecond instant t. -/
def State.beatMsg (s : State) (t : Nat) : TwinBody :=
  .heartbeat ⟨s.claim, s.held, s.role, (s.pair.rxSeq + 2 ^ 32 - 1) % 2 ^ 32, t, s.pair.hbTwin⟩

/-- A heartbeat leaves at a millisecond instant, where the TICK holds one. -/
def State.beatAt (s : State) : Option Nat → State
  | some t =>
    if s.role ≠ roleSolo ∧ !s.fltT ∧ s.pair.hbSent ≠ t then
      (s.setPair { s.pair with hbSent := t }).twinSend (s.beatMsg t)
    else s
  | none => s

/-- A heartbeat leaves. -/
def State.beat (s : State) : State := s.beatAt s.msInstant

/-- Time of day in 2^-30 cue at an uptime. -/
def State.tod30 (s : State) (u : Nat) : Nat := (s.todAt u / 2 ^ 10).toNat

/-- The event of input 9 that a heartbeat of the Lead gives, where the exchange is complete (R360). Its quality is open but
below 255 (log entry 100). -/
def State.twinEvent (s : State) (upt : Nat) (h : Heartbeat) : State :=
  match h.echo with
  | some (t3, t4) =>
    let t1 : Int := h.launch
    let t2 : Int := s.tod30 upt
    let m := t1 + ((t4 - t1) - (t3 - t2)) / 2 - s.lvS pgPair PAIR_ADJ_asym * 2 ^ 30
    (s.refEvent 9 upt m (some (s.free64.toNat % 255))).fresh
  | none => s

/-- A heartbeat has arrived at uptime upt. -/
def State.hearBeat (s : State) (upt : Nat) (h : Heartbeat) : State :=
  if s.role = roleSolo then s
  else
    let s := s.setPair { s.pair with lastHb := upt, hbTwin := some (h.launch, s.tod30 upt), twinRole := h.role,
                                     twinTod := h.todValid,
                                     xferSent := s.pair.xferSent && h.role == roleJoining }
    let s := (s.setBit pgPair PAIR_STAT_twin_up true).joinLead
    let s := s.when (h.role == roleLead && (s.role == roleJoining || s.role == roleUnderstudy)) (fun s => s.twinEvent upt h)
    let s := s.tryPromote
    s.when (s.role == roleLead && h.role == roleJoining && !s.pair.xferSent) State.sendState

/-- 3 ms without a valid heartbeat (R361). -/
def State.beatLost (s : State) : State :=
  if s.bit pgPair PAIR_STAT_twin_up ∧ s.pair.lastHb + 31752000 < s.now + 16 then
    let s := s.setBit pgPair PAIR_STAT_twin_up false
    if s.role = roleLead then (s.bump pgPair PAIR_HB_MISS_n).irq pgPair IRQ_pair_twin_lost else s.takeover
  else s

/-! ### Signatures (R366, R367) -/

/-- The signature of a frame: its active picture samples, then its embedded audio. -/
def signatureOf (samples audio : List Nat) : W32 := crc32c (samples.flatMap (bytesLE 2) ++ audio.flatMap (bytesLE 3))

/-- The frame of a destination that ends in this TICK: its start and period. -/
def State.destEnd (s : State) (d : Nat) : Option (Nat × Nat) :=
  let (e, T) : Nat × Nat := match (if s.tapOwnTiming d then s.railFrame (s.tapRail d) else none) with
    | some (F, len) => (if s.now ≤ F then F else F + ceilDiv (s.now - F) len * len, len)
    | none => (s.grpNext (s.tapGroup d) s.now, perOf (s.grpRate (s.tapGroup d)))
  if e < s.now + 16 ∧ T ≠ 0 ∧ T ≤ e then some (e - T, T) else none

/-- The number of the frame of period T that starts at an uptime. -/
def State.frameNo (s : State) (start T : Nat) : Nat := ((s.todCuesAt start) + T / 2) / T

/-- A destination gives no signature: no source, or its lane asleep. -/
def State.signless (s : State) (d : Nat) : Bool := s.tapRail d == noRail || (d < 512 && !s.bit (pgTxl d) TXL_STAT_awake)

def State.sigRun (s : State) (d : Nat) : SigRun := Store.get (fun _ => {}) s.pair.runs d
def State.setSigRun (s : State) (d : Nat) (v : SigRun) : State :=
  s.setPair { s.pair with runs := Store.put (fun _ => {}) d v s.pair.runs }

/-- The twin's status of a divergence (R369). -/
def State.setDivs (s : State) (l : List Nat) : State :=
  (s.setPair { s.pair with divs := l }).setBit pgPair PAIR_STAT_div (!l.isEmpty)

/-- A path check of d begins with its frame n at uptime start (R368). -/
def State.checkStart (s : State) (d n start T : Nat) : State :=
  let v := s.pair
  let s := { s with checking := if s.checking.contains d then s.checking else d :: s.checking }
  let s := s.setPair { v with checks := v.checks.filter (fun c => c.dest != d) ++ [⟨d, n, none, none, start + 2 * T⟩] }
  (s.bump pgPair PAIR_CHECK_n).setSigRun d { s.sigRun d with check := some s.now }

/-- The Lead acts on a persistent mismatch (R368): at most one path check of a destination in a second. -/
def State.maybeCheck (s : State) (d : Nat) : State :=
  let r := s.sigRun d
  let soon := match r.check with | some t => s.now < t + cueSec | none => false
  if s.role = roleLead ∧ s.pair.twinRole = roleUnderstudy ∧ s.lv pgPair PAIR_CFG_mis_n ≤ r.bad ∧ !soon
      ∧ !s.pair.checks.any (fun c => c.dest == d) then
    let T := perOf (s.grpRate (s.tapGroup d))
    let start := s.grpNext (s.tapGroup d) s.earliest
    let n := s.frameNo start T
    (s.checkStart d n start T).journal start (.pathCheck d n)
  else s

/-- Destination d is compared in frame n, which began at an uptime (R367). -/
def State.compared (s : State) (d n start : Nat) (differ : Bool) : State :=
  let r := s.sigRun d
  let a := pgPair + PAIR_SIG_MASK.at (d / 32)
  if (s.word a).getLsbD (d % 32) then s.setSigRun d { r with last := some n }
  else
    let m := pgPair + PAIR_SIG_MAP.at (d / 32)
    let s := s.setWord m (setBits (s.word m) (d % 32) 1 differ.toNat)
    if differ then
      let s := s.setSigRun d { r with last := some n, bad := r.bad + 1, good := 0, since := if r.bad = 0 then start else r.since }
      let s := (s.bump pgPair PAIR_SIG_MIS_n).irq pgPair IRQ_pair_mismatch
      (s.setPair { s.pair with settle := 0, settleBad := true }).maybeCheck d
    else
      let s := s.setSigRun d { r with last := some n, bad := 0, good := r.good + 1 }
      s.when (s.pair.divs.contains d && s.lv pgPair PAIR_CFG_mis_n ≤ r.good + 1) (fun s => s.setDivs (s.pair.divs.erase d))

/-- The wait for destination d's frame n, if one stands. -/
def State.sigWait (s : State) (d n : Nat) : Option SigWait := s.pair.sigs.find? (fun w => w.dest == d && w.frame == n)
def State.sigDrop (s : State) (d n : Nat) : State :=
  s.setPair { s.pair with sigs := s.pair.sigs.filter (fun w => !(w.dest == d && w.frame ≤ n)) }
def State.sigAdd (s : State) (w : SigWait) : State :=
  s.setPair { s.pair with sigs := s.pair.sigs.filter (fun x => !(x.dest == w.dest && x.frame == w.frame)) ++ [w] }

/-- The own frame of d has ended. -/
def State.ownSignature (s : State) (d : Nat) (samples audio : List Nat) : State :=
  match s.destEnd d with
  | some (start, T) =>
    let n := s.frameNo start T
    if s.role = roleSolo ∨ (s.sigRun d).last = some n then s
    else
      let own := if s.signless d then none else some (signatureOf samples audio)
      let s := match own with | some w => s.twinSend (.signatures n [(d, w)]) | none => s
      match (s.sigWait d n).bind (·.twin) with
      | some t => (s.sigDrop d n).compared d n start (own != some t)
      | none => s.sigAdd ⟨d, n, start + 3 * T, some own, none⟩
  | none => s

/-- A signature of the twin. -/
def State.twinSignature (s : State) (d n : Nat) (w : W32) : State :=
  let old : Bool := match (s.sigRun d).last with | some l => n ≤ l | none => false
  if 2048 ≤ d ∨ s.role = roleSolo ∨ old then s
  else match s.sigWait d n with
    | some ⟨_, _, due, some own, _⟩ =>
      let T := perOf (s.grpRate (s.tapGroup d))
      (s.sigDrop d n).compared d n (due - 3 * T) (own != some w)
    | _ => s.sigAdd ⟨d, n, 0, none, some w⟩

/-- The oldest frame of d whose twin signature is overdue. -/
def State.overdue (s : State) (d : Nat) : State :=
  match s.pair.sigs.find? (fun w => w.dest == d && w.own.isSome && w.due < s.now + 16) with
  | some w =>
    let T := perOf (s.grpRate (s.tapGroup d))
    (s.sigDrop d w.frame).compared d w.frame (w.due - 3 * T) (w.own != some none)
  | none => s

/-! ### Path checks (R368, R369) -/

/-- The pages of the blocks on a destination's path. -/
def State.pathPages (s : State) (d : Nat) : List Nat :=
  let r := s.tapRail d
  let src := if r < 2048 then [pgQuad r] else if r < 2304 then [pgSyn (r - 2048)]
    else if r < 2336 then [pgRas (r - 2304), pgLay (r - 2304), pgBlend (r - 2304)] else []
  src ++ [pgTap d] ++ if d < 512 then [pgFmt d, pgTxl d] else [pgFlt]

/-- A first error has arisen on the path since the mismatch began. -/
def State.pathErred (s : State) (d : Nat) : Bool :=
  (s.pathPages d).any (fun p => s.bit p FERR_INFO_valid && (s.sigRun d).since ≤ s.fld64 p FERR_TIME_lo FERR_TIME_hi)

/-- A divergence is reported with its cause (R369). -/
def State.diverge (s : State) (d cause : Nat) : State :=
  let s := s.setDivs (if s.pair.divs.contains d then s.pair.divs else d :: s.pair.divs)
  ((s.setFld pgPair PAIR_DIV_dest d).setFld pgPair PAIR_DIV_cause cause).irq pgPair IRQ_pair_divergence

/-- Both results of a path check are known: the outcome. -/
def State.checkOutcome (s : State) (d : Nat) (own twin : Bool × Bool) : State :=
  let v := s.pair
  let s := { s with checking := s.checking.filter (· != d) }.setPair { v with checks := v.checks.filter (fun c => c.dest != d) }
  let lead := if s.role = roleLead then own.1 else twin.1
  let under := if s.role = roleLead then twin.1 else own.1
  if s.role ≠ roleLead ∧ s.role ≠ roleUnderstudy then s
  else if lead ∧ under then s.diverge d (if own.2 || twin.2 then 2 else 1)
  else if under then (if s.role = roleLead then s.yieldNow else s.takeover)
  else
    let s := if lead then s else s.diverge d 3
    if s.role = roleUnderstudy then s.yieldNow else s

/-- The own path check of d is over: the check engine's signatures differed, or an error arose on the path. -/
def State.checkDone (s : State) (d : Nat) (differs inputDiff : Bool) : State :=
  match s.pair.checks.find? (fun c => c.dest == d && c.own.isNone) with
  | some c =>
    if c.due < s.now + 16 then
      let pass := !differs && !s.pathErred d
      let s := if pass then s else { s with pathFailed := if s.pathFailed.contains d then s.pathFailed else d :: s.pathFailed }
      let s := s.twinSend (.pathResult d c.frame pass inputDiff)
      match c.twin with
      | some t => s.checkOutcome d (pass, inputDiff) t
      | none =>
        let g := s.tapGroup d
        let due := s.grpNext g (s.now + 1) + perOf (s.grpRate g)
        s.setPair { s.pair with checks := s.pair.checks.map (fun x =>
          if x.dest == d then { x with own := some (pass, inputDiff), due := due } else x) }
    else s
  | none => s

/-- The twin's result. -/
def State.checkTwin (s : State) (d n : Nat) (t : Bool × Bool) : State :=
  match s.pair.checks.find? (fun c => c.dest == d && c.frame == n) with
  | some c =>
    match c.own with
    | some o => s.checkOutcome d o t
    | none => s.setPair { s.pair with checks := s.pair.checks.map (fun x => if x.dest == d then { x with twin := some t } else x) }
  | none => s

/-- The twin's result is overdue: it is taken as a pass. -/
def State.checkTimeout (s : State) (d : Nat) : State :=
  match s.pair.checks.find? (fun c => c.dest == d) with
  | some ⟨_, _, some o, none, due⟩ => if due < s.now + 16 then s.checkOutcome d o (true, false) else s
  | _ => s

/-! ### Snapshots (R364) -/

/-- The 64-bit words of a list of bytes. -/
def wordsOf (l : List Byte) : List (BitVec 64) := (pieces 8 l.length l).map (fun p => BitVec.ofNat 64 (ofBytesLE p))

/-- The offset of a bank, for the copy of a sequence. -/
def State.bankAt (s : State) (seq : Nat) : Nat := seq % 2 * (s.snapLen + 128)

/-- Data messages of up to 30 words from an offset. -/
def State.sendData (s : State) (off : Nat) (l : List (List (BitVec 64))) : State :=
  (l.foldl (fun x p => (x.1.twinSend (.snapData x.2 p), x.2 + 8 * p.length)) (s, off)).1

/-- A copy starts: every TWN_SNAP_PER seconds, and for a swap. -/
def State.snapStart (s : State) : State :=
  let v := s.pair
  let due := v.snapFrom + s.lv pgTwin TWN_SNAP_PER_s * cueSec < s.now + 16
  if s.role = roleLead ∧ v.snapBusy.isNone ∧ (due ∨ (v.swapTo.isSome ∧ v.snapFrom < v.swapFrom)) then
    let r := s.engineRead twinMaster (s.lv64 pgTwin TWN_SNAP_SRC_lo TWN_SNAP_SRC_hi) s.snapLen
    let w := wordsOf r.2
    let s := r.1.setPair { v with snapFrom := s.now, snapBusy := some s.tod.total, snapCrc := crc32c r.2 }
    s.sendData (s.bankAt (v.snapSeq + 1) + 128) (pieces 30 w.length w)
  else s

/-- A snapshot's header (log entry 99): sequence, time of day, length, CRC. -/
def State.snapHeader (s : State) (seq tod : Nat) : List (BitVec 64) :=
  let x := tod / 2 ^ 40
  [BitVec.ofNat 64 seq, BitVec.ofNat 64 (x / cueSec), BitVec.ofNat 64 (x % cueSec + tod / 2 ^ 10 % 2 ^ 30 * 2 ^ 34),
    BitVec.ofNat 64 s.snapLen, BitVec.ofNat 64 s.pair.snapCrc.toNat] ++ List.replicate 11 0

/-- A complete snapshot shows in its registers. -/
def State.snapShow (s : State) (seq : Nat) : State :=
  ((s.setFld pgTwin TWN_SNAP_SEQ_n seq).setFld64 pgTwin TWN_SNAP_TIME_lo TWN_SNAP_TIME_hi s.now).irq pgTwin IRQ_twin_snap_done

/-- The conditions of a swap (R365): the Lead is Lead, the twin Understudy, and no divergence is reported. -/
def State.swapFits (s : State) : Bool :=
  s.role == roleLead && s.bit pgPair PAIR_STAT_twin_up && s.pair.twinRole == roleUnderstudy && !s.bit pgPair PAIR_STAT_div

/-- A swap is refused. -/
def State.swapRefused (s : State) : State :=
  (((s.setPair { s.pair with swapTo := none, swapAt := none }).bump pgPair SWAP_REFUSED_n).setBit pgPair PAIR_STAT_swap_ok
    false).irq pgPair IRQ_pair_swap_done

/-- The swap instant W: the first rail instant of cgroup at or after a time of day, at least PAIR_DEFER.cues on. -/
def State.swapInstant (s : State) (x : Nat) : Nat := s.grpNext s.cgroup (max (s.uptOfCues x) s.earliest)

/-- The copy is complete: its header is written last. The last snapshot of a swap fixes W (R365), which is kept as a time of
day, as its target is: both follow a step (R29). -/
def State.snapEnd (s : State) : State :=
  match s.pair.snapBusy with
  | some t =>
    let seq := s.pair.snapSeq + 1
    let s := s.sendData (s.bankAt seq) [s.snapHeader seq t]
    let s := (s.setPair { s.pair with snapSeq := seq, snapBusy := none }).snapShow seq
    match s.pair.swapTo with
    | some to_ =>
      if s.pair.swapFrom ≤ s.pair.snapFrom then
        if s.swapFits then
          let W := s.swapInstant to_
          (s.setPair { s.pair with swapTo := none, swapAt := some (s.todCuesAt W) }).journal W .swap
        else s.swapRefused
      else s
    | none => s
  | none => s

/-- Data for the snapshot area: a header completes a snapshot. -/
def State.snapData (s : State) (off : Nat) (data : List (BitVec 64)) : State :=
  let l := data.flatMap (fun w => bytesLE 8 w.toNat)
  if s.inDram (s.snapArea + off) l.length then
    let s := s.engineWrite twinMaster (s.snapArea + off) l
    if off = 0 ∨ off = s.snapLen + 128 then s.snapShow ((data.headD 0).toNat) else s
  else s

/-! ### Swaps (R365), and the control register -/

/-- PAIR_CTL.swap. -/
def State.swapAsk (s : State) : State :=
  if s.swapFits then
    let x := s.fld64 pgPair PAIR_SWAP_sec_lo PAIR_SWAP_sec_hi * cueSec + s.fld64 pgPair PAIR_SWAP_cos_lo PAIR_SWAP_cos_hi
    s.setPair { s.pair with swapTo := some x, swapAt := none, swapFrom := s.now + 1 }
  else s.swapRefused

/-- W is reached: the devices change roles. A Lead whose swap may no longer take place refuses it (log entry 183). -/
def State.swapNow (s : State) : State :=
  match s.pair.swapAt with
  | some c =>
    if s.now + 16 ≤ nearInstant (s.grpNext s.cgroup) (s.uptOfCues c) then s
    else if s.role = roleLead ∧ !s.swapFits then s.swapRefused
    else
      let e := epochNext (epochOf s.claim)
      let s := s.setPair { s.pair with swapAt := none, swapTo := none }
      let fin := fun (s : State) => (s.setBit pgPair PAIR_STAT_swap_ok true).irq pgPair IRQ_pair_swap_done
      if s.role = roleLead then
        let s := ((s.setClaim (claimOf 1 e)).setRole roleUnderstudy).crewSet 0
        fin (s.setPair { s.pair with done := true, lastHb := s.now })
      else if s.role = roleUnderstudy then fin ((s.becomeLead e).crewStart)
      else s
  | none => s

/-- The device forms a claim of its own (R350). -/
def State.leadFrom (s : State) : State :=
  if s.role = roleForming ∧ s.held then s.becomeLead (epochNext s.pair.epoch) else s

/-- A register of the pair page is written. -/
def State.pairHook (s : State) (o : Nat) (eff : W32) : State :=
  if o = 0x110 then
    let s := if eff.getLsbD 0 then s.leadFrom else s
    let s := if eff.getLsbD 1 then s.swapAsk else s
    if eff.getLsbD 2 ∧ s.role = roleYielded then { s.becomeForming with pathFailed := [] } else s
  else s

def State.pairWrite (s : State) (a : Acc) (o : Nat) (w : W32) : State :=
  let r := s.storeWord a pgPair .pair 0 o w
  if r.ok then r.s.pairHook o r.eff else r.s

/-! ### The commands -/

/-- CLAIM_BURST (R348). -/
def execClaimBurst (cue : Fin 16) (s : State) : Out := run s fun s => s.sendBurst cue

/-- CLAIM_BURST_RECEIVED (R349). -/
def execClaimBurstReceived (bits : BitVec 48) (s : State) : Out := run s fun s => s.hearBurst bits

/-- CLAIM_BURST_MISSING (R349). -/
def execClaimBurstMissing (s : State) : Out := run s State.missBurst

/-- PREF_LEAD_TIMEOUT (R350). -/
def execPrefLeadTimeout (s : State) : Out := run s fun s =>
  if s.lbit pgPair PAIR_CFG_pref ∧ s.pair.quietFrom + 31752000 < s.now + 16 then s.leadFrom else s

/-- LEAD_NOW (R350): PAIR_CTL.lead_now is written. -/
def execLeadNow (a : Acc) (s : State) : Out := run s fun s => s.viaPath a (pgPair + 0x110) fun s => s.pairWrite a 0x110 1

/-- PAIR_REJOIN (R350): PAIR_CTL.rejoin is written. -/
def execPairRejoin (a : Acc) (s : State) : Out := run s fun s => s.viaPath a (pgPair + 0x110) fun s => s.pairWrite a 0x110 4

/-- PAIR_SWAP_WRITE (R365): PAIR_CTL.swap is written. -/
def execPairSwapWrite (a : Acc) (s : State) : Out := run s fun s => s.viaPath a (pgPair + 0x110) fun s => s.pairWrite a 0x110 2

/-- SWAP_INSTANT (R365). -/
def execSwapInstant (s : State) : Out := run s State.swapNow

/-- HEARTBEAT_SEND (R360). -/
def execHeartbeatSend (s : State) : Out := run s State.beat

/-- HEARTBEAT_RECEIVED (R360): it arrived ago cues before this TICK. -/
def execHeartbeatReceived (seq : Nat) (crcOk : Bool) (ago : Fin 16) (h : Heartbeat) (s : State) : Out := run s fun s =>
  s.onMessage seq crcOk fun s => s.hearBeat (s.now - ago) h

/-- HEARTBEAT_TIMEOUT (R361). -/
def execHeartbeatTimeout (s : State) : Out := run s State.beatLost

/-- SIGNATURES_RECEIVED (R367). -/
def execSignaturesReceived (seq : Nat) (crcOk : Bool) (frame : Nat) (sigs : List (Nat × W32)) (s : State) : Out :=
  run s fun s => s.onMessage seq crcOk fun s => (sigs.foldl (fun s e => s.twinSignature e.1 frame e.2) s).tryPromote

/-- FRAME_SIGNATURE (R366): the samples of the frame's active picture, and its embedded audio. -/
def execFrameSignature (dest : Fin 2048) (samples audio : List Nat) (s : State) : Out := run s fun s =>
  s.ownSignature dest samples audio

/-- SIGNATURE_DEADLINE (R367). -/
def execSignatureDeadline (dest : Fin 2048) (s : State) : Out := run s fun s => s.overdue dest

/-- PATH_CHECK_DONE (R368): whether the check engine differed in either frame, and whether the inputs differ. -/
def execPathCheckDone (dest : Fin 2048) (differs inputDiff : Bool) (s : State) : Out := run s fun s =>
  s.checkDone dest differs inputDiff

/-- PATH_CHECK_RESULT_RECEIVED (R369). -/
def execPathCheckResultReceived (seq : Nat) (crcOk : Bool) (dest frame : Nat) (pass inputDiff : Bool) (s : State) : Out :=
  run s fun s => s.onMessage seq crcOk fun s => s.checkTwin dest frame (pass, inputDiff)

/-- PATH_CHECK_RESULT_TIMEOUT (R369). -/
def execPathCheckResultTimeout (dest : Fin 2048) (s : State) : Out := run s fun s => s.checkTimeout dest

/-- SNAPSHOT_DATA_RECEIVED (R364). -/
def execSnapshotDataReceived (seq : Nat) (crcOk : Bool) (offset : Nat) (data : List (BitVec 64)) (s : State) : Out :=
  run s fun s => s.onMessage seq crcOk fun s => s.snapData offset data

/-- RETRANSMIT_REQUEST_RECEIVED (R354). -/
def execRetransmitRequestReceived (seq : Nat) (crcOk : Bool) (first : Nat) (s : State) : Out := run s fun s =>
  s.onMessage seq crcOk fun s => s.replay first

/-- TWIN_LANE_FAIL (R353). -/
def execTwinLaneFail (lane : Fin 8) (s : State) : Out := run s fun s => s.laneFail lane

/-- SNAPSHOT_COPY (R364). -/
def execSnapshotCopy (s : State) : Out := run s State.snapStart

/-- SNAPSHOT_COPY_DONE (R364). -/
def execSnapshotCopyDone (s : State) : Out := run s State.snapEnd

/-- TWIN_LINK_UP (R354, R491): the lanes that are locked and aligned. -/
def execTwinLinkUp (lanes : BitVec 8) (s : State) : Out := run s fun s => s.linkRise lanes.toNat

end Sys2Proof.Machine
end

