-- ==== Sys2Proof/Machine/CallBus.lean ====
section
/-!
DEFINITION. The Call Bus (R330 to R346): cycles and slots, the master and its beacon, frames in and out, collisions, claim
groups.
-/
namespace Sys2Proof.Machine

def State.setCall (s : State) (v : CallBus) : State := { s with call := v }

def cbOff : Nat := 0
def cbListening : Nat := 1
def cbSynced : Nat := 2
def cbMaster : Nat := 3
def State.cbState (s : State) : Nat := s.fld pgCb CB_STAT_state
def State.setCb (s : State) (st : Nat) : State := s.setFld pgCb CB_STAT_state st
def State.station (s : State) : Nat := s.lv pgCb CB_CTL_station

/-- A slot, and a byte-time in tenths of a cue. -/
def slotLen : Nat := 66150
def byteTime : Nat := 5292

/-! ### Frames (R333, R334) -/

/-- One bit and one byte of the IEEE 802.3 CRC-32, reflected. -/
def crcEthBit (c : W32) : W32 := if c.getLsbD 0 then (c >>> 1) ^^^ 0xEDB88320 else c >>> 1
def crcEthByte (c : W32) (b : Byte) : W32 := (List.range 8).foldl (fun c _ => crcEthBit c) (c ^^^ b.zeroExtend 32)
def crcEth (l : List Byte) : W32 := (l.foldl crcEthByte 0xFFFFFFFF) ^^^ 0xFFFFFFFF

/-- A frame's bytes, from the header to the CRC. -/
def callBytes (src type seq : Nat) (claim : W32) (payload : List Byte) : List Byte :=
  let l := [BitVec.ofNat 8 (src % 64), BitVec.ofNat 8 (type % 16), BitVec.ofNat 8 payload.length, BitVec.ofNat 8 seq]
    ++ bytesOf claim ++ payload
  l ++ bytesOf (crcEth l)

/-- The uptime at which a frame's last byte has left. -/
def callEnd (f : CallFrame) : Nat := f.start + (f.bytes.length + 2) * byteTime / 10

/-! ### The rings (R342, R343) -/

def State.cbTxDesc (s : State) (n : Nat) : Nat := s.lv64 pgCbr CB_TXR_BASE_lo CB_TXR_BASE_hi + n % 256 * 128

/-- An entry of the transmit ring is written back with flags, and the tail moves past it. -/
def State.cbWriteBack (s : State) (n flags : Nat) : State :=
  let a := s.cbTxDesc n + 3
  (s.engineWrite callMaster a [BitVec.ofNat 8 (s.loadLE a 1 ||| flags)]).setFld pgCbr CB_TXR_TAIL_n (n + 1)

/-- A frame that has left whole: it counts, and its entry is written back. -/
def State.callSettle (s : State) : State :=
  match s.call.sending with
  | some f =>
    if callEnd f ≤ s.now + 15 then
      let s := (s.setCall { s.call with sending := none, sent := some f }).bump pgCb CB_TX_FRAMES_n
      match f.idx with
      | some n => s.cbWriteBack n 1
      | none => s
    else s
  | none => s

/-- A frame starts at an instant in a slot. -/
def State.callSend (s : State) (slot t type : Nat) (payload : List Byte) (idx : Option Nat) : State :=
  let l := callBytes s.station type s.call.seq s.claim payload
  s.setCall { s.call with seq := (s.call.seq + 1) % 256, sending := some ⟨slot, t, l, idx⟩ }

/-- The entry that the slot at t carries: entries that may not be sent are refused on the way (R342). A device in Yielded sends
claim frames only (R351). -/
def State.callEntry (s : State) (t : Nat) : Nat → State × Option Nat
  | 0 => (s, none)
  | k + 1 =>
    let n := s.fld pgCbr CB_TXR_TAIL_n
    let a := s.cbTxDesc n
    if n = s.fld pgCbr CB_TXR_HEAD_n ∨ t < s.loadLE (a + 8) 8 then (s, none)
    else
      let len := s.loadLE a 2
      let type := s.loadLE (a + 2) 1
      if len < 8 ∨ 96 < len ∨ type = 0 ∨ 4 < type then
        let s := (s.cbWriteBack n 3).bump pgCbr CB_TX_BADLEN_n
        ((s.irq pgCbr IRQ_cbRing_txr).err pgCbr 0x0D1).callEntry t k
      else if s.role = roleYielded ∧ type ≠ 3 then (s, none)
      else (s, some n)

/-- The live mask holds a slot. -/
def State.slotOwned (s : State) (n : Nat) : Bool :=
  1 ≤ n && (s.fld64 pgCb CB_LIVEMASK_lo CB_LIVEMASK_hi).testBit n

/-- An owned slot starts at t. -/
def State.callSlot (s : State) (n t : Nat) : State :=
  match s.callEntry t 256 with
  | (s, some i) =>
    let a := s.cbTxDesc i
    let type := s.loadLE (a + 2) 1
    let r := s.engineRead callMaster (a + 32) (s.loadLE a 2)
    r.1.callSend n t type r.2 (some i)
  | (s, none) => if s.lbit pgCb CB_CTL_auto_claim then s.callSend n t 3 (List.replicate 8 0) none else s

/-! ### Cycles (R335, R336, R340) -/

/-- The first cycle start at or after uptime u as the station counts it. -/
def State.cycleNext (s : State) (u : Nat) : Nat :=
  if s.cbState = cbMaster then s.callNext u
  else
    let b := s.call.base.getD 0
    b + ceilDiv (u - b) callPer * callPer

/-- The start of the present cycle. -/
def State.cycleStart (s : State) : Option Nat :=
  if s.cbState = cbMaster then s.call.cycleAt
  else
    let b := s.call.base.getD 0
    some (b + (s.now + 15 - b) / callPer * callPer)

/-- The commits that wait for a cycle start, or for the station in Off (R345). -/
def State.callApply (s : State) : State :=
  let was := s.lbit pgCb CB_CTL_en
  let s := (s.applySlot pgCb .cbCtl 0).applySlot pgCbr .cbRing 0
  let en := s.lbit pgCb CB_CTL_en
  if en && !was then
    let v : CallBus := { s.call with base := none, silentAt := ceilDiv s.now callPer * callPer, cycleAt := none }
    ((s.setCb cbListening).setFld pgCb CB_STAT_silent 0).setCall v
  else if was && !en then (s.setCb cbOff).setCall { s.call with base := none, sending := none, cycleAt := none }
  else s

/-- The beacon of the cycle that starts at t; its launch falls edge cues after t less CB_ADJ.tx (R337). -/
def State.sendBeacon (s : State) (t edge : Nat) : State :=
  let x := (s.todAt (t + edge)).toNat
  let c := x / 2 ^ 40
  let qual := if s.held then s.lv pgCb CB_BQUAL_q else 255
  let flags := s.held.toNat + 2 * (s.fld pgSel REF_STAT_state == selHoldover).toNat + 4 * (s.call.grid.move == some t).toNat
  s.callSend 0 ((t + edge : Nat) - s.lvS pgCb CB_ADJ_tx : Int).toNat 0 (bytesLE 6 (c / cueSec) ++ bytesLE 8 (c % cueSec + x / 2 ^ 10 % 2 ^ 30 * 2 ^ 34)
    ++ [BitVec.ofNat 8 qual, BitVec.ofNat 8 flags] ++ bytesLE 4 (s.fld pgCb CB_CYC_n) ++ List.replicate 4 0) none

/-- A cycle starts at t. -/
def State.callCycle (s : State) (t edge : Nat) : State :=
  let v := s.call
  let grid := match v.grid.move with
    | some lo => if lo < t ∧ s.cbState = cbMaster then { grid := s.callWanted, start := lo + callPer, last := lo } else v.grid
    | none => v.grid
  let s := (s.setCall { v with cycleAt := some t, grid := grid }).callApply
  let mask := s.fld pgCb CB_TXMASK + s.fld pgCb CB_TXMASK_HI * 2 ^ 32
  let s := s.setFld64 pgCb CB_LIVEMASK_lo CB_LIVEMASK_hi mask
  let st := s.cbState
  let s := s.when (st == cbSynced || st == cbMaster) (fun s => s.setFld pgCb CB_CYC_n (s.fld pgCb CB_CYC_n + 1))
  s.when (st == cbMaster && s.role != roleYielded) (fun s => s.sendBeacon t edge)

/-- The silent cycles after which a station becomes master. -/
def State.masterWait (s : State) : Option Nat :=
  match s.lv pgCb CB_CTL_role with
  | 1 => some 3
  | 2 => some (4 + s.lv pgCb CB_CTL_order)
  | _ => none

/-- A silent cycle has passed (R335). -/
def State.callSilent (s : State) : State :=
  let st := s.cbState
  if (st = cbListening ∨ st = cbSynced) ∧ s.call.silentAt + callPer < s.now + 16 then
    let s := s.setCall { s.call with silentAt := s.call.silentAt + callPer }
    let n := min 15 (s.fld pgCb CB_STAT_silent + 1)
    let s := s.setFld pgCb CB_STAT_silent n
    let lost := st = cbSynced ∧ n = 3
    let s := if lost then ((s.bump pgCb CB_BEACON_MISS_n).irq pgCb IRQ_cbCtl_beacon_loss).setCb cbListening else s
    match s.masterWait with
    | some w => if w ≤ n then ((s.setCb cbMaster).setCall { s.call with cycleAt := none }).irq pgCb IRQ_cbCtl_master else s
    | none => s
  else s

/-! ### Frames received (R337 to R339, R343, R344) -/

/-- A frame as received: its stamp, and the slot its start lies nearest to, with the distance. -/
structure CallSeen where
  stamp : Nat
  slot : Nat
  off : Nat
  deriving DecidableEq, Repr

def State.callSeen (s : State) (start : Nat) : CallSeen :=
  let stamp := ((start : Int) - s.lvS pgCb CB_ADJ_rx).toNat
  let c := (s.cycleStart).getD 0
  let n := (stamp + slotLen / 2 - c) / slotLen
  let at_ := c + n * slotLen
  ⟨stamp, n % 40, if at_ ≤ stamp then stamp - at_ else at_ - stamp⟩

/-- Why a frame is discarded: its counter; none for a valid frame (R338). In Listening there is no slot timing for a beacon to
miss. -/
def State.callVerdict (s : State) (w : CallSeen) (codeError : Bool) (l : List Byte) : Option Fld :=
  let beacon := byteAt l 1 % 16 = 0
  let len := byteAt l 2
  if !(beacon ∧ s.cbState = cbListening) ∧ (1058 < w.off ∨ (beacon ∧ w.slot ≠ 0)) then some CB_RX_MISPLACED_n
  else if codeError then some CB_RX_CODE_n
  else if len ≤ 7 then some CB_RX_SHORT_n
  else if 97 ≤ len then some CB_RX_LONG_n
  else if l.length ≠ len + 12 ∨ bytesOf (crcEth (l.take (len + 8))) ≠ l.drop (len + 8) then some CB_RX_CRC_n
  else none

/-- A valid beacon from another station: slot timing, the stamp queue, and an event of reference input 6. -/
def State.callBeacon (s : State) (w : CallSeen) (l : List Byte) : State :=
  let p := l.drop 8
  let sec := ofBytesLE (p.take 6)
  let cos := ofBytesLE ((p.drop 6).take 8)
  let cyc := ofBytesLE ((p.drop 16).take 4)
  let b : Beacon := ⟨w.stamp, sec, cos, byteAt p 14, byteAt p 15 % 8, cyc⟩
  let s := s.setCall { s.call with base := some w.stamp, silentAt := w.stamp + callPer,
                                   cycleAt := if s.cbState = cbSynced then s.call.cycleAt else some w.stamp }
  let s := ((s.setCb cbSynced).setFld pgCb CB_STAT_silent 0).setFld pgCb CB_CYC_n cyc
  let q := s.call.bsq
  let s :=
    if 16 ≤ q.length then (s.bump pgCbr CB_BSQ_OVF_n).irq pgCbr IRQ_cbRing_bsq_ovf
    else
      let s := (s.setCall { s.call with bsq := q ++ [b] }).setFld pgCbr CB_BSQ_LEVEL_n (q.length + 1)
      s.when q.isEmpty (fun s => s.irq pgCbr IRQ_cbRing_bsq_ready)
  s.refEvent 6 w.stamp ((sec * cueSec + cos % 2 ^ 34) * 2 ^ 30 + cos / 2 ^ 34 : Nat) (some b.qual)

/-- The claims heard in a group within the last 3 cycles. -/
def State.groupClaims (s : State) (g : Nat) : List (Nat × W32) :=
  (Store.get (fun _ => []) s.call.claims g).filter (fun e => s.now ≤ e.1 + 3 * callPer)

/-- The stations 2g and 2g + 1 form a claim group. -/
def State.claimGroup (s : State) (g : Nat) : Bool := g < 20 && (s.lv pgCb CB_PAIRS_g).testBit g

/-- The claim of a valid header counts for its group, and for the own pair (R344, R350). -/
def State.callClaim (s : State) (src : Nat) (c : W32) : State :=
  let g := src / 2
  if s.claimGroup g then
    let l := s.groupClaims g ++ [(s.now, c)]
    let s := s.setCall { s.call with claims := Store.put (fun _ => []) g l s.call.claims }
    if g = s.station / 2 then s.hearClaim c else s
  else s

/-- A frame goes to the receive ring. -/
def State.callRing (s : State) (w : CallSeen) (l : List Byte) : State :=
  let n := s.fld pgCbr CB_RXR_HEAD_n
  if (n + 65536 - s.fld pgCbr CB_RXR_TAIL_n) % 65536 = 1024 then (s.bump pgCbr CB_RX_DROP_n).irq pgCbr IRQ_cbRing_rx_drop
  else
    let a := s.lv64 pgCbr CB_RXR_BASE_lo CB_RXR_BASE_hi + n % 1024 * 128
    let s := s.engineWrite callMaster a (l.take 8 ++ bytesLE 8 w.stamp ++ bytesLE 4 (s.fld pgCb CB_CYC_n) ++ [BitVec.ofNat 8 w.slot])
    let s := s.engineWrite callMaster (a + 32) ((l.drop 8).take (byteAt l 2))
    (s.setFld pgCbr CB_RXR_HEAD_n (n + 1)).irq pgCb IRQ_cbCtl_rx

/-- A valid frame of type 1 to 4: a command of a group whose claim is below the highest heard is not delivered. -/
def State.callDeliver (s : State) (w : CallSeen) (src : Nat) (c : W32) (l : List Byte) : State :=
  let type := byteAt l 1 % 16
  if type = 1 ∧ s.claimGroup (src / 2) ∧ (s.groupClaims (src / 2)).any (fun e => c < e.2) then s.bump pgCb CB_LOWCLAIM_n
  else if 1 ≤ type ∧ type ≤ 4 then s.callRing w l
  else s

/-- A frame is heard, its first sync bit at uptime start. The station's own frames are not received. -/
def State.callHear (s : State) (start : Nat) (codeError : Bool) (l : List Byte) : State :=
  if s.cbState = cbOff then s
  else
    let s := s.callSettle
    let w := s.callSeen start
    match s.callVerdict w codeError l with
    | some f => s.bump pgCb f
    | none =>
      let src := byteAt l 0 % 64
      if src = s.station then s
      else
        let c : W32 := BitVec.ofNat 32 (ofBytesLE ((l.drop 4).take 4))
        let s := (s.bump pgCb CB_RX_FRAMES_n).callClaim src c
        if byteAt l 1 % 16 = 0 then s.callBeacon w l else s.callDeliver w src c l

/-! ### Collisions (R341) -/

/-- A collision in a slot the station is sending in. -/
def State.callCollide (s : State) (slot : Nat) : State :=
  match s.call.sending with
  | some f =>
    if f.slot = slot ∧ s.now ≤ callEnd f then
      let s := s.setCall { s.call with sending := none }
      let s := ((s.bump pgCb CB_COLLIDE_n).setBit pgCb CB_STAT_collide true).irq pgCb IRQ_cbCtl_collide
      let s := s.err pgCb 0x0D0 none (some slot)
      if slot = 0 then
        let t := ceilDiv s.now callPer * callPer
        ((s.setCb cbListening).setFld pgCb CB_STAT_silent 0).setCall
          { s.call with silentAt := (s.call.base.map (fun b => b + ceilDiv (s.now - b) callPer * callPer)).getD t }
      else
        let clear := fun (s : State) (a : Nat) => s.setWord a (setBits (s.word a) (slot % 32) 1 0)
        clear (clear s (pgCb + (if slot < 32 then 0x110 else 0x114))) (pgCb + (if slot < 32 then 0x118 else 0x11C))
    else s
  | none => s

/-! ### Registers (R118, R339, R342) -/

/-- An index of a ring is written: one that would pass the hardware's index is ignored with 0x0D2. -/
def State.cbrHook (s pre : State) (a : Acc) (o : Nat) (old : W32) : State :=
  let dist := fun (x y : Nat) => (x + 65536 - y) % 65536
  let before := getBits old 0 16
  let now := getBits (s.word (pgCbr + o)) 0 16
  let bad :=
    if o = 0x108 then 256 < dist now (s.fld pgCbr CB_TXR_TAIL_n)
    else if o = 0x11C then dist (s.fld pgCbr CB_RXR_HEAD_n) before < dist now before
    else False
  if bad then ((s.setWord (pgCbr + o) old).sameArmed pre pgCbr).accErr pgCbr 0x0D2 a accWrite (pgCbr + o) else s

/-- A read of CB_BSQ_POP removes the head entry and latches its other words for the reading master. -/
def State.popBeacon (s : State) (m : Nat) : State × W32 :=
  let put := fun (s : State) (o v : Nat) => s.setMreg m (pgCbr + o) (BitVec.ofNat 32 v)
  match s.call.bsq with
  | [] => (put s 0x124 0, 0)
  | b :: t =>
    let s := (s.setCall { s.call with bsq := t }).setFld pgCbr CB_BSQ_LEVEL_n t.length
    let s := put s 0x124 (b.qual + b.flags * 2 ^ 8 + 2 ^ 31)
    let s := put (put s 0x128 (b.upt % 2 ^ 32)) 0x12C (b.upt / 2 ^ 32)
    let s := put (put s 0x130 (b.sec % 2 ^ 32)) 0x134 (b.sec / 2 ^ 32 % 2 ^ 16)
    (put (put s 0x138 (b.cos % 2 ^ 32)) 0x13C (b.cos / 2 ^ 32), BitVec.ofNat 32 b.cyc)

/-! ### The commands -/

/-- CALL_CYCLE_START (R336, R340): edge is the distance from the cycle start less CB_ADJ.tx to the next CALL edge. -/
def execCallCycleStart (edge : Fin 53) (s : State) : Out := run s fun s =>
  let t := s.cycleNext s.now
  if s.cbState ≠ cbOff ∧ t < s.now + 16 ∧ s.call.cycleAt ≠ some t then s.callSettle.callCycle t edge else s

/-- CALL_SLOT_START (R342). -/
def execCallSlotStart (slot : Fin 40) (s : State) : Out := run s fun s =>
  match s.cycleStart with
  | some c =>
    let t := c + slot * slotLen
    if (s.cbState = cbSynced ∨ s.cbState = cbMaster) ∧ s.now ≤ t ∧ t < s.now + 16 then
      let s := s.callSettle
      if s.slotOwned slot ∧ s.call.sending.isNone then s.callSlot slot t else s
    else s
  | none => s

/-- CALL_BEACON_RECEIVED (R337, R338): a frame whose first sync bit came at uptime start. A master's read of CB_BSQ_POP in
the cycle of its queue entry is applied first (R339). -/
def execCallBeaconReceived (start : Nat) (codeError : Bool) (frame : BeaconIn) (s : State) : Out := run s fun s =>
  (match frame.pop with
    | some a => s.viaRead a (pgCbr + 0x120) (fun s => s.popBeacon a.m)
    | none => s).callHear start codeError frame.bytes

/-- CALL_FRAME_RECEIVED (R338, R343, R344). -/
def execCallFrameReceived (start : Nat) (codeError : Bool) (bytes : List Byte) (s : State) : Out := run s fun s =>
  s.callHear start codeError bytes

/-- CALL_SILENT_CYCLE (R335). -/
def execCallSilentCycle (s : State) : Out := run s State.callSilent

/-- CALL_COLLISION (R341). -/
def execCallCollision (slot : Fin 40) (s : State) : Out := run s fun s => s.callCollide slot

/-- BEACON_QUEUE_POP (R339). -/
def execBeaconQueuePop (a : Acc) (s : State) : Out := run s fun s => s.viaRead a (pgCbr + 0x120) (fun s => s.popBeacon a.m)

end Sys2Proof.Machine
end

