-- ==== Sys2Proof/Machine/FlowTx.lean ====
section
/-!
DEFINITION. IP media flows, the transmit side (R130, R134, R142 to R146): packets of a transmit entry and their release.
-/
namespace Sys2Proof.Machine

/-! ### Frames of an entry (R142, R143, R145) -/

/-- The largest RTP payload without its header. -/
def plenOf (tab : Store W32) (e : Nat) : Nat := entFld tab e TXE_SRC_plen * 16

/-- Packets per frame of a type 0 entry. -/
def videoPackets (tab : Store W32) (e : Nat) : Nat :=
  let g := pgroupOf (entFld tab e RXE_FMT_smp)
  let w := entFld tab e RXE_GEOM_width
  let h := entFld tab e RXE_GEOM_height
  if entFld tab e RXE_FMT_bpm = 1 then ceilDiv (w * h * g.1 / g.2) (plenOf tab e / 180 * 180)
  else h * ceilDiv w (plenOf tab e / g.1 * g.2)

/-- Where the pixels of packet k of N of a type 0 entry lie: field, row and first pixel in it, and the bytes of them (R142). Whole
pgroups of one line, as many as fit; in block packing a payload of that size counted from the first pixel, with one sample row data
header, of the line it begins on (log entry 174). -/
def packetPlace (tab : Store W32) (e k N : Nat) : Nat × Nat × Nat × Nat :=
  let g := pgroupOf (entFld tab e RXE_FMT_smp)
  let w := entFld tab e RXE_GEOM_width
  let n := if entFld tab e RXE_GEOM_intl = 1 then max 1 (ceilDiv N 2) else N
  let j := k % n
  if entFld tab e RXE_FMT_bpm = 1 then
    let p := plenOf tab e / 180 * 180
    let px := j * p / g.1 * g.2
    (k / n, px / w, px % w, p)
  else
    let px := plenOf tab e / g.1 * g.2
    let c := ceilDiv w px
    (k / n, j / c, j % c * px, min px (w - j % c * px) / g.2 * g.1)

/-- The longest payload of a type 0, 1 or 4 entry, header included. -/
def payloadCap (tab : Store W32) (e : Nat) : Nat :=
  let type := entFld tab e RXE_CTL_type
  if type = 0 then 8 + (packetPlace tab e 0 (videoPackets tab e)).2.2.2
  else if type = 4 then 8 + plenOf tab e
  else plenOf tab e

/-- The payload of packet k of N of a type 0 entry: its header (the upper half of the extended sequence number, length, field and row,
offset; log entry 65) and its pgroups, from the picture's bytes or black. -/
def videoBody (tab : Store W32) (e k N seq : Nat) (muted : Bool) (data : List Byte) : List Byte :=
  let p := packetPlace tab e k N
  let black := (List.range p.2.2.2).map (Config.blackByte (entFld tab e RXE_FMT_smp))
  let px := if muted then black else data.take p.2.2.2 ++ black.drop data.length
  bytesBE 2 (seq / 65536) ++ bytesBE 2 p.2.2.2 ++ bytesBE 2 (p.1 * 32768 + p.2.1) ++ bytesBE 2 p.2.2.1 ++ px

/-- The bits of an ancillary packet in a payload, and their number: place, stream, DID, SDID, data count, words and checksum, filled
to a multiple of 32 (log entry 65). -/
def ancWord (k : AncPkt) : Nat × Nat :=
  let ws := k.data.drop 3
  let h := (k.line % 2048 * 2 ^ 20 + (if k.vanc then 0 else 0xFFE) * 2 ^ 8 + (if k.stream = 0 then 0 else 128 + k.stream % 128))
  let v := ws.foldl (fun v w => v * 1024 + w % 1024) h
  let n := 32 + 10 * ws.length
  (v * 2 ^ ((32 - n % 32) % 32), n + (32 - n % 32) % 32)

/-- Ancillary packets in payloads of at most so many bytes, as many whole ones in each as fit; one that fits in none is left out. -/
def ancGroups (room : Nat) : List AncPkt → List AncPkt → Nat → List (List AncPkt)
  | [], cur, _ => [cur.reverse]
  | k :: t, cur, used =>
    let n := (ancWord k).2 / 8
    if used + n ≤ room then ancGroups room t (k :: cur) (used + n)
    else if room < n then ancGroups room t cur used
    else cur.reverse :: ancGroups room t [k] n

/-- A type 4 payload without the sequence number in its first two bytes: length, count, field, and the packets. -/
def ancBody (intl second : Bool) (l : List AncPkt) : List Byte :=
  let b := l.flatMap (fun k => bytesBE ((ancWord k).2 / 8) (ancWord k).1)
  bytesBE 2 b.length ++ [BitVec.ofNat 8 l.length, if intl then (if second then 0xC0 else 0x80) else 0, 0, 0] ++ b

/-- The payloads of a frame of a type 4 entry: the packets of each field in their own (R142); a field without packets has one that
carries none (DESIGN CHOICE, log entry 175). -/
def ancBodies (tab : Store W32) (e : Nat) (l : List AncPkt) : List (List Byte) :=
  let intl := entFld tab e RXE_GEOM_intl = 1
  let half := ((linesOfHeight (entFld tab e RXE_GEOM_height)).getD 1 + 1) / 2
  let room := plenOf tab e
  if intl then
    (ancGroups room (l.filter (fun k => k.line ≤ half)) [] 0).map (ancBody true false)
      ++ (ancGroups room (l.filter (fun k => half < k.line)) [] 0).map (ancBody true true)
  else (ancGroups room l [] 0).map (ancBody false false)

/-- Samples of a Pit channel in an audio packet, and its packet time. -/
def packetSamples (tab : Store W32) (e : Nat) : Nat := if entFld tab e RXE_FMT_pt125 = 1 then 6 else 48

/-- The grid of an entry's frames, or of an audio entry's packets, on time of day (R35). -/
def txGrid (tab : Store W32) (e : Nat) : Grid :=
  { per := if isAudio (entFld tab e RXE_CTL_type) then packetSamples tab e * pitPer else perOf (entFld tab e RXE_FMT_rate),
    ofs := 0, tod := true, shift := 0 }

/-- Active and total lines of an entry's picture. -/
def entLines (tab : Store W32) (e : Nat) : Nat × Nat :=
  let h := entFld tab e RXE_GEOM_height
  (h, (linesOfHeight h).getD 1)

/-- The release instant of packet k of N of the frame at F, with the row's offset (R145). -/
def releaseAt (tab : Store W32) (e F tro k N : Nat) : Nat :=
  let type := entFld tab e RXE_CTL_type
  let g := txGrid tab e
  if isAudio type then F + g.per
  else if type = 4 then F + tro
  else
    let intl := entFld tab e RXE_GEOM_intl = 1
    let T := if intl then g.per / 2 else g.per
    let n := max 1 (if intl then ceilDiv N 2 else N)
    let F := F + k / n * T
    let A := entLines tab e
    if type = 1 ∨ entFld tab e TXE_CTL_pace = 1 then F + tro + k % n * T / n
    else F + tro + k % n * T * A.1 / (A.2 * n)

/-! ### Rows (R144) -/

/-- The enabled row of a port for one path of an entry: its number and its offset. -/
def State.tmtRow (s : State) (P e : Nat) (pathB : Bool) : Option (Nat × Nat) :=
  (List.range 1024).findSome? (fun r =>
    let a := pgEth P (8 + r / 128) + 0x100 + 8 * (r % 128)
    let w := s.lword a
    if w.getLsbD 15 && w.getLsbD 14 == pathB && getBits w 0 13 == e then some (r, (s.lword (a + 4)).toNat) else none)

/-- The logical port of a path of an entry. -/
def pathPort (tab : Store W32) (e : Nat) (pathB : Bool) : Nat :=
  entFld tab e (if pathB then RXE_PORT_lp_b else RXE_PORT_lp_a)

/-- The offset that releases a packet: a type 4 entry goes with the type 0 entry of its slot, if there is one. -/
def State.releaseTro (s : State) (tab : Store W32) (e tro : Nat) (pathB : Bool) : Nat :=
  if entFld tab e RXE_CTL_type = 4 then
    match (entsOn s.txTab).find? (fun x => entFld s.txTab x RXE_CTL_type == 0
        && entFld s.txTab x RXE_BIND_slot == entFld tab e RXE_BIND_slot) with
    | some x => ((s.tmtRow (pathPort s.txTab x pathB / 4) x pathB).map (·.2)).getD tro
    | none => tro
  else tro

/-! ### Headers and payloads (R114, R129, R130, R142, R143) -/

/-- The address of a logical port (FLC_SRC). -/
def State.portAddr (s : State) (lp : Nat) : List Byte := (List.range 4).flatMap (fun i => bytesOf (s.lword (pgFlc + FLC_SRC.at (4 * lp + i))))

/-- The MAC address of a multicast group (RFC 1112, RFC 2464). -/
def groupMac (v6 : Bool) (dst : List Byte) : List Byte :=
  if v6 then [0x33, 0x33] ++ (dst.drop 12).take 4
  else [0x01, 0x00, 0x5E, BitVec.ofNat 8 (byteAt dst 1 % 128)] ++ (dst.drop 2).take 2

/-- An RTP packet as a frame without FCS. free supplies what no rule gives: the IPv4 identification and don't-fragment bit, or
the IPv6 flow label. -/
def State.rtpFrame (s : State) (tab : Store W32) (e lp : Nat) (pathB marker : Bool) (seq ts : Nat) (payload : List Byte) :
    List Byte :=
  let v6 := entFld tab e RXE_CTL_ipv6 = 1
  let dst := entAddr tab e (if pathB then RXE_ADDR_B else RXE_ADDR_A)
  let free := s.free64.toNat
  let rtp := [0x80, BitVec.ofNat 8 (marker.toNat * 128 + entFld tab e RXE_PORT_pt)] ++ bytesBE 2 seq ++ bytesBE 4 ts
    ++ bytesBE 4 (entFld tab e TXE_SSRC_val) ++ payload
  let udp := bytesBE 2 (entFld tab e TXE_SRC_sport) ++ bytesBE 2 (entFld tab e (if pathB then RXE_UDP_port_b else RXE_UDP_port_a))
    ++ bytesBE 2 (8 + rtp.length) ++ [0, 0] ++ rtp
  let dscp := entFld tab e TXE_SRC_dscp
  let ttl := entFld tab e TXE_PORT_ttl
  let ip := if v6 then
      bytesBE 4 (6 * 2 ^ 28 + dscp * 2 ^ 22 + free % 2 ^ 20) ++ bytesBE 2 udp.length ++ [17, BitVec.ofNat 8 ttl]
        ++ s.portAddr lp ++ dst
    else
      [0x45, BitVec.ofNat 8 (dscp * 4)] ++ bytesBE 2 (20 + udp.length) ++ bytesBE 2 (free % 65536)
        ++ bytesBE 2 (free / 65536 % 2 * 16384) ++ [BitVec.ofNat 8 ttl, 17, 0, 0] ++ (s.portAddr lp).take 4 ++ dst.take 4
  let tag := if entFld tab e TXE_CTL_tag = 1 then
      bytesBE 2 0x8100 ++ bytesBE 2 (entFld tab e TXE_CTL_pcp * 8192 + entFld tab e TXE_CTL_vid) else []
  let mac := bytesBE 6 (s.fld (pgEthC (lp / 4)) ETH_MAC_hi (lp % 4) * 2 ^ 32 + s.fld (pgEthC (lp / 4)) ETH_MAC_lo (lp % 4))
  insUdp (insIp (groupMac v6 dst ++ mac ++ tag ++ bytesBE 2 (if v6 then 0x86DD else 0x0800) ++ ip ++ udp))

/-- A Pit word as a sample of a packet: type 3 carries its AES3 bits in a first byte, sub is set on the first of a pair. -/
def sampleOut (type : Nat) (l24 sub : Bool) (w : Nat) : List Byte :=
  let x := w % 2 ^ 24
  if type = 3 then
    let f := flagsOf w
    let v := f % 2
    let u := f / 2 % 2
    let c := f / 4 % 2
    let par := (((List.range 24).countP (fun i => x.testBit i)) + v + u + c) % 2
    BitVec.ofNat 8 (v + 2 * u + 4 * c + 8 * par + 16 * sub.toNat + 32 * (f / 8)) :: bytesBE 3 x
  else if l24 then bytesBE 3 x else bytesBE 2 (x / 256)

/-- The payload of an audio packet whose first sample is of Pit instant F. -/
def State.audioPayload (s : State) (tab : Store W32) (e F : Nat) : List Byte :=
  let type := entFld tab e RXE_CTL_type
  let l24 := entFld tab e RXE_FMT_l24 = 1
  let k96 := entFld tab e RXE_FMT_k96 = 1
  let base := entFld tab e RXE_BIND_pit
  let n := packetSamples tab e * (if k96 then 2 else 1)
  (List.range n).flatMap (fun j =>
    let inst := F + (if k96 then j / 2 else j) * pitPer
    let i := (s.pitLast - inst + pitPer / 2) / pitPer
    (List.range (entFld tab e RXE_FMT_ch)).flatMap (fun c =>
      let o := if k96 then base + 2 * c + j % 2 else base + c
      sampleOut type l24 (c % 2 == 0) ((s.pot o).words.getD i 0)))

/-- The RTP timestamp of a frame start or first sample F (R143). -/
def State.rtpTime (s : State) (tab : Store W32) (e F : Nat) : Nat :=
  let type := entFld tab e RXE_CTL_type
  let per := if isAudio type then pitPer else perOf (entFld tab e RXE_FMT_rate)
  let x := (roundDiv (s.todAt F) (2 ^ 40 * per)).toNat * per
  (if isAudio type then x / (if entFld tab e RXE_FMT_k96 = 1 then 110250 else pitPer) else x / 117600) % 2 ^ 32

/-! ### A packet leaves -/

/-- The words of an entry that serve a path: a frame begun before a commit ends with the words it began with (R134). -/
def State.pathTab (s : State) (e : Nat) (p : TxPath) : Store W32 :=
  match p.old with
  | some ws => ((List.range 16).zip ws).map (fun x => (e * 16 + x.1, x.2))
  | none => s.txTab

def TxEntry.path (v : TxEntry) (pathB : Bool) : TxPath := if pathB then v.b else v.a
def TxEntry.setPath (v : TxEntry) (pathB : Bool) (p : TxPath) : TxEntry := if pathB then { v with b := p } else { v with a := p }

/-- A type 0 entry's tap has no source in the entry's format, or one off platform: it sends black (R143, R178). -/
def State.txMuted (s : State) (tab : Store W32) (e : Nat) : Bool :=
  let t := 512 + entFld tab e RXE_BIND_slot
  entFld tab e RXE_CTL_type == 0 && (s.tapFmt t != some (entFmt tab e) || s.tapOff t)

/-- The source of a type 1 entry's tap presents compressed frames (R127). -/
def State.txComp (s : State) (tab : Store W32) (e : Nat) : Bool :=
  let r := s.tapRail (512 + entFld tab e RXE_BIND_slot)
  s.railComp r && s.railGood r true

/-- A frame begins on the first of its paths: counted, and muted or not; the ancillary packets of a type 4 entry are those its tap's
frame carries by now, after those that came too late for the frame before. -/
def State.txBegin (s : State) (tab : Store W32) (e F : Nat) : State :=
  let v := s.txe e
  if (v.frame.map (fun G => decide (F ≤ G))).getD false || isAudio (entFld tab e RXE_CTL_type) then s
  else
    let m := s.txMuted tab e
    let anc := v.anc ++ s.railAnc (s.tapRail (512 + entFld tab e RXE_BIND_slot))
    let b := if entFld tab e RXE_CTL_type = 4 then (F, ancBodies tab e anc) :: v.bodies.take 1 else []
    let s := s.setTxe e { v with frame := some F, muted := m, cnt := addAt (addAt v.cnt 1 1) 2 m.toNat, anc := [], bodies := b }
    let s := s.when m (fun s => s.bump pgFlt FLT_MUTED_n)
    s.when (m && !v.muted) (fun s => s.irq pgFlt IRQ_flt_muted)

/-- An entry is set to start with its next frame. -/
def State.txStart (s : State) (e : Nat) (v : TxEntry) : TxEntry :=
  let F := s.gridNext (txGrid s.txTab e) s.now
  { v with waitTod := !s.held, a := { frame := F, seq := v.a.seq }, b := { frame := F, seq := v.b.seq } }

/-- Media packets are not sent while the fault pins signal a fault, unless DEV_FLT_CTL.ip_keep is set (R430). -/
def State.ipQuiet (s : State) : Bool := s.fltT && !s.bit pgDev DEV_FLT_CTL_ip_keep

/-- A device in Yielded stops sending the entries whose destination failed its path check (R351). -/
def State.pathQuiet (s : State) (tab : Store W32) (e : Nat) : Bool :=
  s.role == roleYielded && entFld tab e RXE_CTL_type == 0 && s.pathFailed.contains (512 + entFld tab e RXE_BIND_slot)

/-- A path of an entry sends: the entry is enabled, or ends a frame begun before it was disabled (R134), and has the path, which the
pair leaves to this device. -/
def State.txOn (s : State) (e : Nat) (pathB : Bool) : Bool :=
  let tab := s.pathTab e ((s.txe e).path pathB)
  entFld tab e RXE_CTL_en == 1 && (!pathB || entFld tab e RXE_CTL_dual == 1) && (s.lv pgPair PAIR_CFG_paths).testBit pathB.toNat

/-- The row of a path's next packet: that of the frame begun, or the live one. -/
def State.txRow (s : State) (e : Nat) (pathB : Bool) : Option (Nat × Nat) :=
  let p := (s.txe e).path pathB
  if p.k = 0 then s.tmtRow (pathPort (s.pathTab e p) e pathB / 4) e pathB else p.row

/-- The packets of the frame of a path's next packet. n: those of a compressed frame, when its first packet leaves. -/
def State.txPackets (s : State) (e : Nat) (pathB : Bool) (n : Nat) : Nat :=
  let v := s.txe e
  let p := v.path pathB
  let tab := s.pathTab e p
  if p.k ≠ 0 then p.n
  else match entFld tab e RXE_CTL_type with
    | 0 => max 1 (videoPackets tab e)
    | 1 => max 1 n
    | 4 => max 1 ((((v.bodies.find? (fun b => b.1 == p.frame)).map (·.2)).getD []).length)
    | _ => 1

/-- The delay at which the data of a tap's frame comes: that of a Proscenium's rail (R248). -/
def State.tapDelay (s : State) (tab : Store W32) (e : Nat) : Nat :=
  let r := s.tapRail (512 + entFld tab e RXE_BIND_slot)
  if isAudio (entFld tab e RXE_CTL_type) || !(2304 ≤ r && r < 2336) then 0 else s.proDelay (r - 2304)

/-- The next packet of a path: its release instant (R145), the instant from which it may leave, its data being there (R248), and its
row. None where the path sends nothing. -/
def State.txNextAt (s : State) (e : Nat) (pathB : Bool) : Option (Nat × Nat × Nat) :=
  let v := s.txe e
  let p := v.path pathB
  let tab := s.pathTab e p
  if !s.txOn e pathB || !s.held || v.waitTod || (entFld tab e RXE_CTL_type == 1 && !s.txComp tab e) then none
  else (s.txRow e pathB).map (fun row =>
    let N := s.txPackets e pathB 1
    let tro := s.releaseTro tab e row.2 pathB
    (releaseAt tab e p.frame tro p.k N, releaseAt tab e p.frame (max tro (s.tapDelay tab e)) p.k N, row.1))

/-- The entries with a packet to send. -/
def State.txEntries (s : State) : List Nat :=
  (entsOn s.txTab ++ (s.txEnt.filter (fun e => e.2.a.old.isSome || e.2.b.old.isSome)).map (·.1)).dedup

/-- The packets of a logical port that may leave by uptime t (R146): release instant, row, entry and path of each. -/
def State.mediaDue (s : State) (lp t : Nat) : List (Nat × Nat × Nat × Bool) :=
  s.txEntries.flatMap (fun e => [false, true].filterMap (fun b =>
    let tab := s.pathTab e ((s.txe e).path b)
    match s.txNextAt e b with
    | some x => if pathPort tab e b = lp ∧ x.2.1 ≤ t ∧ !(s.ipQuiet || s.pathQuiet tab e) then some (x.1, x.2.2, e, b) else none
    | none => none))

/-- A path's state after its frame: the next frame by the words then live; idle where they no longer send it (R134). -/
def State.txNextFrame (s : State) (e : Nat) (pathB : Bool) : TxPath :=
  let p := (s.txe e).path pathB
  let tab := s.pathTab e p
  let F := s.gridNext (txGrid tab e) (p.frame + 1)
  { frame := if p.old.isSome then s.gridNext (txGrid s.txTab e) F else F, seq := (p.seq + p.k) % 2 ^ 32 }

/-- The frame of a path is over; an entry that is disabled stops with the last frame of its paths. -/
def State.txFrameEnd (s : State) (e : Nat) (pathB : Bool) : State :=
  let v := (s.txe e).setPath pathB (s.txNextFrame e pathB)
  if entFld s.txTab e RXE_CTL_en = 0 ∧ v.a.old.isNone ∧ v.b.old.isNone then s.setTxe e { cnt := v.cnt } else s.setTxe e v

/-- The frame of a path's next packet, its entry's frame begun (R142, R143). -/
def State.txFrame (s : State) (tab : Store W32) (e : Nat) (pathB : Bool) (n : Nat) (data : List Byte) : List Byte :=
  let type := entFld tab e RXE_CTL_type
  let v := s.txe e
  let p := v.path pathB
  let N := s.txPackets e pathB n
  let seq := p.seq + p.k
  let body := match type with
    | 0 => videoBody tab e p.k N seq v.muted data
    | 1 => data.take (payloadCap tab e)
    | 4 => bytesBE 2 (seq / 65536) ++ (((v.bodies.find? (fun b => b.1 == p.frame)).map (·.2)).getD []).getD p.k []
    | _ => s.audioPayload tab e p.frame
  let field := entFld tab e RXE_GEOM_intl = 1 ∧ type = 0 ∧ p.k + 1 = ceilDiv N 2
  s.rtpFrame tab e (pathPort tab e pathB) pathB ((p.k + 1 = N || field) && !isAudio type) seq (s.rtpTime tab e p.frame) body

/-- The next packet of a path leaves at uptime t. n: the packets of a compressed frame, which no entry gives; data: the bytes that the
tap carries for the packet (type 0: its pgroups; type 1: the payload whole). No frame under 66 bytes is formed (R142),
so a payload limit too small for one pgroup sends nothing (DEDUCED, log entry 194). -/
def State.txSend (s : State) (e t : Nat) (pathB : Bool) (n : Nat) (data : List Byte) (row : Nat × Nat) : State :=
  let tab := s.pathTab e ((s.txe e).path pathB)
  let lp := pathPort tab e pathB
  let s := s.txBegin tab e ((s.txe e).path pathB).frame
  let p := (s.txe e).path pathB
  let N := s.txPackets e pathB n
  let rel := releaseAt tab e p.frame (s.releaseTro tab e row.2 pathB) p.k N
  let frame := s.txFrame tab e pathB n data
  if frame.length + 4 < 66 then s
  else
    let sends := !(s.ipQuiet || s.pathQuiet tab e) && s.lpSends lp
    let s := (if sends then s.depart lp t frame else s).fresh
    let late : Bool := rel + cueUs < t
    let v := s.txe e
    let s := s.setTxe e ({ v with sending := sends, cnt := addAt (addAt v.cnt 0 sends.toNat) 3 late.toNat }.setPath pathB
      { p with k := p.k + 1, n := N, row := some row })
    let s := s.when late (fun s =>
      ((s.bump pgFlt FLT_LATE_n).irq pgFlt IRQ_flt_late).bump (pgEth (lp / 4) (8 + row.1 / 128)) TMT_LATE_n)
    if p.k + 1 = N then s.txFrameEnd e pathB else s

/-- The next packet of a path is to leave at uptime t (R142, R145, R146). Without time of day the entry waits for it (R143). A type 1
entry whose tap has no compressed source has nothing to send, and begins again with the frame that follows. -/
def State.txPacket (s : State) (e t : Nat) (pathB : Bool) (n : Nat) (data : List Byte) : State :=
  let v := s.txe e
  let p := v.path pathB
  let tab := s.pathTab e p
  if !s.txOn e pathB then s
  else if !s.held then s.setTxe e { v with waitTod := true, sending := false }
  else if v.waitTod then s.setTxe e (s.txStart e v)
  else if entFld tab e RXE_CTL_type == 1 && !s.txComp tab e then
    if p.old.isSome then s.txFrameEnd e pathB
    else s.setTxe e ({ v with sending := false }.setPath pathB { frame := s.gridNext (txGrid tab e) t, seq := p.seq + p.k })
  else match s.txNextAt e pathB, s.txRow e pathB with
    | some x, some row =>
      let first := (s.mediaDue (pathPort tab e pathB) t).all (fun y =>
        (y.2.2.1 == e && y.2.2.2 == pathB) || x.1 < y.1 || (x.1 == y.1 && x.2.2 < y.2.1))
      if t < x.2.1 || !(first || s.ipQuiet || s.pathQuiet tab e) then s else s.txSend e t pathB n data row
    | _, _ => if p.old.isSome then s.txFrameEnd e pathB else s

/-! ### Commits (R134) -/

/-- The sixteen words of an entry. -/
def entWords (tab : Store W32) (e : Nat) : List W32 := (List.range 16).map (fun i => Store.get (fun _ => 0) tab (e * 16 + i))

/-- A path of an enabled entry whose words a commit changes from table old: a frame of type 0, 1 or 4 in progress ends with the old
words, and the next begins with the new ones; an audio path goes on with them from its next packet. -/
def State.txRekey (s : State) (old : Store W32) (e : Nat) (p : TxPath) : TxPath :=
  let new := txGrid s.txTab e
  if isAudio (entFld old e RXE_CTL_type) then { frame := s.gridNext new s.now, seq := p.seq + p.k }
  else if p.frame < s.now ∨ p.k ≠ 0 then { p with old := some (p.old.getD (entWords old e)) }
  else { frame := s.gridNext new p.frame, seq := p.seq }

/-- A committed transmit table becomes live. -/
def State.fltLive (s : State) (new : Store W32) : State :=
  let old := s.txTab
  let s := { s with txTab := new }
  (entsChanged old new).foldl (fun s e =>
    let v := s.txe e
    let w := { v with a := s.txRekey old e v.a, b := s.txRekey old e v.b }
    let ends := w.a.old.isSome || w.b.old.isSome
    if entFld old e RXE_CTL_en = 0 ∧ !ends then
      if entFld new e RXE_CTL_en = 1 then s.setTxe e (s.txStart e { cnt := v.cnt }) else s
    else if entFld new e RXE_CTL_en = 0 ∧ (v.waitTod ∨ !ends) then s.setTxe e { cnt := v.cnt }
    else if v.waitTod then s.setTxe e (s.txStart e v)
    else s.setTxe e w) s

/-- The waiting commit of the transmit window page becomes live. -/
def State.fltApply (s : State) : State :=
  let t := s.txPend
  let go := s.commitDue pgFlt
  let s := s.applySlot pgFlt .flt 0
  match t with
  | some new => if go then { s with txPend := none }.fltLive new else s
  | none => s

/-- FLOW_PACKET_TRANSMIT (R142, R145). -/
def execFlowPacketTransmit (e : Fin 8192) (pathB : Bool) (n : Nat) (payload : List Byte) (cue : Fin 16) (s : State) : Out :=
  run s fun s => s.txPacket e (s.now + cue) pathB n payload

/-! ### Crew frames (R111, R114, R117, R120, R121, R146) -/

/-- Bits per second of a logical port (R107). -/
def State.lpRate (w : State) (lp : Nat) : Nat :=
  match w.lv (pgEthC (lp / 4)) ETH_PORT_mode with | 0 => 400000000000 | 1 => 200000000000 | _ => 100000000000

/-- Cues that a frame of so many bytes (without FCS) takes on the wire of a logical port, with FCS, preamble and gap. -/
def State.wireTime (s : State) (lp len : Nat) : Nat := ceilDiv ((len + 24) * 8 * cueSec) (s.lpRate lp)

/-- The next Crew frame of a port leaves at uptime t; it waits where a media packet is due before it would end (R146). One for a
logical port that exists and is down, or is not enabled, never departs: its descriptor is done without error, and unstamped where it
asked for a stamp (DESIGN CHOICE, log entry 162). -/
def State.crewSend (s : State) (P t : Nat) : State :=
  match s.txNext P with
  | none => s
  | some n =>
    let d := s.txDesc P n
    let len := s.loadLE (d + 8) 2
    let lp := s.loadLE (d + 10) 1
    let fl := s.loadLE (d + 11) 1
    let tag := s.loadLE (d + 12) 2
    if len < 14 ∨ 9212 < len then
      ((s.writeBack P n 64).bump (pgEthR P) TX_BAD_LEN_n).err (pgEthR P) 0x041
    else if lp / 4 ≠ P then s.writeBack P n 64
    else if s.lpSends lp && !(s.mediaDue lp (t + s.wireTime lp (max 60 len) - 1)).isEmpty then s
    else
      let r := s.engineRead (0x48 + P) (s.loadLE d 8) len
      let s := r.1.when (len < 60 && s.lpSends lp) (fun s => s.stat lp ST_TX_PAD_lo)
      let l := r.2 ++ List.replicate (60 - len) 0
      let l := if fl.testBit 2 then insIp l else l
      let l := if fl.testBit 3 then insUdp l else l
      let stamp := ((t : Int) + s.fldS (pgEthP P) ETH_PTP_ADJ_tx).toNat
      let one := s.txOneStep P n
      let l := if one then s.oneStep l stamp else l
      let went := s.lpSends lp
      let s := s.depart lp t l
      let x := ptpOf (s.todStamp stamp)
      let st : Stamp := if s.held then ⟨tag, lp % 4, stamp, x.1, x.2.1, x.2.2, true⟩ else ⟨tag, lp % 4, stamp, 0, 0, 0, false⟩
      let (s, kept) := if fl.testBit 0 && went then s.pushStamp P st else (s, !fl.testBit 0)
      s.writeBack P n (if !kept || (one && !s.held) then 32 else 0)

/-- CREW_FRAME_TRANSMIT (R111, R117): a master's read of ETH_TSQ_POP in the cycle of its stamp is applied first (R122). -/
def execCrewFrameTransmit (port : Fin 16) (slot : CrewSlot) (s : State) : Out := run s fun s =>
  (match slot.pop with
    | some a => s.viaRead a (pgEthP port + 0x110) fun s => s.popStamp a.m port
    | none => s).crewSend port (s.now + slot.cue)
end Sys2Proof.Machine
end

