-- ==== Sys2Proof/Machine/Checks.lean ====
section
/-!
DEFINITION. The blocks' own checks at a commit (R56, R57): each looks at the configuration that would be live, and answers 0,
or the result that refuses it (R58). Where more than one would, 3 goes before 4 (log entry 102).
-/
namespace Sys2Proof.Machine

/-! ### What would be live -/

/-- The state with the staged fields of the pages, and the tables behind them, live as they would be (R56, R57). -/
def State.wouldBe (s : State) (pages : List (Nat × PageKind × Nat)) : State :=
  pages.foldl (fun w e =>
    let w := ((s.stagedWords e.1 e.2.1).filter (fun x => x.1 < e.1 + 0x800)).foldl (fun w x => w.setLword x.1 x.2) w
    match e.2.1 with
    | .flr => { w with rxTab := s.rxStage }
    | .flt => { w with txTab := s.txStage }
    | .pitWin => { w with pitTab := s.pitStage }
    | .proRas => { w with coef := coefTake e.2.2 s.coefStage w.coef }
    | _ => w) s

/-- The first result that refuses: 3 if an invalid value is found, else 4 if a capacity is exceeded. -/
def verdictOf (bad full : Bool) : Nat := if bad then 3 else if full then 4 else 0

/-- An area of DRAM is aligned and lies inside what is installed. -/
def State.areaOk (w : State) (base align len : Nat) : Bool := base % align == 0 && w.inDram base len

def gib : Nat := 2 ^ 30

/-! ### Lanes, formatters and media Ethernet (R74, R91, R100, R103, R107, R108, R118) -/

def State.rxlBad (w : State) (p : Nat) : Bool :=
  !w.lbit p RXL_EQ_dfe_en && (w.lv p RXL_EQ_dfe1 != 0 || w.lv p RXL_EQ_dfe2 != 0)

def State.txlBad (w : State) (p : Nat) : Bool := 63 < w.lv p TXL_EQ_pre + w.lv p TXL_EQ_main + w.lv p TXL_EQ_post

/-- A formatter of a link mode stands on the base of a group of that width, or belongs to one whose base has the same mode (R9). -/
def State.fmtPlace (w : State) (L : Nat) : Bool :=
  let m := w.lv (pgFmt L) TXF_LINK_mode
  let n := linkWidth m
  L % n == 0 || w.lv (pgFmt (L - L % n)) TXF_LINK_mode == m

/-- The formatter of tap L (R9, R91, R100, R103). The channel limit follows the rate of each link: of the mute output's format, and
of a lane with a rate of its own (TXL_CTL.follow 0); without either the format is not known at the commit, and the higher limit
holds (log entry 103). With TXL_CTL.follow 1 a mute format that has no lane rate in the link mode is refused (DESIGN CHOICE, log
entry 170: R103 names only a format that R513 lists, and one whose rate code differs). -/
def State.fmtBad (w : State) (L : Nat) : Bool :=
  let p := pgFmt L
  let m := w.lv p TXF_LINK_mode
  let pid := w.lword (p + TXF_MUTE_pid.off)
  let g := w.lv p TXF_AUD_groups
  let fixed := !w.lbit (pgTxl L) TXL_CTL_follow
  let txRate := w.lv (pgTxl L) TXL_CTL_rate
  let pidBad := pid != 0 && (match Config.pidFormat pid with
    | none => true
    | some f => match laneRate f (linkWidth m) with
      | none => true
      | some r => fixed && r != txRate)
  let hd := (fixed && txRate ≤ 2) || (pid != 0 && (match Config.pidFormat pid with
    | some f => (match laneRate f (linkWidth m) with | some r => r ≤ 2 | none => false)
    | none => false))
  3 < m || 8 < g || (hd && 4 < g) || pidBad || !w.fmtPlace L

/-- The deframer of lane L (R9, R91): a link mode that is none, or a group on a lane that is no base for it. In a lane of another
group RXF_LINK is ignored (R90). -/
def State.defrBad (w : State) (L : Nat) : Bool :=
  let m := w.lv (pgDef L) RXF_LINK_mode
  4 < m || (w.defBase L == L && L % (if m = 4 then 2 else linkWidth m) != 0)

/-- A logical port in the settings of two states: it existed and was enabled, and no longer is (R108). -/
def lpGone (s w : State) (lp : Nat) : Bool := s.lpExists lp && !w.lpExists lp

/-- The logical ports an entry names. -/
def entPorts (tab : Store W32) (e : Nat) : List Nat :=
  entFld tab e RXE_PORT_lp_a :: (if entFld tab e RXE_CTL_dual = 1 then [entFld tab e RXE_PORT_lp_b] else [])

def ethCtlBad (s w : State) (P : Nat) : Bool :=
  w.lv (pgEthC P) ETH_PORT_mode == 3 ||
    (entsOn w.rxTab).any (fun e => (entPorts w.rxTab e).any (fun lp => lp / 4 == P && lpGone s w lp)) ||
    (entsOn w.txTab).any (fun e => (entPorts w.txTab e).any (fun lp => lp / 4 == P && lpGone s w lp))

def State.ethRingBad (w : State) (p : Nat) : Bool :=
  w.lv64 p ETH_PRR_BASE_lo ETH_PRR_BASE_hi % 0x20000 != 0 || w.lv64 p ETH_CRR_BASE_lo ETH_CRR_BASE_hi % 0x200000 != 0 ||
    w.lv64 p ETH_TXR_BASE_lo ETH_TXR_BASE_hi % 0x2000 != 0

/-! ### Flow tables (R127, R128, R133, R140, R142, R144, R145) -/

/-- Active bits per second of a picture, times the frame period in cues. -/
def activeBits (f : Fmt) (height : Nat) : Nat := f.px * height * bppOf f.samp * cueSec

/-- The gang of a video entry is as wide as R128 asks. -/
def gangFits (tab : Store W32) (e : Nat) : Bool :=
  let f := entFmt tab e
  let h := entFld tab e RXE_GEOM_height
  activeBits f h ≤ 17280000000 * gangWidth (entFld tab e RXE_CTL_gang) * perOf f.rate

/-- The Pit channels of an audio entry: one for each channel, two at 96 kHz. -/
def entChannels (tab : Store W32) (e : Nat) : Nat :=
  entFld tab e RXE_FMT_ch * (if entFld tab e RXE_FMT_k96 = 1 then 2 else 1)

/-- What R133 asks of every enabled entry of a direction, on its own. -/
def State.entBad (w : State) (tab : Store W32) (isTx : Bool) (e : Nat) : Bool :=
  let type := entFld tab e RXE_CTL_type
  let slot := entFld tab e RXE_BIND_slot
  let width := gangWidth (entFld tab e RXE_CTL_gang)
  let v6 := entFld tab e RXE_CTL_ipv6
  let video := type == 0 || type == 1 || type == 4
  let slotBad := video && (entFld tab e RXE_CTL_gang == 3 || slot % width != 0 || 1535 < slot + width - 1)
  let geomBad := (type == 0 || type == 4) &&
    ((linesOfHeight (entFld tab e RXE_GEOM_height)).isNone || 12 < entFld tab e RXE_FMT_rate)
  let gangBad := type == 0 && !gangFits tab e
  let portBad := (entPorts tab e).any (fun lp => !w.lpExists lp || (w.lv pgFlc FLC_FAM_v6 (lp / 32)).testBit (lp % 32) != (v6 == 1))
  let pit := entFld tab e RXE_BIND_pit
  let ch := entFld tab e RXE_FMT_ch
  let audioBad := isAudio type && (ch < 1 || 64 < ch || pit < 32768 || 65535 < pit + entChannels tab e - 1)
  let us := entFld tab e RXE_SKEW_us
  let skewBad := !isTx && ((type == 0 && entFld tab e RXE_CTL_stage == 0 && 150 < us) || 10000 < us)
  let multicast := fun f => let d := entAddr tab e f; if v6 = 1 then byteAt d 0 == 255 else byteAt d 0 / 16 == 14
  let dstBad := isTx && (!multicast RXE_ADDR_A || (entFld tab e RXE_CTL_dual == 1 && !multicast RXE_ADDR_B))
  4 < type || slotBad || geomBad || gangBad || portBad || audioBad || skewBad || dstBad

/-- The video slots an entry binds, marked 0 for types 0 and 1, and 1 for type 4 (R127). -/
def entSlots (tab : Store W32) (e : Nat) : List (Nat × Nat) :=
  let type := entFld tab e RXE_CTL_type
  if type = 0 ∨ type = 1 ∨ type = 4 then
    (List.range (gangWidth (entFld tab e RXE_CTL_gang))).map (fun i => ((if type = 4 then 1 else 0), entFld tab e RXE_BIND_slot + i))
  else []

def slotTwice (tab : Store W32) : Bool :=
  let l := (entsOn tab).flatMap (entSlots tab)
  l.dedup.length != l.length

/-- The keys by which packets find a receive entry: logical port, family, address and UDP port of each path. -/
def entKeys (tab : Store W32) (e : Nat) : List (Nat × Nat × List Byte × Nat) :=
  let v6 := entFld tab e RXE_CTL_ipv6
  (entFld tab e RXE_PORT_lp_a, v6, entAddr tab e RXE_ADDR_A, entFld tab e RXE_UDP_port_a) ::
    (if entFld tab e RXE_CTL_dual = 1 then
      [(entFld tab e RXE_PORT_lp_b, v6, entAddr tab e RXE_ADDR_B, entFld tab e RXE_UDP_port_b)] else [])

def keyTwice (tab : Store W32) : Bool :=
  let l := (entsOn tab).flatMap (fun e => (entKeys tab e).dedup)
  l.dedup.length != l.length

/-- Entries that use staging. -/
def stagers (tab : Store W32) : List Nat :=
  (entsOn tab).filter (fun e => entFld tab e RXE_CTL_type == 0 && entFld tab e RXE_CTL_stage == 1)

def State.stageBad (w : State) : Bool :=
  !(stagers w.rxTab).isEmpty && !w.areaOk (w.lv64 pgFlc FLC_STAGE_lo FLC_STAGE_hi) gib (8 * gib)

/-- The longest frame of a transmit entry (R142). -/
def frameLen (tab : Store W32) (e : Nat) : Nat :=
  let type := entFld tab e RXE_CTL_type
  let head := 14 + 4 * entFld tab e TXE_CTL_tag + (if entFld tab e RXE_CTL_ipv6 = 1 then 40 else 20) + 8 + 12 + 4
  head + if isAudio type then
      entChannels tab e * packetSamples tab e * sampleBytes type (entFld tab e RXE_FMT_l24 == 1)
    else payloadCap tab e

/-- The spacing of an entry's packets in cues (R145). The packets of a frame of compressed video are not known from the
configuration (log entry 104). -/
def packetSpacing (tab : Store W32) (e : Nat) : Rat :=
  let type := entFld tab e RXE_CTL_type
  let g := txGrid tab e
  if isAudio type then g.per
  else
    let T : Rat := g.per
    if type = 4 then T
    else
      let N : Rat := if type = 1 then Config.compressedPackets e else videoPackets tab e
      if type = 1 ∨ entFld tab e TXE_CTL_pace = 1 then T / N
      else T * (entLines tab e).1 / ((entLines tab e).2 * N)

/-- The enabled rows of port P whose path lies on a logical port: the entries they serve. -/
def State.rowsOf (w : State) (lp : Nat) : List Nat :=
  (List.range 1024).filterMap (fun r =>
    let a := pgEth (lp / 4) (8 + r / 128) + 0x100 + 8 * (r % 128)
    let x := w.lword a
    let e := getBits x 0 13
    if x.getLsbD 15 && pathPort w.txTab e (x.getLsbD 14) == lp && entFld w.txTab e RXE_CTL_en == 1 then some e else none)

/-- The peak rates of a logical port's rows exceed 95 % of its rate. -/
def State.peakOver (w : State) (lp : Nat) : Bool :=
  let sum : Rat := ((w.rowsOf lp).map (fun e =>
    let d := packetSpacing w.txTab e
    if d = 0 then 0 else (frameLen w.txTab e * 8 * cueSec : Rat) / d)).sum
  decide (sum * 100 > 95 * (w.lpRate lp : Rat))

/-- The paths of an entry that need a row: all of them, or in a pair those of PAIR_CFG.paths (R144, R356). -/
def State.rowPaths (w : State) (e : Nat) : List Bool :=
  let l := if entFld w.txTab e RXE_CTL_dual = 1 then [false, true] else [false]
  if w.lbit pgPair PAIR_CFG_en then l.filter (fun b => (w.lv pgPair PAIR_CFG_paths).testBit b.toNat) else l

def State.noRow (w : State) (e : Nat) : Bool :=
  (w.rowPaths e).any (fun b => (w.tmtRow (pathPort w.txTab e b / 4) e b).isNone)

/-! ### Platforms and groups (R159, R160, R163) -/

/-- The berths of every Platform that would be enabled. -/
def State.berthSum (w : State) : Nat :=
  (List.range 2048).foldl (fun n r => if w.plv r PLT_CFG_en = 1 then n + w.berthsLive r else n) 0

def poolBerths : Nat := 49152

/-- The widths that the source of rail r may have: of its deframer's link mode (mode 4 takes 2 or 4 from the payload ID), or of its
entry's gang; any in a lane or slot that another serves. -/
def State.sourceWidths (w : State) (r : Nat) : List Nat :=
  if r < 512 then
    let m := w.lv (pgDef r) RXF_LINK_mode
    if w.defBase r ≠ r then [1, 2, 4] else if m = 4 then [2, 4] else [linkWidth m]
  else match slotEntry w.rxTab (r - 512) with
    | some e => if entFld w.rxTab e RXE_BIND_slot + 512 = r then [gangWidth (entFld w.rxTab e RXE_CTL_gang)] else [1, 2, 4]
    | none => [1, 2, 4]

/-- A rail stands in the gang of another, by the PLT_CFG.gang of the rails below it, enabled or not. -/
def State.gangMember (w : State) (r : Nat) : Bool :=
  (r % 4 != 0 && w.plv (r - r % 4) PLT_CFG_gang == 2) || (r % 2 == 1 && w.plv (r - 1) PLT_CFG_gang == 1)

/-- PLT_CFG.gang of rail r is reserved, misplaced, or not the width of its source (R9, R160). A member's own is ignored. -/
def State.gangBad (w : State) (r : Nat) : Bool :=
  let g := w.plv r PLT_CFG_gang
  !w.gangMember r && (g == 3 || r % gangWidth g != 0 || !(w.sourceWidths r).contains (gangWidth g))

/-- A Platform of a quad page holds an invalid value. A member of a gang keeps its own settings, which are ignored. -/
def State.platBad (w : State) (r : Nat) : Bool :=
  let size := r < 512 && (w.plv r PLT_SIZE_px == 0 || 4096 < w.plv r PLT_SIZE_px || w.plv r PLT_SIZE_bpp == 3)
  8 < w.plv r PLT_CFG_win || size || w.gangBad r ||
    (w.plv r PLT_CFG_en == 1 && w.ptBase r == r && !w.grpEn (w.plv r PLT_CFG_group))

/-- The groups of the pool page: their rates and offsets, and every enabled Platform's group is in use. -/
def State.poolBad (w : State) : Bool :=
  (List.range 16).any (fun g => 12 < w.grpSetRate g || perOf (w.grpSetRate g) ≤ w.grpSetOfs g) ||
    (List.range 2048).any (fun r => w.plv r PLT_CFG_en == 1 && w.ptBase r == r && !w.grpEn (w.plv r PLT_CFG_group))

/-- The receive table (R133). -/
def State.flrCheck (w : State) : Nat :=
  let l := entsOn w.rxTab
  let st := stagers w.rxTab
  let sidx := st.map (fun e => entFld w.rxTab e RXE_CTL_sidx)
  verdictOf (keyTwice w.rxTab || slotTwice w.rxTab || l.any (w.entBad w.rxTab false) || w.stageBad || sidx.dedup.length != sidx.length ||
      (List.range 1536).any (fun n => w.gangBad (512 + n)))
    (64 < st.length || poolBerths < w.berthSum)

/-- The transmit table (R133, R144, R145). -/
def State.fltCheck (w : State) : Nat :=
  let l := entsOn w.txTab
  verdictOf (slotTwice w.txTab || l.any (w.entBad w.txTab true) || l.any (fun e => 9216 < frameLen w.txTab e) || l.any w.noRow)
    ((List.range 64).any w.peakOver)

/-! ### Taps (R176, R182, R188, R204) -/

/-- The widths a tap's gang may have: its formatter's links, its transmit entry's gang. -/
def State.tapWidths (w : State) (t : Nat) : List Nat :=
  if t < 512 then [linkWidth (w.lv (pgFmt t) TXF_LINK_mode)]
  else if t < 2048 then
    match slotEntry w.txTab (t - 512) with
    | some e => [gangWidth (entFld w.txTab e RXE_CTL_gang)]
    | none => [1, 2, 4]
  else [1, 2, 4]

/-- A tap is a member of a gang in the would-be settings, and not its base. -/
def State.tapMember (w : State) (t : Nat) : Bool :=
  (t % 4 != 0 && w.tapLv (t - t % 4) TT_TAPCFG_gang == 2) || (t % 2 == 1 && w.tapLv (t - 1) TT_TAPCFG_gang == 1)

def State.tapBad (w : State) (t : Nat) : Bool :=
  let g := w.tapLv t TT_TAPCFG_gang
  let gangBad := !w.tapMember t && (g == 3 || t % gangWidth g != 0 || !(w.tapWidths t).contains (gangWidth g))
  let pol := w.tapLv t TT_TAPCFG_policy
  let polBad := pol == 3 || (pol == 0 && ((512 ≤ t && t < 2048) || 2304 ≤ t))
  let n := w.tapLv t TT_TAPAUD_n
  let base := w.tapLv t TT_TAPAUD_base
  let audBad := 64 < n || (n != 0 && (65535 < base + n - 1 || (List.range n).any (fun i => pitOutReserved (base + i))))
  !w.grpEn (w.tapLv t TT_TAPCFG_group) || gangBad || polBad || audBad

/-- A unit that is claimed would leave the pool. -/
def State.claimLeaves (w : State) : Bool :=
  w.syn.any (fun e => match e.2.claim with
    | some (_, n) => (List.range n).any (fun i => !(w.lv pgTt TT_ASYNC_POOL ((e.1 + i) / 32)).testBit ((e.1 + i) % 32))
    | none => false)

/-! ### Synchronisers (R206, R208, R222) -/

def State.synUnitBad (w : State) (k : Nat) : Bool :=
  let v := fun f => w.syLv k f
  let en := v SYN_CFG_en == 1
  let base := k - k % 4
  let member := k % 4 != 0 && en && w.syLv base SYN_CFG_gang == 1
  let t := toSigned 13 (v SYN_AUD_trim)
  v SYN_CFG_depth < 3 || 16 < v SYN_CFG_depth || (v SYN_CFG_gang == 1 && k % 4 != 0) || member ||
    !w.grpEn (v SYN_CFG_group) || t < -4095

/-- Enabling a claimed unit. -/
def synClaimedOn (s w : State) (k : Nat) : Bool :=
  let n := if w.syLv k SYN_CFG_gang = 1 then 4 else 1
  w.syLv k SYN_CFG_en == 1 && s.syLv k SYN_CFG_en != 1 &&
    s.syn.any (fun e => match e.2.claim with
      | some (_, m) => e.1 < k + n && k < e.1 + m
      | none => false)

/-! ### The Pit and TDM (R266, R273, R275, R280, R283, R298) -/

def pitEntryBad (tab : Store W32) (o : Nat) : Bool :=
  let g := toSigned 16 (pitOutFld tab o PITO_gain)
  let set := (List.range 2).any (fun i => Store.get (fun _ => (0 : W32)) tab (2 * o + i) != 0)
  (!(decide (-12000 ≤ g) && decide (g ≤ 2400)) && g != -32768) || 1024 < pitOutFld tab o PITO_xfade ||
    48000 < pitOutFld tab o PITO_delay || (o % 2 == 1 && pitOutFld tab o PITO_k96 == 1) || (pitOutReserved o && set)

def pitMapBad (tab : Store W32) (e : Nat) : Bool :=
  let n := pitMapFld tab e PITR_n
  64 < n || (n != 0 && 65535 < pitMapFld tab e PITR_base + n - 1)

def State.pitWinCheck (w : State) : Nat :=
  let outs := ((w.pitTab.filter (fun e => e.1 < 131072)).map (fun e => e.1 / 2)).dedup
  let maps := (w.pitTab.filter (fun e => 131072 ≤ e.1)).map (fun e => e.1 - 131072)
  verdictOf (outs.any (pitEntryBad w.pitTab) || maps.any (pitMapBad w.pitTab)) (8192 < pitLinesNeed w.pitTab)

def State.pitCtlBad (w : State) : Bool :=
  let lat := w.lv pgPit PIT_CTL_lat
  lat == 0 || 8 < lat || !w.areaOk (w.lv64 pgPit PIT_DLY_AREA_lo PIT_DLY_AREA_hi) gib (4 * gib)

def State.tdmBad (w : State) (q : Nat) : Bool :=
  let p := pgTdm q
  let b := w.lv p TDM_BLK_frames
  w.tdmClk q == 3 || w.lv p TDM_CFG_slots == 3 ||
    (w.tdmClk q == 2 && getBits (w.word (p + 0x10C)) 0 (w.tdmSlots q) != 0) || b == 0 || 64 < b ||
    w.lv p TDM_FADE_out == 0 || w.lv p TDM_FADE_in == 0 || 48000 < w.lv p TDM_ZX_timeout || 220500 ≤ w.lv p TDM_TXOFS_cues ||
    (w.tdmEn q && w.lv pgPit PIT_CTL_lat == 1)

/-! ### Prosceniums (R225, R229, R231, R236 to R238, R240 to R242, R250, R253, R254, R257, R261) -/

/-- A surface of a format, size and stride at a base meets R231; for tiles, with its header. -/
def State.surfaceOk (w : State) (fmt width height stride base hdr : Nat) : Bool :=
  let size := 8 ≤ width && width ≤ 8192 && 2 ≤ height && height ≤ 8192
  if fmt = 3 then
    let n := width / 32 * (height / 8)
    size && width % 32 == 0 && height % 8 == 0 && base % 128 == 0 && w.inDram base (n * 1280) && w.inDram hdr n
  else
    size && base % 128 == 0 && stride % 128 == 0 &&
      ceilDiv (width * (if fmt = 0 then 40 else if fmt = 1 then 32 else 20)) 8 ≤ stride && w.inDram base (stride * height)

/-- The banks a surface layer may show: bank 0, and with LAY_BLEND.fl_en those of its flip group (R255). -/
def State.layBanks (w : State) (p l : Nat) : List (Nat × Nat) :=
  let b := pgBlend p
  let bank0 := (w.lv64 (pgLay p) LAY_BASE_lo LAY_BASE_hi l, w.lv64 (pgLay p) LAY_ZHDR_lo LAY_ZHDR_hi l)
  let bank1 := (w.lv64 b LAY_BASE1_lo LAY_BASE1_hi l, w.lv64 b LAY_ZHDR1_lo LAY_ZHDR1_hi l)
  let bank2 := (w.lv64 b LAY_BASE2_lo LAY_BASE2_hi l, w.lv64 b LAY_ZHDR2_lo LAY_ZHDR2_hi l)
  if w.lbit b LAY_BLEND_fl_en l then
    bank0 :: bank1 :: (if w.lv b PRO_FLIP_nb (w.lv b LAY_BLEND_fgrp l) = 1 then [bank2] else [])
  else [bank0]

def State.layBanksOk (w : State) (p l : Nat) : Bool :=
  (w.layBanks p l).all (fun b => w.surfaceOk (w.laLv p l LAY_SURF_fmt) (w.laLv p l LAY_SWH_w) (w.laLv p l LAY_SWH_h)
    (w.laLv p l LAY_STRIDE_bytes) b.1 b.2)

/-- The crop a commit counts with: of a live layer with crop_full the whole of LAY_SWH (R229). -/
def State.commitCrop (w : State) (p l : Nat) : Nat × Nat :=
  if w.laLv p l LAY_CFG_src = 1 ∧ w.laLv p l LAY_CFG_crop_full = 1 then (w.laLv p l LAY_SWH_w, w.laLv p l LAY_SWH_h)
  else (w.laLv p l LAY_CROPS_cw, w.laLv p l LAY_CROPS_ch)

/-- A live layer's gang is misplaced or does not fit its tap, or a layer within its reach is live too (R229). -/
def State.layGangBad (w : State) (p l : Nat) : Bool :=
  let g := w.laLv p l LAY_CFG_gang
  let n := gangWidth g
  let covered := (l % 4 != 0 && w.laLv p (l - l % 4) LAY_CFG_src == 1 && w.laLv p (l - l % 4) LAY_CFG_gang == 2) ||
    (l % 2 == 1 && w.laLv p (l - 1) LAY_CFG_src == 1 && w.laLv p (l - 1) LAY_CFG_gang == 1)
  w.laLv p l LAY_CFG_src == 1 &&
    (covered || g == 3 || l % n != 0 || (n != 1 && gangWidth (w.tapLv (layTap p l) TT_TAPCFG_gang) != n))

def State.layBad (w : State) (p l : Nat) : Bool :=
  let src := w.laLv p l LAY_CFG_src
  let c := w.commitCrop p l
  src == 3 || (src != 0 && !scaleFits c.1 c.2 (w.laLv p l LAY_DSTS_dw) (w.laLv p l LAY_DSTS_dh)) || w.layGangBad p l ||
    (src == 2 && !w.layBanksOk p l)

/-- Slots of the pool at the configured taps (R238). -/
def State.poolSum (w : State) (p : Nat) : Nat :=
  ((List.range 8).map (fun l =>
    if w.laLv p l LAY_CFG_src = 0 then 0
    else
      let c := w.commitCrop p l
      slotsOf (vtapsOf (w.laLv p l LAY_CFG_vtaps)) c.1 c.2 (w.laLv p l LAY_DSTS_dh))).sum

def State.loadOver (w : State) (p : Nat) : Bool :=
  let T := perOf (w.grpSetRate (w.proGroup p))
  (List.range 8).any (fun l =>
    let c := w.commitCrop p l
    w.laLv p l LAY_CFG_src != 0 && !loadFits c.1 c.2 (w.laLv p l LAY_DSTS_dh) (w.proRaster p).2.2.1 T)

/-- A Proscenium as its settings would run it: its surface bytes per second (R240). -/
def State.surfWould (w : State) (p : Nat) : Nat :=
  let T := perOf (w.grpSetRate (w.proGroup p))
  let b := w.proBase p
  if T = 0 ∨ b ≠ p ∨ !w.lbit (pgBlend b) PRO_OUT_en then 0
  else
    ((List.range 8).map (fun l =>
      if w.laLv b l LAY_CFG_src = 2 then
        surfBytes (w.laLv b l LAY_SURF_fmt) (w.laLv b l LAY_CROP_cx) (w.laLv b l LAY_CROP_cy)
          (w.laLv b l LAY_CROPS_cw) (w.laLv b l LAY_CROPS_ch)
      else 0)).sum * cueSec / T

def State.surfTotal (w : State) : Nat := ((List.range 32).map w.surfWould).sum
def State.capTotal (w : State) : Nat :=
  ((List.range 32).map (fun p => w.capAt p (perOf (w.grpSetRate (w.proGroup p))))).sum

def surfLimit : Nat := 64000000000
def capLimit : Nat := 40000000000

/-- The surfaces or the captures of all Prosceniums, as committed, exceed their limits (R240, R261). -/
def State.proOver (w : State) : Bool := surfLimit < w.surfTotal || capLimit < w.capTotal

/-- A loaded coefficient set has a phase, in either direction, whose coefficients do not sum to 256 (R236). -/
def State.coefBad (w : State) (p : Nat) : Bool :=
  let c := fun key n => let x := Store.get (fun _ => (0 : W32)) w.coef (key * 4 + n); toSigned 10 (getBits x 0 10) + toSigned 10 (getBits x 16 10)
  [1, 2, 3].any (fun set =>
    Store.get (fun _ => (0 : W32)) w.coef (coefMark p set) != 0 && [0, 1].any (fun vert => (List.range 64).any (fun ph =>
      ((List.range (if vert = 1 then 3 else 4)).map (fun n => c (((p * 4 + set) * 2 + vert) * 64 + ph) n)).sum != 256)))

/-- The raster page. pages are those of the commit. -/
def proRasBad (s w : State) (pages : List Nat) (p : Nat) : Bool :=
  let fmt := w.lv (pgRas p) PRO_RASTER_fmt
  let gang := w.lbit (pgRas p) PRO_RASTER_gang
  let newGang := w.proGang p && !s.proGang p
  fmt == 7 || (fmt == 6 && !gang) || (gang && (p % 4 != 0 || 32 ≤ p)) ||
    (newGang && (List.range 3).any (fun i => !pages.contains (pgRas (p + 1 + i)))) || w.coefBad p

/-- The captured size of a bank and its stride meet R231. -/
def State.capBad (w : State) (p : Nat) : Bool :=
  let b := pgBlend p
  let fmt := w.lv b CAP_CFG_fmt
  let z := w.capSize p
  fmt == 1 || fmt == 3 || 31 < w.lv b CAP_CFG_fpro ||
    (w.lbit b CAP_CFG_en && (List.range 3).any (fun n =>
      !w.surfaceOk fmt z.1 z.2 (w.lv b CAP_STRIDE_bytes) (w.lv64 b CAP_BASE_lo CAP_BASE_hi n) 0))

/-- A layer's key partner is not live, or the layer is odd (R254). -/
def State.keyBad (w : State) (p l : Nat) : Bool :=
  w.lv (pgBlend p) LAY_BLEND_asrc l == 1 && (l % 2 == 1 || w.laLv p (l + 1) LAY_CFG_src != 1)

def State.blendBad (w : State) (p : Nat) : Bool :=
  let b := pgBlend p
  !orderOk (w.lv b PRO_ORDER) (w.lv b PRO_ORDER_CHK) || w.capBad p ||
    (List.range 4).any (fun g => w.lbit b PRO_FLIP_auto g && !w.lbit b PRO_FLIP_nb g) ||
    (List.range 8).any (fun l =>
      let a := w.lv b LAY_BLEND_asrc l
      a == 3 || (w.lbit b LAY_BLEND_pm l && (a == 1 || a == 2)) || w.lv b LAY_KEY_hi l ≤ w.lv b LAY_KEY_lo l ||
        w.keyBad p l ||
        (w.laLv p l LAY_CFG_src == 2 && !w.layBanksOk p l))

/-- Any page of Proscenium p. A member of a gang keeps its own settings, which are ignored. -/
def proCheck (s w : State) (pages : List Nat) (k : PageKind) (p : Nat) : Nat :=
  let member := w.proBase p != p
  match k with
  | .proRas =>
    verdictOf (proRasBad s w pages p || (!member && w.capBad p)) (!member && (48 < w.poolSum p || w.loadOver p || w.proOver))
  | .proLay =>
    if member then 0
    else verdictOf ((List.range 8).any (fun l => w.layBad p l || w.keyBad p l)) (48 < w.poolSum p || w.loadOver p || w.proOver)
  | _ => if member then 0 else verdictOf (w.blendBad p) (w.loadOver p || w.proOver)

/-! ### References, clocks, Call Bus, pair (R314, R315, R318, R322, R328, R345, R370) -/

def State.refSelBad (w : State) : Bool :=
  let v := fun f => w.lv pgSel f
  !(v REF_ACC_ppb ≤ v REF_WARN_ppb && v REF_WARN_ppb ≤ v REF_REJ_ppb) || v REF_ACC_ppb == v REF_REJ_ppb ||
    v REF_ACC_time == 0 || v REF_REJ_time == 0 || v REF_HO_secs == 0 || 300 < v REF_HO_secs || 9 < v REF_CTL_force_in ||
    v REF_YLIM_ppt == 0

def State.refInBad (w : State) (i : Nat) : Bool :=
  let v := fun f => w.lv (pgRef i) f
  12 < v REF_IN_rate || 4 < v REF_IN_lines || 511 < v REF_IN_lane || 10000 < v REF_BW_chz

def clkCtlBad (s w : State) : Bool :=
  let m := w.lv pgClk CLK_REF_mode
  w.lv pgClk CLK_RAMP_slope == 0 || w.lv pgClk CLK_RAMP_acc == 0 || m == 3 ||
    (m != s.lv pgClk CLK_REF_mode &&
      (List.range 26).any (fun n => bypassCapable n && !s.bit (pgPll n) PLL_STAT_bypass))

/-- R322. -/
def State.pllBad (w : State) (p : Nat) : Bool := w.lv p PLL_LOCK_win == 0 || w.lv p PLL_LOCK_n == 0 || w.lv p PLL_LOCK_nloss == 0

def State.cbCtlBad (w : State) : Bool := 39 < w.lv pgCb CB_CTL_station || w.lv pgCb CB_CTL_role == 3

def State.cbRingBad (w : State) : Bool :=
  w.lv64 pgCbr CB_TXR_BASE_lo CB_TXR_BASE_hi % 0x8000 != 0 || w.lv64 pgCbr CB_RXR_BASE_lo CB_RXR_BASE_hi % 0x20000 != 0

def State.pairBad (w : State) : Bool :=
  let v := fun f => w.lv pgPair f
  v PAIR_CFG_mis_n == 0 || v PAIR_CFG_settle == 0 || v PAIR_DEFER_cues < 52920 || 10584000 < v PAIR_DEFER_cues ||
    !w.grpEn (v PAIR_CFG_cgroup)

/-- The area holds two banks, each of the snapshot with its header of 128 bytes (R364). -/
def State.twinBad (w : State) : Bool :=
  w.lv pgTwin TWN_SNAP_PER_s == 0 ||
    !w.areaOk (w.lv64 pgTwin TWN_SNAP_AREA_lo TWN_SNAP_AREA_hi) 0x100000 (2 * (w.lv pgTwin TWN_SNAP_LEN_bytes + 128))

/-! ### DRAM, rotation and supply (R386, R399, R408, R443, R460) -/

def State.drcCtlBad (w : State) (p : Nat) : Bool :=
  let v := fun f => w.lv p f
  v DRC_QLIM_n == 0 || 1024 < v DRC_QLIM_n || v DRC_WQ_hi ≤ v DRC_WQ_lo || v DRC_RH_thr < 64 ||
    [DRC_TIM0_trcd, DRC_TIM0_trp, DRC_TIM0_tras, DRC_TIM0_tfaw, DRC_TIM1_trrd_s, DRC_TIM1_trrd_l, DRC_TIM1_tccd_l,
      DRC_TIM1_twr, DRC_TIM2_trfc, DRC_TIM2_trefi].any (fun f => v f == 0)

def State.drcTrnBad (w : State) (p : Nat) : Bool := w.lv p DRC_TRK_per < 10 || 1000 < w.lv p DRC_TRK_per

def State.dprBad (w : State) (p : Nat) : Bool :=
  let gap := w.lv p DPR_SCRUB_gap
  w.lv p DPR_RET_win == 0 || w.lv p DPR_RET_thr == 0 || gap == 0 || w.lv p DPR_SCRUB_idle == 0 ||
    69120000000000 < gap * w.granules

def State.rotBad (w : State) : Bool :=
  (List.range 7).any (fun c => w.lv pgRot ROT_CLS_per c == 0 || w.lv pgRot ROT_CLS_per c ≤ w.lv pgRot ROT_CLS_test c)

def State.avsBad (w : State) : Bool :=
  let v := fun f => w.lv pgAvs f
  v AVS_LIM_lo < 650 || 850 < v AVS_LIM_hi || v AVS_LIM_hi ≤ v AVS_LIM_lo || v AVS_MARG_hi ≤ v AVS_MARG_lo ||
    toSigned 12 (v TMP_LIM_crit) ≤ toSigned 12 (v TMP_LIM_warn)

end Sys2Proof.Machine
end

