-- ==== Sys2Proof/Machine/Commit.lean ====
section
/-!
DEFINITION. Configuration commits (R56 to R58): of one page and of the whole device; their checks, their apply instants, and
what becomes live.
-/
namespace Sys2Proof.Machine

/-! ### The verdict -/

/-- The block's own check of one page of a commit, on the state as it would be live. -/
def checkPage (s w : State) (pages : List Nat) (p : Nat) (k : PageKind) (i : Nat) : Nat :=
  let bad := fun b => verdictOf b false
  match k with
  | .rxl => bad (w.rxlBad p)
  | .txl => bad (w.txlBad p)
  | .fmt => bad (w.fmtBad i)
  | .defr => bad (w.defrBad i || (List.range 4).any (fun j => w.gangBad (i - i % 4 + j)))
  | .ethCtl => bad (ethCtlBad s w i)
  | .ethRing => bad (w.ethRingBad p)
  | .ethTmt => verdictOf false ((List.range 4).any (fun j => w.peakOver (4 * (i / 8) + j)))
  | .flr => w.flrCheck
  | .flt => w.fltCheck
  | .flc => bad w.stageBad
  | .quad => verdictOf ((List.range 4).any (fun j => w.platBad (4 * i + j))) (poolBerths < w.berthSum)
  | .pool => verdictOf w.poolBad (poolBerths < w.berthSum || w.proOver)
  | .tap => bad ((List.range 16).any (fun j => w.tapBad (16 * i + j)))
  | .ttCtl => verdictOf false w.claimLeaves
  | .synCtl => bad (!w.areaOk (w.lv64 p SYN_AREA_lo SYN_AREA_hi) gib (66 * gib))
  | .synQuad =>
    if 64 ≤ i then 0
    else verdictOf ((List.range 4).any (fun j => w.synUnitBad (4 * i + j))) ((List.range 4).any (fun j => synClaimedOn s w (4 * i + j)))
  | .proRas | .proLay | .proBlend => if 32 ≤ i then 0 else proCheck s w pages k i
  | .pitCtl => bad w.pitCtlBad
  | .pitWin => w.pitWinCheck
  | .tdm => bad (w.tdmBad i)
  | .refSel => bad w.refSelBad
  | .refIn => bad (w.refInBad i)
  | .clkCtl => bad (clkCtlBad s w)
  | .pll => bad (w.pllBad p)
  | .cbCtl => bad w.cbCtlBad
  | .cbRing => bad w.cbRingBad
  | .pair => bad w.pairBad
  | .twin => bad w.twinBad
  | .drcCtl => bad (w.drcCtlBad p)
  | .drcTrn => bad (w.drcTrnBad p)
  | .dpr => bad (w.dprBad p)
  | .rot => bad w.rotBad
  | .avs => bad w.avsBad
  | _ => 0

/-- The CRC of the page, and of the table behind it, differs from its reference (R56, R132, R283); not tested in parity mode
(R64). -/
def crcDiffers (s w : State) (p : Nat) (k : PageKind) : Bool :=
  (!s.parityOn p k && s.cfgCrc p k true != s.word (p + 0x34)) ||
    (match k with
    | .flr => (flowCrc false w.rxTab).toNat != s.fld p FLR_TCRC_REF_crc
    | .flt => (flowCrc true w.txTab).toNat != s.fld p FLT_TCRC_REF_crc
    | .pitWin => (pitCrc w.pitTab).toNat != s.fld p PIT_TCRC_REF_crc
    | _ => false)

/-- What refuses a page of a commit: its own checks, then the CRC; 0 where nothing does. -/
def judge (s w : State) (pages : List Nat) (p : Nat) (k : PageKind) (i : Nat) : Nat :=
  let c := checkPage s w pages p k i
  if c != 0 then c else if crcDiffers s w p k then 5 else 0

/-- The capacity fields that a refused commit leaves (R160, R238, R240, R261, R280). -/
def State.showNeed (s w : State) (k : PageKind) (i : Nat) : State :=
  match k with
  | .quad | .pool | .flr =>
    let s := s.when (poolBerths < w.berthSum) (fun s => s.setFld pgPool PLP_NEED_n w.berthSum)
    s.when (k == .pool && surfLimit < w.surfTotal) (fun s => s.setFld pgProG PRG_BW_need (w.surfTotal / 1000000))
  | .proRas | .proLay | .proBlend =>
    let s := s.when (48 < w.poolSum i) (fun s => s.setFld (pgRas i) PRO_POOL_need (w.poolSum i))
    let s := s.when (surfLimit < w.surfTotal) (fun s => s.setFld pgProG PRG_BW_need (w.surfTotal / 1000000))
    s.when (capLimit < w.capTotal && k == .proBlend) (fun s => s.setFld (pgBlend i) PRO_CAPBW_need (w.capTotal / 1000000))
  | .pitWin => s.when (8192 < pitLinesNeed w.pitTab) (fun s => s.setFld pgPit PIT_DLY_NEED_n (pitLinesNeed w.pitTab))
  | _ => s

/-! ### Becoming live -/

/-- The commits of the pair pages become live (R350, R370): Solo to Forming, or any state to Solo. -/
def State.pairApply (s : State) : State :=
  let was := s.lbit pgPair PAIR_CFG_en
  let s := (s.applySlot pgPair .pair 0).applySlot pgTwin .twin 0
  let en := s.lbit pgPair PAIR_CFG_en
  if en && !was then s.becomeForming
  else if was && !en then
    { (s.setClaim 0).setRole roleSolo with journalIn := [] }.setPair { s.pair with burstWant := false }
  else s

/-- The reference path changes (R318): the fractional-N words scale with the mode. -/
def State.clkApply (s : State) : State :=
  let m := s.lv pgClk CLK_REF_mode
  let s := s.applySlot pgClk .clkCtl 0
  if s.lv pgClk CLK_REF_mode = m then s else s.fixedWords.synthSteer s.steerNow

/-- A commit accepted just now becomes live at once where its block so allows. A formatter that emits nothing has no next output
frame to wait for, and its fields apply at once (R104; DESIGN CHOICE, log entry 169). -/
def State.applyAtOnce (s : State) (p : Nat) (k : PageKind) (i : Nat) : State :=
  match k with
  | .rxl => (s.applySlot p k 0).rxEqLive i
  | .txl => (s.applySlot p k 0).txEqLive i
  | .pll | .ethRing | .ttCtl | .synCtl | .proGroup => s.applySlot p k 0
  | .clkCtl => s.clkApply
  | .pool => (List.range 16).foldl (fun s g => s.poolApply g) s
  | .ethCtl => s.ethApply i
  | .quad => (List.range 4).foldl (fun s j => s.ptApplyIdle (4 * i + j)) s
  | .tap => (List.range 16).foldl (fun s j => if s.tapRail (16 * i + j) = noRail then s.tapApply (16 * i + j) else s) s
  | .synQuad =>
    (List.range 4).foldl (fun s j => if s.synState (4 * i + j) = synOff then s.synApply (4 * i + j) else s) s
  | .proRas | .proLay | .proBlend => (List.range 8).foldl (fun s l => s.proApplyOff i l) s
  | .defr => if (Store.get (fun _ => ({} : Deframer)) s.defr (s.defBase i)).fmt.isNone then s.defrApply i else s
  | .fmt => if (s.fm i).fmt.isNone then s.applySlot p k 0 else s
  | .cbCtl | .cbRing => if s.cbState = cbOff then s.callApply else s
  | .pair | .twin => if s.role = roleSolo then s.pairApply else s
  | _ => s

/-- The uptime from which an accepted commit may apply: on the Lead, PAIR_DEFER ahead for mirrored pages (R357); for the Pit and
the flow pages not in the present TICK, since the checks take time (R134, R283). -/
def State.commitEarliest (s : State) (k : PageKind) : Nat :=
  let e := if k.mirrored then s.earliest else 0
  match k with
  | .pitCtl | .pitWin | .tdm | .flr | .flt | .flc | .ethTmt => max e (s.now + 16)
  | _ => e

/-- The staging tables copied with a page's commit. -/
def State.takeTables (s : State) (k : PageKind) (i : Nat) : State :=
  match k with
  | .flr => { s with rxPend := some s.rxStage, rxStored := [] }.setFld pgFlr FLR_PEND_n 0
  | .flt => { s with txPend := some s.txStage, txStored := [] }.setFld pgFlt FLT_PEND_n 0
  | .pitWin => { s with pitPend := some s.pitStage }
  | .proRas => { s with coefPend := some (coefTake i s.coefStage (s.coefPend.getD [])) }
  | _ => s

/-- A page of a commit is accepted: its words wait, and become live at once where they may. -/
def State.acceptPage (s : State) (p : Nat) (k : PageKind) (i start : Nat) : State :=
  let s := { s with commitFrom := Store.put (fun _ => 0) p start s.commitFrom }
  ((s.takeTables k i).accept p k).applyAtOnce p k i

/-- A commit of the page of a unit in the middle of a handover or handback aborts it (R83, R448). -/
def State.commitAborts (s : State) (k : PageKind) (i : Nat) : State :=
  match k with
  | .rxl => (s.rxAbort i).rotPageAbort 0 i
  | .txl => (s.txAbort i).rotPageAbort 1 i
  | .synQuad => (List.range 4).foldl (fun s j => s.rotPageAbort 3 (4 * i + j)) s
  | .proRas | .proLay | .proBlend => s.rotPageAbort 4 i
  | _ => s

/-- CFG_COMMIT.go of one page (R56, R57). A page joined to a device-wide commit is refused with result 7. -/
def State.commitPage (s : State) (p : Nat) (k : PageKind) (i : Nat) : State :=
  let s := s.commitAborts k i
  if s.bit p PAGE_CTL_join then s.refuseCommit p 7
  else
    let w := s.wouldBe [(p, k, i)]
    let r := judge s w [p] p k i
    if r = 0 then
      let start := s.commitEarliest k
      let s := s.acceptPage p k i start
      if k.mirrored then s.journal start (.commit (some p)) else s
    else (s.showNeed w k i).refuseCommit p r

/-- Every page that has joined the next device-wide commit, with its kind and instance. -/
def State.joinedPages (s : State) : List (Nat × PageKind × Nat) :=
  (s.regs.filter (fun e => e.1 % 0x1000 == 8)).filterMap (fun e =>
    let p := pageBase e.1
    if s.bit p PAGE_CTL_join then (pageOf p).map (fun ki => (p, ki.1, ki.2)) else none)

/-- Accepts pages as one configuration, in the order of their addresses. -/
def State.acceptAll (s : State) (l : List (Nat × PageKind × Nat)) (start : Option Nat) : State :=
  let s := l.foldl (fun s e => s.acceptPage e.1 e.2.1 e.2.2 (start.getD (s.commitEarliest e.2.1))) s
  { s with joined := l.map (fun e => e.1) }

/-- DEV_COMMITALL_CTL.go (R57): every joined page is accepted, or none; PAGE_CTL.join clears in each. A page that fails reports
its own result, the others 6; the device page reports the first failure's result (log entry 102). -/
def State.commitDevice (s : State) : State :=
  let l := s.joinedPages
  let s := l.foldl (fun s e => s.commitAborts e.2.1 e.2.2) s
  let w := s.wouldBe l
  let rs := l.map (fun e => (e, judge s w (l.map (fun e => e.1)) e.1 e.2.1 e.2.2))
  let s := l.foldl (fun s e => s.setBit e.1 PAGE_CTL_join false) s
  match rs.find? (fun r => r.2 != 0) with
  | none =>
    let s := s.acceptAll l none
    let s := s.setFld pgDev DEV_COMMITALL_CTL_result (if l.all (fun e => (s.waiting e.1).isEmpty) then 2 else 1)
    if l.any (fun e => e.2.1.mirrored) then s.journal s.earliest (.commit none) else s
  | some bad =>
    let s := rs.foldl (fun s r => (s.showNeed w r.1.2.1 r.1.2.2).refuseCommit r.1.1 (if r.2 = 0 then 6 else r.2)) s
    s.setFld pgDev DEV_COMMITALL_CTL_result bad.2

/-- The device-wide result turns from busy to applied once no page of it waits (R57, R58). -/
def State.commitShow (s : State) : State :=
  if s.fld pgDev DEV_COMMITALL_CTL_result = 1 ∧ s.joined.all (fun p => (s.waiting p).isEmpty) then
    s.setFld pgDev DEV_COMMITALL_CTL_result 2
  else s

/-! ### Apply instants -/

/-- An apply instant of a slot of a page that has a commit waiting (R56), by the rule of its chapter: nothing happens where the
slot's block has no such instant in the present TICK. -/
def State.applyInstant (s : State) (p : Nat) (k : PageKind) (i slot : Nat) : State :=
  match k with
  | .quad =>
    let r := 4 * i + slot
    let v := s.pt (s.ptBase r)
    if s.now ≤ v.start ∧ v.start < s.now + 16 then s.ptApply r else s.ptApplyIdle r
  | .tap => if s.tapInstant (16 * i + slot) then s.tapApply (16 * i + slot) else s
  | .synQuad =>
    let u := 4 * i + slot
    if s.synState u = synOff ∨ s.grpNow (s.synGroup (s.synBase u)) then s.synApply u else s
  | .proRas | .proLay | .proBlend =>
    if s.grpNow (s.proGroup i) then s.proApply i else s.proApplyOff i slot
  | .pitCtl => if s.pitNow.isSome then s.pitCtlApply else s
  | .pitWin => if s.pitNow.isSome then s.pitWinApply else s
  | .tdm => if s.pitNow.isSome then s.tdmApply i else s
  | .refSel | .refIn => if s.onMultiple (100 * cueMs) then s.refApply else s
  | .flr => s.flrApply
  | .flt => s.fltApply
  | .cbCtl | .cbRing =>
    if s.cbState = cbOff then s.callApply
    else match s.cycleStart with
      | some t => if s.now ≤ t ∧ t < s.now + 16 then s.callApply else s
      | none => s
  | .pair | .twin => if s.role = roleSolo ∨ s.cgNow.isSome then s.pairApply else s
  | .rot =>
    if (List.range 7).any (fun c => s.onMultiple (s.lv pgRot ROT_CLS_per c * cueSec)) then s.applySlot p k slot else s
  | .avs => if s.onMultiple cueSec then s.applySlot p k slot else s
  | .flc | .ethTmt | .drcCtl | .drcTrn | .dpr | .ppr | .dflip | .drcGlob | .srm | .wear => s.applySlot p k slot
  | _ => s.applyAtOnce p k i

/-! ### The commands -/

/-- The page a command names by its BAR0 address: its address, kind and instance. -/
def pageArg (page : Nat) : Option (Nat × PageKind × Nat) :=
  if page % 0x1000 = 0 then (pageOf page).map (fun ki => (page, ki.1, ki.2)) else none

/-- A command on a page: ill-formed where the address is that of no page. -/
def onPage (page : Nat) (s : State) (f : Nat → PageKind → Nat → State → State) : Out :=
  match pageArg page with
  | some (p, k, i) => runRails s (f p k i)
  | none => .fault .illFormed

/-- CFG_COMMIT written with go set, beyond storing the word. -/
def State.commitHook (s : State) (p : Nat) (k : PageKind) (i : Nat) (eff : W32) : State :=
  if eff.getLsbD 0 then s.commitPage p k i else s

/-- PAGE_COMMIT (R56). -/
def execPageCommit (a : Acc) (page : Nat) (s : State) : Out := onPage page s fun p k i s =>
  s.viaPath a (p + 0x3C) fun s =>
    let r := s.storeWord a p k i 0x3C 1
    if r.ok then r.s.commitHook p k i r.eff else r.s

/-- DEVICE_COMMIT (R57). -/
def execDeviceCommit (a : Acc) (s : State) : Out := runRails s fun s =>
  s.viaPath a (pgDev + 0x210) fun s =>
    let r := s.storeWord a pgDev .dev 0 0x210 1
    if r.ok && r.eff.getLsbD 0 then r.s.commitDevice else r.s

/-- COMMIT_APPLY (R56). -/
def execCommitApply (page slot : Nat) (s : State) : Out := onPage page s fun p k i s => (s.applyInstant p k i slot).commitShow

end Sys2Proof.Machine
end

