-- ==== Sys2Proof/Machine/Links.lean ====
section
/-!
DEFINITION. What a PLL's loss of lock, its bypass and its return mean for the links and the DRAM channel it clocks (R317, R323,
R324, R385).
-/
namespace Sys2Proof.Machine

/-- The link that a PLL clocks goes down with its lock (R317): the Twin Link by PLL 20, the media Ethernet ports of a tile by
PLLs 21 to 24, PCI Express by PLL 25. -/
def State.linksLost (s : State) (n : Nat) : State :=
  if n = 20 then (if s.twinUp then s.twinDown else s)
  else if 21 ≤ n ∧ n ≤ 24 then (List.range 16).foldl (fun s j => s.linkDown (16 * (n - 21) + j) false) s
  else if n = 25 then s.pcieDown
  else s

/-- PLL_LOCK_LOSS (R322, R323, R325): the phase error measured last, and the measurements in a row beyond the window that it
completes. -/
def execPllLockLoss (n : Fin 26) (got : PllMeasure) (s : State) : Out := run s fun s =>
  if s.bit (pgPll n) PLL_STAT_lock ∧ s.pllMeasures n ∧ !s.pllWithin n got.err ∧ s.lv (pgPll n) PLL_LOCK_nloss ≤ got.cycles then
    ((s.setWord (pgPll n + 0x114) got.err).pllLost n).linksLost n
  else s

/-- PLL_BYPASS_DONE (R323): a DRAM channel whose PLL is on bypass makes no accesses (R385). -/
def execPllBypassDone (n : Fin 26) (s : State) : Out := run s fun s =>
  let t := s.pllBypassed n
  if (s.pl n).moving ∧ 3 ≤ n.val ∧ n.val ≤ 10 then t.chLost (n - 3) else t

/-- PLL_BYPASS_RETURN (R324): at an oscillator edge; the DRAM channel of the PLL serves again (R385). -/
def execPllBypassReturn (n : Fin 26) (s : State) : Out := run s fun s =>
  let t := s.pllReturned n
  if s.bit (pgPll n) PLL_STAT_bypass ∧ !t.bit (pgPll n) PLL_STAT_bypass ∧ 3 ≤ n.val ∧ n.val ≤ 10 then t.chBack (n - 3) else t

end Sys2Proof.Machine
end

