-- ==== Sys2Proof/Machine/Boot.lean ====
section
/-!
DEFINITION. Reset, the start-up sequence, and lifecycle (R462 to R478, R480, R500).
-/
namespace Sys2Proof.Machine

/-! ### Reset (R469, R470, R500) -/

/-- The device held in reset: every register at its reset value, every memory wiped. Fuses, flash with its slots, wear log and
settings are kept. A settings bank written by a trial that the reset cuts off gives way to the bank kept for it (R480, R493). -/
def State.coldStart (s : State) : State :=
  let t : State :=
    { low := true, pending := s.pending, free := s.free, flash := s.flash, slots := s.slots, repairs := s.repairs,
      hourTop := s.hourTop, hourSector := s.hourSector, hourRecs := s.hourRecs, fuses := s.fuses, lcyWiped := s.lcyWiped,
      oemHash := s.oemHash,
      upd := { setBank := if s.upd.setKeep.isSome then s.upd.setKeep else s.upd.setBank, setSeq := s.upd.setSeq } }
  (t.setFld pgLcy LCY_STATE_state s.lcy).setBit pgLcy LCY_STATE_oem s.oemHash.isSome

/-- BOOT_CTL is written: dev_reset acts as a low pulse on RESET_N (R470). -/
def State.bootWrite (s : State) (a : Acc) (o : Nat) (w : W32) : State :=
  let r := s.storeWord a pgBoot .boot 0 o w
  if r.ok && o == 0x100 && r.eff.getLsbD 0 then r.s.coldStart else r.s

/-! ### Time during start-up -/

/-- Uptime and time of day advance by n TICKs with nothing else to do. -/
def State.bootRun (s : State) (n : Nat) : State :=
  let t := s.tod.put (s.tod.total + n * s.inc)
  { s with upt := s.upt + BitVec.ofNat 64 (16 * n), tod := { t with steered := s.tod.steered + n * s.inc } }

/-! ### Steps 1 to 4 -/

/-- Debug is open: in Blank, and in Returned once wiped (R476). -/
def State.debugFor (s : State) : Bool := s.lcy = 0 || (s.lcy = 3 && s.lcyWiped)

/-- A new request nonce (R472). -/
def State.newNonce (s : State) : State :=
  (s.setFld64 pgLcy LCY_NONCE_lo LCY_NONCE_hi s.free64.toNat).fresh

/-- Step 1: the fuses are read, and the SRAM fuse map is applied (R403). -/
def State.bootFuses (s : State) : State :=
  let s := (List.range 4).foldl (fun s i => s.setFld pgLcy LCY_UID (Config.unitId i).toNat i) s
  let s := (s.setBit pgLcy LCY_STATE_debug s.debugFor).newNonce
  let s := s.setFld pgSrm SRM_FUSE_used s.fuses.length
  s.fuses.foldl (fun s e =>
    if !e.getLsbD 31 then s
    else if Config.spareExists e then { s with spares := s.spares ++ [e] }
    else s.err pgSrm 0x121) s

/-- PLL n locks, and returns its domains from bypass (R324). -/
def State.bootLock (s : State) (n : Nat) : State := (s.pllLocked n).pllReturned n

/-- Step 2: the cue PLL locks and uptime starts; the core and DDR PLLs lock. Every fractional-N PLL has its nominal word (R317,
R319). -/
def State.bootPlls (s : State) (ticks : Nat) : State :=
  ((List.range 10).foldl (fun s i => s.bootLock (i + 1)) ((s.bootLock 0).bootRun ticks)).fixedWords.synthSteer 0

/-- The swing of a retired unit takes its place and is used (R447, R464); unit may be a swing out of use. -/
def State.bootSwing (s : State) (c unit : Nat) : State :=
  let s := { s with retired := s.retired ++ [c * 65536 + unit] }
  let mine : Bool := decide (unit < (if c < 2 then 512 else clsUnits c))
  let s := (s.when mine (fun s => s.showSwing c unit true)).showClass c
  if c < 2 then s.swingGone c (if unit < 512 then unit / 32 else unit - 512)
  else if c = 2 then
    let s := s.putRot 2 0 { s.ro 2 0 with cursor := if unit < 40 then unit else unit - 40 }
    let s := s.swingGone 2 0
    s.putRot 2 0 { s.ro 2 0 with cursor := 0 }
  else s.swingGone c 0

/-- A wire repair: the next spare of its group takes the wire's place (R451, R464). -/
def State.bootWire (s : State) (tile dir g : Nat) : State :=
  let k := (tile * 2 + dir) * 20 + g
  let s := { s with wireLost := Store.put (fun _ => 0) k (Store.get (fun _ => 0) s.wireLost k + 1) s.wireLost }
  s.setFld pgRot D2D_REP_spares (s.fld pgRot D2D_REP_spares tile + 1) tile

/-- A stored repair record is applied (R464). -/
def State.bootRecord (s : State) (r : WearRec) : State :=
  let count := fun (s : State) => s.bump pgBoot BOOT_REP_applied
  match r.type, r.what with
  | 0x11, [ch, dev] => count (s.setFld (pgDrc ch 2) DPR_RETIRE_dev dev)
  | 0x13, [c, unit] => count (s.bootSwing c unit)
  | 0x14, [tile, dir, g, _] => count (s.bootWire tile dir g)
  | _, _ => s

/-- The records of the repair area that are valid: none if it cannot be read. -/
def State.bootRecords (s : State) (b : BootIn) : List (Nat × WearRec) :=
  if b.repairsOk then (s.repairs.mapIdx (fun i r => (i, r))).filter (fun e => !b.badRecs.contains e.1) else []

/-- Step 3: the board region and the repair area are read (R464, R466). Every lane slice has been calibrated by then, before any
lane is woken (R75). -/
def State.bootRepairs (s : State) (b : BootIn) : State :=
  let s := s.setFld pgWear WEAR_BASE_h s.hourTop
  let s := [3, 4, 5, 6].foldl (fun s c => s.setFld pgRot ROT_CLS_STAT_free (clsSpares c - 1) c) s
  let s := if b.boardOk then s else s.err pgBoot 0x151
  let s := if b.repairsOk then s else s.err pgBoot 0x153
  let s := (s.bootRecords b).foldl (fun s e => s.bootRecord e.2) s.calAll
  if b.layoutOk then
    let s := (List.range 8).foldl (fun s n => (b.tims.take 3).zipIdx.foldl (fun s e =>
      (s.setWord (pgDrc n 0 + 0x120 + 4 * e.2) e.1).setLword (pgDrc n 0 + 0x120 + 4 * e.2) e.1) s) s
    s.setBit pgBoot BOOT_STAT_layout_ok true
  else s.err pgBoot 0x152

/-! ### Step 5: DRAM training (R383) -/

/-- Device d of channel n. -/
def bootDev (b : BootIn) (n d : Nat) : BootDev := b.devs.getD (10 * n + d) {}

/-- Device d of channel n fails training: an eye too narrow, or another density than device 0 of channel 0. -/
def State.trainFails (s : State) (b : BootIn) (n d : Nat) : Bool :=
  let v := bootDev b n d
  let least := s.lv (pgDrc n 1) DRC_TRN_min
  v.rdR.val - v.rdL.val < least || v.wrR.val - v.wrL.val < least || v.dens != (bootDev b 0 0).dens

/-- Device d of channel n takes its delays. -/
def State.trainDev (s : State) (b : BootIn) (n d : Nat) : State :=
  let v := bootDev b n d
  let p := pgDrc n 1
  let wr := (v.wrL.val + v.wrR.val) / 2
  let s := ((s.setFld p DRC_DLY_wr0 wr d).setFld p DRC_DLY_wr wr d).setFld p DRC_DLY_rd ((v.rdL.val + v.rdR.val) / 2) d
  let s := (s.setFld p DRC_EYE_rd (v.rdR.val - v.rdL.val) d).setFld p DRC_EYE_wr (v.wrR.val - v.wrL.val) d
  if s.trainFails b n d then
    let s := s.setFld p DRC_TRN_STAT_fail (s.fld p DRC_TRN_STAT_fail ||| 2 ^ d)
    (s.irq p IRQ_drcTrn_train_fail).err p 0x100 none (some (16 * n + d))
  else s

/-- Channel n trains. A recorded retirement does not count; one device that fails beside it is retired, unless one is already;
with two the channel does not come up. -/
def State.trainChannel (s : State) (b : BootIn) (n : Nat) : State :=
  let p := pgDrc n 1
  let held := s.fld (pgDrc n 2) DPR_RETIRE_dev
  let s := (List.range 10).foldl (fun s d => s.trainDev b n d) s
  let s := (s.setBit p DRC_TRN_STAT_done true).irq p IRQ_drcTrn_trained
  let s := s.setCh n { s.ch n with refFrom := 100 * s.now, poll := s.now, track := s.now, scrubAt := s.now, stored := held }
  match (List.range 10).filter (fun d => s.trainFails b n d && d != held) with
  | [] => s.setChUp n true
  | [d] =>
    let s := if held = 15 then (s.setFld (pgDrc n 2) DPR_RETIRE_dev d).logRepair 0x11 [n, d] else s
    s.setChUp n true
  | _ => s

def State.bootTrain (s : State) (b : BootIn) : State :=
  let s := (List.range 8).foldl (fun s n => s.trainChannel b n) s
  let dens := (bootDev b 0 0).dens
  (s.setBit pgDrcG DRC_GLB_dens dens).setFld64 pgDrcG DRC_SIZE_lo DRC_SIZE_hi (if dens then 0x3000000000 else 0x2000000000)

/-! ### Step 6: hard repairs (R465) -/

/-- The row that a record of type 0x12 names, but for its kind. -/
def rowOf (r : WearRec) : Option (List Nat) := if r.type = 0x12 then some (r.what.take 5) else none

/-- The rows of a channel that have a soft record and no hard one, each once, with the position of the first such record. -/
def State.softRows (s : State) (b : BootIn) (n : Nat) : List (Nat × List Nat) :=
  let l := s.bootRecords b
  let hard := l.filterMap (fun e => if e.2.what.getD 5 0 = 1 then rowOf e.2 else none)
  l.foldl (fun (acc : List (Nat × List Nat)) (e : Nat × WearRec) =>
    match rowOf e.2 with
    | some (w : List Nat) =>
      if w.getD 0 8 == n && e.2.what.getD 5 0 == 0 && !hard.contains w && !acc.any (fun x => x.2 == w) then acc ++ [(e.1, w)] else acc
    | none => acc) []

/-- At most two rows of each channel are hard-repaired; the others, and those refused, are soft-repaired, which leaves no state
of the model. -/
def State.bootHard (s : State) (b : BootIn) : State :=
  ((List.range 8).flatMap (fun n => (s.softRows b n).take 2)).foldl (fun s e =>
    if b.refused.contains e.1 then (s.bump pgBoot BOOT_REP_hard_fail).err pgBoot 0x156
    else (s.bump pgBoot BOOT_REP_hard).logRepair 0x12 (e.2 ++ [1])) s

/-- The most repairs made in one channel. -/
def State.hardMost (s : State) (b : BootIn) : Nat := (List.range 8).foldl (fun m n => max m (min 2 (s.softRows b n).length)) 0

/-! ### Steps 7 and 8 (R404, R467, R480) -/

/-- The fill is complete: the fault pins and SVC_N follow their rules (R432). -/
def State.bootFilled (s : State) : State :=
  let s := { s with booted := true }
  if s.anyFatal then s else s.fatalClear

/-- The slots of class k in the order they are tried: those in Trial are Bad. -/
def State.slotOrder (s : State) (k : Nat) : List Nat :=
  let by_ := fun st => [0, 1].filter (fun i => (s.slot k i).st == st)
  let sort := fun (l : List Nat) => if (s.slot k 0).seq < (s.slot k 1).seq then l.reverse else l
  sort (by_ 3) ++ sort (by_ 1)

/-- The first slot of the list that passes; one that fails is Bad and captures 0x150. -/
def State.trySlots (s : State) (k : Nat) : List Nat → State × Option Nat
  | [] => (s, none)
  | i :: t =>
    if s.imagePasses (s.image k i) k (slotRoom k) then (s, some i)
    else ((s.setSlot k i { s.slot k i with st := 4 }).err pgBoot 0x150).trySlots k t

/-- The Stage Manager chooses and verifies the slot of class k, and runs it. -/
def State.bootClass (s : State) (k : Nat) : State × Option Nat :=
  let s := [0, 1].foldl (fun s i => s.setSlot k i (if (s.slot k i).st = 2 then { s.slot k i with st := 4 } else s.slot k i)) s
  match s.trySlots k (s.slotOrder k) with
  | (s, some i) => (s.setRun k (some i), some i)
  | (s, none) => (s, none)

/-- DEV_FWFATAL is set by the Stage Manager (R436). -/
def State.fwFatal (s : State) : State :=
  if s.bit pgDev DEV_FWFATAL_set then s
  else ((s.setBit pgDev DEV_FWFATAL_set true).irq pgDev IRQ_dev_fw_fatal).err pgDev 0x003

/-- A word of the board table is written and its page committed, with its CRC reference (R467); words for other pages than those
of lanes and ports are not part of the table. -/
def State.boardPage (s : State) (p : Nat) : State :=
  match pageOf p with
  | some (k, i) =>
    if k = .rxl ∨ k = .txl ∨ k = .ethCtl then (s.setWord (p + 0x34) (s.cfgCrc p k true)).commitPage p k i else s
  | none => s

def State.boardWord (s : State) (e : Nat × W32) : State :=
  match pageOf e.1 with
  | some (k, i) =>
    if k = .rxl ∨ k = .txl ∨ k = .ethCtl then (s.storeWord ⟨smMaster, true⟩ (pageBase e.1) k i (e.1 % 0x1000) e.2).s else s
  | none => s

def State.bootBoard (s : State) (b : BootIn) : State :=
  if b.boardOk then
    let s := b.board.foldl State.boardWord s
    let s := ((b.board.map (fun e => pageBase e.1)).dedup).foldl State.boardPage s
    s.setBit pgBoot BOOT_STAT_board_ok true
  else s

/-- The settings region is erased (R471, R472). -/
def State.eraseSettings (s : State) : State :=
  { s with flash := flashErase s.flash 0x010000 0x0F0000, upd := { s.upd with setBank := none, setKeep := none } }

/-- What the Stage Manager does once released, with the time each class takes. -/
def State.bootManager (s : State) (b : BootIn) : State :=
  if !b.fusesOk then
    let s := (s.err pgBoot 0x155).fwFatal
    ((s.setFld pgBoot BOOT_STAT_s 3).setFld pgBoot BOOT_STAT_m 3).setFld pgBoot BOOT_STAT_c 3
  else
    let s := if s.lcyWiped then s else { s.eraseSettings with lcyWiped := true }
    let s := s.setBit pgLcy LCY_STATE_debug s.debugFor
    let (s, r1) := s.bootClass 1
    let s := (s.setFld pgBoot BOOT_STAT_s (match r1 with | some i => i + 1 | none => 3)).bootRun b.tS
    let (s, r2) := s.bootClass 2
    let s := s.bootRun b.tM
    let s := match r2 with
      | some i => (s.setFld pgBoot BOOT_STAT_m (i + 1)).setFld64 pgBoot BOOT_MEDIA_UPT_lo BOOT_MEDIA_UPT_hi s.now
      | none => (s.setFld pgBoot BOOT_STAT_m 3).fwFatal
    let s := s.bootBoard b
    let (s, r3) := s.bootClass 3
    let s := s.bootRun b.tC
    match r3 with
    | some i =>
      let s := s.setFld pgBoot BOOT_STAT_c (i + 1)
      let s := (s.setFld64 pgPrc CRW_BOOT_lo CRW_BOOT_hi s.free64.toNat).fresh
      (s.crewSet 15).setFld64 pgBoot BOOT_CREW_UPT_lo BOOT_CREW_UPT_hi s.now
    | none => s.setFld pgBoot BOOT_STAT_c 3

/-! ### The sequence (R463) -/

/-- The longest time of the fill, in TICKs (R463). -/
def fillMost (b : BootIn) : Nat := if (bootDev b 0 0).dens then 347287500 else 231525000

/-- The times given keep within the longest times of R463. -/
def State.bootTimes (s : State) (b : BootIn) : Bool :=
  b.tPll ≤ 661500 && b.tRep ≤ 992250 && b.tLinks ≤ 661500 && b.tTrain ≤ 33075000 && b.tHard ≤ 661500000 * s.hardMost b &&
    b.tFill ≤ fillMost b

/-- The start-up sequence, from a device held in reset. -/
def State.bootUp (s : State) (b : BootIn) : State :=
  let s := { s with low := false }
  let s := (s.bootFuses).bootPlls b.tPll
  let s := (s.bootRepairs b).bootRun (b.tRep + b.tLinks)
  let s := ((s.bootTrain b).bootRun b.tTrain)
  let s := ((s.bootHard b).bootRun (b.tHard + b.tFill)).bootFilled
  (s.bootManager b).logTod

/-! ### Lifecycle (R471, R472) -/

/-- The transition is in the table. -/
def lcyAllowed (src tgt : Nat) : Bool := (src < 3 && tgt == src + 1) || (src < 4 && tgt == 4)

/-- A request is refused. -/
def State.lcyRefuse (s : State) (r : Nat) : State := ((s.setFld pgLcy LCY_RESP_res r).err pgLcy 0x154).newNonce

/-- The signature of a request block verifies for its transition. -/
def State.lcySigned (s : State) (src tgt block : Nat) : Bool :=
  let digest := Config.sha384 (s.load block 176)
  let sig := s.load (block + 176) 96
  let vendor := Config.requestSigned Config.vendorHash sig digest
  let oem := match s.oemHash with
    | some h => Config.requestSigned h sig digest
    | none => false
  if tgt = 4 then vendor || oem
  else if src = 0 then true
  else if src = 1 then oem
  else vendor

/-- A transition is made as far as steps says: 1 the entered bit blown, 2 the settings erased, 3 the wiped bit blown, 4 the
device reset. An OEM key hash, if given, is fused with the entered bit. -/
def State.lcyMove (s : State) (tgt steps : Nat) (hash : Option (List Byte)) : State :=
  let s := s.setBit pgLcy LCY_STATE_wiping true
  let s := if 1 ≤ steps then
      let s := { s.setFld pgLcy LCY_STATE_state tgt with lcyWiped := false, oemHash := if hash.isSome then hash else s.oemHash }
      s.setBit pgLcy LCY_STATE_oem s.oemHash.isSome
    else s
  let s := if 2 ≤ steps then s.eraseSettings else s
  let s := if 3 ≤ steps then { s with lcyWiped := true } else s
  let s := (s.setFld pgLcy LCY_RESP_res 1).newNonce
  if 4 ≤ steps then s.coldStart else s

/-- A transition or an update is running. -/
def State.lcyBusy (s : State) : Bool :=
  s.bit pgLcy LCY_STATE_wiping || s.fld pgUpd UPD_STAT_trial != 0 || s.bit pgUpd UPD_STAT_sched || s.bit pgUpd UPD_STAT_pause

/-- Command 0x01: the request block is checked, and the transition made or refused (R472). -/
def State.lifecycle (s : State) (block steps : Nat) : State :=
  let tgt := s.loadLE block 1
  if s.lcyBusy then s.lcyRefuse 5
  else if !lcyAllowed s.lcy tgt then s.lcyRefuse 4
  else if s.load (block + 16) 16 ≠ s.uid ∨ s.loadLE (block + 32) 8 ≠ s.fld64 pgLcy LCY_NONCE_lo LCY_NONCE_hi then s.lcyRefuse 3
  else if !s.lcySigned s.lcy tgt block then s.lcyRefuse 2
  else s.lcyMove tgt steps (if tgt = 1 then some (s.load (block + 48) 48) else none)

/-- LCY_REQ is written: with go the Stage Manager makes the transition that the table allows; the OEM key hash is then not
given by the rule. -/
def State.lcyWrite (s : State) (a : Acc) (o : Nat) (w : W32) : State :=
  let r := s.storeWord a pgLcy .lcy 0 o w
  if r.ok && o == 0x130 && r.eff.getLsbD 31 then
    let s := r.s
    let tgt := s.fld pgLcy LCY_REQ_target
    if s.lcyBusy then s.lcyRefuse 5
    else if !lcyAllowed s.lcy tgt then s.lcyRefuse 4
    else
      let hash := (List.range 48).map (fun i => (Config.freeWord (s.free + i)).extractLsb' 0 8)
      if tgt = 1 then { s with free := s.free + 48 }.lcyMove tgt 4 (some hash) else s.lcyMove tgt 4 none
  else r.s

/-- The codes of commands that the Stage Manager knows (R475, R481). -/
def knownCode (c : Nat) : Bool := c == 0x01 || (0x10 ≤ c && c ≤ 0x15)

/-! ### The commands -/

/-- RESET_ASSERT (R500). -/
def execResetAssert (s : State) : Out := .next s.coldStart

/-- OSC54_LOSS (R500). -/
def execOsc54Loss (s : State) : Out := .next s.coldStart

/-- RESET_RISE (R463): ill-formed with times beyond R463's. A device that has started and is not in reset sees no edge. -/
def execResetRise (b : BootIn) (s : State) : Out :=
  if s.coldStart.bootTimes b then .next (if s.low || !s.booted then s.coldStart.bootUp b else s) else .fault .illFormed

/-- DEVICE_RESET_WRITE (R470): BOOT_CTL written as a word. -/
def execDeviceResetWrite (a : Acc) (word : W32) (s : State) : Out := run s fun s =>
  s.viaPath a (pgBoot + 0x100) fun s => s.bootWrite a 0x100 word

/-- LIFECYCLE_REQUEST (R472, R475). -/
def execLifecycleRequest (src : CmdSrc) (page : Nat) (steps : Fin 5) (s : State) : Out := run s fun s =>
  s.command src (· == 0x01) 0x01 page fun s b => s.lifecycle b steps

/-- UNKNOWN_COMMAND (R475). -/
def execUnknownCommand (src : CmdSrc) (code : Fin 256) (page : Nat) (s : State) : Out := run s fun s =>
  if knownCode code then s else s.command src (fun c => !knownCode c) code page fun s _ => s.setFld pgLcy LCY_RESP_res 6

end Sys2Proof.Machine
end

