-- ==== Sys2Proof/Machine/PageOps.lean ====
section
/-!
DEFINITION. Page commands (R42 to R64): soft resets, snapshots, forced interrupts, release of the capture, counter reads, and
the configuration check passes.
-/
namespace Sys2Proof.Machine

/-! ### Snapshots (R53, R54) -/

/-- Counts that run with time are brought up to the present uptime: the bits of a lane (R78, R79). -/
def State.settlePage (s : State) (k : PageKind) (i : Nat) : State :=
  match k with
  | .rxl => s.rxSettle i
  | .txl => s.txSettle i
  | _ => s

/-- A snapshot request of one page by PAGE_CTL.snap. One made while the device-wide snapshot is in progress, or in its cycle
(merged), is merged with it: that snapshot stands for both (R52, R53). -/
def State.pageSnap (s : State) (p : Nat) (k : PageKind) (i : Nat) (merged : Bool) : State :=
  if k.snap && (s.snapPages || (merged && s.snapDue.isSome)) then s else (s.settlePage k i).snapshot p k s.now false

/-! ### Soft reset (R62, R469, R470) -/

/-- Clears the live counters of a page. -/
def State.clearCounters (s : State) (p : Nat) (k : PageKind) : State :=
  (counterOffs k).foldl (fun s o => s.setWord (p + o) 0) s

/-- A Platform of the page returns to Source-lost: its rail carries no established format, with no black hold. -/
def State.platReset (s : State) (r : Nat) : State :=
  if s.plv r PLT_CFG_en = 1 then
    let s := s.setPt r {}
    (((s.setPst r PLT_STAT_state ptLost).setPst r PLT_STAT_holding 0).setPst r PLT_RES_cues 0)
  else s

/-- A synchroniser unit that is enabled or claimed returns to Starting. -/
def State.synReset (s : State) (k : Nat) : State := if s.synState k = synOff then s else s.synStart k

/-- GPI inputs that are enabled return to Armed or Fired; the result FIFO is emptied. -/
def State.ttReset (s : State) : State :=
  let s := { s with results := [] }.setFld pgCq TT_CQ_RES_LEVEL_n 0
  (List.range 16).foldl (fun s n =>
    if s.bit pgGpio TT_GPI_en n then s.setGp n { st := (s.gpiOn n).toNat } else s) s

/-- The Twin Link is reset, and its replay store emptied (R354). -/
def State.twinReset (s : State) : State :=
  let s := { s with twinOut := [], twinSeq := 0 }.bump pgTwin TWN_RESET_n
  let s := s.setPair { s.pair with rxSeq := 0, asked := false, replayed := [], xferSent := false }
  if s.twinUp then s.twinDown else s

/-- What a soft reset of a page returns to reset (R62). -/
def State.resetBlock (s : State) (p : Nat) (k : PageKind) (i : Nat) : State :=
  match k with
  | .pll => s.setFld p PLL_ERR_val 0
  | .refIn =>
    let s := (s.setFld p REF_IN_CNT_acc 0).setFld p REF_IN_CNT_rej 0
    (if s.refEnabled i then (s.setRefState i riInactive).setRi i {} else s).refRecheck
  | .rxl => ((s.rxAbort i).rxDrop i).rxStart i
  | .txl => s.txAbort i
  | .quad => (List.range 4).foldl (fun s j => s.platReset (4 * i + j)) s
  | .synQuad => (List.range 4).foldl (fun s j => s.synReset (4 * i + j)) s
  | .ttCtl | .ttCue | .ttSm | .ttTcnt | .ttTcls | .ttGpio | .tap => s.ttReset
  | .pitCtl | .pitWin | .pitTake => { s with pitIn := [] }
  | .twin => s.twinReset
  | _ => s

/-- PAGE_CTL.reset is written: the block's state, its live counters, and PAGE_STAT.reset_busy until the block runs again. -/
def State.softReset (s : State) (p : Nat) (k : PageKind) (i : Nat) : State :=
  let s := ((s.settlePage k i).commitAborts k i).resetBlock p k i
  (s.clearCounters p k).setBit p PAGE_STAT_reset_busy true

/-- The block runs again; a Platform whose source delivers starts detection. -/
def State.softResetEnd (s : State) (p : Nat) (k : PageKind) (i : Nat) : State :=
  if s.bit p PAGE_STAT_reset_busy then
    let s := s.setBit p PAGE_STAT_reset_busy false
    match k with
    | .quad => (List.range 4).foldl (fun s j => s.srcBack (4 * i + j)) s
    | _ => s
  else s

/-! ### PAGE_CTL (R45, R53, R62, R63) -/

/-- What a write of PAGE_CTL does beyond storing the word: parity first, then a snapshot, then a soft reset (log entry 13). -/
def State.pageCtlHook (s : State) (p : Nat) (k : PageKind) (i : Nat) (old eff : W32) (merged : Bool) : State :=
  let s := s.parityChange p k (old.getLsbD 2)
  let s := s.when (eff.getLsbD 3) (fun s => s.pageSnap p k i merged)
  s.when (eff.getLsbD 1) (fun s => s.softReset p k i)

/-- A write of PAGE_CTL by a master with a path. -/
def State.pageCtlWrite (s : State) (a : Acc) (p : Nat) (k : PageKind) (i : Nat) (w : W32) (merged : Bool) : State :=
  s.viaPath a (p + 8) fun s =>
    let r := s.storeWord a p k i 8 w
    if r.ok then r.s.pageCtlHook p k i r.old r.eff merged else r.s

/-- The word of PAGE_CTL with some of its request bits set, its other fields as they stand. -/
def State.ctlWith (s : State) (p : Nat) (bits : W32) : W32 := s.word (p + 8) ||| bits

/-! ### The commands -/

/-- SOFT_RESET (R62): PAGE_CTL written with reset set. -/
def execSoftReset (a : Acc) (page : Nat) (s : State) : Out := onPage page s fun p k i s =>
  s.pageCtlWrite a p k i (s.ctlWith p 2) false

/-- SOFT_RESET_DONE (R62). -/
def execSoftResetDone (page : Nat) (s : State) : Out := onPage page s fun p k i s => s.softResetEnd p k i

/-- PAGE_SNAPSHOT (R53): PAGE_CTL written with snap set; merged: in the cycle of the device-wide snapshot. -/
def execPageSnapshot (a : Acc) (page : Nat) (merged : Bool) (s : State) : Out := onPage page s fun p k i s =>
  s.pageCtlWrite a p k i (s.ctlWith p 8) merged

/-- PARITY_MODE_SET (R63). -/
def execParityModeSet (a : Acc) (page : Nat) (on : Bool) (s : State) : Out := onPage page s fun p k i s =>
  s.pageCtlWrite a p k i (setBits (s.word (p + 8)) 2 1 on.toNat) false

/-- A write of DEV_SNAPALL_CTL, beyond storing the word: now first, then arm (log entry 13). -/
def State.snapHook (s : State) (eff : W32) : State :=
  let s := s.when (eff.getLsbD 1) (fun s => { s with snapNow := some s.now })
  s.when (eff.getLsbD 0) (fun s => s.armSnap)

def State.snapCtl (s : State) (a : Acc) (w : W32) : State :=
  s.viaPath a (pgDev + 0x200) fun s =>
    let r := s.storeWord a pgDev .dev 0 0x200 w
    if r.ok then r.s.snapHook r.eff else r.s

/-- SNAPALL_ARM (R54, R55). -/
def execSnapallArm (a : Acc) (s : State) : Out := run s fun s => s.snapCtl a 1

/-- SNAPALL_NOW (R54). -/
def execSnapallNow (a : Acc) (s : State) : Out := run s fun s => s.snapCtl a 2

/-- SNAPALL_TARGET (R54): every page that has counters copies them at the target. -/
def State.snapAll (s : State) : State :=
  match s.snapDue with
  | some t =>
    let s := snapPagesAll.foldl (fun s e => (s.settlePage e.2.1 e.2.2).snapshot e.1 e.2.1 t true) s
    { s with snapPages := true, snapNow := none, snapArmed := s.snapArmed && s.now < s.snapT }
  | none => s

def execSnapallTarget (s : State) : Out := run s fun s => s.snapAll

/-- SNAPALL_DONE (R54). -/
def execSnapallDone (s : State) : Out := run s fun s => s.snapDone

/-- IRQ_FORCE_WRITE (R47); hw: the same source fires in the cycle (R52). -/
def execIrqForceWrite (a : Acc) (page : Nat) (word : W32) (hw : Option HwErr) (s : State) : Out := onPage page s fun p k i s =>
  s.viaPath a (p + 0x18) fun s =>
    let r := s.storeWord a p k i 0x18 word
    if r.ok then r.s.force a p r.eff hw else r.s

/-- FERR_RELEASE (R426); clash: a new error in the cycle (R52). -/
def execFerrRelease (a : Acc) (page : Nat) (clash : Option HwErr) (s : State) : Out := onPage page s fun p k i s =>
  s.viaPath a (p + 0x1C) fun s =>
    let r := s.storeWord a p k i 0x1C 0x80000000
    if r.ok then r.s.release p clash else r.s

/-- The snapshot of a page that a counter read meets in its cycle (R52): the device-wide one is its own command. -/
def State.clashSnap (s : State) (p : Nat) (k : PageKind) (i : Nat) : State :=
  if k.snap && (s.snapPages || s.snapDue.isSome) then s else (s.settlePage k i).snapshot p k s.now false

/-- A clear-on-read counter as read (R49, R52, R62): the value before, what it holds after; while the block's soft reset goes on
it reads zero. A live counter that meets a snapshot of the page reads zero, and the holding copy has its whole count; FERR_COUNT
has no holding copy. -/
def State.rcRead (s : State) (p : Nat) (k : PageKind) (i o : Nat) (clash : RcClash) : State × W32 :=
  if s.bit p PAGE_STAT_reset_busy then (s, 0)
  else match clash with
    | .none => (s.setWord (p + o) 0, s.word (p + o))
    | .increment n => (s.setWord (p + o) (BitVec.ofNat 32 (min n (2 ^ 32 - 1))), s.word (p + o))
    | .snapshot =>
      let t := s.clashSnap p k i
      if o < 0x800 then (t.setWord (p + o) 0, s.word (p + o)) else (t, 0)

/-- A 64-bit counter of logical port lp (R124): the low word latches the high word for the master and clears both; the high
word returns what was latched. The counters of a port that does not exist read zero (R123). -/
def State.statRead (s : State) (m p lp o : Nat) (clash : RcClash) : State × W32 :=
  if o % 8 ≠ 0 then (s, if s.lpExists lp then s.mreg m (p + o) else 0)
  else if s.bit p PAGE_STAT_reset_busy || !s.lpExists lp then (s.setMreg m (p + o + 4) 0, 0)
  else match clash with
    | .snapshot => ((s.clashSnap p .ethStat lp).setMreg m (p + o + 4) 0, 0)
    | .none => (((s.setWord (p + o) 0).setWord (p + o + 4) 0).setMreg m (p + o + 4) (s.word (p + o + 4)), s.word (p + o))
    | .increment n =>
      let v := min n (2 ^ 64 - 1)
      (((s.setWord (p + o) (BitVec.ofNat 32 v)).setWord (p + o + 4) (BitVec.ofNat 32 (v / 2 ^ 32))).setMreg m (p + o + 4)
        (s.word (p + o + 4)), s.word (p + o))

/-- A counter as a master reads it, its count brought up to the present. -/
def State.countRead (s : State) (m p : Nat) (k : PageKind) (i o : Nat) (clash : RcClash) : State × W32 :=
  if k = .ethStat ∧ 0x800 ≤ o then s.statRead m p i o clash else (s.settlePage k i).rcRead p k i o clash

/-- RC_COUNTER_READ (R49, R52). -/
def execRcCounterRead (a : Acc) (addr : Nat) (clash : RcClash) (s : State) : Out :=
  match pageOf addr with
  | some (k, i) =>
    if addr % 4 = 0 ∧ isCounter k (addr % 0x1000) then run s fun s =>
      s.viaRead a addr fun s =>
        let r := s.countRead a.m (pageBase addr) k i (addr % 0x1000) clash
        (r.1, s.readMask a k i (addr % 0x1000) r.2)
    else .fault .illFormed
  | none => .fault .illFormed

/-- CFG_CRC_PASS (R60): upsets come before the pass. -/
def execCfgCrcPass (page : Nat) (upsets : List Upset) (s : State) : Out := onPage page s fun p k _ s =>
  (upsets.foldl (fun s u => s.upset p u) s).crcPass p k

/-- PARITY_CHECK_PASS (R63): upsets come before the pass. -/
def execParityCheckPass (page : Nat) (upsets : List Upset) (s : State) : Out := onPage page s fun p k _ s =>
  (upsets.foldl (fun s u => s.upset p u) s).parityPass p k

end Sys2Proof.Machine
end

