-- ==== Sys2Proof/Machine/Access.lean ====
section
/-!
DEFINITION. Register accesses of any size (R42 to R52): which block a write reaches, and what a read returns.
-/
namespace Sys2Proof.Machine

/-! ### Writes of blocks that have no file of their own for them -/

/-- DMA_CTL is written (R419). go: ignored with 0x143 while busy, else the chain starts; abort: the engine's master is reset and
the chain ends without a write-back (R418). go is looked at first (log entry 83). -/
def State.dmaHook (s : State) (a : Acc) (n : Nat) (eff : W32) : State :=
  let p := pgDma n
  let s := if eff.getLsbD 0 then
      if s.bit p DMA_STAT_busy then s.accErr p 0x143 a accWrite (p + 0x100)
      else
        let s := (s.setBit p DMA_STAT_busy true).setBit p DMA_STAT_priv (s.privileged a)
        s.setFld64 p DMA_CUR_lo DMA_CUR_hi (s.fld64 p DMA_DESC_lo DMA_DESC_hi)
    else s
  if eff.getLsbD 1 && s.bit p DMA_STAT_busy then ((s.masterReset (0x10 + n)).setBit p DMA_STAT_busy false).irq p IRQ_dma_aborted else s

def State.dmaWrite (s : State) (a : Acc) (n o : Nat) (w : W32) : State :=
  let r := s.storeWord a (pgDma n) .dma n o w
  if r.ok && o == 0x100 then r.s.dmaHook a n r.eff else r.s

/-- A GPI register is written: a change of polarity that changes whether the input is active is an edge (R199). -/
def State.gpioWrite (s : State) (a : Acc) (o : Nat) (w : W32) : State :=
  let r := s.storeWord a pgGpio .ttGpio 0 o w
  if r.ok && o < 0x180 && o % 8 == 0 then
    let n := (o - 0x100) / 8
    let was := s.gpiOn n
    if r.s.gpiOn n = was then r.s.setGp n (r.s.gp n)
    else
      let s := r.s.setGpiOn n was
      if was then s.gpiFall n else s.gpiRise n
  else r.s

/-- The device page. -/
def State.devWrite (s : State) (a : Acc) (o : Nat) (w : W32) (hw : Option W32) : State :=
  if 0x300 ≤ o then s.faultWrite a o w hw
  else
    let r := s.storeWord a pgDev .dev 0 o w hw
    if r.ok && o == 0x200 then r.s.snapHook r.eff
    else if r.ok && o == 0x210 && r.eff.getLsbD 0 then r.s.commitDevice
    else r.s

/-- The common header (R45): its requests act beyond the store. -/
def State.headerWrite (s : State) (a : Acc) (p : Nat) (k : PageKind) (i o : Nat) (w : W32) (hw : Option W32) : State :=
  let r := s.storeWord a p k i o w hw
  if r.ok then
    if o = 0x08 then r.s.pageCtlHook p k i r.old r.eff false
    else if o = 0x10 then (r.s.unforce p).lineFall (p / 0x1000)
    else if o = 0x14 then r.s.lineFall (p / 0x1000)
    else if o = 0x18 then r.s.force a p r.eff none
    else if o = 0x1C then (if r.eff.getLsbD 31 then r.s.release p none else r.s)
    else if o = 0x3C then r.s.commitHook p k i r.eff
    else r.s
  else r.s

/-! ### A register, whole -/

/-- A unit is out of service for rotation's test, so that its macros may be repaired (R403, R452). -/
def State.someOut (s : State) : Bool := s.rot.any (fun e => e.2.st == 2)

/-- A write of a whole register of the page at p beyond its header; hw, what the hardware sets in the same cycle (R52). -/
def State.blockWrite (s : State) (a : Acc) (p : Nat) (k : PageKind) (i o : Nat) (w : W32) (hw : Option W32) : State :=
  match k with
  | .dev => s.devWrite a o w hw
  | .cue => s.cueWrite a o w hw
  | .refIn => s.refWrite a i o w hw
  | .clkCtl => s.clkWrite a o w
  | .pll => s.pllWrite a i o w
  | .cbRing =>
    let r := s.storeWord a p k i o w hw
    if r.ok then r.s.cbrHook s a o r.old else r.s
  | .pair => s.pairWrite a o w
  | .prc => s.prcWrite a o w
  | .dma => s.dmaWrite a i o w
  | .intc => s.intWrite a o w
  | .rxl => s.rxWrite a i o w hw
  | .txl => s.txWrite a i o w
  | .ethCtl => s.ethWrite a i o w hw
  | .ethRing => s.ringWrite a i o w
  | .flr => s.flowWrite a false o w hw
  | .flt => s.flowWrite a true o w hw
  | .ttCue => s.cqWrite a o w
  | .ttSm => s.smWrite a o w
  | .ttGpio => s.gpioWrite a o w
  | .tap => s.tapWrite a i o w hw
  | .proRas | .proLay | .proBlend =>
    let r := s.storeWord a p k i o w hw
    if r.ok then r.s.proHook k i o r.eff hw else r.s
  | .pitWin => s.pitWinWrite a o w hw
  | .pitTake => s.pitTakeWrite a o w
  | .tdm => s.tdmWrite a i o w
  | .tdmTrig => s.trigWrite a o w hw
  | .dpr => s.dprWrite a i o w ((hw.map (fun h => getBits h 0 4)).filter (· < 10))
  | .ppr => s.pprWrite a i o w
  | .dflip => s.dflipWrite a i o w
  | .srm => s.srmWrite a o w s.someOut
  | .wear => s.wearWrite a o w
  | .lcy => s.lcyWrite a o w
  | .boot => s.bootWrite a o w
  | .upd => s.updWrite a o w
  | _ => (s.storeWord a p k i o w hw).s

/-- A whole write of the register at a BAR0 address that is a multiple of 4. -/
def State.regWrite (s : State) (a : Acc) (addr : Nat) (w : W32) (hw : Option W32) : State :=
  match pageOf addr with
  | some (k, i) =>
    let p := pageBase addr
    let o := addr % 0x1000
    if !definedAt k o then s.accErr pgDev 0xF08 a accWrite addr
    else if o < 0x100 then s.headerWrite a p k i o w hw
    else s.blockWrite a p k i o w hw
  | none => s.accErr pgDev 0xF08 a accWrite addr

/-- A register kept as a read latch for each master (R39, R102, R122, R192, R339). -/
def latched (k : PageKind) (o : Nat) : Bool :=
  match k with
  | .cue => o == 0x104 || (0x114 ≤ o && o < 0x128)
  | .defr => 0x134 ≤ o && o < 0x144
  | .ethPtp => 0x114 ≤ o && o < 0x12C
  | .ttCue => 0x134 ≤ o && o < 0x140
  | .cbRing => 0x124 ≤ o && o < 0x140
  | _ => false

/-- A media clock of the block is stopped (R13): that of a lane that is unlocked or asleep. -/
def State.stopped (s : State) (k : PageKind) (i : Nat) : Bool :=
  match k with
  | .rxl | .defr => !s.bit (pgRxl i) RXL_STAT_lock
  | .txl | .fmt => !s.bit (pgTxl i) TXL_STAT_awake
  | _ => false

/-- PAGE_STAT as it reads: snap_busy while the device-wide snapshot is in progress, from its target to its completion (R54). -/
def State.pageStat (s : State) (p : Nat) (k : PageKind) (i : Nat) : W32 :=
  let w := setBits (s.word (p + 0xC)) 0 1 (s.bit p PAGE_CTL_enable && !s.bit p PAGE_STAT_reset_busy).toNat
  let w := setBits w 5 1 (s.snapPages && k.snap).toNat
  setBits (setBits w 6 1 (s.stopped k i).toNat) 7 1 (s.fatalLine p k i).toNat

/-- REF_IN_STAT as it reads: eligible, selected, target (R308, R309). -/
def State.refStat (s : State) (i : Nat) : W32 :=
  let w := setBits (s.word (pgRef i + 0x140)) 4 1 (s.refEligible i).toNat
  setBits (setBits w 5 1 (s.refSelIn == i).toNat) 6 1 (s.refTgt == i).toNat

/-- What a read finds in a defined register, and what it changes. -/
def State.blockRead (s : State) (a : Acc) (p : Nat) (k : PageKind) (i o : Nat) : State × W32 :=
  if o = 0x0C then (s, s.pageStat p k i)
  else if isCounter k o then s.countRead a.m p k i o .none
  else if perMaster k o || latched k o then (s, s.mreg a.m (p + o))
  else match k with
  | .dev =>
    if o = 0x210 then (s.commitShow, s.commitShow.word (p + o)) else if o = 0x300 then (s, s.fltStat) else (s, s.word (p + o))
  | .cue => if o = 0x100 then s.latchUpt a.m else if o = 0x110 then s.latchTod a.m else (s, s.word (p + o))
  | .refIn => if o = 0x140 then (s, s.refStat i) else (s, s.word (p + o))
  | .cbRing => if o = 0x120 then s.popBeacon a.m else (s, s.word (p + o))
  | .intc =>
    if o = 0x104 then (s, s.routeWord)
    else if o = 0x140 then (s, s.vpend false) else if o = 0x144 then (s, s.vpend true) else (s, s.word (p + o))
  | .defr => if o = 0x130 then s.latchTc a.m i else (s, s.word (p + o))
  | .ethPtp => if o = 0x110 then s.popStamp a.m i else (s, s.word (p + o))
  | .ttCue => if o = 0x130 then s.popResult a.m else (s, s.word (p + o))
  | .ttSm => if o = 0x104 then s.smRead a else (s, s.word (p + o))
  | .wear => if o = 0x104 then (s, BitVec.ofNat 32 s.hours) else (s, s.word (p + o))
  | _ => (s, s.word (p + o))

/-- A read of the register at a BAR0 address that is a multiple of 4: none where nothing is there (R43). -/
def State.regRead (s : State) (a : Acc) (addr : Nat) : State × Option W32 :=
  match pageOf addr with
  | some (k, i) =>
    let o := addr % 0x1000
    if !definedAt k o then (s.accErr pgDev 0xF08 a accRead addr, none)
    else
      let r := s.blockRead a (pageBase addr) k i o
      (r.1, some (s.readMask a k i o r.2))
  | none => (s.accErr pgDev 0xF08 a accRead addr, none)

/-! ### An access of any size (R42) -/

/-- The bytes of an access that fall in the register at word address w, with their first byte's place in the access. -/
def partOf (addr n w : Nat) : Nat × Nat :=
  let lo := max addr (4 * w)
  (lo - addr, min (addr + n) (4 * w + 4) - lo)

/-- The registers that an access of n bytes touches, in ascending order, by word address. -/
def touched (addr n : Nat) : List Nat := if n = 0 then [] else List.range' (addr / 4) ((addr + n - 1) / 4 - addr / 4 + 1)

/-- A write narrower than its register is ignored and logged in the page (R42). -/
def State.narrow (s : State) (a : Acc) (w : Nat) : State :=
  match pageOf (4 * w) with
  | some (k, _) =>
    if definedAt k (4 * w % 0x1000) then s.accErr (pageBase (4 * w)) 0xF03 a accWrite (4 * w) else s.accErr pgDev 0xF08 a accWrite (4 * w)
  | none => s.accErr pgDev 0xF08 a accWrite (4 * w)

/-- A write of bytes from a BAR0 address: each register touched on its own. -/
def State.regStore (s : State) (a : Acc) (addr : Nat) (bytes : List Byte) (hw : Option W32) : State :=
  (touched addr bytes.length).foldl (fun s w =>
    let q := partOf addr bytes.length w
    if q.2 = 4 then
      s.regWrite a (4 * w) (BitVec.ofNat 32 (ofBytesLE ((bytes.drop q.1).take 4))) (if bytes.length = 4 then hw else none)
    else s.narrow a w) s

/-- A read of n bytes: the bytes, and whether every register was there. -/
def State.regLoad (s : State) (a : Acc) (addr n : Nat) : State × List Byte × Bool :=
  (touched addr n).foldl (fun acc w =>
    let lo := max addr (4 * w)
    let q := partOf addr n w
    let r := acc.1.regRead a (4 * w)
    (r.1, acc.2.1 ++ ((bytesOf (r.2.getD 0)).drop (lo - 4 * w)).take q.2, acc.2.2 && r.2.isSome)) (s, [], true)

/-- The answer of a register read: a register that is not there reads zero to the PCIe host, and gives any other master a bus
error (R43). -/
def State.answerLoad (r : State × List Byte × Bool) (m : Nat) : State :=
  if r.2.2 || m == hostMaster then r.1.answer m .ok r.2.1 else r.1.answer m .busError []

/-! ### The commands -/

/-- REGISTER_WRITE (R42): from a BAR0 address; hw, what the hardware sets in the same cycle (R52). -/
def execRegisterWrite (a : Acc) (addr : Nat) (bytes : List Byte) (hw : Option W32) (s : State) : Out :=
  if addr + bytes.length ≤ 0x4000000 then runRails s fun s => s.viaPath a addr fun s => s.regStore a addr bytes hw
  else .fault .illFormed

/-- UNMAPPED_ACCESS (R43): of four bytes; an address at which a register lies is not this event. -/
def execUnmappedAccess (a : Acc) (addr : Nat) (isWrite : Bool) (s : State) : Out := run s fun s =>
  let there : Bool := match pageOf addr with
    | some (k, _) => definedAt k (addr % 0x1000 / 4 * 4)
    | none => false
  if there || !s.issues a.m then s
  else if !regPath a then s.noPath a isWrite addr
  else
    let s := s.accErr pgDev 0xF08 a (if isWrite then accWrite else accRead) addr
    if isWrite then s.answer a.m .ok []
    else if a.m = hostMaster then s.answer a.m .ok [0, 0, 0, 0]
    else s.answer a.m .busError []

end Sys2Proof.Machine
end

