-- ==== Sys2Proof/Machine/Dma.lean ====
section
/-!
DEFINITION. The DMA engines (R419) and the requests of the PCIe host (R420).
-/
namespace Sys2Proof.Machine

/-! ### What a DMA engine reads and writes (R413, R414, R419) -/

/-- The pieces of a range that keep inside 4 KiB blocks, in ascending order. -/
def blocks : Nat → Nat → Nat → List (Nat × Nat)
  | 0, _, _ => []
  | fuel + 1, addr, n =>
    if n = 0 then []
    else
      let k := min n (4096 - addr % 4096)
      (addr, k) :: blocks fuel (addr + k) (n - k)

def blocksOf (addr n : Nat) : List (Nat × Nat) := blocks (n / 4096 + 2) addr n

/-- The access of engine n: its privilege is the channel's (R51). -/
def dmaAcc (n : Nat) : Acc := ⟨0x10 + n, false⟩

/-- A piece read: the bytes got, and the address that answered with a bus error, if any. stop: an address that does so for a reason
of its own; host: what host memory holds. -/
def State.dmaReadPiece (s : State) (n addr k : Nat) (stop : Option Nat) (host : List Byte) : State × List Byte × Option Nat :=
  let a := dmaAcc n
  let k' := match stop with | some x => if addr ≤ x ∧ x < addr + k then x - addr else k | none => k
  let bad : Option Nat := if k' < k then some (addr + k') else none
  match targetOf addr with
  | .dram =>
    let r := s.masterRead a.m addr k'
    (r.1, r.2.1, r.2.2.orElse (fun _ => bad))
  | .regs =>
    if addr % 4 ≠ 0 ∨ k % 4 ≠ 0 then (s.capture pgCat 0x144 accRead a.m addr, [], some addr)
    else
      let r := s.regLoad a (addr - regWindow) k'
      (r.1, r.2.1, if r.2.2 then bad else some addr)
  | .crewSram => (s, Memory.readAll s.crewSram (addr - crewBase) k', bad)
  | .plic => ((s.freeBytes k').1, (s.freeBytes k').2, bad)
  | .outbound => (s, (List.range k').map (fun i => host.getD i 0), bad)
  | .secure | .nowhere => (s.noPath a false addr, [], some addr)

/-- A piece written: the address that answered with a bus error, if any. -/
def State.dmaWritePiece (s : State) (n addr : Nat) (l : List Byte) (stop : Option Nat) : State × Option Nat :=
  let a := dmaAcc n
  let k := l.length
  let k' := match stop with | some x => if addr ≤ x ∧ x < addr + k then x - addr else k | none => k
  let bad : Option Nat := if k' < k then some (addr + k') else none
  let l := l.take k'
  match targetOf addr with
  | .dram =>
    let r := s.masterWrite a.m addr l
    (r.1, r.2.orElse (fun _ => bad))
  | .regs =>
    if addr % 4 ≠ 0 ∨ k % 4 ≠ 0 then (s.capture pgCat 0x144 accWrite a.m addr, some addr)
    else (s.regStore a (addr - regWindow) l none, bad)
  | .crewSram => ({ s with crewSram := Memory.writeAll s.crewSram (addr - crewBase) l }, bad)
  | .plic => (s, bad)
  | .outbound => ({ s with pcieOut := some (s.fld64 pgPcie PCIE_OUT_base_lo PCIE_OUT_base_hi + (addr - outBase), l) }, bad)
  | .secure | .nowhere => (s.noPath a true addr, none)

/-- A range read, up to the first bus error. -/
def State.dmaRead (s : State) (n addr len : Nat) (stop : Option Nat) (host : List Byte) : State × List Byte × Option Nat :=
  (blocksOf addr len).foldl (fun acc e =>
    if acc.2.2.isSome then acc
    else
      let r := acc.1.dmaReadPiece n e.1 e.2 stop (host.drop (e.1 - addr))
      (r.1, acc.2.1 ++ r.2.1, r.2.2)) (s, [], none)

/-- A range written, up to the first bus error. -/
def State.dmaStore (s : State) (n addr : Nat) (l : List Byte) (stop : Option Nat) : State × Option Nat :=
  (blocksOf addr l.length).foldl (fun acc e =>
    if acc.2.isSome then acc else acc.1.dmaWritePiece n e.1 ((l.drop (e.1 - addr)).take e.2) stop) (s, none)

/-! ### Descriptors -/

/-- A descriptor as read. -/
structure DmaDesc where
  src : Nat
  dst : Nat
  len : Nat
  flags : Nat
  next : Nat
  deriving DecidableEq, Repr

def dmaDesc (l : List Byte) : DmaDesc :=
  { src := ofBytesLE (l.take 8), dst := ofBytesLE ((l.drop 8).take 8), len := ofBytesLE ((l.drop 16).take 4),
    flags := (l.getD 20 0).toNat, next := ofBytesLE ((l.drop 24).take 8) }

/-- The bytes of a fill: its 64-bit pattern repeated. -/
def fillBytes (src len : Nat) : List Byte := (List.range len).map (fun i => (bytesLE 8 src).getD (i % 8) 0)

/-- A descriptor lies in DRAM or Crew SRAM, aligned to 32 bytes. -/
def descOk (addr : Nat) : Bool := addr % 32 == 0 && (targetOf addr == .dram || targetOf addr == .crewSram)

/-- The first count bytes of a descriptor's transfer are made, and what answered with a bus error: the access and its address. -/
def State.dmaMove (s : State) (n : Nat) (d : DmaDesc) (count : Nat) (stop : Option Nat) (host : List Byte) :
    State × Option (Nat × Nat) :=
  let r := if d.flags.testBit 0 then (s, fillBytes d.src count, none) else s.dmaRead n d.src count stop host
  let w := r.1.dmaStore n d.dst r.2.1 stop
  match w.2, r.2.2 with
  | some x, _ => (w.1, some (accWrite, x))
  | none, some x => (w.1, some (accRead, x))
  | none, none => (w.1, none)

/-- The chain stops on an error: counted, reported with the failing address; the descriptor is written back with error. -/
def State.dmaFail (s : State) (n cur flags : Nat) (access addr : Option Nat) : State :=
  let p := pgDma n
  let s := (s.dmaStore n (cur + 20) [BitVec.ofNat 8 (flags ||| 16)] none).1
  let s := ((s.setBit p DMA_STAT_busy false).bump p DMA_ERR_n).irq p IRQ_dma_error
  s.err p 0x142 access addr

/-- The descriptor at cur as read, or the bus error of its place. -/
def State.dmaHead (s : State) (n cur : Nat) (stop : Option Nat) : State × List Byte × Option Nat :=
  if descOk cur then s.dmaRead n cur 32 stop [] else (s, [], some cur)

/-- The descriptor is done: written back with done, and the chain goes on or ends. -/
def State.dmaFinish (s : State) (n cur : Nat) (d : DmaDesc) : State :=
  let p := pgDma n
  let s := (s.dmaStore n (cur + 20) [BitVec.ofNat 8 (d.flags ||| 8)] none).1
  let s := s.bump p DMA_DONE_n
  let s := s.when (d.flags.testBit 1) (fun s => s.irq p IRQ_dma_done)
  if d.flags.testBit 2 then s.setBit p DMA_STAT_busy false else s.setFld64 p DMA_CUR_lo DMA_CUR_hi d.next

/-- The transfer that a descriptor asks for: done and written back, or in error. -/
def State.dmaTransfer (s : State) (n cur : Nat) (d : DmaDesc) (fail : Option Nat) (host : List Byte) : State :=
  if d.len = 0 ∨ d.len % 4 ≠ 0 then s.dmaFail n cur d.flags none none
  else
    let r := s.dmaMove n d d.len fail host
    match r.2 with
    | some e => r.1.dmaFail n cur d.flags (some e.1) (some e.2)
    | none => r.1.dmaFinish n cur d

/-- The descriptor at cur ends (R419). -/
def State.dmaEnd (s : State) (n cur : Nat) (fail : Option Nat) (host : List Byte) : State :=
  let p := pgDma n
  let r := s.dmaHead n cur fail
  match r.2.2 with
  | some x => (((r.1.setBit p DMA_STAT_busy false).bump p DMA_ERR_n).irq p IRQ_dma_error).err p 0x142 (some accRead) (some x)
  | none => r.1.dmaTransfer n cur (dmaDesc r.2.1) fail host

/-- The descriptor in progress ends. -/
def State.dmaDone (s : State) (n : Nat) (fail : Option Nat) (host : List Byte) : State :=
  if !s.bit (pgDma n) DMA_STAT_busy then s else s.dmaEnd n (s.fld64 (pgDma n) DMA_CUR_lo DMA_CUR_hi) fail host

/-- What an abort finds made of the descriptor at cur: the first bytes of its transfer. -/
def State.dmaCut (s : State) (n cur moved : Nat) (host : List Byte) : State :=
  let r := s.dmaRead n cur 32 none []
  match r.2.2 with
  | some _ => s
  | none =>
    let d := dmaDesc r.2.1
    if d.len = 0 ∨ d.len % 4 ≠ 0 then s else (r.1.dmaMove n d (min moved d.len) none host).1

/-- What an abort finds made of the descriptor in progress. -/
def State.dmaPartial (s : State) (n moved : Nat) (host : List Byte) : State :=
  let cur := s.fld64 (pgDma n) DMA_CUR_lo DMA_CUR_hi
  if s.bit (pgDma n) DMA_STAT_busy && descOk cur then s.dmaCut n cur moved host else s

/-! ### The PCIe host's requests (R420) -/

/-- Beats of 16 bytes that n bytes from an address take. -/
def pcieBeats (addr n : Nat) : Nat := (addr % 16 + n + 15) / 16

/-- A request that R415 does not allow, or that is too long. -/
def State.pcieRefuse (s : State) : State := (s.bump pgPcie PCIE_UR_n).answer hostMaster .unsupported []

def hostAcc : Acc := ⟨hostMaster, true⟩

/-- A write to BAR0 with byte enables: whole registers are written, untouched ones are not (R417), others are logged (R42). -/
def State.bar0Write (s : State) (off : Nat) (data : List (Option Byte)) : State :=
  let s := (touched off data.length).foldl (fun s w =>
    let part := (List.range 4).map (fun i => if off ≤ 4 * w + i then (data.getD (4 * w + i - off) none) else none)
    if part.all Option.isNone then s
    else if part.all Option.isSome then
      s.regWrite hostAcc (4 * w) (BitVec.ofNat 32 (ofBytesLE (part.map (fun b => b.getD 0)))) none
    else s.narrow hostAcc w) s
  s.answer hostMaster .ok []

/-- Every register that the enabled bytes touch is covered whole. -/
def wholeRegs (off : Nat) (data : List (Option Byte)) : Bool :=
  (touched off data.length).all fun w =>
    let part := (List.range 4).map (fun i => if off ≤ 4 * w + i then (data.getD (4 * w + i - off) none) else none)
    part.all Option.isNone || part.all Option.isSome

/-- A request to BAR0: of one beat, by R42; of more, whole registers only (R415, log entry 106). -/
def State.bar0 (s : State) (off : Nat) (op : DramOp) : State :=
  match op with
  | .read n _ =>
    let beats := pcieBeats off n
    if 64 < beats ∨ 4096 < off % 4096 + n ∨ (1 < beats ∧ (off % 4 ≠ 0 ∨ n % 4 ≠ 0)) then s.pcieRefuse
    else answerLoad (s.regLoad hostAcc off n) hostMaster
  | .write data =>
    let beats := pcieBeats off data.length
    if 64 < beats ∨ 4096 < off % 4096 + data.length ∨ (1 < beats ∧ !wholeRegs off data) then s.pcieRefuse
    else s.bar0Write off data
  | .atomic _ _ => s.pcieRefuse

/-- A request to BAR2: it reaches DRAM at the base as it stands. -/
def State.bar2 (s : State) (off : Nat) (op : DramOp) (noise : List (Nat × Nat)) (k : Nat) : State :=
  let addr := s.fld64 pgPcie PCIE_BAR2_base_lo PCIE_BAR2_base_hi + off
  if s.dramSize ≤ addr ∧ opLen op ≠ 0 ∧ 2 ^ 48 ≤ addr then
    (s.capture pgDrcG 0x103 (accOf hostMaster op) hostMaster addr).busErr hostMaster true
  else if dramRequestOk hostMaster addr op then s.catRequest hostMaster addr op noise k
  else s.pcieRefuse

/-! ### The commands -/

/-- DMA_GO (R419): DMA_CTL written as a word. -/
def execDmaGo (a : Acc) (n : Fin 4) (word : W32) (s : State) : Out := run s fun s =>
  s.viaPath a (pgDma n + 0x100) fun s => s.dmaWrite a n 0x100 word

/-- DMA_DESCRIPTOR_DONE (R419): fail, an address that answers with a bus error; host, the bytes that host memory holds. -/
def execDmaDescriptorDone (n : Fin 4) (fail : Option Nat) (host : List Byte) (s : State) : Out := runRails s fun s =>
  s.dmaDone n fail host

/-- DMA_ABORT (R418, R419): DMA_CTL written as a word, with moved bytes of the descriptor in progress made. -/
def execDmaAbort (a : Acc) (n : Fin 4) (word : W32) (moved : Nat) (host : List Byte) (s : State) : Out := runRails s fun s =>
  s.viaPath a (pgDma n + 0x100) fun s =>
    (if word.getLsbD 1 then s.dmaPartial n moved host else s).dmaWrite a n 0x100 word

/-- PCIE_REQUEST (R420): from an offset of BAR0 or BAR2. While the link is down none arrives. -/
def execPcieRequest (bar2 : Bool) (off : Nat) (op : DramOp) (noise : List (Nat × Nat)) (issue : Nat) (s : State) : Out :=
  if (if bar2 then off + opLen op ≤ 0x100000000 else off + opLen op ≤ 0x4000000) ∧ 0 < opLen op then runRails s fun s =>
    if !s.bit pgPcie PCIE_STAT_up then s
    else if bar2 then s.bar2 off op noise issue
    else s.bar0 off op
  else .fault .illFormed

end Sys2Proof.Machine
end

