-- ==== Sys2Proof/Machine/PairApply.lean ====
section
/-!
DEFINITION. The Lead's decisions and state as the twin applies them: the journal (R355, R358) and the state transfer (R359).
-/
namespace Sys2Proof.Machine

/-! ### When an entry applies -/

/-- The own uptime at which a decision applies, from the one its apply time converts to. -/
def State.dueAt (s : State) (d : Decision) (x : Nat) : Nat :=
  match d with
  | .take t _ _ _ _ _ => nearInstant (fun u => s.tapPoint t (s.tapLines t).1 (s.tapLines t).2 u) x
  | .platform _ _ => x - 8
  | .sync u _ => nearInstant (s.grpNext (s.synGroup (s.synBase u))) x
  | .flip p _ => nearInstant (s.grpNext (s.proGroup p)) x
  | .pitSlip _ _ | .pitTake _ _ | .tdm _ _ _ _ => nearInstant s.pitNext x
  | .pathCheck d _ => nearInstant (s.grpNext (s.tapGroup d)) x
  | .swap => nearInstant (s.grpNext s.cgroup) x
  | .write _ _ _ | .commit _ | .dispatch _ _ | .gpi _ => x

/-- The device applies what the journal brings: once a transferred state stands (R351, R355, R359). -/
def State.applying (s : State) : Bool := s.role == roleUnderstudy || s.role == roleYielded || (s.role == roleJoining && s.pair.done)

/-- A late entry is reported (R358). -/
def State.journalLate (s : State) (u : Nat) : State :=
  s.when (s.applying && decide (u < s.now)) fun s => ((s.bump pgPair PAIR_JRN_LATE_n).err pgPair 0x0E1).irq pgPair IRQ_pair_jrn_late

/-! ### Writes and commits -/

/-- A write of the Lead to a mirrored page, with the privilege of its access (R51, R355). -/
def State.leadWrite (s : State) (addr : Nat) (w : W32) (sup : Bool) : State :=
  match pageOf addr with
  | some (k, _) => if k.mirrored ∧ addr % 4 = 0 then s.regWrite ⟨twinMaster, sup⟩ addr w none else s
  | none => s

/-- A commit that the Lead accepted: its pages wait from its apply instant. -/
def State.leadCommit (s : State) (page : Option Nat) (start : Nat) : State :=
  match page with
  | some p =>
    match pageArg p with
    | some (p, k, i) => if k.mirrored then s.acceptPage p k i start else s
    | none => s
  | none =>
    let l := s.joinedPages.filter (fun e => e.2.1.mirrored)
    (l.foldl (fun s e => s.setBit e.1 PAGE_CTL_join false) s).acceptAll l (some start)

/-- A write or a commit is applied. -/
def State.leadPages (s : State) (apply : Nat) (d : Decision) : State :=
  match d with
  | .write a w sup => s.leadWrite a w sup
  | .commit p => s.leadCommit p (s.uptOfCues apply)
  | _ => s

/-! ### Takes and salvos -/

/-- The outcome of one pair of a dispatched salvo: armed, or refused with a code. The first pair refused in its own right names
the tap. -/
def salvoPairDone (v : Salvo) (tap code : Nat) : Salvo :=
  let v := { v with todo := v.todo.filter (fun w => pairTap w != tap) }
  let v :=
    if code = 0 then { v with left := v.left + 1 }
    else { v with nref := v.nref + 1, strict := v.strict || code == 9, tap := if code ≠ 9 ∧ v.tap = 4096 then tap else v.tap }
  if v.todo.isEmpty ∧ v.tap = 4096 then { v with tap := 0 } else v

/-- The dispatched salvo whose pair a decision about a tap is: the last one still without it. -/
def State.salvoOf (s : State) (tap : Nat) : Option Nat :=
  (s.salvos.reverse.find? (fun v => v.todo.any (fun w => pairTap w == tap))).map (·.id)

/-- A pair of a salvo is decided. -/
def State.salvoDecided (s : State) (id : Option Nat) (tap code : Nat) : State :=
  match id with
  | some i => { s with salvos := s.salvos.map (fun v => if v.id == i then salvoPairDone v tap code else v) }
  | none => s

/-- What the own classification of a take would have been, as the journal gives it. -/
def State.ownClass (s : State) (t r : Nat) : Nat :=
  if !s.gangsFit t r then 7 else match s.classify t r with | .ok c => c | .error c => c

/-- The own decision agrees with the Lead's of class c: with 9, another pair of the salvo is refused in its own right (R186). The unit
of an auto-sync take was compared when its claim was heard. -/
def State.agrees (s : State) (t r c : Nat) : Bool :=
  if c = 9 then s.salvos.any (fun v => some v.id == s.salvoOf t &&
    (v.tap != 4096 || v.todo.any (fun w => pairTap w != t && 5 ≤ s.ownClass (pairTap w) (pairRail w))))
  else c == 4 || s.ownClass t r == c

/-- A claim of the Lead for a take of rail r at tap t (R180), made when the journal brings it; an own claim that would have differed
is counted (R179; DEDUCED, log entry 176). -/
def State.heardClaim (s : State) (t r b : Nat) : State :=
  let g := s.tapGroup t
  let own := match s.asyncFind r g with | .ok u => u.1 == b | .error _ => false
  let s := s.when (!own) (fun s => s.bump pgPair PAIR_DEC_DIFF_n)
  if (s.sy b).claim.isSome then s else s.asyncClaim t r b (((s.railFmt r).bind synUnits).getD 1) g

/-- A take of the Lead (R168, R174 to R180), at its switching point: refused, or armed so that it lands now. -/
def State.leadTake (s : State) (t r : Nat) (bkwy : Bool) (cls : Nat) (unit : Option Nat) (upt : Nat) : State :=
  let c := cls % 16
  let s := s.when (!s.agrees t r c) (fun s => s.bump pgPair PAIR_DEC_DIFF_n)
  let id := s.salvoOf t
  let hard := s.salvos.any (fun v => some v.id == id && v.hard)
  let s := s.when (id.isSome && (c < 5 || (!hard && c != 7))) (fun s => s.setTapFld t TT_TAPCTL_src r)
  if 5 ≤ c then
    let s := if c = 7 then s.ttInvalid t else s.ttRefuse t c
    (s.salvoDecided id t c).salvoEnd
  else
    let at_ := min upt s.now
    let ln := s.tapLines t
    let k : Take := { seq := s.armSeq, rail := r, bkwy := bkwy, target := at_, ready := at_, late := decide (16 ≤ cls), cls := c,
                      unit := unit, salvo := id, lines := ln.1, line := ln.2 }
    let s := { s with armSeq := s.armSeq + 1 }
    let s := match unit with
      | some b => if (s.sy b).claim.isSome then s else s.heardClaim t r b
      | none => s
    (s.setTakes t (s.takes t ++ [k])).salvoDecided id t 0

/-- A dispatch of the Lead (R185, R186): the entry leaves the sheet, and its pairs wait for the Lead's decisions. -/
def State.leadDispatch (s : State) (salvo tag : Nat) (bad : Bool) : State :=
  match ({ s with sheet := s.sheet.filter (fun e => e.salvo == salvo && e.tag == tag) } : State).firstEntry with
  | some e =>
    let s := s.setSheet (s.sheet.erase e)
    let id := s.salvoSeq
    let s := { s with salvoSeq := id + 1 }
    let refuse := fun (s : State) => s.pushResult ⟨tag, 5, 0, 0, s.now⟩
    if bad then refuse (s.err pgSm 0x072)
    else match s.readSalvo 2560 salvo with
      | none => refuse (s.err pgCq 0x070)
      | some l =>
        { s with salvos := s.salvos ++
            [{ id := id, tag := tag, upt := s.now, left := 0, todo := l, nref := 0, tap := 4096, late := false, strict := false,
               hard := e.strict }] }
  | none => s

/-! ### The other decisions -/

/-- A direct take of the Lead on a Pit output lands at the Pit instant of this TICK (R276). -/
def State.leadPitTake (s : State) (out input upt : Nat) : State :=
  let at_ := min upt s.now
  let t : PitTake := { seq := s.armSeq, out := out, src := if input = 65536 then none else some input, target := at_, ready := at_,
                       late := false, direct := true }
  let s := { s with pitTakes := s.pitTakes ++ [t], armSeq := s.armSeq + 1 }
  s.setFld pgPitT PIT_TK_LEVEL_n (s.pitTakes.filter (fun (x : PitTake) => x.direct)).length

/-- The Lead's TDM decisions (R291, R296): the start of a trigger, or a gap start or re-entry at a position. -/
def State.leadTdm (s : State) (q kind slots upt : Nat) : State :=
  if kind = 0 then
    let s := { s with tdmMask := slots }
    (s.setBit pgTrig TDM_TRIG_CTL_pending true).setFld64 pgTrig TDM_TRIG_S_lo TDM_TRIG_S_hi upt
  else s.setTp q { s.tp q with lead := (s.tp q).lead ++ [(kind, slots, upt - s.tdmLat)] }

/-- A decision of the journal is applied at an uptime. bad: a pair of the salvo has an uncorrectable SRAM error. -/
def State.leadDecision (s : State) (upt : Nat) (d : Decision) (bad : Bool) : State :=
  match d with
  | .write a w sup => s.leadWrite a w sup
  | .commit p => s.leadCommit p upt
  | .take t r b _ c u => s.leadTake t r b c u upt
  | .dispatch v tag => s.leadDispatch v tag bad
  | .platform r up => s.setPt (s.ptBase r) { s.pt (s.ptBase r) with turn := some (up, upt) }
  | .sync u n => s.setSy u { s.sy u with lead := (s.sy u).lead ++ [(upt, n)] }
  | .flip p g => s.setPr p { s.pr p with lead := (s.pr p).lead ++ [(upt, g)] }
  | .pitSlip i rep => s.setPin i { s.pin i with lead := some rep }
  | .pitTake o i => s.leadPitTake o i upt
  | .tdm q kind slots _ => s.leadTdm q kind slots upt
  | .gpi n =>
    let own := (s.gp n).own
    ((s.setGp n { s.gp n with own := false }).when (!own) (fun s => s.bump pgPair PAIR_DEC_DIFF_n)).gpiFire n upt
  | .pathCheck d n => s.checkStart d n upt (perOf (s.grpRate (s.tapGroup d)))
  | .swap => s.setPair { s.pair with swapAt := some (s.todCuesAt upt) }

/-! ### The journal -/

/-- A journal entry taken in order: entries whose claim is not above the own one are discarded (R358). -/
def State.hearJournal (s : State) (claim : W32) (apply : Nat) (d : Decision) : State :=
  if claim ≤ s.claim ∨ !s.follows then s
  else match d with
    | .write _ _ _ => if s.applying then s.leadPages apply d else s.setPair { s.pair with writes := s.pair.writes ++ [d] }
    | .commit p =>
      if s.applying then (s.journalLate (s.uptOfCues apply)).leadPages apply d
      else { s with journalIn := s.journalIn ++ [⟨s.uptOfCues apply, .commit p⟩] }
    | d =>
      let u := s.dueAt d (s.uptOfCues apply)
      let s := s.journalLate u
      let s := match d with | .take t r _ _ _ (some b) => if s.applying then s.heardClaim t r b else s | _ => s
      { s with journalIn := s.journalIn ++ [⟨u, d⟩] }

/-- The entry due first, of those whose apply time lies in the present TICK or before; entries of one time in the order they
came. -/
def State.nextDue (s : State) : Option Due :=
  match s.journalIn.filter (fun e => e.upt < s.now + 16) with
  | [] => none
  | e :: t => some (t.foldl (fun b x => if x.upt < b.upt then x else b) e)

/-- The next due entry is applied. -/
def State.applyDue (s : State) (bad : Bool) : State :=
  match s.nextDue with
  | some e => if s.applying then ({ s with journalIn := s.journalIn.erase e }).leadDecision e.upt e.d bad else s
  | none => s

/-! ### The state transfer -/

/-- A decision whose effect the Lead's state shows from when it is made: one made before the state was sent is in it. -/
def decisionEarly (d : Decision) : Bool :=
  match d with
  | .take _ _ _ _ _ _ | .dispatch _ _ | .pitTake _ _ | .gpi _ => true
  | _ => false

/-- The first item comes: what was held of the journal before it and shows in the state is dropped. -/
def State.cutFirst (s : State) : State :=
  if s.pair.items.isEmpty then
    { s with journalIn := s.journalIn.filter (fun e => !decisionEarly e.d) }.setPair { s.pair with writes := [] }
  else s

/-- Items of a transfer, as they come; with its cut the instant C is known. -/
def State.hearItem (s : State) (x : XferItem) : State :=
  match x with
  | .cut c => s.setPair { s.pair with cutAt := some (nearInstant (s.grpNext s.cgroup) (s.uptOfCues c)) }
  | x =>
    let s := s.cutFirst
    s.setPair { s.pair with items := s.pair.items ++ [x] }

def State.hearItems (s : State) (l : List XferItem) : State :=
  if s.role = roleJoining ∧ !s.pair.done then l.foldl State.hearItem s else s

/-- The twin's versions (R491): the first word is its Twin Link version. -/
def State.hearVersions (s : State) (l : List (BitVec 64)) : State :=
  match l with
  | w :: _ =>
    ((s.setFld pgUpd UPD_TWIN_major (w.toNat % 65536)).setFld pgUpd UPD_TWIN_minor (w.toNat / 65536 % 65536)).setBit
      pgUpd UPD_TWIN_valid true
  | [] => s

/-- The words of the transfer: address, staging copy, live copy. A mirrored register it does not name holds its reset value. -/
def State.cutWords (s : State) (l : List XferItem) : List (Nat × W32 × W32) :=
  let named := l.filterMap (fun (x : XferItem) => match x with | .word a st lv => some (a, st, lv) | _ => none)
  let own := s.mirrorAddrs.filter (fun a => !named.any (fun e => e.1 == a))
  (named.filter (fun e => mirrorMask e.1 != 0)) ++ own.map (fun a => (a, resetAt a &&& mirrorMask a, resetAt a &&& mirrorMask a))

/-- The staged bits of the register at an address. -/
def stagedAt (a : Nat) : W32 := match pageOf a with | some (k, _) => stagedMask k (a % 0x1000) | none => 0

/-- The staging copies of the transfer are put in place, or its live copies, so that a commit makes them live; fields that are
not staged take the one copy there is. -/
def State.cutStage (s : State) (l : List (Nat × W32 × W32)) (live : Bool) : State :=
  l.foldl (fun s e =>
    let m := mirrorMask e.1
    let g := if live then stagedAt e.1 else 0
    s.setWord e.1 ((s.word e.1 &&& ~~~m) ||| (((e.2.1 &&& ~~~g) ||| (e.2.2 &&& g)) &&& m))) s

/-- One table of the transfer. -/
def cutTable (l : List XferItem) (t : Nat) (live : Bool) : Store W32 :=
  l.foldl (fun m (x : XferItem) => match x with
    | .table t' i st lv => if t' = t then Store.put (fun _ => 0) i (if live then lv else st) m else m
    | _ => m) []

/-- The staging tables of the transfer, or its live ones. -/
def State.cutTables (s : State) (l : List XferItem) (live : Bool) : State :=
  { s with rxStage := cutTable l 0 live, txStage := cutTable l 1 live, pitStage := cutTable l 2 live, coefStage := cutTable l 3 live }

/-- The pages whose live copies the transfer sets: those with staged words in it, and those with a table behind them. -/
def State.cutPages (s : State) (l : List (Nat × W32 × W32)) : List Nat :=
  ((l.filter (fun e => stagedAt e.1 != 0)).map (fun e => pageBase e.1)
    ++ (s.coefStage ++ s.coef).map (fun e => pgRas (e.1 / 2048)) ++ [pgFlr, pgFlt, pgPitW]).dedup

/-- Channels of TDM ports whose enable bits the transfer changed start or stop. -/
def State.cutTdm (s old : State) : State :=
  (List.range 16).foldl (fun s q =>
    (s.tdmSwitch q false (fun i => old.tdmWanted q false i) (fun i => s.tdmWanted q false i)).tdmSwitch q true
      (fun i => old.tdmWanted q true i) (fun i => s.tdmWanted q true i)) s

/-- Registers and tables of the transfer: the live copies become live at the apply instants from C on, and the staging copies
stand. -/
def State.cutCopy (s : State) (l : List XferItem) (C : Nat) : State :=
  let w := s.cutWords l
  let t := (s.cutStage w true).cutTables l true
  let t := (t.cutPages w).foldl (fun s p => match pageOf p with | some (k, i) => s.acceptPage p k i C | none => s) t
  (((t.cutStage w false).cutTables l false).cutTdm s)

/-- The Turntable of the transfer. -/
def State.cutTurntable (s : State) (l : List XferItem) : State :=
  let c := s.uptOfCues
  let sel := l.filterMap (fun (x : XferItem) => match x with | .select t r => some (t, r) | _ => none)
  let gone := (s.tapSel.map (·.1)).filter (fun t => !sel.any (fun e => e.1 == t))
  let s := (gone.map (fun t => (t, noRail)) ++ sel).foldl (fun (s : State) (e : Nat × Nat) => if s.tapRail e.1 = e.2 then s else s.select e.1 e.2) s
  let s := (s.armed.map (·.1)).foldl (fun s t => s.setTakes t []) s
  let s := l.foldl (fun (s : State) (x : XferItem) => match x with
    | .take t k =>
      ({ s with armSeq := max s.armSeq (k.seq + 1) } : State).setTakes t
        (s.takes t ++ [{ k with target := c k.target, ready := c k.ready }])
    | _ => s) s
  let mem : Store W32 := l.foldl (fun m (x : XferItem) => match x with
    | .salvoWord i w => Store.put (fun _ => 0) i w m
    | _ => m) []
  let s := { s with salvoMem := mem }
  let sheet := l.filterMap (fun (x : XferItem) => match x with
    | .cueEnt e => some { e with target := if e.kind = 1 then e.target else c e.target } | _ => none)
  let s := s.setSheet (sheet.take sheetSize)
  let v := l.filterMap (fun (x : XferItem) => match x with | .salvo v => some { v with upt := c v.upt } | _ => none)
  { s with salvos := v, salvoSeq := v.foldl (fun n (x : Salvo) => max n (x.id + 1)) s.salvoSeq }

/-- The Pit of the transfer. -/
def State.cutPit (s : State) (l : List XferItem) : State :=
  let c := s.uptOfCues
  let sel := l.filterMap (fun (x : XferItem) => match x with | .pitSelect o i => some (o, i) | _ => none)
  let gone := (s.pitOut.map (·.1)).filter (fun o => !sel.any (fun e => e.1 == o))
  let s := (gone.map (fun o => (o, none)) ++ sel).foldl (fun (s : State) (e : Nat × Option Nat) =>
    s.setPot e.1 { s.pot e.1 with src := e.2, st := 0, mix := [], want := none, cut := none }) s
  let k := l.filterMap (fun (x : XferItem) => match x with
    | .pitTake k => some { k with target := c k.target, ready := c k.ready }
    | _ => none)
  let s := { s with pitTakes := k, armSeq := k.foldl (fun n (x : PitTake) => max n (x.seq + 1)) s.armSeq }
  s.setFld pgPitT PIT_TK_LEVEL_n (s.pitTakes.filter (fun (x : PitTake) => x.direct)).length

/-- A Platform of the transfer: a difference between Aligned and Unaligned is settled at its first frame start from C on. -/
def State.cutPlat (s : State) (r st : Nat) (last : Option Fmt) (C : Nat) : State :=
  let b := s.ptBase r
  let own := s.ptState b
  let both : Bool := (st == ptAligned || st == ptUnaligned) && (own == ptAligned || own == ptUnaligned) && st != own
  let s := if (s.pt r).last.isNone then s.setPt r { s.pt r with last := last } else s
  if both then s.setPt b { s.pt b with turn := some (st == ptAligned, C) } else s

/-- A synchroniser of the transfer: its claim and the number of its next frame. -/
def State.cutSyn (s : State) (u : Nat) (claim : Option Nat) (width next : Nat) : State :=
  let s := match claim with
    | some g => if (s.sy u).claim.isSome then s else s.synClaim u width g
    | none => if (s.sy u).claim.isSome then s.synFree u else s
  s.setSy u { s.sy u with next := next }

/-- A flip group of the transfer. -/
def State.cutFlip (s : State) (p g bank : Nat) (pend : Bool) (fence : Nat) : State :=
  let s := (s.setFld (pgBlend p) PRO_FLIP_bank bank g).setFld (pgBlend p) PRO_FLIP_pend pend.toNat g
  s.setPr p { s.pr p with fence := (s.pr p).fence.set g fence }

/-- The units of the transfer. -/
def State.cutUnits (s : State) (l : List XferItem) (C : Nat) : State :=
  let kept := l.filterMap (fun (x : XferItem) => match x with | .syn u _ (some _) _ _ => some u | _ => none)
  let s := (s.syn.filter (fun e => e.2.claim.isSome && !kept.contains e.1)).foldl (fun s e => s.synFree e.1) s
  let s := l.foldl (fun (s : State) (x : XferItem) => match x with
    | .plat r st last => s.cutPlat r st last C
    | .syn u _ g w n => s.cutSyn u g w n
    | .flip p g b pe f => s.cutFlip p g b pe f
    | _ => s) s
  s.countClaims

/-- C is reached: the transferred state is applied, then the writes and commits held since, in order. -/
def State.cut (s : State) : State :=
  match s.pair.cutAt with
  | some C =>
    if C < s.now + 16 ∧ s.role = roleJoining ∧ !s.pair.done then
      let l := s.pair.items
      let held := s.pair.writes
      let s := (((s.cutCopy l C).cutPit l).cutUnits l C).cutTurntable l
      let s := { s with journalIn := s.journalIn.filter (fun e => C ≤ e.upt) }
      let s := s.setPair { s.pair with done := true, items := [], cutAt := none, writes := [] }
      (held.foldl (fun s d => s.leadPages 0 d) s).tryPromote
    else s
  | none => s

/-! ### The commands -/

/-- JOURNAL_RECEIVED (R355, R358). -/
def execJournalReceived (seq : Nat) (crcOk : Bool) (claim : W32) (apply : Nat) (d : Decision) (s : State) : Out :=
  runRails s fun s => s.onMessage seq crcOk fun s => s.hearJournal claim apply d

/-- JOURNAL_APPLY (R355). -/
def execJournalApply (bad : Bool) (s : State) : Out := runRails s fun s => s.applyDue bad

/-- STATE_TRANSFER_RECEIVED (R359, R491): mirrored state, or the twin's versions. -/
def execStateTransferReceived (seq : Nat) (crcOk : Bool) (items : List XferItem) (versions : Option (List (BitVec 64))) (s : State) :
    Out :=
  run s fun s => s.onMessage seq crcOk fun s =>
    let s := s.hearItems items
    match versions with
    | some l => s.hearVersions l
    | none => s

/-- STATE_TRANSFER_CUT (R359). -/
def execStateTransferCut (s : State) : Out := runRails s State.cut

end Sys2Proof.Machine
end

