-- ==== Sys2Proof/Machine/Dispatch.lean ====
section
/-!
DEFINITION. One arm for each command.
-/
namespace Sys2Proof.Machine

def exec (i : Instr) (s : State) : Host.Outcome State Fault Refusal :=
  match i with
  -- Register pages (R42 to R64)
  | .registerWrite a addr bytes hw => Sys2Proof.Machine.execRegisterWrite a addr bytes hw s
  | .unmappedAccess a addr isWrite => Sys2Proof.Machine.execUnmappedAccess a addr isWrite s
  | .rcCounterRead a addr clash => Sys2Proof.Machine.execRcCounterRead a addr clash s
  | .irqForceWrite a page word hw => Sys2Proof.Machine.execIrqForceWrite a page word hw s
  | .ferrRelease a page clash => Sys2Proof.Machine.execFerrRelease a page clash s
  | .softReset a page => Sys2Proof.Machine.execSoftReset a page s
  | .softResetDone page => Sys2Proof.Machine.execSoftResetDone page s
  | .pageSnapshot a page merged => Sys2Proof.Machine.execPageSnapshot a page merged s
  | .snapallArm a => Sys2Proof.Machine.execSnapallArm a s
  | .snapallNow a => Sys2Proof.Machine.execSnapallNow a s
  | .snapallTarget => Sys2Proof.Machine.execSnapallTarget s
  | .snapallDone => Sys2Proof.Machine.execSnapallDone s
  | .pageCommit a page => Sys2Proof.Machine.execPageCommit a page s
  | .deviceCommit a => Sys2Proof.Machine.execDeviceCommit a s
  | .commitApply page slot => Sys2Proof.Machine.execCommitApply page slot s
  | .cfgCrcPass page upsets => Sys2Proof.Machine.execCfgCrcPass page upsets s
  | .parityModeSet a page on => Sys2Proof.Machine.execParityModeSet a page on s
  | .parityCheckPass page upsets => Sys2Proof.Machine.execParityCheckPass page upsets s
  -- Cue clock (R26 to R39)
  | .uptimeLatchRead a => Sys2Proof.Machine.execUptimeLatchRead a s
  | .todLatchRead a => Sys2Proof.Machine.execTodLatchRead a s
  | .todTick => Sys2Proof.Machine.execTodTick s
  | .todStepRequest a word => Sys2Proof.Machine.execTodStepRequest a word s
  | .todSteerWrite a word hw => Sys2Proof.Machine.execTodSteerWrite a word hw s
  -- Video serial lanes (R65 to R86, R327)
  | .rxSleepWrite a lane word hw => Sys2Proof.Machine.execRxSleepWrite a lane word hw s
  | .rxWakeDone lane => Sys2Proof.Machine.execRxWakeDone lane s
  | .signalDetectRise lane => Sys2Proof.Machine.execSignalDetectRise lane s
  | .signalDetectFall lane => Sys2Proof.Machine.execSignalDetectFall lane s
  | .rxRateChange lane => Sys2Proof.Machine.execRxRateChange lane s
  | .huntDwellExpire lane => Sys2Proof.Machine.execHuntDwellExpire lane s
  | .rxLock lane => Sys2Proof.Machine.execRxLock lane s
  | .rxLockLoss lane => Sys2Proof.Machine.execRxLockLoss lane s
  | .txSleepWrite a lane word => Sys2Proof.Machine.execTxSleepWrite a lane word s
  | .txWakeDone lane => Sys2Proof.Machine.execTxWakeDone lane s
  | .txRateChange lane => Sys2Proof.Machine.execTxRateChange lane s
  | .rxPatternWrite a lane word => Sys2Proof.Machine.execRxPatternWrite a lane word s
  | .txPatternWrite a lane word => Sys2Proof.Machine.execTxPatternWrite a lane word s
  | .checkerSync got => Sys2Proof.Machine.execCheckerSync got s
  | .checkerSyncLoss lane errs => Sys2Proof.Machine.execCheckerSyncLoss lane errs s
  | .injectSingle a isTx lane => Sys2Proof.Machine.execInjectSingle a isTx lane s
  | .injectRateSet a isTx lane word => Sys2Proof.Machine.execInjectRateSet a isTx lane word s
  | .rxHandover lane matched => Sys2Proof.Machine.execRxHandover lane matched s
  | .txHandover lane inPhase => Sys2Proof.Machine.execTxHandover lane inPhase s
  | .laneSwapRequest a isTx lane => Sys2Proof.Machine.execLaneSwapRequest a isTx lane s
  | .txPhaseWrite a lane word => Sys2Proof.Machine.execTxPhaseWrite a lane word s
  | .txPhaseStep lane => Sys2Proof.Machine.execTxPhaseStep lane s
  -- SDI framing (R87 to R104)
  | .formatEstablished lane pic links frames cue => Sys2Proof.Machine.execFormatEstablished lane pic links frames cue s
  | .formatLost lane links => Sys2Proof.Machine.execFormatLost lane links s
  | .sdiLineReceived lane ended eav sav body cue => Sys2Proof.Machine.execSdiLineReceived lane ended eav sav body cue s
  | .ancPacketReceived lane pkt body sumOk lineUpt => Sys2Proof.Machine.execAncPacketReceived lane pkt body sumOk lineUpt s
  | .timecodeLatchRead a lane => Sys2Proof.Machine.execTimecodeLatchRead a lane s
  | .formatterFrameStart tap cue room => Sys2Proof.Machine.execFormatterFrameStart tap cue room s
  -- Media Ethernet (R107 to R122)
  | .ethFrameReceived lp stamp data fcsOk fecCorr fecUncorr => Sys2Proof.Machine.execEthFrameReceived lp stamp data fcsOk fecCorr fecUncorr s
  | .linkUp lp => Sys2Proof.Machine.execLinkUp lp s
  | .linkDown lp hiSer => Sys2Proof.Machine.execLinkDown lp hiSer s
  | .txRingHeadWrite a port word => Sys2Proof.Machine.execTxRingHeadWrite a port word s
  | .ringIndexWrite a port ctl word => Sys2Proof.Machine.execRingIndexWrite a port ctl word s
  | .crewFrameTransmit port slot => Sys2Proof.Machine.execCrewFrameTransmit port slot s
  | .tsqPop a port => Sys2Proof.Machine.execTsqPop a port s
  | .twiCommand a port word => Sys2Proof.Machine.execTwiCommand a port word s
  | .twiDone port ack data => Sys2Proof.Machine.execTwiDone port ack data s
  | .moduleInterrupt port low present => Sys2Proof.Machine.execModuleInterrupt port low present s
  -- IP media flows (R126 to R146)
  | .flowPacketRelease e bad => Sys2Proof.Machine.execFlowPacketRelease e bad s
  | .flowLossTimeout e => Sys2Proof.Machine.execFlowLossTimeout e s
  | .flowLoad a isTx word => Sys2Proof.Machine.execFlowLoad a isTx word s
  | .flowStore a isTx word => Sys2Proof.Machine.execFlowStore a isTx word s
  | .windowOpDone page => Sys2Proof.Machine.execWindowOpDone page s
  | .flowTableCrcPass isTx upsets => Sys2Proof.Machine.execFlowTableCrcPass isTx upsets s
  | .flowPacketTransmit e pathB n payload cue => Sys2Proof.Machine.execFlowPacketTransmit e pathB n payload cue s
  -- Platforms (R149 to R166)
  | .sourceFrameReady rail cue => Sys2Proof.Machine.execSourceFrameReady rail cue s
  | .railFrameStart rail => Sys2Proof.Machine.execRailFrameStart rail s
  | .holdFrameStart rail => Sys2Proof.Machine.execHoldFrameStart rail s
  | .railLineRelease rail field pix late sram => Sys2Proof.Machine.execRailLineRelease rail field pix late sram s
  | .groupRegrid g => Sys2Proof.Machine.execGroupRegrid g s
  -- The Turntable (R167 to R205)
  | .tapTakeWrite a tap word clash => Sys2Proof.Machine.execTapTakeWrite a tap word clash s
  | .takeLand tap cue => Sys2Proof.Machine.execTakeLand tap cue s
  | .salvoMemoryWrite a word => Sys2Proof.Machine.execSalvoMemoryWrite a word s
  | .salvoMemoryRead a => Sys2Proof.Machine.execSalvoMemoryRead a s
  | .cueSubmit a word => Sys2Proof.Machine.execCueSubmit a word s
  | .cueDispatch bad => Sys2Proof.Machine.execCueDispatch bad s
  | .cueResultPop a => Sys2Proof.Machine.execCueResultPop a s
  | .cueCancel a word => Sys2Proof.Machine.execCueCancel a word s
  | .gpiActive n => Sys2Proof.Machine.execGpiActive n s
  | .gpiInactive n => Sys2Proof.Machine.execGpiInactive n s
  | .gpiRearm n => Sys2Proof.Machine.execGpiRearm n s
  | .gpiChatterEnd n => Sys2Proof.Machine.execGpiChatterEnd n s
  -- Frame synchronisers (R206 to R223)
  | .syncInputFrame unit cue => Sys2Proof.Machine.execSyncInputFrame unit cue s
  | .syncDecision unit => Sys2Proof.Machine.execSyncDecision unit s
  | .syncOutputFrameStart unit missing bad => Sys2Proof.Machine.execSyncOutputFrameStart unit missing bad s
  -- Prosceniums (R224 to R263)
  | .proFrameStart p => Sys2Proof.Machine.execProFrameStart p s
  | .proLineCompose p layers => Sys2Proof.Machine.execProLineCompose p layers s
  | .flipArm a p g => Sys2Proof.Machine.execFlipArm a p g s
  | .flipDecision p => Sys2Proof.Machine.execFlipDecision p s
  | .captureDone p => Sys2Proof.Machine.execCaptureDone p s
  | .captureAbandon p => Sys2Proof.Machine.execCaptureAbandon p s
  | .coefLoad a p => Sys2Proof.Machine.execCoefLoad a p s
  | .coefStore a p => Sys2Proof.Machine.execCoefStore a p s
  -- The Pit (R264 to R285)
  | .pitSampleInstant smem dly => Sys2Proof.Machine.execPitSampleInstant smem dly s
  | .pitRegrid => Sys2Proof.Machine.execPitRegrid s
  | .pitTakeSubmit a word => Sys2Proof.Machine.execPitTakeSubmit a word s
  | .pitTakeLand out => Sys2Proof.Machine.execPitTakeLand out s
  | .crossfadeEnd out => Sys2Proof.Machine.execCrossfadeEnd out s
  | .transparentCut out => Sys2Proof.Machine.execTransparentCut out s
  | .pitWindowLoad a => Sys2Proof.Machine.execPitWindowLoad a s
  | .pitWindowStore a => Sys2Proof.Machine.execPitWindowStore a s
  | .pitTableCrcPass => Sys2Proof.Machine.execPitTableCrcPass s
  -- TDM audio ports (R286 to R300)
  | .tdmFrameReceived port sync bits slots => Sys2Proof.Machine.execTdmFrameReceived port sync bits slots s
  | .tdmFrameTransmit port cue => Sys2Proof.Machine.execTdmFrameTransmit port cue s
  | .tdmRateMeasure port => Sys2Proof.Machine.execTdmRateMeasure port s
  | .tdmRangeReenter port => Sys2Proof.Machine.execTdmRangeReenter port s
  | .tdmTriggerGo a => Sys2Proof.Machine.execTdmTriggerGo a s
  | .tdmTriggerStart => Sys2Proof.Machine.execTdmTriggerStart s
  | .tdmChannelEnableWrite a port isTx word => Sys2Proof.Machine.execTdmChannelEnableWrite a port isTx word s
  | .tdmZxTimeout port isTx slot => Sys2Proof.Machine.execTdmZxTimeout port isTx slot s
  | .tdmRampComplete port isTx slot => Sys2Proof.Machine.execTdmRampComplete port isTx slot s
  -- References (R301 to R316)
  | .referenceEvent edge upt m q => Sys2Proof.Machine.execReferenceEvent edge upt m q s
  | .refPtpSubmit a inst => Sys2Proof.Machine.execRefPtpSubmit a inst s
  | .monitorInstant => Sys2Proof.Machine.execMonitorInstant s
  | .refActivityLoss input => Sys2Proof.Machine.execRefActivityLoss input s
  | .refOverRangeExit input => Sys2Proof.Machine.execRefOverRangeExit input s
  | .loopUpdate => Sys2Proof.Machine.execLoopUpdate s
  | .holdoverSecond => Sys2Proof.Machine.execHoldoverSecond s
  -- Clock synthesis and phase control (R317 to R329)
  | .pllLock n got => Sys2Proof.Machine.execPllLock n got s
  | .pllLockLoss n got => Sys2Proof.Machine.execPllLockLoss n got s
  | .pllBypassDone n => Sys2Proof.Machine.execPllBypassDone n s
  | .holdBypassWrite a word => Sys2Proof.Machine.execHoldBypassWrite a word s
  | .pllBypassReturnWrite a n => Sys2Proof.Machine.execPllBypassReturnWrite a n s
  | .pllBypassReturn n => Sys2Proof.Machine.execPllBypassReturn n s
  | .clkManWrite a word => Sys2Proof.Machine.execClkManWrite a word s
  | .pllPhaseTargetWrite a n word => Sys2Proof.Machine.execPllPhaseTargetWrite a n word s
  | .pllPhaseStep n => Sys2Proof.Machine.execPllPhaseStep n s
  -- The Call Bus (R330 to R346)
  | .callCycleStart edge => Sys2Proof.Machine.execCallCycleStart edge s
  | .callSlotStart slot => Sys2Proof.Machine.execCallSlotStart slot s
  | .callBeaconReceived start codeError frame => Sys2Proof.Machine.execCallBeaconReceived start codeError frame s
  | .callFrameReceived start codeError bytes => Sys2Proof.Machine.execCallFrameReceived start codeError bytes s
  | .callSilentCycle => Sys2Proof.Machine.execCallSilentCycle s
  | .callCollision slot => Sys2Proof.Machine.execCallCollision slot s
  | .beaconQueuePop a => Sys2Proof.Machine.execBeaconQueuePop a s
  -- Lead and Understudy (R347 to R371)
  | .claimBurst cue => Sys2Proof.Machine.execClaimBurst cue s
  | .claimBurstReceived bits => Sys2Proof.Machine.execClaimBurstReceived bits s
  | .claimBurstMissing => Sys2Proof.Machine.execClaimBurstMissing s
  | .prefLeadTimeout => Sys2Proof.Machine.execPrefLeadTimeout s
  | .leadNow a => Sys2Proof.Machine.execLeadNow a s
  | .pairRejoin a => Sys2Proof.Machine.execPairRejoin a s
  | .pairSwapWrite a => Sys2Proof.Machine.execPairSwapWrite a s
  | .swapInstant => Sys2Proof.Machine.execSwapInstant s
  | .heartbeatSend => Sys2Proof.Machine.execHeartbeatSend s
  | .heartbeatReceived seq crcOk ago h => Sys2Proof.Machine.execHeartbeatReceived seq crcOk ago h s
  | .heartbeatTimeout => Sys2Proof.Machine.execHeartbeatTimeout s
  | .journalReceived seq crcOk claim apply d => Sys2Proof.Machine.execJournalReceived seq crcOk claim apply d s
  | .journalApply bad => Sys2Proof.Machine.execJournalApply bad s
  | .signaturesReceived seq crcOk frame sigs => Sys2Proof.Machine.execSignaturesReceived seq crcOk frame sigs s
  | .frameSignature dest samples audio => Sys2Proof.Machine.execFrameSignature dest samples audio s
  | .signatureDeadline dest => Sys2Proof.Machine.execSignatureDeadline dest s
  | .pathCheckDone dest differs inputDiff => Sys2Proof.Machine.execPathCheckDone dest differs inputDiff s
  | .pathCheckResultReceived seq crcOk dest frame pass inputDiff => Sys2Proof.Machine.execPathCheckResultReceived seq crcOk dest frame pass inputDiff s
  | .pathCheckResultTimeout dest => Sys2Proof.Machine.execPathCheckResultTimeout dest s
  | .stateTransferReceived seq crcOk items versions => Sys2Proof.Machine.execStateTransferReceived seq crcOk items versions s
  | .stateTransferCut => Sys2Proof.Machine.execStateTransferCut s
  | .snapshotDataReceived seq crcOk offset data => Sys2Proof.Machine.execSnapshotDataReceived seq crcOk offset data s
  | .retransmitRequestReceived seq crcOk first => Sys2Proof.Machine.execRetransmitRequestReceived seq crcOk first s
  | .twinLaneFail lane => Sys2Proof.Machine.execTwinLaneFail lane s
  | .snapshotCopy => Sys2Proof.Machine.execSnapshotCopy s
  | .snapshotCopyDone => Sys2Proof.Machine.execSnapshotCopyDone s
  | .twinLinkUp lanes => Sys2Proof.Machine.execTwinLinkUp lanes s
  -- DRAM channels and data protection (R372 to R409)
  | .dramRequest req addr op noise issue => Sys2Proof.Machine.execDramRequest req addr op noise issue s
  | .dramReadComplete ch noise issue => Sys2Proof.Machine.execDramReadComplete ch noise issue s
  | .rhWindowBoundary ch => Sys2Proof.Machine.execRhWindowBoundary ch s
  | .dramRefreshDue ch => Sys2Proof.Machine.execDramRefreshDue ch s
  | .dramTempPoll ch hot => Sys2Proof.Machine.execDramTempPoll ch hot s
  | .pageIdleClose ch bank => Sys2Proof.Machine.execPageIdleClose ch bank s
  | .pageStarveClose ch bank => Sys2Proof.Machine.execPageStarveClose ch bank s
  | .writeDrainAge ch => Sys2Proof.Machine.execWriteDrainAge ch s
  | .dramDriftTrack ch want => Sys2Proof.Machine.execDramDriftTrack ch want s
  | .retireWrite a ch word auto => Sys2Proof.Machine.execRetireWrite a ch word auto s
  | .devceWindowStart ch => Sys2Proof.Machine.execDevceWindowStart ch s
  | .pprGo a ch word => Sys2Proof.Machine.execPprGo a ch word s
  | .pprDone ch spare noise => Sys2Proof.Machine.execPprDone ch spare noise s
  | .scrubDue ch guaranteed => Sys2Proof.Machine.execScrubDue ch guaranteed s
  | .sramReadError mac index req access err wrote => Sys2Proof.Machine.execSramReadError mac index req access err wrote s
  | .sramPatrol mac index err wrote written => Sys2Proof.Machine.execSramPatrol mac index err wrote written s
  | .sramRepairApply a word outOfService => Sys2Proof.Machine.execSramRepairApply a word outOfService s
  | .sramFlipArm a word => Sys2Proof.Machine.execSramFlipArm a word s
  | .dramFlipArm a ch word => Sys2Proof.Machine.execDramFlipArm a ch word s
  -- Processors, Catwalk and host (R410 to R423)
  | .lockstepMismatch => Sys2Proof.Machine.execLockstepMismatch s
  | .crewCoreReset a word => Sys2Proof.Machine.execCrewCoreReset a word s
  | .crewRunWrite a word => Sys2Proof.Machine.execCrewRunWrite a word s
  | .missingPathAccess m addr isWrite => Sys2Proof.Machine.execMissingPathAccess m addr isWrite s
  | .burstRefused m addr beats kind whole => Sys2Proof.Machine.execBurstRefused m addr beats kind whole s
  | .masterResetDrain m => Sys2Proof.Machine.execMasterResetDrain m s
  | .drainEnd m => Sys2Proof.Machine.execDrainEnd m s
  | .dmaGo a n word => Sys2Proof.Machine.execDmaGo a n word s
  | .dmaDescriptorDone n fail host => Sys2Proof.Machine.execDmaDescriptorDone n fail host s
  | .dmaAbort a n word moved host => Sys2Proof.Machine.execDmaAbort a n word moved host s
  | .pcieRequest bar2 off op noise issue => Sys2Proof.Machine.execPcieRequest bar2 off op noise issue s
  | .pcieLinkDown flr => Sys2Proof.Machine.execPcieLinkDown flr s
  | .pcieLinkUp gen width => Sys2Proof.Machine.execPcieLinkUp gen width s
  | .interruptLineRise line masked => Sys2Proof.Machine.execInterruptLineRise line masked s
  | .intEoiWrite a word => Sys2Proof.Machine.execIntEoiWrite a word s
  | .msixUnmask vec => Sys2Proof.Machine.execMsixUnmask vec s
  -- Faults (R424 to R439)
  | .fatalAssert => Sys2Proof.Machine.execFatalAssert s
  | .fatalClear => Sys2Proof.Machine.execFatalClear s
  | .pinReadbackFail svc => Sys2Proof.Machine.execPinReadbackFail svc s
  | .fwfltSet a word => Sys2Proof.Machine.execFwfltSet a word s
  | .fwfltClear a word setNow => Sys2Proof.Machine.execFwfltClear a word setNow s
  | .fwfatalWrite a word => Sys2Proof.Machine.execFwfatalWrite a word s
  -- Swings, ageing and wear (R440 to R461)
  | .rotationStepInstant c g => Sys2Proof.Machine.execRotationStepInstant c g s
  | .rotationHandover c g fail => Sys2Proof.Machine.execRotationHandover c g fail s
  | .rotationTestEnd c g pass repair => Sys2Proof.Machine.execRotationTestEnd c g pass repair s
  | .rotationHandback c g fail idlePass => Sys2Proof.Machine.execRotationHandback c g fail idlePass s
  | .d2dWireCheck tile errs => Sys2Proof.Machine.execD2dWireCheck tile errs s
  | .fuseProgram a word => Sys2Proof.Machine.execFuseProgram a word s
  | .fuseProgramDone verified => Sys2Proof.Machine.execFuseProgramDone verified s
  | .avsEvaluate ps mon busOk mv da => Sys2Proof.Machine.execAvsEvaluate ps mon busOk mv da s
  | .ageSample mon ps => Sys2Proof.Machine.execAgeSample mon ps s
  | .temperatureRead temps => Sys2Proof.Machine.execTemperatureRead temps s
  | .wearCheckpoint => Sys2Proof.Machine.execWearCheckpoint s
  -- Reset, start-up and lifecycle (R462 to R478, R500)
  | .resetAssert => Sys2Proof.Machine.execResetAssert s
  | .osc54Loss => Sys2Proof.Machine.execOsc54Loss s
  | .resetRise b => Sys2Proof.Machine.execResetRise b s
  | .deviceResetWrite a word => Sys2Proof.Machine.execDeviceResetWrite a word s
  | .lifecycleRequest src page steps => Sys2Proof.Machine.execLifecycleRequest src page steps s
  | .unknownCommand src code page => Sys2Proof.Machine.execUnknownCommand src code page s
  -- Field update (R479 to R495)
  | .updateStage src page written => Sys2Proof.Machine.execUpdateStage src page written s
  | .updateActivate src page => Sys2Proof.Machine.execUpdateActivate src page s
  | .updateSchedule src page => Sys2Proof.Machine.execUpdateSchedule src page s
  | .updateConfirm src page => Sys2Proof.Machine.execUpdateConfirm src page s
  | .updateCancel src page => Sys2Proof.Machine.execUpdateCancel src page s
  | .writeSettings src page => Sys2Proof.Machine.execWriteSettings src page s
  | .shadowLoaded => Sys2Proof.Machine.execShadowLoaded s
  | .classMActivation => Sys2Proof.Machine.execClassMActivation s
  | .classMRevert => Sys2Proof.Machine.execClassMRevert s
  | .managementPauseEnd => Sys2Proof.Machine.execManagementPauseEnd s
  | .classSConfirm a word => Sys2Proof.Machine.execClassSConfirm a word s
  | .trialTimeout => Sys2Proof.Machine.execTrialTimeout s

end Sys2Proof.Machine
end

