-- ==== Sys2Proof/Safety.lean ====
section
/-!
DEFINITION. What counts as a safe run, in the terms the statements use: the invariant that every step keeps.
-/
namespace Sys2Proof.Machine

/-- What the invariant says of the parts of a state it speaks of. The register file, its live copy, the registers kept for each
master and the three memories are in their canonical form; cue-of-second lies within a second (R25); and what the spec bounds stays
bounded: the Twin Link's replay store (R354), the result FIFO of the cue sheet (R192), the cue sheet (R189), and the repair area of
the wear log (R458). -/
structure Sound (regs live mregs : Store W32) (dram crew flash : List Host.Cell) (cos replay results sheet repairs : Nat) : Prop where
  regs : Store.Wf resetAt regs
  live : Store.Wf resetAt live
  mregs : Store.Wf (fun k => resetAt (k % 0x4000000)) mregs
  dram : Memory.wf dram
  crew : Memory.wf crew
  flash : Store.Wf flashErased flash
  second : cos < cueSec
  replay : replay ≤ 4096
  results : results ≤ 64
  sheet : sheet ≤ sheetSize
  repairs : repairs ≤ 2048

/-- The invariant of the state. -/
def State.Inv (s : State) : Prop :=
  Sound s.regs s.live s.mregs s.dram s.crewSram s.flash s.tod.cos.toNat s.twinOut.length s.results.length s.sheet.length
    s.repairs.length

/-- The device runs, and the master's accesses reach its registers (R414, R476, R500). -/
abbrev Reaches (s : State) (a : Acc) : Prop := s.low = false ∧ s.issues a.m = true ∧ regPath a = true

/-- The write of a word reaches its register, and every bit it writes 1 is a bit that the access may write (R49 to R51, R63, R356). -/
abbrev Admitted (s : State) (a : Acc) (p : Nat) (k : PageKind) (i o : Nat) (w : W32) : Prop :=
  (s.storeWord a p k i o w).ok = true ∧ (s.storeWord a p k i o w).eff = w

/-- The state that the write of a word leaves before its register acts on it: the word stored by the access codes (R49). -/
abbrev State.stored (s : State) (a : Acc) (p : Nat) (k : PageKind) (i o : Nat) (w : W32) : State := (s.storeWord a p k i o w).s

/-- The answer to a write that was taken. -/
abbrev State.taken (s : State) (a : Acc) : State := s.answer a.m .ok []

end Sys2Proof.Machine
end

