-- ==== Sys2Proof/WellFormed.lean ====
section
/-!
DEFINITION. The operands a command may have: an address of a page, of a counter, of a window, a number of a group, an operand of
the length its rule gives. A command that fails its check is no event of the device, and its meaning stops with illFormed.
-/
namespace Sys2Proof.Machine

/-- A clear-on-read counter lies at a BAR0 address (R49). -/
def counterAt (addr : Nat) : Bool :=
  match pageOf addr with
  | some (k, _) => decide (addr % 4 = 0) && isCounter k (addr % 0x1000)
  | none => false

/-- The times of a start-up keep within R463's longest, as far as they do not depend on the device's repairs. -/
def bootMay (b : BootIn) : Bool :=
  b.tPll ≤ 661500 && b.tRep ≤ 992250 && b.tLinks ≤ 661500 && b.tTrain ≤ 33075000 && b.tHard ≤ 1323000000 && b.tFill ≤ fillMost b

/-- The check of a command's operands. -/
def wellFormed (i : Instr) : Bool :=
  match i with
  | .registerWrite _ addr bytes _ => decide (addr + bytes.length ≤ 0x4000000)
  | .rcCounterRead _ addr _ => counterAt addr
  | .irqForceWrite _ page _ _ => (pageArg page).isSome
  | .ferrRelease _ page _ => (pageArg page).isSome
  | .softReset _ page => (pageArg page).isSome
  | .softResetDone page => (pageArg page).isSome
  | .pageSnapshot _ page _ => (pageArg page).isSome
  | .pageCommit _ page => (pageArg page).isSome
  | .commitApply page _ => (pageArg page).isSome
  | .cfgCrcPass page _ => (pageArg page).isSome
  | .parityModeSet _ page _ => (pageArg page).isSome
  | .parityCheckPass page _ => (pageArg page).isSome
  | .dramRequest req addr op _ _ => dramRequestOk req addr op
  | .missingPathAccess m addr _ => decide (m < 32 ∧ addr < 2 ^ 48)
  | .burstRefused m addr _ _ _ => decide (m < 32 ∧ addr < 2 ^ 48)
  | .pcieRequest bar2 off op _ _ => decide ((if bar2 then off + opLen op ≤ 0x100000000 else off + opLen op ≤ 0x4000000) ∧ 0 < opLen op)
  | .pcieLinkUp gen width => decide (1 ≤ gen.val ∧ gen.val ≤ 4 ∧ (width.val = 1 ∨ width.val = 2 ∨ width.val = 4))
  | .interruptLineRise line _ => decide (line < 16384)
  | .rotationStepInstant c g => grpOk c g
  | .rotationHandover c g _ => grpOk c g
  | .rotationTestEnd c g _ _ => grpOk c g
  | .rotationHandback c g _ _ => grpOk c g
  | .temperatureRead temps => decide (temps.length = 24)
  | .resetRise b => bootMay b
  | .unmappedAccess .. | .snapallArm .. | .snapallNow .. | .snapallTarget | .snapallDone | .deviceCommit ..
  | .uptimeLatchRead .. | .todLatchRead .. | .todTick | .todStepRequest .. | .todSteerWrite .. | .rxSleepWrite ..
  | .rxWakeDone .. | .signalDetectRise .. | .signalDetectFall .. | .rxRateChange .. | .huntDwellExpire .. | .rxLock ..
  | .rxLockLoss .. | .txSleepWrite .. | .txWakeDone .. | .txRateChange .. | .rxPatternWrite .. | .txPatternWrite ..
  | .checkerSync .. | .checkerSyncLoss .. | .injectSingle .. | .injectRateSet .. | .rxHandover .. | .txHandover ..
  | .laneSwapRequest .. | .txPhaseWrite .. | .txPhaseStep .. | .formatEstablished .. | .formatLost .. | .sdiLineReceived ..
  | .ancPacketReceived .. | .timecodeLatchRead .. | .formatterFrameStart .. | .ethFrameReceived .. | .linkUp ..
  | .linkDown .. | .txRingHeadWrite .. | .ringIndexWrite .. | .crewFrameTransmit .. | .tsqPop .. | .twiCommand ..
  | .twiDone .. | .moduleInterrupt .. | .flowPacketRelease .. | .flowLossTimeout .. | .flowLoad .. | .flowStore ..
  | .windowOpDone .. | .flowTableCrcPass .. | .flowPacketTransmit .. | .sourceFrameReady .. | .railFrameStart ..
  | .holdFrameStart .. | .railLineRelease .. | .groupRegrid .. | .tapTakeWrite .. | .takeLand .. | .salvoMemoryWrite ..
  | .salvoMemoryRead .. | .cueSubmit .. | .cueDispatch .. | .cueResultPop .. | .cueCancel .. | .gpiActive ..
  | .gpiInactive .. | .gpiRearm .. | .gpiChatterEnd .. | .syncInputFrame .. | .syncDecision .. | .syncOutputFrameStart ..
  | .proFrameStart .. | .proLineCompose .. | .flipArm .. | .flipDecision .. | .captureDone .. | .captureAbandon ..
  | .coefLoad .. | .coefStore .. | .pitSampleInstant .. | .pitRegrid | .pitTakeSubmit .. | .pitTakeLand ..
  | .crossfadeEnd .. | .transparentCut .. | .pitWindowLoad .. | .pitWindowStore .. | .pitTableCrcPass
  | .tdmFrameReceived .. | .tdmFrameTransmit .. | .tdmRateMeasure .. | .tdmRangeReenter .. | .tdmTriggerGo ..
  | .tdmTriggerStart | .tdmChannelEnableWrite .. | .tdmZxTimeout .. | .tdmRampComplete .. | .referenceEvent ..
  | .refPtpSubmit .. | .monitorInstant | .refActivityLoss .. | .refOverRangeExit .. | .loopUpdate | .holdoverSecond
  | .pllLock .. | .pllLockLoss .. | .pllBypassDone .. | .holdBypassWrite .. | .pllBypassReturnWrite ..
  | .pllBypassReturn .. | .clkManWrite .. | .pllPhaseTargetWrite .. | .pllPhaseStep .. | .callCycleStart ..
  | .callSlotStart .. | .callBeaconReceived .. | .callFrameReceived .. | .callSilentCycle | .callCollision ..
  | .beaconQueuePop .. | .claimBurst .. | .claimBurstReceived .. | .claimBurstMissing | .prefLeadTimeout | .leadNow ..
  | .pairRejoin .. | .pairSwapWrite .. | .swapInstant | .heartbeatSend | .heartbeatReceived .. | .heartbeatTimeout
  | .journalReceived .. | .journalApply .. | .signaturesReceived .. | .frameSignature .. | .signatureDeadline ..
  | .pathCheckDone .. | .pathCheckResultReceived .. | .pathCheckResultTimeout .. | .stateTransferReceived ..
  | .stateTransferCut | .snapshotDataReceived .. | .retransmitRequestReceived .. | .twinLaneFail .. | .snapshotCopy
  | .snapshotCopyDone | .twinLinkUp .. | .dramReadComplete .. | .rhWindowBoundary .. | .dramRefreshDue ..
  | .dramTempPoll .. | .pageIdleClose .. | .pageStarveClose .. | .writeDrainAge .. | .dramDriftTrack .. | .retireWrite ..
  | .devceWindowStart .. | .pprGo .. | .pprDone .. | .scrubDue .. | .sramReadError .. | .sramPatrol ..
  | .sramRepairApply .. | .sramFlipArm .. | .dramFlipArm .. | .lockstepMismatch | .crewCoreReset .. | .crewRunWrite ..
  | .masterResetDrain .. | .drainEnd .. | .dmaGo .. | .dmaDescriptorDone .. | .dmaAbort .. | .pcieLinkDown ..
  | .intEoiWrite .. | .msixUnmask .. | .fatalAssert | .fatalClear | .pinReadbackFail .. | .fwfltSet .. | .fwfltClear ..
  | .fwfatalWrite .. | .d2dWireCheck .. | .fuseProgram .. | .fuseProgramDone .. | .avsEvaluate .. | .ageSample ..
  | .wearCheckpoint | .resetAssert | .osc54Loss | .deviceResetWrite .. | .lifecycleRequest .. | .unknownCommand ..
  | .updateStage .. | .updateActivate .. | .updateSchedule .. | .updateConfirm .. | .updateCancel .. | .writeSettings ..
  | .shadowLoaded | .classMActivation | .classMRevert | .managementPauseEnd | .classSConfirm .. | .trialTimeout => true

end Sys2Proof.Machine
end

