-- ==== Sys2Proof/Certificates/Slice0/Obligations.lean ====
section
/-!
DEFINITION. The statements about the model.
-/
open Sys2Proof Sys2Proof.Machine

/-- The state after reset meets the invariant that every step keeps: registers, live copies, per-master registers, DRAM, Crew SRAM
and flash in canonical form, cue-of-second within a second, and the bounded stores within their bounds. -/
def Obligations.ResetMeetsInvariant : Prop :=
  State.reset.Inv

/-- From every state that meets the invariant, a step that answers a next state gives a state that meets it: every store stays in
canonical form, cue-of-second stays below 10,584,000,000, the Twin Link's replay store, the result FIFO, the cue sheet and the
repair area stay within the bounds the spec gives them, whatever command stands at the front of the queue. -/
def Obligations.StepKeepsInvariant : Prop :=
  ∀ s t : State, s.Inv → step s = .next t → t.Inv

/-- For every command and state, the step of the state with the command at the front of its queue is the command's meaning on the
state with the queue's rest; on an empty queue the block idles (the model's choice, log entry 8). -/
def Obligations.StepRunsFrontCommand : Prop :=
  (∀ (c : Instr) (rest : List Instr) (s : State), step { s with pending := c :: rest } = exec c { s with pending := rest }) ∧
  ∀ s : State, s.pending = [] → step s = .next s

/-- Whatever a command does to the block, the commands that wait stay as they are. -/
def Obligations.CommandsLeaveQueue : Prop :=
  ∀ (c : Instr) (s t : State), exec c s = .next t → t.pending = s.pending

/-- A command whose operands pass the check answers a next state in every state (a start-up whose times lie within R463's longest
for the repairs that the device then holds); one whose operands fail it stops as ill-formed, which no event of the device is. -/
def Obligations.OnlyIllFormedCommandsStop : Prop :=
  (∀ (c : Instr) (s : State), wellFormed c = true → (∀ b, c = .resetRise b → s.coldStart.bootTimes b = true) →
    ∃ t, exec c s = .next t) ∧
  ∀ (c : Instr) (s : State), wellFormed c = false → exec c s = .fault .illFormed

/-- While RESET_N is low, every well-formed command but the pin's own events and the loss of the crystal leaves the whole state as
it is. -/
def Obligations.HeldDeviceTakesNoCommand : Prop :=
  ∀ (c : Instr) (s : State), s.low = true → wellFormed c = true → c ≠ .resetAssert → c ≠ .osc54Loss →
    (∀ b, c ≠ .resetRise b) → exec c s = .next s

/-- REGISTER_WRITE of a whole register of a page without requests of its own stores the word by its access codes, answers the
master and changes nothing else; RC_COUNTER_READ returns the counter, brought up to date on a lane page, and leaves it at
zero, or at the increment that meets the read; where a snapshot of the page meets it the live counter reads zero. A 64-bit
counter of a logical port that exists is cleared whole, its high word kept for the master. -/
def Obligations.RegisterAccessCompletes : Prop :=
  (∀ (s : State) (a : Acc) (p o : Nat) (k : PageKind) (i : Nat) (w : W32) (hw : Option W32), Reaches s a →
    k ∈ [.pool, .refSel, .twin, .cat, .pcie, .ethTmt, .ethPtp, .flc, .ttCtl, .ttTcls, .fmt, .quad, .defr, .synCtl, .synQuad,
      .proGroup, .pitCtl, .drcCtl, .drcTrn, .drcGlob, .rot, .avs, .cbCtl, .mail] →
    pageOf (p + o) = some (k, i) → p % 0x1000 = 0 → 0x100 ≤ o → o < 0x1000 → o % 4 = 0 → definedAt k o = true →
    exec (.registerWrite a (p + o) (bytesOf w) hw) s = .next ((s.storeWord a p k i o w hw).s.taken a).watch) ∧
  (∀ (s u : State) (a : Acc) (p o n : Nat) (k : PageKind) (i : Nat), u = s.settlePage k i → Reaches s a →
    pageOf (p + o) = some (k, i) → p % 0x1000 = 0 → o < 0x1000 → o % 4 = 0 → isCounter k o = true →
    ¬(k = .ethStat ∧ 0x800 ≤ o) → u.bit p PAGE_STAT_reset_busy = false →
    exec (.rcCounterRead a (p + o) .none) s =
      .next ((u.setWord (p + o) 0).answerWord a.m (s.readMask a k i o (u.word (p + o)))) ∧
    exec (.rcCounterRead a (p + o) (.increment n)) s =
      .next ((u.setWord (p + o) (BitVec.ofNat 32 (min n (2 ^ 32 - 1)))).answerWord a.m (s.readMask a k i o (u.word (p + o)))) ∧
    (0x800 ≤ o → exec (.rcCounterRead a (p + o) .snapshot) s =
        .next ((u.clashSnap p k i).answerWord a.m (s.readMask a k i o 0)))) ∧
  (∀ (s : State) (a : Acc) (p o n lp : Nat), Reaches s a → pageOf (p + o) = some (.ethStat, lp) → p % 0x1000 = 0 →
      o < 0x1000 →
    o % 8 = 0 → 0x800 ≤ o → isCounter .ethStat o = true → s.lpExists lp = true → s.bit p PAGE_STAT_reset_busy = false →
        n < 2 ^ 64 →
    exec (.rcCounterRead a (p + o) .none) s = .next
      ((((s.setWord (p + o) 0).setWord (p + o + 4) 0).setMreg a.m (p + o + 4) (s.word (p + o + 4))).answerWord a.m
        (s.readMask a .ethStat lp o (s.word (p + o)))) ∧
    exec (.rcCounterRead a (p + o) (.increment n)) s = .next
      ((((s.setWord (p + o) (BitVec.ofNat 32 n)).setWord (p + o + 4) (BitVec.ofNat 32 (n / 2 ^ 32))).setMreg a.m (p + o + 4)
        (s.word (p + o + 4))).answerWord a.m (s.readMask a .ethStat lp o (s.word (p + o)))))

/-- A request written to a page's header that the access may make has its effect: IRQ_FORCE sets one bit of IRQ_STAT as forced and
captures 0xF0F with the master; FERR_INFO.valid releases the capture; PAGE_CTL.reset and PAGE_CTL.snap start the block's soft
reset and the page's snapshot; PAGE_CTL.parity changes the parity mode; and the end of a soft reset clears reset_busy, after
which the Platforms of a quad's page whose sources deliver start detection. A snapshot asked for while the device-wide one is
in progress, or in its cycle, is merged with it. In each, everything else is as the stored word leaves it, and the taps then
watch their sources (watch, log entry 141). -/
def Obligations.HeaderRequestsComplete : Prop :=
  (∀ (s : State) (a : Acc) (page : Nat) (k : PageKind) (i b : Nat) (w : W32), w = (1 : W32) <<< b → Reaches s a →
      pageArg page = some (page, k, i) → b < 31 →
    Admitted s a page k i 0x18 w →
    let u := (s.stored a page k i 0x18 w).irq page b
    exec (.irqForceWrite a page w none) s = .next
      ((({ u with forced := Store.put (fun _ => 0) page (Store.get (fun _ => 0) u.forced page ||| w) u.forced }).capture
        page 0xF0F accWrite a.m (page + 0x18)).taken a).watch) ∧
  (∀ (s : State) (a : Acc) (page : Nat) (k : PageKind) (i : Nat), Reaches s a → pageArg page = some (page, k, i) →
    Admitted s a page k i 0x1C 0x80000000 →
    exec (.ferrRelease a page none) s = .next
      ((((s.stored a page k i 0x1C 0x80000000).setBit page FERR_INFO_valid false).setBit page FERR_INFO_multiple
        false).taken a).watch) ∧
  (∀ (s : State) (a : Acc) (page : Nat) (k : PageKind) (i : Nat) (w : W32), w = s.word (page + 8) ||| 2 → Reaches s a →
    pageArg page = some (page, k, i) → k.parity = false → w.getLsbD 3 = false → Admitted s a page k i 8 w →
    exec (.softReset a page) s = .next (((s.stored a page k i 8 w).softReset page k i).taken a).watch) ∧
  (∀ (s : State) (page : Nat) (k : PageKind) (i : Nat), s.low = false → pageArg page = some (page, k, i) →
    s.bit page PAGE_STAT_reset_busy = true →
    let u := s.setBit page PAGE_STAT_reset_busy false
    exec (.softResetDone page) s = .next
      (if k = .quad then (List.range 4).foldl (fun x j => x.srcBack (4 * i + j)) u else u).watch) ∧
  (∀ (s u : State) (a : Acc) (page : Nat) (k : PageKind) (i : Nat) (w : W32) (merged : Bool), w = s.word (page + 8) ||| 8 →
    u = s.stored a page k i 8 w → Reaches s a → pageArg page = some (page, k, i) → k.parity = false → w.getLsbD 1 = false →
    Admitted s a page k i 8 w →
    exec (.pageSnapshot a page merged) s = .next
      ((if k.snap && (u.snapPages || (merged && u.snapDue.isSome)) then u
        else (u.settlePage k i).snapshot page k s.now false).taken a).watch) ∧
  (∀ (s : State) (a : Acc) (page : Nat) (k : PageKind) (i : Nat) (on : Bool), Reaches s a → pageArg page = some (page, k, i) →
    let w := setBits (s.word (page + 8)) 2 1 on.toNat
    w.getLsbD 1 = false → w.getLsbD 3 = false → Admitted s a page k i 8 w →
    exec (.parityModeSet a page on) s = .next
      (((s.stored a page k i 8 w).parityChange page k ((s.word (page + 8)).getLsbD 2)).taken a).watch)

/-- SNAPALL_ARM with a target already reached sets late and asks for the snapshot at the next TICK, and with a later target sets
pending and keeps it; SNAPALL_NOW asks for it; SNAPALL_TARGET, when it is due, has every page that has counters copy them with
the target's uptime; SNAPALL_DONE sets done, leaves pending for a newly armed target only, and raises IRQ snap of the device
page. -/
def Obligations.DeviceSnapshotCompletes : Prop :=
  (∀ (s : State) (a : Acc), Reaches s a → Admitted s a pgDev .dev 0 0x200 1 →
    let u := s.stored a pgDev .dev 0 0x200 1
    let t := u.fld64 pgDev DEV_SNAPALL_TGT_lo DEV_SNAPALL_TGT_hi
    (t ≤ u.now → exec (.snapallArm a) s =
      .next ((({ u with snapNow := some u.now, snapArmed := false }).setBit pgDev DEV_SNAPALL_CTL_late true).taken a)) ∧
    (u.now < t → exec (.snapallArm a) s =
      .next ((({ u with snapArmed := true, snapT := t }).setBit pgDev DEV_SNAPALL_CTL_pending true).taken a))) ∧
  (∀ (s : State) (a : Acc), Reaches s a → Admitted s a pgDev .dev 0 0x200 2 →
    let u := s.stored a pgDev .dev 0 0x200 2
    exec (.snapallNow a) s = .next ({ u with snapNow := some u.now }.taken a)) ∧
  (∀ (s : State) (t : Nat), s.low = false → s.snapDue = some t →
    let u := snapPagesAll.foldl (fun x e => (x.settlePage e.2.1 e.2.2).snapshot e.1 e.2.1 t true) s
    exec .snapallTarget s = .next
      { u with snapPages := true, snapNow := none, snapArmed := u.snapArmed && u.now < u.snapT }) ∧
  (∀ (s : State), s.low = false → s.snapPages = true →
    exec .snapallDone s = .next
      (((({ s with snapPages := false }).setBit pgDev DEV_SNAPALL_CTL_done true).setBit pgDev DEV_SNAPALL_CTL_pending
        s.snapArmed).irq pgDev 28))

/-- CFG_COMMIT.go on a page that has not joined the device-wide commit and that no check refuses accepts the page, and the Lead
journals it for a mirrored page; a joined page is refused with result 7; DEV_COMMITALL_CTL.go accepts every joined page when
none fails, and shows result 2 where nothing is left to apply and 1 otherwise; an apply instant of a page whose slots apply on
their own makes the slot's words live and refreshes the device-wide result. -/
def Obligations.CommitsComplete : Prop :=
  (∀ (s : State) (a : Acc) (page : Nat) (k : PageKind) (i : Nat), Reaches s a → pageArg page = some (page, k, i) →
    Admitted s a page k i 0x3C 1 →
    let u := (s.stored a page k i 0x3C 1).commitAborts k i
    (u.bit page PAGE_CTL_join = true → exec (.pageCommit a page) s = .next ((u.refuseCommit page 7).taken a).watch) ∧
    (u.bit page PAGE_CTL_join = false → judge u (u.wouldBe [(page, k, i)]) [page] page k i = 0 →
      let v := u.acceptPage page k i (u.commitEarliest k)
      exec (.pageCommit a page) s = .next
        ((if k.mirrored then v.journal (u.commitEarliest k) (.commit (some page)) else v).taken a).watch)) ∧
  (∀ (s : State) (a : Acc) (u : State) (l : List (Nat × PageKind × Nat)), Reaches s a → Admitted s a pgDev .dev 0 0x210 1 →
    u = (s.stored a pgDev .dev 0 0x210 1).joinedPages.foldl (fun x e => x.commitAborts e.2.1 e.2.2)
      (s.stored a pgDev .dev 0 0x210 1) → l = (s.stored a pgDev .dev 0 0x210 1).joinedPages →
    (∀ e ∈ l, judge u (u.wouldBe l) (l.map (fun e => e.1)) e.1 e.2.1 e.2.2 = 0) → l.any (fun e => e.2.1.mirrored) = false →
    let v := (l.foldl (fun x e => x.setBit e.1 PAGE_CTL_join false) u).acceptAll l none
    exec (.deviceCommit a) s = .next
      ((v.setFld pgDev DEV_COMMITALL_CTL_result (if l.all (fun e => (v.waiting e.1).isEmpty) then 2 else 1)).taken a).watch) ∧
  (∀ (s : State) (page slot : Nat) (k : PageKind) (i : Nat), s.low = false → pageArg page = some (page, k, i) →
    k ∈ [.flc, .ethTmt, .drcCtl, .drcTrn, .dpr, .drcGlob] →
    exec (.commitApply page slot) s = .next ((s.applySlot page k slot).commitShow).watch)

/-- CFG_CRC_PASS on an armed page, after the upsets that come before it, writes the CRC of the live configuration to CFG_CRC_NOW;
with another reference the page takes cfg_fault, IRQ cfg and code 0xF05, else nothing more changes. PARITY_CHECK_PASS without
upsets changes nothing on a page out of parity mode. -/
def Obligations.CheckPassesComplete : Prop :=
  (∀ (s : State) (page : Nat) (k : PageKind) (i : Nat) (upsets : List Upset), s.low = false →
      pageArg page = some (page, k, i) →
    let u := upsets.foldl (fun x e => x.upset page e) s
    u.bit page PAGE_STAT_armed = true → u.parityOn page k = false →
    (u.cfgCrc page k false = u.word (page + 0x34) →
      exec (.cfgCrcPass page upsets) s = .next (u.setWord (page + 0x38) (u.cfgCrc page k false)).watch) ∧
    (u.cfgCrc page k false ≠ u.word (page + 0x34) →
      exec (.cfgCrcPass page upsets) s = .next
        (((((u.setWord (page + 0x38) (u.cfgCrc page k false)).setBit page PAGE_STAT_cfg_fault true).irq page 31).err page 0xF05 none
          (some page)).watch))) ∧
  (∀ (s : State) (page : Nat) (k : PageKind) (i : Nat), s.low = false → pageArg page = some (page, k, i) →
    s.parityOn page k = false → exec (.parityCheckPass page []) s = .next s.watch)

/-- On a page in parity mode, every register of whose configuration holds odd parity, an upset of any one stored bit of a
configuration register, in its written or its live copy, is found by the pass: cfg_fault, IRQ cfg and code 0xF06 with the
register's address. -/
def Obligations.ParityPassFindsUpset : Prop :=
  ∀ (s : State) (page x : Nat) (k : PageKind) (i : Nat) (u : Upset), s.low = false → pageArg page = some (page, k, i) →
    s.parityOn page k = true → u.off ∈ parityOffs k → u.bit < 32 → (u.live = true → stagedMask k u.off ≠ 0) →
    s.evenRegs page k = [] → x = page + u.off + (if u.live then 0x4000000 else 0) → s.lostParity.contains x = false →
    exec (.parityCheckPass page [u]) s = .next
      ((({ s.upset page u with
        lostParity := s.lostParity.filter (fun y => y % 0x4000000 / 0x1000 != page / 0x1000) ++ [x] } : State).cfgFault page 0xF06
          (page + u.off)).watch)

/-- A read of CUE_UPT_LO latches uptime's high word for the master; a read of CUE_TOD_SECL latches time of day and uptime for it;
CUE_TOD_CTL.step asks for a step at the next TICK; a write of CUE_TOD_STEER sets the increment from its value and opens a new
span of time of day; a TICK before the cue PLL has first locked changes nothing. -/
def Obligations.CueCommandsComplete : Prop :=
  (∀ (s : State) (a : Acc), Reaches s a → exec (.uptimeLatchRead a) s = .next
    ((s.setMreg a.m (pgCue + 0x104) (s.upt.extractLsb' 32 32)).answerWord a.m (s.upt.extractLsb' 0 32))) ∧
  (∀ (s : State) (a : Acc), Reaches s a → exec (.todLatchRead a) s = .next
    ((((((s.setMreg a.m (pgCue + 0x114) ((s.tod.sec.extractLsb' 32 16).zeroExtend 32)).setMreg a.m (pgCue + 0x118)
      (s.tod.cos.extractLsb' 0 32)).setMreg a.m (pgCue + 0x11C) (s.tod.frac.extractLsb' 10 30 ++ s.tod.cos.extractLsb' 32 2)).setMreg
      a.m (pgCue + 0x120) (s.upt.extractLsb' 0 32)).setMreg a.m (pgCue + 0x124) (s.upt.extractLsb' 32 32)).answerWord a.m
      (s.tod.sec.extractLsb' 0 32))) ∧
  (∀ (s : State) (a : Acc) (w : W32), Reaches s a → Admitted s a pgCue .cue 0 0x130 w → w.getLsbD 1 = true →
    let u := s.stored a pgCue .cue 0 0x130 w
    exec (.todStepRequest a w) s = .next ({ u with tod := { u.tod with stepReq := true } }.taken a)) ∧
  (∀ (s : State) (a : Acc) (w : W32), Reaches s a → Admitted s a pgCue .cue 0 0x134 w →
    let u := s.stored a pgCue .cue 0 0x134 w
    exec (.todSteerWrite a w false) s = .next (((u.setInc (u.fldS pgCue CUE_TOD_STEER_ppt)).logTod).taken a)) ∧
  (∀ (s : State), s.low = false → s.cueRun = false → s.dch = [] → s.again = [] → exec .todTick s = .next s)

/-- At a TICK with no step waiting, uptime advances by exactly 16 (by 196 on the bypass clock), and time of day, read as one
number of 2^-40 cue, by the increment registers' value (by 12.25 times it on the bypass clock, with the quarters carried),
carrying into seconds so that cue-of-second stays within a second; no register and nothing else changes. -/
def Obligations.TickAdvancesClocks : Prop :=
  ∀ (s : State), s.low = false → s.cueRun = true → s.dch = [] → s.again = [] → s.tod.stepReq = false →
      s.tod.servoStep = none →
    let d := if s.cueByp then (49 * s.inc + s.tod.quarter) / 4 else s.inc
    s.tod.total + d < 2 ^ 48 * cueSec * 2 ^ 40 →
    ∃ t, exec .todTick s = .next t ∧ t.upt = s.upt + (if s.cueByp then 196 else 16) ∧ t.tod.total = s.tod.total + d ∧
      t.tod.cos.toNat < cueSec ∧ t = { s with upt := t.upt, tod := t.tod }

/-- At the TICK after a step request, with the offset of CUE_STEP and CUE_STEP_FRAC: a result below zero or of 2^48 seconds or
more refuses the step, counted in CUE_STEP_REFUSED with IRQ step_refused; else time of day takes it and CUE_LASTSTEP the
uptime, and a step while Held is counted in CUE_DISC_COUNT with IRQ discontinuity while one made Unset sets valid with IRQ
acquired; then the increment is added, and the grids, the Pit and the Call Bus are told of a jump. -/
def Obligations.StepsOfTimeOfDay : Prop :=
  ∀ (s : State), s.low = false → s.cueRun = true → s.dch = [] → s.again = [] → s.tod.stepReq = true → s.tod.servoStep = none →
    let u := { s.uptick with tod := { s.tod with stepReq := false } }
    let n : Int := s.tod.total + toSigned 64 (s.fld64 pgCue CUE_STEP_lo CUE_STEP_hi) * 2 ^ 40 +
      s.fld pgCue CUE_STEP_FRAC_frac * 2 ^ 10
    ((n < 0 ∨ 2 ^ 48 * cueSec * 2 ^ 40 ≤ n) → exec .todTick s = .next
      ((u.bump pgCue CUE_STEP_REFUSED_n).irq pgCue IRQ_cue_step_refused).advance.spanned) ∧
    (0 ≤ n → n < 2 ^ 48 * cueSec * 2 ^ 40 →
      let v := ({ u with tod := u.tod.put n.toNat } : State).setFld64 pgCue CUE_LASTSTEP_lo CUE_LASTSTEP_hi u.now
      (s.held = true → let w := ((v.bump pgCue CUE_DISC_COUNT_n).irq pgCue IRQ_cue_discontinuity).advance.spanned
        exec .todTick s = .next ((w.jumped (some (n - s.tod.total))).writeAgain.fullTick s.now)) ∧
      (s.held = false → let w := ((v.setBit pgCue CUE_TOD_CTL_valid true).irq pgCue IRQ_cue_acquired).advance.spanned
        exec .todTick s = .next ((w.jumped (some 0)).writeAgain.fullTick s.now)))

/-- The end of a wake sets awake and starts the lane anew; a rise of signal detect on a sleeping lane with wake_det clears sleep
and starts its wake; a fall of it on a locked lane is a counted loss of lock with IRQ sd_loss; a hunting lane's dwell that
expires moves on to the next code, and after nine codes counts a failed hunt; the phase lock of a lane at its candidate rate
sets lock, shows the rate and raises IRQ lock; a changed fixed or rate on an unlocked lane starts it anew; a checker that
finds the last 64 bits correct, by the pattern of its mode or the check field, sets chk_sync; and more than 256 errors in
65,536 bits lose it, counted with IRQ sync_loss. -/
def Obligations.ReceiveLaneEventsComplete : Prop :=
  (∀ (s : State) (lane : Fin 512), s.low = false → (s.rx lane).waking = true →
    exec (.rxWakeDone lane) s = .next ((((s.setRx lane { s.rx lane with waking := false }).setBit (pgRxl lane) RXL_STAT_awake
      true).rxStart lane).watch)) ∧
  (∀ (s : State) (lane : Fin 512), s.low = false → s.bit (pgRxl lane) RXL_STAT_sd = false →
    let u := s.setBit (pgRxl lane) RXL_STAT_sd true
    u.bit (pgRxl lane) RXL_CTL_sleep = true → u.bit (pgRxl lane) RXL_CTL_wake_det = true →
    let v := (u.setBit (pgRxl lane) RXL_CTL_sleep false).keepParity (pgRxl lane) .rxl 0x100
    exec (.signalDetectRise lane) s = .next (v.setRx lane { u.rx lane with waking := true }).watch) ∧
  (∀ (s : State) (lane : Fin 512), s.low = false → s.bit (pgRxl lane) RXL_STAT_sd = true →
    let u := (s.setBit (pgRxl lane) RXL_STAT_sd false).irq (pgRxl lane) IRQ_rxl_sd_loss
    (u.bit (pgRxl lane) RXL_STAT_lock = true → exec (.signalDetectFall lane) s = .next
      ((((u.rxDrop lane).bump (pgRxl lane) RXL_LOCK_LOSS_n).irq (pgRxl lane) IRQ_rxl_lock_loss).rxStart lane).watch) ∧
    (u.bit (pgRxl lane) RXL_STAT_lock = false → exec (.signalDetectFall lane) s = .next u.watch)) ∧
  (∀ (s : State) (lane : Fin 512), s.low = false → s.bit (pgRxl lane) RXL_STAT_lock = true →
    exec (.rxLockLoss lane) s = .next
      ((((s.rxDrop lane).bump (pgRxl lane) RXL_LOCK_LOSS_n).irq (pgRxl lane) IRQ_rxl_lock_loss).rxStart lane).watch) ∧
  (∀ (s : State) (lane : Fin 512), s.low = false → s.bit (pgRxl lane) RXL_STAT_awake = true → (s.rx lane).fixed = false →
    s.bit (pgRxl lane) RXL_STAT_lock = false → s.bit (pgRxl lane) RXL_STAT_sd = true →
    (s.rx lane).dwellFrom + 52920 < s.now + 16 →
    let next := fun (n : Nat) => s.setRx lane { s.rx lane with hunt := n, dwellFrom := (s.rx lane).dwellFrom + 52920 }
    ((s.rx lane).hunt ≠ 8 → exec (.huntDwellExpire lane) s = .next (next ((s.rx lane).hunt + 1)).watch) ∧
    ((s.rx lane).hunt = 8 → exec (.huntDwellExpire lane) s = .next ((next 0).bump (pgRxl lane) RXL_HUNT_FAIL_n).watch)) ∧
  (∀ (s : State) (lane : Fin 512), s.low = false → s.bit (pgRxl lane) RXL_STAT_awake = true →
    s.bit (pgRxl lane) RXL_STAT_lock = false → s.bit (pgRxl lane) RXL_STAT_sd = true → s.rxCandidate lane ≤ 8 →
    let u := (((s.rxSettle lane).setBit (pgRxl lane) RXL_STAT_lock true).setFld (pgRxl lane) RXL_STAT_rate
      (s.rxCandidate lane)).irq (pgRxl lane) IRQ_rxl_lock
    exec (.rxLock lane) s = .next (if u.rxDelivers lane then u.srcBack lane else u).watch) ∧
  (∀ (s : State) (lane : Fin 512), s.low = false → (s.rx lane).change = true → (s.rx lane).fixed = false →
    s.bit (pgRxl lane) RXL_CTL_fixed = true →
    let u := s.setRx lane { s.rx lane with change := false, fixed := true, rate := s.fld (pgRxl lane) RXL_CTL_rate }
    s.bit (pgRxl lane) RXL_STAT_lock = false →
    exec (.rxRateChange lane) s = .next (u.rxStart lane).watch) ∧
  (∀ (s : State) (lane : Fin 512) (bits : List Bool), s.low = false → s.bit (pgRxl lane) RXL_STAT_lock = true →
    let m := s.fld (pgRxl lane) RXL_PAT_mode
    1 ≤ m → m ≤ 6 → (m = 6 → 64 ≤ bits.length ∧ (bits.drop (bits.length - 64)).all id = true) →
    (m ≠ 6 → prbsGood m (s.bit (pgRxl lane) RXL_PAT_inv) bits = true) →
    exec (.checkerSync ⟨lane, bits⟩) s = .next ((s.rxSettle lane).setBit (pgRxl lane) RXL_STAT_chk_sync true).watch) ∧
  (∀ (s : State) (lane : Fin 512) (errs : Nat), s.low = false → s.bit (pgRxl lane) RXL_STAT_chk_sync = true → 256 < errs →
    exec (.checkerSyncLoss lane errs) s = .next
      (((((s.rxSettle lane).bump (pgRxl lane) RXL_ERR_n errs).bump (pgRxl lane) RXL_SYNC_LOSS_n).irq (pgRxl lane)
        IRQ_rxl_sync_loss).setBit (pgRxl lane) RXL_STAT_chk_sync false).watch)

/-- A write of RXL_CTL, TXL_CTL, RXL_PAT, TXL_PAT, RXL_INJ, TXL_INJ or TXL_PHASE that the access may make is stored, after the
lane's bit counts have been brought up to the present, ends a handover in progress, and then has the effect its rule gives:
RXL_CTL and TXL_CTL put the lane to sleep or begin to wake it, note a swap request, and change its rate; a new pattern mode of
a receive lane ends the checker's synchronisation and starts or stops the lane's words, and mode 6 without a format is ignored
with 0x011; a single injection is noted for the next bit, and an exponent outside 10 to 40 is ignored with 0x010. A swap
request and a single injection are writes of the same registers with that bit set. -/
def Obligations.LaneRegisterWritesComplete : Prop :=
  (∀ (s : State) (a : Acc) (lane : Fin 512) (w : W32), Reaches s a →
    let p := pgRxl lane
    let r := s.rxSettle lane
    let kept := fun (o : Nat) => (r.stored a p .rxl lane o w).rxAbort lane
    let c := kept 0x100
    let v := c.setRx lane { c.rx lane with
      change := (c.rx lane).change || (c.rx lane).fixed != c.bit p RXL_CTL_fixed || (c.rx lane).rate != c.fld p RXL_CTL_rate,
      swapReq := (c.rx lane).swapReq || w.getLsbD 8 }
    let d := v.rxDrop lane
    let slept := getBits (r.word (p + 0x100)) 0 1
    let ctl := if slept = 0 ∧ c.fld p RXL_CTL_sleep = 1 then
        ((d.setBit p RXL_STAT_awake false).setRx lane { d.rx lane with waking := false }).defrForget lane
      else if slept = 1 ∧ c.fld p RXL_CTL_sleep = 0 then v.setRx lane { v.rx lane with waking := true }
      else v
    let q := kept 0x10C
    let x := q.setBit p RXL_STAT_chk_sync false
    let mode := getBits (r.word (p + 0x10C)) 0 4
    let pat := if mode = getBits (q.word (p + 0x10C)) 0 4 then q
      else if x.bit p RXL_STAT_lock = false then x
      else if x.rxDelivers lane = false then x.rxWordsStop lane
      else if 1 ≤ getBits (r.word (p + 0x10C)) 0 3 ∧ getBits (r.word (p + 0x10C)) 0 3 ≤ 5 then x.srcBack lane
      else x
    let y := kept 0x110
    let z := if w.getLsbD 0 then y.setRx lane { y.rx lane with injNext := true } else y
    let inj := if z.fld p RXL_INJ_exp ≠ 0 ∧ injOn (z.fld p RXL_INJ_exp) = false then
        ((z.setWord (p + 0x110) (r.word (p + 0x110))).sameArmed s p).accErr p 0x010 a accWrite (p + 0x110)
      else z
    (Admitted r a p .rxl lane 0x100 w → exec (.rxSleepWrite a lane w false) s = .next (ctl.taken a).watch) ∧
    (Admitted r a p .rxl lane 0x10C w → exec (.rxPatternWrite a lane w) s = .next (pat.taken a).watch) ∧
    (Admitted r a p .rxl lane 0x110 w → exec (.injectRateSet a false lane w) s = .next (inj.taken a).watch) ∧
    (w = s.compose p .rxl 0x110 (setBits (s.word (p + 0x110)) 0 1 1) → Admitted r a p .rxl lane 0x110 w →
      exec (.injectSingle a false lane) s = .next (inj.taken a).watch) ∧
    (w = s.compose p .rxl 0x100 (setBits (s.word (p + 0x100)) 8 1 1) → Admitted r a p .rxl lane 0x100 w →
      exec (.laneSwapRequest a false lane) s = .next (ctl.taken a).watch)) ∧
  (∀ (s : State) (a : Acc) (lane : Fin 512) (w : W32), Reaches s a →
    let p := pgTxl lane
    let r := s.txSettle lane
    let kept := fun (o : Nat) => (r.stored a p .txl lane o w).txAbort lane
    let c := kept 0x100
    let v := c.setTx lane { c.tx lane with swapReq := (c.tx lane).swapReq || w.getLsbD 8 }
    let slept := getBits (r.word (p + 0x100)) 0 1
    let x := if slept = 0 ∧ c.fld p TXL_CTL_sleep = 1 then
        (v.setBit p TXL_STAT_awake false).setTx lane { v.tx lane with waking := false }
      else if slept = 1 ∧ c.fld p TXL_CTL_sleep = 0 then v.setTx lane { v.tx lane with waking := true }
      else v
    let ctl := if x.bit p TXL_STAT_awake = false ∨ (Store.get (fun _ => ({} : Formatter)) x.fmtr lane).fmt.isNone then x.txRate lane
      else x
    let q := kept 0x10C
    let pat := if q.fld p TXL_PAT_mode = 6 ∧ (Store.get (fun _ => ({} : Formatter)) q.fmtr lane).fmt.isNone then
        ((q.setWord (p + 0x10C) (r.word (p + 0x10C))).sameArmed s p).accErr p 0x011 a accWrite (p + 0x10C)
      else q
    let y := kept 0x110
    let z := if w.getLsbD 0 then y.setTx lane { y.tx lane with injNext := true } else y
    let inj := if z.fld p RXL_INJ_exp ≠ 0 ∧ injOn (z.fld p RXL_INJ_exp) = false then
        ((z.setWord (p + 0x110) (r.word (p + 0x110))).sameArmed s p).accErr p 0x010 a accWrite (p + 0x110)
      else z
    (Admitted r a p .txl lane 0x100 w → exec (.txSleepWrite a lane w) s = .next (ctl.taken a).watch) ∧
    (Admitted r a p .txl lane 0x10C w → exec (.txPatternWrite a lane w) s = .next (pat.taken a).watch) ∧
    (Admitted r a p .txl lane 0x110 w → exec (.injectRateSet a true lane w) s = .next (inj.taken a).watch) ∧
    (Admitted r a p .txl lane 0x114 w → exec (.txPhaseWrite a lane w) s =
        .next ((r.stored a p .txl lane 0x114 w).taken a).watch) ∧
    (w = s.compose p .txl 0x110 (setBits (s.word (p + 0x110)) 0 1 1) → Admitted r a p .txl lane 0x110 w →
      exec (.injectSingle a true lane) s = .next (inj.taken a).watch) ∧
    (w = s.compose p .txl 0x100 (setBits (s.word (p + 0x100)) 8 1 1) → Admitted r a p .txl lane 0x100 w →
      exec (.laneSwapRequest a true lane) s = .next (ctl.taken a).watch))

/-- The end of a transmit lane's wake sets awake with IRQ wake; a rate change gives an awake lane the rate code its formatter or
TXL_CTL asks for, its clock family, RATE_CHG and IRQ rate_chg; a matched handover lands on the other slice, a transmit lane's
at its switching instant, and loads its equalisation and, on the receive side, its offset code, the slice going out of service
being calibrated; one that fails comparison raises IRQ handover_fail with code 0x020 and fails the rotation step; a phase step
moves an awake lane's phase by one towards TXL_PHASE.pos. -/
def Obligations.TransmitLaneEventsComplete : Prop :=
  (∀ (s : State) (lane : Fin 512), s.low = false → (s.tx lane).waking = true →
    let u := s.txSettle lane
    exec (.txWakeDone lane) s = .next (((u.setTx lane { u.tx lane with waking := false }).setBit (pgTxl lane) TXL_STAT_awake
      true).irq (pgTxl lane) IRQ_txl_wake).watch) ∧
  (∀ (s : State) (lane : Fin 512) (c : Nat), s.low = false → s.txTarget lane = some c → c ≠ s.fld (pgTxl lane) TXL_STAT_rate →
    let u := ((s.txSettle lane).setFld (pgTxl lane) TXL_STAT_rate c).setBit (pgTxl lane) TXL_STAT_family (c != 0 && c % 2 == 0)
    u.bit (pgTxl lane) TXL_STAT_awake = true →
    exec (.txRateChange lane) s = .next ((u.bump (pgTxl lane) TXL_RATE_CHG_n).irq (pgTxl lane) IRQ_txl_rate_chg).watch) ∧
  (∀ (s : State) (lane : Fin 512), s.low = false → s.bit (pgRxl lane) RXL_STAT_ho_busy = true →
    let u := ((s.setBit (pgRxl lane) RXL_STAT_ho_busy false).irq (pgRxl lane) IRQ_rxl_ho_done).rxLoadEq lane
    ((s.ro 0 (lane / 32)).st ≠ 3 → exec (.rxHandover lane true) s = .next
      (((u.rotOut 0 (lane / 32)).setFld (pgRxl lane) RXL_CAL_offset (u.ro 0 (lane / 32)).cal).rxCal lane).watch) ∧
    ((s.ro 0 (lane / 32)).st = 3 → exec (.rxHandover lane true) s = .next
      ((u.setBit (pgRxl lane) RXL_STAT_on_swing false).setFld (pgRxl lane) RXL_CAL_offset (u.rx lane).cal).watch) ∧
    (s.bit (pgRxl lane) RXL_STAT_sd = true → exec (.rxHandover lane false) s = .next
      ((((s.setBit (pgRxl lane) RXL_STAT_ho_busy false).irq (pgRxl lane) IRQ_rxl_handover_fail).err (pgRxl lane) 0x020).rotFail 0
        (lane / 32)).watch)) ∧
  (∀ (s : State) (lane : Fin 512), s.low = false → s.bit (pgTxl lane) TXL_STAT_ho_busy = true →
    s.txInstant lane = true → (s.bit (pgTxl lane) TXL_STAT_awake = true →
      (s.tx lane).phase = toSigned 8 (s.fld (pgTxl lane) TXL_PHASE_pos)) →
    let l := ((s.setBit (pgTxl lane) TXL_STAT_ho_busy false).irq (pgTxl lane) IRQ_txl_ho_done).txLoadEq lane
    let u := l.setTx lane { l.tx lane with hoFrames := 0 }
    ((u.ro 1 (lane / 32)).st = 3 → exec (.txHandover lane true) s =
        .next (u.setBit (pgTxl lane) TXL_STAT_on_swing false).watch) ∧
    ((u.ro 1 (lane / 32)).st ≠ 3 → exec (.txHandover lane true) s = .next ((u.rotOut 1 (lane / 32)).txCal lane).watch) ∧
    ((s.tx lane).hoFrames + 1 < 8 → exec (.txHandover lane false) s = .next
      (s.setTx lane { s.tx lane with hoFrames := (s.tx lane).hoFrames + 1 }).watch) ∧
    (8 ≤ (s.tx lane).hoFrames + 1 → exec (.txHandover lane false) s = .next
      (((((s.setTx lane { s.tx lane with hoFrames := 0 }).setBit (pgTxl lane) TXL_STAT_ho_busy false).irq (pgTxl lane)
        IRQ_txl_handover_fail).err (pgTxl lane) 0x020).rotFail 1 (lane / 32)).watch)) ∧
  (∀ (s : State) (lane : Fin 512), s.low = false → s.bit (pgTxl lane) TXL_STAT_awake = true →
    let goal := toSigned 8 (s.fld (pgTxl lane) TXL_PHASE_pos)
    let x := (s.tx lane).phase
    exec (.txPhaseStep lane) s = .next
      (if x = goal then s else s.setTx lane { s.tx lane with phase := if x < goal then x + 1 else x - 1 }).watch)

/-- On the base of a link group whose lanes deliver words, frames enough of one structure in a row establish its format: two, or
one that repeats the last format, and two without a fault after a link fault; fewer change nothing; a group that fails reports
its link fault. A report that the measurement does not bear out changes nothing. A format whose lanes show that it is lost
ends, raises IRQ fmt_loss and tells the Platform; otherwise it stays. A line of a lane that delivers words enters the frame's
measurement; with an established format above SD it counts a failed CRC and a number other than the deframer's own count; in
SD an EDH packet counts its errors, leaves its flags and rides with the frame; a lane that delivers none counts no line. -/
def Obligations.SdiReceptionCompletes : Prop :=
  (∀ (s : State) (lane : Fin 512) (cue : Fin 16) (m : Measured) (pic : Fmt) (links frames : Nat), s.low = false →
    s.defBase lane = lane → (s.df lane).fmt = none →
    s.rxDelivers lane = true → (s.df lane).seen = some m →
    let fails : Bool := 1 < s.defWidth lane && s.groupFails lane
    let l := s.groupLanes lane
    let need := if l.all (fun L => (s.df L).last == (s.df L).seen) then 1 else 2
    let ready := (∀ L ∈ l, need ≤ (s.df L).run) ∧ (s.bit (pgDef lane) RXF_STAT_link_fault = false ∨ 2 ≤ (s.df lane).sound)
    let borne := links = s.defWidth lane ∧ frames = (s.df lane).run ∧ pic = m.fmt
    (borne → fails = false → ready → exec (.formatEstablished lane pic links frames cue) s = .next
      (s.fmtFound lane m (s.now + cue)).watch) ∧
    (borne → fails = false → ¬ready → exec (.formatEstablished lane pic links frames cue) s = .next s.watch) ∧
    (borne → fails = true → exec (.formatEstablished lane pic links frames cue) s = .next (s.linkFail lane).watch) ∧
    (¬borne → exec (.formatEstablished lane pic links frames cue) s = .next s.watch)) ∧
  (∀ (s : State) (lane : Fin 512) (links : Nat), s.low = false →
    let b := s.defBase lane
    let lost : Bool := (s.groupLanes b).any (fun L => 2 ≤ (s.df L).stray || (s.df L).other) || (1 < s.defWidth b && s.groupFails b)
    let u := ((s.fmtEnds b).irq (pgDef b) IRQ_defr_fmt_loss).srcFmtLost b
    (links = s.defWidth b → (s.df b).fmt.isSome = true → lost = true → exec (.formatLost lane links) s = .next
      (if 1 < u.defWidth b then u.linkFail b else u).watch) ∧
    (links ≠ s.defWidth b ∨ (s.df b).fmt = none ∨ lost = false → exec (.formatLost lane links) s = .next s.watch)) ∧
  (∀ (s : State) (lane : Fin 512) (x : SdiLine) (cue : Fin 16), s.low = false →
    let b := s.defBase lane
    let p := pgDef b
    let u := s.lineMeasured lane x (s.now + cue)
    let own := (u.df lane).line
    (s.rxDelivers lane = false → exec (.sdiLineReceived lane x.ended x.eav x.sav x.toLineBody cue) s = .next s.watch) ∧
    (s.rxDelivers lane = true →
      (x.ended = none → u = s.setDf lane ((s.df lane).lineIn x (s.now + cue))) ∧
      ((u.df b).fmt = none → exec (.sdiLineReceived lane x.ended x.eav x.sav x.toLineBody cue) s = .next u.watch) ∧
      ((u.df b).fmt.isSome = true → u.defSd b = false →
        let v := if x.crcBad then u.bump p RXF_CRC_ERR_n else u
        exec (.sdiLineReceived lane x.ended x.eav x.sav x.toLineBody cue) s =
            .next (if own ≠ 0 ∧ x.num ≠ own then v.bump p RXF_LN_ERR_n else v).watch) ∧
      ((u.df b).fmt.isSome = true → u.defSd b = true → ∀ e, x.edh = some e →
        let v := (u.bump p RXF_EDH_ERR_n (e.apBad.toNat + e.ffBad.toNat)).setFld p RXF_STAT_edh_flags e.flags
        let field := match (u.df b).last with | some m => (decide (m.lines < 2 * own)).toNat | none => 0
        exec (.sdiLineReceived lane x.ended x.eav x.sav x.toLineBody cue) s = .next
          (v.edhCarry b field (e.apBad.toNat * 2 + e.ffBad.toNat * 4 + e.held % 8 * 8)).watch) ∧
      ((u.df b).fmt.isSome = true → u.defSd b = true → x.edh = none →
          exec (.sdiLineReceived lane x.ended x.eav x.sav x.toLineBody cue) s = .next u.watch)))

/-- A payload ID whose checksum is good is taken in whether or not a format is established; a packet of stream 2 of a dual-stream
link is discarded. A packet of an established format whose checksum fails counts and is carried only with anc_keep_bad set; a
timecode set is stored whole with IRQ tc, and tc_over where the last was never read; embedded audio above SD feeds the Pit, an
audio control packet marks its group; in SD both are carried; without a format another packet changes nothing. A read of
RXF_TC_LO by a master with a path returns it and latches the rest of the set for that master. -/
def Obligations.AncillaryPacketsComplete : Prop :=
  (∀ (s : State) (lane : Fin 512) (k : AncPkt) (body : AncBody) (ok : Bool) (at_ : Nat), s.low = false →
    let b := s.defBase lane
    let p := pgDef b
    let isPid := k.did = 0x241 ∧ k.sdid = 0x101
    (s.dualStream b = true → k.stream = 2 → exec (.ancPacketReceived lane k body ok at_) s = .next s.watch) ∧
    (¬(s.dualStream b = true ∧ k.stream = 2) →
      (∀ v, isPid → exec (.ancPacketReceived lane k (.payloadId v) true at_) s = .next (s.pidIn lane v).watch) ∧
      (¬isPid → (s.df b).fmt = none → exec (.ancPacketReceived lane k body ok at_) s = .next s.watch) ∧
      ((s.df b).fmt.isSome = true →
        (let u := s.bump p RXF_ANC_BAD_n
         exec (.ancPacketReceived lane k body false at_) s =
             .next (if u.lbit p RXF_CFG_anc_keep_bad then u.ancCarry lane k else u).watch) ∧
        (k.did = 0x180 ∨ k.did = 0x1F4 → exec (.ancPacketReceived lane k body true at_) s = .next s.watch) ∧
        (∀ w t, k.did = 0x260 → k.sdid = 0x260 → exec (.ancPacketReceived lane k (.timecode w t) true at_) s = .next
          ((s.timecode b w t at_).ancCarry lane k).watch) ∧
        (k.did ≠ 0x180 → k.did ≠ 0x1F4 → ¬isPid →
          (∀ l st e, exec (.ancPacketReceived lane k (.audio l st e) true at_) s = .next
            (if s.defSd b then s.ancCarry lane k else s.audioIn lane b l st e).watch) ∧
          (∀ g sy, exec (.ancPacketReceived lane k (.control g sy) true at_) s = .next
            (if s.defSd b then s.ancCarry lane k else s.audioControl lane b g sy).watch) ∧
          exec (.ancPacketReceived lane k .other true at_) s = .next (s.ancCarry lane k).watch)))) ∧
  (∀ (s : State) (a : Acc) (lane : Fin 512), Reaches s a →
    let p := pgDef lane
    let u := [0x134, 0x138, 0x13C, 0x140].foldl (fun x o => x.setMreg a.m (p + o) (x.word (p + o))) s
    exec (.timecodeLatchRead a lane) s = .next
      ((u.setDf lane { s.df lane with tcRead := true }).answerWord a.m (s.word (p + 0x130))))

/-- An output frame of a tap starts with the frame of the rail whose stream it passes, or on the group's grid where it sends its
mute output. The formatter's waiting commit then applies; with no source that it can carry and no mute output named it is
muted and sends nothing; with a mute output it sends that, counts the frame and carries no picture of a rail; with a source it
sends the whole frame from its tap's rail with the source's payload ID and ancillary packets, and is not muted. At any other
instant no frame starts. -/
def Obligations.FormatterFrameStartCompletes : Prop :=
  (∀ (s : State) (tap : Fin 512) (cue : Fin 16) (room : List AncRoom), s.low = false → s.fmtDue tap (s.now + cue) = true →
    let p := pgFmt tap
    let u := s.applySlot p .fmt 0
    let was := u.fm tap
    let mutedNow := u.setBit p TXF_STAT_muted true
    let base := fun (x : State) (f : Fmt) =>
      let old := linkLines (was.fmt.getD f) (linkWidth (x.lv p TXF_LINK_mode))
      ({ fmt := some f, start := s.now + cue, len := if was.fmt.isSome then s.now + cue - was.start else 0,
         groups := x.fmtGroups tap f,
         audio := if was.fmt.isSome then (was.audio.filter (fun a => old < a.2.1)).map (fun a => (a.1, a.2.1 - old, a.2.2)) else [],
         room := room } : Formatter)
    (u.fmtSource tap = none → u.muteFmt tap = none → exec (.formatterFrameStart tap cue room) s = .next
      ((((if u.bit p TXF_STAT_muted then mutedNow else mutedNow.irq p IRQ_fmt_muted).txSettle tap).setFm tap {}).setWord
        (p + TXF_PID_val.off) 0 |>.txRate tap)) ∧
    (∀ f, u.fmtSource tap = none → u.muteFmt tap = some f →
      let v := ((if u.bit p TXF_STAT_muted ∧ was.fmt.isSome then mutedNow else mutedNow.irq p IRQ_fmt_muted).bump p TXF_MUTE_FR_n).txSettle tap
      let w := v.setFm tap (base v f)
      exec (.formatterFrameStart tap cue room) s =
          .next ((w.setWord (p + TXF_PID_val.off) (w.lword (p + TXF_MUTE_pid.off))).txRate tap)) ∧
    (∀ f, u.fmtSource tap = some f →
      let v := (u.setBit p TXF_STAT_muted false).txSettle tap
      let r := v.tapRail tap
      let w := v.setFm tap { base v f with video := [(1, r)] }
      let x := w.setWord (p + TXF_PID_val.off) (w.fmtPid tap f false)
      exec (.formatterFrameStart tap cue room) s = .next
        (((x.railAnc r).foldl (fun y k => y.ancOut tap k) (was.next.foldl (fun y e => y.ancLeft tap e) x)).txRate tap))) ∧
  ∀ (s : State) (tap : Fin 512) (cue : Fin 16) (room : List AncRoom), s.low = false → s.fmtDue tap (s.now + cue) = false →
    exec (.formatterFrameStart tap cue room) s = .next s

/-- A frame on a logical port that is down or absent changes nothing of the port; on one that is up its FEC blocks count, and it
ends at the first of runt, giant, bad FCS and a failed checksum that applies, each counted, or it is classified with its stamp
corrected by ETH_PTP_ADJ. A link that comes up sets its bit with IRQ link_up, one that goes down clears it, counts and raises
IRQ link_down; a module's int_n leaves its pins in ETH_MOD, with IRQ mod_int where int_n fell. -/
def Obligations.EthernetPortEventsComplete : Prop :=
  (∀ (s : State) (lp : Fin 64) (t : Nat) (data : List Byte) (ok : Bool) (c x : Nat), s.low = false →
    (¬(s.lpExists lp = true ∧ s.lpUp lp = true) → exec (.ethFrameReceived lp t data ok c x) s = .next s.watch) ∧
    (s.lpExists lp = true → s.lpUp lp = true →
      let u := (s.stat lp ST_FEC_CORR_lo c).stat lp ST_FEC_UNCORR_lo x
      let n := data.length + 4
      let v := (u.stat lp ST_RX_FRAMES_lo).stat lp ST_RX_BYTES_lo n
      let h := headOf data
      let stamp := ((t : Int) + v.fldS (pgEthP (lp / 4)) ETH_PTP_ADJ_rx).toNat
      exec (.ethFrameReceived lp t data ok c x) s = .next (
        (if n < 64 then u.stat lp ST_RX_RUNT_lo
        else if 9216 < n then u.stat lp ST_RX_GIANT_lo
        else if ok = false then u.stat lp ST_RX_FCS_lo
        else match h.verdict with
          | some f => v.stat lp f
          | none => (if h.v4 && h.frag then v.stat lp ST_RX_FRAG_lo else v).frameClass lp stamp h data).watch))) ∧
  (∀ (s : State) (lp : Fin 64), s.low = false →
    let p := pgEthC (lp / 4)
    (s.lpExists lp = true ∧ s.lpUp lp = false → exec (.linkUp lp) s = .next
      (let u := s.setFld p ETH_LINK_up (putBit (s.fld p ETH_LINK_up) (lp % 4) true)
       (u.setFld p ETH_LINK_hi_ser (putBit (u.fld p ETH_LINK_hi_ser) (lp % 4) false)).irq p IRQ_ethCtl_link_up)) ∧
    (¬(s.lpExists lp = true ∧ s.lpUp lp = false) → exec (.linkUp lp) s = .next s)) ∧
  (∀ (s : State) (lp : Fin 64) (ber : Bool), s.low = false →
    let p := pgEthC (lp / 4)
    (s.lpUp lp = true → exec (.linkDown lp ber) s = .next
      (let u := s.setFld p ETH_LINK_up (putBit (s.fld p ETH_LINK_up) (lp % 4) false)
       ((u.setFld p ETH_LINK_hi_ser (putBit (u.fld p ETH_LINK_hi_ser) (lp % 4) ber)).stat lp ST_LINK_DOWN_lo).irq p
        IRQ_ethCtl_link_down)) ∧
    (s.lpUp lp = false → exec (.linkDown lp ber) s = .next s)) ∧
  (∀ (s : State) (port : Fin 16) (low present : Bool), s.low = false →
    let u := (s.setBit (pgEthC port) ETH_MOD_int_n (!low)).setBit (pgEthC port) ETH_MOD_present present
    exec (.moduleInterrupt port low present) s = .next
      (if low && s.bit (pgEthC port) ETH_MOD_int_n then u.irq (pgEthC port) IRQ_ethCtl_mod_int else u))

/-- A write of ETH_TWI_CMD with go starts a transfer of 1 to 16 bytes; one with another length is refused with code 0x042; while a
transfer runs a go starts nothing, and without go the register only takes its fields. The end of a transfer sets done or
no-acknowledge with IRQ twi_done, and a read that was acknowledged leaves its bytes in ETH_TWI_DATA, the bytes past its length
as they were; without a transfer it changes nothing. -/
def Obligations.TwoWireCommandsComplete : Prop :=
  (∀ (s : State) (a : Acc) (port : Fin 16) (w : W32), Reaches s a → Admitted s a (pgEthC port) .ethCtl port 0x154 w →
    let p := pgEthC port
    let u := s.stored a p .ethCtl port 0x154 w
    let n := u.fld p ETH_TWI_CMD_len
    (w.getLsbD 31 = false → exec (.twiCommand a port w) s = .next (u.taken a)) ∧
    (w.getLsbD 31 = true → n = 0 ∨ 16 < n → exec (.twiCommand a port w) s = .next
      ((u.accErr p 0x042 a accWrite (p + 0x154)).taken a)) ∧
    (w.getLsbD 31 = true → 1 ≤ n → n ≤ 16 → exec (.twiCommand a port w) s = .next
      ((if u.fld p ETH_TWI_STAT_st = 1 then u else u.setFld p ETH_TWI_STAT_st 1).taken a))) ∧
  (∀ (s : State) (port : Fin 16) (ack : Bool) (data : List Byte), s.low = false →
    let p := pgEthC port
    let u := (s.setFld p ETH_TWI_STAT_st (if ack then 2 else 3)).irq p IRQ_ethCtl_twi_done
    (s.fld p ETH_TWI_STAT_st ≠ 1 → exec (.twiDone port ack data) s = .next s) ∧
    (s.fld p ETH_TWI_STAT_st = 1 → ¬(ack = true ∧ u.bit p ETH_TWI_CMD_read = true) → exec (.twiDone port ack data) s =
        .next u) ∧
    (s.fld p ETH_TWI_STAT_st = 1 → ack = true → u.bit p ETH_TWI_CMD_read = true →
      let l := data.take (u.fld p ETH_TWI_CMD_len)
      let put := fun (x : State) (i : Nat) => x.setWord (p + ETH_TWI_DATA.at i) (BitVec.ofNat 32 (ofBytesLE
        ((l.drop (4 * i)).take 4 ++ (bytesOf (x.word (p + ETH_TWI_DATA.at i))).drop ((l.drop (4 * i)).take 4).length)))
      exec (.twiDone port ack data) s = .next (put (put (put (put u 0) 1) 2) 3)))

/-- A transmit head at most 256 past the tail is taken, one further is restored with code 0x040; a receive tail that does not pass
the hardware's head is taken, one that does is restored likewise. With no descriptor waiting nothing is sent; one of a length
outside 14 to 9,212 is written back with an error, counted and captured; one of another port is written back with the error
flag; one whose frame would not end before a media packet is due waits; otherwise its bytes go out, padded to 60, with the
checksums and the one-step time its flags ask for, its stamp enters the queue where it asked for one and departed, and it is
written back as done, unstamped where the stamp could not be given. A pop of the stamp queue in the same cycle comes first. A
read of ETH_TSQ_POP removes the head stamp and latches its words for the reading master, and of an empty queue returns zero. -/
def Obligations.CrewRingCommandsComplete : Prop :=
  (∀ (s : State) (a : Acc) (port : Fin 16) (w : W32), Reaches s a → Admitted s a (pgEthR port) .ethRing port 0x128 w →
    let p := pgEthR port
    let u := s.stored a p .ethRing port 0x128 w
    let ahead := (getBits (u.word (p + 0x128)) 0 16 + 65536 - u.fld p ETH_TXR_TAIL_n) % 65536
    (ahead ≤ 256 → exec (.txRingHeadWrite a port w) s = .next (u.taken a)) ∧
    (256 < ahead → exec (.txRingHeadWrite a port w) s = .next
      ((((u.setWord (p + 0x128) (s.word (p + 0x128))).sameArmed s p).accErr p 0x040 a accWrite (p + 0x128)).taken a))) ∧
  (∀ (s : State) (a : Acc) (port : Fin 16) (ctl : Bool) (w : W32), Reaches s a →
    let o := if ctl then 0x11C else 0x10C
    Admitted s a (pgEthR port) .ethRing port o w →
    let p := pgEthR port
    let u := s.stored a p .ethRing port o w
    let before := getBits (s.word (p + o)) 0 16
    let step := (getBits (u.word (p + o)) 0 16 + 65536 - before) % 65536
    let room := (u.fld p (if ctl then ETH_CRR_HEAD_n else ETH_PRR_HEAD_n) + 65536 - before) % 65536
    (step ≤ room → exec (.ringIndexWrite a port ctl w) s = .next (u.taken a)) ∧
    (room < step → exec (.ringIndexWrite a port ctl w) s = .next
      ((((u.setWord (p + o) (s.word (p + o))).sameArmed s p).accErr p 0x040 a accWrite (p + o)).taken a))) ∧
  (∀ (s v : State) (port : Fin 16) (cue : Fin 16) (pop : Option Acc), s.low = false →
    v = (match pop with | some a => s.viaRead a (pgEthP port + 0x110) (fun x => x.popStamp a.m port) | none => s) →
    (v.txNext port = none → exec (.crewFrameTransmit port ⟨cue, pop⟩) s = .next v) ∧
    (∀ n, v.txNext port = some n →
      let t := v.now + cue
      let d := v.txDesc port n
      let len := v.loadLE (d + 8) 2
      let lp := v.loadLE (d + 10) 1
      let fl := v.loadLE (d + 11) 1
      let tag := v.loadLE (d + 12) 2
      (len < 14 ∨ 9212 < len → exec (.crewFrameTransmit port ⟨cue, pop⟩) s = .next
        (((v.writeBack port n 64).bump (pgEthR port) TX_BAD_LEN_n).err (pgEthR port) 0x041)) ∧
      (14 ≤ len → len ≤ 9212 → lp / 4 ≠ port → exec (.crewFrameTransmit port ⟨cue, pop⟩) s = .next (v.writeBack port n 64)) ∧
      (14 ≤ len → len ≤ 9212 → lp / 4 = port → v.lpSends lp = true → v.mediaDue lp (t + v.wireTime lp (max 60 len) - 1) ≠ [] →
        exec (.crewFrameTransmit port ⟨cue, pop⟩) s = .next v) ∧
      (14 ≤ len → len ≤ 9212 → lp / 4 = port → (v.lpSends lp = true →
          v.mediaDue lp (t + v.wireTime lp (max 60 len) - 1) = []) →
        let r := v.engineRead (0x48 + port) (v.loadLE d 8) len
        let u := if len < 60 && r.1.lpSends lp then r.1.stat lp ST_TX_PAD_lo else r.1
        let f := r.2 ++ List.replicate (60 - len) 0
        let f := if fl.testBit 2 then insIp f else f
        let f := if fl.testBit 3 then insUdp f else f
        let stamp := ((t : Int) + u.fldS (pgEthP port) ETH_PTP_ADJ_tx).toNat
        let one := u.txOneStep port n
        let w := u.depart lp t (if one then u.oneStep f stamp else f)
        let x := ptpOf (w.todStamp stamp)
        let st : Stamp := if w.held then ⟨tag, lp % 4, stamp, x.1, x.2.1, x.2.2, true⟩ else ⟨tag, lp % 4, stamp, 0, 0, 0, false⟩
        let q := w.pushStamp port st
        (fl.testBit 0 = true → u.lpSends lp = true → exec (.crewFrameTransmit port ⟨cue, pop⟩) s = .next
          (q.1.writeBack port n (if !q.2 || (one && !q.1.held) then 32 else 0))) ∧
        (¬(fl.testBit 0 = true ∧ u.lpSends lp = true) → exec (.crewFrameTransmit port ⟨cue, pop⟩) s = .next
          (w.writeBack port n (if fl.testBit 0 || (one && !w.held) then 32 else 0)))))) ∧
  (∀ (s : State) (a : Acc) (port : Fin 16), Reaches s a →
    let p := pgEthP port
    (s.stamps port = [] → exec (.tsqPop a port) s = .next (s.answerWord a.m 0)) ∧
    (∀ x rest, s.stamps port = x :: rest →
      let put := fun (y : State) (o v : Nat) => y.setMreg a.m (p + o) (BitVec.ofNat 32 v)
      let u := s.setStamps port rest
      let u := put (put u 0x114 (x.upt % 2 ^ 32)) 0x118 (x.upt / 2 ^ 32)
      let u := put (put u 0x11C (x.sec % 2 ^ 32)) 0x120 (x.sec / 2 ^ 32 % 65536)
      let u := put (put u 0x124 x.ns) 0x128 (ofSigned 17 x.rem + x.tod.toNat * 2 ^ 31)
      exec (.tsqPop a port) s = .next (u.answerWord a.m (BitVec.ofNat 32 (x.tag % 65536 + x.lp * 65536 + 2 ^ 31)))))

/-- With no kept packet, or none whose release instant lies before the end of the TICK, a release changes nothing. A due packet
leaves the merge, and the numbers missing below it are counted lost: an audio packet's samples are at the Pit already, an
ancillary packet joins its rail's frame, a video packet goes to its Platform; one staged in DRAM goes there with the bytes
read back, or is lost itself and captured with code 0x052 where they have an uncorrectable error. A Live entry whose active
senders have been silent for the loss time goes to Lost with IRQ flow_lost when no other sender is heard, and locks again to
the sender heard last otherwise, which counts as a change; an entry not Live, or with an active sender still heard, is left as
it is. -/
def Obligations.FlowReceptionCompletes : Prop :=
  (∀ (s : State) (e : Fin 8192) (bad : Option Nat), s.low = false →
    let v := s.rxe e
    (v.kept = [] → exec (.flowPacketRelease e bad) s = .next s) ∧
    (∀ k, firstKept v.kept = some k → s.now + 16 ≤ k.arrive + s.skewCues e → exec (.flowPacketRelease e bad) s = .next s) ∧
    (∀ k, firstKept v.kept = some k → k.arrive + s.skewCues e < s.now + 16 →
      let rest := v.kept.erase k
      let lost := if k.gen ≠ v.gen then 0 else
        match v.done with
        | some d => (k.seq - d - 1) - (rest.filter (fun x => x.gen == v.gen && d < x.seq && x.seq < k.seq)).length
        | none => 0
      let done := if k.gen = v.gen then some (max k.seq (v.done.getD k.seq)) else v.done
      let after := fun (x : State) => x.setRxe e { v with kept := rest, done := done, unref := !x.held }
      let count := fun (x : State) (n : Nat) => (x.rxCount e ecLost n).bump pgFlr FLR_LOST_n n
      (k.staged = none →
        let u := count (after s) lost
        (isAudio (s.rxType e) = true → exec (.flowPacketRelease e bad) s = .next u) ∧ (s.rxType e = 4 →
            exec (.flowPacketRelease e bad) s = .next (u.ancRelease e k)) ∧
        (isAudio (s.rxType e) = false → s.rxType e ≠ 4 → exec (.flowPacketRelease e bad) s = .next (u.videoRelease e k))) ∧
      (∀ a n, k.staged = some (a, n) → s.rxType e = 0 →
        let u := after (s.areaSeen (stageReq e) a n bad.toList)
        (∀ x, s.areaBad a n bad.toList = some x → exec (.flowPacketRelease e bad) s = .next
          ((count u (lost + 1)).err pgFlc 0x052 (some accMediaRead) (some x))) ∧
        (s.areaBad a n bad.toList = none → exec (.flowPacketRelease e bad) s =
            .next ((count u lost).videoRelease e { k with data := s.load a n }))))) ∧
  (∀ (s : State) (e : Fin 8192), s.low = false →
    let v := s.rxe e
    let heard := v.senders.any (fun x => x.active && s.now + 16 ≤ x.heard + s.lossTime e)
    (v.st ≠ 3 ∨ heard = true → exec (.flowLossTimeout e) s = .next s.watch) ∧
    (v.st = 3 → heard = false →
      let c := ((v.senders.zip (List.range v.senders.length)).filter (fun x => !x.1.active && s.now < x.1.heard + s.lossTime e)).map
        (fun x => (x.1.heard, x.2))
      (c = [] → exec (.flowLossTimeout e) s = .next ((s.rxLeave e 4).irq pgFlr IRQ_flr_flow_lost).watch) ∧
      (∀ h l, c = h :: l →
        let i := (l.foldl (fun b x => if b.1 < x.1 then x else b) h).2
        let w := s.rxLeave e 2
        exec (.flowLossTimeout e) s = .next ((((w.setRxe e { w.rxe e with senders := makeActive v.senders i true }).rxCount e
          ecSndChg).bump pgFlr FLR_SNDCHG_n)).watch)))

/-- A load or store that finds its window busy is ignored with code 0x051. A load sets busy and copies the defined bits of the
staged or live entry's 16 words to the window, with the entry's senders, state and counters; a store sets busy, copies the
window to the staged entry and counts the stored entries; the end of either clears busy. A check of an armed page's live
table, after the upsets that come before it, compares its CRC with the reference and reports code 0x050 on a mismatch. -/
def Obligations.FlowWindowsComplete : Prop :=
  (∀ (s : State) (a : Acc) (isTx : Bool) (word : W32), Reaches s a →
    let p := if isTx then pgFlt else pgFlr
    let k : PageKind := if isTx then .flt else .flr
    let w := setBits word 24 2 1
    Admitted s a p k 0 0x100 w →
    let u := s.stored a p k 0 0x100 w
    let e := u.fld p FLR_SEL_entry
    let b := u.setBit p FLR_SEL_busy true
    let tab := if isTx then (if b.bit p FLR_SEL_live then b.txTab else b.txStage) else (if b.bit p FLR_SEL_live then b.rxTab else b.rxStage)
    let x := (List.range 16).foldl
      (fun y i => y.setWord (p + FLR_WIN.at i) (Store.get (fun _ => 0) tab (e * 16 + i) &&& entMask isTx i)) b
    exec (.flowLoad a isTx word) s = .next
      ((if u.bit p FLR_SEL_busy then u.accErr p 0x051 a accWrite (p + 0x100)
        else if isTx then x.loadTx e else x.loadRx e).taken a)) ∧
  (∀ (s : State) (a : Acc) (isTx : Bool) (word : W32), Reaches s a →
    let p := if isTx then pgFlt else pgFlr
    let k : PageKind := if isTx then .flt else .flr
    let w := setBits word 24 2 2
    Admitted s a p k 0 0x100 w →
    let u := s.stored a p k 0 0x100 w
    let e := u.fld p FLR_SEL_entry
    let b := u.setBit p FLR_SEL_busy true
    let put := fun (t : Store W32) => (List.range 16).foldl
      (fun t i => Store.put (fun _ => 0) (e * 16 + i) (b.word (p + FLR_WIN.at i) &&& entMask isTx i) t) t
    let x := if isTx then { b with txStage := put b.txStage, txStored := (e :: b.txStored).dedup }
      else { b with rxStage := put b.rxStage, rxStored := (e :: b.rxStored).dedup }
    exec (.flowStore a isTx word) s = .next
      ((if u.bit p FLR_SEL_busy then u.accErr p 0x051 a accWrite (p + 0x100)
        else x.setFld p FLR_PEND_n (if isTx then x.txStored else x.rxStored).length).taken a)) ∧
  (∀ (s : State) (page : Fin 3), s.low = false →
    exec (.windowOpDone page) s = .next
      (if page = 0 then s.setBit pgFlr FLR_SEL_busy false
       else if page = 1 then s.setBit pgFlt FLT_SEL_busy false
       else s.setBit pgPitW PIT_SEL_busy false)) ∧
  (∀ (s : State) (isTx : Bool) (upsets : List (Nat × Nat)), s.low = false →
    let p := if isTx then pgFlt else pgFlr
    let up := fun (t : Store W32) => upsets.foldl
      (fun t u => Store.put (fun _ => 0) u.1 (flipBit (Store.get (fun _ => 0) t u.1) u.2) t) t
    let t := if isTx then { s with txTab := up s.txTab } else { s with rxTab := up s.rxTab }
    let c := (flowCrc isTx (if isTx then t.txTab else t.rxTab)).toNat
    let u := t.setFld p FLR_TCRC_NOW_crc c
    (s.bit p PAGE_STAT_armed = false → exec (.flowTableCrcPass isTx upsets) s = .next t) ∧
    (s.bit p PAGE_STAT_armed = true → s.bit p PAGE_CTL_parity = false → exec (.flowTableCrcPass isTx upsets) s = .next
      (if c = u.fld p FLR_TCRC_REF_crc then u else u.cfgFault p 0x050 p)))

/-- A path of an entry that is not enabled (but for a frame begun before), or is path 2 of a single entry, or is switched off for
the pair's paths, sends nothing. While time of day is Unset an enabled entry waits for it; once it is Held a waiting entry is
set to start with its next frame. A path without a timetable row sends nothing, a packet before its release instant or before
its data does not leave, and one that another packet of its port goes before waits. From then on the packet leaves: its frame
is what the logical port sent last, unless media output is quiet or the port is down, the packet counts in the entry, and the
path stands at the packet after it, or with the frame's last at the frame after it. -/
def Obligations.FlowTransmissionCompletes : Prop :=
  ∀ (s : State) (e : Fin 8192) (pathB : Bool) (n : Nat) (payload : List Byte) (cue : Fin 16), s.low = false →
    let t := s.now + cue
    let v := s.txe e
    let p := v.path pathB
    let tab := s.pathTab e p
    let lp := pathPort tab e pathB
    let on := entFld tab e RXE_CTL_en = 1 ∧ (pathB = true → entFld tab e RXE_CTL_dual = 1) ∧
      (s.lv pgPair PAIR_CFG_paths).testBit pathB.toNat = true
    (¬on → exec (.flowPacketTransmit e pathB n payload cue) s = .next s) ∧
    (on → s.held = false → exec (.flowPacketTransmit e pathB n payload cue) s =
        .next (s.setTxe e { v with waitTod := true, sending := false })) ∧
    (on → s.held = true → v.waitTod = true → exec (.flowPacketTransmit e pathB n payload cue) s =
        .next (s.setTxe e (s.txStart e v))) ∧
    (on → s.held = true → v.waitTod = false → entFld tab e RXE_CTL_type = 1 → s.txComp tab e = false → p.old = none →
      exec (.flowPacketTransmit e pathB n payload cue) s = .next (s.setTxe e ({ v with sending := false }.setPath pathB
        { frame := s.gridNext (txGrid tab e) t, seq := p.seq + p.k }))) ∧
    (on → s.held = true → v.waitTod = false → (entFld tab e RXE_CTL_type = 1 → s.txComp tab e = true) →
      (s.txRow e pathB = none → p.old = none → exec (.flowPacketTransmit e pathB n payload cue) s = .next s) ∧
      (∀ row, s.txRow e pathB = some row →
        let N1 := s.txPackets e pathB 1
        let tro := s.releaseTro tab e row.2 pathB
        let rel := releaseAt tab e p.frame tro p.k N1
        let due := releaseAt tab e p.frame (max tro (s.tapDelay tab e)) p.k N1
        let quiet : Bool := s.ipQuiet || s.pathQuiet tab e
        let first := ∀ y ∈ s.mediaDue lp t,
          (y.2.2.1 = e ∧ y.2.2.2 = pathB) ∨ rel < y.1 ∨ (rel = y.1 ∧ row.1 < y.2.1)
        (t < due → exec (.flowPacketTransmit e pathB n payload cue) s = .next s) ∧
        (due ≤ t → quiet = false → ¬first → exec (.flowPacketTransmit e pathB n payload cue) s = .next s) ∧
        (due ≤ t → quiet = true ∨ first →
          let b := s.txBegin tab e p.frame
          let N := b.txPackets e pathB n
          let f := b.txFrame tab e pathB n payload
          (f.length + 4 < 66 → exec (.flowPacketTransmit e pathB n payload cue) s = .next b) ∧
          (66 ≤ f.length + 4 → ∃ u, exec (.flowPacketTransmit e pathB n payload cue) s = .next u ∧
            (b.ipQuiet = false → b.pathQuiet tab e = false → b.lpSends lp = true →
              Store.get (fun _ => none) u.sent lp = some ⟨lp, t, f⟩ ∧ (u.txe e).cnt.getD 0 0 = (b.txe e).cnt.getD 0 0 + 1) ∧
            (p.k + 1 ≠ N → (u.txe e).path pathB = { p with k := p.k + 1, n := N, row := some row }) ∧
            (p.k + 1 = N → p.old = none → (u.txe e).path pathB =
              { frame := b.gridNext (txGrid tab e) (p.frame + 1), seq := (p.seq + p.k + 1) % 2 ^ 32 })))))

/-- A frame of an SDI source that is Aligned or Unaligned is put to the alignment test; the first frame of one that is Detecting
establishes its format; a Platform that is Off takes no frame. A frame of a Live flow entry likewise, once its first packet
was released; one of an entry not Live changes nothing. With no ready frame, or none whose release lies before the end of the
TICK, no rail frame starts; one that is due starts at its release instant after the gang's waiting settings, a decided change
and, where they changed the test, a new test of it; holding is cleared and its start shown in every rail of the gang. A held
black frame starts one frame length after the last, and when the hold runs out the rail carries no format. A line released
while the rail holds is black; another conceals its missing pixels and counts, and an SRAM error is captured with code 0x060,
and the line goes into the frames that units write from the rail. A group past its last old instant runs on its new grid with
IRQ regroup, and every Platform aligned to it tests its source again. -/
def Obligations.PlatformFramesComplete : Prop :=
  (∀ (s : State) (rail : Fin 2048) (cue : Fin 16), s.low = false →
    let u := if rail.val < 512 then s.defrApply rail else s
    let b := u.ptBase rail
    (b < 512 →
      (∀ f, u.ptState b = ptAligned ∨ u.ptState b = ptUnaligned → (u.pt b).last = some f →
        exec (.sourceFrameReady rail cue) s = .next (u.srcFrame b (u.now + cue) f false false).watch) ∧
      (∀ f, u.ptState b = ptLost ∨ u.ptState b = ptDetecting → (u.df b).fmt = some f →
        exec (.sourceFrameReady rail cue) s = .next (u.srcFmt b (u.now + cue) f false).watch) ∧
      (u.ptState b = ptOff → exec (.sourceFrameReady rail cue) s = .next u.watch)) ∧
    (512 ≤ b → ∀ e, slotEntry u.rxTab (b - 512) = some e →
      let v := u.rxe e
      let ts := v.frame.getD 0
      let f := entFmt u.rxTab e
      let comp : Bool := entFld u.rxTab e RXE_CTL_type = 1
      let w := u.setRxe e { v with fresh := false }
      (v.st ≠ 3 ∨ v.fresh = false → exec (.sourceFrameReady rail cue) s = .next u.watch) ∧
      (v.st = 3 → v.fresh = true → u.ptState b = ptLost ∨ u.ptState b = ptDetecting ∨ u.ptState b = ptOversize →
        exec (.sourceFrameReady rail cue) s = .next (w.srcFmt b (u.now + cue) f comp ts).watch) ∧
      (v.st = 3 → v.fresh = true → u.ptState b = ptAligned ∨ u.ptState b = ptUnaligned →
        exec (.sourceFrameReady rail cue) s = .next (w.srcFrame b (u.now + cue) f false comp ts).watch))) ∧
  (∀ (s : State) (rail : Fin 2048), s.low = false →
    let b := s.ptBase rail
    ((s.pt b).frames = [] → exec (.railFrameStart rail) s = .next s.watch) ∧
    (∀ fr rest, (s.pt b).frames = fr :: rest →
      let x := s.setPt b { s.pt b with frames := rest }
      let u := (x.ptRails b).foldl (fun y r => y.ptApply r) x
      (s.now + 16 ≤ fr.release → exec (.railFrameStart rail) s = .next s.watch) ∧
      (fr.release < s.now + 16 → u.ptState b ≠ ptAligned → u.ptState b ≠ ptUnaligned →
        exec (.railFrameStart rail) s = .next u.watch) ∧
      (fr.release < s.now + 16 → u.ptState b = ptAligned ∨ u.ptState b = ptUnaligned →
        let w := u.ptTurn b fr.release
        let lam := w.grpNext (w.plv b PLT_CFG_group) fr.ready - fr.ready
        let retested := (w.plv b PLT_CFG_group, w.plv b PLT_CFG_win) ≠ (s.plv b PLT_CFG_group, s.plv b PLT_CFG_win)
        let fails := w.ptState b = ptAligned ∧ retested ∧
            (w.ptVerdict b lam ((w.pt b).last.getD ⟨0, 0, 0, false, 0, 0⟩)).pass = false
        (fails → exec (.railFrameStart rail) s = .next ((w.ptDecide b false fr.release).railGo b fr).watch) ∧
        (¬fails → exec (.railFrameStart rail) s = .next (w.railGo b fr).watch)) ∧
      (fr.release < s.now + 16 → u.ptState b = ptUnaligned → (u.pt b).turn = none → (u.pt b).next = some fr.release →
        let v : Plat := { u.pt b with fmt := (u.pt b).last, onGrid := fr.onGrid, start := fr.release, holdLeft := none, anc := fr.anc,
                                      edh := fr.edh, ts := fr.ts }
        let y := (u.setPt b { v with next := some (u.ptNext b v) }).newLines b
        exec (.railFrameStart rail) s = .next
          (((y.setGang b PLT_STAT_holding 0).setGang b PLT_RES_cues fr.res).showStart b fr.release).watch))) ∧
  (∀ (s : State) (rail : Fin 2048), s.low = false →
    let b := s.ptBase rail
    let v := s.pt b
    (s.pst b PLT_STAT_holding ≠ 1 → exec (.holdFrameStart rail) s = .next s.watch) ∧
    (∀ n, v.next = some n → s.pst b PLT_STAT_holding = 1 →
      (s.now + 16 ≤ n → exec (.holdFrameStart rail) s = .next s.watch) ∧
      (n < s.now + 16 → v.holdLeft = some 0 → exec (.holdFrameStart rail) s = .next
        ((s.setPt b { v with fmt := none, next := none, holdLeft := none }).setGang b PLT_STAT_holding 0).watch) ∧
      (n < s.now + 16 → v.holdLeft ≠ some 0 →
        let w := { v with start := n, holdLeft := v.holdLeft.map (· - 1), anc := [], edh := [] }
        exec (.holdFrameStart rail) s = .next
          (((s.setPt b { w with next := some (s.ptNext b w) }).newLines b).showStart b n).watch))) ∧
  (∀ (s : State) (rail : Fin 2048) (field : Fin 2) (pix : List (Option Nat)) (late : Bool), s.low = false →
    let b := s.ptBase rail
    let has := s.railHas rail field pix
    let u := s.putLine rail field (conceal has ((s.pt rail).line.getD field []))
    let v := if has.any Option.isNone then (u.pcount b PLT_CONCEAL_n).pirq b 5 else u
    let w := if has.any Option.isNone && late then v.pcount b PLT_LATE_LN_n else v
    (s.pst b PLT_STAT_holding = 1 → ∀ sram, exec (.railLineRelease rail field pix late sram) s = .next
      ((s.putLine rail field (pix.map (fun _ => Config.black))).ringLine rail field).watch) ∧
    (s.pst b PLT_STAT_holding ≠ 1 → exec (.railLineRelease rail field pix late none) s = .next (w.ringLine rail field).watch ∧
      ∀ x, exec (.railLineRelease rail field pix late (some x)) s = .next
        ((w.err (pgQuad b) 0x060 (some accMediaRead) (some x)).ringLine rail field).watch)) ∧
  (∀ (s : State) (g : Fin 16), s.low = false →
    ((s.grp g).move = none → exec (.groupRegrid g) s = .next s.watch) ∧
    (∀ lo, (s.grp g).move = some lo →
      (s.now + 16 ≤ lo → exec (.groupRegrid g) s = .next s.watch) ∧
      (lo < s.now + 16 →
        let u := (s.setGrp g { grid := s.grpWanted g, rate := s.grpSetRate g, start := lo + (s.grpWanted g).per / 2, last := lo,
                               move := none }).irq pgPool 0
        exec (.groupRegrid g) s = .next (u.plat.foldl (fun x e => x.retest g e.1) u).watch)))

/-- A write of TT_TAPCTL that names no rail is restored with code 0x075, one to a tap that is no gang base with 0x077; where the
rail does not fit the tap's gang the take is refused with result 7 and code 0x071; else the take is decided and armed for the
next boundary, but on a device that follows the Lead. At a switching point where no armed take may land nothing lands; where
one may, the last armed lands and overrides every take armed before it. A write of the salvo memory's data register stores the
defined bits of the pair at the index and moves the index on; a read by a privileged master returns the pair and moves on, and
by another reads zero and moves nothing (log entry 46). -/
def Obligations.TakesComplete : Prop :=
  (∀ (s : State) (a : Acc) (tap : Fin 2560) (w : W32), Reaches s a →
    let o := TT_TAPCTL_src.at (tap % 16)
    Admitted s a (pgTap tap) .tap (tap / 16) o w →
    let u := s.stored a (pgTap tap) .tap (tap / 16) o w
    let r := u.tapFld tap TT_TAPCTL_src
    let back := u.setTapFld tap TT_TAPCTL_src (getBits (s.word (pgTap tap + o)) 0 12)
    let deny := fun (x : State) (code : Nat) => ((x.accErr (pgTap tap) code a accWrite (pgTap tap + o)).taken a).watch
    (2336 ≤ r → r < 0xFFF → exec (.tapTakeWrite a tap w false) s = .next (deny back 0x075)) ∧
    (r < 2336 ∨ r = 0xFFF → u.tapBase tap ≠ tap → exec (.tapTakeWrite a tap w false) s = .next (deny back 0x077)) ∧
    (r < 2336 ∨ r = 0xFFF → u.tapBase tap = tap → u.gangsFit tap r = false →
      exec (.tapTakeWrite a tap w false) s = .next (deny (u.ttRefuse tap 7) 0x071)) ∧
    (r < 2336 ∨ r = 0xFFF → u.tapBase tap = tap → u.gangsFit tap r = true → exec (.tapTakeWrite a tap w false) s = .next
      ((if u.follows then u else (u.armTake tap r (u.tapFld tap TT_TAPCTL_bkwy == 1) u.now none).1).taken a).watch)) ∧
  (∀ (s : State) (tap : Fin 2560) (cue : Fin 16), s.low = false →
    let S := s.now + cue
    let may := (s.takes tap).filter (fun k => s.mayLand tap S k)
    (may = [] → exec (.takeLand tap cue) s = .next s.watch) ∧
    (∀ k, may.getLast? = some k →
      let u := s.setTakes tap ((s.takes tap).filter (fun x => k.seq < x.seq))
      let v := ((s.takes tap).filter (fun x => x.seq < k.seq)).foldl (fun x y => x.ttOverride tap y) u
      exec (.takeLand tap cue) s = .next ((v.ttLand tap S k).asyncTidy).watch)) ∧
  (∀ (s : State) (a : Acc) (w : W32), Reaches s a → (s.storeWord a pgSm .ttSm 0 0x104 w).ok = true →
    let u := (s.stored a pgSm .ttSm 0 0x104 w).setWord (pgSm + 0x104) 0
    let i := u.fld pgSm TT_SM_ADDR_idx
    let v := { u with salvoMem := Store.put (fun _ => 0) i (w &&& pairMask) u.salvoMem }
    exec (.salvoMemoryWrite a w) s = .next ((v.setFld pgSm TT_SM_ADDR_idx ((i + 1) % 262144)).taken a)) ∧
  (∀ (s : State) (a : Acc), Reaches s a →
    let i := s.fld pgSm TT_SM_ADDR_idx
    (s.privileged a = true → exec (.salvoMemoryRead a) s = .next
      ((s.setFld pgSm TT_SM_ADDR_idx ((i + 1) % 262144)).answerWord a.m (Store.get (fun _ => 0) s.salvoMem i))) ∧
    (s.privileged a = false → exec (.salvoMemoryRead a) s = .next (s.answerWord a.m 0)))

/-- A submission of kind 3 is refused with response 4 and code 0x076; one to a time of day that is not Held with response 3; one
to a full sheet with response 2 and code 0x073; any other is stored with response 1. A cancellation removes every pending
entry with the tag and gives each the result cancelled. The first entry in key order is dispatched once its key lies within
the lead time, except by a device that follows the Lead. A read of the result FIFO removes its head and latches the details
for the reading master, and of an empty one returns zero. -/
def Obligations.CueSheetCommandsComplete : Prop :=
  (∀ (s : State) (a : Acc) (w : W32), Reaches s a → (s.storeFor a pgCq .ttCue 0 0x110 w).ok = true →
    (s.storeFor a pgCq .ttCue 0 0x110 w).eff = w →
    let u := (s.storeFor a pgCq .ttCue 0 0x110 w).s
    let kind := u.mfld a.m pgCq TT_CQ_SUB_kind
    let resp := fun (x : State) (v : Nat) => (x.setMfld a.m pgCq TT_CQ_RESP_st v).taken a
    let full := sheetSize ≤ u.sheet.length
    let ent := fun (t : Nat) => u.addEntry {
      kind := kind, target := t, salvo := u.mfld a.m pgCq TT_CQ_SUB_salvo, strict := u.mfld a.m pgCq TT_CQ_SUB_strict == 1, tag := u.mfld a.m pgCq TT_CQ_TAG_tag }
    let lo := u.mfld a.m pgCq TT_CQ_TGT_lo
    let hi := u.mfld a.m pgCq TT_CQ_TGT_hi
    let sec := u.mfld a.m pgCq TT_CQ_TSEC_hi * 2 ^ 32 + u.mfld a.m pgCq TT_CQ_TSEC_lo
    (w.getLsbD 31 = false → exec (.cueSubmit a w) s = .next (u.taken a)) ∧
    (w.getLsbD 31 = true →
      (kind = 3 → exec (.cueSubmit a w) s = .next (resp ((u.bump pgCq CQ_BADKIND_n).err pgCq 0x076) 4)) ∧
      (kind = 1 → u.held = false → exec (.cueSubmit a w) s = .next (resp (u.bump pgCq CQ_SUBMIT_n) 3)) ∧
      (kind ≠ 3 → (kind = 1 → u.held = true) → full →
        exec (.cueSubmit a w) s = .next (resp (((u.bump pgCq CQ_FULL_n).irq pgCq IRQ_ttCue_full).err pgCq 0x073) 2)) ∧
      (¬full → kind = 0 → exec (.cueSubmit a w) s = .next (resp (ent (hi * 2 ^ 32 + lo)) 1)) ∧
      (¬full → kind = 1 → u.held = true → exec (.cueSubmit a w) s =
        .next (resp (ent (sec * cueSec + (hi % 4 * 2 ^ 32 + lo))) 1)) ∧
      (¬full → kind = 2 → exec (.cueSubmit a w) s = .next (resp (ent u.now) 1)))) ∧
  (∀ (s : State) (a : Acc) (w : W32), Reaches s a → Admitted s a pgCq .ttCue 0 0x128 w →
    let u := s.stored a pgCq .ttCue 0 0x128 w
    let tag := u.fld pgCq TT_CQ_CANCEL_tag
    let gone := u.sheet.filter (fun e => e.tag == tag)
    let v := (u.setSheet (u.sheet.filter (fun e => e.tag != tag))).setFld pgCq TT_CQ_CANCELLED_n gone.length
    (w.getLsbD 31 = false → exec (.cueCancel a w) s = .next (u.taken a)) ∧
    (w.getLsbD 31 = true → exec (.cueCancel a w) s = .next
      ((gone.foldl (fun x e => x.pushResult ⟨e.tag, 6, 0, 0, x.now⟩)
        (if gone = [] then v else v.bump pgCq CQ_CANCEL_n gone.length)).taken a))) ∧
  (∀ (s : State) (bad : Bool), s.low = false →
    (s.firstEntry = none → exec (.cueDispatch bad) s = .next s.watch) ∧
    (∀ e, s.firstEntry = some e →
      (s.now + s.leadTime < s.keyOf e ∨ s.follows = true → exec (.cueDispatch bad) s = .next s.watch) ∧
      (s.keyOf e ≤ s.now + s.leadTime → s.follows = false → exec (.cueDispatch bad) s = .next
        (let u := s.setSheet (s.sheet.erase e)
         (u.journal u.earliest (.dispatch e.salvo e.tag)).dispatch e (s.keyOf e).toNat bad).watch))) ∧
  (∀ (s : State) (a : Acc), Reaches s a →
    (s.results = [] → exec (.cueResultPop a) s = .next (s.answerWord a.m 0)) ∧
    (∀ r rest, s.results = r :: rest →
      let u := ({ s with results := rest } : State).setFld pgCq TT_CQ_RES_LEVEL_n rest.length
      let v := u.setMreg a.m (pgCq + 0x134) (setBits (setBits 0 0 12 r.nref) 16 12 r.tap)
      let x := (v.setMreg a.m (pgCq + 0x138) (BitVec.ofNat 32 r.upt)).setMreg a.m (pgCq + 0x13C) (BitVec.ofNat 32 (r.upt / 2 ^ 32))
      exec (.cueResultPop a) s = .next (x.answerWord a.m (setBits (setBits (setBits 0 0 16 r.tag) 16 3 r.outcome) 31 1 1))))

/-- A rise of an enabled, armed input that has not chattered fires it once; on a device that follows the Lead it is held as its
own firing, to be compared with the Lead's, and one the Lead never matched is counted in PAIR_DEC_DIFF; the eighth short
period in a row makes it chatter, counted with IRQ chatter; an input already active ignores a rise. A fall makes a fired input
wait for its debounce time, after which it arms again; a chattering input that was quiet for 100 ms is held fired if active
and armed if not. -/
def Obligations.GpiEventsComplete : Prop :=
  (∀ (s : State) (n : Fin 16), s.low = false →
    let v := s.gp n
    let u := s.setGpiOn n true
    let sh := gpiShort v s.now
    let w := { v with rise := some s.now, short := sh, edge := s.now }
    (s.gpiOn n = true → exec (.gpiActive n) s = .next s) ∧
    (s.gpiOn n = false → v.st = 3 → exec (.gpiActive n) s = .next (u.setGp n w)) ∧
    (s.gpiOn n = false → v.st ≠ 3 → 8 ≤ sh → exec (.gpiActive n) s = .next
      (((u.setGp n { w with st := 3, short := 0 }).bump pgGpio GPI_CHAT_n 1 n).irq pgGpio IRQ_ttGpio_chatter)) ∧
    (s.gpiOn n = false → sh < 8 → v.st = 0 → u.bit pgGpio TT_GPI_en n = true → u.follows = false →
      exec (.gpiActive n) s = .next ((u.setGp n { w with st := 1, own := false }).gpiFire n u.earliest)) ∧
    (s.gpiOn n = false → sh < 8 → v.st = 0 → u.bit pgGpio TT_GPI_en n = true → u.follows = true →
      let x := u.setGp n { w with st := 1, own := true }
      exec (.gpiActive n) s = .next (if v.own then x.bump pgPair PAIR_DEC_DIFF_n else x)) ∧
    (s.gpiOn n = false → sh < 8 → v.st = 2 → exec (.gpiActive n) s = .next (u.setGp n { w with st := 1 }))) ∧
  (∀ (s : State) (n : Fin 16), s.low = false →
    (s.gpiOn n = false → exec (.gpiInactive n) s = .next s) ∧
    (s.gpiOn n = true → exec (.gpiInactive n) s = .next ((s.setGpiOn n false).setGp n
      { s.gp n with st := if (s.gp n).st = 1 then 2 else (s.gp n).st, since := s.now, edge := s.now }))) ∧
  (∀ (s : State) (n : Fin 16), s.low = false →
    let due := (s.gp n).st = 2 ∧ (s.gp n).since + max 1 (s.fld pgGpio TT_GPI_deb n) * cueMs < s.now + 16
    (due → exec (.gpiRearm n) s = .next (s.setGp n { s.gp n with st := 0 })) ∧ (¬due → exec (.gpiRearm n) s = .next s)) ∧
  (∀ (s : State) (n : Fin 16), s.low = false →
    let due := (s.gp n).st = 3 ∧ (s.gp n).edge + 1058400000 < s.now + 16
    (due → exec (.gpiChatterEnd n) s = .next (s.setGp n { s.gp n with st := if s.gpiOn n then 1 else 0 })) ∧
    (¬due → exec (.gpiChatterEnd n) s = .next s))

/-- An input frame of a unit that is not on changes nothing; of one that is on, without a format it is an input loss; a picture
too large or of the wrong rate sets its flag and stops writing; any other is written to the ring as the newest frame, with
input_lost cleared. Two output lines before an output frame a unit whose input is usable decides the frame it will show, in
Starting it goes Running with IRQ running; a decision that is not due, or a unit without lines to place it, changes nothing.
On a device that follows the Lead the decision is only held to be compared. An output frame starts once its decided instant F
lies before the end of the TICK, and not before: the waiting commit of the unit becomes live, F goes to SYN_FRUPT, and the
decided frame is shown with its delays, or, where there is none, what SYN_CFG.lossmode says. -/
def Obligations.SynchroniserEventsComplete : Prop :=
  (∀ (s : State) (unit : Fin 256) (cue : Fin 16), s.low = false →
    ((s.sy unit).on = false → exec (.syncInputFrame unit cue) s = .next s) ∧
    ((s.sy unit).on = true → s.railFmt (s.synRail unit) = none → exec (.syncInputFrame unit cue) s = .next (s.synLost unit)) ∧
    (∀ f, (s.sy unit).on = true → s.railFmt (s.synRail unit) = some f →
      let u := s.setSyFld unit SYN_STAT_input_lost 0
      let big := u.synOver unit f
      let diff := u.synDiff unit f
      let x := (u.setSyFld unit SYN_STAT_oversize big.toNat).setSyFld unit SYN_STAT_rate_diff diff.toNat
      ((big || diff) = true → exec (.syncInputFrame unit cue) s = .next (x.setSy unit { x.sy unit with writing := false })) ∧
      ((big || diff) = false → (x.sy unit).writing = true →
        let v := x.sy unit
        let w := s.now + cue
        let fr : SynFrame := {
          num := v.next, w := w, done := some (w + (Config.firstActive f.lines + activeLines f.lines) * perOf f.rate / f.lines), fmt := f,
          width := x.railWidth (x.synRail unit), good := x.railGood (x.synRail unit), anc := x.railAncs (x.railBase (x.synRail unit)),
          edh := x.railEdh (x.synRail unit), colour := x.railColour (x.synRail unit), slot := x.synSlot unit v.next }
        let y := x.setSy unit { v with
          ring := (fr :: v.ring).take (x.syLv unit SYN_CFG_depth), next := v.next + 1, good := if fr.good then some fr else v.good }
        exec (.syncInputFrame unit cue) s = .next
          (y.setSyFld unit SYN_FILL_n (min 31 (v.next + 1 - (match v.last with | some l => l + 1 | none => v.restart))))))) ∧
  (∀ (s : State) (unit : Fin 256), s.low = false →
    ((s.sy unit).on = false ∨ s.synLines unit = none → exec (.syncDecision unit) s = .next s) ∧
    (∀ n, (s.sy unit).on = true → s.synLines unit = some n →
      let two := 2 * perOf (s.grpRate (s.synGroup unit)) / n
      let F := s.grpNext (s.synGroup unit) (s.now + two)
      let D := F - two
      let pick := s.synPick unit D
      let open_ := s.syFld unit SYN_STAT_input_lost ≠ 1 ∧ s.syFld unit SYN_STAT_oversize ≠ 1 ∧
          s.syFld unit SYN_STAT_rate_diff ≠ 1
      (s.now + 16 ≤ D → exec (.syncDecision unit) s = .next s) ∧
      (∀ m, D < s.now + 16 → open_ → pick = some m → s.follows = false → s.synState unit = synRunning →
        exec (.syncDecision unit) s = .next
          (((s.setSy unit { s.sy unit with decided := some (F, some m) }).synTally unit m).journal F (.sync unit m))) ∧
      (∀ m, D < s.now + 16 → open_ → pick = some m → s.follows = false → s.synState unit = synStarting →
        let x := (s.setSyFld unit SYN_STAT_state synRunning).syIrq unit IRQ_synQuad_running
        let u := x.setSy unit { x.sy unit with first := F }
        exec (.syncDecision unit) s = .next
          (((u.setSy unit { u.sy unit with decided := some (F, some m) }).synTally unit m).journal F (.sync unit m))) ∧
      (∀ m, D < s.now + 16 → open_ → pick = some m → s.follows = true →
        exec (.syncDecision unit) s = .next (s.setSy unit { s.sy unit with decided := some (F, some m) })) ∧
      (D < s.now + 16 → ¬open_ → s.synState unit = synRunning →
        exec (.syncDecision unit) s = .next (s.setSy unit { s.sy unit with decided := some (F, none) })))) ∧
  (∀ (s : State) (unit : Fin 256) (missing bad : List Nat), s.low = false →
    ((s.sy unit).decided = none → s.follows = false → exec (.syncOutputFrameStart unit missing bad) s = .next s) ∧
    (∀ F m, (s.sy unit).decided = some (F, m) →
      let u := s.synApply unit
      let x := (u.setSy unit { u.sy unit with decided := none }).setFld64 (pgSyn unit) SYN_FRUPT_lo SYN_FRUPT_hi F (unit % 4)
      (s.now + 16 ≤ F → exec (.syncOutputFrameStart unit missing bad) s = .next s) ∧
      (F < s.now + 16 → (u.sy unit).on = false → exec (.syncOutputFrameStart unit missing bad) s = .next u) ∧
      (∀ k, F < s.now + 16 → (u.sy unit).on = true → u.follows = false → u.synState unit = synRunning → m = some k →
        exec (.syncOutputFrameStart unit missing bad) s = .next ((x.synShow unit F k missing bad).synDelay unit)) ∧
      (F < s.now + 16 → (u.sy unit).on = true → u.follows = false → u.synState unit = synRunning → m = none →
        let v := x.sy unit
        let held := if x.syLv unit SYN_CFG_lossmode = 0 then v.good.map SynFrame.num else none
        exec (.syncOutputFrameStart unit missing bad) s =
            .next ((x.setSy unit { v with shown := held, subs := [] }).synDelay unit))))

/-- A Proscenium that is off, or whose output group has no rail instant in the TICK, starts no frame; else its frame starts at the
instant. A line is composed only while it runs, the frame has lines left and the line's drawing instant has come: each layer
takes the rows that have arrived, the line and the rail's words are those composed, the next line follows, and the capture
takes the line. A coefficient load copies the staging words of the window's place to the window (the built-in set 0 reads its
own values), and a privileged store copies the window to the staging words, except for set 0, and marks the set as loaded. -/
def Obligations.ProsceniumOutputCompletes : Prop :=
  (∀ (s : State) (p : Fin 32), s.low = false →
    let F := s.grpNext (s.proGroup p) s.now
    (s.fld (pgBlend p) PRB_STAT_state = 0 ∨ s.now + 16 ≤ F → exec (.proFrameStart p) s = .next s.watch) ∧
    (s.fld (pgBlend p) PRB_STAT_state ≠ 0 → F < s.now + 16 → exec (.proFrameStart p) s = .next (s.proStart p F).watch)) ∧
  (∀ (s : State) (p : Fin 32) (ins : List LayIn), s.low = false →
    let v := s.pr p
    let z := s.proSize p
    let o := s.proOrigin p
    let y := o.2 + v.lineNo
    let t := s.rowInstant p y
    (s.fld (pgBlend p) PRB_STAT_state ≠ 2 ∨ z.2 ≤ v.lineNo ∨ s.now + 16 ≤ t → exec (.proLineCompose p ins) s = .next s) ∧
    (s.fld (pgBlend p) PRB_STAT_state = 2 → v.lineNo < z.2 → t < s.now + 16 →
      let inp := fun l => ins.getD l ⟨[], [], []⟩
      let u := (List.range 8).foldl (fun x l => x.layTake p l t (inp l).rows) s
      let px := fun x => u.composePx p t (fun l => u.layGone (inp l)) x y
      let line := (List.range z.1).map (fun x => px (o.1 + x))
      let before := (List.range (min o.1 4)).map (fun x => px (o.1 - min o.1 4 + x))
      let words := railWords (u.lv (pgRas (u.proBase p)) PRO_RASTER_smp) before.getLast? line
      let place := u.railPlace p y
      let x := (List.range 8).foldl (fun x l => x.layReport p l t y (inp l)) u
      exec (.proLineCompose p ins) s = .next ((x.setPr p { x.pr p with
        line := line, lineNo := v.lineNo + 1, rail := (x.pr p).rail ++ [(place.1, place.2, words)] }).capLine p before line))) ∧
  (∀ (s : State) (a : Acc) (p : Fin 32), Reaches s a → Admitted s a (pgRas p) .proRas p 0x114 1 →
    let u := s.stored a (pgRas p) .proRas p 0x114 1
    let put := fun (x : State) (n : Nat) =>
      let built := fun k => ofSigned 10 (setZero (x.bit (pgRas p) PRO_CF_ADDR_vert) (x.fld (pgRas p) PRO_CF_ADDR_phase) k)
      x.setWord (pgRas p + PRO_CF_DATA_even.at n)
        (if x.fld (pgRas p) PRO_CF_ADDR_set = 0 then setBits (setBits 0 0 10 (built (2 * n))) 16 10 (built (2 * n + 1))
         else Store.get (fun _ => 0) x.coefStage (x.coefKey p n))
    exec (.coefLoad a p) s = .next ((put (put (put (put u 0) 1) 2) 3).taken a)) ∧
  (∀ (s : State) (a : Acc) (p : Fin 32), Reaches s a → Admitted s a (pgRas p) .proRas p 0x114 2 →
    let u := s.stored a (pgRas p) .proRas p 0x114 2
    let put := fun (x : State) (n : Nat) =>
      { x with coefStage := Store.put (fun _ => 0) (x.coefKey p n) (x.word (pgRas p + PRO_CF_DATA_even.at n)) x.coefStage }
    exec (.coefStore a p) s = .next
      ((if u.fld (pgRas p) PRO_CF_ADDR_set = 0 then u
        else put (put (put (put { u with coefStage := Store.put (fun _ => 0) (coefMark p (u.fld (pgRas p) PRO_CF_ADDR_set)) 1 u.coefStage } 0) 1) 2)
          3).taken a))

/-- An arm of a group in auto mode or already armed does nothing more, but one written after the decision of its flip counts for
the next frame; from Idle it arms the group and clears held and overdue. A decision 52,920 cues before a rail instant takes
each group in turn, and not by a device that follows the Lead, nor by a member of a gang, nor when no instant is due. When
every member of a gang has written all of the oldest capture it is counted with IRQ cap_done, and the fence moves where
fence_en is set; a capture not fully written when the rail frame after it has started is abandoned with code 0x095 and IRQ
cap_drop. -/
def Obligations.FlipsAndCapturesComplete : Prop :=
  (∀ (s : State) (a : Acc) (p : Fin 32) (g : Fin 4), Reaches s a →
    let o := PRO_FLIP_arm.at g
    let w := s.compose (pgBlend p) .proBlend o (setBits (s.word (pgBlend p + o)) 0 1 1)
    (s.storeWord a (pgBlend p) .proBlend p o w).ok = true → (s.storeWord a (pgBlend p) .proBlend p o w).eff.getLsbD 0 = true →
    let u := s.stored a (pgBlend p) .proBlend p o w
    let v := u.pr p
    let decided := v.flips.any (fun e => e.2.1 == g) || v.lead.any (fun e => e.2 == g)
    (u.lv (pgBlend p) PRO_FLIP_auto g = 1 → exec (.flipArm a p g) s = .next (u.taken a)) ∧
    (u.lv (pgBlend p) PRO_FLIP_auto g ≠ 1 → u.fld (pgBlend p) PRO_FLIP_pend g ≠ 0 →
      exec (.flipArm a p g) s = .next
        ((if decided then u.setPr p { v with rearm := (g.val :: v.rearm).eraseDups } else u).taken a)) ∧
    (u.lv (pgBlend p) PRO_FLIP_auto g ≠ 1 → u.fld (pgBlend p) PRO_FLIP_pend g = 0 → exec (.flipArm a p g) s = .next
      ((((u.setFld (pgBlend p) PRO_FLIP_pend 1 g).setFld (pgBlend p) PRO_FLIP_held 0 g).setFld (pgBlend p) PRO_FLIP_overdue 0 g).taken
        a))) ∧
  (∀ (s : State) (p : Fin 32), s.low = false →
    let F := s.grpNext (s.proGroup p) (s.now + 52920)
    let decides := s.fld (pgBlend p) PRB_STAT_state ≠ 0 ∧ s.proBase p = p ∧ F < s.now + 52920 + 16 ∧ s.follows = false
    (¬decides → exec (.flipDecision p) s = .next s) ∧
    (decides → exec (.flipDecision p) s = .next
      ((((s.flipGroup p F 0).flipGroup p F 1).flipGroup p F 2).flipGroup p F 3))) ∧
  (∀ (s : State) (p : Fin 32), s.low = false →
    ((s.pr p).caps = [] → exec (.captureDone p) s = .next s ∧ exec (.captureAbandon p) s = .next s) ∧
    (∀ n F d rest, (s.pr p).caps = (n, F, d) :: rest →
      let u := (((s.capEnd p F).setFld (pgBlend p) CAP_SEQ_n (n + 1)).bump (pgBlend p) CAP_FRAMES_n).irq (pgBlend p)
        IRQ_proBlend_cap_done
      let past := F + perOf (s.grpRate (s.proGroup p)) + s.proDelay p < s.now + 16
      (s.proBase p = p → s.capWhole p F = true → exec (.captureDone p) s = .next
        (if u.lbit (pgBlend p) CAP_CFG_fence_en then
          u.setFld (pgBlend (u.lv (pgBlend p) CAP_CFG_fpro)) PRO_FENCE (n + 1) (u.lv (pgBlend p) CAP_CFG_fgrp) else u)) ∧
      (s.proBase p ≠ p ∨ s.capWhole p F = false → exec (.captureDone p) s = .next s) ∧
      (s.proBase p = p → s.capWhole p F = false → past → exec (.captureAbandon p) s = .next
        ((((s.capEnd p F).bump (pgBlend p) CAP_DROP_n).err (pgBlend p) 0x095).irq (pgBlend p) IRQ_proBlend_cap_drop)) ∧
      (s.proBase p ≠ p ∨ s.capWhole p F = true ∨ ¬past → exec (.captureAbandon p) s = .next s)))

/-- A submission of a reserved kind or output, or of an odd half of a 96 kHz pair, is refused with response 3; one that finds
4,096 direct takes waiting with response 2 and IRQ full; any other is accepted with response 1 and, except on a device that
follows the Lead, stored. At a Pit instant the due takes of an output are removed, each late one counts, all but the last are
superseded, and the last armed lands; away from an instant nothing lands. A crossfade ends once it has run its length; a
transparent wait ends when its cut has been found, a forced one with result 5. -/
def Obligations.PitTakesComplete : Prop :=
  (∀ (s : State) (a : Acc) (w : W32), Reaches s a → (s.storeFor a pgPitT .pitTake 0 0x104 w).ok = true →
    (s.storeFor a pgPitT .pitTake 0 0x104 w).eff = w →
    let u := (s.storeFor a pgPitT .pitTake 0 0x104 w).s
    let out := u.mfld a.m pgPitT PIT_TK_out
    let inp := u.mfld a.m pgPitT PIT_TK_in
    let kind := u.mfld a.m pgPitT PIT_TK_CTL_kind
    let none_ : Bool := u.mfld a.m pgPitT PIT_TK_CTL_none = 1
    let k96 := pitK96 u.pitTab out
    let bad := 2 ≤ kind ∨ pitOutReserved out = true ∨ k96 = true ∧ (out % 2 = 1 ∨ none_ = false ∧ inp % 2 = 1)
    let full := 4096 ≤ (u.pitTakes.filter (·.direct)).length
    let tgt := u.mfld a.m pgPitT PIT_TK_TGT_hi * 2 ^ 32 + u.mfld a.m pgPitT PIT_TK_TGT_lo
    (w.getLsbD 31 = false → exec (.pitTakeSubmit a w) s = .next (u.taken a)) ∧
    (w.getLsbD 31 = true →
      (bad → exec (.pitTakeSubmit a w) s = .next
        ((((if pitOutReserved out then u else u.setPot out { u.pot out with res := 4 }).bump pgPitT PIT_TK_INVALID_n).setMfld a.m
          pgPitT PIT_TK_RESP_st 3).taken a)) ∧
      (¬bad → full → exec (.pitTakeSubmit a w) s = .next
        ((((u.bump pgPitT PIT_TK_FULL_n).irq pgPitT IRQ_pitTake_full).setMfld a.m pgPitT PIT_TK_RESP_st 2).taken a)) ∧
      (¬bad → ¬full →
        let x := u.setMfld a.m pgPitT PIT_TK_RESP_st 1
        exec (.pitTakeSubmit a w) s = .next
          ((if x.follows then x else x.pitDirect out (if none_ then none else some inp) kind tgt).taken a)))) ∧
  (∀ (s : State) (out : Fin 65536), s.low = false →
    (s.pitNow = none → exec (.pitTakeLand out) s = .next s) ∧
    (∀ p, s.pitNow = some p →
      let due := s.pitTakes.filter (fun t => t.out == out.val && t.ready ≤ p)
      let u := { s with pitTakes := s.pitTakes.filter (fun t => !(t.out == out.val && t.ready ≤ p)) }
      let v := u.setFld pgPitT PIT_TK_LEVEL_n (u.pitTakes.filter (·.direct)).length
      let x := due.foldl (fun x t => if t.late then (x.bump pgPitT PIT_TK_LATE_n).irq pgPitT IRQ_pitTake_late else x) v
      let y := if 1 < due.length then x.bump pgPit PIT_SUPERSEDED_n (due.length - 1) else x
      (due = [] → exec (.pitTakeLand out) s = .next v) ∧
      (∀ t rest, due = t :: rest →
        exec (.pitTakeLand out) s = .next (y.pitLandOne out (rest.foldl (fun b z => if b.seq ≤ z.seq then z else b) t))))) ∧
  (∀ (s : State) (out : Fin 65536), s.low = false →
    let v := s.pot out
    (v.st = 1 ∧ v.n ≤ v.j → exec (.crossfadeEnd out) s = .next (s.setPot out { v with st := 0, mix := [], j := 0, n := 0 })) ∧
    (¬(v.st = 1 ∧ v.n ≤ v.j) → exec (.crossfadeEnd out) s = .next s)) ∧
  (∀ (s : State) (out : Fin 65536), s.low = false →
    let v := s.pot out
    (v.cut = none ∨ v.st ≠ 2 → exec (.transparentCut out) s = .next s) ∧
    (v.st = 2 → v.cut = some false → exec (.transparentCut out) s = .next
      (s.setPot out { v with st := 0, src := v.want, want := none, mix := [], j := 0, n := 0, cut := none })) ∧
    (v.st = 2 → v.cut = some true → exec (.transparentCut out) s = .next
      ((s.setPot out { v with st := 0, src := v.want, want := none, mix := [], j := 0, n := 0, cut := none, res := 5 }).bump pgPit
        PIT_TR_FORCED_n)))

/-- At a sample instant in the present TICK every input presents its sample (the SDI and IP inputs, then the TDM ports, then the
synchronisers' inputs through their delay lines), an uncorrectable input word is silent and captured with 0x0A1, every active
output is formed from those words, and the outputs' words go to the TDM ports and the SDI formatters; it becomes the last
instant. Without an instant nothing is formed. Past its last old instant the Pit runs on its new grid, counted with IRQ
regrid. A window load or store while busy is ignored with code 0x0A2, one of a rail map entry that does not exist with 0x0A7;
a store otherwise stages the defined bits of the window's words. A check of the armed table compares its CRC with the
reference and reports 0x0A3 on a mismatch. -/
def Obligations.PitInstantsAndTablesComplete : Prop :=
  (∀ (s : State) (smem : List Nat) (dly : List (Nat × Nat)), s.low = false →
    (s.pitNow = none → exec (.pitSampleInstant smem dly) s = .next s) ∧
    (∀ P, s.pitNow = some P →
      let bad := dly.map (·.1)
      let run := fun (f : State → Nat →
          State) (x : State) => (List.range 16).foldl (fun x q => if x.tdmRun q then f x q else x) x
      let sdi := (s.pitIn.map (·.1)).filter (fun i => i < 16384 || 32768 ≤ i)
      let a := run (fun x q => x.tdmRx q P) (sdi.foldl (fun x i => x.pitInput i P) s)
      let b := a.synOrder.foldl (fun x k =>
        (List.range (if x.synGang k then 4 else 1)).foldl (fun x i => x.synAudioIn (k + i) bad) x) a
      let c := dly.foldl (fun x d => (x.granuleSeen 0xD0 d.2 true).lineError d.2) b
      let d := smem.foldl (fun x _ => ((x.bump pgPit PIT_SMEM_ERR_n).irq pgPit IRQ_pitCtl_smem_err).err pgPit 0x0A1) c
      let e := d.pitActive.foldl (fun x o => x.pitForm o (fun i => if smem.contains i then 0 else (d.pin i).cur) bad) d
      let out := fun o => (e.pot o).words.headD 0
      let g := run (fun x q => x.tdmTx q P out) e
      exec (.pitSampleInstant smem dly) s = .next
        { run (fun x q => x.tdmHalt q) (g.fmtr.foldl (fun x l => x.embed l.1 P out) g) with pitLast := P })) ∧
  (∀ s : State, s.low = false →
    (s.pitGrid.move = none → exec .pitRegrid s = .next s) ∧
    (∀ lo, s.pitGrid.move = some lo →
      (s.now + 16 ≤ lo → exec .pitRegrid s = .next s) ∧
      (lo < s.now + 16 → exec .pitRegrid s = .next
        ((({ s with pitGrid := { grid := s.pitWanted, start := lo + pitGap, last := lo } }.setBit pgPit PIT_STAT_tod s.held).bump pgPit
          PIT_REGRID_n).irq pgPit IRQ_pitCtl_regrid)))) ∧
  (∀ (s : State) (a : Acc) (isStore : Bool), Reaches s a →
    let w := s.word (pgPitW + 0x100) ||| (if isStore then 0x2000000 else 0x1000000)
    Admitted s a pgPitW .pitWin 0 0x100 w → w.getLsbD 24 = !isStore → w.getLsbD 25 = isStore →
    let u := s.stored a pgPitW .pitWin 0 0x100 w
    let tbl := u.fld pgPitW PIT_SEL_tbl
    let e := u.fld pgPitW PIT_SEL_idx
    let b := u.setBit pgPitW PIT_SEL_busy true
    let deny := fun (code : Nat) => (u.accErr pgPitW code a accWrite (pgPitW + 0x100)).taken a
    (u.bit pgPitW PIT_SEL_busy = true → (isStore = true → exec (.pitWindowStore a) s = .next (deny 0x0A2)) ∧
      (isStore = false → exec (.pitWindowLoad a) s = .next (deny 0x0A2))) ∧
    (u.bit pgPitW PIT_SEL_busy = false → tbl = 1 → railMapLen ≤ e →
      (isStore = true → exec (.pitWindowStore a) s = .next (deny 0x0A7)) ∧
      (isStore = false → exec (.pitWindowLoad a) s = .next (deny 0x0A7))) ∧
    (u.bit pgPitW PIT_SEL_busy = false → ¬(tbl = 1 ∧ railMapLen ≤ e) →
      let x := pitIdx tbl e
      let st := Store.put (fun _ => 0) x (b.word (pgPitW + 0x140) &&& pitMask tbl 0) b.pitStage
      let t := if b.bit pgPitW PIT_SEL_live then b.pitTab else b.pitStage
      let y := (b.setWord (pgPitW + 0x140) (Store.get (fun _ => 0) t x)).setWord (pgPitW + 0x144)
        (if tbl = 0 then Store.get (fun _ => 0) t (x + 1) else 0)
      let o := pitEntry y.pitTab e
      let v := y.pot o
      let z := (y.setFld pgPitW PIT_OSTAT_src ((v.src.map (· + (e - o))).getD 0)).setBit pgPitW PIT_OSTAT_sel v.src.isSome
      let z := (z.setFld pgPitW PIT_OSTAT_state v.st).setFld pgPitW PIT_OSTAT_res v.res
      let l := (z.pot e).line
      let kept := if tbl = 0 then Store.put (fun _ => 0) (x + 1) (b.word (pgPitW + 0x144) &&& pitMask tbl 1) st else st
      (isStore = true → exec (.pitWindowStore a) s = .next ({ b with pitStage := kept }.taken a)) ∧
      (isStore = false → exec (.pitWindowLoad a) s = .next
        ((if tbl = 0 then (z.setFld pgPitW PIT_OLINE_n (l.getD 0)).setBit pgPitW PIT_OLINE_valid l.isSome else y).taken a)))) ∧
  (∀ s : State, s.low = false →
    let c := (pitCrc s.pitTab).toNat
    let u := s.setFld pgPitW PIT_TCRC_NOW_crc c
    (s.bit pgPitW PAGE_STAT_armed = false → exec .pitTableCrcPass s = .next s) ∧
    (s.bit pgPitW PAGE_STAT_armed = true → s.bit pgPitW PAGE_CTL_parity = false → exec .pitTableCrcPass s = .next
      (if c = u.fld pgPitW PIT_TCRC_REF_crc then u else u.cfgFault pgPitW 0x0A3 pgPitW)))

/-- A frame of a port that is not enabled changes nothing. A port clocked from outside takes the sync into its measurement; a
frame whose next sync came at a wrong bit count is dropped and counted with IRQ fs_err, captured with code 0x0A4 the first
time; a good frame's words are placed at its position, but for one too late or too far ahead, which counts, one of a port over
range, and one of a converted port, whose frames keep their own instants. A transmit frame of a port that does not run changes
nothing; of one that runs it carries the words of the latest Pit instant at least one sample period old, slips count, and with
none old enough its words are silent. A slave port measures once a second; 100 ms back in range clear over_range. A trigger go
on a device that does not follow the Lead fixes the start S and the mask, with late set for a target already past; a start
pending at S clears pending with IRQ started, starts every waiting port of the mask with frame 0 at S, sets skip for a port of
the mask that is off, running or aligned by stamps, and touches no other port; before S nothing starts. A write of an enable
register keeps the bits below the slot count, captures code 0x0A5 for any other, and starts or stops the channels that
changed. A channel that has waited its timeout for a zero crossing ramps in or out, counted with IRQ zx_tmo; a channel whose
ramp in has ended is on. -/
def Obligations.TdmCommandsComplete : Prop :=
  ((∀ (s : State) (q : Fin 16) (a bits : Nat) (slots : List W32), s.low = false →
     (s.tdmEn q = false → exec (.tdmFrameReceived q a bits slots) s = .next s) ∧
     (s.tdmEn q = true → s.tdmClk q ≠ 0 →
       let u := s.tdmSync q a
       (u.tdmRun q = false → exec (.tdmFrameReceived q a bits slots) s = .next u) ∧
       (u.tdmRun q = true → bits ≠ 32 * u.tdmSlots q →
         let v := (u.bump (pgTdm q) TDM_FS_ERR_n).irq (pgTdm q) IRQ_tdm_fs_err
         let w := if (v.tp q).fsBad then v else v.err (pgTdm q) 0x0A4
         u.lbit (pgTdm q) TDM_CFG_align = true ∨ (u.tp q).s0 ≤ a →
         exec (.tdmFrameReceived q a bits slots) s = .next (w.setTp q { w.tp q with fsBad := true }))) ∧
     (s.tdmEn q = true →
       let u := if s.tdmClk q = 0 then s else s.tdmSync q a
       u.tdmRun q = true → u.lbit (pgTdm q) TDM_CFG_align = true ∨ (u.tp q).s0 ≤ a →
           s.tdmClk q = 0 ∨ bits = 32 * u.tdmSlots q →
       let v := (u.setTp q { u.tp q with fsBad := false }).tdmPos q a
       let x := v.1
       let pos := v.2
       let words := (List.range (x.tdmSlots q)).map (fun i => slotToWord (slots.getD i 0) (x.tdmTr q i))
       let late := pos + x.tdmLat < x.now
       let ahead := x.pitPrev x.now - x.tdmLat + 64 * pitPer < pos
       (x.tdmClk q = 2 → exec (.tdmFrameReceived q a bits slots) s = .next
         (x.setTp q { x.tp q with frames := (((x.tp q).frames ++ [(a, words)]).reverse.take 64).reverse })) ∧
       (x.tdmClk q ≠ 2 → x.bit (pgTdm q) TDM_STAT_over_range = true → exec (.tdmFrameReceived q a bits slots) s = .next x) ∧
       (x.tdmClk q ≠ 2 → x.bit (pgTdm q) TDM_STAT_over_range = false → late →
         exec (.tdmFrameReceived q a bits slots) s = .next (x.bump (pgTdm q) TDM_LATE_n)) ∧
       (x.tdmClk q ≠ 2 → x.bit (pgTdm q) TDM_STAT_over_range = false → ¬late → ahead →
         exec (.tdmFrameReceived q a bits slots) s = .next (x.bump (pgTdm q) TDM_OVER_n)) ∧
       (x.tdmClk q ≠ 2 → x.bit (pgTdm q) TDM_STAT_over_range = false → ¬late → ¬ahead →
         exec (.tdmFrameReceived q a bits slots) s =
             .next (x.setTp q { x.tp q with frames := (x.tp q).frames ++ [(pos, words)] })))) ∧
   (∀ (s : State) (q : Fin 16) (cue : Fin 16), s.low = false →
     (s.tdmRun q = false → exec (.tdmFrameTransmit q cue) s = .next s) ∧
     (s.tdmRun q = true → (s.tp q).txHist.find? (fun h => h.1 + pitPer ≤ s.now + cue) = none →
       exec (.tdmFrameTransmit q cue) s = .next (s.setTp q { s.tp q with txWords := [] })) ∧
     (∀ h, s.tdmRun q = true → (s.tp q).txHist.find? (fun h => h.1 + pitPer ≤ s.now + cue) = some h →
       let slips := match (s.tp q).txLast with
         | some l => if h.1 = l then 1 else (s.tp q).txHist.countP (fun e => l < e.1 && e.1 < h.1)
         | none => 0
       let u := s.bump (pgTdm q) TDM_TX_SLIP_n slips
       exec (.tdmFrameTransmit q cue) s = .next (u.setTp q { u.tp q with txLast := some h.1, txWords := h.2 }))) ∧
   (∀ (s : State) (q : Fin 16), s.low = false →
     (s.tdmEn q = false ∨ s.tdmClk q = 0 ∨ s.due (16 + q) cueSec = false → exec (.tdmRateMeasure q) s = .next s) ∧
     (s.tdmEn q = true → s.tdmClk q = 1 → s.due (16 + q) cueSec = true →
       let u := { s with acted := Store.put (fun _ => 0) (16 + q) (s.now + 1) s.acted }
       exec (.tdmRateMeasure q) s = .next (u.tdmMeasure q))) ∧
   (∀ (s : State) (q : Fin 16), s.low = false →
     ((s.tp q).inRange = none → exec (.tdmRangeReenter q) s = .next s) ∧
     (∀ t, (s.tp q).inRange = some t →
       let due := t + 1058400000 < s.now + 16 ∧ s.bit (pgTdm q) TDM_STAT_over_range = true
       (due → exec (.tdmRangeReenter q) s = .next
         ((s.setBit (pgTdm q) TDM_STAT_over_range false).setTp q { s.tp q with inRange := none })) ∧
       (¬due → exec (.tdmRangeReenter q) s = .next s)))) ∧
  ((∀ (s : State) (a : Acc), Reaches s a → Admitted s a pgTrig .tdmTrig 0 0x10C 1 →
     let u := s.stored a pgTrig .tdmTrig 0 0x10C 1
     let t := u.fld64 pgTrig TDM_TRIG_TGT_lo TDM_TRIG_TGT_hi
     let S := u.pitNext (max t (max (u.now + 441000) u.earliest))
     let mask := u.fld pgTrig TDM_TRIG_mask
     let v := ({ u with tdmMask := mask }.setBit pgTrig TDM_TRIG_CTL_pending true).setFld64 pgTrig TDM_TRIG_S_lo TDM_TRIG_S_hi S
     (u.follows = true → exec (.tdmTriggerGo a) s = .next (u.taken a)) ∧
     (u.follows = false → u.now ≤ t → exec (.tdmTriggerGo a) s = .next ((v.journal S (.tdm 0 0 mask S)).taken a)) ∧
     (u.follows = false → t < u.now → exec (.tdmTriggerGo a) s = .next
       (((v.setBit pgTrig TDM_TRIG_CTL_late true).journal S (.tdm 0 0 mask S)).taken a))) ∧
   (∀ s : State, s.low = false →
     let S := s.fld64 pgTrig TDM_TRIG_S_lo TDM_TRIG_S_hi
     (s.bit pgTrig TDM_TRIG_CTL_pending = false ∨ s.now + 16 ≤ S → exec .tdmTriggerStart s = .next s) ∧
     (s.bit pgTrig TDM_TRIG_CTL_pending = true → S < s.now + 16 →
       let u := (s.setBit pgTrig TDM_TRIG_CTL_pending false).irq pgTrig IRQ_tdmTrig_started
       let start := fun (x : State) (q : Nat) =>
         let y := (x.setTp q { x.tp q with s0 := S, a0 := none, frames := [] }).setBit (pgTdm q) TDM_STAT_run true
         (y.tdmSwitch q false (fun _ => false) (fun i => y.tdmWanted q false i)).tdmSwitch q true (fun _ => false) (fun i => y.tdmWanted q true i)
       exec .tdmTriggerStart s = .next ((List.range 16).foldl (fun x q =>
         if x.tdmMask / 2 ^ q % 2 = 0 then x
         else if x.tdmEn q = false ∨ x.tdmRun q = true ∨ x.lbit (pgTdm q) TDM_CFG_align = true then x.setBit pgTrig TDM_TRIG_CTL_skip true
         else start x q) u))) ∧
   (∀ (s : State) (a : Acc) (q : Fin 16) (isTx : Bool) (w : W32), Reaches s a →
     let o := if isTx then 0x10C else 0x108
     Admitted s a (pgTdm q) .tdm q o w →
     let adr := pgTdm q + o
     let old := s.word adr
     let u := s.stored a (pgTdm q) .tdm q o w
     let n := u.tdmSlots q
     let good := BitVec.ofNat 32 (2 ^ n - 1)
     let v := u.setWord adr (u.word adr &&& good)
     let x := if u.word adr &&& ~~~good ≠ 0 then v.accErr (pgTdm q) 0x0A5 a accWrite adr else v
     exec (.tdmChannelEnableWrite a q isTx w) s = .next ((x.tdmSwitch q isTx
       (fun i => x.tdmEn q && old.getLsbD i && decide (i < n)) (fun i => x.tdmWanted q isTx i)).taken a)) ∧
   (∀ (s : State) (q : Fin 16) (isTx : Bool) (slot : Fin 32), s.low = false →
     let k := chKey q isTx slot
     let c := s.tc k
     let late := s.lv (pgTdm q) TDM_ZX_timeout ≤ c.wait
     let u := (s.bump (pgTdm q) TDM_ZX_TMO_n).irq (pgTdm q) IRQ_tdm_zx_tmo
     (c.st = 1 → late → exec (.tdmZxTimeout q isTx slot) s = .next
       (u.setTc k { c.ramp true (u.lv (pgTdm q) TDM_FADE_in) with st := 2 })) ∧
     (c.st = 4 → late → exec (.tdmZxTimeout q isTx slot) s = .next
       (u.setTc k { c.ramp false (u.lv (pgTdm q) TDM_FADE_out) with st := 5 })) ∧
     (c.st ≠ 1 ∧ c.st ≠ 4 ∨ ¬late → exec (.tdmZxTimeout q isTx slot) s = .next s)) ∧
   (∀ (s : State) (q : Fin 16) (isTx : Bool) (slot : Fin 32), s.low = false →
     let k := chKey q isTx slot
     let c := s.tc k
     (c.st = 2 ∧ c.n = 0 → exec (.tdmRampComplete q isTx slot) s = .next (s.setTc k { c with st := 3 })) ∧
     (¬(c.st = 2 ∧ c.n = 0) → exec (.tdmRampComplete q isTx slot) s = .next s)))

/-- An event of an input that is Off or not enabled, or the edge of a pin that is not its active one, changes nothing; one in the
future or more than a second past counts as a bad measurement with code 0x0B0. An event in order (of a pin, eight short
intervals in a row make the input over-range) keeps the last second's events, notes its uptime, takes the quality it brings,
makes an Inactive input Qualifying, and its phase error reaches the registers. A submission of an instance's measurement is
such an event with the time of day written in its page. An input silent past its timeout becomes Inactive, counted with IRQ
act_loss; an over-range input without a short interval for a second is Qualifying again. -/
def Obligations.ReferenceEventsComplete : Prop :=
  (∀ (s : State) (i : Fin 10) (rising : Bool) (t m q : Nat), s.low = false →
    let idle := i.val < 4 ∧ s.lbit (pgRef i) REF_IN_pol = rising
    let quality := if i.val = 6 ∨ i.val = 9 then some q else none
    (idle ∨ s.refEnabled i = false ∨ s.refState i = riOff → exec (.referenceEvent ⟨i, rising⟩ t m q) s = .next s) ∧
    (¬idle → s.refEnabled i = true → s.refState i ≠ riOff → s.now < t ∨ t + cueSec < s.now →
        exec (.referenceEvent ⟨i, rising⟩ t m q) s = .next
      (((s.bump (pgRef i) REF_IN_BADMEAS_n).irq (pgRef i) IRQ_refIn_badmeas).err (pgRef i) 0x0B0)) ∧
    (¬idle → s.refEnabled i = true → s.refState i ≠ riOff → t ≤ s.now → s.now ≤ t + cueSec →
      let z := match (s.ri i).events.getLast? with
        | some e =>
          if 4 ≤ i.val then s
          else if t - e.upt < s.refBound i then
            let x := s.setRi i { s.ri i with short := (s.ri i).short + 1, lastShort := t }
            if 8 ≤ (s.ri i).short + 1 then x.refOver i else x
          else s.setRi i { s.ri i with short := 0 }
        | none => s
      let u := z.setRi i { z.ri i with events := (z.ri i).events.filter (fun e => z.now ≤ e.upt + cueSec) ++ [⟨t, m⟩] }
      let v := u.setFld64 (pgRef i) REF_IN_LAST_lo REF_IN_LAST_hi t
      let w := match quality with | some x => v.setFld (pgRef i) REF_QUAL_q x | none => v
      let y := if w.refState i = riInactive then (w.setRefState i riQualifying).setFld (pgRef i) REF_IN_CNT_acc 0 else w
      (y.refError i t m = none → exec (.referenceEvent ⟨i, rising⟩ t m q) s = .next y) ∧
      (∀ e, y.refError i t m = some e → exec (.referenceEvent ⟨i, rising⟩ t m q) s = .next (y.refPhase i e)))) ∧
  (∀ (s : State) (a : Acc) (n : Fin 2), Reaches s a → Admitted s a (pgRef (4 + n)) .refIn (4 + n) 0x198 1 →
    let p := pgRef (4 + n)
    let u := s.stored a p .refIn (4 + n) 0x198 1
    let m : Nat := (u.fld64 p REF_PTP_SEC_lo REF_PTP_SEC_hi * cueSec +
      (u.fld p REF_PTP_COSH_cos * 2 ^ 32 + u.fld p REF_PTP_COS_lo)) * 2 ^ 30 + u.fld p REF_PTP_COSH_frac
    exec (.refPtpSubmit a n) s = .next ((u.refEvent (4 + n) (u.fld64 p REF_PTP_U_lo REF_PTP_U_hi) m none).taken a)) ∧
  (∀ (s : State) (i : Fin 10), s.low = false →
    let v := ((s.setRefState i riInactive).bump (pgRef i) REF_IN_ACTLOSS_n).irq (pgRef i) IRQ_refIn_act_loss
    let active := s.refState i = riQualifying ∨ s.refState i = riQualified
    (s.refSilent i = false ∨ ¬active → exec (.refActivityLoss i) s = .next s) ∧
    (s.refSilent i = true → active → exec (.refActivityLoss i) s = .next
      (v.setRi i { v.ri i with events := [] }).refRecheck)) ∧
  (∀ (s : State) (i : Fin 10), s.low = false →
    let due := s.refState i = riOver ∧ (s.ri i).lastShort + cueSec < s.now + 16
    (due → exec (.refOverRangeExit i) s = .next
      (((s.setRefState i riQualifying).setFld (pgRef i) REF_IN_CNT_acc 0).setRi i { s.ri i with short := 0 })) ∧
    (¬due → exec (.refOverRangeExit i) s = .next s))

/-- Away from their instants, and a second time at one, a monitor instant, a loop update and a holdover second change nothing. At
a monitor instant the waiting commits apply, every input is measured and the selector evaluates. A loop update moves y by the
selector's state (Tracking by the loop, Switching and Holdover at the ramp rate to the target's frequency and to the ring's
mean, else to 0), enters it in the sum of the second, shows it in REF_Y, steers time of day and the media synthesisers, and
unfreezes one that has locked again. A whole second spent in Tracking enters its mean in the holdover ring, and the ring's
mean and length show. -/
def Obligations.SelectorInstantsComplete : Prop :=
  ∀ s : State, s.low = false →
    let acted := fun (k : Nat) => { s with acted := Store.put (fun _ => 0) k (s.now + 1) s.acted }
    (s.due 0 (100 * cueMs) = false → exec .monitorInstant s = .next s) ∧
    (s.due 1 cueMs = false → exec .loopUpdate s = .next s) ∧
    (s.due 2 cueSec = false → exec .holdoverSecond s = .next s) ∧
    (s.due 0 (100 * cueMs) = true → exec .monitorInstant s = .next
      ((List.range 10).foldl (fun x i => x.refMonitor i) (acted 0).refApply).refSelect) ∧
    (s.due 1 cueMs = true →
      let u := acted 1
      let st := u.fld pgSel REF_STAT_state
      let goal := if st = selSwitching then u.fldS (pgRef u.refTgt) REF_IN_FREQ_ppt * 10 ^ 6 else u.refSel.avg
      let v :=
        if st = selTracking then u.loop u.refSelIn
        else if st = selSwitching then (if (u.ramp goal).refSel.y = goal then (u.ramp goal).refReached else u.ramp goal)
        else if st = selHoldover then u.ramp goal
        else { u with refSel := { u.refSel with y := 0, v := 0 } }
      let r := v.refSel
      let w := { v with refSel := { r with ySum := r.ySum + r.y, yCount := r.yCount + 1, whole := r.whole && st == selTracking } }
      let ppt := satSigned 32 (roundDiv r.y (10 ^ 6))
      let x := (List.range 9).foldl (fun x j =>
        if (x.pl (11 + j)).unfreeze then
          ((x.setPl (11 + j) { x.pl (11 + j) with unfreeze := false, lossOpen := false }).setBit (pgPll (11 + j)) PLL_STAT_frozen
            false).clkBit 0x144 (11 + j) false
        else x) ((w.setFld pgSel REF_Y_ppt (ofSigned 32 ppt)).loopSteer ppt)
      exec .loopUpdate s = .next (x.synthSteer x.steerNow)) ∧
    (s.due 2 cueSec = true →
      let r := s.refSel
      let ring := if r.whole && r.yCount != 0 then (roundDiv r.ySum r.yCount :: r.ring).take (s.lv pgSel REF_HO_secs) else r.ring
      let r' := { r with ring := ring, ySum := 0, yCount := 0, whole := s.fld pgSel REF_STAT_state == selTracking }
      exec .holdoverSecond s = .next
        (({ acted 2 with refSel := r' }.setFld pgSel REF_HOAVG_ppt (ofSigned 32 (satSigned 32 (roundDiv r'.avg (10 ^ 6))))).setFld
          pgSel REF_HOSEC_n ring.length))

/-- A PLL locks that is not locked and has measured at least PLL_LOCK.n phase errors in a row within its window (a media
synthesiser at its comparison instants), and no other: it sets its lock bits with IRQ lock, notes its phase error, returns a
bypass-capable PLL from bypass at its first lock unless bypass is held, and starts uptime for the cue PLL. A locked PLL that
has measured PLL_LOCK.nloss errors in a row beyond its window, and no other, counts a loss with code 0x0C0; a bypass-capable
one then starts to move its domains, and the cue PLL at once runs the timing unit from the crystal; a media synthesiser
freezes; the links of a link PLL go down. A move to bypass that is under way completes with IRQ bypass, and takes the PLL's
DRAM channel out of service; a wanted return completes while the PLL is locked and bypass is not held, and the DRAM channel
serves again. A busy phase moves one step of 1/256 towards its target and ends at it with IRQ ph_done. -/
def Obligations.PllEventsComplete : Prop :=
  (∀ (s : State) (n : Fin 26) (err : W32) (cycles : Nat), s.low = false →
    let p := pgPll n
    let locks := s.bit p PLL_STAT_lock = false ∧ (mediaSynth n = true → s.onMultiple pitPer = true) ∧
      err.toInt.natAbs ≤ s.lv p PLL_LOCK_win * 256 ∧ s.lv p PLL_LOCK_n ≤ cycles
    let u := s.setWord (p + 0x114) err
    let v := ((u.setBit p PLL_STAT_lock true).clkBit 0x140 n true).irq p IRQ_pll_lock
    let w := v.setPl n { u.pl n with locked1 := true, unfreeze := v.bit p PLL_STAT_frozen, wantReturn := (u.pl n).wantReturn ||
      (bypassCapable n && !(u.pl n).locked1 && !v.bit pgClk CLK_CTL_hold_byp) }
    (¬locks → exec (.pllLock n ⟨err, cycles⟩) s = .next s) ∧
    (locks → exec (.pllLock n ⟨err, cycles⟩) s = .next (if n = 0 then { w with cueRun := true } else w))) ∧
  (∀ (s : State) (n : Fin 26) (err : W32) (cycles : Nat), s.low = false →
    let p := pgPll n
    let loses := s.bit p PLL_STAT_lock = true ∧ (mediaSynth n = true → s.onMultiple pitPer = true) ∧
      s.lv p PLL_LOCK_win * 256 < err.toInt.natAbs ∧ s.lv p PLL_LOCK_nloss ≤ cycles
    let u := ((s.setWord (p + 0x114) err).setBit p PLL_STAT_lock false).clkBit 0x140 n false
    let v := (((u.bump p PLL_LOSS_n).bump pgClk CLK_LOCKLOSS_n).irq p IRQ_pll_lock_loss).irq pgClk IRQ_clkCtl_lock_loss
    let w := v.err p 0x0C0
    let x := w.setPl n { w.pl n with lossOpen := true, wantReturn := false, moving := (w.pl n).moving || !w.bit p PLL_STAT_bypass }
    (¬loses → exec (.pllLockLoss n ⟨err, cycles⟩) s = .next s) ∧
    (loses →
      (n = 0 → exec (.pllLockLoss n ⟨err, cycles⟩) s =
          .next (if x.cueByp then x else { x with cueByp := true }.irq pgCue IRQ_cue_bypass)) ∧
      (1 ≤ n.val → n.val ≤ 10 → exec (.pllLockLoss n ⟨err, cycles⟩) s = .next x) ∧
      (11 ≤ n.val → n.val ≤ 19 → exec (.pllLockLoss n ⟨err, cycles⟩) s = .next
        (((w.setPl n { w.pl n with lossOpen := true, unfreeze := false }).setBit p PLL_STAT_frozen true).clkBit 0x144 n true)) ∧
      (20 ≤ n.val → exec (.pllLockLoss n ⟨err, cycles⟩) s = .next (w.linksLost n)))) ∧
  (∀ (s : State) (n : Fin 26), s.low = false →
    let u := (s.setPl n { s.pl n with moving := false }).setBit (pgPll n) PLL_STAT_bypass true
    let v := ((u.clkBit 0x144 n true).irq (pgPll n) IRQ_pll_bypass).irq pgClk IRQ_clkCtl_bypass
    ((s.pl n).moving = false → exec (.pllBypassDone n) s = .next s) ∧
    ((s.pl n).moving = true → n = 0 → exec (.pllBypassDone n) s = .next
      (if v.cueByp then v else { v with cueByp := true }.irq pgCue IRQ_cue_bypass)) ∧
    ((s.pl n).moving = true → n ≠ 0 → exec (.pllBypassDone n) s = .next
      (if 3 ≤ n.val ∧ n.val ≤ 10 then v.chLost (n.val - 3) else v))) ∧
  (∀ (s : State) (n : Fin 26), s.low = false →
    let back := (s.pl n).wantReturn = true ∧ s.bit (pgPll n) PLL_STAT_lock = true ∧ s.bit pgClk CLK_CTL_hold_byp = false
    let u := (s.setPl n { s.pl n with wantReturn := false, lossOpen := false, moving := false }).setBit (pgPll n) PLL_STAT_bypass
      false
    let v := u.clkBit 0x144 n false
    (back → n = 0 → exec (.pllBypassReturn n) s = .next { v with cueByp := false }) ∧
    (back → n ≠ 0 → exec (.pllBypassReturn n) s = .next
      (if s.bit (pgPll n) PLL_STAT_bypass = true ∧ 3 ≤ n.val ∧ n.val ≤ 10 then v.chBack (n.val - 3) else v)) ∧
    (¬back → exec (.pllBypassReturn n) s = .next s)) ∧
  (∀ (s : State) (n : Fin 26), s.low = false →
    let p := pgPll n
    let goal := s.fldS p PLL_PH_target
    let x := s.fldS p PLL_PH_now
    (s.bit p PLL_STAT_ph_busy = false → exec (.pllPhaseStep n) s = .next s) ∧
    (s.bit p PLL_STAT_ph_busy = true → x ≠ goal →
      let x' := if x < goal then x + 1 else x - 1
      let u := (s.setFld p PLL_PH_now (ofSigned 16 x')).bump p PLL_PHSTEPS_n
      exec (.pllPhaseStep n) s = .next
        (if x' = goal then (u.setBit p PLL_STAT_ph_busy false).irq p IRQ_pll_ph_done else u)))

/-- A write that sets hold_byp moves every bypass-capable PLL not in bypass to it and gives up the returns that wait; a write of
CLK_CTL or CLK_MAN steers the synthesisers by CLK_MAN while CLK_STEER.src is 1. A return request of a PLL without lock or
while bypass is held is refused with code 0x0C1; else a PLL in bypass returns. A phase target of a media synthesiser is busy
until the phase is there; of another PLL it is restored with code 0x0C2. -/
def Obligations.ClockWritesComplete : Prop :=
  (∀ (s : State) (a : Acc) (w : W32), Reaches s a → (s.storeWord a pgClk .clkCtl 0 0x104 w).ok = true →
    let u := s.stored a pgClk .clkCtl 0 0x104 w
    let move := fun (x : State) (n : Nat) =>
      x.setPl n { x.pl n with wantReturn := false, moving := (x.pl n).moving || !x.bit (pgPll n) PLL_STAT_bypass }
    let v := if u.bit pgClk CLK_CTL_hold_byp && !(s.word (pgClk + 0x104)).getLsbD 0 then (List.range 11).foldl move u else u
    exec (.holdBypassWrite a w) s = .next
      ((if v.bit pgClk CLK_STEER_src then v.synthSteer (v.fldS pgClk CLK_MAN_ppt) else v).taken a)) ∧
  (∀ (s : State) (a : Acc) (w : W32), Reaches s a → (s.storeWord a pgClk .clkCtl 0 0x108 w).ok = true →
    let u := s.stored a pgClk .clkCtl 0 0x108 w
    exec (.clkManWrite a w) s = .next
      ((if u.bit pgClk CLK_STEER_src then u.synthSteer (u.fldS pgClk CLK_MAN_ppt) else u).taken a)) ∧
  (∀ (s : State) (a : Acc) (n : Fin 26), Reaches s a → Admitted s a (pgPll n) .pll n 0x118 1 →
    let p := pgPll n
    let u := s.stored a p .pll n 0x118 1
    let may := u.bit p PLL_STAT_lock = true ∧ u.bit pgClk CLK_CTL_hold_byp = false
    (may → exec (.pllBypassReturnWrite a n) s = .next
      ((if u.bit p PLL_STAT_bypass then u.setPl n { u.pl n with wantReturn := true } else u).taken a)) ∧
    (¬may → exec (.pllBypassReturnWrite a n) s = .next ((u.accErr p 0x0C1 a accWrite (p + 0x118)).taken a))) ∧
  (∀ (s : State) (a : Acc) (n : Fin 26) (w : W32), Reaches s a → (s.storeWord a (pgPll n) .pll n 0x104 w).ok = true →
    let p := pgPll n
    let u := s.stored a p .pll n 0x104 w
    (mediaSynth n = true → exec (.pllPhaseTargetWrite a n w) s = .next
      ((u.setBit p PLL_STAT_ph_busy (u.fldS p PLL_PH_target != u.fldS p PLL_PH_now)).taken a)) ∧
    (mediaSynth n = false → exec (.pllPhaseTargetWrite a n w) s = .next
      (((u.setWord (p + 0x104) (s.word (p + 0x104))).accErr p 0x0C2 a accWrite (p + 0x104)).taken a)))

/-- A station that is off starts no cycle, and none outside its instant or twice at one; an owned slot at its instant sends the
entry due, or a claim frame with auto_claim; a station that is off hears nothing, one that hears a discarded frame counts it
by its verdict, and a valid one of another station is counted, its claim is noted, and a beacon gives slot timing while a
frame of type 1 to 4 is delivered. A read of the stamp queue that meets a beacon comes first. A silent cycle past its instant
counts, and the third of a synchronised station is a beacon loss. A collision in a slot other than the one the station is
sending in, or while it sends nothing, changes nothing; in one's own slot it counts, shows and is captured with code 0x0D0,
and a slot above 0 is given up, while in slot 0 the master goes back to Listening. A read of the stamp queue removes its head
and latches it for the reading master; of an empty one it returns zero. -/
def Obligations.CallBusCommandsComplete : Prop :=
  (∀ (s : State) (edge : Fin 53), s.low = false →
    let t := s.cycleNext s.now
    let due := s.cbState ≠ cbOff ∧ t < s.now + 16 ∧ s.call.cycleAt ≠ some t
    (¬due → exec (.callCycleStart edge) s = .next s) ∧
    (due → exec (.callCycleStart edge) s = .next (s.callSettle.callCycle t edge))) ∧
  (∀ (s : State) (slot : Fin 40) (c : Nat), s.low = false → s.cycleStart = some c →
    let t := c + slot * slotLen
    let due := (s.cbState = cbSynced ∨ s.cbState = cbMaster) ∧ s.now ≤ t ∧ t < s.now + 16
    let u := s.callSettle
    (¬due → exec (.callSlotStart slot) s = .next s) ∧
    (due → u.slotOwned slot = false ∨ u.call.sending ≠ none → exec (.callSlotStart slot) s = .next u) ∧
    (due → u.slotOwned slot = true → u.call.sending = none →
      let e := u.callEntry t 256
      let v := e.1
      (∀ i, e.2 = some i →
        let r := v.engineRead callMaster (v.cbTxDesc i + 32) (v.loadLE (v.cbTxDesc i) 2)
        exec (.callSlotStart slot) s = .next (r.1.callSend slot t (v.loadLE (v.cbTxDesc i + 2) 1) r.2 (some i))) ∧
      (e.2 = none → exec (.callSlotStart slot) s = .next
        (if v.lbit pgCb CB_CTL_auto_claim then v.callSend slot t 3 (List.replicate 8 0) none else v)))) ∧
  (∀ (pre : State) (start : Nat) (bad : Bool) (bytes : List Byte) (pop : Option Acc) (beacon : Bool), pre.low = false →
    let is := fun (x : State) => (beacon = true → exec (.callBeaconReceived start bad ⟨bytes, pop⟩) pre = .next x) ∧
      (beacon = false → exec (.callFrameReceived start bad bytes) pre = .next x)
    let s := match pop, beacon with
      | some a, true => pre.viaRead a (pgCbr + 0x120) (fun s => s.popBeacon a.m)
      | _, _ => pre
    (s.cbState = cbOff → is s) ∧
    (s.cbState ≠ cbOff →
      let u := s.callSettle
      let w := u.callSeen start
      let src := byteAt bytes 0 % 64
      let claim : W32 := BitVec.ofNat 32 (ofBytesLE ((bytes.drop 4).take 4))
      let v := (u.bump pgCb CB_RX_FRAMES_n).callClaim src claim
      (∀ f, u.callVerdict w bad bytes = some f → is (u.bump pgCb f)) ∧
      (u.callVerdict w bad bytes = none → src = u.station → is u) ∧
      (u.callVerdict w bad bytes = none → src ≠ u.station → is
        (if byteAt bytes 1 % 16 = 0 then v.callBeacon w bytes else v.callDeliver w src claim bytes)))) ∧
  (∀ s : State, s.low = false →
    let due := (s.cbState = cbListening ∨ s.cbState = cbSynced) ∧ s.call.silentAt + callPer < s.now + 16
    let u := s.setCall { s.call with silentAt := s.call.silentAt + callPer }
    let n := min 15 (u.fld pgCb CB_STAT_silent + 1)
    let v := u.setFld pgCb CB_STAT_silent n
    let w := if s.cbState = cbSynced ∧ n = 3 then ((v.bump pgCb CB_BEACON_MISS_n).irq pgCb IRQ_cbCtl_beacon_loss).setCb cbListening
      else v
    (¬due → exec .callSilentCycle s = .next s) ∧
    (due → w.masterWait = none → exec .callSilentCycle s = .next w) ∧
    (∀ k, due → w.masterWait = some k → exec .callSilentCycle s = .next
      (if k ≤ n then ((w.setCb cbMaster).setCall { w.call with cycleAt := none }).irq pgCb IRQ_cbCtl_master else w))) ∧
  (∀ (s : State) (slot : Fin 40), s.low = false →
    (s.call.sending = none → exec (.callCollision slot) s = .next s) ∧
    (∀ f, s.call.sending = some f →
      (f.slot ≠ slot ∨ callEnd f < s.now → exec (.callCollision slot) s = .next s) ∧
      (f.slot = slot → s.now ≤ callEnd f →
        let u := ((s.setCall { s.call with sending := none }).bump pgCb CB_COLLIDE_n).setBit pgCb CB_STAT_collide true
        let v := (u.irq pgCb IRQ_cbCtl_collide).err pgCb 0x0D0 none (some slot)
        let off := fun (x : State) (a : Nat) => x.setWord a (setBits (x.word a) (slot.val % 32) 1 0)
        let own := match v.call.base with
          | some b => b + ceilDiv (v.now - b) callPer * callPer
          | none => ceilDiv v.now callPer * callPer
        let w := (v.setCb cbListening).setFld pgCb CB_STAT_silent 0
        (slot.val = 0 → exec (.callCollision slot) s = .next (w.setCall { v.call with silentAt := own })) ∧
        (slot.val ≠ 0 → exec (.callCollision slot) s = .next (if slot.val < 32 then off (off v (pgCb + 0x110)) (pgCb + 0x118)
          else off (off v (pgCb + 0x114)) (pgCb + 0x11C)))))) ∧
  (∀ (s : State) (a : Acc), Reaches s a →
    let put := fun (x : State) (o v : Nat) => x.setMreg a.m (pgCbr + o) (BitVec.ofNat 32 v)
    (s.call.bsq = [] → exec (.beaconQueuePop a) s = .next ((put s 0x124 0).answerWord a.m 0)) ∧
    (∀ b rest, s.call.bsq = b :: rest →
      let u := (s.setCall { s.call with bsq := rest }).setFld pgCbr CB_BSQ_LEVEL_n rest.length
      let u := put (put u 0x124 (b.qual + b.flags * 2 ^ 8 + 2 ^ 31)) 0x128 (b.upt % 2 ^ 32)
      let u := put (put (put u 0x12C (b.upt / 2 ^ 32)) 0x130 (b.sec % 2 ^ 32)) 0x134 (b.sec / 2 ^ 32 % 2 ^ 16)
      exec (.beaconQueuePop a) s = .next
        ((put (put u 0x138 (b.cos % 2 ^ 32)) 0x13C (b.cos / 2 ^ 32)).answerWord a.m (BitVec.ofNat 32 b.cyc))))

/-- A burst leaves at a rail instant of cgroup, or after a change of claim, unless the device is Solo, its pins signal a fault or
a burst is still being sent. A good burst sets the twin's claim and is heard; a bad one counts, and the second in a row clears
the twin's claim, as does the second missing one. A device in Forming with valid time of day becomes Lead by lead_now, or by
preference after 3 ms without a rank-2 claim; a Yielded device rejoins into Forming; a swap is asked for by a Lead whose twin
is an Understudy without divergence and is refused otherwise; at the swap instant, the rail instant of cgroup that the time of
day kept for it means, the roles change, but a Lead refuses a swap whose conditions no longer hold (the model's reading, log
entry 183). A heartbeat leaves once at each millisecond instant; 3 ms without one is a takeover, and for a Lead the loss of
the twin. -/
def Obligations.PairRoleCommandsComplete : Prop :=
  (∀ (s : State) (cue : Fin 16), s.low = false →
    let u := match s.cgNow with | some i => (s.settleFrame i).tryPromote | none => s
    let t := s.cgNow.getD (u.now + cue)
    let sends := u.role ≠ roleSolo ∧ u.faulted = false ∧ (s.cgNow.isSome = true ∨ u.pair.burstWant = true) ∧
        u.pair.burstEnd ≤ t
    (sends → exec (.claimBurst cue) s = .next
      (u.setPair { u.pair with burst := some (t, burstBits u.claim), burstEnd := t + 47040, burstWant := false })) ∧
    (¬sends → exec (.claimBurst cue) s = .next u)) ∧
  (∀ (s : State) (b : BitVec 48), s.low = false →
    let v := { s.pair with heard := some (s.now - 47040), missed := 0 }
    (∀ c, burstClaim b = some c → exec (.claimBurstReceived b) s =
        .next (((s.setPair { v with bad := 0 }).setTwinClaim c).hearClaim c)) ∧
    (burstClaim b = none → s.pair.bad = 0 → exec (.claimBurstReceived b) s = .next (s.setPair { v with bad := 1 })) ∧
    (burstClaim b = none → s.pair.bad ≠ 0 → exec (.claimBurstReceived b) s =
        .next ((s.setPair { v with bad := 0 }).setTwinClaim 0))) ∧
  (∀ s : State, s.low = false →
    let i := s.grpPrev s.cgroup (s.now + 15 - (47040 + cueUs))
    let judged := i = s.pair.missAt ∨ ∃ h, s.pair.heard = some h ∧ i ≤ h + cueUs + 16
    (judged → exec .claimBurstMissing s = .next s) ∧
    (¬judged → s.pair.missed = 0 → exec .claimBurstMissing s = .next (s.setPair { s.pair with missAt := i, missed := 1 })) ∧
    (¬judged → s.pair.missed ≠ 0 → exec .claimBurstMissing s = .next
      ((s.setPair { s.pair with missAt := i, missed := 0 }).setTwinClaim 0))) ∧
  (∀ s : State, s.low = false →
    let due := s.lbit pgPair PAIR_CFG_pref = true ∧ s.pair.quietFrom + 31752000 < s.now + 16 ∧ s.role = roleForming ∧
        s.held = true
    (due → exec .prefLeadTimeout s = .next (s.becomeLead (epochNext s.pair.epoch))) ∧
    (¬due → exec .prefLeadTimeout s = .next s)) ∧
  (∀ (s : State) (a : Acc), Reaches s a → Admitted s a pgPair .pair 0 0x110 1 →
    let u := s.stored a pgPair .pair 0 0x110 1
    let may := u.role = roleForming ∧ u.held = true
    (may → exec (.leadNow a) s = .next ((u.becomeLead (epochNext u.pair.epoch)).taken a)) ∧
    (¬may → exec (.leadNow a) s = .next (u.taken a))) ∧
  (∀ (s : State) (a : Acc), Reaches s a → Admitted s a pgPair .pair 0 0x110 4 →
    let u := s.stored a pgPair .pair 0 0x110 4
    exec (.pairRejoin a) s = .next
      ((if u.role = roleYielded then { u.becomeForming with pathFailed := [] } else u).taken a)) ∧
  (∀ (s : State) (a : Acc), Reaches s a → Admitted s a pgPair .pair 0 0x110 2 →
    let u := s.stored a pgPair .pair 0 0x110 2
    let may := u.role = roleLead ∧ u.bit pgPair PAIR_STAT_twin_up = true ∧ u.pair.twinRole = roleUnderstudy ∧
      u.bit pgPair PAIR_STAT_div = false
    let no := u.setPair { u.pair with swapTo := none, swapAt := none }
    let x := u.fld64 pgPair PAIR_SWAP_sec_lo PAIR_SWAP_sec_hi * cueSec + u.fld64 pgPair PAIR_SWAP_cos_lo PAIR_SWAP_cos_hi
    (may → exec (.pairSwapWrite a) s = .next
      ((u.setPair { u.pair with swapTo := some x, swapAt := none, swapFrom := u.now + 1 }).taken a)) ∧
    (¬may → exec (.pairSwapWrite a) s = .next
      ((((no.bump pgPair SWAP_REFUSED_n).setBit pgPair PAIR_STAT_swap_ok false).irq pgPair IRQ_pair_swap_done).taken a))) ∧
  (∀ s : State, s.low = false →
    (s.pair.swapAt = none → exec .swapInstant s = .next s) ∧
    (∀ c, s.pair.swapAt = some c →
      let W := nearInstant (s.grpNext s.cgroup) (s.uptOfCues c)
      let e := epochNext (epochOf s.claim)
      let u := s.setPair { s.pair with swapAt := none, swapTo := none }
      let fin := fun (x : State) => (x.setBit pgPair PAIR_STAT_swap_ok true).irq pgPair IRQ_pair_swap_done
      (s.now + 16 ≤ W → exec .swapInstant s = .next s) ∧
      (W < s.now + 16 → s.role = roleUnderstudy → exec .swapInstant s = .next (fin ((u.becomeLead e).crewStart))) ∧
      (W < s.now + 16 → s.role = roleLead → s.swapFits = false → exec .swapInstant s = .next
        (((u.bump pgPair SWAP_REFUSED_n).setBit pgPair PAIR_STAT_swap_ok false).irq pgPair IRQ_pair_swap_done)) ∧
      (W < s.now + 16 → s.role = roleLead → s.swapFits = true →
        let v := ((u.setClaim (claimOf 1 e)).setRole roleUnderstudy).crewSet 0
        exec .swapInstant s = .next (fin (v.setPair { v.pair with done := true, lastHb := v.now }))))) ∧
  (∀ s : State, s.low = false →
    (s.msInstant = none → exec .heartbeatSend s = .next s) ∧
    (∀ t, s.msInstant = some t →
      let sends := s.role ≠ roleSolo ∧ s.fltT = false ∧ s.pair.hbSent ≠ t
      (sends → exec .heartbeatSend s = .next ((s.setPair { s.pair with hbSent := t }).twinSend (s.beatMsg t))) ∧
      (¬sends → exec .heartbeatSend s = .next s))) ∧
  (∀ s : State, s.low = false →
    let due := s.bit pgPair PAIR_STAT_twin_up = true ∧ s.pair.lastHb + 31752000 < s.now + 16
    let u := s.setBit pgPair PAIR_STAT_twin_up false
    (¬due → exec .heartbeatTimeout s = .next s) ∧
    (due → u.role = roleLead → exec .heartbeatTimeout s =
        .next ((u.bump pgPair PAIR_HB_MISS_n).irq pgPair IRQ_pair_twin_lost)) ∧
    (due → u.role ≠ roleLead → exec .heartbeatTimeout s = .next u.takeover))

/-- While the Twin Link is down no message is taken. One with a CRC error counts and asks for a retransmission; one out of
sequence asks once and waits; the next in sequence clears the replay flag, moves the sequence on and then has its own effect:
a heartbeat is heard, a journal entry waits or is applied, signatures are compared, a path check's result is matched,
transferred state is kept, snapshot data are stored, a request is answered by replay. -/
def Obligations.TwinMessagesComplete : Prop :=
  ∀ (s : State) (seq : Nat) (ok : Bool), s.low = false →
    let next_ := (s.setBit pgTwin TWN_STAT_replay false).setPair
      { s.pair with rxSeq := (s.pair.rxSeq + 1) % 2 ^ 32, asked := false }
    let ask := fun (x : State) =>
      let y := (x.bump pgTwin TWN_RETX_n).setBit pgTwin TWN_STAT_replay true
      (y.setPair { y.pair with asked := true }).twinSend (.retransmit y.pair.rxSeq)
    let takes := fun (f : State → State) => if s.twinUp = false then s
      else if ok = false then ask (s.bump pgTwin TWN_CRC_ERR_n)
      else if seq % 2 ^ 32 = s.pair.rxSeq then f next_
      else if s.pair.asked then s else ask s
    (∀ (ago : Fin 16) (h : Heartbeat), exec (.heartbeatReceived seq ok ago h) s =
        .next (takes fun x => x.hearBeat (x.now - ago) h)) ∧
    (∀ (claim : W32) (at_ : Nat) (d : Decision), exec (.journalReceived seq ok claim at_ d) s =
      .next (takes fun x => x.hearJournal claim at_ d).watch) ∧
    (∀ (frame : Nat) (sigs : List (Nat × W32)), exec (.signaturesReceived seq ok frame sigs) s =
      .next (takes fun x => (sigs.foldl (fun y e => y.twinSignature e.1 frame e.2) x).tryPromote)) ∧
    (∀ (dest frame : Nat) (pass diff : Bool), exec (.pathCheckResultReceived seq ok dest frame pass diff) s =
      .next (takes fun x => x.checkTwin dest frame (pass, diff))) ∧
    (∀ (items : List XferItem), exec (.stateTransferReceived seq ok items none) s = .next (takes fun x => x.hearItems items) ∧
      ∀ l, exec (.stateTransferReceived seq ok items (some l)) s =
          .next (takes fun x => (x.hearItems items).hearVersions l)) ∧
    (∀ (off : Nat) (data : List (BitVec 64)), exec (.snapshotDataReceived seq ok off data) s =
      .next (takes fun x => x.snapData off data)) ∧
    (∀ first : Nat, exec (.retransmitRequestReceived seq ok first) s = .next (takes fun x => x.replay first))

/-- The end of a frame of a destination sends its signature, unless the device is Solo or the frame is done, and compares it with
the twin's if that has come, or waits for it; a destination that ends no frame in the TICK gives none. A wait past its
deadline is judged as a missing signature. A path check past its due frame sends its result and takes its outcome with the
twin's, or waits for that; past the wait the twin's result is taken as a pass; without such a check nothing changes. -/
def Obligations.SignaturesAndPathChecksComplete : Prop :=
  (∀ (s : State) (d : Fin 2048) (samples audio : List Nat), s.low = false →
    (s.destEnd d = none ∨ s.role = roleSolo → exec (.frameSignature d samples audio) s = .next s) ∧
    (∀ start T, s.destEnd d = some (start, T) → s.role ≠ roleSolo → (s.sigRun d).last ≠ some (s.frameNo start T) →
      s.signless d = false →
      let n := s.frameNo start T
      let w := signatureOf samples audio
      let u := s.twinSend (.signatures n [(d, w)])
      (∀ x t, u.sigWait d n = some x → x.twin = some t → exec (.frameSignature d samples audio) s = .next
        ((u.sigDrop d n).compared d n start (some w != some t))) ∧
      (u.sigWait d n = none → exec (.frameSignature d samples audio) s = .next
        (u.sigAdd ⟨d, n, start + 3 * T, some (some w), none⟩)))) ∧
  (∀ (s : State) (d : Fin 2048), s.low = false →
    let late := s.pair.sigs.find? (fun w => w.dest == d.val && w.own.isSome && w.due < s.now + 16)
    (late = none → exec (.signatureDeadline d) s = .next s) ∧
    (∀ w, late = some w → exec (.signatureDeadline d) s = .next
      ((s.sigDrop d w.frame).compared d w.frame (w.due - 3 * perOf (s.grpRate (s.tapGroup d))) (w.own != some none)))) ∧
  (∀ (s : State) (d : Fin 2048) (differs diff : Bool), s.low = false →
    let c? := s.pair.checks.find? (fun c => c.dest == d.val && c.own.isNone)
    (c? = none → exec (.pathCheckDone d differs diff) s = .next s) ∧
    (∀ c, c? = some c →
      let pass := !differs && !s.pathErred d
      let u := if pass then s else { s with pathFailed := if s.pathFailed.contains d.val then s.pathFailed else d.val :: s.pathFailed }
      let v := u.twinSend (.pathResult d c.frame pass diff)
      let due := v.grpNext (v.tapGroup d) (v.now + 1) + perOf (v.grpRate (v.tapGroup d))
      (s.now + 16 ≤ c.due → exec (.pathCheckDone d differs diff) s = .next s) ∧
      (∀ t, c.due < s.now + 16 → c.twin = some t → exec (.pathCheckDone d differs diff) s =
          .next (v.checkOutcome d (pass, diff) t)) ∧
      (c.due < s.now + 16 → c.twin = none → exec (.pathCheckDone d differs diff) s = .next
        (v.setPair { v.pair with checks := v.pair.checks.map (fun x =>
          if x.dest == d.val then { x with own := some (pass, diff), due := due } else x) })))) ∧
  (∀ (s : State) (d : Fin 2048), s.low = false →
    let c? := s.pair.checks.find? (fun c => c.dest == d.val)
    (c? = none → exec (.pathCheckResultTimeout d) s = .next s) ∧
    (∀ c o, c? = some c → c.own = some o → c.twin = none →
      (c.due < s.now + 16 → exec (.pathCheckResultTimeout d) s = .next (s.checkOutcome d o (true, false))) ∧
      (s.now + 16 ≤ c.due → exec (.pathCheckResultTimeout d) s = .next s)))

/-- The failure of a lane that was good counts; where the width still stands nothing more happens, where none is left the link
goes down, else it narrows with IRQ width. A link that was down comes up with the width its lanes allow, both directions
numbered anew. A snapshot copy starts on a Lead with none under way once its period is over, sending the area's words; its end
sends the header, shows the sequence and, for a swap it was started for, fixes the swap instant, kept as a time of day, or
refuses the swap if its conditions no longer hold. A due journal entry is applied by a device that follows. The transferred
state is not applied before its cut, by another role than Joining, or twice. -/
def Obligations.TwinLinkAndTransferComplete : Prop :=
  (∀ (s : State) (n : Fin 8), s.low = false →
    let ok := s.fld pgTwin TWN_STAT_lane_ok
    let w := s.fld pgTwin TWN_STAT_width
    let ok' := ok - 2 ^ n.val
    let w' := if w = 3 then widthOf ok' else if (w = 1 ∧ n.val < 4) ∨ (w = 2 ∧ 4 ≤ n.val) then 0 else w
    let u := (s.setFld pgTwin TWN_STAT_lane_ok ok').bump pgTwin TWN_LANE_FAIL_n
    (ok.testBit n = false → exec (.twinLaneFail n) s = .next s) ∧
    (ok.testBit n = true → exec (.twinLaneFail n) s = .next
      (if w' = w then u else if w' = 0 then u.twinDown else (u.setFld pgTwin TWN_STAT_width w').irq pgTwin IRQ_twin_width))) ∧
  (∀ (s : State) (lanes : BitVec 8), s.low = false →
    let u := (s.setFld pgTwin TWN_STAT_width (widthOf lanes.toNat)).setFld pgTwin TWN_STAT_lane_ok lanes.toNat
    let v := ({ u with twinOut := [], twinSeq := 0 }.setBit pgTwin TWN_STAT_replay false).irq pgTwin IRQ_twin_link_up
    (s.twinUp = true ∨ widthOf lanes.toNat = 0 → exec (.twinLinkUp lanes) s = .next s) ∧
    (s.twinUp = false → widthOf lanes.toNat ≠ 0 → exec (.twinLinkUp lanes) s = .next
      (v.setPair { v.pair with rxSeq := 0, asked := false, replayed := [], xferSent := false }).sendVersions)) ∧
  (∀ s : State, s.low = false →
    let v := s.pair
    let starts := s.role = roleLead ∧ v.snapBusy = none ∧ (v.snapFrom + s.lv pgTwin TWN_SNAP_PER_s * cueSec < s.now + 16 ∨
      v.swapTo.isSome = true ∧ v.snapFrom < v.swapFrom)
    let r := s.engineRead twinMaster (s.lv64 pgTwin TWN_SNAP_SRC_lo TWN_SNAP_SRC_hi) s.snapLen
    let words := wordsOf r.2
    let u := r.1.setPair { v with snapFrom := s.now, snapBusy := some s.tod.total, snapCrc := crc32c r.2 }
    (¬starts → exec .snapshotCopy s = .next s) ∧
    (starts → exec .snapshotCopy s = .next (u.sendData (u.bankAt (v.snapSeq + 1) + 128) (pieces 30 words.length words)))) ∧
  (∀ s : State, s.low = false →
    (s.pair.snapBusy = none → exec .snapshotCopyDone s = .next s) ∧
    (∀ t, s.pair.snapBusy = some t →
      let seq := s.pair.snapSeq + 1
      let u := s.sendData (s.bankAt seq) [s.snapHeader seq t]
      let v := (u.setPair { u.pair with snapSeq := seq, snapBusy := none }).snapShow seq
      (v.pair.swapTo = none → exec .snapshotCopyDone s = .next v) ∧
      (∀ x, v.pair.swapTo = some x →
        let W := v.grpNext v.cgroup (max (v.uptOfCues x) v.earliest)
        let no := v.setPair { v.pair with swapTo := none, swapAt := none }
        (v.pair.snapFrom < v.pair.swapFrom → exec .snapshotCopyDone s = .next v) ∧
        (v.pair.swapFrom ≤ v.pair.snapFrom → v.swapFits = true → exec .snapshotCopyDone s = .next
          ((v.setPair { v.pair with swapTo := none, swapAt := some (v.todCuesAt W) }).journal W .swap)) ∧
        (v.pair.swapFrom ≤ v.pair.snapFrom → v.swapFits = false → exec .snapshotCopyDone s = .next
          (((no.bump pgPair SWAP_REFUSED_n).setBit pgPair PAIR_STAT_swap_ok false).irq pgPair IRQ_pair_swap_done))))) ∧
  (∀ (s : State) (bad : Bool), s.low = false →
    (s.nextDue = none ∨ s.applying = false → exec (.journalApply bad) s = .next s.watch) ∧
    (∀ e, s.nextDue = some e → s.applying = true → exec (.journalApply bad) s = .next
      ({ s with journalIn := s.journalIn.erase e }.leadDecision e.upt e.d bad).watch)) ∧
  (∀ s : State, s.low = false →
    (s.pair.cutAt = none ∨ s.role ≠ roleJoining ∨ s.pair.done = true → exec .stateTransferCut s = .next s.watch) ∧
    (∀ C, s.pair.cutAt = some C →
      (s.now + 16 ≤ C → exec .stateTransferCut s = .next s.watch) ∧
      (C < s.now + 16 → s.role = roleJoining → s.pair.done = false →
        let l := s.pair.items
        let u := (((s.cutCopy l C).cutPit l).cutUnits l C).cutTurntable l
        let v := { u with journalIn := u.journalIn.filter (fun e => C ≤ e.upt) }
        let w := v.setPair { v.pair with done := true, items := [], cutAt := none, writes := [] }
        exec .stateTransferCut s = .next (s.pair.writes.foldl (fun x d => x.leadPages 0 d) w).tryPromote.watch)))

/-- A well-formed request is made granule by granule, counted as split where it spans more than 16 beats of a Catwalk master. One
that lies within one granule: a write of no byte completes at once; one beyond DRAM_SIZE is captured as 0x103 and completes
with an error; to a channel that is not up it is counted, captured as 0x101 and completes with an error; with room and none of
its requester waiting it enters its channel, else it waits for room. A request of a master in a drain is held. Read data
returns for the next read of its requester: a good one is counted and attributed where corrected and completes with its bytes,
an uncorrectable one is counted, captured as 0x110 and completes with an error, the read of a scrub ends as a scrub read; in a
channel with no such read nothing changes. A granule written whole takes the bytes of the write, and every other byte of DRAM
reads as before. -/
def Obligations.DramRequestsAndReadsComplete : Prop :=
  (∀ (s : State) (req addr : Nat) (op : DramOp) (noise : List (Nat × Nat)) (k : Nat), s.low = false →
      dramRequestOk req addr op = true →
    s.issues req = true →
    (req < 32 → (s.fld pgCat CAT_STAT_drain).testBit req = true → exec (.dramRequest req addr op noise k) s = .next
      { s with catHeld := s.catHeld ++ [⟨req, addr, op, noise, k⟩] }) ∧
    ((req < 32 → (s.fld pgCat CAT_STAT_drain).testBit req = false) → (req = hostMaster → s.bit pgPcie PCIE_STAT_up = true) →
      addr % 128 + opLen op ≤ 128 →
      let n := (placeOf addr).ch
      let mine := noise.filterMap (fun e => if e.1 / 8 == 0 then some (e.1 % 8, e.2) else none)
      let q : DReq := { seq := s.dseq, req := req, addr := addr, op := op, upt := s.now, noise := mine }
      let u := { s with dseq := s.dseq + 1 }
      let done := fun (x : State) (kind : RespKind) =>
        ({ x with acks := x.acks ++ [⟨s.dseq, req, kind, []⟩] } : State).deliverAll
      (opNull op = true → exec (.dramRequest req addr op noise k) s = .next (done u .ok)) ∧
      (opNull op = false → s.dramSize ≤ addr → exec (.dramRequest req addr op noise k) s = .next
        (done (u.capture pgDrcG 0x103 (accOf req op) req addr) (if req = hostMaster then .completerAbort else .busError))) ∧
      (opNull op = false → addr < s.dramSize → u.chUp n = false → exec (.dramRequest req addr op noise k) s = .next
        (done (((u.bump (pgDrc n 0) DRC_UNAVAIL_n).irq (pgDrc n 0) IRQ_drcCtl_unavail).capture (pgDrc n 0) 0x101 (accOf req op) req
          (granuleOf addr)) .busError)) ∧
      (opNull op = false → addr < s.dramSize → u.chUp n = true →
        let enters := u.room n req = true ∧ ∀ e ∈ (u.ch n).waits, e.req ≠ req
        (enters → exec (.dramRequest req addr op noise k) s = .next ((u.enter n q).work n k)) ∧
        (¬enters → exec (.dramRequest req addr op noise k) s = .next
          ((u.setCh n { u.ch n with waits := (u.ch n).waits ++ [q] }).work n k)))) ∧
    ((req < 32 → (s.fld pgCat CAT_STAT_drain).testBit req = false) → (req = hostMaster → s.bit pgPcie PCIE_STAT_up = true) →
      let v := if isMedia req = false ∧ 16 < beatsOf addr (opLen op) then s.bump pgCat CAT_SPLIT_n else s
      exec (.dramRequest req addr op noise k) s = .next ((granuleParts 9 addr op).zipIdx.foldl (fun x p =>
        x.granuleRequest req p.1.1 p.1.2 (noise.filterMap (fun e => if e.1 / 8 == p.2 then some (e.1 % 8, e.2) else none)) k) v))) ∧
  (∀ (s : State) (ch : Fin 8) (noise : List (Nat × Nat)) (k : Nat), s.low = false →
    (s.nextRead ch = none → exec (.dramReadComplete ch noise k) s = .next s) ∧
    (∀ q dev data errs, s.nextRead ch = some q → q.issued = some (dev, data, errs) →
      let errs' := errs.mapIdx (fun c e => (noise.filter (fun p => p.1 == c)).foldl (fun e p => e ^^^ (p.2 % 2 ^ 160)) e)
      let g := decodeGranule dev data errs'
      let u := s.setCh ch { s.ch ch with reqs := (s.ch ch).reqs.filter (fun e => e.seq != q.seq) }
      (q.req = 0xE0 → exec (.dramReadComplete ch noise k) s = .next ((u.scrubbed ch q g).work ch k)) ∧
      (q.req ≠ 0xE0 → g.bad = true → q.discard = false →
        let v := ((u.bump (pgDrc ch 2) DPR_UE_n).irq (pgDrc ch 2) IRQ_dpr_ue).capture (pgDrc ch 2) 0x110 (accOf q.req q.op) q.req
          (granuleOf q.addr)
        exec (.dramReadComplete ch noise k) s = .next (({ v with acks := v.acks ++ [⟨q.seq, q.req,
          if q.req = hostMaster then .completerAbort else .busError, []⟩] } : State).work ch k)) ∧
      (q.req ≠ 0xE0 → g.bad = false → q.discard = false →
        let v := u.noteCorrected ch q.req q.addr g
        exec (.dramReadComplete ch noise k) s = .next
          (({ v with acks := v.acks ++ [⟨q.seq, q.req, .ok, (g.data.drop (q.addr % 128)).take (opLen q.op)⟩] } : State).work ch k)) ∧
      (q.req ≠ 0xE0 → g.bad = false → q.discard = true → exec (.dramReadComplete ch noise k) s = .next
        ((u.noteCorrected ch q.req q.addr g).work ch k)))) ∧
  (∀ (s : State) (addr x : Nat) (data : List Byte), data.length = 128 → Memory.read (s.putGranule addr data).dram x =
    if granuleOf addr ≤ x ∧ x < granuleOf addr + 128 then data.getD (x - granuleOf addr) 0 else Memory.read s.dram x)

/-- Each of a channel's events takes effect when it is due and changes nothing when it is not: a row-disturb window of 8,192
intervals clears the tables; a refresh falls due each interval of a channel that is up, and is taken ahead, postponed while
requests wait and fewer than four are owed, or issued; a temperature poll each millisecond sets the hot flag, with its IRQ
when it rises; an idle or starving page is closed; an aged write starts a drain; a drift pass runs each tracking period. -/
def Obligations.DramChannelEventsComplete : Prop :=
  (∀ (s : State) (ch : Fin 8), s.low = false →
    ((s.ch ch).ivals < 8192 → exec (.rhWindowBoundary ch) s = .next s) ∧
    (8192 ≤ (s.ch ch).ivals → exec (.rhWindowBoundary ch) s = .next
      ((List.range 32).foldl (fun s b => s.setBank ch b { s.bank ch b with tab := [] })
        (s.setCh ch { s.ch ch with ivals := (s.ch ch).ivals - 8192 })))) ∧
  (∀ (s : State) (ch : Fin 8), s.low = false →
    let c := s.ch ch
    let due := s.chUp ch = true ∧ c.refFrom + s.dramInterval ch < (s.now + 16) * 100
    let u := s.setCh ch { c with refFrom := c.refFrom + s.dramInterval ch, ivals := c.ivals + 1, early := c.early - 1 }
    let owed := s.fld (pgDrc ch 0) DRC_STAT_owed
    (¬due → exec (.dramRefreshDue ch) s = .next s) ∧
    (due → 0 < c.early → exec (.dramRefreshDue ch) s = .next (u.settle ch)) ∧
    (due → c.early = 0 → c.busy = true → owed < 4 → exec (.dramRefreshDue ch) s = .next
      (((u.setFld (pgDrc ch 0) DRC_STAT_owed (owed + 1)).bump (pgDrc ch 0) DRC_POSTPONED_n).settle ch)) ∧
    (due → c.early = 0 → c.busy = false ∨ 4 ≤ owed → exec (.dramRefreshDue ch) s = .next ((u.refresh ch 1).settle ch))) ∧
  (∀ (s : State) (ch : Fin 8) (hot : Bool), s.low = false →
    let c := s.ch ch
    let due := s.chUp ch = true ∧ c.poll + cueMs < s.now + 16
    let u := (s.setCh ch { c with poll := c.poll + cueMs }).setBit (pgDrc ch 0) DRC_STAT_hot hot
    let rises := hot = true ∧ (s.setCh ch { c with poll := c.poll + cueMs }).bit (pgDrc ch 0) DRC_STAT_hot = false
    (¬due → exec (.dramTempPoll ch hot) s = .next s) ∧
    (due → rises → exec (.dramTempPoll ch hot) s = .next (u.irq (pgDrc ch 0) IRQ_drcCtl_hot)) ∧
    (due → ¬rises → exec (.dramTempPoll ch hot) s = .next u)) ∧
  (∀ (s : State) (ch : Fin 8) (bank : Fin 32), s.low = false →
    let k := s.bank ch bank
    let idle := s.lv (pgDrc ch 0) DRC_PAGE_idle
    let due := 0 < idle ∧ k.row.isSome = true ∧ ddrCycles k.used + idle ≤ ddrCycles s.now ∧
      ∀ q ∈ (s.ch ch).reqs, q.issued.isNone = true → q.place.bank ≠ bank
    (¬due → exec (.pageIdleClose ch bank) s = .next s) ∧
    (due → exec (.pageIdleClose ch bank) s = .next (s.setBank ch bank { k with row := none }))) ∧
  (∀ (s : State) (ch : Fin 8) (bank : Fin 32), s.low = false →
    let k := s.bank ch bank
    let miss := (s.ch ch).reqs.find? (fun q => q.issued.isNone && q.place.bank == bank.val && k.row != some q.place.row)
    (k.row = none ∨ miss = none → exec (.pageStarveClose ch bank) s = .next s) ∧
    (∀ x q, k.row = some x → miss = some q →
      let old := ddrCycles q.upt + s.lv (pgDrc ch 0) DRC_PAGE_starve ≤ ddrCycles s.now
      (old → exec (.pageStarveClose ch bank) s = .next (s.setBank ch bank { k with row := none, want := some q.place.row })) ∧
      (¬old → exec (.pageStarveClose ch bank) s = .next s))) ∧
  (∀ (s : State) (ch : Fin 8), s.low = false →
    let oldest := (s.ch ch).reqs.find? (fun q => q.issued.isNone && opWrite q.op)
    (oldest = none → exec (.writeDrainAge ch) s = .next s) ∧
    (∀ q, oldest = some q →
      let old := ddrCycles q.upt + s.lv (pgDrc ch 0) DRC_WQ_age ≤ ddrCycles s.now
      (old → exec (.writeDrainAge ch) s = .next (s.setBit (pgDrc ch 0) DRC_STAT_drain true)) ∧
      (¬old → exec (.writeDrainAge ch) s = .next s))) ∧
  (∀ (s : State) (ch : Fin 8) (want : List Int), s.low = false →
    let per := s.lv (pgDrc ch 1) DRC_TRK_per * cueMs
    let due := s.chUp ch = true ∧ (s.ch ch).track + per < s.now + 16
    (¬due → exec (.dramDriftTrack ch want) s = .next s) ∧
    (due → exec (.dramDriftTrack ch want) s = .next
      ((s.setCh ch { s.ch ch with track := (s.ch ch).track + per }).trackPass ch want)))

/-- A write of DPR_RETIRE with privilege retires the device it names, recorded in the wear log, and is ignored with 0x116 where
one is retired already or no such device exists. The corrected counts of the devices clear at a window. A go of a repair while
one runs is ignored with 0x114, else the repair starts; its end is refused beyond the density or on a channel that is not up
(3), fails with no spare row (2), or reads, decodes and writes back the 64 granules of the row and is recorded (1). A scrub
read is issued when it is due and not otherwise. Arming a flip takes the settings. -/
def Obligations.RetirementRepairAndScrubComplete : Prop :=
  (∀ (s : State) (a : Acc) (ch : Fin 8) (w : W32) (auto : Option (Fin 10)), Reaches s a →
    let p := pgDrc ch 2
    let u := s.stored a p .dpr ch 0x100 w
    let ok := (s.storeWord a p .dpr ch 0x100 w).ok
    let old := s.fld p DPR_RETIRE_dev
    let v := u.fld p DPR_RETIRE_dev
    let meets := fun (x : State) => match auto with | some d => x.autoRetire ch d | none => x
    let wrong := old ≠ 15 ∨ (10 ≤ v ∧ v ≤ 14)
    (ok = false → exec (.retireWrite a ch w auto) s = .next (u.taken a)) ∧
    (ok = true → u.privileged a = false → exec (.retireWrite a ch w auto) s = .next ((meets u).taken a)) ∧
    (ok = true → u.privileged a = true → wrong → exec (.retireWrite a ch w auto) s = .next
      ((meets ((u.setFld p DPR_RETIRE_dev old).accErr p 0x116 a accWrite (p + 0x100))).taken a)) ∧
    (ok = true → u.privileged a = true → ¬wrong → auto = none → v ≠ 15 → exec (.retireWrite a ch w auto) s = .next
      ((u.logRepair 0x11 [ch, v]).taken a)) ∧
    (ok = true → u.privileged a = true → ¬wrong → auto = none → v = 15 → exec (.retireWrite a ch w auto) s =
        .next (u.taken a))) ∧
  (∀ (s : State) (ch : Fin 8), s.low = false →
    let p := pgDrc ch 2
    let at_ := s.onMultiple (s.lv p DPR_RET_win * cueSec)
    (at_ = true → exec (.devceWindowStart ch) s = .next ((List.range 10).foldl (fun s d => s.setFld p DPR_DEVCE_n 0 d) s)) ∧
    (at_ = false → exec (.devceWindowStart ch) s = .next s)) ∧
  (∀ (s : State) (a : Acc) (ch : Fin 8) (w : W32), Reaches s a → Admitted s a (pgDrc ch 3) .ppr ch 0x104 w →
    let p := pgDrc ch 3
    let u := s.stored a p .ppr ch 0x104 w
    (w.getLsbD 0 = false → exec (.pprGo a ch w) s = .next (u.taken a)) ∧
    (w.getLsbD 0 = true → u.bit p DPR_PPR_busy = true → exec (.pprGo a ch w) s = .next
      ((u.accErr p 0x114 a accWrite (p + 0x104)).taken a)) ∧
    (w.getLsbD 0 = true → u.bit p DPR_PPR_busy = false → exec (.pprGo a ch w) s = .next
      (((u.setBit p DPR_PPR_busy true).setCh ch { u.ch ch with
        ppr := some (u.fld p DPR_PPR_dev, u.fld p DPR_PPR_bg, u.fld p DPR_PPR_bank, u.fld p DPR_PPR_row) }).taken a))) ∧
  (∀ (s : State) (ch : Fin 8) (spare : Bool) (noise : List (Nat × Nat × Nat)), s.low = false →
    ((s.ch ch).ppr = none → exec (.pprDone ch spare noise) s = .next s) ∧
    (∀ dev bg bank row, (s.ch ch).ppr = some (dev, bg, bank, row) →
      let p := pgDrc ch 3
      let u := (s.setCh ch { s.ch ch with ppr := none }).setBit p DPR_PPR_busy false
      let fails := fun (r : Nat) => (((u.setFld p DPR_PPR_result r).bump p DPR_PPR_FAIL_n).irq p IRQ_ppr_ppr_fail).err p 0x114
      let beyond := u.dramRows ≤ row ∨ 10 ≤ dev ∨ u.chUp ch = false
      let v := (List.range 64).foldl (fun s col =>
        s.pprGranule ch (addrOf ⟨ch, 4 * bg + bank, row, col⟩) (noise.filterMap (fun e => if e.1 = col then some e.2 else none))) u
      (beyond → exec (.pprDone ch spare noise) s = .next (fails 3)) ∧
      (¬beyond → spare = false → exec (.pprDone ch spare noise) s = .next (fails 2)) ∧
      (¬beyond → spare = true → exec (.pprDone ch spare noise) s = .next
        ((((v.setFld p DPR_PPR_result 1).bump p DPR_PPR_DONE_n).irq p IRQ_ppr_ppr_done).logRepair 0x12 [ch, dev, bg, bank, row, 0])))) ∧
  (∀ (s : State) (ch : Fin 8) (guaranteed : Bool), s.low = false →
    let p := pgDrc ch 2
    let since := ddrCycles s.now - ddrCycles (s.ch ch).scrubAt
    let due := s.chUp ch = true ∧ s.lbit p DPR_SCRUB_en = true ∧
      (guaranteed = true → s.lv p DPR_SCRUB_gap ≤ since) ∧
      (guaranteed = false → (s.ch ch).busy = false ∧ s.lv p DPR_SCRUB_idle ≤ since)
    let h := s.fld64 p DPR_SCRUB_POS_lo DPR_SCRUB_POS_hi / 1024
    let q : DReq := { seq := s.dseq, req := 0xE0, addr := scrubAddr ch h, op := .read 128 false, upt := s.now }
    let waits := (∃ e ∈ (s.ch ch).reqs, e.issued.isNone = true ∧ granuleOf e.addr = scrubAddr ch h) ∨
      ∃ t, (s.ch ch).ppr = some t ∧ t.2.1 * 4 + t.2.2.1 = q.place.bank
    let u := ({ s with dseq := s.dseq + 1 } : State).setCh ch { s.ch ch with reqs := (s.ch ch).reqs ++ [q], scrubAt := s.now }
    let v := if (u.bank ch q.place.bank).row = some q.place.row then u else u.activate ch q.place.bank q.place.row
    (¬due → exec (.scrubDue ch guaranteed) s = .next s) ∧
    (due → waits → exec (.scrubDue ch guaranteed) s = .next s) ∧
    (due → ¬waits → exec (.scrubDue ch guaranteed) s = .next ((v.column ch q).setFld64 p DPR_SCRUB_POS_lo DPR_SCRUB_POS_hi
      (if h + 1 < (v.column ch q).granules then scrubAddr ch (h + 1) else scrubAddr ch 0)))) ∧
  (∀ (s : State) (a : Acc) (ch : Fin 8) (w : W32), Reaches s a → Admitted s a (pgDrc ch 4) .dflip ch 0x114 w →
    let p := pgDrc ch 4
    let u := s.stored a p .dflip ch 0x114 w
    let mask := (List.range 5).foldl (fun m i => m + u.fld p DPR_FLIP_MASK i * 2 ^ (32 * i)) 0
    (w.getLsbD 12 = false → exec (.dramFlipArm a ch w) s = .next (u.taken a)) ∧
    (w.getLsbD 12 = true → exec (.dramFlipArm a ch w) s = .next (((u.setBit p DPR_FLIP_armed true).setCh ch { u.ch ch with
      flip := some { req := u.fld p DPR_FLIP_req, cw := u.fld p DPR_FLIP_cw,
                     mask := if u.bit p DPR_FLIP_mode then none else some mask } }).taken a)))

/-- A read of a word with one bit in error is corrected and counted; one found uncorrectable is counted, captured as 0x120 and
answered with an error; a clean one changes nothing but a free value read. The patrol writes a single-bit error back
corrected, unless the word was written in between, and reports an uncorrectable one. A go of SRM_REP while its part is out of
service switches the spare in, or is ignored with 0x121 where the entry names nothing that exists, and otherwise does nothing;
an arm takes the mask. -/
def Obligations.OnChipMemoryCommandsComplete : Prop :=
  (∀ (s : State) (mac index req access err : Nat) (wrote : Bool), s.low = false →
    let u := if wrote then s.sramWrote mac index else s
    let v := u.sramVerdict (u.sramErr mac index ^^^ err)
    (v = 0 → exec (.sramReadError mac index req access err wrote) s = .next u.fresh) ∧
    (v = 1 → exec (.sramReadError mac index req access err wrote) s =
        .next ((u.fresh.bump pgSrm SRM_CE_n).irq pgSrm IRQ_srm_ce)) ∧
    (v = 2 → exec (.sramReadError mac index req access err wrote) s = .next
      ((((u.fresh.bump pgSrm SRM_UE_n).irq pgSrm IRQ_srm_ue).capture pgSrm 0x120 access req (mac * 2 ^ 32 + index)).busErr req true))) ∧
  (∀ (s : State) (mac index err : Nat) (wrote written : Bool), s.low = false →
    let u := if wrote then s.sramWrote mac index else s
    let v := u.sramVerdict (u.sramErr mac index ^^^ err)
    let c := u.fresh.bump pgSrm SRM_SCRUB_CE_n
    (v = 0 → exec (.sramPatrol mac index err wrote written) s = .next u.fresh) ∧
    (v = 1 → written = true → exec (.sramPatrol mac index err wrote written) s = .next (c.sramWrote mac index)) ∧
    (v = 1 → written = false → exec (.sramPatrol mac index err wrote written) s = .next (c.setSramErr mac index 0)) ∧
    (v = 2 → exec (.sramPatrol mac index err wrote written) s = .next
      (((u.fresh.bump pgSrm SRM_UE_n).irq pgSrm IRQ_srm_ue).err pgSrm 0x120 (some accScrub) (some (mac * 2 ^ 32 + index))))) ∧
  (∀ (s : State) (e : Nat), s.sramVerdict e ≤ 2 ∧ (countOnes e ≤ 2 → s.sramVerdict e = countOnes e)) ∧
  (∀ (s : State) (a : Acc) (w : W32) (out_ : Bool), Reaches s a → Admitted s a pgSrm .srm 0 0x114 w →
    let u := s.stored a pgSrm .srm 0 0x114 w
    let e := u.word (pgSrm + 0x110)
    let there := e.getLsbD 31 = true ∧ Config.spareExists e = true
    (w.getLsbD 0 = false ∨ out_ = false → exec (.sramRepairApply a w out_) s = .next (u.taken a)) ∧
    (w.getLsbD 0 = true → out_ = true → there → exec (.sramRepairApply a w out_) s = .next
      (({ u with spares := u.spares ++ [e] } : State).taken a)) ∧
    (w.getLsbD 0 = true → out_ = true → ¬there → exec (.sramRepairApply a w out_) s = .next ((u.err pgSrm 0x121).taken a))) ∧
  (∀ (s : State) (a : Acc) (w : W32), Reaches s a → Admitted s a pgSrm .srm 0 0x100 w →
    let u := s.stored a pgSrm .srm 0 0x100 w
    let mask := u.fld pgSrm SRM_FLIP_MASK 0 + u.fld pgSrm SRM_FLIP_MASK 1 * 2 ^ 32 + u.fld pgSrm SRM_FLIP_MASK_top * 2 ^ 64
    (w.getLsbD 16 = false → exec (.sramFlipArm a w) s = .next (u.taken a)) ∧
    (w.getLsbD 16 = true → exec (.sramFlipArm a w) s = .next
      (({ u.setBit pgSrm SRM_FLIP_armed true with sflip := some (u.fld pgSrm SRM_FLIP_macro, mask) } : State).taken a)))

/-- A first lockstep mismatch clears lockstep_ok, raises its IRQ and captures 0x141. An access of a master on a missing path
counts, raises its IRQ, is captured as 0x140 and answered at once; one on a path that exists is not this event. A burst of the
PCIe host that breaks the rules is completed as unsupported. A reset master is in a drain until it ends, when the drain counts
and the requests held go on. The link goes down with the host master's requests dropped, and up with its speed and width. A
line that rises sends the message of its vector, or marks it pending while masked; an unmask sends the message that pends;
INT_EOI sends it again while a line of the vector is high. -/
def Obligations.CatwalkAndInterruptCommandsComplete : Prop :=
  (∀ s : State, s.low = false →
    (s.bit pgPrc SM_STAT_lockstep_ok = true → exec .lockstepMismatch s = .next
      (((s.setBit pgPrc SM_STAT_lockstep_ok false).irq pgPrc IRQ_prc_lockstep).err pgPrc 0x141)) ∧
    (s.bit pgPrc SM_STAT_lockstep_ok = false → exec .lockstepMismatch s = .next s)) ∧
  (∀ (s : State) (m addr : Nat) (isWrite : Bool), s.low = false → m < 32 → addr < 2 ^ 48 →
    let missing := hasPath m (targetOf addr) = false ∧ s.issues m = true
    (missing → exec (.missingPathAccess m addr isWrite) s = .next
      ((((s.bump pgCat CAT_NOPATH_n).irq pgCat IRQ_cat_nopath).capture pgCat 0x140 (if isWrite then 1 else 0) m addr).answer m
        (if isWrite then .ok else .busError) [])) ∧
    (¬missing → exec (.missingPathAccess m addr isWrite) s = .next s)) ∧
  (∀ (s : State) (m addr beats : Nat) (kind : Fin 4) (whole : Bool), s.low = false → m < 32 → addr < 2 ^ 48 →
    let refused := burstOk addr beats kind whole = false ∧ s.issues m = true ∧ hasPath m (targetOf addr) = true
    (refused → m = hostMaster → exec (.burstRefused m addr beats kind whole) s = .next
      ((s.bump pgPcie PCIE_UR_n).answer m .unsupported [])) ∧
    (¬refused → exec (.burstRefused m addr beats kind whole) s = .next s)) ∧
  (∀ (s : State) (m : Fin 32), s.low = false →
    let dropped := (List.range 8).foldl (fun (s : State) n => s.setCh n { s.ch n with
      reqs := (s.ch n).reqs.map (fun (q : DReq) => if q.req == m.val then { q with discard := true } else q),
      waits := (s.ch n).waits.filter (fun q => q.req != m.val) }) { s with acks := s.acks.filter (fun a => a.req != m.val) }
    let draining := (s.fld pgCat CAT_STAT_drain).testBit m
    let u := s.setWord (pgCat + 0x140) (setBits (s.word (pgCat + 0x140)) m 1 0)
    let v := (u.bump pgCat CAT_DRAIN_n).irq pgCat IRQ_cat_drain
    exec (.masterResetDrain m) s = .next (dropped.setWord (pgCat + 0x140) (setBits (s.word (pgCat + 0x140)) m 1 1)) ∧
    (draining = false → exec (.drainEnd m) s = .next s) ∧
    (draining = true → exec (.drainEnd m) s = .next ((v.catHeld.filter (fun e => e.req == m.val)).foldl
      (fun s e => s.dramRequest e.req e.addr e.op e.noise e.issue) { v with catHeld := v.catHeld.filter (fun e => e.req != m.val) }))) ∧
  (∀ (s : State) (gen width : Fin 8), s.low = false →
    let up := s.bit pgPcie PCIE_STAT_up
    let u := s.masterReset hostMaster
    let v := ((u.setBit pgPcie PCIE_STAT_up false).setFld pgPcie PCIE_STAT_speed 0).setFld pgPcie PCIE_STAT_width 0
    (up = false → ∀ flr, exec (.pcieLinkDown flr) s = .next s) ∧
    (up = true → exec (.pcieLinkDown true) s = .next (u.irq pgPcie IRQ_pcie_flr)) ∧
    (up = true → exec (.pcieLinkDown false) s = .next ((v.bump pgPcie PCIE_DOWN_n).irq pgPcie IRQ_pcie_down)) ∧
    (1 ≤ gen.val → gen.val ≤ 4 → width.val ∈ [1, 2, 4] →
      (up = true → exec (.pcieLinkUp gen width) s = .next s) ∧
      (up = false → exec (.pcieLinkUp gen width) s = .next
        ((((s.setBit pgPcie PCIE_STAT_up true).setFld pgPcie PCIE_STAT_speed gen).setFld pgPcie PCIE_STAT_width width).irq
          pgPcie IRQ_pcie_up)))) ∧
  (∀ (s : State) (line : Nat) (masked : Bool), s.low = false → line < 16384 →
    let r := s.route line
    let v := getBits r 0 6
    let m : BitVec 64 := if masked then s.msixMask ||| (1 <<< v) else s.msixMask &&& ~~~((1 : BitVec 64) <<< v)
    let routed := getBits r 8 2 = 1
    let rises := s.lineLevel line = true ∧ Store.get (fun _ => false) s.lines line = false
    let risen := { s with lines := Store.put (fun _ => false) line true s.lines }
    (routed → rises → exec (.interruptLineRise line masked) s = .next (({ risen with msixMask := m } : State).sendVector v)) ∧
    (routed → ¬rises → exec (.interruptLineRise line masked) s = .next { s with msixMask := m }) ∧
    (¬routed → rises → exec (.interruptLineRise line masked) s = .next risen) ∧
    (¬routed → ¬rises → exec (.interruptLineRise line masked) s = .next s)) ∧
  (∀ (s : State) (vec : Fin 64), s.low = false →
    let u := { s with msixMask := s.msixMask &&& ~~~((1 : BitVec 64) <<< vec.val) }
    (s.msixPend.getLsbD vec = false → exec (.msixUnmask vec) s = .next u) ∧
    (s.msixPend.getLsbD vec = true → exec (.msixUnmask vec) s = .next
      { u with msixPend := s.msixPend &&& ~~~((1 : BitVec 64) <<< vec.val),
               msi := Store.put (fun _ => 0) vec (Store.get (fun _ => 0) s.msi vec + 1) s.msi })) ∧
  (∀ (s : State) (a : Acc) (w : W32), Reaches s a → Admitted s a pgInt .intc 0 0x108 w →
    let u := s.stored a pgInt .intc 0 0x108 w
    let v := getBits w 0 6
    (u.vectorHigh v = true → exec (.intEoiWrite a w) s = .next ((u.sendVector v).taken a)) ∧
    (u.vectorHigh v = false → exec (.intEoiWrite a w) s = .next (u.taken a)))

/-- A go of an idle engine starts the chain at DMA_DESC with the privilege of the write; of a busy one it is ignored with 0x143. A
descriptor that ends in an idle engine is no event; one that cannot be read stops the chain, counted and captured as 0x142
with the failing address; one with a bad length or a bus error stops it with error written back; any other is written back
with done. An abort resets the engine's master and ends the chain with IRQ aborted. A request of the host goes to the
registers or to DRAM at the base of BAR2, or none arrives while the link is down. A write of CRW_CTL runs and halts the cores
its bits name and resets the masters of cores reset. -/
def Obligations.DmaHostAndCrewCommandsComplete : Prop :=
  (∀ (s : State) (a : Acc) (n : Fin 4) (w : W32), Reaches s a → Admitted s a (pgDma n) .dma n 0x100 w →
    let p := pgDma n
    let u := s.stored a p .dma n 0x100 w
    let goes := (((u.setBit p DMA_STAT_busy true).setBit p DMA_STAT_priv (u.privileged a)).setFld64 p DMA_CUR_lo DMA_CUR_hi
      (((u.setBit p DMA_STAT_busy true).setBit p DMA_STAT_priv (u.privileged a)).fld64 p DMA_DESC_lo DMA_DESC_hi))
    (w.getLsbD 1 = false → w.getLsbD 0 = false → exec (.dmaGo a n w) s = .next (u.taken a)) ∧
    (w.getLsbD 1 = false → w.getLsbD 0 = true → u.bit p DMA_STAT_busy = true → exec (.dmaGo a n w) s = .next
      ((u.accErr p 0x143 a accWrite (p + 0x100)).taken a)) ∧
    (w.getLsbD 1 = false → w.getLsbD 0 = true → u.bit p DMA_STAT_busy = false → exec (.dmaGo a n w) s =
        .next (goes.taken a))) ∧
  (∀ (s : State) (n : Fin 4) (fail : Option Nat) (host : List Byte), s.low = false →
    let p := pgDma n
    let cur := s.fld64 p DMA_CUR_lo DMA_CUR_hi
    let r := s.dmaHead n cur fail
    let d := dmaDesc r.2.1
    let t := r.1.dmaMove n d d.len fail host
    let short := d.len = 0 ∨ d.len % 4 ≠ 0
    let stops := fun (u : State) (acc at_ : Option Nat) =>
      (((((u.dmaStore n (cur + 20) [BitVec.ofNat 8 (d.flags ||| 16)] none).1.setBit p DMA_STAT_busy false).bump p DMA_ERR_n).irq p
        IRQ_dma_error).err p 0x142 acc at_).watch
    let u := ((t.1.dmaStore n (cur + 20) [BitVec.ofNat 8 (d.flags ||| 8)] none).1).bump p DMA_DONE_n
    let v := if d.flags.testBit 1 then u.irq p IRQ_dma_done else u
    let w := if d.flags.testBit 2 then v.setBit p DMA_STAT_busy false else v.setFld64 p DMA_CUR_lo DMA_CUR_hi d.next
    (s.bit p DMA_STAT_busy = false → exec (.dmaDescriptorDone n fail host) s = .next s.watch) ∧
    (∀ x, s.bit p DMA_STAT_busy = true → r.2.2 = some x → exec (.dmaDescriptorDone n fail host) s = .next
      (((((r.1.setBit p DMA_STAT_busy false).bump p DMA_ERR_n).irq p IRQ_dma_error).err p 0x142 (some accRead) (some x)).watch)) ∧
    (s.bit p DMA_STAT_busy = true → r.2.2 = none → short → exec (.dmaDescriptorDone n fail host) s =
        .next (stops r.1 none none)) ∧
    (∀ e, s.bit p DMA_STAT_busy = true → r.2.2 = none → ¬short → t.2 = some e →
      exec (.dmaDescriptorDone n fail host) s = .next (stops t.1 (some e.1) (some e.2))) ∧
    (s.bit p DMA_STAT_busy = true → r.2.2 = none → ¬short → t.2 = none →
      exec (.dmaDescriptorDone n fail host) s = .next w.watch)) ∧
  (∀ (s : State) (a : Acc) (n : Fin 4) (w : W32) (moved : Nat) (host : List Byte), Reaches s a →
    let u := s.dmaPartial n moved host
    let p := pgDma n
    let v := u.stored a p .dma n 0x100 w
    w.getLsbD 1 = true → w.getLsbD 0 = false → Admitted u a p .dma n 0x100 w →
    (v.bit p DMA_STAT_busy = true → exec (.dmaAbort a n w moved host) s = .next
      (((((v.masterReset (0x10 + n)).setBit p DMA_STAT_busy false).irq p IRQ_dma_aborted).taken a).watch)) ∧
    (v.bit p DMA_STAT_busy = false → exec (.dmaAbort a n w moved host) s = .next (v.taken a).watch)) ∧
  (∀ (s : State) (off : Nat) (op : DramOp) (noise : List (Nat × Nat)) (issue : Nat), s.low = false → 0 < opLen op →
    let up := s.bit pgPcie PCIE_STAT_up
    let at_ := s.fld64 pgPcie PCIE_BAR2_base_lo PCIE_BAR2_base_hi + off
    (up = false → (off + opLen op ≤ 0x100000000 → exec (.pcieRequest true off op noise issue) s = .next s.watch) ∧
      (off + opLen op ≤ 0x4000000 → exec (.pcieRequest false off op noise issue) s = .next s.watch)) ∧
    (∀ n f, up = true → op = .read n f → off + n ≤ 0x4000000 → n ≤ 4 → off % 4 + n ≤ 4 →
      exec (.pcieRequest false off op noise issue) s = .next (State.answerLoad (s.regLoad hostAcc off n) hostMaster).watch) ∧
    (∀ d, up = true → op = .write d → off + d.length ≤ 0x4000000 → d.length ≤ 4 → off % 4 + d.length ≤ 4 →
      exec (.pcieRequest false off op noise issue) s = .next (s.bar0Write off d).watch) ∧
    (up = true → off + opLen op ≤ 0x100000000 → at_ + opLen op ≤ s.dramSize → dramRequestOk hostMaster at_ op = true →
      exec (.pcieRequest true off op noise issue) s = .next (s.catRequest hostMaster at_ op noise issue).watch) ∧
    (∀ o d, up = true → op = .atomic o d → off + d.length ≤ 0x4000000 → exec (.pcieRequest false off op noise issue) s = .next
      (((s.bump pgPcie PCIE_UR_n).answer hostMaster .unsupported []).watch))) ∧
  (∀ (s : State) (a : Acc) (w : W32), Reaches s a → Admitted s a pgPrc .prc 0 0x100 w →
    let u := s.stored a pgPrc .prc 0 0x100 w
    let v := (List.range 4).foldl (fun s c => if w.getLsbD (8 + c) then s.masterReset (1 + c) else s) u
    let starts := getBits (s.word (pgPrc + 0x100)) 0 4 = 0 ∧ u.fld pgPrc CRW_CTL_run ≠ 0 ∧ v.upd.held = true
    let halts := (v.setFld pgPrc CRW_STAT_halted (15 - u.fld pgPrc CRW_CTL_run)).taken a
    let trial := (({ v with upd := { v.upd with held := false } } : State).activated 3).taken a
    (¬starts → exec (.crewCoreReset a w) s = .next halts ∧ exec (.crewRunWrite a w) s = .next halts) ∧
    (starts → exec (.crewCoreReset a w) s = .next trial ∧ exec (.crewRunWrite a w) s = .next trial))

/-- With a fatal line driven and the pins normal the pins invert, DEV_FATAL_EV counts, and with sdi_sleep the SDI lanes sleep;
with none driven, after the fill, they return to normal and the lanes wake; in every other case nothing changes. A read-back
that differs sets its flag, counts, raises its IRQ and is captured as 0x001, or 0x002 for SVC_N while it is held low. Firmware
faults are set by writing 1s, and cleared but for those set at once; writing the fatal flag 1 raises fw_fatal and captures
0x003 where it was 0. -/
def Obligations.FaultCommandsComplete : Prop :=
  (∀ s : State, s.low = false →
    let u := (({ s with fltT := true, fltC := false } : State).setBit pgDev DEV_FLT_STAT_fault true).bump pgDev DEV_FATAL_EV_n
    let v := u.irq pgDev IRQ_dev_fault
    let out_ := s.anyFatal = true ∧ s.fltT = false
    let back := s.anyFatal = false ∧ s.fltT = true ∧ s.booted = true
    (¬out_ → exec .fatalAssert s = .next s) ∧
    (out_ → exec .fatalAssert s = .next (if v.bit pgDev DEV_FLT_CTL_sdi_sleep then v.sdiSleep else v)) ∧
    (¬back → exec .fatalClear s = .next s) ∧
    (back → exec .fatalClear s = .next
      ((({ s with fltT := false, fltC := true } : State).setBit pgDev DEV_FLT_STAT_fault false).sdiWake))) ∧
  (∀ s : State, s.low = false →
    exec (.pinReadbackFail false) s = .next
      ((((s.setBit pgDev DEV_FLT_STAT_pin_bad true).bump pgDev DEV_PIN_BAD_n).irq pgDev IRQ_dev_pin_bad).err pgDev 0x001) ∧
    (s.svcLow = true → exec (.pinReadbackFail true) s = .next
      ((((s.setBit pgDev DEV_FLT_STAT_svc_bad true).bump pgDev DEV_PIN_BAD_n).irq pgDev IRQ_dev_svc_bad).err pgDev 0x002)) ∧
    (s.svcLow = false → exec (.pinReadbackFail true) s = .next s)) ∧
  (∀ (s : State) (a : Acc) (w : W32), Reaches s a → Admitted s a pgDev .dev 0 0x30C w →
    let u := s.stored a pgDev .dev 0 0x30C w
    exec (.fwfltSet a w) s = .next ((u.setWord (pgDev + 0x308) (u.word (pgDev + 0x308) ||| w)).taken a)) ∧
  (∀ (s : State) (a : Acc) (w setNow : W32), Reaches s a →
    let u := s.setWord (pgDev + 0x308) (s.word (pgDev + 0x308) ||| setNow)
    exec (.fwfltClear a w setNow) s = .next ((u.storeWord a pgDev .dev 0 0x308 w (some setNow)).s.taken a)) ∧
  (∀ (s : State) (a : Acc) (w : W32), Reaches s a → (s.storeWord a pgDev .dev 0 0x310 w).ok = true →
    let u := s.stored a pgDev .dev 0 0x310 w
    let rises := u.bit pgDev DEV_FWFATAL_set = true ∧ (s.word (pgDev + 0x310)).getLsbD 0 = false
    (rises → exec (.fwfatalWrite a w) s = .next (((u.irq pgDev IRQ_dev_fw_fatal).err pgDev 0x003).taken a)) ∧
    (¬rises → exec (.fwfatalWrite a w) s = .next (u.taken a)))

/-- At a step instant of a class that rotates the missed steps count, with starvation reported at 16; a step is skipped while one
runs, is deferred or is held, a swing that failed its idle test is taken out of use, else the lanes passed over count and a
unit is taken: the one software asked for, or the next of the cursor; outside an instant or with rotation off nothing changes.
At its class's instant a handover in Preparing gives the unit's work to the swing; one that fails ends the step. A test's end
in Testing, a pass only after ROT_CLS.test seconds, returns the unit; a first failure tries the repair, a second retires the
unit. A handback at its instant in Returning completes the step, or fails. -/
def Obligations.RotationCommandsComplete : Prop :=
  (∀ (s : State) (c : Fin 7) (g : Fin 16), s.low = false → grpOk c g = true →
    let due := s.lbit pgRot ROT_CTL_en = true ∧ s.lbit pgRot ROT_CLS_en c = true ∧
      s.due (64 + c * 16 + g) (s.lv pgRot ROT_CLS_per c * cueSec) = true
    let t : State := { s with acted := Store.put (fun _ => 0) (64 + c * 16 + g) (s.now + 1) s.acted }
    let v := t.ro c g
    let m := t.setRo c g { v with missed := v.missed + 1 }
    let starves := 16 ≤ v.missed + 1 ∧ m.fld pgRot ROT_CLS_STAT_starved c = 0
    let u := if starves then (m.setFld pgRot ROT_CLS_STAT_starved 1 c).irq pgRot IRQ_rot_starve else m
    let held := v.st ≠ 0 ∨ u.rotMayStart c = false ∨ u.checkHolds c = true ∨ u.swingFree c g = false
    let r := u.nextUnit c g
    let w := r.1.foldl (fun s k =>
      if c.val = 0 then s.bump (pgRxl (32 * g + k)) RXL_HO_ABORT_n else s.bump (pgTxl (32 * g + k)) TXL_HO_ABORT_n) u
    let starts := fun (k : Nat) (asked : Bool) => w.putRot c g { w.ro c g with
      st := 1, unit := if c.val < 2 then 32 * g + k else k, since := w.now, taps := [],
      cursor := if asked then (w.ro c g).cursor else k }
    (¬due → exec (.rotationStepInstant c g) s = .next s) ∧
    (due → held → exec (.rotationStepInstant c g) s = .next u) ∧
    (due → ¬held → v.idleBad = true → exec (.rotationStepInstant c g) s = .next (u.swingFails c g)) ∧
    (due → ¬held → v.idleBad = false → r.2 = none → exec (.rotationStepInstant c g) s = .next w) ∧
    (∀ k asked, due → ¬held → v.idleBad = false → r.2 = some (k, asked) →
      let l := 32 * g.val + k
      let x := starts k asked
      (c.val = 0 → exec (.rotationStepInstant c g) s = .next
        ((x.setRx l { x.rx l with swapReq := false }).setBit (pgRxl l) RXL_STAT_ho_busy true)) ∧
      (c.val = 1 → exec (.rotationStepInstant c g) s = .next
        ((x.setTx l { x.tx l with swapReq := false, hoFrames := 0 }).setBit (pgTxl l) TXL_STAT_ho_busy true)) ∧
      (2 ≤ c.val → exec (.rotationStepInstant c g) s = .next x))) ∧
  (∀ (s : State) (c : Fin 7) (g : Fin 16) (fails : Bool), s.low = false → grpOk c g = true →
    let v := s.ro c g
    let taps := (v.taps ++ s.planeTaps v.unit 0).dedup
    let out := fun (s : State) => ((s.putRot c g { s.ro c g with st := 2, on := true, outFrom := s.now, failed := false }).showSwing c
      (s.ro c g).unit true).showClass c
    (v.st ≠ 1 → exec (.rotationHandover c g fails) s = .next s) ∧
    (v.st = 1 → c.val = 0 → exec (.rotationHandover c g fails) s = .next (s.rxHandover v.unit (!fails))) ∧
    (v.st = 1 → c.val = 1 → exec (.rotationHandover c g fails) s = .next (s.txHandover v.unit (!fails))) ∧
    (v.st = 1 → 2 ≤ c.val → fails = true → exec (.rotationHandover c g fails) s = .next
      (((s.putRot c g { v with st := 0 }).bump pgRot ROT_SKIP_n 1 c).irq pgRot IRQ_rot_step_fail)) ∧
    (v.st = 1 → c.val = 2 → fails = false →
      let u := s.setRo c g { v with taps := taps }
      (taps.length ≠ 64 → exec (.rotationHandover c g fails) s = .next u) ∧
      (taps.length = 64 → exec (.rotationHandover c g fails) s = .next (out u))) ∧
    (v.st = 1 → 3 ≤ c.val → fails = false →
      (s.unitInstant c v.unit v.since false = false → exec (.rotationHandover c g fails) s = .next s) ∧
      (s.unitInstant c v.unit v.since false = true → exec (.rotationHandover c g fails) s = .next (out s)))) ∧
  (∀ (s : State) (c : Fin 7) (g : Fin 16) (fails idlePass : Bool), s.low = false → grpOk c g = true →
    let v := s.ro c g
    let back := fun (s : State) (cur : Nat) => (s.rotDone c g idlePass).when (c.val == 0) (fun s => s.swingCal g) |>.when (c.val < 2 && cur != v.unit % 32)
      (fun s => s.putRot c g { s.ro c g with cursor := cur })
    let u := if c.val = 0 then s.rxHandover v.unit (!fails) else s.txHandover v.unit (!fails)
    let busy := if c.val = 0 then u.bit (pgRxl v.unit) RXL_STAT_ho_busy else u.bit (pgTxl v.unit) TXL_STAT_ho_busy
    let left := v.taps.filter (fun t => !(s.planeTaps v.unit v.testEnd).contains t)
    let w := s.setRo c g { v with taps := left }
    (v.st ≠ 3 → exec (.rotationHandback c g fails idlePass) s = .next s) ∧
    (v.st = 3 → 2 ≤ c.val → fails = true → exec (.rotationHandback c g fails idlePass) s = .next
      (((s.putRot c g { v with st := 0 }).bump pgRot ROT_SKIP_n 1 c).irq pgRot IRQ_rot_step_fail)) ∧
    (v.st = 3 → c.val < 2 → v.unit / 32 = g.val →
      (s.now + 16 ≤ v.testEnd + s.laneFrame c v.unit → exec (.rotationHandback c g fails idlePass) s = .next s) ∧
      (v.testEnd + s.laneFrame c v.unit < s.now + 16 →
        ((u.ro c g).st = 3 ∧ busy = false → (u.ro c g).unit = v.unit → exec (.rotationHandback c g fails idlePass) s = .next
          (back u (u.ro c g).cursor)) ∧
        (¬((u.ro c g).st = 3 ∧ busy = false) → exec (.rotationHandback c g fails idlePass) s = .next u))) ∧
    (v.st = 3 → c.val = 2 → fails = false →
      (left ≠ [] → exec (.rotationHandback c g fails idlePass) s = .next w) ∧
      (left = [] → exec (.rotationHandback c g fails idlePass) s = .next (w.rotDone c g idlePass))) ∧
    (v.st = 3 → 3 ≤ c.val → fails = false →
      (s.unitInstant c v.unit v.since true = false → exec (.rotationHandback c g fails idlePass) s = .next s) ∧
      (s.unitInstant c v.unit v.since true = true → exec (.rotationHandback c g fails idlePass) s = .next
        (s.rotDone c g idlePass)))) ∧
  (∀ (s : State) (c : Fin 7) (g : Fin 16) (pass : Bool) (repair : Option W32), s.low = false → grpOk c g = true →
    let v := s.ro c g
    let due := v.st = 2 ∧ (pass = true → v.outFrom + s.lv pgRot ROT_CLS_test c * cueSec < s.now + 16)
    let u := match v.fix with
      | some e => if s.fuses.length < 128 then (s.fuseAdd e true).logRepair 0x10 [e.toNat] else s.err pgWear 0x133
      | none => s
    let x := u.putRot c g { v with st := 3, testEnd := u.now, since := u.now, fix := none }
    let y := match repair with | some e => { s with spares := s.spares ++ [e] } | none => s
    (¬due → exec (.rotationTestEnd c g pass repair) s = .next s) ∧
    (due → pass = true → exec (.rotationTestEnd c g pass repair) s = .next
      (if c.val = 0 then x.setBit (pgRxl v.unit) RXL_STAT_ho_busy true
       else if c.val = 1 then x.setBit (pgTxl v.unit) TXL_STAT_ho_busy true else x)) ∧
    (due → pass = false → v.failed = false → exec (.rotationTestEnd c g pass repair) s = .next
      (y.putRot c g { v with failed := true, outFrom := y.now, fix := repair })) ∧
    (due → pass = false → v.failed = true → exec (.rotationTestEnd c g pass repair) s = .next
      ((s.setRo c g { v with fix := none }).retire c g v.unit)))

/-- A check of a link counts the consecutive errors of each of its wires, and a fourth one fails the wire. A go of FUSE_PROG
starts the entry while none is programmed; its end clears busy with result 1 and a record, 3 where the read-back differs, or 2
with no entry left. Each second's evaluation stores the slack, and with the loop or manual control on follows it, or reports a
bus that fails; a negative slack in between raises emergency and, but under manual control, the target by 25 mV. Twenty-four
readings are judged against their median, and the hottest good one against the limits. A checkpoint is written once each hour. -/
def Obligations.WearAndVoltageCommandsComplete : Prop :=
  (∀ (s : State) (tile : Fin 4) (errs : List (Bool × Nat)), s.low = false →
    exec (.d2dWireCheck tile errs) s = .next ([false, true].foldl (fun s dir => (List.range 1000).foldl (fun s w =>
      let key := (tile.val * 2 + dir.toNat) * 1000 + w
      let n := if errs.contains (dir, w) then Store.get (fun _ => 0) s.wireErr key + 1 else 0
      let t := { s with wireErr := Store.put (fun _ => 0) key (if n = 4 then 0 else n) s.wireErr }
      if n = 4 then t.wireFails tile dir w else t) s) s)) ∧
  (∀ (s : State) (a : Acc) (w : W32), Reaches s a → Admitted s a pgWear .wear 0 0x10C w →
    let u := s.stored a pgWear .wear 0 0x10C w
    let starts := w.getLsbD 0 = true ∧ u.bit pgWear FUSE_PROG_busy = false
    (starts → exec (.fuseProgram a w) s = .next
      (({ u.setBit pgWear FUSE_PROG_busy true with fuseNow := some (u.word (pgWear + 0x108)) } : State).taken a)) ∧
    (¬starts → exec (.fuseProgram a w) s = .next (u.taken a))) ∧
  (∀ (s : State) (verified : Bool), s.low = false →
    let u := (({ s with fuseNow := none } : State).setBit pgWear FUSE_PROG_busy false).irq pgWear IRQ_wear_fuse_done
    (s.fuseNow = none → exec (.fuseProgramDone verified) s = .next s) ∧
    (∀ e, s.fuseNow = some e →
      (128 ≤ u.fuses.length → exec (.fuseProgramDone verified) s =
          .next ((u.setFld pgWear FUSE_PROG_result 2).err pgWear 0x133)) ∧
      (u.fuses.length < 128 → verified = true → exec (.fuseProgramDone verified) s = .next
        (((u.fuseAdd e true).setFld pgWear FUSE_PROG_result 1).logRepair 0x10 [e.toNat])) ∧
      (u.fuses.length < 128 → verified = false → exec (.fuseProgramDone verified) s = .next
        (((u.fuseAdd e false).setFld pgWear FUSE_PROG_result 3).err pgWear 0x133)))) ∧
  (∀ (s : State) (ps : Int) (mon : Fin 96) (busOk : Bool) (mv da : Nat), s.low = false →
    let t : State := { s with acted := Store.put (fun _ => 0) 3 (s.now + 1) s.acted }
    let u := (t.setFld pgAvs AGE_MARGIN_ps (ofSigned 16 ps)).setFld pgAvs AGE_MARGIN_mon mon
    let on := u.lbit pgAvs AVS_CTL_en = true ∨ u.lbit pgAvs AVS_CTL_man = true
    (s.due 3 cueSec = false → exec (.avsEvaluate ps mon busOk mv da) s = .next s) ∧
    (s.due 3 cueSec = true → ¬on → exec (.avsEvaluate ps mon busOk mv da) s = .next u) ∧
    (s.due 3 cueSec = true → on → busOk = true → exec (.avsEvaluate ps mon busOk mv da) s = .next
      (((u.avsLoop ps).setFld pgAvs AVS_MEAS_mv mv).setFld pgAvs AVS_MEAS_da da)) ∧
    (s.due 3 cueSec = true → on → busOk = false → exec (.avsEvaluate ps mon busOk mv da) s = .next
      (((u.bump pgAvs AVS_ERR_n).irq pgAvs IRQ_avs_avs_err).err pgAvs 0x135))) ∧
  (∀ (s : State) (mon : Fin 96) (ps : Int), s.low = false →
    let man := s.lbit pgAvs AVS_CTL_man
    let bad := ps < 0 ∧ (s.lbit pgAvs AVS_CTL_en = true ∨ man = true)
    let u := s.irq pgAvs IRQ_avs_emergency
    let tgt := u.fld pgAvs AVS_TGT_mv
    let top := u.lv pgAvs AVS_LIM_hi
    let up := if tgt < min (tgt + 25) top then (u.setTarget (min (tgt + 25) top)).bump pgAvs AVS_UP_n else u
    (¬bad → exec (.ageSample mon ps) s = .next s) ∧
    (bad → u.lbit pgAvs AVS_CTL_man = true → exec (.ageSample mon ps) s = .next u) ∧
    (bad → u.lbit pgAvs AVS_CTL_man = false → exec (.ageSample mon ps) s = .next
      (if top ≤ tgt + 25 then (up.irq pgAvs IRQ_avs_at_max).err pgAvs 0x134 else up))) ∧
  (∀ (s : State) (temps : List Int), s.low = false → temps.length = 24 →
    let good := (temps.zipIdx.filter (fun p => s.fld pgAvs TMP_bad p.2 == 0)).map (·.1)
    let u := temps.zipIdx.foldl (fun s p => s.sensor p.2 p.1 (median2 good)) s
    (∀ c k, u.hottest temps = some (c, k) → exec (.temperatureRead temps) s = .next
      (((u.setFld pgAvs TMP_MAX_c (ofSigned 12 c)).setFld pgAvs TMP_MAX_s k).tmpLimits c)) ∧
    (u.hottest temps = none → exec (.temperatureRead temps) s = .next u)) ∧
  (∀ s : State, s.low = false →
    let u := if s.hourRecs = 0 then { s with hourRecs := 1 } else s
    let v := { u with hourTop := u.hours, hourRecs := u.hourRecs + 1 }
    (s.hours ≤ s.hourTop → exec .wearCheckpoint s = .next s) ∧
    (s.hourTop < s.hours → v.hourRecs ≠ 128 → exec .wearCheckpoint s = .next v) ∧
    (s.hourTop < s.hours → v.hourRecs = 128 → exec .wearCheckpoint s = .next
      { v with hourSector := if v.hourSector = 255 then 16 else v.hourSector + 1, hourRecs := 0 }))

/-- A command whose word waits and is taken is carried out: stage refuses a bad image with 2 and captures 0x150, an incompatible
one with 3 and 0x161, and else writes the slot that does not run; activate refuses without a Fresh slot (8) or compatibility
and else starts the trial; schedule needs the privilege to hold a target a second ahead and a Fresh slot of class M; confirm
ends a running trial before its deadline; cancel ends a schedule; settings are written to the other bank; a lifecycle request
is checked in the order of its results and then made; an unknown code answers 6. While a transition, a trial or a schedule
runs an update is refused with 6, in Scrapped with 10. -/
def Obligations.CommandsToTheStageManagerComplete : Prop :=
  (∀ (s : State) (code page : Nat) (t : State), s.low = false →
      s.takeWord = (t, some (BitVec.ofNat 32 (code * 2 ^ 24 + page))) →
    page < 2 ^ 24 → code < 256 →
    let b := page * 4096
    let m : Image := fun o => Memory.read t.dram (t.loadLE b 8 + o)
    let k := (m 4).toNat
    let room := min (t.loadLE (b + 8) 4) (slotRoom k)
    let good := 1 ≤ k ∧ k ≤ 3 ∧ t.imagePasses m k room = true
    let i := t.otherSlot k
    let body := m.bytes 0 (512 + m.num 32 4)
    let w := { t with flash := flashStore (flashErase t.flash (slotBase k i) (slotSize k)) (slotBase k i) body }
    let seq := match w.runSlot k with | some r => (w.slot k r).seq + 1 | none => 1
    (∀ r written, code = 0x10 → t.updBusy = some r → exec (.updateStage .posted page written) s =
        .next (t.updRefuse 0x10 r)) ∧
    (∀ written, code = 0x10 → t.updBusy = none → ¬good → exec (.updateStage .posted page written) s = .next
      ((t.updRefuse 0x10 2).err pgUpd 0x150)) ∧
    (∀ written, code = 0x10 → t.updBusy = none → good → t.compatible m k = false →
        exec (.updateStage .posted page written) s = .next
      ((t.updRefuse 0x10 3).err pgUpd 0x161)) ∧
    (code = 0x10 → t.updBusy = none → good → t.compatible m k = true → exec (.updateStage .posted page true) s = .next
      (((w.setSlot k i { st := 1, seq := seq }).respond 0x10 1).irq pgUpd IRQ_upd_staged)) ∧
    (code = 0x10 → t.updBusy = none → good → t.compatible m k = true → exec (.updateStage .posted page false) s = .next
      ((w.setSlot k i {}).updRefuse 0x10 2))) ∧
  (∀ (s : State) (code page : Nat) (t : State), s.low = false →
      s.takeWord = (t, some (BitVec.ofNat 32 (code * 2 ^ 24 + page))) →
    page < 2 ^ 24 → code < 256 →
    let b := page * 4096
    let k := t.loadLE b 1
    let fresh := if k = 1 ∨ k = 3 then t.freshSlot k else none
    let x := t.loadLE (b + 8) 8
    let target := t.loadLE b 6 * cueSec + x % 2 ^ 34 + (if x / 2 ^ 34 = 0 then 0 else 1)
    (∀ r, code = 0x11 → t.updBusy = some r → exec (.updateActivate .posted page) s = .next (t.updRefuse 0x11 r)) ∧
    (code = 0x11 → t.updBusy = none → fresh = none → exec (.updateActivate .posted page) s = .next (t.updRefuse 0x11 8)) ∧
    (∀ i, code = 0x11 → t.updBusy = none → fresh = some i → t.compatible (t.image k i) k = false →
      exec (.updateActivate .posted page) s = .next ((t.updRefuse 0x11 3).err pgUpd 0x161)) ∧
    (∀ i, code = 0x11 → t.updBusy = none → fresh = some i → t.compatible (t.image k i) k = true →
      let u := (t.trialStart k i).respond 0x11 1
      exec (.updateActivate .posted page) s = .next
        (if k = 3 ∧ (u.role = roleJoining ∨ u.role = roleUnderstudy ∨ u.role = roleYielded) then { u with upd := { u.upd with held := true } }
         else u.activated k)) ∧
    (∀ r, code = 0x12 → t.updBusy = some r → exec (.updateSchedule .posted page) s = .next (t.updRefuse 0x12 r)) ∧
    (code = 0x12 → t.updBusy = none → t.held = false → exec (.updateSchedule .posted page) s = .next (t.updRefuse 0x12 4)) ∧
    (code = 0x12 → t.updBusy = none → t.held = true → t.freshSlot 2 = none →
      exec (.updateSchedule .posted page) s = .next (t.updRefuse 0x12 8)) ∧
    (∀ i, code = 0x12 → t.updBusy = none → t.held = true → t.freshSlot 2 = some i → target < t.todCues + cueSec →
      exec (.updateSchedule .posted page) s = .next (t.updRefuse 0x12 5)) ∧
    (∀ i, code = 0x12 → t.updBusy = none → t.held = true → t.freshSlot 2 = some i → t.todCues + cueSec ≤ target →
      let u := (t.setBit pgUpd UPD_STAT_sched true).respond 0x12 1
      exec (.updateSchedule .posted page) s = .next
        { u with classM := true, upd := { t.upd with cls := 2, slot := i, target := target } })) ∧
  (∀ (s : State) (code page : Nat) (t : State), s.low = false →
      s.takeWord = (t, some (BitVec.ofNat 32 (code * 2 ^ 24 + page))) →
    page < 2 ^ 24 → code < 256 →
    let b := page * 4096
    let k := t.loadLE b 1
    let done := (t.setBit pgUpd UPD_STAT_sched false).setBit pgUpd UPD_STAT_shadow false
    let addr := t.loadLE b 8
    let len := t.loadLE (b + 8) 4
    let fits := len ≤ setBankSize ∧ t.inDram addr len = true
    let bank := match t.upd.setKeep with
      | some k => 1 - k
      | none => match t.upd.setBank with | some 0 => 1 | _ => 0
    let keep := if t.fld pgUpd UPD_STAT_trial = 3 then (if t.upd.setKeep.isSome then t.upd.setKeep else t.upd.setBank) else none
    (code = 0x13 → t.lcy = 4 → exec (.updateConfirm .posted page) s = .next (t.updRefuse 0x13 10)) ∧
    (code = 0x13 → t.lcy ≠ 4 → (k = 2 ∨ k = 3) → t.mayConfirm k = true → exec (.updateConfirm .posted page) s = .next
      ((t.confirmed k).respond 0x13 1)) ∧
    (code = 0x13 → t.lcy ≠ 4 → ¬((k = 2 ∨ k = 3) ∧ t.mayConfirm k = true) → exec (.updateConfirm .posted page) s = .next
      (t.updRefuse 0x13 9)) ∧
    (code = 0x14 → t.lcy = 4 → exec (.updateCancel .posted page) s = .next (t.updRefuse 0x14 10)) ∧
    (code = 0x14 → t.lcy ≠ 4 → t.bit pgUpd UPD_STAT_sched = true → exec (.updateCancel .posted page) s = .next
      { done.respond 0x14 1 with classM := false }) ∧
    (code = 0x14 → t.lcy ≠ 4 → t.bit pgUpd UPD_STAT_sched = false → exec (.updateCancel .posted page) s =
        .next (t.updRefuse 0x14 9)) ∧
    (code = 0x15 → t.lcy = 4 → exec (.writeSettings .posted page) s = .next (t.updRefuse 0x15 10)) ∧
    (code = 0x15 → t.lcy ≠ 4 → t.bit pgLcy LCY_STATE_wiping = true → exec (.writeSettings .posted page) s =
        .next (t.updRefuse 0x15 6)) ∧
    (code = 0x15 → t.lcy ≠ 4 → t.bit pgLcy LCY_STATE_wiping = false → ¬fits → exec (.writeSettings .posted page) s = .next
      (((t.respond 0x15 (t.free64.toNat % 16)).fresh).err pgUpd 0x162)) ∧
    (code = 0x15 → t.lcy ≠ 4 → t.bit pgLcy LCY_STATE_wiping = false → fits → exec (.writeSettings .posted page) s = .next
      (({ t with flash := flashStore (flashErase t.flash (setBankBase bank) setBankSize) (setBankBase bank) (t.load addr len),
                 upd := { t.upd with setBank := some bank, setSeq := t.upd.setSeq + 1, setKeep := keep } } : State).respond 0x15 1))) ∧
  (∀ (s : State) (code page : Nat) (t : State), s.low = false →
      s.takeWord = (t, some (BitVec.ofNat 32 (code * 2 ^ 24 + page))) →
    page < 2 ^ 24 → code < 256 → ∀ (steps : Fin 5) (c : Fin 256),
    let b := page * 4096
    let tgt := t.loadLE b 1
    let known := t.load (b + 16) 16 = t.uid ∧ t.loadLE (b + 32) 8 = t.fld64 pgLcy LCY_NONCE_lo LCY_NONCE_hi
    let refuse := fun (r : Nat) => ((t.setFld pgLcy LCY_RESP_res r).err pgLcy 0x154).newNonce
    (code = 1 → t.lcyBusy = true → exec (.lifecycleRequest .posted page steps) s = .next (refuse 5)) ∧
    (code = 1 → t.lcyBusy = false → lcyAllowed t.lcy tgt = false → exec (.lifecycleRequest .posted page steps) s =
        .next (refuse 4)) ∧
    (code = 1 → t.lcyBusy = false → lcyAllowed t.lcy tgt = true → ¬known →
      exec (.lifecycleRequest .posted page steps) s = .next (refuse 3)) ∧
    (code = 1 → t.lcyBusy = false → lcyAllowed t.lcy tgt = true → known → t.lcySigned t.lcy tgt b = false →
      exec (.lifecycleRequest .posted page steps) s = .next (refuse 2)) ∧
    (code = 1 → t.lcyBusy = false → lcyAllowed t.lcy tgt = true → known → t.lcySigned t.lcy tgt b = true →
      exec (.lifecycleRequest .posted page steps) s = .next
        (t.lcyMove tgt steps (if tgt = 1 then some (t.load (b + 48) 48) else none))) ∧
    (knownCode code = false → knownCode c = false → exec (.unknownCommand .posted c page) s =
        .next (t.setFld pgLcy LCY_RESP_res 6)) ∧
    (knownCode c = true → exec (.unknownCommand .posted c page) s = .next s)) ∧
  (∀ (s : State) (a : Acc) (page : Nat) (written : Bool) (steps : Fin 5) (c : Fin 256) (code : Nat), s.low = false →
    let w : W32 := BitVec.ofNat 32 (code * 2 ^ 24 + page % 2 ^ 24)
    let bell := s.viaPath a (pgPrc + 0x120) fun s => s.smdbWrite a w
    let cmd := s.viaPath a (pgUpd + 0x100) fun s => s.updCmdWrite a w
    ∀ src u, src = .doorbell a ∧ u = bell ∨ src = .update a ∧ u = cmd → u.low = false →
      (code = 0x10 → exec (.updateStage src page written) s = exec (.updateStage .posted page written) u) ∧
      (code = 0x11 → exec (.updateActivate src page) s = exec (.updateActivate .posted page) u) ∧
      (code = 0x12 → exec (.updateSchedule src page) s = exec (.updateSchedule .posted page) u) ∧
      (code = 0x13 → exec (.updateConfirm src page) s = exec (.updateConfirm .posted page) u) ∧
      (code = 0x14 → exec (.updateCancel src page) s = exec (.updateCancel .posted page) u) ∧
      (code = 0x15 → exec (.writeSettings src page) s = exec (.writeSettings .posted page) u) ∧
      (code = 0x01 → exec (.lifecycleRequest src page steps) s = exec (.lifecycleRequest .posted page steps) u) ∧
      (code = c → knownCode c = false → exec (.unknownCommand src c page) s = exec (.unknownCommand .posted c page) u))

/-- A low RESET_N and the loss of the crystal put the device into reset in any state: every register but the lifecycle state at
its reset value, the flash, the wear log and the fuses kept. At the rise of RESET_N a device in reset or never started goes
through the start-up sequence, and one that runs sees no edge. A write of BOOT_CTL with dev_reset resets the device; another
has no effect of its own. The loaded shadow of a schedule is noted. Class M activates at the first rail instant at or after
its target in the TICK, once its shadow is loaded, and returns to its old slot at the first rail instant after the deadline of
a trial not confirmed; at no instant nothing changes. A management pause ends with the class in its trial slot and 90 seconds
to confirm, or in its old slot. UPD_SCONF confirms a class S trial that may be confirmed. A class C or S trial past its
deadline is reverted with a second pause. -/
def Obligations.UpdateTrialsComplete : Prop :=
  (∀ s : State, let t := s.coldStart
    exec .resetAssert s = .next t ∧ exec .osc54Loss s = .next t ∧ t.low = true ∧ t.booted = false ∧ t.upt = 0 ∧ t.dram = [] ∧
      t.flash = s.flash ∧ t.slots = s.slots ∧ t.repairs = s.repairs ∧ t.fuses = s.fuses ∧ t.pending = s.pending) ∧
  (∀ (s : State) (b : BootIn), s.coldStart.bootTimes b = true →
    let u := ({ s.coldStart with low := false } : State).bootFuses.bootPlls b.tPll
    let v := (u.bootRepairs b).bootRun (b.tRep + b.tLinks)
    let w := (v.bootTrain b).bootRun b.tTrain
    let x := ((w.bootHard b).bootRun (b.tHard + b.tFill)).bootFilled
    (s.low = true ∨ s.booted = false → exec (.resetRise b) s = .next (x.bootManager b).logTod) ∧
    (s.low = false → s.booted = true → exec (.resetRise b) s = .next s)) ∧
  (∀ (s : State) (a : Acc) (w : W32), Reaches s a → Admitted s a pgBoot .boot 0 0x100 w →
    let u := s.stored a pgBoot .boot 0 0x100 w
    (w.getLsbD 0 = true → exec (.deviceResetWrite a w) s = .next (u.coldStart.taken a)) ∧
    (w.getLsbD 0 = false → exec (.deviceResetWrite a w) s = .next (u.taken a))) ∧
  (∀ s : State, s.low = false →
    (s.bit pgUpd UPD_STAT_sched = true → exec .shadowLoaded s = .next (s.setBit pgUpd UPD_STAT_shadow true)) ∧
    (s.bit pgUpd UPD_STAT_sched = false → exec .shadowLoaded s = .next s)) ∧
  (∀ s : State, s.low = false →
    let f := s.grpNext (s.fld pgUpd UPD_CFG_group) s.now
    let goes := f < s.now + 16 ∧ s.bit pgUpd UPD_STAT_sched = true ∧ s.bit pgUpd UPD_STAT_shadow = true ∧
      s.upd.target ≤ s.todCuesAt f
    let i := s.upd.slot
    let u := s.setSlot 2 i { s.slot 2 i with st := 2 }
    let t := ({ u with upd := { u.upd with cls := 2, slot := i, old := u.runSlot 2 } } : State).setFld pgUpd UPD_STAT_trial 2
    let v := (t.setBit pgUpd UPD_STAT_sched false).setRun 2 (some i)
    let x := (v.setFld64 pgUpd UPD_ACT_lo UPD_ACT_hi f).setFld64 pgUpd UPD_DEADLINE_lo UPD_DEADLINE_hi (f + 30 * cueSec)
    let back := f < s.now + 16 ∧ s.fld pgUpd UPD_STAT_trial = 2 ∧ s.fld64 pgUpd UPD_DEADLINE_lo UPD_DEADLINE_hi < f
    let y : State := { s.reverted 2 with classM := false }
    (goes → exec .classMActivation s = .next (((x.bump pgUpd UPD_ACTIVATIONS_n).irq pgUpd IRQ_upd_activated).sendVersions)) ∧
    (¬goes → exec .classMActivation s = .next s) ∧
    (back → exec .classMRevert s = .next ((y.setRun 2 (s.reverted 2).upd.old).sendVersions)) ∧
    (¬back → exec .classMRevert s = .next s)) ∧
  (∀ s : State, s.low = false →
    let k := s.upd.cls
    let u := s.setBit pgUpd UPD_STAT_pause false
    let old := u.setRun k u.upd.old
    let new := (u.setRun k (some u.upd.slot)).setFld64 pgUpd UPD_DEADLINE_lo UPD_DEADLINE_hi
      ((u.setRun k (some u.upd.slot)).now + 90 * cueSec)
    let on := fun (x : State) => if k = 3 ∧ (x.runSlot 3).isSome = true then x.crewSet 15 else x
    (s.bit pgUpd UPD_STAT_pause = false → exec .managementPauseEnd s = .next s) ∧
    (s.bit pgUpd UPD_STAT_pause = true → u.upd.back = true → exec .managementPauseEnd s = .next (on old).sendVersions) ∧
    (s.bit pgUpd UPD_STAT_pause = true → u.upd.back = false → exec .managementPauseEnd s = .next (on new).sendVersions)) ∧
  (∀ (s : State) (a : Acc) (w : W32), Reaches s a → Admitted s a pgUpd .upd 0 0x188 w →
    let u := s.stored a pgUpd .upd 0 0x188 w
    let confirms := w.getLsbD 0 = true ∧ u.mayConfirm 1 = true
    (confirms → exec (.classSConfirm a w) s = .next ((u.confirmed 1).taken a)) ∧
    (¬confirms → exec (.classSConfirm a w) s = .next (u.taken a))) ∧
  (∀ s : State, s.low = false →
    let k := s.fld pgUpd UPD_STAT_trial
    let late := (k = 1 ∨ k = 3) ∧ s.upd.held = false ∧ s.bit pgUpd UPD_STAT_pause = false ∧
      s.fld64 pgUpd UPD_DEADLINE_lo UPD_DEADLINE_hi < s.now + 16
    let u := (s.reverted k).pauseStart k true
    (late → exec .trialTimeout s = .next
      { u with upd := { u.upd with setKeep := none, setBank := if u.upd.setKeep.isSome then u.upd.setKeep else u.upd.setBank } }) ∧
    (¬late → exec .trialTimeout s = .next s))

/-- An access to an unmapped range, or to an undefined offset inside a page, is captured in the device page with code 0xF08. A
read of the PCIe host then completes with data zero, a read of a Catwalk master gets a bus error, and a write is discarded:
nothing else of the state changes. -/
def Obligations.UnmappedAccessIsLogged : Prop :=
  ∀ (s : State) (a : Acc) (addr : Nat), Reaches s a →
    pageOf addr = none ∨ (∃ k i, pageOf addr = some (k, i) ∧ definedAt k (addr % 0x1000 / 4 * 4) = false) →
    let read := s.capture pgDev 0xF08 accRead a.m addr
    (a.m = hostMaster → exec (.unmappedAccess a addr false) s = .next (read.answer a.m .ok [0, 0, 0, 0])) ∧
    (a.m ≠ hostMaster → exec (.unmappedAccess a addr false) s = .next (read.answer a.m .busError [])) ∧
    exec (.unmappedAccess a addr true) s = .next ((s.capture pgDev 0xF08 accWrite a.m addr).answer a.m .ok [])

/-- A burst of a Catwalk master on a path that exists is refused with a bus error, and code 0x144 is captured with its access
type, master and address, if it leaves its 4 KiB block, is longer than 64 beats or has none, reaches the register window
without whole registers, or is an atomic of more than one beat or to another target than DRAM or Crew SRAM. A burst that keeps
these rules is not refused: nothing changes. -/
def Obligations.BurstsThatBreakTheRulesAreRefused : Prop :=
  ∀ (s : State) (m addr beats : Nat) (kind : Fin 4) (whole : Bool), s.low = false → m < 32 → addr < 2 ^ 48 → m ≠ hostMaster →
    s.issues m = true → hasPath m (targetOf addr) = true →
    let t := targetOf addr
    let atomic := kind = 2 ∨ kind = 3
    let access := if kind = 0 then 0 else if kind = 1 then 1 else 3
    let breaks := 4096 < addr / 16 * 16 % 4096 + beats * 16 ∨ 64 < beats ∨ beats = 0 ∨ (t = .regs ∧ whole = false) ∨
      (atomic ∧ (beats ≠ 1 ∨ t ≠ .dram ∧ t ≠ .crewSram))
    (breaks → exec (.burstRefused m addr beats kind whole) s =
        .next ((s.capture pgCat 0x144 access m addr).answer m .busError [])) ∧
    (¬breaks → exec (.burstRefused m addr beats kind whole) s = .next s)

/-- With g the granule number and h = g >> 3, the row is h >> 11, the channel g[2:0] XOR r[2:0], the bank group h[2:0] XOR r[2:0],
the bank h[4:3] XOR r[4:3], the column granule h[10:5]. The mapping is one to one, both ways. Eight consecutive granules from
a multiple of 8 lie in eight channels; eight consecutive granules of a channel lie in eight bank groups; a row of a bank holds
64 granules. An area lies inside installed DRAM when its end is at most DRC_SIZE, which training sets to 128 GiB, or to 192
GiB with 24 Gb devices. -/
def Obligations.DramAddressMapIsOneToOne : Prop :=
  (∀ addr, let g := addr / 2 ^ 7
    let h := g / 2 ^ 3
    let r := h / 2 ^ 11
    let p := placeOf addr
    p.row = r ∧ p.ch = (g % 8) ^^^ (r % 8) ∧ p.bank / 4 = (h % 8) ^^^ (r % 8) ∧ p.bank % 4 = (h / 8 % 4) ^^^ (r / 8 % 4) ∧
      p.col = h / 32 % 64) ∧
  (∀ addr, addr % 128 = 0 → addrOf (placeOf addr) = addr) ∧
  (∀ p : DPlace, p.ch < 8 → p.bank < 32 → p.col < 64 → placeOf (addrOf p) = p ∧ addrOf p % 128 = 0) ∧
  (∀ g, ∀ i j, i < 8 → j < 8 → (placeOf ((8 * g + i) * 128)).ch = (placeOf ((8 * g + j) * 128)).ch → i = j) ∧
  (∀ n h, n < 8 → (placeOf (scrubAddr n h)).ch = n ∧ (∀ i j, i < 8 → j < 8 →
    (placeOf (scrubAddr n (8 * h + i))).bank / 4 = (placeOf (scrubAddr n (8 * h + j))).bank / 4 → i = j)) ∧
  (∀ p : DPlace, p.ch < 8 → p.bank < 32 → p.col < 64 →
    ∃ addr, addr % 128 = 0 ∧ placeOf addr = p ∧ ∀ a, a % 128 = 0 → placeOf a = p → a = addr) ∧
  (∀ (s : State) (base len : Nat), s.inDram base len = true ↔ base + len ≤ s.fld64 pgDrcG DRC_SIZE_lo DRC_SIZE_hi) ∧
  (∀ (s : State) (b : BootIn), (s.bootTrain b).fld64 pgDrcG DRC_SIZE_lo DRC_SIZE_hi =
    if (bootDev b 0 0).dens then 0x3000000000 else 0x2000000000)
end

