-- ==== Sys2Proof/Laws/Store.lean ====
section
/-!
SUPPORT. The sparse store: what a write leaves at each key, and that it keeps the canonical form.
-/
namespace Sys2Proof

variable {α : Type}

theorem Store.find_insert (k j : Nat) (v : α) (l : Store α) :
    Store.find j (Store.insert k v l) = if j = k then some v else Store.find j l := by
  induction l with
  | nil => simp [Store.insert, Store.find]
  | cons e t ih =>
    obtain ⟨i, w⟩ := e
    simp only [Store.insert]
    split
    · simp [Store.find]
    · split
      · subst_vars
        simp only [Store.find]
        split <;> rfl
      · simp only [Store.find, ih]
        split
        · subst_vars
          split
          · omega
          · rfl
        · rfl

theorem Store.find_erase (k j : Nat) (l : Store α) :
    Store.find j (Store.erase k l) = if j = k then none else Store.find j l := by
  induction l with
  | nil => simp [Store.erase, Store.find]
  | cons e t ih =>
    obtain ⟨i, w⟩ := e
    simp only [Store.erase]
    split
    · subst_vars
      simp only [ih, Store.find]
      split <;> rfl
    · simp only [Store.find, ih]
      split
      · subst_vars
        split
        · omega
        · rfl
      · rfl

/-- A read after a write: the value written at its key, every other key as before. -/
@[simp] theorem Store.get_put [DecidableEq α] (d : Nat → α) (k j : Nat) (v : α) (l : Store α) :
    Store.get d (Store.put d k v l) j = if j = k then v else Store.get d l j := by
  unfold Store.put Store.get
  split
  · rw [Store.find_erase]
    split <;> simp_all
  · rw [Store.find_insert]
    split <;> simp_all

theorem Store.mem_insert {k : Nat} {v : α} {l : Store α} {e : Nat × α} (h : e ∈ Store.insert k v l) :
    e = (k, v) ∨ e ∈ l := by
  induction l with
  | nil => simpa [Store.insert] using h
  | cons x t ih =>
    obtain ⟨i, w⟩ := x
    simp only [Store.insert] at h
    split at h
    · simpa using h
    · split at h <;> simp only [List.mem_cons] at h ⊢
      · tauto
      · rcases h with h | h
        · tauto
        · rcases ih h with h | h <;> tauto

theorem Store.mem_erase {k : Nat} {l : Store α} {e : Nat × α} (h : e ∈ Store.erase k l) : e ∈ l := by
  induction l with
  | nil => simp [Store.erase] at h
  | cons x t ih =>
    obtain ⟨i, w⟩ := x
    simp only [Store.erase] at h
    split at h
    · exact List.mem_cons_of_mem _ (ih h)
    · simp only [List.mem_cons] at h ⊢
      rcases h with h | h
      · exact .inl h
      · exact .inr (ih h)

theorem Store.pairwise_insert {k : Nat} {v : α} {l : Store α} (h : l.Pairwise (fun a b => a.1 < b.1)) :
    (Store.insert k v l).Pairwise (fun a b => a.1 < b.1) := by
  induction l with
  | nil => simp [Store.insert]
  | cons x t ih =>
    obtain ⟨i, w⟩ := x
    rw [List.pairwise_cons] at h
    simp only [Store.insert]
    split
    · rw [List.pairwise_cons, List.pairwise_cons]
      refine ⟨fun e he => ?_, h⟩
      rcases List.mem_cons.1 he with rfl | he
      · assumption
      · exact Nat.lt_trans (by assumption) (h.1 e he)
    · split
      · subst_vars
        rw [List.pairwise_cons]
        exact h
      · rw [List.pairwise_cons]
        refine ⟨fun e he => ?_, ih h.2⟩
        rcases Store.mem_insert he with rfl | he
        · show i < k
          omega
        · exact h.1 e he

theorem Store.pairwise_erase {k : Nat} {l : Store α} (h : l.Pairwise (fun a b => a.1 < b.1)) :
    (Store.erase k l).Pairwise (fun a b => a.1 < b.1) := by
  induction l with
  | nil => simp [Store.erase]
  | cons x t ih =>
    obtain ⟨i, w⟩ := x
    rw [List.pairwise_cons] at h
    simp only [Store.erase]
    split
    · exact ih h.2
    · rw [List.pairwise_cons]
      exact ⟨fun e he => h.1 e (Store.mem_erase he), ih h.2⟩

/-- Every write keeps the canonical form. -/
theorem Store.wf_put [DecidableEq α] {d : Nat → α} {l : Store α} (k : Nat) (v : α) (h : Store.Wf d l) :
    Store.Wf d (Store.put d k v l) := by
  unfold Store.put
  split
  · exact ⟨Store.pairwise_erase h.1, fun e he => h.2 e (Store.mem_erase he)⟩
  · refine ⟨Store.pairwise_insert h.1, fun e he => ?_⟩
    rcases Store.mem_insert he with rfl | he
    · assumption
    · exact h.2 e he

theorem Store.wf_nil (d : Nat → α) : Store.Wf d [] := ⟨List.Pairwise.nil, fun _ h => nomatch h⟩

theorem Store.wf_filter {d : Nat → α} {l : Store α} (p : Nat × α → Bool) (h : Store.Wf d l) : Store.Wf d (l.filter p) :=
  ⟨h.1.filter p, fun e he => h.2 e (List.mem_of_mem_filter he)⟩

end Sys2Proof
end

