-- ==== Sys2Proof/Laws/Memory.lean ====
section
/-!
SUPPORT. Memory: what a write leaves at each address, and that every memory operation keeps the canonical form.
-/
namespace Sys2Proof.Machine

@[simp] theorem Memory.read_write (m : List Host.Cell) (a j : Nat) (v : Byte) :
    Memory.read (Memory.write m a v) j = if j = a then v else Memory.read m j := Store.get_put ..

theorem Memory.wf_write {m : List Host.Cell} (a : Nat) (v : Byte) (h : Memory.wf m) : Memory.wf (Memory.write m a v) :=
  Store.wf_put a v h

theorem Memory.wf_writeAll {m : List Host.Cell} (a : Nat) (l : List Byte) (h : Memory.wf m) :
    Memory.wf (Memory.writeAll m a l) := by
  induction l generalizing m a with
  | nil => exact h
  | cons b t ih => exact ih _ (Memory.wf_write a b h)

/-- A read after bytes were stored from a: the byte stored there, every other address as before. -/
theorem Memory.read_writeAll (m : List Host.Cell) (a : Nat) (l : List Byte) (j : Nat) :
    Memory.read (Memory.writeAll m a l) j = if a ≤ j ∧ j < a + l.length then l.getD (j - a) 0 else Memory.read m j := by
  induction l generalizing m a with
  | nil =>
    simp only [Memory.writeAll, List.length_nil]
    rw [if_neg (by omega)]
  | cons b t ih =>
    simp only [Memory.writeAll, ih, Memory.read_write, List.length_cons]
    by_cases h : j = a
    · subst h
      rw [if_neg (by omega), if_pos rfl, if_pos (by omega)]
      simp
    · by_cases h1 : a + 1 ≤ j ∧ j < a + 1 + t.length
      · rw [if_pos h1, if_pos (by omega), show j - a = (j - (a + 1)) + 1 by omega]
        simp
      · rw [if_neg h1, if_neg h, if_neg (by omega)]

theorem flashStore_wf {m : List Host.Cell} (a : Nat) (l : List Byte) (h : Store.Wf flashErased m) :
    Store.Wf flashErased (flashStore m a l) := by
  induction l generalizing m a with
  | nil => exact h
  | cons b t ih => exact ih _ (Store.wf_put a b h)

theorem flashErase_wf {m : List Host.Cell} (a n : Nat) (h : Store.Wf flashErased m) :
    Store.Wf flashErased (flashErase m a n) := Store.wf_filter _ h

end Sys2Proof.Machine
end

