-- ==== Sys2Proof/Laws/Keep.lean ====
section
/-!
SUPPORT. Keeping the queue and the invariant: the relation that every operation of the machine keeps, and how it passes through
conditionals, folds and record updates.
-/
namespace Sys2Proof.Machine

/-- The parts of a state that the invariant and the queue speak of, reached from s0 without harm. -/
def Stays (s0 : State) (pending : List Instr) (regs live mregs : Store W32) (dram crew flash : List Host.Cell)
    (cos replay results sheet repairs : Nat) : Prop :=
  pending = s0.pending ∧ (s0.Inv → Sound regs live mregs dram crew flash cos replay results sheet repairs)

/-- The state s has the queue of s0, and the invariant if s0 has it. -/
def Keeps (s0 s : State) : Prop :=
  Stays s0 s.pending s.regs s.live s.mregs s.dram s.crewSram s.flash s.tod.cos.toNat s.twinOut.length s.results.length
    s.sheet.length s.repairs.length

theorem Keeps.refl (s : State) : Keeps s s := ⟨rfl, id⟩

theorem Keeps.of {s0 t : State} (h : Stays s0 t.pending t.regs t.live t.mregs t.dram t.crewSram t.flash t.tod.cos.toNat
    t.twinOut.length t.results.length t.sheet.length t.repairs.length) : Keeps s0 t := h

theorem Keeps.back {s0 s : State} (h : Keeps s0 s) : Stays s0 s.pending s.regs s.live s.mregs s.dram s.crewSram s.flash
    s.tod.cos.toNat s.twinOut.length s.results.length s.sheet.length s.repairs.length := h

theorem Tod.put_cos (t : Tod) (n : Nat) : (t.put n).cos.toNat < cueSec := by
  simp only [Tod.put, BitVec.toNat_ofNat]
  exact Nat.lt_of_le_of_lt (Nat.mod_le _ _) (Nat.mod_lt _ (by decide))

/-- Time of day takes a new total. -/
theorem Keeps.todPut {s0 s : State} (t : Tod) (n : Nat) (h : Keeps s0 s) : Stays s0 s.pending s.regs s.live s.mregs s.dram
    s.crewSram s.flash (t.put n).cos.toNat s.twinOut.length s.results.length s.sheet.length s.repairs.length :=
  ⟨h.1, fun h0 => { h.2 h0 with second := t.put_cos n }⟩

/-- An area of flash is erased. -/
theorem Keeps.erased {s0 s : State} (a n : Nat) (h : Keeps s0 s) : Stays s0 s.pending s.regs s.live s.mregs s.dram
    s.crewSram (flashErase s.flash a n) s.tod.cos.toNat s.twinOut.length s.results.length s.sheet.length s.repairs.length :=
  ⟨h.1, fun h0 => { h.2 h0 with flash := flashErase_wf a n (h.2 h0).flash }⟩

/-- An area of flash is erased and written. -/
theorem Keeps.flashed {s0 s : State} (a n b : Nat) (l : List Byte) (h : Keeps s0 s) : Stays s0 s.pending s.regs s.live s.mregs
    s.dram s.crewSram (flashStore (flashErase s.flash a n) b l) s.tod.cos.toNat s.twinOut.length s.results.length
    s.sheet.length s.repairs.length :=
  ⟨h.1, fun h0 => { h.2 h0 with flash := flashStore_wf b l (flashErase_wf a n (h.2 h0).flash) }⟩

/-- The replay store is emptied. -/
theorem Keeps.noReplay {s0 s : State} (h : Keeps s0 s) : Stays s0 s.pending s.regs s.live s.mregs s.dram s.crewSram s.flash
    s.tod.cos.toNat ([] : List TwinMsg).length s.results.length s.sheet.length s.repairs.length :=
  ⟨h.1, fun h0 => { h.2 h0 with replay := Nat.zero_le _ }⟩

/-- The result FIFO is emptied. -/
theorem Keeps.noResults {s0 s : State} (h : Keeps s0 s) : Stays s0 s.pending s.regs s.live s.mregs s.dram s.crewSram s.flash
    s.tod.cos.toNat s.twinOut.length ([] : List CueRes).length s.sheet.length s.repairs.length :=
  ⟨h.1, fun h0 => { h.2 h0 with results := Nat.zero_le _ }⟩

/-- Bytes are stored in the Crew SRAM. -/
theorem Keeps.crewStored {s0 s : State} (a : Nat) (l : List Byte) (h : Keeps s0 s) : Stays s0 s.pending s.regs s.live s.mregs
    s.dram (Memory.writeAll s.crewSram a l) s.flash s.tod.cos.toNat s.twinOut.length s.results.length s.sheet.length
    s.repairs.length :=
  ⟨h.1, fun h0 => { h.2 h0 with crew := Memory.wf_writeAll a l (h.2 h0).crew }⟩

theorem Keeps.ite {s0 a b : State} {c : Prop} [Decidable c] (ha : Keeps s0 a) (hb : Keeps s0 b) :
    Keeps s0 (if c then a else b) := by
  split <;> assumption

/-- The state of a pair that was taken apart. -/
theorem Keeps.pair {α : Type} {s0 s : State} {p : State × α} {a : α} (e : p = (s, a)) (h : Keeps s0 p.1) : Keeps s0 s := by
  subst e
  exact h

theorem Keeps.foldl {α : Type} {s0 s : State} {f : State → α → State} {l : List α} (h : Keeps s0 s)
    (hf : ∀ x a, Keeps s0 x → Keeps s0 (f x a)) : Keeps s0 (l.foldl f s) := by
  induction l generalizing s with
  | nil => exact h
  | cons a t ih => exact ih (hf s a h)

/-- A fold over something that holds a state. -/
theorem Keeps.foldlOn {α β : Type} {s0 : State} (g : β → State) {f : β → α → β} {l : List α} {b : β} (h : Keeps s0 (g b))
    (hf : ∀ x a, Keeps s0 (g x) → Keeps s0 (g (f x a))) : Keeps s0 (g (l.foldl f b)) := by
  induction l generalizing b with
  | nil => exact h
  | cons a t ih => exact ih (hf b a h)

theorem Keeps.foldlFst {α β : Type} {s0 : State} {f : State × β → α → State × β} {l : List α} {b : State × β}
    (h : Keeps s0 b.1) (hf : ∀ x a, Keeps s0 x.1 → Keeps s0 (f x a).1) : Keeps s0 (l.foldl f b).1 :=
  Keeps.foldlOn Prod.fst h hf

/-- A change of the parts of a state that the queue leaves alone. -/
theorem Keeps.sound {s0 s t : State} (h : Keeps s0 s) (hp : t.pending = s.pending) (hi : s.Inv → t.Inv) : Keeps s0 t :=
  ⟨hp.trans h.1, fun h0 => hi (h.2 h0)⟩

/-- An outcome whose next state keeps the queue and the invariant. -/
structure KeepsOut (s0 : State) (o : Out) : Prop where
  keeps : ∀ t, o = .next t → Keeps s0 t

theorem KeepsOut.next {s0 s : State} (h : Keeps s0 s) : KeepsOut s0 (.next s) := by
  refine ⟨fun t e => ?_⟩
  injection e with e
  exact e ▸ h

theorem KeepsOut.fault {s0 : State} {r : Fault} : KeepsOut s0 (.fault r) := by
  refine ⟨fun t e => ?_⟩
  injection e

theorem KeepsOut.ite {s0 : State} {a b : Out} {c : Prop} [Decidable c] (ha : KeepsOut s0 a) (hb : KeepsOut s0 b) :
    KeepsOut s0 (if c then a else b) := by
  split <;> assumption

theorem KeepsOut.run {s0 s : State} {f : State → State} (h : Keeps s0 s) (hf : ∀ x, Keeps s0 x → Keeps s0 (f x)) :
    KeepsOut s0 (run s f) := .next (.ite h (hf s h))

end Sys2Proof.Machine
end

