-- ==== Sys2Proof/Laws/KeepOps.lean ====
section
/-!
SUPPORT. The operations of Machine/Ops.lean keep the queue and the invariant.
-/
set_option linter.unusedTactic false
set_option linter.unreachableTactic false
namespace Sys2Proof.Machine

theorem State.setWord_keeps {s0 : State} (s : State) (a : Nat) (v : W32) (h : Keeps s0 s) : Keeps s0 (State.setWord s a v) :=
  h.sound rfl fun i => { i with regs := Store.wf_put a v i.regs }

theorem State.setLword_keeps {s0 : State} (s : State) (a : Nat) (v : W32) (h : Keeps s0 s) : Keeps s0 (State.setLword s a v) :=
  h.sound rfl fun i => { i with live := Store.wf_put a v i.live }

theorem State.setFld_keeps {s0 : State} (s : State) (p : Nat) (f : Fld) (v : Nat) (i : Nat) (h : Keeps s0 s) :
    Keeps s0 (State.setFld s p f v i) := by
  unfold State.setFld
  repeat'
    first
      | with_reducible assumption | intro _ | with_reducible apply Keeps.ite | with_reducible apply State.setWord_keeps
      | dsimp only

theorem State.setBit_keeps {s0 : State} (s : State) (p : Nat) (f : Fld) (v : Bool) (i : Nat) (h : Keeps s0 s) :
    Keeps s0 (State.setBit s p f v i) := by
  unfold State.setBit
  repeat'
    first
      | with_reducible assumption | intro _ | with_reducible apply Keeps.ite | with_reducible apply State.setFld_keeps
      | dsimp only

theorem State.setFld64_keeps {s0 : State} (s : State) (p : Nat) (lo hi : Fld) (v : Nat) (i : Nat) (h : Keeps s0 s) :
    Keeps s0 (State.setFld64 s p lo hi v i) := by
  unfold State.setFld64
  repeat'
    first
      | with_reducible assumption | intro _ | with_reducible apply Keeps.ite | with_reducible apply State.setFld_keeps
      | dsimp only

theorem State.bump_keeps {s0 : State} (s : State) (p : Nat) (f : Fld) (n : Nat) (i : Nat) (h : Keeps s0 s) :
    Keeps s0 (State.bump s p f n i) := by
  unfold State.bump
  repeat'
    first
      | with_reducible assumption | intro _ | with_reducible apply Keeps.ite | with_reducible apply State.setFld_keeps
      | dsimp only | split

theorem State.bump64_keeps {s0 : State} (s : State) (p : Nat) (lo hi : Fld) (n : Nat) (h : Keeps s0 s) :
    Keeps s0 (State.bump64 s p lo hi n) := by
  unfold State.bump64
  repeat'
    first
      | with_reducible assumption | intro _ | with_reducible apply Keeps.ite | with_reducible apply State.setFld64_keeps
      | dsimp only

theorem State.irq_keeps {s0 : State} (s : State) (p b : Nat) (h : Keeps s0 s) :
    Keeps s0 (State.irq s p b) := by
  unfold State.irq
  repeat'
    first
      | with_reducible assumption | intro _ | with_reducible apply Keeps.ite | with_reducible apply State.setWord_keeps
      | dsimp only

theorem State.when_keeps {s0 : State} (s : State) (c : Bool) (f : State → State) (h : Keeps s0 s) (hf : ∀ x, Keeps s0 x → Keeps s0 (f x)) :
    Keeps s0 (State.when s c f) := by
  unfold State.when
  repeat'
    first
      | with_reducible assumption | intro _ | with_reducible apply hf | with_reducible apply Keeps.ite | dsimp only | split

theorem State.fresh_keeps {s0 : State} (s : State) (h : Keeps s0 s) :
    Keeps s0 (State.fresh s) := by
  unfold State.fresh
  repeat'
    first
      | with_reducible assumption | intro _ | with_reducible apply Keeps.ite | dsimp only
      | (refine Keeps.of ?_; dsimp only; with_reducible apply Keeps.back)

theorem State.capture_keeps {s0 : State} (s : State) (p code access master addr : Nat) (h : Keeps s0 s) :
    Keeps s0 (State.capture s p code access master addr) := by
  unfold State.capture
  repeat'
    first
      | with_reducible assumption | intro _ | with_reducible apply Keeps.ite | with_reducible apply State.setWord_keeps
      | with_reducible apply State.setFld_keeps | with_reducible apply State.setBit_keeps
      | with_reducible apply State.setFld64_keeps | with_reducible apply State.irq_keeps | dsimp only | split

theorem State.err_keeps {s0 : State} (s : State) (p code : Nat) (access addr : Option Nat) (h : Keeps s0 s) :
    Keeps s0 (State.err s p code access addr) := by
  unfold State.err
  repeat'
    first
      | with_reducible assumption | intro _ | with_reducible apply Keeps.ite | with_reducible apply State.fresh_keeps
      | with_reducible apply State.capture_keeps | dsimp only

theorem State.accErr_keeps {s0 : State} (s : State) (p code : Nat) (a : Acc) (access addr : Nat) (h : Keeps s0 s) :
    Keeps s0 (State.accErr s p code a access addr) := by
  unfold State.accErr
  repeat'
    first
      | with_reducible assumption | intro _ | with_reducible apply Keeps.ite | with_reducible apply State.capture_keeps
      | dsimp only

theorem State.setRx_keeps {s0 : State} (s : State) (L : Nat) (v : RxLane) (h : Keeps s0 s) :
    Keeps s0 (State.setRx s L v) := by
  unfold State.setRx
  repeat'
    first
      | with_reducible assumption | intro _ | with_reducible apply Keeps.ite | dsimp only
      | (refine Keeps.of ?_; dsimp only; with_reducible apply Keeps.back)

theorem State.setTx_keeps {s0 : State} (s : State) (L : Nat) (v : TxLane) (h : Keeps s0 s) :
    Keeps s0 (State.setTx s L v) := by
  unfold State.setTx
  repeat'
    first
      | with_reducible assumption | intro _ | with_reducible apply Keeps.ite | dsimp only
      | (refine Keeps.of ?_; dsimp only; with_reducible apply Keeps.back)

theorem State.setPl_keeps {s0 : State} (s : State) (n : Nat) (v : Pll) (h : Keeps s0 s) :
    Keeps s0 (State.setPl s n v) := by
  unfold State.setPl
  repeat'
    first
      | with_reducible assumption | intro _ | with_reducible apply Keeps.ite | dsimp only
      | (refine Keeps.of ?_; dsimp only; with_reducible apply Keeps.back)

theorem State.setRi_keeps {s0 : State} (s : State) (i : Nat) (v : RefIn) (h : Keeps s0 s) :
    Keeps s0 (State.setRi s i v) := by
  unfold State.setRi
  repeat'
    first
      | with_reducible assumption | intro _ | with_reducible apply Keeps.ite | dsimp only
      | (refine Keeps.of ?_; dsimp only; with_reducible apply Keeps.back)

theorem State.setRo_keeps {s0 : State} (s : State) (c g : Nat) (v : Rot) (h : Keeps s0 s) :
    Keeps s0 (State.setRo s c g v) := by
  unfold State.setRo
  repeat'
    first
      | with_reducible assumption | intro _ | with_reducible apply Keeps.ite | dsimp only
      | (refine Keeps.of ?_; dsimp only; with_reducible apply Keeps.back)

theorem State.periodic_keeps {s0 : State} (s : State) (k P : Nat) (f : State → State) (h : Keeps s0 s) (hf : ∀ x, Keeps s0 x → Keeps s0 (f x)) :
    Keeps s0 (State.periodic s k P f) := by
  unfold State.periodic
  repeat'
    first
      | with_reducible assumption | intro _ | with_reducible apply hf | with_reducible apply Keeps.ite | dsimp only
      | (refine Keeps.of ?_; dsimp only; with_reducible apply Keeps.back) | split

theorem State.logTod_keeps {s0 : State} (s : State) (h : Keeps s0 s) :
    Keeps s0 (State.logTod s) := by
  unfold State.logTod
  repeat'
    first
      | with_reducible assumption | intro _ | with_reducible apply Keeps.ite | dsimp only
      | (refine Keeps.of ?_; dsimp only; with_reducible apply Keeps.back)
      | (refine Keeps.of ?_; dsimp only; with_reducible apply Keeps.todPut)

theorem State.answer_keeps {s0 : State} (s : State) (m : Nat) (k : RespKind) (data : List Byte) (h : Keeps s0 s) :
    Keeps s0 (State.answer s m k data) := by
  unfold State.answer
  repeat'
    first
      | with_reducible assumption | intro _ | with_reducible apply Keeps.ite | dsimp only
      | (refine Keeps.of ?_; dsimp only; with_reducible apply Keeps.back)

theorem State.answerWord_keeps {s0 : State} (s : State) (m : Nat) (w : W32) (h : Keeps s0 s) :
    Keeps s0 (State.answerWord s m w) := by
  unfold State.answerWord
  repeat'
    first
      | with_reducible assumption | intro _ | with_reducible apply Keeps.ite | with_reducible apply State.answer_keeps
      | dsimp only

theorem run_keeps {s0 : State} (s : State) (f : State → State) (h : Keeps s0 s) (hf : ∀ x, Keeps s0 x → Keeps s0 (f x)) :
    KeepsOut s0 (run s f) := .run h hf

theorem State.noPath_keeps {s0 : State} (s : State) (a : Acc) (isWrite : Bool) (addr : Nat) (h : Keeps s0 s) :
    Keeps s0 (State.noPath s a isWrite addr) := by
  unfold State.noPath
  repeat'
    first
      | with_reducible assumption | intro _ | with_reducible apply Keeps.ite | with_reducible apply State.bump_keeps
      | with_reducible apply State.irq_keeps | with_reducible apply State.capture_keeps
      | with_reducible apply State.answer_keeps | dsimp only | split

theorem State.twinSend_keeps {s0 : State} (s : State) (b : TwinBody) (h : Keeps s0 s) : Keeps s0 (State.twinSend s b) :=
  h.sound rfl fun i => { i with replay := by simp [State.twinSend] }

theorem State.journal_keeps {s0 : State} (s : State) (at_ : Nat) (d : Decision) (h : Keeps s0 s) :
    Keeps s0 (State.journal s at_ d) := by
  unfold State.journal
  repeat'
    first
      | with_reducible assumption | intro _ | with_reducible apply Keeps.ite | with_reducible apply State.twinSend_keeps
      | dsimp only | split

theorem State.disarm_keeps {s0 : State} (s : State) (p : Nat) (h : Keeps s0 s) :
    Keeps s0 (State.disarm s p) := by
  unfold State.disarm
  repeat'
    first
      | with_reducible assumption | intro _ | with_reducible apply Keeps.ite | with_reducible apply State.setBit_keeps
      | dsimp only | (refine Keeps.of ?_; dsimp only; with_reducible apply Keeps.back)

theorem State.sameArmed_keeps {s0 : State} (s pre : State) (p : Nat) (h : Keeps s0 s) :
    Keeps s0 (State.sameArmed s pre p) := by
  unfold State.sameArmed
  repeat'
    first
      | with_reducible assumption | intro _ | with_reducible apply Keeps.ite | with_reducible apply State.setBit_keeps
      | dsimp only | (refine Keeps.of ?_; dsimp only; with_reducible apply Keeps.back)

theorem State.storeWord_keeps {s0 : State} (s : State) (a : Acc) (p : Nat) (k : PageKind) (i o : Nat) (w : W32) (hw : Option W32) (h : Keeps s0 s) :
    Keeps s0 (State.storeWord s a p k i o w hw).s := by
  unfold State.storeWord
  repeat'
    first
      | with_reducible assumption | intro _ | with_reducible apply Keeps.ite | with_reducible apply State.setWord_keeps
      | with_reducible apply State.setBit_keeps | with_reducible apply State.bump_keeps | with_reducible apply State.when_keeps
      | with_reducible apply State.accErr_keeps | with_reducible apply State.journal_keeps
      | with_reducible apply State.disarm_keeps | dsimp only | (refine Keeps.of ?_; dsimp only; with_reducible apply Keeps.back)
      | split

theorem State.putMreg_keeps {s0 : State} (s : State) (k : Nat) (v : W32) (h : Keeps s0 s) : Keeps s0 (State.putMreg s k v) :=
  h.sound rfl fun i => { i with mregs := Store.wf_put _ v i.mregs }

theorem State.setMreg_keeps {s0 : State} (s : State) (m a : Nat) (v : W32) (h : Keeps s0 s) :
    Keeps s0 (State.setMreg s m a v) := State.putMreg_keeps _ _ _ h

theorem State.viaPath_keeps {s0 : State} (s : State) (a : Acc) (addr : Nat) (f : State → State) (h : Keeps s0 s) (hf : ∀ x, Keeps s0 x → Keeps s0 (f x)) :
    Keeps s0 (State.viaPath s a addr f) := by
  unfold State.viaPath
  repeat'
    first
      | with_reducible assumption | intro _ | with_reducible apply hf | with_reducible apply Keeps.ite
      | with_reducible apply State.answer_keeps | with_reducible apply State.noPath_keeps | dsimp only | split

theorem State.viaRead_keeps {s0 : State} (s : State) (a : Acc) (addr : Nat) (f : State → State × W32) (h : Keeps s0 s)
    (hf : ∀ x, Keeps s0 x → Keeps s0 (f x).1) : Keeps s0 (State.viaRead s a addr f) := by
  unfold State.viaRead
  repeat'
    first
      | with_reducible assumption | with_reducible apply Keeps.ite | with_reducible apply State.answerWord_keeps
      | with_reducible apply State.noPath_keeps | with_reducible apply hf

theorem State.setMfld_keeps {s0 : State} (s : State) (m p : Nat) (f : Fld) (v : Nat) (h : Keeps s0 s) :
    Keeps s0 (State.setMfld s m p f v) := by
  unfold State.setMfld
  repeat'
    first
      | with_reducible assumption | intro _ | with_reducible apply Keeps.ite | with_reducible apply State.setMreg_keeps
      | dsimp only

theorem State.storeFor_keeps {s0 : State} (s : State) (a : Acc) (p : Nat) (k : PageKind) (i o : Nat) (w : W32) (hw : Option W32) (h : Keeps s0 s) :
    Keeps s0 (State.storeFor s a p k i o w hw).s := by
  unfold State.storeFor
  repeat'
    first
      | with_reducible assumption | intro _ | with_reducible apply Keeps.ite | with_reducible apply State.setWord_keeps
      | with_reducible apply State.storeWord_keeps | with_reducible apply State.setMreg_keeps | dsimp only
      | (refine Keeps.of ?_; dsimp only; with_reducible apply Keeps.back) | split

end Sys2Proof.Machine
end

