-- ==== Sys2Proof/Laws/KeepHeader.lean ====
section
/-!
SUPPORT. The operations of Machine/Header.lean keep the queue and the invariant.
-/
set_option linter.unusedTactic false
set_option linter.unreachableTactic false
namespace Sys2Proof.Machine

theorem State.snapshot_keeps {s0 : State} (s : State) (p : Nat) (k : PageKind) (t : Nat) (all : Bool) (h : Keeps s0 s) :
    Keeps s0 (State.snapshot s p k t all) := by
  unfold State.snapshot
  repeat'
    first
      | with_reducible assumption | intro _ | with_reducible apply Keeps.foldl | with_reducible apply Keeps.foldlFst
      | with_reducible apply Keeps.ite | with_reducible apply State.setWord_keeps | with_reducible apply State.setFld_keeps
      | with_reducible apply State.setBit_keeps | with_reducible apply State.setFld64_keeps
      | with_reducible apply State.irq_keeps | dsimp only

theorem State.armSnap_keeps {s0 : State} (s : State) (h : Keeps s0 s) :
    Keeps s0 (State.armSnap s) := by
  unfold State.armSnap
  repeat'
    first
      | with_reducible assumption | intro _ | with_reducible apply Keeps.ite | with_reducible apply State.setBit_keeps
      | dsimp only | (refine Keeps.of ?_; dsimp only; with_reducible apply Keeps.back) | split

theorem State.snapDone_keeps {s0 : State} (s : State) (h : Keeps s0 s) :
    Keeps s0 (State.snapDone s) := by
  unfold State.snapDone
  repeat'
    first
      | with_reducible assumption | intro _ | with_reducible apply Keeps.ite | with_reducible apply State.setBit_keeps
      | with_reducible apply State.irq_keeps | dsimp only | (refine Keeps.of ?_; dsimp only; with_reducible apply Keeps.back)
      | split

theorem State.forceBit_keeps {s0 : State} (s : State) (a : Acc) (p : Nat) (hw : Option HwErr) (b : Nat) (h : Keeps s0 s) :
    Keeps s0 (State.forceBit s a p hw b) := by
  unfold State.forceBit
  repeat'
    first
      | with_reducible assumption | intro _ | with_reducible apply Keeps.ite | with_reducible apply State.setBit_keeps
      | with_reducible apply State.irq_keeps | with_reducible apply State.when_keeps | with_reducible apply State.capture_keeps
      | dsimp only | (refine Keeps.of ?_; dsimp only; with_reducible apply Keeps.back) | split

theorem State.force_keeps {s0 : State} (s : State) (a : Acc) (p : Nat) (w : W32) (hw : Option HwErr) (h : Keeps s0 s) :
    Keeps s0 (State.force s a p w hw) := by
  unfold State.force
  repeat'
    first
      | with_reducible assumption | intro _ | with_reducible apply Keeps.foldl | with_reducible apply Keeps.foldlFst
      | with_reducible apply Keeps.ite | with_reducible apply State.forceBit_keeps | dsimp only
      | (refine Keeps.of ?_; dsimp only; with_reducible apply Keeps.back) | split

theorem State.unforce_keeps {s0 : State} (s : State) (p : Nat) (h : Keeps s0 s) :
    Keeps s0 (State.unforce s p) := by
  unfold State.unforce
  repeat'
    first
      | with_reducible assumption | intro _ | with_reducible apply Keeps.ite | dsimp only
      | (refine Keeps.of ?_; dsimp only; with_reducible apply Keeps.back)

theorem State.release_keeps {s0 : State} (s : State) (p : Nat) (clash : Option HwErr) (h : Keeps s0 s) :
    Keeps s0 (State.release s p clash) := by
  unfold State.release
  repeat'
    first
      | with_reducible assumption | intro _ | with_reducible apply Keeps.ite | with_reducible apply State.setBit_keeps
      | with_reducible apply State.capture_keeps | dsimp only
      | (refine Keeps.of ?_; dsimp only; with_reducible apply Keeps.back) | split

theorem State.upset_keeps {s0 : State} (s : State) (p : Nat) (u : Upset) (h : Keeps s0 s) :
    Keeps s0 (State.upset s p u) := by
  unfold State.upset
  repeat'
    first
      | with_reducible assumption | intro _ | with_reducible apply Keeps.ite | with_reducible apply State.setWord_keeps
      | with_reducible apply State.setLword_keeps | dsimp only | split

theorem State.cfgFault_keeps {s0 : State} (s : State) (p code addr : Nat) (h : Keeps s0 s) :
    Keeps s0 (State.cfgFault s p code addr) := by
  unfold State.cfgFault
  repeat'
    first
      | with_reducible assumption | intro _ | with_reducible apply Keeps.ite | with_reducible apply State.setBit_keeps
      | with_reducible apply State.irq_keeps | with_reducible apply State.err_keeps | dsimp only

theorem State.crcPass_keeps {s0 : State} (s : State) (p : Nat) (k : PageKind) (h : Keeps s0 s) :
    Keeps s0 (State.crcPass s p k) := by
  unfold State.crcPass
  repeat'
    first
      | with_reducible assumption | intro _ | with_reducible apply Keeps.ite | with_reducible apply State.setWord_keeps
      | with_reducible apply State.cfgFault_keeps | dsimp only | split

theorem State.mapParity_keeps {s0 : State} (s : State) (p : Nat) (k : PageKind) (g : W32 → W32) (h : Keeps s0 s) :
    Keeps s0 (State.mapParity s p k g) := by
  unfold State.mapParity
  repeat'
    first
      | with_reducible assumption | intro _ | with_reducible apply Keeps.foldl | with_reducible apply Keeps.foldlFst
      | with_reducible apply Keeps.ite | with_reducible apply State.setWord_keeps | with_reducible apply State.setLword_keeps
      | dsimp only

theorem State.parityChange_keeps {s0 : State} (s : State) (p : Nat) (k : PageKind) (was : Bool) (h : Keeps s0 s) :
    Keeps s0 (State.parityChange s p k was) := by
  unfold State.parityChange
  repeat'
    first
      | with_reducible assumption | intro _ | with_reducible apply Keeps.ite | with_reducible apply State.setWord_keeps
      | with_reducible apply State.disarm_keeps | with_reducible apply State.mapParity_keeps | dsimp only | split

theorem State.keepParity_keeps {s0 : State} (s : State) (p : Nat) (k : PageKind) (o : Nat) (h : Keeps s0 s) :
    Keeps s0 (State.keepParity s p k o) := by
  unfold State.keepParity
  repeat'
    first
      | with_reducible assumption | intro _ | with_reducible apply Keeps.ite | with_reducible apply State.setWord_keeps
      | dsimp only | split

theorem State.parityPass_keeps {s0 : State} (s : State) (p : Nat) (k : PageKind) (h : Keeps s0 s) :
    Keeps s0 (State.parityPass s p k) := by
  unfold State.parityPass
  repeat'
    first
      | with_reducible assumption | intro _ | with_reducible apply Keeps.foldl | with_reducible apply Keeps.foldlFst
      | with_reducible apply Keeps.ite | with_reducible apply State.cfgFault_keeps | dsimp only
      | (refine Keeps.of ?_; dsimp only; with_reducible apply Keeps.back) | split

theorem State.setWaiting_keeps {s0 : State} (s : State) (p : Nat) (w : Pending) (h : Keeps s0 s) :
    Keeps s0 (State.setWaiting s p w) := by
  unfold State.setWaiting
  repeat'
    first
      | with_reducible assumption | intro _ | with_reducible apply Keeps.ite | dsimp only
      | (refine Keeps.of ?_; dsimp only; with_reducible apply Keeps.back) | split

theorem State.applied_keeps {s0 : State} (s : State) (p : Nat) (k : PageKind) (h : Keeps s0 s) :
    Keeps s0 (State.applied s p k) := by
  unfold State.applied
  repeat'
    first
      | with_reducible assumption | intro _ | with_reducible apply Keeps.ite | with_reducible apply State.setFld_keeps
      | with_reducible apply State.setBit_keeps | with_reducible apply State.irq_keeps | with_reducible apply State.when_keeps
      | dsimp only

theorem State.applySlot_keeps {s0 : State} (s : State) (p : Nat) (k : PageKind) (slot : Nat) (h : Keeps s0 s) :
    Keeps s0 (State.applySlot s p k slot) := by
  unfold State.applySlot
  repeat'
    first
      | with_reducible assumption | intro _ | with_reducible apply Keeps.foldl | with_reducible apply Keeps.foldlFst
      | with_reducible apply Keeps.ite | with_reducible apply State.setLword_keeps | with_reducible apply State.when_keeps
      | with_reducible apply State.setWaiting_keeps | with_reducible apply State.applied_keeps | dsimp only | split

theorem State.accept_keeps {s0 : State} (s : State) (p : Nat) (k : PageKind) (h : Keeps s0 s) :
    Keeps s0 (State.accept s p k) := by
  unfold State.accept
  repeat'
    first
      | with_reducible assumption | intro _ | with_reducible apply Keeps.ite | with_reducible apply State.setFld_keeps
      | with_reducible apply State.when_keeps | with_reducible apply State.setWaiting_keeps
      | with_reducible apply State.applied_keeps | dsimp only
      | (refine Keeps.of ?_; dsimp only; with_reducible apply Keeps.back)

theorem State.refuseCommit_keeps {s0 : State} (s : State) (p r : Nat) (h : Keeps s0 s) :
    Keeps s0 (State.refuseCommit s p r) := by
  unfold State.refuseCommit
  repeat'
    first
      | with_reducible assumption | intro _ | with_reducible apply Keeps.ite | with_reducible apply State.setFld_keeps
      | with_reducible apply State.irq_keeps | dsimp only

end Sys2Proof.Machine
end

