-- ==== Sys2Proof/Laws/KeepGrid.lean ====
section
/-!
SUPPORT. The operations of Machine/Grid.lean keep the queue and the invariant.
-/
set_option linter.unusedTactic false
set_option linter.unreachableTactic false
namespace Sys2Proof.Machine

theorem State.setGrp_keeps {s0 : State} (s : State) (g : Nat) (v : Group) (h : Keeps s0 s) :
    Keeps s0 (State.setGrp s g v) := by
  unfold State.setGrp
  repeat'
    first
      | with_reducible assumption | intro _ | with_reducible apply Keeps.ite | dsimp only
      | (refine Keeps.of ?_; dsimp only; with_reducible apply Keeps.back)

theorem State.grpLay_keeps {s0 : State} (s : State) (g : Nat) (h : Keeps s0 s) :
    Keeps s0 (State.grpLay s g) := by
  unfold State.grpLay
  repeat'
    first
      | with_reducible assumption | intro _ | with_reducible apply Keeps.ite | with_reducible apply State.setGrp_keeps
      | dsimp only

theorem State.grpMove_keeps {s0 : State} (s : State) (g : Nat) (delta : Int) (h : Keeps s0 s) :
    Keeps s0 (State.grpMove s g delta) := by
  unfold State.grpMove
  repeat'
    first
      | with_reducible assumption | intro _ | with_reducible apply Keeps.ite | with_reducible apply State.setGrp_keeps
      | dsimp only | (refine Keeps.of ?_; dsimp only; with_reducible apply Keeps.back) | split

theorem State.grpMoveAll_keeps {s0 : State} (s : State) (delta : Int) (h : Keeps s0 s) :
    Keeps s0 (State.grpMoveAll s delta) := by
  unfold State.grpMoveAll
  repeat'
    first
      | with_reducible assumption | intro _ | with_reducible apply Keeps.foldl | with_reducible apply Keeps.foldlFst
      | with_reducible apply Keeps.ite | with_reducible apply State.setBit_keeps | with_reducible apply State.grpMove_keeps
      | dsimp only

theorem State.pitMove_keeps {s0 : State} (s : State) (delta : Int) (h : Keeps s0 s) :
    Keeps s0 (State.pitMove s delta) := by
  unfold State.pitMove
  repeat'
    first
      | with_reducible assumption | intro _ | with_reducible apply Keeps.ite | dsimp only
      | (refine Keeps.of ?_; dsimp only; with_reducible apply Keeps.back) | split

theorem State.callMove_keeps {s0 : State} (s : State) (delta : Int) (h : Keeps s0 s) :
    Keeps s0 (State.callMove s delta) := by
  unfold State.callMove
  repeat'
    first
      | with_reducible assumption | intro _ | with_reducible apply Keeps.ite | dsimp only
      | (refine Keeps.of ?_; dsimp only; with_reducible apply Keeps.back) | split

end Sys2Proof.Machine
end

