-- ==== Sys2Proof/Laws/KeepPlatform.lean ====
section
/-!
SUPPORT. The operations of Machine/Platform.lean keep the queue and the invariant.
-/
set_option linter.unusedTactic false
set_option linter.unreachableTactic false
namespace Sys2Proof.Machine

theorem State.setPt_keeps {s0 : State} (s : State) (r : Nat) (v : Plat) (h : Keeps s0 s) :
    Keeps s0 (State.setPt s r v) := by
  unfold State.setPt
  repeat'
    first
      | with_reducible assumption | intro _ | with_reducible apply Keeps.ite | dsimp only
      | (refine Keeps.of ?_; dsimp only; with_reducible apply Keeps.back)

theorem State.setPst_keeps {s0 : State} (s : State) (r : Nat) (f : Fld) (v : Nat) (h : Keeps s0 s) :
    Keeps s0 (State.setPst s r f v) := by
  unfold State.setPst
  repeat'
    first
      | with_reducible assumption | intro _ | with_reducible apply Keeps.ite | with_reducible apply State.setFld_keeps
      | dsimp only

theorem State.pcount_keeps {s0 : State} (s : State) (r : Nat) (f : Fld) (h : Keeps s0 s) :
    Keeps s0 (State.pcount s r f) := by
  unfold State.pcount
  repeat'
    first
      | with_reducible assumption | intro _ | with_reducible apply Keeps.ite | with_reducible apply State.bump_keeps
      | dsimp only

theorem State.pirq_keeps {s0 : State} (s : State) (r b : Nat) (h : Keeps s0 s) :
    Keeps s0 (State.pirq s r b) := by
  unfold State.pirq
  repeat'
    first
      | with_reducible assumption | intro _ | with_reducible apply Keeps.ite | with_reducible apply State.irq_keeps | dsimp only

theorem State.setGang_keeps {s0 : State} (s : State) (b : Nat) (f : Fld) (v : Nat) (h : Keeps s0 s) :
    Keeps s0 (State.setGang s b f v) := by
  unfold State.setGang
  repeat'
    first
      | with_reducible assumption | intro _ | with_reducible apply Keeps.foldl | with_reducible apply Keeps.foldlFst
      | with_reducible apply Keeps.ite | with_reducible apply State.setPst_keeps | dsimp only

theorem State.hold_keeps {s0 : State} (s : State) (b : Nat) (h : Keeps s0 s) :
    Keeps s0 (State.hold s b) := by
  unfold State.hold
  repeat'
    first
      | with_reducible assumption | intro _ | with_reducible apply Keeps.ite | with_reducible apply State.setPt_keeps
      | with_reducible apply State.setGang_keeps | dsimp only
      | (refine Keeps.of ?_; dsimp only; with_reducible apply Keeps.back) | split

theorem State.srcBack_keeps {s0 : State} (s : State) (r : Nat) (h : Keeps s0 s) :
    Keeps s0 (State.srcBack s r) := by
  unfold State.srcBack
  repeat'
    first
      | with_reducible assumption | intro _ | with_reducible apply Keeps.ite | with_reducible apply State.setGang_keeps
      | dsimp only | split

theorem State.ptSettle_keeps {s0 : State} (s : State) (x : Nat) (was : Bool) (h : Keeps s0 s) :
    Keeps s0 (State.ptSettle s x was) := by
  unfold State.ptSettle
  repeat'
    first
      | with_reducible assumption | intro _ | with_reducible apply Keeps.ite | with_reducible apply State.setPt_keeps
      | with_reducible apply State.setPst_keeps | with_reducible apply State.setGang_keeps
      | with_reducible apply State.srcBack_keeps | dsimp only
      | (refine Keeps.of ?_; dsimp only; with_reducible apply Keeps.back) | split

theorem State.countBerths_keeps {s0 : State} (s : State) (h : Keeps s0 s) :
    Keeps s0 (State.countBerths s) := by
  unfold State.countBerths
  repeat'
    first
      | with_reducible assumption | intro _ | with_reducible apply Keeps.foldl | with_reducible apply Keeps.foldlFst
      | with_reducible apply Keeps.ite | with_reducible apply State.setFld_keeps | dsimp only

theorem State.ptApply_keeps {s0 : State} (s : State) (r : Nat) (h : Keeps s0 s) :
    Keeps s0 (State.ptApply s r) := by
  unfold State.ptApply
  repeat'
    first
      | with_reducible assumption | intro _ | with_reducible apply Keeps.foldl | with_reducible apply Keeps.foldlFst
      | with_reducible apply Keeps.ite | with_reducible apply State.applySlot_keeps | with_reducible apply State.ptSettle_keeps
      | with_reducible apply State.countBerths_keeps | dsimp only | split

theorem State.ptApplyIdle_keeps {s0 : State} (s : State) (r : Nat) (h : Keeps s0 s) :
    Keeps s0 (State.ptApplyIdle s r) := by
  unfold State.ptApplyIdle
  repeat'
    first
      | with_reducible assumption | intro _ | with_reducible apply Keeps.ite | with_reducible apply State.ptApply_keeps
      | dsimp only | split

theorem State.gangIdle_keeps {s0 : State} (s : State) (b : Nat) (h : Keeps s0 s) :
    Keeps s0 (State.gangIdle s b) := by
  unfold State.gangIdle
  repeat'
    first
      | with_reducible assumption | intro _ | with_reducible apply Keeps.foldl | with_reducible apply Keeps.foldlFst
      | with_reducible apply Keeps.ite | with_reducible apply State.ptApplyIdle_keeps | dsimp only

theorem State.srcLost_keeps {s0 : State} (s : State) (r : Nat) (h : Keeps s0 s) :
    Keeps s0 (State.srcLost s r) := by
  unfold State.srcLost
  repeat'
    first
      | with_reducible assumption | intro _ | with_reducible apply Keeps.ite | with_reducible apply State.pirq_keeps
      | with_reducible apply State.setGang_keeps | with_reducible apply State.hold_keeps
      | with_reducible apply State.gangIdle_keeps | dsimp only | split

theorem State.srcFmtLost_keeps {s0 : State} (s : State) (r : Nat) (h : Keeps s0 s) :
    Keeps s0 (State.srcFmtLost s r) := by
  unfold State.srcFmtLost
  repeat'
    first
      | with_reducible assumption | intro _ | with_reducible apply Keeps.ite | with_reducible apply State.pirq_keeps
      | with_reducible apply State.setGang_keeps | with_reducible apply State.hold_keeps
      | with_reducible apply State.gangIdle_keeps | dsimp only | split

theorem State.ptFall_keeps {s0 : State} (s : State) (b : Nat) (h : Keeps s0 s) :
    Keeps s0 (State.ptFall s b) := by
  unfold State.ptFall
  repeat'
    first
      | with_reducible assumption | intro _ | with_reducible apply Keeps.ite | with_reducible apply State.pcount_keeps
      | with_reducible apply State.pirq_keeps | with_reducible apply State.setGang_keeps | dsimp only

theorem State.ptRise_keeps {s0 : State} (s : State) (b : Nat) (h : Keeps s0 s) :
    Keeps s0 (State.ptRise s b) := by
  unfold State.ptRise
  repeat'
    first
      | with_reducible assumption | intro _ | with_reducible apply Keeps.ite | with_reducible apply State.pcount_keeps
      | with_reducible apply State.pirq_keeps | with_reducible apply State.setGang_keeps | dsimp only

theorem State.ptTurn_keeps {s0 : State} (s : State) (b start : Nat) (h : Keeps s0 s) :
    Keeps s0 (State.ptTurn s b start) := by
  unfold State.ptTurn
  repeat'
    first
      | with_reducible assumption | intro _ | with_reducible apply Keeps.ite | with_reducible apply State.setPt_keeps
      | with_reducible apply State.ptFall_keeps | with_reducible apply State.ptRise_keeps | dsimp only
      | (refine Keeps.of ?_; dsimp only; with_reducible apply Keeps.back) | split

theorem State.ptDecide_keeps {s0 : State} (s : State) (b : Nat) (up : Bool) (start : Nat) (h : Keeps s0 s) :
    Keeps s0 (State.ptDecide s b up start) := by
  unfold State.ptDecide
  repeat'
    first
      | with_reducible assumption | intro _ | with_reducible apply Keeps.ite | with_reducible apply State.bump_keeps
      | with_reducible apply State.journal_keeps | with_reducible apply State.setPt_keeps
      | with_reducible apply State.ptTurn_keeps | dsimp only | (refine Keeps.of ?_; dsimp only; with_reducible apply Keeps.back)
      | split

theorem State.srcFrame_keeps {s0 : State} (s : State) (r a : Nat) (f : Fmt) (fresh comp : Bool) (ts : Nat) (h : Keeps s0 s) :
    Keeps s0 (State.srcFrame s r a f fresh comp ts) := by
  unfold State.srcFrame
  repeat'
    first
      | with_reducible assumption | intro _ | with_reducible apply Keeps.ite | with_reducible apply State.fresh_keeps
      | with_reducible apply State.release_keeps | with_reducible apply State.setPt_keeps
      | with_reducible apply State.pirq_keeps | with_reducible apply State.setGang_keeps
      | with_reducible apply State.ptTurn_keeps | with_reducible apply State.ptDecide_keeps | dsimp only
      | (refine Keeps.of ?_; dsimp only; with_reducible apply Keeps.back) | split

theorem State.srcFmt_keeps {s0 : State} (s : State) (r a : Nat) (f : Fmt) (comp : Bool) (ts : Nat) (h : Keeps s0 s) :
    Keeps s0 (State.srcFmt s r a f comp ts) := by
  unfold State.srcFmt
  repeat'
    first
      | with_reducible assumption | intro _ | with_reducible apply Keeps.ite | with_reducible apply State.setPt_keeps
      | with_reducible apply State.pirq_keeps | with_reducible apply State.setGang_keeps
      | with_reducible apply State.srcBack_keeps | with_reducible apply State.srcFrame_keeps | dsimp only
      | (refine Keeps.of ?_; dsimp only; with_reducible apply Keeps.back) | split

theorem State.srcAttr_keeps {s0 : State} (s : State) (r : Nat) (f : Fmt) (h : Keeps s0 s) :
    Keeps s0 (State.srcAttr s r f) := by
  unfold State.srcAttr
  repeat'
    first
      | with_reducible assumption | intro _ | with_reducible apply Keeps.ite | with_reducible apply State.setPt_keeps
      | with_reducible apply State.pirq_keeps | with_reducible apply State.setGang_keeps | with_reducible apply State.hold_keeps
      | dsimp only | (refine Keeps.of ?_; dsimp only; with_reducible apply Keeps.back) | split

theorem State.showStart_keeps {s0 : State} (s : State) (b t : Nat) (h : Keeps s0 s) :
    Keeps s0 (State.showStart s b t) := by
  unfold State.showStart
  repeat'
    first
      | with_reducible assumption | intro _ | with_reducible apply Keeps.foldl | with_reducible apply Keeps.foldlFst
      | with_reducible apply Keeps.ite | with_reducible apply State.setFld64_keeps | dsimp only

theorem State.newLines_keeps {s0 : State} (s : State) (b : Nat) (h : Keeps s0 s) :
    Keeps s0 (State.newLines s b) := by
  unfold State.newLines
  repeat'
    first
      | with_reducible assumption | intro _ | with_reducible apply Keeps.foldl | with_reducible apply Keeps.foldlFst
      | with_reducible apply Keeps.ite | with_reducible apply State.setPt_keeps | dsimp only
      | (refine Keeps.of ?_; dsimp only; with_reducible apply Keeps.back)

theorem State.railGo_keeps {s0 : State} (s : State) (b : Nat) (fr : ReadyFrame) (h : Keeps s0 s) :
    Keeps s0 (State.railGo s b fr) := by
  unfold State.railGo
  repeat'
    first
      | with_reducible assumption | intro _ | with_reducible apply Keeps.ite | with_reducible apply State.release_keeps
      | with_reducible apply State.setPt_keeps | with_reducible apply State.pcount_keeps
      | with_reducible apply State.setGang_keeps | with_reducible apply State.showStart_keeps
      | with_reducible apply State.newLines_keeps | dsimp only
      | (refine Keeps.of ?_; dsimp only; with_reducible apply Keeps.back) | split

theorem State.railStart_keeps {s0 : State} (s : State) (r : Nat) (h : Keeps s0 s) :
    Keeps s0 (State.railStart s r) := by
  unfold State.railStart
  repeat'
    first
      | with_reducible assumption | intro _ | with_reducible apply Keeps.foldl | with_reducible apply Keeps.foldlFst
      | with_reducible apply Keeps.ite | with_reducible apply State.release_keeps | with_reducible apply State.setPt_keeps
      | with_reducible apply State.ptApply_keeps | with_reducible apply State.ptTurn_keeps
      | with_reducible apply State.ptDecide_keeps | with_reducible apply State.railGo_keeps | dsimp only
      | (refine Keeps.of ?_; dsimp only; with_reducible apply Keeps.back) | split

theorem State.holdStart_keeps {s0 : State} (s : State) (r : Nat) (h : Keeps s0 s) :
    Keeps s0 (State.holdStart s r) := by
  unfold State.holdStart
  repeat'
    first
      | with_reducible assumption | intro _ | with_reducible apply Keeps.ite | with_reducible apply State.setPt_keeps
      | with_reducible apply State.setGang_keeps | with_reducible apply State.showStart_keeps
      | with_reducible apply State.newLines_keeps | dsimp only
      | (refine Keeps.of ?_; dsimp only; with_reducible apply Keeps.back) | split

theorem State.putLine_keeps {s0 : State} (s : State) (r k : Nat) (l : List Nat) (h : Keeps s0 s) :
    Keeps s0 (State.putLine s r k l) := by
  unfold State.putLine
  repeat'
    first
      | with_reducible assumption | intro _ | with_reducible apply Keeps.ite | with_reducible apply State.setPt_keeps
      | dsimp only | (refine Keeps.of ?_; dsimp only; with_reducible apply Keeps.back) | split

theorem State.railLine_keeps {s0 : State} (s : State) (r k : Nat) (pix : List (Option Nat)) (late : Bool) (sram : Option Nat) (h : Keeps s0 s) :
    Keeps s0 (State.railLine s r k pix late sram) := by
  unfold State.railLine
  repeat'
    first
      | with_reducible assumption | intro _ | with_reducible apply Keeps.ite | with_reducible apply State.when_keeps
      | with_reducible apply State.err_keeps | with_reducible apply State.pcount_keeps | with_reducible apply State.pirq_keeps
      | with_reducible apply State.putLine_keeps | dsimp only
      | (refine Keeps.of ?_; dsimp only; with_reducible apply Keeps.back) | split

theorem State.retest_keeps {s0 : State} (s : State) (g b : Nat) (h : Keeps s0 s) :
    Keeps s0 (State.retest s g b) := by
  unfold State.retest
  repeat'
    first
      | with_reducible assumption | intro _ | with_reducible apply Keeps.ite | with_reducible apply State.setGang_keeps
      | with_reducible apply State.ptDecide_keeps | dsimp only
      | (refine Keeps.of ?_; dsimp only; with_reducible apply Keeps.back) | split

theorem State.regroup_keeps {s0 : State} (s : State) (g : Nat) (h : Keeps s0 s) :
    Keeps s0 (State.regroup s g) := by
  unfold State.regroup
  repeat'
    first
      | with_reducible assumption | intro _ | with_reducible apply Keeps.foldl | with_reducible apply Keeps.foldlFst
      | with_reducible apply Keeps.ite | with_reducible apply State.irq_keeps | with_reducible apply State.setGrp_keeps
      | with_reducible apply State.retest_keeps | dsimp only | (refine Keeps.of ?_; dsimp only; with_reducible apply Keeps.back)
      | split

theorem State.grpLive_keeps {s0 : State} (s : State) (g : Nat) (oldEn : Bool) (oldRate oldOfs : Nat) (h : Keeps s0 s) :
    Keeps s0 (State.grpLive s g oldEn oldRate oldOfs) := by
  unfold State.grpLive
  repeat'
    first
      | with_reducible assumption | intro _ | with_reducible apply Keeps.ite | with_reducible apply State.grpLay_keeps
      | with_reducible apply State.grpMove_keeps | dsimp only | split

theorem State.poolApply_keeps {s0 : State} (s : State) (g : Nat) (h : Keeps s0 s) :
    Keeps s0 (State.poolApply s g) := by
  unfold State.poolApply
  repeat'
    first
      | with_reducible assumption | intro _ | with_reducible apply Keeps.ite | with_reducible apply State.applySlot_keeps
      | with_reducible apply State.grpLive_keeps | dsimp only

end Sys2Proof.Machine
end

