-- ==== Sys2Proof/Laws/KeepRails.lean ====
section
/-!
SUPPORT. The operations of Machine/Rails.lean keep the queue and the invariant.
-/
set_option linter.unusedTactic false
set_option linter.unreachableTactic false
namespace Sys2Proof.Machine

theorem State.setSy_keeps {s0 : State} (s : State) (k : Nat) (v : Syn) (h : Keeps s0 s) :
    Keeps s0 (State.setSy s k v) := by
  unfold State.setSy
  repeat'
    first
      | with_reducible assumption | intro _ | with_reducible apply Keeps.ite | dsimp only
      | (refine Keeps.of ?_; dsimp only; with_reducible apply Keeps.back)

theorem State.setSyFld_keeps {s0 : State} (s : State) (k : Nat) (f : Fld) (v : Nat) (h : Keeps s0 s) :
    Keeps s0 (State.setSyFld s k f v) := by
  unfold State.setSyFld
  repeat'
    first
      | with_reducible assumption | intro _ | with_reducible apply Keeps.ite | with_reducible apply State.setFld_keeps
      | dsimp only

theorem State.syCount_keeps {s0 : State} (s : State) (k : Nat) (f : Fld) (n : Nat) (h : Keeps s0 s) :
    Keeps s0 (State.syCount s k f n) := by
  unfold State.syCount
  repeat'
    first
      | with_reducible assumption | intro _ | with_reducible apply Keeps.ite | with_reducible apply State.bump_keeps
      | dsimp only

theorem State.syIrq_keeps {s0 : State} (s : State) (k b : Nat) (h : Keeps s0 s) :
    Keeps s0 (State.syIrq s k b) := by
  unfold State.syIrq
  repeat'
    first
      | with_reducible assumption | intro _ | with_reducible apply Keeps.ite | with_reducible apply State.irq_keeps | dsimp only

theorem State.setPr_keeps {s0 : State} (s : State) (p : Nat) (v : Pro) (h : Keeps s0 s) :
    Keeps s0 (State.setPr s p v) := by
  unfold State.setPr
  repeat'
    first
      | with_reducible assumption | intro _ | with_reducible apply Keeps.ite | dsimp only
      | (refine Keeps.of ?_; dsimp only; with_reducible apply Keeps.back)

theorem State.setTapFld_keeps {s0 : State} (s : State) (t : Nat) (f : Fld) (v : Nat) (h : Keeps s0 s) :
    Keeps s0 (State.setTapFld s t f v) := by
  unfold State.setTapFld
  repeat'
    first
      | with_reducible assumption | intro _ | with_reducible apply Keeps.ite | with_reducible apply State.setFld_keeps
      | dsimp only

theorem State.tapCount_keeps {s0 : State} (s : State) (t : Nat) (f : Fld) (h : Keeps s0 s) :
    Keeps s0 (State.tapCount s t f) := by
  unfold State.tapCount
  repeat'
    first
      | with_reducible assumption | intro _ | with_reducible apply Keeps.ite | with_reducible apply State.bump_keeps
      | dsimp only

theorem State.synLost_keeps {s0 : State} (s : State) (b : Nat) (h : Keeps s0 s) :
    Keeps s0 (State.synLost s b) := by
  unfold State.synLost
  repeat'
    first
      | with_reducible assumption | intro _ | with_reducible apply Keeps.ite | with_reducible apply State.setSy_keeps
      | with_reducible apply State.setSyFld_keeps | with_reducible apply State.syIrq_keeps | dsimp only
      | (refine Keeps.of ?_; dsimp only; with_reducible apply Keeps.back) | split

theorem State.synLoss_keeps {s0 : State} (s : State) (h : Keeps s0 s) :
    Keeps s0 (State.synLoss s) := by
  unfold State.synLoss
  repeat'
    first
      | with_reducible assumption | intro _ | with_reducible apply Keeps.foldl | with_reducible apply Keeps.foldlFst
      | with_reducible apply Keeps.ite | with_reducible apply State.synLost_keeps | dsimp only

theorem State.tapJudge_keeps {s0 : State} (s : State) (t : Nat) (h : Keeps s0 s) :
    Keeps s0 (State.tapJudge s t) := by
  unfold State.tapJudge
  repeat'
    first
      | with_reducible assumption | intro _ | with_reducible apply Keeps.ite | with_reducible apply State.irq_keeps
      | with_reducible apply State.setTapFld_keeps | dsimp only | split

theorem State.watch_keeps {s0 : State} (s : State) (h : Keeps s0 s) :
    Keeps s0 (State.watch s) := by
  unfold State.watch
  repeat'
    first
      | with_reducible assumption | intro _ | with_reducible apply Keeps.foldl | with_reducible apply Keeps.foldlFst
      | with_reducible apply Keeps.ite | with_reducible apply State.synLoss_keeps | with_reducible apply State.tapJudge_keeps
      | dsimp only

theorem runRails_keeps {s0 : State} (s : State) (f : State → State) (h : Keeps s0 s) (hf : ∀ x, Keeps s0 x → Keeps s0 (f x)) :
    KeepsOut s0 (runRails s f) := by
  unfold runRails
  repeat'
    first
      | with_reducible assumption | intro _ | with_reducible apply hf | with_reducible apply Keeps.ite
      | with_reducible apply KeepsOut.ite | with_reducible apply KeepsOut.fault | with_reducible apply KeepsOut.next
      | with_reducible apply run_keeps | with_reducible apply State.watch_keeps | dsimp only | split

theorem execRailFrameStart_keeps {s0 : State} (rail : Fin 2048) (s : State) (h : Keeps s0 s) :
    KeepsOut s0 (execRailFrameStart rail s) := by
  unfold execRailFrameStart
  repeat'
    first
      | with_reducible assumption | intro _ | with_reducible apply Keeps.ite | with_reducible apply KeepsOut.ite
      | with_reducible apply KeepsOut.fault | with_reducible apply KeepsOut.next | with_reducible apply State.railStart_keeps
      | with_reducible apply runRails_keeps | dsimp only | split

theorem execHoldFrameStart_keeps {s0 : State} (rail : Fin 2048) (s : State) (h : Keeps s0 s) :
    KeepsOut s0 (execHoldFrameStart rail s) := by
  unfold execHoldFrameStart
  repeat'
    first
      | with_reducible assumption | intro _ | with_reducible apply Keeps.ite | with_reducible apply KeepsOut.ite
      | with_reducible apply KeepsOut.fault | with_reducible apply KeepsOut.next | with_reducible apply State.holdStart_keeps
      | with_reducible apply runRails_keeps | dsimp only | split

theorem execGroupRegrid_keeps {s0 : State} (g : Fin 16) (s : State) (h : Keeps s0 s) :
    KeepsOut s0 (execGroupRegrid g s) := by
  unfold execGroupRegrid
  repeat'
    first
      | with_reducible assumption | intro _ | with_reducible apply Keeps.ite | with_reducible apply KeepsOut.ite
      | with_reducible apply KeepsOut.fault | with_reducible apply KeepsOut.next | with_reducible apply State.regroup_keeps
      | with_reducible apply runRails_keeps | dsimp only | split

end Sys2Proof.Machine
end

