-- ==== Sys2Proof/Laws/KeepRotate.lean ====
section
/-!
SUPPORT. The operations of Machine/Rotate.lean keep the queue and the invariant.
-/
set_option linter.unusedTactic false
set_option linter.unreachableTactic false
namespace Sys2Proof.Machine

theorem State.logRepair_keeps {s0 : State} (s : State) (type : Nat) (what : List Nat) (h : Keeps s0 s) :
    Keeps s0 (State.logRepair s type what) := by
  unfold State.logRepair
  split
  · refine h.sound rfl fun i => { i with repairs := ?_ }
    simp only [List.length_append, List.length_singleton]
    omega
  · exact State.err_keeps _ _ _ _ _ h

theorem State.showSwing_keeps {s0 : State} (s : State) (c u : Nat) (on : Bool) (h : Keeps s0 s) :
    Keeps s0 (State.showSwing s c u on) := by
  unfold State.showSwing
  repeat'
    first
      | with_reducible assumption | intro _ | with_reducible apply Keeps.ite | with_reducible apply State.setBit_keeps
      | dsimp only | (refine Keeps.of ?_; dsimp only; with_reducible apply Keeps.back) | split

theorem State.showClass_keeps {s0 : State} (s : State) (c : Nat) (h : Keeps s0 s) :
    Keeps s0 (State.showClass s c) := by
  unfold State.showClass
  repeat'
    first
      | with_reducible assumption | intro _ | with_reducible apply Keeps.ite | with_reducible apply State.setFld_keeps
      | with_reducible apply State.setBit_keeps | dsimp only | (refine Keeps.of ?_; dsimp only; with_reducible apply Keeps.back)
      | split

theorem State.putRot_keeps {s0 : State} (s : State) (c g : Nat) (v : Rot) (h : Keeps s0 s) :
    Keeps s0 (State.putRot s c g v) := by
  unfold State.putRot
  repeat'
    first
      | with_reducible assumption | intro _ | with_reducible apply Keeps.ite | with_reducible apply State.setFld_keeps
      | with_reducible apply State.setRo_keeps | dsimp only | split

theorem State.rotAbort_keeps {s0 : State} (s : State) (c g : Nat) (h : Keeps s0 s) :
    Keeps s0 (State.rotAbort s c g) := by
  unfold State.rotAbort
  repeat'
    first
      | with_reducible assumption | intro _ | with_reducible apply Keeps.ite | with_reducible apply State.bump_keeps
      | with_reducible apply State.putRot_keeps | dsimp only | (refine Keeps.of ?_; dsimp only; with_reducible apply Keeps.back)

theorem State.rotFail_keeps {s0 : State} (s : State) (c g : Nat) (h : Keeps s0 s) :
    Keeps s0 (State.rotFail s c g) := by
  unfold State.rotFail
  repeat'
    first
      | with_reducible assumption | intro _ | with_reducible apply Keeps.ite | with_reducible apply State.irq_keeps
      | with_reducible apply State.rotAbort_keeps | dsimp only

theorem State.rotOut_keeps {s0 : State} (s : State) (c g : Nat) (h : Keeps s0 s) :
    Keeps s0 (State.rotOut s c g) := by
  unfold State.rotOut
  repeat'
    first
      | with_reducible assumption | intro _ | with_reducible apply Keeps.ite | with_reducible apply State.showSwing_keeps
      | with_reducible apply State.showClass_keeps | with_reducible apply State.putRot_keeps | dsimp only
      | (refine Keeps.of ?_; dsimp only; with_reducible apply Keeps.back)

theorem State.rotDone_keeps {s0 : State} (s : State) (c g : Nat) (idlePass : Bool) (h : Keeps s0 s) :
    Keeps s0 (State.rotDone s c g idlePass) := by
  unfold State.rotDone
  repeat'
    first
      | with_reducible assumption | intro _ | with_reducible apply Keeps.foldl | with_reducible apply Keeps.foldlFst
      | with_reducible apply Keeps.ite | with_reducible apply State.setFld_keeps | with_reducible apply State.bump_keeps
      | with_reducible apply State.setRo_keeps | with_reducible apply State.showSwing_keeps
      | with_reducible apply State.showClass_keeps | with_reducible apply State.putRot_keeps | dsimp only
      | (refine Keeps.of ?_; dsimp only; with_reducible apply Keeps.back) | split

theorem State.swingGone_keeps {s0 : State} (s : State) (c g : Nat) (h : Keeps s0 s) :
    Keeps s0 (State.swingGone s c g) := by
  unfold State.swingGone
  repeat'
    first
      | with_reducible assumption | intro _ | with_reducible apply Keeps.ite | with_reducible apply State.setWord_keeps
      | with_reducible apply State.setFld_keeps | with_reducible apply State.irq_keeps | with_reducible apply State.err_keeps
      | with_reducible apply State.putRot_keeps | dsimp only | (refine Keeps.of ?_; dsimp only; with_reducible apply Keeps.back)
      | split

theorem State.retire_keeps {s0 : State} (s : State) (c g unit : Nat) (h : Keeps s0 s) :
    Keeps s0 (State.retire s c g unit) := by
  unfold State.retire
  repeat'
    first
      | with_reducible assumption | intro _ | with_reducible apply Keeps.ite | with_reducible apply State.bump_keeps
      | with_reducible apply State.irq_keeps | with_reducible apply State.err_keeps | with_reducible apply State.logRepair_keeps
      | with_reducible apply State.showClass_keeps | with_reducible apply State.putRot_keeps
      | with_reducible apply State.swingGone_keeps | dsimp only
      | (refine Keeps.of ?_; dsimp only; with_reducible apply Keeps.back)

end Sys2Proof.Machine
end

