-- ==== Sys2Proof/Laws/KeepCue.lean ====
section
/-!
SUPPORT. The operations of Machine/Cue.lean keep the queue and the invariant.
-/
set_option linter.unusedTactic false
set_option linter.unreachableTactic false
namespace Sys2Proof.Machine

theorem State.setInc_keeps {s0 : State} (s : State) (ppt : Int) (h : Keeps s0 s) :
    Keeps s0 (State.setInc s ppt) := by
  unfold State.setInc
  repeat'
    first
      | with_reducible assumption | intro _ | with_reducible apply Keeps.ite | with_reducible apply State.setFld_keeps
      | dsimp only

theorem State.loopSteer_keeps {s0 : State} (s : State) (ppt : Int) (h : Keeps s0 s) :
    Keeps s0 (State.loopSteer s ppt) := by
  unfold State.loopSteer
  repeat'
    first
      | with_reducible assumption | intro _ | with_reducible apply Keeps.ite | with_reducible apply State.setFld_keeps
      | with_reducible apply State.logTod_keeps | with_reducible apply State.keepParity_keeps
      | with_reducible apply State.setInc_keeps | dsimp only | split

theorem State.applyStep_keeps {s0 : State} (s : State) (delta : Int) (h : Keeps s0 s) :
    Keeps s0 (State.applyStep s delta).1 := by
  unfold State.applyStep
  repeat'
    first
      | with_reducible assumption | intro _ | with_reducible apply Keeps.ite | with_reducible apply State.setBit_keeps
      | with_reducible apply State.setFld64_keeps | with_reducible apply State.bump_keeps | with_reducible apply State.irq_keeps
      | dsimp only | (refine Keeps.of ?_; dsimp only; with_reducible apply Keeps.back)
      | (refine Keeps.of ?_; dsimp only; with_reducible apply Keeps.todPut) | split

theorem State.pendingStep_keeps {s0 : State} (s : State) (h : Keeps s0 s) :
    Keeps s0 (State.pendingStep s).1 := by
  unfold State.pendingStep
  repeat'
    first
      | with_reducible assumption | intro _ | with_reducible apply Keeps.ite | with_reducible apply State.setBit_keeps
      | with_reducible apply State.when_keeps | with_reducible apply State.applyStep_keeps | dsimp only
      | (refine Keeps.of ?_; dsimp only; with_reducible apply Keeps.back)
      | (refine Keeps.of ?_; dsimp only; with_reducible apply Keeps.todPut) | split
      | with_reducible refine Keeps.pair (by with_reducible assumption) ?_

theorem State.advance_keeps {s0 : State} (s : State) (h : Keeps s0 s) :
    Keeps s0 (State.advance s) := by
  unfold State.advance
  repeat'
    first
      | with_reducible assumption | intro _ | with_reducible apply Keeps.ite | dsimp only
      | (refine Keeps.of ?_; dsimp only; with_reducible apply Keeps.back)
      | (refine Keeps.of ?_; dsimp only; with_reducible apply Keeps.todPut) | split

theorem State.spanned_keeps {s0 : State} (s : State) (h : Keeps s0 s) :
    Keeps s0 (State.spanned s) := by
  unfold State.spanned
  repeat'
    first
      | with_reducible assumption | intro _ | with_reducible apply Keeps.ite | with_reducible apply State.logTod_keeps
      | dsimp only | split

theorem State.uptick_keeps {s0 : State} (s : State) (h : Keeps s0 s) :
    Keeps s0 (State.uptick s) := by
  unfold State.uptick
  repeat'
    first
      | with_reducible assumption | intro _ | with_reducible apply Keeps.ite | dsimp only
      | (refine Keeps.of ?_; dsimp only; with_reducible apply Keeps.back)

theorem State.jumped_keeps {s0 : State} (s : State) (x0 : Option Int) (h : Keeps s0 s) :
    Keeps s0 (State.jumped s x0) := by
  unfold State.jumped
  repeat'
    first
      | with_reducible assumption | intro _ | with_reducible apply Keeps.ite | with_reducible apply State.grpMoveAll_keeps
      | with_reducible apply State.pitMove_keeps | with_reducible apply State.callMove_keeps | dsimp only | split

theorem State.tick_keeps {s0 : State} (s : State) (h : Keeps s0 s) :
    Keeps s0 (State.tick s) := by
  unfold State.tick
  repeat'
    first
      | with_reducible assumption | intro _ | with_reducible apply Keeps.ite | with_reducible apply State.pendingStep_keeps
      | with_reducible apply State.advance_keeps | with_reducible apply State.spanned_keeps
      | with_reducible apply State.uptick_keeps | with_reducible apply State.jumped_keeps | dsimp only | split
      | with_reducible refine Keeps.pair (by with_reducible assumption) ?_

theorem State.writeAgain_keeps {s0 : State} (s : State) (h : Keeps s0 s) :
    Keeps s0 (State.writeAgain s) := by
  unfold State.writeAgain
  repeat'
    first
      | with_reducible assumption | intro _ | with_reducible apply Keeps.foldl | with_reducible apply Keeps.foldlFst
      | with_reducible apply Keeps.ite | with_reducible apply State.setWord_keeps | dsimp only
      | (refine Keeps.of ?_; dsimp only; with_reducible apply Keeps.back)

theorem State.cueHook_keeps {s0 : State} (s : State) (o : Nat) (eff : W32) (h : Keeps s0 s) :
    Keeps s0 (State.cueHook s o eff) := by
  unfold State.cueHook
  repeat'
    first
      | with_reducible assumption | intro _ | with_reducible apply Keeps.ite | with_reducible apply State.logTod_keeps
      | with_reducible apply State.setInc_keeps | dsimp only | (refine Keeps.of ?_; dsimp only; with_reducible apply Keeps.back)
      | (refine Keeps.of ?_; dsimp only; with_reducible apply Keeps.todPut) | split

theorem State.cueWrite_keeps {s0 : State} (s : State) (a : Acc) (o : Nat) (w : W32) (hw : Option W32) (h : Keeps s0 s) :
    Keeps s0 (State.cueWrite s a o w hw) := by
  unfold State.cueWrite
  repeat'
    first
      | with_reducible assumption | intro _ | with_reducible apply Keeps.ite | with_reducible apply State.storeWord_keeps
      | with_reducible apply State.cueHook_keeps | dsimp only | split

theorem State.latchUpt_keeps {s0 : State} (s : State) (m : Nat) (h : Keeps s0 s) :
    Keeps s0 (State.latchUpt s m).1 := by
  unfold State.latchUpt
  repeat'
    first
      | with_reducible assumption | intro _ | with_reducible apply Keeps.ite | with_reducible apply State.setMreg_keeps
      | dsimp only | split

theorem State.latchTod_keeps {s0 : State} (s : State) (m : Nat) (h : Keeps s0 s) :
    Keeps s0 (State.latchTod s m).1 := by
  unfold State.latchTod
  repeat'
    first
      | with_reducible assumption | intro _ | with_reducible apply Keeps.ite | with_reducible apply State.setMreg_keeps
      | dsimp only | split

theorem execUptimeLatchRead_keeps {s0 : State} (a : Acc) (s : State) (h : Keeps s0 s) :
    KeepsOut s0 (execUptimeLatchRead a s) := by
  unfold execUptimeLatchRead
  repeat'
    first
      | with_reducible assumption | intro _ | with_reducible apply Keeps.ite | with_reducible apply KeepsOut.ite
      | with_reducible apply KeepsOut.fault | with_reducible apply KeepsOut.next | with_reducible apply run_keeps
      | with_reducible apply State.viaRead_keeps | with_reducible apply State.latchUpt_keeps | dsimp only | split
      | with_reducible refine Keeps.pair (by with_reducible assumption) ?_

theorem execTodLatchRead_keeps {s0 : State} (a : Acc) (s : State) (h : Keeps s0 s) :
    KeepsOut s0 (execTodLatchRead a s) := by
  unfold execTodLatchRead
  repeat'
    first
      | with_reducible assumption | intro _ | with_reducible apply Keeps.ite | with_reducible apply KeepsOut.ite
      | with_reducible apply KeepsOut.fault | with_reducible apply KeepsOut.next | with_reducible apply run_keeps
      | with_reducible apply State.viaRead_keeps | with_reducible apply State.latchTod_keeps | dsimp only | split
      | with_reducible refine Keeps.pair (by with_reducible assumption) ?_

theorem execTodStepRequest_keeps {s0 : State} (a : Acc) (word : W32) (s : State) (h : Keeps s0 s) :
    KeepsOut s0 (execTodStepRequest a word s) := by
  unfold execTodStepRequest
  repeat'
    first
      | with_reducible assumption | intro _ | with_reducible apply Keeps.ite | with_reducible apply KeepsOut.ite
      | with_reducible apply KeepsOut.fault | with_reducible apply KeepsOut.next | with_reducible apply run_keeps
      | with_reducible apply State.viaPath_keeps | with_reducible apply State.cueWrite_keeps | dsimp only | split

theorem execTodSteerWrite_keeps {s0 : State} (a : Acc) (word : W32) (hw : Bool) (s : State) (h : Keeps s0 s) :
    KeepsOut s0 (execTodSteerWrite a word hw s) := by
  unfold execTodSteerWrite
  repeat'
    first
      | with_reducible assumption | intro _ | with_reducible apply Keeps.ite | with_reducible apply KeepsOut.ite
      | with_reducible apply KeepsOut.fault | with_reducible apply KeepsOut.next | with_reducible apply run_keeps
      | with_reducible apply State.viaPath_keeps | with_reducible apply State.cueWrite_keeps | dsimp only | split

end Sys2Proof.Machine
end

