-- ==== Sys2Proof/Laws/KeepDram.lean ====
section
/-!
SUPPORT. The operations of Machine/Dram.lean keep the queue and the invariant.
-/
set_option linter.unusedTactic false
set_option linter.unreachableTactic false
namespace Sys2Proof.Machine

theorem State.setCh_keeps {s0 : State} (s : State) (n : Nat) (v : DChan) (h : Keeps s0 s) :
    Keeps s0 (State.setCh s n v) := by
  unfold State.setCh
  repeat'
    first
      | with_reducible assumption | intro _ | with_reducible apply Keeps.ite | dsimp only
      | (refine Keeps.of ?_; dsimp only; with_reducible apply Keeps.back)

theorem State.setBank_keeps {s0 : State} (s : State) (n b : Nat) (v : DBank) (h : Keeps s0 s) :
    Keeps s0 (State.setBank s n b v) := by
  unfold State.setBank
  repeat'
    first
      | with_reducible assumption | intro _ | with_reducible apply Keeps.ite | dsimp only
      | (refine Keeps.of ?_; dsimp only; with_reducible apply Keeps.back)

theorem State.setChUp_keeps {s0 : State} (s : State) (n : Nat) (b : Bool) (h : Keeps s0 s) :
    Keeps s0 (State.setChUp s n b) := by
  unfold State.setChUp
  repeat'
    first
      | with_reducible assumption | intro _ | with_reducible apply Keeps.ite | with_reducible apply State.setWord_keeps
      | dsimp only

theorem State.busErr_keeps {s0 : State} (s : State) (req : Nat) (abort : Bool) (h : Keeps s0 s) :
    Keeps s0 (State.busErr s req abort) := by
  unfold State.busErr
  repeat'
    first
      | with_reducible assumption | intro _ | with_reducible apply Keeps.ite | with_reducible apply State.bump_keeps
      | with_reducible apply State.answer_keeps | dsimp only | split

theorem State.reply_keeps {s0 : State} (s : State) (q : DReq) (k : RespKind) (data : List Byte) (h : Keeps s0 s) :
    Keeps s0 (State.reply s q k data) := by
  unfold State.reply
  repeat'
    first
      | with_reducible assumption | intro _ | with_reducible apply Keeps.ite | dsimp only
      | (refine Keeps.of ?_; dsimp only; with_reducible apply Keeps.back) | split

theorem State.failReq_keeps {s0 : State} (s : State) (q : DReq) (abort : Bool) (h : Keeps s0 s) :
    Keeps s0 (State.failReq s q abort) := by
  unfold State.failReq
  repeat'
    first
      | with_reducible assumption | intro _ | with_reducible apply Keeps.ite | with_reducible apply State.reply_keeps
      | dsimp only | split

theorem State.ackSent_keeps {s0 : State} (s : State) (a : DAck) (h : Keeps s0 s) :
    Keeps s0 (State.ackSent s a) := by
  unfold State.ackSent
  repeat'
    first
      | with_reducible assumption | intro _ | with_reducible apply Keeps.ite | with_reducible apply State.bump_keeps
      | with_reducible apply State.when_keeps | with_reducible apply State.answer_keeps | dsimp only
      | (refine Keeps.of ?_; dsimp only; with_reducible apply Keeps.back)

theorem State.deliver_keeps {s0 : State} (s : State) (x0 : Nat) (h : Keeps s0 s) :
    Keeps s0 (State.deliver s x0) := by
  induction x0 generalizing s with
  | zero => exact h
  | succ k ih =>
    simp only [State.deliver]
    split
    · exact ih _ (State.ackSent_keeps _ _ h)
    · exact h

theorem State.setErr_keeps {s0 : State} (s : State) (addr c e : Nat) (h : Keeps s0 s) :
    Keeps s0 (State.setErr s addr c e) := by
  unfold State.setErr
  repeat'
    first
      | with_reducible assumption | intro _ | with_reducible apply Keeps.ite | dsimp only
      | (refine Keeps.of ?_; dsimp only; with_reducible apply Keeps.back)

theorem State.putGranule_keeps {s0 : State} (s : State) (addr : Nat) (data : List Byte) (h : Keeps s0 s) :
    Keeps s0 (State.putGranule s addr data) := by
  unfold State.putGranule
  refine Keeps.foldl ?_ fun x c hx => State.setErr_keeps _ _ _ _ hx
  exact h.sound rfl fun i => { i with dram := Memory.wf_writeAll _ data i.dram }

theorem State.flipWrite_keeps {s0 : State} (s : State) (n req addr : Nat) (h : Keeps s0 s) :
    Keeps s0 (State.flipWrite s n req addr) := by
  unfold State.flipWrite
  repeat'
    first
      | with_reducible assumption | intro _ | with_reducible apply Keeps.ite | with_reducible apply State.setBit_keeps
      | with_reducible apply State.setFld64_keeps | with_reducible apply State.irq_keeps
      | with_reducible apply State.setCh_keeps | with_reducible apply State.setErr_keeps | dsimp only
      | (refine Keeps.of ?_; dsimp only; with_reducible apply Keeps.back) | split

theorem State.autoRetire_keeps {s0 : State} (s : State) (n d : Nat) (h : Keeps s0 s) :
    Keeps s0 (State.autoRetire s n d) := by
  unfold State.autoRetire
  repeat'
    first
      | with_reducible assumption | intro _ | with_reducible apply Keeps.ite | with_reducible apply State.setFld_keeps
      | with_reducible apply State.irq_keeps | with_reducible apply State.err_keeps | with_reducible apply State.logRepair_keeps
      | dsimp only | split

theorem State.corrected_keeps {s0 : State} (s : State) (n req addr : Nat) (g : GrResult) (h : Keeps s0 s) :
    Keeps s0 (State.corrected s n req addr g) := by
  unfold State.corrected
  repeat'
    first
      | with_reducible assumption | intro _ | with_reducible apply Keeps.foldl | with_reducible apply Keeps.foldlFst
      | with_reducible apply Keeps.ite | with_reducible apply State.setFld_keeps | with_reducible apply State.setFld64_keeps
      | with_reducible apply State.bump_keeps | with_reducible apply State.irq_keeps
      | with_reducible apply State.autoRetire_keeps | dsimp only
      | (refine Keeps.of ?_; dsimp only; with_reducible apply Keeps.back) | split

theorem State.noteCorrected_keeps {s0 : State} (s : State) (n req addr : Nat) (g : GrResult) (h : Keeps s0 s) :
    Keeps s0 (State.noteCorrected s n req addr g) := by
  unfold State.noteCorrected
  repeat'
    first
      | with_reducible assumption | intro _ | with_reducible apply Keeps.ite | with_reducible apply State.corrected_keeps
      | dsimp only | split

theorem State.ueSeen_keeps {s0 : State} (s : State) (n req acc addr : Nat) (h : Keeps s0 s) :
    Keeps s0 (State.ueSeen s n req acc addr) := by
  unfold State.ueSeen
  repeat'
    first
      | with_reducible assumption | intro _ | with_reducible apply Keeps.ite | with_reducible apply State.bump_keeps
      | with_reducible apply State.irq_keeps | with_reducible apply State.capture_keeps | dsimp only

theorem State.uncorrectable_keeps {s0 : State} (s : State) (n : Nat) (q : DReq) (h : Keeps s0 s) :
    Keeps s0 (State.uncorrectable s n q) := by
  unfold State.uncorrectable
  repeat'
    first
      | with_reducible assumption | intro _ | with_reducible apply Keeps.ite | with_reducible apply State.failReq_keeps
      | with_reducible apply State.ueSeen_keeps | dsimp only

theorem State.chRefused_keeps {s0 : State} (s : State) (n req acc addr : Nat) (h : Keeps s0 s) :
    Keeps s0 (State.chRefused s n req acc addr) := by
  unfold State.chRefused
  repeat'
    first
      | with_reducible assumption | intro _ | with_reducible apply Keeps.ite | with_reducible apply State.bump_keeps
      | with_reducible apply State.irq_keeps | with_reducible apply State.capture_keeps | dsimp only

theorem State.deliverAll_keeps {s0 : State} (s : State) (h : Keeps s0 s) :
    Keeps s0 (State.deliverAll s) := by
  unfold State.deliverAll
  repeat'
    first
      | with_reducible assumption | intro _ | with_reducible apply Keeps.ite | with_reducible apply State.deliver_keeps
      | dsimp only

theorem State.writeGranule_keeps {s0 : State} (s : State) (n req acc addr : Nat) (data : List (Option Byte)) (noise : List (Nat × Nat)) (h : Keeps s0 s) :
    Keeps s0 (State.writeGranule s n req acc addr data noise).1 := by
  unfold State.writeGranule
  repeat'
    first
      | with_reducible assumption | intro _ | with_reducible apply Keeps.ite | with_reducible apply State.bump_keeps
      | with_reducible apply State.capture_keeps | with_reducible apply State.putGranule_keeps
      | with_reducible apply State.flipWrite_keeps | with_reducible apply State.noteCorrected_keeps | dsimp only | split

theorem State.granuleSeen_keeps {s0 : State} (s : State) (req g : Nat) (bad : Bool) (h : Keeps s0 s) :
    Keeps s0 (State.granuleSeen s req g bad) := by
  unfold State.granuleSeen
  repeat'
    first
      | with_reducible assumption | intro _ | with_reducible apply Keeps.ite | with_reducible apply State.capture_keeps
      | with_reducible apply State.noteCorrected_keeps | with_reducible apply State.ueSeen_keeps
      | with_reducible apply State.chRefused_keeps | dsimp only | split

theorem State.areaSeen_keeps {s0 : State} (s : State) (req a n : Nat) (bad : List Nat) (h : Keeps s0 s) :
    Keeps s0 (State.areaSeen s req a n bad) := by
  unfold State.areaSeen
  repeat'
    first
      | with_reducible assumption | intro _ | with_reducible apply Keeps.foldl | with_reducible apply Keeps.foldlFst
      | with_reducible apply Keeps.ite | with_reducible apply State.granuleSeen_keeps | dsimp only

theorem State.freeBytes_keeps {s0 : State} (s : State) (n : Nat) (h : Keeps s0 s) :
    Keeps s0 (State.freeBytes s n).1 := by
  unfold State.freeBytes
  repeat'
    first
      | with_reducible assumption | intro _ | with_reducible apply Keeps.ite | dsimp only
      | (refine Keeps.of ?_; dsimp only; with_reducible apply Keeps.back) | split

theorem State.engineRead_keeps {s0 : State} (s : State) (req a n : Nat) (h : Keeps s0 s) :
    Keeps s0 (State.engineRead s req a n).1 := by
  unfold State.engineRead
  repeat'
    first
      | with_reducible assumption | intro _ | with_reducible apply Keeps.ite | with_reducible apply State.areaSeen_keeps
      | with_reducible apply State.freeBytes_keeps | dsimp only | split
      | with_reducible refine Keeps.pair (by with_reducible assumption) ?_

theorem State.engineGranule_keeps {s0 : State} (s : State) (req addr : Nat) (l : List Byte) (h : Keeps s0 s) :
    Keeps s0 (State.engineGranule s req addr l).1 := by
  unfold State.engineGranule
  repeat'
    first
      | with_reducible assumption | intro _ | with_reducible apply Keeps.ite | with_reducible apply State.capture_keeps
      | with_reducible apply State.chRefused_keeps | with_reducible apply State.writeGranule_keeps | dsimp only | split
      | with_reducible refine Keeps.pair (by with_reducible assumption) ?_

theorem State.engineWrite_keeps {s0 : State} (s : State) (req a : Nat) (l : List Byte) (h : Keeps s0 s) :
    Keeps s0 (State.engineWrite s req a l) := by
  unfold State.engineWrite
  repeat'
    first
      | with_reducible assumption | intro _ | with_reducible apply Keeps.foldl | with_reducible apply Keeps.foldlFst
      | with_reducible apply Keeps.ite | with_reducible apply State.engineGranule_keeps | dsimp only
      | with_reducible refine Keeps.pair (by with_reducible assumption) ?_

theorem State.masterWrite_keeps {s0 : State} (s : State) (req a : Nat) (l : List Byte) (h : Keeps s0 s) :
    Keeps s0 (State.masterWrite s req a l).1 := by
  unfold State.masterWrite
  repeat'
    first
      | with_reducible assumption | intro _ | with_reducible apply Keeps.foldl | with_reducible apply Keeps.foldlFst
      | with_reducible apply Keeps.ite | with_reducible apply State.engineGranule_keeps | dsimp only | split
      | with_reducible refine Keeps.pair (by with_reducible assumption) ?_

theorem State.masterRead_keeps {s0 : State} (s : State) (req a n : Nat) (h : Keeps s0 s) :
    Keeps s0 (State.masterRead s req a n).1 := by
  unfold State.masterRead
  repeat'
    first
      | with_reducible assumption | intro _ | with_reducible apply Keeps.ite | with_reducible apply State.areaSeen_keeps
      | dsimp only | (refine Keeps.of ?_; dsimp only; with_reducible apply Keeps.back) | split

theorem State.performWrite_keeps {s0 : State} (s : State) (n : Nat) (q : DReq) (data : List (Option Byte)) (h : Keeps s0 s) :
    Keeps s0 (State.performWrite s n q data) := by
  unfold State.performWrite
  repeat'
    first
      | with_reducible assumption | intro _ | with_reducible apply Keeps.ite | with_reducible apply State.reply_keeps
      | with_reducible apply State.failReq_keeps | with_reducible apply State.writeGranule_keeps | dsimp only | split
      | with_reducible refine Keeps.pair (by with_reducible assumption) ?_

theorem State.performAtomic_keeps {s0 : State} (s : State) (n : Nat) (q : DReq) (op : Nat) (data : List Byte) (h : Keeps s0 s) :
    Keeps s0 (State.performAtomic s n q op data) := by
  unfold State.performAtomic
  repeat'
    first
      | with_reducible assumption | intro _ | with_reducible apply Keeps.ite | with_reducible apply State.reply_keeps
      | with_reducible apply State.putGranule_keeps | with_reducible apply State.flipWrite_keeps
      | with_reducible apply State.noteCorrected_keeps | with_reducible apply State.uncorrectable_keeps | dsimp only | split

theorem State.activate_keeps {s0 : State} (s : State) (n b x : Nat) (h : Keeps s0 s) :
    Keeps s0 (State.activate s n b x) := by
  unfold State.activate
  repeat'
    first
      | with_reducible assumption | intro _ | with_reducible apply Keeps.ite | with_reducible apply State.bump_keeps
      | with_reducible apply State.irq_keeps | with_reducible apply State.fresh_keeps | with_reducible apply State.setBank_keeps
      | dsimp only | (refine Keeps.of ?_; dsimp only; with_reducible apply Keeps.back) | split

theorem State.column_keeps {s0 : State} (s : State) (n : Nat) (q : DReq) (h : Keeps s0 s) :
    Keeps s0 (State.column s n q) := by
  unfold State.column
  repeat'
    first
      | with_reducible assumption | intro _ | with_reducible apply Keeps.ite | with_reducible apply State.setBit_keeps
      | with_reducible apply State.bump_keeps | with_reducible apply State.when_keeps | with_reducible apply State.fresh_keeps
      | with_reducible apply State.setCh_keeps | with_reducible apply State.setBank_keeps
      | with_reducible apply State.performWrite_keeps | with_reducible apply State.performAtomic_keeps | dsimp only
      | (refine Keeps.of ?_; dsimp only; with_reducible apply Keeps.back) | split

theorem State.openRow_keeps {s0 : State} (s : State) (n : Nat) (cls : List DReq) (h : Keeps s0 s) :
    ∀ t, State.openRow s n cls = some t → Keeps s0 t := by
  intro t e
  simp only [State.openRow, Option.bind_eq_some_iff, Option.map_eq_some_iff] at e
  obtain ⟨p, -, q, -, rfl⟩ := e
  exact State.column_keeps _ _ _ (State.setCh_keeps _ _ _ (State.activate_keeps _ _ _ _ h))

theorem State.issue1_keeps {s0 : State} (s : State) (n : Nat) (h : Keeps s0 s) :
    ∀ t, State.issue1 s n = some t → Keeps s0 t := by
  intro t e
  simp only [State.issue1] at e
  obtain ⟨cls, -, e⟩ := List.exists_of_findSome?_eq_some e
  split at e
  · injection e with e
    exact e ▸ State.column_keeps _ _ _ h
  · exact State.openRow_keeps _ _ _ h _ e

theorem State.issue_keeps {s0 : State} (s : State) (n k : Nat) (h : Keeps s0 s) : Keeps s0 (State.issue s n k) := by
  induction k generalizing s with
  | zero => exact h
  | succ k ih =>
    simp only [State.issue]
    split
    · rename_i t e
      exact ih t (State.issue1_keeps s n h t e)
    · exact h

theorem State.refresh_keeps {s0 : State} (s : State) (n k : Nat) (h : Keeps s0 s) :
    Keeps s0 (State.refresh s n k) := by
  unfold State.refresh
  repeat'
    first
      | with_reducible assumption | intro _ | with_reducible apply Keeps.foldl | with_reducible apply Keeps.foldlFst
      | with_reducible apply Keeps.ite | with_reducible apply State.bump_keeps | with_reducible apply State.setBank_keeps
      | dsimp only | (refine Keeps.of ?_; dsimp only; with_reducible apply Keeps.back) | split

theorem State.settle_keeps {s0 : State} (s : State) (n : Nat) (h : Keeps s0 s) :
    Keeps s0 (State.settle s n) := by
  unfold State.settle
  repeat'
    first
      | with_reducible assumption | intro _ | with_reducible apply Keeps.ite | with_reducible apply State.setFld_keeps
      | with_reducible apply State.setCh_keeps | with_reducible apply State.refresh_keeps | dsimp only
      | (refine Keeps.of ?_; dsimp only; with_reducible apply Keeps.back) | split

theorem State.enter_keeps {s0 : State} (s : State) (n : Nat) (q : DReq) (h : Keeps s0 s) :
    Keeps s0 (State.enter s n q) := by
  unfold State.enter
  repeat'
    first
      | with_reducible assumption | intro _ | with_reducible apply Keeps.ite | with_reducible apply State.setBit_keeps
      | with_reducible apply State.when_keeps | with_reducible apply State.setCh_keeps | dsimp only
      | (refine Keeps.of ?_; dsimp only; with_reducible apply Keeps.back) | split

theorem State.letIn_keeps {s0 : State} (s : State) (n : Nat) (h : Keeps s0 s) :
    Keeps s0 (State.letIn s n) := by
  unfold State.letIn
  repeat'
    first
      | with_reducible assumption | intro _ | with_reducible apply Keeps.foldl | with_reducible apply Keeps.foldlFst
      | with_reducible apply Keeps.ite | with_reducible apply State.setCh_keeps | with_reducible apply State.enter_keeps
      | dsimp only | (refine Keeps.of ?_; dsimp only; with_reducible apply Keeps.back) | split

theorem State.showInfl_keeps {s0 : State} (s : State) (n : Nat) (h : Keeps s0 s) :
    Keeps s0 (State.showInfl s n) := by
  unfold State.showInfl
  repeat'
    first
      | with_reducible assumption | intro _ | with_reducible apply Keeps.ite | with_reducible apply State.setFld_keeps
      | dsimp only

theorem State.work_keeps {s0 : State} (s : State) (n k : Nat) (h : Keeps s0 s) :
    Keeps s0 (State.work s n k) := by
  unfold State.work
  repeat'
    first
      | with_reducible assumption | intro _ | with_reducible apply Keeps.ite | with_reducible apply State.deliverAll_keeps
      | with_reducible apply State.issue_keeps | with_reducible apply State.settle_keeps
      | with_reducible apply State.letIn_keeps | with_reducible apply State.showInfl_keeps | dsimp only

theorem State.unavailable_keeps {s0 : State} (s : State) (n : Nat) (q : DReq) (h : Keeps s0 s) :
    Keeps s0 (State.unavailable s n q) := by
  unfold State.unavailable
  repeat'
    first
      | with_reducible assumption | intro _ | with_reducible apply Keeps.ite | with_reducible apply State.failReq_keeps
      | with_reducible apply State.chRefused_keeps | dsimp only

theorem State.granuleRequest_keeps {s0 : State} (s : State) (req addr : Nat) (op : DramOp) (noise : List (Nat × Nat)) (k : Nat) (h : Keeps s0 s) :
    Keeps s0 (State.granuleRequest s req addr op noise k) := by
  unfold State.granuleRequest
  repeat'
    first
      | with_reducible assumption | intro _ | with_reducible apply Keeps.ite | with_reducible apply State.capture_keeps
      | with_reducible apply State.setCh_keeps | with_reducible apply State.reply_keeps
      | with_reducible apply State.failReq_keeps | with_reducible apply State.deliverAll_keeps
      | with_reducible apply State.enter_keeps | with_reducible apply State.work_keeps
      | with_reducible apply State.unavailable_keeps | dsimp only
      | (refine Keeps.of ?_; dsimp only; with_reducible apply Keeps.back) | split

theorem State.dramRequest_keeps {s0 : State} (s : State) (req addr : Nat) (op : DramOp) (noise : List (Nat × Nat)) (k : Nat) (h : Keeps s0 s) :
    Keeps s0 (State.dramRequest s req addr op noise k) := by
  unfold State.dramRequest
  repeat'
    first
      | with_reducible assumption | intro _ | with_reducible apply Keeps.foldl | with_reducible apply Keeps.foldlFst
      | with_reducible apply Keeps.ite | with_reducible apply State.bump_keeps | with_reducible apply State.when_keeps
      | with_reducible apply State.granuleRequest_keeps | dsimp only | split

theorem State.scrubbed_keeps {s0 : State} (s : State) (n : Nat) (q : DReq) (g : GrResult) (h : Keeps s0 s) :
    Keeps s0 (State.scrubbed s n q g) := by
  unfold State.scrubbed
  repeat'
    first
      | with_reducible assumption | intro _ | with_reducible apply Keeps.ite | with_reducible apply State.setFld_keeps
      | with_reducible apply State.setFld64_keeps | with_reducible apply State.bump_keeps | with_reducible apply State.irq_keeps
      | with_reducible apply State.capture_keeps | with_reducible apply State.putGranule_keeps
      | with_reducible apply State.corrected_keeps | dsimp only | split

theorem State.readDone_keeps {s0 : State} (s : State) (n : Nat) (noise : List (Nat × Nat)) (k : Nat) (h : Keeps s0 s) :
    Keeps s0 (State.readDone s n noise k) := by
  unfold State.readDone
  repeat'
    first
      | with_reducible assumption | intro _ | with_reducible apply Keeps.foldl | with_reducible apply Keeps.foldlFst
      | with_reducible apply Keeps.ite | with_reducible apply State.setCh_keeps | with_reducible apply State.reply_keeps
      | with_reducible apply State.noteCorrected_keeps | with_reducible apply State.uncorrectable_keeps
      | with_reducible apply State.work_keeps | with_reducible apply State.scrubbed_keeps | dsimp only
      | (refine Keeps.of ?_; dsimp only; with_reducible apply Keeps.back) | split

theorem State.chLost_keeps {s0 : State} (s : State) (n : Nat) (h : Keeps s0 s) :
    Keeps s0 (State.chLost s n) := by
  unfold State.chLost
  repeat'
    first
      | with_reducible assumption | intro _ | with_reducible apply Keeps.foldl | with_reducible apply Keeps.foldlFst
      | with_reducible apply Keeps.ite | with_reducible apply State.setBit_keeps | with_reducible apply State.setFld64_keeps
      | with_reducible apply State.fresh_keeps | with_reducible apply State.setCh_keeps
      | with_reducible apply State.setBank_keeps | with_reducible apply State.setChUp_keeps
      | with_reducible apply State.deliverAll_keeps | with_reducible apply State.showInfl_keeps
      | with_reducible apply State.unavailable_keeps | dsimp only
      | (refine Keeps.of ?_; dsimp only; with_reducible apply Keeps.back) | split

theorem State.trackPass_keeps {s0 : State} (s : State) (n : Nat) (want : List Int) (h : Keeps s0 s) :
    Keeps s0 (State.trackPass s n want) := by
  unfold State.trackPass
  repeat'
    first
      | with_reducible assumption | intro _ | with_reducible apply Keeps.foldl | with_reducible apply Keeps.foldlFst
      | with_reducible apply Keeps.ite | with_reducible apply State.setFld_keeps | with_reducible apply State.bump_keeps
      | with_reducible apply State.irq_keeps | with_reducible apply State.when_keeps | with_reducible apply State.err_keeps
      | dsimp only | split

theorem State.chBack_keeps {s0 : State} (s : State) (n : Nat) (h : Keeps s0 s) :
    Keeps s0 (State.chBack s n) := by
  unfold State.chBack
  repeat'
    first
      | with_reducible assumption | intro _ | with_reducible apply Keeps.ite | with_reducible apply State.setBit_keeps
      | with_reducible apply State.irq_keeps | with_reducible apply State.fresh_keeps | with_reducible apply State.setChUp_keeps
      | with_reducible apply State.trackPass_keeps | dsimp only | split

theorem State.fullTick_keeps {s0 : State} (s : State) (was : Nat) (h : Keeps s0 s) :
    Keeps s0 (State.fullTick s was) := by
  unfold State.fullTick
  repeat'
    first
      | with_reducible assumption | intro _ | with_reducible apply Keeps.foldl | with_reducible apply Keeps.foldlFst
      | with_reducible apply Keeps.ite | with_reducible apply State.bump_keeps | with_reducible apply State.when_keeps
      | dsimp only

theorem execTodTick_keeps {s0 : State} (s : State) (h : Keeps s0 s) :
    KeepsOut s0 (execTodTick s) := by
  unfold execTodTick
  repeat'
    first
      | with_reducible assumption | intro _ | with_reducible apply Keeps.ite | with_reducible apply KeepsOut.ite
      | with_reducible apply KeepsOut.fault | with_reducible apply KeepsOut.next | with_reducible apply run_keeps
      | with_reducible apply State.tick_keeps | with_reducible apply State.writeAgain_keeps
      | with_reducible apply State.fullTick_keeps | dsimp only | split

theorem execDramReadComplete_keeps {s0 : State} (ch : Fin 8) (noise : List (Nat × Nat)) (k : Nat) (s : State) (h : Keeps s0 s) :
    KeepsOut s0 (execDramReadComplete ch noise k s) := by
  unfold execDramReadComplete
  repeat'
    first
      | with_reducible assumption | intro _ | with_reducible apply Keeps.ite | with_reducible apply KeepsOut.ite
      | with_reducible apply KeepsOut.fault | with_reducible apply KeepsOut.next | with_reducible apply run_keeps
      | with_reducible apply State.readDone_keeps | dsimp only | split

theorem execRhWindowBoundary_keeps {s0 : State} (ch : Fin 8) (s : State) (h : Keeps s0 s) :
    KeepsOut s0 (execRhWindowBoundary ch s) := by
  unfold execRhWindowBoundary
  repeat'
    first
      | with_reducible assumption | intro _ | with_reducible apply Keeps.foldl | with_reducible apply Keeps.foldlFst
      | with_reducible apply Keeps.ite | with_reducible apply KeepsOut.ite | with_reducible apply KeepsOut.fault
      | with_reducible apply KeepsOut.next | with_reducible apply run_keeps | with_reducible apply State.setCh_keeps
      | with_reducible apply State.setBank_keeps | dsimp only
      | (refine Keeps.of ?_; dsimp only; with_reducible apply Keeps.back) | split

theorem execDramRefreshDue_keeps {s0 : State} (ch : Fin 8) (s : State) (h : Keeps s0 s) :
    KeepsOut s0 (execDramRefreshDue ch s) := by
  unfold execDramRefreshDue
  repeat'
    first
      | with_reducible assumption | intro _ | with_reducible apply Keeps.ite | with_reducible apply KeepsOut.ite
      | with_reducible apply KeepsOut.fault | with_reducible apply KeepsOut.next | with_reducible apply State.setFld_keeps
      | with_reducible apply State.bump_keeps | with_reducible apply run_keeps | with_reducible apply State.setCh_keeps
      | with_reducible apply State.refresh_keeps | with_reducible apply State.settle_keeps | dsimp only
      | (refine Keeps.of ?_; dsimp only; with_reducible apply Keeps.back) | split

theorem execDramTempPoll_keeps {s0 : State} (ch : Fin 8) (hot : Bool) (s : State) (h : Keeps s0 s) :
    KeepsOut s0 (execDramTempPoll ch hot s) := by
  unfold execDramTempPoll
  repeat'
    first
      | with_reducible assumption | intro _ | with_reducible apply Keeps.ite | with_reducible apply KeepsOut.ite
      | with_reducible apply KeepsOut.fault | with_reducible apply KeepsOut.next | with_reducible apply State.setBit_keeps
      | with_reducible apply State.irq_keeps | with_reducible apply State.when_keeps | with_reducible apply run_keeps
      | with_reducible apply State.setCh_keeps | dsimp only | (refine Keeps.of ?_; dsimp only; with_reducible apply Keeps.back)
      | split

theorem execPageIdleClose_keeps {s0 : State} (ch : Fin 8) (bank : Fin 32) (s : State) (h : Keeps s0 s) :
    KeepsOut s0 (execPageIdleClose ch bank s) := by
  unfold execPageIdleClose
  repeat'
    first
      | with_reducible assumption | intro _ | with_reducible apply Keeps.ite | with_reducible apply KeepsOut.ite
      | with_reducible apply KeepsOut.fault | with_reducible apply KeepsOut.next | with_reducible apply run_keeps
      | with_reducible apply State.setBank_keeps | dsimp only
      | (refine Keeps.of ?_; dsimp only; with_reducible apply Keeps.back) | split

theorem execPageStarveClose_keeps {s0 : State} (ch : Fin 8) (bank : Fin 32) (s : State) (h : Keeps s0 s) :
    KeepsOut s0 (execPageStarveClose ch bank s) := by
  unfold execPageStarveClose
  repeat'
    first
      | with_reducible assumption | intro _ | with_reducible apply Keeps.ite | with_reducible apply KeepsOut.ite
      | with_reducible apply KeepsOut.fault | with_reducible apply KeepsOut.next | with_reducible apply run_keeps
      | with_reducible apply State.setBank_keeps | dsimp only
      | (refine Keeps.of ?_; dsimp only; with_reducible apply Keeps.back) | split

theorem execWriteDrainAge_keeps {s0 : State} (ch : Fin 8) (s : State) (h : Keeps s0 s) :
    KeepsOut s0 (execWriteDrainAge ch s) := by
  unfold execWriteDrainAge
  repeat'
    first
      | with_reducible assumption | intro _ | with_reducible apply Keeps.ite | with_reducible apply KeepsOut.ite
      | with_reducible apply KeepsOut.fault | with_reducible apply KeepsOut.next | with_reducible apply State.setBit_keeps
      | with_reducible apply run_keeps | dsimp only | (refine Keeps.of ?_; dsimp only; with_reducible apply Keeps.back) | split

theorem execDramDriftTrack_keeps {s0 : State} (ch : Fin 8) (want : List Int) (s : State) (h : Keeps s0 s) :
    KeepsOut s0 (execDramDriftTrack ch want s) := by
  unfold execDramDriftTrack
  repeat'
    first
      | with_reducible assumption | intro _ | with_reducible apply Keeps.ite | with_reducible apply KeepsOut.ite
      | with_reducible apply KeepsOut.fault | with_reducible apply KeepsOut.next | with_reducible apply run_keeps
      | with_reducible apply State.setCh_keeps | with_reducible apply State.trackPass_keeps | dsimp only
      | (refine Keeps.of ?_; dsimp only; with_reducible apply Keeps.back) | split
      | with_reducible refine State.track_keeps (by with_reducible assumption) ?_

end Sys2Proof.Machine
end

