-- ==== Sys2Proof/Laws/KeepProtect.lean ====
section
/-!
SUPPORT. The operations of Machine/Protect.lean keep the queue and the invariant.
-/
set_option linter.unusedTactic false
set_option linter.unreachableTactic false
namespace Sys2Proof.Machine

theorem State.retireHook_keeps {s0 : State} (s pre : State) (a : Acc) (n old : Nat) (auto : Option Nat) (h : Keeps s0 s) :
    Keeps s0 (State.retireHook s pre a n old auto) := by
  unfold State.retireHook
  repeat'
    first
      | with_reducible assumption | intro _ | with_reducible apply Keeps.ite | with_reducible apply State.setFld_keeps
      | with_reducible apply State.setBit_keeps | with_reducible apply State.when_keeps
      | with_reducible apply State.accErr_keeps | with_reducible apply State.sameArmed_keeps
      | with_reducible apply State.logRepair_keeps | with_reducible apply State.autoRetire_keeps | dsimp only
      | (refine Keeps.of ?_; dsimp only; with_reducible apply Keeps.back) | split

theorem State.dprWrite_keeps {s0 : State} (s : State) (a : Acc) (n o : Nat) (w : W32) (auto : Option Nat) (h : Keeps s0 s) :
    Keeps s0 (State.dprWrite s a n o w auto) := by
  unfold State.dprWrite
  repeat'
    first
      | with_reducible assumption | intro _ | with_reducible apply Keeps.ite | with_reducible apply State.storeWord_keeps
      | with_reducible apply State.retireHook_keeps | dsimp only | split

theorem State.pprGo_keeps {s0 : State} (s : State) (a : Acc) (n : Nat) (h : Keeps s0 s) :
    Keeps s0 (State.pprGo s a n) := by
  unfold State.pprGo
  repeat'
    first
      | with_reducible assumption | intro _ | with_reducible apply Keeps.ite | with_reducible apply State.setBit_keeps
      | with_reducible apply State.accErr_keeps | with_reducible apply State.setCh_keeps | dsimp only
      | (refine Keeps.of ?_; dsimp only; with_reducible apply Keeps.back) | split

theorem State.pprWrite_keeps {s0 : State} (s : State) (a : Acc) (n o : Nat) (w : W32) (h : Keeps s0 s) :
    Keeps s0 (State.pprWrite s a n o w) := by
  unfold State.pprWrite
  repeat'
    first
      | with_reducible assumption | intro _ | with_reducible apply Keeps.ite | with_reducible apply State.storeWord_keeps
      | with_reducible apply State.pprGo_keeps | dsimp only | split

theorem State.pprGranule_keeps {s0 : State} (s : State) (n addr : Nat) (noise : List (Nat × Nat)) (h : Keeps s0 s) :
    Keeps s0 (State.pprGranule s n addr noise) := by
  unfold State.pprGranule
  repeat'
    first
      | with_reducible assumption | intro _ | with_reducible apply Keeps.foldl | with_reducible apply Keeps.foldlFst
      | with_reducible apply Keeps.ite | with_reducible apply State.fresh_keeps | with_reducible apply State.setErr_keeps
      | with_reducible apply State.putGranule_keeps | with_reducible apply State.noteCorrected_keeps | dsimp only | split

theorem State.pprDone_keeps {s0 : State} (s : State) (n : Nat) (spare : Bool) (noise : List (Nat × Nat × Nat)) (h : Keeps s0 s) :
    Keeps s0 (State.pprDone s n spare noise) := by
  unfold State.pprDone
  repeat'
    first
      | with_reducible assumption | intro _ | with_reducible apply Keeps.foldl | with_reducible apply Keeps.foldlFst
      | with_reducible apply Keeps.ite | with_reducible apply State.setFld_keeps | with_reducible apply State.setBit_keeps
      | with_reducible apply State.bump_keeps | with_reducible apply State.irq_keeps | with_reducible apply State.err_keeps
      | with_reducible apply State.logRepair_keeps | with_reducible apply State.setCh_keeps
      | with_reducible apply State.pprGranule_keeps | dsimp only
      | (refine Keeps.of ?_; dsimp only; with_reducible apply Keeps.back) | split

theorem State.scrubIssue_keeps {s0 : State} (s : State) (n : Nat) (h : Keeps s0 s) :
    Keeps s0 (State.scrubIssue s n) := by
  unfold State.scrubIssue
  repeat'
    first
      | with_reducible assumption | intro _ | with_reducible apply Keeps.ite | with_reducible apply State.setFld64_keeps
      | with_reducible apply State.when_keeps | with_reducible apply State.setCh_keeps
      | with_reducible apply State.activate_keeps | with_reducible apply State.column_keeps | dsimp only
      | (refine Keeps.of ?_; dsimp only; with_reducible apply Keeps.back) | split

theorem State.dramFlip_keeps {s0 : State} (s : State) (n : Nat) (h : Keeps s0 s) :
    Keeps s0 (State.dramFlip s n) := by
  unfold State.dramFlip
  repeat'
    first
      | with_reducible assumption | intro _ | with_reducible apply Keeps.foldl | with_reducible apply Keeps.foldlFst
      | with_reducible apply Keeps.ite | with_reducible apply State.setBit_keeps | with_reducible apply State.setCh_keeps
      | dsimp only | (refine Keeps.of ?_; dsimp only; with_reducible apply Keeps.back) | split

theorem State.dflipWrite_keeps {s0 : State} (s : State) (a : Acc) (n o : Nat) (w : W32) (h : Keeps s0 s) :
    Keeps s0 (State.dflipWrite s a n o w) := by
  unfold State.dflipWrite
  repeat'
    first
      | with_reducible assumption | intro _ | with_reducible apply Keeps.ite | with_reducible apply State.storeWord_keeps
      | with_reducible apply State.dramFlip_keeps | dsimp only | split

theorem State.sramArm_keeps {s0 : State} (s : State) (h : Keeps s0 s) :
    Keeps s0 (State.sramArm s) := by
  unfold State.sramArm
  repeat'
    first
      | with_reducible assumption | intro _ | with_reducible apply Keeps.ite | with_reducible apply State.setBit_keeps
      | dsimp only | (refine Keeps.of ?_; dsimp only; with_reducible apply Keeps.back)

theorem State.sramRepair_keeps {s0 : State} (s : State) (oos : Bool) (h : Keeps s0 s) :
    Keeps s0 (State.sramRepair s oos) := by
  unfold State.sramRepair
  repeat'
    first
      | with_reducible assumption | intro _ | with_reducible apply Keeps.ite | with_reducible apply State.err_keeps | dsimp only
      | (refine Keeps.of ?_; dsimp only; with_reducible apply Keeps.back) | split

theorem State.srmWrite_keeps {s0 : State} (s : State) (a : Acc) (o : Nat) (w : W32) (oos : Bool) (h : Keeps s0 s) :
    Keeps s0 (State.srmWrite s a o w oos) := by
  unfold State.srmWrite
  repeat'
    first
      | with_reducible assumption | intro _ | with_reducible apply Keeps.ite | with_reducible apply State.storeWord_keeps
      | with_reducible apply State.sramArm_keeps | with_reducible apply State.sramRepair_keeps | dsimp only | split

theorem State.setSramErr_keeps {s0 : State} (s : State) (mac index e : Nat) (h : Keeps s0 s) :
    Keeps s0 (State.setSramErr s mac index e) := by
  unfold State.setSramErr
  repeat'
    first
      | with_reducible assumption | intro _ | with_reducible apply Keeps.ite | dsimp only
      | (refine Keeps.of ?_; dsimp only; with_reducible apply Keeps.back)

theorem State.sramWrote_keeps {s0 : State} (s : State) (mac index : Nat) (h : Keeps s0 s) :
    Keeps s0 (State.sramWrote s mac index) := by
  unfold State.sramWrote
  repeat'
    first
      | with_reducible assumption | intro _ | with_reducible apply Keeps.ite | with_reducible apply State.setBit_keeps
      | with_reducible apply State.setSramErr_keeps | dsimp only
      | (refine Keeps.of ?_; dsimp only; with_reducible apply Keeps.back) | split

theorem State.sramBad_keeps {s0 : State} (s : State) (access : Option Nat) (req : Option Nat) (mac index : Nat) (h : Keeps s0 s) :
    Keeps s0 (State.sramBad s access req mac index) := by
  unfold State.sramBad
  repeat'
    first
      | with_reducible assumption | intro _ | with_reducible apply Keeps.ite | with_reducible apply State.bump_keeps
      | with_reducible apply State.irq_keeps | with_reducible apply State.capture_keeps | with_reducible apply State.err_keeps
      | with_reducible apply State.busErr_keeps | dsimp only | (refine Keeps.of ?_; dsimp only; with_reducible apply Keeps.back)
      | split

theorem execRetireWrite_keeps {s0 : State} (a : Acc) (ch : Fin 8) (word : W32) (auto : Option (Fin 10)) (s : State) (h : Keeps s0 s) :
    KeepsOut s0 (execRetireWrite a ch word auto s) := by
  unfold execRetireWrite
  repeat'
    first
      | with_reducible assumption | intro _ | with_reducible apply Keeps.ite | with_reducible apply KeepsOut.ite
      | with_reducible apply KeepsOut.fault | with_reducible apply KeepsOut.next | with_reducible apply run_keeps
      | with_reducible apply State.viaPath_keeps | with_reducible apply State.dprWrite_keeps | dsimp only | split

theorem execDevceWindowStart_keeps {s0 : State} (ch : Fin 8) (s : State) (h : Keeps s0 s) :
    KeepsOut s0 (execDevceWindowStart ch s) := by
  unfold execDevceWindowStart
  repeat'
    first
      | with_reducible assumption | intro _ | with_reducible apply Keeps.foldl | with_reducible apply Keeps.foldlFst
      | with_reducible apply Keeps.ite | with_reducible apply KeepsOut.ite | with_reducible apply KeepsOut.fault
      | with_reducible apply KeepsOut.next | with_reducible apply State.setFld_keeps | with_reducible apply run_keeps
      | dsimp only | split

theorem execPprGo_keeps {s0 : State} (a : Acc) (ch : Fin 8) (word : W32) (s : State) (h : Keeps s0 s) :
    KeepsOut s0 (execPprGo a ch word s) := by
  unfold execPprGo
  repeat'
    first
      | with_reducible assumption | intro _ | with_reducible apply Keeps.ite | with_reducible apply KeepsOut.ite
      | with_reducible apply KeepsOut.fault | with_reducible apply KeepsOut.next | with_reducible apply run_keeps
      | with_reducible apply State.viaPath_keeps | with_reducible apply State.pprWrite_keeps | dsimp only | split

theorem execPprDone_keeps {s0 : State} (ch : Fin 8) (spare : Bool) (noise : List (Nat × Nat × Nat)) (s : State) (h : Keeps s0 s) :
    KeepsOut s0 (execPprDone ch spare noise s) := by
  unfold execPprDone
  repeat'
    first
      | with_reducible assumption | intro _ | with_reducible apply Keeps.ite | with_reducible apply KeepsOut.ite
      | with_reducible apply KeepsOut.fault | with_reducible apply KeepsOut.next | with_reducible apply run_keeps
      | with_reducible apply State.pprDone_keeps | dsimp only | split

theorem execScrubDue_keeps {s0 : State} (ch : Fin 8) (guaranteed : Bool) (s : State) (h : Keeps s0 s) :
    KeepsOut s0 (execScrubDue ch guaranteed s) := by
  unfold execScrubDue
  repeat'
    first
      | with_reducible assumption | intro _ | with_reducible apply Keeps.ite | with_reducible apply KeepsOut.ite
      | with_reducible apply KeepsOut.fault | with_reducible apply KeepsOut.next | with_reducible apply run_keeps
      | with_reducible apply State.scrubIssue_keeps | dsimp only | split

theorem execSramReadError_keeps {s0 : State} (mac index req access err : Nat) (wrote : Bool) (s : State) (h : Keeps s0 s) :
    KeepsOut s0 (execSramReadError mac index req access err wrote s) := by
  unfold execSramReadError
  repeat'
    first
      | with_reducible assumption | intro _ | with_reducible apply Keeps.ite | with_reducible apply KeepsOut.ite
      | with_reducible apply KeepsOut.fault | with_reducible apply KeepsOut.next | with_reducible apply State.bump_keeps
      | with_reducible apply State.irq_keeps | with_reducible apply State.when_keeps | with_reducible apply State.fresh_keeps
      | with_reducible apply State.err_keeps | with_reducible apply run_keeps | with_reducible apply State.sramWrote_keeps
      | with_reducible apply State.sramBad_keeps | dsimp only | split

theorem execSramPatrol_keeps {s0 : State} (mac index err : Nat) (wrote written : Bool) (s : State) (h : Keeps s0 s) :
    KeepsOut s0 (execSramPatrol mac index err wrote written s) := by
  unfold execSramPatrol
  repeat'
    first
      | with_reducible assumption | intro _ | with_reducible apply Keeps.ite | with_reducible apply KeepsOut.ite
      | with_reducible apply KeepsOut.fault | with_reducible apply KeepsOut.next | with_reducible apply State.bump_keeps
      | with_reducible apply State.when_keeps | with_reducible apply State.fresh_keeps | with_reducible apply State.err_keeps
      | with_reducible apply run_keeps | with_reducible apply State.setSramErr_keeps
      | with_reducible apply State.sramWrote_keeps | with_reducible apply State.sramBad_keeps | dsimp only | split

theorem execSramRepairApply_keeps {s0 : State} (a : Acc) (word : W32) (outOfService : Bool) (s : State) (h : Keeps s0 s) :
    KeepsOut s0 (execSramRepairApply a word outOfService s) := by
  unfold execSramRepairApply
  repeat'
    first
      | with_reducible assumption | intro _ | with_reducible apply Keeps.ite | with_reducible apply KeepsOut.ite
      | with_reducible apply KeepsOut.fault | with_reducible apply KeepsOut.next | with_reducible apply run_keeps
      | with_reducible apply State.viaPath_keeps | with_reducible apply State.srmWrite_keeps | dsimp only | split

theorem execSramFlipArm_keeps {s0 : State} (a : Acc) (word : W32) (s : State) (h : Keeps s0 s) :
    KeepsOut s0 (execSramFlipArm a word s) := by
  unfold execSramFlipArm
  repeat'
    first
      | with_reducible assumption | intro _ | with_reducible apply Keeps.ite | with_reducible apply KeepsOut.ite
      | with_reducible apply KeepsOut.fault | with_reducible apply KeepsOut.next | with_reducible apply run_keeps
      | with_reducible apply State.viaPath_keeps | with_reducible apply State.srmWrite_keeps | dsimp only | split

theorem execDramFlipArm_keeps {s0 : State} (a : Acc) (ch : Fin 8) (word : W32) (s : State) (h : Keeps s0 s) :
    KeepsOut s0 (execDramFlipArm a ch word s) := by
  unfold execDramFlipArm
  repeat'
    first
      | with_reducible assumption | intro _ | with_reducible apply Keeps.ite | with_reducible apply KeepsOut.ite
      | with_reducible apply KeepsOut.fault | with_reducible apply KeepsOut.next | with_reducible apply run_keeps
      | with_reducible apply State.viaPath_keeps | with_reducible apply State.dflipWrite_keeps | dsimp only | split

end Sys2Proof.Machine
end

