-- ==== Sys2Proof/Laws/KeepCatwalk.lean ====
section
/-!
SUPPORT. The operations of Machine/Catwalk.lean keep the queue and the invariant.
-/
set_option linter.unusedTactic false
set_option linter.unreachableTactic false
namespace Sys2Proof.Machine

theorem State.masterReset_keeps {s0 : State} (s : State) (m : Nat) (h : Keeps s0 s) :
    Keeps s0 (State.masterReset s m) := by
  unfold State.masterReset
  repeat'
    first
      | with_reducible assumption | intro _ | with_reducible apply Keeps.foldl | with_reducible apply Keeps.foldlFst
      | with_reducible apply Keeps.ite | with_reducible apply State.setCh_keeps | dsimp only
      | (refine Keeps.of ?_; dsimp only; with_reducible apply Keeps.back) | split

theorem State.catRequest_keeps {s0 : State} (s : State) (req addr : Nat) (op : DramOp) (noise : List (Nat × Nat)) (k : Nat) (h : Keeps s0 s) :
    Keeps s0 (State.catRequest s req addr op noise k) := by
  unfold State.catRequest
  repeat'
    first
      | with_reducible assumption | intro _ | with_reducible apply Keeps.ite | with_reducible apply State.dramRequest_keeps
      | dsimp only | (refine Keeps.of ?_; dsimp only; with_reducible apply Keeps.back) | split

theorem State.drainEnd_keeps {s0 : State} (s : State) (m : Nat) (h : Keeps s0 s) :
    Keeps s0 (State.drainEnd s m) := by
  unfold State.drainEnd
  repeat'
    first
      | with_reducible assumption | intro _ | with_reducible apply Keeps.foldl | with_reducible apply Keeps.foldlFst
      | with_reducible apply Keeps.ite | with_reducible apply State.setWord_keeps | with_reducible apply State.bump_keeps
      | with_reducible apply State.irq_keeps | with_reducible apply State.issue_keeps
      | with_reducible apply State.dramRequest_keeps | dsimp only
      | (refine Keeps.of ?_; dsimp only; with_reducible apply Keeps.back) | split

theorem State.sendVector_keeps {s0 : State} (s : State) (v : Nat) (h : Keeps s0 s) :
    Keeps s0 (State.sendVector s v) := by
  unfold State.sendVector
  repeat'
    first
      | with_reducible assumption | intro _ | with_reducible apply Keeps.ite | dsimp only
      | (refine Keeps.of ?_; dsimp only; with_reducible apply Keeps.back) | split

theorem State.lineRise_keeps {s0 : State} (s : State) (line : Nat) (h : Keeps s0 s) :
    Keeps s0 (State.lineRise s line) := by
  unfold State.lineRise
  repeat'
    first
      | with_reducible assumption | intro _ | with_reducible apply Keeps.ite | with_reducible apply State.sendVector_keeps
      | dsimp only | (refine Keeps.of ?_; dsimp only; with_reducible apply Keeps.back) | split

theorem State.lineFall_keeps {s0 : State} (s : State) (line : Nat) (h : Keeps s0 s) :
    Keeps s0 (State.lineFall s line) := by
  unfold State.lineFall
  repeat'
    first
      | with_reducible assumption | intro _ | with_reducible apply Keeps.ite | dsimp only
      | (refine Keeps.of ?_; dsimp only; with_reducible apply Keeps.back) | split

theorem State.intHook_keeps {s0 : State} (s : State) (o : Nat) (eff : W32) (h : Keeps s0 s) :
    Keeps s0 (State.intHook s o eff) := by
  unfold State.intHook
  repeat'
    first
      | with_reducible assumption | intro _ | with_reducible apply Keeps.ite | with_reducible apply State.setWord_keeps
      | with_reducible apply State.sendVector_keeps | dsimp only
      | (refine Keeps.of ?_; dsimp only; with_reducible apply Keeps.back) | split

theorem State.intWrite_keeps {s0 : State} (s : State) (a : Acc) (o : Nat) (w : W32) (h : Keeps s0 s) :
    Keeps s0 (State.intWrite s a o w) := by
  unfold State.intWrite
  repeat'
    first
      | with_reducible assumption | intro _ | with_reducible apply Keeps.ite | with_reducible apply State.setWord_keeps
      | with_reducible apply State.storeWord_keeps | with_reducible apply State.intHook_keeps | dsimp only | split

theorem execLockstepMismatch_keeps {s0 : State} (s : State) (h : Keeps s0 s) :
    KeepsOut s0 (execLockstepMismatch s) := by
  unfold execLockstepMismatch
  repeat'
    first
      | with_reducible assumption | intro _ | with_reducible apply Keeps.ite | with_reducible apply KeepsOut.ite
      | with_reducible apply KeepsOut.fault | with_reducible apply KeepsOut.next | with_reducible apply State.setBit_keeps
      | with_reducible apply State.irq_keeps | with_reducible apply State.err_keeps | with_reducible apply run_keeps
      | dsimp only | split

theorem execDramRequest_keeps {s0 : State} (req addr : Nat) (op : DramOp) (noise : List (Nat × Nat)) (k : Nat) (s : State) (h : Keeps s0 s) :
    KeepsOut s0 (execDramRequest req addr op noise k s) := by
  unfold execDramRequest
  repeat'
    first
      | with_reducible assumption | intro _ | with_reducible apply Keeps.ite | with_reducible apply KeepsOut.ite
      | with_reducible apply KeepsOut.fault | with_reducible apply KeepsOut.next | with_reducible apply run_keeps
      | with_reducible apply State.catRequest_keeps | dsimp only | split

theorem execMissingPathAccess_keeps {s0 : State} (m addr : Nat) (isWrite : Bool) (s : State) (h : Keeps s0 s) :
    KeepsOut s0 (execMissingPathAccess m addr isWrite s) := by
  unfold execMissingPathAccess
  repeat'
    first
      | with_reducible assumption | intro _ | with_reducible apply Keeps.ite | with_reducible apply KeepsOut.ite
      | with_reducible apply KeepsOut.fault | with_reducible apply KeepsOut.next | with_reducible apply run_keeps
      | with_reducible apply State.noPath_keeps | dsimp only | split

theorem execBurstRefused_keeps {s0 : State} (m addr beats : Nat) (kind : Fin 4) (whole : Bool) (s : State) (h : Keeps s0 s) :
    KeepsOut s0 (execBurstRefused m addr beats kind whole s) := by
  unfold execBurstRefused
  repeat'
    first
      | with_reducible assumption | intro _ | with_reducible apply Keeps.ite | with_reducible apply KeepsOut.ite
      | with_reducible apply KeepsOut.fault | with_reducible apply KeepsOut.next | with_reducible apply State.bump_keeps
      | with_reducible apply State.capture_keeps | with_reducible apply State.answer_keeps | with_reducible apply run_keeps
      | dsimp only | split

theorem execMasterResetDrain_keeps {s0 : State} (m : Fin 32) (s : State) (h : Keeps s0 s) :
    KeepsOut s0 (execMasterResetDrain m s) := by
  unfold execMasterResetDrain
  repeat'
    first
      | with_reducible assumption | intro _ | with_reducible apply Keeps.ite | with_reducible apply KeepsOut.ite
      | with_reducible apply KeepsOut.fault | with_reducible apply KeepsOut.next | with_reducible apply State.setWord_keeps
      | with_reducible apply run_keeps | with_reducible apply State.masterReset_keeps | dsimp only | split

theorem execDrainEnd_keeps {s0 : State} (m : Fin 32) (s : State) (h : Keeps s0 s) :
    KeepsOut s0 (execDrainEnd m s) := by
  unfold execDrainEnd
  repeat'
    first
      | with_reducible assumption | intro _ | with_reducible apply Keeps.ite | with_reducible apply KeepsOut.ite
      | with_reducible apply KeepsOut.fault | with_reducible apply KeepsOut.next | with_reducible apply run_keeps
      | with_reducible apply State.drainEnd_keeps | dsimp only | split

theorem State.pcieDown_keeps {s0 : State} (s : State) (h : Keeps s0 s) :
    Keeps s0 (State.pcieDown s) := by
  unfold State.pcieDown
  repeat'
    first
      | with_reducible assumption | intro _ | with_reducible apply Keeps.ite | with_reducible apply State.setFld_keeps
      | with_reducible apply State.setBit_keeps | with_reducible apply State.bump_keeps | with_reducible apply State.irq_keeps
      | with_reducible apply State.masterReset_keeps | dsimp only | split

theorem execPcieLinkDown_keeps {s0 : State} (flr : Bool) (s : State) (h : Keeps s0 s) :
    KeepsOut s0 (execPcieLinkDown flr s) := by
  unfold execPcieLinkDown
  repeat'
    first
      | with_reducible assumption | intro _ | with_reducible apply Keeps.ite | with_reducible apply KeepsOut.ite
      | with_reducible apply KeepsOut.fault | with_reducible apply KeepsOut.next | with_reducible apply State.irq_keeps
      | with_reducible apply run_keeps | with_reducible apply State.masterReset_keeps
      | with_reducible apply State.pcieDown_keeps | dsimp only | split

theorem execPcieLinkUp_keeps {s0 : State} (gen : Fin 8) (width : Fin 8) (s : State) (h : Keeps s0 s) :
    KeepsOut s0 (execPcieLinkUp gen width s) := by
  unfold execPcieLinkUp
  repeat'
    first
      | with_reducible assumption | intro _ | with_reducible apply Keeps.ite | with_reducible apply KeepsOut.ite
      | with_reducible apply KeepsOut.fault | with_reducible apply KeepsOut.next | with_reducible apply State.setFld_keeps
      | with_reducible apply State.setBit_keeps | with_reducible apply State.irq_keeps | with_reducible apply run_keeps
      | dsimp only | split

theorem execInterruptLineRise_keeps {s0 : State} (line : Nat) (masked : Bool) (s : State) (h : Keeps s0 s) :
    KeepsOut s0 (execInterruptLineRise line masked s) := by
  unfold execInterruptLineRise
  repeat'
    first
      | with_reducible assumption | intro _ | with_reducible apply Keeps.ite | with_reducible apply KeepsOut.ite
      | with_reducible apply KeepsOut.fault | with_reducible apply KeepsOut.next | with_reducible apply run_keeps
      | with_reducible apply State.lineRise_keeps | dsimp only
      | (refine Keeps.of ?_; dsimp only; with_reducible apply Keeps.back) | split

theorem execIntEoiWrite_keeps {s0 : State} (a : Acc) (word : W32) (s : State) (h : Keeps s0 s) :
    KeepsOut s0 (execIntEoiWrite a word s) := by
  unfold execIntEoiWrite
  repeat'
    first
      | with_reducible assumption | intro _ | with_reducible apply Keeps.ite | with_reducible apply KeepsOut.ite
      | with_reducible apply KeepsOut.fault | with_reducible apply KeepsOut.next | with_reducible apply run_keeps
      | with_reducible apply State.viaPath_keeps | with_reducible apply State.intWrite_keeps | dsimp only | split

theorem execMsixUnmask_keeps {s0 : State} (vec : Fin 64) (s : State) (h : Keeps s0 s) :
    KeepsOut s0 (execMsixUnmask vec s) := by
  unfold execMsixUnmask
  repeat'
    first
      | with_reducible assumption | intro _ | with_reducible apply Keeps.ite | with_reducible apply KeepsOut.ite
      | with_reducible apply KeepsOut.fault | with_reducible apply KeepsOut.next | with_reducible apply run_keeps
      | with_reducible apply State.sendVector_keeps | dsimp only
      | (refine Keeps.of ?_; dsimp only; with_reducible apply Keeps.back) | split

end Sys2Proof.Machine
end

