-- ==== Sys2Proof/Laws/KeepFormatters.lean ====
section
/-!
SUPPORT. The operations of Machine/Formatters.lean keep the queue and the invariant.
-/
set_option linter.unusedTactic false
set_option linter.unreachableTactic false
namespace Sys2Proof.Machine

theorem State.setFm_keeps {s0 : State} (s : State) (L : Nat) (v : Formatter) (h : Keeps s0 s) :
    Keeps s0 (State.setFm s L v) := by
  unfold State.setFm
  repeat'
    first
      | with_reducible assumption | intro _ | with_reducible apply Keeps.ite | dsimp only
      | (refine Keeps.of ?_; dsimp only; with_reducible apply Keeps.back)

theorem State.ancPut_keeps {s0 : State} (s : State) (L : Nat) (tries : List Nat) (k : AncPkt) (h : Keeps s0 s) :
    Keeps s0 (State.ancPut s L tries k) := by
  unfold State.ancPut
  repeat'
    first
      | with_reducible assumption | intro _ | with_reducible apply Keeps.ite | with_reducible apply State.bump_keeps
      | with_reducible apply State.irq_keeps | with_reducible apply State.setFm_keeps | dsimp only
      | (refine Keeps.of ?_; dsimp only; with_reducible apply Keeps.back) | split

theorem State.ancOut_keeps {s0 : State} (s : State) (L : Nat) (k : AncPkt) (h : Keeps s0 s) :
    Keeps s0 (State.ancOut s L k) := by
  unfold State.ancOut
  repeat'
    first
      | with_reducible assumption | intro _ | with_reducible apply Keeps.ite | with_reducible apply State.bump_keeps
      | with_reducible apply State.ancPut_keeps | dsimp only | split

theorem State.ancLeft_keeps {s0 : State} (s : State) (L : Nat) (e : Nat × AncPkt) (h : Keeps s0 s) :
    Keeps s0 (State.ancLeft s L e) := by
  unfold State.ancLeft
  repeat'
    first
      | with_reducible assumption | intro _ | with_reducible apply Keeps.ite | with_reducible apply State.ancPut_keeps
      | dsimp only

theorem State.ancFlow_keeps {s0 : State} (s : State) (r : Nat) (k : AncPkt) (h : Keeps s0 s) :
    Keeps s0 (State.ancFlow s r k) := by
  unfold State.ancFlow
  repeat'
    first
      | with_reducible assumption | intro _ | with_reducible apply Keeps.foldl | with_reducible apply Keeps.foldlFst
      | with_reducible apply Keeps.ite | dsimp only | (refine Keeps.of ?_; dsimp only; with_reducible apply Keeps.back) | split

theorem State.ancOn_keeps {s0 : State} (s : State) (r : Nat) (k : AncPkt) (x0 : Nat) (h : Keeps s0 s) :
    Keeps s0 (State.ancOn s r k x0) := by
  induction x0 generalizing s r with
  | zero =>
    unfold State.ancOn
    repeat'
      first
        | with_reducible assumption | intro _  | with_reducible apply Keeps.foldl
        | with_reducible apply Keeps.foldlFst | with_reducible apply Keeps.ite | with_reducible apply State.setSy_keeps
        | with_reducible apply State.ancOut_keeps | with_reducible apply State.ancFlow_keeps | dsimp only
        | (refine Keeps.of ?_; dsimp only; with_reducible apply Keeps.back) | split
        | with_reducible refine Keeps.pair (by with_reducible assumption) ?_
  | succ k ih =>
    unfold State.ancOn
    repeat'
      first
        | with_reducible assumption | intro _ | with_reducible apply ih | with_reducible apply Keeps.foldl
        | with_reducible apply Keeps.foldlFst | with_reducible apply Keeps.ite | with_reducible apply State.setSy_keeps
        | with_reducible apply State.ancOut_keeps | with_reducible apply State.ancFlow_keeps | dsimp only
        | (refine Keeps.of ?_; dsimp only; with_reducible apply Keeps.back) | split
        | with_reducible refine Keeps.pair (by with_reducible assumption) ?_

theorem State.embed_keeps {s0 : State} (s : State) (L P : Nat) (out : Nat → Nat) (h : Keeps s0 s) :
    Keeps s0 (State.embed s L P out) := by
  unfold State.embed
  repeat'
    first
      | with_reducible assumption | intro _ | with_reducible apply Keeps.ite | with_reducible apply State.setFm_keeps
      | dsimp only | (refine Keeps.of ?_; dsimp only; with_reducible apply Keeps.back) | split

theorem State.fmtCut_keeps {s0 : State} (s : State) (L r : Nat) (h : Keeps s0 s) :
    Keeps s0 (State.fmtCut s L r) := by
  unfold State.fmtCut
  repeat'
    first
      | with_reducible assumption | intro _ | with_reducible apply Keeps.foldl | with_reducible apply Keeps.foldlFst
      | with_reducible apply Keeps.ite | with_reducible apply State.setFm_keeps | with_reducible apply State.ancOut_keeps
      | dsimp only | (refine Keeps.of ?_; dsimp only; with_reducible apply Keeps.back) | split

end Sys2Proof.Machine
end

