-- ==== Sys2Proof/Laws/KeepLanes.lean ====
section
/-!
SUPPORT. The operations of Machine/Lanes.lean keep the queue and the invariant.
-/
set_option linter.unusedTactic false
set_option linter.unreachableTactic false
namespace Sys2Proof.Machine

theorem State.rxSettle_keeps {s0 : State} (s : State) (L : Nat) (h : Keeps s0 s) :
    Keeps s0 (State.rxSettle s L) := by
  unfold State.rxSettle
  repeat'
    first
      | with_reducible assumption | intro _ | with_reducible apply Keeps.ite | with_reducible apply State.bump_keeps
      | with_reducible apply State.setRx_keeps | dsimp only | (refine Keeps.of ?_; dsimp only; with_reducible apply Keeps.back)
      | split

theorem State.txSettle_keeps {s0 : State} (s : State) (L : Nat) (h : Keeps s0 s) :
    Keeps s0 (State.txSettle s L) := by
  unfold State.txSettle
  repeat'
    first
      | with_reducible assumption | intro _ | with_reducible apply Keeps.ite | with_reducible apply State.bump_keeps
      | with_reducible apply State.setTx_keeps | dsimp only | (refine Keeps.of ?_; dsimp only; with_reducible apply Keeps.back)
      | split

theorem State.setDf_keeps {s0 : State} (s : State) (L : Nat) (v : Deframer) (h : Keeps s0 s) :
    Keeps s0 (State.setDf s L v) := by
  unfold State.setDf
  repeat'
    first
      | with_reducible assumption | intro _ | with_reducible apply Keeps.ite | dsimp only
      | (refine Keeps.of ?_; dsimp only; with_reducible apply Keeps.back)

theorem State.linkFail_keeps {s0 : State} (s : State) (b : Nat) (h : Keeps s0 s) :
    Keeps s0 (State.linkFail s b) := by
  unfold State.linkFail
  repeat'
    first
      | with_reducible assumption | intro _ | with_reducible apply Keeps.ite | with_reducible apply State.setBit_keeps
      | with_reducible apply State.irq_keeps | with_reducible apply State.err_keeps | dsimp only | split

theorem State.fmtEnds_keeps {s0 : State} (s : State) (b : Nat) (h : Keeps s0 s) :
    Keeps s0 (State.fmtEnds s b) := by
  unfold State.fmtEnds
  repeat'
    first
      | with_reducible assumption | intro _ | with_reducible apply Keeps.ite | with_reducible apply State.setBit_keeps
      | with_reducible apply State.setDf_keeps | dsimp only | (refine Keeps.of ?_; dsimp only; with_reducible apply Keeps.back)

theorem State.defrDrop_keeps {s0 : State} (s : State) (L : Nat) (h : Keeps s0 s) :
    Keeps s0 (State.defrDrop s L) := by
  unfold State.defrDrop
  repeat'
    first
      | with_reducible assumption | intro _ | with_reducible apply Keeps.ite | with_reducible apply run_keeps
      | with_reducible apply State.setDf_keeps | with_reducible apply State.linkFail_keeps
      | with_reducible apply State.fmtEnds_keeps | dsimp only
      | (refine Keeps.of ?_; dsimp only; with_reducible apply Keeps.back) | split

theorem State.defrForget_keeps {s0 : State} (s : State) (L : Nat) (h : Keeps s0 s) :
    Keeps s0 (State.defrForget s L) := by
  unfold State.defrForget
  repeat'
    first
      | with_reducible assumption | intro _ | with_reducible apply Keeps.ite | with_reducible apply State.setDf_keeps
      | dsimp only | (refine Keeps.of ?_; dsimp only; with_reducible apply Keeps.back)

theorem State.defrApply_keeps {s0 : State} (s : State) (L : Nat) (h : Keeps s0 s) :
    Keeps s0 (State.defrApply s L) := by
  unfold State.defrApply
  repeat'
    first
      | with_reducible assumption | intro _ | with_reducible apply Keeps.foldl | with_reducible apply Keeps.foldlFst
      | with_reducible apply Keeps.ite | with_reducible apply State.setBit_keeps | with_reducible apply State.irq_keeps
      | with_reducible apply State.applySlot_keeps | with_reducible apply State.srcFmtLost_keeps
      | with_reducible apply State.fmtEnds_keeps | dsimp only | split

theorem State.rxWordsStop_keeps {s0 : State} (s : State) (L : Nat) (h : Keeps s0 s) :
    Keeps s0 (State.rxWordsStop s L) := by
  unfold State.rxWordsStop
  repeat'
    first
      | with_reducible assumption | intro _ | with_reducible apply Keeps.ite | with_reducible apply State.srcLost_keeps
      | with_reducible apply State.defrDrop_keeps | dsimp only

theorem State.rxDrop_keeps {s0 : State} (s : State) (L : Nat) (h : Keeps s0 s) :
    Keeps s0 (State.rxDrop s L) := by
  unfold State.rxDrop
  repeat'
    first
      | with_reducible assumption | intro _ | with_reducible apply Keeps.ite | with_reducible apply State.setBit_keeps
      | with_reducible apply State.rxSettle_keeps | with_reducible apply State.rxWordsStop_keeps | dsimp only | split

theorem State.rxStart_keeps {s0 : State} (s : State) (L : Nat) (h : Keeps s0 s) :
    Keeps s0 (State.rxStart s L) := by
  unfold State.rxStart
  repeat'
    first
      | with_reducible assumption | intro _ | with_reducible apply Keeps.ite | with_reducible apply State.setRx_keeps
      | dsimp only | (refine Keeps.of ?_; dsimp only; with_reducible apply Keeps.back)

theorem State.rxLose_keeps {s0 : State} (s : State) (L : Nat) (h : Keeps s0 s) :
    Keeps s0 (State.rxLose s L) := by
  unfold State.rxLose
  repeat'
    first
      | with_reducible assumption | intro _ | with_reducible apply Keeps.ite | with_reducible apply State.bump_keeps
      | with_reducible apply State.irq_keeps | with_reducible apply State.rxDrop_keeps
      | with_reducible apply State.rxStart_keeps | dsimp only | split

theorem State.rxAbort_keeps {s0 : State} (s : State) (L : Nat) (h : Keeps s0 s) :
    Keeps s0 (State.rxAbort s L) := by
  unfold State.rxAbort
  repeat'
    first
      | with_reducible assumption | intro _ | with_reducible apply Keeps.ite | with_reducible apply State.setBit_keeps
      | with_reducible apply State.bump_keeps | with_reducible apply State.rotAbort_keeps | dsimp only | split

theorem State.txAbort_keeps {s0 : State} (s : State) (L : Nat) (h : Keeps s0 s) :
    Keeps s0 (State.txAbort s L) := by
  unfold State.txAbort
  repeat'
    first
      | with_reducible assumption | intro _ | with_reducible apply Keeps.ite | with_reducible apply State.setBit_keeps
      | with_reducible apply State.bump_keeps | with_reducible apply State.setTx_keeps
      | with_reducible apply State.rotAbort_keeps | dsimp only
      | (refine Keeps.of ?_; dsimp only; with_reducible apply Keeps.back) | split

theorem State.rxLoadEq_keeps {s0 : State} (s : State) (L : Nat) (h : Keeps s0 s) :
    Keeps s0 (State.rxLoadEq s L) := by
  unfold State.rxLoadEq
  repeat'
    first
      | with_reducible assumption | intro _ | with_reducible apply Keeps.ite | with_reducible apply State.setRx_keeps
      | dsimp only | (refine Keeps.of ?_; dsimp only; with_reducible apply Keeps.back)

theorem State.txLoadEq_keeps {s0 : State} (s : State) (L : Nat) (h : Keeps s0 s) :
    Keeps s0 (State.txLoadEq s L) := by
  unfold State.txLoadEq
  repeat'
    first
      | with_reducible assumption | intro _ | with_reducible apply Keeps.ite | with_reducible apply State.setTx_keeps
      | dsimp only | (refine Keeps.of ?_; dsimp only; with_reducible apply Keeps.back)

theorem State.rxEqLive_keeps {s0 : State} (s : State) (L : Nat) (h : Keeps s0 s) :
    Keeps s0 (State.rxEqLive s L) := by
  unfold State.rxEqLive
  repeat'
    first
      | with_reducible assumption | intro _ | with_reducible apply Keeps.ite | with_reducible apply State.rxLoadEq_keeps
      | dsimp only | split

theorem State.txEqLive_keeps {s0 : State} (s : State) (L : Nat) (h : Keeps s0 s) :
    Keeps s0 (State.txEqLive s L) := by
  unfold State.txEqLive
  repeat'
    first
      | with_reducible assumption | intro _ | with_reducible apply Keeps.ite | with_reducible apply State.txLoadEq_keeps
      | dsimp only | split

theorem State.rxCal_keeps {s0 : State} (s : State) (L : Nat) (h : Keeps s0 s) :
    Keeps s0 (State.rxCal s L) := by
  unfold State.rxCal
  repeat'
    first
      | with_reducible assumption | intro _ | with_reducible apply Keeps.ite | with_reducible apply State.setFld_keeps
      | with_reducible apply State.setFld64_keeps | with_reducible apply State.setRx_keeps | dsimp only
      | (refine Keeps.of ?_; dsimp only; with_reducible apply Keeps.back) | split

theorem State.txCal_keeps {s0 : State} (s : State) (L : Nat) (h : Keeps s0 s) :
    Keeps s0 (State.txCal s L) := by
  unfold State.txCal
  repeat'
    first
      | with_reducible assumption | intro _ | with_reducible apply Keeps.ite | with_reducible apply State.setFld64_keeps
      | dsimp only

theorem State.swingCal_keeps {s0 : State} (s : State) (g : Nat) (h : Keeps s0 s) :
    Keeps s0 (State.swingCal s g) := by
  unfold State.swingCal
  repeat'
    first
      | with_reducible assumption | intro _ | with_reducible apply Keeps.ite | with_reducible apply State.setRo_keeps
      | dsimp only | (refine Keeps.of ?_; dsimp only; with_reducible apply Keeps.back)

theorem State.calAll_keeps {s0 : State} (s : State) (h : Keeps s0 s) :
    Keeps s0 (State.calAll s) := by
  unfold State.calAll
  repeat'
    first
      | with_reducible assumption | intro _ | with_reducible apply Keeps.foldl | with_reducible apply Keeps.foldlFst
      | with_reducible apply Keeps.ite | with_reducible apply State.rxCal_keeps | with_reducible apply State.txCal_keeps
      | with_reducible apply State.swingCal_keeps | dsimp only

theorem State.rxLand_keeps {s0 : State} (s : State) (L : Nat) (h : Keeps s0 s) :
    Keeps s0 (State.rxLand s L) := by
  unfold State.rxLand
  repeat'
    first
      | with_reducible assumption | intro _ | with_reducible apply Keeps.ite | with_reducible apply State.setFld_keeps
      | with_reducible apply State.setBit_keeps | with_reducible apply State.irq_keeps | with_reducible apply State.rotOut_keeps
      | with_reducible apply State.rxLoadEq_keeps | with_reducible apply State.rxCal_keeps | dsimp only | split

theorem State.txLand_keeps {s0 : State} (s : State) (L : Nat) (h : Keeps s0 s) :
    Keeps s0 (State.txLand s L) := by
  unfold State.txLand
  repeat'
    first
      | with_reducible assumption | intro _ | with_reducible apply Keeps.ite | with_reducible apply State.setBit_keeps
      | with_reducible apply State.irq_keeps | with_reducible apply State.setTx_keeps | with_reducible apply State.rotOut_keeps
      | with_reducible apply State.txLoadEq_keeps | with_reducible apply State.txCal_keeps | dsimp only
      | (refine Keeps.of ?_; dsimp only; with_reducible apply Keeps.back) | split

theorem State.txRate_keeps {s0 : State} (s : State) (L : Nat) (h : Keeps s0 s) :
    Keeps s0 (State.txRate s L) := by
  unfold State.txRate
  repeat'
    first
      | with_reducible assumption | intro _ | with_reducible apply Keeps.ite | with_reducible apply State.setFld_keeps
      | with_reducible apply State.setBit_keeps | with_reducible apply State.bump_keeps | with_reducible apply State.irq_keeps
      | with_reducible apply State.when_keeps | with_reducible apply State.txSettle_keeps | dsimp only
      | (refine Keeps.of ?_; dsimp only; with_reducible apply Keeps.back) | split

theorem State.rxCtlWritten_keeps {s0 : State} (s : State) (L : Nat) (old eff : W32) (h : Keeps s0 s) :
    Keeps s0 (State.rxCtlWritten s L old eff) := by
  unfold State.rxCtlWritten
  repeat'
    first
      | with_reducible assumption | intro _ | with_reducible apply Keeps.ite | with_reducible apply State.setBit_keeps
      | with_reducible apply State.setRx_keeps | with_reducible apply State.defrForget_keeps
      | with_reducible apply State.rxDrop_keeps | with_reducible apply State.rxAbort_keeps | dsimp only
      | (refine Keeps.of ?_; dsimp only; with_reducible apply Keeps.back) | split

theorem State.rxPatWritten_keeps {s0 : State} (s : State) (L : Nat) (old : W32) (h : Keeps s0 s) :
    Keeps s0 (State.rxPatWritten s L old) := by
  unfold State.rxPatWritten
  repeat'
    first
      | with_reducible assumption | intro _ | with_reducible apply Keeps.ite | with_reducible apply State.setBit_keeps
      | with_reducible apply State.srcBack_keeps | with_reducible apply State.rxWordsStop_keeps
      | with_reducible apply State.rxAbort_keeps | dsimp only | split

theorem State.injWritten_keeps {s0 : State} (s pre : State) (a : Acc) (isTx : Bool) (L : Nat) (old eff : W32) (h : Keeps s0 s) :
    Keeps s0 (State.injWritten s pre a isTx L old eff) := by
  unfold State.injWritten
  repeat'
    first
      | with_reducible assumption | intro _ | with_reducible apply Keeps.ite | with_reducible apply State.setWord_keeps
      | with_reducible apply State.accErr_keeps | with_reducible apply State.setRx_keeps
      | with_reducible apply State.setTx_keeps | with_reducible apply State.sameArmed_keeps
      | with_reducible apply State.rxAbort_keeps | with_reducible apply State.txAbort_keeps | dsimp only
      | (refine Keeps.of ?_; dsimp only; with_reducible apply Keeps.back) | split

theorem State.txCtlWritten_keeps {s0 : State} (s : State) (L : Nat) (old eff : W32) (h : Keeps s0 s) :
    Keeps s0 (State.txCtlWritten s L old eff) := by
  unfold State.txCtlWritten
  repeat'
    first
      | with_reducible assumption | intro _ | with_reducible apply Keeps.ite | with_reducible apply State.setBit_keeps
      | with_reducible apply State.setTx_keeps | with_reducible apply State.txAbort_keeps
      | with_reducible apply State.txRate_keeps | dsimp only | (refine Keeps.of ?_; dsimp only; with_reducible apply Keeps.back)
      | split

theorem State.txPatWritten_keeps {s0 : State} (s pre : State) (a : Acc) (L : Nat) (old : W32) (h : Keeps s0 s) :
    Keeps s0 (State.txPatWritten s pre a L old) := by
  unfold State.txPatWritten
  repeat'
    first
      | with_reducible assumption | intro _ | with_reducible apply Keeps.ite | with_reducible apply State.setWord_keeps
      | with_reducible apply State.accErr_keeps | with_reducible apply State.sameArmed_keeps
      | with_reducible apply State.txAbort_keeps | dsimp only | split

theorem State.rxHook_keeps {s0 : State} (s pre : State) (a : Acc) (L o : Nat) (old eff : W32) (h : Keeps s0 s) :
    Keeps s0 (State.rxHook s pre a L o old eff) := by
  unfold State.rxHook
  repeat'
    first
      | with_reducible assumption | intro _ | with_reducible apply Keeps.ite | with_reducible apply State.rxCtlWritten_keeps
      | with_reducible apply State.rxPatWritten_keeps | with_reducible apply State.injWritten_keeps | dsimp only | split

theorem State.txHook_keeps {s0 : State} (s pre : State) (a : Acc) (L o : Nat) (old eff : W32) (h : Keeps s0 s) :
    Keeps s0 (State.txHook s pre a L o old eff) := by
  unfold State.txHook
  repeat'
    first
      | with_reducible assumption | intro _ | with_reducible apply Keeps.ite | with_reducible apply State.injWritten_keeps
      | with_reducible apply State.txCtlWritten_keeps | with_reducible apply State.txPatWritten_keeps | dsimp only | split

theorem State.rxWrite_keeps {s0 : State} (s : State) (a : Acc) (L o : Nat) (w : W32) (hw : Option W32) (h : Keeps s0 s) :
    Keeps s0 (State.rxWrite s a L o w hw) := by
  unfold State.rxWrite
  repeat'
    first
      | with_reducible assumption | intro _ | with_reducible apply Keeps.ite | with_reducible apply State.storeWord_keeps
      | with_reducible apply State.rxSettle_keeps | with_reducible apply State.rxHook_keeps | dsimp only | split

theorem State.txWrite_keeps {s0 : State} (s : State) (a : Acc) (L o : Nat) (w : W32) (h : Keeps s0 s) :
    Keeps s0 (State.txWrite s a L o w) := by
  unfold State.txWrite
  repeat'
    first
      | with_reducible assumption | intro _ | with_reducible apply Keeps.ite | with_reducible apply State.storeWord_keeps
      | with_reducible apply State.txSettle_keeps | with_reducible apply State.txHook_keeps | dsimp only | split

theorem execRxSleepWrite_keeps {s0 : State} (a : Acc) (lane : Fin 512) (word : W32) (hw : Bool) (s : State) (h : Keeps s0 s) :
    KeepsOut s0 (execRxSleepWrite a lane word hw s) := by
  unfold execRxSleepWrite
  repeat'
    first
      | with_reducible assumption | intro _ | with_reducible apply Keeps.ite | with_reducible apply KeepsOut.ite
      | with_reducible apply KeepsOut.fault | with_reducible apply KeepsOut.next | with_reducible apply State.viaPath_keeps
      | with_reducible apply runRails_keeps | with_reducible apply State.rxWrite_keeps | dsimp only | split

theorem execRxWakeDone_keeps {s0 : State} (lane : Fin 512) (s : State) (h : Keeps s0 s) :
    KeepsOut s0 (execRxWakeDone lane s) := by
  unfold execRxWakeDone
  repeat'
    first
      | with_reducible assumption | intro _ | with_reducible apply Keeps.ite | with_reducible apply KeepsOut.ite
      | with_reducible apply KeepsOut.fault | with_reducible apply KeepsOut.next | with_reducible apply State.setBit_keeps
      | with_reducible apply State.setRx_keeps | with_reducible apply runRails_keeps | with_reducible apply State.rxStart_keeps
      | dsimp only | (refine Keeps.of ?_; dsimp only; with_reducible apply Keeps.back) | split

theorem execSignalDetectRise_keeps {s0 : State} (lane : Fin 512) (s : State) (h : Keeps s0 s) :
    KeepsOut s0 (execSignalDetectRise lane s) := by
  unfold execSignalDetectRise
  repeat'
    first
      | with_reducible assumption | intro _ | with_reducible apply Keeps.ite | with_reducible apply KeepsOut.ite
      | with_reducible apply KeepsOut.fault | with_reducible apply KeepsOut.next | with_reducible apply State.setBit_keeps
      | with_reducible apply State.setRx_keeps | with_reducible apply State.keepParity_keeps
      | with_reducible apply runRails_keeps | with_reducible apply State.rxStart_keeps | dsimp only
      | (refine Keeps.of ?_; dsimp only; with_reducible apply Keeps.back) | split

theorem execSignalDetectFall_keeps {s0 : State} (lane : Fin 512) (s : State) (h : Keeps s0 s) :
    KeepsOut s0 (execSignalDetectFall lane s) := by
  unfold execSignalDetectFall
  repeat'
    first
      | with_reducible assumption | intro _ | with_reducible apply Keeps.ite | with_reducible apply KeepsOut.ite
      | with_reducible apply KeepsOut.fault | with_reducible apply KeepsOut.next | with_reducible apply State.setBit_keeps
      | with_reducible apply State.irq_keeps | with_reducible apply runRails_keeps | with_reducible apply State.rxLose_keeps
      | dsimp only | split

theorem execRxRateChange_keeps {s0 : State} (lane : Fin 512) (s : State) (h : Keeps s0 s) :
    KeepsOut s0 (execRxRateChange lane s) := by
  unfold execRxRateChange
  repeat'
    first
      | with_reducible assumption | intro _ | with_reducible apply Keeps.ite | with_reducible apply KeepsOut.ite
      | with_reducible apply KeepsOut.fault | with_reducible apply KeepsOut.next | with_reducible apply State.setRx_keeps
      | with_reducible apply runRails_keeps | with_reducible apply State.rxDrop_keeps | with_reducible apply State.rxStart_keeps
      | dsimp only | (refine Keeps.of ?_; dsimp only; with_reducible apply Keeps.back) | split

theorem execHuntDwellExpire_keeps {s0 : State} (lane : Fin 512) (s : State) (h : Keeps s0 s) :
    KeepsOut s0 (execHuntDwellExpire lane s) := by
  unfold execHuntDwellExpire
  repeat'
    first
      | with_reducible assumption | intro _ | with_reducible apply Keeps.ite | with_reducible apply KeepsOut.ite
      | with_reducible apply KeepsOut.fault | with_reducible apply KeepsOut.next | with_reducible apply State.bump_keeps
      | with_reducible apply State.when_keeps | with_reducible apply State.setRx_keeps | with_reducible apply runRails_keeps
      | dsimp only | (refine Keeps.of ?_; dsimp only; with_reducible apply Keeps.back) | split

theorem execRxLock_keeps {s0 : State} (lane : Fin 512) (s : State) (h : Keeps s0 s) :
    KeepsOut s0 (execRxLock lane s) := by
  unfold execRxLock
  repeat'
    first
      | with_reducible assumption | intro _ | with_reducible apply Keeps.ite | with_reducible apply KeepsOut.ite
      | with_reducible apply KeepsOut.fault | with_reducible apply KeepsOut.next | with_reducible apply State.setFld_keeps
      | with_reducible apply State.setBit_keeps | with_reducible apply State.irq_keeps
      | with_reducible apply State.srcBack_keeps | with_reducible apply runRails_keeps
      | with_reducible apply State.rxSettle_keeps | dsimp only | split

theorem execRxLockLoss_keeps {s0 : State} (lane : Fin 512) (s : State) (h : Keeps s0 s) :
    KeepsOut s0 (execRxLockLoss lane s) := by
  unfold execRxLockLoss
  repeat'
    first
      | with_reducible assumption | intro _ | with_reducible apply Keeps.ite | with_reducible apply KeepsOut.ite
      | with_reducible apply KeepsOut.fault | with_reducible apply KeepsOut.next | with_reducible apply runRails_keeps
      | with_reducible apply State.rxLose_keeps | dsimp only | split

theorem execTxSleepWrite_keeps {s0 : State} (a : Acc) (lane : Fin 512) (word : W32) (s : State) (h : Keeps s0 s) :
    KeepsOut s0 (execTxSleepWrite a lane word s) := by
  unfold execTxSleepWrite
  repeat'
    first
      | with_reducible assumption | intro _ | with_reducible apply Keeps.ite | with_reducible apply KeepsOut.ite
      | with_reducible apply KeepsOut.fault | with_reducible apply KeepsOut.next | with_reducible apply State.viaPath_keeps
      | with_reducible apply runRails_keeps | with_reducible apply State.txWrite_keeps | dsimp only | split

theorem execTxWakeDone_keeps {s0 : State} (lane : Fin 512) (s : State) (h : Keeps s0 s) :
    KeepsOut s0 (execTxWakeDone lane s) := by
  unfold execTxWakeDone
  repeat'
    first
      | with_reducible assumption | intro _ | with_reducible apply Keeps.ite | with_reducible apply KeepsOut.ite
      | with_reducible apply KeepsOut.fault | with_reducible apply KeepsOut.next | with_reducible apply State.setBit_keeps
      | with_reducible apply State.irq_keeps | with_reducible apply State.setTx_keeps | with_reducible apply runRails_keeps
      | with_reducible apply State.txSettle_keeps | dsimp only
      | (refine Keeps.of ?_; dsimp only; with_reducible apply Keeps.back) | split

theorem execTxRateChange_keeps {s0 : State} (lane : Fin 512) (s : State) (h : Keeps s0 s) :
    KeepsOut s0 (execTxRateChange lane s) := by
  unfold execTxRateChange
  repeat'
    first
      | with_reducible assumption | intro _ | with_reducible apply Keeps.ite | with_reducible apply KeepsOut.ite
      | with_reducible apply KeepsOut.fault | with_reducible apply KeepsOut.next | with_reducible apply runRails_keeps
      | with_reducible apply State.txRate_keeps | dsimp only | split

theorem execRxPatternWrite_keeps {s0 : State} (a : Acc) (lane : Fin 512) (word : W32) (s : State) (h : Keeps s0 s) :
    KeepsOut s0 (execRxPatternWrite a lane word s) := by
  unfold execRxPatternWrite
  repeat'
    first
      | with_reducible assumption | intro _ | with_reducible apply Keeps.ite | with_reducible apply KeepsOut.ite
      | with_reducible apply KeepsOut.fault | with_reducible apply KeepsOut.next | with_reducible apply State.viaPath_keeps
      | with_reducible apply runRails_keeps | with_reducible apply State.rxWrite_keeps | dsimp only | split

theorem execTxPatternWrite_keeps {s0 : State} (a : Acc) (lane : Fin 512) (word : W32) (s : State) (h : Keeps s0 s) :
    KeepsOut s0 (execTxPatternWrite a lane word s) := by
  unfold execTxPatternWrite
  repeat'
    first
      | with_reducible assumption | intro _ | with_reducible apply Keeps.ite | with_reducible apply KeepsOut.ite
      | with_reducible apply KeepsOut.fault | with_reducible apply KeepsOut.next | with_reducible apply State.viaPath_keeps
      | with_reducible apply runRails_keeps | with_reducible apply State.txWrite_keeps | dsimp only | split

theorem execCheckerSync_keeps {s0 : State} (got : CheckedBits) (s : State) (h : Keeps s0 s) :
    KeepsOut s0 (execCheckerSync got s) := by
  unfold execCheckerSync
  repeat'
    first
      | with_reducible assumption | intro _ | with_reducible apply Keeps.ite | with_reducible apply KeepsOut.ite
      | with_reducible apply KeepsOut.fault | with_reducible apply KeepsOut.next | with_reducible apply State.setBit_keeps
      | with_reducible apply runRails_keeps | with_reducible apply State.rxSettle_keeps | dsimp only | split

theorem execCheckerSyncLoss_keeps {s0 : State} (lane : Fin 512) (errs : Nat) (s : State) (h : Keeps s0 s) :
    KeepsOut s0 (execCheckerSyncLoss lane errs s) := by
  unfold execCheckerSyncLoss
  repeat'
    first
      | with_reducible assumption | intro _ | with_reducible apply Keeps.ite | with_reducible apply KeepsOut.ite
      | with_reducible apply KeepsOut.fault | with_reducible apply KeepsOut.next | with_reducible apply State.setBit_keeps
      | with_reducible apply State.bump_keeps | with_reducible apply State.irq_keeps | with_reducible apply runRails_keeps
      | with_reducible apply State.rxSettle_keeps | dsimp only | split

theorem execInjectSingle_keeps {s0 : State} (a : Acc) (isTx : Bool) (lane : Fin 512) (s : State) (h : Keeps s0 s) :
    KeepsOut s0 (execInjectSingle a isTx lane s) := by
  unfold execInjectSingle
  repeat'
    first
      | with_reducible assumption | intro _ | with_reducible apply Keeps.ite | with_reducible apply KeepsOut.ite
      | with_reducible apply KeepsOut.fault | with_reducible apply KeepsOut.next | with_reducible apply State.viaPath_keeps
      | with_reducible apply runRails_keeps | with_reducible apply State.rxWrite_keeps
      | with_reducible apply State.txWrite_keeps | dsimp only | split

theorem execInjectRateSet_keeps {s0 : State} (a : Acc) (isTx : Bool) (lane : Fin 512) (word : W32) (s : State) (h : Keeps s0 s) :
    KeepsOut s0 (execInjectRateSet a isTx lane word s) := by
  unfold execInjectRateSet
  repeat'
    first
      | with_reducible assumption | intro _ | with_reducible apply Keeps.ite | with_reducible apply KeepsOut.ite
      | with_reducible apply KeepsOut.fault | with_reducible apply KeepsOut.next | with_reducible apply State.viaPath_keeps
      | with_reducible apply runRails_keeps | with_reducible apply State.rxWrite_keeps
      | with_reducible apply State.txWrite_keeps | dsimp only | split

theorem execLaneSwapRequest_keeps {s0 : State} (a : Acc) (isTx : Bool) (lane : Fin 512) (s : State) (h : Keeps s0 s) :
    KeepsOut s0 (execLaneSwapRequest a isTx lane s) := by
  unfold execLaneSwapRequest
  repeat'
    first
      | with_reducible assumption | intro _ | with_reducible apply Keeps.ite | with_reducible apply KeepsOut.ite
      | with_reducible apply KeepsOut.fault | with_reducible apply KeepsOut.next | with_reducible apply State.viaPath_keeps
      | with_reducible apply runRails_keeps | with_reducible apply State.rxWrite_keeps
      | with_reducible apply State.txWrite_keeps | dsimp only | split

theorem execTxPhaseWrite_keeps {s0 : State} (a : Acc) (lane : Fin 512) (word : W32) (s : State) (h : Keeps s0 s) :
    KeepsOut s0 (execTxPhaseWrite a lane word s) := by
  unfold execTxPhaseWrite
  repeat'
    first
      | with_reducible assumption | intro _ | with_reducible apply Keeps.ite | with_reducible apply KeepsOut.ite
      | with_reducible apply KeepsOut.fault | with_reducible apply KeepsOut.next | with_reducible apply State.viaPath_keeps
      | with_reducible apply runRails_keeps | with_reducible apply State.txWrite_keeps | dsimp only | split

theorem execTxPhaseStep_keeps {s0 : State} (lane : Fin 512) (s : State) (h : Keeps s0 s) :
    KeepsOut s0 (execTxPhaseStep lane s) := by
  unfold execTxPhaseStep
  repeat'
    first
      | with_reducible assumption | intro _ | with_reducible apply Keeps.ite | with_reducible apply KeepsOut.ite
      | with_reducible apply KeepsOut.fault | with_reducible apply KeepsOut.next | with_reducible apply State.setTx_keeps
      | with_reducible apply runRails_keeps | dsimp only | (refine Keeps.of ?_; dsimp only; with_reducible apply Keeps.back)
      | split

end Sys2Proof.Machine
end

