-- ==== Sys2Proof/Laws/KeepClocks.lean ====
section
/-!
SUPPORT. The operations of Machine/Clocks.lean keep the queue and the invariant.
-/
set_option linter.unusedTactic false
set_option linter.unreachableTactic false
namespace Sys2Proof.Machine

theorem State.setPllWord_keeps {s0 : State} (s : State) (n : Nat) (ppt : Int) (h : Keeps s0 s) :
    Keeps s0 (State.setPllWord s n ppt) := by
  unfold State.setPllWord
  repeat'
    first
      | with_reducible assumption | intro _ | with_reducible apply Keeps.ite | with_reducible apply State.setFld64_keeps
      | dsimp only

theorem State.fixedWords_keeps {s0 : State} (s : State) (h : Keeps s0 s) :
    Keeps s0 (State.fixedWords s) := by
  unfold State.fixedWords
  repeat'
    first
      | with_reducible assumption | intro _ | with_reducible apply Keeps.foldl | with_reducible apply Keeps.foldlFst
      | with_reducible apply Keeps.ite | with_reducible apply State.setPllWord_keeps | dsimp only

theorem State.synthSteer_keeps {s0 : State} (s : State) (ppt : Int) (h : Keeps s0 s) :
    Keeps s0 (State.synthSteer s ppt) := by
  unfold State.synthSteer
  repeat'
    first
      | with_reducible assumption | intro _ | with_reducible apply Keeps.foldl | with_reducible apply Keeps.foldlFst
      | with_reducible apply Keeps.ite | with_reducible apply State.setPllWord_keeps | dsimp only | split

theorem State.clkBit_keeps {s0 : State} (s : State) (o n : Nat) (b : Bool) (h : Keeps s0 s) :
    Keeps s0 (State.clkBit s o n b) := by
  unfold State.clkBit
  repeat'
    first
      | with_reducible assumption | intro _ | with_reducible apply Keeps.ite | with_reducible apply State.setWord_keeps
      | dsimp only

theorem State.pllLocked_keeps {s0 : State} (s : State) (n : Nat) (h : Keeps s0 s) :
    Keeps s0 (State.pllLocked s n) := by
  unfold State.pllLocked
  repeat'
    first
      | with_reducible assumption | intro _ | with_reducible apply Keeps.ite | with_reducible apply State.setBit_keeps
      | with_reducible apply State.irq_keeps | with_reducible apply State.setPl_keeps | with_reducible apply State.clkBit_keeps
      | dsimp only | (refine Keeps.of ?_; dsimp only; with_reducible apply Keeps.back) | split

theorem State.pllLost_keeps {s0 : State} (s : State) (n : Nat) (h : Keeps s0 s) :
    Keeps s0 (State.pllLost s n) := by
  unfold State.pllLost
  repeat'
    first
      | with_reducible assumption | intro _ | with_reducible apply Keeps.ite | with_reducible apply State.setBit_keeps
      | with_reducible apply State.bump_keeps | with_reducible apply State.irq_keeps | with_reducible apply State.err_keeps
      | with_reducible apply State.setPl_keeps | with_reducible apply State.clkBit_keeps | dsimp only
      | (refine Keeps.of ?_; dsimp only; with_reducible apply Keeps.back) | split

theorem State.pllBypassed_keeps {s0 : State} (s : State) (n : Nat) (h : Keeps s0 s) :
    Keeps s0 (State.pllBypassed s n) := by
  unfold State.pllBypassed
  repeat'
    first
      | with_reducible assumption | intro _ | with_reducible apply Keeps.ite | with_reducible apply State.setBit_keeps
      | with_reducible apply State.irq_keeps | with_reducible apply State.setPl_keeps | with_reducible apply State.clkBit_keeps
      | dsimp only | (refine Keeps.of ?_; dsimp only; with_reducible apply Keeps.back) | split

theorem State.pllReturned_keeps {s0 : State} (s : State) (n : Nat) (h : Keeps s0 s) :
    Keeps s0 (State.pllReturned s n) := by
  unfold State.pllReturned
  repeat'
    first
      | with_reducible assumption | intro _ | with_reducible apply Keeps.ite | with_reducible apply State.setBit_keeps
      | with_reducible apply State.setPl_keeps | with_reducible apply State.clkBit_keeps | dsimp only
      | (refine Keeps.of ?_; dsimp only; with_reducible apply Keeps.back) | split

theorem State.clkCtlWritten_keeps {s0 : State} (s : State) (old : W32) (h : Keeps s0 s) :
    Keeps s0 (State.clkCtlWritten s old) := by
  unfold State.clkCtlWritten
  repeat'
    first
      | with_reducible assumption | intro _ | with_reducible apply Keeps.foldl | with_reducible apply Keeps.foldlFst
      | with_reducible apply Keeps.ite | with_reducible apply State.setPl_keeps | dsimp only
      | (refine Keeps.of ?_; dsimp only; with_reducible apply Keeps.back) | split

theorem State.manSteer_keeps {s0 : State} (s : State) (h : Keeps s0 s) :
    Keeps s0 (State.manSteer s) := by
  unfold State.manSteer
  repeat'
    first
      | with_reducible assumption | intro _ | with_reducible apply Keeps.ite | with_reducible apply State.synthSteer_keeps
      | dsimp only | split

theorem State.clkHook_keeps {s0 : State} (s : State) (o : Nat) (old : W32) (h : Keeps s0 s) :
    Keeps s0 (State.clkHook s o old) := by
  unfold State.clkHook
  repeat'
    first
      | with_reducible assumption | intro _ | with_reducible apply Keeps.ite | with_reducible apply State.clkCtlWritten_keeps
      | with_reducible apply State.manSteer_keeps | dsimp only | split

theorem State.clkWrite_keeps {s0 : State} (s : State) (a : Acc) (o : Nat) (w : W32) (h : Keeps s0 s) :
    Keeps s0 (State.clkWrite s a o w) := by
  unfold State.clkWrite
  repeat'
    first
      | with_reducible assumption | intro _ | with_reducible apply Keeps.ite | with_reducible apply State.storeWord_keeps
      | with_reducible apply State.clkHook_keeps | dsimp only | split

theorem State.pllHook_keeps {s0 : State} (s : State) (a : Acc) (n o : Nat) (old eff : W32) (h : Keeps s0 s) :
    Keeps s0 (State.pllHook s a n o old eff) := by
  unfold State.pllHook
  repeat'
    first
      | with_reducible assumption | intro _ | with_reducible apply Keeps.ite | with_reducible apply State.setWord_keeps
      | with_reducible apply State.setBit_keeps | with_reducible apply State.accErr_keeps
      | with_reducible apply State.setPl_keeps | dsimp only | (refine Keeps.of ?_; dsimp only; with_reducible apply Keeps.back)
      | split

theorem State.pllWrite_keeps {s0 : State} (s : State) (a : Acc) (n o : Nat) (w : W32) (h : Keeps s0 s) :
    Keeps s0 (State.pllWrite s a n o w) := by
  unfold State.pllWrite
  repeat'
    first
      | with_reducible assumption | intro _ | with_reducible apply Keeps.ite | with_reducible apply State.storeWord_keeps
      | with_reducible apply State.pllHook_keeps | dsimp only | split

theorem execPllLock_keeps {s0 : State} (n : Fin 26) (got : PllMeasure) (s : State) (h : Keeps s0 s) :
    KeepsOut s0 (execPllLock n got s) := by
  unfold execPllLock
  repeat'
    first
      | with_reducible assumption | intro _ | with_reducible apply Keeps.ite | with_reducible apply KeepsOut.ite
      | with_reducible apply KeepsOut.fault | with_reducible apply KeepsOut.next | with_reducible apply State.setWord_keeps
      | with_reducible apply State.err_keeps | with_reducible apply run_keeps | with_reducible apply State.pllLocked_keeps
      | dsimp only | split

theorem execHoldBypassWrite_keeps {s0 : State} (a : Acc) (word : W32) (s : State) (h : Keeps s0 s) :
    KeepsOut s0 (execHoldBypassWrite a word s) := by
  unfold execHoldBypassWrite
  repeat'
    first
      | with_reducible assumption | intro _ | with_reducible apply Keeps.ite | with_reducible apply KeepsOut.ite
      | with_reducible apply KeepsOut.fault | with_reducible apply KeepsOut.next | with_reducible apply run_keeps
      | with_reducible apply State.viaPath_keeps | with_reducible apply State.clkWrite_keeps | dsimp only | split

theorem execPllBypassReturnWrite_keeps {s0 : State} (a : Acc) (n : Fin 26) (s : State) (h : Keeps s0 s) :
    KeepsOut s0 (execPllBypassReturnWrite a n s) := by
  unfold execPllBypassReturnWrite
  repeat'
    first
      | with_reducible assumption | intro _ | with_reducible apply Keeps.ite | with_reducible apply KeepsOut.ite
      | with_reducible apply KeepsOut.fault | with_reducible apply KeepsOut.next | with_reducible apply run_keeps
      | with_reducible apply State.viaPath_keeps | with_reducible apply State.pllWrite_keeps | dsimp only | split

theorem execClkManWrite_keeps {s0 : State} (a : Acc) (word : W32) (s : State) (h : Keeps s0 s) :
    KeepsOut s0 (execClkManWrite a word s) := by
  unfold execClkManWrite
  repeat'
    first
      | with_reducible assumption | intro _ | with_reducible apply Keeps.ite | with_reducible apply KeepsOut.ite
      | with_reducible apply KeepsOut.fault | with_reducible apply KeepsOut.next | with_reducible apply run_keeps
      | with_reducible apply State.viaPath_keeps | with_reducible apply State.clkWrite_keeps | dsimp only | split

theorem execPllPhaseTargetWrite_keeps {s0 : State} (a : Acc) (n : Fin 26) (word : W32) (s : State) (h : Keeps s0 s) :
    KeepsOut s0 (execPllPhaseTargetWrite a n word s) := by
  unfold execPllPhaseTargetWrite
  repeat'
    first
      | with_reducible assumption | intro _ | with_reducible apply Keeps.ite | with_reducible apply KeepsOut.ite
      | with_reducible apply KeepsOut.fault | with_reducible apply KeepsOut.next | with_reducible apply run_keeps
      | with_reducible apply State.viaPath_keeps | with_reducible apply State.pllWrite_keeps | dsimp only | split

theorem execPllPhaseStep_keeps {s0 : State} (n : Fin 26) (s : State) (h : Keeps s0 s) :
    KeepsOut s0 (execPllPhaseStep n s) := by
  unfold execPllPhaseStep
  repeat'
    first
      | with_reducible assumption | intro _ | with_reducible apply Keeps.ite | with_reducible apply KeepsOut.ite
      | with_reducible apply KeepsOut.fault | with_reducible apply KeepsOut.next | with_reducible apply State.setFld_keeps
      | with_reducible apply State.setBit_keeps | with_reducible apply State.bump_keeps | with_reducible apply State.irq_keeps
      | with_reducible apply run_keeps | dsimp only | split

end Sys2Proof.Machine
end

