-- ==== Sys2Proof/Laws/KeepFaults.lean ====
section
/-!
SUPPORT. The operations of Machine/Faults.lean keep the queue and the invariant.
-/
set_option linter.unusedTactic false
set_option linter.unreachableTactic false
namespace Sys2Proof.Machine

theorem State.sdiSleep_keeps {s0 : State} (s : State) (h : Keeps s0 s) :
    Keeps s0 (State.sdiSleep s) := by
  unfold State.sdiSleep
  repeat'
    first
      | with_reducible assumption | intro _ | with_reducible apply Keeps.foldl | with_reducible apply Keeps.foldlFst
      | with_reducible apply Keeps.ite | with_reducible apply State.setBit_keeps | with_reducible apply State.setTx_keeps
      | with_reducible apply State.txAbort_keeps | dsimp only
      | (refine Keeps.of ?_; dsimp only; with_reducible apply Keeps.back) | split

theorem State.sdiWake_keeps {s0 : State} (s : State) (h : Keeps s0 s) :
    Keeps s0 (State.sdiWake s) := by
  unfold State.sdiWake
  repeat'
    first
      | with_reducible assumption | intro _ | with_reducible apply Keeps.foldl | with_reducible apply Keeps.foldlFst
      | with_reducible apply Keeps.ite | with_reducible apply State.setTx_keeps | dsimp only
      | (refine Keeps.of ?_; dsimp only; with_reducible apply Keeps.back) | split

theorem State.fatalAssert_keeps {s0 : State} (s : State) (h : Keeps s0 s) :
    Keeps s0 (State.fatalAssert s) := by
  unfold State.fatalAssert
  repeat'
    first
      | with_reducible assumption | intro _ | with_reducible apply Keeps.ite | with_reducible apply State.setBit_keeps
      | with_reducible apply State.bump_keeps | with_reducible apply State.irq_keeps | with_reducible apply State.when_keeps
      | with_reducible apply State.sdiSleep_keeps | dsimp only
      | (refine Keeps.of ?_; dsimp only; with_reducible apply Keeps.back)

theorem State.fatalClear_keeps {s0 : State} (s : State) (h : Keeps s0 s) :
    Keeps s0 (State.fatalClear s) := by
  unfold State.fatalClear
  repeat'
    first
      | with_reducible assumption | intro _ | with_reducible apply Keeps.ite | with_reducible apply State.setBit_keeps
      | with_reducible apply State.sdiWake_keeps | dsimp only
      | (refine Keeps.of ?_; dsimp only; with_reducible apply Keeps.back)

theorem State.faultHook_keeps {s0 : State} (s : State) (o : Nat) (old eff : W32) (h : Keeps s0 s) :
    Keeps s0 (State.faultHook s o old eff) := by
  unfold State.faultHook
  repeat'
    first
      | with_reducible assumption | intro _ | with_reducible apply Keeps.ite | with_reducible apply State.setWord_keeps
      | with_reducible apply State.irq_keeps | with_reducible apply State.when_keeps | with_reducible apply State.err_keeps
      | with_reducible apply State.sdiSleep_keeps | dsimp only | split

theorem State.faultWrite_keeps {s0 : State} (s : State) (a : Acc) (o : Nat) (w : W32) (hw : Option W32) (h : Keeps s0 s) :
    Keeps s0 (State.faultWrite s a o w hw) := by
  unfold State.faultWrite
  repeat'
    first
      | with_reducible assumption | intro _ | with_reducible apply Keeps.ite | with_reducible apply State.storeWord_keeps
      | with_reducible apply State.faultHook_keeps | dsimp only | split

theorem execFatalAssert_keeps {s0 : State} (s : State) (h : Keeps s0 s) :
    KeepsOut s0 (execFatalAssert s) := by
  unfold execFatalAssert
  repeat'
    first
      | with_reducible assumption | intro _ | with_reducible apply Keeps.ite | with_reducible apply KeepsOut.ite
      | with_reducible apply KeepsOut.fault | with_reducible apply KeepsOut.next | with_reducible apply run_keeps
      | with_reducible apply State.fatalAssert_keeps | dsimp only | split

theorem execFatalClear_keeps {s0 : State} (s : State) (h : Keeps s0 s) :
    KeepsOut s0 (execFatalClear s) := by
  unfold execFatalClear
  repeat'
    first
      | with_reducible assumption | intro _ | with_reducible apply Keeps.ite | with_reducible apply KeepsOut.ite
      | with_reducible apply KeepsOut.fault | with_reducible apply KeepsOut.next | with_reducible apply run_keeps
      | with_reducible apply State.fatalClear_keeps | dsimp only | split

theorem execPinReadbackFail_keeps {s0 : State} (svc : Bool) (s : State) (h : Keeps s0 s) :
    KeepsOut s0 (execPinReadbackFail svc s) := by
  unfold execPinReadbackFail
  repeat'
    first
      | with_reducible assumption | intro _ | with_reducible apply Keeps.ite | with_reducible apply KeepsOut.ite
      | with_reducible apply KeepsOut.fault | with_reducible apply KeepsOut.next | with_reducible apply State.setBit_keeps
      | with_reducible apply State.bump_keeps | with_reducible apply State.irq_keeps | with_reducible apply State.err_keeps
      | with_reducible apply run_keeps | dsimp only | split

theorem execFwfltSet_keeps {s0 : State} (a : Acc) (word : W32) (s : State) (h : Keeps s0 s) :
    KeepsOut s0 (execFwfltSet a word s) := by
  unfold execFwfltSet
  repeat'
    first
      | with_reducible assumption | intro _ | with_reducible apply Keeps.ite | with_reducible apply KeepsOut.ite
      | with_reducible apply KeepsOut.fault | with_reducible apply KeepsOut.next | with_reducible apply run_keeps
      | with_reducible apply State.viaPath_keeps | with_reducible apply State.faultWrite_keeps | dsimp only | split

theorem execFwfltClear_keeps {s0 : State} (a : Acc) (word : W32) (setNow : W32) (s : State) (h : Keeps s0 s) :
    KeepsOut s0 (execFwfltClear a word setNow s) := by
  unfold execFwfltClear
  repeat'
    first
      | with_reducible assumption | intro _ | with_reducible apply Keeps.ite | with_reducible apply KeepsOut.ite
      | with_reducible apply KeepsOut.fault | with_reducible apply KeepsOut.next | with_reducible apply State.setWord_keeps
      | with_reducible apply run_keeps | with_reducible apply State.viaPath_keeps | with_reducible apply State.faultWrite_keeps
      | dsimp only | split

theorem execFwfatalWrite_keeps {s0 : State} (a : Acc) (word : W32) (s : State) (h : Keeps s0 s) :
    KeepsOut s0 (execFwfatalWrite a word s) := by
  unfold execFwfatalWrite
  repeat'
    first
      | with_reducible assumption | intro _ | with_reducible apply Keeps.ite | with_reducible apply KeepsOut.ite
      | with_reducible apply KeepsOut.fault | with_reducible apply KeepsOut.next | with_reducible apply run_keeps
      | with_reducible apply State.viaPath_keeps | with_reducible apply State.faultWrite_keeps | dsimp only | split

end Sys2Proof.Machine
end

