-- ==== Sys2Proof/Laws/KeepPit.lean ====
section
/-!
SUPPORT. The operations of Machine/Pit.lean keep the queue and the invariant.
-/
set_option linter.unusedTactic false
set_option linter.unreachableTactic false
namespace Sys2Proof.Machine

theorem State.setPin_keeps {s0 : State} (s : State) (i : Nat) (v : PitIn) (h : Keeps s0 s) :
    Keeps s0 (State.setPin s i v) := by
  unfold State.setPin
  repeat'
    first
      | with_reducible assumption | intro _ | with_reducible apply Keeps.ite | dsimp only
      | (refine Keeps.of ?_; dsimp only; with_reducible apply Keeps.back)

theorem State.setPot_keeps {s0 : State} (s : State) (o : Nat) (v : PitOut) (h : Keeps s0 s) :
    Keeps s0 (State.setPot s o v) := by
  unfold State.setPot
  repeat'
    first
      | with_reducible assumption | intro _ | with_reducible apply Keeps.ite | dsimp only
      | (refine Keeps.of ?_; dsimp only; with_reducible apply Keeps.back)

theorem State.lineError_keeps {s0 : State} (s : State) (addr : Nat) (h : Keeps s0 s) :
    Keeps s0 (State.lineError s addr) := by
  unfold State.lineError
  repeat'
    first
      | with_reducible assumption | intro _ | with_reducible apply Keeps.ite | with_reducible apply State.bump_keeps
      | with_reducible apply State.irq_keeps | with_reducible apply State.err_keeps | dsimp only

theorem State.lineStep_keeps {s0 : State} (s : State) (n : Option Nat) (l : DLine) (x : Nat) (bad : Bool) (h : Keeps s0 s) :
    Keeps s0 (State.lineStep s n l x bad).1 := by
  unfold State.lineStep
  repeat'
    first
      | with_reducible assumption | intro _ | with_reducible apply Keeps.ite | with_reducible apply State.when_keeps
      | with_reducible apply State.areaSeen_keeps | with_reducible apply State.engineWrite_keeps
      | with_reducible apply State.lineError_keeps | dsimp only
      | (refine Keeps.of ?_; dsimp only; with_reducible apply Keeps.back) | split

theorem State.pitOutLive_keeps {s0 : State} (s : State) (o : Nat) (h : Keeps s0 s) :
    Keeps s0 (State.pitOutLive s o) := by
  unfold State.pitOutLive
  repeat'
    first
      | with_reducible assumption | intro _ | with_reducible apply Keeps.ite | with_reducible apply State.setPot_keeps
      | dsimp only | (refine Keeps.of ?_; dsimp only; with_reducible apply Keeps.back) | split

theorem State.pitTabLive_keeps {s0 : State} (s : State) (h : Keeps s0 s) :
    Keeps s0 (State.pitTabLive s) := by
  unfold State.pitTabLive
  repeat'
    first
      | with_reducible assumption | intro _ | with_reducible apply Keeps.foldl | with_reducible apply Keeps.foldlFst
      | with_reducible apply Keeps.ite | with_reducible apply State.setFld_keeps | with_reducible apply State.pitOutLive_keeps
      | dsimp only | (refine Keeps.of ?_; dsimp only; with_reducible apply Keeps.back) | split

theorem State.pitWinApply_keeps {s0 : State} (s : State) (h : Keeps s0 s) :
    Keeps s0 (State.pitWinApply s) := by
  unfold State.pitWinApply
  repeat'
    first
      | with_reducible assumption | intro _ | with_reducible apply Keeps.ite | with_reducible apply State.applySlot_keeps
      | with_reducible apply State.pitTabLive_keeps | dsimp only | split

theorem State.pitLatLive_keeps {s0 : State} (s : State) (old : Nat) (h : Keeps s0 s) :
    Keeps s0 (State.pitLatLive s old) := by
  unfold State.pitLatLive
  repeat'
    first
      | with_reducible assumption | intro _ | with_reducible apply Keeps.ite | dsimp only
      | (refine Keeps.of ?_; dsimp only; with_reducible apply Keeps.back) | split

theorem State.pitCtlApply_keeps {s0 : State} (s : State) (h : Keeps s0 s) :
    Keeps s0 (State.pitCtlApply s) := by
  unfold State.pitCtlApply
  repeat'
    first
      | with_reducible assumption | intro _ | with_reducible apply Keeps.ite | with_reducible apply State.applySlot_keeps
      | with_reducible apply State.pitLatLive_keeps | dsimp only

theorem State.pitDirect_keeps {s0 : State} (s : State) (out : Nat) (src : Option Nat) (kind tgt : Nat) (h : Keeps s0 s) :
    Keeps s0 (State.pitDirect s out src kind tgt) := by
  unfold State.pitDirect
  repeat'
    first
      | with_reducible assumption | intro _ | with_reducible apply Keeps.ite | with_reducible apply State.setFld_keeps
      | with_reducible apply State.journal_keeps | dsimp only
      | (refine Keeps.of ?_; dsimp only; with_reducible apply Keeps.back) | split

theorem State.pitSubmit_keeps {s0 : State} (s : State) (m : Nat) (h : Keeps s0 s) :
    Keeps s0 (State.pitSubmit s m) := by
  unfold State.pitSubmit
  repeat'
    first
      | with_reducible assumption | intro _ | with_reducible apply Keeps.ite | with_reducible apply State.bump_keeps
      | with_reducible apply State.irq_keeps | with_reducible apply State.when_keeps | with_reducible apply State.setMfld_keeps
      | with_reducible apply State.setPot_keeps | with_reducible apply State.pitDirect_keeps | dsimp only
      | (refine Keeps.of ?_; dsimp only; with_reducible apply Keeps.back) | split

theorem State.pitFollow_keeps {s0 : State} (s : State) (seq out : Nat) (src : Option Nat) (point : Nat) (h : Keeps s0 s) :
    Keeps s0 (State.pitFollow s seq out src point) := by
  unfold State.pitFollow
  repeat'
    first
      | with_reducible assumption | intro _ | with_reducible apply Keeps.ite | dsimp only
      | (refine Keeps.of ?_; dsimp only; with_reducible apply Keeps.back) | split

theorem State.pitLandOne_keeps {s0 : State} (s : State) (o : Nat) (t : PitTake) (h : Keeps s0 s) :
    Keeps s0 (State.pitLandOne s o t) := by
  unfold State.pitLandOne
  repeat'
    first
      | with_reducible assumption | intro _ | with_reducible apply Keeps.ite | with_reducible apply State.bump_keeps
      | with_reducible apply State.when_keeps | with_reducible apply State.setPot_keeps | with_reducible apply State.cut_keeps
      | dsimp only | (refine Keeps.of ?_; dsimp only; with_reducible apply Keeps.back) | split

theorem State.pitLand_keeps {s0 : State} (s : State) (o : Nat) (h : Keeps s0 s) :
    Keeps s0 (State.pitLand s o) := by
  unfold State.pitLand
  repeat'
    first
      | with_reducible assumption | intro _ | with_reducible apply Keeps.foldl | with_reducible apply Keeps.foldlFst
      | with_reducible apply Keeps.ite | with_reducible apply State.setFld_keeps | with_reducible apply State.bump_keeps
      | with_reducible apply State.irq_keeps | with_reducible apply State.when_keeps
      | with_reducible apply State.pitLandOne_keeps | dsimp only
      | (refine Keeps.of ?_; dsimp only; with_reducible apply Keeps.back) | split

theorem State.pitFadeEnd_keeps {s0 : State} (s : State) (o : Nat) (h : Keeps s0 s) :
    Keeps s0 (State.pitFadeEnd s o) := by
  unfold State.pitFadeEnd
  repeat'
    first
      | with_reducible assumption | intro _ | with_reducible apply Keeps.ite | with_reducible apply State.setPot_keeps
      | dsimp only | (refine Keeps.of ?_; dsimp only; with_reducible apply Keeps.back) | split

theorem State.pitCut_keeps {s0 : State} (s : State) (o : Nat) (h : Keeps s0 s) :
    Keeps s0 (State.pitCut s o) := by
  unfold State.pitCut
  repeat'
    first
      | with_reducible assumption | intro _ | with_reducible apply Keeps.ite | with_reducible apply State.bump_keeps
      | with_reducible apply State.when_keeps | with_reducible apply State.setPot_keeps | with_reducible apply State.cut_keeps
      | dsimp only | (refine Keeps.of ?_; dsimp only; with_reducible apply Keeps.back) | split

theorem State.pitWindow_keeps {s0 : State} (s : State) (a : Acc) (isStore : Bool) (h : Keeps s0 s) :
    Keeps s0 (State.pitWindow s a isStore) := by
  unfold State.pitWindow
  repeat'
    first
      | with_reducible assumption | intro _ | with_reducible apply Keeps.ite | with_reducible apply State.setWord_keeps
      | with_reducible apply State.setFld_keeps | with_reducible apply State.setBit_keeps
      | with_reducible apply State.accErr_keeps | dsimp only | (refine Keeps.of ?_; dsimp only; with_reducible apply Keeps.back)
      | split

theorem State.pitWinHook_keeps {s0 : State} (s : State) (a : Acc) (o : Nat) (eff : W32) (h : Keeps s0 s) :
    Keeps s0 (State.pitWinHook s a o eff) := by
  unfold State.pitWinHook
  repeat'
    first
      | with_reducible assumption | intro _ | with_reducible apply Keeps.ite | with_reducible apply State.pitWindow_keeps
      | dsimp only | split

theorem State.pitWinWrite_keeps {s0 : State} (s : State) (a : Acc) (o : Nat) (w : W32) (hw : Option W32) (h : Keeps s0 s) :
    Keeps s0 (State.pitWinWrite s a o w hw) := by
  unfold State.pitWinWrite
  repeat'
    first
      | with_reducible assumption | intro _ | with_reducible apply Keeps.ite | with_reducible apply State.storeWord_keeps
      | with_reducible apply State.pitWinHook_keeps | dsimp only | split

theorem State.pitTakeWrite_keeps {s0 : State} (s : State) (a : Acc) (o : Nat) (w : W32) (h : Keeps s0 s) :
    Keeps s0 (State.pitTakeWrite s a o w) := by
  unfold State.pitTakeWrite
  repeat'
    first
      | with_reducible assumption | intro _ | with_reducible apply Keeps.ite | with_reducible apply State.storeFor_keeps
      | with_reducible apply State.pitSubmit_keeps | dsimp only | split

theorem execPitRegrid_keeps {s0 : State} (s : State) (h : Keeps s0 s) :
    KeepsOut s0 (execPitRegrid s) := by
  unfold execPitRegrid
  repeat'
    first
      | with_reducible assumption | intro _ | with_reducible apply Keeps.ite | with_reducible apply KeepsOut.ite
      | with_reducible apply KeepsOut.fault | with_reducible apply KeepsOut.next | with_reducible apply State.setBit_keeps
      | with_reducible apply State.bump_keeps | with_reducible apply State.irq_keeps | with_reducible apply run_keeps
      | dsimp only | (refine Keeps.of ?_; dsimp only; with_reducible apply Keeps.back) | split

theorem execPitTakeSubmit_keeps {s0 : State} (a : Acc) (word : W32) (s : State) (h : Keeps s0 s) :
    KeepsOut s0 (execPitTakeSubmit a word s) := by
  unfold execPitTakeSubmit
  repeat'
    first
      | with_reducible assumption | intro _ | with_reducible apply Keeps.ite | with_reducible apply KeepsOut.ite
      | with_reducible apply KeepsOut.fault | with_reducible apply KeepsOut.next | with_reducible apply run_keeps
      | with_reducible apply State.viaPath_keeps | with_reducible apply State.pitTakeWrite_keeps | dsimp only | split

theorem execPitTakeLand_keeps {s0 : State} (out : Fin 65536) (s : State) (h : Keeps s0 s) :
    KeepsOut s0 (execPitTakeLand out s) := by
  unfold execPitTakeLand
  repeat'
    first
      | with_reducible assumption | intro _ | with_reducible apply Keeps.ite | with_reducible apply KeepsOut.ite
      | with_reducible apply KeepsOut.fault | with_reducible apply KeepsOut.next | with_reducible apply run_keeps
      | with_reducible apply State.pitLand_keeps | dsimp only | split

theorem execCrossfadeEnd_keeps {s0 : State} (out : Fin 65536) (s : State) (h : Keeps s0 s) :
    KeepsOut s0 (execCrossfadeEnd out s) := by
  unfold execCrossfadeEnd
  repeat'
    first
      | with_reducible assumption | intro _ | with_reducible apply Keeps.ite | with_reducible apply KeepsOut.ite
      | with_reducible apply KeepsOut.fault | with_reducible apply KeepsOut.next | with_reducible apply run_keeps
      | with_reducible apply State.pitFadeEnd_keeps | dsimp only | split

theorem execTransparentCut_keeps {s0 : State} (out : Fin 65536) (s : State) (h : Keeps s0 s) :
    KeepsOut s0 (execTransparentCut out s) := by
  unfold execTransparentCut
  repeat'
    first
      | with_reducible assumption | intro _ | with_reducible apply Keeps.ite | with_reducible apply KeepsOut.ite
      | with_reducible apply KeepsOut.fault | with_reducible apply KeepsOut.next | with_reducible apply run_keeps
      | with_reducible apply State.pitCut_keeps | dsimp only | split

theorem execPitWindowLoad_keeps {s0 : State} (a : Acc) (s : State) (h : Keeps s0 s) :
    KeepsOut s0 (execPitWindowLoad a s) := by
  unfold execPitWindowLoad
  repeat'
    first
      | with_reducible assumption | intro _ | with_reducible apply Keeps.ite | with_reducible apply KeepsOut.ite
      | with_reducible apply KeepsOut.fault | with_reducible apply KeepsOut.next | with_reducible apply run_keeps
      | with_reducible apply State.viaPath_keeps | with_reducible apply State.pitWinWrite_keeps | dsimp only | split

theorem execPitWindowStore_keeps {s0 : State} (a : Acc) (s : State) (h : Keeps s0 s) :
    KeepsOut s0 (execPitWindowStore a s) := by
  unfold execPitWindowStore
  repeat'
    first
      | with_reducible assumption | intro _ | with_reducible apply Keeps.ite | with_reducible apply KeepsOut.ite
      | with_reducible apply KeepsOut.fault | with_reducible apply KeepsOut.next | with_reducible apply run_keeps
      | with_reducible apply State.viaPath_keeps | with_reducible apply State.pitWinWrite_keeps | dsimp only | split

theorem execPitTableCrcPass_keeps {s0 : State} (s : State) (h : Keeps s0 s) :
    KeepsOut s0 (execPitTableCrcPass s) := by
  unfold execPitTableCrcPass
  repeat'
    first
      | with_reducible assumption | intro _ | with_reducible apply Keeps.ite | with_reducible apply KeepsOut.ite
      | with_reducible apply KeepsOut.fault | with_reducible apply KeepsOut.next | with_reducible apply State.setFld_keeps
      | with_reducible apply run_keeps | with_reducible apply State.cfgFault_keeps | dsimp only | split

end Sys2Proof.Machine
end

