-- ==== Sys2Proof/Laws/KeepSync.lean ====
section
/-!
SUPPORT. The operations of Machine/Sync.lean keep the queue and the invariant.
-/
set_option linter.unusedTactic false
set_option linter.unreachableTactic false
namespace Sys2Proof.Machine

theorem State.synCount_keeps {s0 : State} (s : State) (h : Keeps s0 s) :
    Keeps s0 (State.synCount s) := by
  unfold State.synCount
  repeat'
    first
      | with_reducible assumption | intro _ | with_reducible apply Keeps.ite | with_reducible apply State.setFld_keeps
      | dsimp only | split

theorem State.synStart_keeps {s0 : State} (s : State) (b : Nat) (h : Keeps s0 s) :
    Keeps s0 (State.synStart s b) := by
  unfold State.synStart
  repeat'
    first
      | with_reducible assumption | intro _ | with_reducible apply Keeps.ite | with_reducible apply State.setSy_keeps
      | with_reducible apply State.setSyFld_keeps | with_reducible apply State.synLost_keeps
      | with_reducible apply State.synCount_keeps | dsimp only

theorem State.synMute_keeps {s0 : State} (s : State) (b : Nat) (h : Keeps s0 s) :
    Keeps s0 (State.synMute s b) := by
  unfold State.synMute
  repeat'
    first
      | with_reducible assumption | intro _ | with_reducible apply Keeps.ite | dsimp only
      | (refine Keeps.of ?_; dsimp only; with_reducible apply Keeps.back) | split

theorem State.synStop_keeps {s0 : State} (s : State) (b : Nat) (h : Keeps s0 s) :
    Keeps s0 (State.synStop s b) := by
  unfold State.synStop
  repeat'
    first
      | with_reducible assumption | intro _ | with_reducible apply Keeps.ite | with_reducible apply State.setSy_keeps
      | with_reducible apply State.setSyFld_keeps | with_reducible apply State.synLoss_keeps
      | with_reducible apply State.synCount_keeps | with_reducible apply State.synMute_keeps | dsimp only

theorem State.synClaim_keeps {s0 : State} (s : State) (b w g : Nat) (h : Keeps s0 s) :
    Keeps s0 (State.synClaim s b w g) := by
  unfold State.synClaim
  repeat'
    first
      | with_reducible assumption | intro _ | with_reducible apply Keeps.foldl | with_reducible apply Keeps.foldlFst
      | with_reducible apply Keeps.ite | with_reducible apply State.setSy_keeps | with_reducible apply State.setSyFld_keeps
      | with_reducible apply State.synStart_keeps | dsimp only
      | (refine Keeps.of ?_; dsimp only; with_reducible apply Keeps.back)

theorem State.synFree_keeps {s0 : State} (s : State) (b : Nat) (h : Keeps s0 s) :
    Keeps s0 (State.synFree s b) := by
  unfold State.synFree
  repeat'
    first
      | with_reducible assumption | intro _ | with_reducible apply Keeps.foldl | with_reducible apply Keeps.foldlFst
      | with_reducible apply Keeps.ite | with_reducible apply State.setSyFld_keeps | with_reducible apply State.synStop_keeps
      | dsimp only | split

theorem State.synLive_keeps {s0 : State} (s : State) (k : Nat) (was : Bool) (h : Keeps s0 s) :
    Keeps s0 (State.synLive s k was) := by
  unfold State.synLive
  repeat'
    first
      | with_reducible assumption | intro _ | with_reducible apply Keeps.ite | with_reducible apply State.synStart_keeps
      | with_reducible apply State.synStop_keeps | dsimp only | split

theorem State.synApply_keeps {s0 : State} (s : State) (k : Nat) (h : Keeps s0 s) :
    Keeps s0 (State.synApply s k) := by
  unfold State.synApply
  repeat'
    first
      | with_reducible assumption | intro _ | with_reducible apply Keeps.ite | with_reducible apply State.applySlot_keeps
      | with_reducible apply State.synLive_keeps | dsimp only

theorem State.ringLine_keeps {s0 : State} (s : State) (r k : Nat) (h : Keeps s0 s) :
    Keeps s0 (State.ringLine s r k) := by
  unfold State.ringLine
  repeat'
    first
      | with_reducible assumption | intro _ | with_reducible apply Keeps.foldl | with_reducible apply Keeps.foldlFst
      | with_reducible apply Keeps.ite | with_reducible apply State.engineWrite_keeps | dsimp only
      | (refine Keeps.of ?_; dsimp only; with_reducible apply Keeps.back) | split

theorem State.synWrite_keeps {s0 : State} (s : State) (b w : Nat) (f : Fmt) (h : Keeps s0 s) :
    Keeps s0 (State.synWrite s b w f) := by
  unfold State.synWrite
  repeat'
    first
      | with_reducible assumption | intro _ | with_reducible apply Keeps.ite | with_reducible apply State.setSy_keeps
      | with_reducible apply State.setSyFld_keeps | dsimp only
      | (refine Keeps.of ?_; dsimp only; with_reducible apply Keeps.back) | split

theorem State.synTaken_keeps {s0 : State} (s : State) (b : Nat) (h : Keeps s0 s) :
    Keeps s0 (State.synTaken s b) := by
  unfold State.synTaken
  repeat'
    first
      | with_reducible assumption | intro _ | with_reducible apply Keeps.ite | with_reducible apply State.setSy_keeps
      | with_reducible apply State.synLost_keeps | dsimp only
      | (refine Keeps.of ?_; dsimp only; with_reducible apply Keeps.back) | split

theorem State.synTally_keeps {s0 : State} (s : State) (b m : Nat) (h : Keeps s0 s) :
    Keeps s0 (State.synTally s b m) := by
  unfold State.synTally
  repeat'
    first
      | with_reducible assumption | intro _ | with_reducible apply Keeps.ite | with_reducible apply State.syCount_keeps
      | with_reducible apply State.syIrq_keeps | dsimp only | (refine Keeps.of ?_; dsimp only; with_reducible apply Keeps.back)
      | split

theorem State.synRun_keeps {s0 : State} (s : State) (b F : Nat) (h : Keeps s0 s) :
    Keeps s0 (State.synRun s b F) := by
  unfold State.synRun
  repeat'
    first
      | with_reducible assumption | intro _ | with_reducible apply Keeps.ite | with_reducible apply State.setSy_keeps
      | with_reducible apply State.setSyFld_keeps | with_reducible apply State.syIrq_keeps | dsimp only
      | (refine Keeps.of ?_; dsimp only; with_reducible apply Keeps.back) | split

theorem State.synDecide_keeps {s0 : State} (s : State) (b F D : Nat) (h : Keeps s0 s) :
    Keeps s0 (State.synDecide s b F D) := by
  unfold State.synDecide
  repeat'
    first
      | with_reducible assumption | intro _ | with_reducible apply Keeps.ite | with_reducible apply State.journal_keeps
      | with_reducible apply State.setSy_keeps | with_reducible apply State.synTally_keeps
      | with_reducible apply State.synRun_keeps | dsimp only | (refine Keeps.of ?_; dsimp only; with_reducible apply Keeps.back)
      | split

theorem State.synDelay_keeps {s0 : State} (s : State) (b : Nat) (h : Keeps s0 s) :
    Keeps s0 (State.synDelay s b) := by
  unfold State.synDelay
  repeat'
    first
      | with_reducible assumption | intro _ | with_reducible apply Keeps.foldl | with_reducible apply Keeps.foldlFst
      | with_reducible apply Keeps.ite | dsimp only | (refine Keeps.of ?_; dsimp only; with_reducible apply Keeps.back) | split

theorem State.synFollow_keeps {s0 : State} (s : State) (b F : Nat) (own : Option Nat) (h : Keeps s0 s) :
    Keeps s0 (State.synFollow s b F own).1 := by
  unfold State.synFollow
  repeat'
    first
      | with_reducible assumption | intro _ | with_reducible apply Keeps.ite | with_reducible apply State.when_keeps
      | with_reducible apply State.err_keeps | with_reducible apply State.setSy_keeps | with_reducible apply State.syCount_keeps
      | with_reducible apply State.syIrq_keeps | with_reducible apply State.synTally_keeps | dsimp only
      | (refine Keeps.of ?_; dsimp only; with_reducible apply Keeps.back) | split

theorem State.synSeen_keeps {s0 : State} (s : State) (b : Nat) (fr : SynFrame) (bad : List Nat) (h : Keeps s0 s) :
    Keeps s0 (State.synSeen s b fr bad) := by
  unfold State.synSeen
  repeat'
    first
      | with_reducible assumption | intro _ | with_reducible apply Keeps.foldl | with_reducible apply Keeps.foldlFst
      | with_reducible apply Keeps.ite | with_reducible apply State.granuleSeen_keeps | dsimp only

theorem State.synShow_keeps {s0 : State} (s : State) (b F m : Nat) (missing bad : List Nat) (h : Keeps s0 s) :
    Keeps s0 (State.synShow s b F m missing bad) := by
  unfold State.synShow
  repeat'
    first
      | with_reducible assumption | intro _ | with_reducible apply Keeps.foldl | with_reducible apply Keeps.foldlFst
      | with_reducible apply Keeps.ite | with_reducible apply State.err_keeps | with_reducible apply State.setSy_keeps
      | with_reducible apply State.setSyFld_keeps | with_reducible apply State.syCount_keeps
      | with_reducible apply State.syIrq_keeps | with_reducible apply State.synSeen_keeps | dsimp only
      | (refine Keeps.of ?_; dsimp only; with_reducible apply Keeps.back) | split

theorem State.synFrame_keeps {s0 : State} (s : State) (b F : Nat) (own : Option Nat) (missing bad : List Nat) (h : Keeps s0 s) :
    Keeps s0 (State.synFrame s b F own missing bad) := by
  unfold State.synFrame
  repeat'
    first
      | with_reducible assumption | intro _ | with_reducible apply Keeps.ite | with_reducible apply State.setFld64_keeps
      | with_reducible apply State.setSy_keeps | with_reducible apply State.synApply_keeps
      | with_reducible apply State.synRun_keeps | with_reducible apply State.synDelay_keeps
      | with_reducible apply State.synFollow_keeps | with_reducible apply State.synShow_keeps | dsimp only
      | (refine Keeps.of ?_; dsimp only; with_reducible apply Keeps.back) | split
      | with_reducible refine Keeps.pair (by with_reducible assumption) ?_

theorem execSyncInputFrame_keeps {s0 : State} (unit : Fin 256) (cue : Fin 16) (s : State) (h : Keeps s0 s) :
    KeepsOut s0 (execSyncInputFrame unit cue s) := by
  unfold execSyncInputFrame
  repeat'
    first
      | with_reducible assumption | intro _ | with_reducible apply Keeps.ite | with_reducible apply KeepsOut.ite
      | with_reducible apply KeepsOut.fault | with_reducible apply KeepsOut.next | with_reducible apply run_keeps
      | with_reducible apply State.setSyFld_keeps | with_reducible apply State.synLost_keeps
      | with_reducible apply State.synWrite_keeps | dsimp only
      | (refine Keeps.of ?_; dsimp only; with_reducible apply Keeps.back) | split

theorem execSyncDecision_keeps {s0 : State} (unit : Fin 256) (s : State) (h : Keeps s0 s) :
    KeepsOut s0 (execSyncDecision unit s) := by
  unfold execSyncDecision
  repeat'
    first
      | with_reducible assumption | intro _ | with_reducible apply Keeps.ite | with_reducible apply KeepsOut.ite
      | with_reducible apply KeepsOut.fault | with_reducible apply KeepsOut.next | with_reducible apply run_keeps
      | with_reducible apply State.synDecide_keeps | dsimp only
      | (refine Keeps.of ?_; dsimp only; with_reducible apply Keeps.back) | split

theorem execSyncOutputFrameStart_keeps {s0 : State} (unit : Fin 256) (missing bad : List Nat) (s : State) (h : Keeps s0 s) :
    KeepsOut s0 (execSyncOutputFrameStart unit missing bad s) := by
  unfold execSyncOutputFrameStart
  repeat'
    first
      | with_reducible assumption | intro _ | with_reducible apply Keeps.ite | with_reducible apply KeepsOut.ite
      | with_reducible apply KeepsOut.fault | with_reducible apply KeepsOut.next | with_reducible apply run_keeps
      | with_reducible apply State.synFrame_keeps | dsimp only
      | (refine Keeps.of ?_; dsimp only; with_reducible apply Keeps.back) | split

theorem execRailLineRelease_keeps {s0 : State} (rail : Fin 2048) (field : Fin 2) (pix : List (Option Nat)) (late : Bool) (sram : Option Nat) (s : State) (h : Keeps s0 s) :
    KeepsOut s0 (execRailLineRelease rail field pix late sram s) := by
  unfold execRailLineRelease
  repeat'
    first
      | with_reducible assumption | intro _ | with_reducible apply Keeps.ite | with_reducible apply KeepsOut.ite
      | with_reducible apply KeepsOut.fault | with_reducible apply KeepsOut.next | with_reducible apply State.railLine_keeps
      | with_reducible apply runRails_keeps | with_reducible apply State.ringLine_keeps | dsimp only | split

end Sys2Proof.Machine
end

