-- ==== Sys2Proof/Laws/KeepTurntable.lean ====
section
/-!
SUPPORT. The operations of Machine/Turntable.lean keep the queue and the invariant.
-/
set_option linter.unusedTactic false
set_option linter.unreachableTactic false
namespace Sys2Proof.Machine

theorem State.setTakes_keeps {s0 : State} (s : State) (t : Nat) (l : List Take) (h : Keeps s0 s) :
    Keeps s0 (State.setTakes s t l) := by
  unfold State.setTakes
  repeat'
    first
      | with_reducible assumption | intro _ | with_reducible apply Keeps.ite | with_reducible apply State.setTapFld_keeps
      | dsimp only | (refine Keeps.of ?_; dsimp only; with_reducible apply Keeps.back)

theorem State.tally_keeps {s0 : State} (s : State) (r : Nat) (h : Keeps s0 s) :
    Keeps s0 (State.tally s r) := by
  unfold State.tally
  repeat'
    first
      | with_reducible assumption | intro _ | with_reducible apply Keeps.foldl | with_reducible apply Keeps.foldlFst
      | with_reducible apply Keeps.ite | with_reducible apply State.setWord_keeps | dsimp only | split

theorem State.select_keeps {s0 : State} (s : State) (t r : Nat) (h : Keeps s0 s) :
    Keeps s0 (State.select s t r) := by
  unfold State.select
  repeat'
    first
      | with_reducible assumption | intro _ | with_reducible apply Keeps.ite | with_reducible apply State.when_keeps
      | with_reducible apply State.setTapFld_keeps | with_reducible apply State.tapJudge_keeps
      | with_reducible apply State.fmtCut_keeps | with_reducible apply State.tally_keeps | dsimp only
      | (refine Keeps.of ?_; dsimp only; with_reducible apply Keeps.back)

theorem State.tapEvent_keeps {s0 : State} (s : State) (t b : Nat) (h : Keeps s0 s) :
    Keeps s0 (State.tapEvent s t b) := by
  unfold State.tapEvent
  repeat'
    first
      | with_reducible assumption | intro _ | with_reducible apply Keeps.ite | with_reducible apply State.irq_keeps
      | with_reducible apply State.setTapFld_keeps | dsimp only

theorem State.ttRefuse_keeps {s0 : State} (s : State) (t code : Nat) (h : Keeps s0 s) :
    Keeps s0 (State.ttRefuse s t code) := by
  unfold State.ttRefuse
  repeat'
    first
      | with_reducible assumption | intro _ | with_reducible apply Keeps.ite | with_reducible apply State.bump_keeps
      | with_reducible apply State.irq_keeps | with_reducible apply State.when_keeps
      | with_reducible apply State.setTapFld_keeps | with_reducible apply State.tapCount_keeps
      | with_reducible apply State.tapEvent_keeps | dsimp only

theorem State.ttInvalid_keeps {s0 : State} (s : State) (t : Nat) (h : Keeps s0 s) :
    Keeps s0 (State.ttInvalid s t) := by
  unfold State.ttInvalid
  repeat'
    first
      | with_reducible assumption | intro _ | with_reducible apply Keeps.ite | with_reducible apply State.err_keeps
      | with_reducible apply State.ttRefuse_keeps | dsimp only | split

theorem State.pushResult_keeps {s0 : State} (s : State) (r : CueRes) (h : Keeps s0 s) : Keeps s0 (State.pushResult s r) := by
  unfold State.pushResult
  split
  · exact State.err_keeps _ _ _ _ _ (State.irq_keeps _ _ _ (State.bump_keeps _ _ _ _ _ h))
  · refine State.irq_keeps _ _ _ (State.setFld_keeps _ _ _ _ _ (h.sound rfl fun i => { i with results := ?_ }))
    simp only [List.length_append, List.length_singleton]
    omega

theorem State.salvoEnd_keeps {s0 : State} (s : State) (h : Keeps s0 s) :
    Keeps s0 (State.salvoEnd s) := by
  unfold State.salvoEnd
  repeat'
    first
      | with_reducible assumption | intro _ | with_reducible apply Keeps.foldl | with_reducible apply Keeps.foldlFst
      | with_reducible apply Keeps.ite | with_reducible apply State.pushResult_keeps | dsimp only
      | (refine Keeps.of ?_; dsimp only; with_reducible apply Keeps.back)

theorem State.salvoPair_keeps {s0 : State} (s : State) (id : Option Nat) (late : Bool) (h : Keeps s0 s) :
    Keeps s0 (State.salvoPair s id late) := by
  unfold State.salvoPair
  repeat'
    first
      | with_reducible assumption | intro _ | with_reducible apply Keeps.ite | with_reducible apply State.salvoEnd_keeps
      | dsimp only | (refine Keeps.of ?_; dsimp only; with_reducible apply Keeps.back) | split

theorem State.countClaims_keeps {s0 : State} (s : State) (h : Keeps s0 s) :
    Keeps s0 (State.countClaims s) := by
  unfold State.countClaims
  repeat'
    first
      | with_reducible assumption | intro _ | with_reducible apply Keeps.ite | with_reducible apply State.setFld_keeps
      | dsimp only | split

theorem State.asyncClaim_keeps {s0 : State} (s : State) (t r b w g : Nat) (h : Keeps s0 s) :
    Keeps s0 (State.asyncClaim s t r b w g) := by
  unfold State.asyncClaim
  repeat'
    first
      | with_reducible assumption | intro _ | with_reducible apply Keeps.ite | with_reducible apply State.setTapFld_keeps
      | with_reducible apply State.synClaim_keeps | with_reducible apply State.select_keeps
      | with_reducible apply State.countClaims_keeps | dsimp only

theorem State.asyncTidy_keeps {s0 : State} (s : State) (h : Keeps s0 s) :
    Keeps s0 (State.asyncTidy s) := by
  unfold State.asyncTidy
  repeat'
    first
      | with_reducible assumption | intro _ | with_reducible apply Keeps.foldl | with_reducible apply Keeps.foldlFst
      | with_reducible apply Keeps.ite | with_reducible apply State.synFree_keeps | with_reducible apply State.select_keeps
      | with_reducible apply State.countClaims_keeps | dsimp only | split

theorem State.armAs_keeps {s0 : State} (s : State) (t r : Nat) (bkwy : Bool) (target : Nat) (salvo : Option Nat) (cls : Nat) (unit : Option (Nat × Nat)) (h : Keeps s0 s) :
    Keeps s0 (State.armAs s t r bkwy target salvo cls unit) := by
  unfold State.armAs
  repeat'
    first
      | with_reducible assumption | intro _ | with_reducible apply Keeps.ite | with_reducible apply State.journal_keeps
      | with_reducible apply State.setTakes_keeps | with_reducible apply State.asyncClaim_keeps | dsimp only
      | (refine Keeps.of ?_; dsimp only; with_reducible apply Keeps.back) | split

theorem State.journalRefused_keeps {s0 : State} (s : State) (t r : Nat) (bkwy : Bool) (c : Nat) (h : Keeps s0 s) :
    Keeps s0 (State.journalRefused s t r bkwy c) := by
  unfold State.journalRefused
  repeat'
    first
      | with_reducible assumption | intro _ | with_reducible apply Keeps.ite | with_reducible apply State.journal_keeps
      | dsimp only

theorem State.armTake_keeps {s0 : State} (s : State) (t r : Nat) (bkwy : Bool) (target : Nat) (salvo : Option Nat) (h : Keeps s0 s) :
    Keeps s0 (State.armTake s t r bkwy target salvo).1 := by
  unfold State.armTake
  repeat'
    first
      | with_reducible assumption | intro _ | with_reducible apply Keeps.ite | with_reducible apply State.ttRefuse_keeps
      | with_reducible apply State.armAs_keeps | with_reducible apply State.journalRefused_keeps | dsimp only
      | (refine Keeps.of ?_; dsimp only; with_reducible apply Keeps.back) | split

theorem State.tapCtlWritten_keeps {s0 : State} (s : State) (a : Acc) (t : Nat) (old : W32) (h : Keeps s0 s) :
    Keeps s0 (State.tapCtlWritten s a t old) := by
  unfold State.tapCtlWritten
  repeat'
    first
      | with_reducible assumption | intro _ | with_reducible apply Keeps.ite | with_reducible apply State.accErr_keeps
      | with_reducible apply State.setTapFld_keeps | with_reducible apply State.ttRefuse_keeps
      | with_reducible apply State.armTake_keeps | dsimp only | split
      | with_reducible refine Keeps.pair (by with_reducible assumption) ?_

theorem State.tapHook_keeps {s0 : State} (s : State) (a : Acc) (q o : Nat) (old : W32) (h : Keeps s0 s) :
    Keeps s0 (State.tapHook s a q o old) := by
  unfold State.tapHook
  repeat'
    first
      | with_reducible assumption | intro _ | with_reducible apply Keeps.ite | with_reducible apply State.tapCtlWritten_keeps
      | dsimp only | split

theorem State.tapWrite_keeps {s0 : State} (s : State) (a : Acc) (q o : Nat) (w : W32) (hw : Option W32) (h : Keeps s0 s) :
    Keeps s0 (State.tapWrite s a q o w hw) := by
  unfold State.tapWrite
  repeat'
    first
      | with_reducible assumption | intro _ | with_reducible apply Keeps.ite | with_reducible apply State.storeWord_keeps
      | with_reducible apply State.tapHook_keeps | dsimp only | split

theorem State.ttOverride_keeps {s0 : State} (s : State) (t : Nat) (k : Take) (h : Keeps s0 s) :
    Keeps s0 (State.ttOverride s t k) := by
  unfold State.ttOverride
  repeat'
    first
      | with_reducible assumption | intro _ | with_reducible apply Keeps.ite | with_reducible apply State.bump_keeps
      | with_reducible apply State.irq_keeps | with_reducible apply State.setTapFld_keeps
      | with_reducible apply State.tapEvent_keeps | with_reducible apply State.salvoPair_keeps | dsimp only

theorem State.audioFollow_keeps {s0 : State} (s : State) (t : Nat) (k : Take) (rail S : Nat) (h : Keeps s0 s) :
    Keeps s0 (State.audioFollow s t k rail S) := by
  unfold State.audioFollow
  repeat'
    first
      | with_reducible assumption | intro _ | with_reducible apply Keeps.foldl | with_reducible apply Keeps.foldlFst
      | with_reducible apply Keeps.ite | with_reducible apply State.pitFollow_keeps | dsimp only | split

theorem State.ttReport_keeps {s0 : State} (s : State) (t res : Nat) (k : Take) (late : Bool) (h : Keeps s0 s) :
    Keeps s0 (State.ttReport s t res k late) := by
  unfold State.ttReport
  repeat'
    first
      | with_reducible assumption | intro _ | with_reducible apply Keeps.ite | with_reducible apply State.bump_keeps
      | with_reducible apply State.irq_keeps | with_reducible apply State.when_keeps
      | with_reducible apply State.setTapFld_keeps | with_reducible apply State.tapCount_keeps
      | with_reducible apply State.tapEvent_keeps | with_reducible apply State.salvoPair_keeps | dsimp only

theorem State.ttLand_keeps {s0 : State} (s : State) (t S : Nat) (k : Take) (h : Keeps s0 s) :
    Keeps s0 (State.ttLand s t S k) := by
  unfold State.ttLand
  repeat'
    first
      | with_reducible assumption | intro _ | with_reducible apply Keeps.foldl | with_reducible apply Keeps.foldlFst
      | with_reducible apply Keeps.ite | with_reducible apply State.setFld64_keeps | with_reducible apply State.when_keeps
      | with_reducible apply State.setTapFld_keeps | with_reducible apply State.tapCount_keeps
      | with_reducible apply State.synTaken_keeps | with_reducible apply State.select_keeps
      | with_reducible apply State.audioFollow_keeps | with_reducible apply State.ttReport_keeps | dsimp only | split

theorem State.tapSwitch_keeps {s0 : State} (s : State) (t S : Nat) (h : Keeps s0 s) :
    Keeps s0 (State.tapSwitch s t S) := by
  unfold State.tapSwitch
  repeat'
    first
      | with_reducible assumption | intro _ | with_reducible apply Keeps.foldl | with_reducible apply Keeps.foldlFst
      | with_reducible apply Keeps.ite | with_reducible apply State.setTakes_keeps | with_reducible apply State.asyncTidy_keeps
      | with_reducible apply State.ttOverride_keeps | with_reducible apply State.ttLand_keeps | dsimp only
      | (refine Keeps.of ?_; dsimp only; with_reducible apply Keeps.back) | split

theorem State.tapApply_keeps {s0 : State} (s : State) (t : Nat) (h : Keeps s0 s) :
    Keeps s0 (State.tapApply s t) := by
  unfold State.tapApply
  repeat'
    first
      | with_reducible assumption | intro _ | with_reducible apply Keeps.ite | with_reducible apply State.applySlot_keeps
      | with_reducible apply State.tapJudge_keeps | with_reducible apply State.tally_keeps | dsimp only

theorem State.armPairs_keeps {s0 : State} (s : State) (target id : Nat) (l : List W32) (h : Keeps s0 s) :
    Keeps s0 (State.armPairs s target id l).1 := by
  unfold State.armPairs
  refine Keeps.foldlOn (fun x : (State × List (Nat × Nat)) × List Nat => x.1.1) h fun x w hx => ?_
  dsimp only
  split
  · exact State.armTake_keeps _ _ _ _ _ _ (State.setTapFld_keeps _ _ _ _ hx)
  · exact State.journalRefused_keeps _ _ _ _ _ (State.ttInvalid_keeps _ _ hx)

theorem State.refuseAll_keeps {s0 : State} (s : State) (l : List W32) (codes : List (Nat × Nat)) (h : Keeps s0 s) :
    Keeps s0 (State.refuseAll s l codes) := by
  unfold State.refuseAll
  repeat'
    first
      | with_reducible assumption | intro _ | with_reducible apply Keeps.foldl | with_reducible apply Keeps.foldlFst
      | with_reducible apply Keeps.ite | with_reducible apply State.ttRefuse_keeps | with_reducible apply State.ttInvalid_keeps
      | with_reducible apply State.journalRefused_keeps | dsimp only | split

theorem State.dispatch_keeps {s0 : State} (s : State) (e : CueEnt) (target : Nat) (bad : Bool) (h : Keeps s0 s) :
    Keeps s0 (State.dispatch s e target bad) := by
  unfold State.dispatch
  repeat'
    first
      | with_reducible assumption | intro _ | with_reducible apply Keeps.ite | with_reducible apply State.err_keeps
      | with_reducible apply State.pushResult_keeps | with_reducible apply State.salvoEnd_keeps
      | with_reducible apply State.armPairs_keeps | with_reducible apply State.refuseAll_keeps | dsimp only
      | (refine Keeps.of ?_; dsimp only; with_reducible apply Keeps.back) | split
      | with_reducible refine Keeps.pair (by with_reducible assumption) ?_

theorem State.setSheet_keeps {s0 : State} (s : State) (l : List CueEnt) (h : Keeps s0 s)
    (hl : s.Inv → l.length ≤ sheetSize) : Keeps s0 (State.setSheet s l) :=
  State.setFld_keeps _ _ _ _ _ (h.sound rfl fun i => { i with sheet := hl i })

theorem State.addEntry_keeps {s0 : State} (s : State) (e : CueEnt) (h : Keeps s0 s) (hl : ¬sheetSize ≤ s.sheet.length) :
    Keeps s0 (State.addEntry s e) := by
  refine State.setSheet_keeps _ _ h fun _ => ?_
  simp only [List.length_append, List.length_singleton]
  omega

theorem State.submit_keeps {s0 : State} (s : State) (m : Nat) (h : Keeps s0 s) :
    Keeps s0 (State.submit s m) := by
  unfold State.submit
  repeat'
    first
      | with_reducible assumption | intro _ | split | with_reducible apply State.bump_keeps
      | with_reducible apply State.irq_keeps | with_reducible apply State.err_keeps | with_reducible apply State.setMfld_keeps
      | with_reducible apply State.addEntry_keeps | dsimp only | split

theorem State.cancel_keeps {s0 : State} (s : State) (h : Keeps s0 s) :
    Keeps s0 (State.cancel s) := by
  unfold State.cancel
  repeat'
    first
      | with_reducible assumption | exact fun i => (List.length_filter_le _ _).trans i.sheet
      | exact fun i => List.length_erase_le.trans i.sheet | exact fun _ => List.length_take_le _ _ | intro _
      | with_reducible apply Keeps.foldl | with_reducible apply Keeps.foldlFst | with_reducible apply Keeps.ite
      | with_reducible apply State.setFld_keeps | with_reducible apply State.bump_keeps
      | with_reducible apply State.pushResult_keeps | with_reducible apply State.setSheet_keeps | dsimp only | split

theorem State.cqHook_keeps {s0 : State} (s : State) (a : Acc) (o : Nat) (eff : W32) (h : Keeps s0 s) :
    Keeps s0 (State.cqHook s a o eff) := by
  unfold State.cqHook
  repeat'
    first
      | with_reducible assumption | intro _ | with_reducible apply Keeps.ite | with_reducible apply State.submit_keeps
      | with_reducible apply State.cancel_keeps | dsimp only | split

theorem State.cqWrite_keeps {s0 : State} (s : State) (a : Acc) (o : Nat) (w : W32) (h : Keeps s0 s) :
    Keeps s0 (State.cqWrite s a o w) := by
  unfold State.cqWrite
  repeat'
    first
      | with_reducible assumption | intro _ | with_reducible apply Keeps.ite | with_reducible apply State.storeFor_keeps
      | with_reducible apply State.cqHook_keeps | dsimp only | split

theorem State.popResult_keeps {s0 : State} (s : State) (m : Nat) (h : Keeps s0 s) : Keeps s0 (State.popResult s m).1 := by
  unfold State.popResult
  split
  · exact h
  · rename_i r rest e
    refine State.setMreg_keeps _ _ _ _ (State.setMreg_keeps _ _ _ _ (State.setMreg_keeps _ _ _ _ (State.setFld_keeps _ _ _ _ _
      (h.sound rfl fun i => { i with results := ?_ }))))
    have := i.results
    simp only [e, List.length_cons] at this ⊢
    omega

theorem State.smNext_keeps {s0 : State} (s : State) (h : Keeps s0 s) :
    Keeps s0 (State.smNext s) := by
  unfold State.smNext
  repeat'
    first
      | with_reducible assumption | intro _ | with_reducible apply Keeps.ite | with_reducible apply State.setFld_keeps
      | dsimp only

theorem State.smWrite_keeps {s0 : State} (s : State) (a : Acc) (o : Nat) (w : W32) (h : Keeps s0 s) :
    Keeps s0 (State.smWrite s a o w) := by
  unfold State.smWrite
  repeat'
    first
      | with_reducible assumption | intro _ | with_reducible apply Keeps.ite | with_reducible apply State.setWord_keeps
      | with_reducible apply State.storeWord_keeps | with_reducible apply State.smNext_keeps | dsimp only
      | (refine Keeps.of ?_; dsimp only; with_reducible apply Keeps.back) | split

theorem State.smRead_keeps {s0 : State} (s : State) (a : Acc) (h : Keeps s0 s) :
    Keeps s0 (State.smRead s a).1 := by
  unfold State.smRead
  repeat'
    first
      | with_reducible assumption | intro _ | with_reducible apply Keeps.ite | with_reducible apply State.smNext_keeps
      | dsimp only | split

theorem State.setGp_keeps {s0 : State} (s : State) (n : Nat) (v : Gpi) (h : Keeps s0 s) :
    Keeps s0 (State.setGp s n v) := by
  unfold State.setGp
  repeat'
    first
      | with_reducible assumption | intro _ | with_reducible apply Keeps.ite | with_reducible apply State.setWord_keeps
      | dsimp only | (refine Keeps.of ?_; dsimp only; with_reducible apply Keeps.back)

theorem State.setGpiOn_keeps {s0 : State} (s : State) (n : Nat) (on : Bool) (h : Keeps s0 s) :
    Keeps s0 (State.setGpiOn s n on) := by
  unfold State.setGpiOn
  repeat'
    first
      | with_reducible assumption | intro _ | with_reducible apply Keeps.ite | with_reducible apply State.setWord_keeps
      | dsimp only

theorem State.gpiFire_keeps {s0 : State} (s : State) (n t : Nat) (h : Keeps s0 s) :
    Keeps s0 (State.gpiFire s n t) := by
  unfold State.gpiFire
  repeat'
    first
      | with_reducible assumption | intro _ | split | with_reducible apply State.bump_keeps
      | with_reducible apply State.irq_keeps | with_reducible apply State.journal_keeps
      | with_reducible apply State.addEntry_keeps | dsimp only | split

theorem State.gpiRise_keeps {s0 : State} (s : State) (n : Nat) (h : Keeps s0 s) :
    Keeps s0 (State.gpiRise s n) := by
  unfold State.gpiRise
  repeat'
    first
      | with_reducible assumption | intro _ | with_reducible apply Keeps.ite | with_reducible apply State.bump_keeps
      | with_reducible apply State.irq_keeps | with_reducible apply State.when_keeps | with_reducible apply State.setGp_keeps
      | with_reducible apply State.setGpiOn_keeps | with_reducible apply State.gpiFire_keeps | dsimp only
      | (refine Keeps.of ?_; dsimp only; with_reducible apply Keeps.back) | split

theorem State.gpiFall_keeps {s0 : State} (s : State) (n : Nat) (h : Keeps s0 s) :
    Keeps s0 (State.gpiFall s n) := by
  unfold State.gpiFall
  repeat'
    first
      | with_reducible assumption | intro _ | with_reducible apply Keeps.ite | with_reducible apply State.setGp_keeps
      | with_reducible apply State.setGpiOn_keeps | dsimp only
      | (refine Keeps.of ?_; dsimp only; with_reducible apply Keeps.back) | split

theorem execTapTakeWrite_keeps {s0 : State} (a : Acc) (tap : Fin 2560) (word : W32) (clash : Bool) (s : State) (h : Keeps s0 s) :
    KeepsOut s0 (execTapTakeWrite a tap word clash s) := by
  unfold execTapTakeWrite
  repeat'
    first
      | with_reducible assumption | intro _ | with_reducible apply Keeps.ite | with_reducible apply KeepsOut.ite
      | with_reducible apply KeepsOut.fault | with_reducible apply KeepsOut.next | with_reducible apply State.viaPath_keeps
      | with_reducible apply runRails_keeps | with_reducible apply State.tapWrite_keeps | dsimp only | split

theorem execTakeLand_keeps {s0 : State} (tap : Fin 2560) (cue : Fin 16) (s : State) (h : Keeps s0 s) :
    KeepsOut s0 (execTakeLand tap cue s) := by
  unfold execTakeLand
  repeat'
    first
      | with_reducible assumption | intro _ | with_reducible apply Keeps.ite | with_reducible apply KeepsOut.ite
      | with_reducible apply KeepsOut.fault | with_reducible apply KeepsOut.next | with_reducible apply runRails_keeps
      | with_reducible apply State.tapSwitch_keeps | dsimp only | split

theorem execSalvoMemoryWrite_keeps {s0 : State} (a : Acc) (word : W32) (s : State) (h : Keeps s0 s) :
    KeepsOut s0 (execSalvoMemoryWrite a word s) := by
  unfold execSalvoMemoryWrite
  repeat'
    first
      | with_reducible assumption | intro _ | with_reducible apply Keeps.ite | with_reducible apply KeepsOut.ite
      | with_reducible apply KeepsOut.fault | with_reducible apply KeepsOut.next | with_reducible apply run_keeps
      | with_reducible apply State.viaPath_keeps | with_reducible apply State.smWrite_keeps | dsimp only | split

theorem execSalvoMemoryRead_keeps {s0 : State} (a : Acc) (s : State) (h : Keeps s0 s) :
    KeepsOut s0 (execSalvoMemoryRead a s) := by
  unfold execSalvoMemoryRead
  repeat'
    first
      | with_reducible assumption | intro _ | with_reducible apply Keeps.ite | with_reducible apply KeepsOut.ite
      | with_reducible apply KeepsOut.fault | with_reducible apply KeepsOut.next | with_reducible apply run_keeps
      | with_reducible apply State.viaRead_keeps | with_reducible apply State.smRead_keeps | dsimp only | split
      | with_reducible refine Keeps.pair (by with_reducible assumption) ?_

theorem execCueSubmit_keeps {s0 : State} (a : Acc) (word : W32) (s : State) (h : Keeps s0 s) :
    KeepsOut s0 (execCueSubmit a word s) := by
  unfold execCueSubmit
  repeat'
    first
      | with_reducible assumption | intro _ | with_reducible apply Keeps.ite | with_reducible apply KeepsOut.ite
      | with_reducible apply KeepsOut.fault | with_reducible apply KeepsOut.next | with_reducible apply run_keeps
      | with_reducible apply State.viaPath_keeps | with_reducible apply State.cqWrite_keeps | dsimp only | split

theorem execCueDispatch_keeps {s0 : State} (bad : Bool) (s : State) (h : Keeps s0 s) :
    KeepsOut s0 (execCueDispatch bad s) := by
  unfold execCueDispatch
  repeat'
    first
      | with_reducible assumption | exact fun i => (List.length_filter_le _ _).trans i.sheet
      | exact fun i => List.length_erase_le.trans i.sheet | exact fun _ => List.length_take_le _ _ | intro _
      | with_reducible apply Keeps.ite | with_reducible apply KeepsOut.ite | with_reducible apply KeepsOut.fault
      | with_reducible apply KeepsOut.next | with_reducible apply State.journal_keeps | with_reducible apply runRails_keeps
      | with_reducible apply State.dispatch_keeps | with_reducible apply State.setSheet_keeps | dsimp only
      | (refine Keeps.of ?_; dsimp only; with_reducible apply Keeps.back) | split

theorem execCueResultPop_keeps {s0 : State} (a : Acc) (s : State) (h : Keeps s0 s) :
    KeepsOut s0 (execCueResultPop a s) := by
  unfold execCueResultPop
  repeat'
    first
      | with_reducible assumption | intro _ | with_reducible apply Keeps.ite | with_reducible apply KeepsOut.ite
      | with_reducible apply KeepsOut.fault | with_reducible apply KeepsOut.next | with_reducible apply run_keeps
      | with_reducible apply State.viaRead_keeps | with_reducible apply State.popResult_keeps | dsimp only | split
      | with_reducible refine Keeps.pair (by with_reducible assumption) ?_

theorem execCueCancel_keeps {s0 : State} (a : Acc) (word : W32) (s : State) (h : Keeps s0 s) :
    KeepsOut s0 (execCueCancel a word s) := by
  unfold execCueCancel
  repeat'
    first
      | with_reducible assumption | intro _ | with_reducible apply Keeps.ite | with_reducible apply KeepsOut.ite
      | with_reducible apply KeepsOut.fault | with_reducible apply KeepsOut.next | with_reducible apply run_keeps
      | with_reducible apply State.viaPath_keeps | with_reducible apply State.cqWrite_keeps | dsimp only | split

theorem execGpiActive_keeps {s0 : State} (n : Fin 16) (s : State) (h : Keeps s0 s) :
    KeepsOut s0 (execGpiActive n s) := by
  unfold execGpiActive
  repeat'
    first
      | with_reducible assumption | intro _ | with_reducible apply Keeps.ite | with_reducible apply KeepsOut.ite
      | with_reducible apply KeepsOut.fault | with_reducible apply KeepsOut.next | with_reducible apply run_keeps
      | with_reducible apply State.gpiRise_keeps | dsimp only | split

theorem execGpiInactive_keeps {s0 : State} (n : Fin 16) (s : State) (h : Keeps s0 s) :
    KeepsOut s0 (execGpiInactive n s) := by
  unfold execGpiInactive
  repeat'
    first
      | with_reducible assumption | intro _ | with_reducible apply Keeps.ite | with_reducible apply KeepsOut.ite
      | with_reducible apply KeepsOut.fault | with_reducible apply KeepsOut.next | with_reducible apply run_keeps
      | with_reducible apply State.gpiFall_keeps | dsimp only | split

theorem execGpiRearm_keeps {s0 : State} (n : Fin 16) (s : State) (h : Keeps s0 s) :
    KeepsOut s0 (execGpiRearm n s) := by
  unfold execGpiRearm
  repeat'
    first
      | with_reducible assumption | intro _ | with_reducible apply Keeps.ite | with_reducible apply KeepsOut.ite
      | with_reducible apply KeepsOut.fault | with_reducible apply KeepsOut.next | with_reducible apply run_keeps
      | with_reducible apply State.setGp_keeps | dsimp only | (refine Keeps.of ?_; dsimp only; with_reducible apply Keeps.back)
      | split

theorem execGpiChatterEnd_keeps {s0 : State} (n : Fin 16) (s : State) (h : Keeps s0 s) :
    KeepsOut s0 (execGpiChatterEnd n s) := by
  unfold execGpiChatterEnd
  repeat'
    first
      | with_reducible assumption | intro _ | with_reducible apply Keeps.ite | with_reducible apply KeepsOut.ite
      | with_reducible apply KeepsOut.fault | with_reducible apply KeepsOut.next | with_reducible apply run_keeps
      | with_reducible apply State.setGp_keeps | dsimp only | (refine Keeps.of ?_; dsimp only; with_reducible apply Keeps.back)
      | split

end Sys2Proof.Machine
end

