-- ==== Sys2Proof/Laws/KeepPro.lean ====
section
/-!
SUPPORT. The operations of Machine/Pro.lean keep the queue and the invariant.
-/
set_option linter.unusedTactic false
set_option linter.unreachableTactic false
namespace Sys2Proof.Machine

theorem State.setLy_keeps {s0 : State} (s : State) (p l : Nat) (v : Lay) (h : Keeps s0 s) :
    Keeps s0 (State.setLy s p l v) := by
  unfold State.setLy
  repeat'
    first
      | with_reducible assumption | intro _ | with_reducible apply Keeps.ite | dsimp only
      | (refine Keeps.of ?_; dsimp only; with_reducible apply Keeps.back)

theorem State.setLaFld_keeps {s0 : State} (s : State) (p l : Nat) (f : Fld) (v : Nat) (h : Keeps s0 s) :
    Keeps s0 (State.setLaFld s p l f v) := by
  unfold State.setLaFld
  repeat'
    first
      | with_reducible assumption | intro _ | with_reducible apply Keeps.ite | with_reducible apply State.setFld_keeps
      | dsimp only

theorem State.laIrq_keeps {s0 : State} (s : State) (p l b : Nat) (h : Keeps s0 s) :
    Keeps s0 (State.laIrq s p l b) := by
  unfold State.laIrq
  repeat'
    first
      | with_reducible assumption | intro _ | with_reducible apply Keeps.ite | with_reducible apply State.irq_keeps | dsimp only

theorem State.poolShow_keeps {s0 : State} (s : State) (p : Nat) (h : Keeps s0 s) :
    Keeps s0 (State.poolShow s p) := by
  unfold State.poolShow
  repeat'
    first
      | with_reducible assumption | intro _ | with_reducible apply Keeps.ite | with_reducible apply State.setFld_keeps
      | dsimp only

theorem State.layHold_keeps {s0 : State} (s : State) (p l st v n : Nat) (h : Keeps s0 s) :
    Keeps s0 (State.layHold s p l st v n) := by
  unfold State.layHold
  repeat'
    first
      | with_reducible assumption | intro _ | with_reducible apply Keeps.ite | with_reducible apply State.setLaFld_keeps
      | dsimp only

theorem State.layLive_keeps {s0 : State} (s : State) (p l : Nat) (h : Keeps s0 s) :
    Keeps s0 (State.layLive s p l) := by
  unfold State.layLive
  repeat'
    first
      | with_reducible assumption | intro _ | with_reducible apply Keeps.ite | with_reducible apply State.setLaFld_keeps
      | with_reducible apply State.poolShow_keeps | with_reducible apply State.layHold_keeps | dsimp only | split

theorem State.layPool_keeps {s0 : State} (s : State) (p l : Nat) (h : Keeps s0 s) :
    Keeps s0 (State.layPool s p l) := by
  unfold State.layPool
  repeat'
    first
      | with_reducible assumption | intro _ | with_reducible apply Keeps.ite | with_reducible apply State.bump_keeps
      | with_reducible apply State.err_keeps | with_reducible apply State.setLaFld_keeps
      | with_reducible apply State.laIrq_keeps | with_reducible apply State.poolShow_keeps
      | with_reducible apply State.layHold_keeps | dsimp only
      | (refine Keeps.of ?_; dsimp only; with_reducible apply Keeps.back) | split

theorem State.layNote_keeps {s0 : State} (s : State) (p l : Nat) (h : Keeps s0 s) :
    Keeps s0 (State.layNote s p l) := by
  unfold State.layNote
  repeat'
    first
      | with_reducible assumption | intro _ | with_reducible apply Keeps.ite | with_reducible apply State.setLy_keeps
      | with_reducible apply State.setLaFld_keeps | dsimp only
      | (refine Keeps.of ?_; dsimp only; with_reducible apply Keeps.back) | split

theorem State.proShow_keeps {s0 : State} (s : State) (h : Keeps s0 s) :
    Keeps s0 (State.proShow s) := by
  unfold State.proShow
  repeat'
    first
      | with_reducible assumption | intro _ | with_reducible apply Keeps.foldl | with_reducible apply Keeps.foldlFst
      | with_reducible apply Keeps.ite | with_reducible apply State.setFld_keeps | dsimp only

theorem State.proLive_keeps {s0 : State} (s : State) (p : Nat) (h : Keeps s0 s) :
    Keeps s0 (State.proLive s p) := by
  unfold State.proLive
  repeat'
    first
      | with_reducible assumption | intro _ | with_reducible apply Keeps.foldl | with_reducible apply Keeps.foldlFst
      | with_reducible apply Keeps.ite | with_reducible apply State.setFld_keeps | with_reducible apply State.setBit_keeps
      | with_reducible apply State.setPr_keeps | with_reducible apply State.layLive_keeps | dsimp only
      | (refine Keeps.of ?_; dsimp only; with_reducible apply Keeps.back) | split

theorem State.proApply_keeps {s0 : State} (s : State) (p : Nat) (h : Keeps s0 s) :
    Keeps s0 (State.proApply s p) := by
  unfold State.proApply
  repeat'
    first
      | with_reducible assumption | intro _ | with_reducible apply Keeps.foldl | with_reducible apply Keeps.foldlFst
      | with_reducible apply Keeps.ite | with_reducible apply State.setFld_keeps | with_reducible apply State.when_keeps
      | with_reducible apply State.applySlot_keeps | with_reducible apply State.setPr_keeps
      | with_reducible apply State.proShow_keeps | with_reducible apply State.proLive_keeps | dsimp only
      | (refine Keeps.of ?_; dsimp only; with_reducible apply Keeps.back) | split

theorem State.proApplyOff_keeps {s0 : State} (s : State) (p l : Nat) (h : Keeps s0 s) :
    Keeps s0 (State.proApplyOff s p l) := by
  unfold State.proApplyOff
  repeat'
    first
      | with_reducible assumption | intro _ | with_reducible apply Keeps.ite | with_reducible apply State.applySlot_keeps
      | with_reducible apply State.layLive_keeps | with_reducible apply State.proShow_keeps
      | with_reducible apply State.proApply_keeps | dsimp only | split

theorem State.flipPend_keeps {s0 : State} (s : State) (p g : Nat) (h : Keeps s0 s) :
    Keeps s0 (State.flipPend s p g) := by
  unfold State.flipPend
  repeat'
    first
      | with_reducible assumption | intro _ | with_reducible apply Keeps.ite | with_reducible apply State.setFld_keeps
      | dsimp only

theorem State.flipTo_keeps {s0 : State} (s : State) (p g bank : Nat) (h : Keeps s0 s) :
    Keeps s0 (State.flipTo s p g bank) := by
  unfold State.flipTo
  repeat'
    first
      | with_reducible assumption | intro _ | with_reducible apply Keeps.ite | with_reducible apply State.setFld_keeps
      | with_reducible apply State.bump_keeps | with_reducible apply State.irq_keeps | with_reducible apply State.when_keeps
      | with_reducible apply State.setPr_keeps | with_reducible apply State.flipPend_keeps | dsimp only
      | (refine Keeps.of ?_; dsimp only; with_reducible apply Keeps.back)

theorem State.setFlipFence_keeps {s0 : State} (s : State) (p g f : Nat) (h : Keeps s0 s) :
    Keeps s0 (State.setFlipFence s p g f) := by
  unfold State.setFlipFence
  repeat'
    first
      | with_reducible assumption | intro _ | with_reducible apply Keeps.ite | with_reducible apply State.setPr_keeps
      | dsimp only | (refine Keeps.of ?_; dsimp only; with_reducible apply Keeps.back)

theorem State.flipLead_keeps {s0 : State} (s : State) (p g : Nat) (h : Keeps s0 s) :
    Keeps s0 (State.flipLead s p g) := by
  unfold State.flipLead
  repeat'
    first
      | with_reducible assumption | intro _ | with_reducible apply Keeps.ite | with_reducible apply State.bump_keeps
      | with_reducible apply State.when_keeps | with_reducible apply State.flipTo_keeps
      | with_reducible apply State.setFlipFence_keeps | dsimp only | split

theorem State.flipsAt_keeps {s0 : State} (s : State) (p F : Nat) (h : Keeps s0 s) :
    Keeps s0 (State.flipsAt s p F) := by
  unfold State.flipsAt
  repeat'
    first
      | with_reducible assumption | intro _ | with_reducible apply Keeps.foldl | with_reducible apply Keeps.foldlFst
      | with_reducible apply Keeps.ite | with_reducible apply State.setPr_keeps | with_reducible apply State.flipTo_keeps
      | with_reducible apply State.flipLead_keeps | dsimp only
      | (refine Keeps.of ?_; dsimp only; with_reducible apply Keeps.back) | split

theorem State.orderCheck_keeps {s0 : State} (s : State) (p : Nat) (h : Keeps s0 s) :
    Keeps s0 (State.orderCheck s p) := by
  unfold State.orderCheck
  repeat'
    first
      | with_reducible assumption | intro _ | with_reducible apply Keeps.ite | with_reducible apply State.setBit_keeps
      | with_reducible apply State.bump_keeps | with_reducible apply State.irq_keeps | with_reducible apply State.when_keeps
      | with_reducible apply State.err_keeps | dsimp only | split

theorem State.keyCheck_keeps {s0 : State} (s : State) (p : Nat) (h : Keeps s0 s) :
    Keeps s0 (State.keyCheck s p) := by
  unfold State.keyCheck
  repeat'
    first
      | with_reducible assumption | intro _ | with_reducible apply Keeps.foldl | with_reducible apply Keeps.foldlFst
      | with_reducible apply Keeps.ite | with_reducible apply State.setFld_keeps | with_reducible apply State.bump_keeps
      | with_reducible apply State.irq_keeps | with_reducible apply State.when_keeps | dsimp only

theorem State.capStart_keeps {s0 : State} (s : State) (p F : Nat) (h : Keeps s0 s) :
    Keeps s0 (State.capStart s p F) := by
  unfold State.capStart
  repeat'
    first
      | with_reducible assumption | intro _ | with_reducible apply Keeps.ite | with_reducible apply State.setPr_keeps
      | dsimp only | (refine Keeps.of ?_; dsimp only; with_reducible apply Keeps.back) | split

theorem State.proCarry_keeps {s0 : State} (s : State) (p F : Nat) (h : Keeps s0 s) :
    Keeps s0 (State.proCarry s p F) := by
  unfold State.proCarry
  repeat'
    first
      | with_reducible assumption | intro _ | with_reducible apply Keeps.ite | with_reducible apply State.setPr_keeps
      | dsimp only | (refine Keeps.of ?_; dsimp only; with_reducible apply Keeps.back) | split

theorem State.proStart_keeps {s0 : State} (s : State) (p F : Nat) (h : Keeps s0 s) :
    Keeps s0 (State.proStart s p F) := by
  unfold State.proStart
  repeat'
    first
      | with_reducible assumption | intro _ | with_reducible apply Keeps.foldl | with_reducible apply Keeps.foldlFst
      | with_reducible apply Keeps.ite | with_reducible apply State.setFld_keeps | with_reducible apply State.irq_keeps
      | with_reducible apply State.when_keeps | with_reducible apply State.setPr_keeps
      | with_reducible apply State.layPool_keeps | with_reducible apply State.layNote_keeps
      | with_reducible apply State.proShow_keeps | with_reducible apply State.proApply_keeps
      | with_reducible apply State.flipsAt_keeps | with_reducible apply State.orderCheck_keeps
      | with_reducible apply State.keyCheck_keeps | with_reducible apply State.capStart_keeps
      | with_reducible apply State.proCarry_keeps | dsimp only
      | (refine Keeps.of ?_; dsimp only; with_reducible apply Keeps.back) | split

theorem State.layTake_keeps {s0 : State} (s : State) (p l at_ : Nat) (new : List LiveRow) (h : Keeps s0 s) :
    Keeps s0 (State.layTake s p l at_ new) := by
  unfold State.layTake
  repeat'
    first
      | with_reducible assumption | intro _ | with_reducible apply Keeps.ite | with_reducible apply State.setLy_keeps
      | dsimp only | (refine Keeps.of ?_; dsimp only; with_reducible apply Keeps.back)

theorem State.layReport_keeps {s0 : State} (s : State) (p l at_ y : Nat) (inp : LayIn) (h : Keeps s0 s) :
    Keeps s0 (State.layReport s p l at_ y inp) := by
  unfold State.layReport
  repeat'
    first
      | with_reducible assumption | intro _ | with_reducible apply Keeps.foldl | with_reducible apply Keeps.foldlFst
      | with_reducible apply Keeps.ite | with_reducible apply State.bump_keeps | with_reducible apply State.when_keeps
      | with_reducible apply State.err_keeps | with_reducible apply State.setPr_keeps
      | with_reducible apply State.granuleSeen_keeps | with_reducible apply State.laIrq_keeps | dsimp only
      | (refine Keeps.of ?_; dsimp only; with_reducible apply Keeps.back) | split

theorem State.capLine_keeps {s0 : State} (s : State) (p : Nat) (before line : List Px) (h : Keeps s0 s) :
    Keeps s0 (State.capLine s p before line) := by
  unfold State.capLine
  repeat'
    first
      | with_reducible assumption | intro _ | with_reducible apply Keeps.ite | with_reducible apply State.when_keeps
      | with_reducible apply State.setPr_keeps | with_reducible apply State.engineWrite_keeps | dsimp only
      | (refine Keeps.of ?_; dsimp only; with_reducible apply Keeps.back) | split

theorem State.proLine_keeps {s0 : State} (s : State) (p : Nat) (ins : List LayIn) (h : Keeps s0 s) :
    Keeps s0 (State.proLine s p ins) := by
  unfold State.proLine
  repeat'
    first
      | with_reducible assumption | intro _ | with_reducible apply Keeps.foldl | with_reducible apply Keeps.foldlFst
      | with_reducible apply Keeps.ite | with_reducible apply State.setPr_keeps | with_reducible apply State.layTake_keeps
      | with_reducible apply State.layReport_keeps | with_reducible apply State.capLine_keeps | dsimp only
      | (refine Keeps.of ?_; dsimp only; with_reducible apply Keeps.back) | split

theorem State.flipArm_keeps {s0 : State} (s : State) (p g : Nat) (h : Keeps s0 s) :
    Keeps s0 (State.flipArm s p g) := by
  unfold State.flipArm
  repeat'
    first
      | with_reducible assumption | intro _ | with_reducible apply Keeps.ite | with_reducible apply State.setPr_keeps
      | with_reducible apply State.flipPend_keeps | dsimp only
      | (refine Keeps.of ?_; dsimp only; with_reducible apply Keeps.back) | split

theorem State.flipDecide_keeps {s0 : State} (s : State) (p g F bank : Nat) (h : Keeps s0 s) :
    Keeps s0 (State.flipDecide s p g F bank) := by
  unfold State.flipDecide
  repeat'
    first
      | with_reducible assumption | intro _ | with_reducible apply Keeps.ite | with_reducible apply State.journal_keeps
      | with_reducible apply State.setPr_keeps | dsimp only | (refine Keeps.of ?_; dsimp only; with_reducible apply Keeps.back)
      | split

theorem State.flipGroup_keeps {s0 : State} (s : State) (p F g : Nat) (h : Keeps s0 s) :
    Keeps s0 (State.flipGroup s p F g) := by
  unfold State.flipGroup
  repeat'
    first
      | with_reducible assumption | intro _ | with_reducible apply Keeps.ite | with_reducible apply State.setFld_keeps
      | with_reducible apply State.bump_keeps | with_reducible apply State.irq_keeps
      | with_reducible apply State.flipDecide_keeps | dsimp only | split

theorem State.capEnd_keeps {s0 : State} (s : State) (p F : Nat) (h : Keeps s0 s) :
    Keeps s0 (State.capEnd s p F) := by
  unfold State.capEnd
  repeat'
    first
      | with_reducible assumption | intro _ | with_reducible apply Keeps.foldl | with_reducible apply Keeps.foldlFst
      | with_reducible apply Keeps.ite | with_reducible apply State.setPr_keeps | dsimp only
      | (refine Keeps.of ?_; dsimp only; with_reducible apply Keeps.back)

theorem execProFrameStart_keeps {s0 : State} (p : Fin 32) (s : State) (h : Keeps s0 s) :
    KeepsOut s0 (execProFrameStart p s) := by
  unfold execProFrameStart
  repeat'
    first
      | with_reducible assumption | intro _ | with_reducible apply Keeps.ite | with_reducible apply KeepsOut.ite
      | with_reducible apply KeepsOut.fault | with_reducible apply KeepsOut.next | with_reducible apply runRails_keeps
      | with_reducible apply State.proStart_keeps | dsimp only | split

theorem execProLineCompose_keeps {s0 : State} (p : Fin 32) (layers : List LayIn) (s : State) (h : Keeps s0 s) :
    KeepsOut s0 (execProLineCompose p layers s) := by
  unfold execProLineCompose
  repeat'
    first
      | with_reducible assumption | intro _ | with_reducible apply Keeps.ite | with_reducible apply KeepsOut.ite
      | with_reducible apply KeepsOut.fault | with_reducible apply KeepsOut.next | with_reducible apply run_keeps
      | with_reducible apply State.proLine_keeps | dsimp only | split

theorem execFlipArm_keeps {s0 : State} (a : Acc) (p : Fin 32) (g : Fin 4) (s : State) (h : Keeps s0 s) :
    KeepsOut s0 (execFlipArm a p g s) := by
  unfold execFlipArm
  repeat'
    first
      | with_reducible assumption | intro _ | with_reducible apply Keeps.ite | with_reducible apply KeepsOut.ite
      | with_reducible apply KeepsOut.fault | with_reducible apply KeepsOut.next | with_reducible apply run_keeps
      | with_reducible apply State.storeWord_keeps | with_reducible apply State.viaPath_keeps
      | with_reducible apply State.flipArm_keeps | dsimp only | split

theorem execFlipDecision_keeps {s0 : State} (p : Fin 32) (s : State) (h : Keeps s0 s) :
    KeepsOut s0 (execFlipDecision p s) := by
  unfold execFlipDecision
  repeat'
    first
      | with_reducible assumption | intro _ | with_reducible apply Keeps.foldl | with_reducible apply Keeps.foldlFst
      | with_reducible apply Keeps.ite | with_reducible apply KeepsOut.ite | with_reducible apply KeepsOut.fault
      | with_reducible apply KeepsOut.next | with_reducible apply run_keeps | with_reducible apply State.flipGroup_keeps
      | dsimp only | split

theorem execCaptureDone_keeps {s0 : State} (p : Fin 32) (s : State) (h : Keeps s0 s) :
    KeepsOut s0 (execCaptureDone p s) := by
  unfold execCaptureDone
  repeat'
    first
      | with_reducible assumption | intro _ | with_reducible apply Keeps.ite | with_reducible apply KeepsOut.ite
      | with_reducible apply KeepsOut.fault | with_reducible apply KeepsOut.next | with_reducible apply State.setFld_keeps
      | with_reducible apply State.bump_keeps | with_reducible apply State.irq_keeps | with_reducible apply State.when_keeps
      | with_reducible apply run_keeps | with_reducible apply State.capEnd_keeps | dsimp only
      | (refine Keeps.of ?_; dsimp only; with_reducible apply Keeps.back) | split

theorem execCaptureAbandon_keeps {s0 : State} (p : Fin 32) (s : State) (h : Keeps s0 s) :
    KeepsOut s0 (execCaptureAbandon p s) := by
  unfold execCaptureAbandon
  repeat'
    first
      | with_reducible assumption | intro _ | with_reducible apply Keeps.ite | with_reducible apply KeepsOut.ite
      | with_reducible apply KeepsOut.fault | with_reducible apply KeepsOut.next | with_reducible apply State.bump_keeps
      | with_reducible apply State.irq_keeps | with_reducible apply State.err_keeps | with_reducible apply run_keeps
      | with_reducible apply State.capEnd_keeps | dsimp only | (refine Keeps.of ?_; dsimp only; with_reducible apply Keeps.back)
      | split

theorem State.coefLoad_keeps {s0 : State} (s : State) (p : Nat) (h : Keeps s0 s) :
    Keeps s0 (State.coefLoad s p) := by
  unfold State.coefLoad
  repeat'
    first
      | with_reducible assumption | intro _ | with_reducible apply Keeps.foldl | with_reducible apply Keeps.foldlFst
      | with_reducible apply Keeps.ite | with_reducible apply State.setWord_keeps | dsimp only | split

theorem State.coefStore_keeps {s0 : State} (s : State) (p : Nat) (h : Keeps s0 s) :
    Keeps s0 (State.coefStore s p) := by
  unfold State.coefStore
  repeat'
    first
      | with_reducible assumption | intro _ | with_reducible apply Keeps.foldl | with_reducible apply Keeps.foldlFst
      | with_reducible apply Keeps.ite | dsimp only | (refine Keeps.of ?_; dsimp only; with_reducible apply Keeps.back) | split

theorem State.coefHook_keeps {s0 : State} (s : State) (p : Nat) (eff : W32) (h : Keeps s0 s) :
    Keeps s0 (State.coefHook s p eff) := by
  unfold State.coefHook
  repeat'
    first
      | with_reducible assumption | intro _ | with_reducible apply Keeps.ite | with_reducible apply State.when_keeps
      | with_reducible apply State.coefLoad_keeps | with_reducible apply State.coefStore_keeps | dsimp only

theorem State.coefWrite_keeps {s0 : State} (s : State) (a : Acc) (p : Nat) (w : W32) (h : Keeps s0 s) :
    Keeps s0 (State.coefWrite s a p w) := by
  unfold State.coefWrite
  repeat'
    first
      | with_reducible assumption | intro _ | with_reducible apply Keeps.ite | with_reducible apply State.storeWord_keeps
      | with_reducible apply State.coefHook_keeps | dsimp only | split

theorem execCoefLoad_keeps {s0 : State} (a : Acc) (p : Fin 32) (s : State) (h : Keeps s0 s) :
    KeepsOut s0 (execCoefLoad a p s) := by
  unfold execCoefLoad
  repeat'
    first
      | with_reducible assumption | intro _ | with_reducible apply Keeps.ite | with_reducible apply KeepsOut.ite
      | with_reducible apply KeepsOut.fault | with_reducible apply KeepsOut.next | with_reducible apply run_keeps
      | with_reducible apply State.viaPath_keeps | with_reducible apply State.coefWrite_keeps | dsimp only | split

theorem execCoefStore_keeps {s0 : State} (a : Acc) (p : Fin 32) (s : State) (h : Keeps s0 s) :
    KeepsOut s0 (execCoefStore a p s) := by
  unfold execCoefStore
  repeat'
    first
      | with_reducible assumption | intro _ | with_reducible apply Keeps.ite | with_reducible apply KeepsOut.ite
      | with_reducible apply KeepsOut.fault | with_reducible apply KeepsOut.next | with_reducible apply run_keeps
      | with_reducible apply State.viaPath_keeps | with_reducible apply State.coefWrite_keeps | dsimp only | split

theorem State.proHook_keeps {s0 : State} (s : State) (k : PageKind) (p o : Nat) (eff : W32) (hw : Option W32) (h : Keeps s0 s) :
    Keeps s0 (State.proHook s k p o eff hw) := by
  unfold State.proHook
  repeat'
    first
      | with_reducible assumption | intro _ | with_reducible apply Keeps.ite | with_reducible apply State.flipArm_keeps
      | with_reducible apply State.coefHook_keeps | dsimp only
      | (refine Keeps.of ?_; dsimp only; with_reducible apply Keeps.back) | split

end Sys2Proof.Machine
end

