-- ==== Sys2Proof/Laws/KeepSwings.lean ====
section
/-!
SUPPORT. The operations of Machine/Swings.lean keep the queue and the invariant.
-/
set_option linter.unusedTactic false
set_option linter.unreachableTactic false
namespace Sys2Proof.Machine

theorem State.fuseAdd_keeps {s0 : State} (s : State) (e : W32) (ok : Bool) (h : Keeps s0 s) :
    Keeps s0 (State.fuseAdd s e ok) := by
  unfold State.fuseAdd
  repeat'
    first
      | with_reducible assumption | intro _ | with_reducible apply Keeps.ite | with_reducible apply State.setFld_keeps
      | dsimp only | (refine Keeps.of ?_; dsimp only; with_reducible apply Keeps.back) | split

theorem State.fuseDone_keeps {s0 : State} (s : State) (e : W32) (verified : Bool) (h : Keeps s0 s) :
    Keeps s0 (State.fuseDone s e verified) := by
  unfold State.fuseDone
  repeat'
    first
      | with_reducible assumption | intro _ | with_reducible apply Keeps.ite | with_reducible apply State.setFld_keeps
      | with_reducible apply State.setBit_keeps | with_reducible apply State.irq_keeps | with_reducible apply State.err_keeps
      | with_reducible apply State.logRepair_keeps | with_reducible apply State.fuseAdd_keeps | dsimp only
      | (refine Keeps.of ?_; dsimp only; with_reducible apply Keeps.back) | split

theorem State.wearHook_keeps {s0 : State} (s : State) (o : Nat) (eff : W32) (h : Keeps s0 s) :
    Keeps s0 (State.wearHook s o eff) := by
  unfold State.wearHook
  repeat'
    first
      | with_reducible assumption | intro _ | with_reducible apply Keeps.ite | with_reducible apply State.setBit_keeps
      | dsimp only | (refine Keeps.of ?_; dsimp only; with_reducible apply Keeps.back) | split

theorem State.wearWrite_keeps {s0 : State} (s : State) (a : Acc) (o : Nat) (w : W32) (h : Keeps s0 s) :
    Keeps s0 (State.wearWrite s a o w) := by
  unfold State.wearWrite
  repeat'
    first
      | with_reducible assumption | intro _ | with_reducible apply Keeps.ite | with_reducible apply State.storeWord_keeps
      | with_reducible apply State.wearHook_keeps | dsimp only | split

theorem State.countPassed_keeps {s0 : State} (s : State) (c g : Nat) (l : List Nat) (h : Keeps s0 s) :
    Keeps s0 (State.countPassed s c g l) := by
  unfold State.countPassed
  repeat'
    first
      | with_reducible assumption | intro _ | with_reducible apply Keeps.foldl | with_reducible apply Keeps.foldlFst
      | with_reducible apply Keeps.ite | with_reducible apply State.bump_keeps | dsimp only | split

theorem State.swingFails_keeps {s0 : State} (s : State) (c g : Nat) (h : Keeps s0 s) :
    Keeps s0 (State.swingFails s c g) := by
  unfold State.swingFails
  repeat'
    first
      | with_reducible assumption | intro _ | with_reducible apply Keeps.ite | with_reducible apply State.bump_keeps
      | with_reducible apply State.irq_keeps | with_reducible apply State.err_keeps | with_reducible apply State.logRepair_keeps
      | with_reducible apply State.swingGone_keeps | dsimp only | split

theorem State.rotStart_keeps {s0 : State} (s : State) (c g k : Nat) (asked : Bool) (h : Keeps s0 s) :
    Keeps s0 (State.rotStart s c g k asked) := by
  unfold State.rotStart
  repeat'
    first
      | with_reducible assumption | intro _ | with_reducible apply Keeps.ite | with_reducible apply State.setBit_keeps
      | with_reducible apply State.setRx_keeps | with_reducible apply State.setTx_keeps
      | with_reducible apply State.putRot_keeps | dsimp only | (refine Keeps.of ?_; dsimp only; with_reducible apply Keeps.back)
      | split

theorem State.stepInstant_keeps {s0 : State} (s : State) (c g : Nat) (h : Keeps s0 s) :
    Keeps s0 (State.stepInstant s c g) := by
  unfold State.stepInstant
  repeat'
    first
      | with_reducible assumption | intro _ | with_reducible apply Keeps.ite | with_reducible apply State.setFld_keeps
      | with_reducible apply State.irq_keeps | with_reducible apply State.when_keeps | with_reducible apply State.setRo_keeps
      | with_reducible apply State.countPassed_keeps | with_reducible apply State.swingFails_keeps
      | with_reducible apply State.rotStart_keeps | dsimp only
      | (refine Keeps.of ?_; dsimp only; with_reducible apply Keeps.back) | split

theorem State.rxHandover_keeps {s0 : State} (s : State) (L : Nat) (matched : Bool) (h : Keeps s0 s) :
    Keeps s0 (State.rxHandover s L matched) := by
  unfold State.rxHandover
  repeat'
    first
      | with_reducible assumption | intro _ | with_reducible apply Keeps.ite | with_reducible apply State.setBit_keeps
      | with_reducible apply State.irq_keeps | with_reducible apply State.err_keeps | with_reducible apply State.rotFail_keeps
      | with_reducible apply State.rxLand_keeps | dsimp only | split

theorem State.txHandover_keeps {s0 : State} (s : State) (L : Nat) (inPhase : Bool) (h : Keeps s0 s) :
    Keeps s0 (State.txHandover s L inPhase) := by
  unfold State.txHandover
  repeat'
    first
      | with_reducible assumption | intro _ | with_reducible apply Keeps.ite | with_reducible apply State.setBit_keeps
      | with_reducible apply State.irq_keeps | with_reducible apply State.err_keeps | with_reducible apply State.setTx_keeps
      | with_reducible apply State.rotFail_keeps | with_reducible apply State.txLand_keeps | dsimp only
      | (refine Keeps.of ?_; dsimp only; with_reducible apply Keeps.back) | split

theorem State.handedOver_keeps {s0 : State} (s : State) (c g : Nat) (ok : Bool) (h : Keeps s0 s) :
    Keeps s0 (State.handedOver s c g ok) := by
  unfold State.handedOver
  repeat'
    first
      | with_reducible assumption | intro _ | with_reducible apply Keeps.ite | with_reducible apply State.setRo_keeps
      | with_reducible apply State.rotOut_keeps | with_reducible apply State.rxHandover_keeps
      | with_reducible apply State.txHandover_keeps | dsimp only
      | (refine Keeps.of ?_; dsimp only; with_reducible apply Keeps.back) | split

theorem State.hoOver_keeps {s0 : State} (s : State) (c u : Nat) (h : Keeps s0 s) :
    Keeps s0 (State.hoOver s c u) := by
  unfold State.hoOver
  repeat'
    first
      | with_reducible assumption | intro _ | with_reducible apply Keeps.ite | with_reducible apply State.setBit_keeps
      | dsimp only | split

theorem State.rotPageAbort_keeps {s0 : State} (s : State) (c unit : Nat) (h : Keeps s0 s) :
    Keeps s0 (State.rotPageAbort s c unit) := by
  unfold State.rotPageAbort
  repeat'
    first
      | with_reducible assumption | intro _ | with_reducible apply Keeps.ite | with_reducible apply State.rotAbort_keeps
      | with_reducible apply State.hoOver_keeps | dsimp only | split

theorem State.testEnd_keeps {s0 : State} (s : State) (c g : Nat) (pass : Bool) (repair : Option W32) (h : Keeps s0 s) :
    Keeps s0 (State.testEnd s c g pass repair) := by
  unfold State.testEnd
  repeat'
    first
      | with_reducible assumption | intro _ | with_reducible apply Keeps.ite | with_reducible apply State.setBit_keeps
      | with_reducible apply State.err_keeps | with_reducible apply State.setRo_keeps
      | with_reducible apply State.logRepair_keeps | with_reducible apply State.putRot_keeps
      | with_reducible apply State.retire_keeps | with_reducible apply State.fuseAdd_keeps | dsimp only
      | (refine Keeps.of ?_; dsimp only; with_reducible apply Keeps.back) | split

theorem State.stepDone_keeps {s0 : State} (s : State) (c g : Nat) (idlePass : Bool) (h : Keeps s0 s) :
    Keeps s0 (State.stepDone s c g idlePass) := by
  unfold State.stepDone
  repeat'
    first
      | with_reducible assumption | intro _ | with_reducible apply Keeps.ite | with_reducible apply State.when_keeps
      | with_reducible apply State.putRot_keeps | with_reducible apply State.rotDone_keeps
      | with_reducible apply State.swingCal_keeps | dsimp only
      | (refine Keeps.of ?_; dsimp only; with_reducible apply Keeps.back) | split

theorem State.handedBack_keeps {s0 : State} (s : State) (c g : Nat) (ok idlePass : Bool) (h : Keeps s0 s) :
    Keeps s0 (State.handedBack s c g ok idlePass) := by
  unfold State.handedBack
  repeat'
    first
      | with_reducible assumption | intro _ | with_reducible apply Keeps.ite | with_reducible apply State.setRo_keeps
      | with_reducible apply State.handedOver_keeps | with_reducible apply State.testEnd_keeps
      | with_reducible apply State.stepDone_keeps | dsimp only
      | (refine Keeps.of ?_; dsimp only; with_reducible apply Keeps.back) | split

theorem State.wireFails_keeps {s0 : State} (s : State) (tile : Nat) (dir : Bool) (wire : Nat) (h : Keeps s0 s) :
    Keeps s0 (State.wireFails s tile dir wire) := by
  unfold State.wireFails
  repeat'
    first
      | with_reducible assumption | intro _ | with_reducible apply Keeps.ite | with_reducible apply State.setFld_keeps
      | with_reducible apply State.bump_keeps | with_reducible apply State.irq_keeps | with_reducible apply State.err_keeps
      | with_reducible apply State.logRepair_keeps | dsimp only
      | (refine Keeps.of ?_; dsimp only; with_reducible apply Keeps.back) | split

theorem State.wireCheck_keeps {s0 : State} (s : State) (tile : Nat) (errs : List (Bool × Nat)) (h : Keeps s0 s) :
    Keeps s0 (State.wireCheck s tile errs) := by
  unfold State.wireCheck
  repeat'
    first
      | with_reducible assumption | intro _ | with_reducible apply Keeps.foldl | with_reducible apply Keeps.foldlFst
      | with_reducible apply Keeps.ite | with_reducible apply State.when_keeps | with_reducible apply State.wireFails_keeps
      | dsimp only | (refine Keeps.of ?_; dsimp only; with_reducible apply Keeps.back) | split

theorem State.setTarget_keeps {s0 : State} (s : State) (t : Nat) (h : Keeps s0 s) :
    Keeps s0 (State.setTarget s t) := by
  unfold State.setTarget
  repeat'
    first
      | with_reducible assumption | intro _ | with_reducible apply Keeps.ite | with_reducible apply State.setFld_keeps
      | with_reducible apply State.logRepair_keeps | dsimp only | split

theorem State.avsRise_keeps {s0 : State} (s : State) (d : Nat) (h : Keeps s0 s) :
    Keeps s0 (State.avsRise s d) := by
  unfold State.avsRise
  repeat'
    first
      | with_reducible assumption | intro _ | with_reducible apply Keeps.ite | with_reducible apply State.bump_keeps
      | with_reducible apply State.irq_keeps | with_reducible apply State.when_keeps | with_reducible apply State.err_keeps
      | with_reducible apply State.setTarget_keeps | dsimp only | split

theorem State.avsFall_keeps {s0 : State} (s : State) (h : Keeps s0 s) :
    Keeps s0 (State.avsFall s) := by
  unfold State.avsFall
  repeat'
    first
      | with_reducible assumption | intro _ | with_reducible apply Keeps.ite | with_reducible apply State.bump_keeps
      | with_reducible apply State.when_keeps | with_reducible apply State.setTarget_keeps | dsimp only

theorem State.avsLoop_keeps {s0 : State} (s : State) (ps : Int) (h : Keeps s0 s) :
    Keeps s0 (State.avsLoop s ps) := by
  unfold State.avsLoop
  repeat'
    first
      | with_reducible assumption | intro _ | with_reducible apply Keeps.ite | with_reducible apply State.setTarget_keeps
      | with_reducible apply State.avsRise_keeps | with_reducible apply State.avsFall_keeps | dsimp only
      | (refine Keeps.of ?_; dsimp only; with_reducible apply Keeps.back) | split

theorem State.avsEvaluate_keeps {s0 : State} (s : State) (ps : Int) (mon : Nat) (busOk : Bool) (mv da : Nat) (h : Keeps s0 s) :
    Keeps s0 (State.avsEvaluate s ps mon busOk mv da) := by
  unfold State.avsEvaluate
  repeat'
    first
      | with_reducible assumption | intro _ | with_reducible apply Keeps.ite | with_reducible apply State.setFld_keeps
      | with_reducible apply State.bump_keeps | with_reducible apply State.irq_keeps | with_reducible apply State.err_keeps
      | with_reducible apply State.avsLoop_keeps | dsimp only | split

theorem State.sensor_keeps {s0 : State} (s : State) (k : Nat) (c med2 : Int) (h : Keeps s0 s) :
    Keeps s0 (State.sensor s k c med2) := by
  unfold State.sensor
  repeat'
    first
      | with_reducible assumption | intro _ | with_reducible apply Keeps.ite | with_reducible apply State.setFld_keeps
      | with_reducible apply State.irq_keeps | with_reducible apply State.err_keeps | dsimp only
      | (refine Keeps.of ?_; dsimp only; with_reducible apply Keeps.back) | split

theorem State.tmpLimits_keeps {s0 : State} (s : State) (c : Int) (h : Keeps s0 s) :
    Keeps s0 (State.tmpLimits s c) := by
  unfold State.tmpLimits
  repeat'
    first
      | with_reducible assumption | intro _ | with_reducible apply Keeps.ite | with_reducible apply State.bump_keeps
      | with_reducible apply State.irq_keeps | with_reducible apply State.when_keeps | with_reducible apply State.err_keeps
      | dsimp only | (refine Keeps.of ?_; dsimp only; with_reducible apply Keeps.back)

theorem State.temperatures_keeps {s0 : State} (s : State) (temps : List Int) (h : Keeps s0 s) :
    Keeps s0 (State.temperatures s temps) := by
  unfold State.temperatures
  repeat'
    first
      | with_reducible assumption | intro _ | with_reducible apply Keeps.foldl | with_reducible apply Keeps.foldlFst
      | with_reducible apply Keeps.ite | with_reducible apply State.setFld_keeps | with_reducible apply State.sensor_keeps
      | with_reducible apply State.tmpLimits_keeps | dsimp only
      | (refine Keeps.of ?_; dsimp only; with_reducible apply Keeps.back) | split

theorem State.checkpoint_keeps {s0 : State} (s : State) (h : Keeps s0 s) :
    Keeps s0 (State.checkpoint s) := by
  unfold State.checkpoint
  repeat'
    first
      | with_reducible assumption | intro _ | with_reducible apply Keeps.ite | dsimp only
      | (refine Keeps.of ?_; dsimp only; with_reducible apply Keeps.back) | split

theorem execRxHandover_keeps {s0 : State} (lane : Fin 512) (matched : Bool) (s : State) (h : Keeps s0 s) :
    KeepsOut s0 (execRxHandover lane matched s) := by
  unfold execRxHandover
  repeat'
    first
      | with_reducible assumption | intro _ | with_reducible apply Keeps.ite | with_reducible apply KeepsOut.ite
      | with_reducible apply KeepsOut.fault | with_reducible apply KeepsOut.next | with_reducible apply runRails_keeps
      | with_reducible apply State.rxHandover_keeps | dsimp only | split

theorem execTxHandover_keeps {s0 : State} (lane : Fin 512) (inPhase : Bool) (s : State) (h : Keeps s0 s) :
    KeepsOut s0 (execTxHandover lane inPhase s) := by
  unfold execTxHandover
  repeat'
    first
      | with_reducible assumption | intro _ | with_reducible apply Keeps.ite | with_reducible apply KeepsOut.ite
      | with_reducible apply KeepsOut.fault | with_reducible apply KeepsOut.next | with_reducible apply runRails_keeps
      | with_reducible apply State.txHandover_keeps | dsimp only | split

theorem execRotationStepInstant_keeps {s0 : State} (c : Fin 7) (g : Fin 16) (s : State) (h : Keeps s0 s) :
    KeepsOut s0 (execRotationStepInstant c g s) := by
  unfold execRotationStepInstant
  repeat'
    first
      | with_reducible assumption | intro _ | with_reducible apply Keeps.ite | with_reducible apply KeepsOut.ite
      | with_reducible apply KeepsOut.fault | with_reducible apply KeepsOut.next | with_reducible apply State.periodic_keeps
      | with_reducible apply run_keeps | with_reducible apply State.stepInstant_keeps | dsimp only | split

theorem execRotationHandover_keeps {s0 : State} (c : Fin 7) (g : Fin 16) (fail : Bool) (s : State) (h : Keeps s0 s) :
    KeepsOut s0 (execRotationHandover c g fail s) := by
  unfold execRotationHandover
  repeat'
    first
      | with_reducible assumption | intro _ | with_reducible apply Keeps.ite | with_reducible apply KeepsOut.ite
      | with_reducible apply KeepsOut.fault | with_reducible apply KeepsOut.next | with_reducible apply run_keeps
      | with_reducible apply State.rotFail_keeps | with_reducible apply State.handedOver_keeps | dsimp only | split

theorem execRotationTestEnd_keeps {s0 : State} (c : Fin 7) (g : Fin 16) (pass : Bool) (repair : Option W32) (s : State) (h : Keeps s0 s) :
    KeepsOut s0 (execRotationTestEnd c g pass repair s) := by
  unfold execRotationTestEnd
  repeat'
    first
      | with_reducible assumption | intro _ | with_reducible apply Keeps.ite | with_reducible apply KeepsOut.ite
      | with_reducible apply KeepsOut.fault | with_reducible apply KeepsOut.next | with_reducible apply run_keeps
      | with_reducible apply State.testEnd_keeps | dsimp only | split

theorem execRotationHandback_keeps {s0 : State} (c : Fin 7) (g : Fin 16) (fail idlePass : Bool) (s : State) (h : Keeps s0 s) :
    KeepsOut s0 (execRotationHandback c g fail idlePass s) := by
  unfold execRotationHandback
  repeat'
    first
      | with_reducible assumption | intro _ | with_reducible apply Keeps.ite | with_reducible apply KeepsOut.ite
      | with_reducible apply KeepsOut.fault | with_reducible apply KeepsOut.next | with_reducible apply run_keeps
      | with_reducible apply State.rotFail_keeps | with_reducible apply State.handedBack_keeps | dsimp only | split

theorem execD2dWireCheck_keeps {s0 : State} (tile : Fin 4) (errs : List (Bool × Nat)) (s : State) (h : Keeps s0 s) :
    KeepsOut s0 (execD2dWireCheck tile errs s) := by
  unfold execD2dWireCheck
  repeat'
    first
      | with_reducible assumption | intro _ | with_reducible apply Keeps.ite | with_reducible apply KeepsOut.ite
      | with_reducible apply KeepsOut.fault | with_reducible apply KeepsOut.next | with_reducible apply run_keeps
      | with_reducible apply State.wireCheck_keeps | dsimp only | split

theorem execFuseProgram_keeps {s0 : State} (a : Acc) (word : W32) (s : State) (h : Keeps s0 s) :
    KeepsOut s0 (execFuseProgram a word s) := by
  unfold execFuseProgram
  repeat'
    first
      | with_reducible assumption | intro _ | with_reducible apply Keeps.ite | with_reducible apply KeepsOut.ite
      | with_reducible apply KeepsOut.fault | with_reducible apply KeepsOut.next | with_reducible apply run_keeps
      | with_reducible apply State.viaPath_keeps | with_reducible apply State.wearWrite_keeps | dsimp only | split

theorem execFuseProgramDone_keeps {s0 : State} (verified : Bool) (s : State) (h : Keeps s0 s) :
    KeepsOut s0 (execFuseProgramDone verified s) := by
  unfold execFuseProgramDone
  repeat'
    first
      | with_reducible assumption | intro _ | with_reducible apply Keeps.ite | with_reducible apply KeepsOut.ite
      | with_reducible apply KeepsOut.fault | with_reducible apply KeepsOut.next | with_reducible apply run_keeps
      | with_reducible apply State.fuseDone_keeps | dsimp only
      | (refine Keeps.of ?_; dsimp only; with_reducible apply Keeps.back) | split

theorem execAvsEvaluate_keeps {s0 : State} (ps : Int) (mon : Fin 96) (busOk : Bool) (mv da : Nat) (s : State) (h : Keeps s0 s) :
    KeepsOut s0 (execAvsEvaluate ps mon busOk mv da s) := by
  unfold execAvsEvaluate
  repeat'
    first
      | with_reducible assumption | intro _ | with_reducible apply Keeps.ite | with_reducible apply KeepsOut.ite
      | with_reducible apply KeepsOut.fault | with_reducible apply KeepsOut.next | with_reducible apply State.periodic_keeps
      | with_reducible apply run_keeps | with_reducible apply State.avsEvaluate_keeps | dsimp only | split

theorem execAgeSample_keeps {s0 : State} (_mon : Fin 96) (ps : Int) (s : State) (h : Keeps s0 s) :
    KeepsOut s0 (execAgeSample _mon ps s) := by
  unfold execAgeSample
  repeat'
    first
      | with_reducible assumption | intro _ | with_reducible apply Keeps.ite | with_reducible apply KeepsOut.ite
      | with_reducible apply KeepsOut.fault | with_reducible apply KeepsOut.next | with_reducible apply State.irq_keeps
      | with_reducible apply run_keeps | with_reducible apply State.avsRise_keeps | dsimp only | split

theorem execTemperatureRead_keeps {s0 : State} (temps : List Int) (s : State) (h : Keeps s0 s) :
    KeepsOut s0 (execTemperatureRead temps s) := by
  unfold execTemperatureRead
  repeat'
    first
      | with_reducible assumption | intro _ | with_reducible apply Keeps.ite | with_reducible apply KeepsOut.ite
      | with_reducible apply KeepsOut.fault | with_reducible apply KeepsOut.next | with_reducible apply run_keeps
      | with_reducible apply State.temperatures_keeps | dsimp only | split

theorem execWearCheckpoint_keeps {s0 : State} (s : State) (h : Keeps s0 s) :
    KeepsOut s0 (execWearCheckpoint s) := by
  unfold execWearCheckpoint
  repeat'
    first
      | with_reducible assumption | intro _ | with_reducible apply Keeps.ite | with_reducible apply KeepsOut.ite
      | with_reducible apply KeepsOut.fault | with_reducible apply KeepsOut.next | with_reducible apply run_keeps
      | with_reducible apply State.checkpoint_keeps | dsimp only | split

end Sys2Proof.Machine
end

