-- ==== Sys2Proof/Laws/KeepUpdate.lean ====
section
/-!
SUPPORT. The operations of Machine/Update.lean keep the queue and the invariant.
-/
set_option linter.unusedTactic false
set_option linter.unreachableTactic false
namespace Sys2Proof.Machine

theorem State.setSlot_keeps {s0 : State} (s : State) (k i : Nat) (v : Slot) (h : Keeps s0 s) :
    Keeps s0 (State.setSlot s k i v) := by
  unfold State.setSlot
  repeat'
    first
      | with_reducible assumption | intro _ | with_reducible apply Keeps.ite | with_reducible apply State.setFld_keeps
      | dsimp only | (refine Keeps.of ?_; dsimp only; with_reducible apply Keeps.back) | split

theorem State.sendVersions_keeps {s0 : State} (s : State) (h : Keeps s0 s) :
    Keeps s0 (State.sendVersions s) := by
  unfold State.sendVersions
  repeat'
    first
      | with_reducible assumption | intro _ | with_reducible apply Keeps.ite | with_reducible apply State.twinSend_keeps
      | dsimp only | (refine Keeps.of ?_; dsimp only; with_reducible apply Keeps.back) | split

theorem State.setRun_keeps {s0 : State} (s : State) (k : Nat) (i : Option Nat) (h : Keeps s0 s) :
    Keeps s0 (State.setRun s k i) := by
  unfold State.setRun
  repeat'
    first
      | with_reducible assumption | intro _ | with_reducible apply Keeps.ite | with_reducible apply State.setFld_keeps
      | with_reducible apply run_keeps | dsimp only | (refine Keeps.of ?_; dsimp only; with_reducible apply Keeps.back) | split

theorem State.crewSet_keeps {s0 : State} (s : State) (run : Nat) (h : Keeps s0 s) :
    Keeps s0 (State.crewSet s run) := by
  unfold State.crewSet
  repeat'
    first
      | with_reducible assumption | intro _ | with_reducible apply Keeps.ite | with_reducible apply State.setFld_keeps
      | with_reducible apply run_keeps | dsimp only

theorem State.pauseStart_keeps {s0 : State} (s : State) (k : Nat) (back : Bool) (h : Keeps s0 s) :
    Keeps s0 (State.pauseStart s k back) := by
  unfold State.pauseStart
  repeat'
    first
      | with_reducible assumption | intro _ | with_reducible apply Keeps.ite | with_reducible apply State.setBit_keeps
      | with_reducible apply State.crewSet_keeps | dsimp only
      | (refine Keeps.of ?_; dsimp only; with_reducible apply Keeps.back) | split

theorem State.activated_keeps {s0 : State} (s : State) (k : Nat) (h : Keeps s0 s) :
    Keeps s0 (State.activated s k) := by
  unfold State.activated
  repeat'
    first
      | with_reducible assumption | intro _ | with_reducible apply Keeps.ite | with_reducible apply State.setFld64_keeps
      | with_reducible apply State.bump_keeps | with_reducible apply State.irq_keeps
      | with_reducible apply State.pauseStart_keeps | dsimp only

theorem State.crewRelease_keeps {s0 : State} (s : State) (h : Keeps s0 s) :
    Keeps s0 (State.crewRelease s) := by
  unfold State.crewRelease
  repeat'
    first
      | with_reducible assumption | intro _ | with_reducible apply Keeps.ite | with_reducible apply State.crewSet_keeps
      | with_reducible apply State.activated_keeps | dsimp only
      | (refine Keeps.of ?_; dsimp only; with_reducible apply Keeps.back) | split

theorem State.crewHook_keeps {s0 : State} (s : State) (old eff : W32) (h : Keeps s0 s) :
    Keeps s0 (State.crewHook s old eff) := by
  unfold State.crewHook
  repeat'
    first
      | with_reducible assumption | intro _ | with_reducible apply Keeps.foldl | with_reducible apply Keeps.foldlFst
      | with_reducible apply Keeps.ite | with_reducible apply State.setFld_keeps | with_reducible apply State.when_keeps
      | with_reducible apply run_keeps | with_reducible apply State.masterReset_keeps
      | with_reducible apply State.crewRelease_keeps | dsimp only | split

theorem State.respond_keeps {s0 : State} (s : State) (code res : Nat) (h : Keeps s0 s) :
    Keeps s0 (State.respond s code res) := by
  unfold State.respond
  repeat'
    first
      | with_reducible assumption | intro _ | with_reducible apply Keeps.ite | with_reducible apply State.setFld_keeps
      | dsimp only

theorem State.updRefuse_keeps {s0 : State} (s : State) (code res : Nat) (h : Keeps s0 s) :
    Keeps s0 (State.updRefuse s code res) := by
  unfold State.updRefuse
  repeat'
    first
      | with_reducible assumption | intro _ | with_reducible apply Keeps.ite | with_reducible apply State.bump_keeps
      | with_reducible apply State.irq_keeps | with_reducible apply State.respond_keeps | dsimp only

theorem State.smdbWrite_keeps {s0 : State} (s : State) (a : Acc) (w : W32) (h : Keeps s0 s) :
    Keeps s0 (State.smdbWrite s a w) := by
  unfold State.smdbWrite
  repeat'
    first
      | with_reducible assumption | intro _ | with_reducible apply Keeps.ite | with_reducible apply State.setBit_keeps
      | with_reducible apply State.irq_keeps | with_reducible apply State.accErr_keeps
      | with_reducible apply State.storeWord_keeps | with_reducible apply State.respond_keeps | dsimp only | split

theorem State.prcWrite_keeps {s0 : State} (s : State) (a : Acc) (o : Nat) (w : W32) (h : Keeps s0 s) :
    Keeps s0 (State.prcWrite s a o w) := by
  unfold State.prcWrite
  repeat'
    first
      | with_reducible assumption | intro _ | with_reducible apply Keeps.ite | with_reducible apply State.storeWord_keeps
      | with_reducible apply State.crewHook_keeps | with_reducible apply State.smdbWrite_keeps | dsimp only | split

theorem State.updCmdWrite_keeps {s0 : State} (s : State) (a : Acc) (w : W32) (h : Keeps s0 s) :
    Keeps s0 (State.updCmdWrite s a w) := by
  unfold State.updCmdWrite
  repeat'
    first
      | with_reducible assumption | intro _ | with_reducible apply Keeps.ite | with_reducible apply State.storeWord_keeps
      | with_reducible apply State.respond_keeps | dsimp only
      | (refine Keeps.of ?_; dsimp only; with_reducible apply Keeps.back) | split

theorem State.takeWord_keeps {s0 : State} (s : State) (h : Keeps s0 s) :
    Keeps s0 (State.takeWord s).1 := by
  unfold State.takeWord
  repeat'
    first
      | with_reducible assumption | intro _ | with_reducible apply Keeps.ite | with_reducible apply State.setBit_keeps
      | dsimp only | (refine Keeps.of ?_; dsimp only; with_reducible apply Keeps.back) | split

theorem State.command_keeps {s0 : State} (s : State) (src : CmdSrc) (codes : Nat → Bool) (code page : Nat) (f : State → Nat → State) (h : Keeps s0 s) (hf : ∀ x n, Keeps s0 x → Keeps s0 (f x n)) :
    Keeps s0 (State.command s src codes code page f) := by
  unfold State.command
  repeat'
    first
      | with_reducible assumption | intro _ | with_reducible apply hf | with_reducible apply Keeps.ite
      | with_reducible apply State.viaPath_keeps | with_reducible apply State.smdbWrite_keeps
      | with_reducible apply State.updCmdWrite_keeps | with_reducible apply State.takeWord_keeps | dsimp only
      | (refine Keeps.of ?_; dsimp only; with_reducible apply Keeps.back) | split
      | with_reducible refine Keeps.pair (by with_reducible assumption) ?_

theorem State.stage_keeps {s0 : State} (s : State) (block : Nat) (written : Bool) (h : Keeps s0 s) :
    Keeps s0 (State.stage s block written) := by
  unfold State.stage
  repeat'
    first
      | with_reducible assumption | intro _ | with_reducible apply Keeps.ite | with_reducible apply State.irq_keeps
      | with_reducible apply State.err_keeps | with_reducible apply State.setSlot_keeps
      | with_reducible apply State.respond_keeps | with_reducible apply State.updRefuse_keeps | dsimp only
      | (refine Keeps.of ?_; dsimp only; with_reducible apply Keeps.back)
      | (refine Keeps.of ?_; dsimp only; with_reducible apply Keeps.erased)
      | (refine Keeps.of ?_; dsimp only; with_reducible apply Keeps.flashed) | split

theorem State.trialStart_keeps {s0 : State} (s : State) (k i : Nat) (h : Keeps s0 s) :
    Keeps s0 (State.trialStart s k i) := by
  unfold State.trialStart
  repeat'
    first
      | with_reducible assumption | intro _ | with_reducible apply Keeps.ite | with_reducible apply State.setFld_keeps
      | with_reducible apply State.setSlot_keeps | dsimp only
      | (refine Keeps.of ?_; dsimp only; with_reducible apply Keeps.back)

theorem State.activate11_keeps {s0 : State} (s : State) (block : Nat) (h : Keeps s0 s) :
    Keeps s0 (State.activate11 s block) := by
  unfold State.activate11
  repeat'
    first
      | with_reducible assumption | intro _ | with_reducible apply Keeps.ite | with_reducible apply State.err_keeps
      | with_reducible apply State.activated_keeps | with_reducible apply State.respond_keeps
      | with_reducible apply State.updRefuse_keeps | with_reducible apply State.trialStart_keeps | dsimp only
      | (refine Keeps.of ?_; dsimp only; with_reducible apply Keeps.back) | split

theorem State.schedule_keeps {s0 : State} (s : State) (block : Nat) (h : Keeps s0 s) :
    Keeps s0 (State.schedule s block) := by
  unfold State.schedule
  repeat'
    first
      | with_reducible assumption | intro _ | with_reducible apply Keeps.ite | with_reducible apply State.setBit_keeps
      | with_reducible apply State.respond_keeps | with_reducible apply State.updRefuse_keeps | dsimp only
      | (refine Keeps.of ?_; dsimp only; with_reducible apply Keeps.back) | split

theorem State.confirmed_keeps {s0 : State} (s : State) (k : Nat) (h : Keeps s0 s) :
    Keeps s0 (State.confirmed s k) := by
  unfold State.confirmed
  repeat'
    first
      | with_reducible assumption | intro _ | with_reducible apply Keeps.ite | with_reducible apply State.setFld_keeps
      | with_reducible apply State.setBit_keeps | with_reducible apply State.irq_keeps
      | with_reducible apply State.setSlot_keeps | dsimp only
      | (refine Keeps.of ?_; dsimp only; with_reducible apply Keeps.back) | split

theorem State.confirm_keeps {s0 : State} (s : State) (block : Nat) (h : Keeps s0 s) :
    Keeps s0 (State.confirm s block) := by
  unfold State.confirm
  repeat'
    first
      | with_reducible assumption | intro _ | with_reducible apply Keeps.ite | with_reducible apply State.respond_keeps
      | with_reducible apply State.updRefuse_keeps | with_reducible apply State.confirmed_keeps | dsimp only | split

theorem State.cancel14_keeps {s0 : State} (s : State) (h : Keeps s0 s) :
    Keeps s0 (State.cancel14 s) := by
  unfold State.cancel14
  repeat'
    first
      | with_reducible assumption | intro _ | with_reducible apply Keeps.ite | with_reducible apply State.setBit_keeps
      | with_reducible apply State.respond_keeps | with_reducible apply State.updRefuse_keeps | dsimp only
      | (refine Keeps.of ?_; dsimp only; with_reducible apply Keeps.back) | split

theorem State.writeSettings_keeps {s0 : State} (s : State) (block : Nat) (h : Keeps s0 s) :
    Keeps s0 (State.writeSettings s block) := by
  unfold State.writeSettings
  repeat'
    first
      | with_reducible assumption | intro _ | with_reducible apply Keeps.ite | with_reducible apply State.fresh_keeps
      | with_reducible apply State.err_keeps | with_reducible apply State.setBank_keeps
      | with_reducible apply State.respond_keeps | with_reducible apply State.updRefuse_keeps | dsimp only
      | (refine Keeps.of ?_; dsimp only; with_reducible apply Keeps.back)
      | (refine Keeps.of ?_; dsimp only; with_reducible apply Keeps.erased)
      | (refine Keeps.of ?_; dsimp only; with_reducible apply Keeps.flashed) | split

theorem State.activateM_keeps {s0 : State} (s : State) (at_ : Nat) (h : Keeps s0 s) :
    Keeps s0 (State.activateM s at_) := by
  unfold State.activateM
  repeat'
    first
      | with_reducible assumption | intro _ | with_reducible apply Keeps.ite | with_reducible apply State.setBit_keeps
      | with_reducible apply State.setFld64_keeps | with_reducible apply State.bump_keeps | with_reducible apply State.irq_keeps
      | with_reducible apply State.sendVersions_keeps | with_reducible apply State.setRun_keeps
      | with_reducible apply State.trialStart_keeps | dsimp only

theorem State.reverted_keeps {s0 : State} (s : State) (k : Nat) (h : Keeps s0 s) :
    Keeps s0 (State.reverted s k) := by
  unfold State.reverted
  repeat'
    first
      | with_reducible assumption | intro _ | with_reducible apply Keeps.ite | with_reducible apply State.setFld_keeps
      | with_reducible apply State.setBit_keeps | with_reducible apply State.bump_keeps | with_reducible apply State.irq_keeps
      | with_reducible apply State.err_keeps | with_reducible apply State.setSlot_keeps | dsimp only
      | (refine Keeps.of ?_; dsimp only; with_reducible apply Keeps.back)

theorem execCrewCoreReset_keeps {s0 : State} (a : Acc) (word : W32) (s : State) (h : Keeps s0 s) :
    KeepsOut s0 (execCrewCoreReset a word s) := by
  unfold execCrewCoreReset
  repeat'
    first
      | with_reducible assumption | intro _ | with_reducible apply Keeps.ite | with_reducible apply KeepsOut.ite
      | with_reducible apply KeepsOut.fault | with_reducible apply KeepsOut.next | with_reducible apply run_keeps
      | with_reducible apply State.viaPath_keeps | with_reducible apply State.prcWrite_keeps | dsimp only | split

theorem execCrewRunWrite_keeps {s0 : State} (a : Acc) (word : W32) (s : State) (h : Keeps s0 s) :
    KeepsOut s0 (execCrewRunWrite a word s) := by
  unfold execCrewRunWrite
  repeat'
    first
      | with_reducible assumption | intro _ | with_reducible apply Keeps.ite | with_reducible apply KeepsOut.ite
      | with_reducible apply KeepsOut.fault | with_reducible apply KeepsOut.next | with_reducible apply run_keeps
      | with_reducible apply State.viaPath_keeps | with_reducible apply State.prcWrite_keeps | dsimp only | split

theorem execUpdateStage_keeps {s0 : State} (src : CmdSrc) (page : Nat) (written : Bool) (s : State) (h : Keeps s0 s) :
    KeepsOut s0 (execUpdateStage src page written s) := by
  unfold execUpdateStage
  repeat'
    first
      | with_reducible assumption | intro _ | with_reducible apply Keeps.ite | with_reducible apply KeepsOut.ite
      | with_reducible apply KeepsOut.fault | with_reducible apply KeepsOut.next | with_reducible apply run_keeps
      | with_reducible apply State.command_keeps | with_reducible apply State.stage_keeps | dsimp only | split

theorem execUpdateActivate_keeps {s0 : State} (src : CmdSrc) (page : Nat) (s : State) (h : Keeps s0 s) :
    KeepsOut s0 (execUpdateActivate src page s) := by
  unfold execUpdateActivate
  repeat'
    first
      | with_reducible assumption | intro _ | with_reducible apply Keeps.ite | with_reducible apply KeepsOut.ite
      | with_reducible apply KeepsOut.fault | with_reducible apply KeepsOut.next | with_reducible apply run_keeps
      | with_reducible apply State.command_keeps | with_reducible apply State.activate11_keeps | dsimp only | split

theorem execUpdateSchedule_keeps {s0 : State} (src : CmdSrc) (page : Nat) (s : State) (h : Keeps s0 s) :
    KeepsOut s0 (execUpdateSchedule src page s) := by
  unfold execUpdateSchedule
  repeat'
    first
      | with_reducible assumption | intro _ | with_reducible apply Keeps.ite | with_reducible apply KeepsOut.ite
      | with_reducible apply KeepsOut.fault | with_reducible apply KeepsOut.next | with_reducible apply run_keeps
      | with_reducible apply State.command_keeps | with_reducible apply State.schedule_keeps | dsimp only | split

theorem execUpdateConfirm_keeps {s0 : State} (src : CmdSrc) (page : Nat) (s : State) (h : Keeps s0 s) :
    KeepsOut s0 (execUpdateConfirm src page s) := by
  unfold execUpdateConfirm
  repeat'
    first
      | with_reducible assumption | intro _ | with_reducible apply Keeps.ite | with_reducible apply KeepsOut.ite
      | with_reducible apply KeepsOut.fault | with_reducible apply KeepsOut.next | with_reducible apply run_keeps
      | with_reducible apply State.command_keeps | with_reducible apply State.confirm_keeps | dsimp only | split

theorem execUpdateCancel_keeps {s0 : State} (src : CmdSrc) (page : Nat) (s : State) (h : Keeps s0 s) :
    KeepsOut s0 (execUpdateCancel src page s) := by
  unfold execUpdateCancel
  repeat'
    first
      | with_reducible assumption | intro _ | with_reducible apply Keeps.ite | with_reducible apply KeepsOut.ite
      | with_reducible apply KeepsOut.fault | with_reducible apply KeepsOut.next | with_reducible apply run_keeps
      | with_reducible apply State.command_keeps | with_reducible apply State.cancel14_keeps | dsimp only | split

theorem execWriteSettings_keeps {s0 : State} (src : CmdSrc) (page : Nat) (s : State) (h : Keeps s0 s) :
    KeepsOut s0 (execWriteSettings src page s) := by
  unfold execWriteSettings
  repeat'
    first
      | with_reducible assumption | intro _ | with_reducible apply Keeps.ite | with_reducible apply KeepsOut.ite
      | with_reducible apply KeepsOut.fault | with_reducible apply KeepsOut.next | with_reducible apply run_keeps
      | with_reducible apply State.command_keeps | with_reducible apply State.writeSettings_keeps | dsimp only | split

theorem execShadowLoaded_keeps {s0 : State} (s : State) (h : Keeps s0 s) :
    KeepsOut s0 (execShadowLoaded s) := by
  unfold execShadowLoaded
  repeat'
    first
      | with_reducible assumption | intro _ | with_reducible apply Keeps.ite | with_reducible apply KeepsOut.ite
      | with_reducible apply KeepsOut.fault | with_reducible apply KeepsOut.next | with_reducible apply State.setBit_keeps
      | with_reducible apply run_keeps | dsimp only | split

theorem execClassMActivation_keeps {s0 : State} (s : State) (h : Keeps s0 s) :
    KeepsOut s0 (execClassMActivation s) := by
  unfold execClassMActivation
  repeat'
    first
      | with_reducible assumption | intro _ | with_reducible apply Keeps.ite | with_reducible apply KeepsOut.ite
      | with_reducible apply KeepsOut.fault | with_reducible apply KeepsOut.next | with_reducible apply run_keeps
      | with_reducible apply State.activateM_keeps | dsimp only
      | (refine Keeps.of ?_; dsimp only; with_reducible apply Keeps.back) | split

theorem execClassMRevert_keeps {s0 : State} (s : State) (h : Keeps s0 s) :
    KeepsOut s0 (execClassMRevert s) := by
  unfold execClassMRevert
  repeat'
    first
      | with_reducible assumption | intro _ | with_reducible apply Keeps.ite | with_reducible apply KeepsOut.ite
      | with_reducible apply KeepsOut.fault | with_reducible apply KeepsOut.next | with_reducible apply run_keeps
      | with_reducible apply State.sendVersions_keeps | with_reducible apply State.setRun_keeps
      | with_reducible apply State.reverted_keeps | dsimp only
      | (refine Keeps.of ?_; dsimp only; with_reducible apply Keeps.back) | split

theorem execManagementPauseEnd_keeps {s0 : State} (s : State) (h : Keeps s0 s) :
    KeepsOut s0 (execManagementPauseEnd s) := by
  unfold execManagementPauseEnd
  repeat'
    first
      | with_reducible assumption | intro _ | with_reducible apply Keeps.ite | with_reducible apply KeepsOut.ite
      | with_reducible apply KeepsOut.fault | with_reducible apply KeepsOut.next | with_reducible apply State.setBit_keeps
      | with_reducible apply State.setFld64_keeps | with_reducible apply State.when_keeps | with_reducible apply run_keeps
      | with_reducible apply State.sendVersions_keeps | with_reducible apply State.setRun_keeps
      | with_reducible apply State.crewSet_keeps | dsimp only | split

theorem State.sconfHook_keeps {s0 : State} (s : State) (eff : W32) (h : Keeps s0 s) :
    Keeps s0 (State.sconfHook s eff) := by
  unfold State.sconfHook
  repeat'
    first
      | with_reducible assumption | intro _ | with_reducible apply Keeps.ite | with_reducible apply State.confirmed_keeps
      | dsimp only | split

theorem State.updWrite_keeps {s0 : State} (s : State) (a : Acc) (o : Nat) (w : W32) (h : Keeps s0 s) :
    Keeps s0 (State.updWrite s a o w) := by
  unfold State.updWrite
  repeat'
    first
      | with_reducible assumption | intro _ | with_reducible apply Keeps.ite | with_reducible apply State.storeWord_keeps
      | with_reducible apply State.updCmdWrite_keeps | with_reducible apply State.sconfHook_keeps | dsimp only | split

theorem execClassSConfirm_keeps {s0 : State} (a : Acc) (word : W32) (s : State) (h : Keeps s0 s) :
    KeepsOut s0 (execClassSConfirm a word s) := by
  unfold execClassSConfirm
  repeat'
    first
      | with_reducible assumption | intro _ | with_reducible apply Keeps.ite | with_reducible apply KeepsOut.ite
      | with_reducible apply KeepsOut.fault | with_reducible apply KeepsOut.next | with_reducible apply run_keeps
      | with_reducible apply State.viaPath_keeps | with_reducible apply State.updWrite_keeps | dsimp only | split

theorem execTrialTimeout_keeps {s0 : State} (s : State) (h : Keeps s0 s) :
    KeepsOut s0 (execTrialTimeout s) := by
  unfold execTrialTimeout
  repeat'
    first
      | with_reducible assumption | intro _ | with_reducible apply Keeps.ite | with_reducible apply KeepsOut.ite
      | with_reducible apply KeepsOut.fault | with_reducible apply KeepsOut.next | with_reducible apply run_keeps
      | with_reducible apply State.setBank_keeps | with_reducible apply State.pauseStart_keeps
      | with_reducible apply State.reverted_keeps | dsimp only
      | (refine Keeps.of ?_; dsimp only; with_reducible apply Keeps.back) | split

end Sys2Proof.Machine
end

