-- ==== Sys2Proof/Laws/KeepRefs.lean ====
section
/-!
SUPPORT. The operations of Machine/Refs.lean keep the queue and the invariant.
-/
set_option linter.unusedTactic false
set_option linter.unreachableTactic false
namespace Sys2Proof.Machine

theorem State.setRefState_keeps {s0 : State} (s : State) (i st : Nat) (h : Keeps s0 s) :
    Keeps s0 (State.setRefState s i st) := by
  unfold State.setRefState
  repeat'
    first
      | with_reducible assumption | intro _ | with_reducible apply Keeps.ite | with_reducible apply State.setFld_keeps
      | dsimp only

theorem State.showSrc_keeps {s0 : State} (s : State) (h : Keeps s0 s) :
    Keeps s0 (State.showSrc s) := by
  unfold State.showSrc
  repeat'
    first
      | with_reducible assumption | intro _ | with_reducible apply Keeps.ite | with_reducible apply State.setFld_keeps
      | dsimp only | split

theorem State.selSet_keeps {s0 : State} (s : State) (st sel tgt : Nat) (h : Keeps s0 s) :
    Keeps s0 (State.selSet s st sel tgt) := by
  unfold State.selSet
  repeat'
    first
      | with_reducible assumption | intro _ | with_reducible apply Keeps.ite | with_reducible apply State.setFld_keeps
      | dsimp only

theorem State.selTarget_keeps {s0 : State} (s : State) (b : Nat) (h : Keeps s0 s) :
    Keeps s0 (State.selTarget s b) := by
  unfold State.selTarget
  repeat'
    first
      | with_reducible assumption | intro _ | with_reducible apply Keeps.ite | with_reducible apply State.selSet_keeps
      | dsimp only | (refine Keeps.of ?_; dsimp only; with_reducible apply Keeps.back)

theorem State.refSelect_keeps {s0 : State} (s : State) (h : Keeps s0 s) :
    Keeps s0 (State.refSelect s) := by
  unfold State.refSelect
  repeat'
    first
      | with_reducible assumption | intro _ | with_reducible apply Keeps.ite | with_reducible apply State.setBit_keeps
      | with_reducible apply State.bump_keeps | with_reducible apply State.irq_keeps | with_reducible apply State.showSrc_keeps
      | with_reducible apply State.selSet_keeps | with_reducible apply State.selTarget_keeps | dsimp only
      | (refine Keeps.of ?_; dsimp only; with_reducible apply Keeps.back) | split

theorem State.refRecheck_keeps {s0 : State} (s : State) (h : Keeps s0 s) :
    Keeps s0 (State.refRecheck s) := by
  unfold State.refRecheck
  repeat'
    first
      | with_reducible assumption | intro _ | with_reducible apply Keeps.ite | with_reducible apply State.refSelect_keeps
      | dsimp only | split

theorem State.refBad_keeps {s0 : State} (s : State) (i : Nat) (h : Keeps s0 s) :
    Keeps s0 (State.refBad s i) := by
  unfold State.refBad
  repeat'
    first
      | with_reducible assumption | intro _ | with_reducible apply Keeps.ite | with_reducible apply State.bump_keeps
      | with_reducible apply State.irq_keeps | with_reducible apply State.err_keeps | dsimp only

theorem State.refOver_keeps {s0 : State} (s : State) (i : Nat) (h : Keeps s0 s) :
    Keeps s0 (State.refOver s i) := by
  unfold State.refOver
  repeat'
    first
      | with_reducible assumption | intro _ | with_reducible apply Keeps.ite | with_reducible apply State.bump_keeps
      | with_reducible apply State.irq_keeps | with_reducible apply State.err_keeps
      | with_reducible apply State.setRefState_keeps | with_reducible apply State.refRecheck_keeps | dsimp only | split

theorem State.refInterval_keeps {s0 : State} (s : State) (i upt : Nat) (h : Keeps s0 s) :
    Keeps s0 (State.refInterval s i upt) := by
  unfold State.refInterval
  repeat'
    first
      | with_reducible assumption | intro _ | with_reducible apply Keeps.ite | with_reducible apply State.setRi_keeps
      | with_reducible apply State.refOver_keeps | dsimp only
      | (refine Keeps.of ?_; dsimp only; with_reducible apply Keeps.back) | split

theorem State.refFar_keeps {s0 : State} (s : State) (e : Int) (h : Keeps s0 s) :
    Keeps s0 (State.refFar s e) := by
  unfold State.refFar
  repeat'
    first
      | with_reducible assumption | intro _ | with_reducible apply Keeps.ite | with_reducible apply State.setBit_keeps
      | with_reducible apply State.bump_keeps | with_reducible apply State.irq_keeps | with_reducible apply State.when_keeps
      | dsimp only

theorem State.refPhase_keeps {s0 : State} (s : State) (i : Nat) (e : Int) (h : Keeps s0 s) :
    Keeps s0 (State.refPhase s i e) := by
  unfold State.refPhase
  repeat'
    first
      | with_reducible assumption | intro _ | with_reducible apply Keeps.ite | with_reducible apply State.setFld_keeps
      | with_reducible apply State.setRi_keeps | with_reducible apply State.showSrc_keeps
      | with_reducible apply State.refFar_keeps | dsimp only | (refine Keeps.of ?_; dsimp only; with_reducible apply Keeps.back)
      | (refine Keeps.of ?_; dsimp only; with_reducible apply Keeps.todPut) | split

theorem State.refEvent_keeps {s0 : State} (s : State) (i upt : Nat) (m : Int) (q : Option Nat) (h : Keeps s0 s) :
    Keeps s0 (State.refEvent s i upt m q) := by
  unfold State.refEvent
  repeat'
    first
      | with_reducible assumption | intro _ | with_reducible apply Keeps.ite | with_reducible apply State.setFld_keeps
      | with_reducible apply State.setFld64_keeps | with_reducible apply State.setRi_keeps
      | with_reducible apply State.setRefState_keeps | with_reducible apply State.refBad_keeps
      | with_reducible apply State.refInterval_keeps | with_reducible apply State.refPhase_keeps | dsimp only
      | (refine Keeps.of ?_; dsimp only; with_reducible apply Keeps.back) | split

theorem State.refQuiet_keeps {s0 : State} (s : State) (i : Nat) (h : Keeps s0 s) :
    Keeps s0 (State.refQuiet s i) := by
  unfold State.refQuiet
  repeat'
    first
      | with_reducible assumption | intro _ | with_reducible apply Keeps.ite | with_reducible apply State.bump_keeps
      | with_reducible apply State.irq_keeps | with_reducible apply State.setRi_keeps
      | with_reducible apply State.setRefState_keeps | with_reducible apply State.refRecheck_keeps | dsimp only
      | (refine Keeps.of ?_; dsimp only; with_reducible apply Keeps.back) | split

theorem State.refMonitor_keeps {s0 : State} (s : State) (i : Nat) (h : Keeps s0 s) :
    Keeps s0 (State.refMonitor s i) := by
  unfold State.refMonitor
  repeat'
    first
      | with_reducible assumption | intro _ | with_reducible apply Keeps.ite | with_reducible apply State.setFld_keeps
      | with_reducible apply State.setBit_keeps | with_reducible apply State.bump_keeps | with_reducible apply State.irq_keeps
      | with_reducible apply State.when_keeps | with_reducible apply State.setRefState_keeps | dsimp only
      | (refine Keeps.of ?_; dsimp only; with_reducible apply Keeps.back) | split

theorem State.refFollow_keeps {s0 : State} (s : State) (i : Nat) (changed : Bool) (h : Keeps s0 s) :
    Keeps s0 (State.refFollow s i changed) := by
  unfold State.refFollow
  repeat'
    first
      | with_reducible assumption | intro _ | with_reducible apply Keeps.ite | with_reducible apply State.setRi_keeps
      | with_reducible apply State.setRefState_keeps | dsimp only | split

theorem State.refApply_keeps {s0 : State} (s : State) (h : Keeps s0 s) :
    Keeps s0 (State.refApply s) := by
  unfold State.refApply
  repeat'
    first
      | with_reducible assumption | intro _ | with_reducible apply Keeps.foldl | with_reducible apply Keeps.foldlFst
      | with_reducible apply Keeps.ite | with_reducible apply State.applySlot_keeps | with_reducible apply State.refFollow_keeps
      | dsimp only

theorem State.ramp_keeps {s0 : State} (s : State) (goal : Int) (h : Keeps s0 s) :
    Keeps s0 (State.ramp s goal) := by
  unfold State.ramp
  repeat'
    first
      | with_reducible assumption | intro _ | with_reducible apply Keeps.ite | with_reducible apply State.setFld_keeps
      | dsimp only | (refine Keeps.of ?_; dsimp only; with_reducible apply Keeps.back) | split

theorem State.loop_keeps {s0 : State} (s : State) (i : Nat) (h : Keeps s0 s) :
    Keeps s0 (State.loop s i) := by
  unfold State.loop
  repeat'
    first
      | with_reducible assumption | intro _ | with_reducible apply Keeps.ite | with_reducible apply State.setRi_keeps
      | dsimp only | (refine Keeps.of ?_; dsimp only; with_reducible apply Keeps.back) | split

theorem State.refReached_keeps {s0 : State} (s : State) (h : Keeps s0 s) :
    Keeps s0 (State.refReached s) := by
  unfold State.refReached
  repeat'
    first
      | with_reducible assumption | intro _ | with_reducible apply Keeps.ite | with_reducible apply State.bump_keeps
      | with_reducible apply State.irq_keeps | with_reducible apply State.setRi_keeps | with_reducible apply State.selSet_keeps
      | with_reducible apply State.refSelect_keeps | dsimp only
      | (refine Keeps.of ?_; dsimp only; with_reducible apply Keeps.back)

theorem State.loopUpdate_keeps {s0 : State} (s : State) (h : Keeps s0 s) :
    Keeps s0 (State.loopUpdate s) := by
  unfold State.loopUpdate
  repeat'
    first
      | with_reducible assumption | intro _ | with_reducible apply Keeps.foldl | with_reducible apply Keeps.foldlFst
      | with_reducible apply Keeps.ite | with_reducible apply State.setFld_keeps | with_reducible apply State.setBit_keeps
      | with_reducible apply State.setPl_keeps | with_reducible apply State.loopSteer_keeps
      | with_reducible apply State.synthSteer_keeps | with_reducible apply State.clkBit_keeps
      | with_reducible apply State.ramp_keeps | with_reducible apply State.loop_keeps
      | with_reducible apply State.refReached_keeps | dsimp only
      | (refine Keeps.of ?_; dsimp only; with_reducible apply Keeps.back) | split

theorem State.holdoverSecond_keeps {s0 : State} (s : State) (h : Keeps s0 s) :
    Keeps s0 (State.holdoverSecond s) := by
  unfold State.holdoverSecond
  repeat'
    first
      | with_reducible assumption | intro _ | with_reducible apply Keeps.ite | with_reducible apply State.setFld_keeps
      | dsimp only | (refine Keeps.of ?_; dsimp only; with_reducible apply Keeps.back) | split

theorem State.refHook_keeps {s0 : State} (s : State) (i o : Nat) (eff : W32) (h : Keeps s0 s) :
    Keeps s0 (State.refHook s i o eff) := by
  unfold State.refHook
  repeat'
    first
      | with_reducible assumption | intro _ | with_reducible apply Keeps.ite | with_reducible apply State.refEvent_keeps
      | dsimp only | split

theorem State.refWrite_keeps {s0 : State} (s : State) (a : Acc) (i o : Nat) (w : W32) (hw : Option W32) (h : Keeps s0 s) :
    Keeps s0 (State.refWrite s a i o w hw) := by
  unfold State.refWrite
  repeat'
    first
      | with_reducible assumption | intro _ | with_reducible apply Keeps.ite | with_reducible apply State.storeWord_keeps
      | with_reducible apply State.refHook_keeps | dsimp only | split

theorem execReferenceEvent_keeps {s0 : State} (edge : RefEdge) (upt m q : Nat) (s : State) (h : Keeps s0 s) :
    KeepsOut s0 (execReferenceEvent edge upt m q s) := by
  unfold execReferenceEvent
  repeat'
    first
      | with_reducible assumption | intro _ | with_reducible apply Keeps.ite | with_reducible apply KeepsOut.ite
      | with_reducible apply KeepsOut.fault | with_reducible apply KeepsOut.next | with_reducible apply run_keeps
      | with_reducible apply State.refEvent_keeps | dsimp only | split

theorem execRefPtpSubmit_keeps {s0 : State} (a : Acc) (inst : Fin 2) (s : State) (h : Keeps s0 s) :
    KeepsOut s0 (execRefPtpSubmit a inst s) := by
  unfold execRefPtpSubmit
  repeat'
    first
      | with_reducible assumption | intro _ | with_reducible apply Keeps.ite | with_reducible apply KeepsOut.ite
      | with_reducible apply KeepsOut.fault | with_reducible apply KeepsOut.next | with_reducible apply run_keeps
      | with_reducible apply State.viaPath_keeps | with_reducible apply State.refWrite_keeps | dsimp only | split

theorem execMonitorInstant_keeps {s0 : State} (s : State) (h : Keeps s0 s) :
    KeepsOut s0 (execMonitorInstant s) := by
  unfold execMonitorInstant
  repeat'
    first
      | with_reducible assumption | intro _ | with_reducible apply Keeps.foldl | with_reducible apply Keeps.foldlFst
      | with_reducible apply Keeps.ite | with_reducible apply KeepsOut.ite | with_reducible apply KeepsOut.fault
      | with_reducible apply KeepsOut.next | with_reducible apply State.periodic_keeps | with_reducible apply run_keeps
      | with_reducible apply State.refSelect_keeps | with_reducible apply State.refMonitor_keeps
      | with_reducible apply State.refApply_keeps | dsimp only | split

theorem execRefActivityLoss_keeps {s0 : State} (input : Fin 10) (s : State) (h : Keeps s0 s) :
    KeepsOut s0 (execRefActivityLoss input s) := by
  unfold execRefActivityLoss
  repeat'
    first
      | with_reducible assumption | intro _ | with_reducible apply Keeps.ite | with_reducible apply KeepsOut.ite
      | with_reducible apply KeepsOut.fault | with_reducible apply KeepsOut.next | with_reducible apply run_keeps
      | with_reducible apply State.refQuiet_keeps | dsimp only | split

theorem execRefOverRangeExit_keeps {s0 : State} (input : Fin 10) (s : State) (h : Keeps s0 s) :
    KeepsOut s0 (execRefOverRangeExit input s) := by
  unfold execRefOverRangeExit
  repeat'
    first
      | with_reducible assumption | intro _ | with_reducible apply Keeps.ite | with_reducible apply KeepsOut.ite
      | with_reducible apply KeepsOut.fault | with_reducible apply KeepsOut.next | with_reducible apply State.setFld_keeps
      | with_reducible apply State.setRi_keeps | with_reducible apply run_keeps | with_reducible apply State.setRefState_keeps
      | dsimp only | (refine Keeps.of ?_; dsimp only; with_reducible apply Keeps.back) | split

theorem execLoopUpdate_keeps {s0 : State} (s : State) (h : Keeps s0 s) :
    KeepsOut s0 (execLoopUpdate s) := by
  unfold execLoopUpdate
  repeat'
    first
      | with_reducible assumption | intro _ | with_reducible apply Keeps.ite | with_reducible apply KeepsOut.ite
      | with_reducible apply KeepsOut.fault | with_reducible apply KeepsOut.next | with_reducible apply State.periodic_keeps
      | with_reducible apply run_keeps | with_reducible apply State.loopUpdate_keeps | dsimp only | split

theorem execHoldoverSecond_keeps {s0 : State} (s : State) (h : Keeps s0 s) :
    KeepsOut s0 (execHoldoverSecond s) := by
  unfold execHoldoverSecond
  repeat'
    first
      | with_reducible assumption | intro _ | with_reducible apply Keeps.ite | with_reducible apply KeepsOut.ite
      | with_reducible apply KeepsOut.fault | with_reducible apply KeepsOut.next | with_reducible apply State.periodic_keeps
      | with_reducible apply run_keeps | with_reducible apply State.holdoverSecond_keeps | dsimp only | split

end Sys2Proof.Machine
end

