-- ==== Sys2Proof/Laws/KeepSdi.lean ====
section
/-!
SUPPORT. The operations of Machine/Sdi.lean keep the queue and the invariant.
-/
set_option linter.unusedTactic false
set_option linter.unreachableTactic false
namespace Sys2Proof.Machine

theorem State.pidCheck_keeps {s0 : State} (s : State) (b : Nat) (m : Measured) (h : Keeps s0 s) :
    Keeps s0 (State.pidCheck s b m) := by
  unfold State.pidCheck
  repeat'
    first
      | with_reducible assumption | intro _ | with_reducible apply Keeps.ite | with_reducible apply State.setBit_keeps
      | with_reducible apply State.err_keeps | with_reducible apply State.setDf_keeps | dsimp only
      | (refine Keeps.of ?_; dsimp only; with_reducible apply Keeps.back) | split

theorem State.pidChanged_keeps {s0 : State} (s : State) (b : Nat) (h : Keeps s0 s) :
    Keeps s0 (State.pidChanged s b) := by
  unfold State.pidChanged
  repeat'
    first
      | with_reducible assumption | intro _ | with_reducible apply Keeps.ite | with_reducible apply State.srcAttr_keeps
      | with_reducible apply State.setDf_keeps | with_reducible apply State.pidCheck_keeps | dsimp only
      | (refine Keeps.of ?_; dsimp only; with_reducible apply Keeps.back) | split

theorem State.pidIn_keeps {s0 : State} (s : State) (L : Nat) (pid : W32) (h : Keeps s0 s) :
    Keeps s0 (State.pidIn s L pid) := by
  unfold State.pidIn
  repeat'
    first
      | with_reducible assumption | intro _ | with_reducible apply Keeps.ite | with_reducible apply State.setWord_keeps
      | with_reducible apply State.setDf_keeps | with_reducible apply State.pidChanged_keeps | dsimp only
      | (refine Keeps.of ?_; dsimp only; with_reducible apply Keeps.back) | split

theorem State.fmtFound_keeps {s0 : State} (s : State) (b : Nat) (m : Measured) (t : Nat) (h : Keeps s0 s) :
    Keeps s0 (State.fmtFound s b m t) := by
  unfold State.fmtFound
  repeat'
    first
      | with_reducible assumption | intro _ | with_reducible apply Keeps.foldl | with_reducible apply Keeps.foldlFst
      | with_reducible apply Keeps.ite | with_reducible apply State.setFld_keeps | with_reducible apply State.setBit_keeps
      | with_reducible apply State.irq_keeps | with_reducible apply State.srcFmt_keeps | with_reducible apply State.setDf_keeps
      | with_reducible apply State.pidCheck_keeps | dsimp only
      | (refine Keeps.of ?_; dsimp only; with_reducible apply Keeps.back)

theorem State.fmtSeen_keeps {s0 : State} (s : State) (L t : Nat) (h : Keeps s0 s) :
    Keeps s0 (State.fmtSeen s L t) := by
  unfold State.fmtSeen
  repeat'
    first
      | with_reducible assumption | intro _ | with_reducible apply Keeps.ite | with_reducible apply State.linkFail_keeps
      | with_reducible apply State.fmtFound_keeps | dsimp only
      | (refine Keeps.of ?_; dsimp only; with_reducible apply Keeps.back) | split

theorem State.fmtGone_keeps {s0 : State} (s : State) (L : Nat) (h : Keeps s0 s) :
    Keeps s0 (State.fmtGone s L) := by
  unfold State.fmtGone
  repeat'
    first
      | with_reducible assumption | intro _ | with_reducible apply Keeps.ite | with_reducible apply State.irq_keeps
      | with_reducible apply State.when_keeps | with_reducible apply State.srcFmtLost_keeps
      | with_reducible apply State.linkFail_keeps | with_reducible apply State.fmtEnds_keeps | dsimp only | split

theorem State.edhCarry_keeps {s0 : State} (s : State) (r field flags : Nat) (h : Keeps s0 s) :
    Keeps s0 (State.edhCarry s r field flags) := by
  unfold State.edhCarry
  repeat'
    first
      | with_reducible assumption | intro _ | with_reducible apply Keeps.foldl | with_reducible apply Keeps.foldlFst
      | with_reducible apply Keeps.ite | with_reducible apply State.setPt_keeps | with_reducible apply State.setSy_keeps
      | dsimp only | (refine Keeps.of ?_; dsimp only; with_reducible apply Keeps.back) | split

theorem State.lineCheck_keeps {s0 : State} (s : State) (L b : Nat) (x : SdiLine) (h : Keeps s0 s) :
    Keeps s0 (State.lineCheck s L b x) := by
  unfold State.lineCheck
  repeat'
    first
      | with_reducible assumption | intro _ | with_reducible apply Keeps.ite | with_reducible apply State.setFld_keeps
      | with_reducible apply State.bump_keeps | with_reducible apply State.when_keeps
      | with_reducible apply State.edhCarry_keeps | dsimp only
      | (refine Keeps.of ?_; dsimp only; with_reducible apply Keeps.back) | split

theorem State.lineMeasured_keeps {s0 : State} (s : State) (L : Nat) (x : SdiLine) (upt : Nat) (h : Keeps s0 s) :
    Keeps s0 (State.lineMeasured s L x upt) := by
  unfold State.lineMeasured
  repeat'
    first
      | with_reducible assumption | intro _ | with_reducible apply Keeps.ite | with_reducible apply State.bump_keeps
      | with_reducible apply State.when_keeps | with_reducible apply State.setDf_keeps
      | with_reducible apply State.pidChanged_keeps | dsimp only
      | (refine Keeps.of ?_; dsimp only; with_reducible apply Keeps.back) | split

theorem State.sdiLine_keeps {s0 : State} (s : State) (L : Nat) (x : SdiLine) (upt : Nat) (h : Keeps s0 s) :
    Keeps s0 (State.sdiLine s L x upt) := by
  unfold State.sdiLine
  repeat'
    first
      | with_reducible assumption | intro _ | with_reducible apply Keeps.ite | with_reducible apply State.lineCheck_keeps
      | with_reducible apply State.lineMeasured_keeps | dsimp only | split

theorem State.ancCarry_keeps {s0 : State} (s : State) (r : Nat) (k : AncPkt) (h : Keeps s0 s) :
    Keeps s0 (State.ancCarry s r k) := by
  unfold State.ancCarry
  repeat'
    first
      | with_reducible assumption | intro _ | with_reducible apply Keeps.ite | with_reducible apply State.setPt_keeps
      | with_reducible apply State.ancOn_keeps | dsimp only | (refine Keeps.of ?_; dsimp only; with_reducible apply Keeps.back)
      | split

theorem State.pitPush_keeps {s0 : State} (s : State) (i stamp w : Nat) (h : Keeps s0 s) :
    Keeps s0 (State.pitPush s i stamp w) := by
  unfold State.pitPush
  repeat'
    first
      | with_reducible assumption | intro _ | with_reducible apply Keeps.ite | with_reducible apply State.setPin_keeps
      | dsimp only | (refine Keeps.of ?_; dsimp only; with_reducible apply Keeps.back)

theorem State.audioIn_keeps {s0 : State} (s : State) (L b : Nat) (l : List (Nat × Nat)) (stamp : Nat) (e : Ecc) (h : Keeps s0 s) :
    Keeps s0 (State.audioIn s L b l stamp e) := by
  unfold State.audioIn
  repeat'
    first
      | with_reducible assumption | intro _ | with_reducible apply Keeps.foldl | with_reducible apply Keeps.foldlFst
      | with_reducible apply Keeps.ite | with_reducible apply State.bump_keeps | with_reducible apply State.setDf_keeps
      | with_reducible apply State.pitPush_keeps | dsimp only
      | (refine Keeps.of ?_; dsimp only; with_reducible apply Keeps.back) | split

theorem State.audioControl_keeps {s0 : State} (s : State) (L b g : Nat) (sync : Bool) (h : Keeps s0 s) :
    Keeps s0 (State.audioControl s L b g sync) := by
  unfold State.audioControl
  repeat'
    first
      | with_reducible assumption | intro _ | with_reducible apply Keeps.ite | with_reducible apply State.setBit_keeps
      | with_reducible apply State.setDf_keeps | dsimp only | (refine Keeps.of ?_; dsimp only; with_reducible apply Keeps.back)
      | split

theorem State.timecode_keeps {s0 : State} (s : State) (b : Nat) (word : BitVec 64) (type lineUpt : Nat) (h : Keeps s0 s) :
    Keeps s0 (State.timecode s b word type lineUpt) := by
  unfold State.timecode
  repeat'
    first
      | with_reducible assumption | intro _ | with_reducible apply Keeps.ite | with_reducible apply State.setFld_keeps
      | with_reducible apply State.setFld64_keeps | with_reducible apply State.irq_keeps | with_reducible apply State.when_keeps
      | with_reducible apply State.setDf_keeps | dsimp only | (refine Keeps.of ?_; dsimp only; with_reducible apply Keeps.back)

theorem State.ancIn_keeps {s0 : State} (s : State) (L : Nat) (k : AncPkt) (body : AncBody) (sumOk : Bool) (lineUpt : Nat) (h : Keeps s0 s) :
    Keeps s0 (State.ancIn s L k body sumOk lineUpt) := by
  unfold State.ancIn
  repeat'
    first
      | with_reducible assumption | intro _ | with_reducible apply Keeps.ite | with_reducible apply State.bump_keeps
      | with_reducible apply State.when_keeps | with_reducible apply State.pidIn_keeps
      | with_reducible apply State.ancCarry_keeps | with_reducible apply State.audioIn_keeps
      | with_reducible apply State.audioControl_keeps | with_reducible apply State.timecode_keeps | dsimp only
      | (refine Keeps.of ?_; dsimp only; with_reducible apply Keeps.back) | split

theorem State.latchTc_keeps {s0 : State} (s : State) (m L : Nat) (h : Keeps s0 s) :
    Keeps s0 (State.latchTc s m L).1 := by
  unfold State.latchTc
  repeat'
    first
      | with_reducible assumption | intro _ | with_reducible apply Keeps.foldl | with_reducible apply Keeps.foldlFst
      | with_reducible apply Keeps.ite | with_reducible apply State.setMreg_keeps | with_reducible apply State.setDf_keeps
      | dsimp only | (refine Keeps.of ?_; dsimp only; with_reducible apply Keeps.back) | split

theorem State.fmtStart_keeps {s0 : State} (s : State) (L t : Nat) (room : List AncRoom) (h : Keeps s0 s) :
    Keeps s0 (State.fmtStart s L t room) := by
  unfold State.fmtStart
  repeat'
    first
      | with_reducible assumption | intro _ | with_reducible apply Keeps.foldl | with_reducible apply Keeps.foldlFst
      | with_reducible apply Keeps.ite | with_reducible apply State.setWord_keeps | with_reducible apply State.setBit_keeps
      | with_reducible apply State.bump_keeps | with_reducible apply State.irq_keeps | with_reducible apply State.when_keeps
      | with_reducible apply State.applySlot_keeps | with_reducible apply State.setFm_keeps
      | with_reducible apply State.ancOut_keeps | with_reducible apply State.ancLeft_keeps
      | with_reducible apply State.txSettle_keeps | with_reducible apply State.txRate_keeps | dsimp only
      | (refine Keeps.of ?_; dsimp only; with_reducible apply Keeps.back) | split

theorem execSourceFrameReady_keeps {s0 : State} (rail : Fin 2048) (cue : Fin 16) (s : State) (h : Keeps s0 s) :
    KeepsOut s0 (execSourceFrameReady rail cue s) := by
  unfold execSourceFrameReady
  repeat'
    first
      | with_reducible assumption | intro _ | with_reducible apply Keeps.ite | with_reducible apply KeepsOut.ite
      | with_reducible apply KeepsOut.fault | with_reducible apply KeepsOut.next | with_reducible apply State.when_keeps
      | with_reducible apply State.fresh_keeps | with_reducible apply State.srcFrame_keeps
      | with_reducible apply State.srcFmt_keeps | with_reducible apply runRails_keeps
      | with_reducible apply State.defrApply_keeps | dsimp only
      | (refine Keeps.of ?_; dsimp only; with_reducible apply Keeps.back) | split

theorem execFormatEstablished_keeps {s0 : State} (lane : Fin 512) (pic : Fmt) (links frames : Nat) (cue : Fin 16) (s : State) (h : Keeps s0 s) :
    KeepsOut s0 (execFormatEstablished lane pic links frames cue s) := by
  unfold execFormatEstablished
  repeat'
    first
      | with_reducible assumption | intro _ | with_reducible apply Keeps.ite | with_reducible apply KeepsOut.ite
      | with_reducible apply KeepsOut.fault | with_reducible apply KeepsOut.next | with_reducible apply runRails_keeps
      | with_reducible apply State.fmtSeen_keeps | dsimp only | split

theorem execFormatLost_keeps {s0 : State} (lane : Fin 512) (links : Nat) (s : State) (h : Keeps s0 s) :
    KeepsOut s0 (execFormatLost lane links s) := by
  unfold execFormatLost
  repeat'
    first
      | with_reducible assumption | intro _ | with_reducible apply Keeps.ite | with_reducible apply KeepsOut.ite
      | with_reducible apply KeepsOut.fault | with_reducible apply KeepsOut.next | with_reducible apply runRails_keeps
      | with_reducible apply State.fmtGone_keeps | dsimp only | split

theorem execSdiLineReceived_keeps {s0 : State} (lane : Fin 512) (ended : Option Fmt) (eav sav : Nat) (body : LineBody) (cue : Fin 16) (s : State) (h : Keeps s0 s) :
    KeepsOut s0 (execSdiLineReceived lane ended eav sav body cue s) := by
  unfold execSdiLineReceived
  repeat'
    first
      | with_reducible assumption | intro _ | with_reducible apply Keeps.ite | with_reducible apply KeepsOut.ite
      | with_reducible apply KeepsOut.fault | with_reducible apply KeepsOut.next | with_reducible apply runRails_keeps
      | with_reducible apply State.sdiLine_keeps | dsimp only
      | (refine Keeps.of ?_; dsimp only; with_reducible apply Keeps.back) | split

theorem execAncPacketReceived_keeps {s0 : State} (lane : Fin 512) (pkt : AncPkt) (body : AncBody) (sumOk : Bool) (lineUpt : Nat) (s : State) (h : Keeps s0 s) :
    KeepsOut s0 (execAncPacketReceived lane pkt body sumOk lineUpt s) := by
  unfold execAncPacketReceived
  repeat'
    first
      | with_reducible assumption | intro _ | with_reducible apply Keeps.ite | with_reducible apply KeepsOut.ite
      | with_reducible apply KeepsOut.fault | with_reducible apply KeepsOut.next | with_reducible apply runRails_keeps
      | with_reducible apply State.ancIn_keeps | dsimp only | split

theorem execTimecodeLatchRead_keeps {s0 : State} (a : Acc) (lane : Fin 512) (s : State) (h : Keeps s0 s) :
    KeepsOut s0 (execTimecodeLatchRead a lane s) := by
  unfold execTimecodeLatchRead
  repeat'
    first
      | with_reducible assumption | intro _ | with_reducible apply Keeps.ite | with_reducible apply KeepsOut.ite
      | with_reducible apply KeepsOut.fault | with_reducible apply KeepsOut.next | with_reducible apply run_keeps
      | with_reducible apply State.viaRead_keeps | with_reducible apply State.latchTc_keeps | dsimp only | split
      | with_reducible refine Keeps.pair (by with_reducible assumption) ?_

theorem execFormatterFrameStart_keeps {s0 : State} (tap : Fin 512) (cue : Fin 16) (room : List AncRoom) (s : State) (h : Keeps s0 s) :
    KeepsOut s0 (execFormatterFrameStart tap cue room s) := by
  unfold execFormatterFrameStart
  repeat'
    first
      | with_reducible assumption | intro _ | with_reducible apply Keeps.ite | with_reducible apply KeepsOut.ite
      | with_reducible apply KeepsOut.fault | with_reducible apply KeepsOut.next | with_reducible apply run_keeps
      | with_reducible apply State.fmtStart_keeps | dsimp only | split

end Sys2Proof.Machine
end

