-- ==== Sys2Proof/Laws/KeepTdm.lean ====
section
/-!
SUPPORT. The operations of Machine/Tdm.lean keep the queue and the invariant.
-/
set_option linter.unusedTactic false
set_option linter.unreachableTactic false
namespace Sys2Proof.Machine

theorem State.setTp_keeps {s0 : State} (s : State) (q : Nat) (v : TdmPort) (h : Keeps s0 s) :
    Keeps s0 (State.setTp s q v) := by
  unfold State.setTp
  repeat'
    first
      | with_reducible assumption | intro _ | with_reducible apply Keeps.ite | dsimp only
      | (refine Keeps.of ?_; dsimp only; with_reducible apply Keeps.back)

theorem State.setTc_keeps {s0 : State} (s : State) (k : Nat) (v : TdmCh) (h : Keeps s0 s) :
    Keeps s0 (State.setTc s k v) := by
  unfold State.setTc
  repeat'
    first
      | with_reducible assumption | intro _ | with_reducible apply Keeps.ite | dsimp only
      | (refine Keeps.of ?_; dsimp only; with_reducible apply Keeps.back)

theorem State.tdmSwitch_keeps {s0 : State} (s : State) (q : Nat) (isTx : Bool) (was is : Nat → Bool) (h : Keeps s0 s) :
    Keeps s0 (State.tdmSwitch s q isTx was is) := by
  unfold State.tdmSwitch
  repeat'
    first
      | with_reducible assumption | intro _ | with_reducible apply Keeps.foldl | with_reducible apply Keeps.foldlFst
      | with_reducible apply Keeps.ite | with_reducible apply State.setTc_keeps | dsimp only | split

theorem State.tdmHalt_keeps {s0 : State} (s : State) (q : Nat) (h : Keeps s0 s) :
    Keeps s0 (State.tdmHalt s q) := by
  unfold State.tdmHalt
  repeat'
    first
      | with_reducible assumption | intro _ | with_reducible apply Keeps.ite | with_reducible apply State.setBit_keeps
      | with_reducible apply State.setTp_keeps | dsimp only | split

theorem State.tdmApply_keeps {s0 : State} (s : State) (q : Nat) (h : Keeps s0 s) :
    Keeps s0 (State.tdmApply s q) := by
  unfold State.tdmApply
  repeat'
    first
      | with_reducible assumption | intro _ | with_reducible apply Keeps.ite | with_reducible apply State.setBit_keeps
      | with_reducible apply State.when_keeps | with_reducible apply State.applySlot_keeps
      | with_reducible apply State.tdmSwitch_keeps | with_reducible apply State.tdmHalt_keeps | dsimp only

theorem State.tdmEnWritten_keeps {s0 : State} (s : State) (a : Acc) (q : Nat) (isTx : Bool) (old : W32) (h : Keeps s0 s) :
    Keeps s0 (State.tdmEnWritten s a q isTx old) := by
  unfold State.tdmEnWritten
  repeat'
    first
      | with_reducible assumption | intro _ | with_reducible apply Keeps.ite | with_reducible apply State.setWord_keeps
      | with_reducible apply State.when_keeps | with_reducible apply State.accErr_keeps
      | with_reducible apply State.tdmSwitch_keeps | dsimp only | split

theorem State.tdmHook_keeps {s0 : State} (s : State) (a : Acc) (q o : Nat) (old : W32) (h : Keeps s0 s) :
    Keeps s0 (State.tdmHook s a q o old) := by
  unfold State.tdmHook
  repeat'
    first
      | with_reducible assumption | intro _ | with_reducible apply Keeps.ite | with_reducible apply State.tdmEnWritten_keeps
      | dsimp only | split

theorem State.tdmWrite_keeps {s0 : State} (s : State) (a : Acc) (q o : Nat) (w : W32) (h : Keeps s0 s) :
    Keeps s0 (State.tdmWrite s a q o w) := by
  unfold State.tdmWrite
  repeat'
    first
      | with_reducible assumption | intro _ | with_reducible apply Keeps.ite | with_reducible apply State.storeWord_keeps
      | with_reducible apply State.tdmHook_keeps | dsimp only | split

theorem State.tdmDecide_keeps {s0 : State} (s : State) (q kind slots pos : Nat) (h : Keeps s0 s) :
    Keeps s0 (State.tdmDecide s q kind slots pos) := by
  unfold State.tdmDecide
  repeat'
    first
      | with_reducible assumption | intro _ | with_reducible apply Keeps.ite | with_reducible apply State.journal_keeps
      | dsimp only

theorem State.tdmAgree_keeps {s0 : State} (s : State) (q slot pos : Nat) (c : TdmCh) (own : Option Nat) (h : Keeps s0 s) :
    Keeps s0 (State.tdmAgree s q slot pos c own).1 := by
  unfold State.tdmAgree
  repeat'
    first
      | with_reducible assumption | intro _ | with_reducible apply Keeps.ite | with_reducible apply State.bump_keeps
      | with_reducible apply State.when_keeps | dsimp only | split

theorem State.tdmPos_keeps {s0 : State} (s : State) (q a : Nat) (h : Keeps s0 s) :
    Keeps s0 (State.tdmPos s q a).1 := by
  unfold State.tdmPos
  repeat'
    first
      | with_reducible assumption | intro _ | with_reducible apply Keeps.ite | with_reducible apply State.setFld_keeps
      | with_reducible apply State.setFld64_keeps | with_reducible apply State.irq_keeps | with_reducible apply State.when_keeps
      | with_reducible apply State.setTp_keeps | dsimp only | (refine Keeps.of ?_; dsimp only; with_reducible apply Keeps.back)
      | split

theorem State.tdmSync_keeps {s0 : State} (s : State) (q a : Nat) (h : Keeps s0 s) :
    Keeps s0 (State.tdmSync s q a) := by
  unfold State.tdmSync
  repeat'
    first
      | with_reducible assumption | intro _ | with_reducible apply Keeps.ite | with_reducible apply State.setTp_keeps
      | dsimp only | (refine Keeps.of ?_; dsimp only; with_reducible apply Keeps.back) | split

theorem State.tdmReceive_keeps {s0 : State} (s : State) (q a bits : Nat) (slots : List W32) (h : Keeps s0 s) :
    Keeps s0 (State.tdmReceive s q a bits slots) := by
  unfold State.tdmReceive
  repeat'
    first
      | with_reducible assumption | intro _ | with_reducible apply Keeps.ite | with_reducible apply State.bump_keeps
      | with_reducible apply State.irq_keeps | with_reducible apply State.when_keeps | with_reducible apply State.err_keeps
      | with_reducible apply State.setTp_keeps | with_reducible apply State.tdmPos_keeps
      | with_reducible apply State.tdmSync_keeps | dsimp only
      | (refine Keeps.of ?_; dsimp only; with_reducible apply Keeps.back) | split
      | with_reducible refine Keeps.pair (by with_reducible assumption) ?_

theorem State.tdmMeasure_keeps {s0 : State} (s : State) (q : Nat) (h : Keeps s0 s) :
    Keeps s0 (State.tdmMeasure s q) := by
  unfold State.tdmMeasure
  repeat'
    first
      | with_reducible assumption | intro _ | with_reducible apply Keeps.ite | with_reducible apply State.setFld_keeps
      | with_reducible apply State.setBit_keeps | with_reducible apply State.irq_keeps | with_reducible apply State.when_keeps
      | with_reducible apply State.err_keeps | with_reducible apply State.setTp_keeps | dsimp only
      | (refine Keeps.of ?_; dsimp only; with_reducible apply Keeps.back) | split

theorem State.tdmRxSlot_keeps {s0 : State} (s : State) (q P slot : Nat) (h : Keeps s0 s) :
    Keeps s0 (State.tdmRxSlot s q P slot) := by
  unfold State.tdmRxSlot
  repeat'
    first
      | with_reducible assumption | intro _ | with_reducible apply Keeps.ite | with_reducible apply State.setWord_keeps
      | with_reducible apply State.bump_keeps | with_reducible apply State.irq_keeps | with_reducible apply State.when_keeps
      | with_reducible apply State.advance_keeps | with_reducible apply State.setPin_keeps
      | with_reducible apply State.ramp_keeps | with_reducible apply State.setTc_keeps
      | with_reducible apply State.tdmDecide_keeps | with_reducible apply State.tdmAgree_keeps | dsimp only
      | (refine Keeps.of ?_; dsimp only; with_reducible apply Keeps.back) | split
      | with_reducible refine Keeps.pair (by with_reducible assumption) ?_

theorem State.tdmRx_keeps {s0 : State} (s : State) (q P : Nat) (h : Keeps s0 s) :
    Keeps s0 (State.tdmRx s q P) := by
  unfold State.tdmRx
  repeat'
    first
      | with_reducible assumption | intro _ | with_reducible apply Keeps.foldl | with_reducible apply Keeps.foldlFst
      | with_reducible apply Keeps.ite | with_reducible apply State.setTp_keeps | with_reducible apply State.tdmRxSlot_keeps
      | dsimp only | (refine Keeps.of ?_; dsimp only; with_reducible apply Keeps.back) | split

theorem State.tdmTx_keeps {s0 : State} (s : State) (q P : Nat) (words : Nat → Nat) (h : Keeps s0 s) :
    Keeps s0 (State.tdmTx s q P words) := by
  unfold State.tdmTx
  repeat'
    first
      | with_reducible assumption | intro _ | with_reducible apply Keeps.foldl | with_reducible apply Keeps.foldlFst
      | with_reducible apply Keeps.ite | with_reducible apply State.advance_keeps | with_reducible apply State.setTp_keeps
      | with_reducible apply State.setTc_keeps | dsimp only | (refine Keeps.of ?_; dsimp only; with_reducible apply Keeps.back)
      | split

theorem State.tdmGo_keeps {s0 : State} (s : State) (h : Keeps s0 s) :
    Keeps s0 (State.tdmGo s) := by
  unfold State.tdmGo
  repeat'
    first
      | with_reducible assumption | intro _ | with_reducible apply Keeps.ite | with_reducible apply State.setBit_keeps
      | with_reducible apply State.setFld64_keeps | with_reducible apply State.when_keeps
      | with_reducible apply State.journal_keeps | dsimp only
      | (refine Keeps.of ?_; dsimp only; with_reducible apply Keeps.back)

theorem State.tdmStart_keeps {s0 : State} (s : State) (h : Keeps s0 s) :
    Keeps s0 (State.tdmStart s) := by
  unfold State.tdmStart
  repeat'
    first
      | with_reducible assumption | intro _ | with_reducible apply Keeps.foldl | with_reducible apply Keeps.foldlFst
      | with_reducible apply Keeps.ite | with_reducible apply State.setBit_keeps | with_reducible apply State.irq_keeps
      | with_reducible apply State.setTp_keeps | with_reducible apply State.tdmSwitch_keeps | dsimp only
      | (refine Keeps.of ?_; dsimp only; with_reducible apply Keeps.back) | split

theorem State.trigWrite_keeps {s0 : State} (s : State) (a : Acc) (o : Nat) (w : W32) (hw : Option W32) (h : Keeps s0 s) :
    Keeps s0 (State.trigWrite s a o w hw) := by
  unfold State.trigWrite
  repeat'
    first
      | with_reducible assumption | intro _ | with_reducible apply Keeps.ite | with_reducible apply State.storeWord_keeps
      | with_reducible apply State.tdmGo_keeps | dsimp only | split

theorem State.tdmSend_keeps {s0 : State} (s : State) (q a : Nat) (h : Keeps s0 s) :
    Keeps s0 (State.tdmSend s q a) := by
  unfold State.tdmSend
  repeat'
    first
      | with_reducible assumption | intro _ | with_reducible apply Keeps.ite | with_reducible apply State.bump_keeps
      | with_reducible apply State.setTp_keeps | dsimp only | (refine Keeps.of ?_; dsimp only; with_reducible apply Keeps.back)
      | split

theorem execTdmFrameReceived_keeps {s0 : State} (port : Fin 16) (sync bits : Nat) (slots : List W32) (s : State) (h : Keeps s0 s) :
    KeepsOut s0 (execTdmFrameReceived port sync bits slots s) := by
  unfold execTdmFrameReceived
  repeat'
    first
      | with_reducible assumption | intro _ | with_reducible apply Keeps.ite | with_reducible apply KeepsOut.ite
      | with_reducible apply KeepsOut.fault | with_reducible apply KeepsOut.next | with_reducible apply run_keeps
      | with_reducible apply State.tdmReceive_keeps | dsimp only | split

theorem execTdmFrameTransmit_keeps {s0 : State} (port : Fin 16) (cue : Fin 16) (s : State) (h : Keeps s0 s) :
    KeepsOut s0 (execTdmFrameTransmit port cue s) := by
  unfold execTdmFrameTransmit
  repeat'
    first
      | with_reducible assumption | intro _ | with_reducible apply Keeps.ite | with_reducible apply KeepsOut.ite
      | with_reducible apply KeepsOut.fault | with_reducible apply KeepsOut.next | with_reducible apply run_keeps
      | with_reducible apply State.tdmSend_keeps | dsimp only | split

theorem execTdmRateMeasure_keeps {s0 : State} (port : Fin 16) (s : State) (h : Keeps s0 s) :
    KeepsOut s0 (execTdmRateMeasure port s) := by
  unfold execTdmRateMeasure
  repeat'
    first
      | with_reducible assumption | intro _ | with_reducible apply Keeps.ite | with_reducible apply KeepsOut.ite
      | with_reducible apply KeepsOut.fault | with_reducible apply KeepsOut.next | with_reducible apply State.periodic_keeps
      | with_reducible apply run_keeps | with_reducible apply State.tdmMeasure_keeps | dsimp only | split

theorem execTdmRangeReenter_keeps {s0 : State} (port : Fin 16) (s : State) (h : Keeps s0 s) :
    KeepsOut s0 (execTdmRangeReenter port s) := by
  unfold execTdmRangeReenter
  repeat'
    first
      | with_reducible assumption | intro _ | with_reducible apply Keeps.ite | with_reducible apply KeepsOut.ite
      | with_reducible apply KeepsOut.fault | with_reducible apply KeepsOut.next | with_reducible apply State.setBit_keeps
      | with_reducible apply run_keeps | with_reducible apply State.setTp_keeps | dsimp only
      | (refine Keeps.of ?_; dsimp only; with_reducible apply Keeps.back) | split

theorem execTdmTriggerGo_keeps {s0 : State} (a : Acc) (s : State) (h : Keeps s0 s) :
    KeepsOut s0 (execTdmTriggerGo a s) := by
  unfold execTdmTriggerGo
  repeat'
    first
      | with_reducible assumption | intro _ | with_reducible apply Keeps.ite | with_reducible apply KeepsOut.ite
      | with_reducible apply KeepsOut.fault | with_reducible apply KeepsOut.next | with_reducible apply run_keeps
      | with_reducible apply State.viaPath_keeps | with_reducible apply State.trigWrite_keeps | dsimp only | split

theorem execTdmTriggerStart_keeps {s0 : State} (s : State) (h : Keeps s0 s) :
    KeepsOut s0 (execTdmTriggerStart s) := by
  unfold execTdmTriggerStart
  repeat'
    first
      | with_reducible assumption | intro _ | with_reducible apply Keeps.ite | with_reducible apply KeepsOut.ite
      | with_reducible apply KeepsOut.fault | with_reducible apply KeepsOut.next | with_reducible apply run_keeps
      | with_reducible apply State.tdmStart_keeps | dsimp only | split

theorem execTdmChannelEnableWrite_keeps {s0 : State} (a : Acc) (port : Fin 16) (isTx : Bool) (word : W32) (s : State) (h : Keeps s0 s) :
    KeepsOut s0 (execTdmChannelEnableWrite a port isTx word s) := by
  unfold execTdmChannelEnableWrite
  repeat'
    first
      | with_reducible assumption | intro _ | with_reducible apply Keeps.ite | with_reducible apply KeepsOut.ite
      | with_reducible apply KeepsOut.fault | with_reducible apply KeepsOut.next | with_reducible apply run_keeps
      | with_reducible apply State.viaPath_keeps | with_reducible apply State.tdmWrite_keeps | dsimp only | split

theorem execTdmZxTimeout_keeps {s0 : State} (port : Fin 16) (isTx : Bool) (slot : Fin 32) (s : State) (h : Keeps s0 s) :
    KeepsOut s0 (execTdmZxTimeout port isTx slot s) := by
  unfold execTdmZxTimeout
  repeat'
    first
      | with_reducible assumption | intro _ | with_reducible apply Keeps.ite | with_reducible apply KeepsOut.ite
      | with_reducible apply KeepsOut.fault | with_reducible apply KeepsOut.next | with_reducible apply State.bump_keeps
      | with_reducible apply State.irq_keeps | with_reducible apply run_keeps | with_reducible apply State.ramp_keeps
      | with_reducible apply State.setTc_keeps | dsimp only | (refine Keeps.of ?_; dsimp only; with_reducible apply Keeps.back)
      | split

theorem execTdmRampComplete_keeps {s0 : State} (port : Fin 16) (isTx : Bool) (slot : Fin 32) (s : State) (h : Keeps s0 s) :
    KeepsOut s0 (execTdmRampComplete port isTx slot s) := by
  unfold execTdmRampComplete
  repeat'
    first
      | with_reducible assumption | intro _ | with_reducible apply Keeps.ite | with_reducible apply KeepsOut.ite
      | with_reducible apply KeepsOut.fault | with_reducible apply KeepsOut.next | with_reducible apply run_keeps
      | with_reducible apply State.setTc_keeps | dsimp only | (refine Keeps.of ?_; dsimp only; with_reducible apply Keeps.back)
      | split

end Sys2Proof.Machine
end

