-- ==== Sys2Proof/Laws/KeepPitStep.lean ====
section
/-!
SUPPORT. The operations of Machine/PitStep.lean keep the queue and the invariant.
-/
set_option linter.unusedTactic false
set_option linter.unreachableTactic false
namespace Sys2Proof.Machine

theorem State.pitSlip_keeps {s0 : State} (s : State) (i P : Nat) (rep : Bool) (h : Keeps s0 s) :
    Keeps s0 (State.pitSlip s i P rep) := by
  unfold State.pitSlip
  repeat'
    first
      | with_reducible assumption | intro _ | with_reducible apply Keeps.ite | with_reducible apply State.bump_keeps
      | with_reducible apply State.irq_keeps | with_reducible apply State.journal_keeps | dsimp only

theorem State.pitPresent_keeps {s0 : State} (s : State) (i P : Nat) (v : PitIn) (due : List (Nat × Nat)) (h : Keeps s0 s) :
    Keeps s0 (State.pitPresent s i P v due) := by
  unfold State.pitPresent
  repeat'
    first
      | with_reducible assumption | intro _ | with_reducible apply Keeps.foldl | with_reducible apply Keeps.foldlFst
      | with_reducible apply Keeps.ite | with_reducible apply State.setPin_keeps | with_reducible apply State.pitSlip_keeps
      | dsimp only | (refine Keeps.of ?_; dsimp only; with_reducible apply Keeps.back) | split

theorem State.pitFollowed_keeps {s0 : State} (s : State) (i : Nat) (v : PitIn) (due : List (Nat × Nat)) (h : Keeps s0 s) :
    Keeps s0 (State.pitFollowed s i v due) := by
  unfold State.pitFollowed
  repeat'
    first
      | with_reducible assumption | intro _ | with_reducible apply Keeps.ite | with_reducible apply State.bump_keeps
      | with_reducible apply State.irq_keeps | with_reducible apply State.when_keeps | with_reducible apply State.setPin_keeps
      | dsimp only | (refine Keeps.of ?_; dsimp only; with_reducible apply Keeps.back) | split

theorem State.pitInput_keeps {s0 : State} (s : State) (i P : Nat) (h : Keeps s0 s) :
    Keeps s0 (State.pitInput s i P) := by
  unfold State.pitInput
  repeat'
    first
      | with_reducible assumption | intro _ | with_reducible apply Keeps.ite | with_reducible apply State.pitPresent_keeps
      | with_reducible apply State.pitFollowed_keeps | dsimp only | split

theorem State.synAudioIn_keeps {s0 : State} (s : State) (k : Nat) (bad : List Nat) (h : Keeps s0 s) :
    Keeps s0 (State.synAudioIn s k bad) := by
  unfold State.synAudioIn
  repeat'
    first
      | with_reducible assumption | intro _ | with_reducible apply Keeps.foldl | with_reducible apply Keeps.foldlFst
      | with_reducible apply Keeps.ite | with_reducible apply State.setPin_keeps | with_reducible apply State.lineStep_keeps
      | dsimp only | (refine Keeps.of ?_; dsimp only; with_reducible apply Keeps.back) | split
      | with_reducible refine Keeps.pair (by with_reducible assumption) ?_

theorem State.pitForm_keeps {s0 : State} (s : State) (o : Nat) (word : Nat → Nat) (bad : List Nat) (h : Keeps s0 s) :
    Keeps s0 (State.pitForm s o word bad) := by
  unfold State.pitForm
  repeat'
    first
      | with_reducible assumption | intro _ | with_reducible apply Keeps.ite | with_reducible apply State.setPot_keeps
      | with_reducible apply State.lineStep_keeps | with_reducible apply State.cut_keeps | dsimp only
      | (refine Keeps.of ?_; dsimp only; with_reducible apply Keeps.back) | split
      | with_reducible refine Keeps.pair (by with_reducible assumption) ?_

theorem State.pitInstant_keeps {s0 : State} (s : State) (P : Nat) (smem : List Nat) (dly : List (Nat × Nat)) (h : Keeps s0 s) :
    Keeps s0 (State.pitInstant s P smem dly) := by
  unfold State.pitInstant
  repeat'
    first
      | with_reducible assumption | intro _ | with_reducible apply Keeps.foldl | with_reducible apply Keeps.foldlFst
      | with_reducible apply Keeps.ite | with_reducible apply State.bump_keeps | with_reducible apply State.irq_keeps
      | with_reducible apply State.err_keeps | with_reducible apply State.granuleSeen_keeps
      | with_reducible apply State.embed_keeps | with_reducible apply State.lineError_keeps
      | with_reducible apply State.tdmHalt_keeps | with_reducible apply State.tdmRx_keeps
      | with_reducible apply State.tdmTx_keeps | with_reducible apply State.pitInput_keeps
      | with_reducible apply State.synAudioIn_keeps | with_reducible apply State.pitForm_keeps | dsimp only
      | (refine Keeps.of ?_; dsimp only; with_reducible apply Keeps.back) | split

theorem execPitSampleInstant_keeps {s0 : State} (smem : List Nat) (dly : List (Nat × Nat)) (s : State) (h : Keeps s0 s) :
    KeepsOut s0 (execPitSampleInstant smem dly s) := by
  unfold execPitSampleInstant
  repeat'
    first
      | with_reducible assumption | intro _ | with_reducible apply Keeps.ite | with_reducible apply KeepsOut.ite
      | with_reducible apply KeepsOut.fault | with_reducible apply KeepsOut.next | with_reducible apply run_keeps
      | with_reducible apply State.pitInstant_keeps | dsimp only | split

end Sys2Proof.Machine
end

