-- ==== Sys2Proof/Laws/KeepFlows.lean ====
section
/-!
SUPPORT. The operations of Machine/Flows.lean keep the queue and the invariant.
-/
set_option linter.unusedTactic false
set_option linter.unreachableTactic false
namespace Sys2Proof.Machine

theorem State.setRxe_keeps {s0 : State} (s : State) (e : Nat) (v : RxEntry) (h : Keeps s0 s) :
    Keeps s0 (State.setRxe s e v) := by
  unfold State.setRxe
  repeat'
    first
      | with_reducible assumption | intro _ | with_reducible apply Keeps.ite | dsimp only
      | (refine Keeps.of ?_; dsimp only; with_reducible apply Keeps.back)

theorem State.setTxe_keeps {s0 : State} (s : State) (e : Nat) (v : TxEntry) (h : Keeps s0 s) :
    Keeps s0 (State.setTxe s e v) := by
  unfold State.setTxe
  repeat'
    first
      | with_reducible assumption | intro _ | with_reducible apply Keeps.ite | dsimp only
      | (refine Keeps.of ?_; dsimp only; with_reducible apply Keeps.back)

theorem State.rxCount_keeps {s0 : State} (s : State) (e i : Nat) (k : Nat) (h : Keeps s0 s) :
    Keeps s0 (State.rxCount s e i k) := by
  unfold State.rxCount
  repeat'
    first
      | with_reducible assumption | intro _ | with_reducible apply Keeps.ite | with_reducible apply State.setRxe_keeps
      | dsimp only | (refine Keeps.of ?_; dsimp only; with_reducible apply Keeps.back)

theorem State.rxLive_keeps {s0 : State} (s : State) (e : Nat) (pathB : Bool) (h : Keeps s0 s) :
    Keeps s0 (State.rxLive s e pathB) := by
  unfold State.rxLive
  repeat'
    first
      | with_reducible assumption | intro _ | with_reducible apply Keeps.ite | with_reducible apply State.irq_keeps
      | with_reducible apply State.srcBack_keeps | with_reducible apply State.setRxe_keeps | dsimp only
      | (refine Keeps.of ?_; dsimp only; with_reducible apply Keeps.back) | split

theorem State.rxLeave_keeps {s0 : State} (s : State) (e st : Nat) (h : Keeps s0 s) :
    Keeps s0 (State.rxLeave s e st) := by
  unfold State.rxLeave
  repeat'
    first
      | with_reducible assumption | intro _ | with_reducible apply Keeps.foldl | with_reducible apply Keeps.foldlFst
      | with_reducible apply Keeps.ite | with_reducible apply State.fresh_keeps | with_reducible apply State.srcLost_keeps
      | with_reducible apply State.setPin_keeps | with_reducible apply State.setRxe_keeps | dsimp only
      | (refine Keeps.of ?_; dsimp only; with_reducible apply Keeps.back) | split

theorem State.track_keeps {s0 s t : State} {e addr n i : Nat} {pathB b : Bool} {r : Rtp}
    (eq : State.track s e addr n pathB r = some (i, b, t)) (h : Keeps s0 s) : Keeps s0 t := by
  simp only [State.track] at eq
  split at eq
  · simp only [Option.some.injEq, Prod.mk.injEq] at eq
    exact eq.2.2 ▸ State.setRxe_keeps _ _ _ h
  · split at eq
    · simp only [Option.some.injEq, Prod.mk.injEq] at eq
      exact eq.2.2 ▸ State.setRxe_keeps _ _ _ h
    · simp only [Option.map_eq_some_iff, Prod.mk.injEq] at eq
      obtain ⟨_, -, -, -, eq⟩ := eq
      exact eq ▸ State.setRxe_keeps _ _ _ h

theorem State.pitFeed_keeps {s0 : State} (s : State) (i stamp w : Nat) (h : Keeps s0 s) :
    Keeps s0 (State.pitFeed s i stamp w) := by
  unfold State.pitFeed
  repeat'
    first
      | with_reducible assumption | intro _ | with_reducible apply Keeps.ite | with_reducible apply State.setPin_keeps
      | dsimp only | (refine Keeps.of ?_; dsimp only; with_reducible apply Keeps.back)

theorem State.audioRelease_keeps {s0 : State} (s : State) (e : Nat) (k : Kept) (h : Keeps s0 s) :
    Keeps s0 (State.audioRelease s e k) := by
  unfold State.audioRelease
  repeat'
    first
      | with_reducible assumption | intro _ | with_reducible apply Keeps.foldl | with_reducible apply Keeps.foldlFst
      | with_reducible apply Keeps.ite | with_reducible apply State.pitFeed_keeps | dsimp only | split

theorem State.stageIn_keeps {s0 : State} (s : State) (e : Nat) (k : Kept) (h : Keeps s0 s) :
    Keeps s0 (State.stageIn s e k).1 := by
  unfold State.stageIn
  repeat'
    first
      | with_reducible assumption | intro _ | with_reducible apply Keeps.ite | with_reducible apply State.engineWrite_keeps
      | with_reducible apply State.setRxe_keeps | dsimp only | (refine Keeps.of ?_; dsimp only; with_reducible apply Keeps.back)
      | split

theorem State.stageOut_keeps {s0 : State} (s : State) (e : Nat) (k : Kept) (bad : Option Nat) (h : Keeps s0 s) :
    Keeps s0 (State.stageOut s e k bad).1 := by
  unfold State.stageOut
  repeat'
    first
      | with_reducible assumption | intro _ | with_reducible apply Keeps.ite | with_reducible apply State.areaSeen_keeps
      | dsimp only | (refine Keeps.of ?_; dsimp only; with_reducible apply Keeps.back) | split

theorem State.mergeIn_keeps {s0 : State} (s : State) (e t : Nat) (pathB : Bool) (r : Rtp) (h : Keeps s0 s) :
    Keeps s0 (State.mergeIn s e t pathB r) := by
  unfold State.mergeIn
  repeat'
    first
      | with_reducible assumption | intro _ | with_reducible apply Keeps.ite | with_reducible apply State.bump_keeps
      | with_reducible apply State.irq_keeps | with_reducible apply State.when_keeps | with_reducible apply State.setRxe_keeps
      | with_reducible apply State.rxCount_keeps | with_reducible apply State.audioRelease_keeps
      | with_reducible apply State.stageIn_keeps | dsimp only
      | (refine Keeps.of ?_; dsimp only; with_reducible apply Keeps.back) | split
      | with_reducible refine Keeps.pair (by with_reducible assumption) ?_

theorem State.tryJoin_keeps {s0 : State} (s : State) (e : Nat) (pathB : Bool) (r : Rtp) (h : Keeps s0 s) :
    Keeps s0 (State.tryJoin s e pathB r) := by
  unfold State.tryJoin
  repeat'
    first
      | with_reducible assumption | intro _ | with_reducible apply Keeps.ite | with_reducible apply State.setRxe_keeps
      | dsimp only | (refine Keeps.of ?_; dsimp only; with_reducible apply Keeps.back) | split

theorem State.activeIn_keeps {s0 : State} (s : State) (e t : Nat) (pathB bnd : Bool) (r : Rtp) (h : Keeps s0 s) :
    Keeps s0 (State.activeIn s e t pathB bnd r) := by
  unfold State.activeIn
  repeat'
    first
      | with_reducible assumption | intro _ | with_reducible apply Keeps.ite | with_reducible apply State.mergeIn_keeps
      | with_reducible apply State.tryJoin_keeps | dsimp only | split

theorem State.liveIn_keeps {s0 : State} (s : State) (e t i : Nat) (pathB bnd : Bool) (r : Rtp) (h : Keeps s0 s) :
    Keeps s0 (State.liveIn s e t i pathB bnd r) := by
  unfold State.liveIn
  repeat'
    first
      | with_reducible assumption | intro _ | with_reducible apply Keeps.ite | with_reducible apply State.bump_keeps
      | with_reducible apply State.irq_keeps | with_reducible apply State.setRxe_keeps
      | with_reducible apply State.rxCount_keeps | with_reducible apply State.rxLeave_keeps
      | with_reducible apply State.mergeIn_keeps | with_reducible apply State.activeIn_keeps | dsimp only
      | (refine Keeps.of ?_; dsimp only; with_reducible apply Keeps.back) | split

theorem State.flowArrive_keeps {s0 : State} (s : State) (e addr t : Nat) (pathB : Bool) (r : Rtp) (h : Keeps s0 s) :
    Keeps s0 (State.flowArrive s e addr t pathB r) := by
  unfold State.flowArrive
  repeat'
    first
      | with_reducible assumption | intro _ | with_reducible apply Keeps.ite | with_reducible apply State.irq_keeps
      | with_reducible apply State.setRxe_keeps | with_reducible apply State.rxCount_keeps
      | with_reducible apply State.rxLive_keeps | with_reducible apply State.mergeIn_keeps
      | with_reducible apply State.liveIn_keeps | dsimp only | (refine Keeps.of ?_; dsimp only; with_reducible apply Keeps.back)
      | split | with_reducible refine State.track_keeps (by with_reducible assumption) ?_

theorem State.ancRelease_keeps {s0 : State} (s : State) (e : Nat) (k : Kept) (h : Keeps s0 s) :
    Keeps s0 (State.ancRelease s e k) := by
  unfold State.ancRelease
  repeat'
    first
      | with_reducible assumption | intro _ | with_reducible apply Keeps.foldl | with_reducible apply Keeps.foldlFst
      | with_reducible apply Keeps.ite | with_reducible apply State.ancCarry_keeps | dsimp only

theorem State.videoRelease_keeps {s0 : State} (s : State) (e : Nat) (k : Kept) (h : Keeps s0 s) :
    Keeps s0 (State.videoRelease s e k) := by
  unfold State.videoRelease
  repeat'
    first
      | with_reducible assumption | intro _ | with_reducible apply Keeps.ite | with_reducible apply State.fresh_keeps
      | with_reducible apply State.setRxe_keeps | dsimp only | (refine Keeps.of ?_; dsimp only; with_reducible apply Keeps.back)
      | split

theorem State.releaseOne_keeps {s0 : State} (s : State) (e : Nat) (k : Kept) (bad : Option Nat) (h : Keeps s0 s) :
    Keeps s0 (State.releaseOne s e k bad) := by
  unfold State.releaseOne
  repeat'
    first
      | with_reducible assumption | intro _ | with_reducible apply Keeps.ite | with_reducible apply State.bump_keeps
      | with_reducible apply State.err_keeps | with_reducible apply State.setRxe_keeps
      | with_reducible apply State.rxCount_keeps | with_reducible apply State.stageOut_keeps
      | with_reducible apply State.ancRelease_keeps | with_reducible apply State.videoRelease_keeps | dsimp only
      | (refine Keeps.of ?_; dsimp only; with_reducible apply Keeps.back) | split
      | with_reducible refine Keeps.pair (by with_reducible assumption) ?_

theorem State.flowRelease_keeps {s0 : State} (s : State) (e : Nat) (bad : Option Nat) (h : Keeps s0 s) :
    Keeps s0 (State.flowRelease s e bad) := by
  unfold State.flowRelease
  repeat'
    first
      | with_reducible assumption | intro _ | with_reducible apply Keeps.ite | with_reducible apply State.releaseOne_keeps
      | dsimp only | (refine Keeps.of ?_; dsimp only; with_reducible apply Keeps.back) | split

theorem State.flowTimeout_keeps {s0 : State} (s : State) (e : Nat) (h : Keeps s0 s) :
    Keeps s0 (State.flowTimeout s e) := by
  unfold State.flowTimeout
  repeat'
    first
      | with_reducible assumption | intro _ | with_reducible apply Keeps.foldl | with_reducible apply Keeps.foldlFst
      | with_reducible apply Keeps.ite | with_reducible apply State.bump_keeps | with_reducible apply State.irq_keeps
      | with_reducible apply State.setRxe_keeps | with_reducible apply State.rxCount_keeps
      | with_reducible apply State.rxLeave_keeps | dsimp only
      | (refine Keeps.of ?_; dsimp only; with_reducible apply Keeps.back) | split

theorem State.loadRx_keeps {s0 : State} (s : State) (e : Nat) (h : Keeps s0 s) :
    Keeps s0 (State.loadRx s e) := by
  unfold State.loadRx
  repeat'
    first
      | with_reducible assumption | intro _ | with_reducible apply Keeps.foldl | with_reducible apply Keeps.foldlFst
      | with_reducible apply Keeps.ite | with_reducible apply State.setWord_keeps | with_reducible apply State.setFld_keeps
      | with_reducible apply State.setBit_keeps | with_reducible apply State.setRxe_keeps | dsimp only
      | (refine Keeps.of ?_; dsimp only; with_reducible apply Keeps.back) | split

theorem State.loadTx_keeps {s0 : State} (s : State) (e : Nat) (h : Keeps s0 s) :
    Keeps s0 (State.loadTx s e) := by
  unfold State.loadTx
  repeat'
    first
      | with_reducible assumption | intro _ | with_reducible apply Keeps.foldl | with_reducible apply Keeps.foldlFst
      | with_reducible apply Keeps.ite | with_reducible apply State.setWord_keeps | with_reducible apply State.setBit_keeps
      | with_reducible apply State.setTxe_keeps | dsimp only | (refine Keeps.of ?_; dsimp only; with_reducible apply Keeps.back)

theorem State.flowWindow_keeps {s0 : State} (s : State) (a : Acc) (isTx isStore : Bool) (h : Keeps s0 s) :
    Keeps s0 (State.flowWindow s a isTx isStore) := by
  unfold State.flowWindow
  repeat'
    first
      | with_reducible assumption | intro _ | with_reducible apply Keeps.foldl | with_reducible apply Keeps.foldlFst
      | with_reducible apply Keeps.ite | with_reducible apply State.setWord_keeps | with_reducible apply State.setFld_keeps
      | with_reducible apply State.setBit_keeps | with_reducible apply State.accErr_keeps
      | with_reducible apply State.loadRx_keeps | with_reducible apply State.loadTx_keeps | dsimp only
      | (refine Keeps.of ?_; dsimp only; with_reducible apply Keeps.back) | split

theorem State.flowHook_keeps {s0 : State} (s : State) (a : Acc) (isTx : Bool) (o : Nat) (eff : W32) (h : Keeps s0 s) :
    Keeps s0 (State.flowHook s a isTx o eff) := by
  unfold State.flowHook
  repeat'
    first
      | with_reducible assumption | intro _ | with_reducible apply Keeps.ite | with_reducible apply State.flowWindow_keeps
      | dsimp only | split

theorem State.flowWrite_keeps {s0 : State} (s : State) (a : Acc) (isTx : Bool) (o : Nat) (w : W32) (hw : Option W32) (h : Keeps s0 s) :
    Keeps s0 (State.flowWrite s a isTx o w hw) := by
  unfold State.flowWrite
  repeat'
    first
      | with_reducible assumption | intro _ | with_reducible apply Keeps.ite | with_reducible apply State.storeWord_keeps
      | with_reducible apply State.flowHook_keeps | dsimp only | split

theorem State.flrLive_keeps {s0 : State} (s : State) (new : Store W32) (h : Keeps s0 s) :
    Keeps s0 (State.flrLive s new) := by
  unfold State.flrLive
  repeat'
    first
      | with_reducible assumption | intro _ | with_reducible apply Keeps.foldl | with_reducible apply Keeps.foldlFst
      | with_reducible apply Keeps.ite | with_reducible apply State.srcBack_keeps | with_reducible apply State.ptSettle_keeps
      | with_reducible apply State.countBerths_keeps | with_reducible apply State.srcLost_keeps
      | with_reducible apply State.setRxe_keeps | with_reducible apply State.rxLeave_keeps | dsimp only
      | (refine Keeps.of ?_; dsimp only; with_reducible apply Keeps.back) | split

theorem State.flrApply_keeps {s0 : State} (s : State) (h : Keeps s0 s) :
    Keeps s0 (State.flrApply s) := by
  unfold State.flrApply
  repeat'
    first
      | with_reducible assumption | intro _ | with_reducible apply Keeps.ite | with_reducible apply State.applySlot_keeps
      | with_reducible apply State.flrLive_keeps | dsimp only
      | (refine Keeps.of ?_; dsimp only; with_reducible apply Keeps.back) | split

theorem execFlowPacketRelease_keeps {s0 : State} (e : Fin 8192) (bad : Option Nat) (s : State) (h : Keeps s0 s) :
    KeepsOut s0 (execFlowPacketRelease e bad s) := by
  unfold execFlowPacketRelease
  repeat'
    first
      | with_reducible assumption | intro _ | with_reducible apply Keeps.ite | with_reducible apply KeepsOut.ite
      | with_reducible apply KeepsOut.fault | with_reducible apply KeepsOut.next | with_reducible apply run_keeps
      | with_reducible apply State.flowRelease_keeps | dsimp only | split

theorem execFlowLossTimeout_keeps {s0 : State} (e : Fin 8192) (s : State) (h : Keeps s0 s) :
    KeepsOut s0 (execFlowLossTimeout e s) := by
  unfold execFlowLossTimeout
  repeat'
    first
      | with_reducible assumption | intro _ | with_reducible apply Keeps.ite | with_reducible apply KeepsOut.ite
      | with_reducible apply KeepsOut.fault | with_reducible apply KeepsOut.next | with_reducible apply runRails_keeps
      | with_reducible apply State.flowTimeout_keeps | dsimp only | split

theorem execFlowLoad_keeps {s0 : State} (a : Acc) (isTx : Bool) (word : W32) (s : State) (h : Keeps s0 s) :
    KeepsOut s0 (execFlowLoad a isTx word s) := by
  unfold execFlowLoad
  repeat'
    first
      | with_reducible assumption | intro _ | with_reducible apply Keeps.ite | with_reducible apply KeepsOut.ite
      | with_reducible apply KeepsOut.fault | with_reducible apply KeepsOut.next | with_reducible apply run_keeps
      | with_reducible apply State.viaPath_keeps | with_reducible apply State.flowWrite_keeps | dsimp only | split

theorem execFlowStore_keeps {s0 : State} (a : Acc) (isTx : Bool) (word : W32) (s : State) (h : Keeps s0 s) :
    KeepsOut s0 (execFlowStore a isTx word s) := by
  unfold execFlowStore
  repeat'
    first
      | with_reducible assumption | intro _ | with_reducible apply Keeps.ite | with_reducible apply KeepsOut.ite
      | with_reducible apply KeepsOut.fault | with_reducible apply KeepsOut.next | with_reducible apply run_keeps
      | with_reducible apply State.viaPath_keeps | with_reducible apply State.flowWrite_keeps | dsimp only | split

theorem execWindowOpDone_keeps {s0 : State} (page : Fin 3) (s : State) (h : Keeps s0 s) :
    KeepsOut s0 (execWindowOpDone page s) := by
  unfold execWindowOpDone
  repeat'
    first
      | with_reducible assumption | intro _ | with_reducible apply Keeps.ite | with_reducible apply KeepsOut.ite
      | with_reducible apply KeepsOut.fault | with_reducible apply KeepsOut.next | with_reducible apply State.setBit_keeps
      | with_reducible apply run_keeps | dsimp only | (refine Keeps.of ?_; dsimp only; with_reducible apply Keeps.back) | split

theorem execFlowTableCrcPass_keeps {s0 : State} (isTx : Bool) (upsets : List (Nat × Nat)) (s : State) (h : Keeps s0 s) :
    KeepsOut s0 (execFlowTableCrcPass isTx upsets s) := by
  unfold execFlowTableCrcPass
  repeat'
    first
      | with_reducible assumption | intro _ | with_reducible apply Keeps.foldl | with_reducible apply Keeps.foldlFst
      | with_reducible apply Keeps.ite | with_reducible apply KeepsOut.ite | with_reducible apply KeepsOut.fault
      | with_reducible apply KeepsOut.next | with_reducible apply State.setFld_keeps | with_reducible apply run_keeps
      | with_reducible apply State.cfgFault_keeps | dsimp only
      | (refine Keeps.of ?_; dsimp only; with_reducible apply Keeps.back) | split

end Sys2Proof.Machine
end

