-- ==== Sys2Proof/Laws/KeepEthernet.lean ====
section
/-!
SUPPORT. The operations of Machine/Ethernet.lean keep the queue and the invariant.
-/
set_option linter.unusedTactic false
set_option linter.unreachableTactic false
namespace Sys2Proof.Machine

theorem State.stat_keeps {s0 : State} (s : State) (lp : Nat) (lo : Fld) (n : Nat) (h : Keeps s0 s) :
    Keeps s0 (State.stat s lp lo n) := by
  unfold State.stat
  repeat'
    first
      | with_reducible assumption | intro _ | with_reducible apply Keeps.ite | with_reducible apply State.bump64_keeps
      | dsimp only | (refine Keeps.of ?_; dsimp only; with_reducible apply Keeps.back)

theorem State.linkUp_keeps {s0 : State} (s : State) (lp : Nat) (h : Keeps s0 s) :
    Keeps s0 (State.linkUp s lp) := by
  unfold State.linkUp
  repeat'
    first
      | with_reducible assumption | intro _ | with_reducible apply Keeps.ite | with_reducible apply State.setFld_keeps
      | with_reducible apply State.irq_keeps | dsimp only | split

theorem State.linkDown_keeps {s0 : State} (s : State) (lp : Nat) (hiSer : Bool) (h : Keeps s0 s) :
    Keeps s0 (State.linkDown s lp hiSer) := by
  unfold State.linkDown
  repeat'
    first
      | with_reducible assumption | intro _ | with_reducible apply Keeps.ite | with_reducible apply State.setFld_keeps
      | with_reducible apply State.irq_keeps | with_reducible apply State.stat_keeps | dsimp only | split

theorem State.ethApply_keeps {s0 : State} (s : State) (P : Nat) (h : Keeps s0 s) :
    Keeps s0 (State.ethApply s P) := by
  unfold State.ethApply
  repeat'
    first
      | with_reducible assumption | intro _ | with_reducible apply Keeps.foldl | with_reducible apply Keeps.foldlFst
      | with_reducible apply Keeps.ite | with_reducible apply State.applySlot_keeps | with_reducible apply State.linkDown_keeps
      | dsimp only | split

theorem State.toRing_keeps {s0 : State} (s : State) (ptp : Bool) (lp t : Nat) (h : Head) (data : List Byte) (hk : Keeps s0 s) :
    Keeps s0 (State.toRing s ptp lp t h data) := by
  unfold State.toRing
  repeat'
    first
      | with_reducible assumption | intro _ | with_reducible apply Keeps.ite | with_reducible apply State.setFld_keeps
      | with_reducible apply State.bump_keeps | with_reducible apply State.irq_keeps | with_reducible apply State.when_keeps
      | with_reducible apply State.engineWrite_keeps | dsimp only | split

theorem State.frameClass_keeps {s0 : State} (s : State) (lp t : Nat) (h : Head) (data : List Byte) (hk : Keeps s0 s) :
    Keeps s0 (State.frameClass s lp t h data) := by
  unfold State.frameClass
  repeat'
    first
      | with_reducible assumption | intro _ | with_reducible apply Keeps.ite | with_reducible apply State.flowArrive_keeps
      | with_reducible apply State.stat_keeps | with_reducible apply State.toRing_keeps | dsimp only
      | (refine Keeps.of ?_; dsimp only; with_reducible apply Keeps.back) | split

theorem State.frameIn_keeps {s0 : State} (s : State) (lp t : Nat) (data : List Byte) (fcsOk : Bool) (corr uncorr : Nat) (h : Keeps s0 s) :
    Keeps s0 (State.frameIn s lp t data fcsOk corr uncorr) := by
  unfold State.frameIn
  repeat'
    first
      | with_reducible assumption | intro _ | with_reducible apply Keeps.ite | with_reducible apply State.when_keeps
      | with_reducible apply State.stat_keeps | with_reducible apply State.frameClass_keeps | dsimp only
      | (refine Keeps.of ?_; dsimp only; with_reducible apply Keeps.back) | split

theorem State.txAdvance_keeps {s0 : State} (s : State) (P : Nat) (x0 : Nat) (h : Keeps s0 s) :
    Keeps s0 (State.txAdvance s P x0) := by
  induction x0 generalizing s with
  | zero =>
    unfold State.txAdvance
    repeat'
      first
        | with_reducible assumption | intro _  | with_reducible apply Keeps.ite
        | with_reducible apply State.setFld_keeps | dsimp only | (refine Keeps.of ?_; dsimp only; with_reducible apply Keeps.back)
        | split | with_reducible refine Keeps.pair (by with_reducible assumption) ?_
  | succ k ih =>
    unfold State.txAdvance
    repeat'
      first
        | with_reducible assumption | intro _ | with_reducible apply ih | with_reducible apply Keeps.ite
        | with_reducible apply State.setFld_keeps | dsimp only | (refine Keeps.of ?_; dsimp only; with_reducible apply Keeps.back)
        | split | with_reducible refine Keeps.pair (by with_reducible assumption) ?_

theorem Keeps.txAhead {s0 t : State} (x : Store (List Nat)) (h : Keeps s0 t) : Keeps s0 { t with txAhead := x } := h

theorem State.writeBack_keeps {s0 : State} (s : State) (P n flags : Nat) (h : Keeps s0 s) :
    Keeps s0 (State.writeBack s P n flags) := by
  rw [State.writeBack]
  exact State.irq_keeps _ _ _ (State.txAdvance_keeps _ _ _ (Keeps.txAhead _ (State.engineWrite_keeps _ _ _ _ h)))

theorem State.depart_keeps {s0 : State} (s : State) (lp t : Nat) (l : List Byte) (h : Keeps s0 s) :
    Keeps s0 (State.depart s lp t l) := by
  unfold State.depart
  repeat'
    first
      | with_reducible assumption | intro _ | with_reducible apply Keeps.ite | with_reducible apply State.stat_keeps
      | dsimp only | (refine Keeps.of ?_; dsimp only; with_reducible apply Keeps.back) | split

theorem State.setStamps_keeps {s0 : State} (s : State) (P : Nat) (l : List Stamp) (h : Keeps s0 s) :
    Keeps s0 (State.setStamps s P l) := by
  unfold State.setStamps
  repeat'
    first
      | with_reducible assumption | intro _ | with_reducible apply Keeps.ite | with_reducible apply State.setFld_keeps
      | dsimp only | (refine Keeps.of ?_; dsimp only; with_reducible apply Keeps.back)

theorem State.pushStamp_keeps {s0 : State} (s : State) (P : Nat) (x : Stamp) (h : Keeps s0 s) :
    Keeps s0 (State.pushStamp s P x).1 := by
  unfold State.pushStamp
  repeat'
    first
      | with_reducible assumption | intro _ | with_reducible apply Keeps.ite | with_reducible apply State.bump_keeps
      | with_reducible apply State.irq_keeps | with_reducible apply State.when_keeps
      | with_reducible apply State.setStamps_keeps | dsimp only | split

theorem State.ringHook_keeps {s0 : State} (s pre : State) (a : Acc) (P o : Nat) (old : W32) (h : Keeps s0 s) :
    Keeps s0 (State.ringHook s pre a P o old) := by
  unfold State.ringHook
  repeat'
    first
      | with_reducible assumption | intro _ | with_reducible apply Keeps.ite | with_reducible apply State.setWord_keeps
      | with_reducible apply State.accErr_keeps | with_reducible apply State.sameArmed_keeps | dsimp only | split

theorem State.ringWrite_keeps {s0 : State} (s : State) (a : Acc) (P o : Nat) (w : W32) (h : Keeps s0 s) :
    Keeps s0 (State.ringWrite s a P o w) := by
  unfold State.ringWrite
  repeat'
    first
      | with_reducible assumption | intro _ | with_reducible apply Keeps.ite | with_reducible apply State.storeWord_keeps
      | with_reducible apply State.ringHook_keeps | dsimp only | split

theorem State.popStamp_keeps {s0 : State} (s : State) (m P : Nat) (h : Keeps s0 s) :
    Keeps s0 (State.popStamp s m P).1 := by
  unfold State.popStamp
  repeat'
    first
      | with_reducible assumption | intro _ | with_reducible apply Keeps.ite | with_reducible apply State.setMreg_keeps
      | with_reducible apply State.setStamps_keeps | dsimp only
      | (refine Keeps.of ?_; dsimp only; with_reducible apply Keeps.back) | split

theorem State.twiHook_keeps {s0 : State} (s : State) (a : Acc) (P o : Nat) (eff : W32) (h : Keeps s0 s) :
    Keeps s0 (State.twiHook s a P o eff) := by
  unfold State.twiHook
  repeat'
    first
      | with_reducible assumption | intro _ | with_reducible apply Keeps.ite | with_reducible apply State.setFld_keeps
      | with_reducible apply State.accErr_keeps | dsimp only | split

theorem State.ethWrite_keeps {s0 : State} (s : State) (a : Acc) (P o : Nat) (w : W32) (hw : Option W32) (h : Keeps s0 s) :
    Keeps s0 (State.ethWrite s a P o w hw) := by
  unfold State.ethWrite
  repeat'
    first
      | with_reducible assumption | intro _ | with_reducible apply Keeps.ite | with_reducible apply State.storeWord_keeps
      | with_reducible apply State.twiHook_keeps | dsimp only | split

theorem execEthFrameReceived_keeps {s0 : State} (lp : Fin 64) (stamp : Nat) (data : List Byte) (fcsOk : Bool) (fecCorr fecUncorr : Nat) (s : State) (h : Keeps s0 s) :
    KeepsOut s0 (execEthFrameReceived lp stamp data fcsOk fecCorr fecUncorr s) := by
  unfold execEthFrameReceived
  repeat'
    first
      | with_reducible assumption | intro _ | with_reducible apply Keeps.ite | with_reducible apply KeepsOut.ite
      | with_reducible apply KeepsOut.fault | with_reducible apply KeepsOut.next | with_reducible apply runRails_keeps
      | with_reducible apply State.frameIn_keeps | dsimp only | split

theorem execLinkUp_keeps {s0 : State} (lp : Fin 64) (s : State) (h : Keeps s0 s) :
    KeepsOut s0 (execLinkUp lp s) := by
  unfold execLinkUp
  repeat'
    first
      | with_reducible assumption | intro _ | with_reducible apply Keeps.ite | with_reducible apply KeepsOut.ite
      | with_reducible apply KeepsOut.fault | with_reducible apply KeepsOut.next | with_reducible apply run_keeps
      | with_reducible apply State.linkUp_keeps | dsimp only | split

theorem execLinkDown_keeps {s0 : State} (lp : Fin 64) (hiSer : Bool) (s : State) (h : Keeps s0 s) :
    KeepsOut s0 (execLinkDown lp hiSer s) := by
  unfold execLinkDown
  repeat'
    first
      | with_reducible assumption | intro _ | with_reducible apply Keeps.ite | with_reducible apply KeepsOut.ite
      | with_reducible apply KeepsOut.fault | with_reducible apply KeepsOut.next | with_reducible apply run_keeps
      | with_reducible apply State.linkDown_keeps | dsimp only | split

theorem execTxRingHeadWrite_keeps {s0 : State} (a : Acc) (port : Fin 16) (word : W32) (s : State) (h : Keeps s0 s) :
    KeepsOut s0 (execTxRingHeadWrite a port word s) := by
  unfold execTxRingHeadWrite
  repeat'
    first
      | with_reducible assumption | intro _ | with_reducible apply Keeps.ite | with_reducible apply KeepsOut.ite
      | with_reducible apply KeepsOut.fault | with_reducible apply KeepsOut.next | with_reducible apply run_keeps
      | with_reducible apply State.viaPath_keeps | with_reducible apply State.ringWrite_keeps | dsimp only | split

theorem execRingIndexWrite_keeps {s0 : State} (a : Acc) (port : Fin 16) (ctl : Bool) (word : W32) (s : State) (h : Keeps s0 s) :
    KeepsOut s0 (execRingIndexWrite a port ctl word s) := by
  unfold execRingIndexWrite
  repeat'
    first
      | with_reducible assumption | intro _ | with_reducible apply Keeps.ite | with_reducible apply KeepsOut.ite
      | with_reducible apply KeepsOut.fault | with_reducible apply KeepsOut.next | with_reducible apply run_keeps
      | with_reducible apply State.viaPath_keeps | with_reducible apply State.ringWrite_keeps | dsimp only | split

theorem execTsqPop_keeps {s0 : State} (a : Acc) (port : Fin 16) (s : State) (h : Keeps s0 s) :
    KeepsOut s0 (execTsqPop a port s) := by
  unfold execTsqPop
  repeat'
    first
      | with_reducible assumption | intro _ | with_reducible apply Keeps.ite | with_reducible apply KeepsOut.ite
      | with_reducible apply KeepsOut.fault | with_reducible apply KeepsOut.next | with_reducible apply run_keeps
      | with_reducible apply State.viaRead_keeps | with_reducible apply State.popStamp_keeps | dsimp only | split
      | with_reducible refine Keeps.pair (by with_reducible assumption) ?_

theorem execTwiCommand_keeps {s0 : State} (a : Acc) (port : Fin 16) (word : W32) (s : State) (h : Keeps s0 s) :
    KeepsOut s0 (execTwiCommand a port word s) := by
  unfold execTwiCommand
  repeat'
    first
      | with_reducible assumption | intro _ | with_reducible apply Keeps.ite | with_reducible apply KeepsOut.ite
      | with_reducible apply KeepsOut.fault | with_reducible apply KeepsOut.next | with_reducible apply run_keeps
      | with_reducible apply State.viaPath_keeps | with_reducible apply State.ethWrite_keeps | dsimp only | split

theorem execTwiDone_keeps {s0 : State} (port : Fin 16) (ack : Bool) (data : List Byte) (s : State) (h : Keeps s0 s) :
    KeepsOut s0 (execTwiDone port ack data s) := by
  unfold execTwiDone
  repeat'
    first
      | with_reducible assumption | intro _ | with_reducible apply Keeps.foldl | with_reducible apply Keeps.foldlFst
      | with_reducible apply Keeps.ite | with_reducible apply KeepsOut.ite | with_reducible apply KeepsOut.fault
      | with_reducible apply KeepsOut.next | with_reducible apply State.setWord_keeps | with_reducible apply State.setFld_keeps
      | with_reducible apply State.irq_keeps | with_reducible apply run_keeps | dsimp only | split

theorem execModuleInterrupt_keeps {s0 : State} (port : Fin 16) (low present : Bool) (s : State) (h : Keeps s0 s) :
    KeepsOut s0 (execModuleInterrupt port low present s) := by
  unfold execModuleInterrupt
  repeat'
    first
      | with_reducible assumption | intro _ | with_reducible apply Keeps.ite | with_reducible apply KeepsOut.ite
      | with_reducible apply KeepsOut.fault | with_reducible apply KeepsOut.next | with_reducible apply State.setBit_keeps
      | with_reducible apply State.irq_keeps | with_reducible apply State.when_keeps | with_reducible apply run_keeps
      | dsimp only | split

end Sys2Proof.Machine
end

