-- ==== Sys2Proof/Laws/KeepPair.lean ====
section
/-!
SUPPORT. The operations of Machine/Pair.lean keep the queue and the invariant.
-/
set_option linter.unusedTactic false
set_option linter.unreachableTactic false
namespace Sys2Proof.Machine

theorem State.setPair_keeps {s0 : State} (s : State) (v : Pair) (h : Keeps s0 s) :
    Keeps s0 (State.setPair s v) := by
  unfold State.setPair
  repeat'
    first
      | with_reducible assumption | intro _ | with_reducible apply Keeps.ite | dsimp only
      | (refine Keeps.of ?_; dsimp only; with_reducible apply Keeps.back)

theorem State.setClaim_keeps {s0 : State} (s : State) (c : W32) (h : Keeps s0 s) :
    Keeps s0 (State.setClaim s c) := by
  unfold State.setClaim
  repeat'
    first
      | with_reducible assumption | intro _ | with_reducible apply Keeps.ite | with_reducible apply State.setFld_keeps
      | with_reducible apply State.setBit_keeps | with_reducible apply State.irq_keeps | with_reducible apply State.err_keeps
      | with_reducible apply State.setPair_keeps | dsimp only
      | (refine Keeps.of ?_; dsimp only; with_reducible apply Keeps.back) | split

theorem State.setRole_keeps {s0 : State} (s : State) (r : Nat) (h : Keeps s0 s) :
    Keeps s0 (State.setRole s r) := by
  unfold State.setRole
  repeat'
    first
      | with_reducible assumption | intro _ | with_reducible apply Keeps.ite | with_reducible apply State.setFld_keeps
      | with_reducible apply State.refRecheck_keeps | with_reducible apply State.refFollow_keeps | dsimp only

theorem State.crewStart_keeps {s0 : State} (s : State) (h : Keeps s0 s) :
    Keeps s0 (State.crewStart s) := by
  unfold State.crewStart
  repeat'
    first
      | with_reducible assumption | intro _ | with_reducible apply Keeps.ite | with_reducible apply State.crewRelease_keeps
      | with_reducible apply State.setPair_keeps | dsimp only
      | (refine Keeps.of ?_; dsimp only; with_reducible apply Keeps.back)

theorem State.becomeLead_keeps {s0 : State} (s : State) (epoch : Nat) (h : Keeps s0 s) :
    Keeps s0 (State.becomeLead s epoch) := by
  unfold State.becomeLead
  repeat'
    first
      | with_reducible assumption | intro _ | with_reducible apply Keeps.ite | with_reducible apply State.setPair_keeps
      | with_reducible apply State.setClaim_keeps | with_reducible apply State.setRole_keeps | dsimp only
      | (refine Keeps.of ?_; dsimp only; with_reducible apply Keeps.back)

theorem State.becomeForming_keeps {s0 : State} (s : State) (h : Keeps s0 s) :
    Keeps s0 (State.becomeForming s) := by
  unfold State.becomeForming
  repeat'
    first
      | with_reducible assumption | intro _ | with_reducible apply Keeps.ite | with_reducible apply State.setPair_keeps
      | with_reducible apply State.setClaim_keeps | with_reducible apply State.setRole_keeps | dsimp only
      | (refine Keeps.of ?_; dsimp only; with_reducible apply Keeps.back)

theorem State.takeover_keeps {s0 : State} (s : State) (h : Keeps s0 s) :
    Keeps s0 (State.takeover s) := by
  unfold State.takeover
  repeat'
    first
      | with_reducible assumption | intro _ | with_reducible apply Keeps.ite | with_reducible apply State.bump_keeps
      | with_reducible apply State.irq_keeps | with_reducible apply State.crewStart_keeps
      | with_reducible apply State.becomeLead_keeps | with_reducible apply State.becomeForming_keeps | dsimp only | split

theorem State.yieldNow_keeps {s0 : State} (s : State) (h : Keeps s0 s) :
    Keeps s0 (State.yieldNow s) := by
  unfold State.yieldNow
  repeat'
    first
      | with_reducible assumption | intro _ | with_reducible apply Keeps.ite | with_reducible apply State.bump_keeps
      | with_reducible apply State.irq_keeps | with_reducible apply State.crewSet_keeps
      | with_reducible apply State.setPair_keeps | with_reducible apply State.setClaim_keeps
      | with_reducible apply State.setRole_keeps | dsimp only
      | (refine Keeps.of ?_; dsimp only; with_reducible apply Keeps.back) | split

theorem State.joinLead_keeps {s0 : State} (s : State) (h : Keeps s0 s) :
    Keeps s0 (State.joinLead s) := by
  unfold State.joinLead
  repeat'
    first
      | with_reducible assumption | intro _ | with_reducible apply Keeps.ite | with_reducible apply State.settle_keeps
      | with_reducible apply State.crewSet_keeps | with_reducible apply State.setPair_keeps
      | with_reducible apply State.setClaim_keeps | with_reducible apply State.setRole_keeps | dsimp only
      | (refine Keeps.of ?_; dsimp only; with_reducible apply Keeps.back) | split

theorem State.tryPromote_keeps {s0 : State} (s : State) (h : Keeps s0 s) :
    Keeps s0 (State.tryPromote s) := by
  unfold State.tryPromote
  repeat'
    first
      | with_reducible assumption | intro _ | with_reducible apply Keeps.ite | with_reducible apply State.irq_keeps
      | with_reducible apply State.settle_keeps | with_reducible apply State.setRole_keeps | dsimp only | split

theorem State.hearClaim_keeps {s0 : State} (s : State) (c : W32) (h : Keeps s0 s) :
    Keeps s0 (State.hearClaim s c) := by
  unfold State.hearClaim
  repeat'
    first
      | with_reducible assumption | intro _ | with_reducible apply Keeps.ite | with_reducible apply State.setPair_keeps
      | with_reducible apply State.yieldNow_keeps | dsimp only
      | (refine Keeps.of ?_; dsimp only; with_reducible apply Keeps.back) | split

theorem State.setTwinClaim_keeps {s0 : State} (s : State) (c : W32) (h : Keeps s0 s) :
    Keeps s0 (State.setTwinClaim s c) := by
  unfold State.setTwinClaim
  repeat'
    first
      | with_reducible assumption | intro _ | with_reducible apply Keeps.ite | with_reducible apply State.setFld_keeps
      | with_reducible apply State.takeover_keeps | with_reducible apply State.joinLead_keeps | dsimp only | split

theorem State.settleFrame_keeps {s0 : State} (s : State) (i : Nat) (h : Keeps s0 s) :
    Keeps s0 (State.settleFrame s i) := by
  unfold State.settleFrame
  repeat'
    first
      | with_reducible assumption | intro _ | with_reducible apply Keeps.ite | with_reducible apply State.settle_keeps
      | with_reducible apply State.setPair_keeps | dsimp only
      | (refine Keeps.of ?_; dsimp only; with_reducible apply Keeps.back) | split

theorem State.sendBurst_keeps {s0 : State} (s : State) (cue : Nat) (h : Keeps s0 s) :
    Keeps s0 (State.sendBurst s cue) := by
  unfold State.sendBurst
  repeat'
    first
      | with_reducible assumption | intro _ | with_reducible apply Keeps.ite | with_reducible apply State.setPair_keeps
      | with_reducible apply State.tryPromote_keeps | with_reducible apply State.settleFrame_keeps | dsimp only
      | (refine Keeps.of ?_; dsimp only; with_reducible apply Keeps.back) | split

theorem State.hearBurst_keeps {s0 : State} (s : State) (b : BitVec 48) (h : Keeps s0 s) :
    Keeps s0 (State.hearBurst s b) := by
  unfold State.hearBurst
  repeat'
    first
      | with_reducible assumption | intro _ | with_reducible apply Keeps.ite | with_reducible apply State.setPair_keeps
      | with_reducible apply State.hearClaim_keeps | with_reducible apply State.setTwinClaim_keeps | dsimp only
      | (refine Keeps.of ?_; dsimp only; with_reducible apply Keeps.back) | split

theorem State.missBurst_keeps {s0 : State} (s : State) (h : Keeps s0 s) :
    Keeps s0 (State.missBurst s) := by
  unfold State.missBurst
  repeat'
    first
      | with_reducible assumption | intro _ | with_reducible apply Keeps.ite | with_reducible apply State.setPair_keeps
      | with_reducible apply State.setTwinClaim_keeps | dsimp only
      | (refine Keeps.of ?_; dsimp only; with_reducible apply Keeps.back) | split

theorem State.askAgain_keeps {s0 : State} (s : State) (h : Keeps s0 s) :
    Keeps s0 (State.askAgain s) := by
  unfold State.askAgain
  repeat'
    first
      | with_reducible assumption | intro _ | with_reducible apply Keeps.ite | with_reducible apply State.setBit_keeps
      | with_reducible apply State.bump_keeps | with_reducible apply State.twinSend_keeps
      | with_reducible apply State.setPair_keeps | dsimp only
      | (refine Keeps.of ?_; dsimp only; with_reducible apply Keeps.back)

theorem State.twinTake_keeps {s0 : State} (s : State) (seq : Nat) (crcOk : Bool) (h : Keeps s0 s) :
    Keeps s0 (State.twinTake s seq crcOk).1 := by
  unfold State.twinTake
  repeat'
    first
      | with_reducible assumption | intro _ | with_reducible apply Keeps.ite | with_reducible apply State.setBit_keeps
      | with_reducible apply State.bump_keeps | with_reducible apply State.setPair_keeps
      | with_reducible apply State.askAgain_keeps | dsimp only
      | (refine Keeps.of ?_; dsimp only; with_reducible apply Keeps.back) | split

theorem State.onMessage_keeps {s0 : State} (s : State) (seq : Nat) (crcOk : Bool) (f : State → State) (h : Keeps s0 s) (hf : ∀ x, Keeps s0 x → Keeps s0 (f x)) :
    Keeps s0 (State.onMessage s seq crcOk f) := by
  unfold State.onMessage
  repeat'
    first
      | with_reducible assumption | intro _ | with_reducible apply hf | with_reducible apply Keeps.ite
      | with_reducible apply State.twinTake_keeps | dsimp only | split
      | with_reducible refine Keeps.pair (by with_reducible assumption) ?_

theorem State.xferCut_keeps {s0 : State} (s : State) (h : Keeps s0 s) :
    Keeps s0 (State.xferCut s) := by
  unfold State.xferCut
  repeat'
    first
      | with_reducible assumption | intro _ | with_reducible apply Keeps.ite | with_reducible apply State.err_keeps
      | with_reducible apply State.setPair_keeps | dsimp only
      | (refine Keeps.of ?_; dsimp only; with_reducible apply Keeps.back) | split

theorem State.twinDown_keeps {s0 : State} (s : State) (h : Keeps s0 s) :
    Keeps s0 (State.twinDown s) := by
  unfold State.twinDown
  repeat'
    first
      | with_reducible assumption | intro _ | with_reducible apply Keeps.ite | with_reducible apply State.setFld_keeps
      | with_reducible apply State.irq_keeps | with_reducible apply State.xferCut_keeps | dsimp only

theorem State.laneFail_keeps {s0 : State} (s : State) (n : Nat) (h : Keeps s0 s) :
    Keeps s0 (State.laneFail s n) := by
  unfold State.laneFail
  repeat'
    first
      | with_reducible assumption | intro _ | with_reducible apply Keeps.ite | with_reducible apply State.setFld_keeps
      | with_reducible apply State.bump_keeps | with_reducible apply State.irq_keeps | with_reducible apply State.twinDown_keeps
      | dsimp only | split

theorem State.linkRise_keeps {s0 : State} (s : State) (lanes : Nat) (h : Keeps s0 s) :
    Keeps s0 (State.linkRise s lanes) := by
  unfold State.linkRise
  repeat'
    first
      | with_reducible assumption | intro _ | with_reducible apply Keeps.ite | with_reducible apply State.setFld_keeps
      | with_reducible apply State.setBit_keeps | with_reducible apply State.irq_keeps
      | with_reducible apply State.sendVersions_keeps | with_reducible apply State.setPair_keeps | dsimp only
      | (refine Keeps.of ?_; dsimp only; with_reducible apply Keeps.back)
      | (refine Keeps.of ?_; dsimp only; with_reducible apply Keeps.noReplay) | split

theorem State.replay_keeps {s0 : State} (s : State) (first : Nat) (h : Keeps s0 s) :
    Keeps s0 (State.replay s first) := by
  unfold State.replay
  repeat'
    first
      | with_reducible assumption | intro _ | with_reducible apply Keeps.ite | with_reducible apply State.bump_keeps
      | with_reducible apply State.err_keeps | with_reducible apply State.setPair_keeps
      | with_reducible apply State.twinDown_keeps | dsimp only
      | (refine Keeps.of ?_; dsimp only; with_reducible apply Keeps.back) | split

theorem State.sendState_keeps {s0 : State} (s : State) (h : Keeps s0 s) :
    Keeps s0 (State.sendState s) := by
  unfold State.sendState
  repeat'
    first
      | with_reducible assumption | intro _ | with_reducible apply Keeps.foldl | with_reducible apply Keeps.foldlFst
      | with_reducible apply Keeps.ite | with_reducible apply State.twinSend_keeps | with_reducible apply State.setPair_keeps
      | with_reducible apply State.cut_keeps | dsimp only | (refine Keeps.of ?_; dsimp only; with_reducible apply Keeps.back)

theorem State.beatAt_keeps {s0 : State} (s : State) (x0 : Option Nat) (h : Keeps s0 s) :
    Keeps s0 (State.beatAt s x0) := by
  unfold State.beatAt
  repeat'
    first
      | with_reducible assumption | intro _ | with_reducible apply Keeps.ite | with_reducible apply State.twinSend_keeps
      | with_reducible apply State.setPair_keeps | dsimp only
      | (refine Keeps.of ?_; dsimp only; with_reducible apply Keeps.back) | split

theorem State.beat_keeps {s0 : State} (s : State) (h : Keeps s0 s) :
    Keeps s0 (State.beat s) := by
  unfold State.beat
  repeat'
    first
      | with_reducible assumption | intro _ | with_reducible apply Keeps.ite | with_reducible apply State.beatAt_keeps
      | dsimp only

theorem State.twinEvent_keeps {s0 : State} (s : State) (upt : Nat) (h : Heartbeat) (hk : Keeps s0 s) :
    Keeps s0 (State.twinEvent s upt h) := by
  unfold State.twinEvent
  repeat'
    first
      | with_reducible assumption | intro _ | with_reducible apply Keeps.ite | with_reducible apply State.fresh_keeps
      | with_reducible apply State.refEvent_keeps | dsimp only
      | (refine Keeps.of ?_; dsimp only; with_reducible apply Keeps.back) | split

theorem State.hearBeat_keeps {s0 : State} (s : State) (upt : Nat) (h : Heartbeat) (hk : Keeps s0 s) :
    Keeps s0 (State.hearBeat s upt h) := by
  unfold State.hearBeat
  repeat'
    first
      | with_reducible assumption | intro _ | with_reducible apply Keeps.ite | with_reducible apply State.setBit_keeps
      | with_reducible apply State.when_keeps | with_reducible apply State.setPair_keeps
      | with_reducible apply State.joinLead_keeps | with_reducible apply State.tryPromote_keeps
      | with_reducible apply State.sendState_keeps | with_reducible apply State.twinEvent_keeps | dsimp only
      | (refine Keeps.of ?_; dsimp only; with_reducible apply Keeps.back) | split

theorem State.beatLost_keeps {s0 : State} (s : State) (h : Keeps s0 s) :
    Keeps s0 (State.beatLost s) := by
  unfold State.beatLost
  repeat'
    first
      | with_reducible assumption | intro _ | with_reducible apply Keeps.ite | with_reducible apply State.setBit_keeps
      | with_reducible apply State.bump_keeps | with_reducible apply State.irq_keeps | with_reducible apply State.takeover_keeps
      | dsimp only | split

theorem State.setSigRun_keeps {s0 : State} (s : State) (d : Nat) (v : SigRun) (h : Keeps s0 s) :
    Keeps s0 (State.setSigRun s d v) := by
  unfold State.setSigRun
  repeat'
    first
      | with_reducible assumption | intro _ | with_reducible apply Keeps.ite | with_reducible apply State.setPair_keeps
      | dsimp only | (refine Keeps.of ?_; dsimp only; with_reducible apply Keeps.back)

theorem State.setDivs_keeps {s0 : State} (s : State) (l : List Nat) (h : Keeps s0 s) :
    Keeps s0 (State.setDivs s l) := by
  unfold State.setDivs
  repeat'
    first
      | with_reducible assumption | intro _ | with_reducible apply Keeps.ite | with_reducible apply State.setBit_keeps
      | with_reducible apply State.setPair_keeps | dsimp only
      | (refine Keeps.of ?_; dsimp only; with_reducible apply Keeps.back)

theorem State.checkStart_keeps {s0 : State} (s : State) (d n start T : Nat) (h : Keeps s0 s) :
    Keeps s0 (State.checkStart s d n start T) := by
  unfold State.checkStart
  repeat'
    first
      | with_reducible assumption | intro _ | with_reducible apply Keeps.ite | with_reducible apply State.bump_keeps
      | with_reducible apply State.setPair_keeps | with_reducible apply State.setSigRun_keeps | dsimp only
      | (refine Keeps.of ?_; dsimp only; with_reducible apply Keeps.back) | split

theorem State.maybeCheck_keeps {s0 : State} (s : State) (d : Nat) (h : Keeps s0 s) :
    Keeps s0 (State.maybeCheck s d) := by
  unfold State.maybeCheck
  repeat'
    first
      | with_reducible assumption | intro _ | with_reducible apply Keeps.ite | with_reducible apply State.journal_keeps
      | with_reducible apply State.checkStart_keeps | dsimp only | split

theorem State.compared_keeps {s0 : State} (s : State) (d n start : Nat) (differ : Bool) (h : Keeps s0 s) :
    Keeps s0 (State.compared s d n start differ) := by
  unfold State.compared
  repeat'
    first
      | with_reducible assumption | intro _ | with_reducible apply Keeps.ite | with_reducible apply State.setWord_keeps
      | with_reducible apply State.bump_keeps | with_reducible apply State.irq_keeps | with_reducible apply State.when_keeps
      | with_reducible apply State.settle_keeps | with_reducible apply State.setPair_keeps
      | with_reducible apply State.setSigRun_keeps | with_reducible apply State.setDivs_keeps
      | with_reducible apply State.maybeCheck_keeps | dsimp only
      | (refine Keeps.of ?_; dsimp only; with_reducible apply Keeps.back) | split

theorem State.sigDrop_keeps {s0 : State} (s : State) (d n : Nat) (h : Keeps s0 s) :
    Keeps s0 (State.sigDrop s d n) := by
  unfold State.sigDrop
  repeat'
    first
      | with_reducible assumption | intro _ | with_reducible apply Keeps.ite | with_reducible apply State.setPair_keeps
      | dsimp only | (refine Keeps.of ?_; dsimp only; with_reducible apply Keeps.back)

theorem State.sigAdd_keeps {s0 : State} (s : State) (w : SigWait) (h : Keeps s0 s) :
    Keeps s0 (State.sigAdd s w) := by
  unfold State.sigAdd
  repeat'
    first
      | with_reducible assumption | intro _ | with_reducible apply Keeps.ite | with_reducible apply State.setPair_keeps
      | dsimp only | (refine Keeps.of ?_; dsimp only; with_reducible apply Keeps.back)

theorem State.ownSignature_keeps {s0 : State} (s : State) (d : Nat) (samples audio : List Nat) (h : Keeps s0 s) :
    Keeps s0 (State.ownSignature s d samples audio) := by
  unfold State.ownSignature
  repeat'
    first
      | with_reducible assumption | intro _ | with_reducible apply Keeps.ite | with_reducible apply State.twinSend_keeps
      | with_reducible apply State.compared_keeps | with_reducible apply State.sigDrop_keeps
      | with_reducible apply State.sigAdd_keeps | dsimp only | (refine Keeps.of ?_; dsimp only; with_reducible apply Keeps.back)
      | split

theorem State.twinSignature_keeps {s0 : State} (s : State) (d n : Nat) (w : W32) (h : Keeps s0 s) :
    Keeps s0 (State.twinSignature s d n w) := by
  unfold State.twinSignature
  repeat'
    first
      | with_reducible assumption | intro _ | with_reducible apply Keeps.ite | with_reducible apply State.compared_keeps
      | with_reducible apply State.sigDrop_keeps | with_reducible apply State.sigAdd_keeps | dsimp only
      | (refine Keeps.of ?_; dsimp only; with_reducible apply Keeps.back) | split

theorem State.overdue_keeps {s0 : State} (s : State) (d : Nat) (h : Keeps s0 s) :
    Keeps s0 (State.overdue s d) := by
  unfold State.overdue
  repeat'
    first
      | with_reducible assumption | intro _ | with_reducible apply Keeps.ite | with_reducible apply State.compared_keeps
      | with_reducible apply State.sigDrop_keeps | dsimp only
      | (refine Keeps.of ?_; dsimp only; with_reducible apply Keeps.back) | split

theorem State.diverge_keeps {s0 : State} (s : State) (d cause : Nat) (h : Keeps s0 s) :
    Keeps s0 (State.diverge s d cause) := by
  unfold State.diverge
  repeat'
    first
      | with_reducible assumption | intro _ | with_reducible apply Keeps.ite | with_reducible apply State.setFld_keeps
      | with_reducible apply State.irq_keeps | with_reducible apply State.setDivs_keeps | dsimp only | split

theorem State.checkOutcome_keeps {s0 : State} (s : State) (d : Nat) (own twin : Bool × Bool) (h : Keeps s0 s) :
    Keeps s0 (State.checkOutcome s d own twin) := by
  unfold State.checkOutcome
  repeat'
    first
      | with_reducible assumption | intro _ | with_reducible apply Keeps.ite | with_reducible apply State.setPair_keeps
      | with_reducible apply State.takeover_keeps | with_reducible apply State.yieldNow_keeps
      | with_reducible apply State.diverge_keeps | dsimp only
      | (refine Keeps.of ?_; dsimp only; with_reducible apply Keeps.back) | split

theorem State.checkDone_keeps {s0 : State} (s : State) (d : Nat) (differs inputDiff : Bool) (h : Keeps s0 s) :
    Keeps s0 (State.checkDone s d differs inputDiff) := by
  unfold State.checkDone
  repeat'
    first
      | with_reducible assumption | intro _ | with_reducible apply Keeps.ite | with_reducible apply State.twinSend_keeps
      | with_reducible apply State.setPair_keeps | with_reducible apply State.checkOutcome_keeps | dsimp only
      | (refine Keeps.of ?_; dsimp only; with_reducible apply Keeps.back) | split

theorem State.checkTwin_keeps {s0 : State} (s : State) (d n : Nat) (t : Bool × Bool) (h : Keeps s0 s) :
    Keeps s0 (State.checkTwin s d n t) := by
  unfold State.checkTwin
  repeat'
    first
      | with_reducible assumption | intro _ | with_reducible apply Keeps.ite | with_reducible apply State.setPair_keeps
      | with_reducible apply State.checkOutcome_keeps | dsimp only
      | (refine Keeps.of ?_; dsimp only; with_reducible apply Keeps.back) | split

theorem State.checkTimeout_keeps {s0 : State} (s : State) (d : Nat) (h : Keeps s0 s) :
    Keeps s0 (State.checkTimeout s d) := by
  unfold State.checkTimeout
  repeat'
    first
      | with_reducible assumption | intro _ | with_reducible apply Keeps.ite | with_reducible apply State.checkOutcome_keeps
      | dsimp only | (refine Keeps.of ?_; dsimp only; with_reducible apply Keeps.back) | split

theorem State.sendData_keeps {s0 : State} (s : State) (off : Nat) (l : List (List (BitVec 64))) (h : Keeps s0 s) :
    Keeps s0 (State.sendData s off l) := by
  unfold State.sendData
  repeat'
    first
      | with_reducible assumption | intro _ | with_reducible apply Keeps.foldl | with_reducible apply Keeps.foldlFst
      | with_reducible apply Keeps.ite | with_reducible apply State.twinSend_keeps | with_reducible apply State.snapData_keeps
      | dsimp only

theorem State.snapStart_keeps {s0 : State} (s : State) (h : Keeps s0 s) :
    Keeps s0 (State.snapStart s) := by
  unfold State.snapStart
  repeat'
    first
      | with_reducible assumption | intro _ | with_reducible apply Keeps.ite | with_reducible apply State.engineRead_keeps
      | with_reducible apply State.setPair_keeps | with_reducible apply State.sendData_keeps | dsimp only
      | (refine Keeps.of ?_; dsimp only; with_reducible apply Keeps.back) | split
      | with_reducible refine Keeps.pair (by with_reducible assumption) ?_

theorem State.snapShow_keeps {s0 : State} (s : State) (seq : Nat) (h : Keeps s0 s) :
    Keeps s0 (State.snapShow s seq) := by
  unfold State.snapShow
  repeat'
    first
      | with_reducible assumption | intro _ | with_reducible apply Keeps.ite | with_reducible apply State.setFld_keeps
      | with_reducible apply State.setFld64_keeps | with_reducible apply State.irq_keeps | dsimp only

theorem State.swapRefused_keeps {s0 : State} (s : State) (h : Keeps s0 s) :
    Keeps s0 (State.swapRefused s) := by
  unfold State.swapRefused
  repeat'
    first
      | with_reducible assumption | intro _ | with_reducible apply Keeps.ite | with_reducible apply State.setBit_keeps
      | with_reducible apply State.bump_keeps | with_reducible apply State.irq_keeps | with_reducible apply State.setPair_keeps
      | dsimp only | (refine Keeps.of ?_; dsimp only; with_reducible apply Keeps.back)

theorem State.snapEnd_keeps {s0 : State} (s : State) (h : Keeps s0 s) :
    Keeps s0 (State.snapEnd s) := by
  unfold State.snapEnd
  repeat'
    first
      | with_reducible assumption | intro _ | with_reducible apply Keeps.ite | with_reducible apply State.journal_keeps
      | with_reducible apply State.setPair_keeps | with_reducible apply State.sendData_keeps
      | with_reducible apply State.snapShow_keeps | with_reducible apply State.swapRefused_keeps | dsimp only
      | (refine Keeps.of ?_; dsimp only; with_reducible apply Keeps.back) | split

theorem State.snapData_keeps {s0 : State} (s : State) (off : Nat) (data : List (BitVec 64)) (h : Keeps s0 s) :
    Keeps s0 (State.snapData s off data) := by
  unfold State.snapData
  repeat'
    first
      | with_reducible assumption | intro _ | with_reducible apply Keeps.ite | with_reducible apply State.engineWrite_keeps
      | with_reducible apply State.snapShow_keeps | dsimp only | split

theorem State.swapAsk_keeps {s0 : State} (s : State) (h : Keeps s0 s) :
    Keeps s0 (State.swapAsk s) := by
  unfold State.swapAsk
  repeat'
    first
      | with_reducible assumption | intro _ | with_reducible apply Keeps.ite | with_reducible apply State.setPair_keeps
      | with_reducible apply State.swapRefused_keeps | dsimp only
      | (refine Keeps.of ?_; dsimp only; with_reducible apply Keeps.back) | split

theorem State.swapNow_keeps {s0 : State} (s : State) (h : Keeps s0 s) :
    Keeps s0 (State.swapNow s) := by
  unfold State.swapNow
  repeat'
    first
      | with_reducible assumption | intro _ | with_reducible apply Keeps.ite | with_reducible apply State.setBit_keeps
      | with_reducible apply State.irq_keeps | with_reducible apply State.crewSet_keeps
      | with_reducible apply State.setPair_keeps | with_reducible apply State.setClaim_keeps
      | with_reducible apply State.setRole_keeps | with_reducible apply State.crewStart_keeps
      | with_reducible apply State.becomeLead_keeps | with_reducible apply State.swapRefused_keeps | dsimp only
      | (refine Keeps.of ?_; dsimp only; with_reducible apply Keeps.back) | split

theorem State.leadFrom_keeps {s0 : State} (s : State) (h : Keeps s0 s) :
    Keeps s0 (State.leadFrom s) := by
  unfold State.leadFrom
  repeat'
    first
      | with_reducible assumption | intro _ | with_reducible apply Keeps.ite | with_reducible apply State.becomeLead_keeps
      | dsimp only | split

theorem State.pairHook_keeps {s0 : State} (s : State) (o : Nat) (eff : W32) (h : Keeps s0 s) :
    Keeps s0 (State.pairHook s o eff) := by
  unfold State.pairHook
  repeat'
    first
      | with_reducible assumption | intro _ | with_reducible apply Keeps.ite | with_reducible apply State.becomeForming_keeps
      | with_reducible apply State.swapAsk_keeps | with_reducible apply State.leadFrom_keeps | dsimp only
      | (refine Keeps.of ?_; dsimp only; with_reducible apply Keeps.back) | split

theorem State.pairWrite_keeps {s0 : State} (s : State) (a : Acc) (o : Nat) (w : W32) (h : Keeps s0 s) :
    Keeps s0 (State.pairWrite s a o w) := by
  unfold State.pairWrite
  repeat'
    first
      | with_reducible assumption | intro _ | with_reducible apply Keeps.ite | with_reducible apply State.storeWord_keeps
      | with_reducible apply State.pairHook_keeps | dsimp only | split

theorem execClaimBurst_keeps {s0 : State} (cue : Fin 16) (s : State) (h : Keeps s0 s) :
    KeepsOut s0 (execClaimBurst cue s) := by
  unfold execClaimBurst
  repeat'
    first
      | with_reducible assumption | intro _ | with_reducible apply Keeps.ite | with_reducible apply KeepsOut.ite
      | with_reducible apply KeepsOut.fault | with_reducible apply KeepsOut.next | with_reducible apply run_keeps
      | with_reducible apply State.sendBurst_keeps | dsimp only | split

theorem execClaimBurstReceived_keeps {s0 : State} (bits : BitVec 48) (s : State) (h : Keeps s0 s) :
    KeepsOut s0 (execClaimBurstReceived bits s) := by
  unfold execClaimBurstReceived
  repeat'
    first
      | with_reducible assumption | intro _ | with_reducible apply Keeps.ite | with_reducible apply KeepsOut.ite
      | with_reducible apply KeepsOut.fault | with_reducible apply KeepsOut.next | with_reducible apply run_keeps
      | with_reducible apply State.hearBurst_keeps | dsimp only | split

theorem execClaimBurstMissing_keeps {s0 : State} (s : State) (h : Keeps s0 s) :
    KeepsOut s0 (execClaimBurstMissing s) := by
  unfold execClaimBurstMissing
  repeat'
    first
      | with_reducible assumption | intro _ | with_reducible apply Keeps.ite | with_reducible apply KeepsOut.ite
      | with_reducible apply KeepsOut.fault | with_reducible apply KeepsOut.next | with_reducible apply run_keeps
      | with_reducible apply State.missBurst_keeps | dsimp only | split

theorem execPrefLeadTimeout_keeps {s0 : State} (s : State) (h : Keeps s0 s) :
    KeepsOut s0 (execPrefLeadTimeout s) := by
  unfold execPrefLeadTimeout
  repeat'
    first
      | with_reducible assumption | intro _ | with_reducible apply Keeps.ite | with_reducible apply KeepsOut.ite
      | with_reducible apply KeepsOut.fault | with_reducible apply KeepsOut.next | with_reducible apply run_keeps
      | with_reducible apply State.leadFrom_keeps | dsimp only | split

theorem execLeadNow_keeps {s0 : State} (a : Acc) (s : State) (h : Keeps s0 s) :
    KeepsOut s0 (execLeadNow a s) := by
  unfold execLeadNow
  repeat'
    first
      | with_reducible assumption | intro _ | with_reducible apply Keeps.ite | with_reducible apply KeepsOut.ite
      | with_reducible apply KeepsOut.fault | with_reducible apply KeepsOut.next | with_reducible apply run_keeps
      | with_reducible apply State.viaPath_keeps | with_reducible apply State.pairWrite_keeps | dsimp only | split

theorem execPairRejoin_keeps {s0 : State} (a : Acc) (s : State) (h : Keeps s0 s) :
    KeepsOut s0 (execPairRejoin a s) := by
  unfold execPairRejoin
  repeat'
    first
      | with_reducible assumption | intro _ | with_reducible apply Keeps.ite | with_reducible apply KeepsOut.ite
      | with_reducible apply KeepsOut.fault | with_reducible apply KeepsOut.next | with_reducible apply run_keeps
      | with_reducible apply State.viaPath_keeps | with_reducible apply State.pairWrite_keeps | dsimp only | split

theorem execPairSwapWrite_keeps {s0 : State} (a : Acc) (s : State) (h : Keeps s0 s) :
    KeepsOut s0 (execPairSwapWrite a s) := by
  unfold execPairSwapWrite
  repeat'
    first
      | with_reducible assumption | intro _ | with_reducible apply Keeps.ite | with_reducible apply KeepsOut.ite
      | with_reducible apply KeepsOut.fault | with_reducible apply KeepsOut.next | with_reducible apply run_keeps
      | with_reducible apply State.viaPath_keeps | with_reducible apply State.pairWrite_keeps | dsimp only | split

theorem execSwapInstant_keeps {s0 : State} (s : State) (h : Keeps s0 s) :
    KeepsOut s0 (execSwapInstant s) := by
  unfold execSwapInstant
  repeat'
    first
      | with_reducible assumption | intro _ | with_reducible apply Keeps.ite | with_reducible apply KeepsOut.ite
      | with_reducible apply KeepsOut.fault | with_reducible apply KeepsOut.next | with_reducible apply run_keeps
      | with_reducible apply State.swapNow_keeps | dsimp only | split

theorem execHeartbeatSend_keeps {s0 : State} (s : State) (h : Keeps s0 s) :
    KeepsOut s0 (execHeartbeatSend s) := by
  unfold execHeartbeatSend
  repeat'
    first
      | with_reducible assumption | intro _ | with_reducible apply Keeps.ite | with_reducible apply KeepsOut.ite
      | with_reducible apply KeepsOut.fault | with_reducible apply KeepsOut.next | with_reducible apply run_keeps
      | with_reducible apply State.beat_keeps | dsimp only | split

theorem execHeartbeatReceived_keeps {s0 : State} (seq : Nat) (crcOk : Bool) (ago : Fin 16) (h : Heartbeat) (s : State) (hk : Keeps s0 s) :
    KeepsOut s0 (execHeartbeatReceived seq crcOk ago h s) := by
  unfold execHeartbeatReceived
  repeat'
    first
      | with_reducible assumption | intro _ | with_reducible apply Keeps.ite | with_reducible apply KeepsOut.ite
      | with_reducible apply KeepsOut.fault | with_reducible apply KeepsOut.next | with_reducible apply run_keeps
      | with_reducible apply State.onMessage_keeps | with_reducible apply State.hearBeat_keeps | dsimp only | split

theorem execHeartbeatTimeout_keeps {s0 : State} (s : State) (h : Keeps s0 s) :
    KeepsOut s0 (execHeartbeatTimeout s) := by
  unfold execHeartbeatTimeout
  repeat'
    first
      | with_reducible assumption | intro _ | with_reducible apply Keeps.ite | with_reducible apply KeepsOut.ite
      | with_reducible apply KeepsOut.fault | with_reducible apply KeepsOut.next | with_reducible apply run_keeps
      | with_reducible apply State.beatLost_keeps | dsimp only | split

theorem execSignaturesReceived_keeps {s0 : State} (seq : Nat) (crcOk : Bool) (frame : Nat) (sigs : List (Nat × W32)) (s : State) (h : Keeps s0 s) :
    KeepsOut s0 (execSignaturesReceived seq crcOk frame sigs s) := by
  unfold execSignaturesReceived
  repeat'
    first
      | with_reducible assumption | intro _ | with_reducible apply Keeps.foldl | with_reducible apply Keeps.foldlFst
      | with_reducible apply Keeps.ite | with_reducible apply KeepsOut.ite | with_reducible apply KeepsOut.fault
      | with_reducible apply KeepsOut.next | with_reducible apply run_keeps | with_reducible apply State.tryPromote_keeps
      | with_reducible apply State.onMessage_keeps | with_reducible apply State.twinSignature_keeps | dsimp only | split

theorem execFrameSignature_keeps {s0 : State} (dest : Fin 2048) (samples audio : List Nat) (s : State) (h : Keeps s0 s) :
    KeepsOut s0 (execFrameSignature dest samples audio s) := by
  unfold execFrameSignature
  repeat'
    first
      | with_reducible assumption | intro _ | with_reducible apply Keeps.ite | with_reducible apply KeepsOut.ite
      | with_reducible apply KeepsOut.fault | with_reducible apply KeepsOut.next | with_reducible apply run_keeps
      | with_reducible apply State.ownSignature_keeps | dsimp only | split

theorem execSignatureDeadline_keeps {s0 : State} (dest : Fin 2048) (s : State) (h : Keeps s0 s) :
    KeepsOut s0 (execSignatureDeadline dest s) := by
  unfold execSignatureDeadline
  repeat'
    first
      | with_reducible assumption | intro _ | with_reducible apply Keeps.ite | with_reducible apply KeepsOut.ite
      | with_reducible apply KeepsOut.fault | with_reducible apply KeepsOut.next | with_reducible apply run_keeps
      | with_reducible apply State.overdue_keeps | dsimp only | split

theorem execPathCheckDone_keeps {s0 : State} (dest : Fin 2048) (differs inputDiff : Bool) (s : State) (h : Keeps s0 s) :
    KeepsOut s0 (execPathCheckDone dest differs inputDiff s) := by
  unfold execPathCheckDone
  repeat'
    first
      | with_reducible assumption | intro _ | with_reducible apply Keeps.ite | with_reducible apply KeepsOut.ite
      | with_reducible apply KeepsOut.fault | with_reducible apply KeepsOut.next | with_reducible apply run_keeps
      | with_reducible apply State.checkDone_keeps | dsimp only | split

theorem execPathCheckResultReceived_keeps {s0 : State} (seq : Nat) (crcOk : Bool) (dest frame : Nat) (pass inputDiff : Bool) (s : State) (h : Keeps s0 s) :
    KeepsOut s0 (execPathCheckResultReceived seq crcOk dest frame pass inputDiff s) := by
  unfold execPathCheckResultReceived
  repeat'
    first
      | with_reducible assumption | intro _ | with_reducible apply Keeps.ite | with_reducible apply KeepsOut.ite
      | with_reducible apply KeepsOut.fault | with_reducible apply KeepsOut.next | with_reducible apply run_keeps
      | with_reducible apply State.onMessage_keeps | with_reducible apply State.checkTwin_keeps | dsimp only | split

theorem execPathCheckResultTimeout_keeps {s0 : State} (dest : Fin 2048) (s : State) (h : Keeps s0 s) :
    KeepsOut s0 (execPathCheckResultTimeout dest s) := by
  unfold execPathCheckResultTimeout
  repeat'
    first
      | with_reducible assumption | intro _ | with_reducible apply Keeps.ite | with_reducible apply KeepsOut.ite
      | with_reducible apply KeepsOut.fault | with_reducible apply KeepsOut.next | with_reducible apply run_keeps
      | with_reducible apply State.checkTimeout_keeps | dsimp only | split

theorem execSnapshotDataReceived_keeps {s0 : State} (seq : Nat) (crcOk : Bool) (offset : Nat) (data : List (BitVec 64)) (s : State) (h : Keeps s0 s) :
    KeepsOut s0 (execSnapshotDataReceived seq crcOk offset data s) := by
  unfold execSnapshotDataReceived
  repeat'
    first
      | with_reducible assumption | intro _ | with_reducible apply Keeps.ite | with_reducible apply KeepsOut.ite
      | with_reducible apply KeepsOut.fault | with_reducible apply KeepsOut.next | with_reducible apply run_keeps
      | with_reducible apply State.onMessage_keeps | with_reducible apply State.snapData_keeps | dsimp only | split

theorem execRetransmitRequestReceived_keeps {s0 : State} (seq : Nat) (crcOk : Bool) (first : Nat) (s : State) (h : Keeps s0 s) :
    KeepsOut s0 (execRetransmitRequestReceived seq crcOk first s) := by
  unfold execRetransmitRequestReceived
  repeat'
    first
      | with_reducible assumption | intro _ | with_reducible apply Keeps.ite | with_reducible apply KeepsOut.ite
      | with_reducible apply KeepsOut.fault | with_reducible apply KeepsOut.next | with_reducible apply run_keeps
      | with_reducible apply State.onMessage_keeps | with_reducible apply State.replay_keeps | dsimp only | split

theorem execTwinLaneFail_keeps {s0 : State} (lane : Fin 8) (s : State) (h : Keeps s0 s) :
    KeepsOut s0 (execTwinLaneFail lane s) := by
  unfold execTwinLaneFail
  repeat'
    first
      | with_reducible assumption | intro _ | with_reducible apply Keeps.ite | with_reducible apply KeepsOut.ite
      | with_reducible apply KeepsOut.fault | with_reducible apply KeepsOut.next | with_reducible apply run_keeps
      | with_reducible apply State.laneFail_keeps | dsimp only | split

theorem execSnapshotCopy_keeps {s0 : State} (s : State) (h : Keeps s0 s) :
    KeepsOut s0 (execSnapshotCopy s) := by
  unfold execSnapshotCopy
  repeat'
    first
      | with_reducible assumption | intro _ | with_reducible apply Keeps.ite | with_reducible apply KeepsOut.ite
      | with_reducible apply KeepsOut.fault | with_reducible apply KeepsOut.next | with_reducible apply run_keeps
      | with_reducible apply State.snapStart_keeps | dsimp only | split

theorem execSnapshotCopyDone_keeps {s0 : State} (s : State) (h : Keeps s0 s) :
    KeepsOut s0 (execSnapshotCopyDone s) := by
  unfold execSnapshotCopyDone
  repeat'
    first
      | with_reducible assumption | intro _ | with_reducible apply Keeps.ite | with_reducible apply KeepsOut.ite
      | with_reducible apply KeepsOut.fault | with_reducible apply KeepsOut.next | with_reducible apply run_keeps
      | with_reducible apply State.snapEnd_keeps | dsimp only | split

theorem execTwinLinkUp_keeps {s0 : State} (lanes : BitVec 8) (s : State) (h : Keeps s0 s) :
    KeepsOut s0 (execTwinLinkUp lanes s) := by
  unfold execTwinLinkUp
  repeat'
    first
      | with_reducible assumption | intro _ | with_reducible apply Keeps.ite | with_reducible apply KeepsOut.ite
      | with_reducible apply KeepsOut.fault | with_reducible apply KeepsOut.next | with_reducible apply run_keeps
      | with_reducible apply State.linkRise_keeps | dsimp only | split

end Sys2Proof.Machine
end

