-- ==== Sys2Proof/Laws/KeepCallBus.lean ====
section
/-!
SUPPORT. The operations of Machine/CallBus.lean keep the queue and the invariant.
-/
set_option linter.unusedTactic false
set_option linter.unreachableTactic false
namespace Sys2Proof.Machine

theorem State.setCall_keeps {s0 : State} (s : State) (v : CallBus) (h : Keeps s0 s) :
    Keeps s0 (State.setCall s v) := by
  unfold State.setCall
  repeat'
    first
      | with_reducible assumption | intro _ | with_reducible apply Keeps.ite | dsimp only
      | (refine Keeps.of ?_; dsimp only; with_reducible apply Keeps.back)

theorem State.setCb_keeps {s0 : State} (s : State) (st : Nat) (h : Keeps s0 s) :
    Keeps s0 (State.setCb s st) := by
  unfold State.setCb
  repeat'
    first
      | with_reducible assumption | intro _ | with_reducible apply Keeps.ite | with_reducible apply State.setFld_keeps
      | dsimp only

theorem State.cbWriteBack_keeps {s0 : State} (s : State) (n flags : Nat) (h : Keeps s0 s) :
    Keeps s0 (State.cbWriteBack s n flags) := by
  unfold State.cbWriteBack
  repeat'
    first
      | with_reducible assumption | intro _ | with_reducible apply Keeps.ite | with_reducible apply State.setFld_keeps
      | with_reducible apply State.engineWrite_keeps | dsimp only

theorem State.callSettle_keeps {s0 : State} (s : State) (h : Keeps s0 s) :
    Keeps s0 (State.callSettle s) := by
  unfold State.callSettle
  repeat'
    first
      | with_reducible assumption | intro _ | with_reducible apply Keeps.ite | with_reducible apply State.bump_keeps
      | with_reducible apply State.setCall_keeps | with_reducible apply State.cbWriteBack_keeps | dsimp only
      | (refine Keeps.of ?_; dsimp only; with_reducible apply Keeps.back) | split

theorem State.callSend_keeps {s0 : State} (s : State) (slot t type : Nat) (payload : List Byte) (idx : Option Nat) (h : Keeps s0 s) :
    Keeps s0 (State.callSend s slot t type payload idx) := by
  unfold State.callSend
  repeat'
    first
      | with_reducible assumption | intro _ | with_reducible apply Keeps.ite | with_reducible apply State.setCall_keeps
      | dsimp only | (refine Keeps.of ?_; dsimp only; with_reducible apply Keeps.back)

theorem State.callEntry_keeps {s0 : State} (s : State) (t : Nat) (x0 : Nat) (h : Keeps s0 s) :
    Keeps s0 (State.callEntry s t x0).1 := by
  induction x0 generalizing s with
  | zero =>
    unfold State.callEntry
    repeat'
      first
        | with_reducible assumption | intro _  | with_reducible apply Keeps.ite
        | with_reducible apply State.bump_keeps | with_reducible apply State.irq_keeps | with_reducible apply State.err_keeps
        | with_reducible apply State.cbWriteBack_keeps | dsimp only | split
        | with_reducible refine Keeps.pair (by with_reducible assumption) ?_
  | succ k ih =>
    unfold State.callEntry
    repeat'
      first
        | with_reducible assumption | intro _ | with_reducible apply ih | with_reducible apply Keeps.ite
        | with_reducible apply State.bump_keeps | with_reducible apply State.irq_keeps | with_reducible apply State.err_keeps
        | with_reducible apply State.cbWriteBack_keeps | dsimp only | split
        | with_reducible refine Keeps.pair (by with_reducible assumption) ?_

theorem State.callSlot_keeps {s0 : State} (s : State) (n t : Nat) (h : Keeps s0 s) :
    Keeps s0 (State.callSlot s n t) := by
  unfold State.callSlot
  repeat'
    first
      | with_reducible assumption | intro _ | with_reducible apply Keeps.ite | with_reducible apply State.engineRead_keeps
      | with_reducible apply State.callSend_keeps | with_reducible apply State.callEntry_keeps | dsimp only
      | (refine Keeps.of ?_; dsimp only; with_reducible apply Keeps.back) | split
      | with_reducible refine Keeps.pair (by with_reducible assumption) ?_

theorem State.callApply_keeps {s0 : State} (s : State) (h : Keeps s0 s) :
    Keeps s0 (State.callApply s) := by
  unfold State.callApply
  repeat'
    first
      | with_reducible assumption | intro _ | with_reducible apply Keeps.ite | with_reducible apply State.setFld_keeps
      | with_reducible apply State.applySlot_keeps | with_reducible apply State.setCall_keeps
      | with_reducible apply State.setCb_keeps | dsimp only | (refine Keeps.of ?_; dsimp only; with_reducible apply Keeps.back)
      | split

theorem State.sendBeacon_keeps {s0 : State} (s : State) (t edge : Nat) (h : Keeps s0 s) :
    Keeps s0 (State.sendBeacon s t edge) := by
  unfold State.sendBeacon
  repeat'
    first
      | with_reducible assumption | intro _ | with_reducible apply Keeps.ite | with_reducible apply State.callSend_keeps
      | dsimp only | split

theorem State.callCycle_keeps {s0 : State} (s : State) (t edge : Nat) (h : Keeps s0 s) :
    Keeps s0 (State.callCycle s t edge) := by
  unfold State.callCycle
  repeat'
    first
      | with_reducible assumption | intro _ | with_reducible apply Keeps.ite | with_reducible apply State.setFld_keeps
      | with_reducible apply State.setFld64_keeps | with_reducible apply State.when_keeps
      | with_reducible apply State.setCall_keeps | with_reducible apply State.callApply_keeps
      | with_reducible apply State.sendBeacon_keeps | dsimp only
      | (refine Keeps.of ?_; dsimp only; with_reducible apply Keeps.back) | split

theorem State.callSilent_keeps {s0 : State} (s : State) (h : Keeps s0 s) :
    Keeps s0 (State.callSilent s) := by
  unfold State.callSilent
  repeat'
    first
      | with_reducible assumption | intro _ | with_reducible apply Keeps.ite | with_reducible apply State.setFld_keeps
      | with_reducible apply State.bump_keeps | with_reducible apply State.irq_keeps | with_reducible apply State.setCall_keeps
      | with_reducible apply State.setCb_keeps | dsimp only | (refine Keeps.of ?_; dsimp only; with_reducible apply Keeps.back)
      | split

theorem State.callBeacon_keeps {s0 : State} (s : State) (w : CallSeen) (l : List Byte) (h : Keeps s0 s) :
    Keeps s0 (State.callBeacon s w l) := by
  unfold State.callBeacon
  repeat'
    first
      | with_reducible assumption | intro _ | with_reducible apply Keeps.ite | with_reducible apply State.setFld_keeps
      | with_reducible apply State.bump_keeps | with_reducible apply State.irq_keeps | with_reducible apply State.when_keeps
      | with_reducible apply State.refEvent_keeps | with_reducible apply State.setCall_keeps
      | with_reducible apply State.setCb_keeps | dsimp only | (refine Keeps.of ?_; dsimp only; with_reducible apply Keeps.back)
      | split

theorem State.callClaim_keeps {s0 : State} (s : State) (src : Nat) (c : W32) (h : Keeps s0 s) :
    Keeps s0 (State.callClaim s src c) := by
  unfold State.callClaim
  repeat'
    first
      | with_reducible assumption | intro _ | with_reducible apply Keeps.ite | with_reducible apply State.hearClaim_keeps
      | with_reducible apply State.setCall_keeps | dsimp only
      | (refine Keeps.of ?_; dsimp only; with_reducible apply Keeps.back) | split

theorem State.callRing_keeps {s0 : State} (s : State) (w : CallSeen) (l : List Byte) (h : Keeps s0 s) :
    Keeps s0 (State.callRing s w l) := by
  unfold State.callRing
  repeat'
    first
      | with_reducible assumption | intro _ | with_reducible apply Keeps.ite | with_reducible apply State.setFld_keeps
      | with_reducible apply State.bump_keeps | with_reducible apply State.irq_keeps
      | with_reducible apply State.engineWrite_keeps | dsimp only | split

theorem State.callDeliver_keeps {s0 : State} (s : State) (w : CallSeen) (src : Nat) (c : W32) (l : List Byte) (h : Keeps s0 s) :
    Keeps s0 (State.callDeliver s w src c l) := by
  unfold State.callDeliver
  repeat'
    first
      | with_reducible assumption | intro _ | with_reducible apply Keeps.ite | with_reducible apply State.bump_keeps
      | with_reducible apply State.callRing_keeps | dsimp only | split

theorem State.callHear_keeps {s0 : State} (s : State) (start : Nat) (codeError : Bool) (l : List Byte) (h : Keeps s0 s) :
    Keeps s0 (State.callHear s start codeError l) := by
  unfold State.callHear
  repeat'
    first
      | with_reducible assumption | intro _ | with_reducible apply Keeps.ite | with_reducible apply State.bump_keeps
      | with_reducible apply State.callSettle_keeps | with_reducible apply State.callBeacon_keeps
      | with_reducible apply State.callClaim_keeps | with_reducible apply State.callDeliver_keeps | dsimp only
      | (refine Keeps.of ?_; dsimp only; with_reducible apply Keeps.back) | split

theorem State.callCollide_keeps {s0 : State} (s : State) (slot : Nat) (h : Keeps s0 s) :
    Keeps s0 (State.callCollide s slot) := by
  unfold State.callCollide
  repeat'
    first
      | with_reducible assumption | intro _ | with_reducible apply Keeps.ite | with_reducible apply State.setWord_keeps
      | with_reducible apply State.setFld_keeps | with_reducible apply State.setBit_keeps
      | with_reducible apply State.bump_keeps | with_reducible apply State.irq_keeps | with_reducible apply State.err_keeps
      | with_reducible apply State.setCall_keeps | with_reducible apply State.setCb_keeps | dsimp only
      | (refine Keeps.of ?_; dsimp only; with_reducible apply Keeps.back) | split

theorem State.cbrHook_keeps {s0 : State} (s pre : State) (a : Acc) (o : Nat) (old : W32) (h : Keeps s0 s) :
    Keeps s0 (State.cbrHook s pre a o old) := by
  unfold State.cbrHook
  repeat'
    first
      | with_reducible assumption | intro _ | with_reducible apply Keeps.ite | with_reducible apply State.setWord_keeps
      | with_reducible apply State.accErr_keeps | with_reducible apply State.sameArmed_keeps | dsimp only | split

theorem State.popBeacon_keeps {s0 : State} (s : State) (m : Nat) (h : Keeps s0 s) :
    Keeps s0 (State.popBeacon s m).1 := by
  unfold State.popBeacon
  repeat'
    first
      | with_reducible assumption | intro _ | with_reducible apply Keeps.ite | with_reducible apply State.setFld_keeps
      | with_reducible apply State.setMreg_keeps | with_reducible apply State.setCall_keeps | dsimp only
      | (refine Keeps.of ?_; dsimp only; with_reducible apply Keeps.back) | split

theorem execCallCycleStart_keeps {s0 : State} (edge : Fin 53) (s : State) (h : Keeps s0 s) :
    KeepsOut s0 (execCallCycleStart edge s) := by
  unfold execCallCycleStart
  repeat'
    first
      | with_reducible assumption | intro _ | with_reducible apply Keeps.ite | with_reducible apply KeepsOut.ite
      | with_reducible apply KeepsOut.fault | with_reducible apply KeepsOut.next | with_reducible apply run_keeps
      | with_reducible apply State.callSettle_keeps | with_reducible apply State.callCycle_keeps | dsimp only | split

theorem execCallSlotStart_keeps {s0 : State} (slot : Fin 40) (s : State) (h : Keeps s0 s) :
    KeepsOut s0 (execCallSlotStart slot s) := by
  unfold execCallSlotStart
  repeat'
    first
      | with_reducible assumption | intro _ | with_reducible apply Keeps.ite | with_reducible apply KeepsOut.ite
      | with_reducible apply KeepsOut.fault | with_reducible apply KeepsOut.next | with_reducible apply run_keeps
      | with_reducible apply State.callSettle_keeps | with_reducible apply State.callSlot_keeps | dsimp only
      | (refine Keeps.of ?_; dsimp only; with_reducible apply Keeps.back) | split

theorem execCallBeaconReceived_keeps {s0 : State} (start : Nat) (codeError : Bool) (frame : BeaconIn) (s : State) (h : Keeps s0 s) :
    KeepsOut s0 (execCallBeaconReceived start codeError frame s) := by
  unfold execCallBeaconReceived
  repeat'
    first
      | with_reducible assumption | intro _ | with_reducible apply Keeps.ite | with_reducible apply KeepsOut.ite
      | with_reducible apply KeepsOut.fault | with_reducible apply KeepsOut.next | with_reducible apply run_keeps
      | with_reducible apply State.viaRead_keeps | with_reducible apply State.callHear_keeps
      | with_reducible apply State.popBeacon_keeps | dsimp only
      | (refine Keeps.of ?_; dsimp only; with_reducible apply Keeps.back) | split
      | with_reducible refine Keeps.pair (by with_reducible assumption) ?_

theorem execCallFrameReceived_keeps {s0 : State} (start : Nat) (codeError : Bool) (bytes : List Byte) (s : State) (h : Keeps s0 s) :
    KeepsOut s0 (execCallFrameReceived start codeError bytes s) := by
  unfold execCallFrameReceived
  repeat'
    first
      | with_reducible assumption | intro _ | with_reducible apply Keeps.ite | with_reducible apply KeepsOut.ite
      | with_reducible apply KeepsOut.fault | with_reducible apply KeepsOut.next | with_reducible apply run_keeps
      | with_reducible apply State.callHear_keeps | dsimp only | split

theorem execCallSilentCycle_keeps {s0 : State} (s : State) (h : Keeps s0 s) :
    KeepsOut s0 (execCallSilentCycle s) := by
  unfold execCallSilentCycle
  repeat'
    first
      | with_reducible assumption | intro _ | with_reducible apply Keeps.ite | with_reducible apply KeepsOut.ite
      | with_reducible apply KeepsOut.fault | with_reducible apply KeepsOut.next | with_reducible apply run_keeps
      | with_reducible apply State.callSilent_keeps | dsimp only | split

theorem execCallCollision_keeps {s0 : State} (slot : Fin 40) (s : State) (h : Keeps s0 s) :
    KeepsOut s0 (execCallCollision slot s) := by
  unfold execCallCollision
  repeat'
    first
      | with_reducible assumption | intro _ | with_reducible apply Keeps.ite | with_reducible apply KeepsOut.ite
      | with_reducible apply KeepsOut.fault | with_reducible apply KeepsOut.next | with_reducible apply run_keeps
      | with_reducible apply State.callCollide_keeps | dsimp only | split

theorem execBeaconQueuePop_keeps {s0 : State} (a : Acc) (s : State) (h : Keeps s0 s) :
    KeepsOut s0 (execBeaconQueuePop a s) := by
  unfold execBeaconQueuePop
  repeat'
    first
      | with_reducible assumption | intro _ | with_reducible apply Keeps.ite | with_reducible apply KeepsOut.ite
      | with_reducible apply KeepsOut.fault | with_reducible apply KeepsOut.next | with_reducible apply run_keeps
      | with_reducible apply State.viaRead_keeps | with_reducible apply State.popBeacon_keeps | dsimp only | split
      | with_reducible refine Keeps.pair (by with_reducible assumption) ?_

end Sys2Proof.Machine
end

