-- ==== Sys2Proof/Laws/KeepLinks.lean ====
section
/-!
SUPPORT. The operations of Machine/Links.lean keep the queue and the invariant.
-/
set_option linter.unusedTactic false
set_option linter.unreachableTactic false
namespace Sys2Proof.Machine

theorem State.linksLost_keeps {s0 : State} (s : State) (n : Nat) (h : Keeps s0 s) :
    Keeps s0 (State.linksLost s n) := by
  unfold State.linksLost
  repeat'
    first
      | with_reducible assumption | intro _ | with_reducible apply Keeps.foldl | with_reducible apply Keeps.foldlFst
      | with_reducible apply Keeps.ite | with_reducible apply State.pcieDown_keeps | with_reducible apply State.linkDown_keeps
      | with_reducible apply State.twinDown_keeps | dsimp only | split

theorem execPllLockLoss_keeps {s0 : State} (n : Fin 26) (got : PllMeasure) (s : State) (h : Keeps s0 s) :
    KeepsOut s0 (execPllLockLoss n got s) := by
  unfold execPllLockLoss
  repeat'
    first
      | with_reducible assumption | intro _ | with_reducible apply Keeps.ite | with_reducible apply KeepsOut.ite
      | with_reducible apply KeepsOut.fault | with_reducible apply KeepsOut.next | with_reducible apply State.setWord_keeps
      | with_reducible apply State.err_keeps | with_reducible apply run_keeps | with_reducible apply State.pllLost_keeps
      | with_reducible apply State.linksLost_keeps | dsimp only | split

theorem execPllBypassDone_keeps {s0 : State} (n : Fin 26) (s : State) (h : Keeps s0 s) :
    KeepsOut s0 (execPllBypassDone n s) := by
  unfold execPllBypassDone
  repeat'
    first
      | with_reducible assumption | intro _ | with_reducible apply Keeps.ite | with_reducible apply KeepsOut.ite
      | with_reducible apply KeepsOut.fault | with_reducible apply KeepsOut.next | with_reducible apply run_keeps
      | with_reducible apply State.chLost_keeps | with_reducible apply State.pllBypassed_keeps | dsimp only | split

theorem execPllBypassReturn_keeps {s0 : State} (n : Fin 26) (s : State) (h : Keeps s0 s) :
    KeepsOut s0 (execPllBypassReturn n s) := by
  unfold execPllBypassReturn
  repeat'
    first
      | with_reducible assumption | intro _ | with_reducible apply Keeps.ite | with_reducible apply KeepsOut.ite
      | with_reducible apply KeepsOut.fault | with_reducible apply KeepsOut.next | with_reducible apply run_keeps
      | with_reducible apply State.chBack_keeps | with_reducible apply State.pllReturned_keeps | dsimp only | split

end Sys2Proof.Machine
end

