-- ==== Sys2Proof/Laws/KeepFlowTx.lean ====
section
/-!
SUPPORT. The operations of Machine/FlowTx.lean keep the queue and the invariant.
-/
set_option linter.unusedTactic false
set_option linter.unreachableTactic false
namespace Sys2Proof.Machine

theorem State.txBegin_keeps {s0 : State} (s : State) (tab : Store W32) (e F : Nat) (h : Keeps s0 s) :
    Keeps s0 (State.txBegin s tab e F) := by
  unfold State.txBegin
  repeat'
    first
      | with_reducible assumption | intro _ | with_reducible apply Keeps.ite | with_reducible apply State.bump_keeps
      | with_reducible apply State.irq_keeps | with_reducible apply State.when_keeps | with_reducible apply State.setTxe_keeps
      | dsimp only | (refine Keeps.of ?_; dsimp only; with_reducible apply Keeps.back) | split

theorem State.txFrameEnd_keeps {s0 : State} (s : State) (e : Nat) (pathB : Bool) (h : Keeps s0 s) :
    Keeps s0 (State.txFrameEnd s e pathB) := by
  unfold State.txFrameEnd
  repeat'
    first
      | with_reducible assumption | intro _ | with_reducible apply Keeps.ite | with_reducible apply State.setTxe_keeps
      | dsimp only | split

theorem State.txSend_keeps {s0 : State} (s : State) (e t : Nat) (pathB : Bool) (n : Nat) (data : List Byte) (row : Nat × Nat) (h : Keeps s0 s) :
    Keeps s0 (State.txSend s e t pathB n data row) := by
  unfold State.txSend
  repeat'
    first
      | with_reducible assumption | intro _ | with_reducible apply Keeps.ite | with_reducible apply State.bump_keeps
      | with_reducible apply State.irq_keeps | with_reducible apply State.when_keeps | with_reducible apply State.fresh_keeps
      | with_reducible apply State.setTxe_keeps | with_reducible apply State.depart_keeps
      | with_reducible apply State.txBegin_keeps | with_reducible apply State.txFrameEnd_keeps | dsimp only
      | (refine Keeps.of ?_; dsimp only; with_reducible apply Keeps.back) | split

theorem State.txPacket_keeps {s0 : State} (s : State) (e t : Nat) (pathB : Bool) (n : Nat) (data : List Byte) (h : Keeps s0 s) :
    Keeps s0 (State.txPacket s e t pathB n data) := by
  unfold State.txPacket
  repeat'
    first
      | with_reducible assumption | intro _ | with_reducible apply Keeps.ite | with_reducible apply State.setTxe_keeps
      | with_reducible apply State.txFrameEnd_keeps | with_reducible apply State.txSend_keeps | dsimp only
      | (refine Keeps.of ?_; dsimp only; with_reducible apply Keeps.back) | split

theorem State.fltLive_keeps {s0 : State} (s : State) (new : Store W32) (h : Keeps s0 s) :
    Keeps s0 (State.fltLive s new) := by
  unfold State.fltLive
  repeat'
    first
      | with_reducible assumption | intro _ | with_reducible apply Keeps.foldl | with_reducible apply Keeps.foldlFst
      | with_reducible apply Keeps.ite | with_reducible apply State.setTxe_keeps | dsimp only
      | (refine Keeps.of ?_; dsimp only; with_reducible apply Keeps.back) | split

theorem State.fltApply_keeps {s0 : State} (s : State) (h : Keeps s0 s) :
    Keeps s0 (State.fltApply s) := by
  unfold State.fltApply
  repeat'
    first
      | with_reducible assumption | intro _ | with_reducible apply Keeps.ite | with_reducible apply State.applySlot_keeps
      | with_reducible apply State.fltLive_keeps | dsimp only
      | (refine Keeps.of ?_; dsimp only; with_reducible apply Keeps.back) | split

theorem execFlowPacketTransmit_keeps {s0 : State} (e : Fin 8192) (pathB : Bool) (n : Nat) (payload : List Byte) (cue : Fin 16) (s : State) (h : Keeps s0 s) :
    KeepsOut s0 (execFlowPacketTransmit e pathB n payload cue s) := by
  unfold execFlowPacketTransmit
  repeat'
    first
      | with_reducible assumption | intro _ | with_reducible apply Keeps.ite | with_reducible apply KeepsOut.ite
      | with_reducible apply KeepsOut.fault | with_reducible apply KeepsOut.next | with_reducible apply run_keeps
      | with_reducible apply State.txPacket_keeps | dsimp only | split

theorem State.crewSend_keeps {s0 : State} (s : State) (P t : Nat) (h : Keeps s0 s) :
    Keeps s0 (State.crewSend s P t) := by
  unfold State.crewSend
  repeat'
    first
      | with_reducible assumption | intro _ | with_reducible apply Keeps.ite | with_reducible apply State.bump_keeps
      | with_reducible apply State.when_keeps | with_reducible apply State.err_keeps
      | with_reducible apply State.engineRead_keeps | with_reducible apply State.stat_keeps
      | with_reducible apply State.writeBack_keeps | with_reducible apply State.depart_keeps
      | with_reducible apply State.pushStamp_keeps | dsimp only
      | (refine Keeps.of ?_; dsimp only; with_reducible apply Keeps.back) | split
      | with_reducible refine Keeps.pair (by with_reducible assumption) ?_

theorem execCrewFrameTransmit_keeps {s0 : State} (port : Fin 16) (slot : CrewSlot) (s : State) (h : Keeps s0 s) :
    KeepsOut s0 (execCrewFrameTransmit port slot s) := by
  unfold execCrewFrameTransmit
  repeat'
    first
      | with_reducible assumption | intro _ | with_reducible apply Keeps.ite | with_reducible apply KeepsOut.ite
      | with_reducible apply KeepsOut.fault | with_reducible apply KeepsOut.next | with_reducible apply run_keeps
      | with_reducible apply State.viaRead_keeps | with_reducible apply State.popStamp_keeps
      | with_reducible apply State.crewSend_keeps | dsimp only
      | (refine Keeps.of ?_; dsimp only; with_reducible apply Keeps.back) | split
      | with_reducible refine Keeps.pair (by with_reducible assumption) ?_

end Sys2Proof.Machine
end

