-- ==== Sys2Proof/Laws/KeepChecks.lean ====
section
/-!
SUPPORT. The operations of Machine/Checks.lean keep the queue and the invariant.
-/
set_option linter.unusedTactic false
set_option linter.unreachableTactic false
namespace Sys2Proof.Machine

theorem State.wouldBe_keeps {s0 : State} (s : State) (pages : List (Nat × PageKind × Nat)) (h : Keeps s0 s) :
    Keeps s0 (State.wouldBe s pages) := by
  unfold State.wouldBe
  repeat'
    first
      | with_reducible assumption | intro _ | with_reducible apply Keeps.foldl | with_reducible apply Keeps.foldlFst
      | with_reducible apply Keeps.ite | with_reducible apply State.setLword_keeps | dsimp only
      | (refine Keeps.of ?_; dsimp only; with_reducible apply Keeps.back) | split

end Sys2Proof.Machine
end

