-- ==== Sys2Proof/Laws/KeepCommit.lean ====
section
/-!
SUPPORT. The operations of Machine/Commit.lean keep the queue and the invariant.
-/
set_option linter.unusedTactic false
set_option linter.unreachableTactic false
namespace Sys2Proof.Machine

theorem State.showNeed_keeps {s0 : State} (s w : State) (k : PageKind) (i : Nat) (h : Keeps s0 s) :
    Keeps s0 (State.showNeed s w k i) := by
  unfold State.showNeed
  repeat'
    first
      | with_reducible assumption | intro _ | with_reducible apply Keeps.ite | with_reducible apply State.setFld_keeps
      | with_reducible apply State.when_keeps | dsimp only | (refine Keeps.of ?_; dsimp only; with_reducible apply Keeps.back)
      | split

theorem State.pairApply_keeps {s0 : State} (s : State) (h : Keeps s0 s) :
    Keeps s0 (State.pairApply s) := by
  unfold State.pairApply
  repeat'
    first
      | with_reducible assumption | intro _ | with_reducible apply Keeps.ite | with_reducible apply State.applySlot_keeps
      | with_reducible apply State.setPair_keeps | with_reducible apply State.setClaim_keeps
      | with_reducible apply State.setRole_keeps | with_reducible apply State.becomeForming_keeps | dsimp only
      | (refine Keeps.of ?_; dsimp only; with_reducible apply Keeps.back) | split

theorem State.clkApply_keeps {s0 : State} (s : State) (h : Keeps s0 s) :
    Keeps s0 (State.clkApply s) := by
  unfold State.clkApply
  repeat'
    first
      | with_reducible assumption | intro _ | with_reducible apply Keeps.ite | with_reducible apply State.applySlot_keeps
      | with_reducible apply State.fixedWords_keeps | with_reducible apply State.synthSteer_keeps | dsimp only | split

theorem State.applyAtOnce_keeps {s0 : State} (s : State) (p : Nat) (k : PageKind) (i : Nat) (h : Keeps s0 s) :
    Keeps s0 (State.applyAtOnce s p k i) := by
  unfold State.applyAtOnce
  repeat'
    first
      | with_reducible assumption | intro _ | with_reducible apply Keeps.foldl | with_reducible apply Keeps.foldlFst
      | with_reducible apply Keeps.ite | with_reducible apply State.applySlot_keeps
      | with_reducible apply State.ptApplyIdle_keeps | with_reducible apply State.poolApply_keeps
      | with_reducible apply State.defrApply_keeps | with_reducible apply State.rxEqLive_keeps
      | with_reducible apply State.txEqLive_keeps | with_reducible apply State.synApply_keeps
      | with_reducible apply State.tapApply_keeps | with_reducible apply State.proApplyOff_keeps
      | with_reducible apply State.ethApply_keeps | with_reducible apply State.callApply_keeps
      | with_reducible apply State.pairApply_keeps | with_reducible apply State.clkApply_keeps | dsimp only
      | (refine Keeps.of ?_; dsimp only; with_reducible apply Keeps.back) | split

theorem State.takeTables_keeps {s0 : State} (s : State) (k : PageKind) (i : Nat) (h : Keeps s0 s) :
    Keeps s0 (State.takeTables s k i) := by
  unfold State.takeTables
  repeat'
    first
      | with_reducible assumption | intro _ | with_reducible apply Keeps.ite | with_reducible apply State.setFld_keeps
      | dsimp only | (refine Keeps.of ?_; dsimp only; with_reducible apply Keeps.back) | split

theorem State.acceptPage_keeps {s0 : State} (s : State) (p : Nat) (k : PageKind) (i start : Nat) (h : Keeps s0 s) :
    Keeps s0 (State.acceptPage s p k i start) := by
  unfold State.acceptPage
  repeat'
    first
      | with_reducible assumption | intro _ | with_reducible apply Keeps.ite | with_reducible apply State.accept_keeps
      | with_reducible apply State.applyAtOnce_keeps | with_reducible apply State.takeTables_keeps | dsimp only
      | (refine Keeps.of ?_; dsimp only; with_reducible apply Keeps.back)

theorem State.commitAborts_keeps {s0 : State} (s : State) (k : PageKind) (i : Nat) (h : Keeps s0 s) :
    Keeps s0 (State.commitAborts s k i) := by
  unfold State.commitAborts
  repeat'
    first
      | with_reducible assumption | intro _ | with_reducible apply Keeps.foldl | with_reducible apply Keeps.foldlFst
      | with_reducible apply Keeps.ite | with_reducible apply State.rxAbort_keeps | with_reducible apply State.txAbort_keeps
      | with_reducible apply State.rotPageAbort_keeps | dsimp only
      | (refine Keeps.of ?_; dsimp only; with_reducible apply Keeps.back) | split

theorem State.commitPage_keeps {s0 : State} (s : State) (p : Nat) (k : PageKind) (i : Nat) (h : Keeps s0 s) :
    Keeps s0 (State.commitPage s p k i) := by
  unfold State.commitPage
  repeat'
    first
      | with_reducible assumption | intro _ | with_reducible apply Keeps.ite | with_reducible apply State.journal_keeps
      | with_reducible apply State.refuseCommit_keeps | with_reducible apply State.wouldBe_keeps
      | with_reducible apply State.showNeed_keeps | with_reducible apply State.acceptPage_keeps
      | with_reducible apply State.commitAborts_keeps | dsimp only | split

theorem State.acceptAll_keeps {s0 : State} (s : State) (l : List (Nat × PageKind × Nat)) (start : Option Nat) (h : Keeps s0 s) :
    Keeps s0 (State.acceptAll s l start) := by
  unfold State.acceptAll
  repeat'
    first
      | with_reducible assumption | intro _ | with_reducible apply Keeps.foldl | with_reducible apply Keeps.foldlFst
      | with_reducible apply Keeps.ite | with_reducible apply State.acceptPage_keeps | dsimp only
      | (refine Keeps.of ?_; dsimp only; with_reducible apply Keeps.back)

theorem State.commitDevice_keeps {s0 : State} (s : State) (h : Keeps s0 s) :
    Keeps s0 (State.commitDevice s) := by
  unfold State.commitDevice
  repeat'
    first
      | with_reducible assumption | intro _ | with_reducible apply Keeps.foldl | with_reducible apply Keeps.foldlFst
      | with_reducible apply Keeps.ite | with_reducible apply State.setFld_keeps | with_reducible apply State.setBit_keeps
      | with_reducible apply State.journal_keeps | with_reducible apply State.refuseCommit_keeps
      | with_reducible apply State.wouldBe_keeps | with_reducible apply State.showNeed_keeps
      | with_reducible apply State.commitAborts_keeps | with_reducible apply State.acceptAll_keeps | dsimp only
      | (refine Keeps.of ?_; dsimp only; with_reducible apply Keeps.back) | split

theorem State.commitShow_keeps {s0 : State} (s : State) (h : Keeps s0 s) :
    Keeps s0 (State.commitShow s) := by
  unfold State.commitShow
  repeat'
    first
      | with_reducible assumption | intro _ | with_reducible apply Keeps.ite | with_reducible apply State.setFld_keeps
      | dsimp only | split

theorem State.applyInstant_keeps {s0 : State} (s : State) (p : Nat) (k : PageKind) (i slot : Nat) (h : Keeps s0 s) :
    Keeps s0 (State.applyInstant s p k i slot) := by
  unfold State.applyInstant
  repeat'
    first
      | with_reducible assumption | intro _ | with_reducible apply Keeps.ite | with_reducible apply State.applySlot_keeps
      | with_reducible apply State.ptApply_keeps | with_reducible apply State.ptApplyIdle_keeps
      | with_reducible apply State.pitWinApply_keeps | with_reducible apply State.pitCtlApply_keeps
      | with_reducible apply State.synApply_keeps | with_reducible apply State.tapApply_keeps
      | with_reducible apply State.proApply_keeps | with_reducible apply State.proApplyOff_keeps
      | with_reducible apply State.refApply_keeps | with_reducible apply State.tdmApply_keeps
      | with_reducible apply State.flrApply_keeps | with_reducible apply State.callApply_keeps
      | with_reducible apply State.fltApply_keeps | with_reducible apply State.pairApply_keeps
      | with_reducible apply State.applyAtOnce_keeps | dsimp only
      | (refine Keeps.of ?_; dsimp only; with_reducible apply Keeps.back) | split

theorem onPage_keeps {s0 : State} (page : Nat) (s : State) (f : Nat → PageKind → Nat → State → State) (h : Keeps s0 s) (hf : ∀ p k i x, Keeps s0 x → Keeps s0 (f p k i x)) :
    KeepsOut s0 (onPage page s f) := by
  unfold onPage
  repeat'
    first
      | with_reducible assumption | intro _ | with_reducible apply hf | with_reducible apply Keeps.ite
      | with_reducible apply KeepsOut.ite | with_reducible apply KeepsOut.fault | with_reducible apply KeepsOut.next
      | with_reducible apply runRails_keeps | dsimp only | (refine Keeps.of ?_; dsimp only; with_reducible apply Keeps.back)
      | split

theorem State.commitHook_keeps {s0 : State} (s : State) (p : Nat) (k : PageKind) (i : Nat) (eff : W32) (h : Keeps s0 s) :
    Keeps s0 (State.commitHook s p k i eff) := by
  unfold State.commitHook
  repeat'
    first
      | with_reducible assumption | intro _ | with_reducible apply Keeps.ite | with_reducible apply State.commitPage_keeps
      | dsimp only | split

theorem execPageCommit_keeps {s0 : State} (a : Acc) (page : Nat) (s : State) (h : Keeps s0 s) :
    KeepsOut s0 (execPageCommit a page s) := by
  unfold execPageCommit
  repeat'
    first
      | with_reducible assumption | intro _ | with_reducible apply Keeps.ite | with_reducible apply KeepsOut.ite
      | with_reducible apply KeepsOut.fault | with_reducible apply KeepsOut.next | with_reducible apply State.storeWord_keeps
      | with_reducible apply State.viaPath_keeps | with_reducible apply onPage_keeps
      | with_reducible apply State.commitHook_keeps | dsimp only | split

theorem execDeviceCommit_keeps {s0 : State} (a : Acc) (s : State) (h : Keeps s0 s) :
    KeepsOut s0 (execDeviceCommit a s) := by
  unfold execDeviceCommit
  repeat'
    first
      | with_reducible assumption | intro _ | with_reducible apply Keeps.ite | with_reducible apply KeepsOut.ite
      | with_reducible apply KeepsOut.fault | with_reducible apply KeepsOut.next | with_reducible apply State.storeWord_keeps
      | with_reducible apply State.viaPath_keeps | with_reducible apply runRails_keeps
      | with_reducible apply State.commitDevice_keeps | dsimp only | split

theorem execCommitApply_keeps {s0 : State} (page slot : Nat) (s : State) (h : Keeps s0 s) :
    KeepsOut s0 (execCommitApply page slot s) := by
  unfold execCommitApply
  repeat'
    first
      | with_reducible assumption | intro _ | with_reducible apply Keeps.ite | with_reducible apply KeepsOut.ite
      | with_reducible apply KeepsOut.fault | with_reducible apply KeepsOut.next | with_reducible apply State.commitShow_keeps
      | with_reducible apply State.applyInstant_keeps | with_reducible apply onPage_keeps | dsimp only | split

end Sys2Proof.Machine
end

