-- ==== Sys2Proof/Laws/KeepBoot.lean ====
section
/-!
SUPPORT. The operations of Machine/Boot.lean keep the queue and the invariant.
-/
set_option linter.unusedTactic false
set_option linter.unreachableTactic false
namespace Sys2Proof.Machine

theorem State.coldStart_keeps {s0 : State} (s : State) (h : Keeps s0 s) : Keeps s0 (State.coldStart s) := by
  unfold State.coldStart
  exact State.setBit_keeps _ _ _ _ _ (State.setFld_keeps _ _ _ _ _ (h.sound rfl fun i =>
    { i with regs := Store.wf_nil _, live := Store.wf_nil _, mregs := Store.wf_nil _, dram := Store.wf_nil _,
             crew := Store.wf_nil _, second := show 0 < cueSec by decide, replay := Nat.zero_le _, results := Nat.zero_le _,
             sheet := Nat.zero_le _ }))

theorem State.bootWrite_keeps {s0 : State} (s : State) (a : Acc) (o : Nat) (w : W32) (h : Keeps s0 s) :
    Keeps s0 (State.bootWrite s a o w) := by
  unfold State.bootWrite
  repeat'
    first
      | with_reducible assumption | intro _ | with_reducible apply Keeps.ite | with_reducible apply State.storeWord_keeps
      | with_reducible apply State.coldStart_keeps | dsimp only | split

theorem State.bootRun_keeps {s0 : State} (s : State) (n : Nat) (h : Keeps s0 s) :
    Keeps s0 (State.bootRun s n) := by
  unfold State.bootRun
  repeat'
    first
      | with_reducible assumption | intro _ | with_reducible apply Keeps.ite | dsimp only
      | (refine Keeps.of ?_; dsimp only; with_reducible apply Keeps.back)
      | (refine Keeps.of ?_; dsimp only; with_reducible apply Keeps.todPut)

theorem State.newNonce_keeps {s0 : State} (s : State) (h : Keeps s0 s) :
    Keeps s0 (State.newNonce s) := by
  unfold State.newNonce
  repeat'
    first
      | with_reducible assumption | intro _ | with_reducible apply Keeps.ite | with_reducible apply State.setFld64_keeps
      | with_reducible apply State.fresh_keeps | dsimp only

theorem State.bootFuses_keeps {s0 : State} (s : State) (h : Keeps s0 s) :
    Keeps s0 (State.bootFuses s) := by
  unfold State.bootFuses
  repeat'
    first
      | with_reducible assumption | intro _ | with_reducible apply Keeps.foldl | with_reducible apply Keeps.foldlFst
      | with_reducible apply Keeps.ite | with_reducible apply State.setFld_keeps | with_reducible apply State.setBit_keeps
      | with_reducible apply State.err_keeps | with_reducible apply State.newNonce_keeps | dsimp only
      | (refine Keeps.of ?_; dsimp only; with_reducible apply Keeps.back) | split

theorem State.bootLock_keeps {s0 : State} (s : State) (n : Nat) (h : Keeps s0 s) :
    Keeps s0 (State.bootLock s n) := by
  unfold State.bootLock
  repeat'
    first
      | with_reducible assumption | intro _ | with_reducible apply Keeps.ite | with_reducible apply State.pllLocked_keeps
      | with_reducible apply State.pllReturned_keeps | dsimp only

theorem State.bootPlls_keeps {s0 : State} (s : State) (ticks : Nat) (h : Keeps s0 s) :
    Keeps s0 (State.bootPlls s ticks) := by
  unfold State.bootPlls
  repeat'
    first
      | with_reducible assumption | intro _ | with_reducible apply Keeps.foldl | with_reducible apply Keeps.foldlFst
      | with_reducible apply Keeps.ite | with_reducible apply State.fixedWords_keeps
      | with_reducible apply State.synthSteer_keeps | with_reducible apply State.bootRun_keeps
      | with_reducible apply State.bootLock_keeps | dsimp only

theorem State.bootSwing_keeps {s0 : State} (s : State) (c unit : Nat) (h : Keeps s0 s) :
    Keeps s0 (State.bootSwing s c unit) := by
  unfold State.bootSwing
  repeat'
    first
      | with_reducible assumption | intro _ | with_reducible apply Keeps.ite | with_reducible apply State.when_keeps
      | with_reducible apply State.showSwing_keeps | with_reducible apply State.showClass_keeps
      | with_reducible apply State.putRot_keeps | with_reducible apply State.swingGone_keeps | dsimp only
      | (refine Keeps.of ?_; dsimp only; with_reducible apply Keeps.back) | split

theorem State.bootWire_keeps {s0 : State} (s : State) (tile dir g : Nat) (h : Keeps s0 s) :
    Keeps s0 (State.bootWire s tile dir g) := by
  unfold State.bootWire
  repeat'
    first
      | with_reducible assumption | intro _ | with_reducible apply Keeps.ite | with_reducible apply State.setFld_keeps
      | dsimp only | (refine Keeps.of ?_; dsimp only; with_reducible apply Keeps.back)

theorem State.bootRecord_keeps {s0 : State} (s : State) (r : WearRec) (h : Keeps s0 s) :
    Keeps s0 (State.bootRecord s r) := by
  unfold State.bootRecord
  repeat'
    first
      | with_reducible assumption | intro _ | with_reducible apply Keeps.ite | with_reducible apply State.setFld_keeps
      | with_reducible apply State.bump_keeps | with_reducible apply State.bootSwing_keeps
      | with_reducible apply State.bootWire_keeps | dsimp only
      | (refine Keeps.of ?_; dsimp only; with_reducible apply Keeps.back) | split

theorem State.bootRepairs_keeps {s0 : State} (s : State) (b : BootIn) (h : Keeps s0 s) :
    Keeps s0 (State.bootRepairs s b) := by
  unfold State.bootRepairs
  repeat'
    first
      | with_reducible assumption | intro _ | with_reducible apply Keeps.foldl | with_reducible apply Keeps.foldlFst
      | with_reducible apply Keeps.ite | with_reducible apply State.setWord_keeps | with_reducible apply State.setLword_keeps
      | with_reducible apply State.setFld_keeps | with_reducible apply State.setBit_keeps | with_reducible apply State.err_keeps
      | with_reducible apply State.calAll_keeps | with_reducible apply State.bootRecord_keeps | dsimp only | split

theorem State.trainDev_keeps {s0 : State} (s : State) (b : BootIn) (n d : Nat) (h : Keeps s0 s) :
    Keeps s0 (State.trainDev s b n d) := by
  unfold State.trainDev
  repeat'
    first
      | with_reducible assumption | intro _ | with_reducible apply Keeps.ite | with_reducible apply State.setFld_keeps
      | with_reducible apply State.irq_keeps | with_reducible apply State.err_keeps | dsimp only | split

theorem State.trainChannel_keeps {s0 : State} (s : State) (b : BootIn) (n : Nat) (h : Keeps s0 s) :
    Keeps s0 (State.trainChannel s b n) := by
  unfold State.trainChannel
  repeat'
    first
      | with_reducible assumption | intro _ | with_reducible apply Keeps.foldl | with_reducible apply Keeps.foldlFst
      | with_reducible apply Keeps.ite | with_reducible apply State.setFld_keeps | with_reducible apply State.setBit_keeps
      | with_reducible apply State.irq_keeps | with_reducible apply State.logRepair_keeps
      | with_reducible apply State.setCh_keeps | with_reducible apply State.setChUp_keeps
      | with_reducible apply State.trainDev_keeps | dsimp only
      | (refine Keeps.of ?_; dsimp only; with_reducible apply Keeps.back) | split

theorem State.bootTrain_keeps {s0 : State} (s : State) (b : BootIn) (h : Keeps s0 s) :
    Keeps s0 (State.bootTrain s b) := by
  unfold State.bootTrain
  repeat'
    first
      | with_reducible assumption | intro _ | with_reducible apply Keeps.foldl | with_reducible apply Keeps.foldlFst
      | with_reducible apply Keeps.ite | with_reducible apply State.setBit_keeps | with_reducible apply State.setFld64_keeps
      | with_reducible apply State.trainChannel_keeps | dsimp only | split

theorem State.bootHard_keeps {s0 : State} (s : State) (b : BootIn) (h : Keeps s0 s) :
    Keeps s0 (State.bootHard s b) := by
  unfold State.bootHard
  repeat'
    first
      | with_reducible assumption | intro _ | with_reducible apply Keeps.foldl | with_reducible apply Keeps.foldlFst
      | with_reducible apply Keeps.ite | with_reducible apply State.bump_keeps | with_reducible apply State.err_keeps
      | with_reducible apply State.logRepair_keeps | dsimp only | split

theorem State.bootFilled_keeps {s0 : State} (s : State) (h : Keeps s0 s) :
    Keeps s0 (State.bootFilled s) := by
  unfold State.bootFilled
  repeat'
    first
      | with_reducible assumption | intro _ | with_reducible apply Keeps.ite | with_reducible apply State.fatalClear_keeps
      | dsimp only | (refine Keeps.of ?_; dsimp only; with_reducible apply Keeps.back) | split

theorem State.trySlots_keeps {s0 : State} (s : State) (k : Nat) (x0 : List Nat) (h : Keeps s0 s) :
    Keeps s0 (State.trySlots s k x0).1 := by
  induction x0 generalizing s with
  | nil =>
    unfold State.trySlots
    repeat'
      first
        | with_reducible assumption | intro _  | with_reducible apply Keeps.ite
        | with_reducible apply State.err_keeps | with_reducible apply State.setSlot_keeps | dsimp only
        | (refine Keeps.of ?_; dsimp only; with_reducible apply Keeps.back) | split
        | with_reducible refine Keeps.pair (by with_reducible assumption) ?_
  | cons a t ih =>
    unfold State.trySlots
    repeat'
      first
        | with_reducible assumption | intro _ | with_reducible apply ih | with_reducible apply Keeps.ite
        | with_reducible apply State.err_keeps | with_reducible apply State.setSlot_keeps | dsimp only
        | (refine Keeps.of ?_; dsimp only; with_reducible apply Keeps.back) | split
        | with_reducible refine Keeps.pair (by with_reducible assumption) ?_

theorem State.bootClass_keeps {s0 : State} (s : State) (k : Nat) (h : Keeps s0 s) :
    Keeps s0 (State.bootClass s k).1 := by
  unfold State.bootClass
  repeat'
    first
      | with_reducible assumption | intro _ | with_reducible apply Keeps.foldl | with_reducible apply Keeps.foldlFst
      | with_reducible apply Keeps.ite | with_reducible apply State.setSlot_keeps | with_reducible apply State.setRun_keeps
      | with_reducible apply State.trySlots_keeps | dsimp only
      | (refine Keeps.of ?_; dsimp only; with_reducible apply Keeps.back) | split
      | with_reducible refine Keeps.pair (by with_reducible assumption) ?_

theorem State.fwFatal_keeps {s0 : State} (s : State) (h : Keeps s0 s) :
    Keeps s0 (State.fwFatal s) := by
  unfold State.fwFatal
  repeat'
    first
      | with_reducible assumption | intro _ | with_reducible apply Keeps.ite | with_reducible apply State.setBit_keeps
      | with_reducible apply State.irq_keeps | with_reducible apply State.err_keeps | dsimp only | split

theorem State.boardPage_keeps {s0 : State} (s : State) (p : Nat) (h : Keeps s0 s) :
    Keeps s0 (State.boardPage s p) := by
  unfold State.boardPage
  repeat'
    first
      | with_reducible assumption | intro _ | with_reducible apply Keeps.ite | with_reducible apply State.setWord_keeps
      | with_reducible apply State.commitPage_keeps | dsimp only
      | (refine Keeps.of ?_; dsimp only; with_reducible apply Keeps.back) | split

theorem State.boardWord_keeps {s0 : State} (s : State) (e : Nat × W32) (h : Keeps s0 s) :
    Keeps s0 (State.boardWord s e) := by
  unfold State.boardWord
  repeat'
    first
      | with_reducible assumption | intro _ | with_reducible apply Keeps.ite | with_reducible apply State.storeWord_keeps
      | dsimp only | (refine Keeps.of ?_; dsimp only; with_reducible apply Keeps.back) | split

theorem State.bootBoard_keeps {s0 : State} (s : State) (b : BootIn) (h : Keeps s0 s) :
    Keeps s0 (State.bootBoard s b) := by
  unfold State.bootBoard
  repeat'
    first
      | with_reducible assumption | intro _ | with_reducible apply Keeps.foldl | with_reducible apply Keeps.foldlFst
      | with_reducible apply Keeps.ite | with_reducible apply State.setBit_keeps | with_reducible apply State.boardPage_keeps
      | with_reducible apply State.boardWord_keeps | dsimp only | split

theorem State.eraseSettings_keeps {s0 : State} (s : State) (h : Keeps s0 s) :
    Keeps s0 (State.eraseSettings s) := by
  unfold State.eraseSettings
  repeat'
    first
      | with_reducible assumption | intro _ | with_reducible apply Keeps.ite | with_reducible apply State.setBank_keeps
      | dsimp only | (refine Keeps.of ?_; dsimp only; with_reducible apply Keeps.back)
      | (refine Keeps.of ?_; dsimp only; with_reducible apply Keeps.erased)
      | (refine Keeps.of ?_; dsimp only; with_reducible apply Keeps.flashed)

theorem State.bootManager_keeps {s0 : State} (s : State) (b : BootIn) (h : Keeps s0 s) :
    Keeps s0 (State.bootManager s b) := by
  unfold State.bootManager
  repeat'
    first
      | with_reducible assumption | intro _ | with_reducible apply Keeps.ite | with_reducible apply State.setFld_keeps
      | with_reducible apply State.setBit_keeps | with_reducible apply State.setFld64_keeps
      | with_reducible apply State.fresh_keeps | with_reducible apply State.err_keeps | with_reducible apply State.crewSet_keeps
      | with_reducible apply State.bootRun_keeps | with_reducible apply State.bootClass_keeps
      | with_reducible apply State.fwFatal_keeps | with_reducible apply State.bootBoard_keeps
      | with_reducible apply State.eraseSettings_keeps | dsimp only
      | (refine Keeps.of ?_; dsimp only; with_reducible apply Keeps.back) | split
      | with_reducible refine Keeps.pair (by with_reducible assumption) ?_

theorem State.bootUp_keeps {s0 : State} (s : State) (b : BootIn) (h : Keeps s0 s) :
    Keeps s0 (State.bootUp s b) := by
  unfold State.bootUp
  repeat'
    first
      | with_reducible assumption | intro _ | with_reducible apply Keeps.ite | with_reducible apply State.logTod_keeps
      | with_reducible apply State.bootRun_keeps | with_reducible apply State.bootFuses_keeps
      | with_reducible apply State.bootPlls_keeps | with_reducible apply State.bootRepairs_keeps
      | with_reducible apply State.bootTrain_keeps | with_reducible apply State.bootHard_keeps
      | with_reducible apply State.bootFilled_keeps | with_reducible apply State.bootManager_keeps | dsimp only
      | (refine Keeps.of ?_; dsimp only; with_reducible apply Keeps.back)

theorem State.lcyRefuse_keeps {s0 : State} (s : State) (r : Nat) (h : Keeps s0 s) :
    Keeps s0 (State.lcyRefuse s r) := by
  unfold State.lcyRefuse
  repeat'
    first
      | with_reducible assumption | intro _ | with_reducible apply Keeps.ite | with_reducible apply State.setFld_keeps
      | with_reducible apply State.err_keeps | with_reducible apply State.newNonce_keeps | dsimp only

theorem State.lcyMove_keeps {s0 : State} (s : State) (tgt steps : Nat) (hash : Option (List Byte)) (h : Keeps s0 s) :
    Keeps s0 (State.lcyMove s tgt steps hash) := by
  unfold State.lcyMove
  repeat'
    first
      | with_reducible assumption | intro _ | with_reducible apply Keeps.ite | with_reducible apply State.setFld_keeps
      | with_reducible apply State.setBit_keeps | with_reducible apply State.coldStart_keeps
      | with_reducible apply State.newNonce_keeps | with_reducible apply State.eraseSettings_keeps | dsimp only
      | (refine Keeps.of ?_; dsimp only; with_reducible apply Keeps.back) | split

theorem State.lifecycle_keeps {s0 : State} (s : State) (block steps : Nat) (h : Keeps s0 s) :
    Keeps s0 (State.lifecycle s block steps) := by
  unfold State.lifecycle
  repeat'
    first
      | with_reducible assumption | intro _ | with_reducible apply Keeps.ite | with_reducible apply State.lcyRefuse_keeps
      | with_reducible apply State.lcyMove_keeps | dsimp only | split

theorem State.lcyWrite_keeps {s0 : State} (s : State) (a : Acc) (o : Nat) (w : W32) (h : Keeps s0 s) :
    Keeps s0 (State.lcyWrite s a o w) := by
  unfold State.lcyWrite
  repeat'
    first
      | with_reducible assumption | intro _ | with_reducible apply Keeps.ite | with_reducible apply State.storeWord_keeps
      | with_reducible apply State.lcyRefuse_keeps | with_reducible apply State.lcyMove_keeps | dsimp only
      | (refine Keeps.of ?_; dsimp only; with_reducible apply Keeps.back) | split

theorem execResetAssert_keeps {s0 : State} (s : State) (h : Keeps s0 s) :
    KeepsOut s0 (execResetAssert s) := by
  unfold execResetAssert
  repeat'
    first
      | with_reducible assumption | intro _ | with_reducible apply Keeps.ite | with_reducible apply KeepsOut.ite
      | with_reducible apply KeepsOut.fault | with_reducible apply KeepsOut.next | with_reducible apply State.coldStart_keeps
      | dsimp only | split

theorem execOsc54Loss_keeps {s0 : State} (s : State) (h : Keeps s0 s) :
    KeepsOut s0 (execOsc54Loss s) := by
  unfold execOsc54Loss
  repeat'
    first
      | with_reducible assumption | intro _ | with_reducible apply Keeps.ite | with_reducible apply KeepsOut.ite
      | with_reducible apply KeepsOut.fault | with_reducible apply KeepsOut.next | with_reducible apply State.coldStart_keeps
      | dsimp only | split

theorem execResetRise_keeps {s0 : State} (b : BootIn) (s : State) (h : Keeps s0 s) :
    KeepsOut s0 (execResetRise b s) := by
  unfold execResetRise
  repeat'
    first
      | with_reducible assumption | intro _ | with_reducible apply Keeps.ite | with_reducible apply KeepsOut.ite
      | with_reducible apply KeepsOut.fault | with_reducible apply KeepsOut.next | with_reducible apply State.coldStart_keeps
      | with_reducible apply State.bootUp_keeps | dsimp only | split

theorem execDeviceResetWrite_keeps {s0 : State} (a : Acc) (word : W32) (s : State) (h : Keeps s0 s) :
    KeepsOut s0 (execDeviceResetWrite a word s) := by
  unfold execDeviceResetWrite
  repeat'
    first
      | with_reducible assumption | intro _ | with_reducible apply Keeps.ite | with_reducible apply KeepsOut.ite
      | with_reducible apply KeepsOut.fault | with_reducible apply KeepsOut.next | with_reducible apply run_keeps
      | with_reducible apply State.viaPath_keeps | with_reducible apply State.bootWrite_keeps | dsimp only | split

theorem execLifecycleRequest_keeps {s0 : State} (src : CmdSrc) (page : Nat) (steps : Fin 5) (s : State) (h : Keeps s0 s) :
    KeepsOut s0 (execLifecycleRequest src page steps s) := by
  unfold execLifecycleRequest
  repeat'
    first
      | with_reducible assumption | intro _ | with_reducible apply Keeps.ite | with_reducible apply KeepsOut.ite
      | with_reducible apply KeepsOut.fault | with_reducible apply KeepsOut.next | with_reducible apply run_keeps
      | with_reducible apply State.command_keeps | with_reducible apply State.lifecycle_keeps | dsimp only | split

theorem execUnknownCommand_keeps {s0 : State} (src : CmdSrc) (code : Fin 256) (page : Nat) (s : State) (h : Keeps s0 s) :
    KeepsOut s0 (execUnknownCommand src code page s) := by
  unfold execUnknownCommand
  repeat'
    first
      | with_reducible assumption | intro _ | with_reducible apply Keeps.ite | with_reducible apply KeepsOut.ite
      | with_reducible apply KeepsOut.fault | with_reducible apply KeepsOut.next | with_reducible apply State.setFld_keeps
      | with_reducible apply run_keeps | with_reducible apply State.command_keeps | dsimp only | split

end Sys2Proof.Machine
end

