-- ==== Sys2Proof/Laws/KeepPageOps.lean ====
section
/-!
SUPPORT. The operations of Machine/PageOps.lean keep the queue and the invariant.
-/
set_option linter.unusedTactic false
set_option linter.unreachableTactic false
namespace Sys2Proof.Machine

theorem State.settlePage_keeps {s0 : State} (s : State) (k : PageKind) (i : Nat) (h : Keeps s0 s) :
    Keeps s0 (State.settlePage s k i) := by
  unfold State.settlePage
  repeat'
    first
      | with_reducible assumption | intro _ | with_reducible apply Keeps.ite | with_reducible apply State.rxSettle_keeps
      | with_reducible apply State.txSettle_keeps | dsimp only
      | (refine Keeps.of ?_; dsimp only; with_reducible apply Keeps.back) | split

theorem State.pageSnap_keeps {s0 : State} (s : State) (p : Nat) (k : PageKind) (i : Nat) (merged : Bool) (h : Keeps s0 s) :
    Keeps s0 (State.pageSnap s p k i merged) := by
  unfold State.pageSnap
  repeat'
    first
      | with_reducible assumption | intro _ | with_reducible apply Keeps.ite | with_reducible apply State.snapshot_keeps
      | with_reducible apply State.settlePage_keeps | dsimp only | split

theorem State.clearCounters_keeps {s0 : State} (s : State) (p : Nat) (k : PageKind) (h : Keeps s0 s) :
    Keeps s0 (State.clearCounters s p k) := by
  unfold State.clearCounters
  repeat'
    first
      | with_reducible assumption | intro _ | with_reducible apply Keeps.foldl | with_reducible apply Keeps.foldlFst
      | with_reducible apply Keeps.ite | with_reducible apply State.setWord_keeps | dsimp only

theorem State.platReset_keeps {s0 : State} (s : State) (r : Nat) (h : Keeps s0 s) :
    Keeps s0 (State.platReset s r) := by
  unfold State.platReset
  repeat'
    first
      | with_reducible assumption | intro _ | with_reducible apply Keeps.ite | with_reducible apply State.setPt_keeps
      | with_reducible apply State.setPst_keeps | dsimp only | split

theorem State.synReset_keeps {s0 : State} (s : State) (k : Nat) (h : Keeps s0 s) :
    Keeps s0 (State.synReset s k) := by
  unfold State.synReset
  repeat'
    first
      | with_reducible assumption | intro _ | with_reducible apply Keeps.ite | with_reducible apply State.synStart_keeps
      | dsimp only | split

theorem State.ttReset_keeps {s0 : State} (s : State) (h : Keeps s0 s) :
    Keeps s0 (State.ttReset s) := by
  unfold State.ttReset
  repeat'
    first
      | with_reducible assumption | intro _ | with_reducible apply Keeps.foldl | with_reducible apply Keeps.foldlFst
      | with_reducible apply Keeps.ite | with_reducible apply State.setFld_keeps | with_reducible apply State.setGp_keeps
      | dsimp only | (refine Keeps.of ?_; dsimp only; with_reducible apply Keeps.back)
      | (refine Keeps.of ?_; dsimp only; with_reducible apply Keeps.noResults) | split

theorem State.twinReset_keeps {s0 : State} (s : State) (h : Keeps s0 s) :
    Keeps s0 (State.twinReset s) := by
  unfold State.twinReset
  repeat'
    first
      | with_reducible assumption | intro _ | with_reducible apply Keeps.ite | with_reducible apply State.bump_keeps
      | with_reducible apply State.setPair_keeps | with_reducible apply State.twinDown_keeps | dsimp only
      | (refine Keeps.of ?_; dsimp only; with_reducible apply Keeps.back)
      | (refine Keeps.of ?_; dsimp only; with_reducible apply Keeps.noReplay) | split

theorem State.resetBlock_keeps {s0 : State} (s : State) (p : Nat) (k : PageKind) (i : Nat) (h : Keeps s0 s) :
    Keeps s0 (State.resetBlock s p k i) := by
  unfold State.resetBlock
  repeat'
    first
      | with_reducible assumption | intro _ | with_reducible apply Keeps.foldl | with_reducible apply Keeps.foldlFst
      | with_reducible apply Keeps.ite | with_reducible apply State.setFld_keeps | with_reducible apply State.setRi_keeps
      | with_reducible apply State.rxDrop_keeps | with_reducible apply State.rxStart_keeps
      | with_reducible apply State.rxAbort_keeps | with_reducible apply State.txAbort_keeps
      | with_reducible apply State.setRefState_keeps | with_reducible apply State.refRecheck_keeps
      | with_reducible apply State.platReset_keeps | with_reducible apply State.synReset_keeps
      | with_reducible apply State.ttReset_keeps | with_reducible apply State.twinReset_keeps | dsimp only
      | (refine Keeps.of ?_; dsimp only; with_reducible apply Keeps.back) | split

theorem State.softReset_keeps {s0 : State} (s : State) (p : Nat) (k : PageKind) (i : Nat) (h : Keeps s0 s) :
    Keeps s0 (State.softReset s p k i) := by
  unfold State.softReset
  repeat'
    first
      | with_reducible assumption | intro _ | with_reducible apply Keeps.ite | with_reducible apply State.setBit_keeps
      | with_reducible apply State.commitAborts_keeps | with_reducible apply State.settlePage_keeps
      | with_reducible apply State.clearCounters_keeps | with_reducible apply State.resetBlock_keeps | dsimp only

theorem State.softResetEnd_keeps {s0 : State} (s : State) (p : Nat) (k : PageKind) (i : Nat) (h : Keeps s0 s) :
    Keeps s0 (State.softResetEnd s p k i) := by
  unfold State.softResetEnd
  repeat'
    first
      | with_reducible assumption | intro _ | with_reducible apply Keeps.foldl | with_reducible apply Keeps.foldlFst
      | with_reducible apply Keeps.ite | with_reducible apply State.setBit_keeps | with_reducible apply State.srcBack_keeps
      | dsimp only | (refine Keeps.of ?_; dsimp only; with_reducible apply Keeps.back) | split

theorem State.pageCtlHook_keeps {s0 : State} (s : State) (p : Nat) (k : PageKind) (i : Nat) (old eff : W32) (merged : Bool) (h : Keeps s0 s) :
    Keeps s0 (State.pageCtlHook s p k i old eff merged) := by
  unfold State.pageCtlHook
  repeat'
    first
      | with_reducible assumption | intro _ | with_reducible apply Keeps.ite | with_reducible apply State.when_keeps
      | with_reducible apply State.parityChange_keeps | with_reducible apply State.pageSnap_keeps
      | with_reducible apply State.softReset_keeps | dsimp only

theorem State.pageCtlWrite_keeps {s0 : State} (s : State) (a : Acc) (p : Nat) (k : PageKind) (i : Nat) (w : W32) (merged : Bool) (h : Keeps s0 s) :
    Keeps s0 (State.pageCtlWrite s a p k i w merged) := by
  unfold State.pageCtlWrite
  repeat'
    first
      | with_reducible assumption | intro _ | with_reducible apply Keeps.ite | with_reducible apply State.storeWord_keeps
      | with_reducible apply State.viaPath_keeps | with_reducible apply State.pageCtlHook_keeps | dsimp only | split

theorem execSoftReset_keeps {s0 : State} (a : Acc) (page : Nat) (s : State) (h : Keeps s0 s) :
    KeepsOut s0 (execSoftReset a page s) := by
  unfold execSoftReset
  repeat'
    first
      | with_reducible assumption | intro _ | with_reducible apply Keeps.ite | with_reducible apply KeepsOut.ite
      | with_reducible apply KeepsOut.fault | with_reducible apply KeepsOut.next | with_reducible apply onPage_keeps
      | with_reducible apply State.pageCtlWrite_keeps | dsimp only | split

theorem execSoftResetDone_keeps {s0 : State} (page : Nat) (s : State) (h : Keeps s0 s) :
    KeepsOut s0 (execSoftResetDone page s) := by
  unfold execSoftResetDone
  repeat'
    first
      | with_reducible assumption | intro _ | with_reducible apply Keeps.ite | with_reducible apply KeepsOut.ite
      | with_reducible apply KeepsOut.fault | with_reducible apply KeepsOut.next | with_reducible apply onPage_keeps
      | with_reducible apply State.softResetEnd_keeps | dsimp only | split

theorem execPageSnapshot_keeps {s0 : State} (a : Acc) (page : Nat) (merged : Bool) (s : State) (h : Keeps s0 s) :
    KeepsOut s0 (execPageSnapshot a page merged s) := by
  unfold execPageSnapshot
  repeat'
    first
      | with_reducible assumption | intro _ | with_reducible apply Keeps.ite | with_reducible apply KeepsOut.ite
      | with_reducible apply KeepsOut.fault | with_reducible apply KeepsOut.next | with_reducible apply onPage_keeps
      | with_reducible apply State.pageCtlWrite_keeps | dsimp only | split

theorem execParityModeSet_keeps {s0 : State} (a : Acc) (page : Nat) (on : Bool) (s : State) (h : Keeps s0 s) :
    KeepsOut s0 (execParityModeSet a page on s) := by
  unfold execParityModeSet
  repeat'
    first
      | with_reducible assumption | intro _ | with_reducible apply Keeps.ite | with_reducible apply KeepsOut.ite
      | with_reducible apply KeepsOut.fault | with_reducible apply KeepsOut.next | with_reducible apply onPage_keeps
      | with_reducible apply State.pageCtlWrite_keeps | dsimp only | split

theorem State.snapHook_keeps {s0 : State} (s : State) (eff : W32) (h : Keeps s0 s) :
    Keeps s0 (State.snapHook s eff) := by
  unfold State.snapHook
  repeat'
    first
      | with_reducible assumption | intro _ | with_reducible apply Keeps.ite | with_reducible apply State.when_keeps
      | with_reducible apply State.armSnap_keeps | dsimp only
      | (refine Keeps.of ?_; dsimp only; with_reducible apply Keeps.back)

theorem State.snapCtl_keeps {s0 : State} (s : State) (a : Acc) (w : W32) (h : Keeps s0 s) :
    Keeps s0 (State.snapCtl s a w) := by
  unfold State.snapCtl
  repeat'
    first
      | with_reducible assumption | intro _ | with_reducible apply Keeps.ite | with_reducible apply State.storeWord_keeps
      | with_reducible apply State.viaPath_keeps | with_reducible apply State.snapHook_keeps | dsimp only | split

theorem execSnapallArm_keeps {s0 : State} (a : Acc) (s : State) (h : Keeps s0 s) :
    KeepsOut s0 (execSnapallArm a s) := by
  unfold execSnapallArm
  repeat'
    first
      | with_reducible assumption | intro _ | with_reducible apply Keeps.ite | with_reducible apply KeepsOut.ite
      | with_reducible apply KeepsOut.fault | with_reducible apply KeepsOut.next | with_reducible apply run_keeps
      | with_reducible apply State.snapCtl_keeps | dsimp only | split

theorem execSnapallNow_keeps {s0 : State} (a : Acc) (s : State) (h : Keeps s0 s) :
    KeepsOut s0 (execSnapallNow a s) := by
  unfold execSnapallNow
  repeat'
    first
      | with_reducible assumption | intro _ | with_reducible apply Keeps.ite | with_reducible apply KeepsOut.ite
      | with_reducible apply KeepsOut.fault | with_reducible apply KeepsOut.next | with_reducible apply run_keeps
      | with_reducible apply State.snapCtl_keeps | dsimp only | split

theorem Keeps.snapOver {s0 t : State} (b : Bool) (h : Keeps s0 t) :
    Keeps s0 { t with snapPages := true, snapNow := none, snapArmed := b } := h

theorem State.snapAll_keeps {s0 : State} (s : State) (h : Keeps s0 s) : Keeps s0 (State.snapAll s) := by
  rw [State.snapAll]
  split
  · exact Keeps.snapOver _ (Keeps.foldl h fun x e hx => State.snapshot_keeps _ _ _ _ _ (State.settlePage_keeps _ _ _ hx))
  · exact h

theorem execSnapallTarget_keeps {s0 : State} (s : State) (h : Keeps s0 s) :
    KeepsOut s0 (execSnapallTarget s) := by
  unfold execSnapallTarget
  repeat'
    first
      | with_reducible assumption | intro _ | with_reducible apply Keeps.ite | with_reducible apply KeepsOut.ite
      | with_reducible apply KeepsOut.fault | with_reducible apply KeepsOut.next | with_reducible apply run_keeps
      | with_reducible apply State.snapAll_keeps | dsimp only | split

theorem execSnapallDone_keeps {s0 : State} (s : State) (h : Keeps s0 s) :
    KeepsOut s0 (execSnapallDone s) := by
  unfold execSnapallDone
  repeat'
    first
      | with_reducible assumption | intro _ | with_reducible apply Keeps.ite | with_reducible apply KeepsOut.ite
      | with_reducible apply KeepsOut.fault | with_reducible apply KeepsOut.next | with_reducible apply run_keeps
      | with_reducible apply State.snapDone_keeps | dsimp only | split

theorem execIrqForceWrite_keeps {s0 : State} (a : Acc) (page : Nat) (word : W32) (hw : Option HwErr) (s : State) (h : Keeps s0 s) :
    KeepsOut s0 (execIrqForceWrite a page word hw s) := by
  unfold execIrqForceWrite
  repeat'
    first
      | with_reducible assumption | intro _ | with_reducible apply Keeps.ite | with_reducible apply KeepsOut.ite
      | with_reducible apply KeepsOut.fault | with_reducible apply KeepsOut.next | with_reducible apply State.storeWord_keeps
      | with_reducible apply State.viaPath_keeps | with_reducible apply State.force_keeps | with_reducible apply onPage_keeps
      | dsimp only | split

theorem execFerrRelease_keeps {s0 : State} (a : Acc) (page : Nat) (clash : Option HwErr) (s : State) (h : Keeps s0 s) :
    KeepsOut s0 (execFerrRelease a page clash s) := by
  unfold execFerrRelease
  repeat'
    first
      | with_reducible assumption | intro _ | with_reducible apply Keeps.ite | with_reducible apply KeepsOut.ite
      | with_reducible apply KeepsOut.fault | with_reducible apply KeepsOut.next | with_reducible apply State.storeWord_keeps
      | with_reducible apply State.viaPath_keeps | with_reducible apply State.release_keeps | with_reducible apply onPage_keeps
      | dsimp only | split

theorem State.clashSnap_keeps {s0 : State} (s : State) (p : Nat) (k : PageKind) (i : Nat) (h : Keeps s0 s) :
    Keeps s0 (State.clashSnap s p k i) := by
  unfold State.clashSnap
  repeat'
    first
      | with_reducible assumption | intro _ | with_reducible apply Keeps.ite | with_reducible apply State.snapshot_keeps
      | with_reducible apply State.settlePage_keeps | dsimp only | split

theorem State.rcRead_keeps {s0 : State} (s : State) (p : Nat) (k : PageKind) (i o : Nat) (clash : RcClash) (h : Keeps s0 s) :
    Keeps s0 (State.rcRead s p k i o clash).1 := by
  unfold State.rcRead
  repeat'
    first
      | with_reducible assumption | intro _ | with_reducible apply Keeps.ite | with_reducible apply State.setWord_keeps
      | with_reducible apply State.snapshot_keeps | with_reducible apply State.clashSnap_keeps | dsimp only
      | (refine Keeps.of ?_; dsimp only; with_reducible apply Keeps.back) | split

theorem State.statRead_keeps {s0 : State} (s : State) (m p lp o : Nat) (clash : RcClash) (h : Keeps s0 s) :
    Keeps s0 (State.statRead s m p lp o clash).1 := by
  unfold State.statRead
  repeat'
    first
      | with_reducible assumption | intro _ | with_reducible apply Keeps.ite | with_reducible apply State.setWord_keeps
      | with_reducible apply State.setMreg_keeps | with_reducible apply State.snapshot_keeps
      | with_reducible apply State.clashSnap_keeps | dsimp only
      | (refine Keeps.of ?_; dsimp only; with_reducible apply Keeps.back) | split

theorem State.countRead_keeps {s0 : State} (s : State) (m p : Nat) (k : PageKind) (i o : Nat) (clash : RcClash) (h : Keeps s0 s) :
    Keeps s0 (State.countRead s m p k i o clash).1 := by
  unfold State.countRead
  repeat'
    first
      | with_reducible assumption | intro _ | with_reducible apply Keeps.ite | with_reducible apply State.settlePage_keeps
      | with_reducible apply State.rcRead_keeps | with_reducible apply State.statRead_keeps | dsimp only | split
      | with_reducible refine Keeps.pair (by with_reducible assumption) ?_

theorem execRcCounterRead_keeps {s0 : State} (a : Acc) (addr : Nat) (clash : RcClash) (s : State) (h : Keeps s0 s) :
    KeepsOut s0 (execRcCounterRead a addr clash s) := by
  unfold execRcCounterRead
  repeat'
    first
      | with_reducible assumption | intro _ | with_reducible apply Keeps.ite | with_reducible apply KeepsOut.ite
      | with_reducible apply KeepsOut.fault | with_reducible apply KeepsOut.next | with_reducible apply run_keeps
      | with_reducible apply State.viaRead_keeps | with_reducible apply State.countRead_keeps | dsimp only
      | (refine Keeps.of ?_; dsimp only; with_reducible apply Keeps.back) | split
      | with_reducible refine Keeps.pair (by with_reducible assumption) ?_

theorem execCfgCrcPass_keeps {s0 : State} (page : Nat) (upsets : List Upset) (s : State) (h : Keeps s0 s) :
    KeepsOut s0 (execCfgCrcPass page upsets s) := by
  unfold execCfgCrcPass
  repeat'
    first
      | with_reducible assumption | intro _ | with_reducible apply Keeps.foldl | with_reducible apply Keeps.foldlFst
      | with_reducible apply Keeps.ite | with_reducible apply KeepsOut.ite | with_reducible apply KeepsOut.fault
      | with_reducible apply KeepsOut.next | with_reducible apply State.upset_keeps | with_reducible apply State.crcPass_keeps
      | with_reducible apply onPage_keeps | dsimp only | split

theorem execParityCheckPass_keeps {s0 : State} (page : Nat) (upsets : List Upset) (s : State) (h : Keeps s0 s) :
    KeepsOut s0 (execParityCheckPass page upsets s) := by
  unfold execParityCheckPass
  repeat'
    first
      | with_reducible assumption | intro _ | with_reducible apply Keeps.foldl | with_reducible apply Keeps.foldlFst
      | with_reducible apply Keeps.ite | with_reducible apply KeepsOut.ite | with_reducible apply KeepsOut.fault
      | with_reducible apply KeepsOut.next | with_reducible apply State.upset_keeps
      | with_reducible apply State.parityPass_keeps | with_reducible apply onPage_keeps | dsimp only | split

end Sys2Proof.Machine
end

