-- ==== Sys2Proof/Laws/KeepAccess.lean ====
section
/-!
SUPPORT. The operations of Machine/Access.lean keep the queue and the invariant.
-/
set_option linter.unusedTactic false
set_option linter.unreachableTactic false
namespace Sys2Proof.Machine

theorem State.dmaHook_keeps {s0 : State} (s : State) (a : Acc) (n : Nat) (eff : W32) (h : Keeps s0 s) :
    Keeps s0 (State.dmaHook s a n eff) := by
  unfold State.dmaHook
  repeat'
    first
      | with_reducible assumption | intro _ | with_reducible apply Keeps.ite | with_reducible apply State.setBit_keeps
      | with_reducible apply State.setFld64_keeps | with_reducible apply State.irq_keeps
      | with_reducible apply State.accErr_keeps | with_reducible apply State.masterReset_keeps | dsimp only | split

theorem State.dmaWrite_keeps {s0 : State} (s : State) (a : Acc) (n o : Nat) (w : W32) (h : Keeps s0 s) :
    Keeps s0 (State.dmaWrite s a n o w) := by
  unfold State.dmaWrite
  repeat'
    first
      | with_reducible assumption | intro _ | with_reducible apply Keeps.ite | with_reducible apply State.storeWord_keeps
      | with_reducible apply State.dmaHook_keeps | dsimp only | split

theorem State.gpioWrite_keeps {s0 : State} (s : State) (a : Acc) (o : Nat) (w : W32) (h : Keeps s0 s) :
    Keeps s0 (State.gpioWrite s a o w) := by
  unfold State.gpioWrite
  repeat'
    first
      | with_reducible assumption | intro _ | with_reducible apply Keeps.ite | with_reducible apply State.storeWord_keeps
      | with_reducible apply State.setGp_keeps | with_reducible apply State.setGpiOn_keeps
      | with_reducible apply State.gpiRise_keeps | with_reducible apply State.gpiFall_keeps | dsimp only | split

theorem State.devWrite_keeps {s0 : State} (s : State) (a : Acc) (o : Nat) (w : W32) (hw : Option W32) (h : Keeps s0 s) :
    Keeps s0 (State.devWrite s a o w hw) := by
  unfold State.devWrite
  repeat'
    first
      | with_reducible assumption | intro _ | with_reducible apply Keeps.ite | with_reducible apply State.storeWord_keeps
      | with_reducible apply State.faultWrite_keeps | with_reducible apply State.commitDevice_keeps
      | with_reducible apply State.snapHook_keeps | dsimp only | split

theorem State.headerWrite_keeps {s0 : State} (s : State) (a : Acc) (p : Nat) (k : PageKind) (i o : Nat) (w : W32) (hw : Option W32) (h : Keeps s0 s) :
    Keeps s0 (State.headerWrite s a p k i o w hw) := by
  unfold State.headerWrite
  repeat'
    first
      | with_reducible assumption | intro _ | with_reducible apply Keeps.ite | with_reducible apply State.storeWord_keeps
      | with_reducible apply State.force_keeps | with_reducible apply State.unforce_keeps
      | with_reducible apply State.release_keeps | with_reducible apply State.lineFall_keeps
      | with_reducible apply State.commitHook_keeps | with_reducible apply State.pageCtlHook_keeps | dsimp only | split

theorem State.blockWrite_keeps {s0 : State} (s : State) (a : Acc) (p : Nat) (k : PageKind) (i o : Nat) (w : W32) (hw : Option W32) (h : Keeps s0 s) :
    Keeps s0 (State.blockWrite s a p k i o w hw) := by
  unfold State.blockWrite
  repeat'
    first
      | with_reducible assumption | intro _ | with_reducible apply Keeps.ite | with_reducible apply State.storeWord_keeps
      | with_reducible apply State.cueWrite_keeps | with_reducible apply State.dprWrite_keeps
      | with_reducible apply State.pprWrite_keeps | with_reducible apply State.dflipWrite_keeps
      | with_reducible apply State.srmWrite_keeps | with_reducible apply State.intWrite_keeps
      | with_reducible apply State.rxWrite_keeps | with_reducible apply State.txWrite_keeps
      | with_reducible apply State.clkWrite_keeps | with_reducible apply State.pllWrite_keeps
      | with_reducible apply State.pitWinWrite_keeps | with_reducible apply State.pitTakeWrite_keeps
      | with_reducible apply State.tapWrite_keeps | with_reducible apply State.cqWrite_keeps
      | with_reducible apply State.smWrite_keeps | with_reducible apply State.proHook_keeps
      | with_reducible apply State.wearWrite_keeps | with_reducible apply State.prcWrite_keeps
      | with_reducible apply State.updWrite_keeps | with_reducible apply State.refWrite_keeps
      | with_reducible apply State.tdmWrite_keeps | with_reducible apply State.trigWrite_keeps
      | with_reducible apply State.flowWrite_keeps | with_reducible apply State.ringWrite_keeps
      | with_reducible apply State.ethWrite_keeps | with_reducible apply State.pairWrite_keeps
      | with_reducible apply State.cbrHook_keeps | with_reducible apply State.bootWrite_keeps
      | with_reducible apply State.lcyWrite_keeps | with_reducible apply State.dmaWrite_keeps
      | with_reducible apply State.gpioWrite_keeps | with_reducible apply State.devWrite_keeps | dsimp only
      | (refine Keeps.of ?_; dsimp only; with_reducible apply Keeps.back) | split

theorem State.regWrite_keeps {s0 : State} (s : State) (a : Acc) (addr : Nat) (w : W32) (hw : Option W32) (h : Keeps s0 s) :
    Keeps s0 (State.regWrite s a addr w hw) := by
  unfold State.regWrite
  repeat'
    first
      | with_reducible assumption | intro _ | with_reducible apply Keeps.ite | with_reducible apply State.accErr_keeps
      | with_reducible apply State.headerWrite_keeps | with_reducible apply State.blockWrite_keeps | dsimp only
      | (refine Keeps.of ?_; dsimp only; with_reducible apply Keeps.back) | split

theorem State.blockRead_keeps {s0 : State} (s : State) (a : Acc) (p : Nat) (k : PageKind) (i o : Nat) (h : Keeps s0 s) :
    Keeps s0 (State.blockRead s a p k i o).1 := by
  unfold State.blockRead
  repeat'
    first
      | with_reducible assumption | intro _ | with_reducible apply Keeps.ite | with_reducible apply State.latchUpt_keeps
      | with_reducible apply State.latchTod_keeps | with_reducible apply State.popResult_keeps
      | with_reducible apply State.smRead_keeps | with_reducible apply State.latchTc_keeps
      | with_reducible apply State.popStamp_keeps | with_reducible apply State.popBeacon_keeps
      | with_reducible apply State.commitShow_keeps | with_reducible apply State.countRead_keeps | dsimp only
      | (refine Keeps.of ?_; dsimp only; with_reducible apply Keeps.back) | split
      | with_reducible refine Keeps.pair (by with_reducible assumption) ?_

theorem State.regRead_keeps {s0 : State} (s : State) (a : Acc) (addr : Nat) (h : Keeps s0 s) :
    Keeps s0 (State.regRead s a addr).1 := by
  unfold State.regRead
  repeat'
    first
      | with_reducible assumption | intro _ | with_reducible apply Keeps.ite | with_reducible apply State.accErr_keeps
      | with_reducible apply State.blockRead_keeps | dsimp only
      | (refine Keeps.of ?_; dsimp only; with_reducible apply Keeps.back) | split
      | with_reducible refine Keeps.pair (by with_reducible assumption) ?_

theorem State.narrow_keeps {s0 : State} (s : State) (a : Acc) (w : Nat) (h : Keeps s0 s) :
    Keeps s0 (State.narrow s a w) := by
  unfold State.narrow
  repeat'
    first
      | with_reducible assumption | intro _ | with_reducible apply Keeps.ite | with_reducible apply State.accErr_keeps
      | dsimp only | (refine Keeps.of ?_; dsimp only; with_reducible apply Keeps.back) | split

theorem State.regStore_keeps {s0 : State} (s : State) (a : Acc) (addr : Nat) (bytes : List Byte) (hw : Option W32) (h : Keeps s0 s) :
    Keeps s0 (State.regStore s a addr bytes hw) := by
  unfold State.regStore
  repeat'
    first
      | with_reducible assumption | intro _ | with_reducible apply Keeps.foldl | with_reducible apply Keeps.foldlFst
      | with_reducible apply Keeps.ite | with_reducible apply State.regWrite_keeps | with_reducible apply State.narrow_keeps
      | dsimp only | split

theorem State.regLoad_keeps {s0 : State} (s : State) (a : Acc) (addr n : Nat) (h : Keeps s0 s) :
    Keeps s0 (State.regLoad s a addr n).1 := by
  unfold State.regLoad
  repeat'
    first
      | with_reducible assumption | intro _ | with_reducible apply Keeps.foldl | with_reducible apply Keeps.foldlFst
      | with_reducible apply Keeps.ite | with_reducible apply State.regRead_keeps | dsimp only | split
      | with_reducible refine Keeps.pair (by with_reducible assumption) ?_

theorem State.answerLoad_keeps {s0 : State} (r : State × List Byte × Bool) (m : Nat) (h : Keeps s0 r.1) :
    Keeps s0 (State.answerLoad r m) :=
  .ite (State.answer_keeps _ _ _ _ h) (State.answer_keeps _ _ _ _ h)

theorem execRegisterWrite_keeps {s0 : State} (a : Acc) (addr : Nat) (bytes : List Byte) (hw : Option W32) (s : State) (h : Keeps s0 s) :
    KeepsOut s0 (execRegisterWrite a addr bytes hw s) := by
  unfold execRegisterWrite
  repeat'
    first
      | with_reducible assumption | intro _ | with_reducible apply Keeps.ite | with_reducible apply KeepsOut.ite
      | with_reducible apply KeepsOut.fault | with_reducible apply KeepsOut.next | with_reducible apply State.viaPath_keeps
      | with_reducible apply runRails_keeps | with_reducible apply State.regStore_keeps | dsimp only | split

theorem execUnmappedAccess_keeps {s0 : State} (a : Acc) (addr : Nat) (isWrite : Bool) (s : State) (h : Keeps s0 s) :
    KeepsOut s0 (execUnmappedAccess a addr isWrite s) := by
  unfold execUnmappedAccess
  repeat'
    first
      | with_reducible assumption | intro _ | with_reducible apply Keeps.ite | with_reducible apply KeepsOut.ite
      | with_reducible apply KeepsOut.fault | with_reducible apply KeepsOut.next | with_reducible apply State.accErr_keeps
      | with_reducible apply State.answer_keeps | with_reducible apply run_keeps | with_reducible apply State.noPath_keeps
      | dsimp only | (refine Keeps.of ?_; dsimp only; with_reducible apply Keeps.back) | split

end Sys2Proof.Machine
end

