-- ==== Sys2Proof/Laws/KeepDma.lean ====
section
/-!
SUPPORT. The operations of Machine/Dma.lean keep the queue and the invariant.
-/
set_option linter.unusedTactic false
set_option linter.unreachableTactic false
namespace Sys2Proof.Machine

theorem State.dmaReadPiece_keeps {s0 : State} (s : State) (n addr k : Nat) (stop : Option Nat) (host : List Byte) (h : Keeps s0 s) :
    Keeps s0 (State.dmaReadPiece s n addr k stop host).1 := by
  unfold State.dmaReadPiece
  repeat'
    first
      | with_reducible assumption | intro _ | with_reducible apply Keeps.ite | with_reducible apply State.capture_keeps
      | with_reducible apply State.noPath_keeps | with_reducible apply State.freeBytes_keeps
      | with_reducible apply State.masterRead_keeps | with_reducible apply State.regLoad_keeps | dsimp only
      | (refine Keeps.of ?_; dsimp only; with_reducible apply Keeps.back) | split
      | with_reducible refine Keeps.pair (by with_reducible assumption) ?_

theorem State.dmaWritePiece_keeps {s0 : State} (s : State) (n addr : Nat) (l : List Byte) (stop : Option Nat) (h : Keeps s0 s) :
    Keeps s0 (State.dmaWritePiece s n addr l stop).1 := by
  unfold State.dmaWritePiece
  repeat'
    first
      | with_reducible assumption | intro _ | with_reducible apply Keeps.ite | with_reducible apply State.capture_keeps
      | with_reducible apply State.noPath_keeps | with_reducible apply State.masterWrite_keeps
      | with_reducible apply State.regStore_keeps | dsimp only
      | (refine Keeps.of ?_; dsimp only; with_reducible apply Keeps.back)
      | (refine Keeps.of ?_; dsimp only; with_reducible apply Keeps.crewStored) | split
      | with_reducible refine Keeps.pair (by with_reducible assumption) ?_

theorem State.dmaRead_keeps {s0 : State} (s : State) (n addr len : Nat) (stop : Option Nat) (host : List Byte) (h : Keeps s0 s) :
    Keeps s0 (State.dmaRead s n addr len stop host).1 := by
  unfold State.dmaRead
  repeat'
    first
      | with_reducible assumption | intro _ | with_reducible apply Keeps.foldl | with_reducible apply Keeps.foldlFst
      | with_reducible apply Keeps.ite | with_reducible apply State.dmaReadPiece_keeps | dsimp only | split
      | with_reducible refine Keeps.pair (by with_reducible assumption) ?_

theorem State.dmaStore_keeps {s0 : State} (s : State) (n addr : Nat) (l : List Byte) (stop : Option Nat) (h : Keeps s0 s) :
    Keeps s0 (State.dmaStore s n addr l stop).1 := by
  unfold State.dmaStore
  repeat'
    first
      | with_reducible assumption | intro _ | with_reducible apply Keeps.foldl | with_reducible apply Keeps.foldlFst
      | with_reducible apply Keeps.ite | with_reducible apply State.dmaWritePiece_keeps | dsimp only | split
      | with_reducible refine Keeps.pair (by with_reducible assumption) ?_

theorem State.dmaMove_keeps {s0 : State} (s : State) (n : Nat) (d : DmaDesc) (count : Nat) (stop : Option Nat) (host : List Byte) (h : Keeps s0 s) :
    Keeps s0 (State.dmaMove s n d count stop host).1 := by
  unfold State.dmaMove
  repeat'
    first
      | with_reducible assumption | intro _ | with_reducible apply Keeps.ite | with_reducible apply State.dmaRead_keeps
      | with_reducible apply State.dmaStore_keeps | dsimp only
      | (refine Keeps.of ?_; dsimp only; with_reducible apply Keeps.back) | split
      | with_reducible refine Keeps.pair (by with_reducible assumption) ?_

theorem State.dmaFail_keeps {s0 : State} (s : State) (n cur flags : Nat) (access addr : Option Nat) (h : Keeps s0 s) :
    Keeps s0 (State.dmaFail s n cur flags access addr) := by
  unfold State.dmaFail
  repeat'
    first
      | with_reducible assumption | intro _ | with_reducible apply Keeps.ite | with_reducible apply State.setBit_keeps
      | with_reducible apply State.bump_keeps | with_reducible apply State.irq_keeps | with_reducible apply State.err_keeps
      | with_reducible apply State.dmaStore_keeps | dsimp only
      | with_reducible refine Keeps.pair (by with_reducible assumption) ?_

theorem State.dmaHead_keeps {s0 : State} (s : State) (n cur : Nat) (stop : Option Nat) (h : Keeps s0 s) :
    Keeps s0 (State.dmaHead s n cur stop).1 := by
  unfold State.dmaHead
  repeat'
    first
      | with_reducible assumption | intro _ | with_reducible apply Keeps.ite | with_reducible apply State.dmaRead_keeps
      | dsimp only | split | with_reducible refine Keeps.pair (by with_reducible assumption) ?_

theorem State.dmaFinish_keeps {s0 : State} (s : State) (n cur : Nat) (d : DmaDesc) (h : Keeps s0 s) :
    Keeps s0 (State.dmaFinish s n cur d) := by
  unfold State.dmaFinish
  repeat'
    first
      | with_reducible assumption | intro _ | with_reducible apply Keeps.ite | with_reducible apply State.setBit_keeps
      | with_reducible apply State.setFld64_keeps | with_reducible apply State.bump_keeps | with_reducible apply State.irq_keeps
      | with_reducible apply State.when_keeps | with_reducible apply State.dmaStore_keeps | dsimp only | split
      | with_reducible refine Keeps.pair (by with_reducible assumption) ?_

theorem State.dmaTransfer_keeps {s0 : State} (s : State) (n cur : Nat) (d : DmaDesc) (fail : Option Nat) (host : List Byte) (h : Keeps s0 s) :
    Keeps s0 (State.dmaTransfer s n cur d fail host) := by
  unfold State.dmaTransfer
  repeat'
    first
      | with_reducible assumption | intro _ | with_reducible apply Keeps.ite | with_reducible apply State.dmaMove_keeps
      | with_reducible apply State.dmaFail_keeps | with_reducible apply State.dmaFinish_keeps | dsimp only
      | (refine Keeps.of ?_; dsimp only; with_reducible apply Keeps.back) | split
      | with_reducible refine Keeps.pair (by with_reducible assumption) ?_

theorem State.dmaEnd_keeps {s0 : State} (s : State) (n cur : Nat) (fail : Option Nat) (host : List Byte) (h : Keeps s0 s) :
    Keeps s0 (State.dmaEnd s n cur fail host) := by
  unfold State.dmaEnd
  repeat'
    first
      | with_reducible assumption | intro _ | with_reducible apply Keeps.ite | with_reducible apply State.setBit_keeps
      | with_reducible apply State.bump_keeps | with_reducible apply State.irq_keeps | with_reducible apply State.err_keeps
      | with_reducible apply State.dmaHead_keeps | with_reducible apply State.dmaTransfer_keeps | dsimp only
      | (refine Keeps.of ?_; dsimp only; with_reducible apply Keeps.back) | split
      | with_reducible refine Keeps.pair (by with_reducible assumption) ?_

theorem State.dmaDone_keeps {s0 : State} (s : State) (n : Nat) (fail : Option Nat) (host : List Byte) (h : Keeps s0 s) :
    Keeps s0 (State.dmaDone s n fail host) := by
  unfold State.dmaDone
  repeat'
    first
      | with_reducible assumption | intro _ | with_reducible apply Keeps.ite | with_reducible apply State.dmaEnd_keeps
      | dsimp only | split

theorem State.dmaCut_keeps {s0 : State} (s : State) (n cur moved : Nat) (host : List Byte) (h : Keeps s0 s) :
    Keeps s0 (State.dmaCut s n cur moved host) := by
  unfold State.dmaCut
  repeat'
    first
      | with_reducible assumption | intro _ | with_reducible apply Keeps.ite | with_reducible apply State.dmaRead_keeps
      | with_reducible apply State.dmaMove_keeps | dsimp only
      | (refine Keeps.of ?_; dsimp only; with_reducible apply Keeps.back) | split
      | with_reducible refine Keeps.pair (by with_reducible assumption) ?_

theorem State.dmaPartial_keeps {s0 : State} (s : State) (n moved : Nat) (host : List Byte) (h : Keeps s0 s) :
    Keeps s0 (State.dmaPartial s n moved host) := by
  unfold State.dmaPartial
  repeat'
    first
      | with_reducible assumption | intro _ | with_reducible apply Keeps.ite | with_reducible apply State.dmaCut_keeps
      | dsimp only | split

theorem State.pcieRefuse_keeps {s0 : State} (s : State) (h : Keeps s0 s) :
    Keeps s0 (State.pcieRefuse s) := by
  unfold State.pcieRefuse
  repeat'
    first
      | with_reducible assumption | intro _ | with_reducible apply Keeps.ite | with_reducible apply State.bump_keeps
      | with_reducible apply State.answer_keeps | dsimp only

theorem State.bar0Write_keeps {s0 : State} (s : State) (off : Nat) (data : List (Option Byte)) (h : Keeps s0 s) :
    Keeps s0 (State.bar0Write s off data) := by
  unfold State.bar0Write
  repeat'
    first
      | with_reducible assumption | intro _ | with_reducible apply Keeps.foldl | with_reducible apply Keeps.foldlFst
      | with_reducible apply Keeps.ite | with_reducible apply State.answer_keeps | with_reducible apply State.regWrite_keeps
      | with_reducible apply State.narrow_keeps | dsimp only | split

theorem State.bar0_keeps {s0 : State} (s : State) (off : Nat) (op : DramOp) (h : Keeps s0 s) :
    Keeps s0 (State.bar0 s off op) := by
  unfold State.bar0
  repeat'
    first
      | with_reducible assumption | intro _ | with_reducible apply Keeps.ite | with_reducible apply State.regLoad_keeps
      | with_reducible apply State.answerLoad_keeps | with_reducible apply State.pcieRefuse_keeps
      | with_reducible apply State.bar0Write_keeps | dsimp only
      | (refine Keeps.of ?_; dsimp only; with_reducible apply Keeps.back) | split
      | with_reducible refine Keeps.pair (by with_reducible assumption) ?_

theorem State.bar2_keeps {s0 : State} (s : State) (off : Nat) (op : DramOp) (noise : List (Nat × Nat)) (k : Nat) (h : Keeps s0 s) :
    Keeps s0 (State.bar2 s off op noise k) := by
  unfold State.bar2
  repeat'
    first
      | with_reducible assumption | intro _ | with_reducible apply Keeps.ite | with_reducible apply State.capture_keeps
      | with_reducible apply State.busErr_keeps | with_reducible apply State.catRequest_keeps
      | with_reducible apply State.pcieRefuse_keeps | dsimp only | split

theorem execDmaGo_keeps {s0 : State} (a : Acc) (n : Fin 4) (word : W32) (s : State) (h : Keeps s0 s) :
    KeepsOut s0 (execDmaGo a n word s) := by
  unfold execDmaGo
  repeat'
    first
      | with_reducible assumption | intro _ | with_reducible apply Keeps.ite | with_reducible apply KeepsOut.ite
      | with_reducible apply KeepsOut.fault | with_reducible apply KeepsOut.next | with_reducible apply run_keeps
      | with_reducible apply State.viaPath_keeps | with_reducible apply State.dmaWrite_keeps | dsimp only | split

theorem execDmaDescriptorDone_keeps {s0 : State} (n : Fin 4) (fail : Option Nat) (host : List Byte) (s : State) (h : Keeps s0 s) :
    KeepsOut s0 (execDmaDescriptorDone n fail host s) := by
  unfold execDmaDescriptorDone
  repeat'
    first
      | with_reducible assumption | intro _ | with_reducible apply Keeps.ite | with_reducible apply KeepsOut.ite
      | with_reducible apply KeepsOut.fault | with_reducible apply KeepsOut.next | with_reducible apply runRails_keeps
      | with_reducible apply State.dmaDone_keeps | dsimp only | split

theorem execDmaAbort_keeps {s0 : State} (a : Acc) (n : Fin 4) (word : W32) (moved : Nat) (host : List Byte) (s : State) (h : Keeps s0 s) :
    KeepsOut s0 (execDmaAbort a n word moved host s) := by
  unfold execDmaAbort
  repeat'
    first
      | with_reducible assumption | intro _ | with_reducible apply Keeps.ite | with_reducible apply KeepsOut.ite
      | with_reducible apply KeepsOut.fault | with_reducible apply KeepsOut.next | with_reducible apply State.viaPath_keeps
      | with_reducible apply runRails_keeps | with_reducible apply State.dmaWrite_keeps
      | with_reducible apply State.dmaPartial_keeps | dsimp only | split

theorem execPcieRequest_keeps {s0 : State} (bar2 : Bool) (off : Nat) (op : DramOp) (noise : List (Nat × Nat)) (issue : Nat) (s : State) (h : Keeps s0 s) :
    KeepsOut s0 (execPcieRequest bar2 off op noise issue s) := by
  unfold execPcieRequest
  repeat'
    first
      | with_reducible assumption | intro _ | with_reducible apply Keeps.ite | with_reducible apply KeepsOut.ite
      | with_reducible apply KeepsOut.fault | with_reducible apply KeepsOut.next | with_reducible apply runRails_keeps
      | with_reducible apply State.issue_keeps | with_reducible apply State.bar0_keeps | with_reducible apply State.bar2_keeps
      | dsimp only | split

end Sys2Proof.Machine
end

