-- ==== Sys2Proof/Laws/KeepPairApply.lean ====
section
/-!
SUPPORT. The operations of Machine/PairApply.lean keep the queue and the invariant.
-/
set_option linter.unusedTactic false
set_option linter.unreachableTactic false
namespace Sys2Proof.Machine

theorem State.journalLate_keeps {s0 : State} (s : State) (u : Nat) (h : Keeps s0 s) :
    Keeps s0 (State.journalLate s u) := by
  unfold State.journalLate
  repeat'
    first
      | with_reducible assumption | intro _ | with_reducible apply Keeps.ite | with_reducible apply State.bump_keeps
      | with_reducible apply State.irq_keeps | with_reducible apply State.when_keeps | with_reducible apply State.err_keeps
      | dsimp only

theorem State.leadWrite_keeps {s0 : State} (s : State) (addr : Nat) (w : W32) (sup : Bool) (h : Keeps s0 s) :
    Keeps s0 (State.leadWrite s addr w sup) := by
  unfold State.leadWrite
  repeat'
    first
      | with_reducible assumption | intro _ | with_reducible apply Keeps.ite | with_reducible apply State.regWrite_keeps
      | dsimp only | (refine Keeps.of ?_; dsimp only; with_reducible apply Keeps.back) | split

theorem State.leadCommit_keeps {s0 : State} (s : State) (page : Option Nat) (start : Nat) (h : Keeps s0 s) :
    Keeps s0 (State.leadCommit s page start) := by
  unfold State.leadCommit
  repeat'
    first
      | with_reducible assumption | intro _ | with_reducible apply Keeps.foldl | with_reducible apply Keeps.foldlFst
      | with_reducible apply Keeps.ite | with_reducible apply State.setBit_keeps | with_reducible apply State.acceptPage_keeps
      | with_reducible apply State.acceptAll_keeps | dsimp only
      | (refine Keeps.of ?_; dsimp only; with_reducible apply Keeps.back) | split

theorem State.leadPages_keeps {s0 : State} (s : State) (apply : Nat) (d : Decision) (h : Keeps s0 s) :
    Keeps s0 (State.leadPages s apply d) := by
  unfold State.leadPages
  repeat'
    first
      | with_reducible assumption | intro _ | with_reducible apply Keeps.ite | with_reducible apply State.leadWrite_keeps
      | with_reducible apply State.leadCommit_keeps | dsimp only
      | (refine Keeps.of ?_; dsimp only; with_reducible apply Keeps.back) | split

theorem State.salvoDecided_keeps {s0 : State} (s : State) (id : Option Nat) (tap code : Nat) (h : Keeps s0 s) :
    Keeps s0 (State.salvoDecided s id tap code) := by
  unfold State.salvoDecided
  repeat'
    first
      | with_reducible assumption | intro _ | with_reducible apply Keeps.ite | dsimp only
      | (refine Keeps.of ?_; dsimp only; with_reducible apply Keeps.back) | split

theorem State.heardClaim_keeps {s0 : State} (s : State) (t r b : Nat) (h : Keeps s0 s) :
    Keeps s0 (State.heardClaim s t r b) := by
  unfold State.heardClaim
  repeat'
    first
      | with_reducible assumption | intro _ | with_reducible apply Keeps.ite | with_reducible apply State.bump_keeps
      | with_reducible apply State.when_keeps | with_reducible apply State.asyncClaim_keeps | dsimp only | split

theorem State.leadTake_keeps {s0 : State} (s : State) (t r : Nat) (bkwy : Bool) (cls : Nat) (unit : Option Nat) (upt : Nat) (h : Keeps s0 s) :
    Keeps s0 (State.leadTake s t r bkwy cls unit upt) := by
  unfold State.leadTake
  repeat'
    first
      | with_reducible assumption | intro _ | with_reducible apply Keeps.ite | with_reducible apply State.bump_keeps
      | with_reducible apply State.when_keeps | with_reducible apply State.setTapFld_keeps
      | with_reducible apply State.setTakes_keeps | with_reducible apply State.ttRefuse_keeps
      | with_reducible apply State.ttInvalid_keeps | with_reducible apply State.salvoEnd_keeps
      | with_reducible apply State.salvoDecided_keeps | with_reducible apply State.heardClaim_keeps | dsimp only
      | (refine Keeps.of ?_; dsimp only; with_reducible apply Keeps.back) | split

theorem State.leadDispatch_keeps {s0 : State} (s : State) (salvo tag : Nat) (bad : Bool) (h : Keeps s0 s) :
    Keeps s0 (State.leadDispatch s salvo tag bad) := by
  unfold State.leadDispatch
  repeat'
    first
      | with_reducible assumption | exact fun i => (List.length_filter_le _ _).trans i.sheet
      | exact fun i => List.length_erase_le.trans i.sheet | exact fun _ => List.length_take_le _ _ | intro _
      | with_reducible apply Keeps.ite | with_reducible apply State.err_keeps | with_reducible apply State.pushResult_keeps
      | with_reducible apply State.setSheet_keeps | dsimp only
      | (refine Keeps.of ?_; dsimp only; with_reducible apply Keeps.back) | split

theorem State.leadPitTake_keeps {s0 : State} (s : State) (out input upt : Nat) (h : Keeps s0 s) :
    Keeps s0 (State.leadPitTake s out input upt) := by
  unfold State.leadPitTake
  repeat'
    first
      | with_reducible assumption | intro _ | with_reducible apply Keeps.ite | with_reducible apply State.setFld_keeps
      | dsimp only | (refine Keeps.of ?_; dsimp only; with_reducible apply Keeps.back) | split

theorem State.leadTdm_keeps {s0 : State} (s : State) (q kind slots upt : Nat) (h : Keeps s0 s) :
    Keeps s0 (State.leadTdm s q kind slots upt) := by
  unfold State.leadTdm
  repeat'
    first
      | with_reducible assumption | intro _ | with_reducible apply Keeps.ite | with_reducible apply State.setBit_keeps
      | with_reducible apply State.setFld64_keeps | with_reducible apply State.setTp_keeps | dsimp only
      | (refine Keeps.of ?_; dsimp only; with_reducible apply Keeps.back) | split

theorem State.leadDecision_keeps {s0 : State} (s : State) (upt : Nat) (d : Decision) (bad : Bool) (h : Keeps s0 s) :
    Keeps s0 (State.leadDecision s upt d bad) := by
  unfold State.leadDecision
  repeat'
    first
      | with_reducible assumption | intro _ | with_reducible apply Keeps.ite | with_reducible apply State.bump_keeps
      | with_reducible apply State.when_keeps | with_reducible apply State.setPt_keeps | with_reducible apply State.setSy_keeps
      | with_reducible apply State.setPr_keeps | with_reducible apply State.setPin_keeps
      | with_reducible apply State.dispatch_keeps | with_reducible apply State.setGp_keeps
      | with_reducible apply State.gpiFire_keeps | with_reducible apply State.pitSlip_keeps
      | with_reducible apply State.setPair_keeps | with_reducible apply State.checkStart_keeps
      | with_reducible apply State.leadWrite_keeps | with_reducible apply State.leadCommit_keeps
      | with_reducible apply State.leadTake_keeps | with_reducible apply State.leadDispatch_keeps
      | with_reducible apply State.leadPitTake_keeps | with_reducible apply State.leadTdm_keeps | dsimp only
      | (refine Keeps.of ?_; dsimp only; with_reducible apply Keeps.back) | split

theorem State.hearJournal_keeps {s0 : State} (s : State) (claim : W32) (apply : Nat) (d : Decision) (h : Keeps s0 s) :
    Keeps s0 (State.hearJournal s claim apply d) := by
  unfold State.hearJournal
  repeat'
    first
      | with_reducible assumption | intro _ | with_reducible apply Keeps.ite | with_reducible apply State.setPair_keeps
      | with_reducible apply State.journalLate_keeps | with_reducible apply State.leadPages_keeps
      | with_reducible apply State.heardClaim_keeps | dsimp only
      | (refine Keeps.of ?_; dsimp only; with_reducible apply Keeps.back) | split

theorem State.applyDue_keeps {s0 : State} (s : State) (bad : Bool) (h : Keeps s0 s) :
    Keeps s0 (State.applyDue s bad) := by
  unfold State.applyDue
  repeat'
    first
      | with_reducible assumption | intro _ | with_reducible apply Keeps.ite | with_reducible apply State.leadDecision_keeps
      | dsimp only | (refine Keeps.of ?_; dsimp only; with_reducible apply Keeps.back) | split

theorem State.cutFirst_keeps {s0 : State} (s : State) (h : Keeps s0 s) :
    Keeps s0 (State.cutFirst s) := by
  unfold State.cutFirst
  repeat'
    first
      | with_reducible assumption | intro _ | with_reducible apply Keeps.ite | with_reducible apply State.setPair_keeps
      | dsimp only | (refine Keeps.of ?_; dsimp only; with_reducible apply Keeps.back) | split

theorem State.hearItem_keeps {s0 : State} (s : State) (x : XferItem) (h : Keeps s0 s) :
    Keeps s0 (State.hearItem s x) := by
  unfold State.hearItem
  repeat'
    first
      | with_reducible assumption | intro _ | with_reducible apply Keeps.ite | with_reducible apply State.setPair_keeps
      | with_reducible apply State.cutFirst_keeps | with_reducible apply State.cut_keeps | dsimp only
      | (refine Keeps.of ?_; dsimp only; with_reducible apply Keeps.back) | split

theorem State.hearItems_keeps {s0 : State} (s : State) (l : List XferItem) (h : Keeps s0 s) :
    Keeps s0 (State.hearItems s l) := by
  unfold State.hearItems
  repeat'
    first
      | with_reducible assumption | intro _ | with_reducible apply Keeps.foldl | with_reducible apply Keeps.foldlFst
      | with_reducible apply Keeps.ite | with_reducible apply State.hearItem_keeps | dsimp only | split

theorem State.hearVersions_keeps {s0 : State} (s : State) (l : List (BitVec 64)) (h : Keeps s0 s) :
    Keeps s0 (State.hearVersions s l) := by
  unfold State.hearVersions
  repeat'
    first
      | with_reducible assumption | intro _ | with_reducible apply Keeps.ite | with_reducible apply State.setFld_keeps
      | with_reducible apply State.setBit_keeps | dsimp only | (refine Keeps.of ?_; dsimp only; with_reducible apply Keeps.back)
      | split

theorem State.cutStage_keeps {s0 : State} (s : State) (l : List (Nat × W32 × W32)) (live : Bool) (h : Keeps s0 s) :
    Keeps s0 (State.cutStage s l live) := by
  unfold State.cutStage
  repeat'
    first
      | with_reducible assumption | intro _ | with_reducible apply Keeps.foldl | with_reducible apply Keeps.foldlFst
      | with_reducible apply Keeps.ite | with_reducible apply State.setWord_keeps | dsimp only | split

theorem State.cutTables_keeps {s0 : State} (s : State) (l : List XferItem) (live : Bool) (h : Keeps s0 s) :
    Keeps s0 (State.cutTables s l live) := by
  unfold State.cutTables
  repeat'
    first
      | with_reducible assumption | intro _ | with_reducible apply Keeps.ite | dsimp only
      | (refine Keeps.of ?_; dsimp only; with_reducible apply Keeps.back)

theorem State.cutTdm_keeps {s0 : State} (s old : State) (h : Keeps s0 s) :
    Keeps s0 (State.cutTdm s old) := by
  unfold State.cutTdm
  repeat'
    first
      | with_reducible assumption | intro _ | with_reducible apply Keeps.foldl | with_reducible apply Keeps.foldlFst
      | with_reducible apply Keeps.ite | with_reducible apply State.tdmSwitch_keeps | dsimp only

theorem State.cutCopy_keeps {s0 : State} (s : State) (l : List XferItem) (C : Nat) (h : Keeps s0 s) :
    Keeps s0 (State.cutCopy s l C) := by
  unfold State.cutCopy
  repeat'
    first
      | with_reducible assumption | intro _ | with_reducible apply Keeps.foldl | with_reducible apply Keeps.foldlFst
      | with_reducible apply Keeps.ite | with_reducible apply State.acceptPage_keeps | with_reducible apply State.cutStage_keeps
      | with_reducible apply State.cutTables_keeps | with_reducible apply State.cutTdm_keeps | dsimp only | split

theorem State.cutTurntable_keeps {s0 : State} (s : State) (l : List XferItem) (h : Keeps s0 s) :
    Keeps s0 (State.cutTurntable s l) := by
  unfold State.cutTurntable
  repeat'
    first
      | with_reducible assumption | exact fun i => (List.length_filter_le _ _).trans i.sheet
      | exact fun i => List.length_erase_le.trans i.sheet | exact fun _ => List.length_take_le _ _ | intro _
      | with_reducible apply Keeps.foldl | with_reducible apply Keeps.foldlFst | with_reducible apply Keeps.ite
      | with_reducible apply State.setTakes_keeps | with_reducible apply State.select_keeps
      | with_reducible apply State.setSheet_keeps | dsimp only
      | (refine Keeps.of ?_; dsimp only; with_reducible apply Keeps.back) | split

theorem State.cutPit_keeps {s0 : State} (s : State) (l : List XferItem) (h : Keeps s0 s) :
    Keeps s0 (State.cutPit s l) := by
  unfold State.cutPit
  repeat'
    first
      | with_reducible assumption | intro _ | with_reducible apply Keeps.foldl | with_reducible apply Keeps.foldlFst
      | with_reducible apply Keeps.ite | with_reducible apply State.setFld_keeps | with_reducible apply State.setPot_keeps
      | with_reducible apply State.cut_keeps | dsimp only | (refine Keeps.of ?_; dsimp only; with_reducible apply Keeps.back)
      | split

theorem State.cutPlat_keeps {s0 : State} (s : State) (r st : Nat) (last : Option Fmt) (C : Nat) (h : Keeps s0 s) :
    Keeps s0 (State.cutPlat s r st last C) := by
  unfold State.cutPlat
  repeat'
    first
      | with_reducible assumption | intro _ | with_reducible apply Keeps.ite | with_reducible apply State.setPt_keeps
      | dsimp only | (refine Keeps.of ?_; dsimp only; with_reducible apply Keeps.back) | split

theorem State.cutSyn_keeps {s0 : State} (s : State) (u : Nat) (claim : Option Nat) (width next : Nat) (h : Keeps s0 s) :
    Keeps s0 (State.cutSyn s u claim width next) := by
  unfold State.cutSyn
  repeat'
    first
      | with_reducible assumption | intro _ | with_reducible apply Keeps.ite | with_reducible apply State.setSy_keeps
      | with_reducible apply State.synClaim_keeps | with_reducible apply State.synFree_keeps | dsimp only
      | (refine Keeps.of ?_; dsimp only; with_reducible apply Keeps.back) | split

theorem State.cutFlip_keeps {s0 : State} (s : State) (p g bank : Nat) (pend : Bool) (fence : Nat) (h : Keeps s0 s) :
    Keeps s0 (State.cutFlip s p g bank pend fence) := by
  unfold State.cutFlip
  repeat'
    first
      | with_reducible assumption | intro _ | with_reducible apply Keeps.ite | with_reducible apply State.setFld_keeps
      | with_reducible apply State.setPr_keeps | dsimp only | (refine Keeps.of ?_; dsimp only; with_reducible apply Keeps.back)

theorem State.cutUnits_keeps {s0 : State} (s : State) (l : List XferItem) (C : Nat) (h : Keeps s0 s) :
    Keeps s0 (State.cutUnits s l C) := by
  unfold State.cutUnits
  repeat'
    first
      | with_reducible assumption | intro _ | with_reducible apply Keeps.foldl | with_reducible apply Keeps.foldlFst
      | with_reducible apply Keeps.ite | with_reducible apply State.synFree_keeps | with_reducible apply State.countClaims_keeps
      | with_reducible apply State.cutPlat_keeps | with_reducible apply State.cutSyn_keeps
      | with_reducible apply State.cutFlip_keeps | dsimp only
      | (refine Keeps.of ?_; dsimp only; with_reducible apply Keeps.back) | split

theorem State.cut_keeps {s0 : State} (s : State) (h : Keeps s0 s) :
    Keeps s0 (State.cut s) := by
  unfold State.cut
  repeat'
    first
      | with_reducible assumption | intro _ | with_reducible apply Keeps.foldl | with_reducible apply Keeps.foldlFst
      | with_reducible apply Keeps.ite | with_reducible apply State.setPair_keeps | with_reducible apply State.tryPromote_keeps
      | with_reducible apply State.leadPages_keeps | with_reducible apply State.cutCopy_keeps
      | with_reducible apply State.cutTurntable_keeps | with_reducible apply State.cutPit_keeps
      | with_reducible apply State.cutUnits_keeps | dsimp only
      | (refine Keeps.of ?_; dsimp only; with_reducible apply Keeps.back) | split

theorem execJournalReceived_keeps {s0 : State} (seq : Nat) (crcOk : Bool) (claim : W32) (apply : Nat) (d : Decision) (s : State) (h : Keeps s0 s) :
    KeepsOut s0 (execJournalReceived seq crcOk claim apply d s) := by
  unfold execJournalReceived
  repeat'
    first
      | with_reducible assumption | intro _ | with_reducible apply Keeps.ite | with_reducible apply KeepsOut.ite
      | with_reducible apply KeepsOut.fault | with_reducible apply KeepsOut.next | with_reducible apply runRails_keeps
      | with_reducible apply State.onMessage_keeps | with_reducible apply State.hearJournal_keeps | dsimp only | split

theorem execJournalApply_keeps {s0 : State} (bad : Bool) (s : State) (h : Keeps s0 s) :
    KeepsOut s0 (execJournalApply bad s) := by
  unfold execJournalApply
  repeat'
    first
      | with_reducible assumption | intro _ | with_reducible apply Keeps.ite | with_reducible apply KeepsOut.ite
      | with_reducible apply KeepsOut.fault | with_reducible apply KeepsOut.next | with_reducible apply runRails_keeps
      | with_reducible apply State.applyDue_keeps | dsimp only | split

theorem execStateTransferReceived_keeps {s0 : State} (seq : Nat) (crcOk : Bool) (items : List XferItem) (versions : Option (List (BitVec 64))) (s : State) (h : Keeps s0 s) :
    KeepsOut s0 (execStateTransferReceived seq crcOk items versions s) := by
  unfold execStateTransferReceived
  repeat'
    first
      | with_reducible assumption | intro _ | with_reducible apply Keeps.ite | with_reducible apply KeepsOut.ite
      | with_reducible apply KeepsOut.fault | with_reducible apply KeepsOut.next | with_reducible apply run_keeps
      | with_reducible apply State.onMessage_keeps | with_reducible apply State.hearItems_keeps
      | with_reducible apply State.hearVersions_keeps | dsimp only
      | (refine Keeps.of ?_; dsimp only; with_reducible apply Keeps.back) | split

theorem execStateTransferCut_keeps {s0 : State} (s : State) (h : Keeps s0 s) :
    KeepsOut s0 (execStateTransferCut s) := by
  unfold execStateTransferCut
  repeat'
    first
      | with_reducible assumption | intro _ | with_reducible apply Keeps.ite | with_reducible apply KeepsOut.ite
      | with_reducible apply KeepsOut.fault | with_reducible apply KeepsOut.next | with_reducible apply runRails_keeps
      | with_reducible apply State.cut_keeps | dsimp only | split

end Sys2Proof.Machine
end

