-- ==== Sys2Proof/Laws/State.lean ====
section
/-!
SUPPORT. The primitive updates of the state, field by field: each leaves every field as it was but the one it writes; and what a
read of a register word gives after a write of one.
-/
namespace Sys2Proof.Machine

@[simp] theorem State.setWord_pending (s : State) (a : Nat) (v : W32) : (s.setWord a v).pending = s.pending := rfl
@[simp] theorem State.setWord_low (s : State) (a : Nat) (v : W32) : (s.setWord a v).low = s.low := rfl
@[simp] theorem State.setWord_booted (s : State) (a : Nat) (v : W32) : (s.setWord a v).booted = s.booted := rfl
@[simp] theorem State.setWord_upt (s : State) (a : Nat) (v : W32) : (s.setWord a v).upt = s.upt := rfl
@[simp] theorem State.setWord_cueRun (s : State) (a : Nat) (v : W32) : (s.setWord a v).cueRun = s.cueRun := rfl
@[simp] theorem State.setWord_cueByp (s : State) (a : Nat) (v : W32) : (s.setWord a v).cueByp = s.cueByp := rfl
@[simp] theorem State.setWord_live (s : State) (a : Nat) (v : W32) : (s.setWord a v).live = s.live := rfl
@[simp] theorem State.setWord_mregs (s : State) (a : Nat) (v : W32) : (s.setWord a v).mregs = s.mregs := rfl
@[simp] theorem State.setWord_commits (s : State) (a : Nat) (v : W32) : (s.setWord a v).commits = s.commits := rfl
@[simp] theorem State.setWord_forced (s : State) (a : Nat) (v : W32) : (s.setWord a v).forced = s.forced := rfl
@[simp] theorem State.setWord_resp (s : State) (a : Nat) (v : W32) : (s.setWord a v).resp = s.resp := rfl
@[simp] theorem State.setWord_free (s : State) (a : Nat) (v : W32) : (s.setWord a v).free = s.free := rfl
@[simp] theorem State.setWord_fltT (s : State) (a : Nat) (v : W32) : (s.setWord a v).fltT = s.fltT := rfl
@[simp] theorem State.setWord_fltC (s : State) (a : Nat) (v : W32) : (s.setWord a v).fltC = s.fltC := rfl
@[simp] theorem State.setWord_snapNow (s : State) (a : Nat) (v : W32) : (s.setWord a v).snapNow = s.snapNow := rfl
@[simp] theorem State.setWord_snapArmed (s : State) (a : Nat) (v : W32) : (s.setWord a v).snapArmed = s.snapArmed := rfl
@[simp] theorem State.setWord_snapPages (s : State) (a : Nat) (v : W32) : (s.setWord a v).snapPages = s.snapPages := rfl
@[simp] theorem State.setWord_snapT (s : State) (a : Nat) (v : W32) : (s.setWord a v).snapT = s.snapT := rfl
@[simp] theorem State.setWord_tod (s : State) (a : Nat) (v : W32) : (s.setWord a v).tod = s.tod := rfl
@[simp] theorem State.setWord_rxl (s : State) (a : Nat) (v : W32) : (s.setWord a v).rxl = s.rxl := rfl
@[simp] theorem State.setWord_txl (s : State) (a : Nat) (v : W32) : (s.setWord a v).txl = s.txl := rfl
@[simp] theorem State.setWord_rot (s : State) (a : Nat) (v : W32) : (s.setWord a v).rot = s.rot := rfl
@[simp] theorem State.setWord_pll (s : State) (a : Nat) (v : W32) : (s.setWord a v).pll = s.pll := rfl
@[simp] theorem State.setWord_refIn (s : State) (a : Nat) (v : W32) : (s.setWord a v).refIn = s.refIn := rfl
@[simp] theorem State.setWord_refSel (s : State) (a : Nat) (v : W32) : (s.setWord a v).refSel = s.refSel := rfl
@[simp] theorem State.setWord_groups (s : State) (a : Nat) (v : W32) : (s.setWord a v).groups = s.groups := rfl
@[simp] theorem State.setWord_plat (s : State) (a : Nat) (v : W32) : (s.setWord a v).plat = s.plat := rfl
@[simp] theorem State.setWord_rxTab (s : State) (a : Nat) (v : W32) : (s.setWord a v).rxTab = s.rxTab := rfl
@[simp] theorem State.setWord_rxStage (s : State) (a : Nat) (v : W32) : (s.setWord a v).rxStage = s.rxStage := rfl
@[simp] theorem State.setWord_rxPend (s : State) (a : Nat) (v : W32) : (s.setWord a v).rxPend = s.rxPend := rfl
@[simp] theorem State.setWord_txTab (s : State) (a : Nat) (v : W32) : (s.setWord a v).txTab = s.txTab := rfl
@[simp] theorem State.setWord_txStage (s : State) (a : Nat) (v : W32) : (s.setWord a v).txStage = s.txStage := rfl
@[simp] theorem State.setWord_txPend (s : State) (a : Nat) (v : W32) : (s.setWord a v).txPend = s.txPend := rfl
@[simp] theorem State.setWord_rxEnt (s : State) (a : Nat) (v : W32) : (s.setWord a v).rxEnt = s.rxEnt := rfl
@[simp] theorem State.setWord_txEnt (s : State) (a : Nat) (v : W32) : (s.setWord a v).txEnt = s.txEnt := rfl
@[simp] theorem State.setWord_rxStored (s : State) (a : Nat) (v : W32) : (s.setWord a v).rxStored = s.rxStored := rfl
@[simp] theorem State.setWord_txStored (s : State) (a : Nat) (v : W32) : (s.setWord a v).txStored = s.txStored := rfl
@[simp] theorem State.setWord_tsq (s : State) (a : Nat) (v : W32) : (s.setWord a v).tsq = s.tsq := rfl
@[simp] theorem State.setWord_sent (s : State) (a : Nat) (v : W32) : (s.setWord a v).sent = s.sent := rfl
@[simp] theorem State.setWord_dram (s : State) (a : Nat) (v : W32) : (s.setWord a v).dram = s.dram := rfl
@[simp] theorem State.setWord_twinOut (s : State) (a : Nat) (v : W32) : (s.setWord a v).twinOut = s.twinOut := rfl
@[simp] theorem State.setWord_twinSeq (s : State) (a : Nat) (v : W32) : (s.setWord a v).twinSeq = s.twinSeq := rfl
@[simp] theorem State.setWord_journalIn (s : State) (a : Nat) (v : W32) : (s.setWord a v).journalIn = s.journalIn := rfl
@[simp] theorem State.setWord_repairs (s : State) (a : Nat) (v : W32) : (s.setWord a v).repairs = s.repairs := rfl
@[simp] theorem State.setWord_retired (s : State) (a : Nat) (v : W32) : (s.setWord a v).retired = s.retired := rfl
@[simp] theorem State.setWord_classM (s : State) (a : Nat) (v : W32) : (s.setWord a v).classM = s.classM := rfl
@[simp] theorem State.setWord_checking (s : State) (a : Nat) (v : W32) : (s.setWord a v).checking = s.checking := rfl
@[simp] theorem State.setWord_defr (s : State) (a : Nat) (v : W32) : (s.setWord a v).defr = s.defr := rfl
@[simp] theorem State.setWord_fmtr (s : State) (a : Nat) (v : W32) : (s.setWord a v).fmtr = s.fmtr := rfl
@[simp] theorem State.setWord_pitIn (s : State) (a : Nat) (v : W32) : (s.setWord a v).pitIn = s.pitIn := rfl
@[simp] theorem State.setWord_pitOut (s : State) (a : Nat) (v : W32) : (s.setWord a v).pitOut = s.pitOut := rfl
@[simp] theorem State.setWord_pitTakes (s : State) (a : Nat) (v : W32) : (s.setWord a v).pitTakes = s.pitTakes := rfl
@[simp] theorem State.setWord_pitGrid (s : State) (a : Nat) (v : W32) : (s.setWord a v).pitGrid = s.pitGrid := rfl
@[simp] theorem State.setWord_pitLast (s : State) (a : Nat) (v : W32) : (s.setWord a v).pitLast = s.pitLast := rfl
@[simp] theorem State.setWord_pitTab (s : State) (a : Nat) (v : W32) : (s.setWord a v).pitTab = s.pitTab := rfl
@[simp] theorem State.setWord_pitStage (s : State) (a : Nat) (v : W32) : (s.setWord a v).pitStage = s.pitStage := rfl
@[simp] theorem State.setWord_pitPend (s : State) (a : Nat) (v : W32) : (s.setWord a v).pitPend = s.pitPend := rfl
@[simp] theorem State.setWord_synLine (s : State) (a : Nat) (v : W32) : (s.setWord a v).synLine = s.synLine := rfl
@[simp] theorem State.setWord_tdm (s : State) (a : Nat) (v : W32) : (s.setWord a v).tdm = s.tdm := rfl
@[simp] theorem State.setWord_tdmCh (s : State) (a : Nat) (v : W32) : (s.setWord a v).tdmCh = s.tdmCh := rfl
@[simp] theorem State.setWord_tdmMask (s : State) (a : Nat) (v : W32) : (s.setWord a v).tdmMask = s.tdmMask := rfl
@[simp] theorem State.setWord_syn (s : State) (a : Nat) (v : W32) : (s.setWord a v).syn = s.syn := rfl
@[simp] theorem State.setWord_tapSel (s : State) (a : Nat) (v : W32) : (s.setWord a v).tapSel = s.tapSel := rfl
@[simp] theorem State.setWord_armed (s : State) (a : Nat) (v : W32) : (s.setWord a v).armed = s.armed := rfl
@[simp] theorem State.setWord_salvoMem (s : State) (a : Nat) (v : W32) : (s.setWord a v).salvoMem = s.salvoMem := rfl
@[simp] theorem State.setWord_sheet (s : State) (a : Nat) (v : W32) : (s.setWord a v).sheet = s.sheet := rfl
@[simp] theorem State.setWord_salvos (s : State) (a : Nat) (v : W32) : (s.setWord a v).salvos = s.salvos := rfl
@[simp] theorem State.setWord_salvoSeq (s : State) (a : Nat) (v : W32) : (s.setWord a v).salvoSeq = s.salvoSeq := rfl
@[simp] theorem State.setWord_armSeq (s : State) (a : Nat) (v : W32) : (s.setWord a v).armSeq = s.armSeq := rfl
@[simp] theorem State.setWord_results (s : State) (a : Nat) (v : W32) : (s.setWord a v).results = s.results := rfl
@[simp] theorem State.setWord_gpi (s : State) (a : Nat) (v : W32) : (s.setWord a v).gpi = s.gpi := rfl
@[simp] theorem State.setWord_pro (s : State) (a : Nat) (v : W32) : (s.setWord a v).pro = s.pro := rfl
@[simp] theorem State.setWord_lay (s : State) (a : Nat) (v : W32) : (s.setWord a v).lay = s.lay := rfl
@[simp] theorem State.setWord_coef (s : State) (a : Nat) (v : W32) : (s.setWord a v).coef = s.coef := rfl
@[simp] theorem State.setWord_coefStage (s : State) (a : Nat) (v : W32) : (s.setWord a v).coefStage = s.coefStage := rfl
@[simp] theorem State.setWord_coefPend (s : State) (a : Nat) (v : W32) : (s.setWord a v).coefPend = s.coefPend := rfl
@[simp] theorem State.setWord_dch (s : State) (a : Nat) (v : W32) : (s.setWord a v).dch = s.dch := rfl
@[simp] theorem State.setWord_dbank (s : State) (a : Nat) (v : W32) : (s.setWord a v).dbank = s.dbank := rfl
@[simp] theorem State.setWord_dseq (s : State) (a : Nat) (v : W32) : (s.setWord a v).dseq = s.dseq := rfl
@[simp] theorem State.setWord_arms (s : State) (a : Nat) (v : W32) : (s.setWord a v).arms = s.arms := rfl
@[simp] theorem State.setWord_lostParity (s : State) (a : Nat) (v : W32) : (s.setWord a v).lostParity = s.lostParity := rfl
@[simp] theorem State.setWord_txAhead (s : State) (a : Nat) (v : W32) : (s.setWord a v).txAhead = s.txAhead := rfl
@[simp] theorem State.setWord_acks (s : State) (a : Nat) (v : W32) : (s.setWord a v).acks = s.acks := rfl
@[simp] theorem State.setWord_again (s : State) (a : Nat) (v : W32) : (s.setWord a v).again = s.again := rfl
@[simp] theorem State.setWord_derr (s : State) (a : Nat) (v : W32) : (s.setWord a v).derr = s.derr := rfl
@[simp] theorem State.setWord_sflip (s : State) (a : Nat) (v : W32) : (s.setWord a v).sflip = s.sflip := rfl
@[simp] theorem State.setWord_serr (s : State) (a : Nat) (v : W32) : (s.setWord a v).serr = s.serr := rfl
@[simp] theorem State.setWord_spares (s : State) (a : Nat) (v : W32) : (s.setWord a v).spares = s.spares := rfl
@[simp] theorem State.setWord_catHeld (s : State) (a : Nat) (v : W32) : (s.setWord a v).catHeld = s.catHeld := rfl
@[simp] theorem State.setWord_crewSram (s : State) (a : Nat) (v : W32) : (s.setWord a v).crewSram = s.crewSram := rfl
@[simp] theorem State.setWord_pcieOut (s : State) (a : Nat) (v : W32) : (s.setWord a v).pcieOut = s.pcieOut := rfl
@[simp] theorem State.setWord_routes (s : State) (a : Nat) (v : W32) : (s.setWord a v).routes = s.routes := rfl
@[simp] theorem State.setWord_lines (s : State) (a : Nat) (v : W32) : (s.setWord a v).lines = s.lines := rfl
@[simp] theorem State.setWord_msixMask (s : State) (a : Nat) (v : W32) : (s.setWord a v).msixMask = s.msixMask := rfl
@[simp] theorem State.setWord_msixPend (s : State) (a : Nat) (v : W32) : (s.setWord a v).msixPend = s.msixPend := rfl
@[simp] theorem State.setWord_msi (s : State) (a : Nat) (v : W32) : (s.setWord a v).msi = s.msi := rfl
@[simp] theorem State.setWord_sdiSlept (s : State) (a : Nat) (v : W32) : (s.setWord a v).sdiSlept = s.sdiSlept := rfl
@[simp] theorem State.setWord_pathFailed (s : State) (a : Nat) (v : W32) : (s.setWord a v).pathFailed = s.pathFailed := rfl
@[simp] theorem State.setWord_wireErr (s : State) (a : Nat) (v : W32) : (s.setWord a v).wireErr = s.wireErr := rfl
@[simp] theorem State.setWord_wireLost (s : State) (a : Nat) (v : W32) : (s.setWord a v).wireLost = s.wireLost := rfl
@[simp] theorem State.setWord_fuses (s : State) (a : Nat) (v : W32) : (s.setWord a v).fuses = s.fuses := rfl
@[simp] theorem State.setWord_fuseNow (s : State) (a : Nat) (v : W32) : (s.setWord a v).fuseNow = s.fuseNow := rfl
@[simp] theorem State.setWord_avsHigh (s : State) (a : Nat) (v : W32) : (s.setWord a v).avsHigh = s.avsHigh := rfl
@[simp] theorem State.setWord_tmpCnt (s : State) (a : Nat) (v : W32) : (s.setWord a v).tmpCnt = s.tmpCnt := rfl
@[simp] theorem State.setWord_tmpWarm (s : State) (a : Nat) (v : W32) : (s.setWord a v).tmpWarm = s.tmpWarm := rfl
@[simp] theorem State.setWord_tmpHot (s : State) (a : Nat) (v : W32) : (s.setWord a v).tmpHot = s.tmpHot := rfl
@[simp] theorem State.setWord_hourTop (s : State) (a : Nat) (v : W32) : (s.setWord a v).hourTop = s.hourTop := rfl
@[simp] theorem State.setWord_hourSector (s : State) (a : Nat) (v : W32) : (s.setWord a v).hourSector = s.hourSector := rfl
@[simp] theorem State.setWord_hourRecs (s : State) (a : Nat) (v : W32) : (s.setWord a v).hourRecs = s.hourRecs := rfl
@[simp] theorem State.setWord_flash (s : State) (a : Nat) (v : W32) : (s.setWord a v).flash = s.flash := rfl
@[simp] theorem State.setWord_slots (s : State) (a : Nat) (v : W32) : (s.setWord a v).slots = s.slots := rfl
@[simp] theorem State.setWord_upd (s : State) (a : Nat) (v : W32) : (s.setWord a v).upd = s.upd := rfl
@[simp] theorem State.setWord_lcyWiped (s : State) (a : Nat) (v : W32) : (s.setWord a v).lcyWiped = s.lcyWiped := rfl
@[simp] theorem State.setWord_oemHash (s : State) (a : Nat) (v : W32) : (s.setWord a v).oemHash = s.oemHash := rfl
@[simp] theorem State.setWord_pair (s : State) (a : Nat) (v : W32) : (s.setWord a v).pair = s.pair := rfl
@[simp] theorem State.setWord_commitFrom (s : State) (a : Nat) (v : W32) : (s.setWord a v).commitFrom = s.commitFrom := rfl
@[simp] theorem State.setWord_call (s : State) (a : Nat) (v : W32) : (s.setWord a v).call = s.call := rfl
@[simp] theorem State.setWord_joined (s : State) (a : Nat) (v : W32) : (s.setWord a v).joined = s.joined := rfl
@[simp] theorem State.setWord_acted (s : State) (a : Nat) (v : W32) : (s.setWord a v).acted = s.acted := rfl

@[simp] theorem State.setLword_pending (s : State) (a : Nat) (v : W32) : (s.setLword a v).pending = s.pending := rfl
@[simp] theorem State.setLword_low (s : State) (a : Nat) (v : W32) : (s.setLword a v).low = s.low := rfl
@[simp] theorem State.setLword_booted (s : State) (a : Nat) (v : W32) : (s.setLword a v).booted = s.booted := rfl
@[simp] theorem State.setLword_upt (s : State) (a : Nat) (v : W32) : (s.setLword a v).upt = s.upt := rfl
@[simp] theorem State.setLword_cueRun (s : State) (a : Nat) (v : W32) : (s.setLword a v).cueRun = s.cueRun := rfl
@[simp] theorem State.setLword_cueByp (s : State) (a : Nat) (v : W32) : (s.setLword a v).cueByp = s.cueByp := rfl
@[simp] theorem State.setLword_regs (s : State) (a : Nat) (v : W32) : (s.setLword a v).regs = s.regs := rfl
@[simp] theorem State.setLword_mregs (s : State) (a : Nat) (v : W32) : (s.setLword a v).mregs = s.mregs := rfl
@[simp] theorem State.setLword_commits (s : State) (a : Nat) (v : W32) : (s.setLword a v).commits = s.commits := rfl
@[simp] theorem State.setLword_forced (s : State) (a : Nat) (v : W32) : (s.setLword a v).forced = s.forced := rfl
@[simp] theorem State.setLword_resp (s : State) (a : Nat) (v : W32) : (s.setLword a v).resp = s.resp := rfl
@[simp] theorem State.setLword_free (s : State) (a : Nat) (v : W32) : (s.setLword a v).free = s.free := rfl
@[simp] theorem State.setLword_fltT (s : State) (a : Nat) (v : W32) : (s.setLword a v).fltT = s.fltT := rfl
@[simp] theorem State.setLword_fltC (s : State) (a : Nat) (v : W32) : (s.setLword a v).fltC = s.fltC := rfl
@[simp] theorem State.setLword_snapNow (s : State) (a : Nat) (v : W32) : (s.setLword a v).snapNow = s.snapNow := rfl
@[simp] theorem State.setLword_snapArmed (s : State) (a : Nat) (v : W32) : (s.setLword a v).snapArmed = s.snapArmed := rfl
@[simp] theorem State.setLword_snapPages (s : State) (a : Nat) (v : W32) : (s.setLword a v).snapPages = s.snapPages := rfl
@[simp] theorem State.setLword_snapT (s : State) (a : Nat) (v : W32) : (s.setLword a v).snapT = s.snapT := rfl
@[simp] theorem State.setLword_tod (s : State) (a : Nat) (v : W32) : (s.setLword a v).tod = s.tod := rfl
@[simp] theorem State.setLword_rxl (s : State) (a : Nat) (v : W32) : (s.setLword a v).rxl = s.rxl := rfl
@[simp] theorem State.setLword_txl (s : State) (a : Nat) (v : W32) : (s.setLword a v).txl = s.txl := rfl
@[simp] theorem State.setLword_rot (s : State) (a : Nat) (v : W32) : (s.setLword a v).rot = s.rot := rfl
@[simp] theorem State.setLword_pll (s : State) (a : Nat) (v : W32) : (s.setLword a v).pll = s.pll := rfl
@[simp] theorem State.setLword_refIn (s : State) (a : Nat) (v : W32) : (s.setLword a v).refIn = s.refIn := rfl
@[simp] theorem State.setLword_refSel (s : State) (a : Nat) (v : W32) : (s.setLword a v).refSel = s.refSel := rfl
@[simp] theorem State.setLword_groups (s : State) (a : Nat) (v : W32) : (s.setLword a v).groups = s.groups := rfl
@[simp] theorem State.setLword_plat (s : State) (a : Nat) (v : W32) : (s.setLword a v).plat = s.plat := rfl
@[simp] theorem State.setLword_rxTab (s : State) (a : Nat) (v : W32) : (s.setLword a v).rxTab = s.rxTab := rfl
@[simp] theorem State.setLword_rxStage (s : State) (a : Nat) (v : W32) : (s.setLword a v).rxStage = s.rxStage := rfl
@[simp] theorem State.setLword_rxPend (s : State) (a : Nat) (v : W32) : (s.setLword a v).rxPend = s.rxPend := rfl
@[simp] theorem State.setLword_txTab (s : State) (a : Nat) (v : W32) : (s.setLword a v).txTab = s.txTab := rfl
@[simp] theorem State.setLword_txStage (s : State) (a : Nat) (v : W32) : (s.setLword a v).txStage = s.txStage := rfl
@[simp] theorem State.setLword_txPend (s : State) (a : Nat) (v : W32) : (s.setLword a v).txPend = s.txPend := rfl
@[simp] theorem State.setLword_rxEnt (s : State) (a : Nat) (v : W32) : (s.setLword a v).rxEnt = s.rxEnt := rfl
@[simp] theorem State.setLword_txEnt (s : State) (a : Nat) (v : W32) : (s.setLword a v).txEnt = s.txEnt := rfl
@[simp] theorem State.setLword_rxStored (s : State) (a : Nat) (v : W32) : (s.setLword a v).rxStored = s.rxStored := rfl
@[simp] theorem State.setLword_txStored (s : State) (a : Nat) (v : W32) : (s.setLword a v).txStored = s.txStored := rfl
@[simp] theorem State.setLword_tsq (s : State) (a : Nat) (v : W32) : (s.setLword a v).tsq = s.tsq := rfl
@[simp] theorem State.setLword_sent (s : State) (a : Nat) (v : W32) : (s.setLword a v).sent = s.sent := rfl
@[simp] theorem State.setLword_dram (s : State) (a : Nat) (v : W32) : (s.setLword a v).dram = s.dram := rfl
@[simp] theorem State.setLword_twinOut (s : State) (a : Nat) (v : W32) : (s.setLword a v).twinOut = s.twinOut := rfl
@[simp] theorem State.setLword_twinSeq (s : State) (a : Nat) (v : W32) : (s.setLword a v).twinSeq = s.twinSeq := rfl
@[simp] theorem State.setLword_journalIn (s : State) (a : Nat) (v : W32) : (s.setLword a v).journalIn = s.journalIn := rfl
@[simp] theorem State.setLword_repairs (s : State) (a : Nat) (v : W32) : (s.setLword a v).repairs = s.repairs := rfl
@[simp] theorem State.setLword_retired (s : State) (a : Nat) (v : W32) : (s.setLword a v).retired = s.retired := rfl
@[simp] theorem State.setLword_classM (s : State) (a : Nat) (v : W32) : (s.setLword a v).classM = s.classM := rfl
@[simp] theorem State.setLword_checking (s : State) (a : Nat) (v : W32) : (s.setLword a v).checking = s.checking := rfl
@[simp] theorem State.setLword_defr (s : State) (a : Nat) (v : W32) : (s.setLword a v).defr = s.defr := rfl
@[simp] theorem State.setLword_fmtr (s : State) (a : Nat) (v : W32) : (s.setLword a v).fmtr = s.fmtr := rfl
@[simp] theorem State.setLword_pitIn (s : State) (a : Nat) (v : W32) : (s.setLword a v).pitIn = s.pitIn := rfl
@[simp] theorem State.setLword_pitOut (s : State) (a : Nat) (v : W32) : (s.setLword a v).pitOut = s.pitOut := rfl
@[simp] theorem State.setLword_pitTakes (s : State) (a : Nat) (v : W32) : (s.setLword a v).pitTakes = s.pitTakes := rfl
@[simp] theorem State.setLword_pitGrid (s : State) (a : Nat) (v : W32) : (s.setLword a v).pitGrid = s.pitGrid := rfl
@[simp] theorem State.setLword_pitLast (s : State) (a : Nat) (v : W32) : (s.setLword a v).pitLast = s.pitLast := rfl
@[simp] theorem State.setLword_pitTab (s : State) (a : Nat) (v : W32) : (s.setLword a v).pitTab = s.pitTab := rfl
@[simp] theorem State.setLword_pitStage (s : State) (a : Nat) (v : W32) : (s.setLword a v).pitStage = s.pitStage := rfl
@[simp] theorem State.setLword_pitPend (s : State) (a : Nat) (v : W32) : (s.setLword a v).pitPend = s.pitPend := rfl
@[simp] theorem State.setLword_synLine (s : State) (a : Nat) (v : W32) : (s.setLword a v).synLine = s.synLine := rfl
@[simp] theorem State.setLword_tdm (s : State) (a : Nat) (v : W32) : (s.setLword a v).tdm = s.tdm := rfl
@[simp] theorem State.setLword_tdmCh (s : State) (a : Nat) (v : W32) : (s.setLword a v).tdmCh = s.tdmCh := rfl
@[simp] theorem State.setLword_tdmMask (s : State) (a : Nat) (v : W32) : (s.setLword a v).tdmMask = s.tdmMask := rfl
@[simp] theorem State.setLword_syn (s : State) (a : Nat) (v : W32) : (s.setLword a v).syn = s.syn := rfl
@[simp] theorem State.setLword_tapSel (s : State) (a : Nat) (v : W32) : (s.setLword a v).tapSel = s.tapSel := rfl
@[simp] theorem State.setLword_armed (s : State) (a : Nat) (v : W32) : (s.setLword a v).armed = s.armed := rfl
@[simp] theorem State.setLword_salvoMem (s : State) (a : Nat) (v : W32) : (s.setLword a v).salvoMem = s.salvoMem := rfl
@[simp] theorem State.setLword_sheet (s : State) (a : Nat) (v : W32) : (s.setLword a v).sheet = s.sheet := rfl
@[simp] theorem State.setLword_salvos (s : State) (a : Nat) (v : W32) : (s.setLword a v).salvos = s.salvos := rfl
@[simp] theorem State.setLword_salvoSeq (s : State) (a : Nat) (v : W32) : (s.setLword a v).salvoSeq = s.salvoSeq := rfl
@[simp] theorem State.setLword_armSeq (s : State) (a : Nat) (v : W32) : (s.setLword a v).armSeq = s.armSeq := rfl
@[simp] theorem State.setLword_results (s : State) (a : Nat) (v : W32) : (s.setLword a v).results = s.results := rfl
@[simp] theorem State.setLword_gpi (s : State) (a : Nat) (v : W32) : (s.setLword a v).gpi = s.gpi := rfl
@[simp] theorem State.setLword_pro (s : State) (a : Nat) (v : W32) : (s.setLword a v).pro = s.pro := rfl
@[simp] theorem State.setLword_lay (s : State) (a : Nat) (v : W32) : (s.setLword a v).lay = s.lay := rfl
@[simp] theorem State.setLword_coef (s : State) (a : Nat) (v : W32) : (s.setLword a v).coef = s.coef := rfl
@[simp] theorem State.setLword_coefStage (s : State) (a : Nat) (v : W32) : (s.setLword a v).coefStage = s.coefStage := rfl
@[simp] theorem State.setLword_coefPend (s : State) (a : Nat) (v : W32) : (s.setLword a v).coefPend = s.coefPend := rfl
@[simp] theorem State.setLword_dch (s : State) (a : Nat) (v : W32) : (s.setLword a v).dch = s.dch := rfl
@[simp] theorem State.setLword_dbank (s : State) (a : Nat) (v : W32) : (s.setLword a v).dbank = s.dbank := rfl
@[simp] theorem State.setLword_dseq (s : State) (a : Nat) (v : W32) : (s.setLword a v).dseq = s.dseq := rfl
@[simp] theorem State.setLword_arms (s : State) (a : Nat) (v : W32) : (s.setLword a v).arms = s.arms := rfl
@[simp] theorem State.setLword_lostParity (s : State) (a : Nat) (v : W32) : (s.setLword a v).lostParity = s.lostParity := rfl
@[simp] theorem State.setLword_txAhead (s : State) (a : Nat) (v : W32) : (s.setLword a v).txAhead = s.txAhead := rfl
@[simp] theorem State.setLword_acks (s : State) (a : Nat) (v : W32) : (s.setLword a v).acks = s.acks := rfl
@[simp] theorem State.setLword_again (s : State) (a : Nat) (v : W32) : (s.setLword a v).again = s.again := rfl
@[simp] theorem State.setLword_derr (s : State) (a : Nat) (v : W32) : (s.setLword a v).derr = s.derr := rfl
@[simp] theorem State.setLword_sflip (s : State) (a : Nat) (v : W32) : (s.setLword a v).sflip = s.sflip := rfl
@[simp] theorem State.setLword_serr (s : State) (a : Nat) (v : W32) : (s.setLword a v).serr = s.serr := rfl
@[simp] theorem State.setLword_spares (s : State) (a : Nat) (v : W32) : (s.setLword a v).spares = s.spares := rfl
@[simp] theorem State.setLword_catHeld (s : State) (a : Nat) (v : W32) : (s.setLword a v).catHeld = s.catHeld := rfl
@[simp] theorem State.setLword_crewSram (s : State) (a : Nat) (v : W32) : (s.setLword a v).crewSram = s.crewSram := rfl
@[simp] theorem State.setLword_pcieOut (s : State) (a : Nat) (v : W32) : (s.setLword a v).pcieOut = s.pcieOut := rfl
@[simp] theorem State.setLword_routes (s : State) (a : Nat) (v : W32) : (s.setLword a v).routes = s.routes := rfl
@[simp] theorem State.setLword_lines (s : State) (a : Nat) (v : W32) : (s.setLword a v).lines = s.lines := rfl
@[simp] theorem State.setLword_msixMask (s : State) (a : Nat) (v : W32) : (s.setLword a v).msixMask = s.msixMask := rfl
@[simp] theorem State.setLword_msixPend (s : State) (a : Nat) (v : W32) : (s.setLword a v).msixPend = s.msixPend := rfl
@[simp] theorem State.setLword_msi (s : State) (a : Nat) (v : W32) : (s.setLword a v).msi = s.msi := rfl
@[simp] theorem State.setLword_sdiSlept (s : State) (a : Nat) (v : W32) : (s.setLword a v).sdiSlept = s.sdiSlept := rfl
@[simp] theorem State.setLword_pathFailed (s : State) (a : Nat) (v : W32) : (s.setLword a v).pathFailed = s.pathFailed := rfl
@[simp] theorem State.setLword_wireErr (s : State) (a : Nat) (v : W32) : (s.setLword a v).wireErr = s.wireErr := rfl
@[simp] theorem State.setLword_wireLost (s : State) (a : Nat) (v : W32) : (s.setLword a v).wireLost = s.wireLost := rfl
@[simp] theorem State.setLword_fuses (s : State) (a : Nat) (v : W32) : (s.setLword a v).fuses = s.fuses := rfl
@[simp] theorem State.setLword_fuseNow (s : State) (a : Nat) (v : W32) : (s.setLword a v).fuseNow = s.fuseNow := rfl
@[simp] theorem State.setLword_avsHigh (s : State) (a : Nat) (v : W32) : (s.setLword a v).avsHigh = s.avsHigh := rfl
@[simp] theorem State.setLword_tmpCnt (s : State) (a : Nat) (v : W32) : (s.setLword a v).tmpCnt = s.tmpCnt := rfl
@[simp] theorem State.setLword_tmpWarm (s : State) (a : Nat) (v : W32) : (s.setLword a v).tmpWarm = s.tmpWarm := rfl
@[simp] theorem State.setLword_tmpHot (s : State) (a : Nat) (v : W32) : (s.setLword a v).tmpHot = s.tmpHot := rfl
@[simp] theorem State.setLword_hourTop (s : State) (a : Nat) (v : W32) : (s.setLword a v).hourTop = s.hourTop := rfl
@[simp] theorem State.setLword_hourSector (s : State) (a : Nat) (v : W32) : (s.setLword a v).hourSector = s.hourSector := rfl
@[simp] theorem State.setLword_hourRecs (s : State) (a : Nat) (v : W32) : (s.setLword a v).hourRecs = s.hourRecs := rfl
@[simp] theorem State.setLword_flash (s : State) (a : Nat) (v : W32) : (s.setLword a v).flash = s.flash := rfl
@[simp] theorem State.setLword_slots (s : State) (a : Nat) (v : W32) : (s.setLword a v).slots = s.slots := rfl
@[simp] theorem State.setLword_upd (s : State) (a : Nat) (v : W32) : (s.setLword a v).upd = s.upd := rfl
@[simp] theorem State.setLword_lcyWiped (s : State) (a : Nat) (v : W32) : (s.setLword a v).lcyWiped = s.lcyWiped := rfl
@[simp] theorem State.setLword_oemHash (s : State) (a : Nat) (v : W32) : (s.setLword a v).oemHash = s.oemHash := rfl
@[simp] theorem State.setLword_pair (s : State) (a : Nat) (v : W32) : (s.setLword a v).pair = s.pair := rfl
@[simp] theorem State.setLword_commitFrom (s : State) (a : Nat) (v : W32) : (s.setLword a v).commitFrom = s.commitFrom := rfl
@[simp] theorem State.setLword_call (s : State) (a : Nat) (v : W32) : (s.setLword a v).call = s.call := rfl
@[simp] theorem State.setLword_joined (s : State) (a : Nat) (v : W32) : (s.setLword a v).joined = s.joined := rfl
@[simp] theorem State.setLword_acted (s : State) (a : Nat) (v : W32) : (s.setLword a v).acted = s.acted := rfl

@[simp] theorem State.putMreg_pending (s : State) (k : Nat) (v : W32) : (s.putMreg k v).pending = s.pending := rfl
@[simp] theorem State.setMreg_pending (s : State) (m a : Nat) (v : W32) : (s.setMreg m a v).pending = s.pending := State.putMreg_pending ..
@[simp] theorem State.putMreg_low (s : State) (k : Nat) (v : W32) : (s.putMreg k v).low = s.low := rfl
@[simp] theorem State.setMreg_low (s : State) (m a : Nat) (v : W32) : (s.setMreg m a v).low = s.low := State.putMreg_low ..
@[simp] theorem State.putMreg_booted (s : State) (k : Nat) (v : W32) : (s.putMreg k v).booted = s.booted := rfl
@[simp] theorem State.setMreg_booted (s : State) (m a : Nat) (v : W32) : (s.setMreg m a v).booted = s.booted := State.putMreg_booted ..
@[simp] theorem State.putMreg_upt (s : State) (k : Nat) (v : W32) : (s.putMreg k v).upt = s.upt := rfl
@[simp] theorem State.setMreg_upt (s : State) (m a : Nat) (v : W32) : (s.setMreg m a v).upt = s.upt := State.putMreg_upt ..
@[simp] theorem State.putMreg_cueRun (s : State) (k : Nat) (v : W32) : (s.putMreg k v).cueRun = s.cueRun := rfl
@[simp] theorem State.setMreg_cueRun (s : State) (m a : Nat) (v : W32) : (s.setMreg m a v).cueRun = s.cueRun := State.putMreg_cueRun ..
@[simp] theorem State.putMreg_cueByp (s : State) (k : Nat) (v : W32) : (s.putMreg k v).cueByp = s.cueByp := rfl
@[simp] theorem State.setMreg_cueByp (s : State) (m a : Nat) (v : W32) : (s.setMreg m a v).cueByp = s.cueByp := State.putMreg_cueByp ..
@[simp] theorem State.putMreg_regs (s : State) (k : Nat) (v : W32) : (s.putMreg k v).regs = s.regs := rfl
@[simp] theorem State.setMreg_regs (s : State) (m a : Nat) (v : W32) : (s.setMreg m a v).regs = s.regs := State.putMreg_regs ..
@[simp] theorem State.putMreg_live (s : State) (k : Nat) (v : W32) : (s.putMreg k v).live = s.live := rfl
@[simp] theorem State.setMreg_live (s : State) (m a : Nat) (v : W32) : (s.setMreg m a v).live = s.live := State.putMreg_live ..
@[simp] theorem State.putMreg_commits (s : State) (k : Nat) (v : W32) : (s.putMreg k v).commits = s.commits := rfl
@[simp] theorem State.setMreg_commits (s : State) (m a : Nat) (v : W32) : (s.setMreg m a v).commits = s.commits := State.putMreg_commits ..
@[simp] theorem State.putMreg_forced (s : State) (k : Nat) (v : W32) : (s.putMreg k v).forced = s.forced := rfl
@[simp] theorem State.setMreg_forced (s : State) (m a : Nat) (v : W32) : (s.setMreg m a v).forced = s.forced := State.putMreg_forced ..
@[simp] theorem State.putMreg_resp (s : State) (k : Nat) (v : W32) : (s.putMreg k v).resp = s.resp := rfl
@[simp] theorem State.setMreg_resp (s : State) (m a : Nat) (v : W32) : (s.setMreg m a v).resp = s.resp := State.putMreg_resp ..
@[simp] theorem State.putMreg_free (s : State) (k : Nat) (v : W32) : (s.putMreg k v).free = s.free := rfl
@[simp] theorem State.setMreg_free (s : State) (m a : Nat) (v : W32) : (s.setMreg m a v).free = s.free := State.putMreg_free ..
@[simp] theorem State.putMreg_fltT (s : State) (k : Nat) (v : W32) : (s.putMreg k v).fltT = s.fltT := rfl
@[simp] theorem State.setMreg_fltT (s : State) (m a : Nat) (v : W32) : (s.setMreg m a v).fltT = s.fltT := State.putMreg_fltT ..
@[simp] theorem State.putMreg_fltC (s : State) (k : Nat) (v : W32) : (s.putMreg k v).fltC = s.fltC := rfl
@[simp] theorem State.setMreg_fltC (s : State) (m a : Nat) (v : W32) : (s.setMreg m a v).fltC = s.fltC := State.putMreg_fltC ..
@[simp] theorem State.putMreg_snapNow (s : State) (k : Nat) (v : W32) : (s.putMreg k v).snapNow = s.snapNow := rfl
@[simp] theorem State.setMreg_snapNow (s : State) (m a : Nat) (v : W32) : (s.setMreg m a v).snapNow = s.snapNow := State.putMreg_snapNow ..
@[simp] theorem State.putMreg_snapArmed (s : State) (k : Nat) (v : W32) : (s.putMreg k v).snapArmed = s.snapArmed := rfl
@[simp] theorem State.setMreg_snapArmed (s : State) (m a : Nat) (v : W32) : (s.setMreg m a v).snapArmed = s.snapArmed := State.putMreg_snapArmed ..
@[simp] theorem State.putMreg_snapPages (s : State) (k : Nat) (v : W32) : (s.putMreg k v).snapPages = s.snapPages := rfl
@[simp] theorem State.setMreg_snapPages (s : State) (m a : Nat) (v : W32) : (s.setMreg m a v).snapPages = s.snapPages := State.putMreg_snapPages ..
@[simp] theorem State.putMreg_snapT (s : State) (k : Nat) (v : W32) : (s.putMreg k v).snapT = s.snapT := rfl
@[simp] theorem State.setMreg_snapT (s : State) (m a : Nat) (v : W32) : (s.setMreg m a v).snapT = s.snapT := State.putMreg_snapT ..
@[simp] theorem State.putMreg_tod (s : State) (k : Nat) (v : W32) : (s.putMreg k v).tod = s.tod := rfl
@[simp] theorem State.setMreg_tod (s : State) (m a : Nat) (v : W32) : (s.setMreg m a v).tod = s.tod := State.putMreg_tod ..
@[simp] theorem State.putMreg_rxl (s : State) (k : Nat) (v : W32) : (s.putMreg k v).rxl = s.rxl := rfl
@[simp] theorem State.setMreg_rxl (s : State) (m a : Nat) (v : W32) : (s.setMreg m a v).rxl = s.rxl := State.putMreg_rxl ..
@[simp] theorem State.putMreg_txl (s : State) (k : Nat) (v : W32) : (s.putMreg k v).txl = s.txl := rfl
@[simp] theorem State.setMreg_txl (s : State) (m a : Nat) (v : W32) : (s.setMreg m a v).txl = s.txl := State.putMreg_txl ..
@[simp] theorem State.putMreg_rot (s : State) (k : Nat) (v : W32) : (s.putMreg k v).rot = s.rot := rfl
@[simp] theorem State.setMreg_rot (s : State) (m a : Nat) (v : W32) : (s.setMreg m a v).rot = s.rot := State.putMreg_rot ..
@[simp] theorem State.putMreg_pll (s : State) (k : Nat) (v : W32) : (s.putMreg k v).pll = s.pll := rfl
@[simp] theorem State.setMreg_pll (s : State) (m a : Nat) (v : W32) : (s.setMreg m a v).pll = s.pll := State.putMreg_pll ..
@[simp] theorem State.putMreg_refIn (s : State) (k : Nat) (v : W32) : (s.putMreg k v).refIn = s.refIn := rfl
@[simp] theorem State.setMreg_refIn (s : State) (m a : Nat) (v : W32) : (s.setMreg m a v).refIn = s.refIn := State.putMreg_refIn ..
@[simp] theorem State.putMreg_refSel (s : State) (k : Nat) (v : W32) : (s.putMreg k v).refSel = s.refSel := rfl
@[simp] theorem State.setMreg_refSel (s : State) (m a : Nat) (v : W32) : (s.setMreg m a v).refSel = s.refSel := State.putMreg_refSel ..
@[simp] theorem State.putMreg_groups (s : State) (k : Nat) (v : W32) : (s.putMreg k v).groups = s.groups := rfl
@[simp] theorem State.setMreg_groups (s : State) (m a : Nat) (v : W32) : (s.setMreg m a v).groups = s.groups := State.putMreg_groups ..
@[simp] theorem State.putMreg_plat (s : State) (k : Nat) (v : W32) : (s.putMreg k v).plat = s.plat := rfl
@[simp] theorem State.setMreg_plat (s : State) (m a : Nat) (v : W32) : (s.setMreg m a v).plat = s.plat := State.putMreg_plat ..
@[simp] theorem State.putMreg_rxTab (s : State) (k : Nat) (v : W32) : (s.putMreg k v).rxTab = s.rxTab := rfl
@[simp] theorem State.setMreg_rxTab (s : State) (m a : Nat) (v : W32) : (s.setMreg m a v).rxTab = s.rxTab := State.putMreg_rxTab ..
@[simp] theorem State.putMreg_rxStage (s : State) (k : Nat) (v : W32) : (s.putMreg k v).rxStage = s.rxStage := rfl
@[simp] theorem State.setMreg_rxStage (s : State) (m a : Nat) (v : W32) : (s.setMreg m a v).rxStage = s.rxStage := State.putMreg_rxStage ..
@[simp] theorem State.putMreg_rxPend (s : State) (k : Nat) (v : W32) : (s.putMreg k v).rxPend = s.rxPend := rfl
@[simp] theorem State.setMreg_rxPend (s : State) (m a : Nat) (v : W32) : (s.setMreg m a v).rxPend = s.rxPend := State.putMreg_rxPend ..
@[simp] theorem State.putMreg_txTab (s : State) (k : Nat) (v : W32) : (s.putMreg k v).txTab = s.txTab := rfl
@[simp] theorem State.setMreg_txTab (s : State) (m a : Nat) (v : W32) : (s.setMreg m a v).txTab = s.txTab := State.putMreg_txTab ..
@[simp] theorem State.putMreg_txStage (s : State) (k : Nat) (v : W32) : (s.putMreg k v).txStage = s.txStage := rfl
@[simp] theorem State.setMreg_txStage (s : State) (m a : Nat) (v : W32) : (s.setMreg m a v).txStage = s.txStage := State.putMreg_txStage ..
@[simp] theorem State.putMreg_txPend (s : State) (k : Nat) (v : W32) : (s.putMreg k v).txPend = s.txPend := rfl
@[simp] theorem State.setMreg_txPend (s : State) (m a : Nat) (v : W32) : (s.setMreg m a v).txPend = s.txPend := State.putMreg_txPend ..
@[simp] theorem State.putMreg_rxEnt (s : State) (k : Nat) (v : W32) : (s.putMreg k v).rxEnt = s.rxEnt := rfl
@[simp] theorem State.setMreg_rxEnt (s : State) (m a : Nat) (v : W32) : (s.setMreg m a v).rxEnt = s.rxEnt := State.putMreg_rxEnt ..
@[simp] theorem State.putMreg_txEnt (s : State) (k : Nat) (v : W32) : (s.putMreg k v).txEnt = s.txEnt := rfl
@[simp] theorem State.setMreg_txEnt (s : State) (m a : Nat) (v : W32) : (s.setMreg m a v).txEnt = s.txEnt := State.putMreg_txEnt ..
@[simp] theorem State.putMreg_rxStored (s : State) (k : Nat) (v : W32) : (s.putMreg k v).rxStored = s.rxStored := rfl
@[simp] theorem State.setMreg_rxStored (s : State) (m a : Nat) (v : W32) : (s.setMreg m a v).rxStored = s.rxStored := State.putMreg_rxStored ..
@[simp] theorem State.putMreg_txStored (s : State) (k : Nat) (v : W32) : (s.putMreg k v).txStored = s.txStored := rfl
@[simp] theorem State.setMreg_txStored (s : State) (m a : Nat) (v : W32) : (s.setMreg m a v).txStored = s.txStored := State.putMreg_txStored ..
@[simp] theorem State.putMreg_tsq (s : State) (k : Nat) (v : W32) : (s.putMreg k v).tsq = s.tsq := rfl
@[simp] theorem State.setMreg_tsq (s : State) (m a : Nat) (v : W32) : (s.setMreg m a v).tsq = s.tsq := State.putMreg_tsq ..
@[simp] theorem State.putMreg_sent (s : State) (k : Nat) (v : W32) : (s.putMreg k v).sent = s.sent := rfl
@[simp] theorem State.setMreg_sent (s : State) (m a : Nat) (v : W32) : (s.setMreg m a v).sent = s.sent := State.putMreg_sent ..
@[simp] theorem State.putMreg_dram (s : State) (k : Nat) (v : W32) : (s.putMreg k v).dram = s.dram := rfl
@[simp] theorem State.setMreg_dram (s : State) (m a : Nat) (v : W32) : (s.setMreg m a v).dram = s.dram := State.putMreg_dram ..
@[simp] theorem State.putMreg_twinOut (s : State) (k : Nat) (v : W32) : (s.putMreg k v).twinOut = s.twinOut := rfl
@[simp] theorem State.setMreg_twinOut (s : State) (m a : Nat) (v : W32) : (s.setMreg m a v).twinOut = s.twinOut := State.putMreg_twinOut ..
@[simp] theorem State.putMreg_twinSeq (s : State) (k : Nat) (v : W32) : (s.putMreg k v).twinSeq = s.twinSeq := rfl
@[simp] theorem State.setMreg_twinSeq (s : State) (m a : Nat) (v : W32) : (s.setMreg m a v).twinSeq = s.twinSeq := State.putMreg_twinSeq ..
@[simp] theorem State.putMreg_journalIn (s : State) (k : Nat) (v : W32) : (s.putMreg k v).journalIn = s.journalIn := rfl
@[simp] theorem State.setMreg_journalIn (s : State) (m a : Nat) (v : W32) : (s.setMreg m a v).journalIn = s.journalIn := State.putMreg_journalIn ..
@[simp] theorem State.putMreg_repairs (s : State) (k : Nat) (v : W32) : (s.putMreg k v).repairs = s.repairs := rfl
@[simp] theorem State.setMreg_repairs (s : State) (m a : Nat) (v : W32) : (s.setMreg m a v).repairs = s.repairs := State.putMreg_repairs ..
@[simp] theorem State.putMreg_retired (s : State) (k : Nat) (v : W32) : (s.putMreg k v).retired = s.retired := rfl
@[simp] theorem State.setMreg_retired (s : State) (m a : Nat) (v : W32) : (s.setMreg m a v).retired = s.retired := State.putMreg_retired ..
@[simp] theorem State.putMreg_classM (s : State) (k : Nat) (v : W32) : (s.putMreg k v).classM = s.classM := rfl
@[simp] theorem State.setMreg_classM (s : State) (m a : Nat) (v : W32) : (s.setMreg m a v).classM = s.classM := State.putMreg_classM ..
@[simp] theorem State.putMreg_checking (s : State) (k : Nat) (v : W32) : (s.putMreg k v).checking = s.checking := rfl
@[simp] theorem State.setMreg_checking (s : State) (m a : Nat) (v : W32) : (s.setMreg m a v).checking = s.checking := State.putMreg_checking ..
@[simp] theorem State.putMreg_defr (s : State) (k : Nat) (v : W32) : (s.putMreg k v).defr = s.defr := rfl
@[simp] theorem State.setMreg_defr (s : State) (m a : Nat) (v : W32) : (s.setMreg m a v).defr = s.defr := State.putMreg_defr ..
@[simp] theorem State.putMreg_fmtr (s : State) (k : Nat) (v : W32) : (s.putMreg k v).fmtr = s.fmtr := rfl
@[simp] theorem State.setMreg_fmtr (s : State) (m a : Nat) (v : W32) : (s.setMreg m a v).fmtr = s.fmtr := State.putMreg_fmtr ..
@[simp] theorem State.putMreg_pitIn (s : State) (k : Nat) (v : W32) : (s.putMreg k v).pitIn = s.pitIn := rfl
@[simp] theorem State.setMreg_pitIn (s : State) (m a : Nat) (v : W32) : (s.setMreg m a v).pitIn = s.pitIn := State.putMreg_pitIn ..
@[simp] theorem State.putMreg_pitOut (s : State) (k : Nat) (v : W32) : (s.putMreg k v).pitOut = s.pitOut := rfl
@[simp] theorem State.setMreg_pitOut (s : State) (m a : Nat) (v : W32) : (s.setMreg m a v).pitOut = s.pitOut := State.putMreg_pitOut ..
@[simp] theorem State.putMreg_pitTakes (s : State) (k : Nat) (v : W32) : (s.putMreg k v).pitTakes = s.pitTakes := rfl
@[simp] theorem State.setMreg_pitTakes (s : State) (m a : Nat) (v : W32) : (s.setMreg m a v).pitTakes = s.pitTakes := State.putMreg_pitTakes ..
@[simp] theorem State.putMreg_pitGrid (s : State) (k : Nat) (v : W32) : (s.putMreg k v).pitGrid = s.pitGrid := rfl
@[simp] theorem State.setMreg_pitGrid (s : State) (m a : Nat) (v : W32) : (s.setMreg m a v).pitGrid = s.pitGrid := State.putMreg_pitGrid ..
@[simp] theorem State.putMreg_pitLast (s : State) (k : Nat) (v : W32) : (s.putMreg k v).pitLast = s.pitLast := rfl
@[simp] theorem State.setMreg_pitLast (s : State) (m a : Nat) (v : W32) : (s.setMreg m a v).pitLast = s.pitLast := State.putMreg_pitLast ..
@[simp] theorem State.putMreg_pitTab (s : State) (k : Nat) (v : W32) : (s.putMreg k v).pitTab = s.pitTab := rfl
@[simp] theorem State.setMreg_pitTab (s : State) (m a : Nat) (v : W32) : (s.setMreg m a v).pitTab = s.pitTab := State.putMreg_pitTab ..
@[simp] theorem State.putMreg_pitStage (s : State) (k : Nat) (v : W32) : (s.putMreg k v).pitStage = s.pitStage := rfl
@[simp] theorem State.setMreg_pitStage (s : State) (m a : Nat) (v : W32) : (s.setMreg m a v).pitStage = s.pitStage := State.putMreg_pitStage ..
@[simp] theorem State.putMreg_pitPend (s : State) (k : Nat) (v : W32) : (s.putMreg k v).pitPend = s.pitPend := rfl
@[simp] theorem State.setMreg_pitPend (s : State) (m a : Nat) (v : W32) : (s.setMreg m a v).pitPend = s.pitPend := State.putMreg_pitPend ..
@[simp] theorem State.putMreg_synLine (s : State) (k : Nat) (v : W32) : (s.putMreg k v).synLine = s.synLine := rfl
@[simp] theorem State.setMreg_synLine (s : State) (m a : Nat) (v : W32) : (s.setMreg m a v).synLine = s.synLine := State.putMreg_synLine ..
@[simp] theorem State.putMreg_tdm (s : State) (k : Nat) (v : W32) : (s.putMreg k v).tdm = s.tdm := rfl
@[simp] theorem State.setMreg_tdm (s : State) (m a : Nat) (v : W32) : (s.setMreg m a v).tdm = s.tdm := State.putMreg_tdm ..
@[simp] theorem State.putMreg_tdmCh (s : State) (k : Nat) (v : W32) : (s.putMreg k v).tdmCh = s.tdmCh := rfl
@[simp] theorem State.setMreg_tdmCh (s : State) (m a : Nat) (v : W32) : (s.setMreg m a v).tdmCh = s.tdmCh := State.putMreg_tdmCh ..
@[simp] theorem State.putMreg_tdmMask (s : State) (k : Nat) (v : W32) : (s.putMreg k v).tdmMask = s.tdmMask := rfl
@[simp] theorem State.setMreg_tdmMask (s : State) (m a : Nat) (v : W32) : (s.setMreg m a v).tdmMask = s.tdmMask := State.putMreg_tdmMask ..
@[simp] theorem State.putMreg_syn (s : State) (k : Nat) (v : W32) : (s.putMreg k v).syn = s.syn := rfl
@[simp] theorem State.setMreg_syn (s : State) (m a : Nat) (v : W32) : (s.setMreg m a v).syn = s.syn := State.putMreg_syn ..
@[simp] theorem State.putMreg_tapSel (s : State) (k : Nat) (v : W32) : (s.putMreg k v).tapSel = s.tapSel := rfl
@[simp] theorem State.setMreg_tapSel (s : State) (m a : Nat) (v : W32) : (s.setMreg m a v).tapSel = s.tapSel := State.putMreg_tapSel ..
@[simp] theorem State.putMreg_armed (s : State) (k : Nat) (v : W32) : (s.putMreg k v).armed = s.armed := rfl
@[simp] theorem State.setMreg_armed (s : State) (m a : Nat) (v : W32) : (s.setMreg m a v).armed = s.armed := State.putMreg_armed ..
@[simp] theorem State.putMreg_salvoMem (s : State) (k : Nat) (v : W32) : (s.putMreg k v).salvoMem = s.salvoMem := rfl
@[simp] theorem State.setMreg_salvoMem (s : State) (m a : Nat) (v : W32) : (s.setMreg m a v).salvoMem = s.salvoMem := State.putMreg_salvoMem ..
@[simp] theorem State.putMreg_sheet (s : State) (k : Nat) (v : W32) : (s.putMreg k v).sheet = s.sheet := rfl
@[simp] theorem State.setMreg_sheet (s : State) (m a : Nat) (v : W32) : (s.setMreg m a v).sheet = s.sheet := State.putMreg_sheet ..
@[simp] theorem State.putMreg_salvos (s : State) (k : Nat) (v : W32) : (s.putMreg k v).salvos = s.salvos := rfl
@[simp] theorem State.setMreg_salvos (s : State) (m a : Nat) (v : W32) : (s.setMreg m a v).salvos = s.salvos := State.putMreg_salvos ..
@[simp] theorem State.putMreg_salvoSeq (s : State) (k : Nat) (v : W32) : (s.putMreg k v).salvoSeq = s.salvoSeq := rfl
@[simp] theorem State.setMreg_salvoSeq (s : State) (m a : Nat) (v : W32) : (s.setMreg m a v).salvoSeq = s.salvoSeq := State.putMreg_salvoSeq ..
@[simp] theorem State.putMreg_armSeq (s : State) (k : Nat) (v : W32) : (s.putMreg k v).armSeq = s.armSeq := rfl
@[simp] theorem State.setMreg_armSeq (s : State) (m a : Nat) (v : W32) : (s.setMreg m a v).armSeq = s.armSeq := State.putMreg_armSeq ..
@[simp] theorem State.putMreg_results (s : State) (k : Nat) (v : W32) : (s.putMreg k v).results = s.results := rfl
@[simp] theorem State.setMreg_results (s : State) (m a : Nat) (v : W32) : (s.setMreg m a v).results = s.results := State.putMreg_results ..
@[simp] theorem State.putMreg_gpi (s : State) (k : Nat) (v : W32) : (s.putMreg k v).gpi = s.gpi := rfl
@[simp] theorem State.setMreg_gpi (s : State) (m a : Nat) (v : W32) : (s.setMreg m a v).gpi = s.gpi := State.putMreg_gpi ..
@[simp] theorem State.putMreg_pro (s : State) (k : Nat) (v : W32) : (s.putMreg k v).pro = s.pro := rfl
@[simp] theorem State.setMreg_pro (s : State) (m a : Nat) (v : W32) : (s.setMreg m a v).pro = s.pro := State.putMreg_pro ..
@[simp] theorem State.putMreg_lay (s : State) (k : Nat) (v : W32) : (s.putMreg k v).lay = s.lay := rfl
@[simp] theorem State.setMreg_lay (s : State) (m a : Nat) (v : W32) : (s.setMreg m a v).lay = s.lay := State.putMreg_lay ..
@[simp] theorem State.putMreg_coef (s : State) (k : Nat) (v : W32) : (s.putMreg k v).coef = s.coef := rfl
@[simp] theorem State.setMreg_coef (s : State) (m a : Nat) (v : W32) : (s.setMreg m a v).coef = s.coef := State.putMreg_coef ..
@[simp] theorem State.putMreg_coefStage (s : State) (k : Nat) (v : W32) : (s.putMreg k v).coefStage = s.coefStage := rfl
@[simp] theorem State.setMreg_coefStage (s : State) (m a : Nat) (v : W32) : (s.setMreg m a v).coefStage = s.coefStage := State.putMreg_coefStage ..
@[simp] theorem State.putMreg_coefPend (s : State) (k : Nat) (v : W32) : (s.putMreg k v).coefPend = s.coefPend := rfl
@[simp] theorem State.setMreg_coefPend (s : State) (m a : Nat) (v : W32) : (s.setMreg m a v).coefPend = s.coefPend := State.putMreg_coefPend ..
@[simp] theorem State.putMreg_dch (s : State) (k : Nat) (v : W32) : (s.putMreg k v).dch = s.dch := rfl
@[simp] theorem State.setMreg_dch (s : State) (m a : Nat) (v : W32) : (s.setMreg m a v).dch = s.dch := State.putMreg_dch ..
@[simp] theorem State.putMreg_dbank (s : State) (k : Nat) (v : W32) : (s.putMreg k v).dbank = s.dbank := rfl
@[simp] theorem State.setMreg_dbank (s : State) (m a : Nat) (v : W32) : (s.setMreg m a v).dbank = s.dbank := State.putMreg_dbank ..
@[simp] theorem State.putMreg_dseq (s : State) (k : Nat) (v : W32) : (s.putMreg k v).dseq = s.dseq := rfl
@[simp] theorem State.putMreg_arms (s : State) (k : Nat) (v : W32) : (s.putMreg k v).arms = s.arms := rfl
@[simp] theorem State.putMreg_lostParity (s : State) (k : Nat) (v : W32) : (s.putMreg k v).lostParity = s.lostParity := rfl
@[simp] theorem State.putMreg_txAhead (s : State) (k : Nat) (v : W32) : (s.putMreg k v).txAhead = s.txAhead := rfl
@[simp] theorem State.putMreg_acks (s : State) (k : Nat) (v : W32) : (s.putMreg k v).acks = s.acks := rfl
@[simp] theorem State.putMreg_again (s : State) (k : Nat) (v : W32) : (s.putMreg k v).again = s.again := rfl
@[simp] theorem State.setMreg_dseq (s : State) (m a : Nat) (v : W32) : (s.setMreg m a v).dseq = s.dseq := State.putMreg_dseq ..
@[simp] theorem State.setMreg_arms (s : State) (m a : Nat) (v : W32) : (s.setMreg m a v).arms = s.arms := State.putMreg_arms ..
@[simp] theorem State.setMreg_lostParity (s : State) (m a : Nat) (v : W32) : (s.setMreg m a v).lostParity = s.lostParity := State.putMreg_lostParity ..
@[simp] theorem State.setMreg_txAhead (s : State) (m a : Nat) (v : W32) : (s.setMreg m a v).txAhead = s.txAhead := State.putMreg_txAhead ..
@[simp] theorem State.setMreg_acks (s : State) (m a : Nat) (v : W32) : (s.setMreg m a v).acks = s.acks := State.putMreg_acks ..
@[simp] theorem State.setMreg_again (s : State) (m a : Nat) (v : W32) : (s.setMreg m a v).again = s.again := State.putMreg_again ..
@[simp] theorem State.putMreg_derr (s : State) (k : Nat) (v : W32) : (s.putMreg k v).derr = s.derr := rfl
@[simp] theorem State.setMreg_derr (s : State) (m a : Nat) (v : W32) : (s.setMreg m a v).derr = s.derr := State.putMreg_derr ..
@[simp] theorem State.putMreg_sflip (s : State) (k : Nat) (v : W32) : (s.putMreg k v).sflip = s.sflip := rfl
@[simp] theorem State.setMreg_sflip (s : State) (m a : Nat) (v : W32) : (s.setMreg m a v).sflip = s.sflip := State.putMreg_sflip ..
@[simp] theorem State.putMreg_serr (s : State) (k : Nat) (v : W32) : (s.putMreg k v).serr = s.serr := rfl
@[simp] theorem State.setMreg_serr (s : State) (m a : Nat) (v : W32) : (s.setMreg m a v).serr = s.serr := State.putMreg_serr ..
@[simp] theorem State.putMreg_spares (s : State) (k : Nat) (v : W32) : (s.putMreg k v).spares = s.spares := rfl
@[simp] theorem State.setMreg_spares (s : State) (m a : Nat) (v : W32) : (s.setMreg m a v).spares = s.spares := State.putMreg_spares ..
@[simp] theorem State.putMreg_catHeld (s : State) (k : Nat) (v : W32) : (s.putMreg k v).catHeld = s.catHeld := rfl
@[simp] theorem State.setMreg_catHeld (s : State) (m a : Nat) (v : W32) : (s.setMreg m a v).catHeld = s.catHeld := State.putMreg_catHeld ..
@[simp] theorem State.putMreg_crewSram (s : State) (k : Nat) (v : W32) : (s.putMreg k v).crewSram = s.crewSram := rfl
@[simp] theorem State.setMreg_crewSram (s : State) (m a : Nat) (v : W32) : (s.setMreg m a v).crewSram = s.crewSram := State.putMreg_crewSram ..
@[simp] theorem State.putMreg_pcieOut (s : State) (k : Nat) (v : W32) : (s.putMreg k v).pcieOut = s.pcieOut := rfl
@[simp] theorem State.setMreg_pcieOut (s : State) (m a : Nat) (v : W32) : (s.setMreg m a v).pcieOut = s.pcieOut := State.putMreg_pcieOut ..
@[simp] theorem State.putMreg_routes (s : State) (k : Nat) (v : W32) : (s.putMreg k v).routes = s.routes := rfl
@[simp] theorem State.setMreg_routes (s : State) (m a : Nat) (v : W32) : (s.setMreg m a v).routes = s.routes := State.putMreg_routes ..
@[simp] theorem State.putMreg_lines (s : State) (k : Nat) (v : W32) : (s.putMreg k v).lines = s.lines := rfl
@[simp] theorem State.setMreg_lines (s : State) (m a : Nat) (v : W32) : (s.setMreg m a v).lines = s.lines := State.putMreg_lines ..
@[simp] theorem State.putMreg_msixMask (s : State) (k : Nat) (v : W32) : (s.putMreg k v).msixMask = s.msixMask := rfl
@[simp] theorem State.setMreg_msixMask (s : State) (m a : Nat) (v : W32) : (s.setMreg m a v).msixMask = s.msixMask := State.putMreg_msixMask ..
@[simp] theorem State.putMreg_msixPend (s : State) (k : Nat) (v : W32) : (s.putMreg k v).msixPend = s.msixPend := rfl
@[simp] theorem State.setMreg_msixPend (s : State) (m a : Nat) (v : W32) : (s.setMreg m a v).msixPend = s.msixPend := State.putMreg_msixPend ..
@[simp] theorem State.putMreg_msi (s : State) (k : Nat) (v : W32) : (s.putMreg k v).msi = s.msi := rfl
@[simp] theorem State.setMreg_msi (s : State) (m a : Nat) (v : W32) : (s.setMreg m a v).msi = s.msi := State.putMreg_msi ..
@[simp] theorem State.putMreg_sdiSlept (s : State) (k : Nat) (v : W32) : (s.putMreg k v).sdiSlept = s.sdiSlept := rfl
@[simp] theorem State.setMreg_sdiSlept (s : State) (m a : Nat) (v : W32) : (s.setMreg m a v).sdiSlept = s.sdiSlept := State.putMreg_sdiSlept ..
@[simp] theorem State.putMreg_pathFailed (s : State) (k : Nat) (v : W32) : (s.putMreg k v).pathFailed = s.pathFailed := rfl
@[simp] theorem State.setMreg_pathFailed (s : State) (m a : Nat) (v : W32) : (s.setMreg m a v).pathFailed = s.pathFailed := State.putMreg_pathFailed ..
@[simp] theorem State.putMreg_wireErr (s : State) (k : Nat) (v : W32) : (s.putMreg k v).wireErr = s.wireErr := rfl
@[simp] theorem State.setMreg_wireErr (s : State) (m a : Nat) (v : W32) : (s.setMreg m a v).wireErr = s.wireErr := State.putMreg_wireErr ..
@[simp] theorem State.putMreg_wireLost (s : State) (k : Nat) (v : W32) : (s.putMreg k v).wireLost = s.wireLost := rfl
@[simp] theorem State.setMreg_wireLost (s : State) (m a : Nat) (v : W32) : (s.setMreg m a v).wireLost = s.wireLost := State.putMreg_wireLost ..
@[simp] theorem State.putMreg_fuses (s : State) (k : Nat) (v : W32) : (s.putMreg k v).fuses = s.fuses := rfl
@[simp] theorem State.setMreg_fuses (s : State) (m a : Nat) (v : W32) : (s.setMreg m a v).fuses = s.fuses := State.putMreg_fuses ..
@[simp] theorem State.putMreg_fuseNow (s : State) (k : Nat) (v : W32) : (s.putMreg k v).fuseNow = s.fuseNow := rfl
@[simp] theorem State.setMreg_fuseNow (s : State) (m a : Nat) (v : W32) : (s.setMreg m a v).fuseNow = s.fuseNow := State.putMreg_fuseNow ..
@[simp] theorem State.putMreg_avsHigh (s : State) (k : Nat) (v : W32) : (s.putMreg k v).avsHigh = s.avsHigh := rfl
@[simp] theorem State.setMreg_avsHigh (s : State) (m a : Nat) (v : W32) : (s.setMreg m a v).avsHigh = s.avsHigh := State.putMreg_avsHigh ..
@[simp] theorem State.putMreg_tmpCnt (s : State) (k : Nat) (v : W32) : (s.putMreg k v).tmpCnt = s.tmpCnt := rfl
@[simp] theorem State.setMreg_tmpCnt (s : State) (m a : Nat) (v : W32) : (s.setMreg m a v).tmpCnt = s.tmpCnt := State.putMreg_tmpCnt ..
@[simp] theorem State.putMreg_tmpWarm (s : State) (k : Nat) (v : W32) : (s.putMreg k v).tmpWarm = s.tmpWarm := rfl
@[simp] theorem State.setMreg_tmpWarm (s : State) (m a : Nat) (v : W32) : (s.setMreg m a v).tmpWarm = s.tmpWarm := State.putMreg_tmpWarm ..
@[simp] theorem State.putMreg_tmpHot (s : State) (k : Nat) (v : W32) : (s.putMreg k v).tmpHot = s.tmpHot := rfl
@[simp] theorem State.setMreg_tmpHot (s : State) (m a : Nat) (v : W32) : (s.setMreg m a v).tmpHot = s.tmpHot := State.putMreg_tmpHot ..
@[simp] theorem State.putMreg_hourTop (s : State) (k : Nat) (v : W32) : (s.putMreg k v).hourTop = s.hourTop := rfl
@[simp] theorem State.setMreg_hourTop (s : State) (m a : Nat) (v : W32) : (s.setMreg m a v).hourTop = s.hourTop := State.putMreg_hourTop ..
@[simp] theorem State.putMreg_hourSector (s : State) (k : Nat) (v : W32) : (s.putMreg k v).hourSector = s.hourSector := rfl
@[simp] theorem State.setMreg_hourSector (s : State) (m a : Nat) (v : W32) : (s.setMreg m a v).hourSector = s.hourSector := State.putMreg_hourSector ..
@[simp] theorem State.putMreg_hourRecs (s : State) (k : Nat) (v : W32) : (s.putMreg k v).hourRecs = s.hourRecs := rfl
@[simp] theorem State.setMreg_hourRecs (s : State) (m a : Nat) (v : W32) : (s.setMreg m a v).hourRecs = s.hourRecs := State.putMreg_hourRecs ..
@[simp] theorem State.putMreg_flash (s : State) (k : Nat) (v : W32) : (s.putMreg k v).flash = s.flash := rfl
@[simp] theorem State.setMreg_flash (s : State) (m a : Nat) (v : W32) : (s.setMreg m a v).flash = s.flash := State.putMreg_flash ..
@[simp] theorem State.putMreg_slots (s : State) (k : Nat) (v : W32) : (s.putMreg k v).slots = s.slots := rfl
@[simp] theorem State.setMreg_slots (s : State) (m a : Nat) (v : W32) : (s.setMreg m a v).slots = s.slots := State.putMreg_slots ..
@[simp] theorem State.putMreg_upd (s : State) (k : Nat) (v : W32) : (s.putMreg k v).upd = s.upd := rfl
@[simp] theorem State.setMreg_upd (s : State) (m a : Nat) (v : W32) : (s.setMreg m a v).upd = s.upd := State.putMreg_upd ..
@[simp] theorem State.putMreg_lcyWiped (s : State) (k : Nat) (v : W32) : (s.putMreg k v).lcyWiped = s.lcyWiped := rfl
@[simp] theorem State.setMreg_lcyWiped (s : State) (m a : Nat) (v : W32) : (s.setMreg m a v).lcyWiped = s.lcyWiped := State.putMreg_lcyWiped ..
@[simp] theorem State.putMreg_oemHash (s : State) (k : Nat) (v : W32) : (s.putMreg k v).oemHash = s.oemHash := rfl
@[simp] theorem State.setMreg_oemHash (s : State) (m a : Nat) (v : W32) : (s.setMreg m a v).oemHash = s.oemHash := State.putMreg_oemHash ..
@[simp] theorem State.putMreg_pair (s : State) (k : Nat) (v : W32) : (s.putMreg k v).pair = s.pair := rfl
@[simp] theorem State.setMreg_pair (s : State) (m a : Nat) (v : W32) : (s.setMreg m a v).pair = s.pair := State.putMreg_pair ..
@[simp] theorem State.putMreg_commitFrom (s : State) (k : Nat) (v : W32) : (s.putMreg k v).commitFrom = s.commitFrom := rfl
@[simp] theorem State.setMreg_commitFrom (s : State) (m a : Nat) (v : W32) : (s.setMreg m a v).commitFrom = s.commitFrom := State.putMreg_commitFrom ..
@[simp] theorem State.putMreg_call (s : State) (k : Nat) (v : W32) : (s.putMreg k v).call = s.call := rfl
@[simp] theorem State.setMreg_call (s : State) (m a : Nat) (v : W32) : (s.setMreg m a v).call = s.call := State.putMreg_call ..
@[simp] theorem State.putMreg_joined (s : State) (k : Nat) (v : W32) : (s.putMreg k v).joined = s.joined := rfl
@[simp] theorem State.setMreg_joined (s : State) (m a : Nat) (v : W32) : (s.setMreg m a v).joined = s.joined := State.putMreg_joined ..
@[simp] theorem State.putMreg_acted (s : State) (k : Nat) (v : W32) : (s.putMreg k v).acted = s.acted := rfl
@[simp] theorem State.setMreg_acted (s : State) (m a : Nat) (v : W32) : (s.setMreg m a v).acted = s.acted := State.putMreg_acted ..

@[simp] theorem State.setFld_pending (s : State) (p : Nat) (f : Fld) (v i : Nat) : (s.setFld p f v i).pending = s.pending := rfl
@[simp] theorem State.setFld_low (s : State) (p : Nat) (f : Fld) (v i : Nat) : (s.setFld p f v i).low = s.low := rfl
@[simp] theorem State.setFld_booted (s : State) (p : Nat) (f : Fld) (v i : Nat) : (s.setFld p f v i).booted = s.booted := rfl
@[simp] theorem State.setFld_upt (s : State) (p : Nat) (f : Fld) (v i : Nat) : (s.setFld p f v i).upt = s.upt := rfl
@[simp] theorem State.setFld_cueRun (s : State) (p : Nat) (f : Fld) (v i : Nat) : (s.setFld p f v i).cueRun = s.cueRun := rfl
@[simp] theorem State.setFld_cueByp (s : State) (p : Nat) (f : Fld) (v i : Nat) : (s.setFld p f v i).cueByp = s.cueByp := rfl
@[simp] theorem State.setFld_live (s : State) (p : Nat) (f : Fld) (v i : Nat) : (s.setFld p f v i).live = s.live := rfl
@[simp] theorem State.setFld_mregs (s : State) (p : Nat) (f : Fld) (v i : Nat) : (s.setFld p f v i).mregs = s.mregs := rfl
@[simp] theorem State.setFld_commits (s : State) (p : Nat) (f : Fld) (v i : Nat) : (s.setFld p f v i).commits = s.commits := rfl
@[simp] theorem State.setFld_forced (s : State) (p : Nat) (f : Fld) (v i : Nat) : (s.setFld p f v i).forced = s.forced := rfl
@[simp] theorem State.setFld_resp (s : State) (p : Nat) (f : Fld) (v i : Nat) : (s.setFld p f v i).resp = s.resp := rfl
@[simp] theorem State.setFld_free (s : State) (p : Nat) (f : Fld) (v i : Nat) : (s.setFld p f v i).free = s.free := rfl
@[simp] theorem State.setFld_fltT (s : State) (p : Nat) (f : Fld) (v i : Nat) : (s.setFld p f v i).fltT = s.fltT := rfl
@[simp] theorem State.setFld_fltC (s : State) (p : Nat) (f : Fld) (v i : Nat) : (s.setFld p f v i).fltC = s.fltC := rfl
@[simp] theorem State.setFld_snapNow (s : State) (p : Nat) (f : Fld) (v i : Nat) : (s.setFld p f v i).snapNow = s.snapNow := rfl
@[simp] theorem State.setFld_snapArmed (s : State) (p : Nat) (f : Fld) (v i : Nat) : (s.setFld p f v i).snapArmed = s.snapArmed := rfl
@[simp] theorem State.setFld_snapPages (s : State) (p : Nat) (f : Fld) (v i : Nat) : (s.setFld p f v i).snapPages = s.snapPages := rfl
@[simp] theorem State.setFld_snapT (s : State) (p : Nat) (f : Fld) (v i : Nat) : (s.setFld p f v i).snapT = s.snapT := rfl
@[simp] theorem State.setFld_tod (s : State) (p : Nat) (f : Fld) (v i : Nat) : (s.setFld p f v i).tod = s.tod := rfl
@[simp] theorem State.setFld_rxl (s : State) (p : Nat) (f : Fld) (v i : Nat) : (s.setFld p f v i).rxl = s.rxl := rfl
@[simp] theorem State.setFld_txl (s : State) (p : Nat) (f : Fld) (v i : Nat) : (s.setFld p f v i).txl = s.txl := rfl
@[simp] theorem State.setFld_rot (s : State) (p : Nat) (f : Fld) (v i : Nat) : (s.setFld p f v i).rot = s.rot := rfl
@[simp] theorem State.setFld_pll (s : State) (p : Nat) (f : Fld) (v i : Nat) : (s.setFld p f v i).pll = s.pll := rfl
@[simp] theorem State.setFld_refIn (s : State) (p : Nat) (f : Fld) (v i : Nat) : (s.setFld p f v i).refIn = s.refIn := rfl
@[simp] theorem State.setFld_refSel (s : State) (p : Nat) (f : Fld) (v i : Nat) : (s.setFld p f v i).refSel = s.refSel := rfl
@[simp] theorem State.setFld_groups (s : State) (p : Nat) (f : Fld) (v i : Nat) : (s.setFld p f v i).groups = s.groups := rfl
@[simp] theorem State.setFld_plat (s : State) (p : Nat) (f : Fld) (v i : Nat) : (s.setFld p f v i).plat = s.plat := rfl
@[simp] theorem State.setFld_rxTab (s : State) (p : Nat) (f : Fld) (v i : Nat) : (s.setFld p f v i).rxTab = s.rxTab := rfl
@[simp] theorem State.setFld_rxStage (s : State) (p : Nat) (f : Fld) (v i : Nat) : (s.setFld p f v i).rxStage = s.rxStage := rfl
@[simp] theorem State.setFld_rxPend (s : State) (p : Nat) (f : Fld) (v i : Nat) : (s.setFld p f v i).rxPend = s.rxPend := rfl
@[simp] theorem State.setFld_txTab (s : State) (p : Nat) (f : Fld) (v i : Nat) : (s.setFld p f v i).txTab = s.txTab := rfl
@[simp] theorem State.setFld_txStage (s : State) (p : Nat) (f : Fld) (v i : Nat) : (s.setFld p f v i).txStage = s.txStage := rfl
@[simp] theorem State.setFld_txPend (s : State) (p : Nat) (f : Fld) (v i : Nat) : (s.setFld p f v i).txPend = s.txPend := rfl
@[simp] theorem State.setFld_rxEnt (s : State) (p : Nat) (f : Fld) (v i : Nat) : (s.setFld p f v i).rxEnt = s.rxEnt := rfl
@[simp] theorem State.setFld_txEnt (s : State) (p : Nat) (f : Fld) (v i : Nat) : (s.setFld p f v i).txEnt = s.txEnt := rfl
@[simp] theorem State.setFld_rxStored (s : State) (p : Nat) (f : Fld) (v i : Nat) : (s.setFld p f v i).rxStored = s.rxStored := rfl
@[simp] theorem State.setFld_txStored (s : State) (p : Nat) (f : Fld) (v i : Nat) : (s.setFld p f v i).txStored = s.txStored := rfl
@[simp] theorem State.setFld_tsq (s : State) (p : Nat) (f : Fld) (v i : Nat) : (s.setFld p f v i).tsq = s.tsq := rfl
@[simp] theorem State.setFld_sent (s : State) (p : Nat) (f : Fld) (v i : Nat) : (s.setFld p f v i).sent = s.sent := rfl
@[simp] theorem State.setFld_dram (s : State) (p : Nat) (f : Fld) (v i : Nat) : (s.setFld p f v i).dram = s.dram := rfl
@[simp] theorem State.setFld_twinOut (s : State) (p : Nat) (f : Fld) (v i : Nat) : (s.setFld p f v i).twinOut = s.twinOut := rfl
@[simp] theorem State.setFld_twinSeq (s : State) (p : Nat) (f : Fld) (v i : Nat) : (s.setFld p f v i).twinSeq = s.twinSeq := rfl
@[simp] theorem State.setFld_journalIn (s : State) (p : Nat) (f : Fld) (v i : Nat) : (s.setFld p f v i).journalIn = s.journalIn := rfl
@[simp] theorem State.setFld_repairs (s : State) (p : Nat) (f : Fld) (v i : Nat) : (s.setFld p f v i).repairs = s.repairs := rfl
@[simp] theorem State.setFld_retired (s : State) (p : Nat) (f : Fld) (v i : Nat) : (s.setFld p f v i).retired = s.retired := rfl
@[simp] theorem State.setFld_classM (s : State) (p : Nat) (f : Fld) (v i : Nat) : (s.setFld p f v i).classM = s.classM := rfl
@[simp] theorem State.setFld_checking (s : State) (p : Nat) (f : Fld) (v i : Nat) : (s.setFld p f v i).checking = s.checking := rfl
@[simp] theorem State.setFld_defr (s : State) (p : Nat) (f : Fld) (v i : Nat) : (s.setFld p f v i).defr = s.defr := rfl
@[simp] theorem State.setFld_fmtr (s : State) (p : Nat) (f : Fld) (v i : Nat) : (s.setFld p f v i).fmtr = s.fmtr := rfl
@[simp] theorem State.setFld_pitIn (s : State) (p : Nat) (f : Fld) (v i : Nat) : (s.setFld p f v i).pitIn = s.pitIn := rfl
@[simp] theorem State.setFld_pitOut (s : State) (p : Nat) (f : Fld) (v i : Nat) : (s.setFld p f v i).pitOut = s.pitOut := rfl
@[simp] theorem State.setFld_pitTakes (s : State) (p : Nat) (f : Fld) (v i : Nat) : (s.setFld p f v i).pitTakes = s.pitTakes := rfl
@[simp] theorem State.setFld_pitGrid (s : State) (p : Nat) (f : Fld) (v i : Nat) : (s.setFld p f v i).pitGrid = s.pitGrid := rfl
@[simp] theorem State.setFld_pitLast (s : State) (p : Nat) (f : Fld) (v i : Nat) : (s.setFld p f v i).pitLast = s.pitLast := rfl
@[simp] theorem State.setFld_pitTab (s : State) (p : Nat) (f : Fld) (v i : Nat) : (s.setFld p f v i).pitTab = s.pitTab := rfl
@[simp] theorem State.setFld_pitStage (s : State) (p : Nat) (f : Fld) (v i : Nat) : (s.setFld p f v i).pitStage = s.pitStage := rfl
@[simp] theorem State.setFld_pitPend (s : State) (p : Nat) (f : Fld) (v i : Nat) : (s.setFld p f v i).pitPend = s.pitPend := rfl
@[simp] theorem State.setFld_synLine (s : State) (p : Nat) (f : Fld) (v i : Nat) : (s.setFld p f v i).synLine = s.synLine := rfl
@[simp] theorem State.setFld_tdm (s : State) (p : Nat) (f : Fld) (v i : Nat) : (s.setFld p f v i).tdm = s.tdm := rfl
@[simp] theorem State.setFld_tdmCh (s : State) (p : Nat) (f : Fld) (v i : Nat) : (s.setFld p f v i).tdmCh = s.tdmCh := rfl
@[simp] theorem State.setFld_tdmMask (s : State) (p : Nat) (f : Fld) (v i : Nat) : (s.setFld p f v i).tdmMask = s.tdmMask := rfl
@[simp] theorem State.setFld_syn (s : State) (p : Nat) (f : Fld) (v i : Nat) : (s.setFld p f v i).syn = s.syn := rfl
@[simp] theorem State.setFld_tapSel (s : State) (p : Nat) (f : Fld) (v i : Nat) : (s.setFld p f v i).tapSel = s.tapSel := rfl
@[simp] theorem State.setFld_armed (s : State) (p : Nat) (f : Fld) (v i : Nat) : (s.setFld p f v i).armed = s.armed := rfl
@[simp] theorem State.setFld_salvoMem (s : State) (p : Nat) (f : Fld) (v i : Nat) : (s.setFld p f v i).salvoMem = s.salvoMem := rfl
@[simp] theorem State.setFld_sheet (s : State) (p : Nat) (f : Fld) (v i : Nat) : (s.setFld p f v i).sheet = s.sheet := rfl
@[simp] theorem State.setFld_salvos (s : State) (p : Nat) (f : Fld) (v i : Nat) : (s.setFld p f v i).salvos = s.salvos := rfl
@[simp] theorem State.setFld_salvoSeq (s : State) (p : Nat) (f : Fld) (v i : Nat) : (s.setFld p f v i).salvoSeq = s.salvoSeq := rfl
@[simp] theorem State.setFld_armSeq (s : State) (p : Nat) (f : Fld) (v i : Nat) : (s.setFld p f v i).armSeq = s.armSeq := rfl
@[simp] theorem State.setFld_results (s : State) (p : Nat) (f : Fld) (v i : Nat) : (s.setFld p f v i).results = s.results := rfl
@[simp] theorem State.setFld_gpi (s : State) (p : Nat) (f : Fld) (v i : Nat) : (s.setFld p f v i).gpi = s.gpi := rfl
@[simp] theorem State.setFld_pro (s : State) (p : Nat) (f : Fld) (v i : Nat) : (s.setFld p f v i).pro = s.pro := rfl
@[simp] theorem State.setFld_lay (s : State) (p : Nat) (f : Fld) (v i : Nat) : (s.setFld p f v i).lay = s.lay := rfl
@[simp] theorem State.setFld_coef (s : State) (p : Nat) (f : Fld) (v i : Nat) : (s.setFld p f v i).coef = s.coef := rfl
@[simp] theorem State.setFld_coefStage (s : State) (p : Nat) (f : Fld) (v i : Nat) : (s.setFld p f v i).coefStage = s.coefStage := rfl
@[simp] theorem State.setFld_coefPend (s : State) (p : Nat) (f : Fld) (v i : Nat) : (s.setFld p f v i).coefPend = s.coefPend := rfl
@[simp] theorem State.setFld_dch (s : State) (p : Nat) (f : Fld) (v i : Nat) : (s.setFld p f v i).dch = s.dch := rfl
@[simp] theorem State.setFld_dbank (s : State) (p : Nat) (f : Fld) (v i : Nat) : (s.setFld p f v i).dbank = s.dbank := rfl
@[simp] theorem State.setFld_dseq (s : State) (p : Nat) (f : Fld) (v i : Nat) : (s.setFld p f v i).dseq = s.dseq := rfl
@[simp] theorem State.setFld_arms (s : State) (p : Nat) (f : Fld) (v i : Nat) : (s.setFld p f v i).arms = s.arms := rfl
@[simp] theorem State.setFld_lostParity (s : State) (p : Nat) (f : Fld) (v i : Nat) : (s.setFld p f v i).lostParity = s.lostParity := rfl
@[simp] theorem State.setFld_txAhead (s : State) (p : Nat) (f : Fld) (v i : Nat) : (s.setFld p f v i).txAhead = s.txAhead := rfl
@[simp] theorem State.setFld_acks (s : State) (p : Nat) (f : Fld) (v i : Nat) : (s.setFld p f v i).acks = s.acks := rfl
@[simp] theorem State.setFld_again (s : State) (p : Nat) (f : Fld) (v i : Nat) : (s.setFld p f v i).again = s.again := rfl
@[simp] theorem State.setFld_derr (s : State) (p : Nat) (f : Fld) (v i : Nat) : (s.setFld p f v i).derr = s.derr := rfl
@[simp] theorem State.setFld_sflip (s : State) (p : Nat) (f : Fld) (v i : Nat) : (s.setFld p f v i).sflip = s.sflip := rfl
@[simp] theorem State.setFld_serr (s : State) (p : Nat) (f : Fld) (v i : Nat) : (s.setFld p f v i).serr = s.serr := rfl
@[simp] theorem State.setFld_spares (s : State) (p : Nat) (f : Fld) (v i : Nat) : (s.setFld p f v i).spares = s.spares := rfl
@[simp] theorem State.setFld_catHeld (s : State) (p : Nat) (f : Fld) (v i : Nat) : (s.setFld p f v i).catHeld = s.catHeld := rfl
@[simp] theorem State.setFld_crewSram (s : State) (p : Nat) (f : Fld) (v i : Nat) : (s.setFld p f v i).crewSram = s.crewSram := rfl
@[simp] theorem State.setFld_pcieOut (s : State) (p : Nat) (f : Fld) (v i : Nat) : (s.setFld p f v i).pcieOut = s.pcieOut := rfl
@[simp] theorem State.setFld_routes (s : State) (p : Nat) (f : Fld) (v i : Nat) : (s.setFld p f v i).routes = s.routes := rfl
@[simp] theorem State.setFld_lines (s : State) (p : Nat) (f : Fld) (v i : Nat) : (s.setFld p f v i).lines = s.lines := rfl
@[simp] theorem State.setFld_msixMask (s : State) (p : Nat) (f : Fld) (v i : Nat) : (s.setFld p f v i).msixMask = s.msixMask := rfl
@[simp] theorem State.setFld_msixPend (s : State) (p : Nat) (f : Fld) (v i : Nat) : (s.setFld p f v i).msixPend = s.msixPend := rfl
@[simp] theorem State.setFld_msi (s : State) (p : Nat) (f : Fld) (v i : Nat) : (s.setFld p f v i).msi = s.msi := rfl
@[simp] theorem State.setFld_sdiSlept (s : State) (p : Nat) (f : Fld) (v i : Nat) : (s.setFld p f v i).sdiSlept = s.sdiSlept := rfl
@[simp] theorem State.setFld_pathFailed (s : State) (p : Nat) (f : Fld) (v i : Nat) : (s.setFld p f v i).pathFailed = s.pathFailed := rfl
@[simp] theorem State.setFld_wireErr (s : State) (p : Nat) (f : Fld) (v i : Nat) : (s.setFld p f v i).wireErr = s.wireErr := rfl
@[simp] theorem State.setFld_wireLost (s : State) (p : Nat) (f : Fld) (v i : Nat) : (s.setFld p f v i).wireLost = s.wireLost := rfl
@[simp] theorem State.setFld_fuses (s : State) (p : Nat) (f : Fld) (v i : Nat) : (s.setFld p f v i).fuses = s.fuses := rfl
@[simp] theorem State.setFld_fuseNow (s : State) (p : Nat) (f : Fld) (v i : Nat) : (s.setFld p f v i).fuseNow = s.fuseNow := rfl
@[simp] theorem State.setFld_avsHigh (s : State) (p : Nat) (f : Fld) (v i : Nat) : (s.setFld p f v i).avsHigh = s.avsHigh := rfl
@[simp] theorem State.setFld_tmpCnt (s : State) (p : Nat) (f : Fld) (v i : Nat) : (s.setFld p f v i).tmpCnt = s.tmpCnt := rfl
@[simp] theorem State.setFld_tmpWarm (s : State) (p : Nat) (f : Fld) (v i : Nat) : (s.setFld p f v i).tmpWarm = s.tmpWarm := rfl
@[simp] theorem State.setFld_tmpHot (s : State) (p : Nat) (f : Fld) (v i : Nat) : (s.setFld p f v i).tmpHot = s.tmpHot := rfl
@[simp] theorem State.setFld_hourTop (s : State) (p : Nat) (f : Fld) (v i : Nat) : (s.setFld p f v i).hourTop = s.hourTop := rfl
@[simp] theorem State.setFld_hourSector (s : State) (p : Nat) (f : Fld) (v i : Nat) : (s.setFld p f v i).hourSector = s.hourSector := rfl
@[simp] theorem State.setFld_hourRecs (s : State) (p : Nat) (f : Fld) (v i : Nat) : (s.setFld p f v i).hourRecs = s.hourRecs := rfl
@[simp] theorem State.setFld_flash (s : State) (p : Nat) (f : Fld) (v i : Nat) : (s.setFld p f v i).flash = s.flash := rfl
@[simp] theorem State.setFld_slots (s : State) (p : Nat) (f : Fld) (v i : Nat) : (s.setFld p f v i).slots = s.slots := rfl
@[simp] theorem State.setFld_upd (s : State) (p : Nat) (f : Fld) (v i : Nat) : (s.setFld p f v i).upd = s.upd := rfl
@[simp] theorem State.setFld_lcyWiped (s : State) (p : Nat) (f : Fld) (v i : Nat) : (s.setFld p f v i).lcyWiped = s.lcyWiped := rfl
@[simp] theorem State.setFld_oemHash (s : State) (p : Nat) (f : Fld) (v i : Nat) : (s.setFld p f v i).oemHash = s.oemHash := rfl
@[simp] theorem State.setFld_pair (s : State) (p : Nat) (f : Fld) (v i : Nat) : (s.setFld p f v i).pair = s.pair := rfl
@[simp] theorem State.setFld_commitFrom (s : State) (p : Nat) (f : Fld) (v i : Nat) : (s.setFld p f v i).commitFrom = s.commitFrom := rfl
@[simp] theorem State.setFld_call (s : State) (p : Nat) (f : Fld) (v i : Nat) : (s.setFld p f v i).call = s.call := rfl
@[simp] theorem State.setFld_joined (s : State) (p : Nat) (f : Fld) (v i : Nat) : (s.setFld p f v i).joined = s.joined := rfl
@[simp] theorem State.setFld_acted (s : State) (p : Nat) (f : Fld) (v i : Nat) : (s.setFld p f v i).acted = s.acted := rfl

@[simp] theorem State.setBit_pending (s : State) (p : Nat) (f : Fld) (v : Bool) (i : Nat) : (s.setBit p f v i).pending = s.pending := rfl
@[simp] theorem State.setBit_low (s : State) (p : Nat) (f : Fld) (v : Bool) (i : Nat) : (s.setBit p f v i).low = s.low := rfl
@[simp] theorem State.setBit_booted (s : State) (p : Nat) (f : Fld) (v : Bool) (i : Nat) : (s.setBit p f v i).booted = s.booted := rfl
@[simp] theorem State.setBit_upt (s : State) (p : Nat) (f : Fld) (v : Bool) (i : Nat) : (s.setBit p f v i).upt = s.upt := rfl
@[simp] theorem State.setBit_cueRun (s : State) (p : Nat) (f : Fld) (v : Bool) (i : Nat) : (s.setBit p f v i).cueRun = s.cueRun := rfl
@[simp] theorem State.setBit_cueByp (s : State) (p : Nat) (f : Fld) (v : Bool) (i : Nat) : (s.setBit p f v i).cueByp = s.cueByp := rfl
@[simp] theorem State.setBit_live (s : State) (p : Nat) (f : Fld) (v : Bool) (i : Nat) : (s.setBit p f v i).live = s.live := rfl
@[simp] theorem State.setBit_mregs (s : State) (p : Nat) (f : Fld) (v : Bool) (i : Nat) : (s.setBit p f v i).mregs = s.mregs := rfl
@[simp] theorem State.setBit_commits (s : State) (p : Nat) (f : Fld) (v : Bool) (i : Nat) : (s.setBit p f v i).commits = s.commits := rfl
@[simp] theorem State.setBit_forced (s : State) (p : Nat) (f : Fld) (v : Bool) (i : Nat) : (s.setBit p f v i).forced = s.forced := rfl
@[simp] theorem State.setBit_resp (s : State) (p : Nat) (f : Fld) (v : Bool) (i : Nat) : (s.setBit p f v i).resp = s.resp := rfl
@[simp] theorem State.setBit_free (s : State) (p : Nat) (f : Fld) (v : Bool) (i : Nat) : (s.setBit p f v i).free = s.free := rfl
@[simp] theorem State.setBit_fltT (s : State) (p : Nat) (f : Fld) (v : Bool) (i : Nat) : (s.setBit p f v i).fltT = s.fltT := rfl
@[simp] theorem State.setBit_fltC (s : State) (p : Nat) (f : Fld) (v : Bool) (i : Nat) : (s.setBit p f v i).fltC = s.fltC := rfl
@[simp] theorem State.setBit_snapNow (s : State) (p : Nat) (f : Fld) (v : Bool) (i : Nat) : (s.setBit p f v i).snapNow = s.snapNow := rfl
@[simp] theorem State.setBit_snapArmed (s : State) (p : Nat) (f : Fld) (v : Bool) (i : Nat) : (s.setBit p f v i).snapArmed = s.snapArmed := rfl
@[simp] theorem State.setBit_snapPages (s : State) (p : Nat) (f : Fld) (v : Bool) (i : Nat) : (s.setBit p f v i).snapPages = s.snapPages := rfl
@[simp] theorem State.setBit_snapT (s : State) (p : Nat) (f : Fld) (v : Bool) (i : Nat) : (s.setBit p f v i).snapT = s.snapT := rfl
@[simp] theorem State.setBit_tod (s : State) (p : Nat) (f : Fld) (v : Bool) (i : Nat) : (s.setBit p f v i).tod = s.tod := rfl
@[simp] theorem State.setBit_rxl (s : State) (p : Nat) (f : Fld) (v : Bool) (i : Nat) : (s.setBit p f v i).rxl = s.rxl := rfl
@[simp] theorem State.setBit_txl (s : State) (p : Nat) (f : Fld) (v : Bool) (i : Nat) : (s.setBit p f v i).txl = s.txl := rfl
@[simp] theorem State.setBit_rot (s : State) (p : Nat) (f : Fld) (v : Bool) (i : Nat) : (s.setBit p f v i).rot = s.rot := rfl
@[simp] theorem State.setBit_pll (s : State) (p : Nat) (f : Fld) (v : Bool) (i : Nat) : (s.setBit p f v i).pll = s.pll := rfl
@[simp] theorem State.setBit_refIn (s : State) (p : Nat) (f : Fld) (v : Bool) (i : Nat) : (s.setBit p f v i).refIn = s.refIn := rfl
@[simp] theorem State.setBit_refSel (s : State) (p : Nat) (f : Fld) (v : Bool) (i : Nat) : (s.setBit p f v i).refSel = s.refSel := rfl
@[simp] theorem State.setBit_groups (s : State) (p : Nat) (f : Fld) (v : Bool) (i : Nat) : (s.setBit p f v i).groups = s.groups := rfl
@[simp] theorem State.setBit_plat (s : State) (p : Nat) (f : Fld) (v : Bool) (i : Nat) : (s.setBit p f v i).plat = s.plat := rfl
@[simp] theorem State.setBit_rxTab (s : State) (p : Nat) (f : Fld) (v : Bool) (i : Nat) : (s.setBit p f v i).rxTab = s.rxTab := rfl
@[simp] theorem State.setBit_rxStage (s : State) (p : Nat) (f : Fld) (v : Bool) (i : Nat) : (s.setBit p f v i).rxStage = s.rxStage := rfl
@[simp] theorem State.setBit_rxPend (s : State) (p : Nat) (f : Fld) (v : Bool) (i : Nat) : (s.setBit p f v i).rxPend = s.rxPend := rfl
@[simp] theorem State.setBit_txTab (s : State) (p : Nat) (f : Fld) (v : Bool) (i : Nat) : (s.setBit p f v i).txTab = s.txTab := rfl
@[simp] theorem State.setBit_txStage (s : State) (p : Nat) (f : Fld) (v : Bool) (i : Nat) : (s.setBit p f v i).txStage = s.txStage := rfl
@[simp] theorem State.setBit_txPend (s : State) (p : Nat) (f : Fld) (v : Bool) (i : Nat) : (s.setBit p f v i).txPend = s.txPend := rfl
@[simp] theorem State.setBit_rxEnt (s : State) (p : Nat) (f : Fld) (v : Bool) (i : Nat) : (s.setBit p f v i).rxEnt = s.rxEnt := rfl
@[simp] theorem State.setBit_txEnt (s : State) (p : Nat) (f : Fld) (v : Bool) (i : Nat) : (s.setBit p f v i).txEnt = s.txEnt := rfl
@[simp] theorem State.setBit_rxStored (s : State) (p : Nat) (f : Fld) (v : Bool) (i : Nat) : (s.setBit p f v i).rxStored = s.rxStored := rfl
@[simp] theorem State.setBit_txStored (s : State) (p : Nat) (f : Fld) (v : Bool) (i : Nat) : (s.setBit p f v i).txStored = s.txStored := rfl
@[simp] theorem State.setBit_tsq (s : State) (p : Nat) (f : Fld) (v : Bool) (i : Nat) : (s.setBit p f v i).tsq = s.tsq := rfl
@[simp] theorem State.setBit_sent (s : State) (p : Nat) (f : Fld) (v : Bool) (i : Nat) : (s.setBit p f v i).sent = s.sent := rfl
@[simp] theorem State.setBit_dram (s : State) (p : Nat) (f : Fld) (v : Bool) (i : Nat) : (s.setBit p f v i).dram = s.dram := rfl
@[simp] theorem State.setBit_twinOut (s : State) (p : Nat) (f : Fld) (v : Bool) (i : Nat) : (s.setBit p f v i).twinOut = s.twinOut := rfl
@[simp] theorem State.setBit_twinSeq (s : State) (p : Nat) (f : Fld) (v : Bool) (i : Nat) : (s.setBit p f v i).twinSeq = s.twinSeq := rfl
@[simp] theorem State.setBit_journalIn (s : State) (p : Nat) (f : Fld) (v : Bool) (i : Nat) : (s.setBit p f v i).journalIn = s.journalIn := rfl
@[simp] theorem State.setBit_repairs (s : State) (p : Nat) (f : Fld) (v : Bool) (i : Nat) : (s.setBit p f v i).repairs = s.repairs := rfl
@[simp] theorem State.setBit_retired (s : State) (p : Nat) (f : Fld) (v : Bool) (i : Nat) : (s.setBit p f v i).retired = s.retired := rfl
@[simp] theorem State.setBit_classM (s : State) (p : Nat) (f : Fld) (v : Bool) (i : Nat) : (s.setBit p f v i).classM = s.classM := rfl
@[simp] theorem State.setBit_checking (s : State) (p : Nat) (f : Fld) (v : Bool) (i : Nat) : (s.setBit p f v i).checking = s.checking := rfl
@[simp] theorem State.setBit_defr (s : State) (p : Nat) (f : Fld) (v : Bool) (i : Nat) : (s.setBit p f v i).defr = s.defr := rfl
@[simp] theorem State.setBit_fmtr (s : State) (p : Nat) (f : Fld) (v : Bool) (i : Nat) : (s.setBit p f v i).fmtr = s.fmtr := rfl
@[simp] theorem State.setBit_pitIn (s : State) (p : Nat) (f : Fld) (v : Bool) (i : Nat) : (s.setBit p f v i).pitIn = s.pitIn := rfl
@[simp] theorem State.setBit_pitOut (s : State) (p : Nat) (f : Fld) (v : Bool) (i : Nat) : (s.setBit p f v i).pitOut = s.pitOut := rfl
@[simp] theorem State.setBit_pitTakes (s : State) (p : Nat) (f : Fld) (v : Bool) (i : Nat) : (s.setBit p f v i).pitTakes = s.pitTakes := rfl
@[simp] theorem State.setBit_pitGrid (s : State) (p : Nat) (f : Fld) (v : Bool) (i : Nat) : (s.setBit p f v i).pitGrid = s.pitGrid := rfl
@[simp] theorem State.setBit_pitLast (s : State) (p : Nat) (f : Fld) (v : Bool) (i : Nat) : (s.setBit p f v i).pitLast = s.pitLast := rfl
@[simp] theorem State.setBit_pitTab (s : State) (p : Nat) (f : Fld) (v : Bool) (i : Nat) : (s.setBit p f v i).pitTab = s.pitTab := rfl
@[simp] theorem State.setBit_pitStage (s : State) (p : Nat) (f : Fld) (v : Bool) (i : Nat) : (s.setBit p f v i).pitStage = s.pitStage := rfl
@[simp] theorem State.setBit_pitPend (s : State) (p : Nat) (f : Fld) (v : Bool) (i : Nat) : (s.setBit p f v i).pitPend = s.pitPend := rfl
@[simp] theorem State.setBit_synLine (s : State) (p : Nat) (f : Fld) (v : Bool) (i : Nat) : (s.setBit p f v i).synLine = s.synLine := rfl
@[simp] theorem State.setBit_tdm (s : State) (p : Nat) (f : Fld) (v : Bool) (i : Nat) : (s.setBit p f v i).tdm = s.tdm := rfl
@[simp] theorem State.setBit_tdmCh (s : State) (p : Nat) (f : Fld) (v : Bool) (i : Nat) : (s.setBit p f v i).tdmCh = s.tdmCh := rfl
@[simp] theorem State.setBit_tdmMask (s : State) (p : Nat) (f : Fld) (v : Bool) (i : Nat) : (s.setBit p f v i).tdmMask = s.tdmMask := rfl
@[simp] theorem State.setBit_syn (s : State) (p : Nat) (f : Fld) (v : Bool) (i : Nat) : (s.setBit p f v i).syn = s.syn := rfl
@[simp] theorem State.setBit_tapSel (s : State) (p : Nat) (f : Fld) (v : Bool) (i : Nat) : (s.setBit p f v i).tapSel = s.tapSel := rfl
@[simp] theorem State.setBit_armed (s : State) (p : Nat) (f : Fld) (v : Bool) (i : Nat) : (s.setBit p f v i).armed = s.armed := rfl
@[simp] theorem State.setBit_salvoMem (s : State) (p : Nat) (f : Fld) (v : Bool) (i : Nat) : (s.setBit p f v i).salvoMem = s.salvoMem := rfl
@[simp] theorem State.setBit_sheet (s : State) (p : Nat) (f : Fld) (v : Bool) (i : Nat) : (s.setBit p f v i).sheet = s.sheet := rfl
@[simp] theorem State.setBit_salvos (s : State) (p : Nat) (f : Fld) (v : Bool) (i : Nat) : (s.setBit p f v i).salvos = s.salvos := rfl
@[simp] theorem State.setBit_salvoSeq (s : State) (p : Nat) (f : Fld) (v : Bool) (i : Nat) : (s.setBit p f v i).salvoSeq = s.salvoSeq := rfl
@[simp] theorem State.setBit_armSeq (s : State) (p : Nat) (f : Fld) (v : Bool) (i : Nat) : (s.setBit p f v i).armSeq = s.armSeq := rfl
@[simp] theorem State.setBit_results (s : State) (p : Nat) (f : Fld) (v : Bool) (i : Nat) : (s.setBit p f v i).results = s.results := rfl
@[simp] theorem State.setBit_gpi (s : State) (p : Nat) (f : Fld) (v : Bool) (i : Nat) : (s.setBit p f v i).gpi = s.gpi := rfl
@[simp] theorem State.setBit_pro (s : State) (p : Nat) (f : Fld) (v : Bool) (i : Nat) : (s.setBit p f v i).pro = s.pro := rfl
@[simp] theorem State.setBit_lay (s : State) (p : Nat) (f : Fld) (v : Bool) (i : Nat) : (s.setBit p f v i).lay = s.lay := rfl
@[simp] theorem State.setBit_coef (s : State) (p : Nat) (f : Fld) (v : Bool) (i : Nat) : (s.setBit p f v i).coef = s.coef := rfl
@[simp] theorem State.setBit_coefStage (s : State) (p : Nat) (f : Fld) (v : Bool) (i : Nat) : (s.setBit p f v i).coefStage = s.coefStage := rfl
@[simp] theorem State.setBit_coefPend (s : State) (p : Nat) (f : Fld) (v : Bool) (i : Nat) : (s.setBit p f v i).coefPend = s.coefPend := rfl
@[simp] theorem State.setBit_dch (s : State) (p : Nat) (f : Fld) (v : Bool) (i : Nat) : (s.setBit p f v i).dch = s.dch := rfl
@[simp] theorem State.setBit_dbank (s : State) (p : Nat) (f : Fld) (v : Bool) (i : Nat) : (s.setBit p f v i).dbank = s.dbank := rfl
@[simp] theorem State.setBit_dseq (s : State) (p : Nat) (f : Fld) (v : Bool) (i : Nat) : (s.setBit p f v i).dseq = s.dseq := rfl
@[simp] theorem State.setBit_arms (s : State) (p : Nat) (f : Fld) (v : Bool) (i : Nat) : (s.setBit p f v i).arms = s.arms := rfl
@[simp] theorem State.setBit_lostParity (s : State) (p : Nat) (f : Fld) (v : Bool) (i : Nat) : (s.setBit p f v i).lostParity = s.lostParity := rfl
@[simp] theorem State.setBit_txAhead (s : State) (p : Nat) (f : Fld) (v : Bool) (i : Nat) : (s.setBit p f v i).txAhead = s.txAhead := rfl
@[simp] theorem State.setBit_acks (s : State) (p : Nat) (f : Fld) (v : Bool) (i : Nat) : (s.setBit p f v i).acks = s.acks := rfl
@[simp] theorem State.setBit_again (s : State) (p : Nat) (f : Fld) (v : Bool) (i : Nat) : (s.setBit p f v i).again = s.again := rfl
@[simp] theorem State.setBit_derr (s : State) (p : Nat) (f : Fld) (v : Bool) (i : Nat) : (s.setBit p f v i).derr = s.derr := rfl
@[simp] theorem State.setBit_sflip (s : State) (p : Nat) (f : Fld) (v : Bool) (i : Nat) : (s.setBit p f v i).sflip = s.sflip := rfl
@[simp] theorem State.setBit_serr (s : State) (p : Nat) (f : Fld) (v : Bool) (i : Nat) : (s.setBit p f v i).serr = s.serr := rfl
@[simp] theorem State.setBit_spares (s : State) (p : Nat) (f : Fld) (v : Bool) (i : Nat) : (s.setBit p f v i).spares = s.spares := rfl
@[simp] theorem State.setBit_catHeld (s : State) (p : Nat) (f : Fld) (v : Bool) (i : Nat) : (s.setBit p f v i).catHeld = s.catHeld := rfl
@[simp] theorem State.setBit_crewSram (s : State) (p : Nat) (f : Fld) (v : Bool) (i : Nat) : (s.setBit p f v i).crewSram = s.crewSram := rfl
@[simp] theorem State.setBit_pcieOut (s : State) (p : Nat) (f : Fld) (v : Bool) (i : Nat) : (s.setBit p f v i).pcieOut = s.pcieOut := rfl
@[simp] theorem State.setBit_routes (s : State) (p : Nat) (f : Fld) (v : Bool) (i : Nat) : (s.setBit p f v i).routes = s.routes := rfl
@[simp] theorem State.setBit_lines (s : State) (p : Nat) (f : Fld) (v : Bool) (i : Nat) : (s.setBit p f v i).lines = s.lines := rfl
@[simp] theorem State.setBit_msixMask (s : State) (p : Nat) (f : Fld) (v : Bool) (i : Nat) : (s.setBit p f v i).msixMask = s.msixMask := rfl
@[simp] theorem State.setBit_msixPend (s : State) (p : Nat) (f : Fld) (v : Bool) (i : Nat) : (s.setBit p f v i).msixPend = s.msixPend := rfl
@[simp] theorem State.setBit_msi (s : State) (p : Nat) (f : Fld) (v : Bool) (i : Nat) : (s.setBit p f v i).msi = s.msi := rfl
@[simp] theorem State.setBit_sdiSlept (s : State) (p : Nat) (f : Fld) (v : Bool) (i : Nat) : (s.setBit p f v i).sdiSlept = s.sdiSlept := rfl
@[simp] theorem State.setBit_pathFailed (s : State) (p : Nat) (f : Fld) (v : Bool) (i : Nat) : (s.setBit p f v i).pathFailed = s.pathFailed := rfl
@[simp] theorem State.setBit_wireErr (s : State) (p : Nat) (f : Fld) (v : Bool) (i : Nat) : (s.setBit p f v i).wireErr = s.wireErr := rfl
@[simp] theorem State.setBit_wireLost (s : State) (p : Nat) (f : Fld) (v : Bool) (i : Nat) : (s.setBit p f v i).wireLost = s.wireLost := rfl
@[simp] theorem State.setBit_fuses (s : State) (p : Nat) (f : Fld) (v : Bool) (i : Nat) : (s.setBit p f v i).fuses = s.fuses := rfl
@[simp] theorem State.setBit_fuseNow (s : State) (p : Nat) (f : Fld) (v : Bool) (i : Nat) : (s.setBit p f v i).fuseNow = s.fuseNow := rfl
@[simp] theorem State.setBit_avsHigh (s : State) (p : Nat) (f : Fld) (v : Bool) (i : Nat) : (s.setBit p f v i).avsHigh = s.avsHigh := rfl
@[simp] theorem State.setBit_tmpCnt (s : State) (p : Nat) (f : Fld) (v : Bool) (i : Nat) : (s.setBit p f v i).tmpCnt = s.tmpCnt := rfl
@[simp] theorem State.setBit_tmpWarm (s : State) (p : Nat) (f : Fld) (v : Bool) (i : Nat) : (s.setBit p f v i).tmpWarm = s.tmpWarm := rfl
@[simp] theorem State.setBit_tmpHot (s : State) (p : Nat) (f : Fld) (v : Bool) (i : Nat) : (s.setBit p f v i).tmpHot = s.tmpHot := rfl
@[simp] theorem State.setBit_hourTop (s : State) (p : Nat) (f : Fld) (v : Bool) (i : Nat) : (s.setBit p f v i).hourTop = s.hourTop := rfl
@[simp] theorem State.setBit_hourSector (s : State) (p : Nat) (f : Fld) (v : Bool) (i : Nat) : (s.setBit p f v i).hourSector = s.hourSector := rfl
@[simp] theorem State.setBit_hourRecs (s : State) (p : Nat) (f : Fld) (v : Bool) (i : Nat) : (s.setBit p f v i).hourRecs = s.hourRecs := rfl
@[simp] theorem State.setBit_flash (s : State) (p : Nat) (f : Fld) (v : Bool) (i : Nat) : (s.setBit p f v i).flash = s.flash := rfl
@[simp] theorem State.setBit_slots (s : State) (p : Nat) (f : Fld) (v : Bool) (i : Nat) : (s.setBit p f v i).slots = s.slots := rfl
@[simp] theorem State.setBit_upd (s : State) (p : Nat) (f : Fld) (v : Bool) (i : Nat) : (s.setBit p f v i).upd = s.upd := rfl
@[simp] theorem State.setBit_lcyWiped (s : State) (p : Nat) (f : Fld) (v : Bool) (i : Nat) : (s.setBit p f v i).lcyWiped = s.lcyWiped := rfl
@[simp] theorem State.setBit_oemHash (s : State) (p : Nat) (f : Fld) (v : Bool) (i : Nat) : (s.setBit p f v i).oemHash = s.oemHash := rfl
@[simp] theorem State.setBit_pair (s : State) (p : Nat) (f : Fld) (v : Bool) (i : Nat) : (s.setBit p f v i).pair = s.pair := rfl
@[simp] theorem State.setBit_commitFrom (s : State) (p : Nat) (f : Fld) (v : Bool) (i : Nat) : (s.setBit p f v i).commitFrom = s.commitFrom := rfl
@[simp] theorem State.setBit_call (s : State) (p : Nat) (f : Fld) (v : Bool) (i : Nat) : (s.setBit p f v i).call = s.call := rfl
@[simp] theorem State.setBit_joined (s : State) (p : Nat) (f : Fld) (v : Bool) (i : Nat) : (s.setBit p f v i).joined = s.joined := rfl
@[simp] theorem State.setBit_acted (s : State) (p : Nat) (f : Fld) (v : Bool) (i : Nat) : (s.setBit p f v i).acted = s.acted := rfl

@[simp] theorem State.setFld64_pending (s : State) (p : Nat) (lo hi : Fld) (v i : Nat) : (s.setFld64 p lo hi v i).pending = s.pending := rfl
@[simp] theorem State.setFld64_low (s : State) (p : Nat) (lo hi : Fld) (v i : Nat) : (s.setFld64 p lo hi v i).low = s.low := rfl
@[simp] theorem State.setFld64_booted (s : State) (p : Nat) (lo hi : Fld) (v i : Nat) : (s.setFld64 p lo hi v i).booted = s.booted := rfl
@[simp] theorem State.setFld64_upt (s : State) (p : Nat) (lo hi : Fld) (v i : Nat) : (s.setFld64 p lo hi v i).upt = s.upt := rfl
@[simp] theorem State.setFld64_cueRun (s : State) (p : Nat) (lo hi : Fld) (v i : Nat) : (s.setFld64 p lo hi v i).cueRun = s.cueRun := rfl
@[simp] theorem State.setFld64_cueByp (s : State) (p : Nat) (lo hi : Fld) (v i : Nat) : (s.setFld64 p lo hi v i).cueByp = s.cueByp := rfl
@[simp] theorem State.setFld64_live (s : State) (p : Nat) (lo hi : Fld) (v i : Nat) : (s.setFld64 p lo hi v i).live = s.live := rfl
@[simp] theorem State.setFld64_mregs (s : State) (p : Nat) (lo hi : Fld) (v i : Nat) : (s.setFld64 p lo hi v i).mregs = s.mregs := rfl
@[simp] theorem State.setFld64_commits (s : State) (p : Nat) (lo hi : Fld) (v i : Nat) : (s.setFld64 p lo hi v i).commits = s.commits := rfl
@[simp] theorem State.setFld64_forced (s : State) (p : Nat) (lo hi : Fld) (v i : Nat) : (s.setFld64 p lo hi v i).forced = s.forced := rfl
@[simp] theorem State.setFld64_resp (s : State) (p : Nat) (lo hi : Fld) (v i : Nat) : (s.setFld64 p lo hi v i).resp = s.resp := rfl
@[simp] theorem State.setFld64_free (s : State) (p : Nat) (lo hi : Fld) (v i : Nat) : (s.setFld64 p lo hi v i).free = s.free := rfl
@[simp] theorem State.setFld64_fltT (s : State) (p : Nat) (lo hi : Fld) (v i : Nat) : (s.setFld64 p lo hi v i).fltT = s.fltT := rfl
@[simp] theorem State.setFld64_fltC (s : State) (p : Nat) (lo hi : Fld) (v i : Nat) : (s.setFld64 p lo hi v i).fltC = s.fltC := rfl
@[simp] theorem State.setFld64_snapNow (s : State) (p : Nat) (lo hi : Fld) (v i : Nat) : (s.setFld64 p lo hi v i).snapNow = s.snapNow := rfl
@[simp] theorem State.setFld64_snapArmed (s : State) (p : Nat) (lo hi : Fld) (v i : Nat) : (s.setFld64 p lo hi v i).snapArmed = s.snapArmed := rfl
@[simp] theorem State.setFld64_snapPages (s : State) (p : Nat) (lo hi : Fld) (v i : Nat) : (s.setFld64 p lo hi v i).snapPages = s.snapPages := rfl
@[simp] theorem State.setFld64_snapT (s : State) (p : Nat) (lo hi : Fld) (v i : Nat) : (s.setFld64 p lo hi v i).snapT = s.snapT := rfl
@[simp] theorem State.setFld64_tod (s : State) (p : Nat) (lo hi : Fld) (v i : Nat) : (s.setFld64 p lo hi v i).tod = s.tod := rfl
@[simp] theorem State.setFld64_rxl (s : State) (p : Nat) (lo hi : Fld) (v i : Nat) : (s.setFld64 p lo hi v i).rxl = s.rxl := rfl
@[simp] theorem State.setFld64_txl (s : State) (p : Nat) (lo hi : Fld) (v i : Nat) : (s.setFld64 p lo hi v i).txl = s.txl := rfl
@[simp] theorem State.setFld64_rot (s : State) (p : Nat) (lo hi : Fld) (v i : Nat) : (s.setFld64 p lo hi v i).rot = s.rot := rfl
@[simp] theorem State.setFld64_pll (s : State) (p : Nat) (lo hi : Fld) (v i : Nat) : (s.setFld64 p lo hi v i).pll = s.pll := rfl
@[simp] theorem State.setFld64_refIn (s : State) (p : Nat) (lo hi : Fld) (v i : Nat) : (s.setFld64 p lo hi v i).refIn = s.refIn := rfl
@[simp] theorem State.setFld64_refSel (s : State) (p : Nat) (lo hi : Fld) (v i : Nat) : (s.setFld64 p lo hi v i).refSel = s.refSel := rfl
@[simp] theorem State.setFld64_groups (s : State) (p : Nat) (lo hi : Fld) (v i : Nat) : (s.setFld64 p lo hi v i).groups = s.groups := rfl
@[simp] theorem State.setFld64_plat (s : State) (p : Nat) (lo hi : Fld) (v i : Nat) : (s.setFld64 p lo hi v i).plat = s.plat := rfl
@[simp] theorem State.setFld64_rxTab (s : State) (p : Nat) (lo hi : Fld) (v i : Nat) : (s.setFld64 p lo hi v i).rxTab = s.rxTab := rfl
@[simp] theorem State.setFld64_rxStage (s : State) (p : Nat) (lo hi : Fld) (v i : Nat) : (s.setFld64 p lo hi v i).rxStage = s.rxStage := rfl
@[simp] theorem State.setFld64_rxPend (s : State) (p : Nat) (lo hi : Fld) (v i : Nat) : (s.setFld64 p lo hi v i).rxPend = s.rxPend := rfl
@[simp] theorem State.setFld64_txTab (s : State) (p : Nat) (lo hi : Fld) (v i : Nat) : (s.setFld64 p lo hi v i).txTab = s.txTab := rfl
@[simp] theorem State.setFld64_txStage (s : State) (p : Nat) (lo hi : Fld) (v i : Nat) : (s.setFld64 p lo hi v i).txStage = s.txStage := rfl
@[simp] theorem State.setFld64_txPend (s : State) (p : Nat) (lo hi : Fld) (v i : Nat) : (s.setFld64 p lo hi v i).txPend = s.txPend := rfl
@[simp] theorem State.setFld64_rxEnt (s : State) (p : Nat) (lo hi : Fld) (v i : Nat) : (s.setFld64 p lo hi v i).rxEnt = s.rxEnt := rfl
@[simp] theorem State.setFld64_txEnt (s : State) (p : Nat) (lo hi : Fld) (v i : Nat) : (s.setFld64 p lo hi v i).txEnt = s.txEnt := rfl
@[simp] theorem State.setFld64_rxStored (s : State) (p : Nat) (lo hi : Fld) (v i : Nat) : (s.setFld64 p lo hi v i).rxStored = s.rxStored := rfl
@[simp] theorem State.setFld64_txStored (s : State) (p : Nat) (lo hi : Fld) (v i : Nat) : (s.setFld64 p lo hi v i).txStored = s.txStored := rfl
@[simp] theorem State.setFld64_tsq (s : State) (p : Nat) (lo hi : Fld) (v i : Nat) : (s.setFld64 p lo hi v i).tsq = s.tsq := rfl
@[simp] theorem State.setFld64_sent (s : State) (p : Nat) (lo hi : Fld) (v i : Nat) : (s.setFld64 p lo hi v i).sent = s.sent := rfl
@[simp] theorem State.setFld64_dram (s : State) (p : Nat) (lo hi : Fld) (v i : Nat) : (s.setFld64 p lo hi v i).dram = s.dram := rfl
@[simp] theorem State.setFld64_twinOut (s : State) (p : Nat) (lo hi : Fld) (v i : Nat) : (s.setFld64 p lo hi v i).twinOut = s.twinOut := rfl
@[simp] theorem State.setFld64_twinSeq (s : State) (p : Nat) (lo hi : Fld) (v i : Nat) : (s.setFld64 p lo hi v i).twinSeq = s.twinSeq := rfl
@[simp] theorem State.setFld64_journalIn (s : State) (p : Nat) (lo hi : Fld) (v i : Nat) : (s.setFld64 p lo hi v i).journalIn = s.journalIn := rfl
@[simp] theorem State.setFld64_repairs (s : State) (p : Nat) (lo hi : Fld) (v i : Nat) : (s.setFld64 p lo hi v i).repairs = s.repairs := rfl
@[simp] theorem State.setFld64_retired (s : State) (p : Nat) (lo hi : Fld) (v i : Nat) : (s.setFld64 p lo hi v i).retired = s.retired := rfl
@[simp] theorem State.setFld64_classM (s : State) (p : Nat) (lo hi : Fld) (v i : Nat) : (s.setFld64 p lo hi v i).classM = s.classM := rfl
@[simp] theorem State.setFld64_checking (s : State) (p : Nat) (lo hi : Fld) (v i : Nat) : (s.setFld64 p lo hi v i).checking = s.checking := rfl
@[simp] theorem State.setFld64_defr (s : State) (p : Nat) (lo hi : Fld) (v i : Nat) : (s.setFld64 p lo hi v i).defr = s.defr := rfl
@[simp] theorem State.setFld64_fmtr (s : State) (p : Nat) (lo hi : Fld) (v i : Nat) : (s.setFld64 p lo hi v i).fmtr = s.fmtr := rfl
@[simp] theorem State.setFld64_pitIn (s : State) (p : Nat) (lo hi : Fld) (v i : Nat) : (s.setFld64 p lo hi v i).pitIn = s.pitIn := rfl
@[simp] theorem State.setFld64_pitOut (s : State) (p : Nat) (lo hi : Fld) (v i : Nat) : (s.setFld64 p lo hi v i).pitOut = s.pitOut := rfl
@[simp] theorem State.setFld64_pitTakes (s : State) (p : Nat) (lo hi : Fld) (v i : Nat) : (s.setFld64 p lo hi v i).pitTakes = s.pitTakes := rfl
@[simp] theorem State.setFld64_pitGrid (s : State) (p : Nat) (lo hi : Fld) (v i : Nat) : (s.setFld64 p lo hi v i).pitGrid = s.pitGrid := rfl
@[simp] theorem State.setFld64_pitLast (s : State) (p : Nat) (lo hi : Fld) (v i : Nat) : (s.setFld64 p lo hi v i).pitLast = s.pitLast := rfl
@[simp] theorem State.setFld64_pitTab (s : State) (p : Nat) (lo hi : Fld) (v i : Nat) : (s.setFld64 p lo hi v i).pitTab = s.pitTab := rfl
@[simp] theorem State.setFld64_pitStage (s : State) (p : Nat) (lo hi : Fld) (v i : Nat) : (s.setFld64 p lo hi v i).pitStage = s.pitStage := rfl
@[simp] theorem State.setFld64_pitPend (s : State) (p : Nat) (lo hi : Fld) (v i : Nat) : (s.setFld64 p lo hi v i).pitPend = s.pitPend := rfl
@[simp] theorem State.setFld64_synLine (s : State) (p : Nat) (lo hi : Fld) (v i : Nat) : (s.setFld64 p lo hi v i).synLine = s.synLine := rfl
@[simp] theorem State.setFld64_tdm (s : State) (p : Nat) (lo hi : Fld) (v i : Nat) : (s.setFld64 p lo hi v i).tdm = s.tdm := rfl
@[simp] theorem State.setFld64_tdmCh (s : State) (p : Nat) (lo hi : Fld) (v i : Nat) : (s.setFld64 p lo hi v i).tdmCh = s.tdmCh := rfl
@[simp] theorem State.setFld64_tdmMask (s : State) (p : Nat) (lo hi : Fld) (v i : Nat) : (s.setFld64 p lo hi v i).tdmMask = s.tdmMask := rfl
@[simp] theorem State.setFld64_syn (s : State) (p : Nat) (lo hi : Fld) (v i : Nat) : (s.setFld64 p lo hi v i).syn = s.syn := rfl
@[simp] theorem State.setFld64_tapSel (s : State) (p : Nat) (lo hi : Fld) (v i : Nat) : (s.setFld64 p lo hi v i).tapSel = s.tapSel := rfl
@[simp] theorem State.setFld64_armed (s : State) (p : Nat) (lo hi : Fld) (v i : Nat) : (s.setFld64 p lo hi v i).armed = s.armed := rfl
@[simp] theorem State.setFld64_salvoMem (s : State) (p : Nat) (lo hi : Fld) (v i : Nat) : (s.setFld64 p lo hi v i).salvoMem = s.salvoMem := rfl
@[simp] theorem State.setFld64_sheet (s : State) (p : Nat) (lo hi : Fld) (v i : Nat) : (s.setFld64 p lo hi v i).sheet = s.sheet := rfl
@[simp] theorem State.setFld64_salvos (s : State) (p : Nat) (lo hi : Fld) (v i : Nat) : (s.setFld64 p lo hi v i).salvos = s.salvos := rfl
@[simp] theorem State.setFld64_salvoSeq (s : State) (p : Nat) (lo hi : Fld) (v i : Nat) : (s.setFld64 p lo hi v i).salvoSeq = s.salvoSeq := rfl
@[simp] theorem State.setFld64_armSeq (s : State) (p : Nat) (lo hi : Fld) (v i : Nat) : (s.setFld64 p lo hi v i).armSeq = s.armSeq := rfl
@[simp] theorem State.setFld64_results (s : State) (p : Nat) (lo hi : Fld) (v i : Nat) : (s.setFld64 p lo hi v i).results = s.results := rfl
@[simp] theorem State.setFld64_gpi (s : State) (p : Nat) (lo hi : Fld) (v i : Nat) : (s.setFld64 p lo hi v i).gpi = s.gpi := rfl
@[simp] theorem State.setFld64_pro (s : State) (p : Nat) (lo hi : Fld) (v i : Nat) : (s.setFld64 p lo hi v i).pro = s.pro := rfl
@[simp] theorem State.setFld64_lay (s : State) (p : Nat) (lo hi : Fld) (v i : Nat) : (s.setFld64 p lo hi v i).lay = s.lay := rfl
@[simp] theorem State.setFld64_coef (s : State) (p : Nat) (lo hi : Fld) (v i : Nat) : (s.setFld64 p lo hi v i).coef = s.coef := rfl
@[simp] theorem State.setFld64_coefStage (s : State) (p : Nat) (lo hi : Fld) (v i : Nat) : (s.setFld64 p lo hi v i).coefStage = s.coefStage := rfl
@[simp] theorem State.setFld64_coefPend (s : State) (p : Nat) (lo hi : Fld) (v i : Nat) : (s.setFld64 p lo hi v i).coefPend = s.coefPend := rfl
@[simp] theorem State.setFld64_dch (s : State) (p : Nat) (lo hi : Fld) (v i : Nat) : (s.setFld64 p lo hi v i).dch = s.dch := rfl
@[simp] theorem State.setFld64_dbank (s : State) (p : Nat) (lo hi : Fld) (v i : Nat) : (s.setFld64 p lo hi v i).dbank = s.dbank := rfl
@[simp] theorem State.setFld64_dseq (s : State) (p : Nat) (lo hi : Fld) (v i : Nat) : (s.setFld64 p lo hi v i).dseq = s.dseq := rfl
@[simp] theorem State.setFld64_arms (s : State) (p : Nat) (lo hi : Fld) (v i : Nat) : (s.setFld64 p lo hi v i).arms = s.arms := rfl
@[simp] theorem State.setFld64_lostParity (s : State) (p : Nat) (lo hi : Fld) (v i : Nat) : (s.setFld64 p lo hi v i).lostParity = s.lostParity := rfl
@[simp] theorem State.setFld64_txAhead (s : State) (p : Nat) (lo hi : Fld) (v i : Nat) : (s.setFld64 p lo hi v i).txAhead = s.txAhead := rfl
@[simp] theorem State.setFld64_acks (s : State) (p : Nat) (lo hi : Fld) (v i : Nat) : (s.setFld64 p lo hi v i).acks = s.acks := rfl
@[simp] theorem State.setFld64_again (s : State) (p : Nat) (lo hi : Fld) (v i : Nat) : (s.setFld64 p lo hi v i).again = s.again := rfl
@[simp] theorem State.setFld64_derr (s : State) (p : Nat) (lo hi : Fld) (v i : Nat) : (s.setFld64 p lo hi v i).derr = s.derr := rfl
@[simp] theorem State.setFld64_sflip (s : State) (p : Nat) (lo hi : Fld) (v i : Nat) : (s.setFld64 p lo hi v i).sflip = s.sflip := rfl
@[simp] theorem State.setFld64_serr (s : State) (p : Nat) (lo hi : Fld) (v i : Nat) : (s.setFld64 p lo hi v i).serr = s.serr := rfl
@[simp] theorem State.setFld64_spares (s : State) (p : Nat) (lo hi : Fld) (v i : Nat) : (s.setFld64 p lo hi v i).spares = s.spares := rfl
@[simp] theorem State.setFld64_catHeld (s : State) (p : Nat) (lo hi : Fld) (v i : Nat) : (s.setFld64 p lo hi v i).catHeld = s.catHeld := rfl
@[simp] theorem State.setFld64_crewSram (s : State) (p : Nat) (lo hi : Fld) (v i : Nat) : (s.setFld64 p lo hi v i).crewSram = s.crewSram := rfl
@[simp] theorem State.setFld64_pcieOut (s : State) (p : Nat) (lo hi : Fld) (v i : Nat) : (s.setFld64 p lo hi v i).pcieOut = s.pcieOut := rfl
@[simp] theorem State.setFld64_routes (s : State) (p : Nat) (lo hi : Fld) (v i : Nat) : (s.setFld64 p lo hi v i).routes = s.routes := rfl
@[simp] theorem State.setFld64_lines (s : State) (p : Nat) (lo hi : Fld) (v i : Nat) : (s.setFld64 p lo hi v i).lines = s.lines := rfl
@[simp] theorem State.setFld64_msixMask (s : State) (p : Nat) (lo hi : Fld) (v i : Nat) : (s.setFld64 p lo hi v i).msixMask = s.msixMask := rfl
@[simp] theorem State.setFld64_msixPend (s : State) (p : Nat) (lo hi : Fld) (v i : Nat) : (s.setFld64 p lo hi v i).msixPend = s.msixPend := rfl
@[simp] theorem State.setFld64_msi (s : State) (p : Nat) (lo hi : Fld) (v i : Nat) : (s.setFld64 p lo hi v i).msi = s.msi := rfl
@[simp] theorem State.setFld64_sdiSlept (s : State) (p : Nat) (lo hi : Fld) (v i : Nat) : (s.setFld64 p lo hi v i).sdiSlept = s.sdiSlept := rfl
@[simp] theorem State.setFld64_pathFailed (s : State) (p : Nat) (lo hi : Fld) (v i : Nat) : (s.setFld64 p lo hi v i).pathFailed = s.pathFailed := rfl
@[simp] theorem State.setFld64_wireErr (s : State) (p : Nat) (lo hi : Fld) (v i : Nat) : (s.setFld64 p lo hi v i).wireErr = s.wireErr := rfl
@[simp] theorem State.setFld64_wireLost (s : State) (p : Nat) (lo hi : Fld) (v i : Nat) : (s.setFld64 p lo hi v i).wireLost = s.wireLost := rfl
@[simp] theorem State.setFld64_fuses (s : State) (p : Nat) (lo hi : Fld) (v i : Nat) : (s.setFld64 p lo hi v i).fuses = s.fuses := rfl
@[simp] theorem State.setFld64_fuseNow (s : State) (p : Nat) (lo hi : Fld) (v i : Nat) : (s.setFld64 p lo hi v i).fuseNow = s.fuseNow := rfl
@[simp] theorem State.setFld64_avsHigh (s : State) (p : Nat) (lo hi : Fld) (v i : Nat) : (s.setFld64 p lo hi v i).avsHigh = s.avsHigh := rfl
@[simp] theorem State.setFld64_tmpCnt (s : State) (p : Nat) (lo hi : Fld) (v i : Nat) : (s.setFld64 p lo hi v i).tmpCnt = s.tmpCnt := rfl
@[simp] theorem State.setFld64_tmpWarm (s : State) (p : Nat) (lo hi : Fld) (v i : Nat) : (s.setFld64 p lo hi v i).tmpWarm = s.tmpWarm := rfl
@[simp] theorem State.setFld64_tmpHot (s : State) (p : Nat) (lo hi : Fld) (v i : Nat) : (s.setFld64 p lo hi v i).tmpHot = s.tmpHot := rfl
@[simp] theorem State.setFld64_hourTop (s : State) (p : Nat) (lo hi : Fld) (v i : Nat) : (s.setFld64 p lo hi v i).hourTop = s.hourTop := rfl
@[simp] theorem State.setFld64_hourSector (s : State) (p : Nat) (lo hi : Fld) (v i : Nat) : (s.setFld64 p lo hi v i).hourSector = s.hourSector := rfl
@[simp] theorem State.setFld64_hourRecs (s : State) (p : Nat) (lo hi : Fld) (v i : Nat) : (s.setFld64 p lo hi v i).hourRecs = s.hourRecs := rfl
@[simp] theorem State.setFld64_flash (s : State) (p : Nat) (lo hi : Fld) (v i : Nat) : (s.setFld64 p lo hi v i).flash = s.flash := rfl
@[simp] theorem State.setFld64_slots (s : State) (p : Nat) (lo hi : Fld) (v i : Nat) : (s.setFld64 p lo hi v i).slots = s.slots := rfl
@[simp] theorem State.setFld64_upd (s : State) (p : Nat) (lo hi : Fld) (v i : Nat) : (s.setFld64 p lo hi v i).upd = s.upd := rfl
@[simp] theorem State.setFld64_lcyWiped (s : State) (p : Nat) (lo hi : Fld) (v i : Nat) : (s.setFld64 p lo hi v i).lcyWiped = s.lcyWiped := rfl
@[simp] theorem State.setFld64_oemHash (s : State) (p : Nat) (lo hi : Fld) (v i : Nat) : (s.setFld64 p lo hi v i).oemHash = s.oemHash := rfl
@[simp] theorem State.setFld64_pair (s : State) (p : Nat) (lo hi : Fld) (v i : Nat) : (s.setFld64 p lo hi v i).pair = s.pair := rfl
@[simp] theorem State.setFld64_commitFrom (s : State) (p : Nat) (lo hi : Fld) (v i : Nat) : (s.setFld64 p lo hi v i).commitFrom = s.commitFrom := rfl
@[simp] theorem State.setFld64_call (s : State) (p : Nat) (lo hi : Fld) (v i : Nat) : (s.setFld64 p lo hi v i).call = s.call := rfl
@[simp] theorem State.setFld64_joined (s : State) (p : Nat) (lo hi : Fld) (v i : Nat) : (s.setFld64 p lo hi v i).joined = s.joined := rfl
@[simp] theorem State.setFld64_acted (s : State) (p : Nat) (lo hi : Fld) (v i : Nat) : (s.setFld64 p lo hi v i).acted = s.acted := rfl

@[simp] theorem State.bump_pending (s : State) (p : Nat) (f : Fld) (n i : Nat) : (s.bump p f n i).pending = s.pending := rfl
@[simp] theorem State.bump_low (s : State) (p : Nat) (f : Fld) (n i : Nat) : (s.bump p f n i).low = s.low := rfl
@[simp] theorem State.bump_booted (s : State) (p : Nat) (f : Fld) (n i : Nat) : (s.bump p f n i).booted = s.booted := rfl
@[simp] theorem State.bump_upt (s : State) (p : Nat) (f : Fld) (n i : Nat) : (s.bump p f n i).upt = s.upt := rfl
@[simp] theorem State.bump_cueRun (s : State) (p : Nat) (f : Fld) (n i : Nat) : (s.bump p f n i).cueRun = s.cueRun := rfl
@[simp] theorem State.bump_cueByp (s : State) (p : Nat) (f : Fld) (n i : Nat) : (s.bump p f n i).cueByp = s.cueByp := rfl
@[simp] theorem State.bump_live (s : State) (p : Nat) (f : Fld) (n i : Nat) : (s.bump p f n i).live = s.live := rfl
@[simp] theorem State.bump_mregs (s : State) (p : Nat) (f : Fld) (n i : Nat) : (s.bump p f n i).mregs = s.mregs := rfl
@[simp] theorem State.bump_commits (s : State) (p : Nat) (f : Fld) (n i : Nat) : (s.bump p f n i).commits = s.commits := rfl
@[simp] theorem State.bump_forced (s : State) (p : Nat) (f : Fld) (n i : Nat) : (s.bump p f n i).forced = s.forced := rfl
@[simp] theorem State.bump_resp (s : State) (p : Nat) (f : Fld) (n i : Nat) : (s.bump p f n i).resp = s.resp := rfl
@[simp] theorem State.bump_free (s : State) (p : Nat) (f : Fld) (n i : Nat) : (s.bump p f n i).free = s.free := rfl
@[simp] theorem State.bump_fltT (s : State) (p : Nat) (f : Fld) (n i : Nat) : (s.bump p f n i).fltT = s.fltT := rfl
@[simp] theorem State.bump_fltC (s : State) (p : Nat) (f : Fld) (n i : Nat) : (s.bump p f n i).fltC = s.fltC := rfl
@[simp] theorem State.bump_snapNow (s : State) (p : Nat) (f : Fld) (n i : Nat) : (s.bump p f n i).snapNow = s.snapNow := rfl
@[simp] theorem State.bump_snapArmed (s : State) (p : Nat) (f : Fld) (n i : Nat) : (s.bump p f n i).snapArmed = s.snapArmed := rfl
@[simp] theorem State.bump_snapPages (s : State) (p : Nat) (f : Fld) (n i : Nat) : (s.bump p f n i).snapPages = s.snapPages := rfl
@[simp] theorem State.bump_snapT (s : State) (p : Nat) (f : Fld) (n i : Nat) : (s.bump p f n i).snapT = s.snapT := rfl
@[simp] theorem State.bump_tod (s : State) (p : Nat) (f : Fld) (n i : Nat) : (s.bump p f n i).tod = s.tod := rfl
@[simp] theorem State.bump_rxl (s : State) (p : Nat) (f : Fld) (n i : Nat) : (s.bump p f n i).rxl = s.rxl := rfl
@[simp] theorem State.bump_txl (s : State) (p : Nat) (f : Fld) (n i : Nat) : (s.bump p f n i).txl = s.txl := rfl
@[simp] theorem State.bump_rot (s : State) (p : Nat) (f : Fld) (n i : Nat) : (s.bump p f n i).rot = s.rot := rfl
@[simp] theorem State.bump_pll (s : State) (p : Nat) (f : Fld) (n i : Nat) : (s.bump p f n i).pll = s.pll := rfl
@[simp] theorem State.bump_refIn (s : State) (p : Nat) (f : Fld) (n i : Nat) : (s.bump p f n i).refIn = s.refIn := rfl
@[simp] theorem State.bump_refSel (s : State) (p : Nat) (f : Fld) (n i : Nat) : (s.bump p f n i).refSel = s.refSel := rfl
@[simp] theorem State.bump_groups (s : State) (p : Nat) (f : Fld) (n i : Nat) : (s.bump p f n i).groups = s.groups := rfl
@[simp] theorem State.bump_plat (s : State) (p : Nat) (f : Fld) (n i : Nat) : (s.bump p f n i).plat = s.plat := rfl
@[simp] theorem State.bump_rxTab (s : State) (p : Nat) (f : Fld) (n i : Nat) : (s.bump p f n i).rxTab = s.rxTab := rfl
@[simp] theorem State.bump_rxStage (s : State) (p : Nat) (f : Fld) (n i : Nat) : (s.bump p f n i).rxStage = s.rxStage := rfl
@[simp] theorem State.bump_rxPend (s : State) (p : Nat) (f : Fld) (n i : Nat) : (s.bump p f n i).rxPend = s.rxPend := rfl
@[simp] theorem State.bump_txTab (s : State) (p : Nat) (f : Fld) (n i : Nat) : (s.bump p f n i).txTab = s.txTab := rfl
@[simp] theorem State.bump_txStage (s : State) (p : Nat) (f : Fld) (n i : Nat) : (s.bump p f n i).txStage = s.txStage := rfl
@[simp] theorem State.bump_txPend (s : State) (p : Nat) (f : Fld) (n i : Nat) : (s.bump p f n i).txPend = s.txPend := rfl
@[simp] theorem State.bump_rxEnt (s : State) (p : Nat) (f : Fld) (n i : Nat) : (s.bump p f n i).rxEnt = s.rxEnt := rfl
@[simp] theorem State.bump_txEnt (s : State) (p : Nat) (f : Fld) (n i : Nat) : (s.bump p f n i).txEnt = s.txEnt := rfl
@[simp] theorem State.bump_rxStored (s : State) (p : Nat) (f : Fld) (n i : Nat) : (s.bump p f n i).rxStored = s.rxStored := rfl
@[simp] theorem State.bump_txStored (s : State) (p : Nat) (f : Fld) (n i : Nat) : (s.bump p f n i).txStored = s.txStored := rfl
@[simp] theorem State.bump_tsq (s : State) (p : Nat) (f : Fld) (n i : Nat) : (s.bump p f n i).tsq = s.tsq := rfl
@[simp] theorem State.bump_sent (s : State) (p : Nat) (f : Fld) (n i : Nat) : (s.bump p f n i).sent = s.sent := rfl
@[simp] theorem State.bump_dram (s : State) (p : Nat) (f : Fld) (n i : Nat) : (s.bump p f n i).dram = s.dram := rfl
@[simp] theorem State.bump_twinOut (s : State) (p : Nat) (f : Fld) (n i : Nat) : (s.bump p f n i).twinOut = s.twinOut := rfl
@[simp] theorem State.bump_twinSeq (s : State) (p : Nat) (f : Fld) (n i : Nat) : (s.bump p f n i).twinSeq = s.twinSeq := rfl
@[simp] theorem State.bump_journalIn (s : State) (p : Nat) (f : Fld) (n i : Nat) : (s.bump p f n i).journalIn = s.journalIn := rfl
@[simp] theorem State.bump_repairs (s : State) (p : Nat) (f : Fld) (n i : Nat) : (s.bump p f n i).repairs = s.repairs := rfl
@[simp] theorem State.bump_retired (s : State) (p : Nat) (f : Fld) (n i : Nat) : (s.bump p f n i).retired = s.retired := rfl
@[simp] theorem State.bump_classM (s : State) (p : Nat) (f : Fld) (n i : Nat) : (s.bump p f n i).classM = s.classM := rfl
@[simp] theorem State.bump_checking (s : State) (p : Nat) (f : Fld) (n i : Nat) : (s.bump p f n i).checking = s.checking := rfl
@[simp] theorem State.bump_defr (s : State) (p : Nat) (f : Fld) (n i : Nat) : (s.bump p f n i).defr = s.defr := rfl
@[simp] theorem State.bump_fmtr (s : State) (p : Nat) (f : Fld) (n i : Nat) : (s.bump p f n i).fmtr = s.fmtr := rfl
@[simp] theorem State.bump_pitIn (s : State) (p : Nat) (f : Fld) (n i : Nat) : (s.bump p f n i).pitIn = s.pitIn := rfl
@[simp] theorem State.bump_pitOut (s : State) (p : Nat) (f : Fld) (n i : Nat) : (s.bump p f n i).pitOut = s.pitOut := rfl
@[simp] theorem State.bump_pitTakes (s : State) (p : Nat) (f : Fld) (n i : Nat) : (s.bump p f n i).pitTakes = s.pitTakes := rfl
@[simp] theorem State.bump_pitGrid (s : State) (p : Nat) (f : Fld) (n i : Nat) : (s.bump p f n i).pitGrid = s.pitGrid := rfl
@[simp] theorem State.bump_pitLast (s : State) (p : Nat) (f : Fld) (n i : Nat) : (s.bump p f n i).pitLast = s.pitLast := rfl
@[simp] theorem State.bump_pitTab (s : State) (p : Nat) (f : Fld) (n i : Nat) : (s.bump p f n i).pitTab = s.pitTab := rfl
@[simp] theorem State.bump_pitStage (s : State) (p : Nat) (f : Fld) (n i : Nat) : (s.bump p f n i).pitStage = s.pitStage := rfl
@[simp] theorem State.bump_pitPend (s : State) (p : Nat) (f : Fld) (n i : Nat) : (s.bump p f n i).pitPend = s.pitPend := rfl
@[simp] theorem State.bump_synLine (s : State) (p : Nat) (f : Fld) (n i : Nat) : (s.bump p f n i).synLine = s.synLine := rfl
@[simp] theorem State.bump_tdm (s : State) (p : Nat) (f : Fld) (n i : Nat) : (s.bump p f n i).tdm = s.tdm := rfl
@[simp] theorem State.bump_tdmCh (s : State) (p : Nat) (f : Fld) (n i : Nat) : (s.bump p f n i).tdmCh = s.tdmCh := rfl
@[simp] theorem State.bump_tdmMask (s : State) (p : Nat) (f : Fld) (n i : Nat) : (s.bump p f n i).tdmMask = s.tdmMask := rfl
@[simp] theorem State.bump_syn (s : State) (p : Nat) (f : Fld) (n i : Nat) : (s.bump p f n i).syn = s.syn := rfl
@[simp] theorem State.bump_tapSel (s : State) (p : Nat) (f : Fld) (n i : Nat) : (s.bump p f n i).tapSel = s.tapSel := rfl
@[simp] theorem State.bump_armed (s : State) (p : Nat) (f : Fld) (n i : Nat) : (s.bump p f n i).armed = s.armed := rfl
@[simp] theorem State.bump_salvoMem (s : State) (p : Nat) (f : Fld) (n i : Nat) : (s.bump p f n i).salvoMem = s.salvoMem := rfl
@[simp] theorem State.bump_sheet (s : State) (p : Nat) (f : Fld) (n i : Nat) : (s.bump p f n i).sheet = s.sheet := rfl
@[simp] theorem State.bump_salvos (s : State) (p : Nat) (f : Fld) (n i : Nat) : (s.bump p f n i).salvos = s.salvos := rfl
@[simp] theorem State.bump_salvoSeq (s : State) (p : Nat) (f : Fld) (n i : Nat) : (s.bump p f n i).salvoSeq = s.salvoSeq := rfl
@[simp] theorem State.bump_armSeq (s : State) (p : Nat) (f : Fld) (n i : Nat) : (s.bump p f n i).armSeq = s.armSeq := rfl
@[simp] theorem State.bump_results (s : State) (p : Nat) (f : Fld) (n i : Nat) : (s.bump p f n i).results = s.results := rfl
@[simp] theorem State.bump_gpi (s : State) (p : Nat) (f : Fld) (n i : Nat) : (s.bump p f n i).gpi = s.gpi := rfl
@[simp] theorem State.bump_pro (s : State) (p : Nat) (f : Fld) (n i : Nat) : (s.bump p f n i).pro = s.pro := rfl
@[simp] theorem State.bump_lay (s : State) (p : Nat) (f : Fld) (n i : Nat) : (s.bump p f n i).lay = s.lay := rfl
@[simp] theorem State.bump_coef (s : State) (p : Nat) (f : Fld) (n i : Nat) : (s.bump p f n i).coef = s.coef := rfl
@[simp] theorem State.bump_coefStage (s : State) (p : Nat) (f : Fld) (n i : Nat) : (s.bump p f n i).coefStage = s.coefStage := rfl
@[simp] theorem State.bump_coefPend (s : State) (p : Nat) (f : Fld) (n i : Nat) : (s.bump p f n i).coefPend = s.coefPend := rfl
@[simp] theorem State.bump_dch (s : State) (p : Nat) (f : Fld) (n i : Nat) : (s.bump p f n i).dch = s.dch := rfl
@[simp] theorem State.bump_dbank (s : State) (p : Nat) (f : Fld) (n i : Nat) : (s.bump p f n i).dbank = s.dbank := rfl
@[simp] theorem State.bump_dseq (s : State) (p : Nat) (f : Fld) (n i : Nat) : (s.bump p f n i).dseq = s.dseq := rfl
@[simp] theorem State.bump_arms (s : State) (p : Nat) (f : Fld) (n i : Nat) : (s.bump p f n i).arms = s.arms := rfl
@[simp] theorem State.bump_lostParity (s : State) (p : Nat) (f : Fld) (n i : Nat) : (s.bump p f n i).lostParity = s.lostParity := rfl
@[simp] theorem State.bump_txAhead (s : State) (p : Nat) (f : Fld) (n i : Nat) : (s.bump p f n i).txAhead = s.txAhead := rfl
@[simp] theorem State.bump_acks (s : State) (p : Nat) (f : Fld) (n i : Nat) : (s.bump p f n i).acks = s.acks := rfl
@[simp] theorem State.bump_again (s : State) (p : Nat) (f : Fld) (n i : Nat) : (s.bump p f n i).again = s.again := rfl
@[simp] theorem State.bump_derr (s : State) (p : Nat) (f : Fld) (n i : Nat) : (s.bump p f n i).derr = s.derr := rfl
@[simp] theorem State.bump_sflip (s : State) (p : Nat) (f : Fld) (n i : Nat) : (s.bump p f n i).sflip = s.sflip := rfl
@[simp] theorem State.bump_serr (s : State) (p : Nat) (f : Fld) (n i : Nat) : (s.bump p f n i).serr = s.serr := rfl
@[simp] theorem State.bump_spares (s : State) (p : Nat) (f : Fld) (n i : Nat) : (s.bump p f n i).spares = s.spares := rfl
@[simp] theorem State.bump_catHeld (s : State) (p : Nat) (f : Fld) (n i : Nat) : (s.bump p f n i).catHeld = s.catHeld := rfl
@[simp] theorem State.bump_crewSram (s : State) (p : Nat) (f : Fld) (n i : Nat) : (s.bump p f n i).crewSram = s.crewSram := rfl
@[simp] theorem State.bump_pcieOut (s : State) (p : Nat) (f : Fld) (n i : Nat) : (s.bump p f n i).pcieOut = s.pcieOut := rfl
@[simp] theorem State.bump_routes (s : State) (p : Nat) (f : Fld) (n i : Nat) : (s.bump p f n i).routes = s.routes := rfl
@[simp] theorem State.bump_lines (s : State) (p : Nat) (f : Fld) (n i : Nat) : (s.bump p f n i).lines = s.lines := rfl
@[simp] theorem State.bump_msixMask (s : State) (p : Nat) (f : Fld) (n i : Nat) : (s.bump p f n i).msixMask = s.msixMask := rfl
@[simp] theorem State.bump_msixPend (s : State) (p : Nat) (f : Fld) (n i : Nat) : (s.bump p f n i).msixPend = s.msixPend := rfl
@[simp] theorem State.bump_msi (s : State) (p : Nat) (f : Fld) (n i : Nat) : (s.bump p f n i).msi = s.msi := rfl
@[simp] theorem State.bump_sdiSlept (s : State) (p : Nat) (f : Fld) (n i : Nat) : (s.bump p f n i).sdiSlept = s.sdiSlept := rfl
@[simp] theorem State.bump_pathFailed (s : State) (p : Nat) (f : Fld) (n i : Nat) : (s.bump p f n i).pathFailed = s.pathFailed := rfl
@[simp] theorem State.bump_wireErr (s : State) (p : Nat) (f : Fld) (n i : Nat) : (s.bump p f n i).wireErr = s.wireErr := rfl
@[simp] theorem State.bump_wireLost (s : State) (p : Nat) (f : Fld) (n i : Nat) : (s.bump p f n i).wireLost = s.wireLost := rfl
@[simp] theorem State.bump_fuses (s : State) (p : Nat) (f : Fld) (n i : Nat) : (s.bump p f n i).fuses = s.fuses := rfl
@[simp] theorem State.bump_fuseNow (s : State) (p : Nat) (f : Fld) (n i : Nat) : (s.bump p f n i).fuseNow = s.fuseNow := rfl
@[simp] theorem State.bump_avsHigh (s : State) (p : Nat) (f : Fld) (n i : Nat) : (s.bump p f n i).avsHigh = s.avsHigh := rfl
@[simp] theorem State.bump_tmpCnt (s : State) (p : Nat) (f : Fld) (n i : Nat) : (s.bump p f n i).tmpCnt = s.tmpCnt := rfl
@[simp] theorem State.bump_tmpWarm (s : State) (p : Nat) (f : Fld) (n i : Nat) : (s.bump p f n i).tmpWarm = s.tmpWarm := rfl
@[simp] theorem State.bump_tmpHot (s : State) (p : Nat) (f : Fld) (n i : Nat) : (s.bump p f n i).tmpHot = s.tmpHot := rfl
@[simp] theorem State.bump_hourTop (s : State) (p : Nat) (f : Fld) (n i : Nat) : (s.bump p f n i).hourTop = s.hourTop := rfl
@[simp] theorem State.bump_hourSector (s : State) (p : Nat) (f : Fld) (n i : Nat) : (s.bump p f n i).hourSector = s.hourSector := rfl
@[simp] theorem State.bump_hourRecs (s : State) (p : Nat) (f : Fld) (n i : Nat) : (s.bump p f n i).hourRecs = s.hourRecs := rfl
@[simp] theorem State.bump_flash (s : State) (p : Nat) (f : Fld) (n i : Nat) : (s.bump p f n i).flash = s.flash := rfl
@[simp] theorem State.bump_slots (s : State) (p : Nat) (f : Fld) (n i : Nat) : (s.bump p f n i).slots = s.slots := rfl
@[simp] theorem State.bump_upd (s : State) (p : Nat) (f : Fld) (n i : Nat) : (s.bump p f n i).upd = s.upd := rfl
@[simp] theorem State.bump_lcyWiped (s : State) (p : Nat) (f : Fld) (n i : Nat) : (s.bump p f n i).lcyWiped = s.lcyWiped := rfl
@[simp] theorem State.bump_oemHash (s : State) (p : Nat) (f : Fld) (n i : Nat) : (s.bump p f n i).oemHash = s.oemHash := rfl
@[simp] theorem State.bump_pair (s : State) (p : Nat) (f : Fld) (n i : Nat) : (s.bump p f n i).pair = s.pair := rfl
@[simp] theorem State.bump_commitFrom (s : State) (p : Nat) (f : Fld) (n i : Nat) : (s.bump p f n i).commitFrom = s.commitFrom := rfl
@[simp] theorem State.bump_call (s : State) (p : Nat) (f : Fld) (n i : Nat) : (s.bump p f n i).call = s.call := rfl
@[simp] theorem State.bump_joined (s : State) (p : Nat) (f : Fld) (n i : Nat) : (s.bump p f n i).joined = s.joined := rfl
@[simp] theorem State.bump_acted (s : State) (p : Nat) (f : Fld) (n i : Nat) : (s.bump p f n i).acted = s.acted := rfl

@[simp] theorem State.irq_pending (s : State) (p b : Nat) : (s.irq p b).pending = s.pending := rfl
@[simp] theorem State.irq_low (s : State) (p b : Nat) : (s.irq p b).low = s.low := rfl
@[simp] theorem State.irq_booted (s : State) (p b : Nat) : (s.irq p b).booted = s.booted := rfl
@[simp] theorem State.irq_upt (s : State) (p b : Nat) : (s.irq p b).upt = s.upt := rfl
@[simp] theorem State.irq_cueRun (s : State) (p b : Nat) : (s.irq p b).cueRun = s.cueRun := rfl
@[simp] theorem State.irq_cueByp (s : State) (p b : Nat) : (s.irq p b).cueByp = s.cueByp := rfl
@[simp] theorem State.irq_live (s : State) (p b : Nat) : (s.irq p b).live = s.live := rfl
@[simp] theorem State.irq_mregs (s : State) (p b : Nat) : (s.irq p b).mregs = s.mregs := rfl
@[simp] theorem State.irq_commits (s : State) (p b : Nat) : (s.irq p b).commits = s.commits := rfl
@[simp] theorem State.irq_forced (s : State) (p b : Nat) : (s.irq p b).forced = s.forced := rfl
@[simp] theorem State.irq_resp (s : State) (p b : Nat) : (s.irq p b).resp = s.resp := rfl
@[simp] theorem State.irq_free (s : State) (p b : Nat) : (s.irq p b).free = s.free := rfl
@[simp] theorem State.irq_fltT (s : State) (p b : Nat) : (s.irq p b).fltT = s.fltT := rfl
@[simp] theorem State.irq_fltC (s : State) (p b : Nat) : (s.irq p b).fltC = s.fltC := rfl
@[simp] theorem State.irq_snapNow (s : State) (p b : Nat) : (s.irq p b).snapNow = s.snapNow := rfl
@[simp] theorem State.irq_snapArmed (s : State) (p b : Nat) : (s.irq p b).snapArmed = s.snapArmed := rfl
@[simp] theorem State.irq_snapPages (s : State) (p b : Nat) : (s.irq p b).snapPages = s.snapPages := rfl
@[simp] theorem State.irq_snapT (s : State) (p b : Nat) : (s.irq p b).snapT = s.snapT := rfl
@[simp] theorem State.irq_tod (s : State) (p b : Nat) : (s.irq p b).tod = s.tod := rfl
@[simp] theorem State.irq_rxl (s : State) (p b : Nat) : (s.irq p b).rxl = s.rxl := rfl
@[simp] theorem State.irq_txl (s : State) (p b : Nat) : (s.irq p b).txl = s.txl := rfl
@[simp] theorem State.irq_rot (s : State) (p b : Nat) : (s.irq p b).rot = s.rot := rfl
@[simp] theorem State.irq_pll (s : State) (p b : Nat) : (s.irq p b).pll = s.pll := rfl
@[simp] theorem State.irq_refIn (s : State) (p b : Nat) : (s.irq p b).refIn = s.refIn := rfl
@[simp] theorem State.irq_refSel (s : State) (p b : Nat) : (s.irq p b).refSel = s.refSel := rfl
@[simp] theorem State.irq_groups (s : State) (p b : Nat) : (s.irq p b).groups = s.groups := rfl
@[simp] theorem State.irq_plat (s : State) (p b : Nat) : (s.irq p b).plat = s.plat := rfl
@[simp] theorem State.irq_rxTab (s : State) (p b : Nat) : (s.irq p b).rxTab = s.rxTab := rfl
@[simp] theorem State.irq_rxStage (s : State) (p b : Nat) : (s.irq p b).rxStage = s.rxStage := rfl
@[simp] theorem State.irq_rxPend (s : State) (p b : Nat) : (s.irq p b).rxPend = s.rxPend := rfl
@[simp] theorem State.irq_txTab (s : State) (p b : Nat) : (s.irq p b).txTab = s.txTab := rfl
@[simp] theorem State.irq_txStage (s : State) (p b : Nat) : (s.irq p b).txStage = s.txStage := rfl
@[simp] theorem State.irq_txPend (s : State) (p b : Nat) : (s.irq p b).txPend = s.txPend := rfl
@[simp] theorem State.irq_rxEnt (s : State) (p b : Nat) : (s.irq p b).rxEnt = s.rxEnt := rfl
@[simp] theorem State.irq_txEnt (s : State) (p b : Nat) : (s.irq p b).txEnt = s.txEnt := rfl
@[simp] theorem State.irq_rxStored (s : State) (p b : Nat) : (s.irq p b).rxStored = s.rxStored := rfl
@[simp] theorem State.irq_txStored (s : State) (p b : Nat) : (s.irq p b).txStored = s.txStored := rfl
@[simp] theorem State.irq_tsq (s : State) (p b : Nat) : (s.irq p b).tsq = s.tsq := rfl
@[simp] theorem State.irq_sent (s : State) (p b : Nat) : (s.irq p b).sent = s.sent := rfl
@[simp] theorem State.irq_dram (s : State) (p b : Nat) : (s.irq p b).dram = s.dram := rfl
@[simp] theorem State.irq_twinOut (s : State) (p b : Nat) : (s.irq p b).twinOut = s.twinOut := rfl
@[simp] theorem State.irq_twinSeq (s : State) (p b : Nat) : (s.irq p b).twinSeq = s.twinSeq := rfl
@[simp] theorem State.irq_journalIn (s : State) (p b : Nat) : (s.irq p b).journalIn = s.journalIn := rfl
@[simp] theorem State.irq_repairs (s : State) (p b : Nat) : (s.irq p b).repairs = s.repairs := rfl
@[simp] theorem State.irq_retired (s : State) (p b : Nat) : (s.irq p b).retired = s.retired := rfl
@[simp] theorem State.irq_classM (s : State) (p b : Nat) : (s.irq p b).classM = s.classM := rfl
@[simp] theorem State.irq_checking (s : State) (p b : Nat) : (s.irq p b).checking = s.checking := rfl
@[simp] theorem State.irq_defr (s : State) (p b : Nat) : (s.irq p b).defr = s.defr := rfl
@[simp] theorem State.irq_fmtr (s : State) (p b : Nat) : (s.irq p b).fmtr = s.fmtr := rfl
@[simp] theorem State.irq_pitIn (s : State) (p b : Nat) : (s.irq p b).pitIn = s.pitIn := rfl
@[simp] theorem State.irq_pitOut (s : State) (p b : Nat) : (s.irq p b).pitOut = s.pitOut := rfl
@[simp] theorem State.irq_pitTakes (s : State) (p b : Nat) : (s.irq p b).pitTakes = s.pitTakes := rfl
@[simp] theorem State.irq_pitGrid (s : State) (p b : Nat) : (s.irq p b).pitGrid = s.pitGrid := rfl
@[simp] theorem State.irq_pitLast (s : State) (p b : Nat) : (s.irq p b).pitLast = s.pitLast := rfl
@[simp] theorem State.irq_pitTab (s : State) (p b : Nat) : (s.irq p b).pitTab = s.pitTab := rfl
@[simp] theorem State.irq_pitStage (s : State) (p b : Nat) : (s.irq p b).pitStage = s.pitStage := rfl
@[simp] theorem State.irq_pitPend (s : State) (p b : Nat) : (s.irq p b).pitPend = s.pitPend := rfl
@[simp] theorem State.irq_synLine (s : State) (p b : Nat) : (s.irq p b).synLine = s.synLine := rfl
@[simp] theorem State.irq_tdm (s : State) (p b : Nat) : (s.irq p b).tdm = s.tdm := rfl
@[simp] theorem State.irq_tdmCh (s : State) (p b : Nat) : (s.irq p b).tdmCh = s.tdmCh := rfl
@[simp] theorem State.irq_tdmMask (s : State) (p b : Nat) : (s.irq p b).tdmMask = s.tdmMask := rfl
@[simp] theorem State.irq_syn (s : State) (p b : Nat) : (s.irq p b).syn = s.syn := rfl
@[simp] theorem State.irq_tapSel (s : State) (p b : Nat) : (s.irq p b).tapSel = s.tapSel := rfl
@[simp] theorem State.irq_armed (s : State) (p b : Nat) : (s.irq p b).armed = s.armed := rfl
@[simp] theorem State.irq_salvoMem (s : State) (p b : Nat) : (s.irq p b).salvoMem = s.salvoMem := rfl
@[simp] theorem State.irq_sheet (s : State) (p b : Nat) : (s.irq p b).sheet = s.sheet := rfl
@[simp] theorem State.irq_salvos (s : State) (p b : Nat) : (s.irq p b).salvos = s.salvos := rfl
@[simp] theorem State.irq_salvoSeq (s : State) (p b : Nat) : (s.irq p b).salvoSeq = s.salvoSeq := rfl
@[simp] theorem State.irq_armSeq (s : State) (p b : Nat) : (s.irq p b).armSeq = s.armSeq := rfl
@[simp] theorem State.irq_results (s : State) (p b : Nat) : (s.irq p b).results = s.results := rfl
@[simp] theorem State.irq_gpi (s : State) (p b : Nat) : (s.irq p b).gpi = s.gpi := rfl
@[simp] theorem State.irq_pro (s : State) (p b : Nat) : (s.irq p b).pro = s.pro := rfl
@[simp] theorem State.irq_lay (s : State) (p b : Nat) : (s.irq p b).lay = s.lay := rfl
@[simp] theorem State.irq_coef (s : State) (p b : Nat) : (s.irq p b).coef = s.coef := rfl
@[simp] theorem State.irq_coefStage (s : State) (p b : Nat) : (s.irq p b).coefStage = s.coefStage := rfl
@[simp] theorem State.irq_coefPend (s : State) (p b : Nat) : (s.irq p b).coefPend = s.coefPend := rfl
@[simp] theorem State.irq_dch (s : State) (p b : Nat) : (s.irq p b).dch = s.dch := rfl
@[simp] theorem State.irq_dbank (s : State) (p b : Nat) : (s.irq p b).dbank = s.dbank := rfl
@[simp] theorem State.irq_dseq (s : State) (p b : Nat) : (s.irq p b).dseq = s.dseq := rfl
@[simp] theorem State.irq_arms (s : State) (p b : Nat) : (s.irq p b).arms = s.arms := rfl
@[simp] theorem State.irq_lostParity (s : State) (p b : Nat) : (s.irq p b).lostParity = s.lostParity := rfl
@[simp] theorem State.irq_txAhead (s : State) (p b : Nat) : (s.irq p b).txAhead = s.txAhead := rfl
@[simp] theorem State.irq_acks (s : State) (p b : Nat) : (s.irq p b).acks = s.acks := rfl
@[simp] theorem State.irq_again (s : State) (p b : Nat) : (s.irq p b).again = s.again := rfl
@[simp] theorem State.irq_derr (s : State) (p b : Nat) : (s.irq p b).derr = s.derr := rfl
@[simp] theorem State.irq_sflip (s : State) (p b : Nat) : (s.irq p b).sflip = s.sflip := rfl
@[simp] theorem State.irq_serr (s : State) (p b : Nat) : (s.irq p b).serr = s.serr := rfl
@[simp] theorem State.irq_spares (s : State) (p b : Nat) : (s.irq p b).spares = s.spares := rfl
@[simp] theorem State.irq_catHeld (s : State) (p b : Nat) : (s.irq p b).catHeld = s.catHeld := rfl
@[simp] theorem State.irq_crewSram (s : State) (p b : Nat) : (s.irq p b).crewSram = s.crewSram := rfl
@[simp] theorem State.irq_pcieOut (s : State) (p b : Nat) : (s.irq p b).pcieOut = s.pcieOut := rfl
@[simp] theorem State.irq_routes (s : State) (p b : Nat) : (s.irq p b).routes = s.routes := rfl
@[simp] theorem State.irq_lines (s : State) (p b : Nat) : (s.irq p b).lines = s.lines := rfl
@[simp] theorem State.irq_msixMask (s : State) (p b : Nat) : (s.irq p b).msixMask = s.msixMask := rfl
@[simp] theorem State.irq_msixPend (s : State) (p b : Nat) : (s.irq p b).msixPend = s.msixPend := rfl
@[simp] theorem State.irq_msi (s : State) (p b : Nat) : (s.irq p b).msi = s.msi := rfl
@[simp] theorem State.irq_sdiSlept (s : State) (p b : Nat) : (s.irq p b).sdiSlept = s.sdiSlept := rfl
@[simp] theorem State.irq_pathFailed (s : State) (p b : Nat) : (s.irq p b).pathFailed = s.pathFailed := rfl
@[simp] theorem State.irq_wireErr (s : State) (p b : Nat) : (s.irq p b).wireErr = s.wireErr := rfl
@[simp] theorem State.irq_wireLost (s : State) (p b : Nat) : (s.irq p b).wireLost = s.wireLost := rfl
@[simp] theorem State.irq_fuses (s : State) (p b : Nat) : (s.irq p b).fuses = s.fuses := rfl
@[simp] theorem State.irq_fuseNow (s : State) (p b : Nat) : (s.irq p b).fuseNow = s.fuseNow := rfl
@[simp] theorem State.irq_avsHigh (s : State) (p b : Nat) : (s.irq p b).avsHigh = s.avsHigh := rfl
@[simp] theorem State.irq_tmpCnt (s : State) (p b : Nat) : (s.irq p b).tmpCnt = s.tmpCnt := rfl
@[simp] theorem State.irq_tmpWarm (s : State) (p b : Nat) : (s.irq p b).tmpWarm = s.tmpWarm := rfl
@[simp] theorem State.irq_tmpHot (s : State) (p b : Nat) : (s.irq p b).tmpHot = s.tmpHot := rfl
@[simp] theorem State.irq_hourTop (s : State) (p b : Nat) : (s.irq p b).hourTop = s.hourTop := rfl
@[simp] theorem State.irq_hourSector (s : State) (p b : Nat) : (s.irq p b).hourSector = s.hourSector := rfl
@[simp] theorem State.irq_hourRecs (s : State) (p b : Nat) : (s.irq p b).hourRecs = s.hourRecs := rfl
@[simp] theorem State.irq_flash (s : State) (p b : Nat) : (s.irq p b).flash = s.flash := rfl
@[simp] theorem State.irq_slots (s : State) (p b : Nat) : (s.irq p b).slots = s.slots := rfl
@[simp] theorem State.irq_upd (s : State) (p b : Nat) : (s.irq p b).upd = s.upd := rfl
@[simp] theorem State.irq_lcyWiped (s : State) (p b : Nat) : (s.irq p b).lcyWiped = s.lcyWiped := rfl
@[simp] theorem State.irq_oemHash (s : State) (p b : Nat) : (s.irq p b).oemHash = s.oemHash := rfl
@[simp] theorem State.irq_pair (s : State) (p b : Nat) : (s.irq p b).pair = s.pair := rfl
@[simp] theorem State.irq_commitFrom (s : State) (p b : Nat) : (s.irq p b).commitFrom = s.commitFrom := rfl
@[simp] theorem State.irq_call (s : State) (p b : Nat) : (s.irq p b).call = s.call := rfl
@[simp] theorem State.irq_joined (s : State) (p b : Nat) : (s.irq p b).joined = s.joined := rfl
@[simp] theorem State.irq_acted (s : State) (p b : Nat) : (s.irq p b).acted = s.acted := rfl

@[simp] theorem State.answer_pending (s : State) (m : Nat) (k : RespKind) (d : List Byte) : (s.answer m k d).pending = s.pending := rfl
@[simp] theorem State.answer_low (s : State) (m : Nat) (k : RespKind) (d : List Byte) : (s.answer m k d).low = s.low := rfl
@[simp] theorem State.answer_booted (s : State) (m : Nat) (k : RespKind) (d : List Byte) : (s.answer m k d).booted = s.booted := rfl
@[simp] theorem State.answer_upt (s : State) (m : Nat) (k : RespKind) (d : List Byte) : (s.answer m k d).upt = s.upt := rfl
@[simp] theorem State.answer_cueRun (s : State) (m : Nat) (k : RespKind) (d : List Byte) : (s.answer m k d).cueRun = s.cueRun := rfl
@[simp] theorem State.answer_cueByp (s : State) (m : Nat) (k : RespKind) (d : List Byte) : (s.answer m k d).cueByp = s.cueByp := rfl
@[simp] theorem State.answer_regs (s : State) (m : Nat) (k : RespKind) (d : List Byte) : (s.answer m k d).regs = s.regs := rfl
@[simp] theorem State.answer_live (s : State) (m : Nat) (k : RespKind) (d : List Byte) : (s.answer m k d).live = s.live := rfl
@[simp] theorem State.answer_mregs (s : State) (m : Nat) (k : RespKind) (d : List Byte) : (s.answer m k d).mregs = s.mregs := rfl
@[simp] theorem State.answer_commits (s : State) (m : Nat) (k : RespKind) (d : List Byte) : (s.answer m k d).commits = s.commits := rfl
@[simp] theorem State.answer_forced (s : State) (m : Nat) (k : RespKind) (d : List Byte) : (s.answer m k d).forced = s.forced := rfl
@[simp] theorem State.answer_free (s : State) (m : Nat) (k : RespKind) (d : List Byte) : (s.answer m k d).free = s.free := rfl
@[simp] theorem State.answer_fltT (s : State) (m : Nat) (k : RespKind) (d : List Byte) : (s.answer m k d).fltT = s.fltT := rfl
@[simp] theorem State.answer_fltC (s : State) (m : Nat) (k : RespKind) (d : List Byte) : (s.answer m k d).fltC = s.fltC := rfl
@[simp] theorem State.answer_snapNow (s : State) (m : Nat) (k : RespKind) (d : List Byte) : (s.answer m k d).snapNow = s.snapNow := rfl
@[simp] theorem State.answer_snapArmed (s : State) (m : Nat) (k : RespKind) (d : List Byte) : (s.answer m k d).snapArmed = s.snapArmed := rfl
@[simp] theorem State.answer_snapPages (s : State) (m : Nat) (k : RespKind) (d : List Byte) : (s.answer m k d).snapPages = s.snapPages := rfl
@[simp] theorem State.answer_snapT (s : State) (m : Nat) (k : RespKind) (d : List Byte) : (s.answer m k d).snapT = s.snapT := rfl
@[simp] theorem State.answer_tod (s : State) (m : Nat) (k : RespKind) (d : List Byte) : (s.answer m k d).tod = s.tod := rfl
@[simp] theorem State.answer_rxl (s : State) (m : Nat) (k : RespKind) (d : List Byte) : (s.answer m k d).rxl = s.rxl := rfl
@[simp] theorem State.answer_txl (s : State) (m : Nat) (k : RespKind) (d : List Byte) : (s.answer m k d).txl = s.txl := rfl
@[simp] theorem State.answer_rot (s : State) (m : Nat) (k : RespKind) (d : List Byte) : (s.answer m k d).rot = s.rot := rfl
@[simp] theorem State.answer_pll (s : State) (m : Nat) (k : RespKind) (d : List Byte) : (s.answer m k d).pll = s.pll := rfl
@[simp] theorem State.answer_refIn (s : State) (m : Nat) (k : RespKind) (d : List Byte) : (s.answer m k d).refIn = s.refIn := rfl
@[simp] theorem State.answer_refSel (s : State) (m : Nat) (k : RespKind) (d : List Byte) : (s.answer m k d).refSel = s.refSel := rfl
@[simp] theorem State.answer_groups (s : State) (m : Nat) (k : RespKind) (d : List Byte) : (s.answer m k d).groups = s.groups := rfl
@[simp] theorem State.answer_plat (s : State) (m : Nat) (k : RespKind) (d : List Byte) : (s.answer m k d).plat = s.plat := rfl
@[simp] theorem State.answer_rxTab (s : State) (m : Nat) (k : RespKind) (d : List Byte) : (s.answer m k d).rxTab = s.rxTab := rfl
@[simp] theorem State.answer_rxStage (s : State) (m : Nat) (k : RespKind) (d : List Byte) : (s.answer m k d).rxStage = s.rxStage := rfl
@[simp] theorem State.answer_rxPend (s : State) (m : Nat) (k : RespKind) (d : List Byte) : (s.answer m k d).rxPend = s.rxPend := rfl
@[simp] theorem State.answer_txTab (s : State) (m : Nat) (k : RespKind) (d : List Byte) : (s.answer m k d).txTab = s.txTab := rfl
@[simp] theorem State.answer_txStage (s : State) (m : Nat) (k : RespKind) (d : List Byte) : (s.answer m k d).txStage = s.txStage := rfl
@[simp] theorem State.answer_txPend (s : State) (m : Nat) (k : RespKind) (d : List Byte) : (s.answer m k d).txPend = s.txPend := rfl
@[simp] theorem State.answer_rxEnt (s : State) (m : Nat) (k : RespKind) (d : List Byte) : (s.answer m k d).rxEnt = s.rxEnt := rfl
@[simp] theorem State.answer_txEnt (s : State) (m : Nat) (k : RespKind) (d : List Byte) : (s.answer m k d).txEnt = s.txEnt := rfl
@[simp] theorem State.answer_rxStored (s : State) (m : Nat) (k : RespKind) (d : List Byte) : (s.answer m k d).rxStored = s.rxStored := rfl
@[simp] theorem State.answer_txStored (s : State) (m : Nat) (k : RespKind) (d : List Byte) : (s.answer m k d).txStored = s.txStored := rfl
@[simp] theorem State.answer_tsq (s : State) (m : Nat) (k : RespKind) (d : List Byte) : (s.answer m k d).tsq = s.tsq := rfl
@[simp] theorem State.answer_sent (s : State) (m : Nat) (k : RespKind) (d : List Byte) : (s.answer m k d).sent = s.sent := rfl
@[simp] theorem State.answer_dram (s : State) (m : Nat) (k : RespKind) (d : List Byte) : (s.answer m k d).dram = s.dram := rfl
@[simp] theorem State.answer_twinOut (s : State) (m : Nat) (k : RespKind) (d : List Byte) : (s.answer m k d).twinOut = s.twinOut := rfl
@[simp] theorem State.answer_twinSeq (s : State) (m : Nat) (k : RespKind) (d : List Byte) : (s.answer m k d).twinSeq = s.twinSeq := rfl
@[simp] theorem State.answer_journalIn (s : State) (m : Nat) (k : RespKind) (d : List Byte) : (s.answer m k d).journalIn = s.journalIn := rfl
@[simp] theorem State.answer_repairs (s : State) (m : Nat) (k : RespKind) (d : List Byte) : (s.answer m k d).repairs = s.repairs := rfl
@[simp] theorem State.answer_retired (s : State) (m : Nat) (k : RespKind) (d : List Byte) : (s.answer m k d).retired = s.retired := rfl
@[simp] theorem State.answer_classM (s : State) (m : Nat) (k : RespKind) (d : List Byte) : (s.answer m k d).classM = s.classM := rfl
@[simp] theorem State.answer_checking (s : State) (m : Nat) (k : RespKind) (d : List Byte) : (s.answer m k d).checking = s.checking := rfl
@[simp] theorem State.answer_defr (s : State) (m : Nat) (k : RespKind) (d : List Byte) : (s.answer m k d).defr = s.defr := rfl
@[simp] theorem State.answer_fmtr (s : State) (m : Nat) (k : RespKind) (d : List Byte) : (s.answer m k d).fmtr = s.fmtr := rfl
@[simp] theorem State.answer_pitIn (s : State) (m : Nat) (k : RespKind) (d : List Byte) : (s.answer m k d).pitIn = s.pitIn := rfl
@[simp] theorem State.answer_pitOut (s : State) (m : Nat) (k : RespKind) (d : List Byte) : (s.answer m k d).pitOut = s.pitOut := rfl
@[simp] theorem State.answer_pitTakes (s : State) (m : Nat) (k : RespKind) (d : List Byte) : (s.answer m k d).pitTakes = s.pitTakes := rfl
@[simp] theorem State.answer_pitGrid (s : State) (m : Nat) (k : RespKind) (d : List Byte) : (s.answer m k d).pitGrid = s.pitGrid := rfl
@[simp] theorem State.answer_pitLast (s : State) (m : Nat) (k : RespKind) (d : List Byte) : (s.answer m k d).pitLast = s.pitLast := rfl
@[simp] theorem State.answer_pitTab (s : State) (m : Nat) (k : RespKind) (d : List Byte) : (s.answer m k d).pitTab = s.pitTab := rfl
@[simp] theorem State.answer_pitStage (s : State) (m : Nat) (k : RespKind) (d : List Byte) : (s.answer m k d).pitStage = s.pitStage := rfl
@[simp] theorem State.answer_pitPend (s : State) (m : Nat) (k : RespKind) (d : List Byte) : (s.answer m k d).pitPend = s.pitPend := rfl
@[simp] theorem State.answer_synLine (s : State) (m : Nat) (k : RespKind) (d : List Byte) : (s.answer m k d).synLine = s.synLine := rfl
@[simp] theorem State.answer_tdm (s : State) (m : Nat) (k : RespKind) (d : List Byte) : (s.answer m k d).tdm = s.tdm := rfl
@[simp] theorem State.answer_tdmCh (s : State) (m : Nat) (k : RespKind) (d : List Byte) : (s.answer m k d).tdmCh = s.tdmCh := rfl
@[simp] theorem State.answer_tdmMask (s : State) (m : Nat) (k : RespKind) (d : List Byte) : (s.answer m k d).tdmMask = s.tdmMask := rfl
@[simp] theorem State.answer_syn (s : State) (m : Nat) (k : RespKind) (d : List Byte) : (s.answer m k d).syn = s.syn := rfl
@[simp] theorem State.answer_tapSel (s : State) (m : Nat) (k : RespKind) (d : List Byte) : (s.answer m k d).tapSel = s.tapSel := rfl
@[simp] theorem State.answer_armed (s : State) (m : Nat) (k : RespKind) (d : List Byte) : (s.answer m k d).armed = s.armed := rfl
@[simp] theorem State.answer_salvoMem (s : State) (m : Nat) (k : RespKind) (d : List Byte) : (s.answer m k d).salvoMem = s.salvoMem := rfl
@[simp] theorem State.answer_sheet (s : State) (m : Nat) (k : RespKind) (d : List Byte) : (s.answer m k d).sheet = s.sheet := rfl
@[simp] theorem State.answer_salvos (s : State) (m : Nat) (k : RespKind) (d : List Byte) : (s.answer m k d).salvos = s.salvos := rfl
@[simp] theorem State.answer_salvoSeq (s : State) (m : Nat) (k : RespKind) (d : List Byte) : (s.answer m k d).salvoSeq = s.salvoSeq := rfl
@[simp] theorem State.answer_armSeq (s : State) (m : Nat) (k : RespKind) (d : List Byte) : (s.answer m k d).armSeq = s.armSeq := rfl
@[simp] theorem State.answer_results (s : State) (m : Nat) (k : RespKind) (d : List Byte) : (s.answer m k d).results = s.results := rfl
@[simp] theorem State.answer_gpi (s : State) (m : Nat) (k : RespKind) (d : List Byte) : (s.answer m k d).gpi = s.gpi := rfl
@[simp] theorem State.answer_pro (s : State) (m : Nat) (k : RespKind) (d : List Byte) : (s.answer m k d).pro = s.pro := rfl
@[simp] theorem State.answer_lay (s : State) (m : Nat) (k : RespKind) (d : List Byte) : (s.answer m k d).lay = s.lay := rfl
@[simp] theorem State.answer_coef (s : State) (m : Nat) (k : RespKind) (d : List Byte) : (s.answer m k d).coef = s.coef := rfl
@[simp] theorem State.answer_coefStage (s : State) (m : Nat) (k : RespKind) (d : List Byte) : (s.answer m k d).coefStage = s.coefStage := rfl
@[simp] theorem State.answer_coefPend (s : State) (m : Nat) (k : RespKind) (d : List Byte) : (s.answer m k d).coefPend = s.coefPend := rfl
@[simp] theorem State.answer_dch (s : State) (m : Nat) (k : RespKind) (d : List Byte) : (s.answer m k d).dch = s.dch := rfl
@[simp] theorem State.answer_dbank (s : State) (m : Nat) (k : RespKind) (d : List Byte) : (s.answer m k d).dbank = s.dbank := rfl
@[simp] theorem State.answer_dseq (s : State) (m : Nat) (k : RespKind) (d : List Byte) : (s.answer m k d).dseq = s.dseq := rfl
@[simp] theorem State.answer_arms (s : State) (m : Nat) (k : RespKind) (d : List Byte) : (s.answer m k d).arms = s.arms := rfl
@[simp] theorem State.answer_lostParity (s : State) (m : Nat) (k : RespKind) (d : List Byte) : (s.answer m k d).lostParity = s.lostParity := rfl
@[simp] theorem State.answer_txAhead (s : State) (m : Nat) (k : RespKind) (d : List Byte) : (s.answer m k d).txAhead = s.txAhead := rfl
@[simp] theorem State.answer_acks (s : State) (m : Nat) (k : RespKind) (d : List Byte) : (s.answer m k d).acks = s.acks := rfl
@[simp] theorem State.answer_again (s : State) (m : Nat) (k : RespKind) (d : List Byte) : (s.answer m k d).again = s.again := rfl
@[simp] theorem State.answer_derr (s : State) (m : Nat) (k : RespKind) (d : List Byte) : (s.answer m k d).derr = s.derr := rfl
@[simp] theorem State.answer_sflip (s : State) (m : Nat) (k : RespKind) (d : List Byte) : (s.answer m k d).sflip = s.sflip := rfl
@[simp] theorem State.answer_serr (s : State) (m : Nat) (k : RespKind) (d : List Byte) : (s.answer m k d).serr = s.serr := rfl
@[simp] theorem State.answer_spares (s : State) (m : Nat) (k : RespKind) (d : List Byte) : (s.answer m k d).spares = s.spares := rfl
@[simp] theorem State.answer_catHeld (s : State) (m : Nat) (k : RespKind) (d : List Byte) : (s.answer m k d).catHeld = s.catHeld := rfl
@[simp] theorem State.answer_crewSram (s : State) (m : Nat) (k : RespKind) (d : List Byte) : (s.answer m k d).crewSram = s.crewSram := rfl
@[simp] theorem State.answer_pcieOut (s : State) (m : Nat) (k : RespKind) (d : List Byte) : (s.answer m k d).pcieOut = s.pcieOut := rfl
@[simp] theorem State.answer_routes (s : State) (m : Nat) (k : RespKind) (d : List Byte) : (s.answer m k d).routes = s.routes := rfl
@[simp] theorem State.answer_lines (s : State) (m : Nat) (k : RespKind) (d : List Byte) : (s.answer m k d).lines = s.lines := rfl
@[simp] theorem State.answer_msixMask (s : State) (m : Nat) (k : RespKind) (d : List Byte) : (s.answer m k d).msixMask = s.msixMask := rfl
@[simp] theorem State.answer_msixPend (s : State) (m : Nat) (k : RespKind) (d : List Byte) : (s.answer m k d).msixPend = s.msixPend := rfl
@[simp] theorem State.answer_msi (s : State) (m : Nat) (k : RespKind) (d : List Byte) : (s.answer m k d).msi = s.msi := rfl
@[simp] theorem State.answer_sdiSlept (s : State) (m : Nat) (k : RespKind) (d : List Byte) : (s.answer m k d).sdiSlept = s.sdiSlept := rfl
@[simp] theorem State.answer_pathFailed (s : State) (m : Nat) (k : RespKind) (d : List Byte) : (s.answer m k d).pathFailed = s.pathFailed := rfl
@[simp] theorem State.answer_wireErr (s : State) (m : Nat) (k : RespKind) (d : List Byte) : (s.answer m k d).wireErr = s.wireErr := rfl
@[simp] theorem State.answer_wireLost (s : State) (m : Nat) (k : RespKind) (d : List Byte) : (s.answer m k d).wireLost = s.wireLost := rfl
@[simp] theorem State.answer_fuses (s : State) (m : Nat) (k : RespKind) (d : List Byte) : (s.answer m k d).fuses = s.fuses := rfl
@[simp] theorem State.answer_fuseNow (s : State) (m : Nat) (k : RespKind) (d : List Byte) : (s.answer m k d).fuseNow = s.fuseNow := rfl
@[simp] theorem State.answer_avsHigh (s : State) (m : Nat) (k : RespKind) (d : List Byte) : (s.answer m k d).avsHigh = s.avsHigh := rfl
@[simp] theorem State.answer_tmpCnt (s : State) (m : Nat) (k : RespKind) (d : List Byte) : (s.answer m k d).tmpCnt = s.tmpCnt := rfl
@[simp] theorem State.answer_tmpWarm (s : State) (m : Nat) (k : RespKind) (d : List Byte) : (s.answer m k d).tmpWarm = s.tmpWarm := rfl
@[simp] theorem State.answer_tmpHot (s : State) (m : Nat) (k : RespKind) (d : List Byte) : (s.answer m k d).tmpHot = s.tmpHot := rfl
@[simp] theorem State.answer_hourTop (s : State) (m : Nat) (k : RespKind) (d : List Byte) : (s.answer m k d).hourTop = s.hourTop := rfl
@[simp] theorem State.answer_hourSector (s : State) (m : Nat) (k : RespKind) (d : List Byte) : (s.answer m k d).hourSector = s.hourSector := rfl
@[simp] theorem State.answer_hourRecs (s : State) (m : Nat) (k : RespKind) (d : List Byte) : (s.answer m k d).hourRecs = s.hourRecs := rfl
@[simp] theorem State.answer_flash (s : State) (m : Nat) (k : RespKind) (d : List Byte) : (s.answer m k d).flash = s.flash := rfl
@[simp] theorem State.answer_slots (s : State) (m : Nat) (k : RespKind) (d : List Byte) : (s.answer m k d).slots = s.slots := rfl
@[simp] theorem State.answer_upd (s : State) (m : Nat) (k : RespKind) (d : List Byte) : (s.answer m k d).upd = s.upd := rfl
@[simp] theorem State.answer_lcyWiped (s : State) (m : Nat) (k : RespKind) (d : List Byte) : (s.answer m k d).lcyWiped = s.lcyWiped := rfl
@[simp] theorem State.answer_oemHash (s : State) (m : Nat) (k : RespKind) (d : List Byte) : (s.answer m k d).oemHash = s.oemHash := rfl
@[simp] theorem State.answer_pair (s : State) (m : Nat) (k : RespKind) (d : List Byte) : (s.answer m k d).pair = s.pair := rfl
@[simp] theorem State.answer_commitFrom (s : State) (m : Nat) (k : RespKind) (d : List Byte) : (s.answer m k d).commitFrom = s.commitFrom := rfl
@[simp] theorem State.answer_call (s : State) (m : Nat) (k : RespKind) (d : List Byte) : (s.answer m k d).call = s.call := rfl
@[simp] theorem State.answer_joined (s : State) (m : Nat) (k : RespKind) (d : List Byte) : (s.answer m k d).joined = s.joined := rfl
@[simp] theorem State.answer_acted (s : State) (m : Nat) (k : RespKind) (d : List Byte) : (s.answer m k d).acted = s.acted := rfl

@[simp] theorem State.fresh_pending (s : State) : (s.fresh).pending = s.pending := rfl
@[simp] theorem State.fresh_low (s : State) : (s.fresh).low = s.low := rfl
@[simp] theorem State.fresh_booted (s : State) : (s.fresh).booted = s.booted := rfl
@[simp] theorem State.fresh_upt (s : State) : (s.fresh).upt = s.upt := rfl
@[simp] theorem State.fresh_cueRun (s : State) : (s.fresh).cueRun = s.cueRun := rfl
@[simp] theorem State.fresh_cueByp (s : State) : (s.fresh).cueByp = s.cueByp := rfl
@[simp] theorem State.fresh_regs (s : State) : (s.fresh).regs = s.regs := rfl
@[simp] theorem State.fresh_live (s : State) : (s.fresh).live = s.live := rfl
@[simp] theorem State.fresh_mregs (s : State) : (s.fresh).mregs = s.mregs := rfl
@[simp] theorem State.fresh_commits (s : State) : (s.fresh).commits = s.commits := rfl
@[simp] theorem State.fresh_forced (s : State) : (s.fresh).forced = s.forced := rfl
@[simp] theorem State.fresh_resp (s : State) : (s.fresh).resp = s.resp := rfl
@[simp] theorem State.fresh_fltT (s : State) : (s.fresh).fltT = s.fltT := rfl
@[simp] theorem State.fresh_fltC (s : State) : (s.fresh).fltC = s.fltC := rfl
@[simp] theorem State.fresh_snapNow (s : State) : (s.fresh).snapNow = s.snapNow := rfl
@[simp] theorem State.fresh_snapArmed (s : State) : (s.fresh).snapArmed = s.snapArmed := rfl
@[simp] theorem State.fresh_snapPages (s : State) : (s.fresh).snapPages = s.snapPages := rfl
@[simp] theorem State.fresh_snapT (s : State) : (s.fresh).snapT = s.snapT := rfl
@[simp] theorem State.fresh_tod (s : State) : (s.fresh).tod = s.tod := rfl
@[simp] theorem State.fresh_rxl (s : State) : (s.fresh).rxl = s.rxl := rfl
@[simp] theorem State.fresh_txl (s : State) : (s.fresh).txl = s.txl := rfl
@[simp] theorem State.fresh_rot (s : State) : (s.fresh).rot = s.rot := rfl
@[simp] theorem State.fresh_pll (s : State) : (s.fresh).pll = s.pll := rfl
@[simp] theorem State.fresh_refIn (s : State) : (s.fresh).refIn = s.refIn := rfl
@[simp] theorem State.fresh_refSel (s : State) : (s.fresh).refSel = s.refSel := rfl
@[simp] theorem State.fresh_groups (s : State) : (s.fresh).groups = s.groups := rfl
@[simp] theorem State.fresh_plat (s : State) : (s.fresh).plat = s.plat := rfl
@[simp] theorem State.fresh_rxTab (s : State) : (s.fresh).rxTab = s.rxTab := rfl
@[simp] theorem State.fresh_rxStage (s : State) : (s.fresh).rxStage = s.rxStage := rfl
@[simp] theorem State.fresh_rxPend (s : State) : (s.fresh).rxPend = s.rxPend := rfl
@[simp] theorem State.fresh_txTab (s : State) : (s.fresh).txTab = s.txTab := rfl
@[simp] theorem State.fresh_txStage (s : State) : (s.fresh).txStage = s.txStage := rfl
@[simp] theorem State.fresh_txPend (s : State) : (s.fresh).txPend = s.txPend := rfl
@[simp] theorem State.fresh_rxEnt (s : State) : (s.fresh).rxEnt = s.rxEnt := rfl
@[simp] theorem State.fresh_txEnt (s : State) : (s.fresh).txEnt = s.txEnt := rfl
@[simp] theorem State.fresh_rxStored (s : State) : (s.fresh).rxStored = s.rxStored := rfl
@[simp] theorem State.fresh_txStored (s : State) : (s.fresh).txStored = s.txStored := rfl
@[simp] theorem State.fresh_tsq (s : State) : (s.fresh).tsq = s.tsq := rfl
@[simp] theorem State.fresh_sent (s : State) : (s.fresh).sent = s.sent := rfl
@[simp] theorem State.fresh_dram (s : State) : (s.fresh).dram = s.dram := rfl
@[simp] theorem State.fresh_twinOut (s : State) : (s.fresh).twinOut = s.twinOut := rfl
@[simp] theorem State.fresh_twinSeq (s : State) : (s.fresh).twinSeq = s.twinSeq := rfl
@[simp] theorem State.fresh_journalIn (s : State) : (s.fresh).journalIn = s.journalIn := rfl
@[simp] theorem State.fresh_repairs (s : State) : (s.fresh).repairs = s.repairs := rfl
@[simp] theorem State.fresh_retired (s : State) : (s.fresh).retired = s.retired := rfl
@[simp] theorem State.fresh_classM (s : State) : (s.fresh).classM = s.classM := rfl
@[simp] theorem State.fresh_checking (s : State) : (s.fresh).checking = s.checking := rfl
@[simp] theorem State.fresh_defr (s : State) : (s.fresh).defr = s.defr := rfl
@[simp] theorem State.fresh_fmtr (s : State) : (s.fresh).fmtr = s.fmtr := rfl
@[simp] theorem State.fresh_pitIn (s : State) : (s.fresh).pitIn = s.pitIn := rfl
@[simp] theorem State.fresh_pitOut (s : State) : (s.fresh).pitOut = s.pitOut := rfl
@[simp] theorem State.fresh_pitTakes (s : State) : (s.fresh).pitTakes = s.pitTakes := rfl
@[simp] theorem State.fresh_pitGrid (s : State) : (s.fresh).pitGrid = s.pitGrid := rfl
@[simp] theorem State.fresh_pitLast (s : State) : (s.fresh).pitLast = s.pitLast := rfl
@[simp] theorem State.fresh_pitTab (s : State) : (s.fresh).pitTab = s.pitTab := rfl
@[simp] theorem State.fresh_pitStage (s : State) : (s.fresh).pitStage = s.pitStage := rfl
@[simp] theorem State.fresh_pitPend (s : State) : (s.fresh).pitPend = s.pitPend := rfl
@[simp] theorem State.fresh_synLine (s : State) : (s.fresh).synLine = s.synLine := rfl
@[simp] theorem State.fresh_tdm (s : State) : (s.fresh).tdm = s.tdm := rfl
@[simp] theorem State.fresh_tdmCh (s : State) : (s.fresh).tdmCh = s.tdmCh := rfl
@[simp] theorem State.fresh_tdmMask (s : State) : (s.fresh).tdmMask = s.tdmMask := rfl
@[simp] theorem State.fresh_syn (s : State) : (s.fresh).syn = s.syn := rfl
@[simp] theorem State.fresh_tapSel (s : State) : (s.fresh).tapSel = s.tapSel := rfl
@[simp] theorem State.fresh_armed (s : State) : (s.fresh).armed = s.armed := rfl
@[simp] theorem State.fresh_salvoMem (s : State) : (s.fresh).salvoMem = s.salvoMem := rfl
@[simp] theorem State.fresh_sheet (s : State) : (s.fresh).sheet = s.sheet := rfl
@[simp] theorem State.fresh_salvos (s : State) : (s.fresh).salvos = s.salvos := rfl
@[simp] theorem State.fresh_salvoSeq (s : State) : (s.fresh).salvoSeq = s.salvoSeq := rfl
@[simp] theorem State.fresh_armSeq (s : State) : (s.fresh).armSeq = s.armSeq := rfl
@[simp] theorem State.fresh_results (s : State) : (s.fresh).results = s.results := rfl
@[simp] theorem State.fresh_gpi (s : State) : (s.fresh).gpi = s.gpi := rfl
@[simp] theorem State.fresh_pro (s : State) : (s.fresh).pro = s.pro := rfl
@[simp] theorem State.fresh_lay (s : State) : (s.fresh).lay = s.lay := rfl
@[simp] theorem State.fresh_coef (s : State) : (s.fresh).coef = s.coef := rfl
@[simp] theorem State.fresh_coefStage (s : State) : (s.fresh).coefStage = s.coefStage := rfl
@[simp] theorem State.fresh_coefPend (s : State) : (s.fresh).coefPend = s.coefPend := rfl
@[simp] theorem State.fresh_dch (s : State) : (s.fresh).dch = s.dch := rfl
@[simp] theorem State.fresh_dbank (s : State) : (s.fresh).dbank = s.dbank := rfl
@[simp] theorem State.fresh_dseq (s : State) : (s.fresh).dseq = s.dseq := rfl
@[simp] theorem State.fresh_arms (s : State) : (s.fresh).arms = s.arms := rfl
@[simp] theorem State.fresh_lostParity (s : State) : (s.fresh).lostParity = s.lostParity := rfl
@[simp] theorem State.fresh_txAhead (s : State) : (s.fresh).txAhead = s.txAhead := rfl
@[simp] theorem State.fresh_acks (s : State) : (s.fresh).acks = s.acks := rfl
@[simp] theorem State.fresh_again (s : State) : (s.fresh).again = s.again := rfl
@[simp] theorem State.fresh_derr (s : State) : (s.fresh).derr = s.derr := rfl
@[simp] theorem State.fresh_sflip (s : State) : (s.fresh).sflip = s.sflip := rfl
@[simp] theorem State.fresh_serr (s : State) : (s.fresh).serr = s.serr := rfl
@[simp] theorem State.fresh_spares (s : State) : (s.fresh).spares = s.spares := rfl
@[simp] theorem State.fresh_catHeld (s : State) : (s.fresh).catHeld = s.catHeld := rfl
@[simp] theorem State.fresh_crewSram (s : State) : (s.fresh).crewSram = s.crewSram := rfl
@[simp] theorem State.fresh_pcieOut (s : State) : (s.fresh).pcieOut = s.pcieOut := rfl
@[simp] theorem State.fresh_routes (s : State) : (s.fresh).routes = s.routes := rfl
@[simp] theorem State.fresh_lines (s : State) : (s.fresh).lines = s.lines := rfl
@[simp] theorem State.fresh_msixMask (s : State) : (s.fresh).msixMask = s.msixMask := rfl
@[simp] theorem State.fresh_msixPend (s : State) : (s.fresh).msixPend = s.msixPend := rfl
@[simp] theorem State.fresh_msi (s : State) : (s.fresh).msi = s.msi := rfl
@[simp] theorem State.fresh_sdiSlept (s : State) : (s.fresh).sdiSlept = s.sdiSlept := rfl
@[simp] theorem State.fresh_pathFailed (s : State) : (s.fresh).pathFailed = s.pathFailed := rfl
@[simp] theorem State.fresh_wireErr (s : State) : (s.fresh).wireErr = s.wireErr := rfl
@[simp] theorem State.fresh_wireLost (s : State) : (s.fresh).wireLost = s.wireLost := rfl
@[simp] theorem State.fresh_fuses (s : State) : (s.fresh).fuses = s.fuses := rfl
@[simp] theorem State.fresh_fuseNow (s : State) : (s.fresh).fuseNow = s.fuseNow := rfl
@[simp] theorem State.fresh_avsHigh (s : State) : (s.fresh).avsHigh = s.avsHigh := rfl
@[simp] theorem State.fresh_tmpCnt (s : State) : (s.fresh).tmpCnt = s.tmpCnt := rfl
@[simp] theorem State.fresh_tmpWarm (s : State) : (s.fresh).tmpWarm = s.tmpWarm := rfl
@[simp] theorem State.fresh_tmpHot (s : State) : (s.fresh).tmpHot = s.tmpHot := rfl
@[simp] theorem State.fresh_hourTop (s : State) : (s.fresh).hourTop = s.hourTop := rfl
@[simp] theorem State.fresh_hourSector (s : State) : (s.fresh).hourSector = s.hourSector := rfl
@[simp] theorem State.fresh_hourRecs (s : State) : (s.fresh).hourRecs = s.hourRecs := rfl
@[simp] theorem State.fresh_flash (s : State) : (s.fresh).flash = s.flash := rfl
@[simp] theorem State.fresh_slots (s : State) : (s.fresh).slots = s.slots := rfl
@[simp] theorem State.fresh_upd (s : State) : (s.fresh).upd = s.upd := rfl
@[simp] theorem State.fresh_lcyWiped (s : State) : (s.fresh).lcyWiped = s.lcyWiped := rfl
@[simp] theorem State.fresh_oemHash (s : State) : (s.fresh).oemHash = s.oemHash := rfl
@[simp] theorem State.fresh_pair (s : State) : (s.fresh).pair = s.pair := rfl
@[simp] theorem State.fresh_commitFrom (s : State) : (s.fresh).commitFrom = s.commitFrom := rfl
@[simp] theorem State.fresh_call (s : State) : (s.fresh).call = s.call := rfl
@[simp] theorem State.fresh_joined (s : State) : (s.fresh).joined = s.joined := rfl
@[simp] theorem State.fresh_acted (s : State) : (s.fresh).acted = s.acted := rfl

/-- A write of a register word: that word reads as written, every other word as before. -/
@[simp] theorem State.word_setWord (s : State) (a b : Nat) (v : W32) : (s.setWord a v).word b = if b = a then v else s.word b :=
  Store.get_put ..

@[simp] theorem State.lword_setLword (s : State) (a b : Nat) (v : W32) :
    (s.setLword a v).lword b = if b = a then v else s.lword b := Store.get_put ..

@[simp] theorem State.word_setLword (s : State) (a b : Nat) (v : W32) : (s.setLword a v).word b = s.word b := rfl
@[simp] theorem State.lword_setWord (s : State) (a b : Nat) (v : W32) : (s.setWord a v).lword b = s.lword b := rfl
@[simp] theorem State.word_answer (s : State) (m : Nat) (k : RespKind) (d : List Byte) (b : Nat) :
    (s.answer m k d).word b = s.word b := rfl
@[simp] theorem State.word_fresh (s : State) (b : Nat) : s.fresh.word b = s.word b := rfl
@[simp] theorem State.word_putMreg (s : State) (k b : Nat) (v : W32) : (s.putMreg k v).word b = s.word b := rfl
@[simp] theorem State.word_setMreg (s : State) (m a b : Nat) (v : W32) : (s.setMreg m a v).word b = s.word b := State.word_putMreg ..

/-- A write of a field touches the one word that holds it. -/
theorem State.word_setFld (s : State) (p : Nat) (f : Fld) (v i b : Nat) : (s.setFld p f v i).word b =
    if b = p + f.at i then setBits (s.word (p + f.at i)) f.lo f.w v else s.word b := Store.get_put ..

theorem State.word_irq (s : State) (p n b : Nat) : (s.irq p n).word b =
    if b = p + 0x10 then s.word (p + 0x10) ||| (1 <<< n) else s.word b := Store.get_put ..

/-- The bits of a register word after a field of it was replaced. -/
theorem getLsbD_setBits (x : W32) (lo w v b : Nat) : (setBits x lo w v).getLsbD b =
    if lo ≤ b ∧ b < lo + w ∧ b < 32 then v.testBit (b - lo) else x.getLsbD b := by
  simp only [setBits, maskOf, BitVec.getLsbD_or, BitVec.getLsbD_and, BitVec.getLsbD_not, BitVec.getLsbD_shiftLeft,
    BitVec.getLsbD_ushiftRight, BitVec.getLsbD_allOnes, BitVec.getLsbD_ofNat]
  by_cases hb : b < 32
  · by_cases h1 : lo ≤ b
    · by_cases h2 : b < lo + w
      · have : 32 - w + (b - lo) < 32 := by omega
        have h4 : b - lo < 32 := by omega
        simp [hb, h1, h2, this, h4, Nat.not_lt.2 h1]
      · have : ¬(32 - w + (b - lo) < 32) := by omega
        simp [hb, h1, h2, this, Nat.not_lt.2 h1]
    · simp [hb, h1, Nat.lt_of_not_le h1]
  · simp [hb, BitVec.getLsbD_of_ge x b (Nat.le_of_not_lt hb)]

end Sys2Proof.Machine
end

