-- ==== Sys2Proof/Tests/Slice0.lean ====
section
/-!
SUPPORT. Tests of the model: ill-formed commands are refused by their checks; for each statement a state and operands that meet its
hypotheses; small facts worked out by hand from the rules.
-/
namespace Sys2Proof.Tests

open Sys2Proof.Machine

-- One test at a time: each waits for the kernel, and a thread of its own for every waiting test takes too much memory.
set_option Elab.async false

/-! ### Ill-formed commands, one for each check -/

theorem test_wf_register_write : wellFormed (.registerWrite ⟨8, false⟩ 0x3FFFFFE [0, 0, 0, 0] none) = false := by decide
theorem test_wf_counter_read : wellFormed (.rcCounterRead ⟨8, false⟩ (pgCq + 0x100) .none) = false := by decide
theorem test_wf_irq_force : wellFormed (.irqForceWrite ⟨8, false⟩ 0x1000 1 none) = false := by decide
theorem test_wf_ferr_release : wellFormed (.ferrRelease ⟨8, false⟩ 0x1000 none) = false := by decide
theorem test_wf_soft_reset : wellFormed (.softReset ⟨8, false⟩ 0x1000) = false := by decide
theorem test_wf_soft_reset_done : wellFormed (.softResetDone 0x1000) = false := by decide
theorem test_wf_page_snapshot : wellFormed (.pageSnapshot ⟨8, false⟩ 0x1000 false) = false := by decide
theorem test_wf_page_commit : wellFormed (.pageCommit ⟨8, false⟩ 0x1000) = false := by decide
theorem test_wf_commit_apply : wellFormed (.commitApply 0x1000 0) = false := by decide
theorem test_wf_crc_pass : wellFormed (.cfgCrcPass 0x1000 []) = false := by decide
theorem test_wf_parity_mode : wellFormed (.parityModeSet ⟨8, false⟩ 0x1000 true) = false := by decide
theorem test_wf_parity_pass : wellFormed (.parityCheckPass 0x1000 []) = false := by decide
theorem test_wf_dram_request : wellFormed (.dramRequest 1 0xFF8 (.read 16 false) [] 0) = false := by decide
theorem test_wf_dram_requester : wellFormed (.dramRequest 0x30 0 (.read 16 false) [] 0) = false := by decide
theorem test_wf_missing_path : wellFormed (.missingPathAccess 32 0 false) = false := by decide
theorem test_wf_burst_refused : wellFormed (.burstRefused 1 0x1000000000000 1 0 true) = false := by decide
theorem test_wf_pcie_request : wellFormed (.pcieRequest false 0x3FFFFFE (.read 4 false) [] 0) = false := by decide
theorem test_wf_pcie_empty : wellFormed (.pcieRequest true 0 (.read 0 false) [] 0) = false := by decide
theorem test_wf_pcie_link_up : wellFormed (.pcieLinkUp 5 4) = false := by decide
theorem test_wf_pcie_width : wellFormed (.pcieLinkUp 4 3) = false := by decide
theorem test_wf_line_rise : wellFormed (.interruptLineRise 16384 false) = false := by decide
theorem test_wf_rotation_step : wellFormed (.rotationStepInstant 2 1) = false := by decide
theorem test_wf_rotation_handover : wellFormed (.rotationHandover 6 15 false) = false := by decide
theorem test_wf_rotation_test_end : wellFormed (.rotationTestEnd 3 1 true none) = false := by decide
theorem test_wf_rotation_handback : wellFormed (.rotationHandback 5 2 false true) = false := by decide
theorem test_wf_temperatures : wellFormed (.temperatureRead [200]) = false := by decide
theorem test_wf_reset_rise : wellFormed (.resetRise { tPll := 661501 }) = false := by decide

/-- The step of an ill-formed command stops by name. -/
theorem test_ill_formed_stops : step { State.reset with pending := [.temperatureRead [200]] } = .fault .illFormed := by rfl
/-! ### StepKeepsInvariant -/

theorem test_wit_invariant : step { State.reset with pending := [.todTick] } =
    exec .todTick State.reset := rfl

/-! ### StepRunsFrontCommand -/

theorem test_wit_idle : State.reset.pending = [] := rfl

/-! ### CommandsLeaveQueue -/

theorem test_wit_leaves_queue : ∃ t, exec .fatalClear State.reset = .next t := ⟨_, rfl⟩

/-! ### HeldDeviceTakesNoCommand -/

theorem test_wit_held : { State.reset with low := true }.low = true ∧ wellFormed (.txPhaseStep 511) = true := by decide

/-! ### RegisterAccessCompletes -/

theorem test_wit_register_access :
    (Reaches State.reset ⟨8, true⟩ ∧ pageOf (pgSel + 0x100) = some (.refSel, 0) ∧ definedAt .refSel 0x100 = true) ∧
    (Reaches State.reset ⟨8, true⟩ ∧ pageOf (pgCq + 0x800) = some (.ttCue, 0) ∧ isCounter .ttCue 0x800 = true ∧
      State.reset.bit pgCq PAGE_STAT_reset_busy = false) := by decide

theorem test_wit_stat_read : let s := State.reset.setLword (pgEthC 1 + ETH_PORT_mode.off) 0x111
    Reaches s ⟨8, true⟩ ∧ pageOf (pgEth 1 3 + 0x800) = some (.ethStat, 4) ∧ pgEth 1 3 % 0x1000 = 0 ∧
    isCounter .ethStat 0x800 = true ∧ s.lpExists 4 = true ∧
        s.bit (pgEth 1 3) PAGE_STAT_reset_busy = false := by decide +kernel

/-! ### HeaderRequestsComplete -/

theorem test_wit_header_force : Reaches State.reset ⟨8, true⟩ ∧ pageArg pgCue = some (pgCue, .cue, 0) ∧
    Admitted State.reset ⟨8, true⟩ pgCue .cue 0 0x18 ((1 : W32) <<< 30) := by decide

theorem test_wit_header_release : Admitted State.reset ⟨8, true⟩ pgCue .cue 0 0x1C 0x80000000 := by decide

theorem test_wit_header_reset : PageKind.refSel.parity = false ∧ (State.reset.word (pgSel + 8)).getLsbD 3 = false ∧
    (State.reset.word (pgSel + 8)).getLsbD 1 = false ∧
    Admitted State.reset ⟨8, true⟩ pgSel .refSel 0 8 (State.reset.word (pgSel + 8) ||| 2) ∧
    Admitted State.reset ⟨8, true⟩ pgSel .refSel 0 8 (State.reset.word (pgSel + 8) ||| 8) := by decide

theorem test_wit_header_done : (State.reset.setBit pgSel PAGE_STAT_reset_busy true).bit pgSel PAGE_STAT_reset_busy = true := by
  decide

theorem test_wit_header_parity : Admitted State.reset ⟨8, true⟩ pgCue .cue 0 8 (setBits (State.reset.word (pgCue + 8)) 2 1 1) := by
  decide

/-! ### DeviceSnapshotCompletes -/

theorem test_wit_snap_arm : Reaches State.reset ⟨8, true⟩ ∧ Admitted State.reset ⟨8, true⟩ pgDev .dev 0 0x200 1 ∧
    Admitted State.reset ⟨8, true⟩ pgDev .dev 0 0x200 2 ∧
    (State.reset.stored ⟨8, true⟩ pgDev .dev 0 0x200 1).fld64 pgDev DEV_SNAPALL_TGT_lo DEV_SNAPALL_TGT_hi ≤
      (State.reset.stored ⟨8, true⟩ pgDev .dev 0 0x200 1).now := by decide

theorem test_wit_snap_arm_later : let s := State.reset.setWord (pgDev + 0x204) 1
    Admitted s ⟨8, true⟩ pgDev .dev 0 0x200 1 ∧ (s.stored ⟨8, true⟩ pgDev .dev 0 0x200 1).now <
      (s.stored ⟨8, true⟩ pgDev .dev 0 0x200 1).fld64 pgDev DEV_SNAPALL_TGT_lo DEV_SNAPALL_TGT_hi := by decide

theorem test_wit_snap_target : { State.reset with snapArmed := true, snapT := 0 }.snapDue = some 0 := by decide

/-! ### CommitsComplete -/

theorem test_wit_commit_joined : let s := State.reset.setBit pgRot PAGE_CTL_join true
    Admitted s ⟨8, true⟩ pgRot .rot 0 0x3C 1 ∧ (s.stored ⟨8, true⟩ pgRot .rot 0 0x3C 1).bit pgRot PAGE_CTL_join = true := by
  decide

theorem test_wit_commit_page : let s := State.reset.setBit (pgRxl 3) PAGE_CTL_parity true
    let u := (s.stored ⟨8, true⟩ (pgRxl 3) .rxl 3 0x3C 1).commitAborts .rxl 3
    Admitted s ⟨8, true⟩ (pgRxl 3) .rxl 3 0x3C 1 ∧ u.bit (pgRxl 3) PAGE_CTL_join = false ∧
    judge u (u.wouldBe [(pgRxl 3, .rxl, 3)]) [pgRxl 3] (pgRxl 3) .rxl 3 = 0 := by decide +kernel

theorem test_wit_commit_joins : let s := State.reset.setBit (pgRxl 3) PAGE_CTL_join true
    Reaches s ⟨8, true⟩ ∧ Admitted s ⟨8, true⟩ pgDev .dev 0 0x210 1 ∧
    (s.stored ⟨8, true⟩ pgDev .dev 0 0x210 1).joinedPages = [(pgRxl 3, .rxl, 3)] ∧ PageKind.rxl.mirrored = false := by
  decide +kernel

theorem test_wit_commit_device : (State.reset.stored ⟨8, true⟩ pgDev .dev 0 0x210 1).joinedPages = [] ∧
    Admitted State.reset ⟨8, true⟩ pgDev .dev 0 0x210 1 := by decide

/-! ### CheckPassesComplete -/

theorem cfgCrc_ref (s : State) (p : Nat) (k : PageKind) (v : W32) :
    (s.setWord (p + 0x34) v).cfgCrc p k false = s.cfgCrc p k false := by
  have h : ∀ o ∈ cfgOffs, (s.setWord (p + 0x34) v).cfgWord p k false o = s.cfgWord p k false o := by
    intro o ho
    have : 0x100 ≤ o := by
      simp only [cfgOffs, List.mem_map] at ho
      obtain ⟨i, -, rfl⟩ := ho
      omega
    have e : (s.setWord (p + 0x34) v).word (p + o) = s.word (p + o) := (Store.get_put ..).trans (if_neg (by omega))
    have e' : (s.setWord (p + 0x34) v).lword (p + o) = s.lword (p + o) := rfl
    simp only [State.cfgWord, e, e']
  simp only [State.cfgCrc]
  rw [List.flatMap_congr fun o ho => by rw [h o ho]]

/-- A page armed with its own CRC as reference, and one with another reference. -/
def armedRot (v : W32) : State := (State.reset.setBit pgRot PAGE_STAT_armed true).setWord (pgRot + 0x34) v

theorem test_wit_crc_pass :
    let c := (State.reset.setBit pgRot PAGE_STAT_armed true).cfgCrc pgRot .rot false
    (armedRot c).cfgCrc pgRot .rot false = (armedRot c).word (pgRot + 0x34) ∧
    (armedRot (c ^^^ 1)).cfgCrc pgRot .rot false ≠ (armedRot (c ^^^ 1)).word (pgRot + 0x34) := by
  intro c
  have e : ∀ v, (armedRot v).word (pgRot + 0x34) = v := fun v => (Store.get_put ..).trans (if_pos rfl)
  refine ⟨(cfgCrc_ref ..).trans (e c).symm, fun h => ?_⟩
  have h2 : c = c ^^^ 1 := (cfgCrc_ref ..).symm.trans (h.trans (e _))
  have h3 : c.getLsbD 0 = (c ^^^ 1).getLsbD 0 := congrArg (·.getLsbD 0) h2
  simp at h3

theorem test_wit_crc_armed : (armedRot 0).bit pgRot PAGE_STAT_armed = true ∧
    (armedRot 0).parityOn pgRot .rot = false := by decide

/-! ### ParityPassFindsUpset -/

theorem test_wit_parity_pass : let s := State.reset.setBit (pgRxl 3) PAGE_CTL_parity true
    let t := s.mapParity (pgRxl 3) .rxl oddWord
    pageArg (pgRxl 3) = some (pgRxl 3, .rxl, 3) ∧ t.parityOn (pgRxl 3) .rxl = true ∧ 0x100 ∈ parityOffs .rxl ∧
    t.evenRegs (pgRxl 3) .rxl = [] ∧ t.lostParity = [] := by decide +kernel

/-! ### CueCommandsComplete -/

theorem test_wit_cue_step : Admitted State.reset ⟨8, true⟩ pgCue .cue 0 0x130 2 ∧
    Admitted State.reset ⟨8, true⟩ pgCue .cue 0 0x134 7 ∧ State.reset.cueRun = false ∧ State.reset.dch = [] ∧
        State.reset.again = [] := by decide

/-! ### TickAdvancesClocks -/

theorem test_wit_tick : let s := { State.reset with cueRun := true }
    s.low = false ∧ s.dch = [] ∧ s.again = [] ∧ s.tod.stepReq = false ∧ s.tod.servoStep = none ∧ s.cueByp = false ∧
    s.tod.total + s.inc < 2 ^ 48 * cueSec * 2 ^ 40 := by decide +kernel

theorem test_wit_tick_bypass : let s := { State.reset with cueRun := true, cueByp := true }
    s.tod.total + (49 * s.inc + s.tod.quarter) / 4 < 2 ^ 48 * cueSec * 2 ^ 40 := by decide +kernel

/-! ### StepsOfTimeOfDay -/

theorem test_wit_step : let s := ({ State.reset with cueRun := true, tod := { State.reset.tod with stepReq := true } } : State)
    let n : Int := s.tod.total + toSigned 64 (s.fld64 pgCue CUE_STEP_lo CUE_STEP_hi) * 2 ^ 40 + s.fld pgCue CUE_STEP_FRAC_frac * 2 ^ 10
    s.dch = [] ∧ s.again = [] ∧ s.held = false ∧ (s.setBit pgCue CUE_TOD_CTL_valid true).held = true ∧ 0 ≤ n ∧
        n < 2 ^ 48 * cueSec * 2 ^ 40 := by
  decide +kernel

theorem test_wit_step_refused :
    let s := ({ State.reset with cueRun := true, tod := { State.reset.tod with stepReq := true } } : State).setWord (pgCue + 0x144) 0x80000000
    (s.tod.total + toSigned 64 (s.fld64 pgCue CUE_STEP_lo CUE_STEP_hi) * 2 ^ 40 + s.fld pgCue CUE_STEP_FRAC_frac * 2 ^ 10 : Int) < 0 := by
  decide +kernel

/-! ### ReceiveLaneEventsComplete -/

theorem test_wit_rx_wake : ((State.reset.setRx 5 { waking := true }).rx 5).waking = true := by decide

theorem test_wit_rx_rise : State.reset.bit (pgRxl 5) RXL_STAT_sd = false ∧
    let u := ((State.reset.setBit (pgRxl 5) RXL_CTL_sleep true).setBit (pgRxl 5) RXL_CTL_wake_det true).setBit (pgRxl 5) RXL_STAT_sd true
    u.bit (pgRxl 5) RXL_CTL_sleep = true ∧ u.bit (pgRxl 5) RXL_CTL_wake_det = true := by decide

theorem test_wit_rx_fall : (State.reset.setBit (pgRxl 5) RXL_STAT_sd true).bit (pgRxl 5) RXL_STAT_sd = true ∧
    (State.reset.setBit (pgRxl 5) RXL_STAT_lock true).bit (pgRxl 5) RXL_STAT_lock = true ∧
    State.reset.bit (pgRxl 5) RXL_STAT_lock = false := by decide

theorem test_wit_rx_hunt :
    let s := ((({ State.reset with upt := 60000 } : State).setBit (pgRxl 511) RXL_STAT_awake true).setBit (pgRxl 511) RXL_STAT_sd
      true).setRx 511 { hunt := 8 }
    s.bit (pgRxl 511) RXL_STAT_awake = true ∧ (s.rx 511).fixed = false ∧ s.bit (pgRxl 511) RXL_STAT_lock = false ∧
    s.bit (pgRxl 511) RXL_STAT_sd = true ∧ (s.rx 511).dwellFrom + 52920 < s.now + 16 ∧ (s.rx 511).hunt = 8 ∧
        s.rxCandidate 511 ≤ 8 := by
  decide

theorem test_wit_rx_change : let s := (State.reset.setRx 5 { change := true }).setBit (pgRxl 5) RXL_CTL_fixed true
    (s.rx 5).change = true ∧ (s.rx 5).fixed = false ∧ s.bit (pgRxl 5) RXL_CTL_fixed = true ∧
    s.bit (pgRxl 5) RXL_STAT_lock = false := by decide

/-- Bits of the pattern x^7 + x^6 + 1, in its inverted form, after seven bits of seed. -/
def prbs7 : List Bool := [false, true, true, true, true, true, true] ++ prbsRun 1 true 64 [true, false, false, false, false, false, false]

theorem test_wit_rx_prbs : prbsGood 1 true prbs7 = true ∧ (let l := List.replicate 64 true
    64 ≤ l.length ∧ (l.drop (l.length - 64)).all id = true) := by decide

theorem test_wit_rx_checker : ∃ s : State, s.bit (pgRxl 5) RXL_STAT_lock = true ∧ s.fld (pgRxl 5) RXL_PAT_mode = 6 ∧
    s.bit (pgRxl 5) RXL_STAT_chk_sync = true :=
  ⟨((State.reset.setBit (pgRxl 5) RXL_STAT_lock true).setFld (pgRxl 5) RXL_PAT_mode 6).setBit (pgRxl 5) RXL_STAT_chk_sync true,
    by decide, by decide, by decide⟩

/-! ### LaneRegisterWritesComplete -/

theorem test_wit_lane_writes :
    Admitted (State.reset.rxSettle 5) ⟨8, true⟩ (pgRxl 5) .rxl 5 0x100 1 ∧
    Admitted (State.reset.rxSettle 5) ⟨8, true⟩ (pgRxl 5) .rxl 5 0x10C 1 ∧
    Admitted (State.reset.rxSettle 5) ⟨8, true⟩ (pgRxl 5) .rxl 5 0x110 1 ∧
    Admitted (State.reset.txSettle 5) ⟨8, true⟩ (pgTxl 5) .txl 5 0x100 1 ∧
    Admitted (State.reset.txSettle 5) ⟨8, true⟩ (pgTxl 5) .txl 5 0x10C 1 ∧
    Admitted (State.reset.txSettle 5) ⟨8, true⟩ (pgTxl 5) .txl 5 0x110 1 ∧
    Admitted (State.reset.txSettle 5) ⟨8, true⟩ (pgTxl 5) .txl 5 0x114 1 := by decide +kernel

theorem test_wit_lane_requests :
    (let w := State.reset.compose (pgRxl 5) .rxl 0x110 (setBits (State.reset.word (pgRxl 5 + 0x110)) 0 1 1)
     Admitted (State.reset.rxSettle 5) ⟨8, true⟩ (pgRxl 5) .rxl 5 0x110 w) ∧
    (let w := State.reset.compose (pgRxl 5) .rxl 0x100 (setBits (State.reset.word (pgRxl 5 + 0x100)) 8 1 1)
     Admitted (State.reset.rxSettle 5) ⟨8, true⟩ (pgRxl 5) .rxl 5 0x100 w) ∧
    (let w := State.reset.compose (pgTxl 5) .txl 0x110 (setBits (State.reset.word (pgTxl 5 + 0x110)) 0 1 1)
     Admitted (State.reset.txSettle 5) ⟨8, true⟩ (pgTxl 5) .txl 5 0x110 w) ∧
    (let w := State.reset.compose (pgTxl 5) .txl 0x100 (setBits (State.reset.word (pgTxl 5 + 0x100)) 8 1 1)
     Admitted (State.reset.txSettle 5) ⟨8, true⟩ (pgTxl 5) .txl 5 0x100 w) := by decide +kernel

/-! ### TransmitLaneEventsComplete -/

theorem test_wit_tx_events : ((State.reset.setTx 5 { waking := true }).tx 5).waking = true ∧
    (let s := (State.reset.setFld (pgTxl 5) TXL_CTL_rate 4).setBit (pgTxl 5) TXL_CTL_follow false
     s.txTarget 5 = some 4 ∧ 4 ≠ s.fld (pgTxl 5) TXL_STAT_rate) ∧
    (let s := (((State.reset.txSettle 5).setBit (pgTxl 5) TXL_STAT_awake true).setFld (pgTxl 5) TXL_STAT_rate 4)
     s.bit (pgTxl 5) TXL_STAT_awake = true) := by decide

theorem test_wit_handovers : (let s := (State.reset.setBit (pgRxl 5) RXL_STAT_ho_busy true).setBit (pgRxl 5) RXL_STAT_sd true
     s.bit (pgRxl 5) RXL_STAT_ho_busy = true ∧ s.bit (pgRxl 5) RXL_STAT_sd = true) ∧
    (let s := (State.reset.setBit (pgTxl 5) TXL_STAT_ho_busy true).setTx 5 { hoFrames := 7 }
     s.bit (pgTxl 5) TXL_STAT_ho_busy = true ∧ (s.ro 1 0).st ≠ 3 ∧ s.txInstant 5 = true ∧ (s.ro 0 0).st ≠ 3 ∧
         (s.tx 5).phase = toSigned 8 (s.fld (pgTxl 5) TXL_PHASE_pos) ∧ 8 ≤ (s.tx 5).hoFrames + 1) ∧
    (State.reset.tx 5).hoFrames + 1 < 8 := by decide

/-! ### SdiReceptionCompletes -/

/-- A deframer that has received two frames of one structure, before and after its format is established. -/
def seenDf (run : Nat) (est : Bool) : State :=
  let f : Fmt := { rate := 0, lines := 1125, px := 1920, intl := true, samp := 0 }
  (State.reset.setBit (pgRxl 5) RXL_STAT_lock true).setDf 5
    { seen := some { words := 2750, sav := 830, lines := 1125, fmt := f }, run := run, fmt := if est then some f else none }

theorem test_wit_sdi_format : let s := seenDf 2 false
    s.defBase 5 = 5 ∧ (s.df 5).fmt = none ∧ s.rxDelivers 5 = true ∧ s.defWidth 5 = 1 ∧ s.groupLanes 5 = [5] ∧
    s.bit (pgDef 5) RXF_STAT_link_fault = false ∧ (s.df 5).run = 2 ∧ ((seenDf 1 false).df 5).run < 2 ∧
    ((seenDf 1 false).df 5).last ≠ ((seenDf 1 false).df 5).seen := by decide

theorem test_wit_sdi_report : ((seenDf 2 false).df 5).seen.map Measured.fmt =
      some { rate := 0, lines := 1125, px := 1920, intl := true, samp := 0 } ∧ ((seenDf 2 false).df 5).run ≠ 1 := by decide

theorem test_wit_sdi_group : let s := (seenDf 2 false).setLword (pgDef 4 + RXF_LINK_mode.off) 1
    let t := (s.setBit (pgRxl 4) RXL_STAT_lock true).setDf 4 (s.df 5)
    t.defWidth 4 = 2 ∧ t.defBase 4 = 4 ∧ (t.df 4).fmt = none ∧ t.rxDelivers 4 = true ∧ t.groupFails 4 = false ∧
    (t.setDf 5 {}).groupFails 4 = true := by decide +kernel

theorem test_wit_sdi_lost : let s := (seenDf 2 true).setDf 5 { (seenDf 2 true).df 5 with other := true }
    (s.df (s.defBase 5)).fmt.isSome = true ∧ s.linkLost (s.defBase 5) = true ∧
        (seenDf 2 true).linkLost 5 = false := by decide +kernel

theorem test_wit_sdi_line : let s := (seenDf 2 true).setDf 5 { (seenDf 2 true).df 5 with line := 7 }
    let u := s.lineMeasured 5 { eav := 2750, sav := 830, num := 9, crcBad := true, edh := none, ended := none } s.now
    s.rxDelivers 5 = true ∧ (u.df (s.defBase 5)).fmt.isSome = true ∧ u.defSd 5 = false ∧
        (u.df 5).line = 8 := by decide +kernel

theorem test_wit_sdi_edh : let f : Fmt := { rate := 3, lines := 525, px := 720, intl := true, samp := 0 }
    let s := (seenDf 2 true).setDf 5 { fmt := some f }
    let u := s.lineMeasured 5 { eav := 858, sav := 138, num := 0, crcBad := false, edh := some ⟨true, false, 0, 0⟩, ended := none } s.now
    (u.df (s.defBase 5)).fmt.isSome = true ∧ u.defSd 5 = true := by decide +kernel

/-! ### AncillaryPacketsComplete -/

theorem test_wit_anc : let s := seenDf 2 true
    (s.df (s.defBase 5)).fmt.isSome = true ∧ s.defSd (s.defBase 5) = false ∧ s.dualStream (s.defBase 5) = false ∧
    (State.reset.df (State.reset.defBase 5)).fmt = none := by decide +kernel

theorem test_wit_timecode_read : Reaches State.reset ⟨8, true⟩ := by decide

/-! ### FormatterFrameStartCompletes -/

/-- A tap that passes rail 7 at the start of a frame of it. -/
def shown5 : State :=
  let f : Fmt := { rate := 0, lines := 1125, px := 1920, intl := true, samp := 0 }
  { State.reset with tapSel := [(5, 7)], plat := [(7, { fmt := some f, start := 0, next := some 441000000 })] }

theorem test_wit_formatter : State.reset.fmtDue 5 State.reset.now = true ∧
    (let u := State.reset.applySlot (pgFmt 5) .fmt 0
     u.fmtSource 5 = none ∧ u.muteFmt 5 = none) := by decide +kernel

theorem test_wit_formatter_source : shown5.fmtDue 5 shown5.now = true ∧
    ((shown5.applySlot (pgFmt 5) .fmt 0).fmtSource 5).isSome = true ∧
        shown5.fmtDue 5 (shown5.now + 1) = false := by decide +kernel

/-- A mute output is sent where the payload ID of TXF_MUTE names a format. -/
theorem test_wit_formatter_mute (f : Fmt) (h : Config.pidFormat 0x85 = some f) :
    let s := State.reset.setLword (pgFmt 5 + 0x108) 0x85
    s.fmtDue 5 s.now = true ∧ (s.applySlot (pgFmt 5) .fmt 0).fmtSource 5 = none ∧
    (s.applySlot (pgFmt 5) .fmt 0).muteFmt 5 = some f :=
  ⟨by decide +kernel, by decide +kernel, by rw [← h]; rfl⟩

/-! ### EthernetPortEventsComplete -/

theorem test_wit_eth_up : let s := ((State.reset.setLword (pgEthC 1 + ETH_PORT_mode.off) 0x21).setFld (pgEthC 1) ETH_LINK_up 0)
    s.low = false ∧ s.lpExists 5 = true ∧ s.lpUp 5 = false ∧ (s.setFld (pgEthC 1) ETH_LINK_up 2).lpExists 5 = true ∧
    (s.setFld (pgEthC 1) ETH_LINK_up 2).lpUp 5 = true ∧ (headOf (List.replicate 60 0)).verdict = none := by decide +kernel

/-! ### TwoWireCommandsComplete -/

theorem test_wit_twi : Reaches State.reset ⟨8, true⟩ ∧ Admitted State.reset ⟨8, true⟩ (pgEthC 5) .ethCtl 5 0x154 0x80000010 ∧
    (State.reset.setFld (pgEthC 5) ETH_TWI_STAT_st 1).fld (pgEthC 5) ETH_TWI_STAT_st = 1 := by decide +kernel

theorem test_wit_twi_go :
    let w : W32 := setBits (setBits 0x80000000 ETH_TWI_CMD_len.lo ETH_TWI_CMD_len.w 4) ETH_TWI_CMD_read.lo 1 1
    let s := (State.reset.setWord (pgEthC 5 + 0x154) w).setFld (pgEthC 5) ETH_TWI_STAT_st 1
    Admitted State.reset ⟨8, true⟩ (pgEthC 5) .ethCtl 5 0x154 w ∧ w.getLsbD 31 = true ∧
    (State.reset.stored ⟨8, true⟩ (pgEthC 5) .ethCtl 5 0x154 w).fld (pgEthC 5) ETH_TWI_CMD_len = 4 ∧
    s.fld (pgEthC 5) ETH_TWI_STAT_st = 1 ∧
    ((s.setFld (pgEthC 5) ETH_TWI_STAT_st 2).irq (pgEthC 5) IRQ_ethCtl_twi_done).bit (pgEthC 5) ETH_TWI_CMD_read = true := by
  decide +kernel

/-! ### CrewRingCommandsComplete -/

theorem test_wit_rings : Reaches State.reset ⟨8, true⟩ ∧ Admitted State.reset ⟨8, true⟩ (pgEthR 5) .ethRing 5 0x128 256 ∧
    Admitted State.reset ⟨8, true⟩ (pgEthR 5) .ethRing 5 0x10C 1 ∧
        Admitted State.reset ⟨8, true⟩ (pgEthR 5) .ethRing 5 0x11C 1 ∧
    State.reset.stamps 5 = [] ∧ State.reset.txNext 5 = none := by decide +kernel

/-- A descriptor of 64 bytes for logical port 20, up, with the flags given. -/
def ringState (fl : Byte) : State :=
  let s := ((State.reset.setLword (pgEthC 5 + ETH_PORT_mode.off) 0x111).setFld (pgEthC 5) ETH_LINK_up 1).setFld (pgEthR 5) ETH_TXR_HEAD_n 1
  { s with dram := [(8, 64), (10, 20), (11, fl)].filter (fun c => c.2 ≠ 0) }

theorem test_wit_crew_send : let s := ringState 5
    s.txNext 5 = some 0 ∧ s.txDesc 5 0 = 0 ∧ s.loadLE 8 2 = 64 ∧ s.loadLE 10 1 = 20 ∧ s.lpSends 20 = true ∧
    s.mediaDue 20 (s.now + 5 + s.wireTime 20 64 - 1) = [] ∧ (s.loadLE 11 1).testBit 0 = true ∧
    ((ringState 0).loadLE 11 1).testBit 0 = false := by decide +kernel

theorem test_wit_ring_index : let s := State.reset.setFld (pgEthR 5) ETH_PRR_HEAD_n 1
    Reaches s ⟨8, true⟩ ∧ Admitted s ⟨8, true⟩ (pgEthR 5) .ethRing 5 0x10C 1 ∧
    (getBits ((s.stored ⟨8, true⟩ (pgEthR 5) .ethRing 5 0x10C 1).word (pgEthR 5 + 0x10C)) 0 16 + 65536 -
      getBits (s.word (pgEthR 5 + 0x10C)) 0 16) % 65536 ≤ 1 := by decide +kernel

theorem test_wit_stamp : let x : Stamp := ⟨7, 1, 5, 0, 0, 0, false⟩
    (State.reset.setStamps 5 [x]).stamps 5 = [x] := by decide +kernel

/-! ### FlowReceptionCompletes -/

theorem test_wit_flow_release : let k : Kept := { seq := 9, arrive := 0, ts := 0, pathB := false, data := [], gen := 0 }
    let s := State.reset.setRxe 7 { kept := [k], done := some 5 }
    firstKept (s.rxe 7).kept = some k ∧ k.arrive + s.skewCues 7 < s.now + 16 ∧ s.rxType 7 ≤ 1 ∧ k.gen = (s.rxe 7).gen ∧
      (s.rxe 7).done = some 5 := by decide

theorem test_wit_flow_late : let k : Kept := { seq := 9, arrive := 16, ts := 0, pathB := false, data := [], gen := 0 }
    let s := State.reset.setRxe 7 { kept := [k] }
    firstKept (s.rxe 7).kept = some k ∧ s.now + 16 ≤ k.arrive + s.skewCues 7 := by decide

theorem test_wit_flow_staged : let k : Kept := { seq := 9, arrive := 0, ts := 0, pathB := false, data := [], gen := 0, staged := some (0, 4) }
    let s := State.reset.setRxe 7 { kept := [k], done := some 5 }
    firstKept (s.rxe 7).kept = some k ∧ k.arrive + s.skewCues 7 < s.now + 16 ∧ s.rxType 7 = 0 ∧
        (s.areaBad 0 4 []).isSome = true ∧
    ((s.setChUp 0 true).setFld64 pgDrcG DRC_SIZE_lo DRC_SIZE_hi 4096).areaBad 0 4 [] = none := by decide +kernel

theorem test_wit_flow_lost : let s := State.reset.setRxe 7 { st := 3 }
    (s.rxe 7).st = 3 ∧ (s.rxe 7).senders = [] := by decide

/-! ### FlowWindowsComplete -/

theorem test_wit_flow_window : Reaches State.reset ⟨8, true⟩ ∧
    Admitted State.reset ⟨8, true⟩ pgFlr .flr 0 0x100 (setBits 0x12 24 2 1) ∧
    Admitted State.reset ⟨8, true⟩ pgFlt .flt 0 0x100 (setBits 0x12 24 2 2) := by decide +kernel

theorem test_wit_flow_crc : (State.reset.setBit pgFlr PAGE_STAT_armed true).bit pgFlr PAGE_STAT_armed = true ∧
    (State.reset.setBit pgFlr PAGE_STAT_armed true).bit pgFlr PAGE_CTL_parity = false := by decide

/-! ### FlowTransmissionCompletes -/

/-- An audio entry of two channels on path 1, with a timetable row of port 0, the time of day Held; its packet of frame 0 is due at
10,584,000. -/
def sendState (upt : Nat) : State :=
  let s := ((State.reset.setBit pgCue CUE_TOD_CTL_valid true).setLword (pgEth 0 8 + 0x100) 0x8007).setLword
    (pgEthC 0 + ETH_PORT_mode.off) 0x111
  { s.setFld (pgEthC 0) ETH_LINK_up 1 with txTab := [(7 * 16, 0x25), (7 * 16 + 14, 0x04020000)], upt := BitVec.ofNat 64 upt, fltT := false }

theorem test_wit_flow_sends : let s := sendState 10584000
    let p := (s.txe 7).path false
    let tab := s.pathTab 7 p
    entFld tab 7 RXE_CTL_en = 1 ∧ (s.lv pgPair PAIR_CFG_paths).testBit false.toNat = true ∧ s.held = true ∧
        (s.txe 7).waitTod = false ∧
    s.txRow 7 false = some (0, 0) ∧ p.old = none ∧ s.releaseTro tab 7 0 false = 0 ∧ s.tapDelay tab 7 = 0 ∧
    releaseAt tab 7 p.frame 0 p.k (s.txPackets 7 false 1) = 10584000 ∧ s.now = 10584000 ∧
    s.mediaDue (pathPort tab 7 false) 10584000 = [(10584000, 0, 7, false)] ∧ (s.ipQuiet || s.pathQuiet tab 7) = false ∧
    s.lpSends 0 = true := by decide +kernel

theorem test_wit_flow_frame : let s := sendState 10584000
    let tab := s.pathTab 7 ((s.txe 7).path false)
    let b := s.txBegin tab 7 0
    66 ≤ (b.txFrame tab 7 false 1 []).length + 4 := by decide +kernel

theorem test_wit_flow_transmit : let s := { State.reset with txTab := [(7 * 16, 1)] }
    entFld s.txTab 7 RXE_CTL_en = 1 ∧ (s.lv pgPair PAIR_CFG_paths).testBit false.toNat = true ∧ s.held = false ∧
      (s.setBit pgCue CUE_TOD_CTL_valid true).held = true ∧ (s.txe 7).waitTod = false := by decide +kernel

/-! ### PlatformFramesComplete -/

theorem test_wit_platform : State.reset.ptBase 5 = 5 ∧ (State.reset.defrApply 5).ptState 5 = ptOff ∧
    (State.reset.setGang 5 PLT_STAT_state ptUnaligned).ptState 5 = ptUnaligned ∧ (State.reset.pt 5).frames = [] ∧
    State.reset.pst 5 PLT_STAT_holding ≠ 1 ∧
        (State.reset.setGang 5 PLT_STAT_holding 1).pst 5 PLT_STAT_holding = 1 := by decide +kernel

/-- An entry of type 0 bound to slot 3 is Live with a frame begun. -/
def slotState : State :=
  ({ State.reset with rxTab := [(7 * 16, 1), (7 * 16 + 12, 3)] } : State).setRxe 7 { st := 3, fresh := true }

theorem test_wit_source_slot : slotState.ptBase 515 = 515 ∧ slotEntry slotState.rxTab 3 = some 7 ∧ (slotState.rxe 7).st = 3 ∧
    (slotState.rxe 7).fresh = true ∧ (slotState.setGang 515 PLT_STAT_state ptDetecting).ptState 515 = ptDetecting ∧
    (slotState.setGang 515 PLT_STAT_state ptUnaligned).ptState 515 = ptUnaligned := by decide +kernel

theorem test_wit_rail_start : let fr : ReadyFrame := { ready := 0, release := 15, res := 0, onGrid := false, anc := [] }
    let s := (State.reset.setGang 5 PLT_STAT_state ptUnaligned).setPt 5 { frames := [fr], next := some 15 }
    let x := s.setPt 5 { s.pt 5 with frames := [] }
    let u := (x.ptRails 5).foldl (fun y r => y.ptApply r) x
    s.ptBase 5 = 5 ∧ (s.pt 5).frames = [fr] ∧ u.ptState 5 = ptUnaligned ∧ (u.pt 5).turn = none ∧
        (u.pt 5).next = some fr.release := by
  decide +kernel

theorem test_wit_hold_start : let s := (State.reset.setGang 5 PLT_STAT_holding 1).setPt 5 { next := some 15, holdLeft := some 1 }
    (s.pt 5).next = some 15 ∧ s.pst 5 PLT_STAT_holding = 1 ∧ (s.pt 5).holdLeft ≠ some 0 := by decide +kernel

theorem test_wit_regrid : ((State.reset.setGrp 3 { State.reset.grp 3 with move := some 15 }).grp 3).move = some 15 := by decide

/-! ### TakesComplete -/

theorem test_wit_take : let w : W32 := 5
    Reaches State.reset ⟨8, true⟩ ∧ Admitted State.reset ⟨8, true⟩ (pgTap 17) .tap 1 (TT_TAPCTL_src.at 1) w ∧
    (let u := State.reset.stored ⟨8, true⟩ (pgTap 17) .tap 1 (TT_TAPCTL_src.at 1) w
     u.tapFld 17 TT_TAPCTL_src = 5 ∧ u.tapBase 17 = 17 ∧ u.gangsFit 17 5 = true) := by decide +kernel

theorem test_wit_take_none : (State.reset.takes 17).filter (fun k => State.reset.mayLand 17 15 k) = [] := by decide

theorem test_wit_salvo_memory : (State.reset.storeWord ⟨8, true⟩ pgSm .ttSm 0 0x104 5).ok = true ∧
    State.reset.privileged ⟨8, true⟩ = true ∧ State.reset.privileged ⟨1, false⟩ = false := by decide +kernel

/-! ### CueSheetCommandsComplete -/

theorem test_wit_cue_submit : (let r := State.reset.storeFor ⟨8, true⟩ pgCq .ttCue 0 0x110 0x80000000
      r.ok = true ∧ r.eff = 0x80000000 ∧ r.s.mfld 8 pgCq TT_CQ_SUB_kind = 0 ∧ r.s.sheet = []) ∧
    Admitted State.reset ⟨8, true⟩ pgCq .ttCue 0 0x128 0x80000001 ∧ State.reset.firstEntry = none ∧
        State.reset.results = [] := by
  decide +kernel

theorem test_wit_cue_dispatch : let e : CueEnt := { kind := 2, target := 5, salvo := 0, strict := false, tag := 7 }
    let s := State.reset.addEntry e
    s.firstEntry = some e ∧ s.keyOf e ≤ s.now + s.leadTime ∧ s.follows = false := by decide +kernel

/-! ### GpiEventsComplete -/

theorem test_wit_gpi : State.reset.gpiOn 5 = false ∧ (State.reset.gp 5).st = 0 ∧ gpiShort (State.reset.gp 5) 0 < 8 ∧
    ((State.reset.setBit pgGpio TT_GPI_en true 5).setGpiOn 5 true).bit pgGpio TT_GPI_en 5 = true ∧
    (State.reset.setGpiOn 5 true).gpiOn 5 = true ∧ ((State.reset.setGp 5 { st := 3 }).gp 5).st = 3 := by decide

/-! ### SynchroniserEventsComplete -/

theorem test_wit_sync : (State.reset.sy 5).on = false ∧ ((State.reset.setSy 5 { on := true }).sy 5).on = true ∧
    (State.reset.setSy 5 { on := true }).railFmt ((State.reset.setSy 5 { on := true }).synRail 5) = none ∧
    ((State.reset.setSyFld 5 SYN_STAT_state synStarting).synState 5) = synStarting ∧
    ((State.reset.setSy 5 { decided := some (15, none) }).sy 5).decided = some (15, none) := by decide +kernel

theorem test_wit_sync_input : let f : Fmt := { rate := 9, lines := 1125, px := 1920, intl := false, samp := 0 }
    let s := { ((State.reset.setGang 7 PLT_STAT_state ptAligned).setPt 7 { fmt := some f }).setSy 5 { on := true, writing := true } with
      tapSel := [(2053, 7)] }
    s.railFmt (s.synRail 5) = some f ∧ s.synOver 5 f = false ∧ s.synDiff 5 f = false ∧
        s.synLines 5 = none := by decide +kernel

theorem test_wit_sync_show : let f : SynFrame := { num := 7, w := 3, done := some 9, fmt := { rate := 9, lines := 1125, px := 1920, intl := false, samp := 0 }, width := 1, good := true, anc := [] }
    let s := (State.reset.setSyFld 5 SYN_STAT_state synRunning).setSy 5 { on := true, ring := [f], decided := some (15, some 7) }
    let u := s.synApply 5
    (u.sy 5).on = true ∧ u.follows = false ∧ u.synState 5 = synRunning ∧
        (s.sy 5).decided = some (15, some 7) := by decide +kernel

/-! ### ProsceniumOutputCompletes -/

theorem test_wit_pro : State.reset.fld (pgBlend 5) PRB_STAT_state = 0 ∧
    (State.reset.setFld (pgBlend 5) PRB_STAT_state 2).fld (pgBlend 5) PRB_STAT_state = 2 ∧
    (State.reset.pr 5).lineNo < (State.reset.proSize 5).2 := by decide +kernel

theorem test_wit_pro_line (h : Config.firstActive 1125 = 42) :
    let s : State := { State.reset.setFld (pgBlend 5) PRB_STAT_state 2 with upt := 1000000000 }
    s.fld (pgBlend 5) PRB_STAT_state = 2 ∧ s.rowInstant 5 ((s.proOrigin 5).2 + (s.pr 5).lineNo) < s.now + 16 := by
  intro s
  have e : (s.proRaster 5).2.2.1 = 1125 := by decide +kernel
  refine ⟨by decide +kernel, ?_⟩
  simp only [State.rowInstant, e, h]
  decide +kernel

theorem test_wit_coef : let s := State.reset.setFld (pgRas 5) PRO_CF_ADDR_set 1
    Reaches s ⟨8, true⟩ ∧ Admitted s ⟨8, true⟩ (pgRas 5) .proRas 5 0x114 1 ∧
        Admitted s ⟨8, true⟩ (pgRas 5) .proRas 5 0x114 2 := by decide +kernel

/-! ### FlipsAndCapturesComplete -/

theorem test_wit_flip_arm : let o := PRO_FLIP_arm.at 2
    let w := State.reset.compose (pgBlend 5) .proBlend o (setBits (State.reset.word (pgBlend 5 + o)) 0 1 1)
    (State.reset.storeWord ⟨8, true⟩ (pgBlend 5) .proBlend 5 o w).ok = true ∧
    (State.reset.storeWord ⟨8, true⟩ (pgBlend 5) .proBlend 5 o w).eff.getLsbD 0 = true ∧
    (State.reset.stored ⟨8, true⟩ (pgBlend 5) .proBlend 5 o w).fld (pgBlend 5) PRO_FLIP_pend 2 ≠ 1 := by decide +kernel

theorem test_wit_capture : (State.reset.pr 5).caps = [] ∧ State.reset.proBase 5 = 5 ∧
    ((State.reset.setPr 5 { caps := [(0, 0, 0)] }).pr 5).caps = [(0, 0, 0)] := by decide +kernel

/-! ### PitTakesComplete -/

theorem test_wit_pit_take : let r := State.reset.storeFor ⟨8, true⟩ pgPitT .pitTake 0 0x104 0x80000000
    Reaches State.reset ⟨8, true⟩ ∧ r.ok = true ∧ r.eff = 0x80000000 ∧ r.s.mfld 8 pgPitT PIT_TK_CTL_kind = 0 ∧
    pitOutReserved (r.s.mfld 8 pgPitT PIT_TK_out) = false ∧ r.s.pitTakes = [] := by decide +kernel

theorem test_wit_pit_land : let t : PitTake := { seq := 0, out := 5, src := some 7, target := 0, ready := 0, late := true, direct := true }
    let s : State := { State.reset with pitTakes := [t] }
    s.low = false ∧ s.pitNow = some 0 ∧ s.pitTakes.filter (fun t => t.out == 5 && t.ready ≤ 0) = [t] := by decide +kernel

theorem test_wit_pit_cut : ((State.reset.setPot 5 { st := 2, cut := some true }).pot 5).cut = some true ∧
    ((State.reset.setPot 5 { st := 1, j := 4, n := 4 }).pot 5).st = 1 ∧ (State.reset.pot 5).cut = none := by decide

/-! ### PitInstantsAndTablesComplete -/

theorem test_wit_pit_window : let w := State.reset.word (pgPitW + 0x100) ||| 0x1000000
    let v := State.reset.word (pgPitW + 0x100) ||| 0x2000000
    Reaches State.reset ⟨8, true⟩ ∧ Admitted State.reset ⟨8, true⟩ pgPitW .pitWin 0 0x100 w ∧ w.getLsbD 24 = true ∧
    w.getLsbD 25 = false ∧ Admitted State.reset ⟨8, true⟩ pgPitW .pitWin 0 0x100 v ∧ v.getLsbD 25 = true ∧
    (State.reset.stored ⟨8, true⟩ pgPitW .pitWin 0 0x100 v).bit pgPitW PIT_SEL_busy = false := by decide +kernel

theorem test_wit_pit_regrid : let s := { State.reset with pitGrid := { State.reset.pitGrid with move := some 15 } }
    s.low = false ∧ s.pitGrid.move = some 15 ∧ 15 < s.now + 16 := by decide

theorem test_wit_pit_instant : State.reset.low = false ∧ State.reset.pitNow = some 0 := by decide +kernel

theorem test_wit_pit_table_crc : let s := State.reset.setBit pgPitW PAGE_STAT_armed true
    s.low = false ∧ s.bit pgPitW PAGE_STAT_armed = true ∧ s.bit pgPitW PAGE_CTL_parity = false := by decide

/-! ### TdmCommandsComplete -/

theorem test_wit_tdm : State.reset.tdmEn 5 = false ∧ State.reset.tdmRun 5 = false ∧ (State.reset.tp 5).inRange = none ∧
    (let s := State.reset.setLword (pgTdm 5 + TDM_CFG_en.off) 0xFFFFFFFF
     s.tdmEn 5 = true ∧ s.tdmClk 5 ≠ 0 ∧ (s.setBit (pgTdm 5) TDM_STAT_run true).tdmRun 5 = true) := by decide

theorem test_wit_tdm_transmit : let s := State.reset.setTp 5 { txHist := [(0, [7])] }
    (s.tp 5).txHist.find? (fun h => h.1 + pitPer ≤ 220500) = some (0, [7]) ∧ (s.tp 5).txLast = none ∧
    (State.reset.tp 5).txHist.find? (fun h => h.1 + pitPer ≤ 0) = none := by decide

theorem test_wit_tdm_trigger : Reaches State.reset ⟨8, true⟩ ∧ Admitted State.reset ⟨8, true⟩ pgTrig .tdmTrig 0 0x10C 1 ∧
    (State.reset.stored ⟨8, true⟩ pgTrig .tdmTrig 0 0x10C 1).follows = false ∧
    (State.reset.setBit pgTrig TDM_TRIG_CTL_pending true).bit pgTrig TDM_TRIG_CTL_pending = true ∧
    State.reset.fld64 pgTrig TDM_TRIG_S_lo TDM_TRIG_S_hi < 16 := by decide +kernel

theorem test_wit_tdm_channels : Admitted State.reset ⟨8, true⟩ (pgTdm 5) .tdm 5 0x108 0xFFFFFFFF ∧
    Admitted State.reset ⟨8, true⟩ (pgTdm 5) .tdm 5 0x10C 1 ∧
    (let s := State.reset.setTc (chKey 5 true 31) { st := 4, wait := 65535 }
     (s.tc (chKey 5 true 31)).st = 4 ∧ s.lv (pgTdm 5) TDM_ZX_timeout ≤ (s.tc (chKey 5 true 31)).wait) ∧
    ((State.reset.setTc (chKey 5 true 31) { st := 2 }).tc (chKey 5 true 31)).st = 2 := by decide +kernel

theorem test_wit_tdm_frame : let s := (State.reset.setLword (pgTdm 5 + TDM_CFG_en.off) 1).setBit (pgTdm 5) TDM_STAT_run true
    s.low = false ∧ s.tdmEn 5 = true ∧ s.tdmClk 5 = 0 ∧ s.tdmRun 5 = true ∧ (s.tp 5).s0 ≤ 7 ∧
    (let x := ((s.setTp 5 { s.tp 5 with fsBad := false }).tdmPos 5 7).1
     let pos := ((s.setTp 5 { s.tp 5 with fsBad := false }).tdmPos 5 7).2
     x.tdmClk 5 ≠ 2 ∧ x.bit (pgTdm 5) TDM_STAT_over_range = false ∧ ¬pos + x.tdmLat < x.now ∧
     ¬x.pitPrev x.now - x.tdmLat + 64 * pitPer < pos) := by decide +kernel

theorem test_wit_tdm_start : let s := (State.reset.setLword (pgTdm 5 + TDM_CFG_en.off) 1).setBit pgTrig TDM_TRIG_CTL_pending true
    let u : State := { s with tdmMask := 32 }
    u.low = false ∧ u.bit pgTrig TDM_TRIG_CTL_pending = true ∧ u.fld64 pgTrig TDM_TRIG_S_lo TDM_TRIG_S_hi < u.now + 16 ∧
    u.tdmEn 5 = true ∧ u.tdmRun 5 = false ∧ u.lbit (pgTdm 5) TDM_CFG_align = false := by decide +kernel

/-! ### ReferenceEventsComplete -/

theorem test_wit_reference : State.reset.refEnabled 5 = false ∧
    (let s := (State.reset.setLword (pgRef 5 + REF_IN_en.off) 0xFFFFFFFF).setRefState 5 riQualifying
     s.refEnabled 5 = true ∧ s.refState 5 = riQualifying ∧ s.now ≤ 0 + cueSec) ∧
    (State.reset.setRefState 5 riOver).refState 5 = riOver ∧ State.reset.refSilent 5 = false := by decide +kernel

theorem test_wit_reference_pin : let s := (State.reset.setLword (pgRef 3 + REF_IN_en.off) 1).setRefState 3 riQualifying
    s.low = false ∧ s.lbit (pgRef 3) REF_IN_pol = false ∧ s.refEnabled 3 = true ∧ s.refState 3 ≠ riOff ∧
        s.now ≤ 0 + cueSec := by
  decide +kernel

theorem test_wit_ptp : Reaches State.reset ⟨8, true⟩ ∧ Admitted State.reset ⟨8, true⟩ (pgRef 5) .refIn 5 0x198 1 ∧
    Admitted State.reset ⟨8, true⟩ (pgRef 4) .refIn 4 0x198 1 := by decide +kernel

/-! ### SelectorInstantsComplete -/

theorem test_wit_periodic : State.reset.due 0 (100 * cueMs) = true ∧ State.reset.due 1 cueMs = true ∧
    State.reset.due 2 cueSec = true ∧ { State.reset with upt := 16 }.due 0 (100 * cueMs) = false ∧
    { State.reset with upt := 16 }.due 1 cueMs = false ∧ { State.reset with upt := 16 }.due 2 cueSec = false := by decide

/-! ### PllEventsComplete -/

theorem test_wit_pll : State.reset.bit (pgPll 12) PLL_STAT_lock = false ∧
    (State.reset.setWord (pgPll 12 + 0x114) 7).bit (pgPll 12) PLL_STAT_lock = false ∧
    (State.reset.setBit (pgPll 12) PLL_STAT_lock true).bit (pgPll 12) PLL_STAT_lock = true ∧ mediaSynth 12 = true ∧
    ((State.reset.setPl 0 { moving := true }).pl 0).moving = true ∧
    (let s := State.reset.setBit (pgPll 12) PLL_STAT_lock true
     s.onMultiple pitPer = true ∧ s.lv (pgPll 12) PLL_LOCK_win * 256 < (0x7FFFFFFF : W32).toInt.natAbs ∧
         s.lv (pgPll 12) PLL_LOCK_nloss ≤ 65536) ∧
    (State.reset.onMultiple pitPer = true ∧ (0 : W32).toInt.natAbs ≤ State.reset.lv (pgPll 12) PLL_LOCK_win * 256 ∧
      State.reset.lv (pgPll 12) PLL_LOCK_n ≤ 65536) ∧
    (let s := (State.reset.setPl 0 { wantReturn := true }).setBit (pgPll 0) PLL_STAT_lock true
     (s.pl 0).wantReturn = true ∧ s.bit (pgPll 0) PLL_STAT_lock = true ∧ s.bit pgClk CLK_CTL_hold_byp = false) ∧
    (let s := (State.reset.setBit (pgPll 12) PLL_STAT_ph_busy true).setFld (pgPll 12) PLL_PH_target 0xFFFF
     s.bit (pgPll 12) PLL_STAT_ph_busy = true ∧ s.fldS (pgPll 12) PLL_PH_now ≠ s.fldS (pgPll 12) PLL_PH_target) := by
  decide +kernel

/-! ### ClockWritesComplete -/

theorem test_wit_clock_writes : Reaches State.reset ⟨8, true⟩ ∧
    (State.reset.storeWord ⟨0, true⟩ pgClk .clkCtl 0 0x104 1).ok = true ∧
    (State.reset.storeWord ⟨0, true⟩ pgClk .clkCtl 0 0x108 1).ok = true ∧
    Admitted State.reset ⟨0, true⟩ (pgPll 3) .pll 3 0x118 1 ∧
        (State.reset.storeWord ⟨0, true⟩ (pgPll 3) .pll 3 0x104 1).ok = true ∧
    mediaSynth 3 = false ∧ mediaSynth 11 = true := by decide +kernel

/-! ### CallBusCommandsComplete -/

theorem test_wit_call : State.reset.cbState = cbOff ∧ (State.reset.setCb cbSynced).cbState = cbSynced ∧
    (State.reset.setCb cbListening).cbState ≠ cbOff ∧ (State.reset.setCb cbSynced).cycleStart = some 0 ∧
    State.reset.call.sending = none ∧ State.reset.call.bsq = [] ∧
        (State.reset.setCb cbSynced).cycleNext 0 = 0 := by decide +kernel

theorem test_wit_collision : let f : CallFrame := { slot := 33, start := 0, bytes := [], idx := none }
    (State.reset.setCall { State.reset.call with sending := some f }).call.sending = some f ∧
        0 ≤ callEnd f := by decide +kernel

theorem test_wit_call_cycle : let s := State.reset.setCb cbSynced
    s.low = false ∧ s.cbState ≠ cbOff ∧ s.cycleNext s.now < s.now + 16 ∧
        s.call.cycleAt ≠ some (s.cycleNext s.now) := by decide +kernel

theorem test_wit_call_slot : let s : State := { (State.reset.setCb cbSynced).setFld64 pgCb CB_LIVEMASK_lo CB_LIVEMASK_hi 2 with upt := 66150 }
    let t := 0 + 1 * slotLen
    let u := s.callSettle
    s.low = false ∧ s.cycleStart = some 0 ∧ s.now ≤ t ∧ t < s.now + 16 ∧ u.slotOwned 1 = true ∧ u.call.sending = none ∧
    (u.callEntry t 256).2 = none := by decide +kernel

theorem test_wit_call_frame : let s := State.reset.setCb cbListening
    let bytes := callBytes 5 0 0 0 (List.replicate 24 0)
    let u := s.callSettle
    s.low = false ∧ s.cbState ≠ cbOff ∧ u.callVerdict (u.callSeen 0) false bytes = none ∧
        byteAt bytes 0 % 64 ≠ u.station := by decide +kernel

theorem test_wit_call_silent : let s : State := { State.reset.setCb cbListening with upt := 100000000 }
    s.low = false ∧ s.call.silentAt + callPer < s.now + 16 := by decide +kernel

/-! ### PairRoleCommandsComplete -/

theorem test_wit_pair : Reaches State.reset ⟨0, true⟩ ∧ Admitted State.reset ⟨0, true⟩ pgPair .pair 0 0x110 1 ∧
    Admitted State.reset ⟨0, true⟩ pgPair .pair 0 0x110 2 ∧ Admitted State.reset ⟨0, true⟩ pgPair .pair 0 0x110 4 := by
  decide +kernel

theorem test_wit_pair_events : burstClaim (burstBits 0x8000_0001) = some 0x8000_0001 ∧ burstClaim 0 = none ∧
    (State.reset.setPair { State.reset.pair with swapAt := some 15 }).pair.swapAt = some 15 ∧
    (State.reset.setRole roleLead).role = roleLead ∧ (State.reset.setRole roleForming).role = roleForming ∧
    (let s := { State.reset.setBit pgPair PAIR_STAT_twin_up true with upt := 31752000 }
     s.bit pgPair PAIR_STAT_twin_up = true ∧ s.pair.lastHb + 31752000 < s.now + 16) ∧
    State.reset.msInstant.isSome = true := by decide +kernel

theorem test_wit_pair_burst : let s : State := { State.reset.setRole roleForming with fltT := false }
    s.low = false ∧ s.cgNow = some 0 ∧ (let u := (s.settleFrame 0).tryPromote
     u.role ≠ roleSolo ∧ u.faulted = false ∧ u.pair.burstEnd ≤ 0) := by decide +kernel

theorem test_wit_pair_beat : let s : State := { (State.reset.setRole roleLead).setPair { State.reset.pair with hbSent := 5 } with fltT := false }
    s.low = false ∧ s.msInstant = some 0 ∧ s.role ≠ roleSolo ∧ s.fltT = false ∧ s.pair.hbSent ≠ 0 := by decide +kernel

theorem test_wit_pair_pref : let s : State := { ((State.reset.setRole roleForming).setLword (pgPair + PAIR_CFG_pref.off) 0xFFFFFFFF).setBit
      pgCue CUE_TOD_CTL_valid true with upt := 31752000 }
    s.low = false ∧ s.lbit pgPair PAIR_CFG_pref = true ∧ s.pair.quietFrom + 31752000 < s.now + 16 ∧ s.role = roleForming ∧
    s.held = true := by decide +kernel

theorem test_wit_pair_lead_now : let s := (State.reset.setRole roleForming).setBit pgCue CUE_TOD_CTL_valid true
    let u := s.stored ⟨0, true⟩ pgPair .pair 0 0x110 1
    Reaches s ⟨0, true⟩ ∧ Admitted s ⟨0, true⟩ pgPair .pair 0 0x110 1 ∧ u.role = roleForming ∧
        u.held = true := by decide +kernel

theorem test_wit_pair_swap : let s := ((State.reset.setRole roleLead).setBit pgPair PAIR_STAT_twin_up true).setPair {
      State.reset.pair with twinRole := roleUnderstudy, swapAt := some 0 }
    let u := s.stored ⟨0, true⟩ pgPair .pair 0 0x110 2
    Reaches s ⟨0, true⟩ ∧ Admitted s ⟨0, true⟩ pgPair .pair 0 0x110 2 ∧ u.role = roleLead ∧ u.swapFits = true ∧
        s.swapFits = true ∧
    nearInstant (s.grpNext s.cgroup) (s.uptOfCues 0) < s.now + 16 := by decide +kernel

theorem test_wit_pair_rejoin : let s := State.reset.setRole roleYielded
    Reaches s ⟨0, true⟩ ∧ Admitted s ⟨0, true⟩ pgPair .pair 0 0x110 4 ∧
    (s.stored ⟨0, true⟩ pgPair .pair 0 0x110 4).role = roleYielded := by decide +kernel

/-! ### TwinMessagesComplete -/

theorem test_wit_twin_up : State.reset.low = false ∧ (State.reset.setFld pgTwin TWN_STAT_width 3).twinUp = true ∧
    (State.reset.setFld pgTwin TWN_STAT_width 3).pair.rxSeq = 0 := by decide

/-! ### SignaturesAndPathChecksComplete -/

theorem test_wit_signature : let s := { State.reset.setRole roleLead with tapSel := [(1000, 5)], upt := 176400000 }
    s.low = false ∧ s.destEnd 1000 = some (0, 176400000) ∧ s.role ≠ roleSolo ∧ (s.sigRun 1000).last = none ∧
    s.signless 1000 = false ∧ (s.twinSend (.signatures 0 [(1000, 7)])).sigWait 1000 0 = none := by decide +kernel

theorem test_wit_path_check : let s := State.reset.setPair { State.reset.pair with
      sigs := [⟨9, 4, 0, some (some 7), none⟩], checks := [⟨9, 4, none, none, 0⟩, ⟨10, 4, some (true, false), none, 0⟩] }
    s.pair.sigs.find? (fun w => w.dest == 9 && w.own.isSome && w.due < s.now + 16) = some ⟨9, 4, 0, some (some 7), none⟩ ∧
    s.pair.checks.find? (fun c => c.dest == 9 && c.own.isNone) = some ⟨9, 4, none, none, 0⟩ ∧
    s.pair.checks.find? (fun c => c.dest == 10) = some ⟨10, 4, some (true, false), none, 0⟩ := by decide

/-! ### TwinLinkAndTransferComplete -/

theorem test_wit_snapshot_copy : let s : State := { State.reset.setRole roleLead with upt := 10000000000000 }
    s.low = false ∧ s.role = roleLead ∧ s.pair.snapBusy = none ∧
    s.pair.snapFrom + s.lv pgTwin TWN_SNAP_PER_s * cueSec < s.now + 16 := by decide +kernel

theorem test_wit_snapshot_swap : let s := ((State.reset.setRole roleLead).setBit pgPair PAIR_STAT_twin_up true).setPair {
      State.reset.pair with twinRole := roleUnderstudy, snapBusy := some 5, swapTo := some 7, snapFrom := 3, swapFrom := 3 }
    let u := s.sendData (s.bankAt 1) [s.snapHeader 1 5]
    let v := (u.setPair { u.pair with snapSeq := 1, snapBusy := none }).snapShow 1
    s.low = false ∧ s.pair.snapBusy = some 5 ∧ s.pair.snapSeq = 0 ∧ v.pair.swapTo = some 7 ∧
        v.pair.swapFrom ≤ v.pair.snapFrom ∧
    v.swapFits = true := by decide +kernel

theorem test_wit_journal_apply : let e : Due := { upt := 0, d := .swap }
    let s : State := { State.reset.setRole roleUnderstudy with journalIn := [e] }
    s.low = false ∧ s.nextDue = some e ∧ s.applying = true := by decide +kernel

theorem test_wit_transfer_cut : let s := (State.reset.setRole roleJoining).setPair { State.reset.pair with cutAt := some 15, done := false }
    s.low = false ∧ s.pair.cutAt = some 15 ∧ 15 < s.now + 16 ∧ s.role = roleJoining ∧ s.pair.done = false := by decide +kernel

theorem test_wit_twin_link : (State.reset.setFld pgTwin TWN_STAT_lane_ok 255).fld pgTwin TWN_STAT_lane_ok = 255 ∧
    widthOf 0x0F = 1 ∧
    State.reset.twinUp = false ∧ (State.reset.setPair { State.reset.pair with snapBusy := some 5 }).pair.snapBusy = some 5 ∧
    State.reset.pair.snapBusy = none ∧ (State.reset.setRole roleJoining).role = roleJoining ∧ State.reset.nextDue = none ∧
    (State.reset.setPair { State.reset.pair with cutAt := some 15, done := false }).pair.cutAt = some 15 := by decide

/-! ### DramRequestsAndReadsComplete -/

theorem test_wit_dram_request : dramRequestOk 1 0x1000 (.read 16 false) = true ∧ State.reset.issues 1 = true ∧
    (State.reset.fld pgCat CAT_STAT_drain).testBit 1 = false ∧ opNull (.read 16 false) = false ∧
        opNull (.write [none]) = true ∧
    State.reset.chUp 0 = false ∧ State.reset.nextRead 0 = none ∧ (placeOf 0x1000).ch < 8 := by decide +kernel

theorem test_wit_dram_enters : let s := (State.reset.setChUp 0 true).setFld64 pgDrcG DRC_SIZE_lo DRC_SIZE_hi 0x2000000000
    0x400 < s.dramSize ∧ s.chUp 0 = true ∧ (placeOf 0x400).ch = 0 ∧ s.room 0 1 = true ∧ (s.ch 0).waits = [] ∧
    State.reset.dramSize ≤ 0x3000000000 := by decide +kernel

theorem test_wit_dram_read : let q : DReq := { seq := 0, req := 1, addr := 0, op := .read 16 false, upt := 0, issued := some (15, [], []) }
    let s := State.reset.setCh 0 { State.reset.ch 0 with reqs := [q] }
    s.nextRead 0 = some q ∧ (decodeGranule 15 [] []).bad = false ∧ q.discard = false := by decide +kernel

/-! ### DramChannelEventsComplete -/

theorem test_wit_dram_events : (State.reset.ch 0).ivals < 8192 ∧ State.reset.low = false ∧
    (let s := State.reset.setCh 7 { State.reset.ch 7 with ivals := 8192 }; 8192 ≤ (s.ch 7).ivals) ∧
    (let s := { State.reset.setChUp 7 true with upt := 20000000 }
     s.chUp 7 = true ∧ (s.ch 7).refFrom + s.dramInterval 7 < (s.now + 16) * 100 ∧ (s.ch 7).early = 0 ∧ (s.ch 7).busy = false ∧
       (s.ch 7).poll + cueMs < s.now + 16 ∧ s.bit (pgDrc 7 0) DRC_STAT_hot = false) ∧
    (State.reset.bank 0 0).row = none := by decide +kernel

theorem test_wit_dram_pages : let q : DReq := { seq := 0, req := 1, addr := 0, op := .write [some 0], upt := 0 }
    let s := { (State.reset.setCh 0 { State.reset.ch 0 with reqs := [q] }).setBank 0 0 { State.reset.bank 0 0 with row := some 5 } with
      upt := 100000000 }
    q.place.bank = 0 ∧ q.place.row = 0 ∧ q.issued = none ∧ opWrite q.op = true ∧ (s.bank 0 0).row = some 5 ∧
    ddrCycles q.upt + s.lv (pgDrc 0 0) DRC_PAGE_starve ≤ ddrCycles s.now ∧
        ddrCycles q.upt + s.lv (pgDrc 0 0) DRC_WQ_age ≤ ddrCycles s.now ∧
    ddrCycles 0 + s.lv (pgDrc 0 0) DRC_PAGE_idle ≤ ddrCycles s.now ∧ (s.ch 0).busy = true := by decide +kernel

/-! ### RetirementRepairAndScrubComplete -/

theorem test_wit_retire : let a : Acc := ⟨1, true⟩
    let s := State.reset.setFld (pgDrc 7 2) DPR_RETIRE_dev 15
    Reaches s a ∧ (s.storeWord a (pgDrc 7 2) .dpr 7 0x100 9).ok = true ∧
        (s.stored a (pgDrc 7 2) .dpr 7 0x100 9).privileged a = true ∧
    s.fld (pgDrc 7 2) DPR_RETIRE_dev = 15 ∧
        (s.stored a (pgDrc 7 2) .dpr 7 0x100 9).fld (pgDrc 7 2) DPR_RETIRE_dev = 9 := by decide +kernel

theorem test_wit_ppr_go : let a : Acc := ⟨1, true⟩
    Reaches State.reset a ∧ Admitted State.reset a (pgDrc 0 3) .ppr 0 0x104 1 ∧ (1 : W32).getLsbD 0 = true ∧
    (State.reset.stored a (pgDrc 0 3) .ppr 0 0x104 1).bit (pgDrc 0 3) DPR_PPR_busy = false ∧
    Admitted State.reset a (pgDrc 0 4) .dflip 0 0x114 0x1000 ∧ (0x1000 : W32).getLsbD 12 = true := by decide +kernel

theorem test_wit_ppr_done : let s := (State.reset.setChUp 0 true).setCh 0 { State.reset.ch 0 with ppr := some (9, 7, 3, 65535) }
    (s.ch 0).ppr = some (9, 7, 3, 65535) ∧ 65535 < s.dramRows ∧ s.chUp 0 = true ∧
        State.reset.onMultiple 0 = false := by decide +kernel

theorem test_wit_devce_window : State.reset.low = false ∧
    State.reset.onMultiple (State.reset.lv (pgDrc 7 2) DPR_RET_win * cueSec) = true := by decide +kernel

theorem test_wit_scrub : let s := { State.reset.setChUp 0 true with upt := 10000000000 }
    s.chUp 0 = true ∧ s.lbit (pgDrc 0 2) DPR_SCRUB_en = true ∧ (s.ch 0).busy = false ∧ (s.ch 0).ppr = none ∧
    s.lv (pgDrc 0 2) DPR_SCRUB_idle ≤ ddrCycles s.now - ddrCycles (s.ch 0).scrubAt ∧
    s.lv (pgDrc 0 2) DPR_SCRUB_gap ≤ ddrCycles s.now - ddrCycles (s.ch 0).scrubAt := by decide +kernel

/-! ### OnChipMemoryCommandsComplete -/

theorem test_wit_sram : let a : Acc := ⟨0, true⟩
    Reaches State.reset a ∧ Admitted State.reset a pgSrm .srm 0 0x114 1 ∧ (1 : W32).getLsbD 0 = true ∧
    Admitted State.reset a pgSrm .srm 0 0x100 0x10000 ∧ (0x10000 : W32).getLsbD 16 = true ∧
    (State.reset.stored a pgSrm .srm 0 0x114 1).word (pgSrm + 0x110) = 0 ∧
    State.reset.sramVerdict (State.reset.sramErr 3 5 ^^^ 0) = 0 ∧
        State.reset.sramVerdict (State.reset.sramErr 3 5 ^^^ 1) = 1 ∧
    State.reset.sramVerdict (State.reset.sramErr 3 5 ^^^ 3) = 2 := by decide +kernel

/-! ### CatwalkAndInterruptCommandsComplete -/

theorem test_wit_catwalk : let s := State.reset.setBit pgPrc SM_STAT_lockstep_ok true
    s.bit pgPrc SM_STAT_lockstep_ok = true ∧ hasPath 0x19 (targetOf 0x010000000000) = false ∧ State.reset.issues 0x19 = true ∧
    burstOk 0xFF0 2 0 true = false ∧ State.reset.issues 1 = true ∧ hasPath 1 (targetOf 0xFF0) = true ∧
    hasPath hostMaster (targetOf 0xFF0) = true ∧ burstOk 0xFF0 1 0 true = true := by decide +kernel

theorem test_wit_drain : (State.reset.fld pgCat CAT_STAT_drain).testBit 31 = false ∧
    ((State.reset.setWord (pgCat + 0x140) 0x80000000).fld pgCat CAT_STAT_drain).testBit 31 = true ∧
    State.reset.bit pgPcie PCIE_STAT_up = false ∧
        (State.reset.setBit pgPcie PCIE_STAT_up true).bit pgPcie PCIE_STAT_up = true := by
  decide +kernel

theorem test_wit_line : let s := { (State.reset.setWord 0x10 1).setWord 0x14 1 with routes := [(0, 0x13F)], msixPend := 1 <<< 63 }
    getBits (s.route 0) 8 2 = 1 ∧ s.lineLevel 0 = true ∧ Store.get (fun _ => false) s.lines 0 = false ∧
    getBits (s.route 16383) 8 2 ≠ 1 ∧ s.lineLevel 16383 = false ∧ s.msixPend.getLsbD 63 = true ∧ s.vectorHigh 63 = true := by
  decide +kernel

theorem test_wit_eoi : let a : Acc := ⟨1, true⟩
    Reaches State.reset a ∧ Admitted State.reset a pgInt .intc 0 0x108 63 ∧ getBits (63 : W32) 0 6 = 63 := by decide +kernel

/-! ### DmaHostAndCrewCommandsComplete -/

theorem test_wit_dma_go : let a : Acc := ⟨0, true⟩
    Reaches State.reset a ∧ Admitted State.reset a (pgDma 3) .dma 3 0x100 1 ∧ (1 : W32).getLsbD 0 = true ∧
    (State.reset.stored a (pgDma 3) .dma 3 0x100 1).bit (pgDma 3) DMA_STAT_busy = false ∧ (2 : W32).getLsbD 1 = true ∧
    Admitted (State.reset.dmaPartial 0 0 []) a (pgDma 0) .dma 0 0x100 2 ∧ Admitted State.reset a pgPrc .prc 0 0x100 0xF := by
  decide +kernel

theorem test_wit_dma_done : let s := (State.reset.setBit (pgDma 0) DMA_STAT_busy true).setFld64 (pgDma 0) DMA_CUR_lo DMA_CUR_hi crewBase
    s.low = false ∧ s.bit (pgDma 0) DMA_STAT_busy = true ∧ (s.dmaHead 0 crewBase none).2.2 = none ∧
    (dmaDesc (s.dmaHead 0 crewBase none).2.1).len = 0 ∧ (s.dmaHead 0 (crewBase + 1) none).2.2 = some (crewBase + 1) := by
  decide +kernel

/-- A chain of one fill descriptor in Crew SRAM: 8 bytes to 32 past it, last. -/
def tFill : State := { ((State.reset.setBit (pgDma 0) DMA_STAT_busy true).setFld64 (pgDma 0) DMA_CUR_lo DMA_CUR_hi crewBase) with
  crewSram := Memory.writeAll [] 0 (bytesLE 8 0x1122334455667788 ++ bytesLE 8 (crewBase + 32) ++ bytesLE 4 8 ++ bytesLE 4 7) }

theorem test_wit_dma_fill :
    let cur := tFill.fld64 (pgDma 0) DMA_CUR_lo DMA_CUR_hi
    let r := tFill.dmaHead 0 cur none
    let d := dmaDesc r.2.1
    tFill.low = false ∧ tFill.bit (pgDma 0) DMA_STAT_busy = true ∧ r.2.2 = none ∧ d.len = 8 ∧ d.flags = 7 ∧
    (r.1.dmaMove 0 d d.len none []).2 = none ∧
        (r.1.dmaMove 0 d d.len (some (crewBase + 36)) []).2 = some (1, crewBase + 36) := by
  decide +kernel

theorem test_wit_dma_abort : let a : Acc := ⟨0, true⟩
    Reaches tFill a ∧ Admitted (tFill.dmaPartial 0 4 []) a (pgDma 0) .dma 0 0x100 2 ∧ (2 : W32).getLsbD 0 = false ∧
    ((tFill.dmaPartial 0 4 []).stored a (pgDma 0) .dma 0 0x100 2).bit (pgDma 0) DMA_STAT_busy = true := by decide +kernel

theorem test_wit_dma_again : let a : Acc := ⟨0, true⟩
    Reaches tFill a ∧ Admitted tFill a (pgDma 0) .dma 0 0x100 1 ∧ (1 : W32).getLsbD 1 = false ∧
    (tFill.stored a (pgDma 0) .dma 0 0x100 1).bit (pgDma 0) DMA_STAT_busy = true := by decide +kernel

theorem test_wit_crew : let a : Acc := ⟨0, true⟩
    let s := { State.reset with upd := { State.reset.upd with held := true } }
    Reaches s a ∧ Admitted s a pgPrc .prc 0 0x100 1 ∧ getBits (s.word (pgPrc + 0x100)) 0 4 = 0 ∧
    (s.stored a pgPrc .prc 0 0x100 1).fld pgPrc CRW_CTL_run ≠ 0 ∧
    (s.stored a pgPrc .prc 0 0x100 0x100).fld pgPrc CRW_CTL_run = 0 ∧ (0x100 : W32).getLsbD 8 = true := by decide +kernel

/-- The link is up, and DRAM has its least size. -/
def tLink : State := (State.reset.setBit pgPcie PCIE_STAT_up true).setFld64 pgDrcG DRC_SIZE_lo DRC_SIZE_hi 0x800000000

theorem test_wit_pcie : State.reset.low = false ∧ State.reset.bit pgPcie PCIE_STAT_up = false ∧ tLink.low = false ∧
    tLink.bit pgPcie PCIE_STAT_up = true ∧ 0x3FFFFFC + opLen (.read 4 false) ≤ 0x4000000 ∧ 0x3FFFFFC % 4 + 4 ≤ 4 ∧
    opLen (.write [some 1, none, none, some 4]) = 4 ∧ opLen (.atomic 0 [0, 0, 0, 0]) = 4 ∧
    (let at_ := tLink.fld64 pgPcie PCIE_BAR2_base_lo PCIE_BAR2_base_hi + 0x1000
     at_ + opLen (.read 64 false) ≤ tLink.dramSize ∧
         dramRequestOk hostMaster at_ (.read 64 false) = true) := by decide +kernel

/-! ### FaultCommandsComplete -/

theorem test_wit_fatal : let s := { State.reset.setBit pgDev DEV_FWFATAL_set true with fltT := false, fltC := true }
    s.low = false ∧ s.anyFatal = true ∧ s.fltT = false ∧ s.svcLow = true := by decide +kernel

theorem test_wit_fatal_clear : let s := { State.reset.setBit pgPrc SM_STAT_lockstep_ok true with fltT := true, booted := true }
    s.anyFatal = false ∧ s.fltT = true ∧ s.booted = true ∧ s.svcLow = false := by decide +kernel

theorem test_wit_fwflt : let a : Acc := ⟨0, true⟩
    Reaches State.reset a ∧ Admitted State.reset a pgDev .dev 0 0x30C 1 ∧
        (State.reset.storeWord a pgDev .dev 0 0x310 1).ok = true ∧
    (State.reset.stored a pgDev .dev 0 0x310 1).bit pgDev DEV_FWFATAL_set = true ∧
    (State.reset.word (pgDev + 0x310)).getLsbD 0 = false := by decide +kernel

/-! ### RotationCommandsComplete -/

theorem test_wit_rotation : grpOk 6 0 = true ∧ grpOk 1 15 = true ∧ grpOk 2 1 = false ∧ State.reset.low = false ∧
    (State.reset.ro 0 0).st = 0 ∧ ((State.reset.putRot 1 15 { State.reset.ro 1 15 with st := 1 }).ro 1 15).st = 1 ∧
    ((State.reset.putRot 6 0 { State.reset.ro 6 0 with st := 2, outFrom := 0 }).ro 6 0).st = 2 ∧
    ((State.reset.putRot 0 15 { State.reset.ro 0 15 with st := 3, failed := true }).ro 0 15).failed = true := by decide +kernel

theorem test_wit_rotation_due : let s := { (State.reset.setLword (pgRot + 0x100) 1).setLword (pgRot + 0x110) 0xFFFFFFFF with fltT := false }
    s.lbit pgRot ROT_CTL_en = true ∧ s.lbit pgRot ROT_CLS_en 0 = true ∧ s.due 64 (s.lv pgRot ROT_CLS_per 0 * cueSec) = true ∧
    s.rotMayStart 0 = true ∧ s.checkHolds 0 = false ∧ s.swingFree 0 0 = true ∧ (s.ro 0 0).idleBad = false ∧
    s.nextUnit 0 0 = ([], some (0, false)) ∧
    (s.setTx 33 { s.tx 33 with swapReq := true }).nextUnit 1 1 = ([], some (1, true)) ∧
    s.nextUnit 2 0 = ([], some (0, false)) := by decide +kernel

/-- A step of a class in a given state of it, its unit 0. -/
def tStep (c st : Nat) : State := State.reset.putRot c 0 { State.reset.ro c 0 with st := st }

theorem test_wit_rotation_lanes :
    let s := (tStep 0 1).setBit (pgRxl 0) RXL_STAT_ho_busy true
    let t := (tStep 1 1).setBit (pgTxl 0) TXL_STAT_ho_busy true
    s.low = false ∧ (s.ro 0 0).st = 1 ∧ s.bit (pgRxl 0) RXL_STAT_ho_busy = true ∧
    t.low = false ∧ (t.ro 1 0).st = 1 ∧ t.bit (pgTxl 0) TXL_STAT_ho_busy = true ∧ t.txInstant 0 = true := by decide +kernel

theorem test_wit_rotation_back_lane :
    let s := { (tStep 0 3).setBit (pgRxl 0) RXL_STAT_ho_busy true with upt := 1000 }
    let u := s.rxHandover 0 true
    s.low = false ∧ (s.ro 0 0).st = 3 ∧ (s.ro 0 0).unit / 32 = 0 ∧ (s.ro 0 0).testEnd + s.laneFrame 0 0 < s.now + 16 ∧
    (u.ro 0 0).st = 3 ∧ u.bit (pgRxl 0) RXL_STAT_ho_busy = false ∧ (u.ro 0 0).unit = 0 := by decide +kernel

theorem test_wit_rotation_units : (tStep 3 1).unitInstant 3 0 0 false = true ∧ (tStep 4 3).unitInstant 4 0 0 true = true ∧
    (tStep 5 1).unitInstant 5 0 0 false = true ∧ (tStep 5 3).low = false ∧ ((tStep 5 3).ro 5 0).st = 3 ∧
        grpOk 5 0 = true := by
  decide +kernel

theorem test_wit_rotation_plane :
    let s := State.reset.putRot 2 0 { State.reset.ro 2 0 with st := 1, taps := List.range 64 }
    let v := State.reset.putRot 2 0 { State.reset.ro 2 0 with st := 3, taps := [] }
    (s.ro 2 0).st = 1 ∧ ((s.ro 2 0).taps ++ s.planeTaps 0 0).dedup.length = 64 ∧ (v.ro 2 0).st = 3 ∧
    (v.ro 2 0).taps.filter (fun t => !(v.planeTaps 0 (v.ro 2 0).testEnd).contains t) = [] := by decide +kernel

theorem test_wit_rotation_test : let s := { tStep 6 2 with upt := 20 * cueSec }
    s.low = false ∧ (s.ro 6 0).st = 2 ∧ (s.ro 6 0).outFrom + s.lv pgRot ROT_CLS_test 6 * cueSec < s.now + 16 ∧
    (s.ro 6 0).failed = false ∧ (s.ro 6 0).fix = none := by decide +kernel

/-! ### WearAndVoltageCommandsComplete -/

theorem test_wit_fuse : let a : Acc := ⟨0, true⟩
    Reaches State.reset a ∧ Admitted State.reset a pgWear .wear 0 0x10C 1 ∧ (1 : W32).getLsbD 0 = true ∧
    (State.reset.stored a pgWear .wear 0 0x10C 1).bit pgWear FUSE_PROG_busy = false ∧
    ({ State.reset with fuseNow := some 5 } : State).fuseNow = some 5 ∧ State.reset.fuses.length < 128 ∧
    ({ State.reset with fuseNow := some 5 } : State).low = false := by decide +kernel

theorem test_wit_avs : State.reset.due 3 cueSec = true ∧ State.reset.low = false ∧ State.reset.hours ≤ State.reset.hourTop ∧
    ({ State.reset with upt := 176400000 * 3600 * 1000 } : State).hourTop < ({ State.reset with upt := 176400000 * 3600 * 1000 } : State).hours ∧
    (let s := State.reset.setLword (pgAvs + 0x100) 0xFFFFFFFF
     s.lbit pgAvs AVS_CTL_en = true ∨ s.lbit pgAvs AVS_CTL_man = true) ∧
    (State.reset.hottest (List.replicate 24 200)).isSome = true := by decide +kernel

theorem test_wit_avs_sample : let s := State.reset.setLword (pgAvs + 0x100) 1
    s.low = false ∧ s.lbit pgAvs AVS_CTL_en = true ∧ s.lbit pgAvs AVS_CTL_man = false ∧ s.due 3 cueSec = true ∧
    (s.irq pgAvs IRQ_avs_emergency).lbit pgAvs AVS_CTL_man = false ∧
    ({ s with hourRecs := 127, upt := 176400000 * 3600 * 1000 } : State).hourRecs + 1 = 128 ∧
    State.reset.lbit pgAvs AVS_CTL_en = false ∧ State.reset.lbit pgAvs AVS_CTL_man = false ∧
    (List.replicate 24 (200 : Int)).length = 24 := by decide +kernel

/-! ### CommandsToTheStageManagerComplete -/

theorem test_wit_update_take : let s := (State.reset.setBit pgPrc CRW_SMDB_full true).setWord (pgPrc + 0x120) 0x10000005
    (s.takeWord).2 = some (BitVec.ofNat 32 (0x10 * 2 ^ 24 + 5)) ∧ (s.takeWord).1.updBusy = none ∧
    (s.takeWord).1.freshSlot 2 = none ∧ (s.takeWord).1.lcyBusy = false ∧ (s.takeWord).1.lcy ≠ 4 ∧
    (s.takeWord).1.held = false ∧ knownCode 0x16 = false ∧ knownCode 0x15 = true ∧ lcyAllowed 0 1 = true ∧
        lcyAllowed 4 4 = false ∧
    (s.takeWord).1.compatible (fun _ => 0) 1 = true := by decide +kernel

/-- Command word w waits in the doorbell, its request block in page 5 of DRAM, of the least size. -/
def tBell (w : W32) (block : List (Nat × List Byte)) : State :=
  let s := ((State.reset.setBit pgPrc CRW_SMDB_full true).setWord (pgPrc + 0x120) w).setFld64 pgDrcG DRC_SIZE_lo DRC_SIZE_hi 0x800000000
  { s with dram := block.foldl (fun m e => Memory.writeAll m (0x5000 + e.1) e.2) [] }

theorem test_wit_update_activate :
    let s := { tBell 0x11000005 [(0, [1])] with
      flash := (List.range 24).foldl (fun m i => Store.put flashErased (slotBase 1 1 + 68 + i) 0 m) [],
      slots := [(3, { st := 1, seq := 1 })] }
    let t := s.takeWord.1
    s.low = false ∧ s.takeWord.2 = some (BitVec.ofNat 32 (0x11 * 2 ^ 24 + 5)) ∧ t.loadLE 0x5000 1 = 1 ∧ t.updBusy = none ∧
    t.freshSlot 1 = some 1 ∧ t.compatible (t.image 1 1) 1 = true := by decide +kernel

theorem test_wit_update_schedule :
    let s := { (tBell 0x12000005 [(0, [100])]).setBit pgCue CUE_TOD_CTL_valid true with slots := [(4, { st := 1, seq := 1 })] }
    let t := s.takeWord.1
    s.low = false ∧ s.takeWord.2 = some (BitVec.ofNat 32 (0x12 * 2 ^ 24 + 5)) ∧ t.updBusy = none ∧ t.held = true ∧
    t.freshSlot 2 = some 0 ∧ t.loadLE 0x5000 6 = 100 ∧ t.loadLE 0x5008 8 = 0 ∧ t.todCues + cueSec ≤ 100 * cueSec := by
  decide +kernel

theorem test_wit_update_confirm :
    let s := ((tBell 0x13000005 [(0, [2])]).setFld pgUpd UPD_STAT_trial 2).setFld64 pgUpd UPD_DEADLINE_lo UPD_DEADLINE_hi 1000
    let t := s.takeWord.1
    s.low = false ∧ s.takeWord.2 = some (BitVec.ofNat 32 (0x13 * 2 ^ 24 + 5)) ∧ t.lcy ≠ 4 ∧ t.loadLE 0x5000 1 = 2 ∧
    t.mayConfirm 2 = true := by decide +kernel

theorem test_wit_update_cancel :
    let s := (tBell 0x14000005 []).setBit pgUpd UPD_STAT_sched true
    let t := s.takeWord.1
    s.low = false ∧ s.takeWord.2 = some (BitVec.ofNat 32 (0x14 * 2 ^ 24 + 5)) ∧ t.lcy ≠ 4 ∧
    t.bit pgUpd UPD_STAT_sched = true := by decide +kernel

theorem test_wit_settings :
    let s := tBell 0x15000005 [(0, bytesLE 8 0x6000), (8, bytesLE 4 4), (0x1000, [1, 2, 3, 4])]
    let t := s.takeWord.1
    s.low = false ∧ s.takeWord.2 = some (BitVec.ofNat 32 (0x15 * 2 ^ 24 + 5)) ∧ t.lcy ≠ 4 ∧
    t.bit pgLcy LCY_STATE_wiping = false ∧ t.loadLE 0x5008 4 ≤ setBankSize ∧
    t.inDram (t.loadLE 0x5000 8) (t.loadLE 0x5008 4) = true := by decide +kernel

theorem test_wit_lifecycle :
    let s := tBell 0x01000005 [(0, [1])]
    let t := s.takeWord.1
    s.low = false ∧ s.takeWord.2 = some (BitVec.ofNat 32 (0x01 * 2 ^ 24 + 5)) ∧ t.lcyBusy = false ∧
    lcyAllowed t.lcy (t.loadLE 0x5000 1) = true ∧ t.load 0x5010 16 = t.uid ∧
    t.loadLE 0x5020 8 = t.fld64 pgLcy LCY_NONCE_lo LCY_NONCE_hi ∧ t.lcySigned t.lcy (t.loadLE 0x5000 1) 0x5000 = true := by
  decide +kernel

theorem test_wit_unknown : let s := tBell 0x16000005 []
    s.low = false ∧ s.takeWord.2 = some (BitVec.ofNat 32 (0x16 * 2 ^ 24 + 5)) ∧ knownCode 0x16 = false := by decide +kernel

/-- An image of class S, of a header and no body, at 0x6000. -/
def tImage : State := tBell 0x10000005 [(0, bytesLE 8 0x6000), (8, bytesLE 4 512), (0x1000, [0x57, 0x52, 0x42, 0x4F, 1, 1])]

/-- The key's hash, the hashes and the signature are answers of the configuration, here those of an image that is in order. -/
theorem test_wit_stage (hv : Config.vendorHash = List.replicate 48 0) (hs : ∀ l, Config.sha384 l = List.replicate 48 0)
    (he : ∀ a b c, Config.ecdsaOk a b c = true) :
    let t := (tImage.setFld pgLcy LCY_HWTYPE 0).takeWord.1
    let m : Image := fun o => Memory.read t.dram (t.loadLE 0x5000 8 + o)
    t.imagePasses m (m 4).toNat (min (t.loadLE 0x5008 4) (slotRoom (m 4).toNat)) = true := by
  intro t m
  simp only [State.imagePasses, State.keyHash, hs, he, hv]
  decide +kernel

theorem test_wit_stage_fits :
    let s := tImage.setFld pgLcy LCY_HWTYPE 0
    let t := s.takeWord.1
    let m : Image := fun o => Memory.read t.dram (t.loadLE 0x5000 8 + o)
    s.low = false ∧ s.takeWord.2 = some (BitVec.ofNat 32 (0x10 * 2 ^ 24 + 5)) ∧ t.updBusy = none ∧ (m 4).toNat = 1 ∧
    t.compatible m 1 = true := by decide +kernel

/-! ### UpdateTrialsComplete -/

theorem test_wit_boot : State.reset.coldStart.bootTimes {} = true ∧ State.reset.booted = false ∧
    ({ State.reset with booted := true } : State).low = false := by decide +kernel

theorem test_wit_boot_write : let a : Acc := ⟨0, true⟩
    Reaches State.reset a ∧ Admitted State.reset a pgBoot .boot 0 0x100 1 ∧ Admitted State.reset a pgUpd .upd 0 0x188 1 ∧
    (1 : W32).getLsbD 0 = true := by decide +kernel

theorem test_wit_class_m : let s := (State.reset.setBit pgUpd UPD_STAT_sched true).setBit pgUpd UPD_STAT_shadow true
    s.low = false ∧ s.grpNext (s.fld pgUpd UPD_CFG_group) s.now < s.now + 16 ∧ s.bit pgUpd UPD_STAT_sched = true ∧
    s.bit pgUpd UPD_STAT_shadow = true ∧ s.upd.target ≤ s.todCuesAt (s.grpNext (s.fld pgUpd UPD_CFG_group) s.now) := by
  decide +kernel

theorem test_wit_class_m_back : let s := { State.reset.setFld pgUpd UPD_STAT_trial 2 with upt := 176400000 }
    s.low = false ∧ s.grpNext (s.fld pgUpd UPD_CFG_group) s.now < s.now + 16 ∧ s.fld pgUpd UPD_STAT_trial = 2 ∧
    s.fld64 pgUpd UPD_DEADLINE_lo UPD_DEADLINE_hi < s.grpNext (s.fld pgUpd UPD_CFG_group) s.now := by decide +kernel

theorem test_wit_class_s : let a : Acc := ⟨0, true⟩
    let s := (State.reset.setFld pgUpd UPD_STAT_trial 1).setFld64 pgUpd UPD_DEADLINE_lo UPD_DEADLINE_hi 1000
    Reaches s a ∧ Admitted s a pgUpd .upd 0 0x188 1 ∧
        (s.stored a pgUpd .upd 0 0x188 1).mayConfirm 1 = true := by decide +kernel

theorem test_wit_trial : (State.reset.setFld pgUpd UPD_STAT_trial 1).fld pgUpd UPD_STAT_trial = 1 ∧
    (State.reset.setFld pgUpd UPD_STAT_trial 1).upd.held = false ∧ State.reset.bit pgUpd UPD_STAT_pause = false ∧
    State.reset.fld64 pgUpd UPD_DEADLINE_lo UPD_DEADLINE_hi < State.reset.now + 16 ∧
    (State.reset.setBit pgUpd UPD_STAT_pause true).bit pgUpd UPD_STAT_pause = true ∧
        State.reset.upd.back = false := by decide +kernel

/-! ### UnmappedAccessIsLogged -/

theorem test_wit_unmapped : Reaches State.reset ⟨8, false⟩ ∧ Reaches State.reset ⟨1, true⟩ ∧ pageOf 0x1000 = none ∧
    pageOf (pgSel + 0xFFC) = some (.refSel, 0) ∧ definedAt .refSel ((pgSel + 0xFFC) % 0x1000 / 4 * 4) = false := by decide

/-! ### BurstsThatBreakTheRulesAreRefused -/

theorem test_wit_burst_rules : (1 : Nat) ≠ hostMaster ∧ State.reset.issues 1 = true ∧ hasPath 1 (targetOf 0xFF0) = true ∧
    4096 < 0xFF0 / 16 * 16 % 4096 + 2 * 16 ∧ hasPath 1 (targetOf regWindow) = true ∧ targetOf regWindow = .regs ∧
    ¬4096 < 0 / 16 * 16 % 4096 + 64 * 16 ∧ targetOf 0 = .dram := by decide

/-! ### DramAddressMapIsOneToOne -/

theorem test_wit_dram_place : placeOf (addrOf ⟨7, 31, 98303, 63⟩) = ⟨7, 31, 98303, 63⟩ ∧
    addrOf ⟨7, 31, 98303, 63⟩ < 0x3000000000 ∧
    scrubAddr 7 0 = 7 * 128 := by decide

end Sys2Proof.Tests
end

section
/-!
The commands of the cue clock (R23 to R39): what a running device answers, how a TICK moves uptime and time of day, and what a
requested step comes to.
-/
namespace Sys2Proof.Machine

/-! ### Commands on a device that runs, accesses by a master that reaches the registers -/

theorem run_of_running {s : State} (f : State → State) (hlow : s.low = false) : run s f = .next (f s) := by
  simp [run, hlow]

theorem State.viaPath_of_reaches {s : State} {a : Acc} (addr : Nat) (f : State → State) (h : Reaches s a) :
    s.viaPath a addr f = (f s).taken a := by
  obtain ⟨_, hissues, hpath⟩ := h
  simp [viaPath, hissues, hpath]

theorem State.viaRead_of_reaches {s : State} {a : Acc} (addr : Nat) (f : State → State × W32) (h : Reaches s a) :
    s.viaRead a addr f = (f s).1.answerWord a.m (f s).2 := by
  obtain ⟨_, hissues, hpath⟩ := h
  simp [viaRead, hissues, hpath]

/-! ### Reads and writes of the cue clock's registers -/

theorem exec_uptimeLatchRead {s : State} {a : Acc} (h : Reaches s a) :
    exec (.uptimeLatchRead a) s = .next ((s.latchUpt a.m).1.answerWord a.m (s.latchUpt a.m).2) := by
  show execUptimeLatchRead a s = _
  rw [execUptimeLatchRead, run_of_running _ h.1, State.viaRead_of_reaches _ _ h]

theorem exec_todLatchRead {s : State} {a : Acc} (h : Reaches s a) :
    exec (.todLatchRead a) s = .next ((s.latchTod a.m).1.answerWord a.m (s.latchTod a.m).2) := by
  show execTodLatchRead a s = _
  rw [execTodLatchRead, run_of_running _ h.1, State.viaRead_of_reaches _ _ h]

theorem exec_todStepRequest {s : State} {a : Acc} (w : W32) (h : Reaches s a) :
    exec (.todStepRequest a w) s = .next ((s.cueWrite a 0x130 w none).taken a) := by
  show execTodStepRequest a w s = _
  rw [execTodStepRequest, run_of_running _ h.1, State.viaPath_of_reaches _ _ h]

theorem exec_todSteerWrite {s : State} {a : Acc} (w : W32) (h : Reaches s a) :
    exec (.todSteerWrite a w false) s = .next ((s.cueWrite a 0x134 w none).taken a) := by
  show execTodSteerWrite a w false s = _
  rw [execTodSteerWrite, run_of_running _ h.1, State.viaPath_of_reaches _ _ h, if_neg Bool.false_ne_true]

/-- A cue clock register that takes the whole word acts on it (R28, R31). -/
theorem State.cueWrite_of_admitted {s : State} {a : Acc} {o : Nat} {w : W32} (h : Admitted s a pgCue .cue 0 o w) :
    s.cueWrite a o w none = (s.stored a pgCue .cue 0 o w).cueHook o w := by
  obtain ⟨hok, heff⟩ := h
  simp only [cueWrite, hok, heff, if_true]

theorem State.cueHook_step (s : State) {w : W32} (hstep : w.getLsbD 1 = true) :
    s.cueHook 0x130 w = { s with tod := { s.tod with stepReq := true } } := by
  simp only [cueHook, hstep, if_true]

theorem State.cueHook_steer (s : State) (w : W32) :
    s.cueHook 0x134 w = (s.setInc (s.fldS pgCue CUE_TOD_STEER_ppt)).logTod := by
  rw [cueHook, if_neg (by decide), if_pos rfl]

/-! ### What a TICK does beside the clocks -/

theorem exec_todTick {s : State} (hlow : s.low = false) :
    exec .todTick s = .next (s.tick.writeAgain.fullTick s.now) := by
  show execTodTick s = _
  rw [execTodTick, run_of_running _ hlow]

theorem State.writeAgain_of_nil {s : State} (h : s.again = []) : s.writeAgain = s := by
  rw [writeAgain, h, List.foldl_nil, ← h]

theorem State.fullTick_of_nil {s : State} (was : Nat) (h : s.dch = []) : s.fullTick was = s := by
  rw [fullTick, h, List.foldl_nil]

/-! ### Time of day as one number -/

theorem Tod.total_congr {t u : Tod} (hsec : t.sec = u.sec) (hcos : t.cos = u.cos) (hfrac : t.frac = u.frac) :
    t.total = u.total := by
  rw [total, total, hsec, hcos, hfrac]

theorem Tod.total_counted (t : Tod) (m q : Nat) : ({ t with steered := m, quarter := q } : Tod).total = t.total :=
  total_congr rfl rfl rfl

/-- Time of day holds every total below 2^48 seconds (R25). -/
theorem Tod.total_put (t : Tod) {n : Nat} (h : n < 2 ^ 48 * cueSec * 2 ^ 40) : (t.put n).total = n := by
  have hcos : n / 2 ^ 40 % cueSec < 2 ^ 34 := (Nat.mod_lt _ (by decide)).trans (by decide)
  have hsec : n / 2 ^ 40 / cueSec < 2 ^ 48 := Nat.div_lt_of_lt_mul (Nat.div_lt_of_lt_mul (by
    rwa [Nat.mul_comm (2 ^ 40), Nat.mul_comm cueSec]))
  simp only [total, put, BitVec.toNat_ofNat, Nat.mod_eq_of_lt hsec, Nat.mod_eq_of_lt hcos, Nat.mod_mod, Nat.div_add_mod']

/-- By how much time of day moves at a TICK (R26): the increment, or 12.25 times it on the bypass clock (R30). -/
def State.todGain (s : State) : Nat := if s.cueByp then (49 * s.inc + s.tod.quarter) / 4 else s.inc

theorem State.advance_eq (s : State) : s.advance =
    { s with tod := { s.tod.put (s.tod.total + s.todGain) with
      steered := s.tod.steered + s.todGain
      quarter := if s.cueByp then (49 * s.inc + s.tod.quarter) % 4 else s.tod.quarter } } := by
  cases h : s.cueByp <;> simp [advance, todGain, h]

theorem State.advance_total {s : State} (h : s.tod.total + s.todGain < 2 ^ 48 * cueSec * 2 ^ 40) :
    s.advance.tod.total = s.tod.total + s.todGain := by
  simp only [advance_eq, Tod.total_counted, Tod.total_put _ h]

theorem State.advance_cos_lt (s : State) : s.advance.tod.cos.toNat < cueSec := by
  rw [advance_eq]
  exact s.tod.put_cos _

/-- A new span enters the log of time of day; the clock itself and the rest of the state stay. -/
theorem State.spanned_eq (s : State) : ∃ l, s.spanned = { s with tod := { s.tod with log := l } } := by
  unfold spanned
  split
  · exact ⟨s.tod.log, rfl⟩
  · exact ⟨_, rfl⟩

theorem State.spanned_total (s : State) : s.spanned.tod.total = s.tod.total := by
  obtain ⟨l, h⟩ := s.spanned_eq
  rw [h]
  exact Tod.total_congr rfl rfl rfl

theorem State.spanned_cos (s : State) : s.spanned.tod.cos = s.tod.cos := by
  obtain ⟨l, h⟩ := s.spanned_eq
  rw [h]

/-- The advance of time of day changes nothing else. -/
theorem State.advance_spanned_frame (s : State) : ∃ t, s.advance.spanned = { s with tod := t } := by
  obtain ⟨l, h⟩ := s.advance.spanned_eq
  exact ⟨{ s.advance.tod with log := l }, by rw [h, advance_eq]⟩

@[simp] theorem State.advance_spanned_again (s : State) : s.advance.spanned.again = s.again := by
  obtain ⟨t, h⟩ := s.advance_spanned_frame
  rw [h]

@[simp] theorem State.advance_spanned_dch (s : State) : s.advance.spanned.dch = s.dch := by
  obtain ⟨t, h⟩ := s.advance_spanned_frame
  rw [h]

/-! ### The TICK: none, a quiet one, one with a requested step -/

@[simp] theorem State.uptick_tod (s : State) : s.uptick.tod = s.tod := by rw [uptick]
@[simp] theorem State.uptick_regs (s : State) : s.uptick.regs = s.regs := by rw [uptick]
@[simp] theorem State.uptick_cueByp (s : State) : s.uptick.cueByp = s.cueByp := by rw [uptick]
@[simp] theorem State.uptick_again (s : State) : s.uptick.again = s.again := by rw [uptick]
@[simp] theorem State.uptick_dch (s : State) : s.uptick.dch = s.dch := by rw [uptick]

theorem State.uptick_upt (s : State) : s.uptick.upt = s.upt + (if s.cueByp then 196 else 16) := by
  rw [uptick, tickLen]
  split <;> rfl

theorem State.uptick_todGain (s : State) : s.uptick.todGain = s.todGain := by
  simp only [todGain, inc, fld, word, uptick_cueByp, uptick_regs, uptick_tod]

theorem State.tick_of_stopped {s : State} (hrun : s.cueRun = false) : s.tick = s := by
  rw [tick, hrun, if_neg Bool.false_ne_true]

theorem State.tick_of_quiet {s : State} (hrun : s.cueRun = true) (hreq : s.tod.stepReq = false) (hservo : s.tod.servoStep = none) :
    s.tick = s.uptick.advance.spanned := by
  have hnone : s.uptick.pendingStep = (s.uptick, none) := by simp [pendingStep, hreq, hservo]
  simp only [tick, hrun, hnone, jumped, if_true]

/-- What a requested step is judged by is in the registers: the offset and whether time of day is Held (R27, R28). -/
theorem State.stepOfs_congr {s t : State} (h : t.regs = s.regs) : t.stepOfs = s.stepOfs := by
  simp only [stepOfs, fld64, fld, word, h]

theorem State.held_congr {s t : State} (h : t.regs = s.regs) : t.held = s.held := by
  simp only [held, bit, fld, word, h]

/-- The state in which a requested step is judged: the uptime of the new TICK, the request taken up (R28). -/
def State.stepTaken (s : State) : State := { s.uptick with tod := { s.tod with stepReq := false } }

@[simp] theorem State.stepTaken_regs (s : State) : s.stepTaken.regs = s.regs := by rw [stepTaken, uptick_regs]
@[simp] theorem State.stepTaken_again (s : State) : s.stepTaken.again = s.again := by rw [stepTaken, uptick_again]
@[simp] theorem State.stepTaken_dch (s : State) : s.stepTaken.dch = s.dch := by rw [stepTaken, uptick_dch]

theorem State.stepTaken_total (s : State) : s.stepTaken.tod.total = s.tod.total := Tod.total_congr rfl rfl rfl

theorem State.pendingStep_of_step {s : State} (hreq : s.tod.stepReq = true) (hservo : s.tod.servoStep = none) :
    s.uptick.pendingStep = s.stepTaken.applyStep s.stepOfs := by
  rw [← stepOfs_congr s.stepTaken_regs]
  simp only [pendingStep, uptick_tod, hreq, hservo, Option.isSome_none, State.when, Bool.false_eq_true, if_true, if_false,
    stepTaken]

theorem exec_todTick_of_step {s : State} (hlow : s.low = false) (hrun : s.cueRun = true) (hreq : s.tod.stepReq = true)
    (hservo : s.tod.servoStep = none) {t : State} {d : Option Int} (h : s.stepTaken.applyStep s.stepOfs = (t, d)) :
    exec .todTick s = .next ((t.advance.spanned.jumped d).writeAgain.fullTick s.now) := by
  rw [exec_todTick hlow, State.tick, if_pos hrun, State.pendingStep_of_step hreq hservo, h]

/-- The state after a step to total n was applied: time of day there, CUE_LASTSTEP the uptime (R28). -/
def State.steppedTo (s : State) (n : Int) : State :=
  ({ s with tod := s.tod.put n.toNat } : State).setFld64 pgCue CUE_LASTSTEP_lo CUE_LASTSTEP_hi s.now

theorem State.applyStep_of_outside {s : State} {d n : Int} (hn : s.tod.total + d = n)
    (h : n < 0 ∨ 2 ^ 48 * cueSec * 2 ^ 40 ≤ n) :
    s.applyStep d = ((s.bump pgCue CUE_STEP_REFUSED_n).irq pgCue IRQ_cue_step_refused, none) := by
  simp only [applyStep, hn, if_pos h]

theorem State.applyStep_of_inside {s : State} {d n : Int} (hn : s.tod.total + d = n) (h0 : 0 ≤ n)
    (h1 : n < 2 ^ 48 * cueSec * 2 ^ 40) : s.applyStep d =
      if s.held then (((s.steppedTo n).bump pgCue CUE_DISC_COUNT_n).irq pgCue IRQ_cue_discontinuity, some d)
      else (((s.steppedTo n).setBit pgCue CUE_TOD_CTL_valid true).irq pgCue IRQ_cue_acquired, some 0) := by
  have hin : ¬(n < 0 ∨ 2 ^ 48 * cueSec * 2 ^ 40 ≤ n) := by
    rintro (h | h)
    · exact absurd h0 (not_le.2 h)
    · exact absurd h1 (not_lt.2 h)
  simp only [applyStep, hn, if_neg hin, steppedTo]
  rfl

/-! ### The statements -/

/-- Settles O14: a quiet TICK is uptime's advance and time of day's; only the log of spans comes with them. -/
theorem tickAdvancesClocks : Obligations.TickAdvancesClocks := by
  intro s hlow hrun hdch hagain hreq hservo d hd
  have hexec : exec .todTick s = .next s.uptick.advance.spanned := by
    rw [exec_todTick hlow, State.tick_of_quiet hrun hreq hservo, State.writeAgain_of_nil (by simpa using hagain),
      State.fullTick_of_nil _ (by simpa using hdch)]
  have hgain : s.uptick.todGain = d := s.uptick_todGain
  obtain ⟨t, hframe⟩ := s.uptick.advance_spanned_frame
  refine ⟨_, hexec, ?_, ?_, ?_, ?_⟩
  · rw [hframe]
    exact s.uptick_upt
  · rw [State.spanned_total, State.advance_total (by rwa [State.uptick_tod, hgain]), State.uptick_tod, hgain]
  · rw [State.spanned_cos]
    exact s.uptick.advance_cos_lt
  · rw [hframe, State.uptick]

/-- Settles O15: the offset registers spell the step; it is refused outside the range of seconds, else a discontinuity while Held
and the acquisition while Unset. -/
theorem stepsOfTimeOfDay : Obligations.StepsOfTimeOfDay := by
  intro s hlow hrun hdch hagain hreq hservo u n
  have hn : s.stepTaken.tod.total + s.stepOfs = n := by
    rw [State.stepTaken_total, State.stepOfs, ← Int.add_assoc]
  have hd : s.stepOfs = n - s.tod.total := by
    rw [← hn, State.stepTaken_total, add_sub_cancel_left]
  have hheld : s.stepTaken.held = s.held := State.held_congr s.stepTaken_regs
  refine ⟨fun hout => ?_, fun h0 h1 => ⟨fun hh => ?_, fun hh => ?_⟩⟩
  · rw [exec_todTick_of_step hlow hrun hreq hservo (State.applyStep_of_outside hn hout), State.jumped,
      State.writeAgain_of_nil (by simpa using hagain), State.fullTick_of_nil _ (by simpa using hdch)]
    rfl
  · have happly := State.applyStep_of_inside hn h0 h1
    rw [hheld, if_pos hh, hd] at happly
    exact exec_todTick_of_step hlow hrun hreq hservo (hd ▸ happly)
  · have happly := State.applyStep_of_inside hn h0 h1
    rw [hheld, hh, if_neg Bool.false_ne_true] at happly
    exact exec_todTick_of_step hlow hrun hreq hservo happly

/-- Settles O13: each command is its register's act, on a device that runs and for a master that reaches the register. -/
theorem cueCommandsComplete : Obligations.CueCommandsComplete := by
  refine ⟨fun s a h => ?_, fun s a h => ?_, fun s a w h hadm hstep => ?_, fun s a w h hadm => ?_,
    fun s hlow hrun hdch hagain => ?_⟩
  · rw [exec_uptimeLatchRead h, State.latchUpt]
  · simp only [exec_todLatchRead h, State.latchTod, State.setMreg_upt]
  · rw [exec_todStepRequest w h, State.cueWrite_of_admitted hadm, State.cueHook_step _ hstep]
  · rw [exec_todSteerWrite w h, State.cueWrite_of_admitted hadm, State.cueHook_steer]
  · rw [exec_todTick hlow, State.tick_of_stopped hrun, State.writeAgain_of_nil hagain, State.fullTick_of_nil _ hdch]

end Sys2Proof.Machine
end

section
/-!
The PLLs (R317 to R326): when one locks and when it loses lock, the move of its domains to bypass and back, and its phase steps.
-/
namespace Sys2Proof.Machine

/-! ### Fields of register words -/

/-- A field reads back the low bits of what was written to it. -/
theorem getBits_setBits (x : W32) {lo w : Nat} (v : Nat) (h : lo + w ≤ 32) : getBits (setBits x lo w v) lo w = v % 2 ^ w := by
  refine Nat.eq_of_testBit_eq fun i => ?_
  rw [getBits, Nat.testBit_mod_two_pow, Nat.testBit_mod_two_pow, BitVec.testBit_toNat, BitVec.getLsbD_ushiftRight,
    getLsbD_setBits]
  by_cases hi : i < w
  · rw [if_pos (by omega), Nat.add_sub_cancel_left]
  · simp [hi]

/-- A one-bit field reads back what was written to it. -/
theorem State.bit_setBit (s : State) (p : Nat) {f : Fld} (v : Bool) (i : Nat) (hw : f.w = 1) (hlo : f.lo < 32) :
    (s.setBit p f v i).bit p f i = v := by
  rw [bit, fld, setBit, word_setFld, if_pos rfl, getBits_setBits _ _ (by omega), hw]
  cases v <;> rfl

/-- A field reads as before where a word beside it was written. -/
theorem State.bit_setWord_of_ne (s : State) {p a : Nat} {f : Fld} {i : Nat} (v : W32) (h : p + f.at i ≠ a) :
    (s.setWord a v).bit p f i = s.bit p f i := by
  simp only [bit, fld, word_setWord, if_neg h]

/-! ### Lock (R322) -/

/-- The measurement that a PLL reports makes it lock. -/
def State.PllLocks (s : State) (n : Nat) (got : PllMeasure) : Prop :=
  s.bit (pgPll n) PLL_STAT_lock = false ∧ (mediaSynth n = true → s.onMultiple pitPer = true) ∧
    got.err.toInt.natAbs ≤ s.lv (pgPll n) PLL_LOCK_win * 256 ∧ s.lv (pgPll n) PLL_LOCK_n ≤ got.cycles

/-- The measurement that a PLL reports makes it lose lock. -/
def State.PllLoses (s : State) (n : Nat) (got : PllMeasure) : Prop :=
  s.bit (pgPll n) PLL_STAT_lock = true ∧ (mediaSynth n = true → s.onMultiple pitPer = true) ∧
    s.lv (pgPll n) PLL_LOCK_win * 256 < got.err.toInt.natAbs ∧ s.lv (pgPll n) PLL_LOCK_nloss ≤ got.cycles

theorem State.pllMeasures_iff (s : State) (n : Nat) :
    s.pllMeasures n = true ↔ (mediaSynth n = true → s.onMultiple pitPer = true) := by
  cases h : mediaSynth n <;> simp [pllMeasures, h]

theorem State.pllWithin_iff (s : State) (n : Nat) (err : W32) :
    s.pllWithin n err = true ↔ err.toInt.natAbs ≤ s.lv (pgPll n) PLL_LOCK_win * 256 := by
  simp [pllWithin]

theorem State.pllLocks_iff (s : State) (n : Nat) (got : PllMeasure) : s.PllLocks n got ↔
    ¬(s.bit (pgPll n) PLL_STAT_lock ∨ !s.pllMeasures n ∨ !s.pllWithin n got.err ∨
      got.cycles < s.lv (pgPll n) PLL_LOCK_n) := by
  simp only [PllLocks, ← pllMeasures_iff, ← pllWithin_iff, not_or, not_lt, Bool.not_eq_true', Bool.not_eq_true,
    Bool.not_eq_false]

theorem State.pllLoses_iff (s : State) (n : Nat) (got : PllMeasure) : s.PllLoses n got ↔
    s.bit (pgPll n) PLL_STAT_lock ∧ s.pllMeasures n ∧ !s.pllWithin n got.err ∧
      s.lv (pgPll n) PLL_LOCK_nloss ≤ got.cycles := by
  rw [PllLoses, ← pllMeasures_iff, ← not_le, ← pllWithin_iff, Bool.not_eq_true, Bool.not_eq_true']

theorem exec_pllLock_of_not {s : State} {n : Fin 26} {got : PllMeasure} (hlow : s.low = false) (h : ¬s.PllLocks n got) :
    exec (.pllLock n got) s = .next s := by
  show execPllLock n got s = _
  rw [State.pllLocks_iff, not_not] at h
  rw [execPllLock, run_of_running _ hlow, if_pos h]

theorem exec_pllLock {s : State} {n : Fin 26} {got : PllMeasure} (hlow : s.low = false) (h : s.PllLocks n got) :
    exec (.pllLock n got) s = .next ((s.setWord (pgPll n + 0x114) got.err).pllLocked n) := by
  show execPllLock n got s = _
  rw [execPllLock, run_of_running _ hlow, if_neg ((s.pllLocks_iff n got).1 h)]

/-- The state of a PLL that locks but for the start of uptime (R322, R324, R325). -/
def State.lockNoted (s : State) (n : Nat) : State :=
  let v := ((s.setBit (pgPll n) PLL_STAT_lock true).clkBit 0x140 n true).irq (pgPll n) IRQ_pll_lock
  v.setPl n { s.pl n with
    locked1 := true
    unfreeze := v.bit (pgPll n) PLL_STAT_frozen
    wantReturn := (s.pl n).wantReturn || (bypassCapable n && !(s.pl n).locked1 && !v.bit pgClk CLK_CTL_hold_byp) }

theorem State.pllLocked_of_unlocked {s : State} {n : Nat} (h : s.bit (pgPll n) PLL_STAT_lock = false) :
    s.pllLocked n = if n = 0 then { s.lockNoted n with cueRun := true } else s.lockNoted n := by
  rw [pllLocked, h, if_neg Bool.false_ne_true]
  rfl

/-! ### Loss of lock (R322, R323, R325, R317) -/

theorem exec_pllLockLoss_of_not {s : State} {n : Fin 26} {got : PllMeasure} (hlow : s.low = false) (h : ¬s.PllLoses n got) :
    exec (.pllLockLoss n got) s = .next s := by
  show execPllLockLoss n got s = _
  rw [State.pllLoses_iff] at h
  rw [execPllLockLoss, run_of_running _ hlow, if_neg h]

theorem exec_pllLockLoss {s : State} {n : Fin 26} {got : PllMeasure} (hlow : s.low = false) (h : s.PllLoses n got) :
    exec (.pllLockLoss n got) s = .next (((s.setWord (pgPll n + 0x114) got.err).pllLost n).linksLost n) := by
  show execPllLockLoss n got s = _
  rw [execPllLockLoss, run_of_running _ hlow, if_pos ((s.pllLoses_iff n got).1 h)]

/-- The timing unit runs from the crystal, with IRQ bypass if it did not yet (R30). -/
def State.cueFromCrystal (s : State) : State :=
  if s.cueByp then s else { s with cueByp := true }.irq pgCue IRQ_cue_bypass

theorem State.cueFromCrystal_eq (s : State) :
    (if !s.cueByp then { s with cueByp := true }.irq pgCue IRQ_cue_bypass else s) = s.cueFromCrystal := by
  cases h : s.cueByp <;> simp [cueFromCrystal, h]

/-- What the loss of lock of any PLL shows, counts and reports (R322). -/
def State.lossNoted (s : State) (n : Nat) : State :=
  let s := (s.setBit (pgPll n) PLL_STAT_lock false).clkBit 0x140 n false
  let s := ((s.bump (pgPll n) PLL_LOSS_n).bump pgClk CLK_LOCKLOSS_n).irq (pgPll n) IRQ_pll_lock_loss
  (s.irq pgClk IRQ_clkCtl_lock_loss).err (pgPll n) 0x0C0

/-- A bypass-capable PLL starts to move its domains (R323). -/
def State.lossMoves (s : State) (n : Nat) : State :=
  s.setPl n { s.pl n with
    lossOpen := true
    wantReturn := false
    moving := (s.pl n).moving || !s.bit (pgPll n) PLL_STAT_bypass }

theorem bypassCapable_iff (n : Nat) : bypassCapable n = true ↔ n ≤ 10 := decide_eq_true_iff

theorem mediaSynth_iff (n : Nat) : mediaSynth n = true ↔ 11 ≤ n ∧ n ≤ 19 := by
  simp only [mediaSynth, Bool.and_eq_true, decide_eq_true_eq]

theorem State.pllLost_of_cue {s : State} {n : Nat} (h : n = 0) : s.pllLost n = ((s.lossNoted n).lossMoves n).cueFromCrystal := by
  have hcap : bypassCapable n = true := (bypassCapable_iff n).2 (by omega)
  simp only [pllLost, hcap, eq_true h, if_true, true_and]
  exact cueFromCrystal_eq _

theorem State.pllLost_of_bypassCapable {s : State} {n : Nat} (h0 : n ≠ 0) (h : n ≤ 10) :
    s.pllLost n = (s.lossNoted n).lossMoves n := by
  have hcap : bypassCapable n = true := (bypassCapable_iff n).2 h
  simp only [pllLost, hcap, h0, if_true, false_and, if_false]
  rfl

theorem State.pllLost_of_mediaSynth {s : State} {n : Nat} (h11 : 11 ≤ n) (h19 : n ≤ 19) : s.pllLost n =
    (((s.lossNoted n).setPl n { (s.lossNoted n).pl n with lossOpen := true, unfreeze := false }).setBit (pgPll n) PLL_STAT_frozen
      true).clkBit 0x144 n true := by
  have hcap : ¬bypassCapable n = true := by
    rw [bypassCapable_iff]
    omega
  have hmedia : mediaSynth n = true := (mediaSynth_iff n).2 ⟨h11, h19⟩
  simp only [pllLost, hcap, hmedia, Bool.false_eq_true, if_true, if_false]
  rfl

theorem State.pllLost_of_link {s : State} {n : Nat} (h : 20 ≤ n) : s.pllLost n = s.lossNoted n := by
  have hcap : ¬bypassCapable n = true := by
    rw [bypassCapable_iff]
    omega
  have hmedia : ¬mediaSynth n = true := by
    rw [mediaSynth_iff]
    omega
  simp only [pllLost, hcap, hmedia, Bool.false_eq_true, if_false]
  rfl

theorem State.linksLost_of_no_link (s : State) {n : Nat} (h : n < 20) : s.linksLost n = s := by
  rw [linksLost, if_neg (by omega), if_neg (by omega), if_neg (by omega)]

/-! ### Bypass and the return from it (R323, R324, R385) -/

theorem exec_pllBypassDone {s : State} (n : Fin 26) (hlow : s.low = false) : exec (.pllBypassDone n) s = .next
    (if (s.pl n).moving ∧ 3 ≤ n.val ∧ n.val ≤ 10 then (s.pllBypassed n).chLost (n.val - 3) else s.pllBypassed n) := by
  show execPllBypassDone n s = _
  rw [execPllBypassDone, run_of_running _ hlow]

theorem State.pllBypassed_of_still {s : State} {n : Nat} (h : (s.pl n).moving = false) : s.pllBypassed n = s := by
  simp only [pllBypassed, h, Bool.false_eq_true, if_false]

/-- The domains of a PLL have moved to bypass (R323). -/
def State.bypassNoted (s : State) (n : Nat) : State :=
  let u := (s.setPl n { s.pl n with moving := false }).setBit (pgPll n) PLL_STAT_bypass true
  ((u.clkBit 0x144 n true).irq (pgPll n) IRQ_pll_bypass).irq pgClk IRQ_clkCtl_bypass

theorem State.pllBypassed_of_cue {s : State} {n : Nat} (h : (s.pl n).moving = true) (h0 : n = 0) :
    s.pllBypassed n = (s.bypassNoted n).cueFromCrystal := by
  simp only [pllBypassed, h, eq_true h0, if_true, true_and]
  exact cueFromCrystal_eq _

theorem State.pllBypassed_of_ne {s : State} {n : Nat} (h : (s.pl n).moving = true) (h0 : n ≠ 0) :
    s.pllBypassed n = s.bypassNoted n := by
  simp only [pllBypassed, h, h0, if_true, false_and, if_false]
  rfl

theorem exec_pllBypassReturn {s : State} (n : Fin 26) (hlow : s.low = false) : exec (.pllBypassReturn n) s = .next
    (if s.bit (pgPll n) PLL_STAT_bypass ∧ !(s.pllReturned n).bit (pgPll n) PLL_STAT_bypass ∧ 3 ≤ n.val ∧ n.val ≤ 10
      then (s.pllReturned n).chBack (n.val - 3) else s.pllReturned n) := by
  show execPllBypassReturn n s = _
  rw [execPllBypassReturn, run_of_running _ hlow]

/-- A PLL returns: a return is wanted, the PLL is locked and bypass is not held (R324). -/
def State.PllReturns (s : State) (n : Nat) : Prop :=
  (s.pl n).wantReturn = true ∧ s.bit (pgPll n) PLL_STAT_lock = true ∧ s.bit pgClk CLK_CTL_hold_byp = false

/-- The state of a PLL whose domains have returned, but for the timing unit's clock (R324). -/
def State.returnNoted (s : State) (n : Nat) : State :=
  ((s.setPl n { s.pl n with wantReturn := false, lossOpen := false, moving := false }).setBit (pgPll n) PLL_STAT_bypass
    false).clkBit 0x144 n false

theorem State.pllReturned_of_not {s : State} {n : Nat} (h : ¬s.PllReturns n) : s.pllReturned n = s := by
  have hc : ¬((s.pl n).wantReturn && s.bit (pgPll n) PLL_STAT_lock && !s.bit pgClk CLK_CTL_hold_byp) = true := by
    simpa only [PllReturns, Bool.and_eq_true, Bool.not_eq_true', and_assoc] using h
  simp only [pllReturned, if_neg hc]

theorem State.pllReturned_of_returns {s : State} {n : Nat} (h : s.PllReturns n) :
    s.pllReturned n = if n = 0 then { s.returnNoted n with cueByp := false } else s.returnNoted n := by
  obtain ⟨hwant, hlock, hhold⟩ := h
  simp only [pllReturned, hwant, hlock, hhold, Bool.not_false, Bool.and_self, if_true]
  rfl

theorem State.returnNoted_bypass (s : State) (n : Nat) : (s.returnNoted n).bit (pgPll n) PLL_STAT_bypass = false := by
  have hne : pgPll n + PLL_STAT_bypass.at 0 ≠ pgClk + 0x144 := by
    simp only [pgPll, pgClk, Fld.at, PLL_STAT_bypass]
    omega
  rw [returnNoted, clkBit, bit_setWord_of_ne _ _ hne, bit_setBit _ _ _ _ rfl (by decide)]

/-! ### Phase steps (R326) -/

theorem exec_pllPhaseStep_of_idle {s : State} {n : Fin 26} (hlow : s.low = false)
    (hbusy : s.bit (pgPll n) PLL_STAT_ph_busy = false) : exec (.pllPhaseStep n) s = .next s := by
  show execPllPhaseStep n s = _
  simp only [execPllPhaseStep, run_of_running _ hlow, hbusy, Bool.false_eq_true, if_false]

/-- One step of a phase towards its target (R326). -/
def phaseToward (x goal : Int) : Int := if x < goal then x + 1 else x - 1

theorem exec_pllPhaseStep {s : State} {n : Fin 26} (hlow : s.low = false) (hbusy : s.bit (pgPll n) PLL_STAT_ph_busy = true)
    (hne : s.fldS (pgPll n) PLL_PH_now ≠ s.fldS (pgPll n) PLL_PH_target) :
    let x := phaseToward (s.fldS (pgPll n) PLL_PH_now) (s.fldS (pgPll n) PLL_PH_target)
    let u := (s.setFld (pgPll n) PLL_PH_now (ofSigned 16 x)).bump (pgPll n) PLL_PHSTEPS_n
    exec (.pllPhaseStep n) s = .next
      (if x = s.fldS (pgPll n) PLL_PH_target then (u.setBit (pgPll n) PLL_STAT_ph_busy false).irq (pgPll n) IRQ_pll_ph_done
      else u) := by
  intro x u
  have hx : (if s.fldS (pgPll n) PLL_PH_now < s.fldS (pgPll n) PLL_PH_target then s.fldS (pgPll n) PLL_PH_now + 1
      else if s.fldS (pgPll n) PLL_PH_target < s.fldS (pgPll n) PLL_PH_now then s.fldS (pgPll n) PLL_PH_now - 1
      else s.fldS (pgPll n) PLL_PH_now) = x := by
    show _ = phaseToward _ _
    unfold phaseToward
    split_ifs <;> omega
  have hmoved : x ≠ s.fldS (pgPll n) PLL_PH_now := by
    show phaseToward _ _ ≠ _
    unfold phaseToward
    split <;> omega
  show execPllPhaseStep n s = _
  simp only [execPllPhaseStep, run_of_running _ hlow, hbusy, if_true, hx, if_neg hmoved]
  rfl

/-! ### The statement -/

/-- Settles O40: each event of a PLL, at its trigger and without it. -/
theorem pllEventsComplete : Obligations.PllEventsComplete := by
  refine ⟨fun s n err cycles hlow => ?_, fun s n err cycles hlow => ?_, fun s n hlow => ?_, fun s n hlow => ?_,
    fun s n hlow => ?_⟩
  · refine ⟨fun h => exec_pllLock_of_not hlow h, fun h => ?_⟩
    have hlock : (s.setWord (pgPll n + 0x114) err).bit (pgPll n) PLL_STAT_lock = false := by
      rw [State.bit_setWord_of_ne _ _ (by simp [Fld.at, PLL_STAT_lock]), h.1]
    rw [exec_pllLock (got := ⟨err, cycles⟩) hlow h, State.pllLocked_of_unlocked hlock]
    exact congrArg _ (if_congr Fin.val_eq_zero_iff rfl rfl)
  · refine ⟨fun h => exec_pllLockLoss_of_not hlow h, fun h => ?_⟩
    have hexec := exec_pllLockLoss (got := ⟨err, cycles⟩) hlow h
    refine ⟨fun h0 => ?_, fun h1 h10 => ?_, fun h11 h19 => ?_, fun h20 => ?_⟩
    · have h0 := Fin.val_eq_zero_iff.2 h0
      rw [hexec, State.linksLost_of_no_link _ (by omega), State.pllLost_of_cue h0]
      rfl
    · rw [hexec, State.linksLost_of_no_link _ (by omega), State.pllLost_of_bypassCapable (by omega) h10]
      rfl
    · rw [hexec, State.linksLost_of_no_link _ (by omega), State.pllLost_of_mediaSynth h11 h19]
      rfl
    · rw [hexec, State.pllLost_of_link h20]
      rfl
  · refine ⟨fun h => ?_, fun h h0 => ?_, fun h h0 => ?_⟩
    · rw [exec_pllBypassDone n hlow, State.pllBypassed_of_still h, if_neg (by simp [h])]
    · have h0 := Fin.val_eq_zero_iff.2 h0
      rw [exec_pllBypassDone n hlow, State.pllBypassed_of_cue h h0, if_neg (by omega)]
      rfl
    · rw [exec_pllBypassDone n hlow, State.pllBypassed_of_ne h (Fin.val_ne_zero_iff.2 h0)]
      exact congrArg _ (if_congr (and_iff_right h) rfl rfl)
  · refine ⟨fun h h0 => ?_, fun h h0 => ?_, fun h => ?_⟩
    · have h0 := Fin.val_eq_zero_iff.2 h0
      rw [exec_pllBypassReturn n hlow, State.pllReturned_of_returns h, if_pos h0, if_neg (by omega)]
      rfl
    · rw [exec_pllBypassReturn n hlow, State.pllReturned_of_returns h, if_neg (Fin.val_ne_zero_iff.2 h0),
        State.returnNoted_bypass]
      exact congrArg _ (if_congr (by simp only [Bool.not_false, true_and]) rfl rfl)
    · have hsame : ¬(s.bit (pgPll n) PLL_STAT_bypass ∧ !s.bit (pgPll n) PLL_STAT_bypass ∧ 3 ≤ n.val ∧ n.val ≤ 10) := by
        simp +contextual
      rw [exec_pllBypassReturn n hlow, State.pllReturned_of_not h, if_neg hsame]
  · exact ⟨exec_pllPhaseStep_of_idle hlow, exec_pllPhaseStep hlow⟩

end Sys2Proof.Machine
end

section
/-!
The register pages (R42 to R64): what a command on a page answers; parity mode and the check passes, the requests of the page
header, the device-wide snapshot, and commits.
-/
namespace Sys2Proof.Machine

/-! ### Page addresses (R40, R43) -/

/-- BAR0 holds no page from page number 0x2000 on. -/
theorem pageNo_lt {n : Nat} {e : PageKind × Nat} (h : pageNo n = some e) : n < 0x2000 := by
  by_contra hn
  have h1 : ¬n < 0x800 := by omega
  have h2 : ¬n < 0x1000 := by omega
  have h3 : ¬n < 0x1800 := by omega
  simp [pageNo, hn, h1, h2, h3] at h

theorem addr_lt_of_pageOf {addr : Nat} {e : PageKind × Nat} (h : pageOf addr = some e) : addr < 0x2000000 := by
  have := pageNo_lt h
  omega

theorem pageBase_add {p o : Nat} (hp : p % 0x1000 = 0) (ho : o < 0x1000) : pageBase (p + o) = p := by
  rw [pageBase]
  omega

theorem page_add_mod {p o : Nat} (hp : p % 0x1000 = 0) (ho : o < 0x1000) : (p + o) % 0x1000 = o := by
  omega

theorem pageOf_of_pageArg {page : Nat} {k : PageKind} {i : Nat} (h : pageArg page = some (page, k, i)) :
    pageOf page = some (k, i) := by
  rw [pageArg] at h
  split at h
  · simp only [Option.map_eq_some_iff, Prod.mk.injEq, true_and] at h
    obtain ⟨e, he, rfl, rfl⟩ := h
    exact he
  · cases h

/-! ### Commands on a page -/

theorem onPage_of_running {s : State} {page p : Nat} {k : PageKind} {i : Nat} (f : Nat → PageKind → Nat → State → State)
    (hlow : s.low = false) (hpage : pageArg page = some (p, k, i)) : onPage page s f = .next (f p k i s).watch := by
  rw [onPage, hpage]
  exact run_of_running _ hlow

/-! ### Parity mode (R63) -/

/-- Inverting a truth value at b changes a count over a list by the times b occurs in it, up to an even number. -/
theorem countP_xor_beq (f : Nat → Bool) (b : Nat) (l : List Nat) :
    l.countP (fun i => f i ^^ (i == b)) % 2 = (l.countP f + l.count b) % 2 := by
  induction l with
  | nil => rfl
  | cons i t ih =>
    simp only [List.countP_cons, List.count_cons]
    cases f i <;> cases i == b <;> simp <;> omega

/-- The model writes a word with one bit set as a number shifted and then taken as a word. -/
theorem natCast_one_shiftLeft (b : Nat) : ((1 <<< b : Nat) : W32) = (1 : W32) <<< b := rfl

theorem getLsbD_one_shiftLeft (b : Nat) {i : Nat} (hi : i < 32) : ((1 : W32) <<< b).getLsbD i = (i == b) := by
  rw [BitVec.ofNat_eq_ofNat, ← BitVec.twoPow_eq, BitVec.getLsbD_twoPow]
  by_cases h : i = b
  · subst h
    simp [hi]
  · simp [Ne.symm h, beq_false_of_ne h]

theorem count_range_32 {b : Nat} (hb : b < 32) : (List.range 32).count b = 1 :=
  List.count_eq_one_of_mem List.nodup_range (List.mem_range.2 hb)

/-- Inverting one bit of a word changes the parity of its ones. -/
theorem oddOnes_flipBit (w : W32) {b : Nat} (hb : b < 32) : oddOnes (flipBit w b) = !oddOnes w := by
  have hbits : (List.range 32).countP (fun i => (flipBit w b).getLsbD i) =
      (List.range 32).countP (fun i => w.getLsbD i ^^ (i == b)) :=
    List.countP_congr fun i hi => by
      rw [flipBit, natCast_one_shiftLeft, BitVec.getLsbD_xor, getLsbD_one_shiftLeft b (List.mem_range.1 hi)]
  rw [oddOnes, hbits, countP_xor_beq, count_range_32 hb, oddOnes]
  rcases Nat.mod_two_eq_zero_or_one ((List.range 32).countP (fun i => w.getLsbD i)) with h | h <;>
    simp [Nat.add_mod, h]

theorem mem_cfgOffs {o : Nat} (h : o ∈ cfgOffs) : 0x100 ≤ o ∧ o < 0x800 := by
  simp only [cfgOffs, List.mem_map, List.mem_range] at h
  obtain ⟨i, hi, rfl⟩ := h
  omega

theorem mem_parityOffs {k : PageKind} {o : Nat} (h : o ∈ parityOffs k) : 0x100 ≤ o ∧ o < 0x800 :=
  mem_cfgOffs (List.mem_of_mem_filter h)

theorem nodup_parityOffs (k : PageKind) : (parityOffs k).Nodup :=
  (List.nodup_range.map fun _ _ h => by simpa using h).filter _

/-- A flatMap over distinct members, all but one of which give nothing, gives what that one gives. -/
theorem flatMap_eq_of_nodup {f : Nat → List Nat} {l : List Nat} {a : Nat} (hl : l.Nodup) (ha : a ∈ l)
    (h : ∀ b ∈ l, b ≠ a → f b = []) : l.flatMap f = f a := by
  obtain ⟨l1, l2, rfl⟩ := List.append_of_mem ha
  have hnot : a ∉ l1 ++ l2 := (List.nodup_middle.1 hl).notMem
  have h1 : l1.flatMap f = [] := List.flatMap_eq_nil_iff.2 fun b hb =>
    h b (by simp [hb]) fun e => hnot (by simp [← e, hb])
  have h2 : l2.flatMap f = [] := List.flatMap_eq_nil_iff.2 fun b hb =>
    h b (by simp [hb]) fun e => hnot (by simp [← e, hb])
  rw [List.flatMap_append, List.flatMap_cons, h1, h2, List.nil_append, List.append_nil]

/-- What evenRegs takes from the register at one offset: its stored word, and its live copy where it has staged fields. -/
def State.evenAt (s : State) (p : Nat) (k : PageKind) (o : Nat) : List Nat :=
  (if oddOnes (s.word (p + o)) then [] else [p + o]) ++
    (if stagedMask k o == 0 || oddOnes (s.lword (p + o)) then [] else [p + o + 0x4000000])

theorem State.evenRegs_eq (s : State) (p : Nat) (k : PageKind) : s.evenRegs p k = (parityOffs k).flatMap (s.evenAt p k) := rfl

theorem State.evenAt_eq_nil {s : State} {p : Nat} {k : PageKind} {o : Nat} : s.evenAt p k o = [] ↔
    oddOnes (s.word (p + o)) = true ∧ (stagedMask k o ≠ 0 → oddOnes (s.lword (p + o)) = true) := by
  simp [evenAt]

theorem State.evenAt_congr {s t : State} {p : Nat} {k : PageKind} {o : Nat} (hword : t.word (p + o) = s.word (p + o))
    (hlword : t.lword (p + o) = s.lword (p + o)) : t.evenAt p k o = s.evenAt p k o := by
  rw [evenAt, evenAt, hword, hlword]

theorem State.word_upset (s : State) (p : Nat) (u : Upset) (a : Nat) : (s.upset p u).word a =
    if a = p + u.off ∧ u.live = false then flipBit (s.word a) u.bit else s.word a := by
  cases h : u.live <;> simp +contextual [upset, h]

theorem State.lword_upset (s : State) (p : Nat) (u : Upset) (a : Nat) : (s.upset p u).lword a =
    if a = p + u.off ∧ u.live = true then flipBit (s.lword a) u.bit else s.lword a := by
  cases h : u.live <;> simp +contextual [upset, h]

theorem State.upset_lostParity (s : State) (p : Nat) (u : Upset) : (s.upset p u).lostParity = s.lostParity := by
  rw [upset]
  split <;> rfl

/-- An upset of configuration leaves the header, so parity mode stays on. -/
theorem State.parityOn_upset {s : State} {p : Nat} {k : PageKind} {u : Upset} (h : 0x100 ≤ u.off) :
    (s.upset p u).parityOn p k = s.parityOn p k := by
  have hne : p + PAGE_CTL_parity.at 0 ≠ p + u.off := by
    rw [show PAGE_CTL_parity.at 0 = 8 from rfl]
    omega
  simp only [parityOn, bit, fld, word_upset, hne, false_and, if_false]

/-- The copy that an upset changed, as the pass names it: a live copy lies beyond BAR0. -/
def upsetReg (u : Upset) (p : Nat) : Nat := p + u.off + (if u.live then 0x4000000 else 0)

/-- Of registers that all hold odd parity, an upset leaves the one it changed even (R63). -/
theorem State.evenRegs_upset {s : State} {p : Nat} {k : PageKind} {u : Upset} (heven : s.evenRegs p k = [])
    (hoff : u.off ∈ parityOffs k) (hbit : u.bit < 32) (hlive : u.live = true → stagedMask k u.off ≠ 0) :
    (s.upset p u).evenRegs p k = [upsetReg u p] := by
  rw [evenRegs_eq, List.flatMap_eq_nil_iff] at heven
  obtain ⟨hword, hlword⟩ := evenAt_eq_nil.1 (heven _ hoff)
  have hothers : ∀ o ∈ parityOffs k, o ≠ u.off → (s.upset p u).evenAt p k o = [] := fun o ho hne => by
    rw [evenAt_congr (s := s) (by simp [word_upset, hne]) (by simp [lword_upset, hne]), heven o ho]
  rw [evenRegs_eq, flatMap_eq_of_nodup (nodup_parityOffs k) hoff hothers, evenAt, word_upset, lword_upset, upsetReg]
  cases h : u.live with
  | false => simpa [oddOnes_flipBit _ hbit, hword] using hlword
  | true => simpa [oddOnes_flipBit _ hbit, hword, hlword (hlive h)] using hlive h

/-- A pass that finds one register without odd parity, and not the one of an earlier pass, reports it. -/
theorem State.parityPass_of_evenRegs {s : State} {p x : Nat} {k : PageKind} (hon : s.parityOn p k = true)
    (heven : s.evenRegs p k = [x]) (hnew : s.lostParity.contains x = false) : s.parityPass p k =
      ({ s with lostParity := s.lostParity.filter (fun y => y % 0x4000000 / 0x1000 != p / 0x1000) ++ [x] } : State).cfgFault p
        0xF06 (x % 0x4000000) := by
  simp only [parityPass, hon, heven, if_true, List.filter_cons, hnew, Bool.not_false, List.filter_nil, List.foldl_cons,
    List.foldl_nil]

theorem State.parityPass_of_off {s : State} {p : Nat} {k : PageKind} (hoff : s.parityOn p k = false) : s.parityPass p k = s := by
  rw [parityPass, hoff, if_neg Bool.false_ne_true]

theorem exec_parityCheckPass {s : State} {page : Nat} {k : PageKind} {i : Nat} (upsets : List Upset) (hlow : s.low = false)
    (hpage : pageArg page = some (page, k, i)) :
    exec (.parityCheckPass page upsets) s = .next ((upsets.foldl (fun x e => x.upset page e) s).parityPass page k).watch :=
  onPage_of_running _ hlow hpage

/-- Settles O12: an upset changes the parity of one copy's ones, so the pass finds that copy and no other. -/
theorem parityPassFindsUpset : Obligations.ParityPassFindsUpset := by
  intro s page x k i u hlow hpage hon hoff hbit hlive heven hx hlost
  have hcfg := mem_parityOffs hoff
  have hlt := addr_lt_of_pageOf (pageOf_of_pageArg hpage)
  have hpass := State.parityPass_of_evenRegs (s := s.upset page u) (p := page) (k := k) (x := x)
    (by rw [State.parityOn_upset hcfg.1, hon]) (by rw [State.evenRegs_upset heven hoff hbit hlive, upsetReg, hx])
    (by rw [State.upset_lostParity, hlost])
  have haddr : x % 0x4000000 = page + u.off := by
    rw [hx]
    split <;> omega
  rw [exec_parityCheckPass _ hlow hpage, List.foldl_cons, List.foldl_nil, hpass, haddr, State.upset_lostParity]

/-! ### Requests of the page header (R45, R47, R53, R62, R63, R426) -/

theorem onPage_viaPath {s : State} {a : Acc} {page : Nat} {k : PageKind} {i : Nat} (addr : Nat → Nat)
    (f : Nat → PageKind → Nat → State → State) (h : Reaches s a) (hpage : pageArg page = some (page, k, i)) :
    onPage page s (fun p k i s => s.viaPath a (addr p) (f p k i)) = .next ((f page k i s).taken a).watch := by
  rw [onPage_of_running _ h.1 hpage, State.viaPath_of_reaches _ _ h]

theorem exec_irqForceWrite {s : State} {a : Acc} {page : Nat} {k : PageKind} {i : Nat} {w : W32} (hw : Option HwErr)
    (h : Reaches s a) (hpage : pageArg page = some (page, k, i)) (hadm : Admitted s a page k i 0x18 w) :
    exec (.irqForceWrite a page w hw) s = .next (((s.stored a page k i 0x18 w).force a page w hw).taken a).watch := by
  show execIrqForceWrite a page w hw s = _
  simp only [execIrqForceWrite, onPage_viaPath _ _ h hpage, hadm.1, hadm.2, if_true]

theorem exec_ferrRelease {s : State} {a : Acc} {page : Nat} {k : PageKind} {i : Nat} (clash : Option HwErr) (h : Reaches s a)
    (hpage : pageArg page = some (page, k, i)) (hadm : Admitted s a page k i 0x1C 0x80000000) :
    exec (.ferrRelease a page clash) s = .next (((s.stored a page k i 0x1C 0x80000000).release page clash).taken a).watch := by
  show execFerrRelease a page clash s = _
  simp only [execFerrRelease, onPage_viaPath _ _ h hpage, hadm.1, if_true]

theorem State.storeWord_old (s : State) (a : Acc) (p : Nat) (k : PageKind) (i o : Nat) (w : W32) (hw : Option W32) :
    (s.storeWord a p k i o w hw).old = s.word (p + o) := by
  rw [storeWord]
  split
  · rfl
  · split <;> rfl

/-- PAGE_CTL that takes the whole word acts on it. -/
theorem State.pageCtlWrite_of_admitted {s : State} {a : Acc} {p : Nat} {k : PageKind} {i : Nat} {w : W32} (merged : Bool)
    (h : Reaches s a) (hadm : Admitted s a p k i 8 w) :
    s.pageCtlWrite a p k i w merged = ((s.stored a p k i 8 w).pageCtlHook p k i (s.word (p + 8)) w merged).taken a := by
  simp only [pageCtlWrite, viaPath_of_reaches _ _ h, hadm.1, hadm.2, storeWord_old, if_true]

theorem onPage_pageCtlWrite {s : State} {a : Acc} {page : Nat} {k : PageKind} {i : Nat} {w : W32} (word : Nat → State → W32)
    (merged : Bool) (h : Reaches s a) (hpage : pageArg page = some (page, k, i)) (hw : w = word page s)
    (hadm : Admitted s a page k i 8 w) :
    onPage page s (fun p k i s => s.pageCtlWrite a p k i (word p s) merged) =
      .next (((s.stored a page k i 8 w).pageCtlHook page k i (s.word (page + 8)) w merged).taken a).watch := by
  rw [onPage_of_running _ h.1 hpage, ← hw, State.pageCtlWrite_of_admitted merged h hadm]

theorem exec_softReset {s : State} {a : Acc} {page : Nat} {k : PageKind} {i : Nat} {w : W32} (h : Reaches s a)
    (hpage : pageArg page = some (page, k, i)) (hw : w = s.word (page + 8) ||| 2) (hadm : Admitted s a page k i 8 w) :
    exec (.softReset a page) s =
      .next (((s.stored a page k i 8 w).pageCtlHook page k i (s.word (page + 8)) w false).taken a).watch :=
  onPage_pageCtlWrite (fun p s => s.ctlWith p 2) false h hpage hw hadm

theorem exec_pageSnapshot {s : State} {a : Acc} {page : Nat} {k : PageKind} {i : Nat} {w : W32} (merged : Bool) (h : Reaches s a)
    (hpage : pageArg page = some (page, k, i)) (hw : w = s.word (page + 8) ||| 8) (hadm : Admitted s a page k i 8 w) :
    exec (.pageSnapshot a page merged) s =
      .next (((s.stored a page k i 8 w).pageCtlHook page k i (s.word (page + 8)) w merged).taken a).watch :=
  onPage_pageCtlWrite (fun p s => s.ctlWith p 8) merged h hpage hw hadm

theorem exec_parityModeSet {s : State} {a : Acc} {page : Nat} {k : PageKind} {i : Nat} {w : W32} (on : Bool) (h : Reaches s a)
    (hpage : pageArg page = some (page, k, i)) (hw : w = setBits (s.word (page + 8)) 2 1 on.toNat)
    (hadm : Admitted s a page k i 8 w) :
    exec (.parityModeSet a page on) s =
      .next (((s.stored a page k i 8 w).pageCtlHook page k i (s.word (page + 8)) w false).taken a).watch :=
  onPage_pageCtlWrite (fun p s => setBits (s.word (p + 8)) 2 1 on.toNat) false h hpage hw hadm

theorem exec_softResetDone {s : State} {page : Nat} {k : PageKind} {i : Nat} (hlow : s.low = false)
    (hpage : pageArg page = some (page, k, i)) : exec (.softResetDone page) s = .next (s.softResetEnd page k i).watch :=
  onPage_of_running _ hlow hpage

theorem State.parityChange_of_unsupported (s : State) (p : Nat) {k : PageKind} (was : Bool) (hk : k.parity = false) :
    s.parityChange p k was = s := by
  simp [parityChange, hk]

theorem State.pageCtlHook_reset (s : State) (p : Nat) {k : PageKind} (i : Nat) (old : W32) {eff : W32} (merged : Bool)
    (hk : k.parity = false) (hsnap : eff.getLsbD 3 = false) (hreset : eff.getLsbD 1 = true) :
    s.pageCtlHook p k i old eff merged = s.softReset p k i := by
  simp only [pageCtlHook, parityChange_of_unsupported _ _ _ hk, State.when, hsnap, hreset, Bool.false_eq_true, if_true, if_false]

theorem State.pageCtlHook_snap (s : State) (p : Nat) {k : PageKind} (i : Nat) (old : W32) {eff : W32} (merged : Bool)
    (hk : k.parity = false) (hsnap : eff.getLsbD 3 = true) (hreset : eff.getLsbD 1 = false) :
    s.pageCtlHook p k i old eff merged = s.pageSnap p k i merged := by
  simp only [pageCtlHook, parityChange_of_unsupported _ _ _ hk, State.when, hsnap, hreset, Bool.false_eq_true, if_true, if_false]

theorem State.pageCtlHook_parity (s : State) (p : Nat) (k : PageKind) (i : Nat) (old : W32) {eff : W32} (merged : Bool)
    (hsnap : eff.getLsbD 3 = false) (hreset : eff.getLsbD 1 = false) :
    s.pageCtlHook p k i old eff merged = s.parityChange p k (old.getLsbD 2) := by
  simp only [pageCtlHook, State.when, hsnap, hreset, Bool.false_eq_true, if_false]

/-- The bits of w in IRQ_STAT are known as forced (R428). -/
def State.markForced (s : State) (p : Nat) (w : W32) : State :=
  { s with forced := Store.put (fun _ => 0) p (Store.get (fun _ => 0) s.forced p ||| w) s.forced }

/-- Bit 31 would set PAGE_STAT.cfg_fault too (R47). -/
theorem State.forceBit_of_ne (s : State) (a : Acc) (p : Nat) {b : Nat} (hb : b ≠ 31) : s.forceBit a p none b =
    ((s.irq p b).markForced p ((1 : W32) <<< b)).capture p 0xF0F accWrite a.m (p + 0x18) := by
  simp only [forceBit, State.when, beq_false_of_ne hb, Bool.false_eq_true, if_false, natCast_one_shiftLeft, markForced]

theorem State.force_single (s : State) (a : Acc) (p : Nat) (hw : Option HwErr) {b : Nat} (hb : b < 32) :
    s.force a p ((1 : W32) <<< b) hw = s.forceBit a p hw b := by
  have hbits : (List.range 32).filter (fun j => ((1 : W32) <<< b).getLsbD j) = [b] := by
    rw [List.filter_congr fun j hj => getLsbD_one_shiftLeft b (List.mem_range.1 hj), List.filter_beq, count_range_32 hb,
      List.replicate_one]
  simp only [force, hbits, List.foldl_nil]

/-! Storing a word takes no time. -/

theorem State.when_upt {s : State} (c : Bool) {f : State → State} (hf : ∀ x, (f x).upt = x.upt) : (s.when c f).upt = s.upt := by
  cases c
  · rfl
  · exact hf s

theorem State.capture_upt (s : State) (p code access master addr : Nat) : (s.capture p code access master addr).upt = s.upt := by
  rw [capture]
  split <;> simp

theorem State.journal_upt (s : State) (t : Nat) (d : Decision) : (s.journal t d).upt = s.upt := by
  rw [journal]
  split <;> rfl

theorem State.disarm_upt (s : State) (p : Nat) : (s.disarm p).upt = s.upt := rfl

theorem State.stored_upt (s : State) (a : Acc) (p : Nat) (k : PageKind) (i o : Nat) (w : W32) :
    (s.stored a p k i o w).upt = s.upt := by
  rw [stored, storeWord]
  split
  · simp [accErr, capture_upt]
  · split
    · simp [accErr, capture_upt]
    · simp only []
      rw [when_upt _ fun x => journal_upt .., when_upt _ fun x => setBit_upt .., when_upt _ fun x => disarm_upt x p, setWord_upt]
      split
      · rfl
      · exact capture_upt ..

theorem State.softResetEnd_of_busy {s : State} {p : Nat} (k : PageKind) (i : Nat) (h : s.bit p PAGE_STAT_reset_busy = true) :
    s.softResetEnd p k i = if k = .quad then
        (List.range 4).foldl (fun x j => x.srcBack (4 * i + j)) (s.setBit p PAGE_STAT_reset_busy false)
      else s.setBit p PAGE_STAT_reset_busy false := by
  rw [softResetEnd, if_pos h]
  by_cases hk : k = .quad
  · subst hk
    rfl
  · simp only [hk]
    rfl

/-- Settles O8: each command is its header register's act on the state with the word stored. -/
theorem headerRequestsComplete : Obligations.HeaderRequestsComplete := by
  refine ⟨?_, ?_, ?_, ?_, ?_, ?_⟩
  · intro s a page k i b w hw h hpage hb hadm
    subst hw
    rw [exec_irqForceWrite none h hpage hadm, State.force_single _ a page none (by omega), State.forceBit_of_ne _ a page (by omega)]
    rfl
  · intro s a page k i h hpage hadm
    rw [exec_ferrRelease none h hpage hadm]
    rfl
  · intro s a page k i w hw h hpage hk hsnap hadm
    have hreset : w.getLsbD 1 = true := by simp [hw]
    rw [exec_softReset h hpage hw hadm, State.pageCtlHook_reset _ _ _ _ _ hk hsnap hreset]
  · intro s page k i hlow hpage hbusy
    rw [exec_softResetDone hlow hpage, State.softResetEnd_of_busy k i hbusy]
  · intro s u a page k i w merged hw hu h hpage hk hreset hadm
    have hsnap : w.getLsbD 3 = true := by simp [hw]
    have hnow : (s.stored a page k i 8 w).now = s.now := congrArg BitVec.toNat (State.stored_upt ..)
    rw [exec_pageSnapshot merged h hpage hw hadm, State.pageCtlHook_snap _ _ _ _ _ hk hsnap hreset, State.pageSnap, hnow, hu]
  · intro s a page k i on h hpage w hreset hsnap hadm
    rw [exec_parityModeSet on h hpage rfl hadm, State.pageCtlHook_parity _ _ _ _ _ _ hsnap hreset]

/-! ### The device-wide snapshot (R54, R55) -/

theorem State.snapCtl_of_admitted {s : State} {a : Acc} {w : W32} (h : Reaches s a) (hadm : Admitted s a pgDev .dev 0 0x200 w) :
    s.snapCtl a w = ((s.stored a pgDev .dev 0 0x200 w).snapHook w).taken a := by
  simp only [snapCtl, viaPath_of_reaches _ _ h, hadm.1, hadm.2, if_true]

theorem State.snapHook_arm (s : State) : s.snapHook 1 = s.armSnap := by
  have hnow : (1 : W32).getLsbD 1 = false := by decide
  have harm : (1 : W32).getLsbD 0 = true := by decide
  simp only [snapHook, State.when, hnow, harm, Bool.false_eq_true, if_true, if_false]

theorem State.snapHook_now (s : State) : s.snapHook 2 = { s with snapNow := some s.now } := by
  have hnow : (2 : W32).getLsbD 1 = true := by decide
  have harm : (2 : W32).getLsbD 0 = false := by decide
  simp only [snapHook, State.when, hnow, harm, Bool.false_eq_true, if_true, if_false]

theorem exec_snapallArm {s : State} {a : Acc} (h : Reaches s a) (hadm : Admitted s a pgDev .dev 0 0x200 1) :
    exec (.snapallArm a) s = .next ((s.stored a pgDev .dev 0 0x200 1).armSnap.taken a) := by
  show execSnapallArm a s = _
  rw [execSnapallArm, run_of_running _ h.1, State.snapCtl_of_admitted h hadm, State.snapHook_arm]

theorem exec_snapallNow {s : State} {a : Acc} (h : Reaches s a) (hadm : Admitted s a pgDev .dev 0 0x200 2) :
    exec (.snapallNow a) s = .next ({ s.stored a pgDev .dev 0 0x200 2 with
      snapNow := some (s.stored a pgDev .dev 0 0x200 2).now }.taken a) := by
  show execSnapallNow a s = _
  rw [execSnapallNow, run_of_running _ h.1, State.snapCtl_of_admitted h hadm, State.snapHook_now]

theorem State.armSnap_of_reached {s : State} {t : Nat} (ht : s.fld64 pgDev DEV_SNAPALL_TGT_lo DEV_SNAPALL_TGT_hi = t)
    (h : t ≤ s.now) :
    s.armSnap = ({ s with snapNow := some s.now, snapArmed := false } : State).setBit pgDev DEV_SNAPALL_CTL_late true := by
  simp only [armSnap, ht, if_pos h]

theorem State.armSnap_of_later {s : State} {t : Nat} (ht : s.fld64 pgDev DEV_SNAPALL_TGT_lo DEV_SNAPALL_TGT_hi = t)
    (h : s.now < t) :
    s.armSnap = ({ s with snapArmed := true, snapT := t } : State).setBit pgDev DEV_SNAPALL_CTL_pending true := by
  simp only [armSnap, ht, if_neg (Nat.not_le.2 h)]

theorem exec_snapallTarget {s : State} (hlow : s.low = false) : exec .snapallTarget s = .next s.snapAll := run_of_running _ hlow

theorem exec_snapallDone {s : State} (hlow : s.low = false) : exec .snapallDone s = .next s.snapDone := run_of_running _ hlow

/-- Settles O9: the arm looks at its target once; the target's instant and the end act where they are due. -/
theorem deviceSnapshotCompletes : Obligations.DeviceSnapshotCompletes := by
  refine ⟨fun s a h hadm => ⟨fun ht => ?_, fun ht => ?_⟩, fun s a h hadm => ?_, fun s t hlow hdue => ?_,
    fun s hlow hpages => ?_⟩
  · rw [exec_snapallArm h hadm, State.armSnap_of_reached rfl ht]
  · rw [exec_snapallArm h hadm, State.armSnap_of_later rfl ht]
  · rw [exec_snapallNow h hadm]
  · rw [exec_snapallTarget hlow, State.snapAll, hdue]
  · rw [exec_snapallDone hlow, State.snapDone, if_pos hpages]

/-! ### Commits (R56 to R58) -/

theorem exec_pageCommit {s : State} {a : Acc} {page : Nat} {k : PageKind} {i : Nat} (h : Reaches s a)
    (hpage : pageArg page = some (page, k, i)) (hadm : Admitted s a page k i 0x3C 1) :
    exec (.pageCommit a page) s = .next (((s.stored a page k i 0x3C 1).commitPage page k i).taken a).watch := by
  have hgo : (1 : W32).getLsbD 0 = true := by decide
  show execPageCommit a page s = _
  simp only [execPageCommit, onPage_viaPath _ _ h hpage, hadm.1, hadm.2, State.commitHook, hgo, if_true]

theorem State.commitPage_of_joined {s u : State} {p : Nat} {k : PageKind} {i : Nat} (hu : s.commitAborts k i = u)
    (hjoin : u.bit p PAGE_CTL_join = true) : s.commitPage p k i = u.refuseCommit p 7 := by
  simp only [commitPage, hu, if_pos hjoin]

theorem State.commitPage_of_passing {s u : State} {p : Nat} {k : PageKind} {i : Nat} (hu : s.commitAborts k i = u)
    (hjoin : u.bit p PAGE_CTL_join = false) (hpass : judge u (u.wouldBe [(p, k, i)]) [p] p k i = 0) :
    s.commitPage p k i = if k.mirrored then
        (u.acceptPage p k i (u.commitEarliest k)).journal (u.commitEarliest k) (.commit (some p))
      else u.acceptPage p k i (u.commitEarliest k) := by
  simp only [commitPage, hu, hjoin, hpass, Bool.false_eq_true, if_true, if_false]

theorem exec_deviceCommit {s : State} {a : Acc} (h : Reaches s a) (hadm : Admitted s a pgDev .dev 0 0x210 1) :
    exec (.deviceCommit a) s = .next ((s.stored a pgDev .dev 0 0x210 1).commitDevice.taken a).watch := by
  have hgo : (1 : W32).getLsbD 0 = true := by decide
  show execDeviceCommit a s = _
  simp only [execDeviceCommit, runRails, run_of_running _ h.1, State.viaPath_of_reaches _ _ h, hadm.1, hadm.2, hgo, Bool.and_self,
    if_true]

/-- The state after the joined pages are accepted: none of them is joined any more (R57). -/
def State.acceptJoined (s : State) (l : List (Nat × PageKind × Nat)) : State :=
  (l.foldl (fun x e => x.setBit e.1 PAGE_CTL_join false) s).acceptAll l none

theorem State.commitDevice_of_passing {s u : State} {l : List (Nat × PageKind × Nat)} (hl : s.joinedPages = l)
    (hu : l.foldl (fun x e => x.commitAborts e.2.1 e.2.2) s = u)
    (hpass : ∀ e ∈ l, judge u (u.wouldBe l) (l.map (fun e => e.1)) e.1 e.2.1 e.2.2 = 0)
    (hmirror : l.any (fun e => e.2.1.mirrored) = false) :
    s.commitDevice = (u.acceptJoined l).setFld pgDev DEV_COMMITALL_CTL_result
      (if l.all (fun e => ((u.acceptJoined l).waiting e.1).isEmpty) then 2 else 1) := by
  have hnone : (l.map (fun e => (e, judge u (u.wouldBe l) (l.map (fun e => e.1)) e.1 e.2.1 e.2.2))).find?
      (fun r => r.2 != 0) = none := by
    simpa [List.find?_eq_none] using fun p k i he => hpass (p, k, i) he
  simp only [commitDevice, hl, hu, hnone, hmirror, Bool.false_eq_true, if_false]
  rfl

theorem exec_commitApply {s : State} {page : Nat} {k : PageKind} {i : Nat} (slot : Nat) (hlow : s.low = false)
    (hpage : pageArg page = some (page, k, i)) :
    exec (.commitApply page slot) s = .next (s.applyInstant page k i slot).commitShow.watch :=
  onPage_of_running _ hlow hpage

/-- Pages whose slots apply on their own, at the command's own instant (R56). -/
theorem State.applyInstant_of_own (s : State) (p i slot : Nat) {k : PageKind}
    (hk : k ∈ [.flc, .ethTmt, .drcCtl, .drcTrn, .dpr, .drcGlob]) : s.applyInstant p k i slot = s.applySlot p k slot := by
  fin_cases hk <;> rfl

/-- Settles O10: a joined page is refused before any check; where no check refuses, the page, or every joined page, is accepted. -/
theorem commitsComplete : Obligations.CommitsComplete := by
  refine ⟨fun s a page k i h hpage hadm => ⟨fun hjoin => ?_, fun hjoin hpass => ?_⟩,
    fun s a u l h hadm hu hl hpass hmirror => ?_, fun s page slot k i hlow hpage hk => ?_⟩
  · rw [exec_pageCommit h hpage hadm, State.commitPage_of_joined rfl hjoin]
  · rw [exec_pageCommit h hpage hadm, State.commitPage_of_passing rfl hjoin hpass]
  · rw [exec_deviceCommit h hadm, State.commitDevice_of_passing hl.symm (hl ▸ hu.symm) hpass hmirror]
    rfl
  · rw [exec_commitApply slot hlow hpage, State.applyInstant_of_own _ _ _ _ hk]

/-! ### The configuration CRC pass (R60) -/

theorem exec_cfgCrcPass {s : State} {page : Nat} {k : PageKind} {i : Nat} (upsets : List Upset) (hlow : s.low = false)
    (hpage : pageArg page = some (page, k, i)) :
    exec (.cfgCrcPass page upsets) s = .next ((upsets.foldl (fun x e => x.upset page e) s).crcPass page k).watch :=
  onPage_of_running _ hlow hpage

/-- A pass of an armed page shows the CRC it found, and reports one that differs from the reference. -/
theorem State.crcPass_of_armed {s : State} {p : Nat} {k : PageKind} (harmed : s.bit p PAGE_STAT_armed = true)
    (hoff : s.parityOn p k = false) : s.crcPass p k =
      if s.cfgCrc p k false = s.word (p + 0x34) then s.setWord (p + 0x38) (s.cfgCrc p k false)
      else (s.setWord (p + 0x38) (s.cfgCrc p k false)).cfgFault p 0xF05 p := by
  have hne : p + 0x34 ≠ p + 0x38 := by omega
  simp only [crcPass, harmed, hoff, word_setWord, if_neg hne, Bool.not_false, Bool.and_self, if_true]

/-- Settles O11: the reference is not the word that the pass writes. -/
theorem checkPassesComplete : Obligations.CheckPassesComplete := by
  refine ⟨?_, fun s page k i hlow hpage hoff => ?_⟩
  · intro s page k i upsets hlow hpage u harmed hoff
    refine ⟨fun hsame => ?_, fun hother => ?_⟩
    · rw [exec_cfgCrcPass upsets hlow hpage, State.crcPass_of_armed harmed hoff, if_pos hsame]
    · rw [exec_cfgCrcPass upsets hlow hpage, State.crcPass_of_armed harmed hoff, if_neg hother]
      rfl
  · rw [exec_parityCheckPass [] hlow hpage, List.foldl_nil, State.parityPass_of_off hoff]

end Sys2Proof.Machine
end

section
/-!
Accesses to single registers (R42, R43, R49): a whole register written, a counter read, an access where no register lies.
-/
namespace Sys2Proof.Machine

/-! ### Writes of a whole register (R42) -/

theorem ofBytesLE_bytesOf (w : W32) : ofBytesLE (bytesOf w) = w.toNat := by
  simp only [bytesOf, ofBytesLE, BitVec.extractLsb'_toNat, Nat.shiftRight_eq_div_pow]
  omega

/-- Four bytes from a register's address touch that register alone, whole. -/
theorem State.regStore_word (s : State) (a : Acc) {addr : Nat} (w : W32) (hw : Option W32) (h : addr % 4 = 0) :
    s.regStore a addr (bytesOf w) hw = s.regWrite a addr w hw := by
  have haddr : 4 * (addr / 4) = addr := by omega
  have hlen : (bytesOf w).length = 4 := rfl
  have htouch : touched addr 4 = [addr / 4] := by
    rw [touched, if_neg (by decide), show (addr + 4 - 1) / 4 - addr / 4 + 1 = 1 by omega]
    rfl
  have hpart : partOf addr 4 (addr / 4) = (0, 4) := by
    simp only [partOf, haddr, max_self, min_self, Nat.sub_self, Nat.add_sub_cancel_left]
  have hword : BitVec.ofNat 32 (ofBytesLE (((bytesOf w).drop 0).take 4)) = w := by
    rw [List.drop_zero, List.take_of_length_le hlen.le, ofBytesLE_bytesOf, BitVec.ofNat_toNat, BitVec.setWidth_eq]
  simp only [regStore, hlen, htouch, List.foldl_cons, List.foldl_nil, hpart, haddr, hword, if_true]

/-- A register beyond the header is its block's to write. -/
theorem State.regWrite_of_block (s : State) (a : Acc) {p o : Nat} {k : PageKind} {i : Nat} (w : W32) (hw : Option W32)
    (hof : pageOf (p + o) = some (k, i)) (hp : p % 0x1000 = 0) (hlo : 0x100 ≤ o) (hhi : o < 0x1000)
    (hdef : definedAt k o = true) :
    s.regWrite a (p + o) w hw = s.blockWrite a p k i o w hw := by
  simp only [regWrite, hof, pageBase_add hp hhi, page_add_mod hp hhi, hdef, Bool.not_true, Bool.false_eq_true, if_false,
    if_neg (Nat.not_lt.2 hlo)]

/-- The pages whose registers beyond the header make no requests of their own. -/
def plainPages : List PageKind :=
  [.pool, .refSel, .twin, .cat, .pcie, .ethTmt, .ethPtp, .flc, .ttCtl, .ttTcls, .fmt, .quad, .defr, .synCtl, .synQuad,
    .proGroup, .pitCtl, .drcCtl, .drcTrn, .drcGlob, .rot, .avs, .cbCtl, .mail]

theorem State.blockWrite_of_plain (s : State) (a : Acc) (p i o : Nat) {k : PageKind} (w : W32) (hw : Option W32)
    (hk : k ∈ plainPages) : s.blockWrite a p k i o w hw = (s.storeWord a p k i o w hw).s := by
  unfold plainPages at hk
  fin_cases hk <;> rfl

theorem exec_registerWrite {s : State} {a : Acc} {addr : Nat} (w : W32) (hw : Option W32) (h : Reaches s a)
    (haddr : addr < 0x2000000) (hal : addr % 4 = 0) :
    exec (.registerWrite a addr (bytesOf w) hw) s = .next ((s.regWrite a addr w hw).taken a).watch := by
  show execRegisterWrite a addr (bytesOf w) hw s = _
  rw [execRegisterWrite, if_pos (by rw [show (bytesOf w).length = 4 from rfl]; omega), runRails, run_of_running _ h.1,
    State.viaPath_of_reaches _ _ h, State.regStore_word _ _ _ _ hal]

/-! ### Reads of counters (R49, R52, R124) -/

theorem exec_rcCounterRead {s t : State} {a : Acc} {p o : Nat} {k : PageKind} {i : Nat} {clash : RcClash} {v : W32}
    (h : Reaches s a) (hof : pageOf (p + o) = some (k, i)) (hp : p % 0x1000 = 0) (hhi : o < 0x1000) (hal : o % 4 = 0)
    (hcnt : isCounter k o = true) (hread : s.countRead a.m p k i o clash = (t, v)) :
    exec (.rcCounterRead a (p + o) clash) s = .next (t.answerWord a.m (s.readMask a k i o v)) := by
  have hal : (p + o) % 4 = 0 := by omega
  show execRcCounterRead a (p + o) clash s = _
  simp only [execRcCounterRead, hof, page_add_mod hp hhi, pageBase_add hp hhi, hal, hcnt, and_self, if_true,
    run_of_running _ h.1, State.viaRead_of_reaches _ _ h, hread]

theorem State.countRead_of_32 (s : State) (m p i : Nat) {k : PageKind} {o : Nat} (clash : RcClash)
    (h : ¬(k = .ethStat ∧ 0x800 ≤ o)) : s.countRead m p k i o clash = (s.settlePage k i).rcRead p k i o clash := if_neg h

theorem State.countRead_of_64 (s : State) (m p i : Nat) {o : Nat} (clash : RcClash) (h : 0x800 ≤ o) :
    s.countRead m p .ethStat i o clash = s.statRead m p i o clash := if_pos ⟨rfl, h⟩

section
variable {s : State} {p o : Nat}

theorem State.rcRead_none {k : PageKind} {i : Nat} (h : s.bit p PAGE_STAT_reset_busy = false) :
    s.rcRead p k i o .none = (s.setWord (p + o) 0, s.word (p + o)) := by
  rw [rcRead, h, if_neg Bool.false_ne_true]

theorem State.rcRead_increment {k : PageKind} {i : Nat} (n : Nat) (h : s.bit p PAGE_STAT_reset_busy = false) :
    s.rcRead p k i o (.increment n) = (s.setWord (p + o) (BitVec.ofNat 32 (min n (2 ^ 32 - 1))), s.word (p + o)) := by
  rw [rcRead, h, if_neg Bool.false_ne_true]

theorem State.rcRead_snapshot {k : PageKind} {i : Nat} (h : s.bit p PAGE_STAT_reset_busy = false) (ho : 0x800 ≤ o) :
    s.rcRead p k i o .snapshot = (s.clashSnap p k i, 0) := by
  simp only [rcRead, h, Bool.false_eq_true, if_false, if_neg (Nat.not_lt.2 ho)]

theorem State.statRead_none {lp : Nat} (m : Nat) (hal : o % 8 = 0) (h : s.bit p PAGE_STAT_reset_busy = false)
    (hlp : s.lpExists lp = true) : s.statRead m p lp o .none =
      (((s.setWord (p + o) 0).setWord (p + o + 4) 0).setMreg m (p + o + 4) (s.word (p + o + 4)), s.word (p + o)) := by
  simp only [statRead, hal, h, hlp, ne_eq, not_true_eq_false, Bool.not_true, Bool.or_self, Bool.false_eq_true, if_false]

theorem State.statRead_increment {lp n : Nat} (m : Nat) (hal : o % 8 = 0) (h : s.bit p PAGE_STAT_reset_busy = false)
    (hlp : s.lpExists lp = true) (hn : n < 2 ^ 64) : s.statRead m p lp o (.increment n) =
      (((s.setWord (p + o) (BitVec.ofNat 32 n)).setWord (p + o + 4) (BitVec.ofNat 32 (n / 2 ^ 32))).setMreg m (p + o + 4)
        (s.word (p + o + 4)), s.word (p + o)) := by
  simp only [statRead, hal, h, hlp, ne_eq, not_true_eq_false, Bool.not_true, Bool.or_self, Bool.false_eq_true, if_false,
    Nat.min_eq_left (Nat.le_sub_one_of_lt hn)]

end

/-- Settles O7: an aligned write of four bytes is one register's; a read answers the count as it stood. -/
theorem registerAccessCompletes : Obligations.RegisterAccessCompletes := by
  refine ⟨fun s a p o k i w hw h hk hof hp hlo hhi hal hdef => ?_,
    fun s u a p o n k i hu h hof hp hhi hal hcnt h32 hidle => ⟨?_, ?_, fun hlo => ?_⟩,
    fun s a p o n lp h hof hp hhi hal hlo hcnt hlp hidle hn => ⟨?_, ?_⟩⟩
  · rw [exec_registerWrite w hw h (addr_lt_of_pageOf hof) (by omega), State.regWrite_of_block _ _ _ _ hof hp hlo hhi hdef,
      State.blockWrite_of_plain _ _ _ _ _ _ _ hk]
  · exact exec_rcCounterRead h hof hp hhi hal hcnt (by rw [State.countRead_of_32 _ _ _ _ _ h32, ← hu, State.rcRead_none hidle])
  · exact exec_rcCounterRead h hof hp hhi hal hcnt
      (by rw [State.countRead_of_32 _ _ _ _ _ h32, ← hu, State.rcRead_increment n hidle])
  · exact exec_rcCounterRead h hof hp hhi hal hcnt
      (by rw [State.countRead_of_32 _ _ _ _ _ h32, ← hu, State.rcRead_snapshot hidle hlo])
  · exact exec_rcCounterRead h hof hp hhi (by omega) hcnt
      (by rw [State.countRead_of_64 _ _ _ _ _ hlo, State.statRead_none _ hal hidle hlp])
  · exact exec_rcCounterRead h hof hp hhi (by omega) hcnt
      (by rw [State.countRead_of_64 _ _ _ _ _ hlo, State.statRead_increment _ hal hidle hlp hn])

/-! ### Accesses where no register lies (R43) -/

/-- No register lies at the address. -/
def NoRegister (addr : Nat) : Prop :=
  pageOf addr = none ∨ ∃ k i, pageOf addr = some (k, i) ∧ definedAt k (addr % 0x1000 / 4 * 4) = false

theorem exec_unmappedAccess {s : State} {a : Acc} {addr : Nat} (isWrite : Bool) (h : Reaches s a) (hnone : NoRegister addr) :
    exec (.unmappedAccess a addr isWrite) s = .next (
      if isWrite then (s.capture pgDev 0xF08 accWrite a.m addr).answer a.m .ok []
      else if a.m = hostMaster then (s.capture pgDev 0xF08 accRead a.m addr).answer a.m .ok [0, 0, 0, 0]
      else (s.capture pgDev 0xF08 accRead a.m addr).answer a.m .busError []) := by
  obtain ⟨hlow, hissues, hpath⟩ := h
  show execUnmappedAccess a addr isWrite s = _
  rcases hnone with hof | ⟨k, i, hof, hdef⟩
  · cases isWrite <;> simp [execUnmappedAccess, run_of_running _ hlow, hof, hissues, hpath, State.accErr]
  · cases isWrite <;> simp [execUnmappedAccess, run_of_running _ hlow, hof, hdef, hissues, hpath, State.accErr]

/-- Settles O58: the capture, and the answer that the master and the direction of the access give. -/
theorem unmappedAccessIsLogged : Obligations.UnmappedAccessIsLogged := by
  refine fun s a addr h hnone => ⟨fun hm => ?_, fun hm => ?_, ?_⟩
  · rw [exec_unmappedAccess false h hnone, if_neg Bool.false_ne_true, if_pos hm]
  · rw [exec_unmappedAccess false h hnone, if_neg Bool.false_ne_true, if_neg hm]
  · rw [exec_unmappedAccess true h hnone, if_pos rfl]

end Sys2Proof.Machine
end

section
/-!
The video lanes (R65 to R86, R327): the events of a receive and of a transmit lane, the handovers of both, and the writes of their
registers.
-/
namespace Sys2Proof.Machine

/-! ### Commands that may change what rails carry -/

theorem runRails_of_running {s : State} (f : State → State) (hlow : s.low = false) : runRails s f = .next (f s).watch :=
  run_of_running _ hlow

theorem runRails_viaPath {s : State} {a : Acc} (addr : Nat) (f : State → State) (h : Reaches s a) :
    runRails s (fun s => s.viaPath a addr f) = .next ((f s).taken a).watch := by
  rw [runRails_of_running _ h.1, State.viaPath_of_reaches _ _ h]

/-! ### Wake, signal detect and lock of a receive lane (R67, R68, R71, R72) -/

section
variable {s : State} {lane : Fin 512}

theorem exec_rxWakeDone (hlow : s.low = false) (hwaking : (s.rx lane).waking = true) :
    exec (.rxWakeDone lane) s = .next ((((s.setRx lane { s.rx lane with waking := false }).setBit (pgRxl lane) RXL_STAT_awake
      true).rxStart lane).watch) := by
  show execRxWakeDone lane s = _
  simp only [execRxWakeDone, runRails_of_running _ hlow, hwaking, if_true]

/-- A rise of signal detect on a lane that sleeps with wake_det wakes it (R72). -/
theorem exec_signalDetectRise_of_asleep (hlow : s.low = false) (hsd : s.bit (pgRxl lane) RXL_STAT_sd = false)
    {u : State} (hu : s.setBit (pgRxl lane) RXL_STAT_sd true = u) (hsleep : u.bit (pgRxl lane) RXL_CTL_sleep = true)
    (hdet : u.bit (pgRxl lane) RXL_CTL_wake_det = true) :
    exec (.signalDetectRise lane) s = .next (((u.setBit (pgRxl lane) RXL_CTL_sleep false).keepParity (pgRxl lane) .rxl
      0x100).setRx lane { u.rx lane with waking := true }).watch := by
  show execSignalDetectRise lane s = _
  simp only [execSignalDetectRise, runRails_of_running _ hlow, hsd, hu, hsleep, hdet, Bool.and_self, Bool.false_eq_true, if_true,
    if_false]

theorem exec_signalDetectFall (hlow : s.low = false) (hsd : s.bit (pgRxl lane) RXL_STAT_sd = true) :
    exec (.signalDetectFall lane) s =
      .next (((s.setBit (pgRxl lane) RXL_STAT_sd false).irq (pgRxl lane) IRQ_rxl_sd_loss).rxLose lane).watch := by
  show execSignalDetectFall lane s = _
  simp only [execSignalDetectFall, runRails_of_running _ hlow, hsd, if_true]

theorem exec_rxLockLoss (hlow : s.low = false) : exec (.rxLockLoss lane) s = .next (s.rxLose lane).watch :=
  runRails_of_running _ hlow

theorem State.rxLose_of_locked {L : Nat} (h : s.bit (pgRxl L) RXL_STAT_lock = true) :
    s.rxLose L = (((s.rxDrop L).bump (pgRxl L) RXL_LOCK_LOSS_n).irq (pgRxl L) IRQ_rxl_lock_loss).rxStart L := if_pos h

theorem State.rxLose_of_unlocked {L : Nat} (h : s.bit (pgRxl L) RXL_STAT_lock = false) : s.rxLose L = s :=
  if_neg (Bool.eq_false_iff.1 h)

/-- A lane that hunts has stayed on a code for the whole dwell (R68). -/
def State.DwellOver (s : State) (L : Nat) : Prop :=
  s.bit (pgRxl L) RXL_STAT_awake = true ∧ (s.rx L).fixed = false ∧ s.bit (pgRxl L) RXL_STAT_lock = false ∧
    s.bit (pgRxl L) RXL_STAT_sd = true ∧ (s.rx L).dwellFrom + huntDwell < s.now + 16

/-- The lane tries the n-th code of the hunt from the end of the dwell on (R68). -/
def State.huntAt (s : State) (L n : Nat) : State :=
  s.setRx L { s.rx L with hunt := n, dwellFrom := (s.rx L).dwellFrom + huntDwell }

theorem exec_huntDwellExpire (hlow : s.low = false) (h : s.DwellOver lane) : exec (.huntDwellExpire lane) s = .next
    (if (s.rx lane).hunt = 8 then (s.huntAt lane 0).bump (pgRxl lane) RXL_HUNT_FAIL_n
      else s.huntAt lane ((s.rx lane).hunt + 1)).watch := by
  obtain ⟨hawake, hfixed, hlock, hsd, hdwell⟩ := h
  show execHuntDwellExpire lane s = _
  simp only [execHuntDwellExpire, runRails_of_running _ hlow, hawake, hfixed, hlock, hsd, hdwell, decide_true, Bool.not_false,
    Bool.and_self, if_true, State.when, beq_iff_eq]
  by_cases h8 : (s.rx lane).hunt = 8
  · simp only [if_pos h8, State.huntAt, hfixed]
  · simp only [if_neg h8, State.huntAt, hfixed]

theorem exec_rxLock (hlow : s.low = false) (hawake : s.bit (pgRxl lane) RXL_STAT_awake = true)
    (hlock : s.bit (pgRxl lane) RXL_STAT_lock = false) (hsd : s.bit (pgRxl lane) RXL_STAT_sd = true)
    (hcode : s.rxCandidate lane ≤ 8) {u : State}
    (hu : (((s.rxSettle lane).setBit (pgRxl lane) RXL_STAT_lock true).setFld (pgRxl lane) RXL_STAT_rate
      (s.rxCandidate lane)).irq (pgRxl lane) IRQ_rxl_lock = u) :
    exec (.rxLock lane) s = .next (if u.rxDelivers lane then u.srcBack lane else u).watch := by
  show execRxLock lane s = _
  simp only [execRxLock, runRails_of_running _ hlow, hawake, hlock, hsd, hcode, decide_true, Bool.not_false, Bool.and_self,
    if_true, hu]

/-- A lane that hunted and has no lock tries the rate that RXL_CTL has newly fixed (R68). -/
theorem exec_rxRateChange_of_newly_fixed (hlow : s.low = false) (hchange : (s.rx lane).change = true)
    (hhunts : (s.rx lane).fixed = false) (hfixed : s.bit (pgRxl lane) RXL_CTL_fixed = true)
    (hlock : s.bit (pgRxl lane) RXL_STAT_lock = false) :
    exec (.rxRateChange lane) s = .next ((s.setRx lane { s.rx lane with
      change := false, fixed := true, rate := s.fld (pgRxl lane) RXL_CTL_rate }).rxStart lane).watch := by
  have hlock (r : RxLane) : (s.setRx lane r).bit (pgRxl lane) RXL_STAT_lock = false := hlock
  show execRxRateChange lane s = _
  simp only [execRxRateChange, runRails_of_running _ hlow, hchange, hhunts, hfixed, hlock, Bool.not_true, Bool.true_eq_false,
    Bool.false_eq_true, false_and, or_self, if_false]

end

/-! ### The pattern checker (R78) -/

/-- The last 64 bits received are correct: by the check field in mode 6, else by the pattern of the mode. -/
def State.Last64Good (s : State) (L : Nat) (bits : List Bool) : Prop :=
  (s.fld (pgRxl L) RXL_PAT_mode = 6 → 64 ≤ bits.length ∧ (bits.drop (bits.length - 64)).all id = true) ∧
    (s.fld (pgRxl L) RXL_PAT_mode ≠ 6 →
      prbsGood (s.fld (pgRxl L) RXL_PAT_mode) (s.bit (pgRxl L) RXL_PAT_inv) bits = true)

theorem exec_checkerSync {s : State} {lane : Fin 512} {bits : List Bool} (hlow : s.low = false)
    (hlock : s.bit (pgRxl lane) RXL_STAT_lock = true) (h1 : 1 ≤ s.fld (pgRxl lane) RXL_PAT_mode)
    (h6 : s.fld (pgRxl lane) RXL_PAT_mode ≤ 6) (hgood : s.Last64Good lane bits) :
    exec (.checkerSync ⟨lane, bits⟩) s = .next ((s.rxSettle lane).setBit (pgRxl lane) RXL_STAT_chk_sync true).watch := by
  show execCheckerSync ⟨lane, bits⟩ s = _
  obtain ⟨hfield, hpattern⟩ := hgood
  by_cases h : s.fld (pgRxl lane) RXL_PAT_mode = 6
  · obtain ⟨hlen, hall⟩ := hfield h
    simp [execCheckerSync, runRails_of_running _ hlow, hlock, h, hlen, hall]
  · simp [execCheckerSync, runRails_of_running _ hlow, hlock, h, h1, h6, hpattern h]

theorem exec_checkerSyncLoss {s : State} {lane : Fin 512} {errs : Nat} (hlow : s.low = false)
    (hsync : s.bit (pgRxl lane) RXL_STAT_chk_sync = true) (herrs : 256 < errs) :
    exec (.checkerSyncLoss lane errs) s = .next
      (((((s.rxSettle lane).bump (pgRxl lane) RXL_ERR_n errs).bump (pgRxl lane) RXL_SYNC_LOSS_n).irq (pgRxl lane)
        IRQ_rxl_sync_loss).setBit (pgRxl lane) RXL_STAT_chk_sync false).watch := by
  show execCheckerSyncLoss lane errs s = _
  simp only [execCheckerSyncLoss, runRails_of_running _ hlow, hsync, herrs, if_true]

/-- Settles O16: each event, on a lane in the state that the event meets. -/
theorem receiveLaneEventsComplete : Obligations.ReceiveLaneEventsComplete := by
  refine ⟨fun s lane hlow hwaking => exec_rxWakeDone hlow hwaking,
    fun s lane hlow hsd hsleep hdet => exec_signalDetectRise_of_asleep hlow hsd rfl hsleep hdet,
    fun s lane hlow hsd => ⟨fun hlock => ?_, fun hlock => ?_⟩,
    fun s lane hlow hlock => ?_,
    fun s lane hlow hawake hfixed hlock hsd hdwell => ⟨fun h8 => ?_, fun h8 => ?_⟩,
    fun s lane hlow hawake hlock hsd hcode => exec_rxLock hlow hawake hlock hsd hcode rfl,
    fun s lane hlow hchange hhunts hfixed hlock => exec_rxRateChange_of_newly_fixed hlow hchange hhunts hfixed hlock,
    fun s lane bits hlow hlock h1 h6 hfield hpattern => exec_checkerSync hlow hlock h1 h6 ⟨hfield, hpattern⟩,
    fun s lane errs hlow hsync herrs => exec_checkerSyncLoss hlow hsync herrs⟩
  · rw [exec_signalDetectFall hlow hsd, State.rxLose_of_locked hlock]
  · rw [exec_signalDetectFall hlow hsd, State.rxLose_of_unlocked hlock]
  · rw [exec_rxLockLoss hlow, State.rxLose_of_locked hlock]
  · rw [exec_huntDwellExpire hlow ⟨hawake, hfixed, hlock, hsd, hdwell⟩, if_neg h8]
    rfl
  · rw [exec_huntDwellExpire hlow ⟨hawake, hfixed, hlock, hsd, hdwell⟩, if_pos h8]
    rfl

/-! ### Wake, rate and phase of a transmit lane (R70, R71, R327) -/

theorem exec_txWakeDone {s u : State} {lane : Fin 512} (hlow : s.low = false) (hwaking : (s.tx lane).waking = true)
    (hu : s.txSettle lane = u) :
    exec (.txWakeDone lane) s = .next (((u.setTx lane { u.tx lane with waking := false }).setBit (pgTxl lane) TXL_STAT_awake
      true).irq (pgTxl lane) IRQ_txl_wake).watch := by
  show execTxWakeDone lane s = _
  simp only [execTxWakeDone, runRails_of_running _ hlow, hwaking, hu, if_true]

theorem exec_txRateChange {s : State} {lane : Fin 512} (hlow : s.low = false) :
    exec (.txRateChange lane) s = .next (s.txRate lane).watch :=
  runRails_of_running (fun s => s.txRate lane) hlow

/-- An awake lane whose target is another rate code takes it, with its clock family (R70). -/
theorem State.txRate_of_awake {s u : State} {L c : Nat} (htarget : s.txTarget L = some c)
    (hnew : c ≠ s.fld (pgTxl L) TXL_STAT_rate)
    (hu : ((s.txSettle L).setFld (pgTxl L) TXL_STAT_rate c).setBit (pgTxl L) TXL_STAT_family (c != 0 && c % 2 == 0) = u)
    (hawake : u.bit (pgTxl L) TXL_STAT_awake = true) :
    s.txRate L = (u.bump (pgTxl L) TXL_RATE_CHG_n).irq (pgTxl L) IRQ_txl_rate_chg := by
  simp only [txRate, htarget, if_neg hnew, hu, State.when, hawake, if_true]

/-- One step towards the position asked for, if it is not reached (R327). -/
theorem exec_txPhaseStep {s : State} {lane : Fin 512} {goal : Int} (hlow : s.low = false)
    (hawake : s.bit (pgTxl lane) TXL_STAT_awake = true) (hgoal : toSigned 8 (s.fld (pgTxl lane) TXL_PHASE_pos) = goal) :
    exec (.txPhaseStep lane) s = .next
      (if (s.tx lane).phase = goal then s
      else s.setTx lane { s.tx lane with phase := phaseToward (s.tx lane).phase goal }).watch := by
  show execTxPhaseStep lane s = _
  simp only [execTxPhaseStep, runRails_of_running _ hlow, hawake, hgoal, Bool.not_true, Bool.false_eq_true, if_false,
    phaseToward]
  rcases lt_trichotomy (s.tx lane).phase goal with h | h | h
  · simp only [if_pos h, if_neg h.ne]
  · simp only [h, lt_irrefl, if_false, if_true]
  · simp only [if_pos h, if_neg h.not_gt, if_neg h.ne']

/-! ### Handovers (R81 to R83) -/

theorem exec_rxHandover {s : State} {lane : Fin 512} (matched : Bool) (hlow : s.low = false) :
    exec (.rxHandover lane matched) s = .next (s.rxHandover lane matched).watch :=
  runRails_of_running (fun s => s.rxHandover lane matched) hlow

theorem exec_txHandover {s : State} {lane : Fin 512} (inPhase : Bool) (hlow : s.low = false) :
    exec (.txHandover lane inPhase) s = .next (s.txHandover lane inPhase).watch :=
  runRails_of_running (fun s => s.txHandover lane inPhase) hlow

section
variable {s : State} {L : Nat}

theorem State.rxHandover_of_matched (hbusy : s.bit (pgRxl L) RXL_STAT_ho_busy = true) : s.rxHandover L true = s.rxLand L := by
  simp only [rxHandover, hbusy, Bool.not_true, Bool.true_or, Bool.false_eq_true, if_false, if_true]

theorem State.rxHandover_of_unmatched (hbusy : s.bit (pgRxl L) RXL_STAT_ho_busy = true)
    (hsd : s.bit (pgRxl L) RXL_STAT_sd = true) : s.rxHandover L false =
      (((s.setBit (pgRxl L) RXL_STAT_ho_busy false).irq (pgRxl L) IRQ_rxl_handover_fail).err (pgRxl L) 0x020).rotFail 0
        (L / 32) := by
  simp only [rxHandover, hbusy, hsd, Bool.not_true, Bool.or_self, Bool.false_eq_true, if_false]

/-- The lane page shows that the handover is done, and the slice taking over has its equalisation (R73, R81). -/
def State.rxHandedOver (s : State) (L : Nat) : State :=
  ((s.setBit (pgRxl L) RXL_STAT_ho_busy false).irq (pgRxl L) IRQ_rxl_ho_done).rxLoadEq L

/-- The landing of a handback: the lane's own slice is in service again (R444). -/
theorem State.rxLand_of_returning (h : (s.ro 0 (L / 32)).st = 3) : s.rxLand L =
    ((s.rxHandedOver L).setBit (pgRxl L) RXL_STAT_on_swing false).setFld (pgRxl L) RXL_CAL_offset ((s.rxHandedOver L).rx L).cal :=
  if_pos h

/-- The landing of a handover: the swing slice is in service, and the lane's own is calibrated (R75, R445). -/
theorem State.rxLand_of_leaving (h : (s.ro 0 (L / 32)).st ≠ 3) : s.rxLand L =
    (((s.rxHandedOver L).rotOut 0 (L / 32)).setFld (pgRxl L) RXL_CAL_offset ((s.rxHandedOver L).ro 0 (L / 32)).cal).rxCal L :=
  if_neg h

/-- A handover of the transmit lane may end now: it is its switching instant, and no phase move is in progress (R82, R327). -/
def State.TxMayLand (s : State) (L : Nat) : Prop :=
  s.bit (pgTxl L) TXL_STAT_ho_busy = true ∧ s.txInstant L = true ∧
    (s.bit (pgTxl L) TXL_STAT_awake = true → (s.tx L).phase = toSigned 8 (s.fld (pgTxl L) TXL_PHASE_pos))

theorem State.txHandover_of_instant (h : s.TxMayLand L) (inPhase : Bool) : s.txHandover L inPhase =
    if inPhase then s.txLand L
    else if (s.tx L).hoFrames + 1 < 8 then s.setTx L { s.tx L with hoFrames := (s.tx L).hoFrames + 1 }
    else ((((s.setTx L { s.tx L with hoFrames := 0 }).setBit (pgTxl L) TXL_STAT_ho_busy false).irq (pgTxl L)
      IRQ_txl_handover_fail).err (pgTxl L) 0x020).rotFail 1 (L / 32) := by
  obtain ⟨hbusy, hinstant, hphase⟩ := h
  have hstill : ¬(s.bit (pgTxl L) TXL_STAT_awake ∧ (s.tx L).phase ≠ toSigned 8 (s.fld (pgTxl L) TXL_PHASE_pos)) :=
    fun hmoves => hmoves.2 (hphase hmoves.1)
  simp only [txHandover, hbusy, hinstant, if_neg hstill, Bool.not_true, Bool.or_self, Bool.false_eq_true, if_false]

/-- The lane page shows that the handover is done, the slice taking over has its equalisation, and no frame has waited (R82). -/
def State.txHandedOver (s : State) (L : Nat) : State :=
  let l := ((s.setBit (pgTxl L) TXL_STAT_ho_busy false).irq (pgTxl L) IRQ_txl_ho_done).txLoadEq L
  l.setTx L { l.tx L with hoFrames := 0 }

theorem State.txLand_of_returning (h : ((s.txHandedOver L).ro 1 (L / 32)).st = 3) :
    s.txLand L = (s.txHandedOver L).setBit (pgTxl L) TXL_STAT_on_swing false := if_pos h

theorem State.txLand_of_leaving (h : ((s.txHandedOver L).ro 1 (L / 32)).st ≠ 3) :
    s.txLand L = ((s.txHandedOver L).rotOut 1 (L / 32)).txCal L := if_neg h

end

/-- Settles O18: each event, on a lane in the state that the event meets; a landing is a handover's or a handback's. -/
theorem transmitLaneEventsComplete : Obligations.TransmitLaneEventsComplete := by
  refine ⟨fun s lane hlow hwaking => exec_txWakeDone hlow hwaking rfl, fun s lane c hlow htarget hnew hawake => ?_,
    fun s lane hlow hbusy => ⟨fun hst => ?_, fun hst => ?_, fun hsd => ?_⟩,
    fun s lane hlow hbusy hinstant hphase => ?_,
    fun s lane hlow hawake => exec_txPhaseStep hlow hawake rfl⟩
  · rw [exec_txRateChange hlow, State.txRate_of_awake htarget hnew rfl hawake]
  · rw [exec_rxHandover true hlow, State.rxHandover_of_matched hbusy, State.rxLand_of_leaving hst]
    rfl
  · rw [exec_rxHandover true hlow, State.rxHandover_of_matched hbusy, State.rxLand_of_returning hst]
    rfl
  · rw [exec_rxHandover false hlow, State.rxHandover_of_unmatched hbusy hsd]
  · have hland := State.txHandover_of_instant ⟨hbusy, hinstant, hphase⟩
    refine ⟨fun hst => ?_, fun hst => ?_, fun hframes => ?_, fun hframes => ?_⟩
    · rw [exec_txHandover true hlow, hland, if_pos rfl, State.txLand_of_returning hst]
      rfl
    · rw [exec_txHandover true hlow, hland, if_pos rfl, State.txLand_of_leaving hst]
      rfl
    · rw [exec_txHandover false hlow, hland, if_neg Bool.false_ne_true, if_pos hframes]
    · rw [exec_txHandover false hlow, hland, if_neg Bool.false_ne_true, if_neg (Nat.not_lt.2 hframes)]

/-! ### Writes of lane registers (R79, R83, R84, R327) -/

section
variable {s : State} {a : Acc} {lane : Fin 512}

theorem exec_rxSleepWrite (w : W32) (h : Reaches s a) :
    exec (.rxSleepWrite a lane w false) s = .next ((s.rxWrite a lane 0x100 w).taken a).watch := runRails_viaPath _ _ h

theorem exec_rxPatternWrite (w : W32) (h : Reaches s a) :
    exec (.rxPatternWrite a lane w) s = .next ((s.rxWrite a lane 0x10C w).taken a).watch := runRails_viaPath _ _ h

theorem exec_injectRateSet_rx (w : W32) (h : Reaches s a) :
    exec (.injectRateSet a false lane w) s = .next ((s.rxWrite a lane 0x110 w).taken a).watch := by
  show execInjectRateSet a false lane w s = _
  simp only [execInjectRateSet, Bool.false_eq_true, if_false, runRails_viaPath _ _ h]

theorem exec_injectSingle_rx {w : W32} (h : Reaches s a)
    (hw : w = s.compose (pgRxl lane) .rxl 0x110 (setBits (s.word (pgRxl lane + 0x110)) 0 1 1)) :
    exec (.injectSingle a false lane) s = .next ((s.rxWrite a lane 0x110 w).taken a).watch := by
  show execInjectSingle a false lane s = _
  simp only [execInjectSingle, Bool.false_eq_true, if_false, runRails_viaPath _ _ h, ← hw]

theorem exec_laneSwapRequest_rx {w : W32} (h : Reaches s a)
    (hw : w = s.compose (pgRxl lane) .rxl 0x100 (setBits (s.word (pgRxl lane + 0x100)) 8 1 1)) :
    exec (.laneSwapRequest a false lane) s = .next ((s.rxWrite a lane 0x100 w).taken a).watch := by
  show execLaneSwapRequest a false lane s = _
  simp only [execLaneSwapRequest, Bool.false_eq_true, if_false, runRails_viaPath _ _ h, ← hw]

theorem exec_txSleepWrite (w : W32) (h : Reaches s a) :
    exec (.txSleepWrite a lane w) s = .next ((s.txWrite a lane 0x100 w).taken a).watch := runRails_viaPath _ _ h

theorem exec_txPatternWrite (w : W32) (h : Reaches s a) :
    exec (.txPatternWrite a lane w) s = .next ((s.txWrite a lane 0x10C w).taken a).watch := runRails_viaPath _ _ h

theorem exec_txPhaseWrite (w : W32) (h : Reaches s a) :
    exec (.txPhaseWrite a lane w) s = .next ((s.txWrite a lane 0x114 w).taken a).watch := runRails_viaPath _ _ h

theorem exec_injectRateSet_tx (w : W32) (h : Reaches s a) :
    exec (.injectRateSet a true lane w) s = .next ((s.txWrite a lane 0x110 w).taken a).watch := by
  show execInjectRateSet a true lane w s = _
  simp only [execInjectRateSet, if_true, runRails_viaPath _ _ h]

theorem exec_injectSingle_tx {w : W32} (h : Reaches s a)
    (hw : w = s.compose (pgTxl lane) .txl 0x110 (setBits (s.word (pgTxl lane + 0x110)) 0 1 1)) :
    exec (.injectSingle a true lane) s = .next ((s.txWrite a lane 0x110 w).taken a).watch := by
  show execInjectSingle a true lane s = _
  simp only [execInjectSingle, if_true, runRails_viaPath _ _ h, ← hw]

theorem exec_laneSwapRequest_tx {w : W32} (h : Reaches s a)
    (hw : w = s.compose (pgTxl lane) .txl 0x100 (setBits (s.word (pgTxl lane + 0x100)) 8 1 1)) :
    exec (.laneSwapRequest a true lane) s = .next ((s.txWrite a lane 0x100 w).taken a).watch := by
  show execLaneSwapRequest a true lane s = _
  simp only [execLaneSwapRequest, if_true, runRails_viaPath _ _ h, ← hw]

end

/-- A register of a receive lane that takes the whole word acts on it, the bit counts being up to date. -/
theorem State.rxWrite_of_admitted {s r : State} {a : Acc} {L o : Nat} {w : W32} (hr : s.rxSettle L = r)
    (h : Admitted r a (pgRxl L) .rxl L o w) :
    s.rxWrite a L o w = (r.stored a (pgRxl L) .rxl L o w).rxHook s a L o (r.word (pgRxl L + o)) w := by
  subst hr
  simp only [rxWrite, h.1, h.2, storeWord_old, if_true]

theorem State.txWrite_of_admitted {s r : State} {a : Acc} {L o : Nat} {w : W32} (hr : s.txSettle L = r)
    (h : Admitted r a (pgTxl L) .txl L o w) :
    s.txWrite a L o w = (r.stored a (pgTxl L) .txl L o w).txHook s a L o (r.word (pgTxl L + o)) w := by
  subst hr
  simp only [txWrite, h.1, h.2, storeWord_old, if_true]

section
variable (s pre : State) (a : Acc) (L : Nat) (old eff : W32)

theorem State.rxHook_ctl : s.rxHook pre a L 0x100 old eff = s.rxCtlWritten L old eff := rfl
theorem State.rxHook_pat : s.rxHook pre a L 0x10C old eff = s.rxPatWritten L old := rfl
theorem State.rxHook_inj : s.rxHook pre a L 0x110 old eff = s.injWritten pre a false L old eff := rfl
theorem State.txHook_ctl : s.txHook pre a L 0x100 old eff = s.txCtlWritten L old eff := rfl
theorem State.txHook_pat : s.txHook pre a L 0x10C old eff = s.txPatWritten pre a L old := rfl
theorem State.txHook_inj : s.txHook pre a L 0x110 old eff = s.injWritten pre a true L old eff := rfl
theorem State.txHook_phase : s.txHook pre a L 0x114 old eff = s := rfl

/-- The lane runs on from a new pattern mode: its checker has lost sync, and a locked lane starts or stops its words (R77, R78). -/
def State.rxNewMode : State :=
  let x := s.setBit (pgRxl L) RXL_STAT_chk_sync false
  if x.bit (pgRxl L) RXL_STAT_lock = false then x
  else if x.rxDelivers L = false then x.rxWordsStop L
  else if 1 ≤ getBits old 0 3 ∧ getBits old 0 3 ≤ 5 then x.srcBack L
  else x

theorem State.rxPatWritten_eq : s.rxPatWritten L old =
    if getBits old 0 4 = getBits ((s.rxAbort L).word (pgRxl L + 0x10C)) 0 4 then s.rxAbort L
    else (s.rxAbort L).rxNewMode L old := by
  simp only [rxPatWritten, rxNewMode]
  split
  · rfl
  · generalize (s.rxAbort L).setBit (pgRxl L) RXL_STAT_chk_sync false = x
    cases x.bit (pgRxl L) RXL_STAT_lock <;> cases x.rxDelivers L <;> rfl

/-- An injection exponent that is neither off nor 10 to 40 is ignored: the register keeps its word, and 0x010 is captured (R79). -/
def State.injJudged (p : Nat) : State :=
  if s.fld p RXL_INJ_exp ≠ 0 ∧ injOn (s.fld p RXL_INJ_exp) = false then
    ((s.setWord (p + 0x110) old).sameArmed pre p).accErr p 0x010 a accWrite (p + 0x110)
  else s

theorem State.injJudged_eq (p : Nat) : s.injJudged pre a old p =
    if s.fld p RXL_INJ_exp != 0 && !injOn (s.fld p RXL_INJ_exp) then
      ((s.setWord (p + 0x110) old).sameArmed pre p).accErr p 0x010 a accWrite (p + 0x110)
    else s :=
  if_congr (by rw [Bool.and_eq_true, bne_iff_ne, Bool.not_eq_true']) rfl rfl

/-- A single injection waits for the next bit of the lane (R79). -/
def State.rxSingle : State := if eff.getLsbD 0 then s.setRx L { s.rx L with injNext := true } else s

def State.txSingle : State := if eff.getLsbD 0 then s.setTx L { s.tx L with injNext := true } else s

theorem State.injWritten_rx :
    s.injWritten pre a false L old eff = ((s.rxAbort L).rxSingle L eff).injJudged pre a old (pgRxl L) := by
  rw [injJudged_eq]
  rfl

theorem State.injWritten_tx :
    s.injWritten pre a true L old eff = ((s.txAbort L).txSingle L eff).injJudged pre a old (pgTxl L) := by
  rw [injJudged_eq]
  rfl

/-- TXL_CTL.swap asks rotation for the lane (R84). -/
def State.txSwapNoted : State := s.setTx L { s.tx L with swapReq := (s.tx L).swapReq || eff.getLsbD 8 }

/-- TXL_CTL.sleep, as it was in old and is now, puts the lane to sleep or begins to wake it (R71). -/
def State.txSleepTaken : State :=
  if getBits old 0 1 = 0 ∧ s.fld (pgTxl L) TXL_CTL_sleep = 1 then
    (s.setBit (pgTxl L) TXL_STAT_awake false).setTx L { s.tx L with waking := false }
  else if getBits old 0 1 = 1 ∧ s.fld (pgTxl L) TXL_CTL_sleep = 0 then s.setTx L { s.tx L with waking := true }
  else s

/-- A lane that sends nothing of its formatter's takes a new rate at once (R70). -/
def State.txRateAtOnce : State :=
  if s.bit (pgTxl L) TXL_STAT_awake = false ∨ (Store.get (fun _ => ({} : Formatter)) s.fmtr L).fmt.isNone then s.txRate L else s

theorem State.txCtlWritten_eq :
    s.txCtlWritten L old eff = (((s.txAbort L).txSwapNoted L eff).txSleepTaken L old).txRateAtOnce L :=
  if_congr (by rw [Bool.or_eq_true, Bool.not_eq_true']; rfl) rfl rfl

end

/-- Settles O17: each write of a register is what its rule makes of the word stored. TXL_PHASE ends no handover (R83): a handover
waits for the phase to move (R327). -/
theorem laneRegisterWritesComplete : Obligations.LaneRegisterWritesComplete := by
  refine ⟨fun s a lane w h => ?_, fun s a lane w h => ?_⟩
  · intro p r kept c v d slept ctl q x mode pat y z inj
    have hctl (hadm : Admitted r a p .rxl lane 0x100 w) : s.rxWrite a lane 0x100 w = ctl := by
      rw [State.rxWrite_of_admitted rfl hadm, State.rxHook_ctl]
      rfl
    have hpat (hadm : Admitted r a p .rxl lane 0x10C w) : s.rxWrite a lane 0x10C w = pat := by
      rw [State.rxWrite_of_admitted rfl hadm, State.rxHook_pat, State.rxPatWritten_eq]
      rfl
    have hinj (hadm : Admitted r a p .rxl lane 0x110 w) : s.rxWrite a lane 0x110 w = inj := by
      rw [State.rxWrite_of_admitted rfl hadm, State.rxHook_inj, State.injWritten_rx]
      rfl
    refine ⟨fun hadm => ?_, fun hadm => ?_, fun hadm => ?_, fun hw hadm => ?_, fun hw hadm => ?_⟩
    · rw [exec_rxSleepWrite w h, hctl hadm]
    · rw [exec_rxPatternWrite w h, hpat hadm]
    · rw [exec_injectRateSet_rx w h, hinj hadm]
    · rw [exec_injectSingle_rx h hw, hinj hadm]
    · rw [exec_laneSwapRequest_rx h hw, hctl hadm]
  · intro p r kept c v slept x ctl q pat y z inj
    have hctl (hadm : Admitted r a p .txl lane 0x100 w) : s.txWrite a lane 0x100 w = ctl := by
      rw [State.txWrite_of_admitted rfl hadm, State.txHook_ctl, State.txCtlWritten_eq]
      rfl
    have hpat (hadm : Admitted r a p .txl lane 0x10C w) : s.txWrite a lane 0x10C w = pat := by
      rw [State.txWrite_of_admitted rfl hadm, State.txHook_pat]
      rfl
    have hinj (hadm : Admitted r a p .txl lane 0x110 w) : s.txWrite a lane 0x110 w = inj := by
      rw [State.txWrite_of_admitted rfl hadm, State.txHook_inj, State.injWritten_tx]
      rfl
    refine ⟨fun hadm => ?_, fun hadm => ?_, fun hadm => ?_, fun hadm => ?_, fun hw hadm => ?_, fun hw hadm => ?_⟩
    · rw [exec_txSleepWrite w h, hctl hadm]
    · rw [exec_txPatternWrite w h, hpat hadm]
    · rw [exec_injectRateSet_tx w h, hinj hadm]
    · rw [exec_txPhaseWrite w h, State.txWrite_of_admitted rfl hadm, State.txHook_phase]
    · rw [exec_injectSingle_tx h hw, hinj hadm]
    · rw [exec_laneSwapRequest_tx h hw, hctl hadm]

end Sys2Proof.Machine
end

section
/-!
SDI framing (R87 to R104): the formats and lines of a deframer, ancillary packets and the timecode set, and the start of a
formatter's output frame.
-/
namespace Sys2Proof.Machine

/-! ### Formats established (R87, R90, R91) -/

section
variable {s : State} {L t : Nat} {m : Measured}

/-- The lane is the base of its group, delivers words, and has measured a frame of structure m with no format established. -/
def State.Seeks (s : State) (L : Nat) (m : Measured) : Prop :=
  s.defBase L = L ∧ (s.df L).fmt = none ∧ s.rxDelivers L = true ∧ (s.df L).seen = some m

/-- A link group of more than one lane fails (R91). -/
def State.linksFail (s : State) (b : Nat) : Bool := 1 < s.defWidth b && s.groupFails b

/-- The frames of one structure in a row that each lane of base b needs (R87). -/
def State.framesNeeded (s : State) (b : Nat) : Nat :=
  if (s.groupLanes b).all (fun L => (s.df L).last == (s.df L).seen) then 1 else 2

theorem State.fmtReady_iff : s.fmtReady L = true ↔
    (∀ x ∈ s.groupLanes L, s.framesNeeded L ≤ (s.df x).run) ∧
      (s.bit (pgDef L) RXF_STAT_link_fault = false ∨ 2 ≤ (s.df L).sound) := by
  simp only [fmtReady, framesNeeded, Bool.and_eq_true, List.all_eq_true, Bool.or_eq_true, Bool.not_eq_true', decide_eq_true_eq]

/-- A report is borne out where its links, its frames and its picture are those that the lane has measured (log entry 195). -/
theorem State.fmtBorne_iff {pic : Fmt} {links frames : Nat} (hseen : (s.df L).seen = some m) :
    s.fmtBorne L pic links frames = true ↔ links = s.defWidth L ∧ frames = (s.df L).run ∧ pic = m.fmt := by
  simp only [fmtBorne, hseen, Bool.and_eq_true, beq_iff_eq, and_assoc]
  exact and_congr eq_comm (and_congr eq_comm eq_comm)

theorem State.fmtSeen_of_failing (h : s.Seeks L m) (hfails : s.linksFail L = true) : s.fmtSeen L t = s.linkFail L := by
  obtain ⟨hbase, hfmt, hdelivers, -⟩ := h
  have hgroup : 1 < s.defWidth L ∧ s.groupFails L = true := by simpa [linksFail] using hfails
  simp [fmtSeen, hbase, hfmt, hdelivers, hgroup]

theorem State.fmtSeen_of_sound (h : s.Seeks L m) (hfails : s.linksFail L = false) :
    s.fmtSeen L t = if s.fmtReady L then s.fmtFound L m t else s := by
  obtain ⟨hbase, hfmt, hdelivers, hseen⟩ := h
  have hgroup : ¬(1 < s.defWidth L ∧ s.groupFails L = true) := by simpa [linksFail] using hfails
  simp [fmtSeen, hbase, hfmt, hdelivers, hseen, hgroup]

end

theorem exec_formatEstablished {s : State} {lane : Fin 512} {cue : Fin 16} {pic : Fmt} {links frames : Nat}
    (hlow : s.low = false) : exec (.formatEstablished lane pic links frames cue) s =
      .next (if s.fmtBorne lane pic links frames then s.fmtSeen lane (s.now + cue) else s).watch := by
  show execFormatEstablished lane pic links frames cue s = _
  rw [execFormatEstablished, runRails_of_running _ hlow]

/-! ### Formats lost (R87) -/

section
variable {s : State} {L : Nat}

/-- The lanes of the group of base b show that its format is lost, or its links fail. -/
def State.fmtFails (s : State) (b : Nat) : Bool := s.linkLost b || s.linksFail b

/-- The end of the format of base b, with IRQ fmt_loss, and the Platform told of it. -/
def State.fmtDropped (s : State) (b : Nat) : State := ((s.fmtEnds b).irq (pgDef b) IRQ_defr_fmt_loss).srcFmtLost b

theorem State.fmtGone_of_lost (hfmt : (s.df (s.defBase L)).fmt.isSome = true) (hlost : s.fmtFails (s.defBase L) = true)
    {u : State} (hu : s.fmtDropped (s.defBase L) = u) :
    s.fmtGone L = if 1 < u.defWidth (s.defBase L) then u.linkFail (s.defBase L) else u := by
  subst hu
  have hgone : ((s.df (s.defBase L)).fmt.isSome && s.fmtFails (s.defBase L)) = true := by rw [hfmt, hlost, Bool.and_self]
  refine (if_pos hgone).trans ?_
  simp only [State.when, decide_eq_true_eq]
  rfl

theorem State.fmtGone_of_kept (h : (s.df (s.defBase L)).fmt = none ∨ s.fmtFails (s.defBase L) = false) : s.fmtGone L = s := by
  refine if_neg ?_
  change ¬((s.df (s.defBase L)).fmt.isSome && s.fmtFails (s.defBase L)) = true
  rcases h with h | h <;> simp [h]

end

theorem exec_formatLost {s : State} {lane : Fin 512} {links : Nat} (hlow : s.low = false) :
    exec (.formatLost lane links) s = .next (if s.defWidth (s.defBase lane) = links then s.fmtGone lane else s).watch := by
  show execFormatLost lane links s = _
  rw [execFormatLost, runRails_of_running _ hlow]

/-! ### Lines (R87, R92, R93, R94) -/

theorem exec_sdiLineReceived {s : State} {lane : Fin 512} {x : SdiLine} {cue : Fin 16} (hlow : s.low = false) :
    exec (.sdiLineReceived lane x.ended x.eav x.sav x.toLineBody cue) s = .next (s.sdiLine lane x (s.now + cue)).watch := by
  show execSdiLineReceived lane x.ended x.eav x.sav x.toLineBody cue s = _
  rw [execSdiLineReceived, runRails_of_running _ hlow]

section
variable {s u : State} {L upt b : Nat} {x : SdiLine}

theorem State.sdiLine_of_silent (h : s.rxDelivers L = false) : s.sdiLine L x upt = s := by
  simp [sdiLine, h]

/-- A line of a lane that delivers words is measured, and checked where a format is established. -/
theorem State.sdiLine_of_delivered (h : s.rxDelivers L = true) (hu : s.lineMeasured L x upt = u) :
    s.sdiLine L x upt = if (u.df (s.defBase L)).fmt.isNone then u else u.lineCheck L (s.defBase L) x := by
  simp [sdiLine, h, hu]

/-- A line that ends no frame moves the measurement on, and nothing else. -/
theorem State.lineMeasured_of_inside (h : x.ended = none) :
    s.lineMeasured L x upt = s.setDf L ((s.df L).lineIn x upt) := by
  simp only [lineMeasured, h]

theorem State.lineCheck_above_sd (h : s.defSd b = false) : s.lineCheck L b x =
    (s.when x.crcBad (·.bump (pgDef b) RXF_CRC_ERR_n)).when ((s.df L).line != 0 && x.num != (s.df L).line)
      (·.bump (pgDef b) RXF_LN_ERR_n) := by
  simp [lineCheck, h]

theorem State.lineCheck_of_sd (h : s.defSd b = true) (hedh : x.edh = none) : s.lineCheck L b x = s := by
  simp [lineCheck, h, hedh]

/-- The EDH errors of a line counted, and the flags of its packet shown (R93). -/
def State.edhNoted (s : State) (b : Nat) (e : Edh) : State :=
  (s.bump (pgDef b) RXF_EDH_ERR_n (e.apBad.toNat + e.ffBad.toNat)).setFld (pgDef b) RXF_STAT_edh_flags e.flags

/-- The field of the frame that the own count of lines has reached. -/
def State.fieldNow (s : State) (L b : Nat) : Nat :=
  match (s.df b).last with | some m => (decide (m.lines < 2 * (s.df L).line)).toNat | none => 0

theorem State.lineCheck_of_edh (h : s.defSd b = true) {e : Edh} (hedh : x.edh = some e) : s.lineCheck L b x =
    (s.edhNoted b e).edhCarry b (s.fieldNow L b) (e.apBad.toNat * 2 + e.ffBad.toNat * 4 + e.held % 8 * 8) := by
  simp only [lineCheck, h, hedh, if_true]
  rfl

end

/-- Settles O19: a report acts where the measurement bears it out (log entry 195); a line is measured, then checked as its interface
asks. -/
theorem sdiReceptionCompletes : Obligations.SdiReceptionCompletes := by
  refine ⟨fun s lane cue m pic links frames hlow hbase hfmt hdelivers hseen => ?_, fun s lane links hlow => ?_,
    fun s lane x cue hlow => ?_⟩
  · have hseeks : s.Seeks lane m := ⟨hbase, hfmt, hdelivers, hseen⟩
    refine ⟨fun hborne hfails hready => ?_, fun hborne hfails hready => ?_, fun hborne hfails => ?_, fun hborne => ?_⟩
    · rw [exec_formatEstablished hlow, if_pos ((State.fmtBorne_iff hseen).2 hborne), State.fmtSeen_of_sound hseeks hfails,
        if_pos (State.fmtReady_iff.2 hready)]
    · rw [exec_formatEstablished hlow, if_pos ((State.fmtBorne_iff hseen).2 hborne), State.fmtSeen_of_sound hseeks hfails,
        if_neg (mt State.fmtReady_iff.1 hready)]
    · rw [exec_formatEstablished hlow, if_pos ((State.fmtBorne_iff hseen).2 hborne), State.fmtSeen_of_failing hseeks hfails]
    · rw [exec_formatEstablished hlow, if_neg (mt (State.fmtBorne_iff hseen).1 hborne)]
  · refine ⟨fun hlinks hfmt hlost => ?_, fun hkept => ?_⟩
    · rw [exec_formatLost hlow, if_pos hlinks.symm, State.fmtGone_of_lost hfmt hlost rfl]
      rfl
    · rw [exec_formatLost hlow]
      rcases hkept with hlinks | hkept
      · rw [if_neg (Ne.symm hlinks)]
      · rw [State.fmtGone_of_kept hkept, ite_self]
  · refine ⟨fun hsilent => ?_, fun hdelivers => ⟨fun hended => State.lineMeasured_of_inside hended, fun hfmt => ?_,
      fun hfmt hsd => ?_, fun hfmt hsd e hedh => ?_, fun hfmt hsd hedh => ?_⟩⟩
    · rw [exec_sdiLineReceived hlow, State.sdiLine_of_silent hsilent]
    all_goals rw [exec_sdiLineReceived hlow, State.sdiLine_of_delivered hdelivers rfl]
    · rw [if_pos (Option.isNone_iff_eq_none.2 hfmt)]
    all_goals rw [if_neg (Bool.eq_false_iff.1 (Option.isNone_eq_false_iff.2 hfmt))]
    · rw [State.lineCheck_above_sd hsd]
      simp only [State.when, Bool.and_eq_true, bne_iff_ne]
    · rw [State.lineCheck_of_edh hsd hedh]
      rfl
    · rw [State.lineCheck_of_sd hsd hedh]

/-! ### Ancillary packets (R89, R95, R98, R99, R102) -/

theorem exec_ancPacketReceived {s : State} {lane : Fin 512} {k : AncPkt} {body : AncBody} {ok : Bool} {upt : Nat}
    (hlow : s.low = false) :
    exec (.ancPacketReceived lane k body ok upt) s = .next (s.ancIn lane k body ok upt).watch := by
  show execAncPacketReceived lane k body ok upt s = _
  rw [execAncPacketReceived, runRails_of_running _ hlow]

/-- The DID and SDID of a payload ID packet. -/
def IsPayloadId (k : AncPkt) : Prop := k.did = 0x241 ∧ k.sdid = 0x101

/-- A packet of stream 2 of a dual-stream link. -/
def State.SecondStream (s : State) (b : Nat) (k : AncPkt) : Prop := s.dualStream b = true ∧ k.stream = 2

section
variable {s : State} {L upt : Nat} {k : AncPkt} {body : AncBody} {ok : Bool}

theorem State.ancIn_of_second_stream (h : s.SecondStream (s.defBase L) k) : s.ancIn L k body ok upt = s := if_pos h

theorem State.ancIn_payloadId {v : W32} (h : ¬s.SecondStream (s.defBase L) k) (hpid : IsPayloadId k) :
    s.ancIn L k (.payloadId v) true upt = s.pidIn L v :=
  (if_neg h).trans (if_pos ⟨hpid, rfl⟩)

theorem State.ancIn_without_format (h : ¬s.SecondStream (s.defBase L) k) (hpid : ¬IsPayloadId k)
    (hfmt : (s.df (s.defBase L)).fmt = none) : s.ancIn L k body ok upt = s :=
  (if_neg h).trans ((if_neg fun hp => hpid hp.1).trans (if_pos (Option.isNone_iff_eq_none.2 hfmt)))

/-- A packet whose checksum fails counts, and is carried with anc_keep_bad set (R95). -/
theorem State.ancIn_of_bad_sum (h : ¬s.SecondStream (s.defBase L) k) (hfmt : (s.df (s.defBase L)).fmt.isSome = true) {u : State}
    (hu : s.bump (pgDef (s.defBase L)) RXF_ANC_BAD_n = u) : s.ancIn L k body false upt =
      if u.lbit (pgDef (s.defBase L)) RXF_CFG_anc_keep_bad then u.ancCarry L k else u := by
  subst hu
  have hsome : ¬(s.df (s.defBase L)).fmt.isNone = true := Bool.eq_false_iff.1 (Option.isNone_eq_false_iff.2 hfmt)
  exact (if_neg h).trans ((if_neg fun hp => Bool.false_ne_true hp.2).trans ((if_neg hsome).trans (if_pos rfl)))

/-- What a good packet that is to be carried, or read as timecode or audio, comes to on an established format of base b (R95). -/
def State.ancTaken (s : State) (L b : Nat) (k : AncPkt) (body : AncBody) (upt : Nat) : State :=
  match body with
  | .timecode w t => if k.did = 0x260 ∧ k.sdid = 0x260 then (s.timecode b w t upt).ancCarry L k else s.ancCarry L k
  | .audio l st e => if s.defSd b then s.ancCarry L k else s.audioIn L b l st e
  | .control g sy => if s.defSd b then s.ancCarry L k else s.audioControl L b g sy
  | _ => s.ancCarry L k

/-- A packet marked for deletion and an EDH packet are not carried (R95). -/
theorem State.ancIn_of_good_sum (h : ¬s.SecondStream (s.defBase L) k) (hpid : ¬IsPayloadId k)
    (hfmt : (s.df (s.defBase L)).fmt.isSome = true) : s.ancIn L k body true upt =
      if k.did = 0x180 ∨ k.did = 0x1F4 then s else s.ancTaken L (s.defBase L) k body upt := by
  have hsome : ¬(s.df (s.defBase L)).fmt.isNone = true := Bool.eq_false_iff.1 (Option.isNone_eq_false_iff.2 hfmt)
  refine (if_neg h).trans ((if_neg fun hp => hpid hp.1).trans ((if_neg hsome).trans ((if_neg (by decide)).trans ?_)))
  cases body <;> rfl

end

theorem not_isPayloadId_of_did {k : AncPkt} {d : Nat} (hd : k.did = d) (hne : d ≠ 0x241) : ¬IsPayloadId k :=
  fun hpid => hne (hd.symm.trans hpid.1)

/-- The rest of a timecode set latched for master m. -/
def State.tcLatched (s : State) (m L : Nat) : State :=
  let p := pgDef L
  let u := [0x134, 0x138, 0x13C, 0x140].foldl (fun x o => x.setMreg m (p + o) (x.word (p + o))) s
  u.setDf L { s.df L with tcRead := true }

/-- The latches are the master's own: what they take, and what is read, is as the set stood. -/
theorem State.latchTc_eq (s : State) (m L : Nat) : s.latchTc m L = (s.tcLatched m L, s.word (pgDef L + 0x130)) := by
  simp only [latchTc, tcLatched, List.foldl_cons, List.foldl_nil, word_setMreg, df, setMreg_defr]

theorem exec_timecodeLatchRead {s : State} {a : Acc} {lane : Fin 512} (h : Reaches s a) :
    exec (.timecodeLatchRead a lane) s = .next ((s.latchTc a.m lane).1.answerWord a.m (s.latchTc a.m lane).2) := by
  show execTimecodeLatchRead a lane s = _
  rw [execTimecodeLatchRead, run_of_running _ h.1, State.viaRead_of_reaches _ _ h]

/-- Settles O20: a packet goes by its stream, its DID and its checksum, in that order; the latches of a timecode read change no
register. -/
theorem ancillaryPacketsComplete : Obligations.AncillaryPacketsComplete := by
  refine ⟨fun s lane k body ok upt hlow => ?_, fun s a lane h => ?_⟩
  · refine ⟨fun hdual hstream => ?_, fun hfirst => ⟨fun v hpid => ?_, fun hpid hfmt => ?_, fun hfmt => ⟨?_, fun hdid => ?_,
      fun w t hdid hsdid => ?_, fun h180 h1F4 hpid => ?_⟩⟩⟩
    · rw [exec_ancPacketReceived hlow, State.ancIn_of_second_stream ⟨hdual, hstream⟩]
    · rw [exec_ancPacketReceived hlow, State.ancIn_payloadId hfirst hpid]
    · rw [exec_ancPacketReceived hlow, State.ancIn_without_format hfirst hpid hfmt]
    · rw [exec_ancPacketReceived hlow, State.ancIn_of_bad_sum hfirst hfmt rfl]
    · have hpid : ¬IsPayloadId k := hdid.elim (not_isPayloadId_of_did · (by decide)) (not_isPayloadId_of_did · (by decide))
      rw [exec_ancPacketReceived hlow, State.ancIn_of_good_sum hfirst hpid hfmt, if_pos hdid]
    · have hmarked : ¬(k.did = 0x180 ∨ k.did = 0x1F4) := by omega
      rw [exec_ancPacketReceived hlow, State.ancIn_of_good_sum hfirst (not_isPayloadId_of_did hdid (by decide)) hfmt,
        if_neg hmarked, State.ancTaken, if_pos ⟨hdid, hsdid⟩]
    · have htaken (x : AncBody) : exec (.ancPacketReceived lane k x true upt) s =
          .next (s.ancTaken lane (s.defBase lane) k x upt).watch := by
        rw [exec_ancPacketReceived hlow, State.ancIn_of_good_sum hfirst hpid hfmt, if_neg (not_or.2 ⟨h180, h1F4⟩)]
      exact ⟨fun l st e => htaken (.audio l st e), fun g sy => htaken (.control g sy), htaken .other⟩
  · rw [exec_timecodeLatchRead h, State.latchTc_eq]
    rfl

/-! ### The start of an output frame (R96, R100, R103, R104) -/

section
variable {s : State} {tap : Fin 512} {cue : Fin 16} {room : List AncRoom}

theorem exec_formatterFrameStart (hlow : s.low = false) (hdue : s.fmtDue tap (s.now + cue) = true) :
    exec (.formatterFrameStart tap cue room) s = .next (s.fmtStart tap (s.now + cue) room) := by
  show execFormatterFrameStart tap cue room s = _
  rw [execFormatterFrameStart, run_of_running _ hlow, if_pos hdue]

theorem exec_formatterFrameStart_of_not_due (hlow : s.low = false) (hdue : s.fmtDue tap (s.now + cue) = false) :
    exec (.formatterFrameStart tap cue room) s = .next s := by
  show execFormatterFrameStart tap cue room s = _
  rw [execFormatterFrameStart, run_of_running _ hlow, if_neg (Bool.eq_false_iff.1 hdue)]

end

/-- TXF_STAT.muted set, with IRQ muted where the mute is new: told says that it is not. -/
def State.fmtMuted (u : State) (L : Nat) (told : Bool) : State :=
  let m := u.setBit (pgFmt L) TXF_STAT_muted true
  if told then m else m.irq (pgFmt L) IRQ_fmt_muted

theorem State.fmtMuted_eq (u : State) (L : Nat) (told : Bool) : u.fmtMuted L told =
    (u.setBit (pgFmt L) TXF_STAT_muted true).when (!told) (·.irq (pgFmt L) IRQ_fmt_muted) := by
  cases told <;> rfl

/-- The frame of picture f and source lines video that formatter L begins at t, after the frame was. -/
def State.fmtBegun (x : State) (L t : Nat) (room : List AncRoom) (was : Formatter) (f : Fmt) (video : List (Nat × Nat)) :
    Formatter :=
  let old := linkLines (was.fmt.getD f) (linkWidth (x.lv (pgFmt L) TXF_LINK_mode))
  { fmt := some f, start := t, len := if was.fmt.isSome then t - was.start else 0, video := video, groups := x.fmtGroups L f,
    audio := if was.fmt.isSome then (was.audio.filter (fun a => old < a.2.1)).map (fun a => (a.1, a.2.1 - old, a.2.2)) else [],
    room := room }

/-- Formatter L sends the frame x from now on, and TXF_PID holds the payload ID of it. -/
def State.fmtLoaded (v : State) (L : Nat) (x : Formatter) (pid : State → W32) : State :=
  let w := v.setFm L x
  w.setWord (pgFmt L + TXF_PID_val.off) (pid w)

section
variable {s u : State} {L t : Nat} {room : List AncRoom} {f : Fmt}

/-- Without a source and without a mute output the formatter is muted and sends nothing (R103). -/
theorem State.fmtStart_of_silent (hu : s.applySlot (pgFmt L) .fmt 0 = u) (hsrc : u.fmtSource L = none)
    (hmute : u.muteFmt L = none) : s.fmtStart L t room =
      (((u.fmtMuted L (u.bit (pgFmt L) TXF_STAT_muted)).txSettle L).fmtLoaded L {} (fun _ => 0)).txRate L := by
  subst hu
  simp [fmtStart, hsrc, hmute, fmtMuted_eq, State.when, fmtLoaded]

/-- Without a source the mute output is sent, and its frames count (R103). -/
theorem State.fmtStart_of_mute (hu : s.applySlot (pgFmt L) .fmt 0 = u) (hsrc : u.fmtSource L = none)
    (hmute : u.muteFmt L = some f) {v : State}
    (hv : ((u.fmtMuted L (u.bit (pgFmt L) TXF_STAT_muted && (u.fm L).fmt.isSome)).bump (pgFmt L) TXF_MUTE_FR_n).txSettle L = v) :
    s.fmtStart L t room =
      (v.fmtLoaded L (v.fmtBegun L t room (u.fm L) f []) (·.lword (pgFmt L + TXF_MUTE_pid.off))).txRate L := by
  subst hu hv
  simp [fmtStart, hsrc, hmute, fmtMuted_eq, Bool.not_and, State.when, fmtLoaded, fmtBegun, fmtPid]

/-- The frame of the tap's rail goes out with the packets that waited for it, then the rail's own (R96). -/
theorem State.fmtStart_of_source (hu : s.applySlot (pgFmt L) .fmt 0 = u) (hsrc : u.fmtSource L = some f) {v : State}
    (hv : (u.setBit (pgFmt L) TXF_STAT_muted false).txSettle L = v) {x : State}
    (hx : v.fmtLoaded L (v.fmtBegun L t room (u.fm L) f [(1, v.tapRail L)]) (·.fmtPid L f false) = x) :
    s.fmtStart L t room = ((x.railAnc (v.tapRail L)).foldl (fun y k => y.ancOut L k)
      ((u.fm L).next.foldl (fun y e => y.ancLeft L e) x)).txRate L := by
  subst hu hv hx
  simp [fmtStart, hsrc, State.when, fmtLoaded, fmtBegun]

end

/-- Settles O21: with its commit applied, the formatter is silent, sends its mute output, or sends its tap's source. -/
theorem formatterFrameStartCompletes : Obligations.FormatterFrameStartCompletes := by
  refine ⟨fun s tap cue room hlow hdue => ?_, fun s tap cue room hlow hdue => exec_formatterFrameStart_of_not_due hlow hdue⟩
  refine ⟨fun hsrc hmute => ?_, fun f hsrc hmute => ?_, fun f hsrc => ?_⟩
  · rw [exec_formatterFrameStart hlow hdue, State.fmtStart_of_silent rfl hsrc hmute]
    rfl
  · rw [exec_formatterFrameStart hlow hdue, State.fmtStart_of_mute rfl hsrc hmute rfl]
    simp only [State.fmtMuted, Bool.and_eq_true]
    rfl
  · rw [exec_formatterFrameStart hlow hdue, State.fmtStart_of_source rfl hsrc rfl rfl]
    rfl

end Sys2Proof.Machine
end

section
/-!
The Ethernet ports (R106 to R112, R123): frames as they arrive, links, modules and their two-wire master.
-/
namespace Sys2Proof.Machine

/-! ### Frames as they arrive (R110, R112) -/

theorem exec_ethFrameReceived {s : State} {lp : Fin 64} {t : Nat} {data : List Byte} {ok : Bool} {c x : Nat}
    (hlow : s.low = false) : exec (.ethFrameReceived lp t data ok c x) s = .next (s.frameIn lp t data ok c x).watch :=
  runRails_of_running (fun s => s.frameIn lp t data ok c x) hlow

/-- The FEC blocks of a frame on logical port lp are counted. -/
def State.fecSeen (s : State) (lp c x : Nat) : State := (s.stat lp ST_FEC_CORR_lo c).stat lp ST_FEC_UNCORR_lo x

/-- A frame of n bytes with a good FCS is counted. -/
def State.frameSeen (u : State) (lp n : Nat) : State := (u.stat lp ST_RX_FRAMES_lo).stat lp ST_RX_BYTES_lo n

theorem State.lpSends_iff {s : State} {lp : Nat} : s.lpSends lp = true ↔ s.lpExists lp = true ∧ s.lpUp lp = true :=
  Bool.and_eq_true_iff

section
variable {s u v : State} {lp t c x : Nat} {data : List Byte}

theorem State.frameIn_of_down {ok : Bool} (h : s.lpSends lp = false) : s.frameIn lp t data ok c x = s :=
  if_pos (congrArg not h)

theorem State.frameIn_of_runt {ok : Bool} (h : s.lpSends lp = true) (hu : s.fecSeen lp c x = u)
    (hlen : data.length + 4 < 64) : s.frameIn lp t data ok c x = u.stat lp ST_RX_RUNT_lo := by
  rw [lpSends] at h
  simp only [frameIn, h, ← hu, fecSeen, if_pos (Nat.le_of_lt_succ hlen), Bool.not_true, Bool.false_eq_true, if_false]

theorem State.frameIn_of_giant {ok : Bool} (h : s.lpSends lp = true) (hu : s.fecSeen lp c x = u)
    (hlen : 9216 < data.length + 4) : s.frameIn lp t data ok c x = u.stat lp ST_RX_GIANT_lo := by
  rw [lpSends] at h
  have hrunt : ¬data.length + 4 ≤ 63 := by omega
  simp only [frameIn, h, ← hu, fecSeen, if_neg hrunt, if_pos (Nat.succ_le_of_lt hlen), Bool.not_true,
    Bool.false_eq_true, if_false]

theorem State.frameIn_of_bad_fcs (h : s.lpSends lp = true) (hu : s.fecSeen lp c x = u) (hlo : 64 ≤ data.length + 4)
    (hhi : data.length + 4 ≤ 9216) : s.frameIn lp t data false c x = u.stat lp ST_RX_FCS_lo := by
  rw [lpSends] at h
  simp only [frameIn, h, ← hu, fecSeen, if_neg (Nat.not_le.2 hlo), if_neg (Nat.not_le.2 (Nat.lt_succ_of_le hhi)),
    Bool.not_true, Bool.not_false, Bool.false_eq_true, if_false, if_true]

/-- A frame of a legal length with a good FCS counts; one that fails a checksum ends there. -/
theorem State.frameIn_of_bad_sum (h : s.lpSends lp = true) (hu : s.fecSeen lp c x = u) (hlo : 64 ≤ data.length + 4)
    (hhi : data.length + 4 ≤ 9216) (hv : u.frameSeen lp (data.length + 4) = v) {f : Fld}
    (hverdict : (headOf data).verdict = some f) : s.frameIn lp t data true c x = v.stat lp f := by
  rw [lpSends] at h
  simp only [frameIn, h, ← hv, ← hu, fecSeen, frameSeen, if_neg (Nat.not_le.2 hlo),
    if_neg (Nat.not_le.2 (Nat.lt_succ_of_le hhi)), hverdict, Bool.not_true, Bool.false_eq_true, if_false]

/-- A frame that passes every check is classified, with its stamp corrected by ETH_PTP_ADJ (R112, R119). -/
theorem State.frameIn_of_sound (h : s.lpSends lp = true) (hu : s.fecSeen lp c x = u) (hlo : 64 ≤ data.length + 4)
    (hhi : data.length + 4 ≤ 9216) (hv : u.frameSeen lp (data.length + 4) = v) (hverdict : (headOf data).verdict = none) :
    s.frameIn lp t data true c x =
      (v.when ((headOf data).v4 && (headOf data).frag) (·.stat lp ST_RX_FRAG_lo)).frameClass lp
        ((t : Int) + v.fldS (pgEthP (lp / 4)) ETH_PTP_ADJ_rx).toNat (headOf data) data := by
  rw [lpSends] at h
  simp only [frameIn, h, ← hv, ← hu, fecSeen, frameSeen, if_neg (Nat.not_le.2 hlo),
    if_neg (Nat.not_le.2 (Nat.lt_succ_of_le hhi)), hverdict, Bool.not_true, Bool.false_eq_true, if_false]

end

/-! ### Links and modules (R109, R123) -/

section
variable {s : State} {lp : Fin 64}

theorem exec_linkUp (hlow : s.low = false) : exec (.linkUp lp) s = .next (s.linkUp lp) :=
  run_of_running (·.linkUp lp) hlow

theorem exec_linkDown {ber : Bool} (hlow : s.low = false) : exec (.linkDown lp ber) s = .next (s.linkDown lp ber) :=
  run_of_running (·.linkDown lp ber) hlow

theorem State.linkUp_of_not_down (h : ¬(s.lpExists lp = true ∧ s.lpUp lp = false)) : s.linkUp lp = s :=
  if_neg (by simpa using h)

theorem State.linkDown_of_down {ber : Bool} (h : s.lpUp lp = false) : s.linkDown lp ber = s :=
  if_neg (Bool.eq_false_iff.1 h)

theorem exec_moduleInterrupt {port : Fin 16} {low present : Bool} (hlow : s.low = false) {u : State}
    (hu : (s.setBit (pgEthC port) ETH_MOD_int_n (!low)).setBit (pgEthC port) ETH_MOD_present present = u) :
    exec (.moduleInterrupt port low present) s =
      .next (u.when (low && s.bit (pgEthC port) ETH_MOD_int_n) (·.irq (pgEthC port) IRQ_ethCtl_mod_int)) := by
  subst hu
  show execModuleInterrupt port low present s = _
  rw [execModuleInterrupt, run_of_running _ hlow]

end

/-- Settles O22: a frame ends at the first check that it fails; a link event acts where the link was the other way. -/
theorem ethernetPortEventsComplete : Obligations.EthernetPortEventsComplete := by
  refine ⟨fun s lp t data ok c x hlow => ⟨fun hdown => ?_, fun hexists hup => ?_⟩,
    fun s lp hlow => ⟨fun h => ?_, fun h => ?_⟩, fun s lp ber hlow => ⟨fun h => ?_, fun h => ?_⟩,
    fun s port low present hlow => exec_moduleInterrupt hlow rfl⟩
  · rw [exec_ethFrameReceived hlow, State.frameIn_of_down (Bool.eq_false_iff.2 (mt State.lpSends_iff.1 hdown))]
  · have hsends : s.lpSends lp = true := State.lpSends_iff.2 ⟨hexists, hup⟩
    rw [exec_ethFrameReceived hlow]
    refine congrArg (fun x : State => Host.Outcome.next x.watch) ?_
    by_cases hrunt : data.length + 4 < 64
    · rw [if_pos hrunt, State.frameIn_of_runt hsends rfl hrunt]
      rfl
    by_cases hgiant : 9216 < data.length + 4
    · rw [if_neg hrunt, if_pos hgiant, State.frameIn_of_giant hsends rfl hgiant]
      rfl
    rw [if_neg hrunt, if_neg hgiant]
    rw [Nat.not_lt] at hrunt hgiant
    cases ok with
    | false => exact State.frameIn_of_bad_fcs hsends rfl hrunt hgiant
    | true =>
      cases hverdict : (headOf data).verdict with
      | some f => exact State.frameIn_of_bad_sum hsends rfl hrunt hgiant rfl hverdict
      | none => exact State.frameIn_of_sound hsends rfl hrunt hgiant rfl hverdict
  · rw [exec_linkUp hlow]
    exact congrArg _ (if_pos (by simpa using h))
  · rw [exec_linkUp hlow, State.linkUp_of_not_down h]
  · rw [exec_linkDown hlow]
    exact congrArg _ (if_pos h)
  · rw [exec_linkDown hlow, State.linkDown_of_down h]

/-! ### The two-wire master (R123) -/

section
variable {s u : State} {a : Acc} {port : Fin 16}

theorem exec_twiCommand (w : W32) (h : Reaches s a) :
    exec (.twiCommand a port w) s = .next ((s.ethWrite a port 0x154 w).taken a) := by
  show execTwiCommand a port w s = _
  rw [execTwiCommand, run_of_running _ h.1, State.viaPath_of_reaches _ _ h]

/-- A register of a port's control page that takes the whole word acts on it. -/
theorem State.ethWrite_of_admitted {P o : Nat} {w : W32} (h : Admitted s a (pgEthC P) .ethCtl P o w) :
    s.ethWrite a P o w = (s.stored a (pgEthC P) .ethCtl P o w).twiHook a P o w := by
  simp only [ethWrite, h.1, h.2, if_true]

theorem State.twiHook_of_no_go {P : Nat} {w : W32} (hgo : w.getLsbD 31 = false) : u.twiHook a P 0x154 w = u := by
  simp only [twiHook, hgo, Bool.false_eq_true, and_false, if_false]

theorem State.twiHook_of_bad_length {P : Nat} {w : W32} (hgo : w.getLsbD 31 = true)
    (hlen : u.fld (pgEthC P) ETH_TWI_CMD_len = 0 ∨ 16 < u.fld (pgEthC P) ETH_TWI_CMD_len) :
    u.twiHook a P 0x154 w = u.accErr (pgEthC P) 0x042 a accWrite (pgEthC P + 0x154) := by
  simp only [twiHook, hgo, hlen, and_self, if_true]

theorem State.twiHook_of_go {P : Nat} {w : W32} (hgo : w.getLsbD 31 = true) (h1 : 1 ≤ u.fld (pgEthC P) ETH_TWI_CMD_len)
    (h16 : u.fld (pgEthC P) ETH_TWI_CMD_len ≤ 16) : u.twiHook a P 0x154 w =
      if u.fld (pgEthC P) ETH_TWI_STAT_st = 1 then u else u.setFld (pgEthC P) ETH_TWI_STAT_st 1 := by
  have hlen : ¬(u.fld (pgEthC P) ETH_TWI_CMD_len = 0 ∨ 16 < u.fld (pgEthC P) ETH_TWI_CMD_len) := by omega
  simp only [twiHook, hgo, hlen, and_self, if_true, if_false]

/-- The bytes at 4 i of a transfer's data stand in data register i of the port; the bytes past their end stay. -/
def State.twiPut (s : State) (P : Nat) (l : List Byte) (i : Nat) : State :=
  s.setWord (pgEthC P + ETH_TWI_DATA.at i) (BitVec.ofNat 32 (ofBytesLE ((l.drop (4 * i)).take 4 ++
    (bytesOf (s.word (pgEthC P + ETH_TWI_DATA.at i))).drop ((l.drop (4 * i)).take 4).length)))

theorem exec_twiDone_of_idle {ack : Bool} {data : List Byte} (hlow : s.low = false)
    (hidle : s.fld (pgEthC port) ETH_TWI_STAT_st ≠ 1) : exec (.twiDone port ack data) s = .next s := by
  show execTwiDone port ack data s = _
  rw [execTwiDone, run_of_running _ hlow, if_neg hidle]

/-- The end of a transfer: its bytes are kept where it was a read that was acknowledged. -/
theorem exec_twiDone_of_busy {ack : Bool} {data : List Byte} (hlow : s.low = false)
    (hbusy : s.fld (pgEthC port) ETH_TWI_STAT_st = 1)
    (hu : (s.setFld (pgEthC port) ETH_TWI_STAT_st (if ack then 2 else 3)).irq (pgEthC port) IRQ_ethCtl_twi_done = u) :
    exec (.twiDone port ack data) s = .next
      (if ack = true ∧ u.bit (pgEthC port) ETH_TWI_CMD_read = true then
        (List.range 4).foldl (·.twiPut port (data.take (u.fld (pgEthC port) ETH_TWI_CMD_len))) u
      else u) := by
  subst hu
  show execTwiDone port ack data s = _
  rw [execTwiDone, run_of_running _ hlow, if_pos hbusy]
  rfl

theorem exec_twiDone_read {ack : Bool} {data : List Byte} (hlow : s.low = false)
    (hbusy : s.fld (pgEthC port) ETH_TWI_STAT_st = 1) (hack : ack = true)
    (hu : (s.setFld (pgEthC port) ETH_TWI_STAT_st (if ack then 2 else 3)).irq (pgEthC port) IRQ_ethCtl_twi_done = u)
    (hread : u.bit (pgEthC port) ETH_TWI_CMD_read = true) {l : List Byte}
    (hl : data.take (u.fld (pgEthC port) ETH_TWI_CMD_len) = l) :
    exec (.twiDone port ack data) s = .next ((((u.twiPut port l 0).twiPut port l 1).twiPut port l 2).twiPut port l 3) := by
  rw [exec_twiDone_of_busy hlow hbusy hu, if_pos ⟨hack, hread⟩, hl]
  rfl

end

/-- Settles O23: the length of a transfer and the one that runs decide what go does; a read that was acknowledged leaves its
bytes. -/
theorem twoWireCommandsComplete : Obligations.TwoWireCommandsComplete := by
  refine ⟨fun s a port w h hadm => ⟨fun hgo => ?_, fun hgo hlen => ?_, fun hgo h1 h16 => ?_⟩,
    fun s port ack data hlow => ⟨exec_twiDone_of_idle hlow, fun hbusy hkeeps => ?_, fun hbusy hack hread =>
      exec_twiDone_read hlow hbusy hack rfl hread rfl⟩⟩
  · rw [exec_twiCommand w h, State.ethWrite_of_admitted hadm, State.twiHook_of_no_go hgo]
  · rw [exec_twiCommand w h, State.ethWrite_of_admitted hadm, State.twiHook_of_bad_length hgo hlen]
  · rw [exec_twiCommand w h, State.ethWrite_of_admitted hadm, State.twiHook_of_go hgo h1 h16]
  · rw [exec_twiDone_of_busy hlow hbusy rfl, if_neg hkeeps]

end Sys2Proof.Machine
end

section
/-!
The Crew's rings (R111 to R122): their indices, the frames that the Crew sends, and the stamp queue.
-/
namespace Sys2Proof.Machine

/-! ### The indices of the Crew's rings (R117, R118) -/

section
variable {s : State} {a : Acc} {port : Fin 16}

theorem exec_txRingHeadWrite (w : W32) (h : Reaches s a) :
    exec (.txRingHeadWrite a port w) s = .next ((s.ringWrite a port 0x128 w).taken a) := by
  show execTxRingHeadWrite a port w s = _
  rw [execTxRingHeadWrite, run_of_running _ h.1, State.viaPath_of_reaches _ _ h]

theorem exec_ringIndexWrite (ctl : Bool) (w : W32) (h : Reaches s a) : exec (.ringIndexWrite a port ctl w) s =
    .next ((s.ringWrite a port (if ctl then 0x11C else 0x10C) w).taken a) := by
  show execRingIndexWrite a port ctl w s = _
  rw [execRingIndexWrite, run_of_running _ h.1, State.viaPath_of_reaches _ _ h]

end

/-- An index register that takes the whole word judges it. -/
theorem State.ringWrite_of_admitted {s : State} {a : Acc} {P o : Nat} {w : W32}
    (h : Admitted s a (pgEthR P) .ethRing P o w) :
    s.ringWrite a P o w = (s.stored a (pgEthR P) .ethRing P o w).ringHook s a P o (s.word (pgEthR P + o)) := by
  simp only [ringWrite, h.1, storeWord_old, if_true]

/-- By how much index x is ahead of index y, both of 16 bits. -/
abbrev ringAhead (x y : Nat) : Nat := (x + 65536 - y) % 65536

/-- The write of an index is ignored: its register holds the word old again, and 0x040 is captured. -/
def State.ringRestored (u pre : State) (a : Acc) (P o : Nat) (old : W32) : State :=
  ((u.setWord (pgEthR P + o) old).sameArmed pre (pgEthR P)).accErr (pgEthR P) 0x040 a accWrite (pgEthR P + o)

section
variable (u pre : State) (a : Acc) (P : Nat) (old : W32)

theorem State.ringHook_txHead : u.ringHook pre a P 0x128 old =
    if 256 < ringAhead (getBits (u.word (pgEthR P + 0x128)) 0 16) (u.fld (pgEthR P) ETH_TXR_TAIL_n) then
      u.ringRestored pre a P 0x128 old
    else u := rfl

/-- A receive tail is restored where it moved further than the hardware's head is from where it was. -/
theorem State.ringHook_rxTail (ctl : Bool) {o : Nat} (ho : o = if ctl then 0x11C else 0x10C) : u.ringHook pre a P o old =
    if ringAhead (u.fld (pgEthR P) (if ctl then ETH_CRR_HEAD_n else ETH_PRR_HEAD_n)) (getBits old 0 16) <
        ringAhead (getBits (u.word (pgEthR P + o)) 0 16) (getBits old 0 16) then
      u.ringRestored pre a P o old
    else u := by
  subst ho
  cases ctl <;> rfl

end

/-! ### What an engine's read leaves as it is -/

/-- The live copies, and every register below the pages of the DRAM controllers, are in t as they are in s. -/
def State.BelowDram (s t : State) : Prop := t.live = s.live ∧ ∀ x < pgDrc 0 0, t.word x = s.word x

theorem pgDrc_zero_le (n j : Nat) : pgDrc 0 0 ≤ pgDrc n j := by
  rw [pgDrc, pgDrc]
  omega

section
variable {s t u : State} {p : Nat}

theorem State.BelowDram.refl (s : State) : s.BelowDram s := ⟨rfl, fun _ _ => rfl⟩

theorem State.BelowDram.trans (h : s.BelowDram t) (h' : t.BelowDram u) : s.BelowDram u :=
  ⟨h'.1.trans h.1, fun x hx => (h'.2 x hx).trans (h.2 x hx)⟩

theorem State.BelowDram.setWord (h : s.BelowDram t) {a : Nat} (ha : pgDrc 0 0 ≤ a) (v : W32) : s.BelowDram (t.setWord a v) :=
  h.trans ⟨rfl, fun x hx => by rw [word_setWord, if_neg (by omega)]⟩

theorem State.BelowDram.setFld (h : s.BelowDram t) (hp : pgDrc 0 0 ≤ p) (f : Fld) (v : Nat) (i : Nat := 0) :
    s.BelowDram (t.setFld p f v i) := h.setWord (hp.trans (Nat.le_add_right ..)) _

theorem State.BelowDram.setFld64 (h : s.BelowDram t) (hp : pgDrc 0 0 ≤ p) (lo hi : Fld) (v : Nat) :
    s.BelowDram (t.setFld64 p lo hi v) := (h.setFld hp _ _).setFld hp _ _

theorem State.BelowDram.bump (h : s.BelowDram t) (hp : pgDrc 0 0 ≤ p) (f : Fld) : s.BelowDram (t.bump p f) := h.setFld hp _ _

theorem State.BelowDram.irq (h : s.BelowDram t) (hp : pgDrc 0 0 ≤ p) (b : Nat) : s.BelowDram (t.irq p b) :=
  h.setWord (hp.trans (Nat.le_add_right ..)) _

theorem State.BelowDram.capture (h : s.BelowDram t) (hp : pgDrc 0 0 ≤ p) (code access master addr : Nat) :
    s.BelowDram (t.capture p code access master addr) := by
  have hcount := h.setFld hp FERR_COUNT_n (min (t.fld p FERR_COUNT_n + 1) (2 ^ 32 - 1))
  rw [State.capture]
  split
  · exact hcount.setFld hp _ _
  · exact (((hcount.setWord (hp.trans (Nat.le_add_right ..)) _).setFld64 hp _ _ _).setFld64 hp _ _ _).irq hp _

theorem State.BelowDram.err (h : s.BelowDram t) (hp : pgDrc 0 0 ≤ p) (code : Nat) (access addr : Option Nat) :
    s.BelowDram (t.err p code access addr) := h.capture hp _ _ _ _

theorem State.BelowDram.logRepair (h : s.BelowDram t) (type : Nat) (what : List Nat) : s.BelowDram (t.logRepair type what) := by
  rw [State.logRepair]
  split
  · exact h
  · exact h.err (by decide) _ _ _

theorem State.BelowDram.foldl {α : Type} {f : State → α → State} (hf : ∀ x e, s.BelowDram x → s.BelowDram (f x e))
    (l : List α) (h : s.BelowDram t) : s.BelowDram (l.foldl f t) := by
  induction l generalizing t with
  | nil => exact h
  | cons e l ih => exact ih (hf t e h)

theorem State.BelowDram.autoRetire (h : s.BelowDram t) (n d : Nat) : s.BelowDram (t.autoRetire n d) := by
  have hp := pgDrc_zero_le n 2
  rw [State.autoRetire]
  split_ifs
  · exact (((h.setFld hp _ _).err hp _ _ _).irq hp _).logRepair _ _
  · exact (h.err hp _ _ _).irq hp _
  · exact h
  · exact h

theorem State.BelowDram.noteCorrected (h : s.BelowDram t) (n req addr : Nat) (g : GrResult) :
    s.BelowDram (t.noteCorrected n req addr g) := by
  have hp := pgDrc_zero_le n 2
  rw [State.noteCorrected]
  split
  · exact h
  · exact foldl (fun _ d hx => (hx.setFld hp _ _ d).autoRetire n d) _
      ((((((h.bump hp _).setFld64 hp _ _ _).setFld hp _ _).setFld hp _ _).setFld hp _ _).irq hp _)

theorem State.BelowDram.granuleSeen (h : s.BelowDram t) (req g : Nat) (bad : Bool) : s.BelowDram (t.granuleSeen req g bad) := by
  rw [State.granuleSeen]
  split_ifs
  · exact h.capture (by decide) _ _ _ _
  · have hp := pgDrc_zero_le (placeOf g).ch 0
    exact ((h.bump hp _).irq hp _).capture hp _ _ _ _
  · have hp := pgDrc_zero_le (placeOf g).ch 2
    exact ((h.bump hp _).irq hp _).capture hp _ _ _ _
  · exact h.noteCorrected _ _ _ _

/-- What an engine reads counts and is captured in the pages of the DRAM controllers alone. -/
theorem State.engineRead_belowDram (s : State) (req a n : Nat) : s.BelowDram (s.engineRead req a n).1 := by
  have hseen : s.BelowDram (s.areaSeen req a n []) := BelowDram.foldl (fun _ _ hx => hx.granuleSeen _ _ _) _ (BelowDram.refl s)
  rw [engineRead]
  split
  · exact hseen
  · exact hseen

/-- The logical ports of the sixteen Ethernet ports lie below the DRAM controllers. -/
theorem State.BelowDram.lpSends (h : s.BelowDram t) {lp : Nat} (hlp : lp / 4 < 16) : t.lpSends lp = s.lpSends lp := by
  obtain ⟨hlive, hword⟩ := h
  have hlink : pgEthC (lp / 4) + ETH_LINK_up.at 0 < pgDrc 0 0 := by
    rw [pgEthC, pgEth, pgDrc, show ETH_LINK_up.at 0 = 0x180 from rfl]
    omega
  have hexists : t.lpExists lp = s.lpExists lp := by
    simp only [lpExists, lv, lword, hlive, show ETH_PORT_mode.cls = .staged from rfl, show ETH_PORT_lp_en.cls = .staged from rfl,
      if_true]
  have hup : t.lpUp lp = s.lpUp lp := by
    rw [lpUp, lpUp, fld, fld, hword _ hlink]
  rw [State.lpSends, State.lpSends, hexists, hup]

end

/-! ### Frames of the Crew (R111, R114, R117 to R121, R146) -/

/-- The state after a read of ETH_TSQ_POP that may meet a Crew frame's stamp (R122). -/
def State.poppedBy (s : State) (port : Fin 16) (pop : Option Acc) : State :=
  match pop with
  | some a => s.viaRead a (pgEthP port + 0x110) (fun x => x.popStamp a.m port)
  | none => s

theorem State.popStamp_upt (s : State) (m P : Nat) : (s.popStamp m P).1.upt = s.upt := by
  rw [popStamp]
  split
  · rfl
  · simp [setStamps]

theorem State.noPath_upt (s : State) (a : Acc) (isWrite : Bool) (addr : Nat) : (s.noPath a isWrite addr).upt = s.upt := by
  simp [noPath, capture_upt]

/-- A read takes no time. -/
theorem State.viaRead_upt {s : State} {f : State → State × W32} (a : Acc) (addr : Nat) (hf : (f s).1.upt = s.upt) :
    (s.viaRead a addr f).upt = s.upt := by
  rw [viaRead]
  split_ifs
  · exact hf
  · exact noPath_upt ..
  · rfl

theorem State.poppedBy_now (s : State) (port : Fin 16) (pop : Option Acc) : (s.poppedBy port pop).now = s.now := by
  cases pop with
  | none => rfl
  | some a => exact congrArg BitVec.toNat (viaRead_upt _ _ (popStamp_upt ..))

theorem exec_crewFrameTransmit {s v : State} {port cue : Fin 16} {pop : Option Acc} (hlow : s.low = false)
    (hv : s.poppedBy port pop = v) :
    exec (.crewFrameTransmit port ⟨cue, pop⟩) s = .next (v.crewSend port (v.now + cue)) := by
  rw [← hv, State.poppedBy_now]
  show execCrewFrameTransmit port ⟨cue, pop⟩ s = _
  rw [execCrewFrameTransmit, run_of_running _ hlow]
  rfl

/-- The bytes of a Crew frame of len bytes, padded, with the checksums that its descriptor's flags ask for (R111, R114). -/
def crewBytes (l : List Byte) (len fl : Nat) : List Byte :=
  let l := l ++ List.replicate (60 - len) 0
  let l := if fl.testBit 2 then insIp l else l
  if fl.testBit 3 then insUdp l else l

/-- The bytes of a Crew frame are read, and padding that is sent is counted (R111). -/
def State.crewFetched (s : State) (P addr len lp : Nat) : State :=
  (s.engineRead (0x48 + P) addr len).1.when (len < 60 && s.lpSends lp) (·.stat lp ST_TX_PAD_lo)

/-- Whether the frame is sent may be judged before its bytes are read or after. -/
theorem State.crewFetched_eq (s : State) {P lp : Nat} (addr len : Nat) (hlp : lp / 4 < 16) : s.crewFetched P addr len lp =
    if len < 60 && (s.engineRead (0x48 + P) addr len).1.lpSends lp then
      (s.engineRead (0x48 + P) addr len).1.stat lp ST_TX_PAD_lo
    else (s.engineRead (0x48 + P) addr len).1 := by
  rw [(engineRead_belowDram ..).lpSends hlp]
  rfl

/-- The stamp of a frame sent at uptime t, adjusted by ETH_PTP_ADJ (R119). -/
def State.crewStampAt (u : State) (P t : Nat) : Nat := ((t : Int) + u.fldS (pgEthP P) ETH_PTP_ADJ_tx).toNat

/-- The frame l of descriptor n leaves, with the one-step time where it asks for it (R120). -/
def State.crewDeparted (u : State) (P n lp t : Nat) (l : List Byte) : State :=
  u.depart lp t (if u.txOneStep P n then u.oneStep l (u.crewStampAt P t) else l)

/-- The entry of the stamp queue for a frame with the stamp given: with time of day only while it is Held (R121). -/
def State.crewStamp (w : State) (tag lp stamp : Nat) : Stamp :=
  let x := ptpOf (w.todStamp stamp)
  if w.held then ⟨tag, lp % 4, stamp, x.1, x.2.1, x.2.2, true⟩ else ⟨tag, lp % 4, stamp, 0, 0, 0, false⟩

/-- The stamp of the frame enters the queue, and its descriptor is written back; unstamped where the queue is full or a one-step
time could not be given (R120, R121). -/
def State.crewStamped (w : State) (P n : Nat) (x : Stamp) (one : Bool) : State :=
  let q := w.pushStamp P x
  q.1.writeBack P n (if !q.2 || (one && !q.1.held) then 32 else 0)

section
variable {s : State} {P t n d len lp fl : Nat}

theorem State.crewSend_of_none (h : s.txNext P = none) : s.crewSend P t = s := by
  rw [crewSend, h]

theorem State.crewSend_of_bad_length (hn : s.txNext P = some n) (hlen : s.loadLE (s.txDesc P n + 8) 2 = len)
    (hbad : len < 14 ∨ 9212 < len) :
    s.crewSend P t = ((s.writeBack P n 64).bump (pgEthR P) TX_BAD_LEN_n).err (pgEthR P) 0x041 := by
  simp only [crewSend, hn, hlen, if_pos hbad]

theorem State.crewSend_of_other_port (hn : s.txNext P = some n) (hlen : s.loadLE (s.txDesc P n + 8) 2 = len)
    (hlp : s.loadLE (s.txDesc P n + 10) 1 = lp) (hgood : ¬(len < 14 ∨ 9212 < len)) (hother : lp / 4 ≠ P) :
    s.crewSend P t = s.writeBack P n 64 := by
  simp only [crewSend, hn, hlen, hlp, if_neg hgood, if_pos hother]

/-- A media packet is due on logical port lp before a Crew frame of len bytes that leaves at t would end (R146). -/
def State.CrewWaits (s : State) (lp t len : Nat) : Prop :=
  s.lpSends lp = true ∧ s.mediaDue lp (t + s.wireTime lp (max 60 len) - 1) ≠ []

theorem State.crewWaits_iff : s.CrewWaits lp t len ↔
    (s.lpSends lp && !(s.mediaDue lp (t + s.wireTime lp (max 60 len) - 1)).isEmpty) = true := by
  simp [CrewWaits]

theorem State.crewSend_of_waiting (hn : s.txNext P = some n) (hlen : s.loadLE (s.txDesc P n + 8) 2 = len)
    (hlp : s.loadLE (s.txDesc P n + 10) 1 = lp) (hgood : ¬(len < 14 ∨ 9212 < len)) (hport : lp / 4 = P)
    (hwaits : s.CrewWaits lp t len) : s.crewSend P t = s := by
  simp only [crewSend, hn, hlen, hlp, if_neg hgood, if_neg (not_not.2 hport), if_pos (crewWaits_iff.1 hwaits)]

/-- A frame that need not wait goes out, and its descriptor is written back; its stamp is given where it asked for one and
departed. -/
theorem State.crewSend_of_free (hn : s.txNext P = some n) (hd : s.txDesc P n = d) (hlen : s.loadLE (d + 8) 2 = len)
    (hlp : s.loadLE (d + 10) 1 = lp) (hfl : s.loadLE (d + 11) 1 = fl) (hgood : ¬(len < 14 ∨ 9212 < len)) (hport : lp / 4 = P)
    (hfree : ¬s.CrewWaits lp t len) {u w : State} {l : List Byte} (hu : s.crewFetched P (s.loadLE d 8) len lp = u)
    (hl : crewBytes (s.engineRead (0x48 + P) (s.loadLE d 8) len).2 len fl = l) (hw : u.crewDeparted P n lp t l = w) :
    s.crewSend P t =
      if fl.testBit 0 = true ∧ u.lpSends lp = true then
        w.crewStamped P n (w.crewStamp (s.loadLE (d + 12) 2) lp (u.crewStampAt P t)) (u.txOneStep P n)
      else w.writeBack P n (if fl.testBit 0 || (u.txOneStep P n && !w.held) then 32 else 0) := by
  rw [crewFetched] at hu
  rw [crewBytes] at hl
  rw [crewDeparted, crewStampAt] at hw
  simp only [crewSend, hn, hd, hlen, hlp, hfl, if_neg hgood, if_neg (not_not.2 hport), if_neg (mt crewWaits_iff.2 hfree), hu,
    hl, hw]
  by_cases hstamps : fl.testBit 0 = true ∧ u.lpSends lp = true
  · rw [if_pos hstamps, if_pos (Bool.and_eq_true_iff.2 hstamps)]
    rfl
  · rw [if_neg hstamps, if_neg (mt Bool.and_eq_true_iff.1 hstamps), Bool.not_not]

end

/-! ### The stamp queue (R121, R122) -/

theorem exec_tsqPop {s : State} {a : Acc} {port : Fin 16} (h : Reaches s a) :
    exec (.tsqPop a port) s = .next ((s.popStamp a.m port).1.answerWord a.m (s.popStamp a.m port).2) := by
  show execTsqPop a port s = _
  rw [execTsqPop, run_of_running _ h.1, State.viaRead_of_reaches _ _ h]

/-- Settles O24: an index is judged by its distance from the hardware's; the descriptor decides what becomes of a Crew frame,
after the pop that meets it. -/
theorem crewRingCommandsComplete : Obligations.CrewRingCommandsComplete := by
  refine ⟨fun s a port w h hadm => ⟨fun hok => ?_, fun hbad => ?_⟩,
    fun s a port ctl w h hadm => ⟨fun hok => ?_, fun hbad => ?_⟩,
    fun s v port cue pop hlow hv => ?_, fun s a port h => ⟨fun hnil => ?_, fun x rest hcons => ?_⟩⟩
  · rw [exec_txRingHeadWrite w h, State.ringWrite_of_admitted hadm, State.ringHook_txHead, if_neg (Nat.not_lt.2 hok)]
  · rw [exec_txRingHeadWrite w h, State.ringWrite_of_admitted hadm, State.ringHook_txHead, if_pos hbad]
    rfl
  · rw [exec_ringIndexWrite ctl w h, State.ringWrite_of_admitted hadm, State.ringHook_rxTail _ _ _ _ _ ctl rfl,
      if_neg (Nat.not_lt.2 hok)]
  · rw [exec_ringIndexWrite ctl w h, State.ringWrite_of_admitted hadm, State.ringHook_rxTail _ _ _ _ _ ctl rfl, if_pos hbad]
    rfl
  · have hexec := exec_crewFrameTransmit (cue := cue) hlow hv.symm
    refine ⟨fun hnone => ?_, fun n hn => ⟨fun hbad => ?_, fun h14 h9212 hother => ?_,
      fun h14 h9212 hport hsends hdue => ?_, fun h14 h9212 hport hfree => ?_⟩⟩
    · rw [hexec, State.crewSend_of_none hnone]
    · rw [hexec, State.crewSend_of_bad_length hn rfl hbad]
    · rw [hexec, State.crewSend_of_other_port hn rfl rfl (by omega) hother]
    · rw [hexec, State.crewSend_of_waiting hn rfl rfl (by omega) hport ⟨hsends, hdue⟩]
    · have hsend := State.crewSend_of_free (t := v.now + cue) hn rfl rfl rfl rfl (by omega) hport
        (fun hwaits => hwaits.2 (hfree hwaits.1)) (State.crewFetched_eq _ _ _ (by omega)) rfl rfl
      exact ⟨fun hstamp hsends => hexec.trans (congrArg _ (hsend.trans (if_pos ⟨hstamp, hsends⟩))),
        fun hnot => hexec.trans (congrArg _ (hsend.trans (if_neg hnot)))⟩
  · rw [exec_tsqPop h, State.popStamp, hnil]
  · rw [exec_tsqPop h, State.popStamp, hcons]

end Sys2Proof.Machine
end

section
/-!
IP media flows, the receive side (R126 to R140): the release of kept packets, the loss of a flow, the windows and the table CRCs.
-/
namespace Sys2Proof.Machine

/-! ### What a read of DRAM leaves as it is -/

section
variable (s : State)

theorem State.capture_rxTab (p code access master addr : Nat) : (s.capture p code access master addr).rxTab = s.rxTab := by
  rw [capture]
  split <;> simp

theorem State.err_rxTab (p code : Nat) (access addr : Option Nat) : (s.err p code access addr).rxTab = s.rxTab := by
  rw [err, fresh_rxTab, capture_rxTab]

theorem State.logRepair_rxTab (type : Nat) (what : List Nat) : (s.logRepair type what).rxTab = s.rxTab := by
  rw [logRepair]
  split
  · rfl
  · rw [err_rxTab]

theorem State.autoRetire_rxTab (n d : Nat) : (s.autoRetire n d).rxTab = s.rxTab := by
  rw [autoRetire]
  split_ifs <;> simp only [logRepair_rxTab, irq_rxTab, err_rxTab, setFld_rxTab]

theorem State.chRefused_rxTab (n req acc addr : Nat) : (s.chRefused n req acc addr).rxTab = s.rxTab := by
  rw [chRefused, capture_rxTab, irq_rxTab, bump_rxTab]

theorem State.ueSeen_rxTab (n req acc addr : Nat) : (s.ueSeen n req acc addr).rxTab = s.rxTab := by
  rw [ueSeen, capture_rxTab, irq_rxTab, bump_rxTab]

theorem State.rxType_congr {s t : State} (h : t.rxTab = s.rxTab) (e : Nat) : t.rxType e = s.rxType e := by
  rw [rxType, rxType, h]

theorem foldl_rxType {α : Type} {f : State → α → State} {e : Nat} (hf : ∀ x a, (f x a).rxType e = x.rxType e)
    (l : List α) : (l.foldl f s).rxType e = s.rxType e := by
  induction l generalizing s with
  | nil => rfl
  | cons a l ih => rw [List.foldl_cons, ih, hf]

theorem State.noteCorrected_rxType (n req addr : Nat) (g : GrResult) (e : Nat) :
    (s.noteCorrected n req addr g).rxType e = s.rxType e := by
  rw [noteCorrected]
  split
  · rfl
  · rw [corrected, foldl_rxType]
    · exact rxType_congr (by simp) e
    · exact fun x d => rxType_congr (by rw [autoRetire_rxTab, setFld_rxTab]) e

theorem State.granuleSeen_rxType (req g : Nat) (bad : Bool) (e : Nat) : (s.granuleSeen req g bad).rxType e = s.rxType e := by
  rw [granuleSeen]
  split_ifs
  · exact rxType_congr (s.capture_rxTab ..) e
  · exact rxType_congr (s.chRefused_rxTab ..) e
  · exact rxType_congr (s.ueSeen_rxTab ..) e
  · exact s.noteCorrected_rxType ..

/-- A read of DRAM changes no entry's type. -/
theorem State.areaSeen_rxType (req a n : Nat) (bad : List Nat) (e : Nat) : (s.areaSeen req a n bad).rxType e = s.rxType e := by
  rw [areaSeen, foldl_rxType]
  exact fun x g => x.granuleSeen_rxType ..

end

/-! ### Release of a kept packet (R138, R140) -/

/-- The numbers missing below kept packet k of entry v, once it leaves (R138). -/
def RxEntry.lostBelow (v : RxEntry) (k : Kept) : Nat :=
  if k.gen ≠ v.gen then 0 else
    match v.done with
    | some d => (k.seq - d - 1) - ((v.kept.erase k).filter (fun x => x.gen == v.gen && d < x.seq && x.seq < k.seq)).length
    | none => 0

/-- Entry v without kept packet k, its numbers done up to k's; held: time of day is Held. -/
def RxEntry.released (v : RxEntry) (k : Kept) (held : Bool) : RxEntry :=
  { v with kept := v.kept.erase k, done := if k.gen = v.gen then some (max k.seq (v.done.getD k.seq)) else v.done, unref := !held }

/-- Kept packet k has left the merge of entry e, which was v, and n packets are counted lost. -/
def State.takenOut (s : State) (e : Nat) (v : RxEntry) (k : Kept) (n : Nat) : State :=
  ((s.setRxe e (v.released k s.held)).rxCount e ecLost n).bump pgFlr FLR_LOST_n n

/-- A packet that left the merge is delivered by its entry's type (R138, R139). -/
def State.deliverKept (s : State) (e : Nat) (k : Kept) : State :=
  if isAudio (s.rxType e) then s else if s.rxType e = 4 then s.ancRelease e k else s.videoRelease e k

theorem exec_flowPacketRelease {s : State} {e : Fin 8192} {bad : Option Nat} (hlow : s.low = false) :
    exec (.flowPacketRelease e bad) s = .next (s.flowRelease e bad) :=
  run_of_running (fun s => s.flowRelease e bad) hlow

section
variable {s : State} {e : Nat} {k : Kept} {bad : Option Nat}

theorem State.flowRelease_of_nil (h : (s.rxe e).kept = []) : s.flowRelease e bad = s := by
  rw [flowRelease, h, firstKept]

theorem State.flowRelease_of_first (h : firstKept (s.rxe e).kept = some k) :
    s.flowRelease e bad = if k.arrive + s.skewCues e < s.now + 16 then s.releaseOne e k bad else s := by
  rw [flowRelease, h]

theorem State.releaseOne_of_unstaged (h : k.staged = none) : s.releaseOne e k bad =
    (s.takenOut e (s.rxe e) k ((s.rxe e).lostBelow k)).deliverKept e k := by
  simp only [releaseOne, stageOut, h]
  rfl

/-- A staged packet that reads back with an error is lost itself. -/
theorem State.releaseOne_of_bad {a n x : Nat} {r : State} (h : k.staged = some (a, n)) (hbad : s.areaBad a n bad.toList = some x)
    (hr : s.areaSeen (stageReq e) a n bad.toList = r) : s.releaseOne e k bad =
      (r.takenOut e (s.rxe e) k ((s.rxe e).lostBelow k + 1)).err pgFlc 0x052 (some accMediaRead)
        (some x) := by
  simp only [releaseOne, stageOut, h, hbad, hr]
  rfl

theorem State.releaseOne_of_read {a n : Nat} {r : State} (h : k.staged = some (a, n)) (hgood : s.areaBad a n bad.toList = none)
    (hr : s.areaSeen (stageReq e) a n bad.toList = r) : s.releaseOne e k bad =
      (r.takenOut e (s.rxe e) k ((s.rxe e).lostBelow k)).deliverKept e { k with data := s.load a n } := by
  simp only [releaseOne, stageOut, h, hgood, hr]
  rfl

theorem State.takenOut_rxType (v : RxEntry) (n : Nat) : (s.takenOut e v k n).rxType e = s.rxType e := rfl

theorem State.deliverKept_of_audio {t : Nat} (ht : s.rxType e = t) (haudio : isAudio t = true) : s.deliverKept e k = s := by
  rw [deliverKept, ht, if_pos haudio]

theorem State.deliverKept_of_anc {t : Nat} (ht : s.rxType e = t) (hanc : t = 4) : s.deliverKept e k = s.ancRelease e k := by
  rw [deliverKept, ht, hanc]
  rfl

theorem State.deliverKept_of_video {t : Nat} (ht : s.rxType e = t) (haudio : isAudio t = false) (hanc : t ≠ 4) :
    s.deliverKept e k = s.videoRelease e k := by
  rw [deliverKept, ht, haudio, if_neg Bool.false_ne_true, if_neg hanc]

end

/-! ### Loss of a flow (R136) -/

theorem exec_flowLossTimeout {s : State} {e : Fin 8192} (hlow : s.low = false) :
    exec (.flowLossTimeout e) s = .next (s.flowTimeout e).watch :=
  runRails_of_running (fun s => s.flowTimeout e) hlow

section
variable {s : State} {e : Nat}

/-- An active sender of entry e has been heard within the loss time. -/
def State.senderHeard (s : State) (e : Nat) : Bool :=
  (s.rxe e).senders.any (fun x => x.active && s.now + 16 ≤ x.heard + s.lossTime e)

/-- The other senders of entry e heard within the loss time: when, and their places. -/
def State.othersHeard (s : State) (e : Nat) : List (Nat × Nat) :=
  let l := (s.rxe e).senders
  ((l.zip (List.range l.length)).filter (fun x => !x.1.active && s.now < x.1.heard + s.lossTime e)).map (fun x => (x.1.heard, x.2))

theorem State.flowTimeout_of_heard (h : (s.rxe e).st ≠ 3 ∨ s.senderHeard e = true) : s.flowTimeout e = s := if_pos h

section
variable (hlive : (s.rxe e).st = 3) (hsilent : s.senderHeard e = false)
include hlive hsilent

theorem State.not_heard_of_silent : ¬((s.rxe e).st ≠ 3 ∨ s.senderHeard e = true) := by
  simp [hlive, hsilent]

theorem State.flowTimeout_of_none (hnone : s.othersHeard e = []) :
    s.flowTimeout e = (s.rxLeave e 4).irq pgFlr IRQ_flr_flow_lost := by
  rw [othersHeard] at hnone
  exact (if_neg (not_heard_of_silent hlive hsilent)).trans (by rw [hnone])

theorem State.flowTimeout_of_others {h : Nat × Nat} {l : List (Nat × Nat)} (hcons : s.othersHeard e = h :: l) :
    s.flowTimeout e =
      let i := (l.foldl (fun b x => if b.1 < x.1 then x else b) h).2
      let w := s.rxLeave e 2
      ((w.setRxe e { w.rxe e with senders := makeActive (s.rxe e).senders i true }).rxCount e ecSndChg).bump pgFlr
        FLR_SNDCHG_n := by
  rw [othersHeard] at hcons
  exact (if_neg (not_heard_of_silent hlive hsilent)).trans (by rw [hcons])

end

end

/-- Settles O25: a due packet leaves its entry before it is counted and delivered; a silent entry is lost, or locks to another
sender. -/
theorem flowReceptionCompletes : Obligations.FlowReceptionCompletes := by
  refine ⟨fun s e bad hlow => ⟨fun hnil => ?_, fun k hk hearly => ?_, fun k hk hdue => ⟨fun hunstaged => ?_,
    fun a n hstaged htype => ?_⟩⟩,
    fun s e hlow => ⟨fun hheard => ?_, fun hlive hsilent => ⟨fun hnone => ?_, fun h l hcons => ?_⟩⟩⟩
  · rw [exec_flowPacketRelease hlow, State.flowRelease_of_nil hnil]
  · rw [exec_flowPacketRelease hlow, State.flowRelease_of_first hk, if_neg (Nat.not_lt.2 hearly)]
  · have hexec : exec (.flowPacketRelease e bad) s =
        .next ((s.takenOut e (s.rxe e) k ((s.rxe e).lostBelow k)).deliverKept e k) := by
      rw [exec_flowPacketRelease hlow, State.flowRelease_of_first hk, if_pos hdue, State.releaseOne_of_unstaged hunstaged]
    have htype := s.takenOut_rxType (e := e) (k := k) (s.rxe e) ((s.rxe e).lostBelow k)
    refine ⟨fun haudio => ?_, fun hanc => ?_, fun haudio hanc => ?_⟩
    · exact hexec.trans (congrArg _ (State.deliverKept_of_audio htype haudio))
    · exact hexec.trans (congrArg _ (State.deliverKept_of_anc htype hanc))
    · exact hexec.trans (congrArg _ (State.deliverKept_of_video htype haudio hanc))
  · have hexec : exec (.flowPacketRelease e bad) s = .next (s.releaseOne e k bad) := by
      rw [exec_flowPacketRelease hlow, State.flowRelease_of_first hk, if_pos hdue]
    refine ⟨fun x hbad => hexec.trans (congrArg _ (State.releaseOne_of_bad hstaged hbad rfl)), fun hgood => ?_⟩
    have htype := (State.takenOut_rxType (k := k) (s.rxe e) ((s.rxe e).lostBelow k)).trans
      ((s.areaSeen_rxType (stageReq e) a n bad.toList e).trans htype)
    rw [hexec, State.releaseOne_of_read hstaged hgood rfl, State.deliverKept_of_video htype rfl (by decide)]
    rfl
  · rw [exec_flowLossTimeout hlow, State.flowTimeout_of_heard hheard]
  · rw [exec_flowLossTimeout hlow, State.flowTimeout_of_none hlive hsilent hnone]
  · rw [exec_flowLossTimeout hlow, State.flowTimeout_of_others hlive hsilent hcons]

/-! ### The windows of the flow tables (R131) -/

/-- The window page of one direction, and its kind. -/
abbrev pgFlow (isTx : Bool) : Nat := if isTx then pgFlt else pgFlr

abbrev flowKind (isTx : Bool) : PageKind := if isTx then .flt else .flr

section
variable {s : State} {a : Acc} {isTx : Bool} {w : W32}

theorem State.flowWrite_of_admitted (h : Admitted s a (pgFlow isTx) (flowKind isTx) 0 0x100 w) :
    s.flowWrite a isTx 0x100 w = (s.stored a (pgFlow isTx) (flowKind isTx) 0 0x100 w).flowHook a isTx 0x100 w := by
  obtain ⟨hok, heff⟩ := h
  have hbelow : ¬(0x140 ≤ 0x100 ∧ 0x100 < 0x180) := by decide
  simp only [flowWrite, if_neg hbelow, hok, heff, if_true]

theorem State.flowHook_load (u : State) (hload : w.getLsbD 24 = true) (hstore : w.getLsbD 25 = false) :
    u.flowHook a isTx 0x100 w = u.flowWindow a isTx false := by
  simp only [flowHook, hload, hstore, Bool.false_eq_true, if_true, if_false]

theorem State.flowHook_store (u : State) (hload : w.getLsbD 24 = false) (hstore : w.getLsbD 25 = true) :
    u.flowHook a isTx 0x100 w = u.flowWindow a isTx true := by
  simp only [flowHook, hload, hstore, Bool.false_eq_true, if_true, if_false]

theorem exec_flowLoad (word : W32) (h : Reaches s a)
    (hadm : Admitted s a (pgFlow isTx) (flowKind isTx) 0 0x100 (setBits word 24 2 1)) : exec (.flowLoad a isTx word) s =
      .next (((s.stored a (pgFlow isTx) (flowKind isTx) 0 0x100 (setBits word 24 2 1)).flowWindow a isTx false).taken a) := by
  have hload : (setBits word 24 2 1).getLsbD 24 = true := getLsbD_setBits ..
  have hstore : (setBits word 24 2 1).getLsbD 25 = false := getLsbD_setBits ..
  show execFlowLoad a isTx word s = _
  rw [execFlowLoad, run_of_running _ h.1, State.viaPath_of_reaches _ _ h, State.flowWrite_of_admitted hadm,
    State.flowHook_load _ hload hstore]

theorem exec_flowStore (word : W32) (h : Reaches s a)
    (hadm : Admitted s a (pgFlow isTx) (flowKind isTx) 0 0x100 (setBits word 24 2 2)) : exec (.flowStore a isTx word) s =
      .next (((s.stored a (pgFlow isTx) (flowKind isTx) 0 0x100 (setBits word 24 2 2)).flowWindow a isTx true).taken a) := by
  have hload : (setBits word 24 2 2).getLsbD 24 = false := getLsbD_setBits ..
  have hstore : (setBits word 24 2 2).getLsbD 25 = true := getLsbD_setBits ..
  show execFlowStore a isTx word s = _
  rw [execFlowStore, run_of_running _ h.1, State.viaPath_of_reaches _ _ h, State.flowWrite_of_admitted hadm,
    State.flowHook_store _ hload hstore]

end

theorem exec_windowOpDone {s : State} (page : Fin 3) (hlow : s.low = false) : exec (.windowOpDone page) s = .next
    (if page = 0 then s.setBit pgFlr FLR_SEL_busy false
     else if page = 1 then s.setBit pgFlt FLT_SEL_busy false
     else s.setBit pgPitW PIT_SEL_busy false) := by
  show execWindowOpDone page s = _
  rw [execWindowOpDone, run_of_running _ hlow]
  fin_cases page <;> rfl

/-! ### The table CRC pass (R132) -/

/-- A table after upsets of single bits. -/
def upsetTab (upsets : List (Nat × Nat)) (t : Store W32) : Store W32 :=
  upsets.foldl (fun t u => Store.put (fun _ => 0) u.1 (flipBit (Store.get (fun _ => 0) t u.1) u.2) t) t

/-- The live table of one direction is upset. -/
def State.flowUpset (s : State) (isTx : Bool) (upsets : List (Nat × Nat)) : State :=
  if isTx then { s with txTab := upsetTab upsets s.txTab } else { s with rxTab := upsetTab upsets s.rxTab }

/-- The CRC of the live table of one direction. -/
def State.flowSum (s : State) (isTx : Bool) : Nat := (flowCrc isTx (if isTx then s.txTab else s.rxTab)).toNat

/-- The CRC of the live table is shown, and compared with the reference. -/
def State.flowSummed (s : State) (isTx : Bool) : State :=
  let u := s.setFld (pgFlow isTx) FLR_TCRC_NOW_crc (s.flowSum isTx)
  if s.flowSum isTx = u.fld (pgFlow isTx) FLR_TCRC_REF_crc then u else u.cfgFault (pgFlow isTx) 0x050 (pgFlow isTx)

section
variable {s : State} {isTx : Bool} {upsets : List (Nat × Nat)}

theorem State.flowUpset_bit (p : Nat) (f : Fld) (i : Nat) : (s.flowUpset isTx upsets).bit p f i = s.bit p f i := by
  cases isTx <;> rfl

theorem exec_flowTableCrcPass {t : State} (hlow : s.low = false) (ht : s.flowUpset isTx upsets = t) :
    exec (.flowTableCrcPass isTx upsets) s = .next
      (if t.bit (pgFlow isTx) PAGE_STAT_armed && !t.parityOn (pgFlow isTx) (flowKind isTx) then t.flowSummed isTx else t) := by
  subst ht
  show execFlowTableCrcPass isTx upsets s = _
  rw [execFlowTableCrcPass, run_of_running _ hlow]
  rfl

end

/-- Settles O26: a write of the window page loads or stores by its two request bits; upsets of a table change no register. -/
theorem flowWindowsComplete : Obligations.FlowWindowsComplete := by
  refine ⟨?_, ?_, fun s page hlow => exec_windowOpDone page hlow, ?_⟩
  · intro s a isTx word h p k w hadm
    rw [exec_flowLoad word h hadm, State.flowWindow, if_neg Bool.false_ne_true]
  · intro s a isTx word h p k w hadm
    rw [exec_flowStore word h hadm, State.flowWindow, if_pos rfl]
  · intro s isTx upsets hlow p up t c u
    have hbit (f : Fld) : (s.flowUpset isTx upsets).bit (pgFlow isTx) f = s.bit p f := State.flowUpset_bit ..
    refine ⟨fun harmed => ?_, fun harmed hparity => ?_⟩
    · rw [exec_flowTableCrcPass hlow rfl, hbit, harmed, Bool.false_and, if_neg Bool.false_ne_true]
      rfl
    · rw [exec_flowTableCrcPass hlow rfl, State.parityOn, hbit, hbit, harmed, hparity, Bool.and_false, Bool.not_false,
        Bool.and_self, if_pos rfl]
      rfl

end Sys2Proof.Machine
end

section
/-!
IP media flows, the transmit side (R134, R142 to R146): a transmit entry without counters.
-/
namespace Sys2Proof.Machine

/-- Entry 0 sends two channels of audio on path 1 of logical port 0, by timetable row 0, while time of day is Held; its first
packet is due at uptime 10,584,000. Its list of counters is empty. -/
def uncountedEntry : State :=
  ({ ((State.reset.setBit pgCue CUE_TOD_CTL_valid true).setLword (pgEth 0 8 + 0x100) 0x8000).setLword
      (pgEthC 0 + ETH_PORT_mode.off) 0x111 with
    txTab := [(0, 0x25), (14, 0x04020000)], upt := 10584000, fltT := false }.setFld (pgEthC 0) ETH_LINK_up 1).setTxe 0 { cnt := [] }

theorem uncountedEntry_runs : uncountedEntry.low = false := by decide +kernel

theorem uncountedEntry_enabled : entFld uncountedEntry.txTab 0 RXE_CTL_en = 1 ∧
    (false = true → entFld uncountedEntry.txTab 0 RXE_CTL_dual = 1) ∧
    (uncountedEntry.lv pgPair PAIR_CFG_paths).testBit false.toNat = true := by decide +kernel

theorem uncountedEntry_row : uncountedEntry.txRow 0 false = some (0, 0) := by decide +kernel

theorem uncountedEntry_due : releaseAt uncountedEntry.txTab 0 0
    (max (uncountedEntry.releaseTro uncountedEntry.txTab 0 0 false) (uncountedEntry.tapDelay uncountedEntry.txTab 0)) 0
    (uncountedEntry.txPackets 0 false 1) ≤ uncountedEntry.now := by decide +kernel

/-- Its packet is the only one that the port may send. -/
theorem uncountedEntry_mediaDue : uncountedEntry.mediaDue 0 uncountedEntry.now = [(10584000, 0, 0, false)] := by decide +kernel

theorem uncountedEntry_frame_long :
    66 ≤ ((uncountedEntry.txBegin uncountedEntry.txTab 0 0).txFrame uncountedEntry.txTab 0 false 1 []).length + 4 := by
  decide +kernel

theorem uncountedEntry_sends : let b := uncountedEntry.txBegin uncountedEntry.txTab 0 0
    b.ipQuiet = false ∧ b.pathQuiet uncountedEntry.txTab 0 = false ∧ b.lpSends 0 = true := by decide +kernel

/-- The packet leaves, and there is still nothing that it counts in. -/
theorem uncountedEntry_after : ((uncountedEntry.txPacket 0 uncountedEntry.now false 1 []).txe 0).cnt = [] := by decide +kernel

theorem exec_flowPacketTransmit {s : State} {e : Fin 8192} {pathB : Bool} {n : Nat} {payload : List Byte} {cue : Fin 16}
    (hlow : s.low = false) :
    exec (.flowPacketTransmit e pathB n payload cue) s = .next (s.txPacket e (s.now + cue) pathB n payload) :=
  run_of_running (fun s => s.txPacket e (s.now + cue) pathB n payload) hlow

/-- Refutes O27: the statement asks of every state that a packet which leaves raises its entry's first counter by one, but counting
adds at a place of the entry's list (`addAt`), and an empty list has no place: in `uncountedEntry` the packet leaves, and the
count stays zero. The statement lacks the hypothesis that the entry has its counters, as an entry has by default. -/
theorem not_flowTransmissionCompletes : ¬ Obligations.FlowTransmissionCompletes := by
  intro h
  obtain ⟨-, -, -, -, hready⟩ := h uncountedEntry 0 false 1 [] 0 uncountedEntry_runs
  have hheld : uncountedEntry.held = true := by decide +kernel
  have hstarted : (uncountedEntry.txe 0).waitTod = false := by decide +kernel
  have haudio : entFld uncountedEntry.txTab 0 RXE_CTL_type ≠ 1 := by decide +kernel
  obtain ⟨-, hrow⟩ := hready uncountedEntry_enabled hheld hstarted (absurd · haudio)
  obtain ⟨-, -, hleaves⟩ := hrow _ uncountedEntry_row
  have hfirst : ∀ y ∈ uncountedEntry.mediaDue 0 uncountedEntry.now, y.2.2.1 = 0 ∧ y.2.2.2 = false := by
    rw [uncountedEntry_mediaDue]
    decide
  obtain ⟨-, hlong⟩ := hleaves uncountedEntry_due (.inr fun y hy => .inl (hfirst y hy))
  obtain ⟨u, hexec, hcounts, -⟩ := hlong uncountedEntry_frame_long
  obtain ⟨hip, hpath, hport⟩ := uncountedEntry_sends
  obtain ⟨-, hone⟩ := hcounts hip hpath hport
  rw [exec_flowPacketTransmit uncountedEntry_runs] at hexec
  obtain rfl : uncountedEntry.txPacket 0 uncountedEntry.now false 1 [] = u := Host.Outcome.next.inj hexec
  exact Nat.succ_ne_zero _ (hone.symm.trans (congrArg (fun l => l.getD 0 0) uncountedEntry_after))

end Sys2Proof.Machine
end

section
/-!
Platforms (R138, R149 to R161): source frames, rail frames, held frames, rail lines, and the regridding of alignment groups.
-/
namespace Sys2Proof.Machine

/-! ### Source frames (R151, R153) -/

/-- A source that runs the alignment test, and one that waits for its format (R151). -/
abbrev SourceTested (st : Nat) : Prop := st = ptAligned ∨ st = ptUnaligned

abbrev SourceWaiting (st : Nat) : Prop := st = ptLost ∨ st = ptDetecting

theorem not_tested_of_off {st : Nat} (h : st = ptOff) : ¬SourceTested st := by
  subst h
  decide

theorem not_waiting_of_off {st : Nat} (h : st = ptOff) : ¬SourceWaiting st := by
  subst h
  decide

theorem SourceWaiting.not_tested {st : Nat} (h : SourceWaiting st) : ¬SourceTested st := by
  rcases h with rfl | rfl <;> decide

theorem SourceTested.not_waiting {st : Nat} (h : SourceTested st) : ¬(st = ptLost ∨ st = ptDetecting ∨ st = ptOversize) := by
  rcases h with rfl | rfl <;> decide

section
variable {s u : State} {rail : Fin 2048} {cue : Fin 16} {b : Nat} (hlow : s.low = false)
  (hu : (if rail.val < 512 then s.defrApply rail else s) = u) (hb : u.ptBase rail = b)
include hlow hu hb

section
variable (hsdi : b < 512)
include hsdi

theorem exec_sourceFrameReady_of_off (hst : u.ptState b = ptOff) : exec (.sourceFrameReady rail cue) s = .next u.watch := by
  show execSourceFrameReady rail cue s = _
  simp only [execSourceFrameReady, runRails_of_running _ hlow, State.when, decide_eq_true_eq, hu, hb, if_neg (Nat.not_le.2 hsdi),
    if_neg (not_tested_of_off hst), if_neg (not_waiting_of_off hst)]

theorem exec_sourceFrameReady_of_tested (hst : SourceTested (u.ptState b)) {f : Fmt} (hf : (u.pt b).last = some f) :
    exec (.sourceFrameReady rail cue) s = .next (u.srcFrame b (u.now + cue) f false false).watch := by
  show execSourceFrameReady rail cue s = _
  simp only [execSourceFrameReady, runRails_of_running _ hlow, State.when, decide_eq_true_eq, hu, hb, if_neg (Nat.not_le.2 hsdi),
    if_pos hst, hf]

theorem exec_sourceFrameReady_of_first (hst : SourceWaiting (u.ptState b)) {f : Fmt} (hf : (u.df b).fmt = some f) :
    exec (.sourceFrameReady rail cue) s = .next (u.srcFmt b (u.now + cue) f false).watch := by
  show execSourceFrameReady rail cue s = _
  simp only [execSourceFrameReady, runRails_of_running _ hlow, State.when, decide_eq_true_eq, hu, hb, if_neg (Nat.not_le.2 hsdi),
    if_neg hst.not_tested, if_pos hst, hf]

end

section
variable (hslot : 512 ≤ b) {e : Nat} (he : slotEntry u.rxTab (b - 512) = some e)
include hslot he

theorem exec_sourceFrameReady_of_stale (h : (u.rxe e).st ≠ 3 ∨ (u.rxe e).fresh = false) :
    exec (.sourceFrameReady rail cue) s = .next u.watch := by
  rw [← Bool.not_eq_true'] at h
  rw [State.rxe] at h
  show execSourceFrameReady rail cue s = _
  simp only [execSourceFrameReady, runRails_of_running _ hlow, State.when, decide_eq_true_eq, hu, hb, if_pos hslot, he, if_pos h]

theorem exec_sourceFrameReady_of_fresh (hlive : (u.rxe e).st = 3) (hfresh : (u.rxe e).fresh = true)
    {w : State} (hw : u.setRxe e { u.rxe e with fresh := false } = w) : exec (.sourceFrameReady rail cue) s = .next
      (if u.ptState b = ptLost ∨ u.ptState b = ptDetecting ∨ u.ptState b = ptOversize then
        w.srcFmt b (u.now + cue) (entFmt u.rxTab e) (entFld u.rxTab e RXE_CTL_type = 1) ((u.rxe e).frame.getD 0)
      else if u.ptState b = ptAligned ∨ u.ptState b = ptUnaligned then
        w.srcFrame b (u.now + cue) (entFmt u.rxTab e) false (entFld u.rxTab e RXE_CTL_type = 1) ((u.rxe e).frame.getD 0)
      else w).watch := by
  have h : ¬((u.rxe e).st ≠ 3 ∨ (!(u.rxe e).fresh) = true) := by simp [hlive, hfresh]
  subst hw
  rw [State.rxe] at h
  show execSourceFrameReady rail cue s = _
  simp only [execSourceFrameReady, runRails_of_running _ hlow, State.when, decide_eq_true_eq, hu, hb, if_pos hslot, he, if_neg h]
  rfl

end

end

/-! ### The start of a ready frame (R152, R154, R161) -/

theorem exec_railFrameStart {s : State} {rail : Fin 2048} (hlow : s.low = false) :
    exec (.railFrameStart rail) s = .next (s.railStart rail).watch :=
  runRails_of_running (fun s => s.railStart rail) hlow

/-- The Platform of base b has taken its first ready frame, and the staged fields of the gang are applied; rest: its other
frames. -/
def State.frameTaken (s : State) (b : Nat) (rest : List ReadyFrame) : State :=
  let x := s.setPt b { s.pt b with frames := rest }
  (x.ptRails b).foldl (fun y r => y.ptApply r) x

/-- Frame fr of Platform b fails the test anew in w, whose group or window differs from that in s (R161). -/
abbrev State.FailsAnew (s w : State) (b : Nat) (fr : ReadyFrame) : Prop :=
  w.ptState b = ptAligned ∧ (w.plv b PLT_CFG_group, w.plv b PLT_CFG_win) ≠ (s.plv b PLT_CFG_group, s.plv b PLT_CFG_win) ∧
    (w.ptVerdict b (w.grpNext (w.plv b PLT_CFG_group) fr.ready - fr.ready)
      ((w.pt b).last.getD ⟨0, 0, 0, false, 0, 0⟩)).pass = false

section
variable {s u w : State} {r b : Nat} {fr : ReadyFrame} {rest : List ReadyFrame} (hb : s.ptBase r = b)
include hb

theorem State.railStart_of_nil (h : (s.pt b).frames = []) : s.railStart r = s := by
  subst hb
  simp only [railStart, h]

variable (hfr : (s.pt b).frames = fr :: rest)
include hfr

theorem State.railStart_of_early (h : s.now + 16 ≤ fr.release) : s.railStart r = s := by
  subst hb
  simp only [railStart, hfr, if_neg (Nat.not_lt.2 h)]

variable (hdue : fr.release < s.now + 16) (hu : s.frameTaken b rest = u)
include hdue hu

theorem State.railStart_of_idle (h : ¬SourceTested (u.ptState b)) : s.railStart r = u := by
  subst hb
  rw [frameTaken] at hu
  have hidle : (u.ptState (s.ptBase r) != ptAligned && u.ptState (s.ptBase r) != ptUnaligned) = true := by
    simpa [SourceTested] using h
  simp only [railStart, hfr, if_pos hdue, hu, if_pos hidle]

variable (hruns : SourceTested (u.ptState b)) (hw : u.ptTurn b fr.release = w)
include hruns hw

theorem State.railStart_of_tested : s.railStart r =
    (if s.FailsAnew w b fr then w.ptDecide b false fr.release else w).railGo b fr := by
  subst hb
  rw [frameTaken] at hu
  have hnot : ¬(u.ptState (s.ptBase r) != ptAligned && u.ptState (s.ptBase r) != ptUnaligned) = true := by
    simpa [SourceTested, or_iff_not_imp_left] using hruns
  simp only [railStart, hfr, if_pos hdue, hu, if_neg hnot, hw, Bool.not_eq_true', FailsAnew]

end

section
variable {s : State} {b : Nat}

theorem State.ptTurn_of_none (h : (s.pt b).turn = none) (start : Nat) : s.ptTurn b start = s := by
  rw [ptTurn, h]

/-- A Platform that is not Aligned is not put to its test anew. -/
theorem State.not_failsAnew_of_unaligned {w : State} {fr : ReadyFrame} (h : w.ptState b = ptUnaligned) : ¬s.FailsAnew w b fr :=
  fun hfails => absurd (h.symm.trans hfails.1) (by decide)

/-- A frame that starts where the one before ends is neither short nor long. -/
theorem State.railGo_of_next {fr : ReadyFrame} (h : (s.pt b).next = some fr.release) {v : Plat}
    (hv : { s.pt b with fmt := (s.pt b).last, onGrid := fr.onGrid, start := fr.release, holdLeft := none, anc := fr.anc,
                        edh := fr.edh, ts := fr.ts } = v) :
    s.railGo b fr = ((((s.setPt b { v with next := some (s.ptNext b v) }).newLines b).setGang b PLT_STAT_holding 0).setGang b
      PLT_RES_cues fr.res).showStart b fr.release := by
  subst hv
  simp only [railGo, h, lt_irrefl, if_false, ite_self]

end

/-! ### Held frames (R156) -/

theorem exec_holdFrameStart {s : State} {rail : Fin 2048} (hlow : s.low = false) :
    exec (.holdFrameStart rail) s = .next (s.holdStart rail).watch :=
  runRails_of_running (fun s => s.holdStart rail) hlow

section
variable {s : State} {b r : Nat} (hb : s.ptBase r = b)
include hb

theorem State.holdStart_of_not_holding (h : s.pst b PLT_STAT_holding ≠ 1) : s.holdStart r = s := by
  subst hb
  cases hn : (s.pt (s.ptBase r)).next with
  | none => simp only [holdStart, hn]
  | some n => simp only [holdStart, hn, h, false_and, if_false]

variable {n : Nat} (hn : (s.pt b).next = some n) (hholds : s.pst b PLT_STAT_holding = 1)
include hn hholds

theorem State.holdStart_of_early (h : s.now + 16 ≤ n) : s.holdStart r = s := by
  subst hb
  simp only [holdStart, hn, hholds, true_and, if_neg (Nat.not_lt.2 h)]

variable (hdue : n < s.now + 16)
include hdue

theorem State.holdStart_of_last (h : (s.pt b).holdLeft = some 0) : s.holdStart r =
    (s.setPt b { s.pt b with fmt := none, next := none, holdLeft := none }).setGang b PLT_STAT_holding 0 := by
  subst hb
  simp only [holdStart, hn, hholds, true_and, if_pos hdue, if_pos h]

theorem State.holdStart_of_more (h : (s.pt b).holdLeft ≠ some 0) {v : Plat}
    (hv : { s.pt b with start := n, holdLeft := (s.pt b).holdLeft.map (· - 1), anc := [], edh := [] } = v) : s.holdStart r =
    ((s.setPt b { v with next := some (s.ptNext b v) }).newLines b).showStart b n := by
  subst hb hv
  simp only [holdStart, hn, hholds, true_and, if_pos hdue, if_neg h]

end

/-! ### Rail lines (R156, R158) -/

theorem exec_railLineRelease {s : State} {rail : Fin 2048} {field : Fin 2} {pix : List (Option Nat)} {late : Bool}
    {sram : Option Nat} (hlow : s.low = false) : exec (.railLineRelease rail field pix late sram) s =
      .next ((s.railLine rail field pix late sram).ringLine rail field).watch :=
  runRails_of_running (fun s => (s.railLine rail field pix late sram).ringLine rail field) hlow

/-- A line with the pixels has is released on rail r of Platform b: missing ones are concealed and counted. -/
def State.lineShown (s : State) (r b k : Nat) (has : List (Option Nat)) (late : Bool) : State :=
  let u := s.putLine r k (conceal has ((s.pt r).line.getD k []))
  let v := if has.any Option.isNone then (u.pcount b PLT_CONCEAL_n).pirq b 5 else u
  if has.any Option.isNone && late then v.pcount b PLT_LATE_LN_n else v

section
variable {s : State} {r b k : Nat} {pix : List (Option Nat)} {late : Bool} (hb : s.ptBase r = b)
include hb

theorem State.railLine_of_holding (h : s.pst b PLT_STAT_holding = 1) (sram : Option Nat) :
    s.railLine r k pix late sram = s.putLine r k (pix.map (fun _ => Config.black)) := by
  subst hb
  exact if_pos h

theorem State.railLine_of_sound (h : s.pst b PLT_STAT_holding ≠ 1) :
    s.railLine r k pix late none = s.lineShown r b k (s.railHas r k pix) late := by
  subst hb
  cases hmiss : (s.railHas r k pix).any Option.isNone <;> cases late <;>
    simp [railLine, lineShown, h, hmiss, State.when]

theorem State.railLine_of_bad (h : s.pst b PLT_STAT_holding ≠ 1) (x : Nat) : s.railLine r k pix late (some x) =
    (s.lineShown r b k (s.railHas r k pix) late).err (pgQuad b) 0x060 (some accMediaRead) (some x) := by
  rw [← railLine_of_sound hb h]
  subst hb
  simp only [railLine, if_neg h]

end

/-! ### Alignment groups (R150) -/

theorem exec_groupRegrid {s : State} {g : Fin 16} (hlow : s.low = false) :
    exec (.groupRegrid g) s = .next (s.regroup g).watch :=
  runRails_of_running (fun s => s.regroup g) hlow

section
variable {s : State} {g : Nat}

theorem State.regroup_of_none (h : (s.grp g).move = none) : s.regroup g = s := by
  rw [regroup, h]

theorem State.regroup_of_move {lo : Nat} (h : (s.grp g).move = some lo) {u : State}
    (hu : (s.setGrp g { grid := s.grpWanted g, rate := s.grpSetRate g, start := lo + (s.grpWanted g).per / 2, last := lo,
                        move := none }).irq pgPool 0 = u) :
    s.regroup g = if lo < s.now + 16 then u.plat.foldl (fun x e => x.retest g e.1) u else s := by
  rw [regroup, h, ← hu]

end

/-- Settles O28: each command acts on the base of the rail's gang, by the source's state, the frame due first and holding; a
group by its last old instant. -/
theorem platformFramesComplete : Obligations.PlatformFramesComplete := by
  refine ⟨?_, ?_, ?_, ?_, ?_⟩
  · intro s rail cue hlow u b
    refine ⟨fun hsdi => ⟨fun f hst hf => ?_, fun f hst hf => ?_, fun hst => ?_⟩, ?_⟩
    · exact exec_sourceFrameReady_of_tested hlow rfl rfl hsdi hst hf
    · exact exec_sourceFrameReady_of_first hlow rfl rfl hsdi hst hf
    · exact exec_sourceFrameReady_of_off hlow rfl rfl hsdi hst
    · intro hslot e he v ts f comp w
      refine ⟨fun hstale => ?_, fun hlive hfresh hst => ?_, fun hlive hfresh hst => ?_⟩
      · exact exec_sourceFrameReady_of_stale hlow rfl rfl hslot he hstale
      · rw [exec_sourceFrameReady_of_fresh hlow rfl rfl hslot he hlive hfresh rfl, if_pos hst]
      · rw [exec_sourceFrameReady_of_fresh hlow rfl rfl hslot he hlive hfresh rfl, if_neg (SourceTested.not_waiting hst), if_pos hst]
  · intro s rail hlow b
    refine ⟨fun hnil => ?_, ?_⟩
    · rw [exec_railFrameStart hlow, State.railStart_of_nil rfl hnil]
    · intro fr rest hfr x u
      have hb : s.ptBase rail = b := rfl
      have hu : s.frameTaken b rest = u := rfl
      have hstart (hdue : fr.release < s.now + 16) (hst : SourceTested (u.ptState b)) {w : State} (hw : u.ptTurn b fr.release = w) :
          exec (.railFrameStart rail) s =
            .next ((if s.FailsAnew w b fr then w.ptDecide b false fr.release else w).railGo b fr).watch := by
        rw [exec_railFrameStart hlow, State.railStart_of_tested hb hfr hdue hu hst hw]
      refine ⟨fun hearly => ?_, fun hdue hna hnu => ?_, fun hdue hst => ⟨fun hfails => ?_, fun hsound => ?_⟩,
        fun hdue hst hturn hnext => ?_⟩
      · rw [exec_railFrameStart hlow, State.railStart_of_early hb hfr hearly]
      · rw [exec_railFrameStart hlow, State.railStart_of_idle hb hfr hdue hu (not_or.2 ⟨hna, hnu⟩)]
      · rw [hstart hdue hst rfl, if_pos hfails]
      · rw [hstart hdue hst rfl, if_neg hsound]
      · rw [hstart hdue (.inr hst) (State.ptTurn_of_none hturn _), if_neg (State.not_failsAnew_of_unaligned hst),
          State.railGo_of_next hnext rfl]
  · intro s rail hlow b v
    refine ⟨fun hfree => ?_, fun n hn hholds => ⟨fun hearly => ?_, fun hdue hlast => ?_, fun hdue hmore => ?_⟩⟩
    · rw [exec_holdFrameStart hlow, State.holdStart_of_not_holding rfl hfree]
    · rw [exec_holdFrameStart hlow, State.holdStart_of_early rfl hn hholds hearly]
    · rw [exec_holdFrameStart hlow, State.holdStart_of_last rfl hn hholds hdue hlast]
    · rw [exec_holdFrameStart hlow, State.holdStart_of_more rfl hn hholds hdue hmore rfl]
  · intro s rail field pix late hlow b has u v w
    refine ⟨fun hholds sram => ?_, fun hfree => ⟨?_, fun x => ?_⟩⟩
    · rw [exec_railLineRelease hlow, State.railLine_of_holding rfl hholds]
    · rw [exec_railLineRelease hlow, State.railLine_of_sound rfl hfree]
      rfl
    · rw [exec_railLineRelease hlow, State.railLine_of_bad rfl hfree]
      rfl
  · intro s g hlow
    refine ⟨fun hnone => ?_, fun lo hlo => ⟨fun hearly => ?_, fun hdue => ?_⟩⟩
    · rw [exec_groupRegrid hlow, State.regroup_of_none hnone]
    · rw [exec_groupRegrid hlow, State.regroup_of_move hlo rfl, if_neg (Nat.not_lt.2 hearly)]
    · rw [exec_groupRegrid hlow, State.regroup_of_move hlo rfl, if_pos hdue]

end Sys2Proof.Machine
end

section
/-!
The Turntable (R167 to R205): single takes and their landing, the salvo memory, the cue sheet and its results, and the
general-purpose inputs.
-/
namespace Sys2Proof.Machine

/-! ### Single takes (R168, R188) -/

section
variable {s u : State} {a : Acc} {t r : Nat}

theorem exec_tapTakeWrite {tap : Fin 2560} (w : W32) (h : Reaches s a) : exec (.tapTakeWrite a tap w false) s =
    .next ((s.tapWrite a (tap / 16) (TT_TAPCTL_src.at (tap % 16)) w none).taken a).watch := by
  show execTapTakeWrite a tap w false s = _
  simp only [execTapTakeWrite, runRails_viaPath _ _ h, Bool.false_eq_true, if_false]

theorem pgTap_page (t : Nat) : pgTap (16 * (t / 16)) = pgTap t := by
  rw [pgTap, pgTap, Nat.mul_div_cancel_left _ (by decide)]

/-- The register of a take names its tap by the page and the offset. -/
theorem State.tapHook_take (a : Acc) (t : Nat) (old : W32) :
    u.tapHook a (t / 16) (TT_TAPCTL_src.at (t % 16)) old = u.tapCtlWritten a t old := by
  have hoff : TT_TAPCTL_src.at (t % 16) = 0x104 + t % 16 * 0x20 := rfl
  have htap : 16 * (t / 16) + (0x104 + t % 16 * 0x20 - 0x100) / 0x20 = t := by omega
  rw [tapHook, hoff, if_pos (by omega), htap]

/-- Whatever bits the access may write, a write that reaches the register is a take. -/
theorem State.tapWrite_take {w : W32}
    (hok : (s.storeWord a (pgTap t) .tap (t / 16) (TT_TAPCTL_src.at (t % 16)) w).ok = true) :
    s.tapWrite a (t / 16) (TT_TAPCTL_src.at (t % 16)) w none =
      (s.stored a (pgTap t) .tap (t / 16) (TT_TAPCTL_src.at (t % 16)) w).tapCtlWritten a t
        (s.word (pgTap t + TT_TAPCTL_src.at (t % 16))) := by
  simp only [tapWrite, pgTap_page, hok, if_true, storeWord_old, tapHook_take]

section
variable {old : W32} (hr : u.tapFld t TT_TAPCTL_src = r)
include hr

theorem State.tapCtlWritten_of_no_rail (hlo : 2336 ≤ r) (hhi : r < 0xFFF) : u.tapCtlWritten a t old =
    (u.setTapFld t TT_TAPCTL_src (getBits old 0 12)).accErr (pgTap t) 0x075 a accWrite
      (pgTap t + TT_TAPCTL_src.at (t % 16)) := by
  simp only [tapCtlWritten, hr, noRail, hlo, hhi, and_self, if_true]

section
variable (hrail : r < 2336 ∨ r = 0xFFF)
include hrail

theorem State.take_names_rail : ¬(2336 ≤ u.tapFld t TT_TAPCTL_src ∧ u.tapFld t TT_TAPCTL_src < noRail) := by
  rw [hr, noRail]
  omega

theorem State.tapCtlWritten_of_member (hbase : u.tapBase t ≠ t) : u.tapCtlWritten a t old =
    (u.setTapFld t TT_TAPCTL_src (getBits old 0 12)).accErr (pgTap t) 0x077 a accWrite
      (pgTap t + TT_TAPCTL_src.at (t % 16)) := by
  simp only [tapCtlWritten, if_neg (take_names_rail hr hrail), if_pos hbase]

variable (hbase : u.tapBase t = t)
include hbase

theorem State.tapCtlWritten_of_misfit (hfit : u.gangsFit t r = false) : u.tapCtlWritten a t old =
    (u.ttRefuse t 7).accErr (pgTap t) 0x071 a accWrite (pgTap t + TT_TAPCTL_src.at (t % 16)) := by
  have hbad : (!u.gangsFit t (u.tapFld t TT_TAPCTL_src)) = true := by rw [hr, hfit]; rfl
  simp only [tapCtlWritten, if_neg (take_names_rail hr hrail), if_neg (not_not.2 hbase), if_pos hbad]

theorem State.tapCtlWritten_of_fit (hfit : u.gangsFit t r = true) : u.tapCtlWritten a t old =
    if u.follows then u else (u.armTake t r (u.tapFld t TT_TAPCTL_bkwy == 1) u.now none).1 := by
  have hgood : ¬(!u.gangsFit t (u.tapFld t TT_TAPCTL_src)) = true := by simp only [hr, hfit]; decide
  simp only [tapCtlWritten, if_neg (take_names_rail hr hrail), if_neg (not_not.2 hbase), if_neg hgood]
  rw [hr]

end

end

/-! ### Landing (R171, R194) -/

theorem exec_takeLand {tap : Fin 2560} {cue : Fin 16} (hlow : s.low = false) :
    exec (.takeLand tap cue) s = .next (s.tapSwitch tap (s.now + cue)).watch :=
  runRails_of_running (fun s => s.tapSwitch tap (s.now + cue)) hlow

theorem State.tapSwitch_of_none {S : Nat} (h : (s.takes t).filter (fun k => s.mayLand t S k) = []) : s.tapSwitch t S = s := by
  simp only [tapSwitch, h, List.getLast?_nil]

theorem State.tapSwitch_of_last {S : Nat} {k : Take}
    (h : ((s.takes t).filter (fun k => s.mayLand t S k)).getLast? = some k) : s.tapSwitch t S =
      ((((s.takes t).filter (fun x => x.seq < k.seq)).foldl (fun x y => x.ttOverride t y)
        (s.setTakes t ((s.takes t).filter (fun x => k.seq < x.seq)))).ttLand t S k).asyncTidy := by
  simp only [tapSwitch, h]

/-! ### The salvo memory (R183, R187) -/

theorem exec_salvoMemoryWrite (w : W32) (h : Reaches s a) :
    exec (.salvoMemoryWrite a w) s = .next ((s.smWrite a 0x104 w).taken a) := by
  show execSalvoMemoryWrite a w s = _
  rw [execSalvoMemoryWrite, run_of_running _ h.1, State.viaPath_of_reaches _ _ h]

theorem exec_salvoMemoryRead (h : Reaches s a) :
    exec (.salvoMemoryRead a) s = .next ((s.smRead a).1.answerWord a.m (s.smRead a).2) := by
  show execSalvoMemoryRead a s = _
  rw [execSalvoMemoryRead, run_of_running _ h.1, State.viaRead_of_reaches _ _ h]

theorem State.smWrite_data {w : W32} (hok : (s.storeWord a pgSm .ttSm 0 0x104 w).ok = true)
    (hu : (s.stored a pgSm .ttSm 0 0x104 w).setWord (pgSm + 0x104) 0 = u) : s.smWrite a 0x104 w =
      ({ u with salvoMem := Store.put (fun _ => 0) (u.fld pgSm TT_SM_ADDR_idx) (w &&& pairMask) u.salvoMem } : State).smNext := by
  simp only [smWrite, hok, and_self, if_true, hu]

theorem State.smRead_of_privileged (h : s.privileged a = true) :
    s.smRead a = (s.smNext, s.pairAt (s.fld pgSm TT_SM_ADDR_idx)) := if_pos h

theorem State.smRead_of_not_privileged (h : s.privileged a = false) : s.smRead a = (s, 0) := by
  rw [smRead, h, if_neg Bool.false_ne_true]

end

/-- Settles O29: a take is judged by its rail, its tap and the gangs' widths; a switching point by the takes that may land; the
salvo memory moves its index on with each access that it admits. -/
theorem takesComplete : Obligations.TakesComplete := by
  refine ⟨?_, ?_, ?_, ?_⟩
  · intro s a tap w h o hadm u r back deny
    have hexec {v : State} (hv : u.tapCtlWritten a tap (s.word (pgTap tap + o)) = v) :
        exec (.tapTakeWrite a tap w false) s = .next (v.taken a).watch := by
      rw [exec_tapTakeWrite w h, State.tapWrite_take hadm.1, hv]
    refine ⟨fun hlo hhi => ?_, fun hrail hbase => ?_, fun hrail hbase hfit => ?_, fun hrail hbase hfit => ?_⟩
    · exact hexec (State.tapCtlWritten_of_no_rail rfl hlo hhi)
    · exact hexec (State.tapCtlWritten_of_member rfl hrail hbase)
    · exact hexec (State.tapCtlWritten_of_misfit rfl hrail hbase hfit)
    · exact hexec (State.tapCtlWritten_of_fit rfl hrail hbase hfit)
  · intro s tap cue hlow S may
    refine ⟨fun hnone => ?_, fun k hlast => ?_⟩
    · rw [exec_takeLand hlow, State.tapSwitch_of_none hnone]
    · rw [exec_takeLand hlow, State.tapSwitch_of_last hlast]
  · intro s a w h hok u i v
    rw [exec_salvoMemoryWrite w h, State.smWrite_data hok rfl]
    rfl
  · intro s a h i
    refine ⟨fun hpriv => ?_, fun hpriv => ?_⟩
    · rw [exec_salvoMemoryRead h, State.smRead_of_privileged hpriv]
      rfl
    · rw [exec_salvoMemoryRead h, State.smRead_of_not_privileged hpriv]

/-! ### Submission (R189) -/

section
variable {s u : State} {a : Acc} {w : W32}

theorem exec_cueSubmit (w : W32) (h : Reaches s a) : exec (.cueSubmit a w) s = .next ((s.cqWrite a 0x110 w).taken a) := by
  show execCueSubmit a w s = _
  rw [execCueSubmit, run_of_running _ h.1, State.viaPath_of_reaches _ _ h]

theorem State.cqWrite_submit (hok : (s.storeFor a pgCq .ttCue 0 0x110 w).ok = true)
    (heff : (s.storeFor a pgCq .ttCue 0 0x110 w).eff = w) : s.cqWrite a 0x110 w =
      if w.getLsbD 31 then (s.storeFor a pgCq .ttCue 0 0x110 w).s.submit a.m else (s.storeFor a pgCq .ttCue 0 0x110 w).s := by
  simp [cqWrite, cqHook, hok, heff]

/-- The sheet's response to the last submission of master m. -/
def State.cueRespond (s : State) (m v : Nat) : State := s.setMfld m pgCq TT_CQ_RESP_st v

/-- The entry that the registers of master m spell, for a target. -/
def State.submission (s : State) (m target : Nat) : CueEnt :=
  { kind := s.mfld m pgCq TT_CQ_SUB_kind, target := target, salvo := s.mfld m pgCq TT_CQ_SUB_salvo,
    strict := s.mfld m pgCq TT_CQ_SUB_strict == 1, tag := s.mfld m pgCq TT_CQ_TAG_tag }

/-- The target that the registers of master m spell for a kind: an uptime, a time of day in cues, or at once. -/
def State.submitTarget (s : State) (m kind : Nat) : Nat :=
  let lo := s.mfld m pgCq TT_CQ_TGT_lo
  let hi := s.mfld m pgCq TT_CQ_TGT_hi
  if kind = 0 then hi * 2 ^ 32 + lo
  else if kind = 1 then (s.mfld m pgCq TT_CQ_TSEC_hi * 2 ^ 32 + s.mfld m pgCq TT_CQ_TSEC_lo) * cueSec + (hi % 4 * 2 ^ 32 + lo)
  else s.now

section
variable {m kind : Nat} (hkind : u.mfld m pgCq TT_CQ_SUB_kind = kind)
include hkind

theorem State.submit_of_reserved (h3 : kind = 3) :
    u.submit m = ((u.bump pgCq CQ_BADKIND_n).err pgCq 0x076).cueRespond m 4 := by
  simp only [submit, hkind, h3, if_true, cueRespond]

theorem State.submit_of_not_held (h1 : kind = 1) (hheld : u.held = false) :
    u.submit m = (u.bump pgCq CQ_SUBMIT_n).cueRespond m 3 := by
  have h3 : kind ≠ 3 := by omega
  have htod : kind = 1 ∧ (!u.held) = true := ⟨h1, by rw [hheld, Bool.not_false]⟩
  simp only [submit, hkind, if_neg h3, if_pos htod, cueRespond]

/-- Past the checks of kind and time base, only a full sheet refuses. -/
theorem State.submit_of_timed (h3 : kind ≠ 3) (hheld : kind = 1 → u.held = true) : u.submit m =
    if sheetSize ≤ u.sheet.length then (((u.bump pgCq CQ_FULL_n).irq pgCq IRQ_ttCue_full).err pgCq 0x073).cueRespond m 2
    else (u.addEntry (u.submission m (u.submitTarget m kind))).cueRespond m 1 := by
  have htod : ¬(kind = 1 ∧ (!u.held) = true) := fun ⟨h1, hnot⟩ => by simp [hheld h1] at hnot
  simp only [submit, hkind, if_neg h3, if_neg htod, cueRespond, submission, submitTarget]

end

/-! ### Cancellation (R193) -/

theorem exec_cueCancel (w : W32) (h : Reaches s a) : exec (.cueCancel a w) s = .next ((s.cqWrite a 0x128 w).taken a) := by
  show execCueCancel a w s = _
  rw [execCueCancel, run_of_running _ h.1, State.viaPath_of_reaches _ _ h]

theorem State.cqWrite_cancel (h : Admitted s a pgCq .ttCue 0 0x128 w) : s.cqWrite a 0x128 w =
    if w.getLsbD 31 then (s.stored a pgCq .ttCue 0 0x128 w).cancel else s.stored a pgCq .ttCue 0 0x128 w := by
  have hshared : s.storeFor a pgCq .ttCue 0 0x128 w = s.storeWord a pgCq .ttCue 0 0x128 w := if_neg (by decide)
  simp [cqWrite, cqHook, hshared, h.1, h.2]

/-! ### Dispatch (R190, R191, R355) -/

theorem exec_cueDispatch_of_none (bad : Bool) (hlow : s.low = false) (h : s.firstEntry = none) :
    exec (.cueDispatch bad) s = .next s.watch := by
  show execCueDispatch bad s = _
  simp only [execCueDispatch, runRails_of_running _ hlow, h]

theorem exec_cueDispatch_of_first (bad : Bool) (hlow : s.low = false) {e : CueEnt} (h : s.firstEntry = some e)
    (hu : s.setSheet (s.sheet.erase e) = u) : exec (.cueDispatch bad) s = .next
      (if s.keyOf e ≤ s.now + s.leadTime ∧ s.follows = false then
        (u.journal u.earliest (.dispatch e.salvo e.tag)).dispatch e (s.keyOf e).toNat bad else s).watch := by
  show execCueDispatch bad s = _
  simp only [execCueDispatch, runRails_of_running _ hlow, h, hu, Bool.not_eq_true']

/-! ### Results (R192) -/

theorem exec_cueResultPop (h : Reaches s a) :
    exec (.cueResultPop a) s = .next ((s.popResult a.m).1.answerWord a.m (s.popResult a.m).2) := by
  show execCueResultPop a s = _
  rw [execCueResultPop, run_of_running _ h.1, State.viaRead_of_reaches _ _ h]

theorem State.popResult_of_nil (m : Nat) (h : s.results = []) : s.popResult m = (s, 0) := by
  simp only [popResult, h]

theorem State.popResult_of_cons (m : Nat) {r : CueRes} {rest : List CueRes} (h : s.results = r :: rest)
    (hu : ({ s with results := rest } : State).setFld pgCq TT_CQ_RES_LEVEL_n rest.length = u) : s.popResult m =
      (((u.setMreg m (pgCq + 0x134) (setBits (setBits 0 0 12 r.nref) 16 12 r.tap)).setMreg m (pgCq + 0x138)
        (BitVec.ofNat 32 r.upt)).setMreg m (pgCq + 0x13C) (BitVec.ofNat 32 (r.upt / 2 ^ 32)),
      setBits (setBits (setBits 0 0 16 r.tag) 16 3 r.outcome) 31 1 1) := by
  simp only [popResult, h, hu]

end

/-- Settles O30: a submission is refused for its kind, its time base or a full sheet, in that order (log entry 44), else its
target is read by its kind; a dispatch turns on the first entry's key; a pop of an empty FIFO returns zero (log entry 46). -/
theorem cueSheetCommandsComplete : Obligations.CueSheetCommandsComplete := by
  refine ⟨?_, ?_, ?_, ?_⟩
  · intro s a w h hok heff u kind resp full ent lo hi sec
    refine ⟨fun hgo => ?_, fun hgo => ?_⟩
    · rw [exec_cueSubmit w h, State.cqWrite_submit hok heff, if_neg (Bool.eq_false_iff.1 hgo)]
    have hexec {v : State} (hv : u.submit a.m = v) : exec (.cueSubmit a w) s = .next (v.taken a) := by
      rw [exec_cueSubmit w h, State.cqWrite_submit hok heff, if_pos hgo, hv]
    have hstored {n t : Nat} (hkind : kind = n) (h3 : n ≠ 3) (hheld : n = 1 → u.held = true) (hroom : ¬full)
        (ht : u.submitTarget a.m n = t) : exec (.cueSubmit a w) s = .next (resp (ent t) 1) := by
      subst hkind ht
      exact hexec ((State.submit_of_timed rfl h3 hheld).trans (if_neg hroom))
    refine ⟨fun h3 => ?_, fun h1 hheld => ?_, fun h3 hheld hfull => ?_, fun hroom h0 => ?_, fun hroom h1 hheld => ?_,
      fun hroom h2 => ?_⟩
    · exact hexec (State.submit_of_reserved rfl h3)
    · exact hexec (State.submit_of_not_held rfl h1 hheld)
    · exact hexec ((State.submit_of_timed rfl h3 hheld).trans (if_pos hfull))
    · exact hstored h0 (by decide) nofun hroom rfl
    · exact hstored h1 (by decide) (fun _ => hheld) hroom rfl
    · exact hstored h2 (by decide) nofun hroom rfl
  · intro s a w h hadm u tag gone v
    refine ⟨fun hgo => ?_, fun hgo => ?_⟩
    · rw [exec_cueCancel w h, State.cqWrite_cancel hadm, if_neg (Bool.eq_false_iff.1 hgo)]
    · rw [exec_cueCancel w h, State.cqWrite_cancel hadm, if_pos hgo, State.cancel]
      simp only [List.isEmpty_iff]
      rfl
  · intro s bad hlow
    refine ⟨fun hnone => ?_, fun e hfirst => ⟨fun hwait => ?_, fun hdue hlead => ?_⟩⟩
    · exact exec_cueDispatch_of_none bad hlow hnone
    · have hnot : ¬(s.keyOf e ≤ s.now + s.leadTime ∧ s.follows = false) := fun ⟨hdue, hlead⟩ =>
        hwait.elim (not_lt.2 hdue) (by simp [hlead])
      rw [exec_cueDispatch_of_first bad hlow hfirst rfl, if_neg hnot]
    · rw [exec_cueDispatch_of_first bad hlow hfirst rfl, if_pos ⟨hdue, hlead⟩]
  · intro s a h
    refine ⟨fun hnil => ?_, fun r rest hcons => ?_⟩
    · rw [exec_cueResultPop h, State.popResult_of_nil _ hnil]
    · rw [exec_cueResultPop h, State.popResult_of_cons _ hcons rfl]

/-! ### Edges of the general-purpose inputs (R199, R201) -/

section
variable {s : State} {n : Fin 16}

theorem exec_gpiActive (hlow : s.low = false) : exec (.gpiActive n) s = .next (s.gpiRise n) :=
  run_of_running (fun s => s.gpiRise n) hlow

theorem exec_gpiInactive (hlow : s.low = false) : exec (.gpiInactive n) s = .next (s.gpiFall n) :=
  run_of_running (fun s => s.gpiFall n) hlow

end

section
variable {s u : State} {n : Nat} {v w : Gpi}

theorem State.gpiRise_of_active (h : s.gpiOn n = true) : s.gpiRise n = s := if_pos h

/-- What a rise notes of an input, whatever becomes of it. -/
def State.riseNoted (s : State) (v : Gpi) : Gpi := { v with rise := some s.now, short := gpiShort v s.now, edge := s.now }

section
variable (hoff : s.gpiOn n = false) (hu : s.setGpiOn n true = u) (hv : s.gp n = v) (hw : s.riseNoted v = w)
include hoff hu hv hw

/-- A rise by the input's state: Chattering, on the way to it, armed and enabled, or none of these. -/
theorem State.gpiRise_of_inactive : s.gpiRise n =
    if v.st = 3 then u.setGp n w
    else if 8 ≤ w.short then
      ((u.setGp n { w with st := 3, short := 0 }).bump pgGpio GPI_CHAT_n 1 n).irq pgGpio IRQ_ttGpio_chatter
    else if v.st = 0 ∧ u.bit pgGpio TT_GPI_en n = true then
      if u.follows then (u.setGp n { w with st := 1, own := true }).when v.own (fun x => x.bump pgPair PAIR_DEC_DIFF_n)
      else (u.setGp n { w with st := 1, own := false }).gpiFire n u.earliest
    else u.setGp n { w with st := if v.st = 2 then 1 else v.st } := by
  subst hu hv hw
  rw [gpiRise, if_neg (Bool.eq_false_iff.1 hoff)]
  rfl

theorem State.gpiRise_of_chattering (hst : v.st = 3) : s.gpiRise n = u.setGp n w := by
  rw [gpiRise_of_inactive hoff hu hv hw, if_pos hst]

theorem State.gpiRise_of_chatter (hst : v.st ≠ 3) (hshort : 8 ≤ w.short) : s.gpiRise n =
    ((u.setGp n { w with st := 3, short := 0 }).bump pgGpio GPI_CHAT_n 1 n).irq pgGpio IRQ_ttGpio_chatter := by
  rw [gpiRise_of_inactive hoff hu hv hw, if_neg hst, if_pos hshort]

variable (hshort : w.short < 8)
include hshort

theorem State.gpiRise_of_armed (hst : v.st = 0) (hen : u.bit pgGpio TT_GPI_en n = true) : s.gpiRise n =
    if u.follows then (u.setGp n { w with st := 1, own := true }).when v.own (fun x => x.bump pgPair PAIR_DEC_DIFF_n)
    else (u.setGp n { w with st := 1, own := false }).gpiFire n u.earliest := by
  rw [gpiRise_of_inactive hoff hu hv hw, if_neg (by omega), if_neg (Nat.not_le.2 hshort), if_pos ⟨hst, hen⟩]

theorem State.gpiRise_of_debouncing (hst : v.st = 2) : s.gpiRise n = u.setGp n { w with st := 1 } := by
  rw [gpiRise_of_inactive hoff hu hv hw, if_neg (by omega), if_neg (Nat.not_le.2 hshort), if_neg (by omega), if_pos hst]

end

theorem State.gpiFall_of_inactive (h : s.gpiOn n = false) : s.gpiFall n = s := if_neg (Bool.eq_false_iff.1 h)

theorem State.gpiFall_of_active (h : s.gpiOn n = true) : s.gpiFall n = (s.setGpiOn n false).setGp n
    { s.gp n with st := if (s.gp n).st = 1 then 2 else (s.gp n).st, since := s.now, edge := s.now } := if_pos h

end

/-! ### Rearming and the end of chatter (R199, R200) -/

section
variable {s : State} {n : Fin 16}

theorem exec_gpiRearm (hlow : s.low = false) : exec (.gpiRearm n) s = .next
    (if (s.gp n).st = 2 ∧ (s.gp n).since + max 1 (s.fld pgGpio TT_GPI_deb n) * cueMs < s.now + 16
      then s.setGp n { s.gp n with st := 0 } else s) := by
  show execGpiRearm n s = _
  rw [execGpiRearm, run_of_running _ hlow]

theorem exec_gpiChatterEnd (hlow : s.low = false) : exec (.gpiChatterEnd n) s = .next
    (if (s.gp n).st = 3 ∧ (s.gp n).edge + 1058400000 < s.now + 16
      then s.setGp n { s.gp n with st := if s.gpiOn n then 1 else 0 } else s) := by
  show execGpiChatterEnd n s = _
  rw [execGpiChatterEnd, run_of_running _ hlow]

end

/-- Settles O31: an edge that the level already shows does nothing; a rise acts by the input's state, its short periods and who
decides; rearming and the end of chatter turn on their instants. -/
theorem gpiEventsComplete : Obligations.GpiEventsComplete := by
  refine ⟨?_, ?_, ?_, ?_⟩
  · intro s n hlow v u sh w
    rw [exec_gpiActive hlow]
    refine ⟨fun hon => ?_, fun hoff hst => ?_, fun hoff hst hsh => ?_, fun hoff hsh hst hen hlead => ?_,
      fun hoff hsh hst hen hfol => ?_, fun hoff hsh hst => ?_⟩
    · rw [State.gpiRise_of_active hon]
    · rw [State.gpiRise_of_chattering hoff rfl rfl rfl hst]
      rfl
    · rw [State.gpiRise_of_chatter hoff rfl rfl rfl hst hsh]
      rfl
    · rw [State.gpiRise_of_armed hoff rfl rfl rfl hsh hst hen, if_neg (Bool.eq_false_iff.1 hlead)]
      rfl
    · rw [State.gpiRise_of_armed hoff rfl rfl rfl hsh hst hen, if_pos hfol]
      rfl
    · rw [State.gpiRise_of_debouncing hoff rfl rfl rfl hsh hst]
      rfl
  · intro s n hlow
    rw [exec_gpiInactive hlow]
    exact ⟨fun hoff => by rw [State.gpiFall_of_inactive hoff], fun hon => by rw [State.gpiFall_of_active hon]⟩
  · intro s n hlow due
    rw [exec_gpiRearm hlow]
    exact ⟨fun hdue => by rw [if_pos hdue], fun hnot => by rw [if_neg hnot]⟩
  · intro s n hlow due
    rw [exec_gpiChatterEnd hlow]
    exact ⟨fun hdue => by rw [if_pos hdue], fun hnot => by rw [if_neg hnot]⟩

end Sys2Proof.Machine
end

section
/-!
Frame synchronisers (R206 to R223): the input frames of a unit, the decision two output lines before an output frame, and the
output frame.
-/
namespace Sys2Proof.Machine

/-! ### Input frames (R209, R215) -/

section
variable {s : State} {unit : Fin 256} {cue : Fin 16}

theorem exec_syncInputFrame_of_off (hlow : s.low = false) (hoff : (s.sy unit).on = false) :
    exec (.syncInputFrame unit cue) s = .next s := by
  show execSyncInputFrame unit cue s = _
  rw [execSyncInputFrame, run_of_running _ hlow, if_neg (Bool.eq_false_iff.1 hoff)]

section
variable (hlow : s.low = false) (hon : (s.sy unit).on = true)
include hlow hon

theorem exec_syncInputFrame_of_no_format (hfmt : s.railFmt (s.synRail unit) = none) :
    exec (.syncInputFrame unit cue) s = .next (s.synLost unit) := by
  show execSyncInputFrame unit cue s = _
  simp only [execSyncInputFrame, run_of_running _ hlow, hon, hfmt, if_true]

theorem exec_syncInputFrame_of_format {f : Fmt} (hfmt : s.railFmt (s.synRail unit) = some f) :
    exec (.syncInputFrame unit cue) s =
      .next ((s.setSyFld unit SYN_STAT_input_lost 0).synWrite unit (s.now + cue) f) := by
  show execSyncInputFrame unit cue s = _
  simp only [execSyncInputFrame, run_of_running _ hlow, hon, hfmt, if_true]

end

end

section
variable {s x : State} {b w : Nat} {f : Fmt}

/-- SYN_STAT says of picture f on unit b whether it is too large and whether its rate is wrong (R211, R215). -/
def State.synJudged (s : State) (b : Nat) (f : Fmt) : State :=
  (s.setSyFld b SYN_STAT_oversize (s.synOver b f).toNat).setSyFld b SYN_STAT_rate_diff (s.synDiff b f).toNat

/-- A unit that was not writing begins again: it reads only what it writes from here on, and its first choice is not counted
(R214). -/
def Syn.resumed (v : Syn) : Syn :=
  if v.writing then v else { v with restart := v.next, quiet := v.last.isSome, writing := true }

/-- The record of the input frame of picture f that starts at w on the rail of unit b, under the next number of v (R209). -/
def State.synEntry (s : State) (b : Nat) (v : Syn) (w : Nat) (f : Fmt) : SynFrame := {
  num := v.next, w := w, done := some (w + (Config.firstActive f.lines + activeLines f.lines) * perOf f.rate / f.lines),
  fmt := f, width := s.railWidth (s.synRail b), good := s.railGood (s.synRail b), anc := s.railAncs (s.railBase (s.synRail b)),
  edh := s.railEdh (s.synRail b), colour := s.railColour (s.synRail b), slot := s.synSlot b v.next }

/-- Unit b, at v, writes frame fr as the newest of its ring (R208), and SYN_FILL shows the frames it has yet to read. -/
def State.synPush (s : State) (b : Nat) (v : Syn) (fr : SynFrame) : State :=
  (s.setSy b { v with
    ring := (fr :: v.ring).take (s.syLv b SYN_CFG_depth), next := v.next + 1,
    good := if fr.good then some fr else v.good }).setSyFld b SYN_FILL_n
      (min 31 (v.next + 1 - (match v.last with | some l => l + 1 | none => v.restart)))

variable (hx : s.synJudged b f = x)
include hx

theorem State.synWrite_of_unfit (hunfit : (s.synOver b f || s.synDiff b f) = true) :
    s.synWrite b w f = x.setSy b { x.sy b with writing := false } := by
  subst hx
  exact if_pos hunfit

theorem State.synWrite_of_fit (hfit : (s.synOver b f || s.synDiff b f) = false) :
    s.synWrite b w f = x.synPush b (x.sy b).resumed (x.synEntry b (x.sy b).resumed w f) := by
  subst hx
  exact if_neg (Bool.eq_false_iff.1 hfit)

end

theorem Syn.resumed_of_writing {v : Syn} (h : v.writing = true) : v.resumed = v := if_pos h

/-! ### Decisions (R210, R213, R218) -/

section
variable {s : State} {unit : Fin 256}

theorem exec_syncDecision_of_idle (hlow : s.low = false) (h : (s.sy unit).on = false ∨ s.synLines unit = none) :
    exec (.syncDecision unit) s = .next s := by
  show execSyncDecision unit s = _
  rw [execSyncDecision, run_of_running _ hlow]
  rcases h with hoff | hlines
  · rw [if_neg (Bool.eq_false_iff.1 hoff)]
  · simp only [hlines, ite_self]

theorem exec_syncDecision_of_lines (hlow : s.low = false) (hon : (s.sy unit).on = true) {n two F : Nat}
    (hlines : s.synLines unit = some n) (htwo : 2 * perOf (s.grpRate (s.synGroup unit)) / n = two)
    (hF : s.grpNext (s.synGroup unit) (s.now + two) = F) :
    exec (.syncDecision unit) s = .next (if F - two < s.now + 16 then s.synDecide unit F (F - two) else s) := by
  show execSyncDecision unit s = _
  simp only [execSyncDecision, run_of_running _ hlow, hon, hlines, htwo, hF, if_true]

end

/-- A register outside the page of the pair says nothing of the device's role in it. -/
theorem State.follows_setWord {s : State} {a : Nat} (v : W32) (h : pgPair + PAIR_STAT_role.at 0 ≠ a) :
    (s.setWord a v).follows = s.follows := by
  simp only [follows, role, fld, word_setWord, if_neg h]

/-- The pages of the units lie above that of the pair. -/
theorem pgPair_role_lt_pgSyn (b : Nat) : pgPair + PAIR_STAT_role.at 0 < pgSyn b := by
  simp only [pgPair, pgSyn, PAIR_STAT_role, Fld.at]
  omega

theorem State.follows_setSyFld (s : State) (b : Nat) (f : Fld) (v : Nat) : (s.setSyFld b f v).follows = s.follows :=
  follows_setWord _ (Nat.ne_of_lt (Nat.lt_add_right _ (pgPair_role_lt_pgSyn b)))

theorem State.follows_syIrq (s : State) (b n : Nat) : (s.syIrq b n).follows = s.follows :=
  follows_setWord _ (Nat.ne_of_lt (Nat.lt_add_right _ (pgPair_role_lt_pgSyn b)))

section
variable {s : State} {b F D m : Nat}

/-- The input of unit b is usable: it is not lost, and it is written (R214, R215). -/
def State.synOpen (s : State) (b : Nat) : Prop :=
  s.syFld b SYN_STAT_input_lost ≠ 1 ∧ s.syFld b SYN_STAT_oversize ≠ 1 ∧ s.syFld b SYN_STAT_rate_diff ≠ 1

theorem State.synOpen_iff : s.synOpen b ↔ ¬(s.syFld b SYN_STAT_input_lost = 1 ∨ s.syFld b SYN_STAT_oversize = 1 ∨
    s.syFld b SYN_STAT_rate_diff = 1) := by
  simp only [synOpen, not_or, ne_eq]

/-- Unit b has decided frame pick for the output frame that starts at F. -/
def State.synNote (s : State) (b F : Nat) (pick : Option Nat) : State := s.setSy b { s.sy b with decided := some (F, pick) }

theorem State.synNote_follows (pick : Option Nat) : (s.synNote b F pick).follows = s.follows := rfl

theorem State.synRun_of_running (hst : s.synState b = synRunning) : s.synRun b F = s :=
  if_neg (by rw [hst]; decide)

theorem State.synRun_of_starting (hst : s.synState b = synStarting) : s.synRun b F =
    ((s.setSyFld b SYN_STAT_state synRunning).syIrq b IRQ_synQuad_running).setSy b { s.sy b with first := F } := if_pos hst

theorem State.synRun_follows : (s.synRun b F).follows = s.follows := by
  rw [synRun]
  split
  · exact (follows_syIrq _ b _).trans (follows_setSyFld s b _ _)
  · rfl

section
variable (hopen : s.synOpen b) (hpick : s.synPick b D = some m)
include hopen hpick

/-- A unit that finds a frame starts its output, or goes on with it, and journals what it decided (R213, R218). -/
theorem State.synDecide_of_deciding (hlead : s.follows = false)
    (hst : s.synState b = synStarting ∨ s.synState b = synRunning) :
    s.synDecide b F D = (((s.synRun b F).synNote b F (some m)).synTally b m).journal F (.sync b m) := by
  have hkeeps : ((s.synRun b F).synNote b F (some m)).follows = false := by rw [synNote_follows, synRun_follows, hlead]
  rw [synNote] at hkeeps
  simp only [synDecide, if_neg (synOpen_iff.1 hopen), hpick, synNote]
  rcases hst with hst | hst
  · simp [hst, hlead, hkeeps]
  · rw [synRun_of_running hst] at hkeeps ⊢
    simp [hst, hkeeps, synRunning, synStarting]

/-- On a device that follows the Lead the decision is only held to be compared (R218). -/
theorem State.synDecide_of_following (hfol : s.follows = true) : s.synDecide b F D = s.synNote b F (some m) := by
  have hkeeps : (s.synNote b F (some m)).follows = true := hfol
  rw [synNote] at hkeeps ⊢
  simp only [synDecide, if_neg (synOpen_iff.1 hopen), hpick]
  simp [hfol, hkeeps]

end

/-- With an input that is not usable a running unit decides for no frame (R214). -/
theorem State.synDecide_of_shut (hshut : ¬s.synOpen b) (hst : s.synState b = synRunning) :
    s.synDecide b F D = s.synNote b F none := by
  simp [synDecide, if_pos (not_not.1 (synOpen_iff.not.1 hshut)), hst, synNote]

end

/-! ### Output frames (R212, R214, R221) -/

section
variable {s : State} {unit : Fin 256} {missing bad : List Nat}

theorem exec_syncOutputFrameStart_of_undecided (hlow : s.low = false) (hnone : (s.sy unit).decided = none)
    (hlead : s.follows = false) : exec (.syncOutputFrameStart unit missing bad) s = .next s := by
  show execSyncOutputFrameStart unit missing bad s = _
  simp only [execSyncOutputFrameStart, run_of_running _ hlow, hnone, hlead, Bool.and_false, Bool.false_and,
    Bool.false_eq_true, if_false]
  split <;> rfl

theorem exec_syncOutputFrameStart_of_decided (hlow : s.low = false) {F : Nat} {pick : Option Nat}
    (hsome : (s.sy unit).decided = some (F, pick)) : exec (.syncOutputFrameStart unit missing bad) s =
      .next (if F < s.now + 16 then s.synFrame unit F pick missing bad else s) := by
  show execSyncOutputFrameStart unit missing bad s = _
  simp only [execSyncOutputFrameStart, run_of_running _ hlow, hsome]

end

section
variable {s u : State} {b F m : Nat} {missing bad : List Nat} (hu : s.synApply b = u)

/-- The output frame of unit b starts at F: its decision is used up, and SYN_FRUPT holds F. -/
def State.synOpens (s : State) (b F : Nat) : State :=
  (s.setSy b { s.sy b with decided := none }).setFld64 (pgSyn b) SYN_FRUPT_lo SYN_FRUPT_hi F (b % 4)

/-- The frame that stands in for none decided: the last good one, or black (R214). -/
def State.synHold (s : State) (b : Nat) : State :=
  s.setSy b { s.sy b with
    shown := if s.syLv b SYN_CFG_lossmode = 0 then (s.sy b).good.map SynFrame.num else none, subs := [] }

include hu

theorem State.synFrame_of_off {pick : Option Nat} (hoff : (u.sy b).on = false) : s.synFrame b F pick missing bad = u := by
  simp only [synFrame, hu, hoff, Bool.not_false, if_true]

variable (hon : (u.sy b).on = true) (hlead : u.follows = false) (hst : u.synState b = synRunning)
include hon hlead hst

theorem State.synFrame_of_chosen : s.synFrame b F (some m) missing bad =
    ((u.synOpens b F).synShow b F m missing bad).synDelay b := by
  simp [synFrame, hu, hon, synFollow, hlead, synRun_of_running hst, synOpens]

theorem State.synFrame_of_none : s.synFrame b F none missing bad = ((u.synOpens b F).synHold b).synDelay b := by
  simp [synFrame, hu, hon, synFollow, hlead, hst, synRunning, synStarting, synRun_of_running hst, synOpens, synHold]

end

/-- Settles O32: an input frame is written unless its picture does not fit; a decision that is due turns on the input and on who
leads; an output frame shows what was decided for it, or what stands in for it. -/
theorem synchroniserEventsComplete : Obligations.SynchroniserEventsComplete := by
  refine ⟨?_, ?_, ?_⟩
  · intro s unit cue hlow
    refine ⟨exec_syncInputFrame_of_off hlow, exec_syncInputFrame_of_no_format hlow, ?_⟩
    intro f hon hfmt u big diff x
    refine ⟨fun hunfit => ?_, fun hfit hwriting => ?_⟩
    · rw [exec_syncInputFrame_of_format hlow hon hfmt, State.synWrite_of_unfit rfl hunfit]
      rfl
    · have hresumed : (x.sy unit).resumed = x.sy unit := Syn.resumed_of_writing hwriting
      rw [exec_syncInputFrame_of_format hlow hon hfmt, State.synWrite_of_fit (x := x) rfl hfit, hresumed]
      rfl
  · intro s unit hlow
    refine ⟨exec_syncDecision_of_idle hlow, ?_⟩
    intro n hon hlines two F D pick usable
    have hexec := exec_syncDecision_of_lines hlow hon hlines (two := two) (F := F) rfl rfl
    have hdue {v : State} (h : D < s.now + 16) (hv : s.synDecide unit F D = v) : exec (.syncDecision unit) s = .next v := by
      rw [hexec, if_pos h, hv]
    refine ⟨fun hwait => ?_, fun m hd hopen hpick hlead hst => ?_, fun m hd hopen hpick hlead hst => ?_,
      fun m hd hopen hpick hfol => ?_, fun hd hshut hst => ?_⟩
    · rw [hexec, if_neg (Nat.not_lt.2 hwait)]
    · have hrun : s.synRun unit F = s := State.synRun_of_running hst
      rw [hdue hd (State.synDecide_of_deciding hopen hpick hlead (.inr hst)), hrun]
      rfl
    · rw [hdue hd (State.synDecide_of_deciding hopen hpick hlead (.inl hst)), State.synRun_of_starting hst]
      rfl
    · exact hdue hd (State.synDecide_of_following hopen hpick hfol)
    · exact hdue hd (State.synDecide_of_shut hshut hst)
  · intro s unit missing bad hlow
    refine ⟨exec_syncOutputFrameStart_of_undecided hlow, ?_⟩
    intro F pick hsome u x
    have hexec := exec_syncOutputFrameStart_of_decided (missing := missing) (bad := bad) hlow hsome
    have hdue {v : State} (h : F < s.now + 16) (hv : s.synFrame unit F pick missing bad = v) :
        exec (.syncOutputFrameStart unit missing bad) s = .next v := by
      rw [hexec, if_pos h, hv]
    refine ⟨fun hwait => ?_, fun hd hoff => ?_, fun k hd hon hlead hst hpick => ?_, fun hd hon hlead hst hpick => ?_⟩
    · rw [hexec, if_neg (Nat.not_lt.2 hwait)]
    · exact hdue hd (State.synFrame_of_off rfl hoff)
    · subst hpick
      exact hdue hd (State.synFrame_of_chosen rfl hon hlead hst)
    · subst hpick
      exact hdue hd (State.synFrame_of_none rfl hon hlead hst)

end Sys2Proof.Machine
end

section
/-!
The output of a Proscenium (R236 to R249): the start of its frames, the lines it composes, and the window of its scaler
coefficients.
-/
namespace Sys2Proof.Machine

/-! ### The start of a frame (R239, R246) -/

theorem exec_proFrameStart {s : State} {p : Fin 32} (hlow : s.low = false) : exec (.proFrameStart p) s = .next
    (if s.fld (pgBlend p) PRB_STAT_state ≠ 0 ∧ s.grpNext (s.proGroup p) s.now < s.now + 16 then
      s.proStart p (s.grpNext (s.proGroup p) s.now)
    else s).watch := by
  show execProFrameStart p s = _
  rw [execProFrameStart, runRails_of_running _ hlow]

/-! ### The composition of a line (R249) -/

section
variable {s : State} {p : Nat} {ins : List LayIn}

theorem exec_proLineCompose {q : Fin 32} (hlow : s.low = false) : exec (.proLineCompose q ins) s = .next (s.proLine q ins) := by
  show execProLineCompose q ins s = _
  rw [execProLineCompose, run_of_running _ hlow]

/-- The line of the raster that the Proscenium composes next. -/
def State.nextLine (s : State) (p : Nat) : Nat := (s.proOrigin p).2 + (s.pr p).lineNo

/-- The drawing instant of that line. -/
def State.drawInstant (s : State) (p : Nat) : Nat := s.rowInstant p (s.nextLine p)

/-- No line is due: the Proscenium does not run, its frame is whole, or the drawing instant of its next line is to come. -/
def State.LineWaits (s : State) (p : Nat) : Prop :=
  s.fld (pgBlend p) PRB_STAT_state ≠ 2 ∨ (s.proSize p).2 ≤ (s.pr p).lineNo ∨ s.now + 16 ≤ s.drawInstant p

theorem State.not_lineWaits_iff : ¬s.LineWaits p ↔ s.fld (pgBlend p) PRB_STAT_state = 2 ∧
    (s.pr p).lineNo < (s.proSize p).2 ∧ s.drawInstant p < s.now + 16 := by
  simp only [LineWaits, not_or, not_not, not_le]

theorem State.proLine_of_waits (h : s.LineWaits p) : s.proLine p ins = s := if_pos h

/-- The state with the rows that have arrived taken by each of the eight layers, for the line drawn at t. -/
def State.rowsTaken (s : State) (p t : Nat) (ins : List LayIn) : State :=
  (List.range 8).foldl (fun x l => x.layTake p l t (ins.getD l ⟨[], [], []⟩).rows) s

/-- The n pixels of raster line y from column x0 on, as composed at t. -/
def State.pixelsFrom (s : State) (p t : Nat) (ins : List LayIn) (y x0 n : Nat) : List Px :=
  (List.range n).map (fun x => s.composePx p t (fun l => s.layGone (ins.getD l ⟨[], [], []⟩)) (x0 + x) y)

/-- The state with what each of the eight layers could not read for raster line y reported. -/
def State.linesReported (s : State) (p t y : Nat) (ins : List LayIn) : State :=
  (List.range 8).foldl (fun x l => x.layReport p l t y (ins.getD l ⟨[], [], []⟩)) s

/-- Line n of the frame goes to the rail in the place given, and the next line follows. -/
def State.lineSent (s : State) (p n : Nat) (line : List Px) (place : Nat × Nat) (words : List (List Nat)) : State :=
  s.setPr p { s.pr p with line := line, lineNo := n + 1, rail := (s.pr p).rail ++ [(place.1, place.2, words)] }

theorem State.proLine_of_due (h : ¬s.LineWaits p) {y t : Nat} {u : State} {line before : List Px}
    (hy : s.nextLine p = y) (ht : s.drawInstant p = t) (hu : s.rowsTaken p t ins = u)
    (hline : u.pixelsFrom p t ins y (s.proOrigin p).1 (s.proSize p).1 = line)
    (hbefore : u.pixelsFrom p t ins y ((s.proOrigin p).1 - min (s.proOrigin p).1 4) (min (s.proOrigin p).1 4) = before) :
    s.proLine p ins = ((u.linesReported p t y ins).lineSent p (s.pr p).lineNo line (u.railPlace p y)
      (railWords (u.lv (pgRas (u.proBase p)) PRO_RASTER_smp) before.getLast? line)).capLine p before line := by
  subst hy ht hu hline hbefore
  exact if_neg h

end

/-! ### The coefficient window (R236, R243) -/

/-- Data word n of the window reads the coefficients of its place: the built-in set's own, or those staged. -/
def State.coefShown (s : State) (p n : Nat) : State :=
  let built := fun k => ofSigned 10 (setZero (s.bit (pgRas p) PRO_CF_ADDR_vert) (s.fld (pgRas p) PRO_CF_ADDR_phase) k)
  s.setWord (pgRas p + PRO_CF_DATA_even.at n)
    (if s.fld (pgRas p) PRO_CF_ADDR_set = 0 then setBits (setBits 0 0 10 (built (2 * n))) 16 10 (built (2 * n + 1))
     else Store.get (fun _ => 0) s.coefStage (s.coefKey p n))

/-- Data word n of the window is staged for the window's place. -/
def State.coefStaged (s : State) (p n : Nat) : State :=
  { s with coefStage := Store.put (fun _ => 0) (s.coefKey p n) (s.word (pgRas p + PRO_CF_DATA_even.at n)) s.coefStage }

/-- The window's set is marked as loaded. -/
def State.coefMarked (s : State) (p : Nat) : State :=
  { s with coefStage := Store.put (fun _ => 0) (coefMark p (s.fld (pgRas p) PRO_CF_ADDR_set)) 1 s.coefStage }

section
variable {s : State} {a : Acc} {p : Nat}

theorem State.coefLoad_eq : s.coefLoad p = (((s.coefShown p 0).coefShown p 1).coefShown p 2).coefShown p 3 := rfl

theorem State.coefStore_eq : s.coefStore p =
    if s.fld (pgRas p) PRO_CF_ADDR_set = 0 then s
    else ((((s.coefMarked p).coefStaged p 0).coefStaged p 1).coefStaged p 2).coefStaged p 3 := rfl

theorem State.coefHook_load : s.coefHook p 1 = s.coefLoad p := rfl

theorem State.coefHook_store : s.coefHook p 2 = s.coefStore p := rfl

theorem State.coefWrite_of_admitted {w : W32} (h : Admitted s a (pgRas p) .proRas p 0x114 w) :
    s.coefWrite a p w = (s.stored a (pgRas p) .proRas p 0x114 w).coefHook p w := by
  obtain ⟨hok, heff⟩ := h
  simp only [coefWrite, hok, heff, if_true]

variable {q : Fin 32}

theorem exec_coefLoad (h : Reaches s a) (hadm : Admitted s a (pgRas q) .proRas q 0x114 1) :
    exec (.coefLoad a q) s = .next (((s.stored a (pgRas q) .proRas q 0x114 1).coefLoad q).taken a) := by
  show execCoefLoad a q s = _
  rw [execCoefLoad, run_of_running _ h.1, State.viaPath_of_reaches _ _ h, State.coefWrite_of_admitted hadm, State.coefHook_load]

theorem exec_coefStore (h : Reaches s a) (hadm : Admitted s a (pgRas q) .proRas q 0x114 2) :
    exec (.coefStore a q) s = .next (((s.stored a (pgRas q) .proRas q 0x114 2).coefStore q).taken a) := by
  show execCoefStore a q s = _
  rw [execCoefStore, run_of_running _ h.1, State.viaPath_of_reaches _ _ h, State.coefWrite_of_admitted hadm, State.coefHook_store]

end

/-- Settles O33: a frame starts, and a line is drawn, where its instant lies in the TICK; the window is loaded or stored a data
word at a time. -/
theorem prosceniumOutputCompletes : Obligations.ProsceniumOutputCompletes := by
  refine ⟨?_, ?_, ?_, ?_⟩
  · intro s p hlow F
    rw [exec_proFrameStart hlow]
    refine ⟨fun hnone => ?_, fun hon hdue => ?_⟩
    · rw [if_neg (fun ⟨hon, hdue⟩ => hnone.elim hon (Nat.not_le.2 hdue))]
    · rw [if_pos ⟨hon, hdue⟩]
  · intro s p ins hlow v z o y t
    refine ⟨fun hwaits => ?_, fun hrun hleft hdue => ?_⟩
    · rw [exec_proLineCompose hlow, State.proLine_of_waits hwaits]
    · intro inp u px line before words place x
      have hnow : ¬s.LineWaits p := State.not_lineWaits_iff.2 ⟨hrun, hleft, hdue⟩
      rw [exec_proLineCompose hlow, State.proLine_of_due hnow (line := line) (before := before) rfl rfl rfl rfl rfl]
      rfl
  · intro s a p h hadm u put
    rw [exec_coefLoad h hadm, State.coefLoad_eq]
    rfl
  · intro s a p h hadm u put
    rw [exec_coefStore h hadm, State.coefStore_eq]
    rfl

end Sys2Proof.Machine
end

section
/-!
Flips and captures of a Proscenium (R256 to R260): the arm of a group, the decision before a rail instant, and the end of the oldest
capture.
-/
namespace Sys2Proof.Machine

/-! ### Arms (R256) -/

section
variable {s : State} {a : Acc} {p g : Nat}

/-- The next flip of a group is decided, by the device itself or by the Lead, and waits for its frame start. -/
def State.flipDecided (s : State) (p g : Nat) : Bool :=
  (s.pr p).flips.any (fun e => e.2.1 == g) || (s.pr p).lead.any (fun e => e.2 == g)

/-- Group g is armed for the frame after the one that its flip is decided for. -/
def State.rearmed (s : State) (p g : Nat) : State := s.setPr p { s.pr p with rearm := (g :: (s.pr p).rearm).eraseDups }

theorem State.flipArm_of_auto (hauto : s.lv (pgBlend p) PRO_FLIP_auto g = 1) : s.flipArm p g = s := if_pos hauto

theorem State.flipArm_of_idle (hauto : s.lv (pgBlend p) PRO_FLIP_auto g ≠ 1) (hidle : s.fld (pgBlend p) PRO_FLIP_pend g = 0) :
    s.flipArm p g = s.flipPend p g := (if_neg hauto).trans (if_pos hidle)

theorem State.flipArm_of_pending (hauto : s.lv (pgBlend p) PRO_FLIP_auto g ≠ 1)
    (hpend : s.fld (pgBlend p) PRO_FLIP_pend g ≠ 0) : s.flipArm p g = if s.flipDecided p g then s.rearmed p g else s :=
  (if_neg hauto).trans (if_neg hpend)

theorem exec_flipArm {q : Fin 32} {i : Fin 4} {w : W32} (h : Reaches s a)
    (hw : s.compose (pgBlend q) .proBlend (PRO_FLIP_arm.at i) (setBits (s.word (pgBlend q + PRO_FLIP_arm.at i)) 0 1 1) = w)
    (hok : (s.storeWord a (pgBlend q) .proBlend q (PRO_FLIP_arm.at i) w).ok = true)
    (harm : (s.storeWord a (pgBlend q) .proBlend q (PRO_FLIP_arm.at i) w).eff.getLsbD 0 = true) :
    exec (.flipArm a q i) s =
      .next (((s.stored a (pgBlend q) .proBlend q (PRO_FLIP_arm.at i) w).flipArm q i).taken a) := by
  show execFlipArm a q i s = _
  simp only [execFlipArm, run_of_running _ h.1, State.viaPath_of_reaches _ _ h, Nat.add_sub_cancel_left, hw, hok, harm,
    Bool.and_self, if_true]

end

/-! ### Decisions (R256, R257, R355) -/

theorem exec_flipDecision {s : State} {p : Fin 32} {F : Nat} (hlow : s.low = false)
    (hF : s.grpNext (s.proGroup p) (s.now + 52920) = F) : exec (.flipDecision p) s = .next
      (if s.fld (pgBlend p) PRB_STAT_state ≠ 0 ∧ s.proBase p = p ∧ F < s.now + 52920 + 16 ∧ s.follows = false then
        (((s.flipGroup p F 0).flipGroup p F 1).flipGroup p F 2).flipGroup p F 3
      else s) := by
  show execFlipDecision p s = _
  simp only [execFlipDecision, run_of_running _ hlow, hF, Bool.not_eq_true']
  rfl

/-! ### The end of a capture (R259, R260) -/

section
variable {s : State} {p : Fin 32}

/-- The capture of frame F, number n, is over and counted as whole. -/
def State.capCounted (s : State) (p n F : Nat) : State :=
  (((s.capEnd p F).setFld (pgBlend p) CAP_SEQ_n (n + 1)).bump (pgBlend p) CAP_FRAMES_n).irq (pgBlend p) IRQ_proBlend_cap_done

/-- The fence that a capture moves shows that capture number n is whole, where moving it is asked for. -/
def State.capFenced (s : State) (p n : Nat) : State :=
  if s.lbit (pgBlend p) CAP_CFG_fence_en then
    s.setFld (pgBlend (s.lv (pgBlend p) CAP_CFG_fpro)) PRO_FENCE (n + 1) (s.lv (pgBlend p) CAP_CFG_fgrp)
  else s

/-- The capture of frame F is abandoned. -/
def State.capDropped (s : State) (p F : Nat) : State :=
  (((s.capEnd p F).bump (pgBlend p) CAP_DROP_n).err (pgBlend p) 0x095).irq (pgBlend p) IRQ_proBlend_cap_drop

/-- The rail frame after frame F has started by the end of this TICK. -/
abbrev State.CapPast (s : State) (p F : Nat) : Prop := F + perOf (s.grpRate (s.proGroup p)) + s.proDelay p < s.now + 16

theorem exec_captureDone_of_nil (hlow : s.low = false) (hcaps : (s.pr p).caps = []) : exec (.captureDone p) s = .next s := by
  show execCaptureDone p s = _
  rw [execCaptureDone, run_of_running _ hlow, hcaps]

theorem exec_captureAbandon_of_nil (hlow : s.low = false) (hcaps : (s.pr p).caps = []) :
    exec (.captureAbandon p) s = .next s := by
  show execCaptureAbandon p s = _
  rw [execCaptureAbandon, run_of_running _ hlow, hcaps]

variable {n F d : Nat} {rest : List (Nat × Nat × Nat)} (hlow : s.low = false) (hcaps : (s.pr p).caps = (n, F, d) :: rest)
include hlow hcaps

theorem exec_captureDone_of_cons : exec (.captureDone p) s = .next
    (if s.proBase p = p ∧ s.capWhole p F = true then (s.capCounted p n F).capFenced p n else s) := by
  show execCaptureDone p s = _
  rw [execCaptureDone, run_of_running _ hlow, hcaps]
  rfl

theorem exec_captureAbandon_of_cons : exec (.captureAbandon p) s = .next
    (if s.proBase p = p ∧ s.capWhole p F = false ∧ s.CapPast p F then s.capDropped p F else s) := by
  show execCaptureAbandon p s = _
  simp only [execCaptureAbandon, run_of_running _ hlow, hcaps, Bool.not_eq_true']
  rfl

end

/-- Settles O34: an arm acts by its group's mode and by whether a flip of it is decided (log entry 54); a decision falls due with a
rail instant ahead; the oldest capture ends whole or is abandoned. -/
theorem flipsAndCapturesComplete : Obligations.FlipsAndCapturesComplete := by
  refine ⟨?_, ?_, ?_⟩
  · intro s a p g h o w hok harm u v decided
    refine ⟨fun hauto => ?_, fun hauto hpend => ?_, fun hauto hidle => ?_⟩
    · rw [exec_flipArm h rfl hok harm, State.flipArm_of_auto hauto]
    · rw [exec_flipArm h rfl hok harm, State.flipArm_of_pending hauto hpend]
      rfl
    · rw [exec_flipArm h rfl hok harm, State.flipArm_of_idle hauto hidle]
      rfl
  · intro s p hlow F decides
    rw [exec_flipDecision hlow rfl]
    exact ⟨fun hnot => by rw [if_neg hnot], fun hdue => by rw [if_pos hdue]⟩
  · intro s p hlow
    refine ⟨fun hnil => ⟨exec_captureDone_of_nil hlow hnil, exec_captureAbandon_of_nil hlow hnil⟩, ?_⟩
    intro n F d rest hcaps u past
    rw [exec_captureDone_of_cons hlow hcaps, exec_captureAbandon_of_cons hlow hcaps]
    refine ⟨fun hbase hwhole => ?_, fun hnot => ?_, fun hbase hpart hpast => ?_, fun hnot => ?_⟩
    · rw [if_pos ⟨hbase, hwhole⟩]
      rfl
    · rw [if_neg (fun ⟨hbase, hwhole⟩ => hnot.elim (· hbase) (by simp [hwhole]))]
    · rw [if_pos ⟨hbase, hpart, hpast⟩]
      rfl
    · rw [if_neg]
      rintro ⟨hbase, hpart, hpast⟩
      obtain hmember | hwhole | hearly := hnot
      · exact hmember hbase
      · simp [hpart] at hwhole
      · exact hearly hpast

end Sys2Proof.Machine
end

section
/-!
Takes of the Pit audio crosspoint (R271 to R279): submission, the landing of the takes due at an instant, and the ends of crossfades and
transparent waits.
-/
namespace Sys2Proof.Machine

/-! ### Submission (R275, R276) -/

section
variable {s u : State} {a : Acc} {w : W32} {m : Nat}

theorem exec_pitTakeSubmit (w : W32) (h : Reaches s a) :
    exec (.pitTakeSubmit a w) s = .next ((s.pitTakeWrite a 0x104 w).taken a) := by
  show execPitTakeSubmit a w s = _
  rw [execPitTakeSubmit, run_of_running _ h.1, State.viaPath_of_reaches _ _ h]

theorem State.pitTakeWrite_submit (hok : (s.storeFor a pgPitT .pitTake 0 0x104 w).ok = true)
    (heff : (s.storeFor a pgPitT .pitTake 0 0x104 w).eff = w) : s.pitTakeWrite a 0x104 w =
      if w.getLsbD 31 then (s.storeFor a pgPitT .pitTake 0 0x104 w).s.pitSubmit a.m
      else (s.storeFor a pgPitT .pitTake 0 0x104 w).s := by
  simp [pitTakeWrite, hok, heff]

/-- The output that the take registers of master m name. -/
def State.takeOut (s : State) (m : Nat) : Nat := s.mfld m pgPitT PIT_TK_out

/-- The input that the take registers of master m select: none where they ask for silence. -/
def State.takeSrc (s : State) (m : Nat) : Option Nat :=
  if s.mfld m pgPitT PIT_TK_CTL_none = 1 then none else some (s.mfld m pgPitT PIT_TK_in)

/-- The instant that the take registers of master m name. -/
def State.takeTgt (s : State) (m : Nat) : Nat := s.mfld m pgPitT PIT_TK_TGT_hi * 2 ^ 32 + s.mfld m pgPitT PIT_TK_TGT_lo

/-- The take registers of master m hold a reserved kind or output, or an odd half of a 96 kHz pair. -/
def State.TakeBad (s : State) (m : Nat) : Prop :=
  2 ≤ s.mfld m pgPitT PIT_TK_CTL_kind ∨ pitOutReserved (s.takeOut m) = true ∨
    pitK96 s.pitTab (s.takeOut m) = true ∧ s.takeOut m % 2 = 1 ∨
    pitK96 s.pitTab (s.takeOut m) = true ∧ (s.takeSrc m).any (fun i => i % 2 == 1) = true

/-- No room is left for another direct take. -/
abbrev State.TakesFull (s : State) : Prop := 4096 ≤ (s.pitTakes.filter (·.direct)).length

/-- The response to the last submission of master m. -/
def State.takeRespond (s : State) (m v : Nat) : State := s.setMfld m pgPitT PIT_TK_RESP_st v

theorem State.takeSrc_odd (s : State) (m : Nat) : (s.takeSrc m).any (fun i => i % 2 == 1) = true ↔
    s.mfld m pgPitT PIT_TK_CTL_none ≠ 1 ∧ s.mfld m pgPitT PIT_TK_in % 2 = 1 := by
  rw [takeSrc]
  split <;> simp [*]

theorem State.when_not (s : State) (c : Bool) (f : State → State) : s.when (!c) f = if c then s else f s := by
  cases c <;> rfl

theorem State.pitSubmit_of_bad (h : u.TakeBad m) : u.pitSubmit m =
    ((if pitOutReserved (u.takeOut m) then u else u.setPot (u.takeOut m) { u.pot (u.takeOut m) with res := 4 }).bump pgPitT
      PIT_TK_INVALID_n).takeRespond m 3 := by
  refine (if_pos h).trans ?_
  rw [when_not]
  rfl

theorem State.pitSubmit_of_full (h : ¬u.TakeBad m) (hfull : u.TakesFull) :
    u.pitSubmit m = ((u.bump pgPitT PIT_TK_FULL_n).irq pgPitT IRQ_pitTake_full).takeRespond m 2 :=
  (if_neg h).trans (if_pos hfull)

theorem State.pitSubmit_of_room {x : State} (h : ¬u.TakeBad m) (hroom : ¬u.TakesFull) (hx : u.takeRespond m 1 = x) :
    u.pitSubmit m = if x.follows then x
      else x.pitDirect (u.takeOut m) (u.takeSrc m) (u.mfld m pgPitT PIT_TK_CTL_kind) (u.takeTgt m) := by
  subst hx
  exact (if_neg h).trans (if_neg hroom)

end

/-! ### Landing (R276, R277, R279) -/

/-- The takes of output o that are due at instant p. -/
def State.takesDue (s : State) (o p : Nat) : List PitTake := s.pitTakes.filter (fun t => t.out == o && t.ready ≤ p)

/-- The takes of output o that are due at instant p no longer wait. -/
def State.takesRemoved (s : State) (o p : Nat) : State :=
  let u := { s with pitTakes := s.pitTakes.filter (fun t => !(t.out == o && t.ready ≤ p)) }
  u.setFld pgPitT PIT_TK_LEVEL_n (u.pitTakes.filter (·.direct)).length

/-- A take that lands counts if it is late. -/
def State.latenessCounted (s : State) (t : PitTake) : State :=
  if t.late then (s.bump pgPitT PIT_TK_LATE_n).irq pgPitT IRQ_pitTake_late else s

/-- Of n takes that land together all but one are superseded. -/
def State.supersededCounted (s : State) (n : Nat) : State := if 1 < n then s.bump pgPit PIT_SUPERSEDED_n (n - 1) else s

/-- The take armed last of t and l. -/
def lastArmed (t : PitTake) (l : List PitTake) : PitTake := l.foldl (fun b z => if b.seq ≤ z.seq then z else b) t

theorem exec_pitTakeLand {s : State} {out : Fin 65536} (hlow : s.low = false) :
    exec (.pitTakeLand out) s = .next (s.pitLand out) :=
  run_of_running (fun s => s.pitLand out) hlow

section
variable {s : State} {o p : Nat}

theorem State.pitLand_of_none (h : s.pitNow = none) : s.pitLand o = s := by
  rw [pitLand, h]

variable (hnow : s.pitNow = some p)
include hnow

theorem State.pitLand_of_nil (hdue : s.takesDue o p = []) : s.pitLand o = s.takesRemoved o p := by
  rw [takesDue] at hdue
  simp only [pitLand, hnow, hdue]
  rfl

theorem State.pitLand_of_cons {t : PitTake} {rest : List PitTake} (hdue : s.takesDue o p = t :: rest) : s.pitLand o =
    (((s.takesDue o p).foldl latenessCounted (s.takesRemoved o p)).supersededCounted (s.takesDue o p).length).pitLandOne o
      (lastArmed t rest) := by
  rw [hdue]
  rw [takesDue] at hdue
  simp only [pitLand, hnow, hdue]
  rfl

end

/-! ### The ends of crossfades and transparent waits (R271, R274) -/

/-- An output whose wait ends takes the input it waited for, by force or at a word that allows it. -/
def PitOut.cutOver (v : PitOut) (forced : Bool) : PitOut :=
  { v with st := 0, src := v.want, want := none, mix := [], j := 0, n := 0, cut := none, res := if forced then 5 else v.res }

section
variable {s : State} {out : Fin 65536}

theorem exec_crossfadeEnd (hlow : s.low = false) : exec (.crossfadeEnd out) s = .next
    (if (s.pot out).st = 1 ∧ (s.pot out).n ≤ (s.pot out).j
      then s.setPot out { s.pot out with st := 0, mix := [], j := 0, n := 0 } else s) :=
  run_of_running (fun s => s.pitFadeEnd out) hlow

theorem exec_transparentCut (hlow : s.low = false) : exec (.transparentCut out) s = .next (s.pitCut out) :=
  run_of_running (fun s => s.pitCut out) hlow

end

section
variable {s : State} {o : Nat}

theorem State.pitCut_of_no_cut (h : (s.pot o).cut = none) : s.pitCut o = s := by
  simp only [pitCut, h]

theorem State.pitCut_of_not_waiting (h : (s.pot o).st ≠ 2) : s.pitCut o = s := by
  cases hcut : (s.pot o).cut with
  | none => exact pitCut_of_no_cut hcut
  | some forced => simp only [pitCut, hcut, if_neg h]

theorem State.pitCut_of_cut {forced : Bool} (hst : (s.pot o).st = 2) (hcut : (s.pot o).cut = some forced) :
    s.pitCut o = (s.setPot o ((s.pot o).cutOver forced)).when forced (fun x => x.bump pgPit PIT_TR_FORCED_n) := by
  simp only [pitCut, hcut, hst, if_true]
  rfl

end

/-- Settles O35: a submission is judged by its kind, output and input (an invalid one marks the output it names, log entry 36), then by
the takes that wait; the takes due at an instant land as one; a crossfade ends by its length, a transparent wait by its cut. -/
theorem pitTakesComplete : Obligations.PitTakesComplete := by
  refine ⟨?_, ?_, ?_, ?_⟩
  · intro s a w h hok heff u out inp kind none_ k96 bad full tgt
    have hbad : bad ↔ u.TakeBad a.m := by
      rw [State.TakeBad, State.takeSrc_odd, ← and_or_left]
      simp [bad, none_, k96, State.takeOut, out, kind, inp]
    refine ⟨fun hgo => ?_, fun hgo => ?_⟩
    · rw [exec_pitTakeSubmit w h, State.pitTakeWrite_submit hok heff, if_neg (Bool.eq_false_iff.1 hgo)]
    have hexec {v : State} (hv : u.pitSubmit a.m = v) : exec (.pitTakeSubmit a w) s = .next (v.taken a) := by
      rw [exec_pitTakeSubmit w h, State.pitTakeWrite_submit hok heff, if_pos hgo, hv]
    refine ⟨fun hb => ?_, fun hb hfull => ?_, fun hb hroom => ?_⟩
    · exact hexec (State.pitSubmit_of_bad (hbad.1 hb))
    · exact hexec (State.pitSubmit_of_full (hb ∘ hbad.2) hfull)
    · have hsrc : u.takeSrc a.m = if none_ then none else some inp := by simp [State.takeSrc, none_, inp]
      refine hexec ((State.pitSubmit_of_room (hb ∘ hbad.2) hroom rfl).trans ?_)
      rw [hsrc]
      rfl
  · intro s out hlow
    refine ⟨fun hnone => ?_, fun p hnow => ?_⟩
    · rw [exec_pitTakeLand hlow, State.pitLand_of_none hnone]
    · rw [exec_pitTakeLand hlow]
      exact ⟨fun hnil => by rw [State.pitLand_of_nil hnow hnil]; rfl,
        fun t rest hcons => by rw [State.pitLand_of_cons hnow hcons]; rfl⟩
  · intro s out hlow v
    rw [exec_crossfadeEnd hlow]
    exact ⟨fun hover => by rw [if_pos hover], fun hruns => by rw [if_neg hruns]⟩
  · intro s out hlow v
    rw [exec_transparentCut hlow]
    refine ⟨fun hstill => ?_, fun hst hcut => ?_, fun hst hcut => ?_⟩
    · obtain hnone | hidle := hstill
      · rw [State.pitCut_of_no_cut hnone]
      · rw [State.pitCut_of_not_waiting hidle]
    · rw [State.pitCut_of_cut hst hcut]
      rfl
    · rw [State.pitCut_of_cut hst hcut]
      rfl

end Sys2Proof.Machine
end

section
/-!
Instants and tables of the Pit audio crosspoint (R265, R271, R281, R283): the sample instant, the move to a new grid, the window, and
the check of the tables.
-/
namespace Sys2Proof.Machine

/-! ### Sample instants (R271, R281) -/

section
variable {s : State} (smem : List Nat) (dly : List (Nat × Nat))

theorem exec_pitSampleInstant_of_none (hlow : s.low = false) (h : s.pitNow = none) :
    exec (.pitSampleInstant smem dly) s = .next s := by
  show execPitSampleInstant smem dly s = _
  rw [execPitSampleInstant, run_of_running _ hlow, h]

theorem exec_pitSampleInstant_of_some {P : Nat} (hlow : s.low = false) (h : s.pitNow = some P) :
    exec (.pitSampleInstant smem dly) s = .next (s.pitInstant P smem dly) := by
  show execPitSampleInstant smem dly s = _
  rw [execPitSampleInstant, run_of_running _ hlow, h]

end

/-! ### The move to a new grid (R265) -/

/-- The Pit runs on its new grid, which follows its last old instant, and counts the move. -/
def State.pitRegridded (s : State) (last : Nat) : State :=
  ((({ s with pitGrid := { grid := s.pitWanted, start := last + pitGap, last := last } }.setBit pgPit PIT_STAT_tod s.held).bump pgPit
    PIT_REGRID_n).irq pgPit IRQ_pitCtl_regrid)

section
variable {s : State}

theorem exec_pitRegrid_of_none (hlow : s.low = false) (h : s.pitGrid.move = none) : exec .pitRegrid s = .next s := by
  show execPitRegrid s = _
  rw [execPitRegrid, run_of_running _ hlow, h]

theorem exec_pitRegrid_of_some {lo : Nat} (hlow : s.low = false) (h : s.pitGrid.move = some lo) :
    exec .pitRegrid s = .next (if lo < s.now + 16 then s.pitRegridded lo else s) := by
  show execPitRegrid s = _
  rw [execPitRegrid, run_of_running _ hlow, h]
  rfl

end

/-! ### The window of the tables (R283) -/

/-- PIT_SEL with its store bit or its load bit written, the other bits as they stand. -/
def State.pitSelWord (s : State) (isStore : Bool) : W32 :=
  s.word (pgPitW + 0x100) ||| (if isStore then 0x2000000 else 0x1000000)

/-- The command that stores through the window, or loads through it. -/
abbrev pitWindowCmd (a : Acc) (isStore : Bool) : Instr := if isStore then .pitWindowStore a else .pitWindowLoad a

/-- The window's data words are staged for entry e of a table: their defined bits. -/
def State.pitStaged (s : State) (tbl e : Nat) : State :=
  let x := pitIdx tbl e
  let st := Store.put (fun _ => 0) x (s.word (pgPitW + 0x140) &&& pitMask tbl 0) s.pitStage
  { s with pitStage := if tbl = 0 then Store.put (fun _ => 0) (x + 1) (s.word (pgPitW + 0x144) &&& pitMask tbl 1) st else st }

/-- The window's data words show entry e of a table, live or staged. -/
def State.pitDataShown (s : State) (tbl e : Nat) : State :=
  let x := pitIdx tbl e
  let t := if s.bit pgPitW PIT_SEL_live then s.pitTab else s.pitStage
  (s.setWord (pgPitW + 0x140) (Store.get (fun _ => 0) t x)).setWord (pgPitW + 0x144)
    (if tbl = 0 then Store.get (fun _ => 0) t (x + 1) else 0)

/-- The window shows what output e does now: its source and state, those of the pair's even output for a 96 kHz pair, and its delay
line. -/
def State.pitOutShown (s : State) (e : Nat) : State :=
  let o := pitEntry s.pitTab e
  let v := s.pot o
  let z := (s.setFld pgPitW PIT_OSTAT_src ((v.src.map (· + (e - o))).getD 0)).setBit pgPitW PIT_OSTAT_sel v.src.isSome
  let z := (z.setFld pgPitW PIT_OSTAT_state v.st).setFld pgPitW PIT_OSTAT_res v.res
  let l := (z.pot e).line
  (z.setFld pgPitW PIT_OLINE_n (l.getD 0)).setBit pgPitW PIT_OLINE_valid l.isSome

theorem getD_map_add (src : Option Nat) (d : Nat) :
    (src.map (· + d)).getD 0 = match src with | some i => i + d | none => 0 := by
  cases src <;> rfl

section
variable {s u b : State} {a : Acc} {tbl e : Nat}

theorem State.pitWinWrite_of_admitted {w : W32} {isStore : Bool} (h : Admitted s a pgPitW .pitWin 0 0x100 w)
    (hload : w.getLsbD 24 = !isStore) (hstore : w.getLsbD 25 = isStore) :
    s.pitWinWrite a 0x100 w none = (s.stored a pgPitW .pitWin 0 0x100 w).pitWindow a isStore := by
  obtain ⟨hok, heff⟩ := h
  have hbelow : ¬0x140 ≤ 0x100 := by decide
  simp only [pitWinWrite, if_neg hbelow, hok, heff, pitWinHook, hload, hstore, if_true]
  cases isStore <;> rfl

theorem exec_pitWindowCmd {w : W32} {isStore : Bool} (hw : s.pitSelWord isStore = w) (h : Reaches s a)
    (hadm : Admitted s a pgPitW .pitWin 0 0x100 w) (hload : w.getLsbD 24 = !isStore) (hstore : w.getLsbD 25 = isStore) :
    exec (pitWindowCmd a isStore) s = .next (((s.stored a pgPitW .pitWin 0 0x100 w).pitWindow a isStore).taken a) := by
  have hwrite : s.viaPath a (pgPitW + 0x100) (fun x => x.pitWinWrite a 0x100 (x.pitSelWord isStore) none) =
      ((s.stored a pgPitW .pitWin 0 0x100 w).pitWindow a isStore).taken a := by
    rw [State.viaPath_of_reaches _ _ h, hw, State.pitWinWrite_of_admitted hadm hload hstore]
  rw [← hwrite]
  cases isStore with
  | false => exact run_of_running _ h.1
  | true => exact run_of_running _ h.1

theorem State.pitWindow_of_busy (isStore : Bool) (hbusy : u.bit pgPitW PIT_SEL_busy = true) :
    u.pitWindow a isStore = u.accErr pgPitW 0x0A2 a accWrite (pgPitW + 0x100) := if_pos hbusy

section
variable (hidle : u.bit pgPitW PIT_SEL_busy = false) (htbl : u.fld pgPitW PIT_SEL_tbl = tbl)
  (he : u.fld pgPitW PIT_SEL_idx = e)
include hidle htbl he

theorem State.pitWindow_of_no_entry (isStore : Bool) (hmap : tbl = 1) (hpast : railMapLen ≤ e) :
    u.pitWindow a isStore = u.accErr pgPitW 0x0A7 a accWrite (pgPitW + 0x100) := by
  subst htbl he
  exact (if_neg (Bool.eq_false_iff.1 hidle)).trans (if_pos ⟨hmap, hpast⟩)

variable (hentry : ¬(tbl = 1 ∧ railMapLen ≤ e)) (hb : u.setBit pgPitW PIT_SEL_busy true = b)
include hentry hb

theorem State.pitWindow_store : u.pitWindow a true = b.pitStaged tbl e := by
  subst htbl he hb
  exact (if_neg (Bool.eq_false_iff.1 hidle)).trans (if_neg hentry)

theorem State.pitWindow_load :
    u.pitWindow a false = if tbl = 0 then (b.pitDataShown tbl e).pitOutShown e else b.pitDataShown tbl e := by
  subst htbl he hb
  refine ((if_neg (Bool.eq_false_iff.1 hidle)).trans (if_neg hentry)).trans ?_
  rw [pitOutShown, getD_map_add]
  rfl

end

end

/-! ### The check of the tables (R283) -/

/-- The CRC of the live tables is shown, and compared with the reference. -/
def State.pitSummed (s : State) : State :=
  let c := (pitCrc s.pitTab).toNat
  let u := s.setFld pgPitW PIT_TCRC_NOW_crc c
  if c = u.fld pgPitW PIT_TCRC_REF_crc then u else u.cfgFault pgPitW 0x0A3 pgPitW

theorem exec_pitTableCrcPass {s : State} (hlow : s.low = false) : exec .pitTableCrcPass s = .next
    (if s.bit pgPitW PAGE_STAT_armed && !s.parityOn pgPitW .pitWin then s.pitSummed else s) := by
  show execPitTableCrcPass s = _
  rw [execPitTableCrcPass, run_of_running _ hlow]
  rfl

/-- Settles O36: an instant in the present TICK forms the outputs; a move ends past its last old instant; the window acts by its busy
bit and its entry, and shows a 96 kHz pair's state for its second output too (log entry 147); an armed table is compared with its
reference. -/
theorem pitInstantsAndTablesComplete : Obligations.PitInstantsAndTablesComplete := by
  refine ⟨?_, ?_, ?_, ?_⟩
  · intro s smem dly hlow
    exact ⟨exec_pitSampleInstant_of_none smem dly hlow, fun P hnow => exec_pitSampleInstant_of_some smem dly hlow hnow⟩
  · intro s hlow
    refine ⟨exec_pitRegrid_of_none hlow, fun lo hlo => ?_⟩
    rw [exec_pitRegrid_of_some hlow hlo]
    exact ⟨fun hearly => by rw [if_neg (Nat.not_lt.2 hearly)], fun hdue => by rw [if_pos hdue]; rfl⟩
  · intro s a isStore h w hadm hload hstore u tbl e b deny
    have hcmd {v : State} (hv : u.pitWindow a isStore = v) :
        (isStore = true → exec (.pitWindowStore a) s = .next (v.taken a)) ∧
          (isStore = false → exec (.pitWindowLoad a) s = .next (v.taken a)) := by
      have hexec := exec_pitWindowCmd rfl h hadm hload hstore
      subst hv
      exact ⟨fun hs => by subst hs; exact hexec, fun hl => by subst hl; exact hexec⟩
    refine ⟨fun hbusy => hcmd (State.pitWindow_of_busy isStore hbusy),
      fun hidle hmap hpast => hcmd (State.pitWindow_of_no_entry hidle rfl rfl isStore hmap hpast), fun hidle hentry => ?_⟩
    intro x st t y o v z z' l kept
    refine ⟨fun hs => (hcmd ?_).1 hs, fun hl => (hcmd ?_).2 hl⟩
    · subst hs
      exact State.pitWindow_store hidle rfl rfl hentry rfl
    · subst hl
      exact State.pitWindow_load hidle rfl rfl hentry rfl
  · intro s hlow c u
    rw [exec_pitTableCrcPass hlow]
    refine ⟨fun hdisarmed => ?_, fun harmed hparity => ?_⟩
    · rw [hdisarmed, Bool.false_and, if_neg Bool.false_ne_true]
    · rw [State.parityOn, harmed, hparity, Bool.and_false, Bool.not_false, Bool.and_self, if_pos rfl]
      rfl

end Sys2Proof.Machine
end

section
/-!
Rules shared by the commands of the later chapters: conditional changes, and evaluations that a period brings about.
-/
namespace Sys2Proof.Machine

theorem State.when_of_true (s : State) {c : Bool} (f : State → State) (h : c = true) : s.when c f = f s := if_pos h

theorem State.when_of_false (s : State) {c : Bool} (f : State → State) (h : c = false) : s.when c f = s :=
  if_neg (Bool.eq_false_iff.1 h)

/-- Evaluation k is noted as done in the present TICK. -/
def State.markActed (s : State) (k : Nat) : State := { s with acted := Store.put (fun _ => 0) k (s.now + 1) s.acted }

theorem State.periodic_of_due {s : State} {k P : Nat} (f : State → State) (h : s.due k P = true) :
    s.periodic k P f = f (s.markActed k) := if_pos h

theorem State.periodic_of_not_due {s : State} {k P : Nat} (f : State → State) (h : s.due k P = false) : s.periodic k P f = s :=
  if_neg (Bool.eq_false_iff.1 h)

end Sys2Proof.Machine
end

section
/-!
The step: every command keeps the queue and the invariant, and a command whose operands pass the check runs behind the gate of reset
(R500), but for the pin's own events and the loss of the crystal.
-/
namespace Sys2Proof.Machine

/-! ### The queue and the invariant -/

theorem exec_keeps {s0 s : State} (c : Instr) (h : Keeps s0 s) : KeepsOut s0 (exec c s) := by
  cases c with
  | registerWrite => exact execRegisterWrite_keeps (h := h) ..
  | unmappedAccess => exact execUnmappedAccess_keeps (h := h) ..
  | rcCounterRead => exact execRcCounterRead_keeps (h := h) ..
  | irqForceWrite => exact execIrqForceWrite_keeps (h := h) ..
  | ferrRelease => exact execFerrRelease_keeps (h := h) ..
  | softReset => exact execSoftReset_keeps (h := h) ..
  | softResetDone => exact execSoftResetDone_keeps (h := h) ..
  | pageSnapshot => exact execPageSnapshot_keeps (h := h) ..
  | snapallArm => exact execSnapallArm_keeps (h := h) ..
  | snapallNow => exact execSnapallNow_keeps (h := h) ..
  | snapallTarget => exact execSnapallTarget_keeps (h := h) ..
  | snapallDone => exact execSnapallDone_keeps (h := h) ..
  | pageCommit => exact execPageCommit_keeps (h := h) ..
  | deviceCommit => exact execDeviceCommit_keeps (h := h) ..
  | commitApply => exact execCommitApply_keeps (h := h) ..
  | cfgCrcPass => exact execCfgCrcPass_keeps (h := h) ..
  | parityModeSet => exact execParityModeSet_keeps (h := h) ..
  | parityCheckPass => exact execParityCheckPass_keeps (h := h) ..
  | uptimeLatchRead => exact execUptimeLatchRead_keeps (h := h) ..
  | todLatchRead => exact execTodLatchRead_keeps (h := h) ..
  | todTick => exact execTodTick_keeps (h := h) ..
  | todStepRequest => exact execTodStepRequest_keeps (h := h) ..
  | todSteerWrite => exact execTodSteerWrite_keeps (h := h) ..
  | rxSleepWrite => exact execRxSleepWrite_keeps (h := h) ..
  | rxWakeDone => exact execRxWakeDone_keeps (h := h) ..
  | signalDetectRise => exact execSignalDetectRise_keeps (h := h) ..
  | signalDetectFall => exact execSignalDetectFall_keeps (h := h) ..
  | rxRateChange => exact execRxRateChange_keeps (h := h) ..
  | huntDwellExpire => exact execHuntDwellExpire_keeps (h := h) ..
  | rxLock => exact execRxLock_keeps (h := h) ..
  | rxLockLoss => exact execRxLockLoss_keeps (h := h) ..
  | txSleepWrite => exact execTxSleepWrite_keeps (h := h) ..
  | txWakeDone => exact execTxWakeDone_keeps (h := h) ..
  | txRateChange => exact execTxRateChange_keeps (h := h) ..
  | rxPatternWrite => exact execRxPatternWrite_keeps (h := h) ..
  | txPatternWrite => exact execTxPatternWrite_keeps (h := h) ..
  | checkerSync => exact execCheckerSync_keeps (h := h) ..
  | checkerSyncLoss => exact execCheckerSyncLoss_keeps (h := h) ..
  | injectSingle => exact execInjectSingle_keeps (h := h) ..
  | injectRateSet => exact execInjectRateSet_keeps (h := h) ..
  | rxHandover => exact execRxHandover_keeps (h := h) ..
  | txHandover => exact execTxHandover_keeps (h := h) ..
  | laneSwapRequest => exact execLaneSwapRequest_keeps (h := h) ..
  | txPhaseWrite => exact execTxPhaseWrite_keeps (h := h) ..
  | txPhaseStep => exact execTxPhaseStep_keeps (h := h) ..
  | formatEstablished => exact execFormatEstablished_keeps (h := h) ..
  | formatLost => exact execFormatLost_keeps (h := h) ..
  | sdiLineReceived => exact execSdiLineReceived_keeps (h := h) ..
  | ancPacketReceived => exact execAncPacketReceived_keeps (h := h) ..
  | timecodeLatchRead => exact execTimecodeLatchRead_keeps (h := h) ..
  | formatterFrameStart => exact execFormatterFrameStart_keeps (h := h) ..
  | ethFrameReceived => exact execEthFrameReceived_keeps (h := h) ..
  | linkUp => exact execLinkUp_keeps (h := h) ..
  | linkDown => exact execLinkDown_keeps (h := h) ..
  | txRingHeadWrite => exact execTxRingHeadWrite_keeps (h := h) ..
  | ringIndexWrite => exact execRingIndexWrite_keeps (h := h) ..
  | crewFrameTransmit => exact execCrewFrameTransmit_keeps (h := h) ..
  | tsqPop => exact execTsqPop_keeps (h := h) ..
  | twiCommand => exact execTwiCommand_keeps (h := h) ..
  | twiDone => exact execTwiDone_keeps (h := h) ..
  | moduleInterrupt => exact execModuleInterrupt_keeps (h := h) ..
  | flowPacketRelease => exact execFlowPacketRelease_keeps (h := h) ..
  | flowLossTimeout => exact execFlowLossTimeout_keeps (h := h) ..
  | flowLoad => exact execFlowLoad_keeps (h := h) ..
  | flowStore => exact execFlowStore_keeps (h := h) ..
  | windowOpDone => exact execWindowOpDone_keeps (h := h) ..
  | flowTableCrcPass => exact execFlowTableCrcPass_keeps (h := h) ..
  | flowPacketTransmit => exact execFlowPacketTransmit_keeps (h := h) ..
  | sourceFrameReady => exact execSourceFrameReady_keeps (h := h) ..
  | railFrameStart => exact execRailFrameStart_keeps (h := h) ..
  | holdFrameStart => exact execHoldFrameStart_keeps (h := h) ..
  | railLineRelease => exact execRailLineRelease_keeps (h := h) ..
  | groupRegrid => exact execGroupRegrid_keeps (h := h) ..
  | tapTakeWrite => exact execTapTakeWrite_keeps (h := h) ..
  | takeLand => exact execTakeLand_keeps (h := h) ..
  | salvoMemoryWrite => exact execSalvoMemoryWrite_keeps (h := h) ..
  | salvoMemoryRead => exact execSalvoMemoryRead_keeps (h := h) ..
  | cueSubmit => exact execCueSubmit_keeps (h := h) ..
  | cueDispatch => exact execCueDispatch_keeps (h := h) ..
  | cueResultPop => exact execCueResultPop_keeps (h := h) ..
  | cueCancel => exact execCueCancel_keeps (h := h) ..
  | gpiActive => exact execGpiActive_keeps (h := h) ..
  | gpiInactive => exact execGpiInactive_keeps (h := h) ..
  | gpiRearm => exact execGpiRearm_keeps (h := h) ..
  | gpiChatterEnd => exact execGpiChatterEnd_keeps (h := h) ..
  | syncInputFrame => exact execSyncInputFrame_keeps (h := h) ..
  | syncDecision => exact execSyncDecision_keeps (h := h) ..
  | syncOutputFrameStart => exact execSyncOutputFrameStart_keeps (h := h) ..
  | proFrameStart => exact execProFrameStart_keeps (h := h) ..
  | proLineCompose => exact execProLineCompose_keeps (h := h) ..
  | flipArm => exact execFlipArm_keeps (h := h) ..
  | flipDecision => exact execFlipDecision_keeps (h := h) ..
  | captureDone => exact execCaptureDone_keeps (h := h) ..
  | captureAbandon => exact execCaptureAbandon_keeps (h := h) ..
  | coefLoad => exact execCoefLoad_keeps (h := h) ..
  | coefStore => exact execCoefStore_keeps (h := h) ..
  | pitSampleInstant => exact execPitSampleInstant_keeps (h := h) ..
  | pitRegrid => exact execPitRegrid_keeps (h := h) ..
  | pitTakeSubmit => exact execPitTakeSubmit_keeps (h := h) ..
  | pitTakeLand => exact execPitTakeLand_keeps (h := h) ..
  | crossfadeEnd => exact execCrossfadeEnd_keeps (h := h) ..
  | transparentCut => exact execTransparentCut_keeps (h := h) ..
  | pitWindowLoad => exact execPitWindowLoad_keeps (h := h) ..
  | pitWindowStore => exact execPitWindowStore_keeps (h := h) ..
  | pitTableCrcPass => exact execPitTableCrcPass_keeps (h := h) ..
  | tdmFrameReceived => exact execTdmFrameReceived_keeps (h := h) ..
  | tdmFrameTransmit => exact execTdmFrameTransmit_keeps (h := h) ..
  | tdmRateMeasure => exact execTdmRateMeasure_keeps (h := h) ..
  | tdmRangeReenter => exact execTdmRangeReenter_keeps (h := h) ..
  | tdmTriggerGo => exact execTdmTriggerGo_keeps (h := h) ..
  | tdmTriggerStart => exact execTdmTriggerStart_keeps (h := h) ..
  | tdmChannelEnableWrite => exact execTdmChannelEnableWrite_keeps (h := h) ..
  | tdmZxTimeout => exact execTdmZxTimeout_keeps (h := h) ..
  | tdmRampComplete => exact execTdmRampComplete_keeps (h := h) ..
  | referenceEvent => exact execReferenceEvent_keeps (h := h) ..
  | refPtpSubmit => exact execRefPtpSubmit_keeps (h := h) ..
  | monitorInstant => exact execMonitorInstant_keeps (h := h) ..
  | refActivityLoss => exact execRefActivityLoss_keeps (h := h) ..
  | refOverRangeExit => exact execRefOverRangeExit_keeps (h := h) ..
  | loopUpdate => exact execLoopUpdate_keeps (h := h) ..
  | holdoverSecond => exact execHoldoverSecond_keeps (h := h) ..
  | pllLock => exact execPllLock_keeps (h := h) ..
  | pllLockLoss => exact execPllLockLoss_keeps (h := h) ..
  | pllBypassDone => exact execPllBypassDone_keeps (h := h) ..
  | holdBypassWrite => exact execHoldBypassWrite_keeps (h := h) ..
  | pllBypassReturnWrite => exact execPllBypassReturnWrite_keeps (h := h) ..
  | pllBypassReturn => exact execPllBypassReturn_keeps (h := h) ..
  | clkManWrite => exact execClkManWrite_keeps (h := h) ..
  | pllPhaseTargetWrite => exact execPllPhaseTargetWrite_keeps (h := h) ..
  | pllPhaseStep => exact execPllPhaseStep_keeps (h := h) ..
  | callCycleStart => exact execCallCycleStart_keeps (h := h) ..
  | callSlotStart => exact execCallSlotStart_keeps (h := h) ..
  | callBeaconReceived => exact execCallBeaconReceived_keeps (h := h) ..
  | callFrameReceived => exact execCallFrameReceived_keeps (h := h) ..
  | callSilentCycle => exact execCallSilentCycle_keeps (h := h) ..
  | callCollision => exact execCallCollision_keeps (h := h) ..
  | beaconQueuePop => exact execBeaconQueuePop_keeps (h := h) ..
  | claimBurst => exact execClaimBurst_keeps (h := h) ..
  | claimBurstReceived => exact execClaimBurstReceived_keeps (h := h) ..
  | claimBurstMissing => exact execClaimBurstMissing_keeps (h := h) ..
  | prefLeadTimeout => exact execPrefLeadTimeout_keeps (h := h) ..
  | leadNow => exact execLeadNow_keeps (h := h) ..
  | pairRejoin => exact execPairRejoin_keeps (h := h) ..
  | pairSwapWrite => exact execPairSwapWrite_keeps (h := h) ..
  | swapInstant => exact execSwapInstant_keeps (h := h) ..
  | heartbeatSend => exact execHeartbeatSend_keeps (h := h) ..
  | heartbeatReceived => exact execHeartbeatReceived_keeps (hk := h) ..
  | heartbeatTimeout => exact execHeartbeatTimeout_keeps (h := h) ..
  | journalReceived => exact execJournalReceived_keeps (h := h) ..
  | journalApply => exact execJournalApply_keeps (h := h) ..
  | signaturesReceived => exact execSignaturesReceived_keeps (h := h) ..
  | frameSignature => exact execFrameSignature_keeps (h := h) ..
  | signatureDeadline => exact execSignatureDeadline_keeps (h := h) ..
  | pathCheckDone => exact execPathCheckDone_keeps (h := h) ..
  | pathCheckResultReceived => exact execPathCheckResultReceived_keeps (h := h) ..
  | pathCheckResultTimeout => exact execPathCheckResultTimeout_keeps (h := h) ..
  | stateTransferReceived => exact execStateTransferReceived_keeps (h := h) ..
  | stateTransferCut => exact execStateTransferCut_keeps (h := h) ..
  | snapshotDataReceived => exact execSnapshotDataReceived_keeps (h := h) ..
  | retransmitRequestReceived => exact execRetransmitRequestReceived_keeps (h := h) ..
  | twinLaneFail => exact execTwinLaneFail_keeps (h := h) ..
  | snapshotCopy => exact execSnapshotCopy_keeps (h := h) ..
  | snapshotCopyDone => exact execSnapshotCopyDone_keeps (h := h) ..
  | twinLinkUp => exact execTwinLinkUp_keeps (h := h) ..
  | dramRequest => exact execDramRequest_keeps (h := h) ..
  | dramReadComplete => exact execDramReadComplete_keeps (h := h) ..
  | rhWindowBoundary => exact execRhWindowBoundary_keeps (h := h) ..
  | dramRefreshDue => exact execDramRefreshDue_keeps (h := h) ..
  | dramTempPoll => exact execDramTempPoll_keeps (h := h) ..
  | pageIdleClose => exact execPageIdleClose_keeps (h := h) ..
  | pageStarveClose => exact execPageStarveClose_keeps (h := h) ..
  | writeDrainAge => exact execWriteDrainAge_keeps (h := h) ..
  | dramDriftTrack => exact execDramDriftTrack_keeps (h := h) ..
  | retireWrite => exact execRetireWrite_keeps (h := h) ..
  | devceWindowStart => exact execDevceWindowStart_keeps (h := h) ..
  | pprGo => exact execPprGo_keeps (h := h) ..
  | pprDone => exact execPprDone_keeps (h := h) ..
  | scrubDue => exact execScrubDue_keeps (h := h) ..
  | sramReadError => exact execSramReadError_keeps (h := h) ..
  | sramPatrol => exact execSramPatrol_keeps (h := h) ..
  | sramRepairApply => exact execSramRepairApply_keeps (h := h) ..
  | sramFlipArm => exact execSramFlipArm_keeps (h := h) ..
  | dramFlipArm => exact execDramFlipArm_keeps (h := h) ..
  | lockstepMismatch => exact execLockstepMismatch_keeps (h := h) ..
  | crewCoreReset => exact execCrewCoreReset_keeps (h := h) ..
  | crewRunWrite => exact execCrewRunWrite_keeps (h := h) ..
  | missingPathAccess => exact execMissingPathAccess_keeps (h := h) ..
  | burstRefused => exact execBurstRefused_keeps (h := h) ..
  | masterResetDrain => exact execMasterResetDrain_keeps (h := h) ..
  | drainEnd => exact execDrainEnd_keeps (h := h) ..
  | dmaGo => exact execDmaGo_keeps (h := h) ..
  | dmaDescriptorDone => exact execDmaDescriptorDone_keeps (h := h) ..
  | dmaAbort => exact execDmaAbort_keeps (h := h) ..
  | pcieRequest => exact execPcieRequest_keeps (h := h) ..
  | pcieLinkDown => exact execPcieLinkDown_keeps (h := h) ..
  | pcieLinkUp => exact execPcieLinkUp_keeps (h := h) ..
  | interruptLineRise => exact execInterruptLineRise_keeps (h := h) ..
  | intEoiWrite => exact execIntEoiWrite_keeps (h := h) ..
  | msixUnmask => exact execMsixUnmask_keeps (h := h) ..
  | fatalAssert => exact execFatalAssert_keeps (h := h) ..
  | fatalClear => exact execFatalClear_keeps (h := h) ..
  | pinReadbackFail => exact execPinReadbackFail_keeps (h := h) ..
  | fwfltSet => exact execFwfltSet_keeps (h := h) ..
  | fwfltClear => exact execFwfltClear_keeps (h := h) ..
  | fwfatalWrite => exact execFwfatalWrite_keeps (h := h) ..
  | rotationStepInstant => exact execRotationStepInstant_keeps (h := h) ..
  | rotationHandover => exact execRotationHandover_keeps (h := h) ..
  | rotationTestEnd => exact execRotationTestEnd_keeps (h := h) ..
  | rotationHandback => exact execRotationHandback_keeps (h := h) ..
  | d2dWireCheck => exact execD2dWireCheck_keeps (h := h) ..
  | fuseProgram => exact execFuseProgram_keeps (h := h) ..
  | fuseProgramDone => exact execFuseProgramDone_keeps (h := h) ..
  | avsEvaluate => exact execAvsEvaluate_keeps (h := h) ..
  | ageSample mon ps => exact execAgeSample_keeps (_mon := mon) (h := h) ..
  | temperatureRead => exact execTemperatureRead_keeps (h := h) ..
  | wearCheckpoint => exact execWearCheckpoint_keeps (h := h) ..
  | resetAssert => exact execResetAssert_keeps (h := h) ..
  | osc54Loss => exact execOsc54Loss_keeps (h := h) ..
  | resetRise => exact execResetRise_keeps (h := h) ..
  | deviceResetWrite => exact execDeviceResetWrite_keeps (h := h) ..
  | lifecycleRequest => exact execLifecycleRequest_keeps (h := h) ..
  | unknownCommand => exact execUnknownCommand_keeps (h := h) ..
  | updateStage => exact execUpdateStage_keeps (h := h) ..
  | updateActivate => exact execUpdateActivate_keeps (h := h) ..
  | updateSchedule => exact execUpdateSchedule_keeps (h := h) ..
  | updateConfirm => exact execUpdateConfirm_keeps (h := h) ..
  | updateCancel => exact execUpdateCancel_keeps (h := h) ..
  | writeSettings => exact execWriteSettings_keeps (h := h) ..
  | shadowLoaded => exact execShadowLoaded_keeps (h := h) ..
  | classMActivation => exact execClassMActivation_keeps (h := h) ..
  | classMRevert => exact execClassMRevert_keeps (h := h) ..
  | managementPauseEnd => exact execManagementPauseEnd_keeps (h := h) ..
  | classSConfirm => exact execClassSConfirm_keeps (h := h) ..
  | trialTimeout => exact execTrialTimeout_keeps (h := h) ..

/-- Settles O4: every command keeps the queue. -/
theorem commandsLeaveQueue : Obligations.CommandsLeaveQueue := fun c s t hexec =>
  let ⟨hpending, _⟩ := (exec_keeps c (.refl s)).keeps t hexec
  hpending

theorem step_of_nil {s : State} (h : s.pending = []) : step s = .next s := by
  rw [step, h]

theorem step_of_cons {s : State} {c : Instr} {rest : List Instr} (h : s.pending = c :: rest) :
    step s = exec c { s with pending := rest } := by
  rw [step, h]

/-- Settles O3: the two shapes of the queue. -/
theorem stepRunsFrontCommand : Obligations.StepRunsFrontCommand :=
  ⟨fun _ _ _ => step_of_cons rfl, fun _ => step_of_nil⟩

/-- Settles O2: an idle step changes nothing; any other runs the command at the front, which keeps the invariant, on a state that
differs from the old one in its queue alone. -/
theorem stepKeepsInvariant : Obligations.StepKeepsInvariant := by
  intro s t hinv hstep
  cases hqueue : s.pending with
  | nil =>
    rw [step_of_nil hqueue] at hstep
    exact Host.Outcome.next.inj hstep ▸ hinv
  | cons c rest =>
    rw [step_of_cons hqueue] at hstep
    obtain ⟨-, hkeeps⟩ := (exec_keeps c (.refl { s with pending := rest })).keeps t hstep
    exact hkeeps hinv

/-- Settles O1: every store is empty at reset, and cue-of-second is zero. -/
theorem resetMeetsInvariant : Obligations.ResetMeetsInvariant where
  regs := Store.wf_nil _
  live := Store.wf_nil _
  mregs := Store.wf_nil _
  dram := Store.wf_nil _
  crew := Store.wf_nil _
  flash := Store.wf_nil _
  second := by decide
  replay := Nat.zero_le _
  results := Nat.zero_le _
  sheet := Nat.zero_le _
  repairs := Nat.zero_le _

/-! ### The gate of reset (R500) -/

theorem onPage_of_some {page p i : Nat} {k : PageKind} {s : State} (f : Nat → PageKind → Nat → State → State)
    (h : pageArg page = some (p, k, i)) : onPage page s f = runRails s (f p k i) := by
  rw [onPage, h]

theorem onPage_of_none {page : Nat} {s : State} (f : Nat → PageKind → Nat → State → State) (h : pageArg page = none) :
    onPage page s f = .fault .illFormed := by
  rw [onPage, h]

/-- A command that acts on a page is, for a page address, a change of state behind the gate of reset. -/
theorem onPage_gated {page : Nat} (s : State) (f : Nat → PageKind → Nat → State → State) (h : (pageArg page).isSome = true) :
    ∃ t, onPage page s f = .next (if s.low then s else t) := by
  obtain ⟨⟨p, k, i⟩, hpage⟩ := Option.isSome_iff_exists.1 h
  exact ⟨_, onPage_of_some f hpage⟩

theorem onPage_illFormed {page : Nat} (s : State) (f : Nat → PageKind → Nat → State → State)
    (h : (pageArg page).isSome = false) : onPage page s f = .fault .illFormed :=
  onPage_of_none f (by simpa using h)

/-- The events that a device held in reset takes as well: its own pin's, and the loss of the crystal. -/
def resetEvent : Instr → Bool
  | .resetAssert | .osc54Loss | .resetRise _ => true
  | _ => false

theorem exec_gated {c : Instr} (s : State) (hc : wellFormed c = true) (hgate : resetEvent c = false) :
    ∃ t, exec c s = .next (if s.low then s else t) := by
  cases c with
  | resetAssert | osc54Loss | resetRise => cases hgate
  | irqForceWrite | ferrRelease | softReset | softResetDone | pageSnapshot | pageCommit | commitApply | cfgCrcPass | parityModeSet
  | parityCheckPass => exact onPage_gated s _ hc
  | registerWrite | missingPathAccess | burstRefused | pcieRequest | pcieLinkUp | interruptLineRise | temperatureRead =>
    exact ⟨_, if_pos (of_decide_eq_true hc)⟩
  | dramRequest | rotationStepInstant | rotationHandover | rotationTestEnd | rotationHandback => exact ⟨_, if_pos hc⟩
  | rcCounterRead a addr clash =>
    show ∃ t, execRcCounterRead a addr clash s = .next (if s.low then s else t)
    cases hpage : pageOf addr with
    | none => simp [wellFormed, counterAt, hpage] at hc
    | some ki =>
      simp only [wellFormed, counterAt, hpage, Bool.and_eq_true, decide_eq_true_eq] at hc
      exact ⟨_, by rw [execRcCounterRead, hpage]; exact if_pos hc⟩
  | _ => exact ⟨_, rfl⟩

theorem foldl_max_le {α : Type} (f : α → Nat) {b : Nat} (hf : ∀ a, f a ≤ b) (l : List α) {m : Nat} (hm : m ≤ b) :
    l.foldl (fun m a => max m (f a)) m ≤ b := by
  induction l generalizing m with
  | nil => exact hm
  | cons a l ih => exact ih (max_le hm (hf a))

theorem State.hardMost_le_two (s : State) (b : BootIn) : s.hardMost b ≤ 2 :=
  foldl_max_le _ (fun _ => min_le_left ..) _ (Nat.zero_le _)

/-- R463's longest times for the repairs that a device holds are within those for the most repairs that one can hold. -/
theorem State.bootMay_of_bootTimes {s : State} {b : BootIn} (h : s.bootTimes b = true) : bootMay b = true := by
  have hmost := s.hardMost_le_two b
  simp only [bootTimes, bootMay, Bool.and_eq_true, decide_eq_true_eq] at h ⊢
  omega

theorem exec_of_illFormed {c : Instr} (s : State) (hc : wellFormed c = false) : exec c s = .fault .illFormed := by
  cases c with
  | irqForceWrite | ferrRelease | softReset | softResetDone | pageSnapshot | pageCommit | commitApply | cfgCrcPass | parityModeSet
  | parityCheckPass => exact onPage_illFormed s _ hc
  | registerWrite | missingPathAccess | burstRefused | pcieRequest | pcieLinkUp | interruptLineRise | temperatureRead =>
    exact if_neg (of_decide_eq_false hc)
  | dramRequest | rotationStepInstant | rotationHandover | rotationTestEnd | rotationHandback =>
    exact if_neg (Bool.eq_false_iff.1 hc)
  | rcCounterRead a addr clash =>
    show execRcCounterRead a addr clash s = _
    cases hpage : pageOf addr with
    | none => rw [execRcCounterRead, hpage]
    | some ki =>
      simp only [wellFormed, counterAt, hpage, Bool.and_eq_false_iff, decide_eq_false_iff_not] at hc
      rw [execRcCounterRead, hpage]
      exact if_neg (by simpa [imp_iff_not_or] using hc)
  | resetRise b => exact if_neg fun htimes => Bool.false_ne_true (hc.symm.trans (State.bootMay_of_bootTimes htimes))
  | _ => cases hc

/-- Settles O5: the check of the operands is the one that a command makes, and the times of a start-up are judged on the device after
reset (the model's choice, log entries 108 and 155). -/
theorem onlyIllFormedCommandsStop : Obligations.OnlyIllFormedCommandsStop := by
  refine ⟨fun c s hc hboot => ?_, fun c s => exec_of_illFormed s⟩
  cases hgate : resetEvent c with
  | false =>
    obtain ⟨t, hexec⟩ := exec_gated s hc hgate
    exact ⟨_, hexec⟩
  | true =>
    cases c with
    | resetAssert | osc54Loss => exact ⟨_, rfl⟩
    | resetRise b => exact ⟨_, if_pos (hboot b rfl)⟩
    | _ => cases hgate

/-- Settles O6: a device held in reset stands behind the gate. -/
theorem heldDeviceTakesNoCommand : Obligations.HeldDeviceTakesNoCommand := by
  intro c s hlow hc hassert hloss hrise
  have hgate : resetEvent c = false := by
    cases c with
    | resetAssert => exact absurd rfl hassert
    | osc54Loss => exact absurd rfl hloss
    | resetRise b => exact absurd rfl (hrise b)
    | _ => rfl
  obtain ⟨t, hexec⟩ := exec_gated s hc hgate
  rw [hexec, if_pos hlow]

end Sys2Proof.Machine
end

section
/-!
The address map of DRAM (R373): where an address lies, that the map is one to one, and how it spreads granules.
-/
namespace Sys2Proof.Machine

/-! ### Places and addresses -/

theorem xor_lt_eight {a b : Nat} (ha : a < 8) (hb : b < 8) : a ^^^ b < 8 := Nat.xor_lt_two_pow (n := 3) ha hb

theorem xor_lt_four {a b : Nat} (ha : a < 4) (hb : b < 4) : a ^^^ b < 4 := Nat.xor_lt_two_pow (n := 2) ha hb

/-- The bank of a place is made of its bank group and of its number in the group. -/
theorem placeOf_bank_digits (addr : Nat) :
    (placeOf addr).bank / 4 = (addr / 128 / 8 % 8) ^^^ (addr / 128 / 8 / 2048 % 8) ∧
      (placeOf addr).bank % 4 = (addr / 128 / 8 / 8 % 4) ^^^ (addr / 128 / 8 / 2048 / 8 % 4) := by
  have hlow : (addr / 128 / 8 / 8 % 4) ^^^ (addr / 128 / 8 / 2048 / 8 % 4) < 4 := xor_lt_four (by omega) (by omega)
  dsimp only [placeOf]
  omega

theorem placeOf_ch_lt (addr : Nat) : (placeOf addr).ch < 8 := xor_lt_eight (by omega) (by omega)

theorem addrOf_placeOf {addr : Nat} (h : addr % 128 = 0) : addrOf (placeOf addr) = addr := by
  obtain ⟨hgroup, hbank⟩ := placeOf_bank_digits addr
  rw [addrOf, hgroup, hbank]
  simp only [placeOf, Nat.xor_xor_cancel_right]
  omega

theorem addrOf_aligned (p : DPlace) : addrOf p % 128 = 0 := Nat.mul_mod_left ..

/-- The place of an address in terms of the numbers that it spells: row, column, bank, bank group and channel, permuted by the row. -/
theorem placeOf_spelled {r c b g k : Nat} (hc : c < 64) (hb : b < 4) (hg : g < 8) (hk : k < 8) :
    placeOf (((r * 2048 + c * 32 + b * 8 + g) * 8 + k) * 128) =
      { ch := k ^^^ (r % 8), bank := 4 * (g ^^^ (r % 8)) + (b ^^^ (r / 8 % 4)), row := r, col := c } := by
  have hch : ((r * 2048 + c * 32 + b * 8 + g) * 8 + k) * 128 / 128 % 8 = k := by omega
  have hh : ((r * 2048 + c * 32 + b * 8 + g) * 8 + k) * 128 / 128 / 8 = r * 2048 + c * 32 + b * 8 + g := by omega
  have hr : (r * 2048 + c * 32 + b * 8 + g) / 2048 = r := by omega
  have hgroup : (r * 2048 + c * 32 + b * 8 + g) % 8 = g := by omega
  have hbank : (r * 2048 + c * 32 + b * 8 + g) / 8 % 4 = b := by omega
  have hcol : (r * 2048 + c * 32 + b * 8 + g) / 32 % 64 = c := by omega
  simp only [placeOf, hch, hh, hr, hgroup, hbank, hcol]

theorem placeOf_addrOf {p : DPlace} (hch : p.ch < 8) (hbank : p.bank < 32) (hcol : p.col < 64) : placeOf (addrOf p) = p := by
  refine (placeOf_spelled hcol (xor_lt_four (by omega) (by omega)) (xor_lt_eight (by omega) (by omega))
    (xor_lt_eight hch (by omega))).trans ?_
  simp only [Nat.xor_xor_cancel_right, Nat.div_add_mod]

/-! ### How granules spread -/

/-- Of eight consecutive granules from a multiple of 8 no two lie in one channel. -/
theorem placeOf_ch_inj {g i j : Nat} (hi : i < 8) (hj : j < 8)
    (h : (placeOf ((8 * g + i) * 128)).ch = (placeOf ((8 * g + j) * 128)).ch) : i = j := by
  have hch {i : Nat} (hi : i < 8) : (placeOf ((8 * g + i) * 128)).ch = i ^^^ (g / 2048 % 8) := by
    have hlow : (8 * g + i) * 128 / 128 % 8 = i := by omega
    have hhigh : (8 * g + i) * 128 / 128 / 8 = g := by omega
    simp only [placeOf, hlow, hhigh]
  rw [hch hi, hch hj] at h
  exact Nat.xor_left_inj.1 h

theorem placeOf_scrubAddr {n : Nat} (h : Nat) (hn : n < 8) : (placeOf (scrubAddr n h)).ch = n ∧
    (placeOf (scrubAddr n h)).bank / 4 = (h % 8) ^^^ (h / 2048 % 8) := by
  have hch : n ^^^ (h / 2048 % 8) < 8 := xor_lt_eight hn (by omega)
  have hlow : scrubAddr n h / 128 % 8 = n ^^^ (h / 2048 % 8) := by
    rw [scrubAddr]
    omega
  have hhigh : scrubAddr n h / 128 / 8 = h := by
    rw [scrubAddr]
    omega
  refine ⟨?_, ?_⟩
  · simp only [placeOf, hlow, hhigh, Nat.xor_xor_cancel_right]
  · rw [(placeOf_bank_digits _).1, hhigh]

/-- Of eight consecutive granules of a channel from a multiple of 8 no two lie in one bank group. -/
theorem scrubAddr_group_inj {n h i j : Nat} (hn : n < 8) (hi : i < 8) (hj : j < 8)
    (hgroup : (placeOf (scrubAddr n (8 * h + i))).bank / 4 = (placeOf (scrubAddr n (8 * h + j))).bank / 4) : i = j := by
  have hrow : (8 * h + i) / 2048 % 8 = (8 * h + j) / 2048 % 8 := by omega
  rw [(placeOf_scrubAddr _ hn).2, (placeOf_scrubAddr _ hn).2, hrow] at hgroup
  have hnumber := Nat.xor_left_inj.1 hgroup
  omega

/-! ### Installed DRAM -/

/-- A number written to the two words of a low and high pair reads back. -/
theorem State.fld64_setFld64 (s : State) {p v : Nat} {lo hi : Fld} (hlo : lo.lo = 0 ∧ lo.w = 32) (hhi : hi.lo = 0 ∧ hi.w = 32)
    (hne : lo.at 0 ≠ hi.at 0) (hv : v < 2 ^ 64) : (s.setFld64 p lo hi v).fld64 p lo hi = v := by
  obtain ⟨hlo0, hlow⟩ := hlo
  obtain ⟨hhi0, hhiw⟩ := hhi
  have hne' : p + lo.at 0 ≠ p + hi.at 0 := fun h => hne (Nat.add_left_cancel h)
  simp only [fld64, setFld64, fld, word_setFld, if_true, if_neg hne', hlo0, hlow, hhi0, hhiw]
  rw [getBits_setBits _ _ (by decide), getBits_setBits _ _ (by decide)]
  omega

theorem State.bootTrain_dramSize (s : State) (b : BootIn) : (s.bootTrain b).dramSize =
    if (bootDev b 0 0).dens then 0x3000000000 else 0x2000000000 := by
  refine fld64_setFld64 _ ⟨rfl, rfl⟩ ⟨rfl, rfl⟩ (by decide) ?_
  split <;> decide

/-- Settles O60, by the numbers that an address spells: the row permutes channel, bank group and bank by exclusive or. -/
theorem dramAddressMapIsOneToOne : Obligations.DramAddressMapIsOneToOne := by
  refine ⟨fun addr => ?_, fun addr => addrOf_placeOf, fun p hch hbank hcol => ⟨placeOf_addrOf hch hbank hcol, addrOf_aligned p⟩,
    fun g i j => placeOf_ch_inj, fun n h hn => ⟨(placeOf_scrubAddr h hn).1, fun i j => scrubAddr_group_inj hn⟩,
    fun p hch hbank hcol => ?_, fun s base len => decide_eq_true_iff, State.bootTrain_dramSize⟩
  · obtain ⟨hgroup, hbank⟩ := placeOf_bank_digits addr
    exact ⟨rfl, rfl, hgroup, hbank, rfl⟩
  · refine ⟨addrOf p, addrOf_aligned p, placeOf_addrOf hch hbank hcol, fun a ha hplace => ?_⟩
    rw [← hplace, addrOf_placeOf ha]

end Sys2Proof.Machine
end

section
/-!
The Catwalk and the routing of interrupts (R410 to R421): lockstep, refused accesses, masters in a drain, the PCIe link, and the messages
of interrupt lines.
-/
namespace Sys2Proof.Machine

/-! ### Lockstep (R410) -/

theorem exec_lockstepMismatch {s : State} (hlow : s.low = false) : exec .lockstepMismatch s = .next
    (if s.bit pgPrc SM_STAT_lockstep_ok then
      ((s.setBit pgPrc SM_STAT_lockstep_ok false).irq pgPrc IRQ_prc_lockstep).err pgPrc 0x141
    else s) :=
  run_of_running _ hlow

/-! ### Accesses that are refused (R414, R415, R420) -/

section
variable {s : State} {m addr : Nat} (hlow : s.low = false) (hm : m < 32) (haddr : addr < 2 ^ 48)
include hlow hm haddr

theorem exec_missingPathAccess (isWrite : Bool) : exec (.missingPathAccess m addr isWrite) s = .next
    (if hasPath m (targetOf addr) || !s.issues m then s else s.noPath ⟨m, false⟩ isWrite addr) :=
  (if_pos ⟨hm, haddr⟩).trans (run_of_running _ hlow)

theorem exec_burstRefused (beats : Nat) (kind : Fin 4) (whole : Bool) : exec (.burstRefused m addr beats kind whole) s = .next
    (if burstOk addr beats kind whole || !s.issues m || !hasPath m (targetOf addr) then s
    else if m = hostMaster then (s.bump pgPcie PCIE_UR_n).answer m .unsupported []
    else (s.capture pgCat 0x144 (if kind.val < 2 then kind.val else 3) m addr).answer m .busError []) :=
  (if_pos ⟨hm, haddr⟩).trans (run_of_running _ hlow)

end

/-- A burst breaks the rules of the Catwalk (R415). -/
abbrev BurstBreaks (addr beats : Nat) (kind : Fin 4) (whole : Bool) : Prop :=
  4096 < addr / 16 * 16 % 4096 + beats * 16 ∨ 64 < beats ∨ beats = 0 ∨ (targetOf addr = .regs ∧ whole = false) ∨
    ((kind = 2 ∨ kind = 3) ∧ (beats ≠ 1 ∨ targetOf addr ≠ .dram ∧ targetOf addr ≠ .crewSram))

theorem atomic_iff (kind : Fin 4) : (kind = 2 ∨ kind = 3) ↔ ¬kind.val < 2 := by
  revert kind
  decide

theorem burstOk_iff (addr beats : Nat) (kind : Fin 4) (whole : Bool) :
    burstOk addr beats kind whole = true ↔ ¬BurstBreaks addr beats kind whole := by
  simp only [burstOk, BurstBreaks, atomic_iff, Bool.and_eq_true, Bool.or_eq_true, decide_eq_true_eq, bne_iff_ne, beq_iff_eq]
  grind

theorem accessOf_kind (kind : Fin 4) : (if kind.val < 2 then kind.val else 3) = if kind = 0 then 0 else if kind = 1 then 1 else 3 := by
  revert kind
  decide

/-- Settles O59: the rules of R415 are those that the check of a burst tests. -/
theorem burstsThatBreakTheRulesAreRefused : Obligations.BurstsThatBreakTheRulesAreRefused := by
  intro s m addr beats kind whole hlow hm haddr hhost hissues hpath t atomic access breaks
  rw [exec_burstRefused hlow hm haddr, hissues, hpath, accessOf_kind, if_neg hhost]
  simp only [Bool.not_true, Bool.or_false, burstOk_iff]
  exact ⟨fun hbreaks => by rw [if_neg (not_not.2 hbreaks)], fun hkeeps => by rw [if_pos hkeeps]⟩

/-! ### Drains (R418) -/

theorem exec_masterResetDrain {s : State} (m : Fin 32) (hlow : s.low = false) : exec (.masterResetDrain m) s = .next
    ((s.masterReset m).setWord (pgCat + 0x140) (setBits (s.word (pgCat + 0x140)) m 1 1)) := by
  show execMasterResetDrain m s = _
  rw [execMasterResetDrain, run_of_running _ hlow]

theorem exec_drainEnd {s : State} (m : Fin 32) (hlow : s.low = false) : exec (.drainEnd m) s = .next (s.drainEnd m) :=
  run_of_running (fun s => s.drainEnd m) hlow

/-! ### The PCIe link (R420) -/

section
variable {s : State} (hlow : s.low = false)
include hlow

theorem exec_pcieLinkDown (flr : Bool) : exec (.pcieLinkDown flr) s = .next
    (if flr then if s.bit pgPcie PCIE_STAT_up then (s.masterReset hostMaster).irq pgPcie IRQ_pcie_flr else s else s.pcieDown) := by
  show execPcieLinkDown flr s = _
  rw [execPcieLinkDown, run_of_running _ hlow]

theorem exec_pcieLinkUp {gen width : Fin 8} (hgen : 1 ≤ gen.val ∧ gen.val ≤ 4)
    (hwidth : width.val = 1 ∨ width.val = 2 ∨ width.val = 4) : exec (.pcieLinkUp gen width) s = .next
      (if s.bit pgPcie PCIE_STAT_up then s
      else (((s.setBit pgPcie PCIE_STAT_up true).setFld pgPcie PCIE_STAT_speed gen).setFld pgPcie PCIE_STAT_width width).irq
        pgPcie IRQ_pcie_up) :=
  (if_pos ⟨hgen.1, hgen.2, hwidth⟩).trans (run_of_running _ hlow)

end

/-! ### Interrupt routing (R421) -/

/-- A line is noted as high. -/
def State.lineNoted (s : State) (line : Nat) : State := { s with lines := Store.put (fun _ => false) line true s.lines }

theorem State.lineRise_eq (s : State) (line : Nat) : s.lineRise line =
    if getBits (s.route line) 8 2 = 1 then (s.lineNoted line).sendVector (getBits (s.route line) 0 6) else s.lineNoted line :=
  rfl

/-- The vector mask after an event of a line that is routed to vector v. -/
def State.maskNoted (s : State) (masked : Bool) (v : Nat) : State :=
  { s with msixMask := if masked then s.msixMask ||| (1 <<< v) else s.msixMask &&& ~~~((1 : BitVec 64) <<< v) }

/-- A line is found to have risen. -/
abbrev State.LineRises (s : State) (line : Nat) : Prop := s.lineLevel line = true ∧ Store.get (fun _ => false) s.lines line = false

theorem exec_interruptLineRise {s : State} {line : Nat} (masked : Bool) (hlow : s.low = false) (hline : line < 16384) :
    let u := if getBits (s.route line) 8 2 = 1 then s.maskNoted masked (getBits (s.route line) 0 6) else s
    exec (.interruptLineRise line masked) s = .next (if s.LineRises line then u.lineRise line else u) := by
  intro u
  have hrises : (u.lineLevel line && !Store.get (fun _ => false) u.lines line) = true ↔ s.LineRises line := by
    rw [Bool.and_eq_true, Bool.not_eq_true']
    by_cases hrouted : getBits (s.route line) 8 2 = 1
    · have hu : u = s.maskNoted masked (getBits (s.route line) 0 6) := if_pos hrouted
      rw [hu]
      rfl
    · have hu : u = s := if_neg hrouted
      rw [hu]
  refine (if_pos hline).trans ((run_of_running _ hlow).trans ?_)
  exact congrArg _ (if_congr hrises rfl rfl)

theorem exec_msixUnmask {s : State} (vec : Fin 64) (hlow : s.low = false) :
    let u := { s with msixMask := s.msixMask &&& ~~~((1 : BitVec 64) <<< vec.val) }
    exec (.msixUnmask vec) s = .next
      (if s.msixPend.getLsbD vec then { u with msixPend := s.msixPend &&& ~~~((1 : BitVec 64) <<< vec.val) }.sendVector vec else u) := by
  show execMsixUnmask vec s = _
  rw [execMsixUnmask, run_of_running _ hlow]

theorem State.sendVector_of_unmasked {s : State} {v : Nat} (h : s.msixMask.getLsbD v = false) :
    s.sendVector v = { s with msi := Store.put (fun _ => 0) v (Store.get (fun _ => 0) s.msi v + 1) s.msi } :=
  if_neg (Bool.eq_false_iff.1 h)

theorem getLsbD_and_not_bit (x : BitVec 64) {v : Nat} (hv : v < 64) : (x &&& ~~~((1 : BitVec 64) <<< v)).getLsbD v = false := by
  simp [hv]

theorem exec_intEoiWrite {s : State} {a : Acc} {w : W32} (h : Reaches s a) (hadm : Admitted s a pgInt .intc 0 0x108 w) :
    let u := s.stored a pgInt .intc 0 0x108 w
    exec (.intEoiWrite a w) s = .next ((if u.vectorHigh (getBits w 0 6) then u.sendVector (getBits w 0 6) else u).taken a) := by
  obtain ⟨hok, heff⟩ := hadm
  show execIntEoiWrite a w s = _
  have hother : ¬0x108 = 0x104 := by decide
  simp only [execIntEoiWrite, run_of_running _ h.1, State.viaPath_of_reaches _ _ h, State.intWrite, State.intHook, hother, if_false,
    hok, heff, Bool.true_or, if_true]

/-! ### The statement -/

/-- Settles O51: each command at its trigger and without it. -/
theorem catwalkAndInterruptCommandsComplete : Obligations.CatwalkAndInterruptCommandsComplete := by
  refine ⟨fun s hlow => ?_, fun s m addr isWrite hlow hm haddr => ?_, fun s m addr beats kind whole hlow hm haddr => ?_,
    fun s m hlow => ?_, fun s gen width hlow => ?_, fun s line masked hlow hline => ?_, fun s vec hlow => ?_, fun s a w h hadm => ?_⟩
  · rw [exec_lockstepMismatch hlow]
    exact ⟨fun hok => by rw [if_pos hok], fun hlost => by rw [if_neg (Bool.eq_false_iff.1 hlost)]⟩
  · intro missing
    have hiff : (hasPath m (targetOf addr) || !s.issues m) = true ↔ ¬missing := by
      simp [missing, imp_iff_not_or]
    rw [exec_missingPathAccess hlow hm haddr]
    refine ⟨fun hmissing => ?_, fun hpresent => by rw [if_pos (hiff.2 hpresent)]⟩
    rw [if_neg (mt hiff.1 (not_not.2 hmissing))]
    rfl
  · intro refused
    have hiff : (burstOk addr beats kind whole || !s.issues m || !hasPath m (targetOf addr)) = true ↔ ¬refused := by
      simp [refused, imp_iff_not_or, or_assoc]
    rw [exec_burstRefused hlow hm haddr]
    refine ⟨fun hrefused hhost => ?_, fun htaken => by rw [if_pos (hiff.2 htaken)]⟩
    rw [if_neg (mt hiff.1 (not_not.2 hrefused)), if_pos hhost]
  · intro dropped draining u v
    refine ⟨exec_masterResetDrain m hlow, fun hover => ?_, fun hdrain => ?_⟩
    · rw [exec_drainEnd m hlow, State.drainEnd, if_neg (Bool.eq_false_iff.1 hover)]
    · rw [exec_drainEnd m hlow, State.drainEnd, if_pos hdrain]
  · intro up u v
    refine ⟨fun hdown flr => ?_, fun hup => ?_, fun hup => ?_, fun hfirst hlast hwidth => ?_⟩
    · rw [exec_pcieLinkDown hlow, State.pcieDown]
      cases flr <;> simp [show s.bit pgPcie PCIE_STAT_up = false from hdown]
    · rw [exec_pcieLinkDown hlow, if_pos rfl, if_pos hup]
    · rw [exec_pcieLinkDown hlow, if_neg Bool.false_ne_true, State.pcieDown, if_neg (by simpa using hup)]
    · rw [exec_pcieLinkUp hlow ⟨hfirst, hlast⟩ (by simpa using hwidth)]
      exact ⟨fun hup => by rw [if_pos hup], fun hdown => by rw [if_neg (Bool.eq_false_iff.1 hdown)]⟩
  · intro r v m routed rises risen
    rw [exec_interruptLineRise masked hlow hline]
    refine ⟨fun hrouted hrises => ?_, fun hrouted hstays => ?_, fun hother hrises => ?_, fun hother hstays => ?_⟩
    · rw [if_pos hrises, if_pos hrouted, State.lineRise_eq]
      exact congrArg _ (if_pos hrouted)
    · rw [if_neg hstays, if_pos hrouted]
      rfl
    · rw [if_pos hrises, if_neg hother, State.lineRise_eq]
      exact congrArg _ (if_neg hother)
    · rw [if_neg hstays, if_neg hother]
  · intro u
    rw [exec_msixUnmask vec hlow]
    refine ⟨fun hnone => by rw [if_neg (Bool.eq_false_iff.1 hnone)], fun hpends => ?_⟩
    rw [if_pos hpends, State.sendVector_of_unmasked (getLsbD_and_not_bit _ vec.isLt)]
  · intro u v
    rw [exec_intEoiWrite h hadm]
    exact ⟨fun hhigh => by rw [if_pos hhigh], fun hlow => by rw [if_neg (Bool.eq_false_iff.1 hlow)]⟩

end Sys2Proof.Machine
end

section
/-!
Faults (R428 to R438): the fault pins, their read-back, and the faults that firmware reports.
-/
namespace Sys2Proof.Machine

section
variable {s : State} (hlow : s.low = false)
include hlow

/-! ### The pins (R429 to R433) -/

theorem exec_fatalAssert : exec .fatalAssert s = .next (if s.anyFatal && !s.fltT then s.fatalAssert else s) := by
  show execFatalAssert s = _
  rw [execFatalAssert, run_of_running _ hlow]

theorem exec_fatalClear : exec .fatalClear s = .next (if !s.anyFatal && s.fltT && s.booted then s.fatalClear else s) := by
  show execFatalClear s = _
  rw [execFatalClear, run_of_running _ hlow]

theorem exec_pinReadbackFail_flt : exec (.pinReadbackFail false) s = .next
    ((((s.setBit pgDev DEV_FLT_STAT_pin_bad true).bump pgDev DEV_PIN_BAD_n).irq pgDev IRQ_dev_pin_bad).err pgDev 0x001) := by
  show execPinReadbackFail false s = _
  rw [execPinReadbackFail, run_of_running _ hlow, if_neg Bool.false_ne_true]

theorem exec_pinReadbackFail_svc : exec (.pinReadbackFail true) s = .next
    (if s.svcLow then
      (((s.setBit pgDev DEV_FLT_STAT_svc_bad true).bump pgDev DEV_PIN_BAD_n).irq pgDev IRQ_dev_svc_bad).err pgDev 0x002
    else s) := by
  show execPinReadbackFail true s = _
  rw [execPinReadbackFail, run_of_running _ hlow, if_pos rfl]

end

/-! ### Firmware faults (R435, R436) -/

section
variable {s : State} {a : Acc} {w : W32}

/-- A write that sets no bit a hook acts on leaves what the store of the word leaves. -/
theorem State.faultWrite_of_plain (hw : Option W32) {o : Nat} (ho : o ≠ 0x304 ∧ o ≠ 0x30C ∧ o ≠ 0x310) :
    s.faultWrite a o w hw = (s.storeWord a pgDev .dev 0 o w hw).s := by
  obtain ⟨hctl, hset, hfatal⟩ := ho
  simp only [faultWrite, faultHook, hctl, hset, hfatal, if_false, ite_self]

theorem exec_fwfltSet (h : Reaches s a) (hadm : Admitted s a pgDev .dev 0 0x30C w) :
    let u := s.stored a pgDev .dev 0 0x30C w
    exec (.fwfltSet a w) s = .next ((u.setWord (pgDev + 0x308) (u.word (pgDev + 0x308) ||| w)).taken a) := by
  obtain ⟨hok, heff⟩ := hadm
  have hctl : ¬0x30C = 0x304 := by decide
  show execFwfltSet a w s = _
  simp only [execFwfltSet, run_of_running _ h.1, State.viaPath_of_reaches _ _ h, State.faultWrite, State.faultHook, hok, heff, hctl,
    if_true, if_false]

theorem exec_fwfltClear (setNow : W32) (h : Reaches s a) :
    let u := s.setWord (pgDev + 0x308) (s.word (pgDev + 0x308) ||| setNow)
    exec (.fwfltClear a w setNow) s = .next ((u.storeWord a pgDev .dev 0 0x308 w (some setNow)).s.taken a) := by
  intro u
  show execFwfltClear a w setNow s = _
  rw [execFwfltClear, run_of_running _ h.1, State.viaPath_of_reaches _ _ h, State.faultWrite_of_plain _ (by decide)]

theorem exec_fwfatalWrite (h : Reaches s a) (hok : (s.storeWord a pgDev .dev 0 0x310 w).ok = true) :
    let u := s.stored a pgDev .dev 0 0x310 w
    exec (.fwfatalWrite a w) s = .next
      ((if u.bit pgDev DEV_FWFATAL_set && !(s.word (pgDev + 0x310)).getLsbD 0 then (u.irq pgDev IRQ_dev_fw_fatal).err pgDev 0x003
        else u).taken a) := by
  have hctl : ¬0x310 = 0x304 := by decide
  have hset : ¬0x310 = 0x30C := by decide
  show execFwfatalWrite a w s = _
  simp only [execFwfatalWrite, run_of_running _ h.1, State.viaPath_of_reaches _ _ h, State.faultWrite, State.faultHook, hok, hctl,
    hset, State.storeWord_old, if_true, if_false]

end

/-- Settles O53: the pins move where a fatal line and their level differ, and each flag acts on the bits that its write changes. -/
theorem faultCommandsComplete : Obligations.FaultCommandsComplete := by
  refine ⟨fun s hlow => ?_, fun s hlow => ?_, fun s a w h hadm => exec_fwfltSet h hadm, fun s a w setNow h => exec_fwfltClear setNow h,
    fun s a w h hok => ?_⟩
  · intro u v out_ back
    have hout : (s.anyFatal && !s.fltT) = true ↔ out_ := by simp [out_]
    have hback : (!s.anyFatal && s.fltT && s.booted) = true ↔ back := by simp [back, and_assoc]
    rw [exec_fatalAssert hlow, exec_fatalClear hlow]
    exact ⟨fun hstays => by rw [if_neg (mt hout.1 hstays)], fun hdriven => by rw [if_pos (hout.2 hdriven)]; rfl,
      fun hstays => by rw [if_neg (mt hback.1 hstays)], fun hnormal => by rw [if_pos (hback.2 hnormal)]; rfl⟩
  · refine ⟨exec_pinReadbackFail_flt hlow, fun hheld => ?_, fun hfree => ?_⟩
    · rw [exec_pinReadbackFail_svc hlow, if_pos hheld]
    · rw [exec_pinReadbackFail_svc hlow, if_neg (Bool.eq_false_iff.1 hfree)]
  · intro u rises
    have hrises : (u.bit pgDev DEV_FWFATAL_set && !(s.word (pgDev + 0x310)).getLsbD 0) = true ↔ rises := by simp [rises]
    rw [exec_fwfatalWrite h hok]
    exact ⟨fun hset => by rw [if_pos (hrises.2 hset)], fun hkept => by rw [if_neg (mt hrises.1 hkept)]⟩

end Sys2Proof.Machine
end

section
/-!
The steps of rotation (R442 to R449): the step instant, and the handover, the test and the handback of a step.
-/
namespace Sys2Proof.Machine

/-! ### Step instants (R443, R444, R449) -/

section
variable {s : State} {c : Fin 7} {g : Fin 16}

/-- A step instant of a class that rotates lies in the present TICK. -/
abbrev State.StepDue (s : State) (c : Fin 7) (g : Fin 16) : Prop :=
  s.lbit pgRot ROT_CTL_en = true ∧ s.lbit pgRot ROT_CLS_en c = true ∧
    s.due (64 + c * 16 + g) (s.lv pgRot ROT_CLS_per c * cueSec) = true

theorem exec_rotationStepInstant (hlow : s.low = false) (hg : grpOk c g = true) :
    exec (.rotationStepInstant c g) s = .next
      (if s.StepDue c g then (s.markActed (64 + c * 16 + g)).stepInstant c g else s) := by
  show execRotationStepInstant c g s = _
  rw [execRotationStepInstant, if_pos hg, run_of_running _ hlow]
  by_cases hon : s.lbit pgRot ROT_CTL_en = true ∧ s.lbit pgRot ROT_CLS_en c = true
  · rw [if_pos hon]
    by_cases hdue : s.due (64 + c * 16 + g) (s.lv pgRot ROT_CLS_per c * cueSec) = true
    · rw [State.periodic_of_due _ hdue, if_pos ⟨hon.1, hon.2, hdue⟩]
    · rw [State.periodic_of_not_due _ (Bool.eq_false_iff.2 hdue), if_neg (fun ⟨_, _, h⟩ => hdue h)]
  · rw [if_neg hon, if_neg (fun ⟨hrot, hcls, _⟩ => hon ⟨hrot, hcls⟩)]

end

section
variable {t : State} {c g : Nat}

/-- A step instant counts as missed until a step completes. -/
def State.stepMissed (t : State) (c g : Nat) : State := t.setRo c g { t.ro c g with missed := (t.ro c g).missed + 1 }

/-- A step instant counts toward starvation, which the sixteenth missed one reports. -/
def State.stepCounted (t : State) (c g : Nat) : State :=
  (t.stepMissed c g).when (16 ≤ (t.ro c g).missed + 1 && (t.stepMissed c g).fld pgRot ROT_CLS_STAT_starved c == 0) (fun s =>
    (s.setFld pgRot ROT_CLS_STAT_starved 1 c).irq pgRot IRQ_rot_starve)

theorem State.stepCounted_eq (t : State) (c g : Nat) : t.stepCounted c g =
    if 16 ≤ (t.ro c g).missed + 1 ∧ (t.stepMissed c g).fld pgRot ROT_CLS_STAT_starved c = 0 then
      ((t.stepMissed c g).setFld pgRot ROT_CLS_STAT_starved 1 c).irq pgRot IRQ_rot_starve
    else t.stepMissed c g := by
  simp only [stepCounted, State.when, Bool.and_eq_true, decide_eq_true_eq, beq_iff_eq]

/-- A step instant starts nothing while a step runs, is deferred or is held, or without a swing. -/
abbrev State.StepHeld (u : State) (v : Rot) (c g : Nat) : Prop :=
  v.st ≠ 0 ∨ u.rotMayStart c = false ∨ u.checkHolds c = true ∨ u.swingFree c g = false

theorem State.stepHeld_iff (u : State) (v : Rot) (c g : Nat) :
    (v.st ≠ 0 ∨ !u.rotMayStart c ∨ u.checkHolds c ∨ !u.swingFree c g) ↔ u.StepHeld v c g := by
  rw [Bool.not_eq_true', Bool.not_eq_true']

section
variable {u : State} (hu : t.stepCounted c g = u)
include hu

theorem State.stepInstant_of_held (h : u.StepHeld (t.ro c g) c g) : t.stepInstant c g = u := by
  subst hu
  exact if_pos ((stepHeld_iff ..).2 h)

variable (hfree : ¬u.StepHeld (t.ro c g) c g)
include hfree

theorem State.stepInstant_of_idleBad (hbad : (t.ro c g).idleBad = true) : t.stepInstant c g = u.swingFails c g := by
  subst hu
  exact (if_neg (mt (stepHeld_iff ..).1 hfree)).trans (if_pos hbad)

theorem State.stepInstant_of_idleGood (hgood : (t.ro c g).idleBad = false) : t.stepInstant c g =
    match (u.nextUnit c g).2 with
    | some (k, asked) => (u.countPassed c g (u.nextUnit c g).1).rotStart c g k asked
    | none => u.countPassed c g (u.nextUnit c g).1 := by
  subst hu
  exact (if_neg (mt (stepHeld_iff ..).1 hfree)).trans (if_neg (Bool.eq_false_iff.1 hgood))

theorem State.stepInstant_of_none (hgood : (t.ro c g).idleBad = false) (hnone : (u.nextUnit c g).2 = none) :
    t.stepInstant c g = u.countPassed c g (u.nextUnit c g).1 := by
  rw [stepInstant_of_idleGood hu hfree hgood, hnone]

theorem State.stepInstant_of_some {k : Nat} {asked : Bool} (hgood : (t.ro c g).idleBad = false)
    (hsome : (u.nextUnit c g).2 = some (k, asked)) :
    t.stepInstant c g = (u.countPassed c g (u.nextUnit c g).1).rotStart c g k asked := by
  rw [stepInstant_of_idleGood hu hfree hgood, hsome]

end

/-- The unit at position k of a cursor is taken for a step. -/
def State.unitTaken (s : State) (c g k : Nat) (asked : Bool) : State :=
  s.putRot c g { s.ro c g with st := 1, unit := if c < 2 then 32 * g + k else k, since := s.now, taps := [],
                               cursor := if asked then (s.ro c g).cursor else k }

section
variable {k : Nat} {asked : Bool} {x : State} (hx : t.unitTaken c g k asked = x)
include hx

theorem State.rotStart_of_rx (hc : c = 0) : t.rotStart c g k asked =
    (x.setRx (32 * g + k) { x.rx (32 * g + k) with swapReq := false }).setBit (pgRxl (32 * g + k)) RXL_STAT_ho_busy true := by
  subst hx hc
  rfl

theorem State.rotStart_of_tx (hc : c = 1) : t.rotStart c g k asked =
    (x.setTx (32 * g + k) { x.tx (32 * g + k) with swapReq := false, hoFrames := 0 }).setBit (pgTxl (32 * g + k)) TXL_STAT_ho_busy
      true := by
  subst hx hc
  rfl

theorem State.rotStart_of_unit (hc : 2 ≤ c) : t.rotStart c g k asked = x := by
  subst hx
  exact (if_neg (by omega)).trans (if_neg (by omega))

end

end

/-! ### Handovers, tests and handbacks (R444 to R446, R452) -/

section
variable {s : State} {c : Fin 7} {g : Fin 16} (hlow : s.low = false) (hg : grpOk c g = true)
include hlow hg

theorem exec_rotationHandover (fail : Bool) : exec (.rotationHandover c g fail) s = .next
    (if (s.ro c g).st = 1 then if fail && 2 ≤ c.val then s.rotFail c g else s.handedOver c g (!fail) else s) := by
  show execRotationHandover c g fail s = _
  rw [execRotationHandover, if_pos hg, run_of_running _ hlow]

theorem exec_rotationHandback (fail idlePass : Bool) : exec (.rotationHandback c g fail idlePass) s = .next
    (if (s.ro c g).st = 3 then if fail && 2 ≤ c.val then s.rotFail c g else s.handedBack c g (!fail) idlePass else s) := by
  show execRotationHandback c g fail idlePass s = _
  rw [execRotationHandback, if_pos hg, run_of_running _ hlow]

theorem exec_rotationTestEnd (pass : Bool) (repair : Option W32) : exec (.rotationTestEnd c g pass repair) s = .next
    (if (s.ro c g).st = 2 ∧ (pass = true → (s.ro c g).outFrom + s.lv pgRot ROT_CLS_test c * cueSec < s.now + 16)
      then s.testEnd c g pass repair else s) := by
  have hpass {p : Prop} : (!pass) = true ∨ p ↔ pass = true → p := by
    cases pass <;> simp
  show execRotationTestEnd c g pass repair s = _
  simp only [execRotationTestEnd, if_pos hg, run_of_running _ hlow, hpass]

end

section
variable {s : State} {c g : Nat}

theorem State.handedOver_of_rx (ok : Bool) (hc : c = 0) : s.handedOver c g ok = s.rxHandover (s.ro c g).unit ok := if_pos hc

theorem State.handedOver_of_tx (ok : Bool) (hc : c = 1) : s.handedOver c g ok = s.txHandover (s.ro c g).unit ok :=
  (if_neg (by omega)).trans (if_pos hc)

theorem State.handedOver_of_plane (ok : Bool) (hc : c = 2) : s.handedOver c g ok =
    let taps := ((s.ro c g).taps ++ s.planeTaps (s.ro c g).unit 0).dedup
    let u := s.setRo c g { s.ro c g with taps := taps }
    if taps.length = 64 then u.rotOut c g else u :=
  (if_neg (by omega)).trans ((if_neg (by omega)).trans (if_pos hc))

theorem State.handedOver_of_unit (ok : Bool) (hc : 3 ≤ c) : s.handedOver c g ok =
    if s.unitInstant c (s.ro c g).unit (s.ro c g).since false then s.rotOut c g else s :=
  (if_neg (by omega)).trans ((if_neg (by omega)).trans (if_neg (by omega)))

theorem State.handedBack_of_lane (ok idlePass : Bool) (hc : c < 2) : s.handedBack c g ok idlePass =
    if s.now + 16 ≤ (s.ro c g).testEnd + s.laneFrame c (s.ro c g).unit then s
    else if ((s.handedOver c g ok).ro c g).st = 3 && !(s.handedOver c g ok).laneBusy c (s.ro c g).unit then
      (s.handedOver c g ok).stepDone c g idlePass
    else s.handedOver c g ok := if_pos hc

theorem State.handedBack_of_plane (ok idlePass : Bool) (hc : c = 2) : s.handedBack c g ok idlePass =
    let taps := (s.ro c g).taps.filter (fun t => !(s.planeTaps (s.ro c g).unit (s.ro c g).testEnd).contains t)
    let u := s.setRo c g { s.ro c g with taps := taps }
    if taps.isEmpty then u.stepDone c g idlePass else u := (if_neg (by omega)).trans (if_pos hc)

theorem State.handedBack_of_unit (ok idlePass : Bool) (hc : 3 ≤ c) : s.handedBack c g ok idlePass =
    if s.unitInstant c (s.ro c g).unit (s.ro c g).since true then s.stepDone c g idlePass else s :=
  (if_neg (by omega)).trans (if_neg (by omega))

/-- Planes and units are not taken out of turn. -/
theorem State.stepDone_of_unit (idlePass : Bool) (hc : 2 ≤ c) : s.stepDone c g idlePass = s.rotDone c g idlePass := by
  have hlane : decide (c < 2) = false := decide_eq_false (by omega)
  simp only [stepDone, hlane, Bool.false_and, Bool.false_eq_true, if_false]
  exact when_of_false _ _ (beq_false_of_ne (by omega))

/-- A lane is taken out of turn where the cursor stands elsewhere in its group. -/
theorem State.stepDone_of_lane (idlePass : Bool) {unit : Nat} (hunit : (s.ro c g).unit = unit) (hgroup : unit / 32 = g) :
    s.stepDone c g idlePass = ((s.rotDone c g idlePass).when (c == 0) (fun s => s.swingCal g)).when
      (c < 2 && (s.ro c g).cursor != unit % 32) (fun x => x.putRot c g { x.ro c g with cursor := (s.ro c g).cursor }) := by
  have hasked : (unit != 32 * g + (s.ro c g).cursor) = ((s.ro c g).cursor != unit % 32) := by
    rw [Bool.eq_iff_iff, bne_iff_ne, bne_iff_ne]
    omega
  simp only [stepDone, hunit, hasked, State.when]

end

section
variable {s : State} {c g : Nat}

/-- The repair that made a unit pass is recorded in a fuse (R452). -/
def State.fixFused (s : State) (fix : Option W32) : State :=
  match fix with
  | some e => if s.fuses.length < 128 then (s.fuseAdd e true).logRepair 0x10 [e.toNat] else s.err pgWear 0x133
  | none => s

/-- A repair is tried on the unit under test (R452). -/
def State.repairTried (s : State) (repair : Option W32) : State :=
  match repair with
  | some e => { s with spares := s.spares ++ [e] }
  | none => s

theorem State.testEnd_of_pass {u : State} (repair : Option W32) (hu : s.fixFused (s.ro c g).fix = u) :
    s.testEnd c g true repair =
      let x := u.putRot c g { s.ro c g with st := 3, testEnd := u.now, since := u.now, fix := none }
      if c = 0 then x.setBit (pgRxl (s.ro c g).unit) RXL_STAT_ho_busy true
      else if c = 1 then x.setBit (pgTxl (s.ro c g).unit) TXL_STAT_ho_busy true
      else x := by
  subst hu
  rfl

theorem State.testEnd_of_first (repair : Option W32) (h : (s.ro c g).failed = false) : s.testEnd c g false repair =
    (s.repairTried repair).putRot c g { s.ro c g with failed := true, outFrom := (s.repairTried repair).now, fix := repair } :=
  if_neg (Bool.eq_false_iff.1 h)

theorem State.testEnd_of_second (repair : Option W32) (h : (s.ro c g).failed = true) : s.testEnd c g false repair =
    (s.setRo c g { s.ro c g with fix := none }).retire c g (s.ro c g).unit := if_pos h

end

/-! ### The statement -/

/-- Settles O54: a step instant by what holds it and the unit it finds (instants count toward starvation while a step runs or is held,
log entry 85); a handover, a test's end and a handback by the class and the state of the step (log entry 21). -/
theorem rotationCommandsComplete : Obligations.RotationCommandsComplete := by
  refine ⟨?_, ?_, ?_, ?_⟩
  · intro s c g hlow hg due t v m starves u held r w starts
    have hu : t.stepCounted c g = u := State.stepCounted_eq ..
    have hexec (hdue : due) {x : State} (hx : t.stepInstant c g = x) : exec (.rotationStepInstant c g) s = .next x := by
      rw [exec_rotationStepInstant hlow hg, if_pos hdue]
      exact congrArg _ hx
    refine ⟨fun hnot => ?_, fun hdue hheld => ?_, fun hdue hfree hbad => ?_, fun hdue hfree hgood hnone => ?_,
      fun k asked hdue hfree hgood hsome => ?_⟩
    · rw [exec_rotationStepInstant hlow hg, if_neg hnot]
    · exact hexec hdue (State.stepInstant_of_held hu hheld)
    · exact hexec hdue (State.stepInstant_of_idleBad hu hfree hbad)
    · exact hexec hdue (State.stepInstant_of_none hu hfree hgood hnone)
    · have hstart := State.stepInstant_of_some hu hfree hgood hsome
      exact ⟨fun hc => hexec hdue (hstart.trans (State.rotStart_of_rx rfl hc)),
        fun hc => hexec hdue (hstart.trans (State.rotStart_of_tx rfl hc)),
        fun hc => hexec hdue (hstart.trans (State.rotStart_of_unit rfl hc))⟩
  · intro s c g fails hlow hg v taps out
    have hexec (hst : v.st = 1) (hgo : (fails && decide (2 ≤ c.val)) = false) {x : State}
        (hx : s.handedOver c g (!fails) = x) : exec (.rotationHandover c g fails) s = .next x := by
      rw [exec_rotationHandover hlow hg, if_pos hst, if_neg (Bool.eq_false_iff.1 hgo), hx]
    have hlane (hc : c.val < 2) : (fails && decide (2 ≤ c.val)) = false := by simp [hc]
    refine ⟨fun hst => ?_, fun hst hc => ?_, fun hst hc => ?_, fun hst hc hfail => ?_, fun hst hc hgood => ?_,
      fun hst hc hgood => ?_⟩
    · rw [exec_rotationHandover hlow hg, if_neg hst]
    · exact hexec hst (hlane (by omega)) (State.handedOver_of_rx _ hc)
    · exact hexec hst (hlane (by omega)) (State.handedOver_of_tx _ hc)
    · rw [exec_rotationHandover hlow hg, if_pos hst, if_pos (by simp [hfail, hc])]
      rfl
    · have hplane := State.handedOver_of_plane (s := s) (g := g) (!fails) hc
      have hgo : (fails && decide (2 ≤ c.val)) = false := by simp [hgood]
      exact ⟨fun hpart => hexec hst hgo (hplane.trans (if_neg hpart)), fun hall => hexec hst hgo (hplane.trans (if_pos hall))⟩
    · have hunit := State.handedOver_of_unit (s := s) (g := g) (!fails) hc
      have hgo : (fails && decide (2 ≤ c.val)) = false := by simp [hgood]
      exact ⟨fun hearly => hexec hst hgo (hunit.trans (if_neg (Bool.eq_false_iff.1 hearly))),
        fun hnow => hexec hst hgo (hunit.trans (if_pos hnow))⟩
  · intro s c g fails idlePass hlow hg v back u busy left w
    have hexec (hst : v.st = 3) (hgo : (fails && decide (2 ≤ c.val)) = false) {x : State}
        (hx : s.handedBack c g (!fails) idlePass = x) : exec (.rotationHandback c g fails idlePass) s = .next x := by
      rw [exec_rotationHandback hlow hg, if_pos hst, if_neg (Bool.eq_false_iff.1 hgo), hx]
    refine ⟨fun hst => ?_, fun hst hc hfail => ?_, fun hst hc hgroup => ?_, fun hst hc hgood => ?_, fun hst hc hgood => ?_⟩
    · rw [exec_rotationHandback hlow hg, if_neg hst]
    · rw [exec_rotationHandback hlow hg, if_pos hst, if_pos (by simp [hfail, hc])]
      rfl
    · have hgo : (fails && decide (2 ≤ c.val)) = false := by simp [hc]
      have hlane := State.handedBack_of_lane (s := s) (g := g) (!fails) idlePass hc
      have hover : s.handedOver c g (!fails) = u := by
        by_cases hrx : c.val = 0
        · rw [State.handedOver_of_rx _ hrx]
          exact (if_pos hrx).symm
        · rw [State.handedOver_of_tx _ (show c.val = 1 by omega)]
          exact (if_neg hrx).symm
      rw [hover] at hlane
      have hback : ((u.ro c g).st = 3 && !u.laneBusy c v.unit) = true ↔ (u.ro c g).st = 3 ∧ busy = false := by
        rw [Bool.and_eq_true, decide_eq_true_eq, Bool.not_eq_true']
        rfl
      refine ⟨fun hearly => hexec hst hgo (hlane.trans (if_pos hearly)), fun hdue => ?_⟩
      have hnow := hlane.trans (if_neg (Nat.not_le.2 hdue))
      refine ⟨fun hdone hunit => hexec hst hgo (hnow.trans ((if_pos (hback.2 hdone)).trans ?_)),
        fun hwait => hexec hst hgo (hnow.trans (if_neg (mt hback.1 hwait)))⟩
      exact State.stepDone_of_lane idlePass hunit hgroup
    · have hgo : (fails && decide (2 ≤ c.val)) = false := by simp [hgood]
      have hplane := State.handedBack_of_plane (s := s) (g := g) (!fails) idlePass hc
      refine ⟨fun hpart => hexec hst hgo (hplane.trans (if_neg (mt List.isEmpty_iff.1 hpart))),
        fun hall => hexec hst hgo (hplane.trans ((if_pos (List.isEmpty_iff.2 hall)).trans ?_))⟩
      exact State.stepDone_of_unit idlePass (by omega)
    · have hgo : (fails && decide (2 ≤ c.val)) = false := by simp [hgood]
      have hunit := State.handedBack_of_unit (s := s) (g := g) (!fails) idlePass hc
      refine ⟨fun hearly => hexec hst hgo (hunit.trans (if_neg (Bool.eq_false_iff.1 hearly))),
        fun hnow => hexec hst hgo (hunit.trans ((if_pos hnow).trans ?_))⟩
      exact State.stepDone_of_unit idlePass (by omega)
  · intro s c g pass repair hlow hg v due u x y
    rw [exec_rotationTestEnd hlow hg]
    refine ⟨fun hnot => by rw [if_neg hnot], fun hdue hpass => ?_, fun hdue hfail hfirst => ?_, fun hdue hfail hsecond => ?_⟩
    · rw [if_pos hdue, hpass, State.testEnd_of_pass repair rfl]
      rfl
    · rw [if_pos hdue, hfail, State.testEnd_of_first repair hfirst]
      rfl
    · rw [if_pos hdue, hfail, State.testEnd_of_second repair hsecond]

end Sys2Proof.Machine
end

section
/-!
Wear (R451 to R459): the wires between dies, the fuses, the core voltage, the temperatures, and the checkpoints of the wear log.
-/
namespace Sys2Proof.Machine

/-! ### Wires between dies (R451) -/

/-- One wire's part in a check of its link: its consecutive errors count, and a fourth fails it. -/
def State.wireChecked (tile : Nat) (errs : List (Bool × Nat)) (dir : Bool) (s : State) (w : Nat) : State :=
  let key := (tile * 2 + dir.toNat) * 1000 + w
  let n := if errs.contains (dir, w) then Store.get (fun _ => 0) s.wireErr key + 1 else 0
  let t := { s with wireErr := Store.put (fun _ => 0) key (if n = 4 then 0 else n) s.wireErr }
  if n = 4 then t.wireFails tile dir w else t

theorem State.wireCheck_eq (s : State) (tile : Nat) (errs : List (Bool × Nat)) : s.wireCheck tile errs =
    [false, true].foldl (fun s dir => (List.range 1000).foldl (wireChecked tile errs dir) s) s := by
  simp only [wireCheck, State.when, beq_iff_eq]
  rfl

theorem exec_d2dWireCheck {s : State} (tile : Fin 4) (errs : List (Bool × Nat)) (hlow : s.low = false) :
    exec (.d2dWireCheck tile errs) s = .next (s.wireCheck tile errs) :=
  run_of_running (fun s => s.wireCheck tile errs) hlow

/-! ### Fuses (R453) -/

theorem exec_fuseProgram {s : State} {a : Acc} {w : W32} (h : Reaches s a) (hadm : Admitted s a pgWear .wear 0 0x10C w) :
    let u := s.stored a pgWear .wear 0 0x10C w
    exec (.fuseProgram a w) s = .next
      ((if w.getLsbD 0 = true ∧ u.bit pgWear FUSE_PROG_busy = false then
        { u.setBit pgWear FUSE_PROG_busy true with fuseNow := some (u.word (pgWear + 0x108)) }
      else u).taken a) := by
  obtain ⟨hok, heff⟩ := hadm
  show execFuseProgram a w s = _
  simp only [execFuseProgram, run_of_running _ h.1, State.viaPath_of_reaches _ _ h, State.wearWrite, State.wearHook, hok, heff,
    if_true, true_and, Bool.not_eq_true']

theorem exec_fuseProgramDone_of_none {s : State} (verified : Bool) (hlow : s.low = false) (h : s.fuseNow = none) :
    exec (.fuseProgramDone verified) s = .next s := by
  show execFuseProgramDone verified s = _
  rw [execFuseProgramDone, run_of_running _ hlow, h]

theorem exec_fuseProgramDone_of_some {s : State} {e : W32} (verified : Bool) (hlow : s.low = false) (h : s.fuseNow = some e) :
    exec (.fuseProgramDone verified) s = .next (s.fuseDone e verified) := by
  show execFuseProgramDone verified s = _
  rw [execFuseProgramDone, run_of_running _ hlow, h]

/-- The fuse engine has ended its work on an entry. -/
def State.fuseIdle (s : State) : State :=
  ({ s with fuseNow := none }.setBit pgWear FUSE_PROG_busy false).irq pgWear IRQ_wear_fuse_done

section
variable {s u : State} {e : W32} (hu : s.fuseIdle = u)
include hu

theorem State.fuseDone_of_full (verified : Bool) (h : 128 ≤ u.fuses.length) :
    s.fuseDone e verified = (u.setFld pgWear FUSE_PROG_result 2).err pgWear 0x133 := by
  subst hu
  exact if_pos h

theorem State.fuseDone_of_room (verified : Bool) (h : u.fuses.length < 128) : s.fuseDone e verified =
    if verified then ((u.fuseAdd e true).setFld pgWear FUSE_PROG_result 1).logRepair 0x10 [e.toNat]
    else ((u.fuseAdd e false).setFld pgWear FUSE_PROG_result 3).err pgWear 0x133 := by
  subst hu
  exact if_neg (Nat.not_le.2 h)

end

/-! ### Core voltage (R454, R455) -/

section
variable {s : State} (hlow : s.low = false)
include hlow

theorem exec_avsEvaluate (ps : Int) (mon : Fin 96) (busOk : Bool) (mv da : Nat) : exec (.avsEvaluate ps mon busOk mv da) s =
    .next (if s.due 3 cueSec then (s.markActed 3).avsEvaluate ps mon busOk mv da else s) := by
  show execAvsEvaluate ps mon busOk mv da s = _
  rw [execAvsEvaluate, run_of_running _ hlow]
  rfl

theorem exec_ageSample (mon : Fin 96) (ps : Int) : exec (.ageSample mon ps) s = .next
    (if ps < 0 ∧ (s.lbit pgAvs AVS_CTL_en = true ∨ s.lbit pgAvs AVS_CTL_man = true) then
      if (s.irq pgAvs IRQ_avs_emergency).lbit pgAvs AVS_CTL_man then s.irq pgAvs IRQ_avs_emergency
      else (s.irq pgAvs IRQ_avs_emergency).avsRise 25
    else s) := by
  show execAgeSample mon ps s = _
  rw [execAgeSample, run_of_running _ hlow]

end

/-- The target after a rise of d mV, held to the upper limit. -/
def State.avsRaised (s : State) (d : Nat) : State :=
  let t := s.fld pgAvs AVS_TGT_mv
  let n := min (t + d) (s.lv pgAvs AVS_LIM_hi)
  if t < n then (s.setTarget n).bump pgAvs AVS_UP_n else s

theorem State.avsRise_eq (s : State) (d : Nat) : s.avsRise d =
    if s.lv pgAvs AVS_LIM_hi ≤ s.fld pgAvs AVS_TGT_mv + d then ((s.avsRaised d).irq pgAvs IRQ_avs_at_max).err pgAvs 0x134
    else s.avsRaised d := by
  simp only [avsRise, avsRaised, State.when, decide_eq_true_eq]

/-- The slack of a second and the monitor that measured it are stored (R455). -/
def State.slackStored (s : State) (ps : Int) (mon : Nat) : State :=
  (s.setFld pgAvs AGE_MARGIN_ps (ofSigned 16 ps)).setFld pgAvs AGE_MARGIN_mon mon

theorem State.avsEvaluate_eq {s u : State} {ps : Int} {mon : Nat} (busOk : Bool) (mv da : Nat) (hu : s.slackStored ps mon = u) :
    s.avsEvaluate ps mon busOk mv da =
      if u.lbit pgAvs AVS_CTL_en = true ∨ u.lbit pgAvs AVS_CTL_man = true then
        if busOk then ((u.avsLoop ps).setFld pgAvs AVS_MEAS_mv mv).setFld pgAvs AVS_MEAS_da da
        else ((u.bump pgAvs AVS_ERR_n).irq pgAvs IRQ_avs_avs_err).err pgAvs 0x135
      else u := by
  subst hu
  exact if_congr Bool.or_eq_true_iff rfl rfl

/-! ### Temperature and checkpoints (R457, R459) -/

theorem exec_temperatureRead {s : State} {temps : List Int} (hlow : s.low = false) (h : temps.length = 24) :
    exec (.temperatureRead temps) s = .next (s.temperatures temps) := by
  show execTemperatureRead temps s = _
  rw [execTemperatureRead, if_pos h, run_of_running _ hlow]

/-- The sensors' readings are stored and judged against the median of the good ones. -/
def State.sensorsRead (s : State) (temps : List Int) : State :=
  let good := (temps.zipIdx.filter (fun p => s.fld pgAvs TMP_bad p.2 == 0)).map (·.1)
  temps.zipIdx.foldl (fun s p => s.sensor p.2 p.1 (median2 good)) s

theorem State.temperatures_eq (s : State) (temps : List Int) : s.temperatures temps =
    match (s.sensorsRead temps).hottest temps with
    | some (c, k) =>
      (((s.sensorsRead temps).setFld pgAvs TMP_MAX_c (ofSigned 12 c)).setFld pgAvs TMP_MAX_s k).tmpLimits c
    | none => s.sensorsRead temps := rfl

section
variable {s u : State} {temps : List Int} (hu : s.sensorsRead temps = u)
include hu

theorem State.temperatures_of_none (h : u.hottest temps = none) : s.temperatures temps = u := by
  subst hu
  rw [temperatures_eq, h]

theorem State.temperatures_of_some {c : Int} {k : Nat} (h : u.hottest temps = some (c, k)) : s.temperatures temps =
    ((u.setFld pgAvs TMP_MAX_c (ofSigned 12 c)).setFld pgAvs TMP_MAX_s k).tmpLimits c := by
  subst hu
  rw [temperatures_eq, h]

end

theorem exec_wearCheckpoint {s : State} (hlow : s.low = false) : exec .wearCheckpoint s = .next
    (if s.hourTop < s.hours then s.checkpoint else s) :=
  run_of_running (fun s => if s.hourTop < s.hours then s.checkpoint else s) hlow

/-! ### The statement -/

/-- Settles O55: a fuse record takes its place at its end whatever the read-back says (log entry 89); the rise of 25 mV counts as one of
the loop's, and each rise at the limit reports (log entry 87). -/
theorem wearAndVoltageCommandsComplete : Obligations.WearAndVoltageCommandsComplete := by
  refine ⟨?_, ?_, ?_, ?_, ?_, ?_, ?_⟩
  · intro s tile errs hlow
    rw [exec_d2dWireCheck tile errs hlow, State.wireCheck_eq]
    rfl
  · intro s a w h hadm u starts
    rw [exec_fuseProgram h hadm]
    exact ⟨fun hgo => by rw [if_pos hgo], fun hnot => by rw [if_neg hnot]⟩
  · intro s verified hlow u
    refine ⟨exec_fuseProgramDone_of_none verified hlow, fun e hnow => ?_⟩
    rw [exec_fuseProgramDone_of_some verified hlow hnow]
    refine ⟨fun hfull => by rw [State.fuseDone_of_full rfl verified hfull]; rfl, fun hroom hgood => ?_, fun hroom hbad => ?_⟩
    · rw [State.fuseDone_of_room rfl verified hroom, if_pos hgood]
      rfl
    · rw [State.fuseDone_of_room rfl verified hroom, if_neg (Bool.eq_false_iff.1 hbad)]
      rfl
  · intro s ps mon busOk mv da hlow t u on
    rw [exec_avsEvaluate hlow, State.avsEvaluate_eq (s := s.markActed 3) (u := u) busOk mv da rfl]
    refine ⟨fun hnot => ?_, fun hdue hoff => ?_, fun hdue hon hbus => ?_, fun hdue hon hbus => ?_⟩
    · rw [if_neg (Bool.eq_false_iff.1 hnot)]
    · rw [if_pos hdue, if_neg hoff]
    · rw [if_pos hdue, if_pos hon, if_pos hbus]
    · rw [if_pos hdue, if_pos hon, if_neg (Bool.eq_false_iff.1 hbus)]
  · intro s mon ps hlow man bad u tgt top up
    rw [exec_ageSample hlow]
    refine ⟨fun hgood => by rw [if_neg hgood], fun hbad hman => by rw [if_pos hbad, if_pos hman], fun hbad hauto => ?_⟩
    rw [if_pos hbad, if_neg (Bool.eq_false_iff.1 hauto), State.avsRise_eq]
    rfl
  · intro s temps hlow hlen good u
    rw [exec_temperatureRead hlow hlen]
    exact ⟨fun c k hmax => congrArg _ (State.temperatures_of_some rfl hmax),
      fun hnone => congrArg _ (State.temperatures_of_none rfl hnone)⟩
  · intro s hlow u v
    rw [exec_wearCheckpoint hlow]
    refine ⟨fun hnot => by rw [if_neg (Nat.not_lt.2 hnot)], fun hdue hpart => ?_, fun hdue hfull => ?_⟩
    · rw [if_pos hdue]
      exact congrArg _ (if_neg hpart)
    · rw [if_pos hdue]
      exact congrArg _ (if_pos hfull)

end Sys2Proof.Machine
end

section
/-!
The periodic events of a DRAM channel (R378 to R384).
-/
namespace Sys2Proof.Machine

/-- No request to a bank waits. -/
theorem any_waits_iff (l : List DReq) (bank : Nat) :
    (!(l.any (fun q => q.issued.isNone && q.place.bank == bank))) = true ↔
      ∀ q ∈ l, q.issued.isNone = true → q.place.bank ≠ bank := by
  simp

section
variable {s : State} (ch : Fin 8) (hlow : s.low = false)
include hlow

/-! ### Row-disturb windows, refresh, temperature and drift (R380, R381, R382, R384) -/

theorem exec_rhWindowBoundary : exec (.rhWindowBoundary ch) s = .next
    (if 8192 ≤ (s.ch ch).ivals then
      (List.range 32).foldl (fun s b => s.setBank ch b { s.bank ch b with tab := [] })
        (s.setCh ch { s.ch ch with ivals := (s.ch ch).ivals - 8192 })
    else s) := by
  show execRhWindowBoundary ch s = _
  rw [execRhWindowBoundary, run_of_running _ hlow]

/-- A refresh interval of channel n has passed. -/
def State.intervalPassed (s : State) (n : Nat) : State :=
  s.setCh n { s.ch n with refFrom := (s.ch n).refFrom + s.dramInterval n, ivals := (s.ch n).ivals + 1, early := (s.ch n).early - 1 }

theorem exec_dramRefreshDue {u : State} (hu : s.intervalPassed ch = u) : exec (.dramRefreshDue ch) s = .next
    (if s.chUp ch = true ∧ (s.ch ch).refFrom + s.dramInterval ch < (s.now + 16) * 100 then
      (if 0 < (s.ch ch).early then u
      else if (s.ch ch).busy then
        if s.fld (pgDrc ch 0) DRC_STAT_owed < 4 then
          (u.setFld (pgDrc ch 0) DRC_STAT_owed (s.fld (pgDrc ch 0) DRC_STAT_owed + 1)).bump (pgDrc ch 0) DRC_POSTPONED_n
        else u.refresh ch 1
      else u.refresh ch 1).settle ch
    else s) := by
  subst hu
  show execDramRefreshDue ch s = _
  rw [execDramRefreshDue, run_of_running _ hlow]
  rfl

/-- The temperatures of the devices of channel n are polled. -/
def State.tempPolled (s : State) (n : Nat) : State := s.setCh n { s.ch n with poll := (s.ch n).poll + cueMs }

theorem exec_dramTempPoll (hot : Bool) : exec (.dramTempPoll ch hot) s = .next
    (if s.chUp ch = true ∧ (s.ch ch).poll + cueMs < s.now + 16 then
      ((s.tempPolled ch).setBit (pgDrc ch 0) DRC_STAT_hot hot).when (hot && !(s.tempPolled ch).bit (pgDrc ch 0) DRC_STAT_hot)
        (fun s => s.irq (pgDrc ch 0) IRQ_drcCtl_hot)
    else s) := by
  show execDramTempPoll ch hot s = _
  rw [execDramTempPoll, run_of_running _ hlow]
  rfl

theorem exec_dramDriftTrack (want : List Int) : exec (.dramDriftTrack ch want) s = .next
    (if s.chUp ch = true ∧ (s.ch ch).track + s.lv (pgDrc ch 1) DRC_TRK_per * cueMs < s.now + 16 then
      (s.setCh ch { s.ch ch with track := (s.ch ch).track + s.lv (pgDrc ch 1) DRC_TRK_per * cueMs }).trackPass ch want
    else s) := by
  show execDramDriftTrack ch want s = _
  rw [execDramDriftTrack, run_of_running _ hlow]

/-! ### Pages and drains (R378, R379) -/

theorem exec_pageIdleClose (bank : Fin 32) : exec (.pageIdleClose ch bank) s = .next
    (if 0 < s.lv (pgDrc ch 0) DRC_PAGE_idle ∧ (s.bank ch bank).row.isSome = true ∧
        ddrCycles (s.bank ch bank).used + s.lv (pgDrc ch 0) DRC_PAGE_idle ≤ ddrCycles s.now ∧
        ∀ q ∈ (s.ch ch).reqs, q.issued.isNone = true → q.place.bank ≠ bank then
      s.setBank ch bank { s.bank ch bank with row := none }
    else s) := by
  show execPageIdleClose ch bank s = _
  simp only [execPageIdleClose, run_of_running _ hlow, any_waits_iff]

section
variable (bank : Fin 32) {miss : Option DReq}
  (hmiss : (s.ch ch).reqs.find? (fun q => q.issued.isNone && q.place.bank == bank.val && (s.bank ch bank).row != some q.place.row) = miss)
include hmiss

theorem exec_pageStarveClose_of_none (h : (s.bank ch bank).row = none ∨ miss = none) :
    exec (.pageStarveClose ch bank) s = .next s := by
  show execPageStarveClose ch bank s = _
  simp only [execPageStarveClose, run_of_running _ hlow, hmiss]
  obtain hrow | rfl := h
  · rw [hrow]
  · cases (s.bank ch bank).row <;> rfl

theorem exec_pageStarveClose_of_some {x : Nat} {q : DReq} (hrow : (s.bank ch bank).row = some x) (hq : miss = some q) :
    exec (.pageStarveClose ch bank) s = .next
      (if ddrCycles q.upt + s.lv (pgDrc ch 0) DRC_PAGE_starve ≤ ddrCycles s.now then
        s.setBank ch bank { s.bank ch bank with row := none, want := some q.place.row }
      else s) := by
  show execPageStarveClose ch bank s = _
  simp only [execPageStarveClose, run_of_running _ hlow, hmiss, hq]
  rw [hrow]

end

section
variable {oldest : Option DReq} (holdest : (s.ch ch).reqs.find? (fun q => q.issued.isNone && opWrite q.op) = oldest)
include holdest

theorem exec_writeDrainAge_of_none (h : oldest = none) : exec (.writeDrainAge ch) s = .next s := by
  show execWriteDrainAge ch s = _
  rw [execWriteDrainAge, run_of_running _ hlow, holdest, h]

theorem exec_writeDrainAge_of_some {q : DReq} (h : oldest = some q) : exec (.writeDrainAge ch) s = .next
    (if ddrCycles q.upt + s.lv (pgDrc ch 0) DRC_WQ_age ≤ ddrCycles s.now then s.setBit (pgDrc ch 0) DRC_STAT_drain true else s) := by
  show execWriteDrainAge ch s = _
  rw [execWriteDrainAge, run_of_running _ hlow, holdest, h]

end

end

/-! ### The statement -/

/-- Settles O48: each event when it is due, and when it is not. -/
theorem dramChannelEventsComplete : Obligations.DramChannelEventsComplete := by
  refine ⟨fun s ch hlow => ?_, fun s ch hlow => ?_, fun s ch hot hlow => ?_, fun s ch bank hlow => ?_, fun s ch bank hlow => ?_,
    fun s ch hlow => ?_, fun s ch want hlow => ?_⟩
  · rw [exec_rhWindowBoundary ch hlow]
    exact ⟨fun hearly => by rw [if_neg (Nat.not_le.2 hearly)], fun hdue => by rw [if_pos hdue]⟩
  · intro c due u owed
    rw [exec_dramRefreshDue ch hlow (u := u) rfl]
    refine ⟨fun hnot => by rw [if_neg hnot], fun hdue hahead => ?_, fun hdue hnone hbusy howed => ?_, fun hdue hnone hissue => ?_⟩
    · rw [if_pos hdue, if_pos hahead]
    · rw [if_pos hdue, if_neg (show ¬0 < c.early by omega), if_pos hbusy, if_pos howed]
    · rw [if_pos hdue, if_neg (show ¬0 < c.early by omega)]
      obtain hidle | hfull := hissue
      · rw [if_neg (Bool.eq_false_iff.1 hidle)]
      · rw [if_neg (Nat.not_lt.2 hfull), ite_self]
  · intro c due u rises
    have hrise : (hot && !(s.tempPolled ch).bit (pgDrc ch 0) DRC_STAT_hot) = true ↔ rises := by
      rw [Bool.and_eq_true, Bool.not_eq_true']
      rfl
    rw [exec_dramTempPoll ch hlow]
    refine ⟨fun hnot => by rw [if_neg hnot], fun hdue hrises => ?_, fun hdue hstays => ?_⟩
    · rw [if_pos hdue, State.when_of_true _ _ (hrise.2 hrises)]
      rfl
    · rw [if_pos hdue, State.when_of_false _ _ (Bool.eq_false_iff.2 (mt hrise.1 hstays))]
      rfl
  · intro k idle due
    rw [exec_pageIdleClose ch hlow]
    exact ⟨fun hnot => by rw [if_neg hnot], fun hdue => by rw [if_pos hdue]⟩
  · intro k miss
    refine ⟨exec_pageStarveClose_of_none ch hlow bank rfl, fun x q hrow hmiss => ?_⟩
    rw [exec_pageStarveClose_of_some ch hlow bank rfl hrow hmiss]
    exact ⟨fun hold => by rw [if_pos hold], fun hnew => by rw [if_neg hnew]⟩
  · intro oldest
    refine ⟨exec_writeDrainAge_of_none ch hlow rfl, fun q hq => ?_⟩
    rw [exec_writeDrainAge_of_some ch hlow rfl hq]
    exact ⟨fun hold => by rw [if_pos hold], fun hnew => by rw [if_neg hnew]⟩
  · intro per due
    rw [exec_dramDriftTrack ch hlow]
    exact ⟨fun hnot => by rw [if_neg hnot], fun hdue => by rw [if_pos hdue]⟩

end Sys2Proof.Machine
end

section
/-!
Retirement of a DRAM device by software (R394, R396): a write that is ignored, on an armed page.
-/
namespace Sys2Proof.Machine

/-- Device 3 of channel 0 is retired, and the protection page of the channel is armed. -/
def retiredArmed : State := (State.reset.setFld (pgDrc 0 2) DPR_RETIRE_dev 3).setBit (pgDrc 0 2) PAGE_STAT_armed true

/-- A Crew core with privilege. -/
abbrev crewSupervisor : Acc := ⟨1, true⟩

theorem retiredArmed_reaches : Reaches retiredArmed crewSupervisor := by decide +kernel

/-- The state that a write of device 9 to DPR_RETIRE leaves before the register acts on it. -/
def retiredStored : State := retiredArmed.stored crewSupervisor (pgDrc 0 2) .dpr 0 0x100 9

theorem retiredStored_written : (retiredArmed.storeWord crewSupervisor (pgDrc 0 2) .dpr 0 0x100 9).ok = true ∧
    retiredStored.privileged crewSupervisor = true := by decide +kernel

theorem retiredArmed_retired : retiredArmed.fld (pgDrc 0 2) DPR_RETIRE_dev ≠ 15 := by decide +kernel

/-- The state that the statement gives an ignored write of DPR_RETIRE. -/
def retiredClaimed : State := (retiredStored.setFld (pgDrc 0 2) DPR_RETIRE_dev (retiredArmed.fld (pgDrc 0 2) DPR_RETIRE_dev)).accErr
  (pgDrc 0 2) 0x116 crewSupervisor accWrite (pgDrc 0 2 + 0x100)

/-- A write of a register of the protection page by a Crew core with privilege. -/
theorem exec_retireWrite {s : State} {a : Acc} (ch : Fin 8) (w : W32) (auto : Option (Fin 10)) (h : Reaches s a) :
    exec (.retireWrite a ch w auto) s = .next ((s.dprWrite a ch 0x100 w (auto.map (·.val))).taken a) := by
  show execRetireWrite a ch w auto s = _
  rw [execRetireWrite, run_of_running _ h.1, State.viaPath_of_reaches _ _ h]

/-- The write is ignored, and the page is armed as before. -/
theorem retiredArmed_armed_after :
    ((retiredArmed.dprWrite crewSupervisor 0 0x100 9 none).taken crewSupervisor).bit (pgDrc 0 2) PAGE_STAT_armed = true := by
  decide +kernel

/-- The store of the word alone disarms the page. -/
theorem retiredClaimed_disarmed : (retiredClaimed.taken crewSupervisor).bit (pgDrc 0 2) PAGE_STAT_armed = false := by
  decide +kernel

/-- Refutes O49: a write of DPR_RETIRE that is ignored with 0x116 leaves its page armed as it was (R59, R61), but the statement leaves it
as the store of the word did, disarmed. In `retiredArmed` the page is armed, and device 3 is retired already. -/
theorem not_retirementRepairAndScrubComplete : ¬ Obligations.RetirementRepairAndScrubComplete := by
  intro h
  obtain ⟨hretire, -⟩ := h
  obtain ⟨-, -, hignored, -⟩ := hretire retiredArmed crewSupervisor 0 9 none retiredArmed_reaches
  obtain ⟨hok, hpriv⟩ := retiredStored_written
  have hclaim : exec (.retireWrite crewSupervisor 0 9 none) retiredArmed = .next (retiredClaimed.taken crewSupervisor) :=
    hignored hok hpriv (.inl retiredArmed_retired)
  rw [exec_retireWrite 0 9 none retiredArmed_reaches] at hclaim
  have hbit := congrArg (fun s => s.bit (pgDrc 0 2) PAGE_STAT_armed) (Host.Outcome.next.inj hclaim)
  exact Bool.false_ne_true (retiredClaimed_disarmed.symm.trans (hbit.symm.trans retiredArmed_armed_after))

end Sys2Proof.Machine
end

section
/-!
On-chip memory (R401 to R403, R407): words in error as a requester and as the patrol finds them, spares, and flips.
-/
namespace Sys2Proof.Machine

/-! ### Verdicts (R401) -/

theorem State.sramVerdict_of_few (s : State) {e : Nat} (h : countOnes e ≤ 2) : s.sramVerdict e = countOnes e := if_pos h

theorem State.sramVerdict_le (s : State) (e : Nat) : s.sramVerdict e ≤ 2 := by
  by_cases h : countOnes e ≤ 2
  · rw [sramVerdict_of_few s h]
    exact h
  · rw [sramVerdict, if_neg h]
    omega

/-! ### Words in error (R401, R402) -/

section
variable {s u : State} {mac index : Nat} {wrote : Bool} (hlow : s.low = false)
  (hu : (if wrote then s.sramWrote mac index else s) = u)
include hlow hu

theorem exec_sramReadError (req access err : Nat) {v : Nat} (hv : u.sramVerdict (u.sramErr mac index ^^^ err) = v) :
    exec (.sramReadError mac index req access err wrote) s = .next
      (if v = 1 then (u.fresh.bump pgSrm SRM_CE_n).irq pgSrm IRQ_srm_ce
      else if v = 2 then u.fresh.sramBad (some access) (some req) mac index
      else u.fresh) := by
  subst hu hv
  show execSramReadError mac index req access err wrote s = _
  rw [execSramReadError, run_of_running _ hlow]
  rfl

theorem exec_sramPatrol (err : Nat) (written : Bool) {v : Nat} (hv : u.sramVerdict (u.sramErr mac index ^^^ err) = v) :
    exec (.sramPatrol mac index err wrote written) s = .next
      (if v = 1 then
        if written then (u.fresh.bump pgSrm SRM_SCRUB_CE_n).sramWrote mac index
        else (u.fresh.bump pgSrm SRM_SCRUB_CE_n).setSramErr mac index 0
      else if v = 2 then u.fresh.sramBad (some accScrub) none mac index
      else u.fresh) := by
  subst hu hv
  show execSramPatrol mac index err wrote written s = _
  rw [execSramPatrol, run_of_running _ hlow]
  rfl

end

/-! ### Spares and flips (R403, R407) -/

section
variable {s : State} {a : Acc} {w : W32}

theorem exec_sramRepairApply (oos : Bool) (h : Reaches s a) (hadm : Admitted s a pgSrm .srm 0 0x114 w) :
    let u := s.stored a pgSrm .srm 0 0x114 w
    exec (.sramRepairApply a w oos) s = .next ((if w.getLsbD 0 then u.sramRepair oos else u).taken a) := by
  obtain ⟨hok, heff⟩ := hadm
  have hother : (0x114 == 0x100) = false := by decide
  show execSramRepairApply a w oos s = _
  simp only [execSramRepairApply, run_of_running _ h.1, State.viaPath_of_reaches _ _ h, State.srmWrite, hok, heff, hother,
    Bool.and_false, Bool.false_and, Bool.false_eq_true, if_false, beq_self_eq_true, Bool.true_and]

theorem exec_sramFlipArm (h : Reaches s a) (hadm : Admitted s a pgSrm .srm 0 0x100 w) :
    let u := s.stored a pgSrm .srm 0 0x100 w
    exec (.sramFlipArm a w) s = .next ((if w.getLsbD 16 then u.sramArm else u).taken a) := by
  obtain ⟨hok, heff⟩ := hadm
  have hother : (0x100 == 0x114) = false := by decide
  show execSramFlipArm a w s = _
  simp only [execSramFlipArm, run_of_running _ h.1, State.viaPath_of_reaches _ _ h, State.srmWrite, hok, heff, hother,
    Bool.and_false, Bool.false_and, Bool.false_eq_true, if_false, beq_self_eq_true, Bool.true_and]

theorem State.sramRepair_of_inService (s : State) : s.sramRepair false = s := rfl

theorem State.sramRepair_of_outOfService (s : State) : s.sramRepair true =
    if (s.word (pgSrm + 0x110)).getLsbD 31 && Config.spareExists (s.word (pgSrm + 0x110)) then
      { s with spares := s.spares ++ [s.word (pgSrm + 0x110)] }
    else s.err pgSrm 0x121 := rfl

end

/-! ### The statement -/

/-- Settles O50: a word by its verdict, which is the count of its bits in error where that is at most two (log entry 80). -/
theorem onChipMemoryCommandsComplete : Obligations.OnChipMemoryCommandsComplete := by
  refine ⟨fun s mac index req access err wrote hlow => ?_, fun s mac index err wrote written hlow => ?_, fun s e => ?_,
    fun s a w out_ h hadm => ?_, fun s a w h hadm => ?_⟩
  · intro u v
    rw [exec_sramReadError hlow (u := u) rfl req access err (v := v) rfl]
    refine ⟨fun hv => ?_, fun hv => ?_, fun hv => ?_⟩
    · rw [if_neg (by omega), if_neg (by omega)]
    · rw [if_pos hv]
    · rw [if_neg (by omega), if_pos hv]
      rfl
  · intro u v c
    rw [exec_sramPatrol hlow (u := u) rfl err written (v := v) rfl]
    refine ⟨fun hv => ?_, fun hv hwritten => ?_, fun hv hkept => ?_, fun hv => ?_⟩
    · rw [if_neg (by omega), if_neg (by omega)]
    · rw [if_pos hv, if_pos hwritten]
    · rw [if_pos hv, if_neg (Bool.eq_false_iff.1 hkept)]
    · rw [if_neg (by omega), if_pos hv]
      rfl
  · exact ⟨s.sramVerdict_le e, s.sramVerdict_of_few⟩
  · intro u e there
    have hthere : (e.getLsbD 31 && Config.spareExists e) = true ↔ there := Bool.and_eq_true_iff
    rw [exec_sramRepairApply out_ h hadm]
    refine ⟨fun hnot => ?_, fun hgo hout ht => ?_, fun hgo hout ht => ?_⟩
    · obtain hidle | hin := hnot
      · rw [if_neg (Bool.eq_false_iff.1 hidle)]
      · rw [hin, State.sramRepair_of_inService, ite_self]
    · rw [if_pos hgo, hout, State.sramRepair_of_outOfService, if_pos (hthere.2 ht)]
    · rw [if_pos hgo, hout, State.sramRepair_of_outOfService, if_neg (mt hthere.1 ht)]
  · intro u mask
    rw [exec_sramFlipArm h hadm]
    refine ⟨fun hnot => by rw [if_neg (Bool.eq_false_iff.1 hnot)], fun harm => ?_⟩
    rw [if_pos harm]
    rfl

end Sys2Proof.Machine
end

section
/-!
Requests to DRAM (R374 to R377, R385, R393, R416, R418) and the return of read data (R390 to R392, R400).
-/
namespace Sys2Proof.Machine

/-! ### Requests (R375, R416, R418) -/

section
variable {s : State} {req addr : Nat} {op : DramOp} (noise : List (Nat × Nat)) (k : Nat) (hlow : s.low = false)
  (hok : dramRequestOk req addr op = true) (hissues : s.issues req = true)
include hlow hok hissues

theorem exec_dramRequest : exec (.dramRequest req addr op noise k) s = .next (s.catRequest req addr op noise k) := by
  show execDramRequest req addr op noise k s = _
  rw [execDramRequest, if_pos hok, run_of_running _ hlow, if_pos hissues]

theorem exec_dramRequest_of_draining (hreq : req < 32) (hdrain : (s.fld pgCat CAT_STAT_drain).testBit req = true) :
    exec (.dramRequest req addr op noise k) s = .next { s with catHeld := s.catHeld ++ [⟨req, addr, op, noise, k⟩] } := by
  rw [exec_dramRequest noise k hlow hok hissues, State.catRequest, if_pos ⟨hreq, hdrain⟩]

theorem exec_dramRequest_of_open (hdrain : req < 32 → (s.fld pgCat CAT_STAT_drain).testBit req = false)
    (hlink : req = hostMaster → s.bit pgPcie PCIE_STAT_up = true) :
    exec (.dramRequest req addr op noise k) s = .next (s.dramRequest req addr op noise k) := by
  have hopen : ¬(req < 32 ∧ (s.fld pgCat CAT_STAT_drain).testBit req = true) :=
    fun ⟨hreq, h⟩ => Bool.false_ne_true ((hdrain hreq).symm.trans h)
  have hup : ¬(req = hostMaster ∧ (!s.bit pgPcie PCIE_STAT_up) = true) := fun ⟨hhost, h⟩ => by simp [hlink hhost] at h
  rw [exec_dramRequest noise k hlow hok hissues, State.catRequest, if_neg hopen, if_neg hup]

end

/-! ### The granules of a request (R374, R416) -/

/-- The errors that a part of a request meets. -/
def noiseOf (noise : List (Nat × Nat)) (i : Nat) : List (Nat × Nat) :=
  noise.filterMap (fun e => if e.1 / 8 == i then some (e.1 % 8, e.2) else none)

/-- A request of a Catwalk master that spans more than 16 beats counts as split. -/
def State.splitCounted (s : State) (req addr : Nat) (op : DramOp) : State :=
  if isMedia req = false ∧ 16 < beatsOf addr (opLen op) then s.bump pgCat CAT_SPLIT_n else s

theorem State.dramRequest_eq (s : State) (req addr : Nat) (op : DramOp) (noise : List (Nat × Nat)) (k : Nat) :
    s.dramRequest req addr op noise k = (granuleParts 9 addr op).zipIdx.foldl
      (fun x p => x.granuleRequest req p.1.1 p.1.2 (noiseOf noise p.2) k) (s.splitCounted req addr op) := by
  have hsplit : s.when (!isMedia req && 16 < beatsOf addr (opLen op)) (fun s => s.bump pgCat CAT_SPLIT_n) =
      s.splitCounted req addr op := by
    simp only [State.when, splitCounted, Bool.and_eq_true, Bool.not_eq_true', decide_eq_true_eq]
  rw [← hsplit]
  rfl

section
variable {addr : Nat} {op : DramOp} (h : addr % 128 + opLen op ≤ 128)
include h

theorem granuleParts_of_within (fuel : Nat) : granuleParts (fuel + 1) addr op = [(addr, op)] := by
  cases op with
  | read n f => exact if_pos (show n ≤ 128 - addr % 128 by simp only [opLen] at h; omega)
  | write d => exact if_pos (show d.length ≤ 128 - addr % 128 by simp only [opLen] at h; omega)
  | atomic o d => rfl

theorem beatsOf_le_of_within : beatsOf addr (opLen op) ≤ 16 := by
  rw [beatsOf]
  split <;> omega

theorem State.dramRequest_of_within (s : State) (req : Nat) (noise : List (Nat × Nat)) (k : Nat) :
    s.dramRequest req addr op noise k = s.granuleRequest req addr op (noiseOf noise 0) k := by
  have hwhole : s.splitCounted req addr op = s := if_neg (fun hsplit => by have := beatsOf_le_of_within h; omega)
  rw [dramRequest_eq, granuleParts_of_within h, hwhole]
  rfl

end

/-! ### A request for one granule (R374, R376, R385, R393) -/

section
variable {s : State} {req addr : Nat} {op : DramOp} {n : Nat} (noise : List (Nat × Nat)) (k : Nat)

/-- The state with the sequence number of a request taken. -/
def State.seqTaken (s : State) : State := { s with dseq := s.dseq + 1 }

/-- The request numbered seq is answered. -/
def State.requestAnswered (s : State) (seq req : Nat) (kind : RespKind) : State :=
  ({ s with acks := s.acks ++ [⟨seq, req, kind, []⟩] } : State).deliverAll

theorem State.granuleRequest_of_null (hnull : opNull op = true) :
    s.granuleRequest req addr op noise k = s.seqTaken.requestAnswered s.dseq req .ok := if_pos hnull

variable (hop : opNull op = false)
include hop

theorem State.granuleRequest_of_beyond (hsize : s.dramSize ≤ addr) : s.granuleRequest req addr op noise k =
    (s.seqTaken.capture pgDrcG 0x103 (accOf req op) req addr).requestAnswered s.dseq req
      (if req = hostMaster then .completerAbort else .busError) := by
  refine (if_neg (Bool.eq_false_iff.1 hop)).trans ((if_pos hsize).trans ?_)
  simp only [failReq, and_true]
  rfl

variable (hsize : addr < s.dramSize) (hn : (placeOf addr).ch = n)
include hsize hn

theorem State.granuleRequest_of_down (hdown : s.seqTaken.chUp n = false) : s.granuleRequest req addr op noise k =
    (s.seqTaken.chRefused n req (accOf req op) addr).requestAnswered s.dseq req .busError := by
  subst hn
  refine (if_neg (Bool.eq_false_iff.1 hop)).trans ((if_neg (Nat.not_le.2 hsize)).trans ((if_pos ?_).trans ?_))
  · exact (Bool.not_eq_true' _).mpr hdown
  · simp only [unavailable, failReq, Bool.false_eq_true, and_false, if_false]
    rfl

theorem State.granuleRequest_of_up (hup : s.seqTaken.chUp n = true) {q : DReq}
    (hq : { seq := s.dseq, req := req, addr := addr, op := op, upt := s.now, noise := noise } = q) :
    s.granuleRequest req addr op noise k =
      if s.seqTaken.room n req && !((s.seqTaken.ch n).waits.any (fun e => e.req == req)) then (s.seqTaken.enter n q).work n k
      else (s.seqTaken.setCh n { s.seqTaken.ch n with waits := (s.seqTaken.ch n).waits ++ [q] }).work n k := by
  subst hn hq
  refine (if_neg (Bool.eq_false_iff.1 hop)).trans ((if_neg (Nat.not_le.2 hsize)).trans (if_neg ?_))
  exact fun hdown => Bool.false_ne_true (((Bool.not_eq_true' _).mp hdown).symm.trans hup)

end

/-! ### Read data (R390 to R392, R400) -/

theorem exec_dramReadComplete {s : State} (ch : Fin 8) (noise : List (Nat × Nat)) (k : Nat) (hlow : s.low = false) :
    exec (.dramReadComplete ch noise k) s = .next (s.readDone ch noise k) :=
  run_of_running (fun s => s.readDone ch noise k) hlow

theorem State.readDone_of_none {s : State} {n : Nat} (noise : List (Nat × Nat)) (k : Nat) (h : s.nextRead n = none) :
    s.readDone n noise k = s := by
  rw [readDone, h]

/-- The error patterns of a granule's codewords as they are read, with those met on the way. -/
def errsRead (errs : List Nat) (noise : List (Nat × Nat)) : List Nat :=
  errs.mapIdx (fun c e => (noise.filter (fun p => p.1 == c)).foldl (fun e p => e ^^^ (p.2 % 2 ^ 160)) e)

/-- A request has left its channel. -/
def State.requestOut (s : State) (n : Nat) (q : DReq) : State :=
  s.setCh n { s.ch n with reqs := (s.ch n).reqs.filter (fun e => e.seq != q.seq) }

/-- A read ends with its granule decoded. -/
def State.readEnded (s : State) (n : Nat) (q : DReq) (g : GrResult) : State :=
  if q.req = 0xE0 then s.scrubbed n q g
  else if g.bad then s.uncorrectable n q
  else (s.noteCorrected n q.req q.addr g).reply q .ok ((g.data.drop (q.addr % 128)).take (opLen q.op))

theorem State.readDone_of_some {s : State} {n dev : Nat} {q : DReq} {data : List Byte} {errs : List Nat}
    (noise : List (Nat × Nat)) (k : Nat) (hnext : s.nextRead n = some q) (hissued : q.issued = some (dev, data, errs)) :
    s.readDone n noise k = ((s.requestOut n q).readEnded n q (decodeGranule dev data (errsRead errs noise))).work n k := by
  rw [readDone, hnext]
  dsimp only
  rw [hissued]
  rfl

section
variable {s : State} {n : Nat} {q : DReq} {g : GrResult}

theorem State.readEnded_of_scrub (h : q.req = 0xE0) : s.readEnded n q g = s.scrubbed n q g := if_pos h

theorem State.readEnded_of_bad (h : q.req ≠ 0xE0) (hbad : g.bad = true) : s.readEnded n q g = s.uncorrectable n q :=
  (if_neg h).trans (if_pos hbad)

theorem State.readEnded_of_good (h : q.req ≠ 0xE0) (hgood : g.bad = false) : s.readEnded n q g =
    (s.noteCorrected n q.req q.addr g).reply q .ok ((g.data.drop (q.addr % 128)).take (opLen q.op)) :=
  (if_neg h).trans (if_neg (Bool.eq_false_iff.1 hgood))

theorem State.reply_of_kept (kind : RespKind) (data : List Byte) (h : q.discard = false) :
    s.reply q kind data = { s with acks := s.acks ++ [⟨q.seq, q.req, kind, data⟩] } := if_neg (Bool.eq_false_iff.1 h)

theorem State.reply_of_discarded (kind : RespKind) (data : List Byte) (h : q.discard = true) : s.reply q kind data = s := if_pos h

theorem State.uncorrectable_of_kept (h : q.discard = false) : s.uncorrectable n q =
    { s.ueSeen n q.req (accOf q.req q.op) q.addr with
      acks := (s.ueSeen n q.req (accOf q.req q.op) q.addr).acks ++
        [⟨q.seq, q.req, if q.req = hostMaster then .completerAbort else .busError, []⟩] } := by
  simp only [uncorrectable, failReq, and_true, reply_of_kept _ _ h]

end

/-! ### Granules written whole (R393) -/

theorem State.setErr_dram (s : State) (addr c e : Nat) : (s.setErr addr c e).dram = s.dram := rfl

theorem State.foldl_setErr_dram (addr e : Nat) (l : List Nat) (s : State) :
    (l.foldl (fun s c => s.setErr addr c e) s).dram = s.dram := by
  induction l generalizing s with
  | nil => rfl
  | cons c l ih => exact ih _

theorem State.putGranule_dram (s : State) (addr : Nat) (data : List Byte) :
    (s.putGranule addr data).dram = Memory.writeAll s.dram (granuleOf addr) data := foldl_setErr_dram ..

/-! ### The statement -/

/-- Settles O47: a request by its granules, and one within a granule by what its channel can take; a read by its requester and by what
its granule decodes to. -/
theorem dramRequestsAndReadsComplete : Obligations.DramRequestsAndReadsComplete := by
  refine ⟨fun s req addr op noise k hlow hok hissues => ?_, fun s ch noise k hlow => ?_, fun s addr x data hlen => ?_⟩
  · refine ⟨exec_dramRequest_of_draining noise k hlow hok hissues, fun hdrain hlink hwithin => ?_, fun hdrain hlink => ?_⟩
    · intro n mine q u done
      rw [exec_dramRequest_of_open noise k hlow hok hissues hdrain hlink, State.dramRequest_of_within hwithin]
      refine ⟨fun hnull => ?_, fun hop hsize => ?_, fun hop hsize hdown => ?_, fun hop hsize hup => ?_⟩
      · exact congrArg _ (State.granuleRequest_of_null _ k hnull)
      · exact congrArg _ (State.granuleRequest_of_beyond _ k hop hsize)
      · exact congrArg _ (State.granuleRequest_of_down _ k hop hsize rfl hdown)
      · intro enters
        have henters : (u.room n req && !((u.ch n).waits.any (fun e => e.req == req))) = true ↔ enters := by
          simp [enters]
        have hgranule := State.granuleRequest_of_up mine k hop hsize rfl hup (q := q) rfl
        exact ⟨fun hin => congrArg _ (hgranule.trans (if_pos (henters.2 hin))),
          fun hout => congrArg _ (hgranule.trans (if_neg (mt henters.1 hout)))⟩
    · intro v
      rw [exec_dramRequest_of_open noise k hlow hok hissues hdrain hlink, State.dramRequest_eq]
      rfl
  · refine ⟨fun hnone => ?_, fun q dev data errs hnext hissued => ?_⟩
    · rw [exec_dramReadComplete ch noise k hlow, State.readDone_of_none noise k hnone]
    intro errs' g u
    have hexec {v : State} (hv : u.readEnded ch q g = v) : exec (.dramReadComplete ch noise k) s = .next (v.work ch k) := by
      rw [exec_dramReadComplete ch noise k hlow, State.readDone_of_some noise k hnext hissued]
      exact congrArg (fun x => Host.Outcome.next (State.work x ch k)) hv
    refine ⟨fun hscrub => hexec (State.readEnded_of_scrub hscrub), fun hreq hbad hkept => ?_, fun hreq hgood hkept => ?_,
      fun hreq hgood hgone => ?_⟩
    · exact hexec ((State.readEnded_of_bad hreq hbad).trans (State.uncorrectable_of_kept hkept))
    · exact hexec ((State.readEnded_of_good hreq hgood).trans (State.reply_of_kept _ _ hkept))
    · exact hexec ((State.readEnded_of_good hreq hgood).trans (State.reply_of_discarded _ _ hgone))
  · rw [State.putGranule_dram, Memory.read_writeAll, hlen]

end Sys2Proof.Machine
end

section
/-!
The Stage Manager's commands (R472, R475, R481 to R488, R493).
-/
namespace Sys2Proof.Machine

/-! ### The word of a command (R475) -/

theorem getBits_code {code page : Nat} (hpage : page < 2 ^ 24) (hcode : code < 256) :
    getBits (BitVec.ofNat 32 (code * 2 ^ 24 + page)) 24 8 = code := by
  simp only [getBits, BitVec.toNat_ushiftRight, BitVec.toNat_ofNat, Nat.shiftRight_eq_div_pow]
  omega

theorem getBits_page {code page : Nat} (hpage : page < 2 ^ 24) :
    getBits (BitVec.ofNat 32 (code * 2 ^ 24 + page)) 0 24 = page := by
  simp only [getBits, BitVec.toNat_ushiftRight, BitVec.toNat_ofNat, Nat.shiftRight_eq_div_pow]
  omega

/-- A command whose word waits is carried out on its request block, where its code is meant. -/
theorem State.command_posted {s t : State} {code page : Nat} (codes : Nat → Bool) (n p : Nat) (f : State → Nat → State)
    (htake : s.takeWord = (t, some (BitVec.ofNat 32 (code * 2 ^ 24 + page)))) (hpage : page < 2 ^ 24) (hcode : code < 256) :
    s.command .posted codes n p f = if codes code then f t (page * 4096) else s := by
  simp only [command, htake, getBits_code hpage hcode, getBits_page hpage]

/-- A command written to the doorbell or to UPD_CMD is the command that waits after the write. -/
theorem run_command_sent {s u : State} {a : Acc} {src : CmdSrc} (codes : Nat → Bool) {code page : Nat}
    (f : State → Nat → State) (hlow : s.low = false) (hulow : u.low = false)
    (hsrc : src = .doorbell a ∧
        u = s.viaPath a (pgPrc + 0x120) (fun s => s.smdbWrite a (BitVec.ofNat 32 (code * 2 ^ 24 + page % 2 ^ 24))) ∨
      src = .update a ∧
        u = s.viaPath a (pgUpd + 0x100) fun s => s.updCmdWrite a (BitVec.ofNat 32 (code * 2 ^ 24 + page % 2 ^ 24))) :
    (run s fun s => s.command src codes code page f) = run u fun u => u.command .posted codes code page f := by
  rw [run_of_running _ hlow, run_of_running _ hulow]
  obtain ⟨rfl, rfl⟩ | ⟨rfl, rfl⟩ := hsrc <;> rfl

section
variable {s t : State} {code page : Nat} (hlow : s.low = false)
  (htake : s.takeWord = (t, some (BitVec.ofNat 32 (code * 2 ^ 24 + page)))) (hpage : page < 2 ^ 24) (hcode : code < 256)
include hlow htake hpage hcode

/-- A command that runs f for one code of the Stage Manager, whose word waits with that code. -/
theorem run_command_posted {n : Nat} (f : State → Nat → State) (h : code = n) :
    (run s fun s => s.command .posted (· == n) n page f) = .next (f t (page * 4096)) := by
  rw [run_of_running _ hlow, State.command_posted _ _ _ _ htake hpage hcode, if_pos (beq_iff_eq.2 h)]

theorem exec_unknownCommand_posted {c : Fin 256} (hword : knownCode code = false) (h : knownCode c = false) :
    exec (.unknownCommand .posted c page) s = .next (t.setFld pgLcy LCY_RESP_res 6) := by
  show execUnknownCommand .posted c page s = _
  rw [execUnknownCommand, run_of_running _ hlow, if_neg (Bool.eq_false_iff.1 h),
    State.command_posted _ _ _ _ htake hpage hcode, if_pos (by rw [hword]; rfl)]

end

theorem exec_unknownCommand_of_known {s : State} (src : CmdSrc) {c : Fin 256} (page : Nat) (hlow : s.low = false)
    (h : knownCode c = true) : exec (.unknownCommand src c page) s = .next s := by
  show execUnknownCommand src c page s = _
  rw [execUnknownCommand, run_of_running _ hlow, if_pos h]

/-! ### Stage (R482) -/

section
variable {t : State} {b k : Nat} {m : Image} (hfree : t.updBusy = none)
  (hm : (fun o => Memory.read t.dram (t.loadLE b 8 + o)) = m) (hk : (m 4).toNat = k)

theorem State.stage_of_busy {r : Nat} (written : Bool) (h : t.updBusy = some r) : t.stage b written = t.updRefuse 0x10 r := by
  rw [stage, h]

include hfree hm hk

theorem State.stage_of_bad (written : Bool)
    (h : ¬(1 ≤ k ∧ k ≤ 3 ∧ t.imagePasses m k (min (t.loadLE (b + 8) 4) (slotRoom k)) = true)) :
    t.stage b written = (t.updRefuse 0x10 2).err pgUpd 0x150 := by
  have hbad : (!decide (1 ≤ k ∧ k ≤ 3)) = true ∨ (!t.imagePasses m k (min (t.loadLE (b + 8) 4) (slotRoom k))) = true := by
    by_contra hno
    simp only [not_or, Bool.not_eq_true', Bool.not_eq_false, decide_eq_true_eq] at hno
    obtain ⟨⟨hmin, hmax⟩, hpass⟩ := hno
    exact h ⟨hmin, hmax, hpass⟩
  subst hm hk
  rw [stage, hfree]
  exact if_pos hbad

variable (hgood : 1 ≤ k ∧ k ≤ 3 ∧ t.imagePasses m k (min (t.loadLE (b + 8) 4) (slotRoom k)) = true)
include hgood

theorem State.stage_of_good (written : Bool) : t.stage b written =
    if !t.compatible m k then (t.updRefuse 0x10 3).err pgUpd 0x161
    else
      let i := t.otherSlot k
      let body := m.bytes 0 (512 + m.num 32 4)
      let w := { t with flash := flashStore (flashErase t.flash (slotBase k i) (slotSize k)) (slotBase k i) body }
      if written then
        let seq := match w.runSlot k with | some r => (w.slot k r).seq + 1 | none => 1
        ((w.setSlot k i { st := 1, seq := seq }).respond 0x10 1).irq pgUpd IRQ_upd_staged
      else (w.setSlot k i {}).updRefuse 0x10 2 := by
  subst hm hk
  obtain ⟨hmin, hmax, hpass⟩ := hgood
  rw [stage, hfree]
  refine (if_neg ?_).trans rfl
  simp [hmin, hmax, hpass]

end

/-! ### Activate and schedule (R484, R487) -/

section
variable {t : State} {b : Nat}

theorem State.activate11_of_busy {r : Nat} (h : t.updBusy = some r) : t.activate11 b = t.updRefuse 0x11 r := by
  rw [activate11, h]

theorem State.schedule_of_busy {r : Nat} (h : t.updBusy = some r) : t.schedule b = t.updRefuse 0x12 r := by
  rw [schedule, h]

variable (hfree : t.updBusy = none)
include hfree

theorem State.activate11_of_none {k : Nat} (hk : t.loadLE b 1 = k) (h : (if k = 1 ∨ k = 3 then t.freshSlot k else none) = none) :
    t.activate11 b = t.updRefuse 0x11 8 := by
  subst hk
  simp only [activate11, hfree, h]

theorem State.activate11_of_some {k i : Nat} (hk : t.loadLE b 1 = k)
    (h : (if k = 1 ∨ k = 3 then t.freshSlot k else none) = some i) : t.activate11 b =
      if !t.compatible (t.image k i) k then (t.updRefuse 0x11 3).err pgUpd 0x161
      else
        let u := (t.trialStart k i).respond 0x11 1
        if k = 3 ∧ (u.role = roleJoining ∨ u.role = roleUnderstudy ∨ u.role = roleYielded) then
          { u with upd := { u.upd with held := true } }
        else u.activated k := by
  subst hk
  simp only [activate11, hfree, h]

theorem State.schedule_of_not_held (h : t.held = false) : t.schedule b = t.updRefuse 0x12 4 := by
  simp only [schedule, hfree, h, Bool.not_false, if_true]

variable (hheld : t.held = true)
include hheld

theorem State.schedule_of_none (h : t.freshSlot 2 = none) : t.schedule b = t.updRefuse 0x12 8 := by
  simp only [schedule, hfree, hheld, h, Bool.not_true, Bool.false_eq_true, if_false]

theorem State.schedule_of_some {i : Nat} (h : t.freshSlot 2 = some i) : t.schedule b =
    let x := t.loadLE (b + 8) 8
    let target := t.loadLE b 6 * cueSec + x % 2 ^ 34 + (if x / 2 ^ 34 = 0 then 0 else 1)
    if target < t.todCues + cueSec then t.updRefuse 0x12 5
    else
      { (t.setBit pgUpd UPD_STAT_sched true).respond 0x12 1 with
          classM := true, upd := { t.upd with cls := 2, slot := i, target := target } } := by
  simp only [schedule, hfree, hheld, h, Bool.not_true, Bool.false_eq_true, if_false]

end

/-! ### Settings (R493) -/

section
variable {t : State} {b : Nat} (hlive : t.lcy ≠ 4) (hwipe : t.bit pgLcy LCY_STATE_wiping = false)
include hlive hwipe

theorem State.writeSettings_of_unfit (h : ¬(t.loadLE (b + 8) 4 ≤ setBankSize ∧ t.inDram (t.loadLE b 8) (t.loadLE (b + 8) 4) = true)) :
    t.writeSettings b = ((t.respond 0x15 (t.free64.toNat % 16)).fresh).err pgUpd 0x162 := by
  have hbad : setBankSize < t.loadLE (b + 8) 4 ∨ (!t.inDram (t.loadLE b 8) (t.loadLE (b + 8) 4)) = true := by
    by_contra hno
    simp only [not_or, Nat.not_lt, Bool.not_eq_true', Bool.not_eq_false] at hno
    exact h hno
  rw [writeSettings, if_neg hlive, if_neg (Bool.eq_false_iff.1 hwipe)]
  exact if_pos hbad

theorem State.writeSettings_of_fits (h : t.loadLE (b + 8) 4 ≤ setBankSize ∧ t.inDram (t.loadLE b 8) (t.loadLE (b + 8) 4) = true) :
    t.writeSettings b =
      let bank := match t.upd.setKeep with
        | some k => 1 - k
        | none => match t.upd.setBank with | some 0 => 1 | _ => 0
      let keep := if t.fld pgUpd UPD_STAT_trial = 3 then (if t.upd.setKeep.isSome then t.upd.setKeep else t.upd.setBank) else none
      ({ t with
          flash := flashStore (flashErase t.flash (setBankBase bank) setBankSize) (setBankBase bank)
            (t.load (t.loadLE b 8) (t.loadLE (b + 8) 4)),
          upd := { t.upd with setBank := some bank, setSeq := t.upd.setSeq + 1, setKeep := keep } } : State).respond 0x15 1 := by
  obtain ⟨hlen, hin⟩ := h
  rw [writeSettings, if_neg hlive, if_neg (Bool.eq_false_iff.1 hwipe)]
  exact if_neg (by simp [hin, Nat.not_lt.2 hlen])

end

/-! ### Lifecycle requests (R472) -/

section
variable {t : State} {b tgt : Nat} (steps : Nat) (htgt : t.loadLE b 1 = tgt)

theorem State.lifecycle_of_busy (h : t.lcyBusy = true) : t.lifecycle b steps = t.lcyRefuse 5 := if_pos h

variable (hfree : t.lcyBusy = false)
include htgt hfree

theorem State.lifecycle_of_not_allowed (h : lcyAllowed t.lcy tgt = false) : t.lifecycle b steps = t.lcyRefuse 4 := by
  subst htgt
  exact (if_neg (Bool.eq_false_iff.1 hfree)).trans (if_pos (by rw [h]; rfl))

variable (hallow : lcyAllowed t.lcy tgt = true)
include hallow

theorem State.lifecycle_of_allowed : t.lifecycle b steps =
    if t.load (b + 16) 16 ≠ t.uid ∨ t.loadLE (b + 32) 8 ≠ t.fld64 pgLcy LCY_NONCE_lo LCY_NONCE_hi then t.lcyRefuse 3
    else if !t.lcySigned t.lcy tgt b then t.lcyRefuse 2
    else t.lcyMove tgt steps (if tgt = 1 then some (t.load (b + 48) 48) else none) := by
  subst htgt
  exact (if_neg (Bool.eq_false_iff.1 hfree)).trans (if_neg (by simp [hallow]))

theorem State.lifecycle_of_unknown
    (h : ¬(t.load (b + 16) 16 = t.uid ∧ t.loadLE (b + 32) 8 = t.fld64 pgLcy LCY_NONCE_lo LCY_NONCE_hi)) :
    t.lifecycle b steps = t.lcyRefuse 3 :=
  (lifecycle_of_allowed steps htgt hfree hallow).trans (if_pos (not_and_or.1 h))

theorem State.lifecycle_of_known
    (h : t.load (b + 16) 16 = t.uid ∧ t.loadLE (b + 32) 8 = t.fld64 pgLcy LCY_NONCE_lo LCY_NONCE_hi) :
    t.lifecycle b steps = if !t.lcySigned t.lcy tgt b then t.lcyRefuse 2
      else t.lcyMove tgt steps (if tgt = 1 then some (t.load (b + 48) 48) else none) :=
  (lifecycle_of_allowed steps htgt hfree hallow).trans (if_neg (by simp [h]))

end

/-! ### The statement -/

/-- Settles O56: the order of refusals is that of log entry 95, a failed read-back gives result 2 alone (log entry 185), and settings that
do not fit answer a free value (log entry 94). -/
theorem commandsToTheStageManagerComplete : Obligations.CommandsToTheStageManagerComplete := by
  refine ⟨?_, ?_, ?_, ?_, ?_⟩
  · intro s code page t hlow htake hpage hcode b m k room good i body w seq
    have hrun := fun (written : Bool) => run_command_posted hlow htake hpage hcode (n := 0x10) (fun s b => s.stage b written)
    refine ⟨fun r written hc hbusy => (hrun written hc).trans (congrArg _ (State.stage_of_busy written hbusy)),
      fun written hc hfree hbad => (hrun written hc).trans (congrArg _ (State.stage_of_bad hfree rfl rfl written hbad)),
      fun written hc hfree hgood hcomp => ?_, fun hc hfree hgood hcomp => ?_, fun hc hfree hgood hcomp => ?_⟩
    · refine (hrun written hc).trans (congrArg _ ((State.stage_of_good hfree rfl rfl hgood written).trans (if_pos ?_)))
      rw [hcomp]; rfl
    · refine (hrun true hc).trans (congrArg _ ((State.stage_of_good hfree rfl rfl hgood true).trans
        ((if_neg ?_).trans (if_pos rfl))))
      rw [hcomp]; decide
    · refine (hrun false hc).trans (congrArg _ ((State.stage_of_good hfree rfl rfl hgood false).trans
        ((if_neg ?_).trans (if_neg Bool.false_ne_true))))
      rw [hcomp]; decide
  · intro s code page t hlow htake hpage hcode b k fresh x target
    have hact := run_command_posted hlow htake hpage hcode (n := 0x11) State.activate11
    have hsch := run_command_posted hlow htake hpage hcode (n := 0x12) State.schedule
    refine ⟨fun r hc hbusy => (hact hc).trans (congrArg _ (State.activate11_of_busy hbusy)),
      fun hc hfree hnone => (hact hc).trans (congrArg _ (State.activate11_of_none hfree rfl hnone)),
      fun i hc hfree hsome hcomp => ?_, fun i hc hfree hsome hcomp => ?_,
      fun r hc hbusy => (hsch hc).trans (congrArg _ (State.schedule_of_busy hbusy)),
      fun hc hfree hno => (hsch hc).trans (congrArg _ (State.schedule_of_not_held hfree hno)),
      fun hc hfree hheld hnone => (hsch hc).trans (congrArg _ (State.schedule_of_none hfree hheld hnone)),
      fun i hc hfree hheld hsome hsoon => ?_, fun i hc hfree hheld hsome hlater => ?_⟩
    · refine (hact hc).trans (congrArg _ ((State.activate11_of_some hfree rfl hsome).trans (if_pos ?_)))
      rw [hcomp]; rfl
    · refine (hact hc).trans (congrArg _ ((State.activate11_of_some hfree rfl hsome).trans (if_neg ?_)))
      rw [hcomp]; decide
    · exact (hsch hc).trans (congrArg _ ((State.schedule_of_some hfree hheld hsome).trans (if_pos hsoon)))
    · exact (hsch hc).trans (congrArg _ ((State.schedule_of_some hfree hheld hsome).trans (if_neg (Nat.not_lt.2 hlater))))
  · intro s code page t hlow htake hpage hcode b k done addr len fits bank keep
    have hcon := run_command_posted hlow htake hpage hcode (n := 0x13) State.confirm
    have hcan := run_command_posted hlow htake hpage hcode (n := 0x14) fun s _ => s.cancel14
    have hset := run_command_posted hlow htake hpage hcode (n := 0x15) State.writeSettings
    refine ⟨fun hc hscrap => (hcon hc).trans (congrArg _ (if_pos hscrap)), fun hc hlive hk hmay => ?_, fun hc hlive hno => ?_,
      fun hc hscrap => (hcan hc).trans (congrArg _ (if_pos hscrap)), fun hc hlive hsched => ?_, fun hc hlive hno => ?_,
      fun hc hscrap => (hset hc).trans (congrArg _ (if_pos hscrap)), fun hc hlive hwipe => ?_,
      fun hc hlive hwipe hnot => (hset hc).trans (congrArg _ (State.writeSettings_of_unfit hlive hwipe hnot)),
      fun hc hlive hwipe hfits => (hset hc).trans (congrArg _ (State.writeSettings_of_fits hlive hwipe hfits))⟩
    · exact (hcon hc).trans (congrArg _ ((if_neg hlive).trans (if_pos ⟨hk, hmay⟩)))
    · exact (hcon hc).trans (congrArg _ ((if_neg hlive).trans (if_neg hno)))
    · exact (hcan hc).trans (congrArg _ ((if_neg hlive).trans (if_pos hsched)))
    · exact (hcan hc).trans (congrArg _ ((if_neg hlive).trans (if_neg (Bool.eq_false_iff.1 hno))))
    · exact (hset hc).trans (congrArg _ ((if_neg hlive).trans (if_pos hwipe)))
  · intro s code page t hlow htake hpage hcode steps c b tgt known refuse
    have hreq := run_command_posted hlow htake hpage hcode (n := 0x01) fun s b => s.lifecycle b steps
    refine ⟨fun hc hbusy => (hreq hc).trans (congrArg _ (State.lifecycle_of_busy steps hbusy)),
      fun hc hfree hno => (hreq hc).trans (congrArg _ (State.lifecycle_of_not_allowed steps rfl hfree hno)),
      fun hc hfree hallow hno => (hreq hc).trans (congrArg _ (State.lifecycle_of_unknown steps rfl hfree hallow hno)),
      fun hc hfree hallow hknown hsig => ?_, fun hc hfree hallow hknown hsig => ?_,
      exec_unknownCommand_posted hlow htake hpage hcode, exec_unknownCommand_of_known .posted page hlow⟩
    · refine (hreq hc).trans (congrArg _ ((State.lifecycle_of_known steps rfl hfree hallow hknown).trans (if_pos ?_)))
      rw [hsig]; rfl
    · refine (hreq hc).trans (congrArg _ ((State.lifecycle_of_known steps rfl hfree hallow hknown).trans (if_neg ?_)))
      rw [hsig]; decide
  · intro s a page written steps c code hlow w bell cmd src u hsrc hulow
    refine ⟨?_, ?_, ?_, ?_, ?_, ?_, ?_, fun hc hun => ?_⟩
    iterate 7 exact fun hc => by subst hc; exact run_command_sent _ _ hlow hulow hsrc
    subst hc
    show execUnknownCommand src c page s = execUnknownCommand .posted c page u
    simp only [execUnknownCommand, hun, Bool.false_eq_true, if_false]
    exact run_command_sent _ _ hlow hulow hsrc

end Sys2Proof.Machine
end

section
/-!
Reset, start-up, and the trials of an update (R463, R469, R470, R484 to R488, R500).
-/
namespace Sys2Proof.Machine

/-! ### Reset and start-up (R463, R469, R470, R500) -/

/-- What the device keeps in reset, and what it loses (R469, R500). -/
theorem State.coldStart_kept (s : State) :
    s.coldStart.low = true ∧ s.coldStart.booted = false ∧ s.coldStart.upt = 0 ∧ s.coldStart.dram = [] ∧
      s.coldStart.flash = s.flash ∧ s.coldStart.slots = s.slots ∧ s.coldStart.repairs = s.repairs ∧
      s.coldStart.fuses = s.fuses ∧ s.coldStart.pending = s.pending := by
  simp [coldStart]

section
variable {s : State} {b : BootIn} (htimes : s.coldStart.bootTimes b = true)
include htimes

theorem exec_resetRise_of_reset (h : s.low = true ∨ s.booted = false) :
    exec (.resetRise b) s = .next (s.coldStart.bootUp b) := by
  show execResetRise b s = _
  rw [execResetRise, if_pos htimes, if_pos (by simpa using h)]

theorem exec_resetRise_of_running (hlow : s.low = false) (hup : s.booted = true) : exec (.resetRise b) s = .next s := by
  show execResetRise b s = _
  rw [execResetRise, if_pos htimes, if_neg (by simp [hlow, hup])]

end

theorem exec_deviceResetWrite {s : State} {a : Acc} {w : W32} (h : Reaches s a) (hadm : Admitted s a pgBoot .boot 0 0x100 w) :
    let u := s.stored a pgBoot .boot 0 0x100 w
    exec (.deviceResetWrite a w) s = .next ((if w.getLsbD 0 then u.coldStart else u).taken a) := by
  obtain ⟨hok, heff⟩ := hadm
  show execDeviceResetWrite a w s = _
  simp only [execDeviceResetWrite, run_of_running _ h.1, State.viaPath_of_reaches _ _ h, State.bootWrite, hok, heff,
    beq_self_eq_true, Bool.true_and]

/-! ### Class M (R484, R485) -/

section
variable {s : State} (hlow : s.low = false)
include hlow

theorem exec_shadowLoaded : exec .shadowLoaded s = .next
    (if s.bit pgUpd UPD_STAT_sched then s.setBit pgUpd UPD_STAT_shadow true else s) :=
  run_of_running (fun s => if s.bit pgUpd UPD_STAT_sched then s.setBit pgUpd UPD_STAT_shadow true else s) hlow

theorem exec_classMActivation {f : Nat} (hf : s.grpNext (s.fld pgUpd UPD_CFG_group) s.now = f) :
    exec .classMActivation s = .next
      (if f < s.now + 16 ∧ s.bit pgUpd UPD_STAT_sched = true ∧ s.bit pgUpd UPD_STAT_shadow = true ∧ s.upd.target ≤ s.todCuesAt f
        then s.activateM f else s) := by
  subst hf
  show execClassMActivation s = _
  rw [execClassMActivation, run_of_running _ hlow]
  by_cases hin : s.grpNext (s.fld pgUpd UPD_CFG_group) s.now < s.now + 16 <;> simp only [State.updInstant, hin, if_true, if_false,
    true_and, false_and]

theorem exec_classMRevert {f : Nat} (hf : s.grpNext (s.fld pgUpd UPD_CFG_group) s.now = f) :
    exec .classMRevert s = .next
      (if f < s.now + 16 ∧ s.fld pgUpd UPD_STAT_trial = 2 ∧ s.fld64 pgUpd UPD_DEADLINE_lo UPD_DEADLINE_hi < f
        then (({ s.reverted 2 with classM := false } : State).setRun 2 (s.reverted 2).upd.old).sendVersions else s) := by
  subst hf
  show execClassMRevert s = _
  rw [execClassMRevert, run_of_running _ hlow]
  by_cases hin : s.grpNext (s.fld pgUpd UPD_CFG_group) s.now < s.now + 16 <;> simp only [State.updInstant, hin, if_true, if_false,
    true_and, false_and]

end

/-! ### Classes C and S (R487, R488) -/

/-- The slot that the class of a pause runs after it: its old one again, or its trial slot with 90 s to confirm. -/
def State.pauseEnded (s : State) : State :=
  if s.upd.back then s.setRun s.upd.cls s.upd.old
  else (s.setRun s.upd.cls (some s.upd.slot)).setFld64 pgUpd UPD_DEADLINE_lo UPD_DEADLINE_hi
    ((s.setRun s.upd.cls (some s.upd.slot)).now + 90 * cueSec)

section
variable {s u : State} (hlow : s.low = false) (hu : s.setBit pgUpd UPD_STAT_pause false = u)
include hlow

theorem exec_managementPauseEnd_of_no_pause (h : s.bit pgUpd UPD_STAT_pause = false) : exec .managementPauseEnd s = .next s := by
  show execManagementPauseEnd s = _
  rw [execManagementPauseEnd, run_of_running _ hlow, if_neg (Bool.eq_false_iff.1 h)]

include hu

theorem exec_managementPauseEnd_of_pause (h : s.bit pgUpd UPD_STAT_pause = true) : exec .managementPauseEnd s = .next
    (if s.upd.cls = 3 ∧ (u.pauseEnded.runSlot 3).isSome = true then u.pauseEnded.crewSet 15 else u.pauseEnded).sendVersions := by
  subst hu
  show execManagementPauseEnd s = _
  rw [execManagementPauseEnd, run_of_running _ hlow, if_pos h]
  refine congrArg (fun x : State => Host.Outcome.next x.sendVersions) ?_
  simp only [State.when, Bool.and_eq_true, beq_iff_eq]
  rfl

end

theorem exec_classSConfirm {s : State} {a : Acc} {w : W32} (h : Reaches s a) (hadm : Admitted s a pgUpd .upd 0 0x188 w) :
    let u := s.stored a pgUpd .upd 0 0x188 w
    exec (.classSConfirm a w) s = .next
      ((if w.getLsbD 0 = true ∧ u.mayConfirm 1 = true then u.confirmed 1 else u).taken a) := by
  obtain ⟨hok, heff⟩ := hadm
  have hother : ¬0x188 = 0x100 := by decide
  show execClassSConfirm a w s = _
  simp only [execClassSConfirm, run_of_running _ h.1, State.viaPath_of_reaches _ _ h, State.updWrite, State.sconfHook, hok, heff,
    if_neg hother, beq_self_eq_true, Bool.true_and, if_true]

section
variable {s : State} {k : Nat} (hlow : s.low = false) (hk : s.fld pgUpd UPD_STAT_trial = k)
include hlow hk

theorem exec_trialTimeout : exec .trialTimeout s = .next
    (if (k = 1 ∨ k = 3) ∧ s.upd.held = false ∧ s.bit pgUpd UPD_STAT_pause = false ∧
        s.fld64 pgUpd UPD_DEADLINE_lo UPD_DEADLINE_hi < s.now + 16 then
      let u := (s.reverted k).pauseStart k true
      { u with upd := { u.upd with setKeep := none, setBank := if u.upd.setKeep.isSome then u.upd.setKeep else u.upd.setBank } }
    else s) := by
  subst hk
  show execTrialTimeout s = _
  rw [execTrialTimeout, run_of_running _ hlow]
  simp only [Bool.not_eq_true']

end

/-! ### The statement -/

/-- Settles O57. -/
theorem updateTrialsComplete : Obligations.UpdateTrialsComplete := by
  refine ⟨?_, ?_, ?_, ?_, ?_, ?_, ?_, ?_⟩
  · intro s t
    exact ⟨rfl, rfl, s.coldStart_kept⟩
  · intro s b htimes u v w x
    exact ⟨exec_resetRise_of_reset htimes, exec_resetRise_of_running htimes⟩
  · intro s a w h hadm u
    rw [exec_deviceResetWrite h hadm]
    exact ⟨fun hgo => by rw [if_pos hgo], fun hno => by rw [if_neg (Bool.eq_false_iff.1 hno)]⟩
  · intro s hlow
    rw [exec_shadowLoaded hlow]
    exact ⟨fun hsched => by rw [if_pos hsched], fun hno => by rw [if_neg (Bool.eq_false_iff.1 hno)]⟩
  · intro s hlow f goes i u t v x back y
    rw [exec_classMActivation hlow rfl, exec_classMRevert hlow rfl]
    exact ⟨fun hgoes => congrArg _ (if_pos hgoes), fun hnot => congrArg _ (if_neg hnot),
      fun hback => congrArg _ (if_pos hback), fun hnot => congrArg _ (if_neg hnot)⟩
  · intro s hlow k u old new on
    refine ⟨exec_managementPauseEnd_of_no_pause hlow, fun hpause hback => ?_, fun hpause hnew => ?_⟩
    · have hold : u.pauseEnded = old := if_pos hback
      rw [exec_managementPauseEnd_of_pause hlow rfl hpause, hold]
    · have htrial : u.pauseEnded = new := if_neg (Bool.eq_false_iff.1 hnew)
      rw [exec_managementPauseEnd_of_pause hlow rfl hpause, htrial]
  · intro s a w h hadm u confirms
    rw [exec_classSConfirm h hadm]
    exact ⟨fun hyes => by rw [if_pos hyes], fun hno => by rw [if_neg hno]⟩
  · intro s hlow k late u
    rw [exec_trialTimeout hlow rfl]
    exact ⟨fun hlate => congrArg _ (if_pos hlate), fun hnot => congrArg _ (if_neg hnot)⟩

end Sys2Proof.Machine
end

section
/-!
TDM ports (R289 to R298): the frames received and sent, the rate of a port, triggers, and the start and stop of channels.
-/
namespace Sys2Proof.Machine

/-! ### Frames received (R289 to R294) -/

/-- The port's measurement with a frame's sync, which a port that makes its own clocks does not measure. -/
def State.tdmSynced (s : State) (q a : Nat) : State := if s.tdmClk q = 0 then s else s.tdmSync q a

/-- A frame whose next sync came at a wrong bit count is dropped and counted, and captured the first time (R294). -/
def State.tdmSlipped (s : State) (q : Nat) : State :=
  let v := (s.bump (pgTdm q) TDM_FS_ERR_n).irq (pgTdm q) IRQ_tdm_fs_err
  let w := if (v.tp q).fsBad then v else v.err (pgTdm q) 0x0A4
  w.setTp q { w.tp q with fsBad := true }

/-- The words of a frame at position pos are placed, unless they come too late or too far ahead (R289 to R293). -/
def State.tdmPlaced (s : State) (q a pos : Nat) (slots : List W32) : State :=
  let words := (List.range (s.tdmSlots q)).map (fun i => slotToWord (slots.getD i 0) (s.tdmTr q i))
  if s.tdmClk q = 2 then s.setTp q { s.tp q with frames := (((s.tp q).frames ++ [(a, words)]).reverse.take 64).reverse }
  else if s.bit (pgTdm q) TDM_STAT_over_range then s
  else if pos + s.tdmLat < s.now then s.bump (pgTdm q) TDM_LATE_n
  else if s.pitPrev s.now - s.tdmLat + 64 * pitPer < pos then s.bump (pgTdm q) TDM_OVER_n
  else s.setTp q { s.tp q with frames := (s.tp q).frames ++ [(pos, words)] }

theorem State.tdmReceive_of_off {s : State} {q : Nat} (a bits : Nat) (slots : List W32) (h : s.tdmEn q = false) :
    s.tdmReceive q a bits slots = s := if_pos (by rw [h]; rfl)

section
variable {s u : State} {q a : Nat} (bits : Nat) (slots : List W32) (hen : s.tdmEn q = true) (hu : s.tdmSynced q a = u)
include hen hu

theorem State.tdmReceive_eq : s.tdmReceive q a bits slots =
    if !u.tdmRun q || a < (u.tp q).s0 && !u.lbit (pgTdm q) TDM_CFG_align then u
    else if !decide (s.tdmClk q = 0) ∧ bits ≠ 32 * u.tdmSlots q then u.tdmSlipped q
    else
      let v := (u.setTp q { u.tp q with fsBad := false }).tdmPos q a
      v.1.tdmPlaced q a v.2 slots := by
  subst hu
  rw [tdmReceive, hen]
  simp only [Bool.not_true, Bool.false_eq_true, if_false, tdmSlipped, when, Bool.not_eq_true', tdmSynced, decide_eq_true_eq,
    ← Bool.not_eq_true, ite_not]
  rfl

theorem State.tdmReceive_of_stopped (h : u.tdmRun q = false) : s.tdmReceive q a bits slots = u :=
  (tdmReceive_eq bits slots hen hu).trans (if_pos (by simp [h]))

variable (hrun : u.tdmRun q = true) (hin : u.lbit (pgTdm q) TDM_CFG_align = true ∨ (u.tp q).s0 ≤ a)
include hrun hin

theorem State.tdmReceive_of_running : s.tdmReceive q a bits slots =
    if !decide (s.tdmClk q = 0) ∧ bits ≠ 32 * u.tdmSlots q then u.tdmSlipped q
    else
      let v := (u.setTp q { u.tp q with fsBad := false }).tdmPos q a
      v.1.tdmPlaced q a v.2 slots := by
  refine (tdmReceive_eq bits slots hen hu).trans (if_neg ?_)
  obtain halign | hfrom := hin
  · simp [hrun, halign]
  · simp [hrun, Nat.not_lt.2 hfrom]

theorem State.tdmReceive_of_slip (hclk : s.tdmClk q ≠ 0) (h : bits ≠ 32 * u.tdmSlots q) :
    s.tdmReceive q a bits slots = u.tdmSlipped q :=
  (tdmReceive_of_running bits slots hen hu hrun hin).trans (if_pos ⟨by simp [hclk], h⟩)

theorem State.tdmReceive_of_good (h : s.tdmClk q = 0 ∨ bits = 32 * u.tdmSlots q) :
    let v := (u.setTp q { u.tp q with fsBad := false }).tdmPos q a
    s.tdmReceive q a bits slots = v.1.tdmPlaced q a v.2 slots := by
  refine (tdmReceive_of_running bits slots hen hu hrun hin).trans (if_neg ?_)
  rintro ⟨hext, hslip⟩
  exact h.elim (fun hown => by simp [hown] at hext) hslip

end

section
variable {s : State} {q : Nat} (a pos : Nat) (slots : List W32)

theorem State.tdmPlaced_of_converted (h : s.tdmClk q = 2) : s.tdmPlaced q a pos slots =
    s.setTp q { s.tp q with
      frames := (((s.tp q).frames ++
        [(a, (List.range (s.tdmSlots q)).map (fun i => slotToWord (slots.getD i 0) (s.tdmTr q i)))]).reverse.take 64).reverse } :=
  if_pos h

variable (hclk : s.tdmClk q ≠ 2)
include hclk

theorem State.tdmPlaced_of_over (h : s.bit (pgTdm q) TDM_STAT_over_range = true) : s.tdmPlaced q a pos slots = s :=
  (if_neg hclk).trans (if_pos h)

variable (hrange : s.bit (pgTdm q) TDM_STAT_over_range = false)
include hrange

theorem State.tdmPlaced_of_late (h : pos + s.tdmLat < s.now) : s.tdmPlaced q a pos slots = s.bump (pgTdm q) TDM_LATE_n :=
  (if_neg hclk).trans ((if_neg (Bool.eq_false_iff.1 hrange)).trans (if_pos h))

variable (hlate : ¬pos + s.tdmLat < s.now)
include hlate

theorem State.tdmPlaced_of_ahead (h : s.pitPrev s.now - s.tdmLat + 64 * pitPer < pos) :
    s.tdmPlaced q a pos slots = s.bump (pgTdm q) TDM_OVER_n :=
  (if_neg hclk).trans ((if_neg (Bool.eq_false_iff.1 hrange)).trans ((if_neg hlate).trans (if_pos h)))

theorem State.tdmPlaced_of_timely (h : ¬s.pitPrev s.now - s.tdmLat + 64 * pitPer < pos) : s.tdmPlaced q a pos slots =
    s.setTp q { s.tp q with frames := (s.tp q).frames ++
      [(pos, (List.range (s.tdmSlots q)).map (fun i => slotToWord (slots.getD i 0) (s.tdmTr q i)))] } :=
  (if_neg hclk).trans ((if_neg (Bool.eq_false_iff.1 hrange)).trans ((if_neg hlate).trans (if_neg h)))

end

theorem exec_tdmFrameReceived {s : State} (q : Fin 16) (a bits : Nat) (slots : List W32) (hlow : s.low = false) :
    exec (.tdmFrameReceived q a bits slots) s = .next (s.tdmReceive q a bits slots) :=
  run_of_running (fun s => s.tdmReceive q a bits slots) hlow

/-! ### Frames sent (R293) -/

theorem exec_tdmFrameTransmit {s : State} (q : Fin 16) (cue : Fin 16) (hlow : s.low = false) :
    exec (.tdmFrameTransmit q cue) s = .next (s.tdmSend q (s.now + cue)) :=
  run_of_running (fun s => s.tdmSend q (s.now + cue)) hlow

theorem State.tdmSend_of_stopped {s : State} {q : Nat} (a : Nat) (h : s.tdmRun q = false) : s.tdmSend q a = s :=
  if_pos (by rw [h]; rfl)

section
variable {s : State} {q a : Nat} (hrun : s.tdmRun q = true)
include hrun

theorem State.tdmSend_of_none (h : (s.tp q).txHist.find? (fun h => h.1 + pitPer ≤ a) = none) :
    s.tdmSend q a = s.setTp q { s.tp q with txWords := [] } := by
  rw [tdmSend, hrun]
  simp only [h, Bool.not_true, Bool.false_eq_true, if_false]

theorem State.tdmSend_of_some {h : Nat × List Nat} (hfind : (s.tp q).txHist.find? (fun h => h.1 + pitPer ≤ a) = some h) :
    s.tdmSend q a =
      let slips := match (s.tp q).txLast with
        | some l => if h.1 = l then 1 else (s.tp q).txHist.countP (fun e => l < e.1 && e.1 < h.1)
        | none => 0
      let u := s.bump (pgTdm q) TDM_TX_SLIP_n slips
      u.setTp q { u.tp q with txLast := some h.1, txWords := h.2 } := by
  rw [tdmSend, hrun]
  simp only [hfind, Bool.not_true, Bool.false_eq_true, if_false] <;> rfl

end

/-! ### Rates (R289, R290) -/

section
variable {s : State} {q : Fin 16} (hlow : s.low = false)
include hlow

theorem exec_tdmRateMeasure : exec (.tdmRateMeasure q) s = .next
    (if s.tdmEn q && s.tdmClk q != 0 then s.periodic (16 + q) cueSec (fun s => s.tdmMeasure q) else s) :=
  run_of_running (fun s => if s.tdmEn q && s.tdmClk q != 0 then s.periodic (16 + q) cueSec (fun s => s.tdmMeasure q) else s) hlow

theorem exec_tdmRateMeasure_of_idle (h : s.tdmEn q = false ∨ s.tdmClk q = 0 ∨ s.due (16 + q) cueSec = false) :
    exec (.tdmRateMeasure q) s = .next s := by
  rw [exec_tdmRateMeasure hlow]
  by_cases hmeas : (s.tdmEn q && s.tdmClk q != 0) = true
  · rw [if_pos hmeas]
    simp only [Bool.and_eq_true, bne_iff_ne, ne_eq] at hmeas
    obtain ⟨hen, hclk⟩ := hmeas
    have hdue : s.due (16 + q) cueSec = false := by simpa [hen, hclk] using h
    rw [State.periodic_of_not_due _ hdue]
  · rw [if_neg hmeas]

theorem exec_tdmRateMeasure_of_due (hen : s.tdmEn q = true) (hclk : s.tdmClk q = 1) (hdue : s.due (16 + q) cueSec = true) :
    exec (.tdmRateMeasure q) s = .next ((s.markActed (16 + q)).tdmMeasure q) := by
  rw [exec_tdmRateMeasure hlow, hen, hclk, State.periodic_of_due _ hdue]
  rfl

theorem exec_tdmRangeReenter_of_none (h : (s.tp q).inRange = none) : exec (.tdmRangeReenter q) s = .next s := by
  show execTdmRangeReenter q s = _
  simp only [execTdmRangeReenter, run_of_running _ hlow, h]

theorem exec_tdmRangeReenter_of_some {t : Nat} (h : (s.tp q).inRange = some t) : exec (.tdmRangeReenter q) s = .next
    (if t + 1058400000 < s.now + 16 ∧ s.bit (pgTdm q) TDM_STAT_over_range = true then
      (s.setBit (pgTdm q) TDM_STAT_over_range false).setTp q { s.tp q with inRange := none } else s) := by
  show execTdmRangeReenter q s = _
  simp only [execTdmRangeReenter, run_of_running _ hlow, h]

end

/-! ### Triggers (R291) -/

/-- The start S that a trigger go fixes on the device. -/
def State.tdmGoStart (s : State) : Nat :=
  s.pitNext (max (s.fld64 pgTrig TDM_TRIG_TGT_lo TDM_TRIG_TGT_hi) (max (s.now + 441000) s.earliest))

/-- A trigger go fixes the start and the mask. -/
def State.tdmGoFixed (s : State) : State :=
  ({ s with tdmMask := s.fld pgTrig TDM_TRIG_mask }.setBit pgTrig TDM_TRIG_CTL_pending true).setFld64 pgTrig
    TDM_TRIG_S_lo TDM_TRIG_S_hi s.tdmGoStart

theorem State.tdmGo_eq (s : State) : s.tdmGo =
    (if s.fld64 pgTrig TDM_TRIG_TGT_lo TDM_TRIG_TGT_hi < s.now then s.tdmGoFixed.setBit pgTrig TDM_TRIG_CTL_late true
      else s.tdmGoFixed).journal s.tdmGoStart (.tdm 0 0 (s.fld pgTrig TDM_TRIG_mask) s.tdmGoStart) := by
  simp only [tdmGo, tdmGoFixed, tdmGoStart, when, decide_eq_true_eq]
  rfl

theorem exec_tdmTriggerGo {s : State} {a : Acc} (h : Reaches s a) (hadm : Admitted s a pgTrig .tdmTrig 0 0x10C 1) :
    let u := s.stored a pgTrig .tdmTrig 0 0x10C 1
    exec (.tdmTriggerGo a) s = .next ((if u.follows = false then u.tdmGo else u).taken a) := by
  obtain ⟨hok, heff⟩ := hadm
  have hgo : BitVec.getLsbD (1 : W32) 0 = true := by decide
  show execTdmTriggerGo a s = _
  simp only [execTdmTriggerGo, run_of_running _ h.1, State.viaPath_of_reaches _ _ h, State.trigWrite, hok, heff, hgo, true_and,
    Bool.not_eq_true']

/-- A waiting port starts with frame 0 at S. -/
def State.tdmPortStart (s : State) (S q : Nat) : State :=
  let y := (s.setTp q { s.tp q with s0 := S, a0 := none, frames := [] }).setBit (pgTdm q) TDM_STAT_run true
  (y.tdmSwitch q false (fun _ => false) (fun i => y.tdmWanted q false i)).tdmSwitch q true (fun _ => false) (fun i => y.tdmWanted q true i)

/-- What a trigger at S means to port q. -/
def State.tdmPortMeets (S : Nat) (s : State) (q : Nat) : State :=
  if s.tdmMask / 2 ^ q % 2 = 0 then s
  else if s.tdmEn q = false ∨ s.tdmRun q = true ∨ s.lbit (pgTdm q) TDM_CFG_align = true then s.setBit pgTrig TDM_TRIG_CTL_skip true
  else s.tdmPortStart S q

section
variable {s : State} {S : Nat} (hS : s.fld64 pgTrig TDM_TRIG_S_lo TDM_TRIG_S_hi = S)
include hS

theorem State.tdmStart_of_waiting (h : s.bit pgTrig TDM_TRIG_CTL_pending = false ∨ s.now + 16 ≤ S) : s.tdmStart = s := by
  subst hS
  refine if_neg ?_
  obtain hno | hlater := h
  · simp [hno]
  · simp [Nat.not_lt.2 hlater]

theorem State.tdmStart_of_due (hpend : s.bit pgTrig TDM_TRIG_CTL_pending = true) (hdue : S < s.now + 16) : s.tdmStart =
    (List.range 16).foldl (tdmPortMeets S) ((s.setBit pgTrig TDM_TRIG_CTL_pending false).irq pgTrig IRQ_tdmTrig_started) := by
  subst hS
  refine (if_pos (by simp [hpend, hdue])).trans ?_
  simp only [Bool.or_eq_true, Bool.not_eq_true', or_assoc]
  rfl

end

/-! ### Channels (R297, R298) -/

/-- The enable bits at or above the slot count are ignored, with a report. -/
def State.tdmEnTrimmed (s : State) (a : Acc) (q adr : Nat) : State :=
  let good := BitVec.ofNat 32 (2 ^ s.tdmSlots q - 1)
  let v := s.setWord adr (s.word adr &&& good)
  if s.word adr &&& ~~~good ≠ 0 then v.accErr (pgTdm q) 0x0A5 a accWrite adr else v

theorem State.tdmEnWritten_eq (s : State) (a : Acc) (q : Nat) (isTx : Bool) (old : W32) : s.tdmEnWritten a q isTx old =
    let x := s.tdmEnTrimmed a q (pgTdm q + (if isTx then 0x10C else 0x108))
    x.tdmSwitch q isTx (fun i => x.tdmEn q && old.getLsbD i && decide (i < s.tdmSlots q)) (fun i => x.tdmWanted q isTx i) := by
  simp only [tdmEnWritten, tdmEnTrimmed, when, bne_iff_ne]

theorem State.tdmHook_enable (s : State) (a : Acc) (q : Nat) (isTx : Bool) (old : W32) :
    s.tdmHook a q (if isTx then 0x10C else 0x108) old = s.tdmEnWritten a q isTx old := by
  cases isTx <;> rfl

theorem exec_tdmChannelEnableWrite {s : State} {a : Acc} {q : Fin 16} {isTx : Bool} {w : W32} {o : Nat} (h : Reaches s a)
    (ho : (if isTx then 0x10C else 0x108) = o) (hadm : Admitted s a (pgTdm q) .tdm q o w) :
    exec (.tdmChannelEnableWrite a q isTx w) s = .next
      (((s.stored a (pgTdm q) .tdm q o w).tdmEnWritten a q isTx (s.word (pgTdm q + o))).taken a) := by
  subst ho
  obtain ⟨hok, -⟩ := hadm
  show execTdmChannelEnableWrite a q isTx w s = _
  simp only [execTdmChannelEnableWrite, run_of_running _ h.1, State.viaPath_of_reaches _ _ h, State.tdmWrite, hok, if_true,
    State.storeWord_old, State.tdmHook_enable]

theorem exec_tdmZxTimeout {s u : State} {q : Fin 16} {isTx : Bool} {slot : Fin 32} {k : Nat} (hlow : s.low = false)
    (hk : chKey q isTx slot = k) (hu : (s.bump (pgTdm q) TDM_ZX_TMO_n).irq (pgTdm q) IRQ_tdm_zx_tmo = u) :
    exec (.tdmZxTimeout q isTx slot) s = .next
      (if ((s.tc k).st = 1 ∨ (s.tc k).st = 4) ∧ s.lv (pgTdm q) TDM_ZX_timeout ≤ (s.tc k).wait then
        u.setTc k (if (s.tc k).st = 1 then { (s.tc k).ramp true (u.lv (pgTdm q) TDM_FADE_in) with st := 2 }
          else { (s.tc k).ramp false (u.lv (pgTdm q) TDM_FADE_out) with st := 5 })
      else s) := by
  subst hk hu
  show execTdmZxTimeout q isTx slot s = _
  rw [execTdmZxTimeout, run_of_running _ hlow]

theorem exec_tdmRampComplete {s : State} {q : Fin 16} {isTx : Bool} {slot : Fin 32} {k : Nat} (hlow : s.low = false)
    (hk : chKey q isTx slot = k) : exec (.tdmRampComplete q isTx slot) s = .next
      (if (s.tc k).st = 2 ∧ (s.tc k).n = 0 then s.setTc k { s.tc k with st := 3 } else s) := by
  subst hk
  show execTdmRampComplete q isTx slot s = _
  rw [execTdmRampComplete, run_of_running _ hlow]

/-! ### The statement -/

/-- Settles O37. -/
theorem tdmCommandsComplete : Obligations.TdmCommandsComplete := by
  refine ⟨⟨?_, ?_, ?_, ?_⟩, ?_, ?_, ?_, ?_, ?_⟩
  · intro s q a bits slots hlow
    rw [exec_tdmFrameReceived q a bits slots hlow]
    refine ⟨fun hoff => congrArg _ (State.tdmReceive_of_off a bits slots hoff), fun hen hclk => ?_, fun hen => ?_⟩
    · intro u
      have hu : s.tdmSynced q a = u := if_neg hclk
      refine ⟨fun hstop => congrArg _ (State.tdmReceive_of_stopped bits slots hen hu hstop), fun hrun hbits => ?_⟩
      intro v w hin
      exact congrArg _ (State.tdmReceive_of_slip bits slots hen hu hrun hin hclk hbits)
    · intro u hrun hin hgood v x pos words late ahead
      have hplace := State.tdmReceive_of_good bits slots hen rfl hrun hin hgood
      refine ⟨fun hclk => ?_, fun hclk hover => ?_, fun hclk hrange hlate => ?_, fun hclk hrange hlate hahead => ?_,
        fun hclk hrange hlate hahead => ?_⟩
      · exact congrArg _ (hplace.trans (State.tdmPlaced_of_converted a pos slots hclk))
      · exact congrArg _ (hplace.trans (State.tdmPlaced_of_over a pos slots hclk hover))
      · exact congrArg _ (hplace.trans (State.tdmPlaced_of_late a pos slots hclk hrange hlate))
      · exact congrArg _ (hplace.trans (State.tdmPlaced_of_ahead a pos slots hclk hrange hlate hahead))
      · exact congrArg _ (hplace.trans (State.tdmPlaced_of_timely a pos slots hclk hrange hlate hahead))
  · intro s q cue hlow
    rw [exec_tdmFrameTransmit q cue hlow]
    exact ⟨fun hstop => congrArg _ (State.tdmSend_of_stopped _ hstop), fun hrun hnone => congrArg _ (State.tdmSend_of_none hrun hnone),
      fun h hrun hsome => congrArg _ (State.tdmSend_of_some hrun hsome)⟩
  · intro s q hlow
    exact ⟨exec_tdmRateMeasure_of_idle hlow, exec_tdmRateMeasure_of_due hlow⟩
  · intro s q hlow
    refine ⟨exec_tdmRangeReenter_of_none hlow, fun t hsome => ?_⟩
    intro due
    rw [exec_tdmRangeReenter_of_some hlow hsome]
    exact ⟨fun hdue => congrArg _ (if_pos hdue), fun hnot => congrArg _ (if_neg hnot)⟩
  · intro s a h hadm u t S mask v
    rw [exec_tdmTriggerGo h hadm]
    refine ⟨fun hfol => by rw [if_neg (ne_false_of_eq_true hfol)], fun hlead hahead => ?_, fun hlead hlate => ?_⟩
    · rw [if_pos hlead, State.tdmGo_eq, if_neg (Nat.not_lt.2 hahead)]
      rfl
    · rw [if_pos hlead, State.tdmGo_eq, if_pos hlate]
      rfl
  · intro s hlow S
    have hrun : exec .tdmTriggerStart s = .next s.tdmStart := run_of_running (fun s => s.tdmStart) hlow
    rw [hrun]
    exact ⟨fun hwait => congrArg _ (State.tdmStart_of_waiting rfl hwait),
      fun hpend hdue => congrArg _ (State.tdmStart_of_due rfl hpend hdue)⟩
  · intro s a q isTx w h o hadm adr old u n good v x
    rw [exec_tdmChannelEnableWrite h rfl hadm, State.tdmEnWritten_eq]
    rfl
  · intro s q isTx slot hlow k c late u
    rw [exec_tdmZxTimeout hlow rfl rfl]
    refine ⟨fun hin hlate => ?_, fun hout hlate => ?_, fun hnot => congrArg _ (if_neg ?_)⟩
    · exact congrArg _ ((if_pos ⟨.inl hin, hlate⟩).trans (congrArg _ (if_pos hin)))
    · have hno : c.st ≠ 1 := by rw [hout]; decide
      exact congrArg _ ((if_pos ⟨.inr hout, hlate⟩).trans (congrArg _ (if_neg hno)))
    · rintro ⟨hst, hlate⟩
      exact hnot.elim (fun ⟨hno1, hno4⟩ => hst.elim hno1 hno4) (fun hno => hno hlate)
  · intro s q isTx slot hlow k c
    rw [exec_tdmRampComplete hlow rfl]
    exact ⟨fun hend => congrArg _ (if_pos hend), fun hnot => congrArg _ (if_neg hnot)⟩

end Sys2Proof.Machine
end

section
/-!
References (R302 to R313): the events of the inputs, their loss, and the instants of the selector.
-/
namespace Sys2Proof.Machine

/-! ### Events (R302, R303, R306, R307) -/

/-- An event in order is kept, with its uptime and the quality it brings; an Inactive input is then Qualifying. -/
def State.refTaken (s : State) (i upt : Nat) (m : Int) (q : Option Nat) : State :=
  let u := s.setRi i { s.ri i with events := (s.ri i).events.filter (fun e => s.now ≤ e.upt + cueSec) ++ [⟨upt, m⟩] }
  let v := u.setFld64 (pgRef i) REF_IN_LAST_lo REF_IN_LAST_hi upt
  let w := match q with | some x => v.setFld (pgRef i) REF_QUAL_q x | none => v
  if w.refState i = riInactive then (w.setRefState i riQualifying).setFld (pgRef i) REF_IN_CNT_acc 0 else w

theorem State.refInterval_of_pin {s : State} {i : Nat} (upt : Nat) (hi : i < 4) : s.refInterval i upt =
    match (s.ri i).events.getLast? with
    | some e =>
      if upt - e.upt < s.refBound i then
        let x := s.setRi i { s.ri i with short := (s.ri i).short + 1, lastShort := upt }
        if 8 ≤ (s.ri i).short + 1 then x.refOver i else x
      else s.setRi i { s.ri i with short := 0 }
    | none => s := if_pos hi

theorem State.refInterval_of_other {s : State} {i : Nat} (upt : Nat) (hi : 4 ≤ i) : s.refInterval i upt = s :=
  if_neg (Nat.not_lt.2 hi)

theorem State.refEvent_of_off {s : State} {i : Nat} (upt : Nat) (m : Int) (q : Option Nat)
    (h : s.refEnabled i = false ∨ s.refState i = riOff) : s.refEvent i upt m q = s := if_pos (by simpa using h)

section
variable {s : State} {i upt : Nat} (m : Int) (q : Option Nat) (hen : s.refEnabled i = true) (hon : s.refState i ≠ riOff)
include hen hon

theorem State.refEvent_of_bad (h : s.now < upt ∨ upt + cueSec < s.now) : s.refEvent i upt m q = s.refBad i :=
  (if_neg (by simp [hen, hon])).trans (if_pos (by simpa using h))

variable (hpast : upt ≤ s.now) (hrecent : s.now ≤ upt + cueSec)
include hpast hrecent

theorem State.refEvent_of_order : s.refEvent i upt m q =
    match ((s.refInterval i upt).refTaken i upt m q).refError i upt m with
    | some e => ((s.refInterval i upt).refTaken i upt m q).refPhase i e
    | none => (s.refInterval i upt).refTaken i upt m q :=
  (if_neg (by simp [hen, hon])).trans (if_neg (by simp [Nat.not_lt.2 hpast, Nat.not_lt.2 hrecent]))

end

section
variable {s : State} {i : Fin 10} {rising : Bool} (t m q : Nat) (hlow : s.low = false)
include hlow

theorem exec_referenceEvent_of_idle (h : i.val < 4 ∧ s.lbit (pgRef i) REF_IN_pol = rising) :
    exec (.referenceEvent ⟨i, rising⟩ t m q) s = .next s := by
  show execReferenceEvent ⟨i, rising⟩ t m q s = _
  rw [execReferenceEvent, run_of_running _ hlow, if_pos h]

theorem exec_referenceEvent_of_active (h : ¬(i.val < 4 ∧ s.lbit (pgRef i) REF_IN_pol = rising)) :
    exec (.referenceEvent ⟨i, rising⟩ t m q) s = .next (s.refEvent i t m (if i.val = 6 ∨ i.val = 9 then some q else none)) := by
  show execReferenceEvent ⟨i, rising⟩ t m q s = _
  rw [execReferenceEvent, run_of_running _ hlow, if_neg h]

end

theorem exec_refPtpSubmit {s u : State} {a : Acc} {n : Fin 2} {p : Nat} (h : Reaches s a) (hp : pgRef (4 + n) = p)
    (hadm : Admitted s a p .refIn (4 + n) 0x198 1) (hu : s.stored a p .refIn (4 + n) 0x198 1 = u) :
    let m : Nat := (u.fld64 p REF_PTP_SEC_lo REF_PTP_SEC_hi * cueSec +
      (u.fld p REF_PTP_COSH_cos * 2 ^ 32 + u.fld p REF_PTP_COS_lo)) * 2 ^ 30 + u.fld p REF_PTP_COSH_frac
    exec (.refPtpSubmit a n) s = .next ((u.refEvent (4 + n) (u.fld64 p REF_PTP_U_lo REF_PTP_U_hi) m none).taken a) := by
  subst hp hu
  obtain ⟨hok, heff⟩ := hadm
  have hgo : BitVec.getLsbD (1 : W32) 0 = true := by decide
  show execRefPtpSubmit a n s = _
  simp only [execRefPtpSubmit, run_of_running _ h.1, State.viaPath_of_reaches _ _ h, State.refWrite, State.refHook, hok, heff,
    hgo, and_self, if_true]

/-! ### Loss (R305, R306) -/

section
variable {s : State} {i : Fin 10} (hlow : s.low = false)
include hlow

theorem exec_refActivityLoss : exec (.refActivityLoss i) s = .next (if s.refSilent i then s.refQuiet i else s) :=
  run_of_running (fun s => if s.refSilent i then s.refQuiet i else s) hlow

theorem exec_refOverRangeExit : exec (.refOverRangeExit i) s = .next
    (if s.refState i = riOver ∧ (s.ri i).lastShort + cueSec < s.now + 16 then
      ((s.setRefState i riQualifying).setFld (pgRef i) REF_IN_CNT_acc 0).setRi i { s.ri i with short := 0 }
    else s) := by
  show execRefOverRangeExit i s = _
  rw [execRefOverRangeExit, run_of_running _ hlow]

end

/-- Settles O38. -/
theorem referenceEventsComplete : Obligations.ReferenceEventsComplete := by
  refine ⟨?_, ?_, ?_, ?_⟩
  · intro s i rising t m q hlow idle quality
    refine ⟨fun hnone => ?_, fun hact hen hon hbad => ?_, fun hact hen hon hpast hrecent => ?_⟩
    · by_cases hidle : idle
      · exact exec_referenceEvent_of_idle t m q hlow hidle
      · have hoff : s.refEnabled i = false ∨ s.refState i = riOff := hnone.resolve_left hidle
        exact (exec_referenceEvent_of_active t m q hlow hidle).trans (congrArg _ (State.refEvent_of_off t m _ hoff))
    · exact (exec_referenceEvent_of_active t m q hlow hact).trans (congrArg _ (State.refEvent_of_bad m _ hen hon hbad))
    · intro z u v w y
      have hz : s.refInterval i t = z := by
        by_cases hpin : i.val < 4
        · rw [State.refInterval_of_pin t hpin]
          simp only [z, Nat.not_le.2 hpin, if_false] <;> rfl
        · rw [State.refInterval_of_other t (Nat.not_lt.1 hpin)]
          simp only [z, Nat.not_lt.1 hpin, if_true]
          cases (s.ri i).events.getLast? <;> rfl
      have hy : (s.refInterval i t).refTaken i t m quality = y := by rw [hz]; rfl
      have hev : exec (.referenceEvent ⟨i, rising⟩ t m q) s =
          .next (match y.refError i t m with | some e => y.refPhase i e | none => y) := by
        rw [exec_referenceEvent_of_active t m q hlow hact, State.refEvent_of_order m _ hen hon hpast hrecent]
        exact hy ▸ rfl
      exact ⟨fun hnone => by rw [hev, hnone], fun e hsome => by rw [hev, hsome]⟩
  · intro s a n h hadm p u m
    exact exec_refPtpSubmit h rfl hadm rfl
  · intro s i hlow v active
    rw [exec_refActivityLoss hlow]
    refine ⟨fun hnot => ?_, fun hsil hact => ?_⟩
    · by_cases hsil : s.refSilent i = true
      · have hidle : ¬active := hnot.resolve_left (ne_false_of_eq_true hsil)
        rw [if_pos hsil]
        exact congrArg _ (if_neg hidle)
      · rw [if_neg hsil]
    · rw [if_pos hsil]
      exact congrArg _ (if_pos hact)
  · intro s i hlow due
    rw [exec_refOverRangeExit hlow]
    exact ⟨fun hdue => congrArg _ (if_pos hdue), fun hnot => congrArg _ (if_neg hnot)⟩

/-! ### The instants of the selector (R304, R309, R310, R313) -/

section
variable {s : State} (hlow : s.low = false)
include hlow

theorem exec_monitorInstant : exec .monitorInstant s =
    .next (s.periodic 0 (100 * cueMs) fun s => ((List.range 10).foldl (fun s i => s.refMonitor i) s.refApply).refSelect) := by
  show execMonitorInstant s = _
  rw [execMonitorInstant, run_of_running _ hlow]

theorem exec_loopUpdate : exec .loopUpdate s = .next (s.periodic 1 cueMs State.loopUpdate) :=
  run_of_running (fun s => s.periodic 1 cueMs State.loopUpdate) hlow

theorem exec_holdoverSecond : exec .holdoverSecond s = .next (s.periodic 2 cueSec State.holdoverSecond) :=
  run_of_running (fun s => s.periodic 2 cueSec State.holdoverSecond) hlow

end

/-- Where the ramp of a loop update leads: to the target's frequency in Switching, to the ring's mean in Holdover. -/
def State.loopGoal (s : State) : Int :=
  if s.fld pgSel REF_STAT_state = selSwitching then s.fldS (pgRef s.refTgt) REF_IN_FREQ_ppt * 10 ^ 6 else s.refSel.avg

/-- y moved by the selector's state (R310, R313). -/
def State.loopMoved (s : State) : State :=
  if s.fld pgSel REF_STAT_state = selTracking then s.loop s.refSelIn
  else if s.fld pgSel REF_STAT_state = selSwitching then
    if (s.ramp s.loopGoal).refSel.y = s.loopGoal then (s.ramp s.loopGoal).refReached else s.ramp s.loopGoal
  else if s.fld pgSel REF_STAT_state = selHoldover then s.ramp s.loopGoal
  else { s with refSel := { s.refSel with y := 0, v := 0 } }

/-- A synthesiser that has locked again unfreezes (R325). -/
def State.synthUnfreeze (s : State) (j : Nat) : State :=
  if (s.pl (11 + j)).unfreeze then
    ((s.setPl (11 + j) { s.pl (11 + j) with unfreeze := false, lossOpen := false }).setBit (pgPll (11 + j)) PLL_STAT_frozen
      false).clkBit 0x144 (11 + j) false
  else s

/-- y enters the sum of the second, shows, and steers. -/
def State.loopShown (s : State) (tracking : Bool) : State :=
  let r := s.refSel
  let w := { s with refSel := { r with ySum := r.ySum + r.y, yCount := r.yCount + 1, whole := r.whole && tracking } }
  let ppt := satSigned 32 (roundDiv r.y (10 ^ 6))
  let x := (List.range 9).foldl State.synthUnfreeze ((w.setFld pgSel REF_Y_ppt (ofSigned 32 ppt)).loopSteer ppt)
  x.synthSteer x.steerNow

theorem State.loopUpdate_eq (s : State) : s.loopUpdate = s.loopMoved.loopShown (s.fld pgSel REF_STAT_state == selTracking) := by
  refine congrArg (fun v : State => v.loopShown (s.fld pgSel REF_STAT_state == selTracking)) ?_
  by_cases hsw : s.fld pgSel REF_STAT_state = selSwitching
  · simp only [loopMoved, loopGoal, if_pos hsw]
  · simp only [loopMoved, loopGoal, if_neg hsw]

/-- Settles O39. -/
theorem selectorInstantsComplete : Obligations.SelectorInstantsComplete := by
  intro s hlow acted
  rw [exec_monitorInstant hlow, exec_loopUpdate hlow, exec_holdoverSecond hlow]
  refine ⟨fun hnot => by rw [State.periodic_of_not_due _ hnot], fun hnot => by rw [State.periodic_of_not_due _ hnot],
    fun hnot => by rw [State.periodic_of_not_due _ hnot], fun hdue => ?_, fun hdue => ?_, fun hdue => ?_⟩
  · rw [State.periodic_of_due _ hdue]
    rfl
  · intro u st goal v r w ppt x
    rw [State.periodic_of_due _ hdue]
    exact congrArg _ (u.loopUpdate_eq)
  · intro r ring r'
    rw [State.periodic_of_due _ hdue]
    rfl

end Sys2Proof.Machine
end

section
/-!
Writes of the clock pages (R319, R323, R324, R326).
-/
namespace Sys2Proof.Machine

/-- A bypass-capable PLL meets the hold: it starts to move to bypass, and a return that waits is given up (R323, R324). -/
def State.heldInBypass (s : State) (n : Nat) : State :=
  s.setPl n { s.pl n with wantReturn := false, moving := (s.pl n).moving || !s.bit (pgPll n) PLL_STAT_bypass }

theorem State.clkCtlWritten_eq (s : State) (old : W32) : s.clkCtlWritten old =
    if s.bit pgClk CLK_CTL_hold_byp && !old.getLsbD 0 then (List.range 11).foldl heldInBypass s else s := rfl

section
variable {s : State} {a : Acc} {w : W32} (h : Reaches s a)
include h

theorem exec_holdBypassWrite (hok : (s.storeWord a pgClk .clkCtl 0 0x104 w).ok = true) :
    exec (.holdBypassWrite a w) s = .next
      ((((s.stored a pgClk .clkCtl 0 0x104 w).clkCtlWritten (s.word (pgClk + 0x104))).manSteer).taken a) := by
  show execHoldBypassWrite a w s = _
  simp only [execHoldBypassWrite, run_of_running _ h.1, State.viaPath_of_reaches _ _ h, State.clkWrite, State.clkHook, hok,
    State.storeWord_old, if_true]

theorem exec_clkManWrite (hok : (s.storeWord a pgClk .clkCtl 0 0x108 w).ok = true) :
    exec (.clkManWrite a w) s = .next ((s.stored a pgClk .clkCtl 0 0x108 w).manSteer.taken a) := by
  have hother : ¬0x108 = 0x104 := by decide
  show execClkManWrite a w s = _
  simp only [execClkManWrite, run_of_running _ h.1, State.viaPath_of_reaches _ _ h, State.clkWrite, State.clkHook, hok, if_neg hother,
    if_true]

theorem exec_pllBypassReturnWrite {n : Fin 26} (hadm : Admitted s a (pgPll n) .pll n 0x118 1) :
    let u := s.stored a (pgPll n) .pll n 0x118 1
    exec (.pllBypassReturnWrite a n) s = .next
      ((if u.bit (pgPll n) PLL_STAT_lock = true ∧ u.bit pgClk CLK_CTL_hold_byp = false then
        if u.bit (pgPll n) PLL_STAT_bypass then u.setPl n { u.pl n with wantReturn := true } else u
      else u.accErr (pgPll n) 0x0C1 a accWrite (pgPll n + 0x118)).taken a) := by
  obtain ⟨hok, heff⟩ := hadm
  have hother : ¬0x118 = 0x104 := by decide
  have hgo : BitVec.getLsbD (1 : W32) 0 = true := by decide
  show execPllBypassReturnWrite a n s = _
  simp only [execPllBypassReturnWrite, run_of_running _ h.1, State.viaPath_of_reaches _ _ h, State.pllWrite, State.pllHook, hok, heff,
    hgo, if_neg hother, and_self, if_true, Bool.and_eq_true, Bool.not_eq_true']

theorem exec_pllPhaseTargetWrite {n : Fin 26} (hok : (s.storeWord a (pgPll n) .pll n 0x104 w).ok = true) :
    let u := s.stored a (pgPll n) .pll n 0x104 w
    exec (.pllPhaseTargetWrite a n w) s = .next
      ((if mediaSynth n then u.setBit (pgPll n) PLL_STAT_ph_busy (u.fldS (pgPll n) PLL_PH_target != u.fldS (pgPll n) PLL_PH_now)
        else (u.setWord (pgPll n + 0x104) (s.word (pgPll n + 0x104))).accErr (pgPll n) 0x0C2 a accWrite (pgPll n + 0x104)).taken
          a) := by
  show execPllPhaseTargetWrite a n w s = _
  simp only [execPllPhaseTargetWrite, run_of_running _ h.1, State.viaPath_of_reaches _ _ h, State.pllWrite, State.pllHook, hok,
    State.storeWord_old, if_true]

end

/-- Settles O41. -/
theorem clockWritesComplete : Obligations.ClockWritesComplete := by
  refine ⟨?_, ?_, ?_, ?_⟩
  · intro s a w h hok u move v
    rw [exec_holdBypassWrite h hok, State.clkCtlWritten_eq]
    rfl
  · intro s a w h hok u
    exact exec_clkManWrite h hok
  · intro s a n h hadm p u may
    rw [exec_pllBypassReturnWrite h hadm]
    exact ⟨fun hmay => by rw [if_pos hmay], fun hnot => by rw [if_neg hnot]⟩
  · intro s a n w h hok p u
    rw [exec_pllPhaseTargetWrite h hok]
    exact ⟨fun hmedia => by rw [if_pos hmedia], fun hother => by rw [if_neg (Bool.eq_false_iff.1 hother)]⟩

end Sys2Proof.Machine
end

section
/-!
The Call Bus (R335 to R344): cycles and slots, frames heard, silence, collisions, and the stamp queue.
-/
namespace Sys2Proof.Machine

/-! ### Cycles and slots (R335, R336, R342) -/

theorem exec_callCycleStart {s : State} {t : Nat} (edge : Fin 53) (hlow : s.low = false) (ht : s.cycleNext s.now = t) :
    exec (.callCycleStart edge) s = .next
      (if s.cbState ≠ cbOff ∧ t < s.now + 16 ∧ s.call.cycleAt ≠ some t then s.callSettle.callCycle t edge else s) := by
  subst ht
  show execCallCycleStart edge s = _
  rw [execCallCycleStart, run_of_running _ hlow]

theorem exec_callSlotStart {s u : State} {c t : Nat} (slot : Fin 40) (hlow : s.low = false) (hc : s.cycleStart = some c)
    (ht : c + slot * slotLen = t) (hu : s.callSettle = u) : exec (.callSlotStart slot) s = .next
      (if (s.cbState = cbSynced ∨ s.cbState = cbMaster) ∧ s.now ≤ t ∧ t < s.now + 16 then
        if u.slotOwned slot = true ∧ u.call.sending = none then u.callSlot slot t else u
      else s) := by
  subst ht hu
  show execCallSlotStart slot s = _
  simp only [execCallSlotStart, run_of_running _ hlow, hc, Option.isNone_iff_eq_none]

section
variable {u v : State} {n t : Nat}

theorem State.callSlot_of_entry {i : Nat} (h : u.callEntry t 256 = (v, some i)) : u.callSlot n t =
    let r := v.engineRead callMaster (v.cbTxDesc i + 32) (v.loadLE (v.cbTxDesc i) 2)
    r.1.callSend n t (v.loadLE (v.cbTxDesc i + 2) 1) r.2 (some i) := by
  rw [callSlot, h]

theorem State.callSlot_of_none (h : u.callEntry t 256 = (v, none)) : u.callSlot n t =
    if v.lbit pgCb CB_CTL_auto_claim then v.callSend n t 3 (List.replicate 8 0) none else v := by
  rw [callSlot, h]

end

/-! ### Frames heard (R337 to R339, R343, R344) -/

theorem exec_callFrameReceived {s : State} (start : Nat) (bad : Bool) (bytes : List Byte) (hlow : s.low = false) :
    exec (.callFrameReceived start bad bytes) s = .next (s.callHear start bad bytes) :=
  run_of_running (fun s => s.callHear start bad bytes) hlow

theorem exec_callBeaconReceived {s : State} (start : Nat) (bad : Bool) (bytes : List Byte) (pop : Option Acc)
    (hlow : s.low = false) : exec (.callBeaconReceived start bad ⟨bytes, pop⟩) s = .next
      ((match pop with | some a => s.viaRead a (pgCbr + 0x120) (fun s => s.popBeacon a.m) | none => s).callHear start bad
        bytes) := by
  show execCallBeaconReceived start bad ⟨bytes, pop⟩ s = _
  rw [execCallBeaconReceived, run_of_running _ hlow] <;> rfl

theorem State.callHear_of_off {s : State} (start : Nat) (bad : Bool) (bytes : List Byte) (h : s.cbState = cbOff) :
    s.callHear start bad bytes = s := if_pos h

/-- A valid frame of another station counts, with its claim, and is then a beacon or is delivered. -/
def State.callTake (s : State) (w : CallSeen) (bytes : List Byte) : State :=
  let src := byteAt bytes 0 % 64
  let claim : W32 := BitVec.ofNat 32 (ofBytesLE ((bytes.drop 4).take 4))
  let v := (s.bump pgCb CB_RX_FRAMES_n).callClaim src claim
  if byteAt bytes 1 % 16 = 0 then v.callBeacon w bytes else v.callDeliver w src claim bytes

section
variable {s u : State} {start : Nat} {bad : Bool} {bytes : List Byte} (hon : s.cbState ≠ cbOff) (hu : s.callSettle = u)
include hon hu

theorem State.callHear_of_discard {f : Fld} (h : u.callVerdict (u.callSeen start) bad bytes = some f) :
    s.callHear start bad bytes = u.bump pgCb f := by
  subst hu
  simp only [callHear, if_neg hon, h]

theorem State.callHear_of_own (h : u.callVerdict (u.callSeen start) bad bytes = none) (hsrc : byteAt bytes 0 % 64 = u.station) :
    s.callHear start bad bytes = u := by
  subst hu
  simp only [callHear, if_neg hon, h, if_pos hsrc]

theorem State.callHear_of_valid (h : u.callVerdict (u.callSeen start) bad bytes = none)
    (hsrc : byteAt bytes 0 % 64 ≠ u.station) : s.callHear start bad bytes = u.callTake (u.callSeen start) bytes := by
  subst hu
  simp only [callHear, if_neg hon, h, if_neg hsrc, callTake]

end

/-! ### Silence (R335) -/

/-- One more silent cycle has passed: n of them, the third a beacon loss to a synchronised station. -/
def State.silentPassed (s : State) (n : Nat) : State :=
  let v := (s.setCall { s.call with silentAt := s.call.silentAt + callPer }).setFld pgCb CB_STAT_silent n
  if s.cbState = cbSynced ∧ n = 3 then ((v.bump pgCb CB_BEACON_MISS_n).irq pgCb IRQ_cbCtl_beacon_loss).setCb cbListening else v

/-- A station becomes the master. -/
def State.becomeMaster (s : State) : State := ((s.setCb cbMaster).setCall { s.call with cycleAt := none }).irq pgCb IRQ_cbCtl_master

theorem State.callSilent_of_not_due {s : State}
    (h : ¬((s.cbState = cbListening ∨ s.cbState = cbSynced) ∧ s.call.silentAt + callPer < s.now + 16)) : s.callSilent = s :=
  if_neg h

section
variable {s w : State} {n : Nat} (hdue : (s.cbState = cbListening ∨ s.cbState = cbSynced) ∧ s.call.silentAt + callPer < s.now + 16)
  (hn : min 15 ((s.setCall { s.call with silentAt := s.call.silentAt + callPer }).fld pgCb CB_STAT_silent + 1) = n)
  (hw : s.silentPassed n = w)
include hdue hn hw

theorem State.callSilent_of_due : s.callSilent =
    match w.masterWait with
    | some k => if k ≤ n then w.becomeMaster else w
    | none => w := by
  subst hn hw
  exact if_pos hdue

theorem State.callSilent_of_none (h : w.masterWait = none) : s.callSilent = w := by
  rw [callSilent_of_due hdue hn hw, h]

theorem State.callSilent_of_some {k : Nat} (h : w.masterWait = some k) :
    s.callSilent = if k ≤ n then w.becomeMaster else w := by
  rw [callSilent_of_due hdue hn hw, h]

end

/-! ### Collisions (R341) -/

theorem match_eq_getD_map (f : Nat → Nat) (o : Option Nat) (d : Nat) :
    (match o with | some b => f b | none => d) = (o.map f).getD d := by
  cases o <;> rfl

/-- The cycle start of the station's own count at or after the present, from which a master that collided listens. -/
def State.ownCycle (s : State) : Nat :=
  match s.call.base with
  | some b => b + ceilDiv (s.now - b) callPer * callPer
  | none => ceilDiv s.now callPer * callPer

theorem State.ownCycle_eq (s : State) :
    (s.call.base.map (fun b => b + ceilDiv (s.now - b) callPer * callPer)).getD (ceilDiv s.now callPer * callPer) = s.ownCycle := by
  rw [ownCycle, match_eq_getD_map (fun b => b + ceilDiv (s.now - b) callPer * callPer)]

theorem State.callCollide_of_silent {s : State} (slot : Nat) (h : s.call.sending = none) : s.callCollide slot = s := by
  rw [callCollide, h]

section
variable {s : State} {slot : Nat} {f : CallFrame} (hf : s.call.sending = some f)
include hf

theorem State.callCollide_of_other (h : f.slot ≠ slot ∨ callEnd f < s.now) : s.callCollide slot = s := by
  rw [callCollide, hf]
  exact if_neg fun ⟨hslot, hend⟩ => h.elim (fun hno => hno hslot) (fun hno => Nat.not_le.2 hno hend)

/-- A collision in the slot that the station is sending in. -/
theorem State.callCollide_of_own {v : State} (hslot : f.slot = slot) (hend : s.now ≤ callEnd f)
    (hv : ((((s.setCall { s.call with sending := none }).bump pgCb CB_COLLIDE_n).setBit pgCb CB_STAT_collide true).irq pgCb
      IRQ_cbCtl_collide).err pgCb 0x0D0 none (some slot) = v) : s.callCollide slot =
    if slot = 0 then
      ((v.setCb cbListening).setFld pgCb CB_STAT_silent 0).setCall { v.call with silentAt := v.ownCycle }
    else
      let clear := fun (s : State) (a : Nat) => s.setWord a (setBits (s.word a) (slot % 32) 1 0)
      clear (clear v (pgCb + (if slot < 32 then 0x110 else 0x114))) (pgCb + (if slot < 32 then 0x118 else 0x11C)) := by
  have hown : f.slot = slot ∧ s.now ≤ callEnd f := ⟨hslot, hend⟩
  simp only [callCollide, hf, if_pos hown, hv, ownCycle_eq]

end

/-! ### The stamp queue (R339) -/

theorem exec_beaconQueuePop {s : State} {a : Acc} (h : Reaches s a) :
    exec (.beaconQueuePop a) s = .next ((s.popBeacon a.m).1.answerWord a.m (s.popBeacon a.m).2) := by
  show execBeaconQueuePop a s = _
  rw [execBeaconQueuePop, run_of_running _ h.1, State.viaRead_of_reaches _ _ h]

theorem State.popBeacon_of_empty {s : State} (m : Nat) (h : s.call.bsq = []) :
    s.popBeacon m = (s.setMreg m (pgCbr + 0x124) (BitVec.ofNat 32 0), 0) := by
  rw [popBeacon, h]

theorem State.popBeacon_of_cons {s : State} {b : Beacon} {rest : List Beacon} (m : Nat) (h : s.call.bsq = b :: rest) :
    s.popBeacon m =
      let put := fun (s : State) (o v : Nat) => s.setMreg m (pgCbr + o) (BitVec.ofNat 32 v)
      let s := (s.setCall { s.call with bsq := rest }).setFld pgCbr CB_BSQ_LEVEL_n rest.length
      let s := put s 0x124 (b.qual + b.flags * 2 ^ 8 + 2 ^ 31)
      let s := put (put s 0x128 (b.upt % 2 ^ 32)) 0x12C (b.upt / 2 ^ 32)
      let s := put (put s 0x130 (b.sec % 2 ^ 32)) 0x134 (b.sec / 2 ^ 32 % 2 ^ 16)
      (put (put s 0x138 (b.cos % 2 ^ 32)) 0x13C (b.cos / 2 ^ 32), BitVec.ofNat 32 b.cyc) := by
  rw [popBeacon, h]

/-! ### The statement -/

/-- Settles O42: the pop of an empty stamp queue answers a cycle of zero and an INFO of zero (log entries 125 and 163). -/
theorem callBusCommandsComplete : Obligations.CallBusCommandsComplete := by
  refine ⟨?_, ?_, ?_, ?_, ?_, ?_⟩
  · intro s edge hlow t due
    rw [exec_callCycleStart edge hlow rfl]
    exact ⟨fun hnot => congrArg _ (if_neg hnot), fun hdue => congrArg _ (if_pos hdue)⟩
  · intro s slot c hlow hc t due u
    rw [exec_callSlotStart slot hlow hc rfl rfl]
    refine ⟨fun hnot => congrArg _ (if_neg hnot), fun hdue hno => ?_, fun hdue hown hidle => ?_⟩
    · refine congrArg _ ((if_pos hdue).trans (if_neg ?_))
      exact fun ⟨hown, hidle⟩ => hno.elim (fun h => Bool.false_ne_true (h.symm.trans hown)) (fun h => h hidle)
    · intro e v
      have hslot : (if due then if u.slotOwned slot = true ∧ u.call.sending = none then u.callSlot slot t else u else s) =
          u.callSlot slot t := (if_pos hdue).trans (if_pos ⟨hown, hidle⟩)
      exact ⟨fun i hsome => congrArg _ (hslot.trans (State.callSlot_of_entry (Prod.ext rfl hsome))),
        fun hnone => congrArg _ (hslot.trans (State.callSlot_of_none (Prod.ext rfl hnone)))⟩
  · intro pre start bad bytes pop beacon hlow is s
    have his : ∀ x, s.callHear start bad bytes = x → is x := by
      rintro x rfl
      refine ⟨fun hb => ?_, fun hb => ?_⟩
      · subst hb
        rw [exec_callBeaconReceived start bad bytes pop hlow]
        cases pop <;> rfl
      · subst hb
        rw [exec_callFrameReceived start bad bytes hlow]
        cases pop <;> rfl
    refine ⟨fun hoff => his _ (State.callHear_of_off start bad bytes hoff), fun hon => ?_⟩
    intro u w src claim v
    exact ⟨fun f hdis => his _ (State.callHear_of_discard hon rfl hdis),
      fun hgood hown => his _ (State.callHear_of_own hon rfl hgood hown),
      fun hgood hother => his _ (State.callHear_of_valid hon rfl hgood hother)⟩
  · intro s hlow due u n v w
    have hrun : exec .callSilentCycle s = .next s.callSilent := run_of_running State.callSilent hlow
    rw [hrun]
    exact ⟨fun hnot => congrArg _ (State.callSilent_of_not_due hnot),
      fun hdue hnone => congrArg _ (State.callSilent_of_none hdue rfl rfl hnone),
      fun k hdue hsome => congrArg _ (State.callSilent_of_some hdue rfl rfl hsome)⟩
  · intro s slot hlow
    have hrun : exec (.callCollision slot) s = .next (s.callCollide slot) := run_of_running (fun s => s.callCollide slot) hlow
    rw [hrun]
    refine ⟨fun hnone => congrArg _ (State.callCollide_of_silent slot hnone), fun f hf => ?_⟩
    refine ⟨fun hother => congrArg _ (State.callCollide_of_other hf hother), fun hslot hend => ?_⟩
    intro u v off own w
    have hown := State.callCollide_of_own (v := v) hf hslot hend rfl
    refine ⟨fun hzero => ?_, fun hpos => ?_⟩
    · exact congrArg _ (hown.trans (if_pos hzero))
    · rw [hown, if_neg hpos]
      by_cases hfirst : slot.val < 32
      · simp only [if_pos hfirst, off]
      · simp only [if_neg hfirst, off]
  · intro s a h put
    rw [exec_beaconQueuePop h]
    refine ⟨fun hempty => by rw [State.popBeacon_of_empty a.m hempty], fun b rest hcons => ?_⟩
    intro u₀ u₁ u
    rw [State.popBeacon_of_cons a.m hcons]

end Sys2Proof.Machine
end

section
/-!
The roles of a pair (R348 to R350, R360, R361, R365): claims and their bursts, the Lead, swaps, and heartbeats.
-/
namespace Sys2Proof.Machine

/-! ### Bursts (R348, R349) -/

/-- What a rail instant of cgroup in the present TICK does before a burst. -/
def State.burstFrame (s : State) : State :=
  match s.cgNow with
  | some i => (s.settleFrame i).tryPromote
  | none => s

theorem exec_claimBurst {s u : State} {t : Nat} (cue : Fin 16) (hlow : s.low = false) (hu : s.burstFrame = u)
    (ht : s.cgNow.getD (u.now + cue) = t) : exec (.claimBurst cue) s = .next
      (if u.role ≠ roleSolo ∧ u.faulted = false ∧ (s.cgNow.isSome = true ∨ u.pair.burstWant = true) ∧ u.pair.burstEnd ≤ t then
        u.setPair { u.pair with burst := some (t, burstBits u.claim), burstEnd := t + burstLen, burstWant := false }
      else u) := by
  subst hu ht
  show execClaimBurst cue s = _
  rw [execClaimBurst, run_of_running _ hlow, State.sendBurst]
  simp only [Bool.not_eq_true']
  rfl

theorem State.hearBurst_of_claim {s : State} {b : BitVec 48} {c : W32} (h : burstClaim b = some c) : s.hearBurst b =
    ((s.setPair { s.pair with heard := some (s.now - burstLen), missed := 0, bad := 0 }).setTwinClaim c).hearClaim c := by
  rw [hearBurst, h]

theorem State.hearBurst_of_bad {s : State} {b : BitVec 48} (h : burstClaim b = none) : s.hearBurst b =
    let u := s.setPair { s.pair with heard := some (s.now - burstLen), missed := 0, bad := if s.pair.bad = 0 then 1 else 0 }
    if s.pair.bad = 0 then u else u.setTwinClaim 0 := by
  rw [hearBurst, h]

/-- The burst of instant i has been judged, or one was heard for it. -/
def State.burstJudged (s : State) (i : Nat) : Prop :=
  i = s.pair.missAt ∨ ∃ h, s.pair.heard = some h ∧ i ≤ h + cueUs + 16

section
variable {s : State} {i : Nat} (hi : s.grpPrev s.cgroup (s.now + 15 - (burstLen + cueUs)) = i)
include hi

theorem State.missBurst_of_judged (h : s.burstJudged i) : s.missBurst = s := by
  subst hi
  refine if_pos ?_
  obtain hat | ⟨t, ht, hcame⟩ := h
  · simp [← hat]
  · simp [ht, hcame]

theorem State.missBurst_of_missing (h : ¬s.burstJudged i) : s.missBurst =
    let u := s.setPair { s.pair with missAt := i, missed := if s.pair.missed = 0 then 1 else 0 }
    if s.pair.missed = 0 then u else u.setTwinClaim 0 := by
  subst hi
  refine if_neg fun hjudged => h ?_
  rcases Bool.or_eq_true_iff.1 hjudged with hat | hcame
  · exact .inl (beq_iff_eq.1 hat)
  · cases hheard : s.pair.heard with
    | none => rw [hheard] at hcame; exact absurd hcame Bool.false_ne_true
    | some t => rw [hheard] at hcame; exact .inr ⟨t, hheard, of_decide_eq_true hcame⟩

end

/-! ### The control register (R350, R365) -/

section
variable {s : State} {a : Acc} {w : W32} (h : Reaches s a) (hadm : Admitted s a pgPair .pair 0 0x110 w)
include h hadm

/-- A write of PAIR_CTL acts on what the store of the word leaves. -/
theorem State.pairCtl_admitted : (s.viaPath a (pgPair + 0x110) fun s => s.pairWrite a 0x110 w) =
    ((s.stored a pgPair .pair 0 0x110 w).pairHook 0x110 w).taken a := by
  obtain ⟨hok, heff⟩ := hadm
  simp only [State.viaPath_of_reaches _ _ h, State.pairWrite, hok, heff, if_true]

end

theorem State.pairHook_lead (s : State) : s.pairHook 0x110 1 = s.leadFrom := by
  have hlead : BitVec.getLsbD (1 : W32) 0 = true := by decide
  have hswap : BitVec.getLsbD (1 : W32) 1 = false := by decide
  have hrejoin : BitVec.getLsbD (1 : W32) 2 = false := by decide
  simp only [pairHook, hlead, hswap, hrejoin, Bool.false_eq_true, if_true, if_false, false_and]

theorem State.pairHook_swap (s : State) : s.pairHook 0x110 2 = s.swapAsk := by
  have hlead : BitVec.getLsbD (2 : W32) 0 = false := by decide
  have hswap : BitVec.getLsbD (2 : W32) 1 = true := by decide
  have hrejoin : BitVec.getLsbD (2 : W32) 2 = false := by decide
  simp only [pairHook, hlead, hswap, hrejoin, Bool.false_eq_true, if_true, if_false, false_and]

theorem State.pairHook_rejoin (s : State) : s.pairHook 0x110 4 =
    if s.role = roleYielded then { s.becomeForming with pathFailed := [] } else s := by
  have hlead : BitVec.getLsbD (4 : W32) 0 = false := by decide
  have hswap : BitVec.getLsbD (4 : W32) 1 = false := by decide
  have hrejoin : BitVec.getLsbD (4 : W32) 2 = true := by decide
  simp only [pairHook, hlead, hswap, hrejoin, Bool.false_eq_true, if_true, if_false, true_and]

theorem State.leadFrom_eq (s : State) :
    s.leadFrom = if s.role = roleForming ∧ s.held = true then s.becomeLead (epochNext s.pair.epoch) else s := rfl

theorem State.swapFits_iff (s : State) : s.swapFits = true ↔
    s.role = roleLead ∧ s.bit pgPair PAIR_STAT_twin_up = true ∧ s.pair.twinRole = roleUnderstudy ∧
      s.bit pgPair PAIR_STAT_div = false := by
  simp only [swapFits, Bool.and_eq_true, beq_iff_eq, Bool.not_eq_true', and_assoc]

section
variable {s : State} {a : Acc} (h : Reaches s a)
include h

theorem exec_leadNow (hadm : Admitted s a pgPair .pair 0 0x110 1) :
    exec (.leadNow a) s = .next ((s.stored a pgPair .pair 0 0x110 1).leadFrom.taken a) := by
  show execLeadNow a s = _
  rw [execLeadNow, run_of_running _ h.1, State.pairCtl_admitted h hadm, State.pairHook_lead]

theorem exec_pairRejoin (hadm : Admitted s a pgPair .pair 0 0x110 4) :
    let u := s.stored a pgPair .pair 0 0x110 4
    exec (.pairRejoin a) s = .next ((if u.role = roleYielded then { u.becomeForming with pathFailed := [] } else u).taken a) := by
  show execPairRejoin a s = _
  rw [execPairRejoin, run_of_running _ h.1, State.pairCtl_admitted h hadm, State.pairHook_rejoin]

theorem exec_pairSwapWrite (hadm : Admitted s a pgPair .pair 0 0x110 2) :
    exec (.pairSwapWrite a) s = .next ((s.stored a pgPair .pair 0 0x110 2).swapAsk.taken a) := by
  show execPairSwapWrite a s = _
  rw [execPairSwapWrite, run_of_running _ h.1, State.pairCtl_admitted h hadm, State.pairHook_swap]

end

theorem exec_prefLeadTimeout {s : State} (hlow : s.low = false) : exec .prefLeadTimeout s = .next
    (if s.lbit pgPair PAIR_CFG_pref = true ∧ s.pair.quietFrom + 31752000 < s.now + 16 then s.leadFrom else s) := by
  show execPrefLeadTimeout s = _
  rw [execPrefLeadTimeout, run_of_running _ hlow]

/-! ### The swap instant (R365) -/

theorem State.swapNow_of_none {s : State} (h : s.pair.swapAt = none) : s.swapNow = s := by rw [swapNow, h]

section
variable {s : State} {c : Nat} (hc : s.pair.swapAt = some c)
include hc

theorem State.swapNow_of_early (h : s.now + 16 ≤ nearInstant (s.grpNext s.cgroup) (s.uptOfCues c)) : s.swapNow = s := by
  rw [swapNow, hc]
  exact if_pos h

variable (hdue : nearInstant (s.grpNext s.cgroup) (s.uptOfCues c) < s.now + 16)
include hdue

theorem State.swapNow_of_understudy (hrole : s.role = roleUnderstudy) : s.swapNow =
    ((((s.setPair { s.pair with swapAt := none, swapTo := none }).becomeLead (epochNext (epochOf s.claim))).crewStart.setBit pgPair
      PAIR_STAT_swap_ok true).irq pgPair IRQ_pair_swap_done) := by
  have hother : s.role ≠ roleLead := by rw [hrole]; decide
  rw [swapNow, hc]
  exact (if_neg (Nat.not_le.2 hdue)).trans ((if_neg fun ⟨hlead, _⟩ => hother hlead).trans
    ((if_neg hother).trans (if_pos hrole)))

theorem State.swapNow_of_refused (hrole : s.role = roleLead) (h : s.swapFits = false) : s.swapNow = s.swapRefused := by
  rw [swapNow, hc]
  exact (if_neg (Nat.not_le.2 hdue)).trans (if_pos ⟨hrole, by rw [h]; rfl⟩)

theorem State.swapNow_of_lead (hrole : s.role = roleLead) (h : s.swapFits = true) : s.swapNow =
    let u := s.setPair { s.pair with swapAt := none, swapTo := none }
    let v := ((u.setClaim (claimOf 1 (epochNext (epochOf s.claim)))).setRole roleUnderstudy).crewSet 0
    ((v.setPair { v.pair with done := true, lastHb := v.now }).setBit pgPair PAIR_STAT_swap_ok true).irq pgPair
      IRQ_pair_swap_done := by
  rw [swapNow, hc]
  refine (if_neg (Nat.not_le.2 hdue)).trans ((if_neg ?_).trans (if_pos hrole))
  rw [h]
  simp

end

/-! ### Heartbeats (R360, R361) -/

theorem State.beat_of_none {s : State} (h : s.msInstant = none) : s.beat = s := by rw [beat, h]; rfl

theorem State.beat_of_some {s : State} {t : Nat} (h : s.msInstant = some t) : s.beat =
    if s.role ≠ roleSolo ∧ s.fltT = false ∧ s.pair.hbSent ≠ t then
      (s.setPair { s.pair with hbSent := t }).twinSend (s.beatMsg t)
    else s := by
  rw [beat, h]
  simp only [beatAt, Bool.not_eq_true']

theorem State.beatLost_eq (s : State) : s.beatLost =
    let u := s.setBit pgPair PAIR_STAT_twin_up false
    if s.bit pgPair PAIR_STAT_twin_up = true ∧ s.pair.lastHb + 31752000 < s.now + 16 then
      if u.role = roleLead then (u.bump pgPair PAIR_HB_MISS_n).irq pgPair IRQ_pair_twin_lost else u.takeover
    else s := rfl

/-! ### The statement -/

/-- Settles O43: a Lead refuses a swap whose conditions no longer hold (log entry 183); a burst is judged missing at the end it would
have had (log entries 126, 127 and 150). -/
theorem pairRoleCommandsComplete : Obligations.PairRoleCommandsComplete := by
  refine ⟨?_, ?_, ?_, ?_, ?_, ?_, ?_, ?_, ?_, ?_⟩
  · intro s cue hlow u t sends
    rw [exec_claimBurst (u := u) cue hlow rfl rfl]
    exact ⟨fun hsends => congrArg _ (if_pos hsends), fun hnot => congrArg _ (if_neg hnot)⟩
  · intro s b hlow v
    have hrun : exec (.claimBurstReceived b) s = .next (s.hearBurst b) := run_of_running (fun s => s.hearBurst b) hlow
    rw [hrun]
    refine ⟨fun c hgood => congrArg _ (State.hearBurst_of_claim hgood), fun hbad hfirst => ?_, fun hbad hsecond => ?_⟩
    · rw [State.hearBurst_of_bad hbad]
      simp only [if_pos hfirst]
      rfl
    · rw [State.hearBurst_of_bad hbad]
      simp only [if_neg hsecond]
      rfl
  · intro s hlow i judged
    have hrun : exec .claimBurstMissing s = .next s.missBurst := run_of_running State.missBurst hlow
    rw [hrun]
    refine ⟨fun hjudged => congrArg _ (State.missBurst_of_judged rfl hjudged), fun hnot hfirst => ?_, fun hnot hsecond => ?_⟩
    · rw [State.missBurst_of_missing (i := i) rfl hnot]
      simp only [if_pos hfirst]
    · rw [State.missBurst_of_missing (i := i) rfl hnot]
      simp only [if_neg hsecond]
  · intro s hlow due
    rw [exec_prefLeadTimeout hlow, State.leadFrom_eq]
    refine ⟨fun ⟨hpref, hquiet, hforming, hheld⟩ => ?_, fun hnot => ?_⟩
    · rw [if_pos ⟨hpref, hquiet⟩, if_pos ⟨hforming, hheld⟩]
    · split
      case isTrue hquiet => exact congrArg _ (if_neg fun hforming => hnot ⟨hquiet.1, hquiet.2, hforming⟩)
      case isFalse => rfl
  · intro s a h hadm u may
    rw [exec_leadNow h hadm, State.leadFrom_eq]
    exact ⟨fun hmay => by rw [if_pos hmay], fun hnot => by rw [if_neg hnot]⟩
  · intro s a h hadm u
    exact exec_pairRejoin h hadm
  · intro s a h hadm u may no x
    rw [exec_pairSwapWrite h hadm]
    refine ⟨fun hmay => congrArg (fun v : State => Host.Outcome.next (v.taken a)) ?_,
      fun hnot => congrArg (fun v : State => Host.Outcome.next (v.taken a)) ?_⟩
    · exact if_pos (u.swapFits_iff.2 hmay)
    · exact if_neg fun hfits => hnot (u.swapFits_iff.1 hfits)
  · intro s hlow
    have hrun : exec .swapInstant s = .next s.swapNow := run_of_running State.swapNow hlow
    rw [hrun]
    refine ⟨fun hnone => congrArg _ (State.swapNow_of_none hnone), fun c hc => ?_⟩
    intro W e u fin
    exact ⟨fun hearly => congrArg _ (State.swapNow_of_early hc hearly),
      fun hdue hrole => congrArg _ (State.swapNow_of_understudy hc hdue hrole),
      fun hdue hrole hno => congrArg _ (State.swapNow_of_refused hc hdue hrole hno),
      fun hdue hrole hfits => congrArg _ (State.swapNow_of_lead hc hdue hrole hfits)⟩
  · intro s hlow
    have hrun : exec .heartbeatSend s = .next s.beat := run_of_running State.beat hlow
    rw [hrun]
    refine ⟨fun hnone => congrArg _ (State.beat_of_none hnone), fun t ht => ?_⟩
    intro sends
    rw [State.beat_of_some ht]
    exact ⟨fun hsends => congrArg _ (if_pos hsends), fun hnot => congrArg _ (if_neg hnot)⟩
  · intro s hlow due u
    have hrun : exec .heartbeatTimeout s = .next s.beatLost := run_of_running State.beatLost hlow
    rw [hrun, State.beatLost_eq]
    exact ⟨fun hnot => congrArg _ (if_neg hnot), fun hdue hlead => congrArg _ ((if_pos hdue).trans (if_pos hlead)),
      fun hdue hother => congrArg _ ((if_pos hdue).trans (if_neg hother))⟩

end Sys2Proof.Machine
end

section
/-!
The Twin Link (R353, R354, R359, R364 to R369): messages, signatures and path checks, the link and its lanes, snapshots, and the
transfer.
-/
namespace Sys2Proof.Machine

/-! ### Messages (R354) -/

/-- The message taken is the next in sequence. -/
def State.twinNext (s : State) : State :=
  (s.setBit pgTwin TWN_STAT_replay false).setPair { s.pair with rxSeq := (s.pair.rxSeq + 1) % 2 ^ 32, asked := false }

theorem State.onMessage_eq (s : State) (seq : Nat) (ok : Bool) (f : State → State) : s.onMessage seq ok f =
    if s.twinUp = false then s
    else if ok = false then (s.bump pgTwin TWN_CRC_ERR_n).askAgain
    else if seq % 2 ^ 32 = s.pair.rxSeq then f s.twinNext
    else if s.pair.asked then s
    else s.askAgain := by
  simp only [onMessage, twinTake, Bool.not_eq_true']
  by_cases hup : s.twinUp = false
  · simp only [if_pos hup, Bool.false_eq_true, if_false]
  by_cases hok : ok = false
  · simp only [if_neg hup, if_pos hok, Bool.false_eq_true, if_false]
  by_cases hseq : seq % 2 ^ 32 = s.pair.rxSeq
  · simp only [if_neg hup, if_neg hok, if_pos hseq, if_true, twinNext]
  by_cases hasked : s.pair.asked = true
  · simp only [if_neg hup, if_neg hok, if_neg hseq, if_pos hasked, Bool.false_eq_true, if_false]
  · simp only [if_neg hup, if_neg hok, if_neg hseq, if_neg hasked, Bool.false_eq_true, if_false]

/-- Settles O44: a receiver asks for a retransmission once and then waits (log entry 98). -/
theorem twinMessagesComplete : Obligations.TwinMessagesComplete := by
  intro s seq ok hlow next_ ask takes
  have htakes : ∀ f, s.onMessage seq ok f = takes f := fun f => s.onMessage_eq seq ok f
  have hrun : ∀ f, (run s fun s => s.onMessage seq ok f) = .next (takes f) := fun f => by rw [run_of_running _ hlow, htakes]
  refine ⟨fun ago h => ?_, fun claim at_ d => ?_, fun frame sigs => ?_, fun dest frame pass diff => ?_,
    fun items => ⟨?_, fun l => ?_⟩, fun off data => ?_, fun first => ?_⟩
  · show execHeartbeatReceived seq ok ago h s = _
    exact hrun _
  · show execJournalReceived seq ok claim at_ d s = _
    rw [execJournalReceived, runRails_of_running _ hlow, htakes]
  · show execSignaturesReceived seq ok frame sigs s = _
    exact hrun _
  · show execPathCheckResultReceived seq ok dest frame pass diff s = _
    exact hrun _
  · show execStateTransferReceived seq ok items none s = _
    exact hrun _
  · show execStateTransferReceived seq ok items (some l) s = _
    exact hrun _
  · show execSnapshotDataReceived seq ok off data s = _
    exact hrun _
  · show execRetransmitRequestReceived seq ok first s = _
    exact hrun _

/-! ### Signatures (R366, R367) -/

section
variable {s : State} {d : Nat} (samples audio : List Nat)

theorem State.ownSignature_of_none (h : s.destEnd d = none ∨ s.role = roleSolo) : s.ownSignature d samples audio = s := by
  rw [ownSignature]
  cases hend : s.destEnd d with
  | none => rfl
  | some e => exact if_pos (.inl (h.resolve_left (by rw [hend]; exact Option.some_ne_none e)))

variable {u : State} {start T n : Nat} (hend : s.destEnd d = some (start, T)) (hpair : s.role ≠ roleSolo)
  (hn : s.frameNo start T = n) (hnew : (s.sigRun d).last ≠ some n) (hsign : s.signless d = false)
  (hu : s.twinSend (.signatures n [(d, signatureOf samples audio)]) = u)
include hend hpair hn hnew hsign hu

theorem State.ownSignature_of_frame : s.ownSignature d samples audio =
    match (u.sigWait d n).bind (·.twin) with
    | some t => (u.sigDrop d n).compared d n start (some (signatureOf samples audio) != some t)
    | none => u.sigAdd ⟨d, n, start + 3 * T, some (some (signatureOf samples audio)), none⟩ := by
  subst hn hu
  have hgoes : ¬(s.role = roleSolo ∨ (s.sigRun d).last = some (s.frameNo start T)) := not_or.2 ⟨hpair, hnew⟩
  rw [ownSignature, hend]
  simp only [if_neg hgoes, hsign, Bool.false_eq_true, if_false] <;> rfl

theorem State.ownSignature_of_twin {x : SigWait} {t : W32} (hwait : u.sigWait d n = some x)
    (htwin : x.twin = some t) : s.ownSignature d samples audio =
      (u.sigDrop d n).compared d n start (some (signatureOf samples audio) != some t) := by
  rw [ownSignature_of_frame samples audio hend hpair hn hnew hsign hu, hwait, Option.bind_some, htwin]

theorem State.ownSignature_of_no_wait (hwait : u.sigWait d n = none) : s.ownSignature d samples audio =
    u.sigAdd ⟨d, n, start + 3 * T, some (some (signatureOf samples audio)), none⟩ := by
  rw [ownSignature_of_frame samples audio hend hpair hn hnew hsign hu, hwait, Option.bind_none]

end
theorem State.overdue_of_none {s : State} {d : Nat}
    (h : s.pair.sigs.find? (fun w => w.dest == d && w.own.isSome && w.due < s.now + 16) = none) : s.overdue d = s := by
  rw [overdue, h]

theorem State.overdue_of_some {s : State} {d : Nat} {w : SigWait}
    (h : s.pair.sigs.find? (fun w => w.dest == d && w.own.isSome && w.due < s.now + 16) = some w) : s.overdue d =
      (s.sigDrop d w.frame).compared d w.frame (w.due - 3 * perOf (s.grpRate (s.tapGroup d))) (w.own != some none) := by
  rw [overdue, h]

/-! ### Path checks (R368, R369) -/

theorem State.checkDone_of_none {s : State} {d : Nat} (differs diff : Bool)
    (h : s.pair.checks.find? (fun c => c.dest == d && c.own.isNone) = none) : s.checkDone d differs diff = s := by
  rw [checkDone, h]

/-- The own path check of a destination is over, and its result is sent. -/
def State.checkSent (s : State) (d frame : Nat) (pass diff : Bool) : State :=
  let u := if pass then s else { s with pathFailed := if s.pathFailed.contains d then s.pathFailed else d :: s.pathFailed }
  u.twinSend (.pathResult d frame pass diff)

section
variable {s : State} {d : Nat} {c : PathCheck} (differs diff : Bool)
  (hc : s.pair.checks.find? (fun c => c.dest == d && c.own.isNone) = some c)
include hc

theorem State.checkDone_of_early (h : s.now + 16 ≤ c.due) : s.checkDone d differs diff = s := by
  rw [checkDone, hc]
  exact if_neg (Nat.not_lt.2 h)

variable {v : State} {pass : Bool} (hpass : (!differs && !s.pathErred d) = pass) (hv : s.checkSent d c.frame pass diff = v)
  (hdue : c.due < s.now + 16)
include hpass hv hdue

theorem State.checkDone_of_due : s.checkDone d differs diff =
    match c.twin with
    | some t => v.checkOutcome d (pass, diff) t
    | none =>
      let due := v.grpNext (v.tapGroup d) (v.now + 1) + perOf (v.grpRate (v.tapGroup d))
      v.setPair { v.pair with checks := v.pair.checks.map (fun x =>
        if x.dest == d then { x with own := some (pass, diff), due := due } else x) } := by
  subst hpass hv
  rw [checkDone, hc]
  exact if_pos hdue

theorem State.checkDone_of_twin {t : Bool × Bool} (h : c.twin = some t) :
    s.checkDone d differs diff = v.checkOutcome d (pass, diff) t := by
  rw [checkDone_of_due differs diff hc hpass hv hdue, h]

theorem State.checkDone_of_no_twin (h : c.twin = none) : s.checkDone d differs diff =
    let due := v.grpNext (v.tapGroup d) (v.now + 1) + perOf (v.grpRate (v.tapGroup d))
    v.setPair { v.pair with checks := v.pair.checks.map (fun x =>
      if x.dest == d then { x with own := some (pass, diff), due := due } else x) } := by
  rw [checkDone_of_due differs diff hc hpass hv hdue, h]

end

theorem State.checkTimeout_of_none {s : State} {d : Nat} (h : s.pair.checks.find? (fun c => c.dest == d) = none) :
    s.checkTimeout d = s := by rw [checkTimeout, h]

theorem State.checkTimeout_of_waiting {s : State} {d : Nat} {c : PathCheck} {o : Bool × Bool}
    (h : s.pair.checks.find? (fun c => c.dest == d) = some c) (hown : c.own = some o) (htwin : c.twin = none) :
    s.checkTimeout d = if c.due < s.now + 16 then s.checkOutcome d o (true, false) else s := by
  obtain ⟨dest, frame, own, twin, due⟩ := c
  subst hown htwin
  rw [checkTimeout, h]

/-- Settles O45. -/
theorem signaturesAndPathChecksComplete : Obligations.SignaturesAndPathChecksComplete := by
  refine ⟨?_, ?_, ?_, ?_⟩
  · intro s d samples audio hlow
    have hrun : exec (.frameSignature d samples audio) s = .next (s.ownSignature d samples audio) :=
      run_of_running (fun s => s.ownSignature d samples audio) hlow
    rw [hrun]
    refine ⟨fun hnone => congrArg _ (State.ownSignature_of_none samples audio hnone), fun start T hend hpair hnew hsign => ?_⟩
    intro n w u
    exact ⟨fun x t hwait htwin =>
        congrArg _ (State.ownSignature_of_twin samples audio hend hpair rfl hnew hsign rfl hwait htwin),
      fun hwait => congrArg _ (State.ownSignature_of_no_wait samples audio hend hpair rfl hnew hsign rfl hwait)⟩
  · intro s d hlow late
    have hrun : exec (.signatureDeadline d) s = .next (s.overdue d) := run_of_running (fun s => s.overdue d) hlow
    rw [hrun]
    exact ⟨fun hnone => congrArg _ (State.overdue_of_none hnone), fun w hsome => congrArg _ (State.overdue_of_some hsome)⟩
  · intro s d differs diff hlow c?
    have hrun : exec (.pathCheckDone d differs diff) s = .next (s.checkDone d differs diff) :=
      run_of_running (fun s => s.checkDone d differs diff) hlow
    rw [hrun]
    refine ⟨fun hnone => congrArg _ (State.checkDone_of_none differs diff hnone), fun c hc => ?_⟩
    intro pass u v due
    exact ⟨fun hearly => congrArg _ (State.checkDone_of_early differs diff hc hearly),
      fun t hdue htwin => congrArg _ (State.checkDone_of_twin differs diff hc rfl rfl hdue htwin),
      fun hdue hno => congrArg _ (State.checkDone_of_no_twin differs diff hc rfl rfl hdue hno)⟩
  · intro s d hlow c?
    have hrun : exec (.pathCheckResultTimeout d) s = .next (s.checkTimeout d) := run_of_running (fun s => s.checkTimeout d) hlow
    rw [hrun]
    refine ⟨fun hnone => congrArg _ (State.checkTimeout_of_none hnone), fun c o hc hown htwin => ?_⟩
    rw [State.checkTimeout_of_waiting hc hown htwin]
    exact ⟨fun hdue => congrArg _ (if_pos hdue), fun hearly => congrArg _ (if_neg (Nat.not_lt.2 hearly))⟩

/-! ### Lanes and the link (R353, R354, R491) -/

/-- The width that the failure of lane n leaves of width w, with ok the lanes that are then good. -/
def widthAfter (w ok n : Nat) : Nat := if w = 3 then widthOf ok else if (w = 1 ∧ n < 4) ∨ (w = 2 ∧ 4 ≤ n) then 0 else w

section
variable {s : State} {n ok : Nat} (hok : s.fld pgTwin TWN_STAT_lane_ok = ok)
include hok

theorem State.laneFail_of_bad (h : ok.testBit n = false) : s.laneFail n = s := by
  subst hok
  exact if_neg (Bool.eq_false_iff.1 h)

theorem State.laneFail_of_good {w w' : Nat} (h : ok.testBit n = true) (hw : s.fld pgTwin TWN_STAT_width = w)
    (hw' : widthAfter w (ok - 2 ^ n) n = w') : s.laneFail n =
      let u := (s.setFld pgTwin TWN_STAT_lane_ok (ok - 2 ^ n)).bump pgTwin TWN_LANE_FAIL_n
      if w' = w then u else if w' = 0 then u.twinDown else (u.setFld pgTwin TWN_STAT_width w').irq pgTwin IRQ_twin_width := by
  subst hok hw hw'
  exact if_pos h

end

theorem State.linkRise_of_idle {s : State} {lanes : Nat} (h : s.twinUp = true ∨ widthOf lanes = 0) : s.linkRise lanes = s :=
  if_pos h

theorem State.linkRise_of_down {s : State} {lanes : Nat} (hdown : s.twinUp = false) (hwidth : widthOf lanes ≠ 0) :
    s.linkRise lanes =
      let u := (s.setFld pgTwin TWN_STAT_width (widthOf lanes)).setFld pgTwin TWN_STAT_lane_ok lanes
      let v := ({ u with twinOut := [], twinSeq := 0 }.setBit pgTwin TWN_STAT_replay false).irq pgTwin IRQ_twin_link_up
      (v.setPair { v.pair with rxSeq := 0, asked := false, replayed := [], xferSent := false }).sendVersions :=
  if_neg (not_or.2 ⟨Bool.eq_false_iff.1 hdown, hwidth⟩)

/-! ### Snapshots (R364, R365) -/

/-- A snapshot copy starts: on a Lead with none under way, once its period is over or for a swap. -/
def State.snapStarts (s : State) : Prop :=
  s.role = roleLead ∧ s.pair.snapBusy = none ∧ (s.pair.snapFrom + s.lv pgTwin TWN_SNAP_PER_s * cueSec < s.now + 16 ∨
    s.pair.swapTo.isSome = true ∧ s.pair.snapFrom < s.pair.swapFrom)

theorem State.snapStart_of_not_starts {s : State} (h : ¬s.snapStarts) : s.snapStart = s := by
  simp only [snapStart, Option.isNone_iff_eq_none]
  exact if_neg h

theorem State.snapStart_of_starts {s u : State} {r : State × List Byte} {words : List (BitVec 64)} (h : s.snapStarts)
    (hr : s.engineRead twinMaster (s.lv64 pgTwin TWN_SNAP_SRC_lo TWN_SNAP_SRC_hi) s.snapLen = r) (hwords : wordsOf r.2 = words)
    (hu : r.1.setPair { s.pair with snapFrom := s.now, snapBusy := some s.tod.total, snapCrc := crc32c r.2 } = u) :
    s.snapStart = u.sendData (u.bankAt (s.pair.snapSeq + 1) + 128) (pieces 30 words.length words) := by
  simp only [snapStart, Option.isNone_iff_eq_none, hr, hwords, hu]
  exact if_pos h

/-- A snapshot copy is complete: its header is sent, and it shows (R364). -/
def State.snapSent (s : State) (t : Nat) : State :=
  let u := s.sendData (s.bankAt (s.pair.snapSeq + 1)) [s.snapHeader (s.pair.snapSeq + 1) t]
  (u.setPair { u.pair with snapSeq := s.pair.snapSeq + 1, snapBusy := none }).snapShow (s.pair.snapSeq + 1)

theorem State.snapEnd_of_none {s : State} (h : s.pair.snapBusy = none) : s.snapEnd = s := by rw [snapEnd, h]

section
variable {s v : State} {t : Nat} (ht : s.pair.snapBusy = some t) (hv : s.snapSent t = v)
include ht hv

theorem State.snapEnd_of_some : s.snapEnd =
    match v.pair.swapTo with
    | some x =>
      if v.pair.swapFrom ≤ v.pair.snapFrom then
        if v.swapFits then
          (v.setPair { v.pair with swapTo := none, swapAt := some (v.todCuesAt (v.swapInstant x)) }).journal (v.swapInstant x) .swap
        else v.swapRefused
      else v
    | none => v := by
  subst hv
  rw [snapEnd, ht]
  rfl

theorem State.snapEnd_of_no_swap (h : v.pair.swapTo = none) : s.snapEnd = v := by rw [snapEnd_of_some ht hv, h]

theorem State.snapEnd_of_swap {x : Nat} (h : v.pair.swapTo = some x) : s.snapEnd =
    if v.pair.swapFrom ≤ v.pair.snapFrom then
      if v.swapFits then
        (v.setPair { v.pair with swapTo := none, swapAt := some (v.todCuesAt (v.swapInstant x)) }).journal (v.swapInstant x) .swap
      else v.swapRefused
    else v := by rw [snapEnd_of_some ht hv, h]

end

/-! ### The journal and the transfer (R355, R359) -/

theorem State.applyDue_of_idle {s : State} (bad : Bool) (h : s.nextDue = none ∨ s.applying = false) : s.applyDue bad = s := by
  rw [applyDue]
  cases hdue : s.nextDue with
  | none => rfl
  | some e => exact if_neg (Bool.eq_false_iff.1 (h.resolve_left (by rw [hdue]; exact Option.some_ne_none e)))

theorem State.applyDue_of_due {s : State} {e : Due} (bad : Bool) (h : s.nextDue = some e) (happ : s.applying = true) :
    s.applyDue bad = ({ s with journalIn := s.journalIn.erase e }).leadDecision e.upt e.d bad := by
  rw [applyDue, h]
  exact if_pos happ

/-- The transferred state is in place, and the transfer is done (R359). -/
def State.cutPlaced (s : State) (C : Nat) : State :=
  let l := s.pair.items
  let u := (((s.cutCopy l C).cutPit l).cutUnits l C).cutTurntable l
  let v := { u with journalIn := u.journalIn.filter (fun e => C ≤ e.upt) }
  v.setPair { v.pair with done := true, items := [], cutAt := none, writes := [] }

theorem State.cut_of_none {s : State} (h : s.pair.cutAt = none) : s.cut = s := by rw [cut, h]

theorem State.cut_of_some {s : State} {C : Nat} (h : s.pair.cutAt = some C) : s.cut =
    if C < s.now + 16 ∧ s.role = roleJoining ∧ s.pair.done = false then
      (s.pair.writes.foldl (fun x d => x.leadPages 0 d) (s.cutPlaced C)).tryPromote
    else s := by
  rw [cut, h]
  simp only [Bool.not_eq_true']
  rfl

theorem State.cut_of_idle {s : State} (h : s.pair.cutAt = none ∨ s.role ≠ roleJoining ∨ s.pair.done = true) : s.cut = s := by
  cases hat : s.pair.cutAt with
  | none => exact cut_of_none hat
  | some C =>
    refine (cut_of_some hat).trans (if_neg fun ⟨_, hjoin, hopen⟩ => ?_)
    obtain hnone | hrole | hdone := h
    · exact Option.some_ne_none C (hat.symm.trans hnone)
    · exact hrole hjoin
    · exact Bool.false_ne_true (hopen.symm.trans hdone)

/-- Settles O46. -/
theorem twinLinkAndTransferComplete : Obligations.TwinLinkAndTransferComplete := by
  refine ⟨?_, ?_, ?_, ?_, ?_, ?_⟩
  · intro s n hlow ok w ok' w' u
    have hrun : exec (.twinLaneFail n) s = .next (s.laneFail n) := run_of_running (fun s => s.laneFail n) hlow
    rw [hrun]
    exact ⟨fun hbad => congrArg _ (State.laneFail_of_bad rfl hbad),
      fun hgood => congrArg _ (State.laneFail_of_good (ok := ok) (w := w) (w' := w') rfl hgood rfl rfl)⟩
  · intro s lanes hlow u v
    have hrun : exec (.twinLinkUp lanes) s = .next (s.linkRise lanes.toNat) := run_of_running (fun s => s.linkRise lanes.toNat) hlow
    rw [hrun]
    exact ⟨fun hidle => congrArg _ (State.linkRise_of_idle hidle),
      fun hdown hwidth => congrArg _ (State.linkRise_of_down hdown hwidth)⟩
  · intro s hlow v starts r words u
    have hrun : exec .snapshotCopy s = .next s.snapStart := run_of_running State.snapStart hlow
    rw [hrun]
    exact ⟨fun hnot => congrArg _ (State.snapStart_of_not_starts hnot),
      fun hstarts => congrArg _ (State.snapStart_of_starts (r := r) (words := words) (u := u) hstarts rfl rfl rfl)⟩
  · intro s hlow
    have hrun : exec .snapshotCopyDone s = .next s.snapEnd := run_of_running State.snapEnd hlow
    rw [hrun]
    refine ⟨fun hnone => congrArg _ (State.snapEnd_of_none hnone), fun t ht => ?_⟩
    intro seq u v
    refine ⟨fun hno => congrArg _ (State.snapEnd_of_no_swap (v := v) ht rfl hno), fun x hx => ?_⟩
    intro W no
    rw [State.snapEnd_of_swap (v := v) ht rfl hx]
    exact ⟨fun hold => congrArg _ (if_neg (Nat.not_le.2 hold)),
      fun hfor hfits => congrArg _ ((if_pos hfor).trans (if_pos hfits)),
      fun hfor hno => congrArg _ ((if_pos hfor).trans (if_neg (Bool.eq_false_iff.1 hno)))⟩
  · intro s bad hlow
    have hrun : exec (.journalApply bad) s = .next (s.applyDue bad).watch := runRails_of_running (fun s => s.applyDue bad) hlow
    rw [hrun]
    exact ⟨fun hidle => by rw [State.applyDue_of_idle bad hidle], fun e hdue happ => by rw [State.applyDue_of_due bad hdue happ]⟩
  · intro s hlow
    have hrun : exec .stateTransferCut s = .next s.cut.watch := runRails_of_running State.cut hlow
    rw [hrun]
    refine ⟨fun hidle => by rw [State.cut_of_idle hidle], fun C hC => ?_⟩
    rw [State.cut_of_some hC]
    refine ⟨fun hearly => by rw [if_neg fun ⟨hdue, _⟩ => Nat.not_lt.2 hearly hdue], fun hdue hjoin hopen => ?_⟩
    rw [if_pos ⟨hdue, hjoin, hopen⟩]
    rfl

end Sys2Proof.Machine
end
